-- ==== Sys2Proof/Word.lean ====
section
/-!
DEFINITION. The word types of the EVX-6480 and their plainest arithmetic: 32-bit registers, bytes, and the signed
reading of an unsigned number.
-/
set_option Elab.async false
set_option linter.all false
namespace Sys2Proof

/-- A register of the register map (R5): 32 bits. -/
abbrev Word := BitVec 32

/-- A byte of device memory, of the MRAM or of a mailbox. -/
abbrev Byte := BitVec 8

/-- The two's-complement reading of the low `w` bits of `x`. -/
def signed (w x : Nat) : Int :=
  if 2 * (x % 2 ^ w) < 2 ^ w then (x % 2 ^ w : Nat) else (x % 2 ^ w : Nat) - (2 ^ w : Nat)

/-- The `w`-bit two's-complement pattern of an integer. -/
def unsigned (w : Nat) (x : Int) : Nat := (x % (2 ^ w : Nat)).toNat

/-- `x` brought into the closed range from `lo` to `hi`. -/
def clampNat (lo hi x : Nat) : Nat := if x < lo then lo else if hi < x then hi else x

/-- `x` brought into the closed range from `lo` to `hi`. -/
def clampInt (lo hi x : Int) : Int := if x < lo then lo else if hi < x then hi else x

/-- Division rounded to the nearest, halves away from zero. -/
def divRound (a : Int) (b : Nat) : Int :=
  if b = 0 then 0 else if 0 ≤ a then (2 * a + b) / (2 * b) else -((2 * (-a) + b) / (2 * b))

end Sys2Proof
end

