-- ==== Sys2Proof/Syntax.lean ====
section
/-!
DEFINITION. The commands the block takes: one constructor for each row of the spec's table of operations and events,
with the row's operands. Data that reaches the device from outside (pin levels, packets, frames, temperatures,
completions) are operands; data that the device keeps itself is read from the state.
-/
set_option Elab.async false
namespace Sys2Proof

/-- Who makes an access (R741, R743): function 0, function 1 (its windows and its indirect port) or Skep. -/
inductive Who where
  | fn0
  | fn1
  | skep
deriving DecidableEq, Repr

/-- What breaks the port's access rules (R597): a memory request to BAR 0 or BAR 4, an AtomicOp, an I/O request, a Vendor-defined message of Type 0
or 1, or another message that an endpoint need not accept. -/
inductive BadTlp where
  | memory
  | atomicOp
  | io
  | vendor0
  | vendor1
  | message
deriving DecidableEq, Repr

/-- Errors that the port detects by itself (R613). -/
inductive PcieError where
  | receiver
  | badTlp
  | badDllp
  | replayTimeout
  | replayRollover
  | correctedInternal
  | headerOverflow
  | dlProtocol
  | flowControl
  | overflow
  | malformed
  | ecrc
  | internal
deriving DecidableEq, Repr

/-- What happens to the PCI Express link (R580, R613): it comes up with a rate, a width and Flit Mode, it goes down, or the port detects an
error of function `f`'s. -/
inductive PcieEvent where
  | up (rate width : Nat) (flit : Bool)
  | down
  | error (f : Fin 2) (e : PcieError)
deriving DecidableEq, Repr

/-- The three inputs of an encoder channel (R34). -/
inductive EncPin where
  | a
  | b
  | z
deriving DecidableEq, Repr

/-- The view registers that VIEW_CFG_WRITE names (R105). -/
inductive ViewReg where
  | bind
  | scale
  | offsetLo
  | offsetHi
deriving DecidableEq, Repr

/-- The channel registers that CH_CFG_WRITE names (R120). -/
inductive ChReg where
  | cfg
  | guard
  | guardWin
deriving DecidableEq, Repr

/-- The clients of the position engine (R101). -/
inductive Client where
  | jobs
  | compare
  | ling
  | creel
  | skep
  | port (p : Fin 8)
deriving DecidableEq, Repr

/-- An Ethernet frame as a port receives it (R138, R139): addresses with the first byte on the wire in the low bits, the
number of 802.1Q tags, the EtherType, the length in bytes, whether the FCS is good, and the bytes after the EtherType; the
station time in ps at which its start-of-frame delimiter passed the PCS (R153), and the uncorrectable FEC codewords that the port has
met since the frame before (R174). -/
structure EthFrame where
  da : Nat
  sa : Nat
  tags : Nat
  etherType : Nat
  length : Nat
  fcsOk : Bool
  body : List Byte
  sfd : Int := 0
  uncorr : Nat := 0
deriving DecidableEq, Repr

/-- Who asks a side of a lane for a power state (R211): a write of LANE_CTRL, or the link layer, for the transmitter or the receiver and by the
state's code. -/
inductive PwrAsk where
  | write (who : Who) (v : Word)
  | link (tx : Bool) (state : Fin 3)
deriving DecidableEq, Repr

/-- A PMBus rail's answers in one poll (R690): VOUT_MODE, READ_POUT, READ_VOUT and READ_IOUT, each the data bytes and the PEC, and empty where the
rail does not answer. -/
structure RailReply where
  mode : List Byte := []
  pout : List Byte := []
  vout : List Byte := []
  iout : List Byte := []
deriving DecidableEq, Repr

/-- A transaction of the SMBus sideband that carries no block (R650): the Write Word of the offset, or the Send Byte RING. -/
inductive SmbCmd where
  | offset (v : BitVec 16)
  | ring
deriving DecidableEq, Repr

/-- A received Announce message (R151). -/
structure Announce where
  version : Nat
  /-- minorVersionPTP. -/
  minor : Nat := 1
  domain : Nat
  gmId : Nat
  priority1 : Nat
  clockClass : Nat
  accuracy : Nat
  variance : Nat
  priority2 : Nat
  steps : Nat
  /-- sourcePortIdentity. -/
  parent : Nat
  logSync : Int
  logAnnounce : Int
  logMinDelayReq : Int
deriving DecidableEq, Repr

/-- An error that a read of device memory meets (R380, R381): the 32-byte unit, and whether it is uncorrectable. -/
structure MemErr where
  unit : Nat
  ue : Bool
deriving DecidableEq, Repr

/-- The quad-SPI flash as the patch stage finds it (R666, R724): its JEDEC ID, whether it stays busy or too slow, and what stands at the
places of copies A and B. -/
structure Flash where
  id : Nat
  slow : Bool
  a : List Byte
  b : List Byte
deriving DecidableEq, Repr

/-- The commands of the block: one constructor for each row of the table of operations and events. -/
inductive Instr where
  /-- REGISTER_WRITE (R5). A host or Skep write to a register that has no row of its own sets its RW fields, clears W1C bits or sets W1S bits. -/
  | registerWrite (who : Who) (addr : Nat) (v : Word) (more : List Word)
  /-- RC_COUNTER_READ (R7). A read of an RC counter returns its value and clears it, ending at 1 if hardware increments it in the same clock. -/
  | rcCounterRead (who : Who) (addr : Nat) (coincident : Bool)
  /-- LO_CAPTURE_READ (R53). A read of a LO register captures the HI half of the same value for a later read. -/
  | loCaptureRead (who : Who) (addr : Nat) (words : Nat)
  /-- ENC_CTRL_WRITE (R40). A write of ENC_CTRL applies its fields; MODE and INVERT change only from the disabled state, and reserved MODE or INDEX_MODE values are refused with CFG_REJ. -/
  | encCtrlWrite (who : Who) (n : Fin 8) (v : Word)
  /-- INDEX_ARM (R45). A write of INDEX_ARM arms the channel for one latch in ONCE_ARMED mode. -/
  | indexArm (who : Who) (n : Fin 8)
  /-- SPEED_WINDOW_WRITE (R48). A write of SPEED_WINDOW clamps the value, discards the window in progress and starts a new one. -/
  | speedWindowWrite (who : Who) (n : Fin 8) (v : Word)
  /-- ENC_INPUT_CHANGE (R34). A level change on an encoder A, B or Z pin enters the synchroniser and starts or restarts the glitch filter hold count. -/
  | encInputChange (n : Fin 8) (pin : EncPin) (level : Bool)
  /-- FILTER_ACCEPT (R34). The glitch filter hold count expires and the new input level is accepted and counted under the channel's MODE. -/
  | filterAccept (n : Fin 8) (a : Bool) (b : Bool) (z : Bool)
  /-- SPEED_WINDOW_END (R48). A speed window expires and its net count and edge count are stored in SPEED and EDGES. -/
  | speedWindowEnd (n : Fin 8)
  /-- LAST_INTERVAL_SATURATE (R49). LAST_INTERVAL reaches 0xFF_FFFF without a counted edge and holds there, suspending LAST interpolation. -/
  | lastIntervalSaturate (n : Fin 8)
  /-- SSI_CTRL_WRITE (R58). A write of SSI_CTRL applies its fields, or is ignored whole with CFG_ERR when ERR_BIT_EN would be set with no trailing bit. -/
  | ssiCtrlWrite (who : Who) (m : Fin 4) (v : Word)
  /-- SSI_READ_DUE (R59). The periodic SSI_CYCLE timer expires and a read falls due. -/
  | ssiReadDue (m : Fin 4)
  /-- SSI_READ_START (R55). An SSI read begins with a falling clock edge once it is due and the monoflop time has ended. -/
  | ssiReadStart (m : Fin 4) (dataHigh : Bool)
  /-- SSI_READ_DONE (R60). An SSI read completes and its value is converted and added to SSI_COUNT. -/
  | ssiReadDone (m : Fin 4) (bits : Nat)
  /-- SW_INPUT_CHANGE (R65). A switch input's pin changes level; under LOCKOUT the first change is accepted at once, under INTEGRATE the debounce time starts. -/
  | swInputChange (k : Fin 32) (level : Bool)
  /-- DEBOUNCE_EXPIRE (R65). The debounce time of a switch input ends and the level then present is accepted if it differs. -/
  | debounceExpire (k : Fin 32)
  /-- SW_CTRL_WRITE (R64). A write of SW_CTRL enables a switch input, making its pin an input and stopping an event output on that pin. -/
  | swCtrlWrite (who : Who) (k : Fin 32) (v : Word)
  /-- SRC_CTRL_WRITE (R69). A write of SRC_CTRL applies its fields; INPUT, NUM, INTERP and SRC_OFFSET change only while disabled, and reserved inputs are refused with WRITE_REJ. -/
  | srcCtrlWrite (who : Who) (n : Fin 8) (v : Word)
  /-- SOURCE_ENABLE (R70). Enabling a position source loads its position from the input without crossing and treats jumped-over entries as late. -/
  | sourceEnable (n : Fin 8)
  /-- SOURCE_STALE (R74). SRC_STALE consecutive due reads without a valid result make an SSI or station source STALE. -/
  | sourceStale (n : Fin 8)
  /-- VIEW_CFG_WRITE (R105). A write of VIEW_BIND, VIEW_SCALE or VIEW_OFFSET applies only while the view unit is OFF, and otherwise sets BIND_REJ. -/
  | viewCfgWrite (who : Who) (n : Fin 8) (r : ViewReg) (v : Word)
  /-- PORT_INSERT (R94). A write of PORT_CMD with OP 1 queues an insertion of the entry held in PORT_W_0 to PORT_W_3. -/
  | portInsert (who : Who) (p : Fin 8)
  /-- PORT_REMOVE (R97). A write of PORT_CMD with OP 2 queues the removal of the entry named by PORT_HANDLE. -/
  | portRemove (who : Who) (p : Fin 8)
  /-- ENTRY_INSERT_ACTIVE (R90). A queued insertion reaches the engine and becomes active, being stored, refused, dropped late or fired late. -/
  | entryInsertActive (c : Client) (slot : Nat)
  /-- ENTRY_REMOVE_ACTIVE (R97). A queued removal reaches the engine, frees the slot or returns NOT_FOUND. -/
  | entryRemoveActive (c : Client)
  /-- ENTRY_CROSSED (R86). A timeline reaches or passes an entry in a direction its DIR allows, and the entry fires on its Sward channel. -/
  | entryCrossed
  /-- ENTRY_DEFERRED_FIRE (R87). An entry crossed in a clock that already fired 8 entries fires in a following clock with FIRE_DEFER. -/
  | entryDeferredFire
  /-- EVENT_GRANT (R112). The arbiter grants the head event of a channel FIFO, stamps GSEQ, position and station time, and delivers it to subscribers the next clock. -/
  | eventGrant
  /-- GUARD_WINDOW_END (R125). A channel's guard window of CH_GUARD_WIN event clocks ends and a new count starts. -/
  | guardWindowEnd (c : Fin 256)
  /-- CH_CFG_WRITE (R120). A write of a channel's CH_CFG, CH_GUARD or CH_GUARD_WIN is applied or refused with GUARD_VIOL under the owner and guard rules. -/
  | chCfgWrite (who : Who) (c : Fin 256) (r : ChReg) (v : Word)
  /-- SWD_PUB (R123). A write of SWD_PUB publishes one software event on a channel the requester may use. -/
  | swdPub (who : Who) (v : Word)
  /-- SELECTOR_WRITE (R117). A write of a consumer or producer selector takes effect from the next event clock and records the writing function for the guard. -/
  | selectorWrite (who : Who) (addr : Nat) (v : Word)
  /-- OUT_PULSE_END (R128). An event output's pulse width expires and the pin returns inactive. -/
  | outPulseEnd (k : Fin 64)
  /-- OUT_CTRL_WRITE (R129). A write of OUT_CTRL enables an event output, refused with PIN_CONFLICT when a switch input watches the pin. -/
  | outCtrlWrite (who : Who) (k : Fin 64) (v : Word)
  /-- ETH_CTRL_WRITE (R136). A write of ETH_CTRL enables an Ethernet port on lane 28 + p, refused with ETH_REJ when the lane or rate rules are broken. -/
  | ethCtrlWrite (who : Who) (p : Fin 4) (v : Word)
  /-- ETH_LINK_CHANGE (R152). An Ethernet port's link comes up or goes down, which may change the PTP port and publishes a port link change. -/
  | ethLinkChange (p : Fin 4) (up : Bool)
  /-- ETH_FRAME_RX (R139). A received Ethernet frame is checked and dropped or passed to PTP or the station protocol by EtherType. -/
  | ethFrameRx (p : Fin 4) (f : EthFrame)
  /-- RATE_ADJ_WRITE (R142). A write of RATE_ADJ_HI applies the new rate adjustment from the next event clock. -/
  | rateAdjWrite (who : Who) (v : Word)
  /-- TIME_STEP_WRITE (R147). In MANUAL mode a write of TIME_STEP_HI steps station time by the signed step and sets STEPPED. -/
  | timeStepWrite (who : Who) (v : Word)
  /-- RESTEP (R146). A write of RESTEP returns the time unit to FREE and clears STEPPED. -/
  | restep (who : Who)
  /-- TIME_MODE_WRITE (R146). A write of MODE selects MANUAL or PTP and returns the time unit to FREE. -/
  | timeModeWrite (who : Who) (v : Word)
  /-- PTP_ANNOUNCE_RX (R151). A received Announce message feeds the best master clock algorithm, which may select a master or this clock as grandmaster. -/
  | ptpAnnounceRx (p : Fin 4) (a : Announce)
  /-- PTP_SYNC_RX (R154). A Sync, with its Follow_Up, forms an offset sample that drives stepping, steering and the lock state. -/
  | ptpSyncRx (p : Fin 4) (parent : Nat) (t1 : Int) (t2 : Int)
  /-- PTP_DELAY_RESP_RX (R154). A received Delay_Resp supplies the delay measurement for offset samples. -/
  | ptpDelayRespRx (p : Fin 4) (parent : Nat) (t4 : Int)
  /-- PTP_DELAY_REQ_TX (R151). The device sends a Delay_Req at the interval the master gives. -/
  | ptpDelayReqTx
  /-- PTP_SYNC_TX (R151). As grandmaster the device sends Sync and Announce messages at LOG_SYNC and LOG_ANNOUNCE intervals. -/
  | ptpSyncTx
  /-- MASTER_LOST (R154). announceReceiptTimeout expires or no Sync arrives for 4 intervals, and the time unit goes to HOLDOVER or FREE. -/
  | masterLost
  /-- TXPOS_SAMPLE (R159). Every PERIOD µs an enabled TXPOS stream samples its source and queues a POS frame. -/
  | txposSample (sources : BitVec 8)
  /-- STA_POS_RX (R160). A received POS frame's entries are accepted or discarded for each receive stream. -/
  | staPosRx
  /-- RX_STREAM_PERIOD (R161). A PERIOD passes without an accepted entry and counts as a due read without a valid result. -/
  | rxStreamPeriod (n : Fin 8)
  /-- STA_EVENT_FRAME_SEND (R163). When a port is free, granted events on TXEVT channels are sent in one EVENT frame of up to 16 entries. -/
  | staEventFrameSend
  /-- STA_EVENT_RX (R164). A received EVENT frame's matching entries are published locally at once or deferred to their deadlines. -/
  | staEventRx
  /-- DEFERRED_EVENT_DUE (R164). Station time reaches the deadline of a deferred station event, which is published. -/
  | deferredEventDue
  /-- STA_CMD_RX (R166). A received CMD addressed to this device is executed under the ALLOW rights, and answered with a RESP. -/
  | staCmdRx
  /-- BEACON_SEND (R167). Every BEACON_PERIOD ms the device sends a BEACON on its TX_PORTS. -/
  | beaconSend
  /-- STA_BEACON_RX (R168). A received BEACON updates or enrols a peer and detects ID conflicts. -/
  | staBeaconRx
  /-- PEER_TIMEOUT (R168). A peer not heard for 3 BEACON_PERIOD is marked absent and a PEER lost event is published. -/
  | peerTimeout (j : Fin 32)
  /-- GRP_CFG_WRITE (R177). A write of GRP_CFG applies only while all four lane units are OFF, and otherwise sets GRP_REJ. -/
  | grpCfgWrite (who : Who) (g : Fin 8) (v : Word)
  /-- REF_MEASURE (R179). Every 1 ms a lane group measures its reference against SYS_REFCLK and sets REF_LOSS if it is absent or off frequency. -/
  | refMeasure (g : Fin 8) (ppm : Option (BitVec 16))
  /-- PLL_UNLOCK (R179). A group PLL loses lock, forcing its transmitters to idle and its receivers out of READY. -/
  | pllUnlock (g : Fin 8)
  /-- PLL_RELOCK (R179). A group PLL relocks; active transmitters resume and active receivers start blind acquisition. -/
  | pllRelock (g : Fin 8)
  /-- RESTART (R201). A write of RESTART puts both sides ACTIVE, idles the transmitter for 10 µs and starts a cold acquisition at RATE. -/
  | restart (who : Who) (l : Fin 32) (v : Word)
  /-- RESTART_IDLE_END (R201). The 10 µs of electrical idle after a RESTART end and the transmitter starts at RATE. -/
  | restartIdleEnd (l : Fin 32)
  /-- LOOP_WRITE (R203). A write of LOOP selects a loopback from the next lane clock, or is refused with LOOP_REJ. -/
  | loopWrite (who : Who) (l : Fin 32) (v : Word)
  /-- PWR_STATE_WRITE (R211). A write of TX_PWR or RX_PWR, or a link layer request, asks for a power state, held if a transition is in progress. -/
  | pwrStateWrite (l : Fin 32) (a : PwrAsk)
  /-- PWR_TRANSITION_DONE (R210). A transmitter or receiver power state transition completes and any held request is applied. -/
  | pwrTransitionDone (l : Fin 32) (tx : Bool)
  /-- TX_COEF_WRITE (R190). A write of TX_COEF applies the coefficients within 1 µs when valid and TX_PRESET is 15, or is refused with FIR_REJ. -/
  | txCoefWrite (who : Who) (l : Fin 32) (v : Word)
  /-- SIG_DET_RISE (R195). The receiver's signal detector rises above 60 mV. -/
  | sigDetRise (l : Fin 32)
  /-- SIG_DET_HOLD (R194). SIG_DET has held 1 µs without a break and the receiver enters CDR_ACQ. -/
  | sigDetHold (l : Fin 32)
  /-- SIG_DET_FALL (R195). SIG_DET stays below 30 mV for 1 µs and the receiver returns to NO_SIGNAL. -/
  | sigDetFall (l : Fin 32)
  /-- CDR_LOCK (R194). Clock recovery locks in frequency and phase and the receiver enters ADAPT. -/
  | cdrLock (l : Fin 32)
  /-- ADAPT_SETTLED (R194). No equaliser change for 65,536 UI, or ADAPT_FREEZE, moves the receiver to EYE_CHECK. -/
  | adaptSettled (l : Fin 32) (ctle : BitVec 4) (taps : List (BitVec 8))
  /-- EYE_CHECK_DONE (R194). The quick eye measurement ends and the receiver goes to READY or back to ADAPT. -/
  | eyeCheckDone (l : Fin 32) (height : BitVec 8)
  /-- CDR_LOCK_LOST (R194). A READY receiver loses clock recovery lock, sets LOCK_LOST and starts a warm acquisition. -/
  | cdrLockLost (l : Fin 32)
  /-- ACQ_TIMEOUT (R196). READY is not reached within ACQ_TIMEOUT ms and the receiver restarts a cold acquisition. -/
  | acqTimeout (l : Fin 32)
  /-- WARM_ACQ_TIMEOUT (R197). A warm acquisition does not reach READY within 1 ms and continues as a cold acquisition. -/
  | warmAcqTimeout (l : Fin 32)
  /-- FREQ_OFFSET_UPDATE (R214). Every 1 ms FREQ_OFFSET is updated and PPM_WARN set above 220 ppm. -/
  | freqOffsetUpdate (l : Fin 32) (ppm : BitVec 16)
  /-- EYE_SUMMARY_REFRESH (R215). Every 10 ms the margin slicer refreshes EYE_SUM_0 and EYE_SUM_1 of a READY receiver. -/
  | eyeSummaryRefresh (l : Fin 32) (heights : BitVec 24) (widths : BitVec 24)
  /-- MARGIN_START (R216). A write of MARGIN_CTRL with START begins a point measurement of the margin slicer. -/
  | marginStart (who : Who) (l : Fin 32) (v : Word)
  /-- MARGIN_DONE (R216). A point measurement ends, stores MARGIN_ERR and sets DONE, or is aborted by a fall of READY. -/
  | marginDone (l : Fin 32) (count : Nat)
  /-- INJECT (R207). A write of INJECT inverts one bit of the transmitted PRBS pattern. -/
  | inject (who : Who) (l : Fin 32) (v : Word)
  /-- PRBS_ERR_READ (R208). A read of PRBS_ERR returns and clears the error count and captures the checked bit count. -/
  | prbsErrRead (who : Who) (l : Fin 32) (errs : Nat) (bits : Nat)
  /-- PRBS_LOCK (R207). The PRBS checker sees 1,024 consecutive correct bits and sets LOCK. -/
  | prbsLock (l : Fin 32)
  /-- PRBS_LOCK_LOST (R207). 64 wrong bits within 1,024 clear LOCK and set PRBS_LOCK_LOST. -/
  | prbsLockLost (l : Fin 32)
  /-- AM_RECEIVED (R232). A valid alignment marker arrives on a lane, giving marker lock, BIP check and a deskew attempt. -/
  | amReceived (l : Fin 32) (sym : BitVec 130) (t : Nat) (bip : BitVec 8)
  /-- AM_LOST (R232). Three marker positions without a valid marker drop a lane's marker lock. -/
  | amLost (l : Fin 32)
  /-- CODEWORD_DECODE (R230). An RS(544,514) codeword is decoded and corrected, or marked uncorrectable with its blocks bad. -/
  | codewordDecode (f : Fin 32) (prev : BitVec 16) (rx : BitVec 5440) (ins : Nat) (del : Nat) (slip : Bool)
  /-- STREAM_RX (R302). A good STREAM packet is checked, bound to its descriptor and assembled into a line passed to conditioning. -/
  | streamRx (f : Fin 32)
  /-- RDATA (R246). A read response arrives, completes its CTRL request and is written into the endpoint's message FIFO. -/
  | rdata (f : Fin 32)
  /-- WACK (R246). A write response arrives, completes its CTRL request and is written into the message FIFO. -/
  | wack (f : Fin 32)
  /-- MSG (R246). An unsolicited head message arrives and is written into the endpoint's message FIFO. -/
  | msg (f : Fin 32)
  /-- HEAD_EVENT (R249). A head EVENT packet is written into the message FIFO and published on EVT_HEAD. -/
  | headEvent (f : Fin 32)
  /-- CREDIT (R248). A received CREDIT returns request credits, or completes an epoch reset. -/
  | credit (f : Fin 32)
  /-- CTRL_TIMEOUT (R248). A CTRL request unanswered for CTRL_TIMEOUT ms completes with TIMEOUT and starts an epoch reset. -/
  | ctrlTimeout (e : Fin 2048) (tag : BitVec 8)
  /-- CREDIT_RESET (R248). A write of CREDIT_RESET forces an epoch reset for every endpoint of the link. -/
  | creditReset (who : Who) (f : Fin 32) (v : Word)
  /-- ECHO_RSP (R267). A TIME ECHO_RSP gives a link delay value and updates LINK_DELAY. -/
  | echoRsp (f : Fin 32) (t4 : Nat)
  /-- ECHO_REQ_TIMER (R267). The echo timer expires and the device sends a TIME ECHO_REQ. -/
  | echoReqTimer (f : Fin 32) (t1 : Nat)
  /-- TIME_POS_TIMER (R250). Every PERIOD µs the device sends a TIME POS packet on a link that uses TIME_POS. -/
  | timePosTimer (f : Fin 32)
  /-- HELLO (R252). A received HELLO updates the partner's capabilities and completes the version agreement, taking the link UP. -/
  | hello (f : Fin 32) (vendor : BitVec 32) (serial : BitVec 64)
  /-- HELLO_TIMER (R252). In HELLO state the device resends HELLO every 1 ms until both sides have acknowledged. -/
  | helloTimer (f : Fin 32)
  /-- PROPOSE (R254). A write of RATE_AGREE with PROPOSE sends a HELLO proposing a new rate. -/
  | propose (who : Who) (f : Fin 32) (v : Word)
  /-- PORT_STATUS (R255). A hub's PORT_STATUS reports a slot, leading to enrolment or loss of its endpoint. -/
  | portStatus (f : Fin 32) (vendor : BitVec 32) (serial : BitVec 64)
  /-- DROP (R256). A hub's DROP packet is turned into a LOSS record of cause HUB_DROP. -/
  | drop (f : Fin 32)
  /-- TRIG_CTRL_WRITE (R269). A write of TRIG_CTRL enabling a trigger input is refused with BUDGET_ERR when the link or budget checks fail. -/
  | trigCtrlWrite (who : Who) (f : Fin 32) (j : Fin 8) (v : Word)
  /-- TRIG_LAUNCH (R262). A TRIG block is committed to a block slot with its LAUNCH, and the TIME TRIG_POS packet follows. -/
  | trigLaunch (f : Fin 32) (j : Fin 8) (tx : Nat) (bnd : Nat)
  /-- FORGET (R279). A write of FORGET frees a LOST endpoint entry at once. -/
  | forget (who : Who) (e : Fin 2048) (v : Word)
  /-- HEALTH_POLL (R288). Every HEALTH_PERIOD ms Skep reads HEAD_EP of each identified endpoint, detecting head restarts and missing responses. -/
  | healthPoll
  /-- PSET_WRITE (R292). A write of PSET_EXP_k or PSET_CFG_k is refused with PSET_REJ while a descriptor of the endpoint is RUNNING. -/
  | psetWrite (who : Who) (e : Fin 2048) (k : Fin 16) (cfg : Bool) (v : Word)
  /-- CP_GO (R293). A write of CP_CMD with GO sends a CTRL request to the named endpoint. -/
  | cpGo (who : Who) (p : Fin 16) (v : Word)
  /-- DESC_ENABLE (R300). A write of SD_CTRL with EN 1 runs admission and, if admitted, has Skep configure the head's stream. -/
  | descEnable (who : Who) (d : Fin 4096) (v : Word)
  /-- DESC_DISABLE (R301). A write of SD_CTRL with EN 0 stops the head's stream and releases admitted capacity. -/
  | descDisable (who : Who) (d : Fin 4096) (v : Word)
  /-- MF_CFG_WRITE (R309). A write of MF_CFG sets DEPTH only while EN is 0 and the pool fits, otherwise DEPTH_REJ. -/
  | mfCfgWrite (who : Who) (e : Fin 2048) (v : Word)
  /-- FLUSH (R312). A write of MF_FLUSH discards the whole items Withy has not begun to take and cuts a partial item. -/
  | flush (who : Who) (e : Fin 2048) (cut : Bool) (v : Word)
  /-- MSG_RECORD_TAKE (R311). Withy takes a whole message FIFO item once its END word is stored and builds a MSG record. -/
  | msgRecordTake (e : Fin 2048) (parity : BitVec 64)
  /-- CHAIN_FRAME_DONE (R322). A chain frame is shifted and latched, and the drivers' responses of the previous frame are read. -/
  | chainFrameDone (n : Fin 8) (resps : List (BitVec 32)) (marker : Option (Fin 33 × Bool))
  /-- COMMIT_CTRL_GO (R334). A write of COMMIT_CTRL with GO checks a set and loads it into the drivers, committing now or at COMMIT_POS. -/
  | commitCtrlGo (who : Who) (n : Fin 8) (v : Word)
  /-- BURST_ROW_EDGE (R339). The programmed time of a burst row's ENABLE rise or fall is reached. -/
  | burstRowEdge (n : Fin 8)
  /-- GEN_RETRY (R337). After GEN_STALL, Ling retries the line strobe generator insertion every 250 event clocks. -/
  | genRetry (n : Fin 8)
  /-- DUTY_WINDOW_END (R340). A 1 ms duty window of each channel's light time ends and a new one starts. -/
  | dutyWindowEnd (n : Fin 8)
  /-- DIAG_STATUS_POLL (R343). Every STATUS_PERIOD ms Ling reads OPEN, SHORT and TESTED from every driver. -/
  | diagStatusPoll (n : Fin 8)
  /-- UNVERIFIED (R343). A lit channel not reported TESTED for VERIFY_WINDOW ms becomes UNVERIFIED. -/
  | unverified (n : Fin 8) (d : Fin 32) (c : Fin 16)
  /-- CUT_CLR (R348). A write of CUT_CLR through function 1 or by Skep clears CUT. -/
  | cutClr (who : Who) (n : Fin 8) (v : Word)
  /-- DOSE_WRITEBACK (R346). Every DOSE_PERIOD minutes Skep writes each NORMAL head's dose into its inactive bank. -/
  | doseWriteback (n : Fin 8)
  /-- DOSE_RETRY (R346). A dose write inhibited by head temperature is retried every minute. -/
  | doseRetry (n : Fin 8)
  /-- CHAIN_CFG_WRITE (R318). A write of CLK_DIV or RET_DELAY applies only while the chain unit is OFF, and otherwise sets CFG_REJ. -/
  | chainCfgWrite (who : Who) (n : Fin 8) (v : Word)
  /-- LAYOUT_WRITE (R359). A write of HOSTWIN_SEGS, REF_QUOTA or WORK_QUOTA applies only with no allocation, and otherwise sets LAYOUT_REJ. -/
  | layoutWrite (who : Who) (k : Fin 3) (v : Word)
  /-- SEG_QUERY (R361). A write of SEG_QUERY shows the segment's region and owner in SEG_INFO. -/
  | segQuery (who : Who) (v : Word)
  /-- HIST_CFG_WRITE (R363). A write of HIST_CFG or STAGE_CFG sets sizes only while the view is OFF and applies POLICY. -/
  | histCfgWrite (who : Who) (v : Fin 8) (stage : Bool) (x : Word)
  /-- RELEASE (R363). A write of RELEASE while the view unit is OFF frees the view's ring and stage. -/
  | release (who : Who) (v : Fin 8) (x : Word)
  /-- RAW_SEGS_WRITE (R370). A write of RAW_SEGS_d applies while the descriptor is disabled and frees its raw ring. -/
  | rawSegsWrite (who : Who) (d : Fin 4096) (v : Word)
  /-- MARK_CFG_WRITE (R372). A write of MARK_CFG sets VIEW and BACK in FREE or ARMED, and EN 0 frees the mark from any state. -/
  | markCfgWrite (who : Who) (m : Fin 64) (v : Word)
  /-- MARK_CLEAR (R374). MARK_CMD CLEAR returns a SET mark to ARMED. -/
  | markClear (who : Who) (m : Fin 64)
  /-- SET_AT (R373). MARK_CMD SET_AT starts setting the mark on the oldest retained row at or after MARK_POS. -/
  | setAt (who : Who) (m : Fin 64)
  /-- SET_AT_DONE (R373). A SET_AT completes within 10 µs, setting the mark or refusing with GONE or CMD_REJ. -/
  | setAtDone (m : Fin 64)
  /-- SET_AHEAD (R373). MARK_CMD SET_AHEAD inserts a MARK entry at MARK_POS on the view's timeline. -/
  | setAhead (who : Who) (m : Fin 64)
  /-- SCRUB_STEP (R384). The scrubber reads the next unit at its paced rate, correcting or poisoning errors. -/
  | scrubStep (err : Option MemErr)
  /-- CTX_PEEK (R388). A write of CTX_PEEK_IDX copies a context into CTX_PEEK registers and sets DONE. -/
  | ctxPeek (who : Who) (v : Word)
  /-- HBM_TRAIN_DONE (R390). HBM training of both stacks ends and zero-fill begins, or a failing stack sets STACK_FAIL. -/
  | hbmTrainDone (ok : BitVec 2)
  /-- MEM_READY (R390). Zero-fill of device memory completes, MEM_READY is set and scrubbing starts. -/
  | memReady
  /-- LINE_CONDITION (R397). A conditioning slice treats a line through unpacking, dark, gain, defects, LUT, line delay and reduction. -/
  | lineCondition (f : Fin 32) (perr : Nat)
  /-- COND_CFG_WRITE (R401). A write of a descriptor's conditioning registers applies only while its EN is 0, otherwise CFG_REJ. -/
  | condCfgWrite (who : Who) (d : Fin 4096) (off : Fin 16) (v : Word)
  /-- LOAD (R413). CAL_CMD LOAD writes selected slot fields from the host window. -/
  | load (who : Who) (v : Word)
  /-- SAVE (R413). CAL_CMD SAVE writes slot images to the host window, holding live updates to its range. -/
  | save (who : Who)
  /-- LIVE_RESET (R413). CAL_CMD LIVE_RESET sets LIVE of the slots to 1.0. -/
  | liveReset (who : Who)
  /-- LUT_LOAD (R413). CAL_CMD LUT_LOAD reads LUT tables from the host window. -/
  | lutLoad (who : Who)
  /-- LUT_SAVE (R413). CAL_CMD LUT_SAVE writes LUT tables to the host window. -/
  | lutSave (who : Who)
  /-- ACCUM (R416). CAL_CMD ACCUM sums the native samples of the next 2^N good lines of a descriptor. -/
  | accum (who : Who)
  /-- CAL_ABORT (R413). CAL_CMD ABORT ends the running calibration command with ABORTED. -/
  | calAbort (who : Who)
  /-- CAL_CMD_DONE (R412). A calibration command ends, stores ERR, sets DONE and publishes CMD_DONE. -/
  | calCmdDone
  /-- ZONE_CLOSE (R421). A zone window closes, is checked and, if accepted while TRACKING, updates LIVE gains. -/
  | zoneClose (v : Fin 8)
  /-- LC_CFG_WRITE (R425). A write of LC_CFG enables, disables or force-freezes live calibration of a view. -/
  | lcCfgWrite (who : Who) (v : Fin 8) (x : Word)
  /-- VW_CTRL_WRITE (R438). A write of VW_CTRL or the view geometry registers applies only while the view is OFF, except TRK_EN and TRK_HOLD. -/
  | vwCtrlWrite (who : Who) (v : Fin 8) (off : Fin 2048) (x : Word)
  /-- PLAIT_ROW_EMIT (R448). Plait completes a grid row from the resampled lines of all heads, blends the seams and emits it. -/
  | plaitRowEmit (v : Fin 8) (perr : Nat) (stall : Bool)
  /-- HEAD_TIMEOUT (R445). HEAD_TIMEOUT µs pass without a line of a head beyond a row, and the head is missing for it. -/
  | headTimeout (v : Fin 8) (h : Fin 256)
  /-- LATE_MARGIN_PASS (R445). The view position passes a row plus LATE_MARGIN before a head's line arrives, making the head missing. -/
  | lateMarginPass (v : Fin 8) (h : Fin 256)
  /-- TRK_WINDOW_END (R453). A tracking window of TRK_ROWS rows ends and strain and head offsets are updated. -/
  | trkWindowEnd (v : Fin 8)
  /-- LOAD_MAP (R458). GEOM_CMD LOAD_MAP reads column map entries from the host window. -/
  | loadMap (who : Who)
  /-- SAVE_MAP (R458). GEOM_CMD SAVE_MAP writes column map entries to the host window. -/
  | saveMap (who : Who)
  /-- SAVE_GEOM (R458). GEOM_CMD SAVE_GEOM has Skep write the view's tracked state into the calibration set. -/
  | saveGeom (who : Who)
  /-- LOAD_GEOM (R458). GEOM_CMD LOAD_GEOM loads the view's tracked state from its saved record. -/
  | loadGeom (who : Who)
  /-- TRK_RESET (R458). GEOM_CMD TRK_RESET sets strain and head corrections to 0. -/
  | trkReset (who : Who)
  /-- GEOM_ABORT (R457). GEOM_CMD ABORT ends the running geometry command. -/
  | geomAbort (who : Who)
  /-- GEOM_CMD_DONE (R457). A geometry command ends, stores ERR, sets DONE and publishes CMD_DONE. -/
  | geomCmdDone (bad : Option Nat)
  /-- JOB_LOAD (R474). The JOB_LOAD command allocates segments and starts copying a recipe image into a slot, or unloads it. -/
  | jobLoad (m : Fin 1024)
  /-- JOB_LOAD_DONE (R476). The copy ends and the image checks pass or fail, leaving the slot READY or EMPTY. -/
  | jobLoadDone (j : Fin 64)
  /-- JOB_ARM (R477). The JOB_ARM command inserts JOB_SWITCH entries at splice positions for named views. -/
  | jobArm (m : Fin 1024)
  /-- JOB_ARM_CANCEL (R477). JOB_ARM with CANCEL removes the pending switch entries of the named views. -/
  | jobArmCancel (m : Fin 1024)
  /-- JOB_SWITCH (R477). The JOB_SWITCH command arms a switch at the present position plus ARM_LEAD. -/
  | jobSwitch (m : Fin 1024)
  /-- ROLL_CMD (R489). A write of ROLL_CMD, or an event on ROLL_SUB, sets a pending roll boundary. -/
  | rollCmd (who : Who) (v : Fin 8) (x : Word)
  /-- BAND_COMPARE (R509). A slice begins a 64-row band once its rows are in memory and registers, compares and labels it. -/
  | bandCompare (j : Fin 8) (errs : List MemErr)
  /-- VERDICT_READY (R523). A slice closes the repeat's candidates, applies rules and conditions, writes the verdict and requests the gate insertion. -/
  | verdictReady (k : Nat)
  /-- GATE_INSERT_RESULT (R527). The gate insertion returns and comparison records its status and hands the repeat to Withy. -/
  | gateInsertResult
  /-- REF_LEARN (R534). The REF_LEARN command starts a learning session collecting N good repeats. -/
  | refLearn (m : Fin 1024)
  /-- REF_LEARN_ABORT (R537). REF_LEARN with ABORT ends the view's learning session with FAILED. -/
  | refLearnAbort (m : Fin 1024)
  /-- LEARN_COMPUTE_DONE (R536). The per-pixel median is written into the inactive bank and the banks swap. -/
  | learnComputeDone (v : Fin 8)
  /-- RING_ENABLE (R553). A write of RING_CTRL with EN sets TAIL, HEAD and RSEQ to 0, or clearing EN discards the ring's queue. -/
  | ringEnable (who : Who) (r : Fin 256) (v : Word)
  /-- RECORD_ISSUE (R554). Withy writes a queued record's body and then its header into its delivery ring. -/
  | recordIssue (r : Fin 256)
  /-- RING_HEAD_DB (R554). A HEAD doorbell write hands ring entries back and may arm the ring interrupt. -/
  | ringHeadDb (who : Who) (r : Fin 256) (v : Word)
  /-- RING_IRQ_TIMER (R575). IRQ_TIME µs pass since the first record issued while ARMED and the ring interrupt is sent. -/
  | ringIrqTimer (r : Fin 256)
  /-- POOL_ENABLE (R558). A write of POOL_CTRL with EN makes every page FREE, or is refused with POOL_REJ. -/
  | poolEnable (who : Who) (p : Fin 64) (v : Word)
  /-- POOL_FREE_DB (R562). A FREE doorbell write returns POSTED or FAULTED pages to FREE. -/
  | poolFreeDb (who : Who) (p : Fin 64) (v : Word)
  /-- POOL_WAIT_EXPIRE (R563). A record waits POOL_WAIT µs for pages and becomes a NO_BUFFER LOSS record. -/
  | poolWaitExpire (r : Fin 256)
  /-- DISABLE (R564). POOL_CMD DISABLE stops allocation and takes the pool through STOPPING to OFF. -/
  | disable (who : Who) (p : Fin 64)
  /-- RECLAIM (R581). POOL_CMD RECLAIM reads back ring headers and frees POSTED pages that no pending header names. -/
  | reclaim (who : Who) (p : Fin 64) (named : List Nat)
  /-- FB_GO (R571). A write of FB_CMD with GO starts a TAG or POS fetch-back request. -/
  | fbGo (who : Who) (f : Fin 8)
  /-- FB_ABORT (R571). A write of FB_CMD with ABORT ends the fetch in progress with ABORTED. -/
  | fbAbort (who : Who) (f : Fin 8)
  /-- PEER_READ_BACK (R574). A read-back of a peer body or header completes, letting the header or interrupt follow. -/
  | peerReadBack (r : Fin 256)
  /-- PEER_WINDOW_WRITE (R602). An inbound write to BAR 2 is mapped through the active descriptors and written or dropped. -/
  | peerWindowWrite (off : Nat) (bytes : List Byte) (poison : Bool)
  /-- PEER_WINDOW_READ (R602). An inbound read of BAR 2 is mapped and completed, or answered with Unsupported Request. -/
  | peerWindowRead (off len : Nat) (errs : List MemErr)
  /-- WINDOW_COMMIT (R599). A write of WINDOW_COMMIT makes the shadow descriptors active in one step, or sets WINDOW_REJ. -/
  | windowCommit (who : Who)
  /-- BAR0_BAD_REQUEST (R597). A memory request that breaks the BAR access rules is completed with Unsupported Request. -/
  | bar0BadRequest (f : Fin 2) (kind : BadTlp) (write : Bool) (off len part : Nat) (poison : Bool)
  /-- CONFIG_REQUEST (R725). A configuration request is served, or answered with Configuration Request Retry Status before release. -/
  | configRequest (f : Nat) (write : Bool) (off : Fin 4096) (be : Fin 16) (v : Word)
  /-- COMPLETION_RX (R609). A completion for a device request arrives and delivers data or an error to its requester. -/
  | completionRx (tag : Fin 1024) (ok : Bool) (data : List Byte) (poison : Bool)
  /-- COMPLETION_TIMEOUT (R607). A non-posted request is not completed within T and ends with a timeout error. -/
  | completionTimeout (tag : Fin 1024)
  /-- TAG_QUARANTINE_END (R608). The 2 × T quarantine of a tag ends and it may be reused. -/
  | tagQuarantineEnd (tag : Fin 1024)
  /-- PERST (R615). Assertion of PERST# resets the host interface domain. -/
  | perst
  /-- HOT_RESET (R728). An in-band hot reset abandons requests, resets Withy, DMA and mailboxes and retrains the link. -/
  | hotReset
  /-- FUNCTION_LEVEL_RESET (R617). A function-level reset resets the function's state and completes within 1 ms. -/
  | functionLevelReset (f : Fin 2)
  /-- PCIE_LINK_CHANGE (R580). The PCI Express link comes up or goes down, resuming or suspending Withy. -/
  | pcieLinkChange (ev : PcieEvent)
  /-- PM_STATE_CHANGE (R618). A function moves between D0 and D3hot; entry to D3hot triggers dose write-back. -/
  | pmStateChange (f : Fin 2) (d3 : Bool)
  /-- L1_ENTRY (R621). The port has been idle for L1_IDLE µs and requests L1. -/
  | l1Entry
  /-- WAKE_PIN (R620). In D3cold a masked GPIO pin at its wake level asserts WAKE#. -/
  | wakePin (k : Fin 8) (level : Bool)
  /-- DMA_START (R628). A write of CH_CTRL EN 1 from IDLE starts the channel at DESC_PTR, or sets START_REJ. -/
  | dmaStart (who : Who) (n : Fin 16)
  /-- DMA_DISABLE (R635). A write of CH_CTRL EN 0 stops the channel and it enters DRAINING. -/
  | dmaDisable (who : Who) (n : Fin 16)
  /-- DMA_DRAIN_DONE (R635). A draining channel's outstanding reads retire and it becomes IDLE. -/
  | dmaDrainDone (n : Fin 16)
  /-- DMA_DESC_FETCHED (R629). A descriptor read completes and is checked, and its data requests are issued. -/
  | dmaDescFetched (n : Fin 16)
  /-- DMA_DESC_COMPLETE (R630). All data of a descriptor is written, counters update, an interrupt may be sent and the channel moves on or parks. -/
  | dmaDescComplete (n : Fin 16)
  /-- APPEND_DB (R634). An APPEND doorbell write increments APPEND_CNT and causes a parked channel to re-read its descriptor. -/
  | appendDb (who : Who) (n : Fin 16)
  /-- HELLO_CMD (R652). The Isaow HELLO command agrees the minor version for the requester. -/
  | helloCmd (m : Fin 1024)
  /-- SUMMARY (R664). The SUMMARY command captures or returns a snapshot of the whole device state. -/
  | summary (m : Fin 1024)
  /-- UNIT_GET (R658). The UNIT_GET command returns a unit's state, permit, observation, cause and generation. -/
  | unitGet (m : Fin 1024)
  /-- UNIT_SET_ON (R658). UNIT_SET with OP ON starts a unit through the scheduler, checking dependencies and generation. -/
  | unitSetOn (m : Fin 1024)
  /-- UNIT_SET_OFF (R658). UNIT_SET with OP OFF stops a unit, cascading to dependants if asked. -/
  | unitSetOff (m : Fin 1024)
  /-- UNIT_SET_RESTART (R658). UNIT_SET with OP RESTART restarts a lane through STOPPING and STARTING. -/
  | unitSetRestart (m : Fin 1024)
  /-- CAL_READ (R698). The CAL_READ command returns bytes of an MRAM area. -/
  | calRead (m : Fin 1024)
  /-- CAL_WRITE (R705). The CAL_WRITE command writes bytes into a calibration group or the user area. -/
  | calWrite (m : Fin 1024) (bad : Option Nat)
  /-- LOG_READ (R712). The LOG_READ command returns stored event log records. -/
  | logRead (m : Fin 1024)
  /-- HEAD_INFO (R663). The HEAD_INFO command returns the 256 bytes of an endpoint entry. -/
  | headInfo (m : Fin 1024)
  /-- LIGHT_INFO (R663). The LIGHT_INFO command returns a light head's status and identity image. -/
  | lightInfo (m : Fin 1024)
  /-- THERMAL_READ (R663). THERMAL with OP 0 returns sensor temperatures, thresholds and flags. -/
  | thermalRead (m : Fin 1024)
  /-- THERMAL_SET (R679). THERMAL with OP 1 sets the five thresholds, or answers BAD_ARG. -/
  | thermalSet (m : Fin 1024)
  /-- THERMAL_RESTART (R685). THERMAL with OP 2 restarts a stopped data path when the die has cooled. -/
  | thermalRestart (m : Fin 1024)
  /-- POWER_BUDGET_READ (R663). POWER_BUDGET with OP 0 returns budget, forecast, measured power and waiting units. -/
  | powerBudgetRead (m : Fin 1024)
  /-- POWER_BUDGET_SET (R692). POWER_BUDGET with OP 1 sets BUDGET within 50,000–140,000 mW. -/
  | powerBudgetSet (m : Fin 1024)
  /-- SELF_TEST (R663). The SELF_TEST command runs the selected tests on OFF units and free segments. -/
  | selfTest (m : Fin 1024) (failed first : Nat)
  /-- PATCH_INFO (R668). The PATCH_INFO command returns the patch status and loaded image data. -/
  | patchInfo (m : Fin 1024)
  /-- MB_COMMAND_DONE (R647). A mailbox command completes, its response is written, BUSY cleared, DONE set and an interrupt may be sent. -/
  | mbCommandDone (m : Fin 1024)
  /-- SMB_SET_OFFSET (R650). An SMBus Write Word sets the byte offset within mailbox 20. -/
  | smbSetOffset (c : SmbCmd) (pecOk : Bool)
  /-- SMB_BLOCK_WRITE (R650). An SMBus Block Write writes bytes at the mailbox offset, which advances. -/
  | smbBlockWrite (bytes : List Byte) (pecOk : Bool)
  /-- SMB_BLOCK_READ (R650). An SMBus Block Read returns bytes at the mailbox offset, which advances. -/
  | smbBlockRead (n : Fin 33)
  /-- SMB_READ_STATUS (R650). An SMBus Read Byte returns BUSY and DONE of mailbox 20. -/
  | smbReadStatus
  /-- UNIT_PATH_CHECK (R659). Every 1 ms Skep compares unit states with observation and faults disagreeing units. -/
  | unitPathCheck (moving : List Nat)
  /-- SCHEDULER_TICK (R693). Every 1 ms the power scheduler starts the first waiting request that fits the remaining budget. -/
  | schedulerTick
  /-- SKEP_WATCHDOG (R669). The 100 ms watchdog expires, or Skep faults, and Skep is reset. -/
  | skepWatchdog (cause pc : Word) (bad : Option Nat)
  /-- SKEP_RESTART_DONE (R729). Skep finishes its restart, rebuilding the unit table if needed and requeueing starting units. -/
  | skepRestartDone (parityOk : Bool) (reload : Option Flash) (bad : Option Nat)
  /-- SKEP_RESTART (R672). A write of SKEP_RESTART through function 1 restarts a halted Skep. -/
  | skepRestart (who : Who)
  /-- SENSOR_SAMPLE (R680). The thermal unit samples its sensors and takes the actions of any threshold reached or left. -/
  | sensorSample (temps : List Int)
  /-- STACK_TEMP_READ (R678). Every 1 ms the stack temperatures are read, setting HBM_HOT or stopping the data path. -/
  | stackTempRead (t0 t1 : Int)
  /-- THERM_TRIP (R688). The analogue comparator asserts THERM_TRIP# and sets TRIP_FLAG. -/
  | thermTrip
  /-- PMBUS_POLL (R690). Every 10 ms Skep polls the PMBus rails, updates MEASURED and adjusts VDD_CORE. -/
  | pmbusPoll (replies : List RailReply)
  /-- OVER_BUDGET (R694). MEASURED exceeds BUDGET for 100 ms and OVER_BUDGET is set. -/
  | overBudget
  /-- LOG_RECORD_WRITE (R709). Skep writes a waiting event log record once TH_MAX is inside the MRAM write window. -/
  | logRecordWrite (bad : Option Nat)
  /-- ON_HOURS_TICK (R713). An hour passes with VDD_CORE up and ON_HOURS is incremented. -/
  | onHoursTick (bad : Option Nat)
  /-- AON_RESET (R717). VDD_AON rises and the always-on domain is reset, followed by a core power-on reset. -/
  | aonReset
  /-- CORE_POR (R717). The core power-on reset is released and cold boot begins. -/
  | corePor (bad : Option Nat)
  /-- SUPPLY_DROP (R717). A monitored supply falls below 85 % and the core power-on reset is asserted. -/
  | supplyDrop (core : Bool)
  /-- SYS_RESET (R721). SYS_RESET# is pulsed low and the device resets and reboots from step 2. -/
  | sysReset (bad : Option Nat)
  /-- PATCH_STAGE_END (R724). The patch stage ends with a patch loaded or not. -/
  | patchStageEnd (flash : Flash) (bad : Option Nat)
  /-- CONFIG_RELEASE (R725). IDENT is applied and the patch stage has ended, and configuration is released. -/
  | configRelease
  /-- GIRQ_STATUS_WRITE (R738). A write of GIRQ_STATUS or GIRQ_ENABLE clears or enables sources and resends the aggregate interrupt if still pending. -/
  | girqStatusWrite (who : Who) (enable : Bool) (v : Word)
  /-- GIRQ_SOFT (R737). A write of GIRQ_SOFT sets the SOFT interrupt source. -/
  | girqSoft (who : Who)
  /-- IND_READ (R744). IND_CMD GO with WRITE 0 reads a function 0 BAR 0 word with function 1 rights. -/
  | indRead
  /-- IND_WRITE (R744). IND_CMD GO with WRITE 1 writes IND_DATA to a function 0 BAR 0 word with function 1 rights. -/
  | indWrite
  /-- IND_ACCESS_DONE (R744). An indirect access completes within 2 µs and DONE is set. -/
  | indAccessDone
  /-- PERST_DEASSERT (R727). Deassertion of PERST# starts link training within 20 ms and releases WAKE#. -/
  | perstDeassert
  /-- PME_RESEND (R619). While PME_Status stays set in D3hot, the function repeats its PM_PME message at the interval the specification requires. -/
  | pmeResend (f : Fin 2)
  /-- VDDIO_GPIO_CHANGE (R753). A VDDIO_GPIO bank supply is lost or returns while VDD_CORE is up, so its inputs read low, its outputs and pass-through stop, and later resume. -/
  | vddioGpioChange (bank : Fin 4) (up : Bool)
deriving DecidableEq, Repr

end Sys2Proof
end

