-- ==== Sys2Proof/Decode.lean ====
section
/-!
DEFINITION. Reading commands from table words. The block has no instruction words: no row of the table of operations and
events gives bits, so no word spells a command.
-/
set_option Elab.async false
namespace Sys2Proof

/-- The command that a word spells by the table's bits: none, since no row gives bits. -/
def decodeTableWord (_nbits _w : Nat) : Option Instr := none

end Sys2Proof
end

