-- ==== Sys2Proof/Config.lean ====
section
/-!
DEFINITION. What an implementation fixes and the spec leaves open. The constants here have no body: no proof can see a
value, and a statement holds for every value of them. The numbers that the spec gives are plain definitions.
-/
set_option Elab.async false
namespace Sys2Proof.Config

/-- Free values (assumption 1): the n-th open value of a run, `w` bits wide. -/
opaque freeBits (w : Nat) (n : Nat) : BitVec w

/-- Results that the spec does not state for some operands (assumption 1): the place in the spec, by rule number, and the operands. -/
opaque unstated (w rule a b : Nat) : BitVec w

/-- The fixed hash that spreads the 256-byte blocks of device memory over the 64 pseudo-channels of both stacks (R354): by block, its value mod 64
counts. -/
opaque pseudoChannel (block : Nat) : Nat

/-- The bytes that pad a short Ethernet frame to its minimum length (R155 gives none), by offset. -/
opaque padByte (i : Nat) : Byte

/-- Device Serial Number, fused (R734, R593). -/
opaque serial : BitVec 64

/-- GRADE of GREV, fused (R734): 0 EVX-6480C, 1 EVX-6480I. -/
opaque grade : Bool

/-- Mask ROM identifier, per stepping (R667, R734). -/
opaque romId : BitVec 32

/-- The FW_VERSION that mask ROM reports without a patch (R652, R734). -/
opaque romVersion : BitVec 32

/-- Whether the signature of a patch copy, its last 64 bytes, verifies over the bytes before it against the public key held in mask ROM
(R667). The key is not given. -/
opaque sigOk (copy : List Byte) : Bool

end Sys2Proof.Config
end

