-- ==== Sys2Proof/Machine/Regs.lean ====
section
/-!
DEFINITION. The register map of the EVX-6480: one address function per register of the spec's register tables
(offsets in BAR 0 of function 0, R732), one field constant per named field, and one table row per register with
its access masks and reset value. The private aggregation registers of function 1 (R737 to R739) stand at the same
offsets plus 0x0400_0000, just above the 64 MiB of BAR 0; that base is the model's own name for them.
-/
set_option Elab.async false
namespace Sys2Proof.Machine

/-- A field of a register: the address, the lowest bit and the width. -/
structure Fld where
  addr : Nat
  lo : Nat
  w : Nat
deriving DecidableEq, Repr

/-- One row of a register table of the spec, for `n1 × n2` registers of one shape: access masks by R5. -/
structure RegRow where
  base : Nat
  n1 : Nat
  s1 : Nat
  n2 : Nat
  s2 : Nat
  /-- Reset value where the spec gives one number for every index. -/
  reset : Nat
  /-- RW bits. -/
  rw : Nat
  /-- W1C bits. -/
  w1c : Nat
  /-- RO bits. -/
  ro : Nat
  /-- RC bits: the read clears them. -/
  rc : Nat
deriving DecidableEq, Repr

namespace R

/-! Registers of R54 (chapter 02). -/
abbrev ENC_CTRL (n : Nat) : Nat := 0x900000 + n * 0x100
abbrev ENC_CTRL_EN (n : Nat) : Fld := ⟨ENC_CTRL n, 0, 1⟩
abbrev ENC_CTRL_MODE (n : Nat) : Fld := ⟨ENC_CTRL n, 1, 2⟩
abbrev ENC_CTRL_INVERT (n : Nat) : Fld := ⟨ENC_CTRL n, 3, 1⟩
abbrev ENC_CTRL_INDEX_MODE (n : Nat) : Fld := ⟨ENC_CTRL n, 4, 2⟩
abbrev ENC_CTRL_INDEX_ARM (n : Nat) : Fld := ⟨ENC_CTRL n, 6, 1⟩
abbrev ENC_CTRL_Z_POL (n : Nat) : Fld := ⟨ENC_CTRL n, 7, 1⟩
abbrev ENC_CTRL_FILTER (n : Nat) : Fld := ⟨ENC_CTRL n, 8, 8⟩
abbrev ENC_CTRL_DIR_HYST (n : Nat) : Fld := ⟨ENC_CTRL n, 16, 8⟩
abbrev ENC_CTRL_Z_GATE_AB (n : Nat) : Fld := ⟨ENC_CTRL n, 24, 1⟩
abbrev ENC_PT (n : Nat) : Nat := 0x900004 + n * 0x100
abbrev ENC_PT_PT_MODE (n : Nat) : Fld := ⟨ENC_PT n, 0, 2⟩
abbrev ENC_PT_PT_SRC (n : Nat) : Fld := ⟨ENC_PT n, 4, 3⟩
abbrev COUNT_LO (n : Nat) : Nat := 0x900008 + n * 0x100
abbrev COUNT_LO_COUNT (n : Nat) : Fld := ⟨COUNT_LO n, 0, 32⟩
abbrev COUNT_HI (n : Nat) : Nat := 0x90000C + n * 0x100
abbrev COUNT_HI_COUNT (n : Nat) : Fld := ⟨COUNT_HI n, 0, 16⟩
abbrev INDEX_POS_LO (n : Nat) : Nat := 0x900010 + n * 0x100
abbrev INDEX_POS_LO_POS (n : Nat) : Fld := ⟨INDEX_POS_LO n, 0, 32⟩
abbrev INDEX_POS_HI (n : Nat) : Nat := 0x900014 + n * 0x100
abbrev INDEX_POS_HI_POS (n : Nat) : Fld := ⟨INDEX_POS_HI n, 0, 16⟩
abbrev LC_NOMINAL (n : Nat) : Nat := 0x900018 + n * 0x100
abbrev LC_NOMINAL_LINES (n : Nat) : Fld := ⟨LC_NOMINAL n, 0, 24⟩
abbrev ENC_LC_TOL (n : Nat) : Nat := 0x90001C + n * 0x100
abbrev ENC_LC_TOL_TOL (n : Nat) : Fld := ⟨ENC_LC_TOL n, 0, 16⟩
abbrev LC_LAST (n : Nat) : Nat := 0x900020 + n * 0x100
abbrev LC_LAST_NET (n : Nat) : Fld := ⟨LC_LAST n, 0, 32⟩
abbrev SPEED_WINDOW (n : Nat) : Nat := 0x900024 + n * 0x100
abbrev SPEED_WINDOW_WINDOW (n : Nat) : Fld := ⟨SPEED_WINDOW n, 0, 28⟩
abbrev SPEED (n : Nat) : Nat := 0x900028 + n * 0x100
abbrev SPEED_NET (n : Nat) : Fld := ⟨SPEED n, 0, 32⟩
abbrev EDGES (n : Nat) : Nat := 0x90002C + n * 0x100
abbrev EDGES_EDGES (n : Nat) : Fld := ⟨EDGES n, 0, 32⟩
abbrev LAST_INTERVAL (n : Nat) : Nat := 0x900030 + n * 0x100
abbrev LAST_INTERVAL_CLKS (n : Nat) : Fld := ⟨LAST_INTERVAL n, 0, 24⟩
abbrev ENC_STATUS (n : Nat) : Nat := 0x900034 + n * 0x100
abbrev ENC_STATUS_DIR (n : Nat) : Fld := ⟨ENC_STATUS n, 0, 1⟩
abbrev ENC_STATUS_ILLEGAL (n : Nat) : Fld := ⟨ENC_STATUS n, 1, 1⟩
abbrev ENC_STATUS_LINECOUNT_ERR (n : Nat) : Fld := ⟨ENC_STATUS n, 2, 1⟩
abbrev ENC_STATUS_DIR_CHG (n : Nat) : Fld := ⟨ENC_STATUS n, 3, 1⟩
abbrev ENC_STATUS_EDGE_RATE (n : Nat) : Fld := ⟨ENC_STATUS n, 4, 1⟩
abbrev ENC_STATUS_INDEX_SEEN (n : Nat) : Fld := ⟨ENC_STATUS n, 5, 1⟩
abbrev ENC_STATUS_ARMED (n : Nat) : Fld := ⟨ENC_STATUS n, 6, 1⟩
abbrev ENC_STATUS_SPEED_VALID (n : Nat) : Fld := ⟨ENC_STATUS n, 7, 1⟩
abbrev ENC_STATUS_CFG_REJ (n : Nat) : Fld := ⟨ENC_STATUS n, 8, 1⟩
abbrev ILLEGAL_CNT (n : Nat) : Nat := 0x900038 + n * 0x100
abbrev ILLEGAL_CNT_CNT (n : Nat) : Fld := ⟨ILLEGAL_CNT n, 0, 16⟩
abbrev DIR_CHG_CNT (n : Nat) : Nat := 0x90003C + n * 0x100
abbrev DIR_CHG_CNT_CNT (n : Nat) : Fld := ⟨DIR_CHG_CNT n, 0, 16⟩
abbrev LC_SKIP_CNT (n : Nat) : Nat := 0x900040 + n * 0x100
abbrev LC_SKIP_CNT_CNT (n : Nat) : Fld := ⟨LC_SKIP_CNT n, 0, 16⟩
abbrev EVT_INDEX (n : Nat) : Nat := 0x900044 + n * 0x100
abbrev EVT_INDEX_SEL (n : Nat) : Fld := ⟨EVT_INDEX n, 0, 9⟩
abbrev EVT_LINECOUNT (n : Nat) : Nat := 0x900048 + n * 0x100
abbrev EVT_LINECOUNT_SEL (n : Nat) : Fld := ⟨EVT_LINECOUNT n, 0, 9⟩
abbrev EVT_DIR (n : Nat) : Nat := 0x90004C + n * 0x100
abbrev EVT_DIR_SEL (n : Nat) : Fld := ⟨EVT_DIR n, 0, 9⟩
abbrev EVT_ILLEGAL (n : Nat) : Nat := 0x900050 + n * 0x100
abbrev EVT_ILLEGAL_SEL (n : Nat) : Fld := ⟨EVT_ILLEGAL n, 0, 9⟩
abbrev EVT_RATE (n : Nat) : Nat := 0x900054 + n * 0x100
abbrev EVT_RATE_SEL (n : Nat) : Fld := ⟨EVT_RATE n, 0, 9⟩
/-! Registers of R63 (chapter 02). -/
abbrev SSI_CTRL (n : Nat) : Nat := 0x901000 + n * 0x100
abbrev SSI_CTRL_EN (n : Nat) : Fld := ⟨SSI_CTRL n, 0, 1⟩
abbrev SSI_CTRL_GRAY (n : Nat) : Fld := ⟨SSI_CTRL n, 1, 1⟩
abbrev SSI_CTRL_TRIGGERED (n : Nat) : Fld := ⟨SSI_CTRL n, 2, 1⟩
abbrev SSI_CTRL_ERR_BIT_EN (n : Nat) : Fld := ⟨SSI_CTRL n, 3, 1⟩
abbrev SSI_CTRL_LEAD_BITS (n : Nat) : Fld := ⟨SSI_CTRL n, 4, 2⟩
abbrev SSI_CTRL_WORD_BITS (n : Nat) : Fld := ⟨SSI_CTRL n, 8, 6⟩
abbrev SSI_CTRL_TRAIL_BITS (n : Nat) : Fld := ⟨SSI_CTRL n, 16, 3⟩
abbrev SSI_CTRL_TRIG_CH (n : Nat) : Fld := ⟨SSI_CTRL n, 24, 8⟩
abbrev SSI_CLK (n : Nat) : Nat := 0x901004 + n * 0x100
abbrev SSI_CLK_HI (n : Nat) : Fld := ⟨SSI_CLK n, 0, 12⟩
abbrev SSI_CLK_LO (n : Nat) : Fld := ⟨SSI_CLK n, 16, 12⟩
abbrev SSI_MONO (n : Nat) : Nat := 0x901008 + n * 0x100
abbrev SSI_MONO_MONO (n : Nat) : Fld := ⟨SSI_MONO n, 0, 15⟩
abbrev SSI_CYCLE (n : Nat) : Nat := 0x90100C + n * 0x100
abbrev SSI_CYCLE_CYCLE (n : Nat) : Fld := ⟨SSI_CYCLE n, 0, 28⟩
abbrev SSI_DELAY (n : Nat) : Nat := 0x901010 + n * 0x100
abbrev SSI_DELAY_DELAY (n : Nat) : Fld := ⟨SSI_DELAY n, 0, 8⟩
abbrev SSI_MAXSTEP (n : Nat) : Nat := 0x901014 + n * 0x100
abbrev SSI_MAXSTEP_STEP (n : Nat) : Fld := ⟨SSI_MAXSTEP n, 0, 32⟩
abbrev SSI_VALUE_LO (n : Nat) : Nat := 0x901018 + n * 0x100
abbrev SSI_VALUE_LO_VALUE (n : Nat) : Fld := ⟨SSI_VALUE_LO n, 0, 32⟩
abbrev SSI_VALUE_HI (n : Nat) : Nat := 0x90101C + n * 0x100
abbrev SSI_VALUE_HI_VALUE (n : Nat) : Fld := ⟨SSI_VALUE_HI n, 0, 16⟩
abbrev SSI_COUNT_LO (n : Nat) : Nat := 0x901020 + n * 0x100
abbrev SSI_COUNT_LO_COUNT (n : Nat) : Fld := ⟨SSI_COUNT_LO n, 0, 32⟩
abbrev SSI_COUNT_HI (n : Nat) : Nat := 0x901024 + n * 0x100
abbrev SSI_COUNT_HI_COUNT (n : Nat) : Fld := ⟨SSI_COUNT_HI n, 0, 16⟩
abbrev SSI_STATUS (n : Nat) : Nat := 0x901028 + n * 0x100
abbrev SSI_STATUS_IDLE_ERR (n : Nat) : Fld := ⟨SSI_STATUS n, 0, 1⟩
abbrev SSI_STATUS_JUMP_ERR (n : Nat) : Fld := ⟨SSI_STATUS n, 1, 1⟩
abbrev SSI_STATUS_SENSOR_ERR (n : Nat) : Fld := ⟨SSI_STATUS n, 2, 1⟩
abbrev SSI_STATUS_OVERRUN (n : Nat) : Fld := ⟨SSI_STATUS n, 3, 1⟩
abbrev SSI_STATUS_VALID (n : Nat) : Fld := ⟨SSI_STATUS n, 4, 1⟩
abbrev SSI_STATUS_CFG_ERR (n : Nat) : Fld := ⟨SSI_STATUS n, 5, 1⟩
abbrev SSI_ERR_CNT (n : Nat) : Nat := 0x90102C + n * 0x100
abbrev SSI_ERR_CNT_CNT (n : Nat) : Fld := ⟨SSI_ERR_CNT n, 0, 16⟩
abbrev EVT_SSI_ERR (n : Nat) : Nat := 0x901030 + n * 0x100
abbrev EVT_SSI_ERR_SEL (n : Nat) : Fld := ⟨EVT_SSI_ERR n, 0, 9⟩
/-! Registers of R67 (chapter 02). -/
abbrev SW_CTRL (n : Nat) : Nat := 0x902000 + n * 0x20
abbrev SW_CTRL_EN (n : Nat) : Fld := ⟨SW_CTRL n, 0, 1⟩
abbrev SW_CTRL_GPIO (n : Nat) : Fld := ⟨SW_CTRL n, 1, 6⟩
abbrev SW_CTRL_INVERT (n : Nat) : Fld := ⟨SW_CTRL n, 7, 1⟩
abbrev SW_CTRL_MODE (n : Nat) : Fld := ⟨SW_CTRL n, 8, 1⟩
abbrev SW_CTRL_EDGE (n : Nat) : Fld := ⟨SW_CTRL n, 9, 2⟩
abbrev SW_CTRL_DEBOUNCE (n : Nat) : Fld := ⟨SW_CTRL n, 16, 16⟩
abbrev SW_EVT (n : Nat) : Nat := 0x902004 + n * 0x20
abbrev SW_EVT_SEL (n : Nat) : Fld := ⟨SW_EVT n, 0, 9⟩
abbrev SW_STATUS (n : Nat) : Nat := 0x902008 + n * 0x20
abbrev SW_STATUS_LEVEL (n : Nat) : Fld := ⟨SW_STATUS n, 0, 1⟩
abbrev SW_STATUS_CHANGED (n : Nat) : Fld := ⟨SW_STATUS n, 1, 1⟩
abbrev SW_CNT (n : Nat) : Nat := 0x90200C + n * 0x20
abbrev SW_CNT_CNT (n : Nat) : Fld := ⟨SW_CNT n, 0, 16⟩
/-! Registers of R103 (chapter 03). -/
abbrev PE_CTRL : Nat := 0x800000
abbrev PE_CTRL_RESERVE : Fld := ⟨PE_CTRL, 0, 18⟩
abbrev PE_USED : Nat := 0x800004
abbrev PE_USED_USED : Fld := ⟨PE_USED, 0, 19⟩
abbrev PE_HIGH_WATER : Nat := 0x800008
abbrev PE_HIGH_WATER_MAX : Fld := ⟨PE_HIGH_WATER, 0, 19⟩
abbrev PE_STATUS : Nat := 0x80000C
abbrev PE_STATUS_TABLE_FULL : Fld := ⟨PE_STATUS, 0, 1⟩
abbrev PE_STATUS_LATE : Fld := ⟨PE_STATUS, 1, 1⟩
abbrev PE_STATUS_FIRE_DEFER : Fld := ⟨PE_STATUS, 2, 1⟩
abbrev PE_STATUS_PERIOD_SKIP : Fld := ⟨PE_STATUS, 3, 1⟩
abbrev PE_STATUS_DISCARD : Fld := ⟨PE_STATUS, 4, 1⟩
abbrev FULL_CNT : Nat := 0x800010
abbrev FULL_CNT_CNT : Fld := ⟨FULL_CNT, 0, 32⟩
abbrev LATE_DROP_CNT : Nat := 0x800014
abbrev LATE_DROP_CNT_CNT : Fld := ⟨LATE_DROP_CNT, 0, 32⟩
abbrev LATE_FIRE_CNT : Nat := 0x800018
abbrev LATE_FIRE_CNT_CNT : Fld := ⟨LATE_FIRE_CNT, 0, 32⟩
abbrev FIRE_DEFER_CNT : Nat := 0x80001C
abbrev FIRE_DEFER_CNT_CNT : Fld := ⟨FIRE_DEFER_CNT, 0, 32⟩
abbrev PERIOD_SKIP_CNT : Nat := 0x800020
abbrev PERIOD_SKIP_CNT_CNT : Fld := ⟨PERIOD_SKIP_CNT, 0, 32⟩
abbrev DISCARD_CNT : Nat := 0x800024
abbrev DISCARD_CNT_CNT : Fld := ⟨DISCARD_CNT, 0, 32⟩
abbrev INSERT_CNT : Nat := 0x800028
abbrev INSERT_CNT_CNT : Fld := ⟨INSERT_CNT, 0, 32⟩
abbrev FIRE_CNT : Nat := 0x80002C
abbrev FIRE_CNT_CNT : Fld := ⟨FIRE_CNT, 0, 32⟩
abbrev EVT_FULL : Nat := 0x800030
abbrev EVT_FULL_SEL : Fld := ⟨EVT_FULL, 0, 9⟩
abbrev EVT_LATE : Nat := 0x800034
abbrev EVT_LATE_SEL : Fld := ⟨EVT_LATE, 0, 9⟩
/-! Registers of R104 (chapter 03). -/
abbrev SRC_CTRL (n : Nat) : Nat := 0x801000 + n * 0x40
abbrev SRC_CTRL_EN (n : Nat) : Fld := ⟨SRC_CTRL n, 0, 1⟩
abbrev SRC_CTRL_INPUT (n : Nat) : Fld := ⟨SRC_CTRL n, 1, 2⟩
abbrev SRC_CTRL_NUM (n : Nat) : Fld := ⟨SRC_CTRL n, 3, 3⟩
abbrev SRC_CTRL_INTERP (n : Nat) : Fld := ⟨SRC_CTRL n, 6, 2⟩
abbrev SRC_OFFSET_LO (n : Nat) : Nat := 0x801004 + n * 0x40
abbrev SRC_OFFSET_LO_OFFSET (n : Nat) : Fld := ⟨SRC_OFFSET_LO n, 0, 32⟩
abbrev SRC_OFFSET_HI (n : Nat) : Nat := 0x801008 + n * 0x40
abbrev SRC_OFFSET_HI_OFFSET (n : Nat) : Fld := ⟨SRC_OFFSET_HI n, 0, 24⟩
abbrev SRC_POS_LO (n : Nat) : Nat := 0x80100C + n * 0x40
abbrev SRC_POS_LO_POS (n : Nat) : Fld := ⟨SRC_POS_LO n, 0, 32⟩
abbrev SRC_POS_HI (n : Nat) : Nat := 0x801010 + n * 0x40
abbrev SRC_POS_HI_POS (n : Nat) : Fld := ⟨SRC_POS_HI n, 0, 24⟩
abbrev SRC_RATE (n : Nat) : Nat := 0x801014 + n * 0x40
abbrev SRC_RATE_RATE (n : Nat) : Fld := ⟨SRC_RATE n, 0, 32⟩
abbrev SRC_STATUS (n : Nat) : Nat := 0x801018 + n * 0x40
abbrev SRC_STATUS_DIR (n : Nat) : Fld := ⟨SRC_STATUS n, 0, 1⟩
abbrev SRC_STATUS_INTERP_ON (n : Nat) : Fld := ⟨SRC_STATUS n, 1, 1⟩
abbrev SRC_STATUS_STALE (n : Nat) : Fld := ⟨SRC_STATUS n, 2, 1⟩
abbrev SRC_STATUS_WRITE_REJ (n : Nat) : Fld := ⟨SRC_STATUS n, 3, 1⟩
abbrev SRC_STATUS_STALE_SEEN (n : Nat) : Fld := ⟨SRC_STATUS n, 4, 1⟩
abbrev SRC_STALE (n : Nat) : Nat := 0x80101C + n * 0x40
abbrev SRC_STALE_READS (n : Nat) : Fld := ⟨SRC_STALE n, 0, 16⟩
abbrev SRC_PENDING (n : Nat) : Nat := 0x801020 + n * 0x40
abbrev SRC_PENDING_CNT (n : Nat) : Fld := ⟨SRC_PENDING n, 0, 19⟩
/-! Registers of R105 (chapter 03). -/
abbrev VIEW_BIND (n : Nat) : Nat := 0x802000 + n * 0x40
abbrev VIEW_BIND_SOURCE (n : Nat) : Fld := ⟨VIEW_BIND n, 0, 3⟩
abbrev VIEW_SCALE (n : Nat) : Nat := 0x802004 + n * 0x40
abbrev VIEW_SCALE_SCALE (n : Nat) : Fld := ⟨VIEW_SCALE n, 0, 32⟩
abbrev VIEW_OFFSET_LO (n : Nat) : Nat := 0x802008 + n * 0x40
abbrev VIEW_OFFSET_LO_OFFSET (n : Nat) : Fld := ⟨VIEW_OFFSET_LO n, 0, 32⟩
abbrev VIEW_OFFSET_HI (n : Nat) : Nat := 0x80200C + n * 0x40
abbrev VIEW_OFFSET_HI_OFFSET (n : Nat) : Fld := ⟨VIEW_OFFSET_HI n, 0, 24⟩
abbrev VIEW_POS_LO (n : Nat) : Nat := 0x802010 + n * 0x40
abbrev VIEW_POS_LO_POS (n : Nat) : Fld := ⟨VIEW_POS_LO n, 0, 32⟩
abbrev VIEW_POS_HI (n : Nat) : Nat := 0x802014 + n * 0x40
abbrev VIEW_POS_HI_POS (n : Nat) : Fld := ⟨VIEW_POS_HI n, 0, 24⟩
abbrev VIEW_STATUS (n : Nat) : Nat := 0x802018 + n * 0x40
abbrev VIEW_STATUS_BIND_REJ (n : Nat) : Fld := ⟨VIEW_STATUS n, 0, 1⟩
abbrev VIEW_STATUS_ACTIVE (n : Nat) : Fld := ⟨VIEW_STATUS n, 1, 1⟩
abbrev VIEW_PENDING (n : Nat) : Nat := 0x80201C + n * 0x40
abbrev VIEW_PENDING_CNT (n : Nat) : Fld := ⟨VIEW_PENDING n, 0, 19⟩
/-! Registers of R106 (chapter 03). -/
abbrev PORT_W_0 (n : Nat) : Nat := 0x803000 + n * 0x40
abbrev PORT_W_0_W (n : Nat) : Fld := ⟨PORT_W_0 n, 0, 32⟩
abbrev PORT_W_1 (n : Nat) : Nat := 0x803004 + n * 0x40
abbrev PORT_W_1_W (n : Nat) : Fld := ⟨PORT_W_1 n, 0, 32⟩
abbrev PORT_W_2 (n : Nat) : Nat := 0x803008 + n * 0x40
abbrev PORT_W_2_W (n : Nat) : Fld := ⟨PORT_W_2 n, 0, 32⟩
abbrev PORT_W_3 (n : Nat) : Nat := 0x80300C + n * 0x40
abbrev PORT_W_3_W (n : Nat) : Fld := ⟨PORT_W_3 n, 0, 32⟩
abbrev PORT_HANDLE (n : Nat) : Nat := 0x803010 + n * 0x40
abbrev PORT_HANDLE_INDEX (n : Nat) : Fld := ⟨PORT_HANDLE n, 0, 18⟩
abbrev PORT_HANDLE_GEN (n : Nat) : Fld := ⟨PORT_HANDLE n, 18, 8⟩
abbrev PORT_CMD (n : Nat) : Nat := 0x803014 + n * 0x40
abbrev PORT_CMD_OP (n : Nat) : Fld := ⟨PORT_CMD n, 0, 2⟩
abbrev PORT_RESULT (n : Nat) : Nat := 0x803018 + n * 0x40
abbrev PORT_RESULT_DONE (n : Nat) : Fld := ⟨PORT_RESULT n, 0, 1⟩
abbrev PORT_RESULT_CMD_IGN (n : Nat) : Fld := ⟨PORT_RESULT n, 1, 1⟩
abbrev PORT_RESULT_STATUS (n : Nat) : Fld := ⟨PORT_RESULT n, 4, 4⟩
abbrev PORT_RESULT_HANDLE (n : Nat) : Nat := 0x80301C + n * 0x40
abbrev PORT_RESULT_HANDLE_INDEX (n : Nat) : Fld := ⟨PORT_RESULT_HANDLE n, 0, 18⟩
abbrev PORT_RESULT_HANDLE_GEN (n : Nat) : Fld := ⟨PORT_RESULT_HANDLE n, 18, 8⟩
/-! Registers of R132 (chapter 04). -/
abbrev SWD_STATUS : Nat := 0xA00000
abbrev SWD_STATUS_GUARD_VIOL : Fld := ⟨SWD_STATUS, 0, 1⟩
abbrev SWD_STATUS_RUNAWAY : Fld := ⟨SWD_STATUS, 1, 1⟩
abbrev SWD_STATUS_DROP : Fld := ⟨SWD_STATUS, 2, 1⟩
abbrev SWD_STATUS_OVERRUN : Fld := ⟨SWD_STATUS, 3, 1⟩
abbrev SWD_VIOL_INFO : Nat := 0xA00004
abbrev SWD_VIOL_INFO_CH : Fld := ⟨SWD_VIOL_INFO, 0, 8⟩
abbrev SWD_VIOL_INFO_WHO : Fld := ⟨SWD_VIOL_INFO, 8, 2⟩
abbrev SWD_GSEQ : Nat := 0xA00008
abbrev SWD_GSEQ_GSEQ : Fld := ⟨SWD_GSEQ, 0, 32⟩
abbrev SWD_PUB : Nat := 0xA00040
abbrev SWD_PUB_CH : Fld := ⟨SWD_PUB, 0, 8⟩
abbrev SWD_PUB_PARAM : Fld := ⟨SWD_PUB, 8, 24⟩
abbrev WATCH (n : Nat) : Nat := 0xA00100 + n * 0x4
abbrev WATCH_FLAGS (n : Nat) : Fld := ⟨WATCH n, 0, 32⟩
abbrev WATCH_IRQ_EN (n : Nat) : Nat := 0xA00120 + n * 0x4
abbrev WATCH_IRQ_EN_EN (n : Nat) : Fld := ⟨WATCH_IRQ_EN n, 0, 32⟩
/-! Registers of R133 (chapter 04). -/
abbrev SWD_CH_CFG (n : Nat) : Nat := 0xA01000 + n * 0x20
abbrev SWD_CH_CFG_EN (n : Nat) : Fld := ⟨SWD_CH_CFG n, 0, 1⟩
abbrev SWD_CH_CFG_OWNER (n : Nat) : Fld := ⟨SWD_CH_CFG n, 1, 2⟩
abbrev SWD_CH_CFG_GUARD (n : Nat) : Fld := ⟨SWD_CH_CFG n, 3, 1⟩
abbrev SWD_CH_CFG_STAMP_SRC (n : Nat) : Fld := ⟨SWD_CH_CFG n, 4, 3⟩
abbrev CH_GUARD (n : Nat) : Nat := 0xA01004 + n * 0x20
abbrev CH_GUARD_MAX (n : Nat) : Fld := ⟨CH_GUARD n, 0, 16⟩
abbrev CH_GUARD_WIN (n : Nat) : Nat := 0xA01008 + n * 0x20
abbrev CH_GUARD_WIN_WIN (n : Nat) : Fld := ⟨CH_GUARD_WIN n, 0, 28⟩
abbrev SWD_CH_STATUS (n : Nat) : Nat := 0xA0100C + n * 0x20
abbrev SWD_CH_STATUS_RUNAWAY (n : Nat) : Fld := ⟨SWD_CH_STATUS n, 0, 1⟩
abbrev SWD_CH_STATUS_DROP (n : Nat) : Fld := ⟨SWD_CH_STATUS n, 1, 1⟩
abbrev SWD_CH_STATUS_LEVEL (n : Nat) : Fld := ⟨SWD_CH_STATUS n, 8, 7⟩
abbrev CH_CNT (n : Nat) : Nat := 0xA01010 + n * 0x20
abbrev CH_CNT_CNT (n : Nat) : Fld := ⟨CH_CNT n, 0, 32⟩
abbrev CH_DROP_CNT (n : Nat) : Nat := 0xA01014 + n * 0x20
abbrev CH_DROP_CNT_CNT (n : Nat) : Fld := ⟨CH_DROP_CNT n, 0, 32⟩
/-! Registers of R134 (chapter 04). -/
abbrev OUT_CTRL (n : Nat) : Nat := 0xA04000 + n * 0x20
abbrev OUT_CTRL_EN (n : Nat) : Fld := ⟨OUT_CTRL n, 0, 1⟩
abbrev OUT_CTRL_GPIO (n : Nat) : Fld := ⟨OUT_CTRL n, 1, 6⟩
abbrev OUT_CTRL_POL (n : Nat) : Fld := ⟨OUT_CTRL n, 7, 1⟩
abbrev OUT_CTRL_WIDTH_SRC (n : Nat) : Fld := ⟨OUT_CTRL n, 8, 1⟩
abbrev OUT_CTRL_BUSY_POLICY (n : Nat) : Fld := ⟨OUT_CTRL n, 9, 1⟩
abbrev OUT_SUB_A (n : Nat) : Nat := 0xA04004 + n * 0x20
abbrev OUT_SUB_A_SEL_0 (n : Nat) : Fld := ⟨OUT_SUB_A n, 0, 9⟩
abbrev OUT_SUB_A_SEL_1 (n : Nat) : Fld := ⟨OUT_SUB_A n, 16, 9⟩
abbrev OUT_SUB_B (n : Nat) : Nat := 0xA04008 + n * 0x20
abbrev OUT_SUB_B_SEL_2 (n : Nat) : Fld := ⟨OUT_SUB_B n, 0, 9⟩
abbrev OUT_SUB_B_SEL_3 (n : Nat) : Fld := ⟨OUT_SUB_B n, 16, 9⟩
abbrev OUT_WIDTH (n : Nat) : Nat := 0xA0400C + n * 0x20
abbrev OUT_WIDTH_CLKS (n : Nat) : Fld := ⟨OUT_WIDTH n, 0, 28⟩
abbrev OUT_STATUS (n : Nat) : Nat := 0xA04010 + n * 0x20
abbrev OUT_STATUS_LEVEL (n : Nat) : Fld := ⟨OUT_STATUS n, 0, 1⟩
abbrev OUT_STATUS_OVERRUN (n : Nat) : Fld := ⟨OUT_STATUS n, 1, 1⟩
abbrev OUT_STATUS_PIN_CONFLICT (n : Nat) : Fld := ⟨OUT_STATUS n, 2, 1⟩
abbrev OUT_OVR_CNT (n : Nat) : Nat := 0xA04014 + n * 0x20
abbrev OUT_OVR_CNT_CNT (n : Nat) : Fld := ⟨OUT_OVR_CNT n, 0, 16⟩
abbrev OUT_COINC_CNT (n : Nat) : Nat := 0xA04018 + n * 0x20
abbrev OUT_COINC_CNT_CNT (n : Nat) : Fld := ⟨OUT_COINC_CNT n, 0, 16⟩
/-! Registers of R135 (chapter 04). -/
abbrev ECNT_CTRL (n : Nat) : Nat := 0xA05000 + n * 0x20
abbrev ECNT_CTRL_EN (n : Nat) : Fld := ⟨ECNT_CTRL n, 0, 1⟩
abbrev ECNT_SUB_A (n : Nat) : Nat := 0xA05004 + n * 0x20
abbrev ECNT_SUB_A_SEL_0 (n : Nat) : Fld := ⟨ECNT_SUB_A n, 0, 9⟩
abbrev ECNT_SUB_A_SEL_1 (n : Nat) : Fld := ⟨ECNT_SUB_A n, 16, 9⟩
abbrev ECNT_SUB_B (n : Nat) : Nat := 0xA05008 + n * 0x20
abbrev ECNT_SUB_B_SEL_2 (n : Nat) : Fld := ⟨ECNT_SUB_B n, 0, 9⟩
abbrev ECNT_SUB_B_SEL_3 (n : Nat) : Fld := ⟨ECNT_SUB_B n, 16, 9⟩
abbrev ECNT_VALUE (n : Nat) : Nat := 0xA0500C + n * 0x20
abbrev ECNT_VALUE_VALUE (n : Nat) : Fld := ⟨ECNT_VALUE n, 0, 32⟩
abbrev ECNT_COINC_CNT (n : Nat) : Nat := 0xA05010 + n * 0x20
abbrev ECNT_COINC_CNT_CNT (n : Nat) : Fld := ⟨ECNT_COINC_CNT n, 0, 16⟩
/-! Registers of R173 (chapter 05). -/
abbrev TIME_CTRL : Nat := 0x1200000
abbrev TIME_CTRL_MODE : Fld := ⟨TIME_CTRL, 0, 1⟩
abbrev TIME_CTRL_RESTEP : Fld := ⟨TIME_CTRL, 1, 1⟩
abbrev TIME_CTRL_SLAVE_ONLY : Fld := ⟨TIME_CTRL, 2, 1⟩
abbrev TIME_CTRL_ONE_STEP : Fld := ⟨TIME_CTRL, 3, 1⟩
abbrev TIME_CTRL_PTP_MASK : Fld := ⟨TIME_CTRL, 4, 4⟩
abbrev TIME_CTRL_DOMAIN : Fld := ⟨TIME_CTRL, 8, 8⟩
abbrev TIME_STATUS : Nat := 0x1200004
abbrev TIME_STATUS_STATE : Fld := ⟨TIME_STATUS, 0, 3⟩
abbrev TIME_STATUS_STEPPED : Fld := ⟨TIME_STATUS, 3, 1⟩
abbrev TIME_STATUS_STATE_CHG : Fld := ⟨TIME_STATUS, 4, 1⟩
abbrev TIME_STATUS_WR_DENIED : Fld := ⟨TIME_STATUS, 5, 1⟩
abbrev TIME_STATUS_PTP_PORT : Fld := ⟨TIME_STATUS, 6, 2⟩
abbrev TIME_NS_LO : Nat := 0x1200008
abbrev TIME_NS_LO_NS : Fld := ⟨TIME_NS_LO, 0, 32⟩
abbrev TIME_NS_HI : Nat := 0x120000C
abbrev TIME_NS_HI_NS : Fld := ⟨TIME_NS_HI, 0, 32⟩
abbrev TIME_FRAC : Nat := 0x1200010
abbrev TIME_FRAC_FRAC : Fld := ⟨TIME_FRAC, 0, 32⟩
abbrev RATE_ADJ_LO : Nat := 0x1200014
abbrev RATE_ADJ_LO_ADJ : Fld := ⟨RATE_ADJ_LO, 0, 32⟩
abbrev RATE_ADJ_HI : Nat := 0x1200018
abbrev RATE_ADJ_HI_ADJ : Fld := ⟨RATE_ADJ_HI, 0, 8⟩
abbrev TIME_STEP_LO : Nat := 0x120001C
abbrev TIME_STEP_LO_STEP : Fld := ⟨TIME_STEP_LO, 0, 32⟩
abbrev TIME_STEP_HI : Nat := 0x1200020
abbrev TIME_STEP_HI_STEP : Fld := ⟨TIME_STEP_HI, 0, 32⟩
abbrev STEP_GSEQ : Nat := 0x1200024
abbrev STEP_GSEQ_GSEQ : Fld := ⟨STEP_GSEQ, 0, 32⟩
abbrev OFFSET : Nat := 0x1200028
abbrev OFFSET_NS : Fld := ⟨OFFSET, 0, 32⟩
abbrev PATH_DELAY : Nat := 0x120002C
abbrev PATH_DELAY_NS : Fld := ⟨PATH_DELAY, 0, 32⟩
abbrev LOCK_CFG : Nat := 0x1200030
abbrev LOCK_CFG_LOCK_THRESH : Fld := ⟨LOCK_CFG, 0, 16⟩
abbrev LOCK_CFG_LOCK_SAMPLES : Fld := ⟨LOCK_CFG, 16, 8⟩
abbrev LOCK_CFG_MAX_SLEW : Fld := ⟨LOCK_CFG, 24, 8⟩
abbrev PTP_CFG : Nat := 0x1200034
abbrev PTP_CFG_PRIORITY_1 : Fld := ⟨PTP_CFG, 0, 8⟩
abbrev PTP_CFG_PRIORITY_2 : Fld := ⟨PTP_CFG, 8, 8⟩
abbrev PTP_CFG_LOG_SYNC : Fld := ⟨PTP_CFG, 16, 4⟩
abbrev PTP_CFG_LOG_ANNOUNCE : Fld := ⟨PTP_CFG, 20, 4⟩
abbrev PTP_CFG_ANNOUNCE_TIMEOUT : Fld := ⟨PTP_CFG, 24, 4⟩
abbrev SERVO_TC : Nat := 0x1200038
abbrev SERVO_TC_SEC : Fld := ⟨SERVO_TC, 0, 8⟩
abbrev EVT_TIME : Nat := 0x1200040
abbrev EVT_TIME_SEL : Fld := ⟨EVT_TIME, 0, 9⟩
abbrev EVT_PORT : Nat := 0x1200044
abbrev EVT_PORT_SEL : Fld := ⟨EVT_PORT, 0, 9⟩
abbrev EVT_PEER : Nat := 0x1200048
abbrev EVT_PEER_SEL : Fld := ⟨EVT_PEER, 0, 9⟩
abbrev EVT_STREAM : Nat := 0x120004C
abbrev EVT_STREAM_SEL : Fld := ⟨EVT_STREAM, 0, 9⟩
/-! Registers of R174 (chapter 05). -/
abbrev ETH_CTRL (n : Nat) : Nat := 0x1201000 + n * 0x100
abbrev ETH_CTRL_EN (n : Nat) : Fld := ⟨ETH_CTRL n, 0, 1⟩
abbrev ETH_CTRL_SPEED (n : Nat) : Fld := ⟨ETH_CTRL n, 1, 1⟩
abbrev ETH_CTRL_RS_FEC (n : Nat) : Fld := ⟨ETH_CTRL n, 2, 1⟩
abbrev ETH_CTRL_VLAN_EN (n : Nat) : Fld := ⟨ETH_CTRL n, 3, 1⟩
abbrev ETH_CTRL_VID (n : Nat) : Fld := ⟨ETH_CTRL n, 4, 12⟩
abbrev ETH_CTRL_PCP (n : Nat) : Fld := ⟨ETH_CTRL n, 16, 3⟩
abbrev ETH_MAC_LO (n : Nat) : Nat := 0x1201004 + n * 0x100
abbrev ETH_MAC_LO_MAC (n : Nat) : Fld := ⟨ETH_MAC_LO n, 0, 32⟩
abbrev ETH_MAC_HI (n : Nat) : Nat := 0x1201008 + n * 0x100
abbrev ETH_MAC_HI_MAC (n : Nat) : Fld := ⟨ETH_MAC_HI n, 0, 16⟩
abbrev ETH_STATUS (n : Nat) : Nat := 0x120100C + n * 0x100
abbrev ETH_STATUS_LINK (n : Nat) : Fld := ⟨ETH_STATUS n, 0, 1⟩
abbrev ETH_STATUS_BLOCK_LOCK (n : Nat) : Fld := ⟨ETH_STATUS n, 1, 1⟩
abbrev ETH_STATUS_FEC_ALIGN (n : Nat) : Fld := ⟨ETH_STATUS n, 2, 1⟩
abbrev ETH_STATUS_LINK_CHG (n : Nat) : Fld := ⟨ETH_STATUS n, 3, 1⟩
abbrev ETH_STATUS_ETH_REJ (n : Nat) : Fld := ⟨ETH_STATUS n, 4, 1⟩
abbrev TX_LAT (n : Nat) : Nat := 0x1201010 + n * 0x100
abbrev TX_LAT_PS (n : Nat) : Fld := ⟨TX_LAT n, 0, 16⟩
abbrev RX_LAT (n : Nat) : Nat := 0x1201014 + n * 0x100
abbrev RX_LAT_PS (n : Nat) : Fld := ⟨RX_LAT n, 0, 18⟩
abbrev ASYM (n : Nat) : Nat := 0x1201018 + n * 0x100
abbrev ASYM_PS (n : Nat) : Fld := ⟨ASYM n, 0, 32⟩
abbrev RX_OK (n : Nat) : Nat := 0x120101C + n * 0x100
abbrev RX_OK_CNT (n : Nat) : Fld := ⟨RX_OK n, 0, 32⟩
abbrev RX_FCS_ERR (n : Nat) : Nat := 0x1201020 + n * 0x100
abbrev RX_FCS_ERR_CNT (n : Nat) : Fld := ⟨RX_FCS_ERR n, 0, 32⟩
abbrev RX_DISCARD (n : Nat) : Nat := 0x1201024 + n * 0x100
abbrev RX_DISCARD_CNT (n : Nat) : Fld := ⟨RX_DISCARD n, 0, 32⟩
abbrev TX_OK (n : Nat) : Nat := 0x1201028 + n * 0x100
abbrev TX_OK_CNT (n : Nat) : Fld := ⟨TX_OK n, 0, 32⟩
abbrev STA_FEC_UNCORR (n : Nat) : Nat := 0x120102C + n * 0x100
abbrev STA_FEC_UNCORR_CNT (n : Nat) : Fld := ⟨STA_FEC_UNCORR n, 0, 32⟩
/-! Registers of R175 (chapter 05). -/
abbrev STA_CTRL : Nat := 0x1202000
abbrev STA_CTRL_EN : Fld := ⟨STA_CTRL, 0, 1⟩
abbrev STA_CTRL_SENDER : Fld := ⟨STA_CTRL, 8, 8⟩
abbrev STA_CTRL_STATION_ID : Fld := ⟨STA_CTRL, 16, 16⟩
abbrev STA_GROUP_LO : Nat := 0x1202004
abbrev STA_GROUP_LO_MAC : Fld := ⟨STA_GROUP_LO, 0, 32⟩
abbrev STA_GROUP_HI : Nat := 0x1202008
abbrev STA_GROUP_HI_MAC : Fld := ⟨STA_GROUP_HI, 0, 16⟩
abbrev STA_PORTS : Nat := 0x120200C
abbrev STA_PORTS_TX_PORTS : Fld := ⟨STA_PORTS, 0, 4⟩
abbrev STA_PORTS_BEACON_PERIOD : Fld := ⟨STA_PORTS, 16, 16⟩
abbrev STA_STATUS : Nat := 0x1202010
abbrev STA_STATUS_ID_CONFLICT : Fld := ⟨STA_STATUS, 0, 1⟩
abbrev STA_STATUS_BAD_VER : Fld := ⟨STA_STATUS, 1, 1⟩
abbrev STA_STATUS_CMD_DENIED : Fld := ⟨STA_STATUS, 2, 1⟩
abbrev STA_STATUS_QUEUE_FULL : Fld := ⟨STA_STATUS, 3, 1⟩
abbrev STA_STATUS_PEER_FULL : Fld := ⟨STA_STATUS, 4, 1⟩
abbrev STA_DISCARD_CNT : Nat := 0x1202014
abbrev STA_DISCARD_CNT_CNT : Fld := ⟨STA_DISCARD_CNT, 0, 32⟩
abbrev DEFER_LATE_CNT : Nat := 0x1202018
abbrev DEFER_LATE_CNT_CNT : Fld := ⟨DEFER_LATE_CNT, 0, 32⟩
abbrev TXPOS (n : Nat) : Nat := 0x1202100 + n * 0x10
abbrev TXPOS_EN (n : Nat) : Fld := ⟨TXPOS n, 0, 1⟩
abbrev TXPOS_STREAM (n : Nat) : Fld := ⟨TXPOS n, 1, 3⟩
abbrev TXPOS_PERIOD (n : Nat) : Fld := ⟨TXPOS n, 16, 14⟩
abbrev RXPOS_CTRL (n : Nat) : Nat := 0x1202200 + n * 0x10
abbrev RXPOS_CTRL_EN (n : Nat) : Fld := ⟨RXPOS_CTRL n, 0, 1⟩
abbrev RXPOS_CTRL_STREAM (n : Nat) : Fld := ⟨RXPOS_CTRL n, 1, 3⟩
abbrev RXPOS_CTRL_SENDER (n : Nat) : Fld := ⟨RXPOS_CTRL n, 8, 8⟩
abbrev RXPOS_CTRL_PERIOD (n : Nat) : Fld := ⟨RXPOS_CTRL n, 16, 14⟩
abbrev RXPOS_LIMIT (n : Nat) : Nat := 0x1202204 + n * 0x10
abbrev RXPOS_LIMIT_MAX_AGE (n : Nat) : Fld := ⟨RXPOS_LIMIT n, 0, 16⟩
abbrev RXPOS_LIMIT_MAX_EXTRAP (n : Nat) : Fld := ⟨RXPOS_LIMIT n, 16, 16⟩
abbrev RXPOS_STATUS (n : Nat) : Nat := 0x1202208 + n * 0x10
abbrev RXPOS_STATUS_NOT_SYNC (n : Nat) : Fld := ⟨RXPOS_STATUS n, 0, 1⟩
abbrev RXPOS_STATUS_AGE_ERR (n : Nat) : Fld := ⟨RXPOS_STATUS n, 1, 1⟩
abbrev RXPOS_ACC_CNT (n : Nat) : Nat := 0x120220C + n * 0x10
abbrev RXPOS_ACC_CNT_CNT (n : Nat) : Fld := ⟨RXPOS_ACC_CNT n, 0, 32⟩
abbrev TXEVT (n : Nat) : Nat := 0x1202400 + n * 0x4
abbrev TXEVT_SEL (n : Nat) : Fld := ⟨TXEVT n, 0, 9⟩
abbrev RXEVT_SRC (n : Nat) : Nat := 0x1202500 + n * 0x10
abbrev RXEVT_SRC_CHANNEL (n : Nat) : Fld := ⟨RXEVT_SRC n, 0, 8⟩
abbrev RXEVT_SRC_SENDER (n : Nat) : Fld := ⟨RXEVT_SRC n, 8, 8⟩
abbrev RXEVT_SRC_EN (n : Nat) : Fld := ⟨RXEVT_SRC n, 16, 1⟩
abbrev RXEVT_SRC_LATE_FIRE (n : Nat) : Fld := ⟨RXEVT_SRC n, 17, 1⟩
abbrev RXEVT_DST (n : Nat) : Nat := 0x1202504 + n * 0x10
abbrev RXEVT_DST_SEL (n : Nat) : Fld := ⟨RXEVT_DST n, 0, 9⟩
abbrev RXEVT_DELAY (n : Nat) : Nat := 0x1202508 + n * 0x10
abbrev RXEVT_DELAY_NS (n : Nat) : Fld := ⟨RXEVT_DELAY n, 0, 32⟩
abbrev ALLOW (n : Nat) : Nat := 0x1202800 + n * 0x4
abbrev ALLOW_SENDER (n : Nat) : Fld := ⟨ALLOW n, 0, 8⟩
abbrev ALLOW_EN (n : Nat) : Fld := ⟨ALLOW n, 8, 1⟩
abbrev ALLOW_PRIV (n : Nat) : Fld := ⟨ALLOW n, 9, 1⟩
abbrev PEER_SERIAL_LO (n : Nat) : Nat := 0x1202C00 + n * 0x10
abbrev PEER_SERIAL_LO_SERIAL (n : Nat) : Fld := ⟨PEER_SERIAL_LO n, 0, 32⟩
abbrev PEER_SERIAL_HI (n : Nat) : Nat := 0x1202C04 + n * 0x10
abbrev PEER_SERIAL_HI_SERIAL (n : Nat) : Fld := ⟨PEER_SERIAL_HI n, 0, 32⟩
abbrev PEER_INFO (n : Nat) : Nat := 0x1202C08 + n * 0x10
abbrev PEER_INFO_SENDER (n : Nat) : Fld := ⟨PEER_INFO n, 0, 8⟩
abbrev PEER_INFO_PRESENT (n : Nat) : Fld := ⟨PEER_INFO n, 8, 1⟩
abbrev PEER_INFO_STATE (n : Nat) : Fld := ⟨PEER_INFO n, 9, 3⟩
abbrev PEER_INFO_AGE (n : Nat) : Fld := ⟨PEER_INFO n, 16, 16⟩
/-! Registers of R219 (chapter 06). -/
abbrev LANE_CTRL (n : Nat) : Nat := 0x100000 + n * 0x8000
abbrev LANE_CTRL_EN (n : Nat) : Fld := ⟨LANE_CTRL n, 0, 1⟩
abbrev LANE_CTRL_RESTART (n : Nat) : Fld := ⟨LANE_CTRL n, 1, 1⟩
abbrev LANE_CTRL_TX_PWR (n : Nat) : Fld := ⟨LANE_CTRL n, 2, 2⟩
abbrev LANE_CTRL_RX_PWR (n : Nat) : Fld := ⟨LANE_CTRL n, 4, 2⟩
abbrev LANE_CTRL_RX_AUTOWAKE (n : Nat) : Fld := ⟨LANE_CTRL n, 6, 1⟩
abbrev LANE_CTRL_TX_INV (n : Nat) : Fld := ⟨LANE_CTRL n, 7, 1⟩
abbrev LANE_CTRL_RX_INV (n : Nat) : Fld := ⟨LANE_CTRL n, 8, 1⟩
abbrev LANE_CTRL_LOOP (n : Nat) : Fld := ⟨LANE_CTRL n, 9, 2⟩
abbrev LANE_CTRL_NES_TX_OUT (n : Nat) : Fld := ⟨LANE_CTRL n, 11, 1⟩
abbrev LANE_CFG (n : Nat) : Nat := 0x100004 + n * 0x8000
abbrev LANE_CFG_RATE (n : Nat) : Fld := ⟨LANE_CFG n, 0, 2⟩
abbrev LANE_CFG_PRECODE (n : Nat) : Fld := ⟨LANE_CFG n, 2, 1⟩
abbrev LANE_CFG_ADAPT_FREEZE (n : Nat) : Fld := ⟨LANE_CFG n, 3, 1⟩
abbrev LANE_CFG_RX_PRESET (n : Nat) : Fld := ⟨LANE_CFG n, 4, 2⟩
abbrev LANE_CFG_TX_PRESET (n : Nat) : Fld := ⟨LANE_CFG n, 8, 4⟩
abbrev TX_COEF (n : Nat) : Nat := 0x100008 + n * 0x8000
abbrev TX_COEF_PRE2 (n : Nat) : Fld := ⟨TX_COEF n, 0, 4⟩
abbrev TX_COEF_PRE1 (n : Nat) : Fld := ⟨TX_COEF n, 4, 5⟩
abbrev TX_COEF_MAIN (n : Nat) : Fld := ⟨TX_COEF n, 9, 7⟩
abbrev TX_COEF_POST1 (n : Nat) : Fld := ⟨TX_COEF n, 16, 5⟩
abbrev TX_COEF_SWING (n : Nat) : Fld := ⟨TX_COEF n, 21, 2⟩
abbrev TX_COEF_ACT (n : Nat) : Nat := 0x10000C + n * 0x8000
abbrev TX_COEF_ACT_V (n : Nat) : Fld := ⟨TX_COEF_ACT n, 0, 23⟩
abbrev CTLE_CFG (n : Nat) : Nat := 0x100010 + n * 0x8000
abbrev CTLE_CFG_CTLE_MIN (n : Nat) : Fld := ⟨CTLE_CFG n, 0, 4⟩
abbrev CTLE_CFG_CTLE_MAX (n : Nat) : Fld := ⟨CTLE_CFG n, 8, 4⟩
abbrev CTLE_CFG_CTLE_SET (n : Nat) : Fld := ⟨CTLE_CFG n, 16, 4⟩
abbrev ACQ_CFG (n : Nat) : Nat := 0x100014 + n * 0x8000
abbrev ACQ_CFG_ACQ_TIMEOUT (n : Nat) : Fld := ⟨ACQ_CFG n, 0, 16⟩
abbrev ACQ_CFG_LOCK_EYE (n : Nat) : Fld := ⟨ACQ_CFG n, 16, 8⟩
abbrev DFE_TAP (n : Nat) (i : Nat) : Nat := 0x100044 + n * 0x8000 + i * 0x4
abbrev DFE_TAP_TAP (n : Nat) (i : Nat) : Fld := ⟨DFE_TAP n i, 0, 8⟩
abbrev LANE_STATUS (n : Nat) : Nat := 0x100080 + n * 0x8000
abbrev LANE_STATUS_PLL_LOCK (n : Nat) : Fld := ⟨LANE_STATUS n, 0, 1⟩
abbrev LANE_STATUS_SIG_DET (n : Nat) : Fld := ⟨LANE_STATUS n, 1, 1⟩
abbrev LANE_STATUS_CDR_LOCK (n : Nat) : Fld := ⟨LANE_STATUS n, 2, 1⟩
abbrev LANE_STATUS_ADAPT_DONE (n : Nat) : Fld := ⟨LANE_STATUS n, 3, 1⟩
abbrev LANE_STATUS_READY (n : Nat) : Fld := ⟨LANE_STATUS n, 4, 1⟩
abbrev LANE_STATUS_RX_STATE (n : Nat) : Fld := ⟨LANE_STATUS n, 5, 3⟩
abbrev LANE_STATUS_TX_PWR_ACT (n : Nat) : Fld := ⟨LANE_STATUS n, 8, 2⟩
abbrev LANE_STATUS_RX_PWR_ACT (n : Nat) : Fld := ⟨LANE_STATUS n, 10, 2⟩
abbrev LANE_STATUS_LOCK_LOST (n : Nat) : Fld := ⟨LANE_STATUS n, 16, 1⟩
abbrev LANE_STATUS_ACQ_TIMEOUT (n : Nat) : Fld := ⟨LANE_STATUS n, 17, 1⟩
abbrev LANE_STATUS_RATE_REJ (n : Nat) : Fld := ⟨LANE_STATUS n, 18, 1⟩
abbrev LANE_STATUS_FIR_REJ (n : Nat) : Fld := ⟨LANE_STATUS n, 19, 1⟩
abbrev LANE_STATUS_PPM_WARN (n : Nat) : Fld := ⟨LANE_STATUS n, 20, 1⟩
abbrev LANE_STATUS_SIG_WAKE (n : Nat) : Fld := ⟨LANE_STATUS n, 21, 1⟩
abbrev LANE_STATUS_LANE_WR_DENIED (n : Nat) : Fld := ⟨LANE_STATUS n, 22, 1⟩
abbrev LANE_STATUS_LOOP_REJ (n : Nat) : Fld := ⟨LANE_STATUS n, 23, 1⟩
abbrev FREQ_OFFSET (n : Nat) : Nat := 0x100084 + n * 0x8000
abbrev FREQ_OFFSET_PPM (n : Nat) : Fld := ⟨FREQ_OFFSET n, 0, 16⟩
abbrev LOCK_LOST_CNT (n : Nat) : Nat := 0x100088 + n * 0x8000
abbrev LOCK_LOST_CNT_CNT (n : Nat) : Fld := ⟨LOCK_LOST_CNT n, 0, 16⟩
abbrev ACQ_RETRY_CNT (n : Nat) : Nat := 0x10008C + n * 0x8000
abbrev ACQ_RETRY_CNT_CNT (n : Nat) : Fld := ⟨ACQ_RETRY_CNT n, 0, 16⟩
abbrev ACQ_TIME (n : Nat) : Nat := 0x100090 + n * 0x8000
abbrev ACQ_TIME_US (n : Nat) : Fld := ⟨ACQ_TIME n, 0, 20⟩
abbrev EYE_SUM_0 (n : Nat) : Nat := 0x1000A0 + n * 0x8000
abbrev EYE_SUM_0_H_LOWER (n : Nat) : Fld := ⟨EYE_SUM_0 n, 0, 8⟩
abbrev EYE_SUM_0_H_MID (n : Nat) : Fld := ⟨EYE_SUM_0 n, 8, 8⟩
abbrev EYE_SUM_0_H_UPPER (n : Nat) : Fld := ⟨EYE_SUM_0 n, 16, 8⟩
abbrev EYE_SUM_1 (n : Nat) : Nat := 0x1000A4 + n * 0x8000
abbrev EYE_SUM_1_W_LOWER (n : Nat) : Fld := ⟨EYE_SUM_1 n, 0, 8⟩
abbrev EYE_SUM_1_W_MID (n : Nat) : Fld := ⟨EYE_SUM_1 n, 8, 8⟩
abbrev EYE_SUM_1_W_UPPER (n : Nat) : Fld := ⟨EYE_SUM_1 n, 16, 8⟩
abbrev EYE_SUM_1_VALID (n : Nat) : Fld := ⟨EYE_SUM_1 n, 31, 1⟩
abbrev MARGIN_CTRL (n : Nat) : Nat := 0x1000A8 + n * 0x8000
abbrev MARGIN_CTRL_START (n : Nat) : Fld := ⟨MARGIN_CTRL n, 0, 1⟩
abbrev MARGIN_CTRL_EYE (n : Nat) : Fld := ⟨MARGIN_CTRL n, 1, 2⟩
abbrev MARGIN_CTRL_PHASE (n : Nat) : Fld := ⟨MARGIN_CTRL n, 3, 7⟩
abbrev MARGIN_CTRL_VOFF (n : Nat) : Fld := ⟨MARGIN_CTRL n, 10, 8⟩
abbrev MARGIN_CTRL_DWELL (n : Nat) : Fld := ⟨MARGIN_CTRL n, 18, 6⟩
abbrev MARGIN_STATUS (n : Nat) : Nat := 0x1000AC + n * 0x8000
abbrev MARGIN_STATUS_DONE (n : Nat) : Fld := ⟨MARGIN_STATUS n, 0, 1⟩
abbrev MARGIN_STATUS_ABORTED (n : Nat) : Fld := ⟨MARGIN_STATUS n, 1, 1⟩
abbrev MARGIN_ERR (n : Nat) : Nat := 0x1000B0 + n * 0x8000
abbrev MARGIN_ERR_CNT (n : Nat) : Fld := ⟨MARGIN_ERR n, 0, 32⟩
abbrev PRBS_CTRL (n : Nat) : Nat := 0x1000C0 + n * 0x8000
abbrev PRBS_CTRL_TX_EN (n : Nat) : Fld := ⟨PRBS_CTRL n, 0, 1⟩
abbrev PRBS_CTRL_RX_EN (n : Nat) : Fld := ⟨PRBS_CTRL n, 1, 1⟩
abbrev PRBS_CTRL_PATTERN (n : Nat) : Fld := ⟨PRBS_CTRL n, 2, 2⟩
abbrev PRBS_CTRL_INJECT (n : Nat) : Fld := ⟨PRBS_CTRL n, 4, 1⟩
abbrev PRBS_STATUS (n : Nat) : Nat := 0x1000C4 + n * 0x8000
abbrev PRBS_STATUS_LOCK (n : Nat) : Fld := ⟨PRBS_STATUS n, 0, 1⟩
abbrev PRBS_STATUS_PRBS_LOCK_LOST (n : Nat) : Fld := ⟨PRBS_STATUS n, 1, 1⟩
abbrev PRBS_ERR (n : Nat) : Nat := 0x1000C8 + n * 0x8000
abbrev PRBS_ERR_CNT (n : Nat) : Fld := ⟨PRBS_ERR n, 0, 32⟩
abbrev PRBS_BITS_LO (n : Nat) : Nat := 0x1000CC + n * 0x8000
abbrev PRBS_BITS_LO_BITS (n : Nat) : Fld := ⟨PRBS_BITS_LO n, 0, 32⟩
abbrev PRBS_BITS_HI (n : Nat) : Nat := 0x1000D0 + n * 0x8000
abbrev PRBS_BITS_HI_BITS (n : Nat) : Fld := ⟨PRBS_BITS_HI n, 0, 16⟩
abbrev EVT_LANE (n : Nat) : Nat := 0x1000E0 + n * 0x8000
abbrev EVT_LANE_SEL (n : Nat) : Fld := ⟨EVT_LANE n, 0, 9⟩
/-! Registers of R220 (chapter 06). -/
abbrev GRP_CFG (n : Nat) : Nat := 0x100800 + n * 0x20000
abbrev GRP_CFG_REFSEL (n : Nat) : Fld := ⟨GRP_CFG n, 0, 1⟩
abbrev GRP_CFG_FAMILY (n : Nat) : Fld := ⟨GRP_CFG n, 1, 2⟩
abbrev GRP_STATUS (n : Nat) : Nat := 0x100804 + n * 0x20000
abbrev GRP_STATUS_PLL_LOCK (n : Nat) : Fld := ⟨GRP_STATUS n, 0, 1⟩
abbrev GRP_STATUS_REF_LOSS (n : Nat) : Fld := ⟨GRP_STATUS n, 1, 1⟩
abbrev GRP_STATUS_PLL_UNLOCK (n : Nat) : Fld := ⟨GRP_STATUS n, 2, 1⟩
abbrev GRP_STATUS_GRP_REJ (n : Nat) : Fld := ⟨GRP_STATUS n, 3, 1⟩
abbrev GRP_STATUS_REF_PPM (n : Nat) : Fld := ⟨GRP_STATUS n, 16, 16⟩
abbrev PLL_UNLOCK_CNT (n : Nat) : Nat := 0x100808 + n * 0x20000
abbrev PLL_UNLOCK_CNT_CNT (n : Nat) : Fld := ⟨PLL_UNLOCK_CNT n, 0, 16⟩
/-! Registers of R275 (chapter 07). -/
abbrev LINK_CTRL (n : Nat) : Nat := 0x101000 + n * 0x8000
abbrev LINK_CTRL_EN (n : Nat) : Fld := ⟨LINK_CTRL n, 0, 1⟩
abbrev LINK_CTRL_WIDTH (n : Nat) : Fld := ⟨LINK_CTRL n, 1, 2⟩
abbrev LINK_CTRL_ECHO_EN (n : Nat) : Fld := ⟨LINK_CTRL n, 3, 1⟩
abbrev LINK_CTRL_CREDIT_RESET (n : Nat) : Fld := ⟨LINK_CTRL n, 4, 1⟩
abbrev LINK_CFG (n : Nat) : Nat := 0x101004 + n * 0x8000
abbrev LINK_CFG_CTRL_TIMEOUT (n : Nat) : Fld := ⟨LINK_CFG n, 0, 16⟩
abbrev LINK_CFG_ECHO_PERIOD (n : Nat) : Fld := ⟨LINK_CFG n, 16, 16⟩
abbrev LINK_STATUS (n : Nat) : Nat := 0x101008 + n * 0x8000
abbrev LINK_STATUS_LINK_STATE (n : Nat) : Fld := ⟨LINK_STATUS n, 0, 3⟩
abbrev LINK_STATUS_VER_MAJOR (n : Nat) : Fld := ⟨LINK_STATUS n, 4, 4⟩
abbrev LINK_STATUS_VER_MINOR (n : Nat) : Fld := ⟨LINK_STATUS n, 8, 4⟩
abbrev LINK_STATUS_AM_LOST (n : Nat) : Fld := ⟨LINK_STATUS n, 16, 1⟩
abbrev LINK_STATUS_DESKEW_ERR (n : Nat) : Fld := ⟨LINK_STATUS n, 17, 1⟩
abbrev LINK_STATUS_WIDTH_ERR (n : Nat) : Fld := ⟨LINK_STATUS n, 18, 1⟩
abbrev LINK_STATUS_VER_ERR (n : Nat) : Fld := ⟨LINK_STATUS n, 19, 1⟩
abbrev LINK_STATUS_EB_SLIP (n : Nat) : Fld := ⟨LINK_STATUS n, 20, 1⟩
abbrev LINK_STATUS_CTRL_RESET (n : Nat) : Fld := ⟨LINK_STATUS n, 21, 1⟩
abbrev LINK_STATUS_OVERFLOW (n : Nat) : Fld := ⟨LINK_STATUS n, 22, 1⟩
abbrev PARTNER_CAP (n : Nat) : Nat := 0x10100C + n * 0x8000
abbrev PARTNER_CAP_ROLE (n : Nat) : Fld := ⟨PARTNER_CAP n, 0, 2⟩
abbrev PARTNER_CAP_T56 (n : Nat) : Fld := ⟨PARTNER_CAP n, 2, 1⟩
abbrev PARTNER_CAP_DET_TRIG (n : Nat) : Fld := ⟨PARTNER_CAP n, 3, 1⟩
abbrev PARTNER_CAP_BOND (n : Nat) : Fld := ⟨PARTNER_CAP n, 4, 1⟩
abbrev PARTNER_CAP_TIME_POS (n : Nat) : Fld := ⟨PARTNER_CAP n, 5, 1⟩
abbrev PARTNER_CAP_MAX_WIDTH (n : Nat) : Fld := ⟨PARTNER_CAP n, 6, 2⟩
abbrev PARTNER_CAP_CTRL_CREDITS (n : Nat) : Fld := ⟨PARTNER_CAP n, 8, 8⟩
abbrev PARTNER_LAT (n : Nat) : Nat := 0x101010 + n * 0x8000
abbrev PARTNER_LAT_MIN_LAUNCH (n : Nat) : Fld := ⟨PARTNER_LAT n, 0, 16⟩
abbrev PARTNER_LAT_NOMINAL_LAT (n : Nat) : Fld := ⟨PARTNER_LAT n, 16, 16⟩
abbrev PARTNER_RES (n : Nat) : Nat := 0x101014 + n * 0x8000
abbrev PARTNER_RES_MAX_RES (n : Nat) : Fld := ⟨PARTNER_RES n, 0, 16⟩
abbrev LINK_DELAY (n : Nat) : Nat := 0x101018 + n * 0x8000
abbrev LINK_DELAY_DELAY (n : Nat) : Fld := ⟨LINK_DELAY n, 0, 16⟩
abbrev LINK_DELAY_VALID (n : Nat) : Fld := ⟨LINK_DELAY n, 31, 1⟩
abbrev RATE_AGREE (n : Nat) : Nat := 0x10101C + n * 0x8000
abbrev RATE_AGREE_RATE (n : Nat) : Fld := ⟨RATE_AGREE n, 0, 2⟩
abbrev RATE_AGREE_PROPOSE (n : Nat) : Fld := ⟨RATE_AGREE n, 2, 1⟩
abbrev RATE_AGREE_ACCEPTED (n : Nat) : Fld := ⟨RATE_AGREE n, 3, 1⟩
abbrev RATE_AGREE_REFUSED (n : Nat) : Fld := ⟨RATE_AGREE n, 4, 1⟩
abbrev TIME_POS_CFG (n : Nat) : Nat := 0x101020 + n * 0x8000
abbrev TIME_POS_CFG_PERIOD (n : Nat) : Fld := ⟨TIME_POS_CFG n, 0, 16⟩
abbrev TIME_POS_CFG_VIEW (n : Nat) : Fld := ⟨TIME_POS_CFG n, 16, 3⟩
abbrev EVT_LINK (n : Nat) : Nat := 0x101024 + n * 0x8000
abbrev EVT_LINK_SEL (n : Nat) : Fld := ⟨EVT_LINK n, 0, 9⟩
abbrev EVT_HEAD (n : Nat) : Nat := 0x101028 + n * 0x8000
abbrev EVT_HEAD_SEL (n : Nat) : Fld := ⟨EVT_HEAD n, 0, 9⟩
abbrev FEC_CORR_CW (n : Nat) : Nat := 0x101030 + n * 0x8000
abbrev FEC_CORR_CW_CNT (n : Nat) : Fld := ⟨FEC_CORR_CW n, 0, 32⟩
abbrev FEC_CORR_SYM (n : Nat) : Nat := 0x101034 + n * 0x8000
abbrev FEC_CORR_SYM_CNT (n : Nat) : Fld := ⟨FEC_CORR_SYM n, 0, 32⟩
abbrev LINK_FEC_UNCORR (n : Nat) : Nat := 0x101038 + n * 0x8000
abbrev LINK_FEC_UNCORR_CNT (n : Nat) : Fld := ⟨LINK_FEC_UNCORR n, 0, 32⟩
abbrev CRC_ERR (n : Nat) : Nat := 0x10103C + n * 0x8000
abbrev CRC_ERR_CNT (n : Nat) : Fld := ⟨CRC_ERR n, 0, 32⟩
abbrev BAD_BLOCK (n : Nat) : Nat := 0x101040 + n * 0x8000
abbrev BAD_BLOCK_CNT (n : Nat) : Fld := ⟨BAD_BLOCK n, 0, 32⟩
abbrev FILL_INS (n : Nat) : Nat := 0x101044 + n * 0x8000
abbrev FILL_INS_CNT (n : Nat) : Fld := ⟨FILL_INS n, 0, 32⟩
abbrev FILL_DEL (n : Nat) : Nat := 0x101048 + n * 0x8000
abbrev FILL_DEL_CNT (n : Nat) : Fld := ⟨FILL_DEL n, 0, 32⟩
abbrev LOSS_CNT (n : Nat) : Nat := 0x10104C + n * 0x8000
abbrev LOSS_CNT_CNT (n : Nat) : Fld := ⟨LOSS_CNT n, 0, 32⟩
abbrev CTRL_TIMEOUT_CNT (n : Nat) : Nat := 0x101050 + n * 0x8000
abbrev CTRL_TIMEOUT_CNT_CNT (n : Nat) : Fld := ⟨CTRL_TIMEOUT_CNT n, 0, 16⟩
abbrev STALE_RSP_CNT (n : Nat) : Nat := 0x101054 + n * 0x8000
abbrev STALE_RSP_CNT_CNT (n : Nat) : Fld := ⟨STALE_RSP_CNT n, 0, 16⟩
abbrev INGEST_HIGH (n : Nat) : Nat := 0x101058 + n * 0x8000
abbrev INGEST_HIGH_BYTES (n : Nat) : Fld := ⟨INGEST_HIGH n, 0, 20⟩
abbrev NO_EP_CNT (n : Nat) : Nat := 0x10105C + n * 0x8000
abbrev NO_EP_CNT_CNT (n : Nat) : Fld := ⟨NO_EP_CNT n, 0, 32⟩
/-! Registers of R276 (chapter 07). -/
abbrev TRIG_CTRL (n : Nat) (i : Nat) : Nat := 0x101100 + n * 0x8000 + i * 0x40
abbrev TRIG_CTRL_EN (n : Nat) (i : Nat) : Fld := ⟨TRIG_CTRL n i, 0, 1⟩
abbrev TRIG_CTRL_GROUP (n : Nat) (i : Nat) : Fld := ⟨TRIG_CTRL n i, 8, 8⟩
abbrev TRIG_CTRL_DEF_PSET (n : Nat) (i : Nat) : Fld := ⟨TRIG_CTRL n i, 16, 8⟩
abbrev TRIG_CTRL_VIEW (n : Nat) (i : Nat) : Fld := ⟨TRIG_CTRL n i, 24, 3⟩
abbrev TRIG_SUB (n : Nat) (i : Nat) : Nat := 0x101104 + n * 0x8000 + i * 0x40
abbrev TRIG_SUB_SEL (n : Nat) (i : Nat) : Fld := ⟨TRIG_SUB n i, 0, 9⟩
abbrev TRIG_LAT (n : Nat) (i : Nat) : Nat := 0x101108 + n * 0x8000 + i * 0x40
abbrev TRIG_LAT_NS (n : Nat) (i : Nat) : Fld := ⟨TRIG_LAT n i, 0, 12⟩
abbrev TRIG_STATUS (n : Nat) (i : Nat) : Nat := 0x10110C + n * 0x8000 + i * 0x40
abbrev TRIG_STATUS_RUNNING (n : Nat) (i : Nat) : Fld := ⟨TRIG_STATUS n i, 0, 1⟩
abbrev TRIG_STATUS_BUDGET_ERR (n : Nat) (i : Nat) : Fld := ⟨TRIG_STATUS n i, 1, 1⟩
abbrev TRIG_STATUS_OVERRUN (n : Nat) (i : Nat) : Fld := ⟨TRIG_STATUS n i, 2, 1⟩
abbrev TRIG_STATUS_LATE (n : Nat) (i : Nat) : Fld := ⟨TRIG_STATUS n i, 3, 1⟩
abbrev TRIG_STATUS_JITTER (n : Nat) (i : Nat) : Fld := ⟨TRIG_STATUS n i, 8, 8⟩
abbrev TRIG_STATUS_MIN_LAT (n : Nat) (i : Nat) : Fld := ⟨TRIG_STATUS n i, 16, 16⟩
abbrev TRIG_SEQ (n : Nat) (i : Nat) : Nat := 0x101110 + n * 0x8000 + i * 0x40
abbrev TRIG_SEQ_SEQ (n : Nat) (i : Nat) : Fld := ⟨TRIG_SEQ n i, 0, 12⟩
abbrev TRIG_LATE_CNT (n : Nat) (i : Nat) : Nat := 0x101114 + n * 0x8000 + i * 0x40
abbrev TRIG_LATE_CNT_CNT (n : Nat) (i : Nat) : Fld := ⟨TRIG_LATE_CNT n i, 0, 32⟩
abbrev TRIG_OVR_CNT (n : Nat) (i : Nat) : Nat := 0x101118 + n * 0x8000 + i * 0x40
abbrev TRIG_OVR_CNT_CNT (n : Nat) (i : Nat) : Fld := ⟨TRIG_OVR_CNT n i, 0, 16⟩
abbrev TRIG_COINC_CNT (n : Nat) (i : Nat) : Nat := 0x10111C + n * 0x8000 + i * 0x40
abbrev TRIG_COINC_CNT_CNT (n : Nat) (i : Nat) : Fld := ⟨TRIG_COINC_CNT n i, 0, 16⟩
abbrev TRIG_DOWN_CNT (n : Nat) (i : Nat) : Nat := 0x101120 + n * 0x8000 + i * 0x40
abbrev TRIG_DOWN_CNT_CNT (n : Nat) (i : Nat) : Fld := ⟨TRIG_DOWN_CNT n i, 0, 16⟩
/-! Registers of R277 (chapter 07). -/
abbrev LL_STATUS (n : Nat) : Nat := 0x101800 + n * 0x8000
abbrev LL_STATUS_AM_LOCK (n : Nat) : Fld := ⟨LL_STATUS n, 0, 1⟩
abbrev LL_STATUS_LOGICAL (n : Nat) : Fld := ⟨LL_STATUS n, 1, 3⟩
abbrev LL_STATUS_SKEW (n : Nat) : Fld := ⟨LL_STATUS n, 8, 8⟩
abbrev BIP_ERR (n : Nat) : Nat := 0x101804 + n * 0x8000
abbrev BIP_ERR_CNT (n : Nat) : Fld := ⟨BIP_ERR n, 0, 16⟩
abbrev AM_MISS_CNT (n : Nat) : Nat := 0x101808 + n * 0x8000
abbrev AM_MISS_CNT_CNT (n : Nat) : Fld := ⟨AM_MISS_CNT n, 0, 16⟩
/-! Registers of R313 (chapter 08). -/
abbrev EPT_STATUS : Nat := 0x200000
abbrev EPT_STATUS_EP_FULL : Fld := ⟨EPT_STATUS, 0, 1⟩
abbrev EPT_STATUS_NEW_EP : Fld := ⟨EPT_STATUS, 1, 1⟩
abbrev EPT_STATUS_LOST_EP : Fld := ⟨EPT_STATUS, 2, 1⟩
abbrev EPT_STATUS_DUP_SERIAL : Fld := ⟨EPT_STATUS, 3, 1⟩
abbrev EPT_STATUS_ID_REUSED : Fld := ⟨EPT_STATUS, 4, 1⟩
abbrev EPT_COUNT : Nat := 0x200004
abbrev EPT_COUNT_LIVE : Fld := ⟨EPT_COUNT, 0, 12⟩
abbrev EPT_COUNT_LOST : Fld := ⟨EPT_COUNT, 16, 12⟩
abbrev EVT_EPT : Nat := 0x200008
abbrev EVT_EPT_SEL : Fld := ⟨EVT_EPT, 0, 9⟩
abbrev HEALTH_CFG : Nat := 0x20000C
abbrev HEALTH_CFG_PERIOD : Fld := ⟨HEALTH_CFG, 0, 16⟩
abbrev HEALTH_CFG_MISSES : Fld := ⟨HEALTH_CFG, 16, 4⟩
abbrev MEM_FORECAST : Nat := 0x200010
abbrev MEM_FORECAST_MBS : Fld := ⟨MEM_FORECAST, 0, 32⟩
abbrev LINK_FORECAST_F (n : Nat) : Nat := 0x200100 + n * 0x4
abbrev LINK_FORECAST_F_MBS (n : Nat) : Fld := ⟨LINK_FORECAST_F n, 0, 16⟩
abbrev LINK_FORECAST_F_CAP (n : Nat) : Fld := ⟨LINK_FORECAST_F n, 16, 15⟩
abbrev LINK_FORECAST_F_OVER_CAP (n : Nat) : Fld := ⟨LINK_FORECAST_F n, 31, 1⟩
/-! Registers of R314 (chapter 08). -/
abbrev EP_INFO (n : Nat) : Nat := 0x280000 + n * 0x100
abbrev EP_INFO_EP_STATE (n : Nat) : Fld := ⟨EP_INFO n, 0, 3⟩
abbrev EP_INFO_IS_HUB (n : Nat) : Fld := ⟨EP_INFO n, 3, 1⟩
abbrev EP_INFO_LINK (n : Nat) : Fld := ⟨EP_INFO n, 4, 5⟩
abbrev EP_INFO_SLOT (n : Nat) : Fld := ⟨EP_INFO n, 9, 6⟩
abbrev EP_INFO_BEHIND_HUB (n : Nat) : Fld := ⟨EP_INFO n, 15, 1⟩
abbrev EP_INFO_PARENT (n : Nat) : Fld := ⟨EP_INFO n, 16, 11⟩
abbrev EP_INFO_DET_TRIG (n : Nat) : Fld := ⟨EP_INFO n, 27, 1⟩
abbrev EP_INFO_CREDITS (n : Nat) : Fld := ⟨EP_INFO n, 28, 4⟩
abbrev EP_PATH (n : Nat) : Nat := 0x280004 + n * 0x100
abbrev EP_PATH_BUDGET (n : Nat) : Fld := ⟨EP_PATH n, 0, 16⟩
abbrev EP_PATH_NOMINAL_LAT (n : Nat) : Fld := ⟨EP_PATH n, 16, 16⟩
abbrev ID_WORD (n : Nat) (i : Nat) : Nat := 0x280008 + n * 0x100 + i * 0x4
abbrev ID_WORD_V (n : Nat) (i : Nat) : Fld := ⟨ID_WORD n i, 0, 32⟩
abbrev EP_CTRL (n : Nat) : Nat := 0x280028 + n * 0x100
abbrev EP_CTRL_AUTO_RESTART (n : Nat) : Fld := ⟨EP_CTRL n, 0, 1⟩
abbrev EP_CTRL_FORGET (n : Nat) : Fld := ⟨EP_CTRL n, 1, 1⟩
abbrev EP_STATUS (n : Nat) : Nat := 0x28002C + n * 0x100
abbrev EP_STATUS_CAUSE (n : Nat) : Fld := ⟨EP_STATUS n, 0, 4⟩
abbrev EP_STATUS_PSET_REJ (n : Nat) : Fld := ⟨EP_STATUS n, 8, 1⟩
abbrev EP_STATUS_HEAD_RESET (n : Nat) : Fld := ⟨EP_STATUS n, 9, 1⟩
abbrev EP_STATUS_DUP_SERIAL (n : Nat) : Fld := ⟨EP_STATUS n, 10, 1⟩
abbrev HEALTH_MISS_CNT (n : Nat) : Nat := 0x280030 + n * 0x100
abbrev HEALTH_MISS_CNT_CNT (n : Nat) : Fld := ⟨HEALTH_MISS_CNT n, 0, 16⟩
abbrev UNBOUND_CNT (n : Nat) : Nat := 0x280034 + n * 0x100
abbrev UNBOUND_CNT_CNT (n : Nat) : Fld := ⟨UNBOUND_CNT n, 0, 32⟩
abbrev PSET_EXP (n : Nat) (i : Nat) : Nat := 0x280080 + n * 0x100 + i * 0x8
abbrev PSET_EXP_NS (n : Nat) (i : Nat) : Fld := ⟨PSET_EXP n i, 0, 32⟩
abbrev PSET_CFG (n : Nat) (i : Nat) : Nat := 0x280084 + n * 0x100 + i * 0x8
abbrev PSET_CFG_GAIN (n : Nat) (i : Nat) : Fld := ⟨PSET_CFG n i, 0, 16⟩
/-! Registers of R315 (chapter 08). -/
abbrev SD_CTRL (n : Nat) : Nat := 0x240000 + n * 0x40
abbrev SD_CTRL_EN (n : Nat) : Fld := ⟨SD_CTRL n, 0, 1⟩
abbrev SD_CTRL_RAW_RING (n : Nat) : Fld := ⟨SD_CTRL n, 1, 1⟩
abbrev SD_CTRL_TILE (n : Nat) : Fld := ⟨SD_CTRL n, 2, 1⟩
abbrev SD_BIND (n : Nat) : Nat := 0x240004 + n * 0x40
abbrev SD_BIND_EP (n : Nat) : Fld := ⟨SD_BIND n, 0, 11⟩
abbrev SD_BIND_STREAM (n : Nat) : Fld := ⟨SD_BIND n, 12, 4⟩
abbrev SD_BIND_VIEW (n : Nat) : Fld := ⟨SD_BIND n, 16, 3⟩
abbrev SD_BIND_HEAD (n : Nat) : Fld := ⟨SD_BIND n, 20, 8⟩
abbrev SD_BIND_TRIG_IN (n : Nat) : Fld := ⟨SD_BIND n, 28, 3⟩
abbrev SD_FORMAT (n : Nat) : Nat := 0x240008 + n * 0x40
abbrev SD_FORMAT_FMT (n : Nat) : Fld := ⟨SD_FORMAT n, 0, 3⟩
abbrev SD_FORMAT_COMP (n : Nat) : Fld := ⟨SD_FORMAT n, 3, 2⟩
abbrev SD_FORMAT_LAYOUT (n : Nat) : Fld := ⟨SD_FORMAT n, 5, 1⟩
abbrev SD_FORMAT_COMP_MAP (n : Nat) : Fld := ⟨SD_FORMAT n, 8, 16⟩
abbrev SD_GEOM (n : Nat) : Nat := 0x24000C + n * 0x40
abbrev SD_GEOM_WIDTH (n : Nat) : Fld := ⟨SD_GEOM n, 0, 17⟩
abbrev SD_TILE (n : Nat) : Nat := 0x240010 + n * 0x40
abbrev SD_TILE_TILE_ROWS (n : Nat) : Fld := ⟨SD_TILE n, 0, 14⟩
abbrev SD_RATE (n : Nat) : Nat := 0x240014 + n * 0x40
abbrev SD_RATE_MAX_RATE (n : Nat) : Fld := ⟨SD_RATE n, 0, 32⟩
abbrev SD_STATUS (n : Nat) : Nat := 0x240018 + n * 0x40
abbrev SD_STATUS_ADMIT_ERR (n : Nat) : Fld := ⟨SD_STATUS n, 0, 3⟩
abbrev SD_STATUS_RUNNING (n : Nat) : Fld := ⟨SD_STATUS n, 8, 1⟩
abbrev SD_STATUS_DESC_REJ (n : Nat) : Fld := ⟨SD_STATUS n, 9, 1⟩
abbrev SD_LAST_LINE (n : Nat) : Nat := 0x24001C + n * 0x40
abbrev SD_LAST_LINE_LINE (n : Nat) : Fld := ⟨SD_LAST_LINE n, 0, 32⟩
abbrev SD_LOSS_CNT (n : Nat) : Nat := 0x240020 + n * 0x40
abbrev SD_LOSS_CNT_CNT (n : Nat) : Fld := ⟨SD_LOSS_CNT n, 0, 32⟩
abbrev SD_GEOM_CNT (n : Nat) : Nat := 0x240024 + n * 0x40
abbrev SD_GEOM_CNT_CNT (n : Nat) : Fld := ⟨SD_GEOM_CNT n, 0, 16⟩
abbrev SD_VIEW_OFF_CNT (n : Nat) : Nat := 0x240028 + n * 0x40
abbrev SD_VIEW_OFF_CNT_CNT (n : Nat) : Fld := ⟨SD_VIEW_OFF_CNT n, 0, 32⟩
abbrev SD_LOAD (n : Nat) : Nat := 0x24002C + n * 0x40
abbrev SD_LOAD_MBS (n : Nat) : Fld := ⟨SD_LOAD n, 0, 16⟩
/-! Registers of R316 (chapter 08). -/
abbrev CP_EP (n : Nat) : Nat := 0x201000 + n * 0x200
abbrev CP_EP_EP (n : Nat) : Fld := ⟨CP_EP n, 0, 11⟩
abbrev CP_REQ (n : Nat) : Nat := 0x201004 + n * 0x200
abbrev CP_REQ_OP (n : Nat) : Fld := ⟨CP_REQ n, 0, 1⟩
abbrev CP_REQ_WORDS (n : Nat) : Fld := ⟨CP_REQ n, 1, 7⟩
abbrev CP_ADDR (n : Nat) : Nat := 0x201008 + n * 0x200
abbrev CP_ADDR_ADDR (n : Nat) : Fld := ⟨CP_ADDR n, 0, 32⟩
abbrev CP_CMD (n : Nat) : Nat := 0x20100C + n * 0x200
abbrev CP_CMD_GO (n : Nat) : Fld := ⟨CP_CMD n, 0, 1⟩
abbrev CP_RESULT (n : Nat) : Nat := 0x201010 + n * 0x200
abbrev CP_RESULT_DONE (n : Nat) : Fld := ⟨CP_RESULT n, 0, 1⟩
abbrev CP_RESULT_CMD_IGN (n : Nat) : Fld := ⟨CP_RESULT n, 1, 1⟩
abbrev CP_RESULT_RSTATUS (n : Nat) : Fld := ⟨CP_RESULT n, 4, 4⟩
abbrev CP_RESULT_TAG (n : Nat) : Fld := ⟨CP_RESULT n, 8, 8⟩
abbrev CP_DATA (n : Nat) (i : Nat) : Nat := 0x201100 + n * 0x200 + i * 0x4
abbrev CP_DATA_DATA (n : Nat) (i : Nat) : Fld := ⟨CP_DATA n i, 0, 32⟩
/-! Registers of R317 (chapter 08). -/
abbrev MF_CFG (n : Nat) : Nat := 0x1500000 + n * 0x20
abbrev MF_CFG_EN (n : Nat) : Fld := ⟨MF_CFG n, 0, 1⟩
abbrev MF_CFG_RING (n : Nat) : Fld := ⟨MF_CFG n, 8, 8⟩
abbrev MF_CFG_DEPTH (n : Nat) : Fld := ⟨MF_CFG n, 16, 11⟩
abbrev MF_STATUS (n : Nat) : Nat := 0x1500004 + n * 0x20
abbrev MF_STATUS_LEVEL (n : Nat) : Fld := ⟨MF_STATUS n, 0, 11⟩
abbrev MF_STATUS_OVERFLOW (n : Nat) : Fld := ⟨MF_STATUS n, 16, 1⟩
abbrev MF_STATUS_FLUSH_CUT (n : Nat) : Fld := ⟨MF_STATUS n, 17, 1⟩
abbrev MF_STATUS_PARITY (n : Nat) : Fld := ⟨MF_STATUS n, 18, 1⟩
abbrev MF_STATUS_DEPTH_REJ (n : Nat) : Fld := ⟨MF_STATUS n, 19, 1⟩
abbrev MF_FLUSH (n : Nat) : Nat := 0x1500008 + n * 0x20
abbrev MF_FLUSH_FLUSH (n : Nat) : Fld := ⟨MF_FLUSH n, 0, 1⟩
abbrev MF_DROP_CNT (n : Nat) : Nat := 0x150000C + n * 0x20
abbrev MF_DROP_CNT_CNT (n : Nat) : Fld := ⟨MF_DROP_CNT n, 0, 32⟩
abbrev MF_CUT_CNT (n : Nat) : Nat := 0x1500010 + n * 0x20
abbrev MF_CUT_CNT_CNT (n : Nat) : Fld := ⟨MF_CUT_CNT n, 0, 16⟩
abbrev MF_PARITY_CNT (n : Nat) : Nat := 0x1500014 + n * 0x20
abbrev MF_PARITY_CNT_CNT (n : Nat) : Fld := ⟨MF_PARITY_CNT n, 0, 16⟩
/-! Registers of R351 (chapter 09). -/
abbrev LING_STATUS : Nat := 0xB00000
abbrev LING_STATUS_LATCHED : Fld := ⟨LING_STATUS, 0, 8⟩
abbrev EVT_LING : Nat := 0xB00004
abbrev EVT_LING_SEL : Fld := ⟨EVT_LING, 0, 9⟩
abbrev DOSE_CFG : Nat := 0xB00008
abbrev DOSE_CFG_PERIOD : Fld := ⟨DOSE_CFG, 0, 4⟩
abbrev DOSE_CFG_WARN_PCT : Fld := ⟨DOSE_CFG, 8, 8⟩
/-! Registers of R352 (chapter 09). -/
abbrev LING_CH_CTRL (n : Nat) : Nat := 0xB01000 + n * 0x800
abbrev LING_CH_CTRL_EN (n : Nat) : Fld := ⟨LING_CH_CTRL n, 0, 1⟩
abbrev LING_CH_CTRL_CURVE (n : Nat) : Fld := ⟨LING_CH_CTRL n, 1, 2⟩
abbrev LING_CH_CTRL_STAGGER (n : Nat) : Fld := ⟨LING_CH_CTRL n, 3, 1⟩
abbrev LING_CH_CTRL_BURST (n : Nat) : Fld := ⟨LING_CH_CTRL n, 4, 1⟩
abbrev LING_CH_CTRL_DIAG_EN (n : Nat) : Fld := ⟨LING_CH_CTRL n, 5, 1⟩
abbrev LING_CH_CTRL_CLK_DIV (n : Nat) : Fld := ⟨LING_CH_CTRL n, 8, 8⟩
abbrev LING_CH_CTRL_RET_DELAY (n : Nat) : Fld := ⟨LING_CH_CTRL n, 16, 8⟩
abbrev CH_TIMING (n : Nat) : Nat := 0xB01004 + n * 0x800
abbrev CH_TIMING_PRE (n : Nat) : Fld := ⟨CH_TIMING n, 0, 9⟩
abbrev CH_TIMING_ENABLE_DELAY (n : Nat) : Fld := ⟨CH_TIMING n, 16, 10⟩
abbrev CH_BURST (n : Nat) : Nat := 0xB01008 + n * 0x800
abbrev CH_BURST_ROW_GAP (n : Nat) : Fld := ⟨CH_BURST n, 0, 8⟩
abbrev CH_BURST_BURST_MAX (n : Nat) : Fld := ⟨CH_BURST n, 16, 12⟩
abbrev CH_BUDGET (n : Nat) : Nat := 0xB0100C + n * 0x800
abbrev CH_BUDGET_BUDGET (n : Nat) : Fld := ⟨CH_BUDGET n, 0, 16⟩
abbrev GEN_CTRL (n : Nat) : Nat := 0xB01010 + n * 0x800
abbrev GEN_CTRL_GEN_EN (n : Nat) : Fld := ⟨GEN_CTRL n, 0, 1⟩
abbrev GEN_CTRL_VIEW (n : Nat) : Fld := ⟨GEN_CTRL n, 1, 3⟩
abbrev GEN_CTRL_CHANNEL (n : Nat) : Fld := ⟨GEN_CTRL n, 8, 8⟩
abbrev GEN_CTRL_WIDTH (n : Nat) : Fld := ⟨GEN_CTRL n, 16, 16⟩
abbrev GEN_FIRST_LO (n : Nat) : Nat := 0xB01014 + n * 0x800
abbrev GEN_FIRST_LO_POS (n : Nat) : Fld := ⟨GEN_FIRST_LO n, 0, 32⟩
abbrev GEN_FIRST_HI (n : Nat) : Nat := 0xB01018 + n * 0x800
abbrev GEN_FIRST_HI_POS (n : Nat) : Fld := ⟨GEN_FIRST_HI n, 0, 24⟩
abbrev GEN_PITCH (n : Nat) : Nat := 0xB0101C + n * 0x800
abbrev GEN_PITCH_PITCH (n : Nat) : Fld := ⟨GEN_PITCH n, 0, 24⟩
abbrev COMMIT_CTRL (n : Nat) : Nat := 0xB01020 + n * 0x800
abbrev COMMIT_CTRL_GO (n : Nat) : Fld := ⟨COMMIT_CTRL n, 0, 1⟩
abbrev COMMIT_CTRL_SET (n : Nat) : Fld := ⟨COMMIT_CTRL n, 1, 1⟩
abbrev COMMIT_CTRL_NOW (n : Nat) : Fld := ⟨COMMIT_CTRL n, 2, 1⟩
abbrev COMMIT_CTRL_RAMP_STEPS (n : Nat) : Fld := ⟨COMMIT_CTRL n, 8, 8⟩
abbrev COMMIT_CTRL_TL_NUM (n : Nat) : Fld := ⟨COMMIT_CTRL n, 16, 3⟩
abbrev COMMIT_CTRL_TL_VIEW (n : Nat) : Fld := ⟨COMMIT_CTRL n, 19, 1⟩
abbrev COMMIT_POS_LO (n : Nat) : Nat := 0xB01024 + n * 0x800
abbrev COMMIT_POS_LO_POS (n : Nat) : Fld := ⟨COMMIT_POS_LO n, 0, 32⟩
abbrev COMMIT_POS_HI (n : Nat) : Nat := 0xB01028 + n * 0x800
abbrev COMMIT_POS_HI_POS (n : Nat) : Fld := ⟨COMMIT_POS_HI n, 0, 24⟩
abbrev RAMP_PITCH (n : Nat) : Nat := 0xB0102C + n * 0x800
abbrev RAMP_PITCH_PITCH (n : Nat) : Fld := ⟨RAMP_PITCH n, 0, 24⟩
abbrev LING_CH_STATE (n : Nat) : Nat := 0xB01030 + n * 0x800
abbrev LING_CH_STATE_DRIVERS (n : Nat) : Fld := ⟨LING_CH_STATE n, 0, 6⟩
abbrev LING_CH_STATE_HEADS (n : Nat) : Fld := ⟨LING_CH_STATE n, 8, 6⟩
abbrev LING_CH_STATE_ROWS_USED (n : Nat) : Fld := ⟨LING_CH_STATE n, 16, 5⟩
abbrev LING_CH_STATE_ACTIVE_SET (n : Nat) : Fld := ⟨LING_CH_STATE n, 24, 1⟩
abbrev LING_CH_STATE_COMMIT_PEND (n : Nat) : Fld := ⟨LING_CH_STATE n, 25, 1⟩
abbrev LING_CH_STATE_HELD (n : Nat) : Fld := ⟨LING_CH_STATE n, 26, 1⟩
abbrev LING_CH_STATE_CUT (n : Nat) : Fld := ⟨LING_CH_STATE n, 27, 1⟩
abbrev LING_CH_STATE_LATCHED (n : Nat) : Fld := ⟨LING_CH_STATE n, 28, 1⟩
abbrev LING_CH_STATE_CAUSE (n : Nat) : Fld := ⟨LING_CH_STATE n, 29, 3⟩
abbrev LING_CH_STATUS (n : Nat) : Nat := 0xB01034 + n * 0x800
abbrev LING_CH_STATUS_OPEN (n : Nat) : Fld := ⟨LING_CH_STATUS n, 0, 1⟩
abbrev LING_CH_STATUS_SHORT (n : Nat) : Fld := ⟨LING_CH_STATUS n, 1, 1⟩
abbrev LING_CH_STATUS_UNVERIFIED (n : Nat) : Fld := ⟨LING_CH_STATUS n, 2, 1⟩
abbrev LING_CH_STATUS_PERR (n : Nat) : Fld := ⟨LING_CH_STATUS n, 3, 1⟩
abbrev LING_CH_STATUS_COMMIT_MISS (n : Nat) : Fld := ⟨LING_CH_STATUS n, 4, 1⟩
abbrev LING_CH_STATUS_LATCH_IDLE (n : Nat) : Fld := ⟨LING_CH_STATUS n, 5, 1⟩
abbrev LING_CH_STATUS_OVERRUN (n : Nat) : Fld := ⟨LING_CH_STATUS n, 6, 1⟩
abbrev LING_CH_STATUS_LATCH_DEFER (n : Nat) : Fld := ⟨LING_CH_STATUS n, 7, 1⟩
abbrev LING_CH_STATUS_STROBE_LATE (n : Nat) : Fld := ⟨LING_CH_STATUS n, 8, 1⟩
abbrev LING_CH_STATUS_BUDGET_ERR (n : Nat) : Fld := ⟨LING_CH_STATUS n, 9, 1⟩
abbrev LING_CH_STATUS_LIMIT (n : Nat) : Fld := ⟨LING_CH_STATUS n, 10, 1⟩
abbrev LING_CH_STATUS_DUTY_SKIP (n : Nat) : Fld := ⟨LING_CH_STATUS n, 11, 1⟩
abbrev LING_CH_STATUS_COMMIT_BUSY (n : Nat) : Fld := ⟨LING_CH_STATUS n, 12, 1⟩
abbrev LING_CH_STATUS_CFG_REJ (n : Nat) : Fld := ⟨LING_CH_STATUS n, 13, 1⟩
abbrev LING_CH_STATUS_ID_BAD (n : Nat) : Fld := ⟨LING_CH_STATUS n, 14, 1⟩
abbrev LING_CH_STATUS_SAFE_HEAD (n : Nat) : Fld := ⟨LING_CH_STATUS n, 15, 1⟩
abbrev LING_CH_STATUS_TEMP_WARN (n : Nat) : Fld := ⟨LING_CH_STATUS n, 16, 1⟩
abbrev LING_CH_STATUS_DOSE_DEFER (n : Nat) : Fld := ⟨LING_CH_STATUS n, 17, 1⟩
abbrev LING_CH_STATUS_GEN_STALL (n : Nat) : Fld := ⟨LING_CH_STATUS n, 18, 1⟩
abbrev LING_CH_STATUS_DIAG_SKIP (n : Nat) : Fld := ⟨LING_CH_STATUS n, 19, 1⟩
abbrev STRB_SUB (n : Nat) : Nat := 0xB01038 + n * 0x800
abbrev STRB_SUB_SEL (n : Nat) : Fld := ⟨STRB_SUB n, 0, 9⟩
abbrev LING_CUT_SUB (n : Nat) : Nat := 0xB0103C + n * 0x800
abbrev LING_CUT_SUB_SEL (n : Nat) : Fld := ⟨LING_CUT_SUB n, 0, 9⟩
abbrev DARK_SUB (n : Nat) : Nat := 0xB01040 + n * 0x800
abbrev DARK_SUB_SEL (n : Nat) : Fld := ⟨DARK_SUB n, 0, 9⟩
abbrev DARK_START (n : Nat) : Nat := 0xB01044 + n * 0x800
abbrev DARK_START_OFFSET (n : Nat) : Fld := ⟨DARK_START n, 0, 24⟩
abbrev DIAG_CFG (n : Nat) : Nat := 0xB01048 + n * 0x800
abbrev DIAG_CFG_STATUS_PERIOD (n : Nat) : Fld := ⟨DIAG_CFG n, 0, 16⟩
abbrev DIAG_CFG_VERIFY_WINDOW (n : Nat) : Fld := ⟨DIAG_CFG n, 16, 16⟩
abbrev CUT_CLR (n : Nat) : Nat := 0xB0104C + n * 0x800
abbrev CUT_CLR_CLR (n : Nat) : Fld := ⟨CUT_CLR n, 0, 1⟩
abbrev STRB_OVR_CNT (n : Nat) : Nat := 0xB01050 + n * 0x800
abbrev STRB_OVR_CNT_CNT (n : Nat) : Fld := ⟨STRB_OVR_CNT n, 0, 16⟩
abbrev STRB_COINC_CNT (n : Nat) : Nat := 0xB01054 + n * 0x800
abbrev STRB_COINC_CNT_CNT (n : Nat) : Fld := ⟨STRB_COINC_CNT n, 0, 16⟩
abbrev STRB_SKIP_CNT (n : Nat) : Nat := 0xB01058 + n * 0x800
abbrev STRB_SKIP_CNT_CNT (n : Nat) : Fld := ⟨STRB_SKIP_CNT n, 0, 32⟩
abbrev DUTY_SKIP_CNT (n : Nat) : Nat := 0xB0105C + n * 0x800
abbrev DUTY_SKIP_CNT_CNT (n : Nat) : Fld := ⟨DUTY_SKIP_CNT n, 0, 32⟩
abbrev PERR_CNT (n : Nat) : Nat := 0xB01060 + n * 0x800
abbrev PERR_CNT_CNT (n : Nat) : Fld := ⟨PERR_CNT n, 0, 32⟩
abbrev DIAG_CNT (n : Nat) : Nat := 0xB01064 + n * 0x800
abbrev DIAG_CNT_CNT (n : Nat) : Fld := ⟨DIAG_CNT n, 0, 32⟩
abbrev LATE_CNT (n : Nat) : Nat := 0xB01068 + n * 0x800
abbrev LATE_CNT_CNT (n : Nat) : Fld := ⟨LATE_CNT n, 0, 32⟩
abbrev CHS (n : Nat) (i : Nat) : Nat := 0xB01100 + n * 0x800 + i * 0x4
abbrev CHS_OPEN (n : Nat) (i : Nat) : Fld := ⟨CHS n i, 0, 16⟩
abbrev CHS_SHORT (n : Nat) (i : Nat) : Fld := ⟨CHS n i, 16, 16⟩
abbrev UNVER (n : Nat) (i : Nat) : Nat := 0xB01180 + n * 0x800 + i * 0x4
abbrev UNVER_UNVERIFIED (n : Nat) (i : Nat) : Fld := ⟨UNVER n i, 0, 16⟩
abbrev HEAD_INFO (n : Nat) (i : Nat) : Nat := 0xB01200 + n * 0x800 + i * 0x10
abbrev HEAD_INFO_FIRST (n : Nat) (i : Nat) : Fld := ⟨HEAD_INFO n i, 0, 5⟩
abbrev HEAD_INFO_DRIVERS (n : Nat) (i : Nat) : Fld := ⟨HEAD_INFO n i, 5, 6⟩
abbrev HEAD_INFO_MODE (n : Nat) (i : Nat) : Fld := ⟨HEAD_INFO n i, 12, 2⟩
abbrev HEAD_INFO_PROTO (n : Nat) (i : Nat) : Fld := ⟨HEAD_INFO n i, 16, 8⟩
abbrev HEAD_TEMP (n : Nat) (i : Nat) : Nat := 0xB01204 + n * 0x800 + i * 0x10
abbrev HEAD_TEMP_TEMP (n : Nat) (i : Nat) : Fld := ⟨HEAD_TEMP n i, 0, 8⟩
abbrev HEAD_LIFE (n : Nat) (i : Nat) : Nat := 0xB01208 + n * 0x800 + i * 0x10
abbrev HEAD_LIFE_DOSE_PCT (n : Nat) (i : Nat) : Fld := ⟨HEAD_LIFE n i, 0, 16⟩
abbrev HEAD_LIFE_LIFE_WARN (n : Nat) (i : Nat) : Fld := ⟨HEAD_LIFE n i, 16, 1⟩
abbrev HEAD_LIFE_LIFE_END (n : Nat) (i : Nat) : Fld := ⟨HEAD_LIFE n i, 17, 1⟩
abbrev HEAD_WB_SEQ (n : Nat) (i : Nat) : Nat := 0xB0120C + n * 0x800 + i * 0x10
abbrev HEAD_WB_SEQ_SEQ (n : Nat) (i : Nat) : Fld := ⟨HEAD_WB_SEQ n i, 0, 32⟩
/-! Registers of R393 (chapter 10). -/
abbrev MEM_STATUS : Nat := 0x300000
abbrev MEM_STATUS_MEM_READY : Fld := ⟨MEM_STATUS, 0, 1⟩
abbrev MEM_STATUS_STACK_FAIL : Fld := ⟨MEM_STATUS, 1, 2⟩
abbrev MEM_STATUS_UE : Fld := ⟨MEM_STATUS, 3, 1⟩
abbrev MEM_STATUS_CE_WARN : Fld := ⟨MEM_STATUS, 4, 1⟩
abbrev MEM_STATUS_LAYOUT_REJ : Fld := ⟨MEM_STATUS, 5, 1⟩
abbrev MEM_STATUS_RAW_FAIL : Fld := ⟨MEM_STATUS, 6, 1⟩
abbrev MEM_STATUS_MEM_STALL : Fld := ⟨MEM_STATUS, 7, 1⟩
abbrev MEM_STATUS_DENIED : Fld := ⟨MEM_STATUS, 8, 1⟩
abbrev MEM_STATUS_PARTIAL_POISON : Fld := ⟨MEM_STATUS, 9, 1⟩
abbrev MEM_STATUS_MARK_IGN : Fld := ⟨MEM_STATUS, 10, 1⟩
abbrev HOSTWIN_SEGS : Nat := 0x300004
abbrev HOSTWIN_SEGS_SEGS : Fld := ⟨HOSTWIN_SEGS, 0, 20⟩
abbrev REF_QUOTA : Nat := 0x300008
abbrev REF_QUOTA_SEGS : Fld := ⟨REF_QUOTA, 0, 20⟩
abbrev WORK_QUOTA : Nat := 0x30000C
abbrev WORK_QUOTA_SEGS : Fld := ⟨WORK_QUOTA, 0, 20⟩
abbrev HIST_QUOTA : Nat := 0x300010
abbrev HIST_QUOTA_SEGS : Fld := ⟨HIST_QUOTA, 0, 20⟩
abbrev FREE_HIST : Nat := 0x300014
abbrev FREE_HIST_SEGS : Fld := ⟨FREE_HIST, 0, 20⟩
abbrev FREE_REF : Nat := 0x300018
abbrev FREE_REF_SEGS : Fld := ⟨FREE_REF, 0, 20⟩
abbrev FREE_WORK : Nat := 0x30001C
abbrev FREE_WORK_SEGS : Fld := ⟨FREE_WORK, 0, 20⟩
abbrev EVT_CREEL : Nat := 0x300020
abbrev EVT_CREEL_SEL : Fld := ⟨EVT_CREEL, 0, 9⟩
abbrev MARK_SUB_A : Nat := 0x300024
abbrev MARK_SUB_A_SEL_0 : Fld := ⟨MARK_SUB_A, 0, 9⟩
abbrev MARK_SUB_A_SEL_1 : Fld := ⟨MARK_SUB_A, 16, 9⟩
abbrev MARK_SUB_B : Nat := 0x300028
abbrev MARK_SUB_B_SEL_2 : Fld := ⟨MARK_SUB_B, 0, 9⟩
abbrev MARK_SUB_B_SEL_3 : Fld := ⟨MARK_SUB_B, 16, 9⟩
abbrev SCRUB_CFG : Nat := 0x300030
abbrev SCRUB_CFG_EN : Fld := ⟨SCRUB_CFG, 0, 1⟩
abbrev SCRUB_CFG_PERIOD : Fld := ⟨SCRUB_CFG, 8, 8⟩
abbrev SCRUB_STATUS : Nat := 0x300034
abbrev SCRUB_STATUS_PROGRESS : Fld := ⟨SCRUB_STATUS, 0, 20⟩
abbrev SCRUB_PASS_CNT : Nat := 0x300038
abbrev SCRUB_PASS_CNT_CNT : Fld := ⟨SCRUB_PASS_CNT, 0, 32⟩
abbrev CE_CNT_0 : Nat := 0x300040
abbrev CE_CNT_0_CNT : Fld := ⟨CE_CNT_0, 0, 32⟩
abbrev CE_CNT_1 : Nat := 0x300044
abbrev CE_CNT_1_CNT : Fld := ⟨CE_CNT_1, 0, 32⟩
abbrev UE_CNT_0 : Nat := 0x300048
abbrev UE_CNT_0_CNT : Fld := ⟨UE_CNT_0, 0, 32⟩
abbrev UE_CNT_1 : Nat := 0x30004C
abbrev UE_CNT_1_CNT : Fld := ⟨UE_CNT_1, 0, 32⟩
abbrev CE_THRESH : Nat := 0x300050
abbrev CE_THRESH_CNT : Fld := ⟨CE_THRESH, 0, 16⟩
abbrev CE_WARN_PC : Nat := 0x300054
abbrev CE_WARN_PC_PC : Fld := ⟨CE_WARN_PC, 0, 6⟩
abbrev DENIED_CNT : Nat := 0x300058
abbrev DENIED_CNT_CNT : Fld := ⟨DENIED_CNT, 0, 32⟩
abbrev SEG_QUERY : Nat := 0x30005C
abbrev SEG_QUERY_SEG : Fld := ⟨SEG_QUERY, 0, 20⟩
abbrev SEG_INFO : Nat := 0x300060
abbrev SEG_INFO_REGION : Fld := ⟨SEG_INFO, 0, 4⟩
abbrev SEG_INFO_OWNER : Fld := ⟨SEG_INFO, 4, 12⟩
abbrev SEG_INFO_NO_SEG : Fld := ⟨SEG_INFO, 16, 1⟩
abbrev CTX_CACHE_HIT : Nat := 0x300070
abbrev CTX_CACHE_HIT_CNT : Fld := ⟨CTX_CACHE_HIT, 0, 32⟩
abbrev CTX_CACHE_MISS : Nat := 0x300074
abbrev CTX_CACHE_MISS_CNT : Fld := ⟨CTX_CACHE_MISS, 0, 32⟩
abbrev CTX_PEEK_IDX : Nat := 0x300078
abbrev CTX_PEEK_IDX_INDEX : Fld := ⟨CTX_PEEK_IDX, 0, 20⟩
abbrev CTX_PEEK_STATUS : Nat := 0x30007C
abbrev CTX_PEEK_STATUS_DONE : Fld := ⟨CTX_PEEK_STATUS, 0, 1⟩
abbrev CTX_PEEK_STATUS_POISON : Fld := ⟨CTX_PEEK_STATUS, 1, 1⟩
abbrev CTX_PEEK (n : Nat) : Nat := 0x300080 + n * 0x4
abbrev CTX_PEEK_DATA (n : Nat) : Fld := ⟨CTX_PEEK n, 0, 32⟩
abbrev UE_LOG_ADDR (n : Nat) : Nat := 0x300100 + n * 0x10
abbrev UE_LOG_ADDR_ADDR (n : Nat) : Fld := ⟨UE_LOG_ADDR n, 0, 32⟩
abbrev UE_LOG_INFO (n : Nat) : Nat := 0x300104 + n * 0x10
abbrev UE_LOG_INFO_ADDR_HI (n : Nat) : Fld := ⟨UE_LOG_INFO n, 0, 4⟩
abbrev UE_LOG_INFO_REGION (n : Nat) : Fld := ⟨UE_LOG_INFO n, 4, 4⟩
abbrev UE_LOG_INFO_OWNER (n : Nat) : Fld := ⟨UE_LOG_INFO n, 8, 12⟩
abbrev UE_LOG_INFO_SCRUB (n : Nat) : Fld := ⟨UE_LOG_INFO n, 20, 1⟩
abbrev UE_LOG_INFO_VALID (n : Nat) : Fld := ⟨UE_LOG_INFO n, 21, 1⟩
abbrev UE_LOG_TIME_LO (n : Nat) : Nat := 0x300108 + n * 0x10
abbrev UE_LOG_TIME_LO_NS (n : Nat) : Fld := ⟨UE_LOG_TIME_LO n, 0, 32⟩
abbrev UE_LOG_TIME_HI (n : Nat) : Nat := 0x30010C + n * 0x10
abbrev UE_LOG_TIME_HI_NS (n : Nat) : Fld := ⟨UE_LOG_TIME_HI n, 0, 32⟩
abbrev UE_LOG_HEAD : Nat := 0x300200
abbrev UE_LOG_HEAD_NEXT : Fld := ⟨UE_LOG_HEAD, 0, 4⟩
/-! Registers of R394 (chapter 10). -/
abbrev HIST_CFG (n : Nat) : Nat := 0x301000 + n * 0x80
abbrev HIST_CFG_SEGS (n : Nat) : Fld := ⟨HIST_CFG n, 0, 20⟩
abbrev HIST_CFG_POLICY (n : Nat) : Fld := ⟨HIST_CFG n, 20, 1⟩
abbrev HIST_CFG_RELEASE (n : Nat) : Fld := ⟨HIST_CFG n, 21, 1⟩
abbrev STAGE_CFG (n : Nat) : Nat := 0x301004 + n * 0x80
abbrev STAGE_CFG_SEGS (n : Nat) : Fld := ⟨STAGE_CFG n, 0, 20⟩
abbrev HIST_STRIDE (n : Nat) : Nat := 0x301008 + n * 0x80
abbrev HIST_STRIDE_BYTES (n : Nat) : Fld := ⟨HIST_STRIDE n, 0, 24⟩
abbrev HIST_ROW_CAP (n : Nat) : Nat := 0x30100C + n * 0x80
abbrev HIST_ROW_CAP_ROWS (n : Nat) : Fld := ⟨HIST_ROW_CAP n, 0, 28⟩
abbrev STAGE_ROW_CAP (n : Nat) : Nat := 0x301010 + n * 0x80
abbrev STAGE_ROW_CAP_ROWS (n : Nat) : Fld := ⟨STAGE_ROW_CAP n, 0, 28⟩
abbrev RING_MIN (n : Nat) : Nat := 0x301014 + n * 0x80
abbrev RING_MIN_ROWS (n : Nat) : Fld := ⟨RING_MIN n, 0, 28⟩
abbrev HIST_STATUS (n : Nat) : Nat := 0x301018 + n * 0x80
abbrev HIST_STATUS_ALLOCATED (n : Nat) : Fld := ⟨HIST_STATUS n, 0, 1⟩
abbrev HIST_STATUS_HOLDING (n : Nat) : Fld := ⟨HIST_STATUS n, 1, 1⟩
abbrev HIST_STATUS_POLICY_REJ (n : Nat) : Fld := ⟨HIST_STATUS n, 2, 1⟩
abbrev HIST_STATUS_MEM_STALL (n : Nat) : Fld := ⟨HIST_STATUS n, 3, 1⟩
abbrev HIST_STATUS_SIZE_REJ (n : Nat) : Fld := ⟨HIST_STATUS n, 4, 1⟩
abbrev WRITE_SEQ (n : Nat) : Nat := 0x30101C + n * 0x80
abbrev WRITE_SEQ_SEQ (n : Nat) : Fld := ⟨WRITE_SEQ n, 0, 32⟩
abbrev NEWEST_POS_LO (n : Nat) : Nat := 0x301020 + n * 0x80
abbrev NEWEST_POS_LO_POS (n : Nat) : Fld := ⟨NEWEST_POS_LO n, 0, 32⟩
abbrev NEWEST_POS_HI (n : Nat) : Nat := 0x301024 + n * 0x80
abbrev NEWEST_POS_HI_POS (n : Nat) : Fld := ⟨NEWEST_POS_HI n, 0, 24⟩
abbrev OLDEST_POS_LO (n : Nat) : Nat := 0x301028 + n * 0x80
abbrev OLDEST_POS_LO_POS (n : Nat) : Fld := ⟨OLDEST_POS_LO n, 0, 32⟩
abbrev OLDEST_POS_HI (n : Nat) : Nat := 0x30102C + n * 0x80
abbrev OLDEST_POS_HI_POS (n : Nat) : Fld := ⟨OLDEST_POS_HI n, 0, 24⟩
abbrev OLDEST_SEQ (n : Nat) : Nat := 0x301030 + n * 0x80
abbrev OLDEST_SEQ_SEQ (n : Nat) : Fld := ⟨OLDEST_SEQ n, 0, 32⟩
abbrev HOLD_LOSS_ROWS (n : Nat) : Nat := 0x301034 + n * 0x80
abbrev HOLD_LOSS_ROWS_CNT (n : Nat) : Fld := ⟨HOLD_LOSS_ROWS n, 0, 32⟩
abbrev STALL_LOSS_ROWS (n : Nat) : Nat := 0x301038 + n * 0x80
abbrev STALL_LOSS_ROWS_CNT (n : Nat) : Fld := ⟨STALL_LOSS_ROWS n, 0, 32⟩
abbrev WORK_SEGS (n : Nat) : Nat := 0x30103C + n * 0x80
abbrev WORK_SEGS_SEGS (n : Nat) : Fld := ⟨WORK_SEGS n, 0, 20⟩
/-! Registers of R395 (chapter 10). -/
abbrev MARK_CFG (n : Nat) : Nat := 0x302000 + n * 0x20
abbrev MARK_CFG_EN (n : Nat) : Fld := ⟨MARK_CFG n, 0, 1⟩
abbrev MARK_CFG_VIEW (n : Nat) : Fld := ⟨MARK_CFG n, 1, 3⟩
abbrev MARK_CFG_BACK (n : Nat) : Fld := ⟨MARK_CFG n, 16, 16⟩
abbrev MARK_CMD (n : Nat) : Nat := 0x302004 + n * 0x20
abbrev MARK_CMD_OP (n : Nat) : Fld := ⟨MARK_CMD n, 0, 2⟩
abbrev MARK_POS_LO (n : Nat) : Nat := 0x302008 + n * 0x20
abbrev MARK_POS_LO_POS (n : Nat) : Fld := ⟨MARK_POS_LO n, 0, 32⟩
abbrev MARK_POS_HI (n : Nat) : Nat := 0x30200C + n * 0x20
abbrev MARK_POS_HI_POS (n : Nat) : Fld := ⟨MARK_POS_HI n, 0, 24⟩
abbrev MARK_ROW_POS_LO (n : Nat) : Nat := 0x302010 + n * 0x20
abbrev MARK_ROW_POS_LO_POS (n : Nat) : Fld := ⟨MARK_ROW_POS_LO n, 0, 32⟩
abbrev MARK_ROW_POS_HI (n : Nat) : Nat := 0x302014 + n * 0x20
abbrev MARK_ROW_POS_HI_POS (n : Nat) : Fld := ⟨MARK_ROW_POS_HI n, 0, 24⟩
abbrev MARK_STATUS (n : Nat) : Nat := 0x302018 + n * 0x20
abbrev MARK_STATUS_STATE (n : Nat) : Fld := ⟨MARK_STATUS n, 0, 2⟩
abbrev MARK_STATUS_MARK_LOST (n : Nat) : Fld := ⟨MARK_STATUS n, 2, 1⟩
abbrev MARK_STATUS_GONE (n : Nat) : Fld := ⟨MARK_STATUS n, 3, 1⟩
abbrev MARK_STATUS_CMD_REJ (n : Nat) : Fld := ⟨MARK_STATUS n, 4, 1⟩
abbrev MARK_STATUS_BLOCKING (n : Nat) : Fld := ⟨MARK_STATUS n, 5, 1⟩
abbrev MARK_STATUS_BUSY (n : Nat) : Fld := ⟨MARK_STATUS n, 6, 1⟩
abbrev MARK_LOST_ROWS (n : Nat) : Nat := 0x30201C + n * 0x20
abbrev MARK_LOST_ROWS_CNT (n : Nat) : Fld := ⟨MARK_LOST_ROWS n, 0, 32⟩
/-! Registers of R430 (chapter 11). -/
abbrev COND_GSTATUS : Nat := 0x400000
abbrev COND_GSTATUS_PERR : Fld := ⟨COND_GSTATUS, 0, 1⟩
abbrev COND_GSTATUS_CMD_IGN : Fld := ⟨COND_GSTATUS, 1, 1⟩
abbrev EVT_COND : Nat := 0x400004
abbrev EVT_COND_SEL : Fld := ⟨EVT_COND, 0, 9⟩
abbrev CAL_CMD : Nat := 0x400008
abbrev CAL_CMD_OP : Fld := ⟨CAL_CMD, 0, 3⟩
abbrev CAL_CMD_FIELDS : Fld := ⟨CAL_CMD, 4, 4⟩
abbrev CAL_MEM_LO : Nat := 0x40000C
abbrev CAL_MEM_LO_D : Fld := ⟨CAL_MEM_LO, 0, 32⟩
abbrev CAL_MEM_HI : Nat := 0x400010
abbrev CAL_MEM_HI_D : Fld := ⟨CAL_MEM_HI, 0, 4⟩
abbrev CAL_FIRST : Nat := 0x400014
abbrev CAL_FIRST_FIRST : Fld := ⟨CAL_FIRST, 0, 22⟩
abbrev CAL_COUNT : Nat := 0x400018
abbrev CAL_COUNT_COUNT : Fld := ⟨CAL_COUNT, 0, 22⟩
abbrev CAL_RESULT : Nat := 0x40001C
abbrev CAL_RESULT_DONE : Fld := ⟨CAL_RESULT, 0, 1⟩
abbrev CAL_RESULT_ERR : Fld := ⟨CAL_RESULT, 4, 4⟩
abbrev CAL_RESULT_LINES : Fld := ⟨CAL_RESULT, 8, 21⟩
abbrev LD_POOL_FREE : Nat := 0x400020
abbrev LD_POOL_FREE_KIB : Fld := ⟨LD_POOL_FREE, 0, 14⟩
abbrev CAL_PERR_CNT : Nat := 0x400024
abbrev CAL_PERR_CNT_CNT : Fld := ⟨CAL_PERR_CNT, 0, 32⟩
abbrev LOG_HEAD : Nat := 0x400030
abbrev LOG_HEAD_NEXT : Fld := ⟨LOG_HEAD, 0, 8⟩
/-! Registers of R431 (chapter 11). -/
abbrev COND_CTRL (n : Nat) : Nat := 0x410000 + n * 0x40
abbrev COND_CTRL_COND_EN (n : Nat) : Fld := ⟨COND_CTRL n, 0, 1⟩
abbrev COND_CTRL_LIVE_EN (n : Nat) : Fld := ⟨COND_CTRL n, 1, 1⟩
abbrev COND_CTRL_LD_EN (n : Nat) : Fld := ⟨COND_CTRL n, 2, 1⟩
abbrev COND_CTRL_LD_MODE (n : Nat) : Fld := ⟨COND_CTRL n, 3, 1⟩
abbrev COND_CTRL_REF_COMP (n : Nat) : Fld := ⟨COND_CTRL n, 4, 2⟩
abbrev COND_CTRL_LD_DEPTH (n : Nat) : Fld := ⟨COND_CTRL n, 8, 6⟩
abbrev CAL_BASE (n : Nat) : Nat := 0x410004 + n * 0x40
abbrev CAL_BASE_SLOT (n : Nat) : Fld := ⟨CAL_BASE n, 0, 22⟩
abbrev LUT_SEL_A (n : Nat) : Nat := 0x410008 + n * 0x40
abbrev LUT_SEL_A_TABLE_0 (n : Nat) : Fld := ⟨LUT_SEL_A n, 0, 9⟩
abbrev LUT_SEL_A_BYPASS_0 (n : Nat) : Fld := ⟨LUT_SEL_A n, 15, 1⟩
abbrev LUT_SEL_A_TABLE_1 (n : Nat) : Fld := ⟨LUT_SEL_A n, 16, 9⟩
abbrev LUT_SEL_A_BYPASS_1 (n : Nat) : Fld := ⟨LUT_SEL_A n, 31, 1⟩
abbrev LUT_SEL_B (n : Nat) : Nat := 0x41000C + n * 0x40
abbrev LUT_SEL_B_TABLE_2 (n : Nat) : Fld := ⟨LUT_SEL_B n, 0, 9⟩
abbrev LUT_SEL_B_BYPASS_2 (n : Nat) : Fld := ⟨LUT_SEL_B n, 15, 1⟩
abbrev LUT_SEL_B_TABLE_3 (n : Nat) : Fld := ⟨LUT_SEL_B n, 16, 9⟩
abbrev LUT_SEL_B_BYPASS_3 (n : Nat) : Fld := ⟨LUT_SEL_B n, 31, 1⟩
abbrev LD_OFF (n : Nat) (i : Nat) : Nat := 0x410010 + n * 0x40 + i * 0x4
abbrev LD_OFF_OFF (n : Nat) (i : Nat) : Fld := ⟨LD_OFF n i, 0, 24⟩
abbrev LD_MAX_GAP (n : Nat) : Nat := 0x410020 + n * 0x40
abbrev LD_MAX_GAP_GAP (n : Nat) : Fld := ⟨LD_MAX_GAP n, 0, 24⟩
abbrev COND_STATUS (n : Nat) : Nat := 0x410024 + n * 0x40
abbrev COND_STATUS_CFG_REJ (n : Nat) : Fld := ⟨COND_STATUS n, 0, 1⟩
abbrev COND_STATUS_LD_FAIL (n : Nat) : Fld := ⟨COND_STATUS n, 1, 1⟩
abbrev COND_STATUS_LOAD_LIVE (n : Nat) : Fld := ⟨COND_STATUS n, 2, 1⟩
abbrev SAT_CNT (n : Nat) : Nat := 0x410028 + n * 0x40
abbrev SAT_CNT_CNT (n : Nat) : Fld := ⟨SAT_CNT n, 0, 32⟩
abbrev LD_MISS_CNT (n : Nat) : Nat := 0x41002C + n * 0x40
abbrev LD_MISS_CNT_CNT (n : Nat) : Fld := ⟨LD_MISS_CNT n, 0, 32⟩
abbrev UNDER_CNT (n : Nat) : Nat := 0x410030 + n * 0x40
abbrev UNDER_CNT_CNT (n : Nat) : Fld := ⟨UNDER_CNT n, 0, 32⟩
abbrev DP_UNFIXED_CNT (n : Nat) : Nat := 0x410034 + n * 0x40
abbrev DP_UNFIXED_CNT_CNT (n : Nat) : Fld := ⟨DP_UNFIXED_CNT n, 0, 32⟩
abbrev CAL_GEN (n : Nat) : Nat := 0x410038 + n * 0x40
abbrev CAL_GEN_GEN (n : Nat) : Fld := ⟨CAL_GEN n, 0, 16⟩
/-! Registers of R432 (chapter 11). -/
abbrev LC_CFG (n : Nat) : Nat := 0x450000 + n * 0x100
abbrev LC_CFG_LC_EN (n : Nat) : Fld := ⟨LC_CFG n, 0, 1⟩
abbrev LC_CFG_FORCE_FREEZE (n : Nat) : Fld := ⟨LC_CFG n, 1, 1⟩
abbrev LC_CFG_TC_LOG2 (n : Nat) : Fld := ⟨LC_CFG n, 4, 4⟩
abbrev LC_CFG_LIGHT_CHAINS (n : Nat) : Fld := ⟨LC_CFG n, 8, 8⟩
abbrev LC_CFG_HOLD_REPEATS (n : Nat) : Fld := ⟨LC_CFG n, 16, 16⟩
abbrev COND_LC_TOL (n : Nat) : Nat := 0x450004 + n * 0x100
abbrev COND_LC_TOL_MEAN_TOL (n : Nat) : Fld := ⟨COND_LC_TOL n, 0, 10⟩
abbrev COND_LC_TOL_RANGE_TOL (n : Nat) : Fld := ⟨COND_LC_TOL n, 10, 10⟩
abbrev COND_LC_TOL_DEV_TOL (n : Nat) : Fld := ⟨COND_LC_TOL n, 20, 10⟩
abbrev LC_TOL2 (n : Nat) : Nat := 0x450008 + n * 0x100
abbrev LC_TOL2_REJ_FRAC (n : Nat) : Fld := ⟨LC_TOL2 n, 0, 10⟩
abbrev LC_TOL2_THAW_GOOD (n : Nat) : Fld := ⟨LC_TOL2 n, 16, 4⟩
abbrev LC_TOL2_REJ_RUN (n : Nat) : Fld := ⟨LC_TOL2 n, 24, 4⟩
abbrev LC_STEP (n : Nat) : Nat := 0x45000C + n * 0x100
abbrev LC_STEP_MAX_STEP (n : Nat) : Fld := ⟨LC_STEP n, 0, 16⟩
abbrev LC_LIMIT (n : Nat) : Nat := 0x450010 + n * 0x100
abbrev LC_LIMIT_LIVE_MIN (n : Nat) : Fld := ⟨LC_LIMIT n, 0, 11⟩
abbrev LC_LIMIT_LIVE_MAX (n : Nat) : Fld := ⟨LC_LIMIT n, 16, 11⟩
abbrev LC_ZONE (n : Nat) : Nat := 0x450014 + n * 0x100
abbrev LC_ZONE_ZONE_GUARD (n : Nat) : Fld := ⟨LC_ZONE n, 0, 8⟩
abbrev LC_ZONE_CLOSE_GRACE (n : Nat) : Fld := ⟨LC_ZONE n, 8, 24⟩
abbrev LC_STATE (n : Nat) : Nat := 0x450018 + n * 0x100
abbrev LC_STATE_STATE (n : Nat) : Fld := ⟨LC_STATE n, 0, 2⟩
abbrev LC_STATE_FREEZE_CAUSE (n : Nat) : Fld := ⟨LC_STATE n, 4, 4⟩
abbrev LC_STATE_REPEATS (n : Nat) : Fld := ⟨LC_STATE n, 8, 16⟩
abbrev LC_STATE_GOOD_RUN (n : Nat) : Fld := ⟨LC_STATE n, 24, 8⟩
abbrev LC_STATUS (n : Nat) : Nat := 0x45001C + n * 0x100
abbrev LC_STATUS_ZONE_SKIP (n : Nat) : Fld := ⟨LC_STATUS n, 0, 1⟩
abbrev LC_STATUS_ZONE_LATE (n : Nat) : Fld := ⟨LC_STATUS n, 1, 1⟩
abbrev LC_STATUS_LIMIT (n : Nat) : Fld := ⟨LC_STATUS n, 2, 1⟩
abbrev ZONE_OK_CNT (n : Nat) : Nat := 0x450020 + n * 0x100
abbrev ZONE_OK_CNT_CNT (n : Nat) : Fld := ⟨ZONE_OK_CNT n, 0, 32⟩
abbrev REJ_INCOMPLETE_CNT (n : Nat) : Nat := 0x450024 + n * 0x100
abbrev REJ_INCOMPLETE_CNT_CNT (n : Nat) : Fld := ⟨REJ_INCOMPLETE_CNT n, 0, 32⟩
abbrev REJ_LEVEL_CNT (n : Nat) : Nat := 0x450028 + n * 0x100
abbrev REJ_LEVEL_CNT_CNT (n : Nat) : Fld := ⟨REJ_LEVEL_CNT n, 0, 32⟩
abbrev REJ_SPREAD_CNT (n : Nat) : Nat := 0x45002C + n * 0x100
abbrev REJ_SPREAD_CNT_CNT (n : Nat) : Fld := ⟨REJ_SPREAD_CNT n, 0, 32⟩
abbrev COL_SPOT_CNT (n : Nat) : Nat := 0x450030 + n * 0x100
abbrev COL_SPOT_CNT_CNT (n : Nat) : Fld := ⟨COL_SPOT_CNT n, 0, 32⟩
abbrev COL_STREAK_CNT (n : Nat) : Nat := 0x450034 + n * 0x100
abbrev COL_STREAK_CNT_CNT (n : Nat) : Fld := ⟨COL_STREAK_CNT n, 0, 32⟩
abbrev LIMIT_CNT (n : Nat) : Nat := 0x450038 + n * 0x100
abbrev LIMIT_CNT_CNT (n : Nat) : Fld := ⟨LIMIT_CNT n, 0, 32⟩
abbrev SKIP_SAVE_CNT (n : Nat) : Nat := 0x45003C + n * 0x100
abbrev SKIP_SAVE_CNT_CNT (n : Nat) : Fld := ⟨SKIP_SAVE_CNT n, 0, 32⟩
abbrev FREEZE_CNT (n : Nat) : Nat := 0x450040 + n * 0x100
abbrev FREEZE_CNT_CNT (n : Nat) : Fld := ⟨FREEZE_CNT n, 0, 32⟩
abbrev ZONE_LATE_CNT (n : Nat) : Nat := 0x450044 + n * 0x100
abbrev ZONE_LATE_CNT_CNT (n : Nat) : Fld := ⟨ZONE_LATE_CNT n, 0, 32⟩
abbrev ZONE_SKIP_CNT (n : Nat) : Nat := 0x450048 + n * 0x100
abbrev ZONE_SKIP_CNT_CNT (n : Nat) : Fld := ⟨ZONE_SKIP_CNT n, 0, 32⟩
/-! Registers of R433 (chapter 11). -/
abbrev ZN_CFG (n : Nat) : Nat := 0x460000 + n * 0x20
abbrev ZN_CFG_VALID (n : Nat) : Fld := ⟨ZN_CFG n, 0, 1⟩
abbrev ZN_CFG_VIEW (n : Nat) : Fld := ⟨ZN_CFG n, 1, 3⟩
abbrev ZN_CFG_WEB_LANE (n : Nat) : Fld := ⟨ZN_CFG n, 4, 6⟩
abbrev ZN_OFFSET (n : Nat) : Nat := 0x460004 + n * 0x20
abbrev ZN_OFFSET_OFFSET (n : Nat) : Fld := ⟨ZN_OFFSET n, 0, 32⟩
abbrev ZN_LEN (n : Nat) : Nat := 0x460008 + n * 0x20
abbrev ZN_LEN_LEN (n : Nat) : Fld := ⟨ZN_LEN n, 0, 24⟩
abbrev ZN_COLS (n : Nat) : Nat := 0x46000C + n * 0x20
abbrev ZN_COLS_FIRST (n : Nat) : Fld := ⟨ZN_COLS n, 0, 16⟩
abbrev ZN_COLS_LAST (n : Nat) : Fld := ⟨ZN_COLS n, 16, 16⟩
abbrev ZN_TARGET_A (n : Nat) : Nat := 0x460010 + n * 0x20
abbrev ZN_TARGET_A_T_0 (n : Nat) : Fld := ⟨ZN_TARGET_A n, 0, 16⟩
abbrev ZN_TARGET_A_T_1 (n : Nat) : Fld := ⟨ZN_TARGET_A n, 16, 16⟩
abbrev ZN_TARGET_B (n : Nat) : Nat := 0x460014 + n * 0x20
abbrev ZN_TARGET_B_T_2 (n : Nat) : Fld := ⟨ZN_TARGET_B n, 0, 16⟩
abbrev ZN_TARGET_B_T_3 (n : Nat) : Fld := ⟨ZN_TARGET_B n, 16, 16⟩
/-! Registers of R434 (chapter 11). -/
abbrev LOG_INFO (n : Nat) : Nat := 0x470000 + n * 0x20
abbrev LOG_INFO_VIEW (n : Nat) : Fld := ⟨LOG_INFO n, 0, 3⟩
abbrev LOG_INFO_ZONE (n : Nat) : Fld := ⟨LOG_INFO n, 3, 10⟩
abbrev LOG_INFO_RESULT (n : Nat) : Fld := ⟨LOG_INFO n, 16, 4⟩
abbrev LOG_INFO_VALID (n : Nat) : Fld := ⟨LOG_INFO n, 31, 1⟩
abbrev LOG_POS_LO (n : Nat) : Nat := 0x470004 + n * 0x20
abbrev LOG_POS_LO_POS (n : Nat) : Fld := ⟨LOG_POS_LO n, 0, 32⟩
abbrev LOG_POS_HI (n : Nat) : Nat := 0x470008 + n * 0x20
abbrev LOG_POS_HI_POS (n : Nat) : Fld := ⟨LOG_POS_HI n, 0, 24⟩
abbrev LOG_COLS (n : Nat) : Nat := 0x47000C + n * 0x20
abbrev LOG_COLS_UPDATED (n : Nat) : Fld := ⟨LOG_COLS n, 0, 16⟩
abbrev LOG_COLS_REJECTED (n : Nat) : Fld := ⟨LOG_COLS n, 16, 16⟩
abbrev LOG_DELTA (n : Nat) : Nat := 0x470010 + n * 0x20
abbrev LOG_DELTA_DELTA (n : Nat) : Fld := ⟨LOG_DELTA n, 0, 32⟩
abbrev LOG_LEVEL (n : Nat) : Nat := 0x470014 + n * 0x20
abbrev LOG_LEVEL_M_0 (n : Nat) : Fld := ⟨LOG_LEVEL n, 0, 16⟩
abbrev LOG_TIME_LO (n : Nat) : Nat := 0x470018 + n * 0x20
abbrev LOG_TIME_LO_NS (n : Nat) : Fld := ⟨LOG_TIME_LO n, 0, 32⟩
abbrev LOG_TIME_HI (n : Nat) : Nat := 0x47001C + n * 0x20
abbrev LOG_TIME_HI_NS (n : Nat) : Fld := ⟨LOG_TIME_HI n, 0, 32⟩
/-! Registers of R462 (chapter 12). -/
abbrev PLAIT_STATUS : Nat := 0x500000
abbrev PLAIT_STATUS_CMD_IGN : Fld := ⟨PLAIT_STATUS, 0, 1⟩
abbrev PLAIT_STATUS_MAP_PERR : Fld := ⟨PLAIT_STATUS, 1, 1⟩
abbrev EVT_PLAIT : Nat := 0x500004
abbrev EVT_PLAIT_SEL : Fld := ⟨EVT_PLAIT, 0, 9⟩
abbrev GEOM_CMD : Nat := 0x500008
abbrev GEOM_CMD_OP : Fld := ⟨GEOM_CMD, 0, 3⟩
abbrev GEOM_MEM_LO : Nat := 0x50000C
abbrev GEOM_MEM_LO_D : Fld := ⟨GEOM_MEM_LO, 0, 32⟩
abbrev GEOM_MEM_HI : Nat := 0x500010
abbrev GEOM_MEM_HI_D : Fld := ⟨GEOM_MEM_HI, 0, 4⟩
abbrev GEOM_FIRST : Nat := 0x500014
abbrev GEOM_FIRST_FIRST : Fld := ⟨GEOM_FIRST, 0, 20⟩
abbrev GEOM_COUNT : Nat := 0x500018
abbrev GEOM_COUNT_COUNT : Fld := ⟨GEOM_COUNT, 0, 21⟩
abbrev GEOM_RESULT : Nat := 0x50001C
abbrev GEOM_RESULT_DONE : Fld := ⟨GEOM_RESULT, 0, 1⟩
abbrev GEOM_RESULT_ERR : Fld := ⟨GEOM_RESULT, 4, 4⟩
abbrev JOIN_FREE : Nat := 0x500020
abbrev JOIN_FREE_KIB : Fld := ⟨JOIN_FREE, 0, 16⟩
abbrev MAP_PERR_CNT : Nat := 0x500024
abbrev MAP_PERR_CNT_CNT : Fld := ⟨MAP_PERR_CNT, 0, 32⟩
/-! Registers of R463 (chapter 12). -/
abbrev VW_CTRL (n : Nat) : Nat := 0x510000 + n * 0x2000
abbrev VW_CTRL_KERN_AW (n : Nat) : Fld := ⟨VW_CTRL n, 0, 2⟩
abbrev VW_CTRL_KERN_XW (n : Nat) : Fld := ⟨VW_CTRL n, 2, 2⟩
abbrev VW_CTRL_TRK_EN (n : Nat) : Fld := ⟨VW_CTRL n, 4, 1⟩
abbrev VW_CTRL_TRK_HOLD (n : Nat) : Fld := ⟨VW_CTRL n, 5, 1⟩
abbrev VW_CTRL_USE_SAVED (n : Nat) : Fld := ⟨VW_CTRL n, 6, 1⟩
abbrev VW_CTRL_ANCHOR (n : Nat) : Fld := ⟨VW_CTRL n, 8, 8⟩
abbrev VW_PITCH (n : Nat) : Nat := 0x510004 + n * 0x2000
abbrev VW_PITCH_PITCH (n : Nat) : Fld := ⟨VW_PITCH n, 0, 24⟩
abbrev VW_WIDTH (n : Nat) : Nat := 0x510008 + n * 0x2000
abbrev VW_WIDTH_WIDTH (n : Nat) : Fld := ⟨VW_WIDTH n, 0, 17⟩
abbrev VW_GAP (n : Nat) : Nat := 0x51000C + n * 0x2000
abbrev VW_GAP_GAP_MAX (n : Nat) : Fld := ⟨VW_GAP n, 0, 24⟩
abbrev VW_LATE (n : Nat) : Nat := 0x510010 + n * 0x2000
abbrev VW_LATE_LATE_MARGIN (n : Nat) : Fld := ⟨VW_LATE n, 0, 24⟩
abbrev VW_TIMEOUT (n : Nat) : Nat := 0x510014 + n * 0x2000
abbrev VW_TIMEOUT_HEAD_TIMEOUT (n : Nat) : Fld := ⟨VW_TIMEOUT n, 0, 16⟩
abbrev VW_BLEND (n : Nat) : Nat := 0x510018 + n * 0x2000
abbrev VW_BLEND_BLEND_W (n : Nat) : Fld := ⟨VW_BLEND n, 0, 8⟩
abbrev VW_JOIN (n : Nat) : Nat := 0x51001C + n * 0x2000
abbrev VW_JOIN_JOIN_KIB (n : Nat) : Fld := ⟨VW_JOIN n, 0, 16⟩
abbrev VW_JOIN_NEED_KIB (n : Nat) : Fld := ⟨VW_JOIN n, 16, 16⟩
abbrev VW_STATUS (n : Nat) : Nat := 0x510020 + n * 0x2000
abbrev VW_STATUS_GEOM_ERR (n : Nat) : Fld := ⟨VW_STATUS n, 0, 4⟩
abbrev VW_STATUS_CFG_REJ (n : Nat) : Fld := ⟨VW_STATUS n, 4, 1⟩
abbrev VW_STATUS_HEAD_MISS (n : Nat) : Fld := ⟨VW_STATUS n, 5, 1⟩
abbrev VW_STATUS_TRK_LIMIT (n : Nat) : Fld := ⟨VW_STATUS n, 6, 1⟩
abbrev VW_STATUS_UPSAMPLE (n : Nat) : Fld := ⟨VW_STATUS n, 7, 1⟩
abbrev VW_STATUS_NO_GEOM (n : Nat) : Fld := ⟨VW_STATUS n, 8, 1⟩
abbrev VW_ROW_CNT (n : Nat) : Nat := 0x510024 + n * 0x2000
abbrev VW_ROW_CNT_CNT (n : Nat) : Fld := ⟨VW_ROW_CNT n, 0, 32⟩
abbrev VW_RUN (n : Nat) : Nat := 0x510028 + n * 0x2000
abbrev VW_RUN_RUN (n : Nat) : Fld := ⟨VW_RUN n, 0, 32⟩
abbrev VW_GEOM_GEN (n : Nat) : Nat := 0x51002C + n * 0x2000
abbrev VW_GEOM_GEN_GEN (n : Nat) : Fld := ⟨VW_GEOM_GEN n, 0, 32⟩
abbrev HEAD_MISS_ROWS (n : Nat) : Nat := 0x510030 + n * 0x2000
abbrev HEAD_MISS_ROWS_CNT (n : Nat) : Fld := ⟨HEAD_MISS_ROWS n, 0, 32⟩
abbrev CUBIC_FALL_CNT (n : Nat) : Nat := 0x510034 + n * 0x2000
abbrev CUBIC_FALL_CNT_CNT (n : Nat) : Fld := ⟨CUBIC_FALL_CNT n, 0, 32⟩
abbrev NOT_IN_VIEW_CNT (n : Nat) : Nat := 0x510038 + n * 0x2000
abbrev NOT_IN_VIEW_CNT_CNT (n : Nat) : Fld := ⟨NOT_IN_VIEW_CNT n, 0, 32⟩
abbrev TRK_CFG (n : Nat) : Nat := 0x510040 + n * 0x2000
abbrev TRK_CFG_TRK_ROWS (n : Nat) : Fld := ⟨TRK_CFG n, 0, 16⟩
abbrev TRK_CFG_TRK_TC (n : Nat) : Fld := ⟨TRK_CFG n, 16, 4⟩
abbrev TRK_CFG_TRK_RANGE (n : Nat) : Fld := ⟨TRK_CFG n, 20, 4⟩
abbrev TRK_CFG_TRK_COMP (n : Nat) : Fld := ⟨TRK_CFG n, 24, 2⟩
abbrev TRK_THRESH (n : Nat) : Nat := 0x510044 + n * 0x2000
abbrev TRK_THRESH_MIN_CORR (n : Nat) : Fld := ⟨TRK_THRESH n, 0, 8⟩
abbrev TRK_THRESH_MIN_STD (n : Nat) : Fld := ⟨TRK_THRESH n, 16, 16⟩
abbrev TRK_LIMIT (n : Nat) : Nat := 0x510048 + n * 0x2000
abbrev TRK_LIMIT_X_LIM (n : Nat) : Fld := ⟨TRK_LIMIT n, 0, 16⟩
abbrev TRK_LIMIT_A_LIM (n : Nat) : Fld := ⟨TRK_LIMIT n, 16, 16⟩
abbrev TRK_STEP (n : Nat) : Nat := 0x51004C + n * 0x2000
abbrev TRK_STEP_X_STEP (n : Nat) : Fld := ⟨TRK_STEP n, 0, 8⟩
abbrev TRK_STEP_A_STEP (n : Nat) : Fld := ⟨TRK_STEP n, 8, 16⟩
abbrev TRK_EPS_CFG (n : Nat) : Nat := 0x510050 + n * 0x2000
abbrev TRK_EPS_CFG_EPS_LIM (n : Nat) : Fld := ⟨TRK_EPS_CFG n, 0, 16⟩
abbrev TRK_EPS_CFG_STRETCH_MIN (n : Nat) : Fld := ⟨TRK_EPS_CFG n, 16, 16⟩
abbrev TRK_EPS (n : Nat) : Nat := 0x510054 + n * 0x2000
abbrev TRK_EPS_EPS (n : Nat) : Fld := ⟨TRK_EPS n, 0, 32⟩
abbrev TRK_OK_CNT (n : Nat) : Nat := 0x510058 + n * 0x2000
abbrev TRK_OK_CNT_CNT (n : Nat) : Fld := ⟨TRK_OK_CNT n, 0, 32⟩
abbrev TRK_REJ_CNT (n : Nat) : Nat := 0x51005C + n * 0x2000
abbrev TRK_REJ_CNT_CNT (n : Nat) : Fld := ⟨TRK_REJ_CNT n, 0, 32⟩
/-! Registers of R464 (chapter 12). -/
abbrev HD_MAP (n : Nat) (i : Nat) : Nat := 0x511000 + n * 0x2000 + i * 0x10
abbrev HD_MAP_MAP_BASE (n : Nat) (i : Nat) : Fld := ⟨HD_MAP n i, 0, 20⟩
abbrev HD_MAP_TILE_PITCH (n : Nat) (i : Nat) : Fld := ⟨HD_MAP n i, 20, 12⟩
abbrev HD_AOFF (n : Nat) (i : Nat) : Nat := 0x511004 + n * 0x2000 + i * 0x10
abbrev HD_AOFF_A_OFF (n : Nat) (i : Nat) : Fld := ⟨HD_AOFF n i, 0, 32⟩
abbrev HD_TRK_X (n : Nat) (i : Nat) : Nat := 0x511008 + n * 0x2000 + i * 0x10
abbrev HD_TRK_X_DX (n : Nat) (i : Nat) : Fld := ⟨HD_TRK_X n i, 0, 16⟩
abbrev HD_TRK_X_OVL_X (n : Nat) (i : Nat) : Fld := ⟨HD_TRK_X n i, 16, 16⟩
abbrev HD_TRK_A (n : Nat) (i : Nat) : Nat := 0x51100C + n * 0x2000 + i * 0x10
abbrev HD_TRK_A_DA (n : Nat) (i : Nat) : Fld := ⟨HD_TRK_A n i, 0, 16⟩
abbrev HD_TRK_A_OVL_A (n : Nat) (i : Nat) : Fld := ⟨HD_TRK_A n i, 16, 16⟩
/-! Registers of R499 (chapter 13). -/
abbrev JC_STATUS : Nat := 0x600000
abbrev JC_STATUS_CTX_EXHAUSTED : Fld := ⟨JC_STATUS, 0, 1⟩
abbrev JC_STATUS_LIGHT_MISS : Fld := ⟨JC_STATUS, 1, 1⟩
abbrev EVT_JOB : Nat := 0x600004
abbrev EVT_JOB_SEL : Fld := ⟨EVT_JOB, 0, 9⟩
abbrev JSW_SUB : Nat := 0x600008
abbrev JSW_SUB_SEL : Fld := ⟨JSW_SUB, 0, 9⟩
abbrev ARM_LEAD : Nat := 0x60000C
abbrev ARM_LEAD_LEAD : Fld := ⟨ARM_LEAD, 0, 24⟩
abbrev CTX_RETIRED : Nat := 0x600010
abbrev CTX_RETIRED_CNT : Fld := ⟨CTX_RETIRED, 0, 21⟩
abbrev CTX_LOW : Nat := 0x600014
abbrev CTX_LOW_MIN : Fld := ⟨CTX_LOW, 0, 21⟩
abbrev NOCTX_CNT : Nat := 0x600018
abbrev NOCTX_CNT_CNT : Fld := ⟨NOCTX_CNT, 0, 32⟩
abbrev GATE_STRAY_CNT : Nat := 0x60001C
abbrev GATE_STRAY_CNT_CNT : Fld := ⟨GATE_STRAY_CNT, 0, 32⟩
abbrev STRAY_CNT : Nat := 0x600020
abbrev STRAY_CNT_CNT : Fld := ⟨STRAY_CNT, 0, 16⟩
abbrev GATE_MASK (n : Nat) : Nat := 0x600040 + n * 0x4
abbrev GATE_MASK_CHANNELS (n : Nat) : Fld := ⟨GATE_MASK n, 0, 32⟩
/-! Registers of R500 (chapter 13). -/
abbrev SLOT_STATE (n : Nat) : Nat := 0x601000 + n * 0x20
abbrev SLOT_STATE_STATE (n : Nat) : Fld := ⟨SLOT_STATE n, 0, 3⟩
abbrev SLOT_STATE_ACTIVE_VIEWS (n : Nat) : Fld := ⟨SLOT_STATE n, 8, 8⟩
abbrev SLOT_STATE_ARMED_VIEWS (n : Nat) : Fld := ⟨SLOT_STATE n, 16, 8⟩
abbrev SLOT_STATE_VIEW_MASK (n : Nat) : Fld := ⟨SLOT_STATE n, 24, 8⟩
abbrev SLOT_FLIGHT (n : Nat) : Nat := 0x601004 + n * 0x20
abbrev SLOT_FLIGHT_IN_FLIGHT (n : Nat) : Fld := ⟨SLOT_FLIGHT n, 0, 21⟩
abbrev JOB_ID_LO (n : Nat) : Nat := 0x601008 + n * 0x20
abbrev JOB_ID_LO_ID (n : Nat) : Fld := ⟨JOB_ID_LO n, 0, 32⟩
abbrev JOB_ID_HI (n : Nat) : Nat := 0x60100C + n * 0x20
abbrev JOB_ID_HI_ID (n : Nat) : Fld := ⟨JOB_ID_HI n, 0, 32⟩
abbrev SLOT_SEGS (n : Nat) : Nat := 0x601010 + n * 0x20
abbrev SLOT_SEGS_SEGS (n : Nat) : Fld := ⟨SLOT_SEGS n, 0, 20⟩
abbrev SLOT_REPEATS (n : Nat) : Nat := 0x601014 + n * 0x20
abbrev SLOT_REPEATS_CNT (n : Nat) : Fld := ⟨SLOT_REPEATS n, 0, 32⟩
abbrev SLOT_LOAD (n : Nat) : Nat := 0x601018 + n * 0x20
abbrev SLOT_LOAD_STATUS (n : Nat) : Fld := ⟨SLOT_LOAD n, 0, 8⟩
/-! Registers of R501 (chapter 13). -/
abbrev VJ_ACTIVE (n : Nat) : Nat := 0x604000 + n * 0x400
abbrev VJ_ACTIVE_SLOT (n : Nat) : Fld := ⟨VJ_ACTIVE n, 0, 6⟩
abbrev VJ_ACTIVE_VALID (n : Nat) : Fld := ⟨VJ_ACTIVE n, 7, 1⟩
abbrev VJ_ACTIVE_ARM_SLOT (n : Nat) : Fld := ⟨VJ_ACTIVE n, 8, 6⟩
abbrev VJ_ACTIVE_ARM_VALID (n : Nat) : Fld := ⟨VJ_ACTIVE n, 15, 1⟩
abbrev VJ_ACTIVE_PAUSED (n : Nat) : Fld := ⟨VJ_ACTIVE n, 16, 1⟩
abbrev SPLICE_LO (n : Nat) : Nat := 0x604004 + n * 0x400
abbrev SPLICE_LO_POS (n : Nat) : Fld := ⟨SPLICE_LO n, 0, 32⟩
abbrev SPLICE_HI (n : Nat) : Nat := 0x604008 + n * 0x400
abbrev SPLICE_HI_POS (n : Nat) : Fld := ⟨SPLICE_HI n, 0, 24⟩
abbrev ROLL_SUB (n : Nat) : Nat := 0x60400C + n * 0x400
abbrev ROLL_SUB_SEL (n : Nat) : Fld := ⟨ROLL_SUB n, 0, 9⟩
abbrev ROLL_DIST (n : Nat) : Nat := 0x604010 + n * 0x400
abbrev ROLL_DIST_DIST (n : Nat) : Fld := ⟨ROLL_DIST n, 0, 32⟩
abbrev ROLL_CMD (n : Nat) : Nat := 0x604014 + n * 0x400
abbrev ROLL_CMD_ROLL (n : Nat) : Fld := ⟨ROLL_CMD n, 0, 1⟩
abbrev ROLL_STATUS (n : Nat) : Nat := 0x604018 + n * 0x400
abbrev ROLL_STATUS_EPOCH (n : Nat) : Fld := ⟨ROLL_STATUS n, 0, 8⟩
abbrev ROLL_STATUS_PENDING (n : Nat) : Fld := ⟨ROLL_STATUS n, 8, 1⟩
abbrev ROLL_STATUS_ROLL_OVR (n : Nat) : Fld := ⟨ROLL_STATUS n, 9, 1⟩
abbrev JOB_CUT_SUB (n : Nat) : Nat := 0x60401C + n * 0x400
abbrev JOB_CUT_SUB_SEL (n : Nat) : Fld := ⟨JOB_CUT_SUB n, 0, 9⟩
abbrev SWITCH_CNT (n : Nat) : Nat := 0x604020 + n * 0x400
abbrev SWITCH_CNT_CNT (n : Nat) : Fld := ⟨SWITCH_CNT n, 0, 32⟩
abbrev CUT_CNT (n : Nat) : Nat := 0x604024 + n * 0x400
abbrev CUT_CNT_CNT (n : Nat) : Fld := ⟨CUT_CNT n, 0, 32⟩
abbrev MISSING_CNT (n : Nat) : Nat := 0x604028 + n * 0x400
abbrev MISSING_CNT_CNT (n : Nat) : Fld := ⟨MISSING_CNT n, 0, 32⟩
abbrev BLIND_CNT (n : Nat) : Nat := 0x60402C + n * 0x400
abbrev BLIND_CNT_CNT (n : Nat) : Fld := ⟨BLIND_CNT n, 0, 32⟩
abbrev SPLICE_CNT (n : Nat) : Nat := 0x604030 + n * 0x400
abbrev SPLICE_CNT_CNT (n : Nat) : Fld := ⟨SPLICE_CNT n, 0, 32⟩
abbrev TRUNC_CNT (n : Nat) : Nat := 0x604034 + n * 0x400
abbrev TRUNC_CNT_CNT (n : Nat) : Fld := ⟨TRUNC_CNT n, 0, 32⟩
abbrev LANE (n : Nat) (i : Nat) : Nat := 0x604200 + n * 0x400 + i * 0x4
abbrev LANE_TRACK (n : Nat) (i : Nat) : Fld := ⟨LANE n i, 0, 1⟩
abbrev LANE_MISSES (n : Nat) (i : Nat) : Fld := ⟨LANE n i, 8, 8⟩
abbrev LANE_SCORE (n : Nat) (i : Nat) : Fld := ⟨LANE n i, 16, 8⟩
/-! Registers of R541 (chapter 14). -/
abbrev CMP_STATUS : Nat := 0x700000
abbrev CMP_STATUS_THROTTLED : Fld := ⟨CMP_STATUS, 0, 1⟩
abbrev CMP_STATUS_BOUND_MISS : Fld := ⟨CMP_STATUS, 1, 1⟩
abbrev CMP_STATUS_CAND_DROP : Fld := ⟨CMP_STATUS, 2, 1⟩
abbrev EVT_CMP : Nat := 0x700004
abbrev EVT_CMP_SEL : Fld := ⟨EVT_CMP, 0, 9⟩
abbrev CMP_CAP : Nat := 0x700008
abbrev CMP_CAP_CAP : Fld := ⟨CMP_CAP, 0, 16⟩
abbrev CMP_CAP_LOAD : Fld := ⟨CMP_CAP, 16, 16⟩
abbrev REF_GEN : Nat := 0x70000C
abbrev REF_GEN_GEN : Fld := ⟨REF_GEN, 0, 32⟩
abbrev THROTTLE_CNT : Nat := 0x700010
abbrev THROTTLE_CNT_CNT : Fld := ⟨THROTTLE_CNT, 0, 32⟩
/-! Registers of R542 (chapter 14). -/
abbrev CV_CTRL (n : Nat) : Nat := 0x701000 + n * 0x100
abbrev CV_CTRL_GATE_LATE_FIRE (n : Nat) : Fld := ⟨CV_CTRL n, 0, 1⟩
abbrev CV_CTRL_REG_COMP (n : Nat) : Fld := ⟨CV_CTRL n, 1, 2⟩
abbrev CV_CTRL_CFG_REJ (n : Nat) : Fld := ⟨CV_CTRL n, 8, 1⟩
abbrev VERDICT_SUB (n : Nat) : Nat := 0x701004 + n * 0x100
abbrev VERDICT_SUB_SEL (n : Nat) : Fld := ⟨VERDICT_SUB n, 0, 9⟩
abbrev VERDICT_MASK (n : Nat) : Nat := 0x701008 + n * 0x100
abbrev VERDICT_MASK_MASK (n : Nat) : Fld := ⟨VERDICT_MASK n, 0, 3⟩
abbrev VMAX (n : Nat) : Nat := 0x70100C + n * 0x100
abbrev VMAX_TICKS (n : Nat) : Fld := ⟨VMAX n, 0, 32⟩
abbrev REG_CFG (n : Nat) : Nat := 0x701010 + n * 0x100
abbrev REG_CFG_REG_MIN_CORR (n : Nat) : Fld := ⟨REG_CFG n, 0, 8⟩
abbrev REG_CFG_REG_MIN_STD (n : Nat) : Fld := ⟨REG_CFG n, 8, 8⟩
abbrev REG_CFG_REG_DEV (n : Nat) : Fld := ⟨REG_CFG n, 16, 8⟩
abbrev REG_CFG_REG_FAIL_FRAC (n : Nat) : Fld := ⟨REG_CFG n, 24, 8⟩
abbrev CAND_BLOCKS (n : Nat) : Nat := 0x701014 + n * 0x100
abbrev CAND_BLOCKS_BLOCKS (n : Nat) : Fld := ⟨CAND_BLOCKS n, 0, 16⟩
abbrev GATE_CHECK (n : Nat) : Nat := 0x701018 + n * 0x100
abbrev GATE_CHECK_MARGIN (n : Nat) : Fld := ⟨GATE_CHECK n, 0, 32⟩
abbrev LAT_MAX (n : Nat) : Nat := 0x70101C + n * 0x100
abbrev LAT_MAX_US (n : Nat) : Fld := ⟨LAT_MAX n, 0, 16⟩
abbrev PASS_CNT (n : Nat) : Nat := 0x701020 + n * 0x100
abbrev PASS_CNT_CNT (n : Nat) : Fld := ⟨PASS_CNT n, 0, 32⟩
abbrev SUSPECT_CNT (n : Nat) : Nat := 0x701024 + n * 0x100
abbrev SUSPECT_CNT_CNT (n : Nat) : Fld := ⟨SUSPECT_CNT n, 0, 32⟩
abbrev FAIL_CNT (n : Nat) : Nat := 0x701028 + n * 0x100
abbrev FAIL_CNT_CNT (n : Nat) : Fld := ⟨FAIL_CNT n, 0, 32⟩
abbrev BOUND_MISS_CNT (n : Nat) : Nat := 0x70102C + n * 0x100
abbrev BOUND_MISS_CNT_CNT (n : Nat) : Fld := ⟨BOUND_MISS_CNT n, 0, 32⟩
abbrev LATE_GATE_CNT (n : Nat) : Nat := 0x701030 + n * 0x100
abbrev LATE_GATE_CNT_CNT (n : Nat) : Fld := ⟨LATE_GATE_CNT n, 0, 32⟩
abbrev UNSCHED_CNT (n : Nat) : Nat := 0x701034 + n * 0x100
abbrev UNSCHED_CNT_CNT (n : Nat) : Fld := ⟨UNSCHED_CNT n, 0, 32⟩
abbrev LEAD_SHORT_CNT (n : Nat) : Nat := 0x701038 + n * 0x100
abbrev LEAD_SHORT_CNT_CNT (n : Nat) : Fld := ⟨LEAD_SHORT_CNT n, 0, 32⟩
abbrev CAND_DROP_CNT (n : Nat) : Nat := 0x70103C + n * 0x100
abbrev CAND_DROP_CNT_CNT (n : Nat) : Fld := ⟨CAND_DROP_CNT n, 0, 32⟩
abbrev SPECIAL_CNT (n : Nat) (i : Nat) : Nat := 0x701040 + n * 0x100 + i * 0x4
abbrev SPECIAL_CNT_CNT (n : Nat) (i : Nat) : Fld := ⟨SPECIAL_CNT n i, 0, 32⟩
abbrev LEARN_STATE (n : Nat) : Nat := 0x701060 + n * 0x100
abbrev LEARN_STATE_STATE (n : Nat) : Fld := ⟨LEARN_STATE n, 0, 3⟩
abbrev LEARN_STATE_CAUSE (n : Nat) : Fld := ⟨LEARN_STATE n, 4, 3⟩
abbrev LEARN_STATE_SLOT (n : Nat) : Fld := ⟨LEARN_STATE n, 8, 6⟩
abbrev LEARN_STATE_INDEX (n : Nat) : Fld := ⟨LEARN_STATE n, 16, 6⟩
abbrev LEARN_STATE_N (n : Nat) : Fld := ⟨LEARN_STATE n, 24, 6⟩
abbrev LEARN_COUNT (n : Nat) : Nat := 0x701064 + n * 0x100
abbrev LEARN_COUNT_COLLECTED (n : Nat) : Fld := ⟨LEARN_COUNT n, 0, 6⟩
abbrev LEARN_COUNT_REJECTED (n : Nat) : Fld := ⟨LEARN_COUNT n, 16, 16⟩
/-! Registers of R582 (chapter 15). -/
abbrev WITHY_STATUS : Nat := 0x1000000
abbrev WITHY_STATUS_SUSPENDED : Fld := ⟨WITHY_STATUS, 0, 1⟩
abbrev WITHY_STATUS_HEAD_ERR : Fld := ⟨WITHY_STATUS, 1, 1⟩
abbrev WITHY_STATUS_FREE_ERR : Fld := ⟨WITHY_STATUS, 2, 1⟩
abbrev WITHY_STATUS_PEND_FULL : Fld := ⟨WITHY_STATUS, 3, 1⟩
abbrev EVT_WITHY : Nat := 0x1000004
abbrev EVT_WITHY_SEL : Fld := ⟨EVT_WITHY, 0, 9⟩
abbrev SCHED : Nat := 0x1000008
abbrev SCHED_FULL_SHARE : Fld := ⟨SCHED, 0, 8⟩
abbrev PEND_LEVEL : Nat := 0x100000C
abbrev PEND_LEVEL_RECORDS : Fld := ⟨PEND_LEVEL, 0, 17⟩
abbrev TLB_HIT : Nat := 0x1000010
abbrev TLB_HIT_CNT : Fld := ⟨TLB_HIT, 0, 32⟩
abbrev TLB_MISS : Nat := 0x1000014
abbrev TLB_MISS_CNT : Fld := ⟨TLB_MISS, 0, 32⟩
abbrev FREE_ERR_CNT : Nat := 0x1000018
abbrev FREE_ERR_CNT_CNT : Fld := ⟨FREE_ERR_CNT, 0, 32⟩
abbrev EVT_DROP_CNT : Nat := 0x100001C
abbrev EVT_DROP_CNT_CNT : Fld := ⟨EVT_DROP_CNT, 0, 32⟩
abbrev PAGES_TOTAL : Nat := 0x1000020
abbrev PAGES_TOTAL_PAGES : Fld := ⟨PAGES_TOTAL, 0, 21⟩
abbrev ERR_INFO : Nat := 0x1000024
abbrev ERR_INFO_NUM : Fld := ⟨ERR_INFO, 0, 8⟩
abbrev ERR_INFO_IS_POOL : Fld := ⟨ERR_INFO, 8, 1⟩
/-! Registers of R583 (chapter 15). -/
abbrev RING_CTRL (n : Nat) : Nat := 0x1010000 + n * 0x40
abbrev RING_CTRL_EN (n : Nat) : Fld := ⟨RING_CTRL n, 0, 1⟩
abbrev RING_CTRL_SIZE_LOG2 (n : Nat) : Fld := ⟨RING_CTRL n, 1, 5⟩
abbrev RING_CTRL_FULL_POLICY (n : Nat) : Fld := ⟨RING_CTRL n, 6, 1⟩
abbrev RING_CTRL_PEER (n : Nat) : Fld := ⟨RING_CTRL n, 7, 1⟩
abbrev RING_CTRL_POOL (n : Nat) : Fld := ⟨RING_CTRL n, 8, 6⟩
abbrev RING_FILTER (n : Nat) : Nat := 0x1010004 + n * 0x40
abbrev RING_FILTER_TYPE_MASK (n : Nat) : Fld := ⟨RING_FILTER n, 0, 7⟩
abbrev RING_FILTER_VIEW_MASK (n : Nat) : Fld := ⟨RING_FILTER n, 8, 8⟩
abbrev RING_FILTER_VERDICT_MASK (n : Nat) : Fld := ⟨RING_FILTER n, 16, 3⟩
abbrev RING_BASE_LO (n : Nat) : Nat := 0x1010008 + n * 0x40
abbrev RING_BASE_LO_ADDR (n : Nat) : Fld := ⟨RING_BASE_LO n, 0, 32⟩
abbrev RING_BASE_HI (n : Nat) : Nat := 0x101000C + n * 0x40
abbrev RING_BASE_HI_ADDR (n : Nat) : Fld := ⟨RING_BASE_HI n, 0, 32⟩
abbrev RING_IRQ (n : Nat) : Nat := 0x1010010 + n * 0x40
abbrev RING_IRQ_VECTOR (n : Nat) : Fld := ⟨RING_IRQ n, 0, 11⟩
abbrev RING_IRQ_IRQ_EN (n : Nat) : Fld := ⟨RING_IRQ n, 11, 1⟩
abbrev RING_IRQ_IRQ_COUNT (n : Nat) : Fld := ⟨RING_IRQ n, 16, 12⟩
abbrev RING_IRQ_TIME (n : Nat) : Nat := 0x1010014 + n * 0x40
abbrev RING_IRQ_TIME_US (n : Nat) : Fld := ⟨RING_IRQ_TIME n, 0, 16⟩
abbrev RING_PTR (n : Nat) : Nat := 0x1010018 + n * 0x40
abbrev RING_PTR_TAIL (n : Nat) : Fld := ⟨RING_PTR n, 0, 16⟩
abbrev RING_PTR_LAP (n : Nat) : Fld := ⟨RING_PTR n, 16, 1⟩
abbrev RING_HEAD (n : Nat) : Nat := 0x101001C + n * 0x40
abbrev RING_HEAD_HEAD (n : Nat) : Fld := ⟨RING_HEAD n, 0, 16⟩
abbrev RING_HEAD_ARMED (n : Nat) : Fld := ⟨RING_HEAD n, 16, 1⟩
abbrev RING_RSEQ (n : Nat) : Nat := 0x1010020 + n * 0x40
abbrev RING_RSEQ_RSEQ (n : Nat) : Fld := ⟨RING_RSEQ n, 0, 32⟩
abbrev RING_QMAX (n : Nat) : Nat := 0x1010024 + n * 0x40
abbrev RING_QMAX_QMAX (n : Nat) : Fld := ⟨RING_QMAX n, 0, 16⟩
abbrev RING_QLEVEL (n : Nat) : Nat := 0x1010028 + n * 0x40
abbrev RING_QLEVEL_RECORDS (n : Nat) : Fld := ⟨RING_QLEVEL n, 0, 16⟩
abbrev RING_DROP_CNT (n : Nat) : Nat := 0x101002C + n * 0x40
abbrev RING_DROP_CNT_CNT (n : Nat) : Fld := ⟨RING_DROP_CNT n, 0, 32⟩
abbrev RING_REC_CNT (n : Nat) : Nat := 0x1010030 + n * 0x40
abbrev RING_REC_CNT_CNT (n : Nat) : Fld := ⟨RING_REC_CNT n, 0, 32⟩
abbrev RING_STATUS (n : Nat) : Nat := 0x1010034 + n * 0x40
abbrev RING_STATUS_CFG_REJ (n : Nat) : Fld := ⟨RING_STATUS n, 0, 1⟩
abbrev RING_STATUS_HEAD_ERR (n : Nat) : Fld := ⟨RING_STATUS n, 1, 1⟩
abbrev RING_STATUS_DROPPED (n : Nat) : Fld := ⟨RING_STATUS n, 2, 1⟩
abbrev RING_THRESH (n : Nat) : Nat := 0x1010038 + n * 0x40
abbrev RING_THRESH_LEVEL (n : Nat) : Fld := ⟨RING_THRESH n, 0, 16⟩
/-! Registers of R584 (chapter 15). -/
abbrev POOL_CTRL (n : Nat) : Nat := 0x1020000 + n * 0x40
abbrev POOL_CTRL_EN (n : Nat) : Fld := ⟨POOL_CTRL n, 0, 1⟩
abbrev POOL_CTRL_PSIZE (n : Nat) : Fld := ⟨POOL_CTRL n, 1, 2⟩
abbrev POOL_PAGES (n : Nat) : Nat := 0x1020004 + n * 0x40
abbrev POOL_PAGES_PAGES (n : Nat) : Fld := ⟨POOL_PAGES n, 0, 19⟩
abbrev POOL_TABLE_LO (n : Nat) : Nat := 0x1020008 + n * 0x40
abbrev POOL_TABLE_LO_ADDR (n : Nat) : Fld := ⟨POOL_TABLE_LO n, 0, 32⟩
abbrev POOL_TABLE_HI (n : Nat) : Nat := 0x102000C + n * 0x40
abbrev POOL_TABLE_HI_ADDR (n : Nat) : Fld := ⟨POOL_TABLE_HI n, 0, 32⟩
abbrev POOL_CMD (n : Nat) : Nat := 0x1020010 + n * 0x40
abbrev POOL_CMD_OP (n : Nat) : Fld := ⟨POOL_CMD n, 0, 2⟩
abbrev POOL_STATE (n : Nat) : Nat := 0x1020014 + n * 0x40
abbrev POOL_STATE_STATE (n : Nat) : Fld := ⟨POOL_STATE n, 0, 3⟩
abbrev POOL_STATE_POOL_REJ (n : Nat) : Fld := ⟨POOL_STATE n, 4, 1⟩
abbrev POOL_FREE (n : Nat) : Nat := 0x1020018 + n * 0x40
abbrev POOL_FREE_PAGES (n : Nat) : Fld := ⟨POOL_FREE n, 0, 19⟩
abbrev POOL_POSTED (n : Nat) : Nat := 0x102001C + n * 0x40
abbrev POOL_POSTED_PAGES (n : Nat) : Fld := ⟨POOL_POSTED n, 0, 19⟩
abbrev FAULTED_CNT (n : Nat) : Nat := 0x1020020 + n * 0x40
abbrev FAULTED_CNT_PAGES (n : Nat) : Fld := ⟨FAULTED_CNT n, 0, 19⟩
abbrev POOL_WAIT (n : Nat) : Nat := 0x1020024 + n * 0x40
abbrev POOL_WAIT_US (n : Nat) : Fld := ⟨POOL_WAIT n, 0, 16⟩
abbrev POOL_LOW (n : Nat) : Nat := 0x1020028 + n * 0x40
abbrev POOL_LOW_PAGES (n : Nat) : Fld := ⟨POOL_LOW n, 0, 19⟩
abbrev FAULT_ADDR_LO (n : Nat) : Nat := 0x102002C + n * 0x40
abbrev FAULT_ADDR_LO_ADDR (n : Nat) : Fld := ⟨FAULT_ADDR_LO n, 0, 32⟩
abbrev FAULT_ADDR_HI (n : Nat) : Nat := 0x1020030 + n * 0x40
abbrev FAULT_ADDR_HI_ADDR (n : Nat) : Fld := ⟨FAULT_ADDR_HI n, 0, 32⟩
abbrev NOBUF_CNT (n : Nat) : Nat := 0x1020034 + n * 0x40
abbrev NOBUF_CNT_CNT (n : Nat) : Fld := ⟨NOBUF_CNT n, 0, 32⟩
abbrev RECLAIMED (n : Nat) : Nat := 0x1020038 + n * 0x40
abbrev RECLAIMED_PAGES (n : Nat) : Fld := ⟨RECLAIMED n, 0, 19⟩
/-! Registers of R585 (chapter 15). -/
abbrev FB_CTRL (n : Nat) : Nat := 0x1030000 + n * 0x40
abbrev FB_CTRL_MODE (n : Nat) : Fld := ⟨FB_CTRL n, 0, 2⟩
abbrev FB_CTRL_VIEW (n : Nat) : Fld := ⟨FB_CTRL n, 4, 3⟩
abbrev FB_CTRL_RING (n : Nat) : Fld := ⟨FB_CTRL n, 8, 8⟩
abbrev FB_ID (n : Nat) : Nat := 0x1030004 + n * 0x40
abbrev FB_ID_ID (n : Nat) : Fld := ⟨FB_ID n, 0, 32⟩
abbrev FB_LIST_LO (n : Nat) : Nat := 0x1030008 + n * 0x40
abbrev FB_LIST_LO_ADDR (n : Nat) : Fld := ⟨FB_LIST_LO n, 0, 32⟩
abbrev FB_LIST_HI (n : Nat) : Nat := 0x103000C + n * 0x40
abbrev FB_LIST_HI_ADDR (n : Nat) : Fld := ⟨FB_LIST_HI n, 0, 32⟩
abbrev FB_COUNT (n : Nat) : Nat := 0x1030010 + n * 0x40
abbrev FB_COUNT_TAGS (n : Nat) : Fld := ⟨FB_COUNT n, 0, 13⟩
abbrev FB_FIRST_LO (n : Nat) : Nat := 0x1030014 + n * 0x40
abbrev FB_FIRST_LO_POS (n : Nat) : Fld := ⟨FB_FIRST_LO n, 0, 32⟩
abbrev FB_FIRST_HI (n : Nat) : Nat := 0x1030018 + n * 0x40
abbrev FB_FIRST_HI_POS (n : Nat) : Fld := ⟨FB_FIRST_HI n, 0, 24⟩
abbrev FB_LAST_LO (n : Nat) : Nat := 0x103001C + n * 0x40
abbrev FB_LAST_LO_POS (n : Nat) : Fld := ⟨FB_LAST_LO n, 0, 32⟩
abbrev FB_LAST_HI (n : Nat) : Nat := 0x1030020 + n * 0x40
abbrev FB_LAST_HI_POS (n : Nat) : Fld := ⟨FB_LAST_HI n, 0, 24⟩
abbrev FB_CHUNK (n : Nat) : Nat := 0x1030024 + n * 0x40
abbrev FB_CHUNK_ROWS (n : Nat) : Fld := ⟨FB_CHUNK n, 0, 16⟩
abbrev FB_CMD (n : Nat) : Nat := 0x1030028 + n * 0x40
abbrev FB_CMD_OP (n : Nat) : Fld := ⟨FB_CMD n, 0, 2⟩
abbrev FB_RESULT (n : Nat) : Nat := 0x103002C + n * 0x40
abbrev FB_RESULT_DONE (n : Nat) : Fld := ⟨FB_RESULT n, 0, 1⟩
abbrev FB_RESULT_CMD_IGN (n : Nat) : Fld := ⟨FB_RESULT n, 1, 1⟩
abbrev FB_RESULT_STATUS (n : Nat) : Fld := ⟨FB_RESULT n, 4, 2⟩
abbrev FB_FULL_CNT (n : Nat) : Nat := 0x1030030 + n * 0x40
abbrev FB_FULL_CNT_CNT (n : Nat) : Fld := ⟨FB_FULL_CNT n, 0, 32⟩
abbrev FB_LOSS_CNT (n : Nat) : Nat := 0x1030034 + n * 0x40
abbrev FB_LOSS_CNT_CNT (n : Nat) : Fld := ⟨FB_LOSS_CNT n, 0, 32⟩
/-! Registers of R586 (chapter 15). -/
abbrev DV_CROP (n : Nat) : Nat := 0x1040000 + n * 0x20
abbrev DV_CROP_COUNT (n : Nat) : Fld := ⟨DV_CROP n, 0, 8⟩
abbrev DV_CROP_MARGIN (n : Nat) : Fld := ⟨DV_CROP n, 8, 8⟩
abbrev DV_CROP_MAX (n : Nat) : Fld := ⟨DV_CROP n, 16, 13⟩
abbrev DV_MASKS (n : Nat) : Nat := 0x1040004 + n * 0x20
abbrev DV_MASKS_CROP_VERDICTS (n : Nat) : Fld := ⟨DV_MASKS n, 0, 3⟩
abbrev DV_MASKS_FULL_VERDICTS (n : Nat) : Fld := ⟨DV_MASKS n, 4, 3⟩
abbrev DV_PREVIEW (n : Nat) : Nat := 0x1040008 + n * 0x20
abbrev DV_PREVIEW_EN (n : Nat) : Fld := ⟨DV_PREVIEW n, 0, 1⟩
abbrev DV_PREVIEW_DEC_X (n : Nat) : Fld := ⟨DV_PREVIEW n, 8, 7⟩
abbrev DV_PREVIEW_DEC_Y (n : Nat) : Fld := ⟨DV_PREVIEW n, 16, 7⟩
abbrev DV_PREVIEW_STRIPE (n : Nat) : Fld := ⟨DV_PREVIEW n, 24, 8⟩
abbrev PREVIEW_SHED_CNT (n : Nat) : Nat := 0x104000C + n * 0x20
abbrev PREVIEW_SHED_CNT_CNT (n : Nat) : Fld := ⟨PREVIEW_SHED_CNT n, 0, 32⟩
abbrev PREVIEW_SKIP_CNT (n : Nat) : Nat := 0x1040010 + n * 0x20
abbrev PREVIEW_SKIP_CNT_CNT (n : Nat) : Fld := ⟨PREVIEW_SKIP_CNT n, 0, 32⟩
abbrev NOT_RETAINED_CNT (n : Nat) : Nat := 0x1040014 + n * 0x20
abbrev NOT_RETAINED_CNT_CNT (n : Nat) : Fld := ⟨NOT_RETAINED_CNT n, 0, 32⟩
/-! Registers of R622 (chapter 16). -/
abbrev PCIE_LINK : Nat := 0x8000
abbrev PCIE_LINK_RATE : Fld := ⟨PCIE_LINK, 0, 3⟩
abbrev PCIE_LINK_WIDTH : Fld := ⟨PCIE_LINK, 3, 5⟩
abbrev PCIE_LINK_FLIT : Fld := ⟨PCIE_LINK, 8, 1⟩
abbrev PCIE_LINK_UP : Fld := ⟨PCIE_LINK, 9, 1⟩
abbrev PCIE_LINK_L1 : Fld := ⟨PCIE_LINK, 10, 1⟩
abbrev PCIE_CTRL : Nat := 0x8004
abbrev PCIE_CTRL_STRICT_ORDER_0 : Fld := ⟨PCIE_CTRL, 0, 1⟩
abbrev PCIE_CTRL_STRICT_ORDER_1 : Fld := ⟨PCIE_CTRL, 1, 1⟩
abbrev PCIE_CTRL_L1_IDLE : Fld := ⟨PCIE_CTRL, 8, 8⟩
abbrev TAG_LIMIT : Nat := 0x8008
abbrev TAG_LIMIT_LIMIT : Fld := ⟨TAG_LIMIT, 0, 11⟩
abbrev TAG_LIMIT_WITHY_RSV : Fld := ⟨TAG_LIMIT, 16, 8⟩
abbrev TAG_STATUS : Nat := 0x800C
abbrev TAG_STATUS_IN_USE : Fld := ⟨TAG_STATUS, 0, 11⟩
abbrev TAG_STATUS_QUARANTINED : Fld := ⟨TAG_STATUS, 16, 11⟩
abbrev CPL_TO_CNT : Nat := 0x8010
abbrev CPL_TO_CNT_CNT : Fld := ⟨CPL_TO_CNT, 0, 32⟩
abbrev LATE_CPL_CNT : Nat := 0x8014
abbrev LATE_CPL_CNT_CNT : Fld := ⟨LATE_CPL_CNT, 0, 32⟩
abbrev UR_CNT : Nat := 0x8018
abbrev UR_CNT_CNT : Fld := ⟨UR_CNT, 0, 32⟩
abbrev WIN_DROP_CNT : Nat := 0x801C
abbrev WIN_DROP_CNT_CNT : Fld := ⟨WIN_DROP_CNT, 0, 32⟩
abbrev WIN_ERR_ADDR_LO : Nat := 0x8020
abbrev WIN_ERR_ADDR_LO_OFFSET : Fld := ⟨WIN_ERR_ADDR_LO, 0, 32⟩
abbrev WIN_ERR_ADDR_HI : Nat := 0x8024
abbrev WIN_ERR_ADDR_HI_OFFSET : Fld := ⟨WIN_ERR_ADDR_HI, 0, 4⟩
abbrev WIN_ERR_INFO : Nat := 0x8028
abbrev WIN_ERR_INFO_DESC : Fld := ⟨WIN_ERR_INFO, 0, 4⟩
abbrev WIN_ERR_INFO_CAUSE : Fld := ⟨WIN_ERR_INFO, 4, 3⟩
abbrev WIN_ERR_INFO_WRITE : Fld := ⟨WIN_ERR_INFO, 7, 1⟩
abbrev WIN_ERR_INFO_VALID : Fld := ⟨WIN_ERR_INFO, 31, 1⟩
abbrev PARTIAL_WR_CNT : Nat := 0x802C
abbrev PARTIAL_WR_CNT_CNT : Fld := ⟨PARTIAL_WR_CNT, 0, 32⟩
abbrev WINDOW_COMMIT : Nat := 0x8030
abbrev WINDOW_COMMIT_COMMIT : Fld := ⟨WINDOW_COMMIT, 0, 1⟩
abbrev WIN_STATUS : Nat := 0x8034
abbrev WIN_STATUS_WINDOW_REJ : Fld := ⟨WIN_STATUS, 0, 1⟩
abbrev WIN_STATUS_REJ_DESC : Fld := ⟨WIN_STATUS, 4, 4⟩
abbrev WIN_STATUS_ACTIVE : Fld := ⟨WIN_STATUS, 16, 16⟩
abbrev WAKE_CFG : Nat := 0x8038
abbrev WAKE_CFG_MASK : Fld := ⟨WAKE_CFG, 0, 8⟩
abbrev WAKE_CFG_POL : Fld := ⟨WAKE_CFG, 8, 8⟩
/-! Registers of R623 (chapter 16). -/
abbrev WIN_CFG (n : Nat) : Nat := 0x8100 + n * 0x10
abbrev WIN_CFG_EN (n : Nat) : Fld := ⟨WIN_CFG n, 0, 1⟩
abbrev WIN_CFG_WRITE_EN (n : Nat) : Fld := ⟨WIN_CFG n, 1, 1⟩
abbrev WIN_CFG_SIZE (n : Nat) : Fld := ⟨WIN_CFG n, 16, 16⟩
abbrev WIN_BAR (n : Nat) : Nat := 0x8104 + n * 0x10
abbrev WIN_BAR_BASE (n : Nat) : Fld := ⟨WIN_BAR n, 0, 15⟩
abbrev WIN_TGT (n : Nat) : Nat := 0x8108 + n * 0x10
abbrev WIN_TGT_SEG (n : Nat) : Fld := ⟨WIN_TGT n, 0, 20⟩
/-! Registers of R642 (chapter 17). -/
abbrev DMA_STATUS : Nat := 0x1100000
abbrev DMA_STATUS_STOPPED : Fld := ⟨DMA_STATUS, 0, 16⟩
abbrev EVT_DMA : Nat := 0x1100004
abbrev EVT_DMA_SEL : Fld := ⟨EVT_DMA, 0, 9⟩
/-! Registers of R643 (chapter 17). -/
abbrev DMA_CH_CTRL (n : Nat) : Nat := 0x1101000 + n * 0x100
abbrev DMA_CH_CTRL_EN (n : Nat) : Fld := ⟨DMA_CH_CTRL n, 0, 1⟩
abbrev DMA_CH_STATE (n : Nat) : Nat := 0x1101004 + n * 0x100
abbrev DMA_CH_STATE_STATE (n : Nat) : Fld := ⟨DMA_CH_STATE n, 0, 3⟩
abbrev DMA_CH_STATE_CAUSE (n : Nat) : Fld := ⟨DMA_CH_STATE n, 4, 4⟩
abbrev DMA_CH_STATE_POISON (n : Nat) : Fld := ⟨DMA_CH_STATE n, 8, 1⟩
abbrev DMA_CH_STATE_START_REJ (n : Nat) : Fld := ⟨DMA_CH_STATE n, 9, 1⟩
abbrev DESC_PTR_LO (n : Nat) : Nat := 0x1101008 + n * 0x100
abbrev DESC_PTR_LO_ADDR (n : Nat) : Fld := ⟨DESC_PTR_LO n, 0, 32⟩
abbrev DESC_PTR_HI (n : Nat) : Nat := 0x110100C + n * 0x100
abbrev DESC_PTR_HI_ADDR (n : Nat) : Fld := ⟨DESC_PTR_HI n, 0, 32⟩
abbrev CUR_DESC_LO (n : Nat) : Nat := 0x1101010 + n * 0x100
abbrev CUR_DESC_LO_ADDR (n : Nat) : Fld := ⟨CUR_DESC_LO n, 0, 32⟩
abbrev CUR_DESC_HI (n : Nat) : Nat := 0x1101014 + n * 0x100
abbrev CUR_DESC_HI_ADDR (n : Nat) : Fld := ⟨CUR_DESC_HI n, 0, 32⟩
abbrev CHAIN_MAX (n : Nat) : Nat := 0x1101018 + n * 0x100
abbrev CHAIN_MAX_MAX (n : Nat) : Fld := ⟨CHAIN_MAX n, 0, 24⟩
abbrev APPEND_CNT (n : Nat) : Nat := 0x110101C + n * 0x100
abbrev APPEND_CNT_CNT (n : Nat) : Fld := ⟨APPEND_CNT n, 0, 32⟩
abbrev SEEN_CNT (n : Nat) : Nat := 0x1101020 + n * 0x100
abbrev SEEN_CNT_CNT (n : Nat) : Fld := ⟨SEEN_CNT n, 0, 32⟩
abbrev DESC_CNT (n : Nat) : Nat := 0x1101024 + n * 0x100
abbrev DESC_CNT_CNT (n : Nat) : Fld := ⟨DESC_CNT n, 0, 32⟩
abbrev BYTE_CNT_LO (n : Nat) : Nat := 0x1101028 + n * 0x100
abbrev BYTE_CNT_LO_BYTES (n : Nat) : Fld := ⟨BYTE_CNT_LO n, 0, 32⟩
abbrev BYTE_CNT_HI (n : Nat) : Nat := 0x110102C + n * 0x100
abbrev BYTE_CNT_HI_BYTES (n : Nat) : Fld := ⟨BYTE_CNT_HI n, 0, 32⟩
abbrev ERR_ADDR_LO (n : Nat) : Nat := 0x1101030 + n * 0x100
abbrev ERR_ADDR_LO_ADDR (n : Nat) : Fld := ⟨ERR_ADDR_LO n, 0, 32⟩
abbrev ERR_ADDR_HI (n : Nat) : Nat := 0x1101034 + n * 0x100
abbrev ERR_ADDR_HI_ADDR (n : Nat) : Fld := ⟨ERR_ADDR_HI n, 0, 32⟩
abbrev CH_IRQ (n : Nat) : Nat := 0x1101038 + n * 0x100
abbrev CH_IRQ_VECTOR (n : Nat) : Fld := ⟨CH_IRQ n, 0, 11⟩
abbrev CH_IRQ_IRQ_EN (n : Nat) : Fld := ⟨CH_IRQ n, 11, 1⟩
abbrev DMA_CH_CFG (n : Nat) : Nat := 0x110103C + n * 0x100
abbrev DMA_CH_CFG_OUTSTANDING (n : Nat) : Fld := ⟨DMA_CH_CFG n, 0, 9⟩
abbrev POISON_CNT (n : Nat) : Nat := 0x1101040 + n * 0x100
abbrev POISON_CNT_CNT (n : Nat) : Fld := ⟨POISON_CNT n, 0, 32⟩
/-! Registers of R674 (chapter 18). -/
abbrev MB_CTRL (n : Nat) : Nat := 0xA000 + n * 0x10
abbrev MB_CTRL_RING (n : Nat) : Fld := ⟨MB_CTRL n, 0, 1⟩
abbrev MB_STATUS (n : Nat) : Nat := 0xA004 + n * 0x10
abbrev MB_STATUS_BUSY (n : Nat) : Fld := ⟨MB_STATUS n, 0, 1⟩
abbrev MB_STATUS_DONE (n : Nat) : Fld := ⟨MB_STATUS n, 1, 1⟩
abbrev MB_STATUS_DB_IGN (n : Nat) : Fld := ⟨MB_STATUS n, 2, 1⟩
abbrev MB_STATUS_WR_BUSY (n : Nat) : Fld := ⟨MB_STATUS n, 3, 1⟩
abbrev MB_STATUS_LAST_STATUS (n : Nat) : Fld := ⟨MB_STATUS n, 16, 16⟩
abbrev MB_IRQ (n : Nat) : Nat := 0xA008 + n * 0x10
abbrev MB_IRQ_VECTOR (n : Nat) : Fld := ⟨MB_IRQ n, 0, 11⟩
abbrev MB_IRQ_IRQ_EN (n : Nat) : Fld := ⟨MB_IRQ n, 11, 1⟩
abbrev MB_CNT (n : Nat) : Nat := 0xA00C + n * 0x10
abbrev MB_CNT_CNT (n : Nat) : Fld := ⟨MB_CNT n, 0, 32⟩
/-! Registers of R675 (chapter 18). -/
abbrev SKEP_STATUS : Nat := 0xA200
abbrev SKEP_STATUS_STATE : Fld := ⟨SKEP_STATUS, 0, 2⟩
abbrev SKEP_STATUS_PATCHED : Fld := ⟨SKEP_STATUS, 2, 1⟩
abbrev SKEP_STATUS_TABLE_REBUILT : Fld := ⟨SKEP_STATUS, 3, 1⟩
abbrev SKEP_RESET_CNT : Nat := 0xA204
abbrev SKEP_RESET_CNT_CNT : Fld := ⟨SKEP_RESET_CNT, 0, 32⟩
abbrev SKEP_RESTART : Nat := 0xA208
abbrev SKEP_RESTART_GO : Fld := ⟨SKEP_RESTART, 0, 1⟩
abbrev ISAOW_VER : Nat := 0xA20C
abbrev ISAOW_VER_MINOR : Fld := ⟨ISAOW_VER, 0, 8⟩
abbrev ISAOW_VER_MAJOR : Fld := ⟨ISAOW_VER, 8, 8⟩
abbrev EVT_SKEP : Nat := 0xA210
abbrev EVT_SKEP_SEL : Fld := ⟨EVT_SKEP, 0, 9⟩
abbrev SMB_PEC_ERR : Nat := 0xA214
abbrev SMB_PEC_ERR_CNT : Fld := ⟨SMB_PEC_ERR, 0, 16⟩
/-! Registers of R697 (chapter 19). -/
abbrev TH_STATUS : Nat := 0x1300000
abbrev TH_STATUS_WARN : Fld := ⟨TH_STATUS, 0, 1⟩
abbrev TH_STATUS_THROTTLE : Fld := ⟨TH_STATUS, 1, 1⟩
abbrev TH_STATUS_DATA_STOP : Fld := ⟨TH_STATUS, 2, 1⟩
abbrev TH_STATUS_LIGHT_LATCH : Fld := ⟨TH_STATUS, 3, 1⟩
abbrev TH_STATUS_TRIP_SEEN : Fld := ⟨TH_STATUS, 4, 1⟩
abbrev TH_STATUS_SENS_FAIL : Fld := ⟨TH_STATUS, 5, 1⟩
abbrev TH_STATUS_HBM_HOT : Fld := ⟨TH_STATUS, 6, 1⟩
abbrev TH_STATUS_PMBUS_ERR : Fld := ⟨TH_STATUS, 7, 1⟩
abbrev TH_STATUS_OVER_BUDGET : Fld := ⟨TH_STATUS, 8, 1⟩
abbrev TH_STATUS_LOG_PENDING : Fld := ⟨TH_STATUS, 9, 1⟩
abbrev TH_STATUS_FAST : Fld := ⟨TH_STATUS, 10, 1⟩
abbrev TH_MAX : Nat := 0x1300004
abbrev TH_MAX_TEMP : Fld := ⟨TH_MAX, 0, 16⟩
abbrev TH_MAX_SENSOR : Fld := ⟨TH_MAX, 16, 4⟩
abbrev EVT_THERM : Nat := 0x1300008
abbrev EVT_THERM_SEL : Fld := ⟨EVT_THERM, 0, 9⟩
abbrev TH_LIMIT_A : Nat := 0x130000C
abbrev TH_LIMIT_A_WARN : Fld := ⟨TH_LIMIT_A, 0, 16⟩
abbrev TH_LIMIT_A_THROTTLE : Fld := ⟨TH_LIMIT_A, 16, 16⟩
abbrev TH_LIMIT_B : Nat := 0x1300010
abbrev TH_LIMIT_B_DATA_STOP : Fld := ⟨TH_LIMIT_B, 0, 16⟩
abbrev TH_LIMIT_B_LIGHT_LATCH : Fld := ⟨TH_LIMIT_B, 16, 16⟩
abbrev TH_LIMIT_C : Nat := 0x1300014
abbrev TH_LIMIT_C_TRIP : Fld := ⟨TH_LIMIT_C, 0, 16⟩
abbrev TH_LIMIT_C_HYST : Fld := ⟨TH_LIMIT_C, 16, 8⟩
abbrev STACK_TEMP : Nat := 0x1300018
abbrev STACK_TEMP_STACK_0 : Fld := ⟨STACK_TEMP, 0, 8⟩
abbrev STACK_TEMP_STACK_1 : Fld := ⟨STACK_TEMP, 8, 8⟩
abbrev STACK_TEMP_STACK_STOP : Fld := ⟨STACK_TEMP, 16, 8⟩
abbrev STOP_CNT : Nat := 0x130001C
abbrev STOP_CNT_CNT : Fld := ⟨STOP_CNT, 0, 32⟩
abbrev STOP_TIME_LO : Nat := 0x1300020
abbrev STOP_TIME_LO_NS : Fld := ⟨STOP_TIME_LO, 0, 32⟩
abbrev STOP_TIME_HI : Nat := 0x1300024
abbrev STOP_TIME_HI_NS : Fld := ⟨STOP_TIME_HI, 0, 32⟩
abbrev SENSOR (n : Nat) : Nat := 0x1300040 + n * 0x4
abbrev SENSOR_TEMP (n : Nat) : Fld := ⟨SENSOR n, 0, 16⟩
abbrev SENSOR_VALID (n : Nat) : Fld := ⟨SENSOR n, 16, 1⟩
abbrev PWR_BUDGET : Nat := 0x1300080
abbrev PWR_BUDGET_MW : Fld := ⟨PWR_BUDGET, 0, 18⟩
abbrev PWR_FORECAST : Nat := 0x1300084
abbrev PWR_FORECAST_MW : Fld := ⟨PWR_FORECAST, 0, 18⟩
abbrev PWR_MEASURED : Nat := 0x1300088
abbrev PWR_MEASURED_MW : Fld := ⟨PWR_MEASURED, 0, 18⟩
abbrev PWR_WAITING : Nat := 0x130008C
abbrev PWR_WAITING_WAITING : Fld := ⟨PWR_WAITING, 0, 12⟩
abbrev VCORE : Nat := 0x1300090
abbrev VCORE_MV : Fld := ⟨VCORE, 0, 12⟩
abbrev VCORE_TARGET : Fld := ⟨VCORE, 16, 12⟩
/-! Registers of R715 (chapter 20). -/
abbrev NVM_STATUS : Nat := 0x1400000
abbrev NVM_STATUS_READY : Fld := ⟨NVM_STATUS, 0, 1⟩
abbrev NVM_STATUS_WIN_OK : Fld := ⟨NVM_STATUS, 1, 1⟩
abbrev NVM_STATUS_WRITE_BUSY : Fld := ⟨NVM_STATUS, 2, 1⟩
abbrev NVM_STATUS_WRITE_WINDOW : Fld := ⟨NVM_STATUS, 3, 1⟩
abbrev NVM_STATUS_NVM_FAIL : Fld := ⟨NVM_STATUS, 4, 1⟩
abbrev CAL_VALID : Nat := 0x1400004
abbrev CAL_VALID_GROUPS : Fld := ⟨CAL_VALID, 0, 16⟩
abbrev CAL_USER : Nat := 0x1400008
abbrev CAL_USER_GROUPS : Fld := ⟨CAL_USER, 0, 16⟩
abbrev LOG_NEXT : Nat := 0x140000C
abbrev LOG_NEXT_SEQ : Fld := ⟨LOG_NEXT, 0, 32⟩
abbrev LOG_OLDEST : Nat := 0x1400010
abbrev LOG_OLDEST_SEQ : Fld := ⟨LOG_OLDEST, 0, 32⟩
abbrev LOG_PENDING_CNT : Nat := 0x1400014
abbrev LOG_PENDING_CNT_CNT : Fld := ⟨LOG_PENDING_CNT, 0, 7⟩
abbrev LOG_LOST_CNT : Nat := 0x1400018
abbrev LOG_LOST_CNT_CNT : Fld := ⟨LOG_LOST_CNT, 0, 32⟩
abbrev WRITE_REJ_CNT : Nat := 0x140001C
abbrev WRITE_REJ_CNT_CNT : Fld := ⟨WRITE_REJ_CNT, 0, 32⟩
abbrev POWER_ON_CNT : Nat := 0x1400020
abbrev POWER_ON_CNT_CNT : Fld := ⟨POWER_ON_CNT, 0, 32⟩
abbrev ON_HOURS : Nat := 0x1400024
abbrev ON_HOURS_HOURS : Fld := ⟨ON_HOURS, 0, 32⟩
abbrev MIN_SEQ : Nat := 0x1400028
abbrev MIN_SEQ_SEQ : Fld := ⟨MIN_SEQ, 0, 32⟩
abbrev CAL_IMAGE (n : Nat) : Nat := 0x1410000 + n * 0x4
abbrev CAL_IMAGE_DATA (n : Nat) : Fld := ⟨CAL_IMAGE n, 0, 32⟩
/-! Registers of R731 (chapter 21). -/
abbrev BOOT_STATUS : Nat := 0xB000
abbrev BOOT_STATUS_STAGE : Fld := ⟨BOOT_STATUS, 0, 4⟩
abbrev BOOT_STATUS_BOOT_FAIL : Fld := ⟨BOOT_STATUS, 8, 1⟩
abbrev BOOT_STATUS_CFG_DEFAULT : Fld := ⟨BOOT_STATUS, 9, 1⟩
abbrev RESET_CAUSE : Nat := 0xB004
abbrev RESET_CAUSE_AON : Fld := ⟨RESET_CAUSE, 0, 1⟩
abbrev RESET_CAUSE_CORE_POR : Fld := ⟨RESET_CAUSE, 1, 1⟩
abbrev RESET_CAUSE_SYS_RESET : Fld := ⟨RESET_CAUSE, 2, 1⟩
abbrev RESET_CAUSE_PERST : Fld := ⟨RESET_CAUSE, 3, 1⟩
abbrev RESET_CAUSE_HOT_RESET : Fld := ⟨RESET_CAUSE, 4, 1⟩
abbrev RESET_CAUSE_FLR_0 : Fld := ⟨RESET_CAUSE, 5, 1⟩
abbrev RESET_CAUSE_FLR_1 : Fld := ⟨RESET_CAUSE, 6, 1⟩
abbrev RESET_CAUSE_SKEP : Fld := ⟨RESET_CAUSE, 7, 1⟩
abbrev BOOT_TIME : Nat := 0xB008
abbrev BOOT_TIME_RELEASE_MS : Fld := ⟨BOOT_TIME, 0, 16⟩
abbrev BOOT_TIME_READY_MS : Fld := ⟨BOOT_TIME, 16, 16⟩
abbrev QSPI_ID : Nat := 0xB00C
abbrev QSPI_ID_ID : Fld := ⟨QSPI_ID, 0, 24⟩
/-! Registers of R734 (chapter 22). -/
abbrev GID : Nat := 0x0
abbrev GID_VENDOR : Fld := ⟨GID, 0, 16⟩
abbrev GID_DEVICE : Fld := ⟨GID, 16, 16⟩
abbrev GREV : Nat := 0x4
abbrev GREV_METAL : Fld := ⟨GREV, 0, 4⟩
abbrev GREV_BASE : Fld := ⟨GREV, 4, 4⟩
abbrev GREV_GRADE : Fld := ⟨GREV, 8, 1⟩
abbrev SERIAL_LO : Nat := 0x8
abbrev SERIAL_LO_SERIAL : Fld := ⟨SERIAL_LO, 0, 32⟩
abbrev SERIAL_HI : Nat := 0xC
abbrev SERIAL_HI_SERIAL : Fld := ⟨SERIAL_HI, 0, 32⟩
abbrev ROM_ID : Nat := 0x10
abbrev ROM_ID_ID : Fld := ⟨ROM_ID, 0, 32⟩
abbrev FW_VERSION : Nat := 0x14
abbrev FW_VERSION_VERSION : Fld := ⟨FW_VERSION, 0, 32⟩
/-! Registers of R735 (chapter 22). -/
abbrev GCAP_0 : Nat := 0x40
abbrev GCAP_0_LANES : Fld := ⟨GCAP_0, 0, 8⟩
abbrev GCAP_0_VIEWS : Fld := ⟨GCAP_0, 8, 8⟩
abbrev GCAP_0_CHAINS : Fld := ⟨GCAP_0, 16, 8⟩
abbrev GCAP_0_ENCODERS : Fld := ⟨GCAP_0, 24, 8⟩
abbrev GCAP_1 : Nat := 0x44
abbrev GCAP_1_SSI : Fld := ⟨GCAP_1, 0, 8⟩
abbrev GCAP_1_DMA_CHANNELS : Fld := ⟨GCAP_1, 8, 8⟩
abbrev GCAP_1_JOB_SLOTS : Fld := ⟨GCAP_1, 16, 8⟩
abbrev GCAP_1_MARKS : Fld := ⟨GCAP_1, 24, 8⟩
abbrev GCAP_2 : Nat := 0x48
abbrev GCAP_2_ENDPOINTS : Fld := ⟨GCAP_2, 0, 16⟩
abbrev GCAP_2_RINGS : Fld := ⟨GCAP_2, 16, 16⟩
abbrev GCAP_3 : Nat := 0x4C
abbrev GCAP_3_SEGMENTS : Fld := ⟨GCAP_3, 0, 20⟩
abbrev GCAP_3_STACKS : Fld := ⟨GCAP_3, 24, 4⟩
abbrev GCAP_4 : Nat := 0x50
abbrev GCAP_4_CONTEXTS : Fld := ⟨GCAP_4, 0, 21⟩
abbrev GCAP_5 : Nat := 0x54
abbrev GCAP_5_EVENT_ENTRIES : Fld := ⟨GCAP_5, 0, 19⟩
abbrev GCAP_6 : Nat := 0x58
abbrev GCAP_6_SWARD_CHANNELS : Fld := ⟨GCAP_6, 0, 9⟩
abbrev GCAP_6_POOLS : Fld := ⟨GCAP_6, 16, 8⟩
abbrev GCAP_7 : Nat := 0x5C
abbrev GCAP_7_DESCRIPTORS : Fld := ⟨GCAP_7, 0, 13⟩
abbrev GCAP_7_CMP_SLICES : Fld := ⟨GCAP_7, 16, 4⟩
abbrev GCAP_7_COND_SLICES : Fld := ⟨GCAP_7, 20, 4⟩
/-! Registers of R739 (chapter 22). -/
abbrev GIRQ_STATUS (n : Nat) : Nat := 0x200 + n * 0x4000000
abbrev GIRQ_STATUS_SWARD (n : Nat) : Fld := ⟨GIRQ_STATUS n, 0, 1⟩
abbrev GIRQ_STATUS_RING (n : Nat) : Fld := ⟨GIRQ_STATUS n, 1, 1⟩
abbrev GIRQ_STATUS_DMA (n : Nat) : Fld := ⟨GIRQ_STATUS n, 2, 1⟩
abbrev GIRQ_STATUS_MAILBOX (n : Nat) : Fld := ⟨GIRQ_STATUS n, 3, 1⟩
abbrev GIRQ_STATUS_THERMAL (n : Nat) : Fld := ⟨GIRQ_STATUS n, 4, 1⟩
abbrev GIRQ_STATUS_SKEP (n : Nat) : Fld := ⟨GIRQ_STATUS n, 5, 1⟩
abbrev GIRQ_STATUS_PCIE (n : Nat) : Fld := ⟨GIRQ_STATUS n, 6, 1⟩
abbrev GIRQ_STATUS_SOFT (n : Nat) : Fld := ⟨GIRQ_STATUS n, 7, 1⟩
abbrev GIRQ_ENABLE (n : Nat) : Nat := 0x204 + n * 0x4000000
abbrev GIRQ_ENABLE_EN (n : Nat) : Fld := ⟨GIRQ_ENABLE n, 0, 8⟩
abbrev GIRQ_VECTOR (n : Nat) : Nat := 0x208 + n * 0x4000000
abbrev GIRQ_VECTOR_AGG_VECTOR (n : Nat) : Fld := ⟨GIRQ_VECTOR n, 0, 11⟩
abbrev GIRQ_VECTOR_VEC_REJ (n : Nat) : Fld := ⟨GIRQ_VECTOR n, 16, 1⟩
abbrev GIRQ_SOFT (n : Nat) : Nat := 0x20C + n * 0x4000000
abbrev GIRQ_SOFT_SET (n : Nat) : Fld := ⟨GIRQ_SOFT n, 0, 1⟩
/-! Registers of R745 (chapter 22). -/
abbrev IND_OFFSET : Nat := 0xC000
abbrev IND_OFFSET_OFFSET : Fld := ⟨IND_OFFSET, 2, 24⟩
abbrev IND_DATA : Nat := 0xC004
abbrev IND_DATA_DATA : Fld := ⟨IND_DATA, 0, 32⟩
abbrev IND_CMD : Nat := 0xC008
abbrev IND_CMD_GO : Fld := ⟨IND_CMD, 0, 1⟩
abbrev IND_CMD_WRITE : Fld := ⟨IND_CMD, 1, 1⟩
abbrev IND_STATUS : Nat := 0xC00C
abbrev IND_STATUS_DONE : Fld := ⟨IND_STATUS, 0, 1⟩
abbrev IND_STATUS_IND_REJ : Fld := ⟨IND_STATUS, 1, 1⟩
abbrev IND_STATUS_CMD_IGN : Fld := ⟨IND_STATUS, 2, 1⟩
/-! Registers of R587 (chapter 15). -/
abbrev EVT_TAP (n : Nat) : Nat := 0x1050000 + n * 0x4
abbrev EVT_TAP_SEL (n : Nat) : Fld := ⟨EVT_TAP n, 0, 9⟩
abbrev EVT_TAP_RING (n : Nat) : Fld := ⟨EVT_TAP n, 16, 8⟩
/-! Registers of R396 (chapter 10). -/
abbrev RAW_SEGS (n : Nat) : Nat := 0x308000 + n * 0x4
abbrev RAW_SEGS_SEGS (n : Nat) : Fld := ⟨RAW_SEGS n, 0, 20⟩
/-! Registers of R317 (chapter 08). -/
abbrev MF_POOL_FREE : Nat := 0x1510000
abbrev MF_POOL_FREE_WORDS : Fld := ⟨MF_POOL_FREE, 0, 17⟩
/-! Registers of R736 (chapter 22). -/
abbrev GSTATUS : Nat := 0x100
abbrev GSTATUS_MEM_READY : Fld := ⟨GSTATUS, 0, 1⟩
abbrev GSTATUS_SKEP_RUN : Fld := ⟨GSTATUS, 1, 1⟩
abbrev GSTATUS_DATA_STOP : Fld := ⟨GSTATUS, 2, 1⟩
abbrev GSTATUS_LIGHT_LATCH : Fld := ⟨GSTATUS, 3, 1⟩
abbrev GSTATUS_THROTTLE : Fld := ⟨GSTATUS, 4, 1⟩
abbrev GSTATUS_SUSPENDED : Fld := ⟨GSTATUS, 5, 1⟩
abbrev GSTATUS_BOOT_FAIL : Fld := ⟨GSTATUS, 6, 1⟩
abbrev GSTATUS_TRIP_SEEN : Fld := ⟨GSTATUS, 7, 1⟩
/-! Registers of R740 (chapter 22). -/
abbrev SCRATCH (n : Nat) : Nat := 0x400 + n * 0x4
abbrev SCRATCH_V (n : Nat) : Fld := ⟨SCRATCH n, 0, 32⟩
/-! Registers of R623 (chapter 16). -/
abbrev ACT_WIN_CFG (n : Nat) : Nat := 0x8200 + n * 0x10
abbrev ACT_WIN_CFG_EN (n : Nat) : Fld := ⟨ACT_WIN_CFG n, 0, 1⟩
abbrev ACT_WIN_CFG_WRITE_EN (n : Nat) : Fld := ⟨ACT_WIN_CFG n, 1, 1⟩
abbrev ACT_WIN_CFG_SIZE (n : Nat) : Fld := ⟨ACT_WIN_CFG n, 16, 16⟩
abbrev ACT_WIN_BAR (n : Nat) : Nat := 0x8204 + n * 0x10
abbrev ACT_WIN_BAR_BASE (n : Nat) : Fld := ⟨ACT_WIN_BAR n, 0, 15⟩
abbrev ACT_WIN_TGT (n : Nat) : Nat := 0x8208 + n * 0x10
abbrev ACT_WIN_TGT_SEG (n : Nat) : Fld := ⟨ACT_WIN_TGT n, 0, 20⟩
end R

/-- Register rows at 0x0_0000_0 (block 0), part 0. -/
def regRows0_0 : List RegRow := [
  ⟨0x8000, 1, 0x0, 1, 0x0, 0x0, 0x0, 0x0, 0x7FF, 0x0⟩,
  ⟨0x8004, 1, 0x0, 1, 0x0, 0x2000, 0xFF03, 0x0, 0x0, 0x0⟩,
  ⟨0x8008, 1, 0x0, 1, 0x0, 0x200200, 0xFF07FF, 0x0, 0x0, 0x0⟩,
  ⟨0x800C, 1, 0x0, 1, 0x0, 0x0, 0x0, 0x0, 0x7FF07FF, 0x0⟩,
  ⟨0x8010, 1, 0x0, 1, 0x0, 0x0, 0x0, 0x0, 0x0, 0xFFFFFFFF⟩,
  ⟨0x8014, 1, 0x0, 1, 0x0, 0x0, 0x0, 0x0, 0x0, 0xFFFFFFFF⟩,
  ⟨0x8018, 1, 0x0, 1, 0x0, 0x0, 0x0, 0x0, 0x0, 0xFFFFFFFF⟩,
  ⟨0x801C, 1, 0x0, 1, 0x0, 0x0, 0x0, 0x0, 0x0, 0xFFFFFFFF⟩,
  ⟨0x8020, 1, 0x0, 1, 0x0, 0x0, 0x0, 0x0, 0xFFFFFFFF, 0x0⟩,
  ⟨0x8024, 1, 0x0, 1, 0x0, 0x0, 0x0, 0x0, 0xF, 0x0⟩,
  ⟨0x8028, 1, 0x0, 1, 0x0, 0x0, 0x0, 0x80000000, 0xFF, 0x0⟩,
  ⟨0x802C, 1, 0x0, 1, 0x0, 0x0, 0x0, 0x0, 0x0, 0xFFFFFFFF⟩,
  ⟨0x8030, 1, 0x0, 1, 0x0, 0x0, 0x0, 0x0, 0x0, 0x0⟩,
  ⟨0x8034, 1, 0x0, 1, 0x0, 0x0, 0x0, 0x1, 0xFFFF00F0, 0x0⟩,
  ⟨0x8038, 1, 0x0, 1, 0x0, 0x0, 0xFFFF, 0x0, 0x0, 0x0⟩,
  ⟨0x8100, 16, 0x10, 1, 0x0, 0x0, 0xFFFF0003, 0x0, 0x0, 0x0⟩,
  ⟨0x8104, 16, 0x10, 1, 0x0, 0x0, 0x7FFF, 0x0, 0x0, 0x0⟩,
  ⟨0x8108, 16, 0x10, 1, 0x0, 0x0, 0xFFFFF, 0x0, 0x0, 0x0⟩,
  ⟨0xA000, 21, 0x10, 1, 0x0, 0x0, 0x0, 0x0, 0x0, 0x0⟩,
  ⟨0xA004, 21, 0x10, 1, 0x0, 0x0, 0x0, 0xC, 0xFFFF0003, 0x0⟩,
  ⟨0xA008, 21, 0x10, 1, 0x0, 0x0, 0xFFF, 0x0, 0x0, 0x0⟩,
  ⟨0xA00C, 21, 0x10, 1, 0x0, 0x0, 0x0, 0x0, 0xFFFFFFFF, 0x0⟩,
  ⟨0xA200, 1, 0x0, 1, 0x0, 0x0, 0x0, 0x8, 0x7, 0x0⟩,
  ⟨0xA204, 1, 0x0, 1, 0x0, 0x0, 0x0, 0x0, 0xFFFFFFFF, 0x0⟩,
  ⟨0xA208, 1, 0x0, 1, 0x0, 0x0, 0x0, 0x0, 0x0, 0x0⟩,
  ⟨0xA20C, 1, 0x0, 1, 0x0, 0x200, 0x0, 0x0, 0xFFFF, 0x0⟩,
  ⟨0xA210, 1, 0x0, 1, 0x0, 0x0, 0x1FF, 0x0, 0x0, 0x0⟩,
  ⟨0xA214, 1, 0x0, 1, 0x0, 0x0, 0x0, 0x0, 0x0, 0xFFFF⟩,
  ⟨0xB000, 1, 0x0, 1, 0x0, 0x0, 0x0, 0x0, 0x30F, 0x0⟩,
  ⟨0xB004, 1, 0x0, 1, 0x0, 0x0, 0x0, 0xFF, 0x0, 0x0⟩]

/-- Register rows at 0x0_0000_0 (block 0), part 1. -/
def regRows0_1 : List RegRow := [
  ⟨0xB008, 1, 0x0, 1, 0x0, 0x0, 0x0, 0x0, 0xFFFFFFFF, 0x0⟩,
  ⟨0xB00C, 1, 0x0, 1, 0x0, 0x0, 0x0, 0x0, 0xFFFFFF, 0x0⟩,
  ⟨0x0, 1, 0x0, 1, 0x0, 0x64801D7A, 0x0, 0x0, 0xFFFFFFFF, 0x0⟩,
  ⟨0x4, 1, 0x0, 1, 0x0, 0x11, 0x0, 0x0, 0x1FF, 0x0⟩,
  ⟨0x8, 1, 0x0, 1, 0x0, 0x0, 0x0, 0x0, 0xFFFFFFFF, 0x0⟩,
  ⟨0xC, 1, 0x0, 1, 0x0, 0x0, 0x0, 0x0, 0xFFFFFFFF, 0x0⟩,
  ⟨0x10, 1, 0x0, 1, 0x0, 0x0, 0x0, 0x0, 0xFFFFFFFF, 0x0⟩,
  ⟨0x14, 1, 0x0, 1, 0x0, 0x0, 0x0, 0x0, 0xFFFFFFFF, 0x0⟩,
  ⟨0x40, 1, 0x0, 1, 0x0, 0x8080820, 0x0, 0x0, 0xFFFFFFFF, 0x0⟩,
  ⟨0x44, 1, 0x0, 1, 0x0, 0x40401004, 0x0, 0x0, 0xFFFFFFFF, 0x0⟩,
  ⟨0x48, 1, 0x0, 1, 0x0, 0x1000800, 0x0, 0x0, 0xFFFFFFFF, 0x0⟩,
  ⟨0x4C, 1, 0x0, 1, 0x0, 0x20C0000, 0x0, 0x0, 0xF0FFFFF, 0x0⟩,
  ⟨0x50, 1, 0x0, 1, 0x0, 0x100000, 0x0, 0x0, 0x1FFFFF, 0x0⟩,
  ⟨0x54, 1, 0x0, 1, 0x0, 0x40000, 0x0, 0x0, 0x7FFFF, 0x0⟩,
  ⟨0x58, 1, 0x0, 1, 0x0, 0x400100, 0x0, 0x0, 0xFF01FF, 0x0⟩,
  ⟨0x5C, 1, 0x0, 1, 0x0, 0x881000, 0x0, 0x0, 0xFF1FFF, 0x0⟩,
  ⟨0x200, 2, 0x4000000, 1, 0x0, 0x0, 0x0, 0xFE, 0x1, 0x0⟩,
  ⟨0x204, 2, 0x4000000, 1, 0x0, 0x0, 0xFF, 0x0, 0x0, 0x0⟩,
  ⟨0x208, 2, 0x4000000, 1, 0x0, 0x0, 0x7FF, 0x10000, 0x0, 0x0⟩,
  ⟨0x20C, 2, 0x4000000, 1, 0x0, 0x0, 0x0, 0x0, 0x0, 0x0⟩,
  ⟨0xC000, 1, 0x0, 1, 0x0, 0x0, 0x3FFFFFC, 0x0, 0x0, 0x0⟩,
  ⟨0xC004, 1, 0x0, 1, 0x0, 0x0, 0xFFFFFFFF, 0x0, 0x0, 0x0⟩,
  ⟨0xC008, 1, 0x0, 1, 0x0, 0x0, 0x0, 0x0, 0x0, 0x0⟩,
  ⟨0xC00C, 1, 0x0, 1, 0x0, 0x1, 0x0, 0x6, 0x1, 0x0⟩,
  ⟨0x100, 1, 0x0, 1, 0x0, 0x0, 0x0, 0x0, 0xFF, 0x0⟩,
  ⟨0x400, 4, 0x4, 1, 0x0, 0x0, 0xFFFFFFFF, 0x0, 0x0, 0x0⟩,
  ⟨0x8200, 16, 0x10, 1, 0x0, 0x0, 0x0, 0x0, 0xFFFF0003, 0x0⟩,
  ⟨0x8204, 16, 0x10, 1, 0x0, 0x0, 0x0, 0x0, 0x7FFF, 0x0⟩,
  ⟨0x8208, 16, 0x10, 1, 0x0, 0x0, 0x0, 0x0, 0xFFFFF, 0x0⟩]

/-- Register rows at 0x1_0000_0 (block 1), part 0. -/
def regRows1_0 : List RegRow := [
  ⟨0x100000, 32, 0x8000, 1, 0x0, 0x0, 0xFFC, 0x0, 0x1, 0x0⟩,
  ⟨0x100004, 32, 0x8000, 1, 0x0, 0x834, 0xF3F, 0x0, 0x0, 0x0⟩,
  ⟨0x100008, 32, 0x8000, 1, 0x0, 0x408000, 0x7FFFFF, 0x0, 0x0, 0x0⟩,
  ⟨0x10000C, 32, 0x8000, 1, 0x0, 0x0, 0x0, 0x0, 0x7FFFFF, 0x0⟩,
  ⟨0x100010, 32, 0x8000, 1, 0x0, 0xF00, 0xF0F0F, 0x0, 0x0, 0x0⟩,
  ⟨0x100014, 32, 0x8000, 1, 0x0, 0xA0032, 0xFFFFFF, 0x0, 0x0, 0x0⟩,
  ⟨0x100044, 32, 0x8000, 12, 0x4, 0x0, 0xFF, 0x0, 0x0, 0x0⟩,
  ⟨0x100080, 32, 0x8000, 1, 0x0, 0xA00, 0x0, 0xFF0000, 0xFFF, 0x0⟩,
  ⟨0x100084, 32, 0x8000, 1, 0x0, 0x0, 0x0, 0x0, 0xFFFF, 0x0⟩,
  ⟨0x100088, 32, 0x8000, 1, 0x0, 0x0, 0x0, 0x0, 0x0, 0xFFFF⟩,
  ⟨0x10008C, 32, 0x8000, 1, 0x0, 0x0, 0x0, 0x0, 0x0, 0xFFFF⟩,
  ⟨0x100090, 32, 0x8000, 1, 0x0, 0x0, 0x0, 0x0, 0xFFFFF, 0x0⟩,
  ⟨0x1000A0, 32, 0x8000, 1, 0x0, 0x0, 0x0, 0x0, 0xFFFFFF, 0x0⟩,
  ⟨0x1000A4, 32, 0x8000, 1, 0x0, 0x0, 0x0, 0x0, 0x80FFFFFF, 0x0⟩,
  ⟨0x1000A8, 32, 0x8000, 1, 0x0, 0x500002, 0xFFFFFE, 0x0, 0x0, 0x0⟩,
  ⟨0x1000AC, 32, 0x8000, 1, 0x0, 0x1, 0x0, 0x0, 0x3, 0x0⟩,
  ⟨0x1000B0, 32, 0x8000, 1, 0x0, 0x0, 0x0, 0x0, 0xFFFFFFFF, 0x0⟩,
  ⟨0x1000C0, 32, 0x8000, 1, 0x0, 0x8, 0xF, 0x0, 0x0, 0x0⟩,
  ⟨0x1000C4, 32, 0x8000, 1, 0x0, 0x0, 0x0, 0x2, 0x1, 0x0⟩,
  ⟨0x1000C8, 32, 0x8000, 1, 0x0, 0x0, 0x0, 0x0, 0x0, 0xFFFFFFFF⟩,
  ⟨0x1000CC, 32, 0x8000, 1, 0x0, 0x0, 0x0, 0x0, 0xFFFFFFFF, 0x0⟩,
  ⟨0x1000D0, 32, 0x8000, 1, 0x0, 0x0, 0x0, 0x0, 0xFFFF, 0x0⟩,
  ⟨0x1000E0, 32, 0x8000, 1, 0x0, 0x0, 0x1FF, 0x0, 0x0, 0x0⟩,
  ⟨0x100800, 8, 0x20000, 1, 0x0, 0x0, 0x7, 0x0, 0x0, 0x0⟩,
  ⟨0x100804, 8, 0x20000, 1, 0x0, 0x0, 0x0, 0xE, 0xFFFF0001, 0x0⟩,
  ⟨0x100808, 8, 0x20000, 1, 0x0, 0x0, 0x0, 0x0, 0x0, 0xFFFF⟩,
  ⟨0x101000, 32, 0x8000, 1, 0x0, 0x8, 0xE, 0x0, 0x1, 0x0⟩,
  ⟨0x101004, 32, 0x8000, 1, 0x0, 0x64000A, 0xFFFFFFFF, 0x0, 0x0, 0x0⟩,
  ⟨0x101008, 32, 0x8000, 1, 0x0, 0x0, 0x0, 0x7F0000, 0xFF7, 0x0⟩,
  ⟨0x10100C, 32, 0x8000, 1, 0x0, 0x0, 0x0, 0x0, 0xFFFF, 0x0⟩]

/-- Register rows at 0x1_0000_0 (block 1), part 1. -/
def regRows1_1 : List RegRow := [
  ⟨0x101010, 32, 0x8000, 1, 0x0, 0x0, 0x0, 0x0, 0xFFFFFFFF, 0x0⟩,
  ⟨0x101014, 32, 0x8000, 1, 0x0, 0x0, 0x0, 0x0, 0xFFFF, 0x0⟩,
  ⟨0x101018, 32, 0x8000, 1, 0x0, 0x0, 0x0, 0x0, 0x8000FFFF, 0x0⟩,
  ⟨0x10101C, 32, 0x8000, 1, 0x0, 0x0, 0x3, 0x0, 0x18, 0x0⟩,
  ⟨0x101020, 32, 0x8000, 1, 0x0, 0x0, 0x7FFFF, 0x0, 0x0, 0x0⟩,
  ⟨0x101024, 32, 0x8000, 1, 0x0, 0x0, 0x1FF, 0x0, 0x0, 0x0⟩,
  ⟨0x101028, 32, 0x8000, 1, 0x0, 0x0, 0x1FF, 0x0, 0x0, 0x0⟩,
  ⟨0x101030, 32, 0x8000, 1, 0x0, 0x0, 0x0, 0x0, 0x0, 0xFFFFFFFF⟩,
  ⟨0x101034, 32, 0x8000, 1, 0x0, 0x0, 0x0, 0x0, 0x0, 0xFFFFFFFF⟩,
  ⟨0x101038, 32, 0x8000, 1, 0x0, 0x0, 0x0, 0x0, 0x0, 0xFFFFFFFF⟩,
  ⟨0x10103C, 32, 0x8000, 1, 0x0, 0x0, 0x0, 0x0, 0x0, 0xFFFFFFFF⟩,
  ⟨0x101040, 32, 0x8000, 1, 0x0, 0x0, 0x0, 0x0, 0x0, 0xFFFFFFFF⟩,
  ⟨0x101044, 32, 0x8000, 1, 0x0, 0x0, 0x0, 0x0, 0xFFFFFFFF, 0x0⟩,
  ⟨0x101048, 32, 0x8000, 1, 0x0, 0x0, 0x0, 0x0, 0xFFFFFFFF, 0x0⟩,
  ⟨0x10104C, 32, 0x8000, 1, 0x0, 0x0, 0x0, 0x0, 0x0, 0xFFFFFFFF⟩,
  ⟨0x101050, 32, 0x8000, 1, 0x0, 0x0, 0x0, 0x0, 0x0, 0xFFFF⟩,
  ⟨0x101054, 32, 0x8000, 1, 0x0, 0x0, 0x0, 0x0, 0x0, 0xFFFF⟩,
  ⟨0x101058, 32, 0x8000, 1, 0x0, 0x0, 0xFFFFF, 0x0, 0x0, 0x0⟩,
  ⟨0x10105C, 32, 0x8000, 1, 0x0, 0x0, 0x0, 0x0, 0x0, 0xFFFFFFFF⟩,
  ⟨0x101100, 32, 0x8000, 8, 0x40, 0x0, 0x7FFFF01, 0x0, 0x0, 0x0⟩,
  ⟨0x101104, 32, 0x8000, 8, 0x40, 0x0, 0x1FF, 0x0, 0x0, 0x0⟩,
  ⟨0x101108, 32, 0x8000, 8, 0x40, 0x190, 0xFFF, 0x0, 0x0, 0x0⟩,
  ⟨0x10110C, 32, 0x8000, 8, 0x40, 0x200, 0x0, 0xE, 0xFFFFFF01, 0x0⟩,
  ⟨0x101110, 32, 0x8000, 8, 0x40, 0x0, 0x0, 0x0, 0xFFF, 0x0⟩,
  ⟨0x101114, 32, 0x8000, 8, 0x40, 0x0, 0x0, 0x0, 0x0, 0xFFFFFFFF⟩,
  ⟨0x101118, 32, 0x8000, 8, 0x40, 0x0, 0x0, 0x0, 0x0, 0xFFFF⟩,
  ⟨0x10111C, 32, 0x8000, 8, 0x40, 0x0, 0x0, 0x0, 0x0, 0xFFFF⟩,
  ⟨0x101120, 32, 0x8000, 8, 0x40, 0x0, 0x0, 0x0, 0x0, 0xFFFF⟩,
  ⟨0x101800, 32, 0x8000, 1, 0x0, 0x0, 0x0, 0x0, 0xFF0F, 0x0⟩,
  ⟨0x101804, 32, 0x8000, 1, 0x0, 0x0, 0x0, 0x0, 0x0, 0xFFFF⟩]

/-- Register rows at 0x1_0000_0 (block 1), part 2. -/
def regRows1_2 : List RegRow := [
  ⟨0x101808, 32, 0x8000, 1, 0x0, 0x0, 0x0, 0x0, 0x0, 0xFFFF⟩]

/-- Register rows at 0x2_0000_0 (block 2), part 0. -/
def regRows2_0 : List RegRow := [
  ⟨0x200000, 1, 0x0, 1, 0x0, 0x0, 0x0, 0x1F, 0x0, 0x0⟩,
  ⟨0x200004, 1, 0x0, 1, 0x0, 0x0, 0x0, 0x0, 0xFFF0FFF, 0x0⟩,
  ⟨0x200008, 1, 0x0, 1, 0x0, 0x0, 0x1FF, 0x0, 0x0, 0x0⟩,
  ⟨0x20000C, 1, 0x0, 1, 0x0, 0x30064, 0xFFFFF, 0x0, 0x0, 0x0⟩,
  ⟨0x200010, 1, 0x0, 1, 0x0, 0x1F400, 0x0, 0x0, 0xFFFFFFFF, 0x0⟩,
  ⟨0x200100, 32, 0x4, 1, 0x0, 0x0, 0x0, 0x80000000, 0x7FFFFFFF, 0x0⟩,
  ⟨0x280000, 2048, 0x100, 1, 0x0, 0x0, 0x0, 0x0, 0xFFFFFFFF, 0x0⟩,
  ⟨0x280004, 2048, 0x100, 1, 0x0, 0x0, 0x0, 0x0, 0xFFFFFFFF, 0x0⟩,
  ⟨0x280008, 2048, 0x100, 8, 0x4, 0x0, 0x0, 0x0, 0xFFFFFFFF, 0x0⟩,
  ⟨0x280028, 2048, 0x100, 1, 0x0, 0x0, 0x1, 0x0, 0x0, 0x0⟩,
  ⟨0x28002C, 2048, 0x100, 1, 0x0, 0x0, 0x0, 0x300, 0x40F, 0x0⟩,
  ⟨0x280030, 2048, 0x100, 1, 0x0, 0x0, 0x0, 0x0, 0x0, 0xFFFF⟩,
  ⟨0x280034, 2048, 0x100, 1, 0x0, 0x0, 0x0, 0x0, 0x0, 0xFFFFFFFF⟩,
  ⟨0x280080, 2048, 0x100, 16, 0x8, 0x2710, 0xFFFFFFFF, 0x0, 0x0, 0x0⟩,
  ⟨0x280084, 2048, 0x100, 16, 0x8, 0x100, 0xFFFF, 0x0, 0x0, 0x0⟩,
  ⟨0x240000, 4096, 0x40, 1, 0x0, 0x0, 0x7, 0x0, 0x0, 0x0⟩,
  ⟨0x240004, 4096, 0x40, 1, 0x0, 0x0, 0x7FF7F7FF, 0x0, 0x0, 0x0⟩,
  ⟨0x240008, 4096, 0x40, 1, 0x0, 0x0, 0xFFFF3F, 0x0, 0x0, 0x0⟩,
  ⟨0x24000C, 4096, 0x40, 1, 0x0, 0x0, 0x1FFFF, 0x0, 0x0, 0x0⟩,
  ⟨0x240010, 4096, 0x40, 1, 0x0, 0x1, 0x3FFF, 0x0, 0x0, 0x0⟩,
  ⟨0x240014, 4096, 0x40, 1, 0x0, 0x0, 0xFFFFFFFF, 0x0, 0x0, 0x0⟩,
  ⟨0x240018, 4096, 0x40, 1, 0x0, 0x0, 0x0, 0x200, 0x107, 0x0⟩,
  ⟨0x24001C, 4096, 0x40, 1, 0x0, 0x0, 0x0, 0x0, 0xFFFFFFFF, 0x0⟩,
  ⟨0x240020, 4096, 0x40, 1, 0x0, 0x0, 0x0, 0x0, 0x0, 0xFFFFFFFF⟩,
  ⟨0x240024, 4096, 0x40, 1, 0x0, 0x0, 0x0, 0x0, 0x0, 0xFFFF⟩,
  ⟨0x240028, 4096, 0x40, 1, 0x0, 0x0, 0x0, 0x0, 0x0, 0xFFFFFFFF⟩,
  ⟨0x24002C, 4096, 0x40, 1, 0x0, 0x0, 0x0, 0x0, 0xFFFF, 0x0⟩,
  ⟨0x201000, 16, 0x200, 1, 0x0, 0x0, 0x7FF, 0x0, 0x0, 0x0⟩,
  ⟨0x201004, 16, 0x200, 1, 0x0, 0x2, 0xFF, 0x0, 0x0, 0x0⟩,
  ⟨0x201008, 16, 0x200, 1, 0x0, 0x0, 0xFFFFFFFF, 0x0, 0x0, 0x0⟩]

/-- Register rows at 0x2_0000_0 (block 2), part 1. -/
def regRows2_1 : List RegRow := [
  ⟨0x20100C, 16, 0x200, 1, 0x0, 0x0, 0x0, 0x0, 0x0, 0x0⟩,
  ⟨0x201010, 16, 0x200, 1, 0x0, 0x1, 0x0, 0x2, 0xFFF1, 0x0⟩,
  ⟨0x201100, 16, 0x200, 64, 0x4, 0x0, 0xFFFFFFFF, 0x0, 0x0, 0x0⟩]

/-- Register rows at 0x3_0000_0 (block 3), part 0. -/
def regRows3_0 : List RegRow := [
  ⟨0x300000, 1, 0x0, 1, 0x0, 0x0, 0x0, 0x7F8, 0x7, 0x0⟩,
  ⟨0x300004, 1, 0x0, 1, 0x0, 0x4000, 0xFFFFF, 0x0, 0x0, 0x0⟩,
  ⟨0x300008, 1, 0x0, 1, 0x0, 0x10000, 0xFFFFF, 0x0, 0x0, 0x0⟩,
  ⟨0x30000C, 1, 0x0, 1, 0x0, 0x8000, 0xFFFFF, 0x0, 0x0, 0x0⟩,
  ⟨0x300010, 1, 0x0, 1, 0x0, 0xA3800, 0x0, 0x0, 0xFFFFF, 0x0⟩,
  ⟨0x300014, 1, 0x0, 1, 0x0, 0xA3800, 0x0, 0x0, 0xFFFFF, 0x0⟩,
  ⟨0x300018, 1, 0x0, 1, 0x0, 0x10000, 0x0, 0x0, 0xFFFFF, 0x0⟩,
  ⟨0x30001C, 1, 0x0, 1, 0x0, 0x8000, 0x0, 0x0, 0xFFFFF, 0x0⟩,
  ⟨0x300020, 1, 0x0, 1, 0x0, 0x0, 0x1FF, 0x0, 0x0, 0x0⟩,
  ⟨0x300024, 1, 0x0, 1, 0x0, 0x0, 0x1FF01FF, 0x0, 0x0, 0x0⟩,
  ⟨0x300028, 1, 0x0, 1, 0x0, 0x0, 0x1FF01FF, 0x0, 0x0, 0x0⟩,
  ⟨0x300030, 1, 0x0, 1, 0x0, 0x1801, 0xFF01, 0x0, 0x0, 0x0⟩,
  ⟨0x300034, 1, 0x0, 1, 0x0, 0x0, 0x0, 0x0, 0xFFFFF, 0x0⟩,
  ⟨0x300038, 1, 0x0, 1, 0x0, 0x0, 0x0, 0x0, 0xFFFFFFFF, 0x0⟩,
  ⟨0x300040, 1, 0x0, 1, 0x0, 0x0, 0x0, 0x0, 0x0, 0xFFFFFFFF⟩,
  ⟨0x300044, 1, 0x0, 1, 0x0, 0x0, 0x0, 0x0, 0x0, 0xFFFFFFFF⟩,
  ⟨0x300048, 1, 0x0, 1, 0x0, 0x0, 0x0, 0x0, 0x0, 0xFFFFFFFF⟩,
  ⟨0x30004C, 1, 0x0, 1, 0x0, 0x0, 0x0, 0x0, 0x0, 0xFFFFFFFF⟩,
  ⟨0x300050, 1, 0x0, 1, 0x0, 0x40, 0xFFFF, 0x0, 0x0, 0x0⟩,
  ⟨0x300054, 1, 0x0, 1, 0x0, 0x0, 0x0, 0x0, 0x3F, 0x0⟩,
  ⟨0x300058, 1, 0x0, 1, 0x0, 0x0, 0x0, 0x0, 0x0, 0xFFFFFFFF⟩,
  ⟨0x30005C, 1, 0x0, 1, 0x0, 0x0, 0x0, 0x0, 0x0, 0x0⟩,
  ⟨0x300060, 1, 0x0, 1, 0x0, 0x0, 0x0, 0x0, 0x1FFFF, 0x0⟩,
  ⟨0x300070, 1, 0x0, 1, 0x0, 0x0, 0x0, 0x0, 0xFFFFFFFF, 0x0⟩,
  ⟨0x300074, 1, 0x0, 1, 0x0, 0x0, 0x0, 0x0, 0xFFFFFFFF, 0x0⟩,
  ⟨0x300078, 1, 0x0, 1, 0x0, 0x0, 0x0, 0x0, 0x0, 0x0⟩,
  ⟨0x30007C, 1, 0x0, 1, 0x0, 0x1, 0x0, 0x0, 0x3, 0x0⟩,
  ⟨0x300080, 32, 0x4, 1, 0x0, 0x0, 0x0, 0x0, 0xFFFFFFFF, 0x0⟩,
  ⟨0x300100, 16, 0x10, 1, 0x0, 0x0, 0x0, 0x0, 0xFFFFFFFF, 0x0⟩,
  ⟨0x300104, 16, 0x10, 1, 0x0, 0x0, 0x0, 0x0, 0x3FFFFF, 0x0⟩]

/-- Register rows at 0x3_0000_0 (block 3), part 1. -/
def regRows3_1 : List RegRow := [
  ⟨0x300108, 16, 0x10, 1, 0x0, 0x0, 0x0, 0x0, 0xFFFFFFFF, 0x0⟩,
  ⟨0x30010C, 16, 0x10, 1, 0x0, 0x0, 0x0, 0x0, 0xFFFFFFFF, 0x0⟩,
  ⟨0x300200, 1, 0x0, 1, 0x0, 0x0, 0x0, 0x0, 0xF, 0x0⟩,
  ⟨0x301000, 8, 0x80, 1, 0x0, 0x0, 0x1FFFFF, 0x0, 0x0, 0x0⟩,
  ⟨0x301004, 8, 0x80, 1, 0x0, 0x0, 0xFFFFF, 0x0, 0x0, 0x0⟩,
  ⟨0x301008, 8, 0x80, 1, 0x0, 0x0, 0x0, 0x0, 0xFFFFFF, 0x0⟩,
  ⟨0x30100C, 8, 0x80, 1, 0x0, 0x0, 0x0, 0x0, 0xFFFFFFF, 0x0⟩,
  ⟨0x301010, 8, 0x80, 1, 0x0, 0x0, 0x0, 0x0, 0xFFFFFFF, 0x0⟩,
  ⟨0x301014, 8, 0x80, 1, 0x0, 0x0, 0x0, 0x0, 0xFFFFFFF, 0x0⟩,
  ⟨0x301018, 8, 0x80, 1, 0x0, 0x0, 0x0, 0x1C, 0x3, 0x0⟩,
  ⟨0x30101C, 8, 0x80, 1, 0x0, 0x0, 0x0, 0x0, 0xFFFFFFFF, 0x0⟩,
  ⟨0x301020, 8, 0x80, 1, 0x0, 0x0, 0x0, 0x0, 0xFFFFFFFF, 0x0⟩,
  ⟨0x301024, 8, 0x80, 1, 0x0, 0x0, 0x0, 0x0, 0xFFFFFF, 0x0⟩,
  ⟨0x301028, 8, 0x80, 1, 0x0, 0x0, 0x0, 0x0, 0xFFFFFFFF, 0x0⟩,
  ⟨0x30102C, 8, 0x80, 1, 0x0, 0x0, 0x0, 0x0, 0xFFFFFF, 0x0⟩,
  ⟨0x301030, 8, 0x80, 1, 0x0, 0x0, 0x0, 0x0, 0xFFFFFFFF, 0x0⟩,
  ⟨0x301034, 8, 0x80, 1, 0x0, 0x0, 0x0, 0x0, 0x0, 0xFFFFFFFF⟩,
  ⟨0x301038, 8, 0x80, 1, 0x0, 0x0, 0x0, 0x0, 0x0, 0xFFFFFFFF⟩,
  ⟨0x30103C, 8, 0x80, 1, 0x0, 0x0, 0x0, 0x0, 0xFFFFF, 0x0⟩,
  ⟨0x302000, 64, 0x20, 1, 0x0, 0x0, 0xFFFF000F, 0x0, 0x0, 0x0⟩,
  ⟨0x302004, 64, 0x20, 1, 0x0, 0x0, 0x0, 0x0, 0x0, 0x0⟩,
  ⟨0x302008, 64, 0x20, 1, 0x0, 0x0, 0xFFFFFFFF, 0x0, 0x0, 0x0⟩,
  ⟨0x30200C, 64, 0x20, 1, 0x0, 0x0, 0xFFFFFF, 0x0, 0x0, 0x0⟩,
  ⟨0x302010, 64, 0x20, 1, 0x0, 0x0, 0x0, 0x0, 0xFFFFFFFF, 0x0⟩,
  ⟨0x302014, 64, 0x20, 1, 0x0, 0x0, 0x0, 0x0, 0xFFFFFF, 0x0⟩,
  ⟨0x302018, 64, 0x20, 1, 0x0, 0x0, 0x0, 0x1C, 0x63, 0x0⟩,
  ⟨0x30201C, 64, 0x20, 1, 0x0, 0x0, 0x0, 0x0, 0x0, 0xFFFFFFFF⟩,
  ⟨0x308000, 4096, 0x4, 1, 0x0, 0x0, 0xFFFFF, 0x0, 0x0, 0x0⟩]

/-- Register rows at 0x4_0000_0 (block 4), part 0. -/
def regRows4_0 : List RegRow := [
  ⟨0x400000, 1, 0x0, 1, 0x0, 0x0, 0x0, 0x3, 0x0, 0x0⟩,
  ⟨0x400004, 1, 0x0, 1, 0x0, 0x0, 0x1FF, 0x0, 0x0, 0x0⟩,
  ⟨0x400008, 1, 0x0, 1, 0x0, 0x0, 0x0, 0x0, 0x0, 0x0⟩,
  ⟨0x40000C, 1, 0x0, 1, 0x0, 0x0, 0xFFFFFFFF, 0x0, 0x0, 0x0⟩,
  ⟨0x400010, 1, 0x0, 1, 0x0, 0x0, 0xF, 0x0, 0x0, 0x0⟩,
  ⟨0x400014, 1, 0x0, 1, 0x0, 0x0, 0x3FFFFF, 0x0, 0x0, 0x0⟩,
  ⟨0x400018, 1, 0x0, 1, 0x0, 0x0, 0x3FFFFF, 0x0, 0x0, 0x0⟩,
  ⟨0x40001C, 1, 0x0, 1, 0x0, 0x1, 0x0, 0x0, 0x1FFFFFF1, 0x0⟩,
  ⟨0x400020, 1, 0x0, 1, 0x0, 0x2000, 0x0, 0x0, 0x3FFF, 0x0⟩,
  ⟨0x400024, 1, 0x0, 1, 0x0, 0x0, 0x0, 0x0, 0x0, 0xFFFFFFFF⟩,
  ⟨0x400030, 1, 0x0, 1, 0x0, 0x0, 0x0, 0x0, 0xFF, 0x0⟩,
  ⟨0x410000, 4096, 0x40, 1, 0x0, 0x1008, 0x3F3F, 0x0, 0x0, 0x0⟩,
  ⟨0x410004, 4096, 0x40, 1, 0x0, 0x0, 0x3FFFFF, 0x0, 0x0, 0x0⟩,
  ⟨0x410008, 4096, 0x40, 1, 0x0, 0x80008000, 0x81FF81FF, 0x0, 0x0, 0x0⟩,
  ⟨0x41000C, 4096, 0x40, 1, 0x0, 0x80008000, 0x81FF81FF, 0x0, 0x0, 0x0⟩,
  ⟨0x410010, 4096, 0x40, 4, 0x4, 0x0, 0xFFFFFF, 0x0, 0x0, 0x0⟩,
  ⟨0x410020, 4096, 0x40, 1, 0x0, 0x400, 0xFFFFFF, 0x0, 0x0, 0x0⟩,
  ⟨0x410024, 4096, 0x40, 1, 0x0, 0x0, 0x0, 0x5, 0x2, 0x0⟩,
  ⟨0x410028, 4096, 0x40, 1, 0x0, 0x0, 0x0, 0x0, 0x0, 0xFFFFFFFF⟩,
  ⟨0x41002C, 4096, 0x40, 1, 0x0, 0x0, 0x0, 0x0, 0x0, 0xFFFFFFFF⟩,
  ⟨0x410030, 4096, 0x40, 1, 0x0, 0x0, 0x0, 0x0, 0x0, 0xFFFFFFFF⟩,
  ⟨0x410034, 4096, 0x40, 1, 0x0, 0x0, 0x0, 0x0, 0x0, 0xFFFFFFFF⟩,
  ⟨0x410038, 4096, 0x40, 1, 0x0, 0x0, 0x0, 0x0, 0xFFFF, 0x0⟩,
  ⟨0x450000, 8, 0x100, 1, 0x0, 0x400060, 0xFFFFFFF3, 0x0, 0x0, 0x0⟩,
  ⟨0x450004, 8, 0x100, 1, 0x0, 0x140CC52, 0x3FFFFFFF, 0x0, 0x0, 0x0⟩,
  ⟨0x450008, 8, 0x100, 1, 0x0, 0x8040066, 0xF0F03FF, 0x0, 0x0, 0x0⟩,
  ⟨0x45000C, 8, 0x100, 1, 0x0, 0x831, 0xFFFF, 0x0, 0x0, 0x0⟩,
  ⟨0x450010, 8, 0x100, 1, 0x0, 0x466039A, 0x7FF07FF, 0x0, 0x0, 0x0⟩,
  ⟨0x450014, 8, 0x100, 1, 0x0, 0x280008, 0xFFFFFFFF, 0x0, 0x0, 0x0⟩,
  ⟨0x450018, 8, 0x100, 1, 0x0, 0x0, 0x0, 0x0, 0xFFFFFFF3, 0x0⟩]

/-- Register rows at 0x4_0000_0 (block 4), part 1. -/
def regRows4_1 : List RegRow := [
  ⟨0x45001C, 8, 0x100, 1, 0x0, 0x0, 0x0, 0x7, 0x0, 0x0⟩,
  ⟨0x450020, 8, 0x100, 1, 0x0, 0x0, 0x0, 0x0, 0xFFFFFFFF, 0x0⟩,
  ⟨0x450024, 8, 0x100, 1, 0x0, 0x0, 0x0, 0x0, 0x0, 0xFFFFFFFF⟩,
  ⟨0x450028, 8, 0x100, 1, 0x0, 0x0, 0x0, 0x0, 0x0, 0xFFFFFFFF⟩,
  ⟨0x45002C, 8, 0x100, 1, 0x0, 0x0, 0x0, 0x0, 0x0, 0xFFFFFFFF⟩,
  ⟨0x450030, 8, 0x100, 1, 0x0, 0x0, 0x0, 0x0, 0x0, 0xFFFFFFFF⟩,
  ⟨0x450034, 8, 0x100, 1, 0x0, 0x0, 0x0, 0x0, 0x0, 0xFFFFFFFF⟩,
  ⟨0x450038, 8, 0x100, 1, 0x0, 0x0, 0x0, 0x0, 0x0, 0xFFFFFFFF⟩,
  ⟨0x45003C, 8, 0x100, 1, 0x0, 0x0, 0x0, 0x0, 0x0, 0xFFFFFFFF⟩,
  ⟨0x450040, 8, 0x100, 1, 0x0, 0x0, 0x0, 0x0, 0xFFFFFFFF, 0x0⟩,
  ⟨0x450044, 8, 0x100, 1, 0x0, 0x0, 0x0, 0x0, 0x0, 0xFFFFFFFF⟩,
  ⟨0x450048, 8, 0x100, 1, 0x0, 0x0, 0x0, 0x0, 0x0, 0xFFFFFFFF⟩,
  ⟨0x460000, 1024, 0x20, 1, 0x0, 0x0, 0x0, 0x0, 0x3FF, 0x0⟩,
  ⟨0x460004, 1024, 0x20, 1, 0x0, 0x0, 0x0, 0x0, 0xFFFFFFFF, 0x0⟩,
  ⟨0x460008, 1024, 0x20, 1, 0x0, 0x0, 0x0, 0x0, 0xFFFFFF, 0x0⟩,
  ⟨0x46000C, 1024, 0x20, 1, 0x0, 0x0, 0x0, 0x0, 0xFFFFFFFF, 0x0⟩,
  ⟨0x460010, 1024, 0x20, 1, 0x0, 0x0, 0x0, 0x0, 0xFFFFFFFF, 0x0⟩,
  ⟨0x460014, 1024, 0x20, 1, 0x0, 0x0, 0x0, 0x0, 0xFFFFFFFF, 0x0⟩,
  ⟨0x470000, 256, 0x20, 1, 0x0, 0x0, 0x0, 0x0, 0x800F1FFF, 0x0⟩,
  ⟨0x470004, 256, 0x20, 1, 0x0, 0x0, 0x0, 0x0, 0xFFFFFFFF, 0x0⟩,
  ⟨0x470008, 256, 0x20, 1, 0x0, 0x0, 0x0, 0x0, 0xFFFFFF, 0x0⟩,
  ⟨0x47000C, 256, 0x20, 1, 0x0, 0x0, 0x0, 0x0, 0xFFFFFFFF, 0x0⟩,
  ⟨0x470010, 256, 0x20, 1, 0x0, 0x0, 0x0, 0x0, 0xFFFFFFFF, 0x0⟩,
  ⟨0x470014, 256, 0x20, 1, 0x0, 0x0, 0x0, 0x0, 0xFFFF, 0x0⟩,
  ⟨0x470018, 256, 0x20, 1, 0x0, 0x0, 0x0, 0x0, 0xFFFFFFFF, 0x0⟩,
  ⟨0x47001C, 256, 0x20, 1, 0x0, 0x0, 0x0, 0x0, 0xFFFFFFFF, 0x0⟩]

/-- Register rows at 0x5_0000_0 (block 5), part 0. -/
def regRows5_0 : List RegRow := [
  ⟨0x500000, 1, 0x0, 1, 0x0, 0x0, 0x0, 0x3, 0x0, 0x0⟩,
  ⟨0x500004, 1, 0x0, 1, 0x0, 0x0, 0x1FF, 0x0, 0x0, 0x0⟩,
  ⟨0x500008, 1, 0x0, 1, 0x0, 0x0, 0x0, 0x0, 0x0, 0x0⟩,
  ⟨0x50000C, 1, 0x0, 1, 0x0, 0x0, 0xFFFFFFFF, 0x0, 0x0, 0x0⟩,
  ⟨0x500010, 1, 0x0, 1, 0x0, 0x0, 0xF, 0x0, 0x0, 0x0⟩,
  ⟨0x500014, 1, 0x0, 1, 0x0, 0x0, 0xFFFFF, 0x0, 0x0, 0x0⟩,
  ⟨0x500018, 1, 0x0, 1, 0x0, 0x0, 0x1FFFFF, 0x0, 0x0, 0x0⟩,
  ⟨0x50001C, 1, 0x0, 1, 0x0, 0x1, 0x0, 0x0, 0xF1, 0x0⟩,
  ⟨0x500020, 1, 0x0, 1, 0x0, 0x8000, 0x0, 0x0, 0xFFFF, 0x0⟩,
  ⟨0x500024, 1, 0x0, 1, 0x0, 0x0, 0x0, 0x0, 0x0, 0xFFFFFFFF⟩,
  ⟨0x510000, 8, 0x2000, 1, 0x0, 0x5, 0xFF7F, 0x0, 0x0, 0x0⟩,
  ⟨0x510004, 8, 0x2000, 1, 0x0, 0x200, 0xFFFFFF, 0x0, 0x0, 0x0⟩,
  ⟨0x510008, 8, 0x2000, 1, 0x0, 0x0, 0x1FFFF, 0x0, 0x0, 0x0⟩,
  ⟨0x51000C, 8, 0x2000, 1, 0x0, 0x800, 0xFFFFFF, 0x0, 0x0, 0x0⟩,
  ⟨0x510010, 8, 0x2000, 1, 0x0, 0x2800, 0xFFFFFF, 0x0, 0x0, 0x0⟩,
  ⟨0x510014, 8, 0x2000, 1, 0x0, 0x3E8, 0xFFFF, 0x0, 0x0, 0x0⟩,
  ⟨0x510018, 8, 0x2000, 1, 0x0, 0x10, 0xFF, 0x0, 0x0, 0x0⟩,
  ⟨0x51001C, 8, 0x2000, 1, 0x0, 0x0, 0xFFFF, 0x0, 0xFFFF0000, 0x0⟩,
  ⟨0x510020, 8, 0x2000, 1, 0x0, 0x0, 0x0, 0x1D0, 0x2F, 0x0⟩,
  ⟨0x510024, 8, 0x2000, 1, 0x0, 0x0, 0x0, 0x0, 0xFFFFFFFF, 0x0⟩,
  ⟨0x510028, 8, 0x2000, 1, 0x0, 0x0, 0x0, 0x0, 0xFFFFFFFF, 0x0⟩,
  ⟨0x51002C, 8, 0x2000, 1, 0x0, 0x0, 0x0, 0x0, 0xFFFFFFFF, 0x0⟩,
  ⟨0x510030, 8, 0x2000, 1, 0x0, 0x0, 0x0, 0x0, 0x0, 0xFFFFFFFF⟩,
  ⟨0x510034, 8, 0x2000, 1, 0x0, 0x0, 0x0, 0x0, 0x0, 0xFFFFFFFF⟩,
  ⟨0x510038, 8, 0x2000, 1, 0x0, 0x0, 0x0, 0x0, 0x0, 0xFFFFFFFF⟩,
  ⟨0x510040, 8, 0x2000, 1, 0x0, 0x430800, 0x3FFFFFF, 0x0, 0x0, 0x0⟩,
  ⟨0x510044, 8, 0x2000, 1, 0x0, 0x40099, 0xFFFF00FF, 0x0, 0x0, 0x0⟩,
  ⟨0x510048, 8, 0x2000, 1, 0x0, 0x8000400, 0xFFFFFFFF, 0x0, 0x0, 0x0⟩,
  ⟨0x51004C, 8, 0x2000, 1, 0x0, 0x2010, 0xFFFFFF, 0x0, 0x0, 0x0⟩,
  ⟨0x510050, 8, 0x2000, 1, 0x0, 0x1F407D0, 0xFFFFFFFF, 0x0, 0x0, 0x0⟩]

/-- Register rows at 0x5_0000_0 (block 5), part 1. -/
def regRows5_1 : List RegRow := [
  ⟨0x510054, 8, 0x2000, 1, 0x0, 0x0, 0x0, 0x0, 0xFFFFFFFF, 0x0⟩,
  ⟨0x510058, 8, 0x2000, 1, 0x0, 0x0, 0x0, 0x0, 0xFFFFFFFF, 0x0⟩,
  ⟨0x51005C, 8, 0x2000, 1, 0x0, 0x0, 0x0, 0x0, 0x0, 0xFFFFFFFF⟩,
  ⟨0x511000, 8, 0x2000, 256, 0x10, 0x0, 0xFFFFFFFF, 0x0, 0x0, 0x0⟩,
  ⟨0x511004, 8, 0x2000, 256, 0x10, 0x0, 0xFFFFFFFF, 0x0, 0x0, 0x0⟩,
  ⟨0x511008, 8, 0x2000, 256, 0x10, 0x0, 0x0, 0x0, 0xFFFFFFFF, 0x0⟩,
  ⟨0x51100C, 8, 0x2000, 256, 0x10, 0x0, 0x0, 0x0, 0xFFFFFFFF, 0x0⟩]

/-- Register rows at 0x6_0000_0 (block 6), part 0. -/
def regRows6_0 : List RegRow := [
  ⟨0x600000, 1, 0x0, 1, 0x0, 0x0, 0x0, 0x3, 0x0, 0x0⟩,
  ⟨0x600004, 1, 0x0, 1, 0x0, 0x0, 0x1FF, 0x0, 0x0, 0x0⟩,
  ⟨0x600008, 1, 0x0, 1, 0x0, 0x12F, 0x1FF, 0x0, 0x0, 0x0⟩,
  ⟨0x60000C, 1, 0x0, 1, 0x0, 0x1000, 0xFFFFFF, 0x0, 0x0, 0x0⟩,
  ⟨0x600010, 1, 0x0, 1, 0x0, 0x100000, 0x0, 0x0, 0x1FFFFF, 0x0⟩,
  ⟨0x600014, 1, 0x0, 1, 0x0, 0x100000, 0x1FFFFF, 0x0, 0x0, 0x0⟩,
  ⟨0x600018, 1, 0x0, 1, 0x0, 0x0, 0x0, 0x0, 0x0, 0xFFFFFFFF⟩,
  ⟨0x60001C, 1, 0x0, 1, 0x0, 0x0, 0x0, 0x0, 0x0, 0xFFFFFFFF⟩,
  ⟨0x600020, 1, 0x0, 1, 0x0, 0x0, 0x0, 0x0, 0x0, 0xFFFF⟩,
  ⟨0x600040, 8, 0x4, 1, 0x0, 0x0, 0x0, 0x0, 0xFFFFFFFF, 0x0⟩,
  ⟨0x601000, 64, 0x20, 1, 0x0, 0x0, 0x0, 0x0, 0xFFFFFF07, 0x0⟩,
  ⟨0x601004, 64, 0x20, 1, 0x0, 0x0, 0x0, 0x0, 0x1FFFFF, 0x0⟩,
  ⟨0x601008, 64, 0x20, 1, 0x0, 0x0, 0x0, 0x0, 0xFFFFFFFF, 0x0⟩,
  ⟨0x60100C, 64, 0x20, 1, 0x0, 0x0, 0x0, 0x0, 0xFFFFFFFF, 0x0⟩,
  ⟨0x601010, 64, 0x20, 1, 0x0, 0x0, 0x0, 0x0, 0xFFFFF, 0x0⟩,
  ⟨0x601014, 64, 0x20, 1, 0x0, 0x0, 0x0, 0x0, 0xFFFFFFFF, 0x0⟩,
  ⟨0x601018, 64, 0x20, 1, 0x0, 0x0, 0x0, 0x0, 0xFF, 0x0⟩,
  ⟨0x604000, 8, 0x400, 1, 0x0, 0x0, 0x0, 0x0, 0x1BFBF, 0x0⟩,
  ⟨0x604004, 8, 0x400, 1, 0x0, 0x0, 0x0, 0x0, 0xFFFFFFFF, 0x0⟩,
  ⟨0x604008, 8, 0x400, 1, 0x0, 0x0, 0x0, 0x0, 0xFFFFFF, 0x0⟩,
  ⟨0x60400C, 8, 0x400, 1, 0x0, 0x0, 0x1FF, 0x0, 0x0, 0x0⟩,
  ⟨0x604010, 8, 0x400, 1, 0x0, 0x0, 0xFFFFFFFF, 0x0, 0x0, 0x0⟩,
  ⟨0x604014, 8, 0x400, 1, 0x0, 0x0, 0x0, 0x0, 0x0, 0x0⟩,
  ⟨0x604018, 8, 0x400, 1, 0x0, 0x0, 0x0, 0x200, 0x1FF, 0x0⟩,
  ⟨0x60401C, 8, 0x400, 1, 0x0, 0x0, 0x1FF, 0x0, 0x0, 0x0⟩,
  ⟨0x604020, 8, 0x400, 1, 0x0, 0x0, 0x0, 0x0, 0xFFFFFFFF, 0x0⟩,
  ⟨0x604024, 8, 0x400, 1, 0x0, 0x0, 0x0, 0x0, 0xFFFFFFFF, 0x0⟩,
  ⟨0x604028, 8, 0x400, 1, 0x0, 0x0, 0x0, 0x0, 0x0, 0xFFFFFFFF⟩,
  ⟨0x60402C, 8, 0x400, 1, 0x0, 0x0, 0x0, 0x0, 0x0, 0xFFFFFFFF⟩,
  ⟨0x604030, 8, 0x400, 1, 0x0, 0x0, 0x0, 0x0, 0x0, 0xFFFFFFFF⟩]

/-- Register rows at 0x6_0000_0 (block 6), part 1. -/
def regRows6_1 : List RegRow := [
  ⟨0x604034, 8, 0x400, 1, 0x0, 0x0, 0x0, 0x0, 0x0, 0xFFFFFFFF⟩,
  ⟨0x604200, 8, 0x400, 64, 0x4, 0x0, 0x0, 0x0, 0xFFFF01, 0x0⟩]

/-- Register rows at 0x7_0000_0 (block 7), part 0. -/
def regRows7_0 : List RegRow := [
  ⟨0x700000, 1, 0x0, 1, 0x0, 0x0, 0x0, 0x6, 0x1, 0x0⟩,
  ⟨0x700004, 1, 0x0, 1, 0x0, 0x0, 0x1FF, 0x0, 0x0, 0x0⟩,
  ⟨0x700008, 1, 0x0, 1, 0x0, 0x180, 0x0, 0x0, 0xFFFFFFFF, 0x0⟩,
  ⟨0x70000C, 1, 0x0, 1, 0x0, 0x0, 0x0, 0x0, 0xFFFFFFFF, 0x0⟩,
  ⟨0x700010, 1, 0x0, 1, 0x0, 0x0, 0x0, 0x0, 0xFFFFFFFF, 0x0⟩,
  ⟨0x701000, 8, 0x100, 1, 0x0, 0x0, 0x7, 0x100, 0x0, 0x0⟩,
  ⟨0x701004, 8, 0x100, 1, 0x0, 0x0, 0x1FF, 0x0, 0x0, 0x0⟩,
  ⟨0x701008, 8, 0x100, 1, 0x0, 0x6, 0x7, 0x0, 0x0, 0x0⟩,
  ⟨0x70100C, 8, 0x100, 1, 0x0, 0x0, 0xFFFFFFFF, 0x0, 0x0, 0x0⟩,
  ⟨0x701010, 8, 0x100, 1, 0x0, 0x40100480, 0xFFFFFFFF, 0x0, 0x0, 0x0⟩,
  ⟨0x701014, 8, 0x100, 1, 0x0, 0x400, 0xFFFF, 0x0, 0x0, 0x0⟩,
  ⟨0x701018, 8, 0x100, 1, 0x0, 0x0, 0x0, 0x0, 0xFFFFFFFF, 0x0⟩,
  ⟨0x70101C, 8, 0x100, 1, 0x0, 0x0, 0xFFFF, 0x0, 0x0, 0x0⟩,
  ⟨0x701020, 8, 0x100, 1, 0x0, 0x0, 0x0, 0x0, 0xFFFFFFFF, 0x0⟩,
  ⟨0x701024, 8, 0x100, 1, 0x0, 0x0, 0x0, 0x0, 0xFFFFFFFF, 0x0⟩,
  ⟨0x701028, 8, 0x100, 1, 0x0, 0x0, 0x0, 0x0, 0xFFFFFFFF, 0x0⟩,
  ⟨0x70102C, 8, 0x100, 1, 0x0, 0x0, 0x0, 0x0, 0x0, 0xFFFFFFFF⟩,
  ⟨0x701030, 8, 0x100, 1, 0x0, 0x0, 0x0, 0x0, 0x0, 0xFFFFFFFF⟩,
  ⟨0x701034, 8, 0x100, 1, 0x0, 0x0, 0x0, 0x0, 0x0, 0xFFFFFFFF⟩,
  ⟨0x701038, 8, 0x100, 1, 0x0, 0x0, 0x0, 0x0, 0x0, 0xFFFFFFFF⟩,
  ⟨0x70103C, 8, 0x100, 1, 0x0, 0x0, 0x0, 0x0, 0x0, 0xFFFFFFFF⟩,
  ⟨0x701040, 8, 0x100, 7, 0x4, 0x0, 0x0, 0x0, 0x0, 0xFFFFFFFF⟩,
  ⟨0x701060, 8, 0x100, 1, 0x0, 0x0, 0x0, 0x0, 0x3F3F3F77, 0x0⟩,
  ⟨0x701064, 8, 0x100, 1, 0x0, 0x0, 0x0, 0x0, 0xFFFF003F, 0x0⟩]

/-- Register rows at 0x8_0000_0 (block 8), part 0. -/
def regRows8_0 : List RegRow := [
  ⟨0x800000, 1, 0x0, 1, 0x0, 0x2000, 0x3FFFF, 0x0, 0x0, 0x0⟩,
  ⟨0x800004, 1, 0x0, 1, 0x0, 0x0, 0x0, 0x0, 0x7FFFF, 0x0⟩,
  ⟨0x800008, 1, 0x0, 1, 0x0, 0x0, 0x7FFFF, 0x0, 0x0, 0x0⟩,
  ⟨0x80000C, 1, 0x0, 1, 0x0, 0x0, 0x0, 0x1F, 0x0, 0x0⟩,
  ⟨0x800010, 1, 0x0, 1, 0x0, 0x0, 0x0, 0x0, 0x0, 0xFFFFFFFF⟩,
  ⟨0x800014, 1, 0x0, 1, 0x0, 0x0, 0x0, 0x0, 0x0, 0xFFFFFFFF⟩,
  ⟨0x800018, 1, 0x0, 1, 0x0, 0x0, 0x0, 0x0, 0x0, 0xFFFFFFFF⟩,
  ⟨0x80001C, 1, 0x0, 1, 0x0, 0x0, 0x0, 0x0, 0x0, 0xFFFFFFFF⟩,
  ⟨0x800020, 1, 0x0, 1, 0x0, 0x0, 0x0, 0x0, 0x0, 0xFFFFFFFF⟩,
  ⟨0x800024, 1, 0x0, 1, 0x0, 0x0, 0x0, 0x0, 0x0, 0xFFFFFFFF⟩,
  ⟨0x800028, 1, 0x0, 1, 0x0, 0x0, 0x0, 0x0, 0xFFFFFFFF, 0x0⟩,
  ⟨0x80002C, 1, 0x0, 1, 0x0, 0x0, 0x0, 0x0, 0xFFFFFFFF, 0x0⟩,
  ⟨0x800030, 1, 0x0, 1, 0x0, 0x0, 0x1FF, 0x0, 0x0, 0x0⟩,
  ⟨0x800034, 1, 0x0, 1, 0x0, 0x0, 0x1FF, 0x0, 0x0, 0x0⟩,
  ⟨0x801000, 8, 0x40, 1, 0x0, 0xC0, 0xFF, 0x0, 0x0, 0x0⟩,
  ⟨0x801004, 8, 0x40, 1, 0x0, 0x0, 0xFFFFFFFF, 0x0, 0x0, 0x0⟩,
  ⟨0x801008, 8, 0x40, 1, 0x0, 0x0, 0xFFFFFF, 0x0, 0x0, 0x0⟩,
  ⟨0x80100C, 8, 0x40, 1, 0x0, 0x0, 0x0, 0x0, 0xFFFFFFFF, 0x0⟩,
  ⟨0x801010, 8, 0x40, 1, 0x0, 0x0, 0x0, 0x0, 0xFFFFFF, 0x0⟩,
  ⟨0x801014, 8, 0x40, 1, 0x0, 0x0, 0x0, 0x0, 0xFFFFFFFF, 0x0⟩,
  ⟨0x801018, 8, 0x40, 1, 0x0, 0x0, 0x0, 0x18, 0x7, 0x0⟩,
  ⟨0x80101C, 8, 0x40, 1, 0x0, 0x8, 0xFFFF, 0x0, 0x0, 0x0⟩,
  ⟨0x801020, 8, 0x40, 1, 0x0, 0x0, 0x0, 0x0, 0x7FFFF, 0x0⟩,
  ⟨0x802000, 8, 0x40, 1, 0x0, 0x0, 0x7, 0x0, 0x0, 0x0⟩,
  ⟨0x802004, 8, 0x40, 1, 0x0, 0x1000000, 0xFFFFFFFF, 0x0, 0x0, 0x0⟩,
  ⟨0x802008, 8, 0x40, 1, 0x0, 0x0, 0xFFFFFFFF, 0x0, 0x0, 0x0⟩,
  ⟨0x80200C, 8, 0x40, 1, 0x0, 0x0, 0xFFFFFF, 0x0, 0x0, 0x0⟩,
  ⟨0x802010, 8, 0x40, 1, 0x0, 0x0, 0x0, 0x0, 0xFFFFFFFF, 0x0⟩,
  ⟨0x802014, 8, 0x40, 1, 0x0, 0x0, 0x0, 0x0, 0xFFFFFF, 0x0⟩,
  ⟨0x802018, 8, 0x40, 1, 0x0, 0x0, 0x0, 0x1, 0x2, 0x0⟩]

/-- Register rows at 0x8_0000_0 (block 8), part 1. -/
def regRows8_1 : List RegRow := [
  ⟨0x80201C, 8, 0x40, 1, 0x0, 0x0, 0x0, 0x0, 0x7FFFF, 0x0⟩,
  ⟨0x803000, 8, 0x40, 1, 0x0, 0x0, 0xFFFFFFFF, 0x0, 0x0, 0x0⟩,
  ⟨0x803004, 8, 0x40, 1, 0x0, 0x0, 0xFFFFFFFF, 0x0, 0x0, 0x0⟩,
  ⟨0x803008, 8, 0x40, 1, 0x0, 0x0, 0xFFFFFFFF, 0x0, 0x0, 0x0⟩,
  ⟨0x80300C, 8, 0x40, 1, 0x0, 0x0, 0xFFFFFFFF, 0x0, 0x0, 0x0⟩,
  ⟨0x803010, 8, 0x40, 1, 0x0, 0x0, 0x3FFFFFF, 0x0, 0x0, 0x0⟩,
  ⟨0x803014, 8, 0x40, 1, 0x0, 0x0, 0x0, 0x0, 0x0, 0x0⟩,
  ⟨0x803018, 8, 0x40, 1, 0x0, 0x1, 0x0, 0x2, 0xF1, 0x0⟩,
  ⟨0x80301C, 8, 0x40, 1, 0x0, 0x0, 0x0, 0x0, 0x3FFFFFF, 0x0⟩]

/-- Register rows at 0x9_0000_0 (block 9), part 0. -/
def regRows9_0 : List RegRow := [
  ⟨0x900000, 8, 0x100, 1, 0x0, 0x0, 0x1FFFFBF, 0x0, 0x0, 0x0⟩,
  ⟨0x900004, 8, 0x100, 1, 0x0, 0x0, 0x73, 0x0, 0x0, 0x0⟩,
  ⟨0x900008, 8, 0x100, 1, 0x0, 0x0, 0x0, 0x0, 0xFFFFFFFF, 0x0⟩,
  ⟨0x90000C, 8, 0x100, 1, 0x0, 0x0, 0x0, 0x0, 0xFFFF, 0x0⟩,
  ⟨0x900010, 8, 0x100, 1, 0x0, 0x0, 0x0, 0x0, 0xFFFFFFFF, 0x0⟩,
  ⟨0x900014, 8, 0x100, 1, 0x0, 0x0, 0x0, 0x0, 0xFFFF, 0x0⟩,
  ⟨0x900018, 8, 0x100, 1, 0x0, 0x0, 0xFFFFFF, 0x0, 0x0, 0x0⟩,
  ⟨0x90001C, 8, 0x100, 1, 0x0, 0x0, 0xFFFF, 0x0, 0x0, 0x0⟩,
  ⟨0x900020, 8, 0x100, 1, 0x0, 0x0, 0x0, 0x0, 0xFFFFFFFF, 0x0⟩,
  ⟨0x900024, 8, 0x100, 1, 0x0, 0x3D090, 0xFFFFFFF, 0x0, 0x0, 0x0⟩,
  ⟨0x900028, 8, 0x100, 1, 0x0, 0x0, 0x0, 0x0, 0xFFFFFFFF, 0x0⟩,
  ⟨0x90002C, 8, 0x100, 1, 0x0, 0x0, 0x0, 0x0, 0xFFFFFFFF, 0x0⟩,
  ⟨0x900030, 8, 0x100, 1, 0x0, 0xFFFFFF, 0x0, 0x0, 0xFFFFFF, 0x0⟩,
  ⟨0x900034, 8, 0x100, 1, 0x0, 0x0, 0x0, 0x13E, 0xC1, 0x0⟩,
  ⟨0x900038, 8, 0x100, 1, 0x0, 0x0, 0x0, 0x0, 0x0, 0xFFFF⟩,
  ⟨0x90003C, 8, 0x100, 1, 0x0, 0x0, 0x0, 0x0, 0x0, 0xFFFF⟩,
  ⟨0x900040, 8, 0x100, 1, 0x0, 0x0, 0x0, 0x0, 0x0, 0xFFFF⟩,
  ⟨0x900044, 8, 0x100, 1, 0x0, 0x0, 0x1FF, 0x0, 0x0, 0x0⟩,
  ⟨0x900048, 8, 0x100, 1, 0x0, 0x0, 0x1FF, 0x0, 0x0, 0x0⟩,
  ⟨0x90004C, 8, 0x100, 1, 0x0, 0x0, 0x1FF, 0x0, 0x0, 0x0⟩,
  ⟨0x900050, 8, 0x100, 1, 0x0, 0x0, 0x1FF, 0x0, 0x0, 0x0⟩,
  ⟨0x900054, 8, 0x100, 1, 0x0, 0x0, 0x1FF, 0x0, 0x0, 0x0⟩,
  ⟨0x901000, 4, 0x100, 1, 0x0, 0x1900, 0xFF073F3F, 0x0, 0x0, 0x0⟩,
  ⟨0x901004, 4, 0x100, 1, 0x0, 0x2710271, 0xFFF0FFF, 0x0, 0x0, 0x0⟩,
  ⟨0x901008, 4, 0x100, 1, 0x0, 0x1388, 0x7FFF, 0x0, 0x0, 0x0⟩,
  ⟨0x90100C, 4, 0x100, 1, 0x0, 0x61A8, 0xFFFFFFF, 0x0, 0x0, 0x0⟩,
  ⟨0x901010, 4, 0x100, 1, 0x0, 0x0, 0xFF, 0x0, 0x0, 0x0⟩,
  ⟨0x901014, 4, 0x100, 1, 0x0, 0x0, 0xFFFFFFFF, 0x0, 0x0, 0x0⟩,
  ⟨0x901018, 4, 0x100, 1, 0x0, 0x0, 0x0, 0x0, 0xFFFFFFFF, 0x0⟩,
  ⟨0x90101C, 4, 0x100, 1, 0x0, 0x0, 0x0, 0x0, 0xFFFF, 0x0⟩]

/-- Register rows at 0x9_0000_0 (block 9), part 1. -/
def regRows9_1 : List RegRow := [
  ⟨0x901020, 4, 0x100, 1, 0x0, 0x0, 0x0, 0x0, 0xFFFFFFFF, 0x0⟩,
  ⟨0x901024, 4, 0x100, 1, 0x0, 0x0, 0x0, 0x0, 0xFFFF, 0x0⟩,
  ⟨0x901028, 4, 0x100, 1, 0x0, 0x0, 0x0, 0x2F, 0x10, 0x0⟩,
  ⟨0x90102C, 4, 0x100, 1, 0x0, 0x0, 0x0, 0x0, 0x0, 0xFFFF⟩,
  ⟨0x901030, 4, 0x100, 1, 0x0, 0x0, 0x1FF, 0x0, 0x0, 0x0⟩,
  ⟨0x902000, 32, 0x20, 1, 0x0, 0x0, 0xFFFF07FF, 0x0, 0x0, 0x0⟩,
  ⟨0x902004, 32, 0x20, 1, 0x0, 0x0, 0x1FF, 0x0, 0x0, 0x0⟩,
  ⟨0x902008, 32, 0x20, 1, 0x0, 0x0, 0x0, 0x2, 0x1, 0x0⟩,
  ⟨0x90200C, 32, 0x20, 1, 0x0, 0x0, 0x0, 0x0, 0x0, 0xFFFF⟩]

/-- Register rows at 0xA_0000_0 (block 10), part 0. -/
def regRows10_0 : List RegRow := [
  ⟨0xA00000, 1, 0x0, 1, 0x0, 0x0, 0x0, 0xF, 0x0, 0x0⟩,
  ⟨0xA00004, 1, 0x0, 1, 0x0, 0x0, 0x0, 0x0, 0x3FF, 0x0⟩,
  ⟨0xA00008, 1, 0x0, 1, 0x0, 0x0, 0x0, 0x0, 0xFFFFFFFF, 0x0⟩,
  ⟨0xA00040, 1, 0x0, 1, 0x0, 0x0, 0x0, 0x0, 0x0, 0x0⟩,
  ⟨0xA00100, 8, 0x4, 1, 0x0, 0x0, 0x0, 0xFFFFFFFF, 0x0, 0x0⟩,
  ⟨0xA00120, 8, 0x4, 1, 0x0, 0x0, 0xFFFFFFFF, 0x0, 0x0, 0x0⟩,
  ⟨0xA01000, 256, 0x20, 1, 0x0, 0x1, 0x7F, 0x0, 0x0, 0x0⟩,
  ⟨0xA01004, 256, 0x20, 1, 0x0, 0x1000, 0xFFFF, 0x0, 0x0, 0x0⟩,
  ⟨0xA01008, 256, 0x20, 1, 0x0, 0x61A8, 0xFFFFFFF, 0x0, 0x0, 0x0⟩,
  ⟨0xA0100C, 256, 0x20, 1, 0x0, 0x0, 0x0, 0x3, 0x7F00, 0x0⟩,
  ⟨0xA01010, 256, 0x20, 1, 0x0, 0x0, 0x0, 0x0, 0xFFFFFFFF, 0x0⟩,
  ⟨0xA01014, 256, 0x20, 1, 0x0, 0x0, 0x0, 0x0, 0x0, 0xFFFFFFFF⟩,
  ⟨0xA04000, 64, 0x20, 1, 0x0, 0x0, 0x3FF, 0x0, 0x0, 0x0⟩,
  ⟨0xA04004, 64, 0x20, 1, 0x0, 0x0, 0x1FF01FF, 0x0, 0x0, 0x0⟩,
  ⟨0xA04008, 64, 0x20, 1, 0x0, 0x0, 0x1FF01FF, 0x0, 0x0, 0x0⟩,
  ⟨0xA0400C, 64, 0x20, 1, 0x0, 0xFA, 0xFFFFFFF, 0x0, 0x0, 0x0⟩,
  ⟨0xA04010, 64, 0x20, 1, 0x0, 0x0, 0x0, 0x6, 0x1, 0x0⟩,
  ⟨0xA04014, 64, 0x20, 1, 0x0, 0x0, 0x0, 0x0, 0x0, 0xFFFF⟩,
  ⟨0xA04018, 64, 0x20, 1, 0x0, 0x0, 0x0, 0x0, 0x0, 0xFFFF⟩,
  ⟨0xA05000, 64, 0x20, 1, 0x0, 0x0, 0x1, 0x0, 0x0, 0x0⟩,
  ⟨0xA05004, 64, 0x20, 1, 0x0, 0x0, 0x1FF01FF, 0x0, 0x0, 0x0⟩,
  ⟨0xA05008, 64, 0x20, 1, 0x0, 0x0, 0x1FF01FF, 0x0, 0x0, 0x0⟩,
  ⟨0xA0500C, 64, 0x20, 1, 0x0, 0x0, 0xFFFFFFFF, 0x0, 0x0, 0x0⟩,
  ⟨0xA05010, 64, 0x20, 1, 0x0, 0x0, 0x0, 0x0, 0x0, 0xFFFF⟩]

/-- Register rows at 0xB_0000_0 (block 11), part 0. -/
def regRows11_0 : List RegRow := [
  ⟨0xB00000, 1, 0x0, 1, 0x0, 0x0, 0x0, 0x0, 0xFF, 0x0⟩,
  ⟨0xB00004, 1, 0x0, 1, 0x0, 0x0, 0x1FF, 0x0, 0x0, 0x0⟩,
  ⟨0xB00008, 1, 0x0, 1, 0x0, 0x5A0A, 0xFF0F, 0x0, 0x0, 0x0⟩,
  ⟨0xB01000, 8, 0x800, 1, 0x0, 0x538, 0xFFFF3E, 0x0, 0x1, 0x0⟩,
  ⟨0xB01004, 8, 0x800, 1, 0x0, 0x640000, 0x3FF01FF, 0x0, 0x0, 0x0⟩,
  ⟨0xB01008, 8, 0x800, 1, 0x0, 0x5DC0004, 0xFFF00FF, 0x0, 0x0, 0x0⟩,
  ⟨0xB0100C, 8, 0x800, 1, 0x0, 0xFFFF, 0xFFFF, 0x0, 0x0, 0x0⟩,
  ⟨0xB01010, 8, 0x800, 1, 0x0, 0x0, 0xFFFFFF0F, 0x0, 0x0, 0x0⟩,
  ⟨0xB01014, 8, 0x800, 1, 0x0, 0x0, 0xFFFFFFFF, 0x0, 0x0, 0x0⟩,
  ⟨0xB01018, 8, 0x800, 1, 0x0, 0x0, 0xFFFFFF, 0x0, 0x0, 0x0⟩,
  ⟨0xB0101C, 8, 0x800, 1, 0x0, 0x0, 0xFFFFFF, 0x0, 0x0, 0x0⟩,
  ⟨0xB01020, 8, 0x800, 1, 0x0, 0x80000, 0xFFF00, 0x0, 0x0, 0x0⟩,
  ⟨0xB01024, 8, 0x800, 1, 0x0, 0x0, 0xFFFFFFFF, 0x0, 0x0, 0x0⟩,
  ⟨0xB01028, 8, 0x800, 1, 0x0, 0x0, 0xFFFFFF, 0x0, 0x0, 0x0⟩,
  ⟨0xB0102C, 8, 0x800, 1, 0x0, 0x0, 0xFFFFFF, 0x0, 0x0, 0x0⟩,
  ⟨0xB01030, 8, 0x800, 1, 0x0, 0x10000, 0x0, 0x0, 0xFF1F3F3F, 0x0⟩,
  ⟨0xB01034, 8, 0x800, 1, 0x0, 0x0, 0x0, 0xFFFFF, 0x0, 0x0⟩,
  ⟨0xB01038, 8, 0x800, 1, 0x0, 0x0, 0x1FF, 0x0, 0x0, 0x0⟩,
  ⟨0xB0103C, 8, 0x800, 1, 0x0, 0x0, 0x1FF, 0x0, 0x0, 0x0⟩,
  ⟨0xB01040, 8, 0x800, 1, 0x0, 0x0, 0x1FF, 0x0, 0x0, 0x0⟩,
  ⟨0xB01044, 8, 0x800, 1, 0x0, 0x0, 0xFFFFFF, 0x0, 0x0, 0x0⟩,
  ⟨0xB01048, 8, 0x800, 1, 0x0, 0x3E80064, 0xFFFFFFFF, 0x0, 0x0, 0x0⟩,
  ⟨0xB0104C, 8, 0x800, 1, 0x0, 0x0, 0x0, 0x0, 0x0, 0x0⟩,
  ⟨0xB01050, 8, 0x800, 1, 0x0, 0x0, 0x0, 0x0, 0x0, 0xFFFF⟩,
  ⟨0xB01054, 8, 0x800, 1, 0x0, 0x0, 0x0, 0x0, 0x0, 0xFFFF⟩,
  ⟨0xB01058, 8, 0x800, 1, 0x0, 0x0, 0x0, 0x0, 0x0, 0xFFFFFFFF⟩,
  ⟨0xB0105C, 8, 0x800, 1, 0x0, 0x0, 0x0, 0x0, 0x0, 0xFFFFFFFF⟩,
  ⟨0xB01060, 8, 0x800, 1, 0x0, 0x0, 0x0, 0x0, 0x0, 0xFFFFFFFF⟩,
  ⟨0xB01064, 8, 0x800, 1, 0x0, 0x0, 0x0, 0x0, 0xFFFFFFFF, 0x0⟩,
  ⟨0xB01068, 8, 0x800, 1, 0x0, 0x0, 0x0, 0x0, 0x0, 0xFFFFFFFF⟩]

/-- Register rows at 0xB_0000_0 (block 11), part 1. -/
def regRows11_1 : List RegRow := [
  ⟨0xB01100, 8, 0x800, 32, 0x4, 0x0, 0x0, 0x0, 0xFFFFFFFF, 0x0⟩,
  ⟨0xB01180, 8, 0x800, 32, 0x4, 0x0, 0x0, 0x0, 0xFFFF, 0x0⟩,
  ⟨0xB01200, 8, 0x800, 32, 0x10, 0x0, 0x0, 0x0, 0xFF37FF, 0x0⟩,
  ⟨0xB01204, 8, 0x800, 32, 0x10, 0x80, 0x0, 0x0, 0xFF, 0x0⟩,
  ⟨0xB01208, 8, 0x800, 32, 0x10, 0x0, 0x0, 0x0, 0x3FFFF, 0x0⟩,
  ⟨0xB0120C, 8, 0x800, 32, 0x10, 0x0, 0x0, 0x0, 0xFFFFFFFF, 0x0⟩]

/-- Register rows at 0x10_0000_0 (block 16), part 0. -/
def regRows16_0 : List RegRow := [
  ⟨0x1000000, 1, 0x0, 1, 0x0, 0x1, 0x0, 0xE, 0x1, 0x0⟩,
  ⟨0x1000004, 1, 0x0, 1, 0x0, 0x0, 0x1FF, 0x0, 0x0, 0x0⟩,
  ⟨0x1000008, 1, 0x0, 1, 0x0, 0x10, 0xFF, 0x0, 0x0, 0x0⟩,
  ⟨0x100000C, 1, 0x0, 1, 0x0, 0x0, 0x0, 0x0, 0x1FFFF, 0x0⟩,
  ⟨0x1000010, 1, 0x0, 1, 0x0, 0x0, 0x0, 0x0, 0xFFFFFFFF, 0x0⟩,
  ⟨0x1000014, 1, 0x0, 1, 0x0, 0x0, 0x0, 0x0, 0xFFFFFFFF, 0x0⟩,
  ⟨0x1000018, 1, 0x0, 1, 0x0, 0x0, 0x0, 0x0, 0x0, 0xFFFFFFFF⟩,
  ⟨0x100001C, 1, 0x0, 1, 0x0, 0x0, 0x0, 0x0, 0x0, 0xFFFFFFFF⟩,
  ⟨0x1000020, 1, 0x0, 1, 0x0, 0x0, 0x0, 0x0, 0x1FFFFF, 0x0⟩,
  ⟨0x1000024, 1, 0x0, 1, 0x0, 0x0, 0x0, 0x0, 0x1FF, 0x0⟩,
  ⟨0x1010000, 256, 0x40, 1, 0x0, 0xC, 0x3FFF, 0x0, 0x0, 0x0⟩,
  ⟨0x1010004, 256, 0x40, 1, 0x0, 0x70000, 0x7FF7F, 0x0, 0x0, 0x0⟩,
  ⟨0x1010008, 256, 0x40, 1, 0x0, 0x0, 0xFFFFFFFF, 0x0, 0x0, 0x0⟩,
  ⟨0x101000C, 256, 0x40, 1, 0x0, 0x0, 0xFFFFFFFF, 0x0, 0x0, 0x0⟩,
  ⟨0x1010010, 256, 0x40, 1, 0x0, 0x10000, 0xFFF0FFF, 0x0, 0x0, 0x0⟩,
  ⟨0x1010014, 256, 0x40, 1, 0x0, 0x64, 0xFFFF, 0x0, 0x0, 0x0⟩,
  ⟨0x1010018, 256, 0x40, 1, 0x0, 0x10000, 0x0, 0x0, 0x1FFFF, 0x0⟩,
  ⟨0x101001C, 256, 0x40, 1, 0x0, 0x0, 0x0, 0x0, 0x1FFFF, 0x0⟩,
  ⟨0x1010020, 256, 0x40, 1, 0x0, 0x0, 0x0, 0x0, 0xFFFFFFFF, 0x0⟩,
  ⟨0x1010024, 256, 0x40, 1, 0x0, 0x400, 0xFFFF, 0x0, 0x0, 0x0⟩,
  ⟨0x1010028, 256, 0x40, 1, 0x0, 0x0, 0x0, 0x0, 0xFFFF, 0x0⟩,
  ⟨0x101002C, 256, 0x40, 1, 0x0, 0x0, 0x0, 0x0, 0x0, 0xFFFFFFFF⟩,
  ⟨0x1010030, 256, 0x40, 1, 0x0, 0x0, 0x0, 0x0, 0xFFFFFFFF, 0x0⟩,
  ⟨0x1010034, 256, 0x40, 1, 0x0, 0x0, 0x0, 0x7, 0x0, 0x0⟩,
  ⟨0x1010038, 256, 0x40, 1, 0x0, 0x0, 0xFFFF, 0x0, 0x0, 0x0⟩,
  ⟨0x1020000, 64, 0x40, 1, 0x0, 0x0, 0x7, 0x0, 0x0, 0x0⟩,
  ⟨0x1020004, 64, 0x40, 1, 0x0, 0x0, 0x7FFFF, 0x0, 0x0, 0x0⟩,
  ⟨0x1020008, 64, 0x40, 1, 0x0, 0x0, 0xFFFFFFFF, 0x0, 0x0, 0x0⟩,
  ⟨0x102000C, 64, 0x40, 1, 0x0, 0x0, 0xFFFFFFFF, 0x0, 0x0, 0x0⟩,
  ⟨0x1020010, 64, 0x40, 1, 0x0, 0x0, 0x0, 0x0, 0x0, 0x0⟩]

/-- Register rows at 0x10_0000_0 (block 16), part 1. -/
def regRows16_1 : List RegRow := [
  ⟨0x1020014, 64, 0x40, 1, 0x0, 0x0, 0x0, 0x10, 0x7, 0x0⟩,
  ⟨0x1020018, 64, 0x40, 1, 0x0, 0x0, 0x0, 0x0, 0x7FFFF, 0x0⟩,
  ⟨0x102001C, 64, 0x40, 1, 0x0, 0x0, 0x0, 0x0, 0x7FFFF, 0x0⟩,
  ⟨0x1020020, 64, 0x40, 1, 0x0, 0x0, 0x0, 0x0, 0x7FFFF, 0x0⟩,
  ⟨0x1020024, 64, 0x40, 1, 0x0, 0x3E8, 0xFFFF, 0x0, 0x0, 0x0⟩,
  ⟨0x1020028, 64, 0x40, 1, 0x0, 0x0, 0x7FFFF, 0x0, 0x0, 0x0⟩,
  ⟨0x102002C, 64, 0x40, 1, 0x0, 0x0, 0x0, 0x0, 0xFFFFFFFF, 0x0⟩,
  ⟨0x1020030, 64, 0x40, 1, 0x0, 0x0, 0x0, 0x0, 0xFFFFFFFF, 0x0⟩,
  ⟨0x1020034, 64, 0x40, 1, 0x0, 0x0, 0x0, 0x0, 0x0, 0xFFFFFFFF⟩,
  ⟨0x1020038, 64, 0x40, 1, 0x0, 0x0, 0x0, 0x0, 0x7FFFF, 0x0⟩,
  ⟨0x1030000, 8, 0x40, 1, 0x0, 0x0, 0xFF73, 0x0, 0x0, 0x0⟩,
  ⟨0x1030004, 8, 0x40, 1, 0x0, 0x0, 0xFFFFFFFF, 0x0, 0x0, 0x0⟩,
  ⟨0x1030008, 8, 0x40, 1, 0x0, 0x0, 0xFFFFFFFF, 0x0, 0x0, 0x0⟩,
  ⟨0x103000C, 8, 0x40, 1, 0x0, 0x0, 0xFFFFFFFF, 0x0, 0x0, 0x0⟩,
  ⟨0x1030010, 8, 0x40, 1, 0x0, 0x1, 0x1FFF, 0x0, 0x0, 0x0⟩,
  ⟨0x1030014, 8, 0x40, 1, 0x0, 0x0, 0xFFFFFFFF, 0x0, 0x0, 0x0⟩,
  ⟨0x1030018, 8, 0x40, 1, 0x0, 0x0, 0xFFFFFF, 0x0, 0x0, 0x0⟩,
  ⟨0x103001C, 8, 0x40, 1, 0x0, 0x0, 0xFFFFFFFF, 0x0, 0x0, 0x0⟩,
  ⟨0x1030020, 8, 0x40, 1, 0x0, 0x0, 0xFFFFFF, 0x0, 0x0, 0x0⟩,
  ⟨0x1030024, 8, 0x40, 1, 0x0, 0x800, 0xFFFF, 0x0, 0x0, 0x0⟩,
  ⟨0x1030028, 8, 0x40, 1, 0x0, 0x0, 0x0, 0x0, 0x0, 0x0⟩,
  ⟨0x103002C, 8, 0x40, 1, 0x0, 0x1, 0x0, 0x2, 0x31, 0x0⟩,
  ⟨0x1030030, 8, 0x40, 1, 0x0, 0x0, 0x0, 0x0, 0xFFFFFFFF, 0x0⟩,
  ⟨0x1030034, 8, 0x40, 1, 0x0, 0x0, 0x0, 0x0, 0xFFFFFFFF, 0x0⟩,
  ⟨0x1040000, 8, 0x20, 1, 0x0, 0x1000800, 0x1FFFFFFF, 0x0, 0x0, 0x0⟩,
  ⟨0x1040004, 8, 0x20, 1, 0x0, 0x6, 0x77, 0x0, 0x0, 0x0⟩,
  ⟨0x1040008, 8, 0x20, 1, 0x0, 0x3F080800, 0xFF7F7F01, 0x0, 0x0, 0x0⟩,
  ⟨0x104000C, 8, 0x20, 1, 0x0, 0x0, 0x0, 0x0, 0x0, 0xFFFFFFFF⟩,
  ⟨0x1040010, 8, 0x20, 1, 0x0, 0x0, 0x0, 0x0, 0x0, 0xFFFFFFFF⟩,
  ⟨0x1040014, 8, 0x20, 1, 0x0, 0x0, 0x0, 0x0, 0x0, 0xFFFFFFFF⟩]

/-- Register rows at 0x10_0000_0 (block 16), part 2. -/
def regRows16_2 : List RegRow := [
  ⟨0x1050000, 32, 0x4, 1, 0x0, 0x0, 0xFF01FF, 0x0, 0x0, 0x0⟩]

/-- Register rows at 0x11_0000_0 (block 17), part 0. -/
def regRows17_0 : List RegRow := [
  ⟨0x1100000, 1, 0x0, 1, 0x0, 0x0, 0x0, 0x0, 0xFFFF, 0x0⟩,
  ⟨0x1100004, 1, 0x0, 1, 0x0, 0x0, 0x1FF, 0x0, 0x0, 0x0⟩,
  ⟨0x1101000, 16, 0x100, 1, 0x0, 0x0, 0x1, 0x0, 0x0, 0x0⟩,
  ⟨0x1101004, 16, 0x100, 1, 0x0, 0x0, 0x0, 0x300, 0xF7, 0x0⟩,
  ⟨0x1101008, 16, 0x100, 1, 0x0, 0x0, 0xFFFFFFFF, 0x0, 0x0, 0x0⟩,
  ⟨0x110100C, 16, 0x100, 1, 0x0, 0x0, 0xFFFFFFFF, 0x0, 0x0, 0x0⟩,
  ⟨0x1101010, 16, 0x100, 1, 0x0, 0x0, 0x0, 0x0, 0xFFFFFFFF, 0x0⟩,
  ⟨0x1101014, 16, 0x100, 1, 0x0, 0x0, 0x0, 0x0, 0xFFFFFFFF, 0x0⟩,
  ⟨0x1101018, 16, 0x100, 1, 0x0, 0x10000, 0xFFFFFF, 0x0, 0x0, 0x0⟩,
  ⟨0x110101C, 16, 0x100, 1, 0x0, 0x0, 0x0, 0x0, 0xFFFFFFFF, 0x0⟩,
  ⟨0x1101020, 16, 0x100, 1, 0x0, 0x0, 0x0, 0x0, 0xFFFFFFFF, 0x0⟩,
  ⟨0x1101024, 16, 0x100, 1, 0x0, 0x0, 0x0, 0x0, 0xFFFFFFFF, 0x0⟩,
  ⟨0x1101028, 16, 0x100, 1, 0x0, 0x0, 0x0, 0x0, 0xFFFFFFFF, 0x0⟩,
  ⟨0x110102C, 16, 0x100, 1, 0x0, 0x0, 0x0, 0x0, 0xFFFFFFFF, 0x0⟩,
  ⟨0x1101030, 16, 0x100, 1, 0x0, 0x0, 0x0, 0x0, 0xFFFFFFFF, 0x0⟩,
  ⟨0x1101034, 16, 0x100, 1, 0x0, 0x0, 0x0, 0x0, 0xFFFFFFFF, 0x0⟩,
  ⟨0x1101038, 16, 0x100, 1, 0x0, 0x0, 0xFFF, 0x0, 0x0, 0x0⟩,
  ⟨0x110103C, 16, 0x100, 1, 0x0, 0x40, 0x1FF, 0x0, 0x0, 0x0⟩,
  ⟨0x1101040, 16, 0x100, 1, 0x0, 0x0, 0x0, 0x0, 0x0, 0xFFFFFFFF⟩]

/-- Register rows at 0x12_0000_0 (block 18), part 0. -/
def regRows18_0 : List RegRow := [
  ⟨0x1200000, 1, 0x0, 1, 0x0, 0x4, 0xFFFD, 0x0, 0x0, 0x0⟩,
  ⟨0x1200004, 1, 0x0, 1, 0x0, 0x0, 0x0, 0x30, 0xCF, 0x0⟩,
  ⟨0x1200008, 1, 0x0, 1, 0x0, 0x0, 0x0, 0x0, 0xFFFFFFFF, 0x0⟩,
  ⟨0x120000C, 1, 0x0, 1, 0x0, 0x0, 0x0, 0x0, 0xFFFFFFFF, 0x0⟩,
  ⟨0x1200010, 1, 0x0, 1, 0x0, 0x0, 0x0, 0x0, 0xFFFFFFFF, 0x0⟩,
  ⟨0x1200014, 1, 0x0, 1, 0x0, 0x0, 0xFFFFFFFF, 0x0, 0x0, 0x0⟩,
  ⟨0x1200018, 1, 0x0, 1, 0x0, 0x0, 0xFF, 0x0, 0x0, 0x0⟩,
  ⟨0x120001C, 1, 0x0, 1, 0x0, 0x0, 0x0, 0x0, 0x0, 0x0⟩,
  ⟨0x1200020, 1, 0x0, 1, 0x0, 0x0, 0x0, 0x0, 0x0, 0x0⟩,
  ⟨0x1200024, 1, 0x0, 1, 0x0, 0x0, 0x0, 0x0, 0xFFFFFFFF, 0x0⟩,
  ⟨0x1200028, 1, 0x0, 1, 0x0, 0x0, 0x0, 0x0, 0xFFFFFFFF, 0x0⟩,
  ⟨0x120002C, 1, 0x0, 1, 0x0, 0x0, 0x0, 0x0, 0xFFFFFFFF, 0x0⟩,
  ⟨0x1200030, 1, 0x0, 1, 0x0, 0x64080064, 0xFFFFFFFF, 0x0, 0x0, 0x0⟩,
  ⟨0x1200034, 1, 0x0, 1, 0x0, 0x3108080, 0xFFFFFFF, 0x0, 0x0, 0x0⟩,
  ⟨0x1200038, 1, 0x0, 1, 0x0, 0x10, 0xFF, 0x0, 0x0, 0x0⟩,
  ⟨0x1200040, 1, 0x0, 1, 0x0, 0x0, 0x1FF, 0x0, 0x0, 0x0⟩,
  ⟨0x1200044, 1, 0x0, 1, 0x0, 0x0, 0x1FF, 0x0, 0x0, 0x0⟩,
  ⟨0x1200048, 1, 0x0, 1, 0x0, 0x0, 0x1FF, 0x0, 0x0, 0x0⟩,
  ⟨0x120004C, 1, 0x0, 1, 0x0, 0x0, 0x1FF, 0x0, 0x0, 0x0⟩,
  ⟨0x1201000, 4, 0x100, 1, 0x0, 0x0, 0x7FFFF, 0x0, 0x0, 0x0⟩,
  ⟨0x1201004, 4, 0x100, 1, 0x0, 0x0, 0xFFFFFFFF, 0x0, 0x0, 0x0⟩,
  ⟨0x1201008, 4, 0x100, 1, 0x0, 0x0, 0xFFFF, 0x0, 0x0, 0x0⟩,
  ⟨0x120100C, 4, 0x100, 1, 0x0, 0x0, 0x0, 0x18, 0x7, 0x0⟩,
  ⟨0x1201010, 4, 0x100, 1, 0x0, 0x0, 0x0, 0x0, 0xFFFF, 0x0⟩,
  ⟨0x1201014, 4, 0x100, 1, 0x0, 0x0, 0x0, 0x0, 0x3FFFF, 0x0⟩,
  ⟨0x1201018, 4, 0x100, 1, 0x0, 0x0, 0xFFFFFFFF, 0x0, 0x0, 0x0⟩,
  ⟨0x120101C, 4, 0x100, 1, 0x0, 0x0, 0x0, 0x0, 0xFFFFFFFF, 0x0⟩,
  ⟨0x1201020, 4, 0x100, 1, 0x0, 0x0, 0x0, 0x0, 0x0, 0xFFFFFFFF⟩,
  ⟨0x1201024, 4, 0x100, 1, 0x0, 0x0, 0x0, 0x0, 0x0, 0xFFFFFFFF⟩,
  ⟨0x1201028, 4, 0x100, 1, 0x0, 0x0, 0x0, 0x0, 0xFFFFFFFF, 0x0⟩]

/-- Register rows at 0x12_0000_0 (block 18), part 1. -/
def regRows18_1 : List RegRow := [
  ⟨0x120102C, 4, 0x100, 1, 0x0, 0x0, 0x0, 0x0, 0x0, 0xFFFFFFFF⟩,
  ⟨0x1202000, 1, 0x0, 1, 0x0, 0x0, 0xFFFFFF01, 0x0, 0x0, 0x0⟩,
  ⟨0x1202004, 1, 0x0, 1, 0x0, 0xB5A0003, 0xFFFFFFFF, 0x0, 0x0, 0x0⟩,
  ⟨0x1202008, 1, 0x0, 1, 0x0, 0x0, 0xFFFF, 0x0, 0x0, 0x0⟩,
  ⟨0x120200C, 1, 0x0, 1, 0x0, 0x3E80000, 0xFFFF000F, 0x0, 0x0, 0x0⟩,
  ⟨0x1202010, 1, 0x0, 1, 0x0, 0x0, 0x0, 0x1F, 0x0, 0x0⟩,
  ⟨0x1202014, 1, 0x0, 1, 0x0, 0x0, 0x0, 0x0, 0x0, 0xFFFFFFFF⟩,
  ⟨0x1202018, 1, 0x0, 1, 0x0, 0x0, 0x0, 0x0, 0x0, 0xFFFFFFFF⟩,
  ⟨0x1202100, 8, 0x10, 1, 0x0, 0x640000, 0x3FFF000F, 0x0, 0x0, 0x0⟩,
  ⟨0x1202200, 8, 0x10, 1, 0x0, 0x640000, 0x3FFFFF0F, 0x0, 0x0, 0x0⟩,
  ⟨0x1202204, 8, 0x10, 1, 0x0, 0x12C03E8, 0xFFFFFFFF, 0x0, 0x0, 0x0⟩,
  ⟨0x1202208, 8, 0x10, 1, 0x0, 0x0, 0x0, 0x3, 0x0, 0x0⟩,
  ⟨0x120220C, 8, 0x10, 1, 0x0, 0x0, 0x0, 0x0, 0xFFFFFFFF, 0x0⟩,
  ⟨0x1202400, 16, 0x4, 1, 0x0, 0x0, 0x1FF, 0x0, 0x0, 0x0⟩,
  ⟨0x1202500, 32, 0x10, 1, 0x0, 0x0, 0x3FFFF, 0x0, 0x0, 0x0⟩,
  ⟨0x1202504, 32, 0x10, 1, 0x0, 0x0, 0x1FF, 0x0, 0x0, 0x0⟩,
  ⟨0x1202508, 32, 0x10, 1, 0x0, 0x0, 0xFFFFFFFF, 0x0, 0x0, 0x0⟩,
  ⟨0x1202800, 16, 0x4, 1, 0x0, 0x0, 0x3FF, 0x0, 0x0, 0x0⟩,
  ⟨0x1202C00, 32, 0x10, 1, 0x0, 0x0, 0x0, 0x0, 0xFFFFFFFF, 0x0⟩,
  ⟨0x1202C04, 32, 0x10, 1, 0x0, 0x0, 0x0, 0x0, 0xFFFFFFFF, 0x0⟩,
  ⟨0x1202C08, 32, 0x10, 1, 0x0, 0x0, 0x0, 0x0, 0xFFFF0FFF, 0x0⟩]

/-- Register rows at 0x13_0000_0 (block 19), part 0. -/
def regRows19_0 : List RegRow := [
  ⟨0x1300000, 1, 0x0, 1, 0x0, 0x0, 0x0, 0x1A0, 0x65F, 0x0⟩,
  ⟨0x1300004, 1, 0x0, 1, 0x0, 0x0, 0x0, 0x0, 0xFFFFF, 0x0⟩,
  ⟨0x1300008, 1, 0x0, 1, 0x0, 0x0, 0x1FF, 0x0, 0x0, 0x0⟩,
  ⟨0x130000C, 1, 0x0, 1, 0x0, 0x43803E8, 0x0, 0x0, 0xFFFFFFFF, 0x0⟩,
  ⟨0x1300010, 1, 0x0, 1, 0x0, 0x49C047E, 0x0, 0x0, 0xFFFFFFFF, 0x0⟩,
  ⟨0x1300014, 1, 0x0, 1, 0x0, 0x1E04E2, 0x0, 0x0, 0xFFFFFF, 0x0⟩,
  ⟨0x1300018, 1, 0x0, 1, 0x0, 0x690000, 0x0, 0x0, 0xFFFFFF, 0x0⟩,
  ⟨0x130001C, 1, 0x0, 1, 0x0, 0x0, 0x0, 0x0, 0xFFFFFFFF, 0x0⟩,
  ⟨0x1300020, 1, 0x0, 1, 0x0, 0x0, 0x0, 0x0, 0xFFFFFFFF, 0x0⟩,
  ⟨0x1300024, 1, 0x0, 1, 0x0, 0x0, 0x0, 0x0, 0xFFFFFFFF, 0x0⟩,
  ⟨0x1300040, 16, 0x4, 1, 0x0, 0x0, 0x0, 0x0, 0x1FFFF, 0x0⟩,
  ⟨0x1300080, 1, 0x0, 1, 0x0, 0x222E0, 0x0, 0x0, 0x3FFFF, 0x0⟩,
  ⟨0x1300084, 1, 0x0, 1, 0x0, 0x5208, 0x0, 0x0, 0x3FFFF, 0x0⟩,
  ⟨0x1300088, 1, 0x0, 1, 0x0, 0x0, 0x0, 0x0, 0x3FFFF, 0x0⟩,
  ⟨0x130008C, 1, 0x0, 1, 0x0, 0x0, 0x0, 0x0, 0xFFF, 0x0⟩,
  ⟨0x1300090, 1, 0x0, 1, 0x0, 0x0, 0x0, 0x0, 0xFFF0FFF, 0x0⟩]

/-- Register rows at 0x14_0000_0 (block 20), part 0. -/
def regRows20_0 : List RegRow := [
  ⟨0x1400000, 1, 0x0, 1, 0x0, 0x0, 0x0, 0x18, 0x7, 0x0⟩,
  ⟨0x1400004, 1, 0x0, 1, 0x0, 0x0, 0x0, 0x0, 0xFFFF, 0x0⟩,
  ⟨0x1400008, 1, 0x0, 1, 0x0, 0x0, 0x0, 0x0, 0xFFFF, 0x0⟩,
  ⟨0x140000C, 1, 0x0, 1, 0x0, 0x0, 0x0, 0x0, 0xFFFFFFFF, 0x0⟩,
  ⟨0x1400010, 1, 0x0, 1, 0x0, 0x0, 0x0, 0x0, 0xFFFFFFFF, 0x0⟩,
  ⟨0x1400014, 1, 0x0, 1, 0x0, 0x0, 0x0, 0x0, 0x7F, 0x0⟩,
  ⟨0x1400018, 1, 0x0, 1, 0x0, 0x0, 0x0, 0x0, 0x0, 0xFFFFFFFF⟩,
  ⟨0x140001C, 1, 0x0, 1, 0x0, 0x0, 0x0, 0x0, 0x0, 0xFFFFFFFF⟩,
  ⟨0x1400020, 1, 0x0, 1, 0x0, 0x0, 0x0, 0x0, 0xFFFFFFFF, 0x0⟩,
  ⟨0x1400024, 1, 0x0, 1, 0x0, 0x0, 0x0, 0x0, 0xFFFFFFFF, 0x0⟩,
  ⟨0x1400028, 1, 0x0, 1, 0x0, 0x0, 0x0, 0x0, 0xFFFFFFFF, 0x0⟩,
  ⟨0x1410000, 16384, 0x4, 1, 0x0, 0x0, 0x0, 0x0, 0xFFFFFFFF, 0x0⟩]

/-- Register rows at 0x15_0000_0 (block 21), part 0. -/
def regRows21_0 : List RegRow := [
  ⟨0x1500000, 2048, 0x20, 1, 0x0, 0x100000, 0x7FFFF01, 0x0, 0x0, 0x0⟩,
  ⟨0x1500004, 2048, 0x20, 1, 0x0, 0x0, 0x0, 0xF0000, 0x7FF, 0x0⟩,
  ⟨0x1500008, 2048, 0x20, 1, 0x0, 0x0, 0x0, 0x0, 0x0, 0x0⟩,
  ⟨0x150000C, 2048, 0x20, 1, 0x0, 0x0, 0x0, 0x0, 0x0, 0xFFFFFFFF⟩,
  ⟨0x1500010, 2048, 0x20, 1, 0x0, 0x0, 0x0, 0x0, 0x0, 0xFFFF⟩,
  ⟨0x1500014, 2048, 0x20, 1, 0x0, 0x0, 0x0, 0x0, 0x0, 0xFFFF⟩,
  ⟨0x1510000, 1, 0x0, 1, 0x0, 0x0, 0x0, 0x0, 0x1FFFF, 0x0⟩]

/-- The rows of the MiB of BAR 0 numbered `b`; the lane windows and BAR 0 itself are laid out by R732. -/
def regRows (b : Nat) : List RegRow :=
  match b with
  | 0 => regRows0_0 ++ regRows0_1
  | 1 => regRows1_0 ++ regRows1_1 ++ regRows1_2
  | 2 => regRows2_0 ++ regRows2_1
  | 3 => regRows3_0 ++ regRows3_1
  | 4 => regRows4_0 ++ regRows4_1
  | 5 => regRows5_0 ++ regRows5_1
  | 6 => regRows6_0 ++ regRows6_1
  | 7 => regRows7_0
  | 8 => regRows8_0 ++ regRows8_1
  | 9 => regRows9_0 ++ regRows9_1
  | 10 => regRows10_0
  | 11 => regRows11_0 ++ regRows11_1
  | 16 => regRows16_0 ++ regRows16_1 ++ regRows16_2
  | 17 => regRows17_0
  | 18 => regRows18_0 ++ regRows18_1
  | 19 => regRows19_0
  | 20 => regRows20_0
  | 21 => regRows21_0
  | 64 => regRows0_0 ++ regRows0_1
  | _ => []

/-- Whether address `a` is one of the registers of row `r`. -/
def RegRow.holds (r : RegRow) (a : Nat) : Bool :=
  decide (r.base ≤ a) &&
    (let d := a - r.base
     if r.s1 = 0 then d == 0
     else if r.s2 = 0 then d % r.s1 == 0 && decide (d / r.s1 < r.n1)
     else if r.s1 ≤ r.s2 then
       -- the second index has the larger stride only in no table of the spec
       d % r.s1 == 0 && decide (d / r.s1 < r.n1)
     else
       decide (d / r.s1 < r.n1) && d % r.s1 % r.s2 == 0 && decide (d % r.s1 / r.s2 < r.n2))

/-- The register row that holds address `a`, if the map has a register there (R596). -/
def regRow? (a : Nat) : Option RegRow := (regRows (a / 0x100000)).find? (·.holds a)

end Sys2Proof.Machine
end

