-- ==== Sys2Proof/Machine/Tbl.lean ====
section
/-!
DEFINITION. Sparse tables: lists of (key, value) pairs in one canonical form, keys strictly rising and no entry equal to
what an unlisted key reads as. The register file, the device memory, the MRAM and every numbered unit are held so.
-/
set_option Elab.async false
namespace Sys2Proof.Machine

/-- A sparse table from numbers to `α`. -/
abbrev Tbl (α : Type) := List (Nat × α)

/-- The entry listed for a key. -/
def Tbl.find {α : Type} : Tbl α → Nat → Option α
  | [], _ => none
  | (k, v) :: t, a => if k = a then some v else Tbl.find t a

/-- The table without a key. -/
def Tbl.drop {α : Type} : Tbl α → Nat → Tbl α
  | [], _ => []
  | (k, v) :: t, a => if k = a then Tbl.drop t a else (k, v) :: Tbl.drop t a

/-- The table with an entry put before the first larger key. -/
def Tbl.enter {α : Type} : Tbl α → Nat → α → Tbl α
  | [], a, x => [(a, x)]
  | (k, v) :: t, a, x => if a < k then (a, x) :: (k, v) :: t else (k, v) :: Tbl.enter t a x

/-- What key `a` reads as, where `d` is what an unlisted key reads as. -/
def Tbl.get {α : Type} (d : α) (t : Tbl α) (a : Nat) : α := (Tbl.find t a).getD d

/-- The table in which key `a` reads as `x` and every other key as before. -/
def Tbl.put {α : Type} [DecidableEq α] (d : α) (t : Tbl α) (a : Nat) (x : α) : Tbl α :=
  if x = d then Tbl.drop t a else Tbl.enter (Tbl.drop t a) a x

/-- The canonical form, where `d k` is what unlisted key `k` reads as: keys at least `n` and strictly rising, no entry
equal to what the key would read as unlisted. -/
def Tbl.wfFrom {α : Type} [DecidableEq α] (d : Nat → α) : Nat → Tbl α → Bool
  | _, [] => true
  | n, (k, v) :: t => decide (n ≤ k) && decide (v ≠ d k) && Tbl.wfFrom d (k + 1) t

/-- The canonical form of a table. -/
def Tbl.wf {α : Type} [DecidableEq α] (d : Nat → α) (t : Tbl α) : Bool := Tbl.wfFrom d 0 t

/-- The keys of a table, in rising order. -/
def Tbl.keys {α : Type} (t : Tbl α) : List Nat := t.map (·.1)

end Sys2Proof.Machine
end

