-- ==== Sys2Proof/Machine/State.lean ====
section
/-!
DEFINITION. The state of the EVX-6480 as plain data, and the state right after reset. Every register of the register
map is an entry of one sparse register file, keyed by its offset in BAR 0 of function 0; state that the spec gives and no
register shows stands in the records of its block.
-/
set_option Elab.async false
namespace Sys2Proof.Machine

/-! ## Sward (chapter 4) -/

/-- A request for a Sward channel (R108): the producer's fields and the clock of its arrival at the arbiter. -/
structure Req where
  channel : Nat
  producer : Nat
  action : Nat
  width : Nat
  param : Nat
  handle : Nat
  late : Bool
  /-- The source of the entry's timeline, for an event of the position engine (R110). -/
  src : Option Nat
  clk : Nat
  /-- The position word of each view in the request clock (R260). -/
  views : List Nat := []
deriving DecidableEq, Repr

/-- A granted event (R108). -/
structure Event where
  req : Req
  age : Nat
  gseq : Nat
  stampSrc : Nat
  position : Nat
  time : Nat
  clk : Nat
deriving DecidableEq, Repr

/-- State of Sward that no register shows. -/
structure Sward where
  /-- Request FIFO of each channel, oldest first (R112). -/
  fifo : Tbl (List Req) := []
  /-- The channel granted last: the rotating order starts after it (R112). -/
  lastCh : Nat := 255
  /-- The event clock of the last grant plus 1, and the channels granted in it (R112). -/
  grantClk : Nat := 0
  granted : List Nat := []
  /-- Grants of each channel in its guard window (R125). -/
  window : Tbl Nat := []
  /-- Channels whose guard window is discarded and starts again in the next event clock (R125). -/
  noWindow : Tbl Bool := []
  /-- Channels stopped by RUNAWAY whose EN has not been written to 1 since (R126). -/
  stopped : Tbl Bool := []
  /-- Selector registers last written through function 0 (R121), by address. -/
  byFn0 : Tbl Bool := []
  /-- What a selector register held, and whether through function 0, before the writes of this event clock (R117), by address. -/
  selPrev : Tbl (Option (Word × Bool)) := []
  /-- Requests of asynchronous producers that pass their synchroniser (R111), oldest first; `clk` is the clock of arrival. -/
  inFlight : List Req := []
  /-- The producer that entered first in a channel's last contested clock, and the producers whose requests have reached the channel in this
  clock (R112). -/
  turn : Tbl Nat := []
  reached : Tbl (List Nat) := []
  /-- Granted events that wait for the event clock of their delivery (R114), in GSEQ order. -/
  delivering : List Event := []
  /-- Event clock of the last delivery to a consumer input, plus 1, by the address of its selector (R118). -/
  acted : Tbl Nat := []
  /-- The end of the pulse of each event output, in event clocks (R128). -/
  pulseEnd : Tbl Nat := []
  /-- Level at each GPIO pin as last driven from outside. -/
  pinIn : Tbl Bool := []
  /-- VDDIO_GPIO banks whose supply is absent (R753). -/
  bankDown : Tbl Bool := []
deriving DecidableEq, Repr

/-! ## Encoder, SSI and switch inputs (chapter 2) -/

/-- State of an encoder channel beside its registers. -/
structure EncChan where
  /-- Levels at the pins. -/
  pinA : Bool := false
  pinB : Bool := false
  pinZ : Bool := false
  /-- Filtered levels (R34). -/
  filtA : Bool := false
  filtB : Bool := false
  filtZ : Bool := false
  /-- An input whose new level is being held for acceptance (R34, R35). -/
  holdA : Bool := false
  holdB : Bool := false
  holdZ : Bool := false
  /-- The reference state has been sampled since enable (R39). -/
  ref : Bool := false
  /-- The 48-bit count and the latched index position (R39, R43). -/
  count : Nat := 0
  indexPos : Nat := 0
  /-- Event clock of the last counted edge (R49, R71). -/
  lastClk : Option Nat := none
  /-- Signs of the last two counted edges, 0 for none (R72). -/
  sign : Int := 0
  prevSign : Int := 0
  /-- Length of the run of edges against the declared direction (R50). -/
  run : Nat := 0
  /-- Signed net count since the last qualified index pulse (R46). -/
  net : Int := 0
  /-- An index interval is open, and a cause to skip its check has occurred (R47). -/
  idxOpen : Bool := false
  skip : Bool := false
  /-- Net count and counted edges of the speed window in progress (R48). -/
  winNet : Int := 0
  winEdges : Nat := 0
deriving DecidableEq, Repr

/-- What an SSI channel or a receive stream has delivered (R73, R161): its last two values, each with the clock or time at which it is
valid, the sign of the last nonzero step between them, and the RATE that a station entry carries. -/
structure InRec where
  last : Option (Nat × Nat) := none
  prev : Option (Nat × Nat) := none
  dir : Int := 0
  rate : Int := 0
deriving DecidableEq, Repr

/-- State of an SSI channel beside its registers. -/
structure SsiChan where
  /-- Its valid reads (R73). -/
  reads : InRec := {}
  count : Nat := 0
  value : Nat := 0
  /-- The reference value of R60. -/
  ref : Option Nat := none
  /-- The last valid read exceeded SSI_MAXSTEP (R61). -/
  jumped : Bool := false
  /-- A read is due and has not started. -/
  due : Bool := false
  reading : Bool := false
  /-- Event clock of the running read's first falling edge (R62). -/
  start : Nat := 0
  /-- Event clock at which the monoflop time ends (R55). -/
  monoEnd : Nat := 0
deriving DecidableEq, Repr

/-- State of a switch input beside its registers. -/
structure SwIn where
  /-- The level after INVERT. -/
  raw : Bool := false
  /-- The debounce or lockout time is running (R65). -/
  timing : Bool := false
deriving DecidableEq, Repr

/-! ## Position engine (chapter 3) -/

/-- A position source beside its registers. -/
structure PosSrc where
  /-- The 56-bit position word. -/
  pos : Nat := 0
  /-- The position word as the event clock began: P0 of R86. -/
  start : Nat := 0
  /-- The source is enabled and its position has been loaded (R70). -/
  loaded : Bool := false
  /-- Interpolation is suspended, and the offset held meanwhile (R72). -/
  susp : Bool := true
  held : Nat := 0
  /-- Consecutive due reads without a valid result (R74). -/
  miss : Nat := 0
deriving DecidableEq, Repr

/-- A view position: the 56-bit word and 24 fraction bits below it (R77). -/
structure PosView where
  acc : Nat := 0
  /-- The position word as the event clock began: P0 of R86. -/
  start : Nat := 0
  active : Bool := false
deriving DecidableEq, Repr

/-- A slot of the position event table: the entry (0 when free), its generation (R85) and the client that inserted it. -/
structure Slot where
  entry : BitVec 128 := 0
  gen : Nat := 0
  client : Nat := 0
deriving DecidableEq, Repr

/-- A request in a client's queue (R98): an insertion, or the removal of a handle. `tag` is the client's own name for
the request, with which the result comes back. -/
structure PReq where
  insert : Bool
  entry : BitVec 128
  handle : Nat
  tag : Nat
deriving DecidableEq, Repr

/-- An entry that has been crossed, or that became active late, and has not yet fired: R87 orders them by clock, crossed before late, then
by the distance from the old position, then by INDEX. -/
structure Due where
  slot : Nat
  /-- R87 has put it off into a following clock. -/
  deferred : Bool
  late : Bool
  /-- The crossing went forward. -/
  forward : Bool
  /-- Distance from the old position of the timeline, in sub-ticks; 0 for a late entry. -/
  dist : Nat := 0
  /-- Event clock of the crossing. -/
  clk : Nat := 0
deriving DecidableEq, Repr

/-- The position engine beside its registers. -/
structure PosEngine where
  src : Tbl PosSrc := []
  view : Tbl PosView := []
  slots : Tbl Slot := []
  /-- Request queues by client number (R101). -/
  queue : Tbl (List PReq) := []
  /-- The client whose queue the engine served last: the rotation goes on after it (R98). -/
  served : Nat := 15
  /-- Entries that are to fire, in the order of R87. -/
  due : List Due := []
  /-- Event clock of the last firings, and how many fired in it (R87). -/
  fireClk : Nat := 0
  fireN : Nat := 0
deriving DecidableEq, Repr

/-! ## Units (chapter 18) -/

/-- STATE of a unit (R656, R658). -/
inductive UnitState where
  | off
  | starting
  | on
  | stopping
  | fault
deriving DecidableEq, Repr

/-- An entry of the unit table (R655, R656). -/
structure UnitEntry where
  state : UnitState := .off
  cause : Nat := 0
  gen : Nat := 0
  /-- An enable deferred until the stop ends (R658), or a RESTART. -/
  deferred : Bool := false
  /-- Station time of the last change of STATE. -/
  changed : Nat := 0
  /-- Milliseconds observed DOWN without a break. -/
  downMs : Nat := 0
deriving DecidableEq, Repr

/-! ## Station network and time (chapter 5) -/

/-- What the time unit keeps of the master it has selected (R151): the data set of its last Announce. -/
structure Master where
  gmId : Nat
  priority1 : Nat
  clockClass : Nat
  accuracy : Nat
  variance : Nat
  priority2 : Nat
  steps : Nat
  /-- sourcePortIdentity of the parent. -/
  parent : Nat
deriving DecidableEq, Repr

/-- A station event that waits for its deadline (R164): receive map, PARAM bits and deadline. -/
structure Deferred where
  map : Nat
  param : Nat
  deadline : Nat
deriving DecidableEq, Repr

/-- A received station frame whose header passed R156: port, source address and the bytes from VERSION on. -/
structure StaFrame where
  port : Nat
  sa : Nat
  bytes : List Byte
deriving DecidableEq, Repr

/-- What the device keeps of remote commands of one sender (R166). -/
structure RemotePeer where
  /-- SEQ of the last command executed, and of the one executing. -/
  lastSeq : Option Nat := none
  seq : Nat := 0
  /-- Where the response goes. -/
  port : Nat := 0
  da : Nat := 0
  /-- The stored RESP body. -/
  stored : List Byte := []
deriving DecidableEq, Repr

/-- A PTP message as the device sends it (R151, R153): messageType (0 Sync, 1 Delay_Req, 8 Follow_Up, 9 Delay_Resp, 11 Announce), versions,
domainNumber, sourcePortIdentity, twoStepFlag, sequenceId, logMessageInterval, its timestamp in ns and correctionField in 2⁻¹⁶ ns; and what only
a Delay_Resp or an Announce carries. -/
structure PtpMsg where
  kind : Nat
  version : Nat := 2
  minor : Nat := 1
  domain : Nat
  source : Nat
  twoStep : Bool := false
  seq : Nat
  logInterval : Int
  stamp : Int := 0
  correction : Int := 0
  requesting : Nat := 0
  master : Option Master := none
deriving DecidableEq, Repr

/-- What waits in a port's transmit queue (R169): a station frame, by TYPE and destination, with its bytes from VERSION on, or a PTP message. -/
inductive TxItem where
  | sta (type da : Nat) (bytes : List Byte)
  | ptp (m : PtpMsg)
deriving DecidableEq, Repr

/-- The transmit side of an Ethernet port (R169): what waits, oldest first, and the event clock at which the frame under way and its gap have
passed. -/
structure EthTx where
  queue : List TxItem := []
  busyTo : Nat := 0
deriving DecidableEq, Repr

/-- A position entry that waits for a port (R159): the event clock of its sample, its STREAM and its 24 bytes. -/
structure PosWait where
  clk : Nat
  stream : Nat
  bytes : List Byte
deriving DecidableEq, Repr

/-- The station time unit beside its registers. -/
structure Station where
  /-- The RATE_ADJ in force, in units of 2⁻⁴⁸ ns per event clock (R142). -/
  rateAdj : Int := 0
  /-- Low word of the step that TIME_STEP_HI applies (R147). -/
  stepLo : Nat := 0
  master : Option Master := none
  /-- Offset samples collected for the step, in ps (R147). -/
  samples : List Int := []
  /-- Consecutive samples within LOCK_THRESH, and above 4 × LOCK_THRESH (R146). -/
  good : Nat := 0
  bad : Nat := 0
  /-- The last 16 accepted mean path delays, in ps, newest first (R154). -/
  delays : List Int := []
  /-- Transmit time of the Delay_Req under way, in ps, and Syncs since it was sent. -/
  reqTx : Option Int := none
  reqSyncs : Nat := 0
  /-- Transmit and receive time of the last answered Delay_Req, in ps, and Syncs since it was sent (R154). -/
  delayMeas : Option (Int × Int) := none
  syncsSince : Nat := 0
  /-- Skep's frequency estimate, in units of RATE_ADJ (R147, R149). -/
  freqEst : Int := 0
  /-- Sequence numbers by TYPE (R155), and those of PTP messages by messageType. -/
  txSeq : Tbl Nat := []
  ptpSeq : Tbl Nat := []
  /-- As grandmaster: how far the next Sync and the next Announce lie behind the message sent last, in 1/128 s (R151). -/
  syncAt : Nat := 0
  annAt : Nat := 0
  /-- Position entries that wait for a port, oldest first (R159), and the ports' transmit sides (R169). -/
  posWait : List PosWait := []
  tx : Tbl EthTx := []
  /-- The last accepted entry of each receive stream (R161). -/
  rx : Tbl InRec := []
  /-- Events that wait for a port (R163), oldest first. -/
  txEvents : List Event := []
  deferred : List Deferred := []
  /-- Received frames that wait for their handler. -/
  inbox : List StaFrame := []
  remote : Tbl RemotePeer := []
  /-- Entries of the peer table that hold a sender (R168). -/
  peers : Tbl Bool := []
deriving DecidableEq, Repr

/-! ## Serial lanes (chapter 6) -/

/-- One direction of a lane's power state machine: the transition in progress and the request held meanwhile (R211). -/
structure PwrSide where
  target : Option Nat := none
  /-- The request, and whether a wake by it acquires warm. -/
  held : Option (Nat × Bool) := none
  /-- Event clock plus 1 of the link layer's last request (R211). -/
  linkClk : Nat := 0
deriving DecidableEq, Repr

/-- A pattern checker (R207): its register, the bits that it has taken since it was seeded or since lock, the run of correct bits before lock,
the last 64 wrong bits by number, and what the last bits given to it have brought: bits checked, wrong bits, and a loss of lock. -/
structure PrbsChk where
  reg : Nat := 0
  lock : Bool := false
  idx : Nat := 0
  run : Nat := 0
  wrong : List Nat := []
  bits : Nat := 0
  errs : Nat := 0
  lost : Bool := false
deriving DecidableEq, Repr

/-- State of a lane beside its registers. -/
structure LaneSt where
  tx : PwrSide := {}
  rx : PwrSide := {}
  /-- The 10 µs of electrical idle of a RESTART run (R201). -/
  idle : Bool := false
  /-- The transmitter drives its balls with symbols rather than electrical idle. -/
  sending : Bool := false
  /-- RATE in use since the last start (R201); 3 and 4 are 10GBASE-R and 25GBASE-R (R137). -/
  rate : Nat := 0
  /-- P(-1) of the transmitter's precoder (R183). -/
  precoder : Nat := 0
  /-- The acquisition in progress is warm (R197). -/
  warm : Bool := false
  /-- The next acquisition to start is cold, whatever wake it follows: that of a start, of a RESTART or of a change of LOOP (R197, R201, R204, R206). -/
  cold : Bool := false
  /-- Cold attempts made so far: AUTO rotates with them (R191). -/
  attempt : Nat := 0
  /-- Event clock at which the acquisition left NO_SIGNAL (R196). -/
  acqClk : Nat := 0
  /-- A point measurement runs (R216). -/
  margin : Bool := false
  /-- Consecutive marker positions without a valid marker (R232). -/
  amMiss : Nat := 0
  /-- Levels in the transmit filter: the last one sent and the two to follow (R188). -/
  tail : List Int := []
  /-- BIP-8 of the bits sent since the last marker, and of those received in codewords since it (R231). -/
  txBip : Nat := 0
  rxBip : Nat := 0
  /-- The lane's bits of the last codeword that a near-end loopback has brought back, where other lanes of the link hear their balls (R203). -/
  heard : List Bool := []
  /-- The last symbol that the receiver has decoded: P(−1) of the next (R183). -/
  rxPre : Option Nat := none
  /-- The pattern generator's register, time for bits that it has not sent yet in eighths of a bit, bits that INJECT is to invert, the checker,
  and the bits checked since the last read of PRBS_ERR (R207, R208). -/
  gen : Option Nat := none
  genPhase : Nat := 0
  injected : Nat := 0
  chk : PrbsChk := {}
  prbsBits : Nat := 0
deriving DecidableEq, Repr

/-! ## Talmon links (chapter 7) -/

/-- A packet of the link (R238 to R240): the START fields, the type header blocks and the payload. -/
structure Packet where
  ptype : Nat
  loc : Bool := false
  bcast : Bool := false
  ep : Nat := 0
  tspec : Nat := 0
  hdr : List Nat := []
  payload : List Byte := []
  /-- Downstream, while it waits: it is sent after the HUB packets queued before it (R283, R284, R301). -/
  afterHub : Bool := false
deriving DecidableEq, Repr

/-- A line in assembly or waiting for conditioning (R242, R243). -/
structure Line where
  desc : Nat
  line : Nat
  seq : Nat
  trigPos : Nat
  posValid : Bool
  short : Bool
  tile : Bool
  expLate : Nat
  /-- Bytes of the ingest buffer that the line holds (R257). -/
  size : Nat := 0
  /-- The payload as received, segment after segment (R371). -/
  bytes : List Byte := []
  /-- Samples by row, then pixel, then component in component order, as unpacked from the segments. -/
  rows : List (List (List Nat)) := []
deriving DecidableEq, Repr

/-- A trigger that waits for its block slot (R259, R270). -/
structure TrigReq where
  seq : Nat
  pset : Nat
  pos : Nat
  /-- Event clock of the delivery (R261). -/
  clk : Nat
  /-- Start of the request clock, in event clocks (R262). -/
  req : Nat
deriving DecidableEq, Repr

/-- A trigger record (R259, R291). -/
structure TrigRec where
  seq : Nat
  pos : Nat
  devLate : Nat
  pset : Nat
deriving DecidableEq, Repr

/-- A trigger input beside its registers. -/
structure TrigIn where
  wait : Option TrigReq := none
  /-- Records of the last 4,096 sequence numbers, newest first. -/
  recs : List TrigRec := []
deriving DecidableEq, Repr

/-- A 66-bit block (R224, R227): data, control by code, or bad (R226). -/
inductive Blk where
  | data (x : Nat)
  | ctl (code payload : Nat)
  | bad
deriving DecidableEq, Repr

/-- The transmit side of a link (R228, R229, R231, R235, R241). -/
structure LinkTx where
  /-- Packets that wait, oldest first, blocks of the packet under way, and TRIG payloads that are committed. -/
  queue : List Packet := []
  blocks : List Blk := []
  trigs : List Nat := []
  /-- Blocks since the last FILL. -/
  sinceFill : Nat := 0
  /-- Time for bits that no codeword has filled yet, in eighths of a bit of the link, codewords of the marker period, and the scrambler. -/
  phase : Nat := 0
  count : Nat := 0
  scr : Nat := 2 ^ 58 - 1
deriving DecidableEq, Repr

/-- State of a link beside its registers, by lane F. -/
structure Link where
  tx : LinkTx := {}
  /-- Scrambler state (R228). -/
  scr : Nat := 2 ^ 58 - 1
  /-- The last marker of each lane since the period began: lane, logical number, width code and arrival in 0.25 ns (R233). -/
  marks : List (Nat × Nat × Nat × Nat) := []
  /-- Deskew holds (R233), and codewords decoded since (R272). -/
  aligned : Bool := false
  since : Nat := 0
  /-- Consecutive periods with a differing width field, and consecutive uncorrectable codewords. -/
  badWidth : Nat := 0
  uncorr : Nat := 0
  /-- The packet in progress: bytes of START and data so far, and whether it is damaged and why (R239). -/
  part : Option (List Byte) := none
  bad : Option Nat := none
  /-- Good packets that wait for their handler. -/
  inbox : List Packet := []
  /-- HELLO state: a valid HELLO has been received, one with ACK received, one with ACK sent (R251, R252). -/
  heard : Bool := false
  ackIn : Bool := false
  ackOut : Bool := false
  /-- Major versions set in both masks by the last HELLO (R252). -/
  common : Nat := 0
  /-- Identity by which Skep knows a returning partner (R279): vendor and model, and serial. -/
  vendor : Nat := 0
  serial : Nat := 0
  /-- Order in which links reached UP (R283), and the entry of the partner named by ROLE since then (R285). -/
  upOrder : Nat := 0
  partner : Option Nat := none
  /-- Echo: requests sent since UP, ECHO_ID and departure of those unanswered, and the last 8 delay values, newest first (R267). -/
  echoes : Nat := 0
  echoSent : List (Nat × Nat) := []
  delays : List Nat := []
  /-- Cause of the most recent discard (R244), and the count of discards since the link last entered UP. -/
  lastCause : Nat := 0
  discards : Nat := 0
  /-- Lines in assembly, and complete lines that wait for conditioning. -/
  asm : List Line := []
  lines : List Line := []
  trig : Tbl TrigIn := []
deriving DecidableEq, Repr

/-! ## Endpoints, streams and message FIFOs (chapter 8) -/

/-- Why a CTRL request was made: the CTRL port that carries it, or the step of Skep that needs it. -/
inductive Purpose where
  | port (p : Nat)
  /-- HEAD_EP of enrolment, of a unit start with the unit's GEN there, and after a head restart. -/
  | headEp
  | unitEp (gen : Nat)
  | resetEp
  | ident
  | slotTable
  /-- The parameter sets, with the unit's GEN when they were written. -/
  | pset (gen : Nat)
  | health
  /-- A stream register of descriptor `d`: switching on or off, whether the write is the last, and the number of the stream's start. -/
  | stream (d : Nat) (on : Bool) (last : Bool) (start : Nat)
deriving DecidableEq, Repr

/-- A CTRL request (R246, R247). -/
structure CtrlReq where
  tag : Nat
  write : Bool
  addr : Nat
  words : Nat
  data : List Nat
  purpose : Purpose
  /-- EPOCH under which it was sent. -/
  epoch : Bool := false
deriving DecidableEq, Repr

/-- An item of a message FIFO: its words in write order (R307). -/
structure MsgItem where
  words : List Nat
deriving DecidableEq, Repr

/-- State of an endpoint beside its registers. -/
structure Endpoint where
  /-- Credit count, EPOCH, and a reset that awaits its answer (R247, R248). -/
  credits : Nat := 0
  epoch : Bool := false
  resetting : Bool := false
  nextTag : Nat := 0
  /-- Requests sent and unanswered, and requests that wait for a credit. -/
  out : List CtrlReq := []
  wait : List CtrlReq := []
  /-- Failures of the present enrolment step (R286), and consecutive health timeouts (R288). -/
  fails : Nat := 0
  misses : Nat := 0
  /-- The entry was LOST before its present enrolment, and its fields then (R779): CAUSE is kept in EP_STATUS. -/
  wasLost : Bool := false
  /-- Event clock at which it became LOST (R279). -/
  lostClk : Nat := 0
  /-- Parameter sets have changed since Skep last wrote them (R292). -/
  psetDirty : Bool := false
  /-- Vendor and model, and serial, as found before the identity words arrive (R279). -/
  vendor : Nat := 0
  serial : Nat := 0
  /-- Message FIFO: items stored, an item whose rest is discarded (R312), and a drop since the last item (R310). -/
  items : List MsgItem := []
  cutting : Bool := false
  dropped : Bool := false
deriving DecidableEq, Repr

/-- An endpoint that waits for enrolment (R283): order of its link, slot, link F, the hub's ID, and the fields of
PORT_STATUS or HELLO. -/
structure Enrol where
  order : Nat
  slot : Nat
  link : Nat
  hub : Option Nat
  isHub : Bool
  detTrig : Bool
  credits : Nat
  budget : Nat
  nominal : Nat
  vendor : Nat
  serial : Nat
deriving DecidableEq, Repr

/-- Work that has fallen to Skep while it does not run, done in order once it runs again (R24). -/
inductive SkepJob where
  /-- The completion of a request of Skep's own: endpoint, request, STATUS and data (R283 to R301). -/
  | ctrl (e : Nat) (r : CtrlReq) (st : Nat) (data : List Nat)
  /-- The writes of the head's stream of an admitted descriptor, and those of one that is disabled, to a stream of an endpoint (R301). -/
  | stream (d : Nat)
  | streamOff (d e stream : Nat)
  /-- The ASSIGN of a hub slot is withdrawn: the packet, and the endpoint that it goes to (R286, R289). -/
  | send (e : Nat) (p : Packet)
  /-- Dose write-back of a chain (R346): of the deferred heads alone, and whether an inhibited write is abandoned. -/
  | dose (n : Nat) (deferred stop : Bool)
  /-- An event that Skep publishes on the channel of the selector at `sel` (R313, R429, R461, R540, R673), and one of comparison that it publishes at
  most once in 100 ms (R531). -/
  | says (sel param : Nat)
  | tell (v kind : Nat)
  /-- An operating hour is counted in the MRAM (R713). -/
  | hour (bad : Option Nat)
deriving DecidableEq, Repr

/-- An endpoint that Skep has joined to a trigger group (R301): link, hub, endpoint, group. -/
structure Member where
  link : Nat
  hub : Nat
  ep : Nat
  group : Nat
deriving DecidableEq, Repr

/-- A stream descriptor beside its registers: the expected line (R244), the highest line number of an undamaged segment
since the last good line, and the discards of the link at the last good line. -/
structure Stream where
  expect : Option Nat := none
  high : Option Nat := none
  discards : Nat := 0
  /-- Starts and stops of the stream: an answer to a write of an earlier start concerns no later one (R300, R301). -/
  starts : Nat := 0
deriving DecidableEq, Repr
/-! ## Ling (chapter 9) -/

/-- A frame of a chain (R320, R323, R327): by driver where its slots differ. -/
inductive LFrame where
  /-- The measurement of the chain's length (R327). -/
  | length
  | nop
  | rdId (addr : Nat)
  /-- CFG ROWS, or CFG PRE. -/
  | cfg (pre : Bool)
  /-- WR_INT: row, channel and value for each driver that has one. -/
  | wrInt (words : List (Option (Nat × Nat × Nat)))
  | commit
  /-- The second COMMIT frame of R336. -/
  | recommit
  | status (sel : Nat)
  | diag (driver row channel : Nat)
  /-- WR_ID: word address and word for each driver that has one. `done`: the bank of head `h` is complete with this SEQ. -/
  | wrId (words : List (Option (Nat × Nat))) (done : Option (Nat × Nat))
deriving DecidableEq, Repr

/-- A light head as enrolled (R329, R331): MODE 0 NORMAL, 1 SAFE, 2 DARK, and the image of its identity memory. -/
structure LHead where
  first : Nat
  drivers : Nat
  mode : Nat
  image : List Byte := []
  /-- TEMP_WARN has been published since TEMP was last at or below T_WARN. -/
  warned : Bool := false
  /-- A dose write that was inhibited waits for its retry (R346). -/
  deferred : Bool := false
deriving DecidableEq, Repr

/-- A commit under way (R334, R335). -/
structure LCommit where
  set : Nat
  now : Bool
  tl : Nat
  pos : Nat
  pitch : Nat
  steps : Nat
  step : Nat
  rowsUsed : Nat := 1
deriving DecidableEq, Repr

/-- An edge of CHAIN_ENABLE: a row step, a lit row with its width in event clocks, or a diagnostic pulse (R339, R341). -/
inductive LEdge where
  | stepUp
  | stepDown
  | rowUp (row width : Nat)
  /-- The fall that ends a pulse, with the pre-charge and ON_DELAY that it began with (R339, R345). -/
  | rowDown (row width lead : Nat)
  | diagUp
  | diagDown (driver row channel lead : Nat)
deriving DecidableEq, Repr

/-- The channel that a DIAG frame names, until its LATCH (R344). -/
structure LDiag where
  driver : Nat
  row : Nat
  channel : Nat
deriving DecidableEq, Repr

/-- A chain beside its registers. -/
structure Chain where
  /-- Intensity codes, by set × 8192 + 256d + 16r + c (R353), and user curve points. -/
  codes : Tbl Nat := []
  curve : Tbl Nat := []
  /-- Frames to be shifted, and the frame latched last, whose responses come with the next. -/
  queue : List LFrame := []
  prev : Option LFrame := none
  held : Option LFrame := none
  /-- Identity words read so far: by driver × 1024 + address, and drivers that answered NO_ID. -/
  words : Tbl Nat := []
  heads : List LHead := []
  /-- The drivers' shadow values as sent, by 256d + 16r + c (R336). -/
  shadow : Tbl Nat := []
  /-- The drivers' shadow values are known: every word has been sent since the unit started (R334). -/
  sent : Bool := false
  /-- Drive values by 256d + 16r + c: active, active before the last COMMIT, and as it was to leave them (R336). -/
  active : Tbl Nat := []
  before : Tbl Nat := []
  meant : Tbl Nat := []
  commit : Option LCommit := none
  diag : Option LDiag := none
  /-- The entry of the last dark window (R344): asked for, and its handle once the position engine has answered. -/
  dark : Option (Option Nat) := none
  /-- The driver, row and channel that a latched DIAG frame has armed (R324). -/
  armed : Option (Nat × Nat × Nat) := none
  /-- Rows and channels lit for at least 2 µs since the last TESTED report, by 256d + 16r + c. -/
  lit : Tbl Bool := []
  /-- Falls of ENABLE that the drivers have counted since their row counters were cleared, and what a driver has counted beyond that, by driver: its
  row counter is their sum mod its ROWS (R324). The driver's own counts before the last COMMIT, by driver (R336), and both counts as they were when
  ENABLE rose. -/
  row : Nat := 0
  rowOff : Tbl Nat := []
  rowsWas : Tbl Nat := []
  riseRow : Nat := 0
  riseOff : Tbl Nat := []
  /-- ENABLE edges to come, with their event clocks; and ENABLE's level, with the event clock of its last rise (R341). -/
  edges : List (Nat × LEdge) := []
  enable : Bool := false
  rise : Nat := 0
  /-- Pre-charge and ON_DELAY of the pulses that `edges` makes, in event clocks (R339). -/
  lead : Nat := 0
  /-- A LATCH waits for ENABLE low (R341). -/
  latchDue : Bool := false
  /-- The generator's pending entry and its position; an insertion that is under way; a stall (R337). -/
  gen : Option Nat := none
  genPos : Nat := 0
  genAsked : Bool := false
  genStall : Bool := false
  /-- Light time of each channel in the duty window, in event clocks (R340), and dose in pC (R345), by 16d + c. -/
  duty : Tbl Nat := []
  dose : Tbl Nat := []
  /-- Event clock plus 1 of the last TESTED report, by 256d + 16r + c (R344). -/
  tested : Tbl Nat := []
  /-- Masks of the STATUS read under way and SHORT of the read before, by driver (R343). -/
  openNow : List Nat := []
  shortNow : List Nat := []
  shortWas : List Nat := []
  /-- Consecutive frames whose every response had a parity error (R349). -/
  lostFrames : Nat := 0
deriving DecidableEq, Repr


/-! ## Creel (chapter 10) -/

/-- A rewind mark beside its registers (R372 to R375). -/
structure Mark where
  /-- ROW_SEQ of the row on which it stands. -/
  row : Nat := 0
  /-- It has moved under ADVANCE since it was set. -/
  moved : Bool := false
  /-- A SET_AT under way, and the tag of a SET_AHEAD that waits for the position engine. -/
  setAt : Bool := false
deriving DecidableEq, Repr

/-- A view's rings beside the registers. -/
structure Hist where
  /-- Segments of the ring, the stage and the work area, as runs (first segment, length) in allocation order (R360, R364). -/
  ring : List (Nat × Nat) := []
  stage : List (Nat × Nat) := []
  work : List (Nat × Nat) := []
  /-- Rows stored in the ring since its allocation, and rows written to the stage. -/
  stored : Nat := 0
  stageSeq : Nat := 0
  /-- Rows lost by the present hold since its last LOSS record, with the positions of the first and the last (R376). -/
  held : Nat := 0
  heldFirst : Nat := 0
  heldLast : Nat := 0
  /-- The next row stored carries HOLD_RESUME, and GAP (R366). -/
  resume : Bool := false
  gap : Bool := false
deriving DecidableEq, Repr

/-- A descriptor's raw ring: its segments, and the offset of the next entry (R370, R371). -/
structure RawRing where
  segs : List (Nat × Nat) := []
  next : Nat := 0
  /-- RAW_SEGS at its allocation. -/
  size : Nat := 0
deriving DecidableEq, Repr

/-- Creel beside its registers. -/
structure Creel where
  hist : Tbl Hist := []
  raw : Tbl RawRing := []
  /-- Buffers of learning sessions, by view (R534). -/
  learn : Tbl (List (Nat × Nat)) := []
  /-- Reference segments of each job slot. -/
  refs : Tbl (List (Nat × Nat)) := []
  marks : Tbl Mark := []
  /-- Poisoned 32-byte units, by D / 32 (R381). -/
  poison : Tbl Bool := []
  /-- The unit that the scrubber reads next (R384). -/
  scrub : Nat := 0
  /-- Correctable errors of each pseudo-channel in the present hour, and the pseudo-channels warned of in it (R385). -/
  ceHour : Nat := 0
  ce : Tbl Nat := []
  ceWarned : Tbl Bool := []
  /-- Errors that lie in memory until a read of their unit meets them, or a write covers it (R380, R381). -/
  flaws : List MemErr := []
  /-- Contexts that the cache holds, and those of them that are poisoned (R382, R387). -/
  cached : Tbl Bool := []
  badCtx : Tbl Bool := []
  /-- Stacks trained, and zero-fill under way (R390). -/
  trained : Bool := false
deriving DecidableEq, Repr
/-! ## Conditioning (chapter 11) -/

/-- What a zone window keeps of one column and component (R420). -/
structure ZCol where
  sum : Nat := 0
  min : Nat := 65535
  max : Nat := 0
  count : Nat := 0
deriving DecidableEq, Repr

/-- A head's share of a zone window: its descriptor, its pixel range, whether it has treated a line at or after the window's end,
and its columns by pixel, then component. -/
structure ZHead where
  desc : Nat
  first : Nat
  last : Nat
  done : Bool := false
  cols : List (List ZCol) := []
deriving DecidableEq, Repr

/-- An open zone window (R419, R420). -/
structure ZoneWin where
  k : Nat
  view : Nat
  start : Nat
  stop : Nat
  bad : Bool := false
  heads : List ZHead := []
deriving DecidableEq, Repr

/-- A line after stage 5, kept for the line delay (R409): trigger position, and rows of pixels of components. -/
structure LdLine where
  pos : Nat
  rows : List (List (List Nat))
deriving DecidableEq, Repr

/-- State of a descriptor in conditioning. -/
structure CondDesc where
  /-- COND_EN holds after the check of R402, and line delay after that of R409, with the bytes it has taken. -/
  on : Bool := false
  ld : Bool := false
  ldBytes : Nat := 0
  buf : List LdLine := []
  /-- Trigger position and number of the last line treated. -/
  last : Option Nat := none
  lastLine : Nat := 0
  /-- Trigger position of the last line treated before the descriptor stopped. -/
  before : Option Nat := none
  /-- The furthest trigger position of a line treated (R419). -/
  top : Option Nat := none
deriving DecidableEq, Repr

/-- A calibration command that runs (R412, R413): its copy of the arguments, ERR, and the sums and
lines of ACCUM. -/
structure CalRun where
  op : Nat
  mem : Nat
  first : Nat
  count : Nat
  fields : Nat
  err : Nat := 0
  /-- Slots, tables or entries moved so far. -/
  moved : Nat := 0
  sums : List Nat := []
  lines : Nat := 0
  /-- Event clock of its acceptance (R701). -/
  since : Nat := 0
deriving DecidableEq, Repr

/-- An accepted closure that is applied when its event clock ends, unless a freeze arrives in it (R427): the window, its eligible columns
as descriptor and pixel (R423), its log entry, and whether it may return its view to TRACKING (R425). -/
structure ZonePend where
  win : ZoneWin
  good : List (Nat × Nat)
  log : Nat
  thaw : Bool
deriving DecidableEq, Repr

/-- Conditioning beside its registers. -/
structure Cond where
  /-- Slots of the calibration store, and entries of the LUT pool by table × 4096 + index. -/
  cal : Tbl Nat := []
  lut : Tbl Nat := []
  desc : Tbl CondDesc := []
  wins : List ZoneWin := []
  run : Option CalRun := none
  /-- Consecutive rejected closures of each view (R425). -/
  rejRun : Tbl Nat := []
  /-- The pixel ranges of each zone entry: descriptor, first and last pixel (R419). -/
  ranges : Tbl (List (Nat × Nat × Nat)) := []
  /-- Accepted closures of this event clock, and the event clock, plus 1, of the last freeze cause of each view (R427). -/
  accepted : List ZonePend := []
  froze : Tbl Nat := []
deriving DecidableEq, Repr


/-! ## Plait (chapter 12) -/

/-- A line at the resampler: its exposure centre (R440), twice its offset within a tile (R441), its flags (R411), and its pixels by
component. -/
structure PLine where
  c : Nat
  off2 : Int := 0
  flags : Nat := 0
  px : List (List Nat)
deriving DecidableEq, Repr

/-- A head of a view (R438): number, descriptor, the columns it covers (R439), and its present run (R442). -/
structure PHead where
  head : Nat
  desc : Nat
  lo : Nat
  hi : Nat
  /-- Direction of the run: 0 until it has two lines. -/
  dir : Int := 0
  lines : List PLine := []
  /-- Exposure centre and doubled tile offset of the last line taken. -/
  last : Option (Nat × Int) := none
  /-- The head was missing for the last row. -/
  missing : Bool := false
  /-- The rows, by position, whose bound on the wait for this head has passed, and whether no line beyond the row had arrived by then:
  the head is missing for it (R445). -/
  late : List (Nat × Bool) := []
  /-- Exposure centre and doubled tile offset of the first line of the pair that made the last row (R444). -/
  pair : Option (Nat × Int) := none
  /-- The upper neighbour, by head number (R439). -/
  up : Option Nat := none
deriving DecidableEq, Repr

/-- A row of a tracking window (R451, R452): whether its flags reject the window, and for each overlap of the view the samples of the lower
head and of the upper one in it, or none with a head missing. -/
structure PWinRow where
  bad : Bool
  seams : List (Option (List Nat × List Nat))
deriving DecidableEq, Repr

/-- A view in Plait beside its registers. -/
structure PView where
  /-- Heads in order across the web. -/
  heads : List PHead := []
  /-- A position of the grid, and the next row of the view run (R435). -/
  grid : Option Nat := none
  next : Option Nat := none
  /-- The view run has begun, its direction, and whether its first row is still to come (R442). -/
  begun : Bool := false
  dir : Int := 0
  first : Bool := false
  /-- The view run has ended: rows are still to be completed, and lines of the next run wait, by head number. -/
  closing : Bool := false
  stopping : Bool := false
  held : List (Nat × PLine) := []
  win : List PWinRow := []
deriving DecidableEq, Repr

/-- Plait beside its registers: the map store, the views, and the geometry command that runs (R457). -/
structure Plait where
  map : Tbl Nat := []
  view : Tbl PView := []
  run : Option CalRun := none
deriving DecidableEq, Repr

/-! ## Contexts (chapter 13) -/

/-- A context (R496); bytes 96 to 127 are `cmp`. -/
structure Ctx where
  tag : Nat := 0
  anchor : Nat := 0
  endPos : Nat := 0
  firstRow : Nat := 0
  rows : Nat := 0
  view : Nat := 0
  /-- 0 OPEN, 1 IMAGED, 2 JUDGED, 3 ACTED, 4 DELIVERED, 5 RETIRED. -/
  state : Nat := 5
  actDone : Bool := false
  delivDone : Bool := false
  openTime : Nat := 0
  imagedTime : Nat := 0
  judgedTime : Nat := 0
  gatePos : Nat := 0
  gateHandle : Option Nat := none
  actResult : Nat := 0
  verdict : Nat := 0
  rule : Nat := 0
  cflags : Nat := 0
  markScore : Nat := 0
  markDx : Int := 0
  markDy : Int := 0
  actPos : Nat := 0
  cmp : List Byte := []
deriving DecidableEq, Repr

/-! ## Jobs and segmentation (chapter 13) -/

/-- A row as segmentation keeps it within a view run: its position, VW_ROW_CNT with it, the stage or ring slot that holds it, its PFLAGS,
whether it carries GAP or lies in a LOSS record, and its samples by column, then component. -/
structure SRow where
  pos : Nat
  cnt : Nat
  place : Option (Bool × Nat) := none
  flags : Nat := 0
  loss : Bool := false
  px : List (List Nat) := []
deriving DecidableEq, Repr

/-- A place at which a template has been scored (R483): the row of its centre, the score in 2⁻⁴⁰, the centre column in 1/16 column, and
the refined position of the mark. -/
structure JFind where
  row : Nat
  score : Nat
  col : Int
  m : Nat
deriving DecidableEq, Repr

/-- A web lane of a job in a view (R484 to R487). -/
structure JLane where
  /-- 0 ACQUIRE, 1 TRACK, 2 ACQUIRE from TRACK: repeats are cut BLIND. -/
  mode : Nat := 0
  miss : Nat := 0
  score : Nat := 0
  /-- The predicted position of the next mark. -/
  pred : Nat := 0
  /-- Centres up to this row have been searched. -/
  seen : Option Nat := none
  /-- The best place so far of an acquisition that has passed MARK_MIN, and the first row that did. -/
  cand : Option (Nat × JFind) := none
  /-- The end of the last repeat that the lane has cut; the lane has cut its last under this job (R479). -/
  endAt : Option Nat := none
  done : Bool := false
deriving DecidableEq, Repr

/-- A job that cuts a view's rows (R479): from row `start` on, and up to the splice position `stop`. -/
structure JSet where
  slot : Nat
  start : Option Nat := none
  stop : Option Nat := none
  lanes : List JLane := []
deriving DecidableEq, Repr

/-- A view in job control beside its registers. -/
structure JView where
  /-- Jobs whose lanes still cut, the active one last. -/
  sets : List JSet := []
  /-- The pending switch: slot, splice position and handle (R477). -/
  pend : Option (Nat × Nat × Nat) := none
  /-- Rows of the view run, newest first, and those not yet searched, oldest first (R480). -/
  rows : List SRow := []
  wait : List SRow := []
  /-- The view run that Plait emits goes on, and the run being searched is not concluded (R484, R488). -/
  live : Bool := false
  searching : Bool := false
  /-- Repeats that are OPEN, by key. -/
  opened : List Nat := []
  /-- Repeat sequence of each web lane (R490). -/
  seqs : Tbl Nat := []
  /-- A pending roll boundary, and the last boundary with the sequences of the epoch before it (R489). -/
  roll : Option Nat := none
  before : Option (Nat × Tbl Nat) := none
deriving DecidableEq, Repr

/-- A view of a JOB_ARM, JOB_SWITCH or cancel that waits for the position engine (R477): view, position, and the answer's STATUS and
handle. -/
structure JArmView where
  view : Nat
  pos : Nat
  answer : Option (Nat × Nat) := none
deriving DecidableEq, Repr

/-- Such a command, by its requester. -/
structure JArm where
  cancel : Bool := false
  slot : Nat := 0
  views : List JArmView := []
deriving DecidableEq, Repr

/-- A JOB_LOAD that copies (R475): its requester, IMAGE_LEN and bus address, its number, the bytes copied, and whether a read has failed. -/
structure JLoad where
  who : Nat
  len : Nat
  addr : Nat
  id : Nat
  got : Nat := 0
  bad : Bool := false
deriving DecidableEq, Repr

/-- Job control beside its registers. -/
structure Jobs where
  view : Tbl JView := []
  arms : Tbl JArm := []
  load : Tbl (Option JLoad) := []
  /-- The last cut got no context (R497). -/
  exhausted : Bool := false
deriving DecidableEq, Repr

/-! ## Comparison (chapter 14) -/

/-- A row of a repeat: y, where Creel stored it, and what a slice has read of it (R510): samples by column, then component, columns
with a poisoned byte, and OVERWRITTEN. -/
structure RepRow where
  y : Nat
  place : Option (Bool × Nat)
  read : Bool := false
  overwritten : Bool := false
  bad : List Nat := []
  px : List (List Nat) := []
  /-- The row's position. -/
  pos : Nat := 0
deriving DecidableEq, Repr

/-- The reference that the first band of a repeat fixes (R510): the bank's byte offset in the slot's image and its generation, and the mark
of the reference. -/
structure RepCfg where
  bank : Nat
  gen : Nat
  markX : Nat
  markY : Nat
deriving DecidableEq, Repr

/-- Thresholds of registration (R513, R514). -/
structure RegCfg where
  comp : Nat
  minCorr : Nat
  minStd : Nat
  dev : Nat
  failFrac : Nat
deriving DecidableEq, Repr

/-- The registers of the view that the first band of a repeat fixes (R510, R542): those of registration, GATE_LATE_FIRE, VERDICT_MASK, and the
channel that VERDICT_SUB names. -/
structure CmpRegs where
  reg : RegCfg
  lateFire : Bool
  mask : Nat
  sel : Option Nat
deriving DecidableEq, Repr

/-- A repeat from its cut until it is handed to Withy: slice, mark centre, rows, next band, configuration, and what the gate insertion
returned (R527). -/
structure Rep where
  view : Nat := 0
  slot : Nat := 0
  lane : Nat := 0
  slice : Nat := 0
  mark : Nat := 0
  pitch : Nat := 0
  comps : Nat := 0
  bytesPer : Nat := 1
  width : Nat := 0
  height : Nat := 0
  rows : List RepRow := []
  band : Nat := 0
  cfg : Option RepCfg := none
  regs : Option CmpRegs := none
  noRef : Bool := false
  /-- It is BLIND, and is not compared (R487, R511). -/
  blind : Bool := false
  /-- Event clock of the cut, and the number of the cut among all (R509). -/
  cutClk : Nat := 0
  order : Nat := 0
  throttled : Bool := false
  gateStatus : Nat := 0xFF
  /-- The verdict is ready and its gate insertion is under way. -/
  gating : Bool := false
  cands : List Byte := []
  /-- DV_CROP and DV_MASKS of the view as they stood at the verdict (R586). -/
  dvCrop : Nat := 0
  dvMasks : Nat := 0
deriving DecidableEq, Repr

/-- A reference bank of a slot, view and INDEX (R504, R534): the bank in use, whether it has content, and its generation. -/
structure Bank where
  cur : Nat := 0
  valid : Bool := false
  gen : Nat := 0
deriving DecidableEq, Repr

/-- A learning session of a view (R534 to R537): its seed's mark, in 1/16 column and 1/16 row, and whether one of its samples was
poisoned. -/
structure Learn where
  slot : Nat := 0
  index : Nat := 0
  n : Nat := 0
  size : Nat := 0
  markX : Int := 0
  markY : Int := 0
deriving DecidableEq, Repr

/-- A gate insertion that has returned: the key of its repeat, STATUS and handle, whether the lead was short (R528), and whether the view was not
ON at a refusal (R527). -/
structure GateAns where
  key : Nat
  status : Nat
  handle : Nat
  short : Bool := false
  viewOff : Bool := false
deriving DecidableEq, Repr

/-- Comparison beside its registers. -/
structure Compare where
  reps : Tbl Rep := []
  banks : Tbl Bank := []
  learn : Tbl Learn := []
  /-- Gate insertions that have returned, oldest first (R527, R528). -/
  answers : List GateAns := []
  /-- Keys of the repeats judged and not yet handed to Withy, in the order of their verdicts (R567, R578). -/
  judged : List Nat := []
  /-- The number of the next cut (R509). -/
  cuts : Nat := 0
  /-- Event clock plus 1 at which BOUND_MISS and CAND_DROP were last published, by kind × 8 + view (R531, R540). -/
  told : Tbl Nat := []
deriving DecidableEq, Repr

/-! ## Withy (chapter 15) -/

/-- What a record's body is made of when it is issued. A row is named by where it is stored: in the stage or not, and its number there. -/
inductive WBody where
  | none
  | bytes (b : List Byte)
  /-- The context image as it stands at issue, and candidate records (R546). -/
  | repeat (key : Nat) (cands : List Byte)
  /-- Crops (R547): the view, the repeat's first column, its rows by y, and (CAND, X0, Y0, W, H) of each crop. -/
  | crops (view col0 : Nat) (rows : List (Nat × Option (Bool × Nat))) (rects : List (Nat × Nat × Nat × Nat × Nat))
  /-- A preview stripe (R548): rows, DEC_X, DEC_Y. -/
  | preview (view : Nat) (rows : List (Option (Bool × Nat))) (decX decY : Nat)
  /-- Whole rows of a view (R549). -/
  | rows (view : Nat) (rows : List (Option (Bool × Nat)))
deriving DecidableEq, Repr

/-- A record queued for one ring (R543): TYPE, VIEW, TAG, POS, TIME (none: the time of issue), HFLAGS but for PHASE and
LIST, type area and body; the repeat it reports, and the fetch port it serves. -/
structure WRec where
  type : Nat
  view : Nat := 0
  tag : Nat := 0
  pos : Nat := 0
  time : Option Nat := none
  hflags : Nat := 0
  area : List Byte := []
  body : WBody := .none
  key : Option Nat := none
  fetch : Option Nat := none
  /-- Positions of the first and the last row of a CROP record (R552). -/
  span : Nat × Nat := (0, 0)
  /-- Event clock at which it was queued. -/
  clk : Nat := 0
deriving DecidableEq, Repr

/-- A state of a page other than FREE (R559). -/
inductive PageState where
  | filling
  | posted
  | faulted
deriving DecidableEq, Repr

/-- A pool beside its registers (R557 to R564): pages not FREE; the first page that has never left FREE since EN (pages from it on are
FREE, in index order); and the pages that have become FREE since, oldest first, each with the event clock at which it did. -/
structure Pool where
  pages : Tbl (Option PageState) := []
  fresh : Nat := 0
  free : List (Nat × Nat) := []
  /-- Event clock plus 1 at which PAGE_FAULT was last published (R561). -/
  told : Nat := 0
  /-- A RECLAIM under way (R581): reads that have not ended, the pages that headers and lists have named so far, and the number of the RECLAIM. -/
  await : Nat := 0
  keep : List Nat := []
  gen : Nat := 0
deriving DecidableEq, Repr

/-- A translation (R560): pool, page, bus address, and PEER. -/
structure Tlb where
  pool : Nat
  page : Nat
  addr : Nat
  peer : Bool
deriving DecidableEq, Repr

/-- A record whose body is written and whose header waits for the body's read-back (R574): HFLAGS, BODY_LEN and PAGE of its header, and
whether the read-back has arrived. -/
structure WBack where
  hflags : Nat
  len : Nat
  page : Nat
  arrived : Bool := false
deriving DecidableEq, Repr

/-- A ring beside its registers: the event clock of the first record issued while ARMED (R575), the tag of the one record lost, the pages
that the record at the front has been given (page, bus address, PEER), the page that is being translated, and read-backs under way. -/
structure RingSt where
  armedAt : Option Nat := none
  lostTag : Nat := 0
  got : List (Nat × Nat × Bool) := []
  walk : Option Nat := none
  back : Option WBack := none
  /-- An interrupt that waits for the read-back of a header; the read-back has arrived. -/
  irqBack : Option Bool := none
  /-- IRQ_TIME has run out while Withy was SUSPENDED (R575, R580). -/
  timed : Bool := false
  /-- A drop has been published since the last RING_FULL record (R577). -/
  told : Bool := false
deriving DecidableEq, Repr

/-- A fetch port beside its registers (R571): a request runs; one of its records is queued; the records to be queued; the ring; the number
of the request; parts of the tag list that have arrived, and how many are outstanding. -/
structure FetchSt where
  busy : Bool := false
  out : Bool := false
  todo : List WRec := []
  ring : Nat := 0
  view : Nat := 0
  id : Nat := 0
  count : Nat := 0
  gen : Nat := 0
  await : Nat := 0
  buf : List (Nat × List Byte) := []
deriving DecidableEq, Repr

/-- Stripes of a view's preview (R569): rows of the present one, and its decimation. -/
structure Stripe where
  rows : List (Option (Bool × Nat)) := []
  first : Nat := 0
  last : Nat := 0
  decX : Nat := 8
  decY : Nat := 8
  want : Nat := 0
deriving DecidableEq, Repr

/-- Withy beside its registers. -/
structure Withy where
  pools : Tbl Pool := []
  /-- Translations, least recently used first. -/
  tlb : List Tlb := []
  ring : Tbl RingSt := []
  fetch : Tbl FetchSt := []
  stripe : Tbl Stripe := []
  /-- By class, the ring that was served last; bytes written in all, and for class 4, since class 4 has had records ready (R566). -/
  turn : Tbl Nat := []
  share : Nat × Nat := (0, 0)
deriving DecidableEq, Repr

/-! ## Skep (chapter 18) -/

/-- A self-test that runs (R663): the tests asked for, those that the scheduler has admitted, those of them that have ended, those skipped, and the result that the
hardware will give: failed tests and the first failing item. -/
structure SelfTest where
  want : Nat
  begun : Nat := 0
  ended : Nat := 0
  skipped : Nat := 0
  failed : Nat := 0
  first : Nat := 0
deriving DecidableEq, Repr

/-- A buffer in host memory that Skep reads for a command (R649, R663): its number, bus address and length, what has arrived, and whether a
read failed. -/
structure SkFetch where
  id : Nat
  addr : Nat
  len : Nat
  data : List Byte := []
  bad : Bool := false
deriving DecidableEq, Repr

/-- A command accepted from a mailbox (0 to 20) or from a remote sender (32 + SENDER). -/
structure SkCmd where
  /-- The copy of the request (R646, R647): empty when no command runs. -/
  req : List Byte := []
  /-- Rights of function 1 (R645, R166). -/
  priv : Bool := false
  /-- The command has been decided and waits for its completion. -/
  started : Bool := false
  /-- STATUS and response parameters, when they are known. -/
  resp : Option (Nat × List Byte) := none
  /-- A UNIT_SET that waits for its unit (R658): the unit, and whether it must settle rather than change its STATE once; then the entry reached,
  and whether the wait was cancelled (R661). -/
  wait : Option (Nat × Bool) := none
  seen : Option UnitEntry := none
  cancelled : Bool := false
  test : Option SelfTest := none
  /-- When its RING was accepted (R648): the event clock, and the requester. -/
  rung : Nat × Nat := (0, 0)
  /-- Its answer waits for the read-back of this number (R649): the response parameters. -/
  held : Option (Nat × List Byte) := none
  /-- Its buffer is being read (R663). -/
  fetch : Option SkFetch := none
deriving DecidableEq, Repr

/-- What waits for the scheduler (R693): the start of a unit, HBM training, or self-test item `i` of a requester's command. -/
inductive SchedItem where
  | unit (u : Nat)
  | hbm
  | test (m i : Nat)
deriving DecidableEq, Repr

/-- Skep beside its registers. -/
structure Skep where
  /-- Number of Skep's last read of host memory (R649, R663, R475). -/
  reads : Nat := 0
  /-- Commands that run, by requester. -/
  cmds : Tbl SkCmd := []
  /-- Mailbox bytes, by mailbox × 4096 + offset (R645). -/
  box : Tbl Byte := []
  /-- Byte offset of the SMBus sideband within mailbox 20 (R650). -/
  smbOffset : Nat := 0
  /-- Agreed minor version plus 1 of each requester: function 0, function 1, SMBus as 2, remote senders as 32 + SENDER. -/
  minor : Tbl Nat := []
  /-- Snapshots of SUMMARY by requester: SNAP_ID and bytes (R664). -/
  snaps : Tbl (Nat × List Byte) := []
  snapId : Nat := 0
  /-- What waits for the scheduler, oldest first, with the event clock of its arrival (R693). -/
  waiting : List (SchedItem × Nat) := []
  /-- What waits for Skep to run again, oldest first (R24), and the units whose STATE it has yet to enter (assumption 141). -/
  todo : List SkepJob := []
  moved : List Nat := []
  /-- The 7-bit SMBus address in use (R650, R704). -/
  smbAddr : Nat := 0x4C
  /-- Subsystem Vendor ID and the Subsystem IDs of functions 0 and 1, as Skep took them from IDENT at its last start (R591, R704). -/
  subsys : Nat × Nat × Nat := (0x1D7A, 0x6480, 0x6481)
  /-- Event clocks of the last Skep resets (R672). -/
  resets : List Nat := []
  /-- Patch state (R667, R668): STATUS, COPY, active slot mask, SEQ, FW_VERSION and hash of the loaded image. -/
  patchStatus : Nat := 0
  patchCopy : Nat := 0xFF
  patchSlots : Nat := 0
  patchSeq : Nat := 0
  patchFw : Nat := 0
  patchHash : Nat := 0
  /-- The patch code area (R666), from offset 0; and what each active slot redirects (R667): SLOT, ROM_ADDR and TARGET. -/
  patchCode : List Byte := []
  patchMap : List (Nat × Nat × Nat) := []
  /-- Configuration has been released and the mailboxes accept RING (R723, R725). -/
  released : Bool := false
deriving DecidableEq, Repr

/-! ## Thermal and power (chapter 19) -/

/-- A PMBus rail (R690, R707): its code, address and PAGE, its last power in mW and its consecutive failed polls. -/
structure Rail where
  code : Nat
  addr : Nat
  page : Nat
  last : Nat := 0
  fails : Nat := 0
deriving DecidableEq, Repr

/-- The thermal and power unit beside its registers. -/
structure Therm where
  /-- TRIP_FLAG, in the always-on domain (R688, R689); THERM_TRIP# is asserted. -/
  tripFlag : Bool := false
  tripping : Bool := false
  /-- Consecutive samples of each sensor outside the range of R677. -/
  bad : Tbl Nat := []
  /-- The stop of R677 is held: fewer than 8 sensors are valid; a stack is at or above STACK_STOP (R678). -/
  held : Bool := false
  stackHot : Bool := false
  /-- Units that the data-path stop has put into FAULT (R685). -/
  stopped : List Nat := []
  rails : List Rail := []
  /-- The PMBus runs at 1 MHz; the AVS table, empty where there is none (R691). -/
  busFast : Bool := false
  avs : List Nat := []
deriving DecidableEq, Repr

/-! ## Resets and boot (chapter 21) -/

/-- The boot ladder beside its registers. -/
structure Boot where
  /-- A core supply is missing: the core power-on reset is asserted (R717). -/
  down : Bool := false
  /-- HBM training is in progress (R723, R692). -/
  training : Bool := false
  /-- Skep has begun to run since the last reset of the core (R723, R736). -/
  begun : Bool := false
  /-- IDENT has been applied, and the patch stage has ended (R725). -/
  identDone : Bool := false
  patchDone : Bool := false
deriving DecidableEq, Repr


/-! ## Non-volatile memory and event log (chapter 20) -/

/-- An event log record that waits to be written (R708): its cause, LFLAGS, suppressed count, time and data. -/
structure LogRec where
  cause : Nat
  flags : Nat
  supp : Nat
  time : Nat
  data : List Byte
deriving DecidableEq, Repr

/-- A write of a calibration group whose data stand and whose header is to come (R705): the requester, or 1024 for SAVE_GEOM; the group, its
offset; offset and length of the data; whether LEN becomes just their end; and ORIGIN before. -/
structure GroupWrite where
  who : Nat
  group : Nat
  at_ : Nat
  off : Nat
  len : Nat
  whole : Bool
  origin : Nat
deriving DecidableEq, Repr

/-- Skep's state of the MRAM beside its registers. -/
structure Nvm where
  /-- The write in progress (R701, R705). -/
  writing : Option GroupWrite := none
  /-- Cause and event clock of the records written within the last second, oldest first (R711). -/
  written : List (Nat × Nat) := []
  /-- Records that wait for the write window, oldest first, at most 64 (R711). -/
  logQ : List LogRec := []
  /-- Records dropped since the last LOG_LOST record (R711). -/
  lost : Nat := 0
  /-- Suppressed records of each cause (R711). -/
  supp : Tbl Nat := []
  /-- Cause and event clock of the records logged within the last second, oldest first (R711). -/
  recent : List (Nat × Nat) := []
  /-- Data-path stop record held in the always-on domain (R684): station time, LFLAGS (R708), positions and STOP_CNT. -/
  heldStop : Option (Nat × Nat × List Nat × Nat) := none
  /-- Counters whose write waits for the write window, with their values (R700, R713). -/
  ctr : Tbl (Option Nat) := []
deriving DecidableEq, Repr

/-! ## What the device drives outward -/

/-- An effect that leaves the device, in the order in which it was made. -/
inductive Out where
  /-- The value a read of `addr` returned. -/
  | readData (who : Who) (addr : Nat) (v : Word)
  /-- A GPIO pin driven to a level, or released to high impedance. -/
  | pin (k : Nat) (level : Option Bool)
  /-- A pass-through output of encoder channel `n` (R51). -/
  | encOut (n : Nat) (pin : EncPin) (level : Option Bool)
  /-- SSI_CLK starts the clock train of a read. -/
  | ssiClock (m : Nat) (periods : Nat)
  /-- A whole entry of the position event table, as an aligned read of 16 bytes returned it (R102). -/
  | readWords (who : Who) (addr : Nat) (vs : List Word)
  | readEntry (who : Who) (addr : Nat) (v : BitVec 128)
  /-- A station frame sent on an Ethernet port (R155): its bytes from the destination address up to the FCS. -/
  | staFrame (port : Nat) (bytes : List Byte)
  /-- A PTP message sent on an Ethernet port (R151), with the 802.1Q tag it carries (R139). -/
  | ptp (port : Nat) (tag : Option Nat) (m : PtpMsg)
  /-- A received Ethernet frame that far-end loopback sends back (R205). -/
  | ethBack (port : Nat) (f : EthFrame)
  /-- The transmitter of a lane sends, or goes to electrical idle. -/
  | laneTx (l : Nat) (sends : Bool)
  /-- Levels driven onto the balls of a lane, in 1/192 mV (R188). -/
  | levels (l : Nat) (v : List Int)
  /-- A packet sent downstream on the link at lane F, as its START block is sent. -/
  | packet (f : Nat) (p : Packet)
  /-- A TRIG block sent on the link at lane F: its 56 payload bits (R261), and t_tx in 0.25 ns after the request clock. -/
  | trig (f : Nat) (payload : Nat) (tx : Nat)
  /-- A frame shifted into chain `n`: its slots, that of the last driver first (R320). -/
  | chainFrame (n : Nat) (slots : List (BitVec 32))
  /-- A pulse on CHAIN_LATCH of chain `n`, and a level on its CHAIN_ENABLE. -/
  | chainLatch (n : Nat)
  | chainEnable (n : Nat) (level : Bool)
  /-- An MSI-X message of function `f` (R603). -/
  | msix (f : Nat) (vector : Nat) (address : Nat) (data : Nat)
  /-- Assert_INTA or Deassert_INTA of function `f` (R604). -/
  | intx (f : Nat) (assert : Bool)
  /-- A PM_PME message of function `f` (R619). -/
  | pmPme (f : Nat)
  /-- A posted write of function `f` to a bus address (R649, R554, R630), its data poisoned or not (R637). -/
  | hostWrite (f : Nat) (addr : Nat) (bytes : List Byte) (poison : Bool := false)
  /-- A memory read request of function `f`: bus address and length (R606). -/
  | hostRead (f : Nat) (addr : Nat) (len : Nat)
  /-- The completion of an inbound memory read (R597, R602): none for Unsupported Request. -/
  | cplData (f : Nat) (data : Option (List Byte)) (poison : Bool := false)
  /-- The completion of a configuration request (R591, R597, R617): 0 Successful, 1 Unsupported Request, 2 Configuration Request Retry. -/
  | cplConfig (f : Nat) (status : Nat) (v : Word)
  /-- An error message of function `f`: 0 correctable, 1 non-fatal, 2 fatal (R613). -/
  | errMsg (f : Nat) (severity : Nat)
  /-- WAKE# is asserted or released (R620); THERM_TRIP# is asserted (R689). -/
  | wake (asserted : Bool)
  | thermTrip
  /-- The port requests L1 (R621). -/
  | enterL1
  /-- The answer to a read over the SMBus sideband (R650). -/
  | smb (bytes : List Byte)
  /-- A PMBus transaction with PEC (R690): address, PAGE, command code, and the data bytes of a write. -/
  | pmbus (addr page cmd : Nat) (data : List Byte)
  /-- A read of the quad-SPI flash (R724): the command, and for 0x6B the address and the number of bytes. -/
  | spiRead (cmd addr len : Nat)
  /-- While the core is held in reset (R718): the quad-SPI chip select high, the PCI Express transmitters idle, and every output pair of a chain
  low. -/
  | spiIdle
  | pcieIdle
  | chainLow (n : Nat)
deriving DecidableEq, Repr

/-! ## PCI Express endpoint (chapter 16) -/

/-- A read of RECLAIM (R581): a header, the page table entries of a list page with `n` entries, or a part of that list. -/
inductive RcStep where
  | header
  | walk1 (page n : Nat)
  | walk2 (page n : Nat)
  | list
deriving DecidableEq, Repr

/-- What a non-posted request of the device is for: a page table read of the record at the front of a ring, the read-back of a body or of
a header, a part of a fetch list, a read of a pool's RECLAIM, a DMA descriptor (again, while parked), DMA data by offset, a DMA read-back; Skep's read-back
of a command's buffer (R649), its read of one (R663), or its read of a job image (R475), by number. -/
inductive ReqKind where
  | walk1 (ring page : Nat)
  | walk2 (ring page : Nat)
  | bodyBack (ring : Nat)
  | headBack (ring : Nat)
  | list (port gen off : Nat)
  | reclaim (pool gen : Nat) (step : RcStep)
  | dmaDesc (ch gen : Nat) (again : Bool)
  | dmaData (ch gen off : Nat)
  | dmaBack (ch gen : Nat)
  | skepBack (m id : Nat)
  | skepIn (m id : Nat)
  | image (j id : Nat)
deriving DecidableEq, Repr

/-- A memory read of the device (R605): the function on whose behalf it is issued, purpose, bus address, length and event clock of issue. -/
structure HostReq where
  fn : Nat
  kind : ReqKind
  addr : Nat
  len : Nat
  clk : Nat := 0
deriving DecidableEq, Repr

/-- What waits in the port: a read without a tag (R605), or what STRICT_ORDER holds back (R612). `strict`: the order under which it was
issued; `own`: the number, plus 1, of the DMA channel that writes, else 0. -/
inductive PortItem where
  | read (strict : Bool) (q : HostReq)
  | write (strict : Bool) (f : Nat) (o : Out) (own : Nat := 0)
deriving DecidableEq, Repr

/-- The port beside its registers. -/
structure Port where
  /-- Outstanding requests by tag, tags in quarantine (R608), and what waits, oldest first. -/
  out : Tbl (Option HostReq) := []
  quar : List Nat := []
  wait : List PortItem := []
  /-- A function-level reset is in progress (R617). -/
  flr : Tbl Bool := []
  /-- PERST# is asserted. -/
  perst : Bool := false
  /-- WAKE# is asserted, and PME_En of a function was set before the entry to D3cold (R620). -/
  wake : Bool := false
  pmeArmed : Bool := false
  /-- The DMA channel whose turn was the last to end (R638). -/
  dmaLast : Nat := 15
  /-- The BAR 2 size in force, as Resizable BAR Control codes it (R595). -/
  bar2 : Nat := 10
  /-- An Uncorrectable Internal Error has stopped the port's requests (R613). -/
  stopped : Bool := false
deriving DecidableEq, Repr

/-! ## DMA engine (chapter 17) -/

/-- A descriptor (R625). -/
structure DmaDesc where
  src : Nat
  dst : Nat
  len : Nat
  flags : Nat
  next : Nat
deriving DecidableEq, Repr

/-- A channel beside its registers: the number of its start, a descriptor read that has arrived, the descriptor in progress, the offset of
the next data request, reads in flight, data that has arrived ahead of its turn by offset, bytes written, whether it carries poison, its
read-back (arrived or not), and the chain count (R632). -/
structure DmaChan where
  gen : Nat := 0
  raw : Option (List Byte × Bool) := none
  desc : Option DmaDesc := none
  next : Nat := 0
  flight : Nat := 0
  early : List (Nat × List Byte × Bool) := []
  written : Nat := 0
  poison : Bool := false
  back : Option Bool := none
  chain : Nat := 0
deriving DecidableEq, Repr

/-! ## The machine -/

/-- The machine. -/
structure State where
  /-- Event clocks since reset. -/
  clk : Nat := 0
  /-- The number of free values used so far (the model's own field, assumption 1). -/
  free : Nat := 0
  /-- Station time in ns and its 48-bit fraction (R15). -/
  timeNs : Nat := 0
  timeFrac : Nat := 0
  /-- The register file, by offset in BAR 0 of function 0. -/
  regs : Tbl Word := []
  /-- The flags that hardware has set in this event clock, by register (R7); of a counter that a read clears, what it held before this clock's
  increments, and from bit 32 on their number. -/
  risen : Tbl Nat := []
  /-- Device memory, 48 GiB, by byte address. -/
  mem : Tbl Byte := []
  /-- The MRAM, 4 MiB, by byte offset (R698). -/
  mram : Tbl Byte := []
  units : Tbl UnitEntry := []
  swd : Sward := {}
  enc : Tbl EncChan := []
  ssi : Tbl SsiChan := []
  sw : Tbl SwIn := []
  pe : PosEngine := {}
  net : Station := {}
  /-- SAMPLE_TIME of the last accepted entry of each receive stream (R160). -/
  rxLast : Tbl Nat := []
  lanes : Tbl LaneSt := []
  /-- The PLL of a lane group is powered up (R180). -/
  pllUp : Tbl Bool := []
  /-- The PLL of a lane group has lost lock and not relocked (R179). -/
  pllLost : Tbl Bool := []
  links : Tbl Link := []
  eps : Tbl Endpoint := []
  streams : Tbl Stream := []
  /-- Endpoints that wait for enrolment, the link whose hub is being enrolled, and links that have reached UP. -/
  enrolQ : List Enrol := []
  enrolling : Option Nat := none
  upCount : Nat := 0
  /-- Members that Skep has joined to hub groups (R301). -/
  groups : List Member := []
  chains : Tbl Chain := []
  creel : Creel := {}
  cond : Cond := {}
  plait : Plait := {}
  /-- Contexts by index; a repeat cut without a context stands at a key from 2²⁰ upward until it is delivered. -/
  ctxs : Tbl Ctx := []
  /-- Contexts that have never been allocated are those from `ctxFresh` on; the others that are RETIRED wait in order, each
  with the event clock at which it retired (R491). -/
  ctxFresh : Nat := 0
  ctxQueue : List (Nat × Nat) := []
  /-- Key of the next repeat without a context. -/
  noCtxKey : Nat := 1048576
  jobs : Jobs := {}
  /-- Free candidate blocks of each view, oldest first, and the view and block that a repeat holds (R520). -/
  candFree : Tbl (List Nat) := []
  candOf : Tbl (Option (Nat × Nat)) := []
  compare : Compare := {}
  /-- Records queued for each ring, oldest first. -/
  ringQ : Tbl (List WRec) := []
  /-- Records dropped since the last RING_FULL record of a ring, and the mask of their types (R555). -/
  ringLost : Tbl (Nat × Nat) := []
  /-- REPEAT records of a repeat that have been neither issued nor dropped (R567). -/
  repeatsOut : Tbl Nat := []
  withy : Withy := {}
  port : Port := {}
  dma : Tbl DmaChan := []
  skep : Skep := {}
  nvm : Nvm := {}
  therm : Therm := {}
  boot : Boot := {}
  /-- The indirect access whose DONE is due (R744), and what it read. -/
  ind : Option (Option Word) := none
  /-- What the device has driven outward, oldest first. -/
  outs : List Out := []
  /-- The commands that wait, first in, first out. -/
  pending : List Instr := []
deriving DecidableEq, Repr

/-- The reasons a step faults. No command of this block faults: the spec gives every command an effect on every
operand. The one constructor stands for none of them and is raised by nothing (safe). -/
inductive Fault where
  /-- Raised by no meaning. -/
  | none
deriving DecidableEq, Repr

/-- The reasons a step is refused. -/
inductive Refusal where
  /-- A command that has no meaning yet, by its mnemonic; raised by the dispatch alone (safe). -/
  | notModelled (mnemonic : String)
deriving DecidableEq, Repr

/-- The MRAM as it leaves the factory (R702, R703): the headers of IDENT, SENSOR, LANE and INTERP with ORIGIN FACTORY, and the MAC addresses in IDENT. The
addresses, and that the unpublished trim data are not held, are the model's choice (assumption 88). -/
def mramFactory : Tbl Byte :=
  [(0x000, 1), (0x002, 1), (0x004, 32), (0x008, 166), (0x009, 248), (0x00A, 239), (0x00B, 103),
   (0x010, 2), (0x014, 0x64), (0x016, 2), (0x01A, 0x64), (0x01B, 1), (0x01C, 2), (0x020, 0x64), (0x021, 2), (0x022, 2), (0x026, 0x64), (0x027, 3),
   (0x100, 2), (0x102, 1), (0x200, 3), (0x202, 1), (0xA00, 4), (0xA02, 1)]

/-- The machine right after the release of the core power-on reset that follows the AON reset (R720, R723). -/
def State.reset : State := { mram := mramFactory }

end Sys2Proof.Machine
end

