-- ==== Sys2Proof/Machine/Ops.lean ====
section
/-!
DEFINITION. The named operations over the register file, the memories and the outputs. All reads and writes of the state
by the meanings pass through these.
-/
set_option Elab.async false
namespace Sys2Proof.Machine

/-! ## Bits -/

/-- Bits `lo` to `lo + w - 1` of a number. -/
def bitsOf (x lo w : Nat) : Nat := x / 2 ^ lo % 2 ^ w

/-- The number with bits `lo` to `lo + w - 1` replaced by the low bits of `v`. -/
def putBits (x lo w v : Nat) : Nat := x - bitsOf x lo w * 2 ^ lo + v % 2 ^ w * 2 ^ lo

/-- Whether bit `i` of a number is set. -/
def bitAt (x i : Nat) : Bool := x / 2 ^ i % 2 == 1

/-! ## The register file -/

/-- Reset values of the configuration space of function `f` (R591, R592, R594, R606). The layout inside a capability is that of the PCI
Express Base Specification (assumption 5). -/
def cfgReset (f off : Nat) : Word :=
  let pick := fun (a b : Word) => if f = 0 then a else b
  match off with
  | 0x00 => pick 0x64801D7A 0x64811D7A
  | 0x04 => 0x00100000
  | 0x08 => pick 0x04800011 0x08800011
  | 0x0C => 0x00800000
  | 0x10 => 0x4
  | 0x18 => pick 0xC 0
  | 0x20 => pick 0x4 0
  | 0x2C => pick 0x64801D7A 0x64811D7A
  | 0x34 => 0x40
  | 0x3C => 0x100
  -- Power Management: PME from D0, D3hot and D3cold, No_Soft_Reset (R618)
  | 0x40 => 0xC8035001
  | 0x44 => 0x8
  -- MSI-X: 2,048 and 32 vectors (R592), table and PBA (R594)
  | 0x50 => pick 0x07FF7011 0x001F7011
  | 0x54 => pick 0x4 0xF0000
  | 0x58 => pick 0x8004 0xF1000
  -- PCI Express: Flit Mode, 512-byte payloads, FLR, ASPM L1, timeout ranges B to D, 10-bit tags (R589, R606)
  | 0x70 => 0x80020010
  | 0x74 => 0x10008022
  | 0x78 => 0x2810
  | 0x7C => 0x00420906
  | 0x94 => 0x0003000E
  | 0x9C => 0x7E
  | 0xA0 => 0x6
  | 0x100 => 0x18020001
  | 0x10C => 0x00462030
  | 0x108 => 0x00400000
  | 0x114 => 0xE000
  -- ECRC generation and check (R589)
  | 0x118 => 0xA0
  | 0x180 => pick 0x1A010015 0x00010003
  | 0x184 => pick 0x001FC000 (Config.serial.setWidth 32)
  | 0x188 => pick 0x00000A22 ((Config.serial >>> 32).setWidth 32)
  | 0x1A0 => pick 0x1B010003 0
  | 0x1A4 => pick (Config.serial.setWidth 32) 0
  | 0x1A8 => pick ((Config.serial >>> 32).setWidth 32) 0
  | 0x1B0 => pick 0x20010019 0
  | 0x200 => pick 0x21010025 0
  | 0x204 => pick 0x80000001 0
  | 0x210 => pick 0x26010026 0
  | 0x260 => pick 0x2A01002A 0
  | 0x2A0 => pick 0x2C010031 0
  | 0x2C0 => pick 0x00010027 0
  | _ => 0

/-- Reset values that depend on the index (R54, R104, R107, R153, R352, R734), or that stand after the AON reset (R731). -/
def regReset (a : Nat) : Word :=
  if 0xA01000 ≤ a ∧ a < 0xA03000 ∧ a % 0x20 = 0 then
    -- CH_CFG: EN 1, and the owner and attribute of R107
    let c := (a - 0xA01000) / 0x20
    if 32 ≤ c ∧ c < 48 then 0xB else if 48 ≤ c ∧ c < 56 then 0xD else 0x1
  else if 0x900000 ≤ a ∧ a < 0x900800 ∧ a % 0x100 = 4 then
    BitVec.ofNat 32 ((a - 0x900000) / 0x100 * 16)
  else if 0x801000 ≤ a ∧ a < 0x801200 ∧ a % 0x40 = 0 then
    BitVec.ofNat 32 (0xC0 + (a - 0x801000) / 0x40 * 8)
  else if 0xB01000 ≤ a ∧ a < 0xB05000 ∧ a % 0x800 = 0x3C then
    BitVec.ofNat 32 (0x130 + (a - 0xB01000) / 0x800)
  else if 0x1201000 ≤ a ∧ a < 0x1201400 ∧ a % 0x100 = 0x10 then 38400
  else if 0x1201000 ≤ a ∧ a < 0x1201400 ∧ a % 0x100 = 0x14 then 52800
  else if a = R.RESET_CAUSE then 0x3
  else if a = R.GREV then (if Config.grade then 0x111 else 0x11)
  else if a = R.SERIAL_LO then Config.serial.setWidth 32
  else if a = R.SERIAL_HI then (Config.serial >>> 32).setWidth 32
  else if a = R.ROM_ID then Config.romId
  else if 0x5000000 ≤ a then
    -- the configuration spaces and MSI-X tables, which the model keeps above BAR 0 (R591, R592; assumption 5)
    if a < 0x5002000 then cfgReset (a / 0x1000 % 2) (a % 0x1000)
    else if 0x5100000 ≤ a ∧ a < 0x5120000 ∧ a % 16 = 12 then 0x1
    else 0
  else match regRow? a with
    | some r => BitVec.ofNat 32 r.reset
    | none => 0

/-- The value held in the register at `a`. -/
def State.reg (s : State) (a : Nat) : Word := Tbl.get (regReset a) s.regs a

/-- The state with the register at `a` holding `v`. -/
def State.setReg (s : State) (a : Nat) (v : Word) : State := { s with regs := Tbl.put (regReset a) s.regs a v }

/-- The value of a field. -/
def State.get (s : State) (f : Fld) : Nat := bitsOf (s.reg f.addr).toNat f.lo f.w

/-- Whether a field is not 0. -/
def State.on (s : State) (f : Fld) : Bool := s.get f != 0

/-- The value of a field read as a two's-complement number. -/
def State.getInt (s : State) (f : Fld) : Int := signed f.w (s.get f)

/-- The state with a field set to the low bits of `v`; the other bits of the register stay. -/
def State.set (s : State) (f : Fld) (v : Nat) : State :=
  s.setReg f.addr (BitVec.ofNat 32 (putBits (s.reg f.addr).toNat f.lo f.w v))

/-- The state with a field set to the two's-complement pattern of `v`. -/
def State.setInt (s : State) (f : Fld) (v : Int) : State := s.set f (unsigned f.w v)

/-- The flags of the register at `a` that hardware has set in this event clock (R7). -/
def State.risenOf (s : State) (a : Nat) : Nat := Tbl.get 0 s.risen a

/-- Hardware has set the flags `m` of the register at `a` in this event clock (R7). -/
def State.note (s : State) (a m : Nat) : State := { s with risen := Tbl.put 0 s.risen a (s.risenOf a ||| m) }

/-- The flags `m` of a field set by hardware: a write of 1 in the same event clock does not clear them (R7). -/
def State.raiseBits (s : State) (f : Fld) (m : Nat) : State := (s.set f (s.get f ||| m)).note f.addr (m * 2 ^ f.lo)

/-- The state with a flag set by hardware (R7). -/
def State.raise (s : State) (f : Fld) : State := (s.set f 1).note f.addr (2 ^ f.lo)

/-- The state with a field cleared. -/
def State.clear (s : State) (f : Fld) : State := s.set f 0

/-- The state with a flag set to `b`. -/
def State.setFlag (s : State) (f : Fld) (b : Bool) : State := s.set f b.toNat

/-- A wrapping counter plus `n`. -/
def State.bump (s : State) (f : Fld) (n : Nat := 1) : State := s.set f (s.get f + n)

/-- The bits of a register that a read clears (R5). -/
def rcBits (a : Nat) : Nat := match regRow? a with | some r => r.rc | none => 0

/-- What the counter at `a` held before the increments of this event clock, and their number (R7). -/
def State.rcWas (s : State) (a : Nat) : Nat × Nat :=
  if s.risenOf a = 0 then ((s.reg a).toNat, 0) else (s.risenOf a % 2 ^ 32, s.risenOf a / 2 ^ 32)

/-- The counter at `a`, if a read clears it, held `v` before the increments of this event clock, which are `n` (R7). -/
def State.rcNote (s : State) (a v n : Nat) : State :=
  { s with risen := if rcBits a = 0 then s.risen else Tbl.put 0 s.risen a (v + n * 2 ^ 32) }

/-- A saturating counter plus `n`; the increments of a counter that a read clears are counted for a read in the same event clock (R7). -/
def State.bumpSat (s : State) (f : Fld) (n : Nat := 1) : State :=
  (s.set f (min (s.get f + n) (2 ^ f.w - 1))).rcNote f.addr (s.rcWas f.addr).1 ((s.rcWas f.addr).2 + n)

/-- A high-water field raised to `v` if `v` lies above it. -/
def State.setMax (s : State) (f : Fld) (v : Nat) : State := if s.get f < v then s.set f v else s

/-- The value of a pair of fields, low field first. -/
def State.get2 (s : State) (lo hi : Fld) : Nat := s.get lo + s.get hi * 2 ^ lo.w

/-- The state with a pair of fields set. -/
def State.set2 (s : State) (lo hi : Fld) (v : Nat) : State := (s.set lo v).set hi (v / 2 ^ lo.w)

/-- A software write (R5, R6): bits of `rw` take the value, bits of `w1c` written as 1 clear, all other bits stay. -/
def maskedWrite (rw w1c : Nat) (old v : Word) : Word :=
  (old &&& ~~~(BitVec.ofNat 32 rw ||| (v &&& BitVec.ofNat 32 w1c))) ||| (v &&& BitVec.ofNat 32 rw)

/-- A software write of a register of the map. -/
def RegRow.write (r : RegRow) (old v : Word) : Word := maskedWrite r.rw r.w1c old v

/-- What a software write of the register at `a` may change: a flag that hardware has set in this event clock is not cleared (R7). -/
def State.writable (s : State) (a : Nat) (v : Word) : Word :=
  match regRow? a with
  | some r => v &&& ~~~(BitVec.ofNat 32 (s.risenOf a) &&& BitVec.ofNat 32 r.w1c)
  | none => v

/-- The state after a software write of the register at `a`; an address without a register ignores it (R596). -/
def State.writeReg (s : State) (a : Nat) (v : Word) : State :=
  match regRow? a with
  | some r => s.setReg a (r.write (s.reg a) (s.writable a v))
  | none => s

/-! ## Resetting registers -/

/-- The state in which every register from `lo` up to but not including `hi` holds its reset value. -/
def State.resetRegs (s : State) (lo hi : Nat) : State :=
  { s with regs := s.regs.filter fun e => decide (e.1 < lo ∨ hi ≤ e.1), risen := s.risen.filter fun e => decide (e.1 < lo ∨ hi ≤ e.1) }

/-! ## Memories -/

/-- A byte of device memory; zero-fill at boot gives every byte 0 (R390). -/
def State.byte (s : State) (a : Nat) : Byte := Tbl.get 0 s.mem a

/-- The state with a byte of device memory written. -/
def State.setByte (s : State) (a : Nat) (b : Byte) : State := { s with mem := Tbl.put 0 s.mem a b }

/-- The canonical form of the device memory. -/
def Memory.wf (m : Tbl Byte) : Bool := Tbl.wf (fun _ => 0) m

/-- `n` bytes of device memory from `a`. -/
def State.bytes (s : State) (a n : Nat) : List Byte := (List.range n).map fun i => s.byte (a + i)

/-- The state with bytes written from `a` upward. -/
def State.setBytes (s : State) (a : Nat) : List Byte → State
  | [] => s
  | b :: bs => (s.setByte a b).setBytes (a + 1) bs

/-- A byte of the MRAM; an unlisted byte reads 0 (assumption 4). -/
def State.nvByte (s : State) (a : Nat) : Byte := Tbl.get 0 s.mram a

/-- The state with a byte of the MRAM written. -/
def State.setNvByte (s : State) (a : Nat) (b : Byte) : State := { s with mram := Tbl.put 0 s.mram a b }

/-- `n` bytes of the MRAM from `a`. -/
def State.nvBytes (s : State) (a n : Nat) : List Byte := (List.range n).map fun i => s.nvByte (a + i)

/-- The state with bytes of the MRAM written from `a` upward. -/
def State.setNvBytes (s : State) (a : Nat) : List Byte → State
  | [] => s
  | b :: bs => (s.setNvByte a b).setNvBytes (a + 1) bs

/-- A little-endian number of bytes (R4). -/
def leNat : List Byte → Nat
  | [] => 0
  | b :: bs => b.toNat + 256 * leNat bs

/-- The `n` little-endian bytes of a number (R4). -/
def leBytes : Nat → Nat → List Byte
  | 0, _ => []
  | n + 1, x => BitVec.ofNat 8 x :: leBytes n (x / 256)

/-- Bytes `off` to `off + n - 1` of a list, read little-endian; bytes beyond the list read 0. -/
def leAt (bs : List Byte) (off n : Nat) : Nat := leNat ((bs.drop off).take n)

/-- A list of bytes cut or filled with zeros to length `n`. -/
def padTo (n : Nat) (bs : List Byte) : List Byte := (bs ++ List.replicate n 0).take n

/-! ## Outputs and free values -/

/-- The state with an outward effect appended. -/
def State.emit (s : State) (o : Out) : State := { s with outs := s.outs ++ [o] }

/-- The next free value, `w` bits wide (assumption 1). -/
def State.freeVal (s : State) (w : Nat) : Nat := (Config.freeBits w s.free).toNat

/-- The state after one free value has been used. -/
def State.useFree (s : State) : State := { s with free := s.free + 1 }

/-- The state with a field set to a free value. -/
def State.setFree (s : State) (f : Fld) : State := (s.set f (s.freeVal f.w)).useFree

/-! ## Folding over numbered things -/

/-- `f 0`, then `f 1`, up to `f (n - 1)`, each on the state the one before left. -/
def State.forEach (s : State) (n : Nat) (f : Nat → State → State) : State :=
  (List.range n).foldl (fun t i => f i t) s

/-- `f` for each member of a list, in its order. -/
def State.forList {α : Type} (s : State) (l : List α) (f : α → State → State) : State :=
  l.foldl (fun t x => f x t) s

/-- `f` when a condition holds. -/
def State.when (s : State) (b : Bool) (f : State → State) : State := if b then f s else s

end Sys2Proof.Machine
end

