-- ==== Sys2Proof/Machine/Operands.lean ====
section
/-!
DEFINITION. The operand forms that many commands share: position words and their comparison (R9), selectors (R117), tags
(R12), and registers that come in pairs.
-/
set_option Elab.async false
namespace Sys2Proof.Machine

/-! ## Position words -/

/-- A number modulo 2⁵⁶. -/
def posMod (x : Int) : Nat := unsigned 56 x

/-- The signed 56-bit difference of two position words (R9); the value −2⁵⁵ counts as before. -/
def posDiff (a b : Nat) : Int := signed 56 (posMod ((a : Int) - (b : Int)))

/-- `a` is after `b` (R9). -/
def posAfter (a b : Nat) : Bool := decide (0 < posDiff a b)

/-- `a` is before `b` (R9). -/
def posBefore (a b : Nat) : Bool := decide (posDiff a b < 0)

/-- The signed 64-bit difference of two station times (R11). -/
def timeDiff (a b : Nat) : Int := signed 64 (unsigned 64 ((a : Int) - (b : Int)))

/-! ## Selectors -/

/-- A selector field (R117): the register, and the lowest bit of the nine. -/
abbrev Sel := Fld

/-- A selector field as it is in force: a write in this event clock takes effect from the next (R117). -/
def State.selGet (s : State) (f : Sel) : Nat :=
  match Tbl.get none s.swd.selPrev f.addr with
  | some (x, _) => bitsOf x.toNat f.lo f.w
  | none => s.get f

/-- The channel a selector names, when it is enabled (R117). -/
def State.selCh? (s : State) (f : Sel) : Option Nat :=
  let x := s.selGet f
  if bitAt x 8 then some (x % 256) else none

/-! ## Skep -/

/-- Skep runs: neither halted nor restarting (R24, R674). -/
def State.skepRuns (s : State) : Bool := s.get R.SKEP_STATUS_STATE == 0 && !s.boot.down

/-! ## Tags -/

/-- A tag (R12). -/
def mkTag (slot lane epoch seq ctx : Nat) : Nat :=
  slot % 64 * 2 ^ 58 + lane % 64 * 2 ^ 52 + epoch % 256 * 2 ^ 44 + seq % 2 ^ 24 * 2 ^ 20 + ctx % 2 ^ 20

/-! ## Searches -/

/-- The largest number below `2 ^ bits` above `lo` for which a falling test holds, where it holds at `lo`. -/
def bisect (test : Nat → Bool) : Nat → Nat → Nat
  | 0, lo => lo
  | b + 1, lo => bisect test b (if test (lo + 2 ^ b) then lo + 2 ^ b else lo)

/-- The whole part of a square root. -/
def sqrtFloor (x : Nat) : Nat := bisect (fun k => decide (k * k ≤ x)) (x.log2 / 2 + 1) 0

/-! ## Per-block records -/

def State.encOf (s : State) (n : Nat) : EncChan := Tbl.get {} s.enc n
def State.setEnc (s : State) (n : Nat) (c : EncChan) : State := { s with enc := Tbl.put {} s.enc n c }
def State.ssiOf (s : State) (m : Nat) : SsiChan := Tbl.get {} s.ssi m
def State.setSsi (s : State) (m : Nat) (c : SsiChan) : State := { s with ssi := Tbl.put {} s.ssi m c }
def State.swOf (s : State) (k : Nat) : SwIn := Tbl.get {} s.sw k
def State.setSw (s : State) (k : Nat) (c : SwIn) : State := { s with sw := Tbl.put {} s.sw k c }
def State.srcOf (s : State) (n : Nat) : PosSrc := Tbl.get {} s.pe.src n
def State.setSrc (s : State) (n : Nat) (c : PosSrc) : State :=
  { s with pe := { s.pe with src := Tbl.put {} s.pe.src n c } }
def State.viewPosOf (s : State) (v : Nat) : PosView := Tbl.get {} s.pe.view v
def State.setViewPos (s : State) (v : Nat) (c : PosView) : State :=
  { s with pe := { s.pe with view := Tbl.put {} s.pe.view v c } }
def State.slotOf (s : State) (i : Nat) : Slot := Tbl.get {} s.pe.slots i
def State.setSlot (s : State) (i : Nat) (c : Slot) : State :=
  { s with pe := { s.pe with slots := Tbl.put {} s.pe.slots i c } }
def State.laneOf (s : State) (l : Nat) : LaneSt := Tbl.get {} s.lanes l
def State.setLane (s : State) (l : Nat) (x : LaneSt) : State := { s with lanes := Tbl.put {} s.lanes l x }
def State.unitOf (s : State) (u : Nat) : UnitEntry := Tbl.get {} s.units u
def State.setUnit (s : State) (u : Nat) (e : UnitEntry) : State := { s with units := Tbl.put {} s.units u e }
def State.fifoOf (s : State) (c : Nat) : List Req := Tbl.get [] s.swd.fifo c
def State.setFifo (s : State) (c : Nat) (q : List Req) : State :=
  ({ s with swd := { s.swd with fifo := Tbl.put [] s.swd.fifo c q } }).set (R.SWD_CH_STATUS_LEVEL c) q.length

/-- The present position word of source `n`. -/
def State.srcPos (s : State) (n : Nat) : Nat := (s.srcOf n).pos

/-- The present position word of view `v` (R77). -/
def State.viewPos (s : State) (v : Nat) : Nat := (s.viewPosOf v).acc / 2 ^ 24

end Sys2Proof.Machine
end

