-- ==== Sys2Proof/Machine/Port.lean ====
section
/-!
DEFINITION. The port's requests toward the host (R605 to R612): tags, quarantine, and the order in which a function's requests leave.
The configuration spaces stand in the register file at 0x0500_0000 + f × 0x1000, the MSI-X tables at 0x0510_0000 + f × 0x1_0000 and the
pending bits at 0x0520_0000 + f × 0x1000: addresses of the model's own, above BAR 0 (assumption 5).
-/
set_option Elab.async false
namespace Sys2Proof.Machine

namespace Cfg
abbrev base (f : Nat) : Nat := 0x5000000 + f * 0x1000
/-- Command register. -/
abbrev MSE (f : Nat) : Fld := ⟨base f + 0x04, 1, 1⟩
abbrev BME (f : Nat) : Fld := ⟨base f + 0x04, 2, 1⟩
abbrev INT_DIS (f : Nat) : Fld := ⟨base f + 0x04, 10, 1⟩
abbrev INT_STATUS (f : Nat) : Fld := ⟨base f + 0x04, 19, 1⟩
abbrev SUBSYS_VENDOR (f : Nat) : Fld := ⟨base f + 0x2C, 0, 16⟩
abbrev SUBSYS_ID (f : Nat) : Fld := ⟨base f + 0x2C, 16, 16⟩
/-- Power Management Control and Status. -/
abbrev PM_STATE (f : Nat) : Fld := ⟨base f + 0x44, 0, 2⟩
abbrev PME_EN (f : Nat) : Fld := ⟨base f + 0x44, 8, 1⟩
abbrev PME_STATUS (f : Nat) : Fld := ⟨base f + 0x44, 15, 1⟩
/-- MSI-X Message Control. -/
abbrev MSIX_EN (f : Nat) : Fld := ⟨base f + 0x50, 31, 1⟩
abbrev MSIX_MASK (f : Nat) : Fld := ⟨base f + 0x50, 30, 1⟩
/-- Device Control, Link Control and Device Control 2. -/
abbrev MRRS (f : Nat) : Fld := ⟨base f + 0x78, 12, 3⟩
abbrev FLR (f : Nat) : Fld := ⟨base f + 0x78, 15, 1⟩
abbrev ASPM (f : Nat) : Fld := ⟨base f + 0x80, 0, 2⟩
abbrev CPL_TIMEOUT (f : Nat) : Fld := ⟨base f + 0x98, 0, 4⟩
abbrev TAG10 (f : Nat) : Fld := ⟨base f + 0x98, 12, 1⟩
/-- AER Uncorrectable and Correctable Error Status. -/
abbrev UNCOR (f : Nat) : Fld := ⟨base f + 0x104, 0, 32⟩
abbrev COR (f : Nat) : Fld := ⟨base f + 0x110, 0, 32⟩
/-- Device Control and Status, and the AER severity and mask registers. -/
abbrev DEV_CTL (f : Nat) : Nat := base f + 0x78
abbrev UNCOR_MASK (f : Nat) : Fld := ⟨base f + 0x108, 0, 32⟩
abbrev UNCOR_SEV (f : Nat) : Fld := ⟨base f + 0x10C, 0, 32⟩
abbrev COR_MASK (f : Nat) : Fld := ⟨base f + 0x114, 0, 32⟩
/-- Link Status: speed and width. -/
abbrev LINK_SPEED (f : Nat) : Fld := ⟨base f + 0x80, 16, 4⟩
abbrev LINK_WIDTH (f : Nat) : Fld := ⟨base f + 0x80, 20, 6⟩
/-- Resizable BAR control of function 0: BAR Size. -/
abbrev BAR2_SIZE : Fld := ⟨base 0 + 0x188, 8, 6⟩
/-- MSI-X table entry `v` of function `f`: address, data and mask; and its pending bit. -/
abbrev MSIX_ADDR_LO (f v : Nat) : Fld := ⟨0x5100000 + f * 0x10000 + v * 16, 0, 32⟩
abbrev MSIX_ADDR_HI (f v : Nat) : Fld := ⟨0x5100004 + f * 0x10000 + v * 16, 0, 32⟩
abbrev MSIX_DATA (f v : Nat) : Fld := ⟨0x5100008 + f * 0x10000 + v * 16, 0, 32⟩
abbrev MSIX_VMASK (f v : Nat) : Fld := ⟨0x510000C + f * 0x10000 + v * 16, 0, 1⟩
abbrev MSIX_PEND (f v : Nat) : Fld := ⟨0x5200000 + f * 0x1000 + v / 32 * 4, v % 32, 1⟩
end Cfg

/-- A function may issue requests: the link is up, Bus Master Enable is set, the function is in D0, and no internal error has stopped the port
(R580, R613, R618, R639). -/
def State.portRun (s : State) (f : Nat) : Bool :=
  s.on R.PCIE_LINK_UP && s.on (Cfg.BME f) && s.get (Cfg.PM_STATE f) == 0 && !s.port.stopped

/-- STRICT_ORDER of a function (R612). -/
def State.strict (s : State) (f : Nat) : Bool := if f = 0 then s.on R.PCIE_CTRL_STRICT_ORDER_0 else s.on R.PCIE_CTRL_STRICT_ORDER_1

/-- A request serves Withy (R605). -/
def ReqKind.withy : ReqKind → Bool
  | .walk1 _ _ | .walk2 _ _ | .bodyBack _ | .headBack _ | .list _ _ _ | .reclaim _ _ _ => true
  | .dmaDesc _ _ _ | .dmaData _ _ _ | .dmaBack _ _ | .skepBack _ _ | .skepIn _ _ | .image _ _ => false

def PortItem.fn : PortItem → Nat
  | .read _ q => q.fn
  | .write _ f _ _ => f

/-- The item was issued under STRICT_ORDER (R612). -/
def PortItem.strict : PortItem → Bool
  | .read b _ => b
  | .write b _ _ _ => b

/-- The item is no read request. -/
def PortItem.posted : PortItem → Bool
  | .read _ _ => false
  | .write _ _ _ _ => true

/-- An output is a request of the function, which may leave only while the function may issue requests (R603, R618): a posted write, an MSI-X
message among them. -/
def Out.request : Out → Bool
  | .hostWrite _ _ _ _ | .msix _ _ _ _ => true
  | _ => false

/-- A completion of an inbound memory read: it never passes an earlier posted write of its function (R610). -/
def Out.dataCpl : Out → Bool
  | .cplData _ _ _ | .readData _ _ _ | .readWords _ _ _ | .readEntry _ _ _ => true
  | _ => false

/-- An output waits behind an earlier posted write of its function even while the function may issue no request (R610; assumption 83). -/
def Out.inOrder (o : Out) : Bool := o.request || o.dataCpl

/-- A non-posted request of the function is outstanding. -/
def State.portBusy (s : State) (f : Nat) : Bool :=
  s.port.out.any fun e => match e.2 with | some q => q.fn == f | none => false

/-- The tag limit in force for a function (R605). -/
def State.tagLimit (s : State) (f : Nat) : Nat := min (s.get R.TAG_LIMIT_LIMIT) (if s.on (Cfg.TAG10 f) then 1024 else 256)

/-- A tag for a request, if one is free to its requester (R605, R608): the lowest. -/
def State.freeTag (s : State) (q : HostReq) : Option Nat :=
  let used := s.port.out.length + s.port.quar.length
  let keep := if q.kind.withy then 0 else s.get R.TAG_LIMIT_WITHY_RSV
  if used + keep < s.tagLimit q.fn then
    (List.range (if s.on (Cfg.TAG10 q.fn) then 1024 else 256)).find? fun t =>
      !s.port.quar.contains t && (Tbl.get none s.port.out t).isNone
  else none

/-- The port's queues are replaced; TAG_STATUS follows. -/
def State.setPort (s : State) (p : Port) : State :=
  (({ s with port := p }).set R.TAG_STATUS_IN_USE p.out.length).set R.TAG_STATUS_QUARANTINED p.quar.length

/-- A TLP is queued: the link leaves L1 (R621). -/
def State.l1Exit (s : State) : State := if s.on R.PCIE_LINK_L1 then s.clear R.PCIE_LINK_L1 else s

/-- A message or completion leaves, unless STRICT_ORDER (R612) or a posted write of the function that waits before it holds it back (R603,
R610). An MSI-X message also waits while the function may issue no request. -/
def State.portMsg (s : State) (f : Nat) (o : Out) : State :=
  let s := s.l1Exit
  if s.strict f && (s.portBusy f || s.port.wait.any fun i => i.fn == f) || (s.portRun f || o.inOrder) && s.port.wait.any (fun i => i.fn == f && i.posted) ||
      o.request && !s.portRun f then
    s.setPort { s.port with wait := s.port.wait ++ [.write (s.strict f) f o] }
  else s.emit o

/-- The read of a DMA descriptor copies APPEND_CNT into SEEN_CNT as it is issued (R634). -/
def State.seenCopy (s : State) (k : ReqKind) : State :=
  match k with
  | .dmaDesc n _ _ => s.set (R.SEEN_CNT_CNT (n % 16)) (s.get (R.APPEND_CNT_CNT (n % 16)))
  | _ => s

/-- A read request leaves with its tag. -/
def State.issue (s : State) (tag : Nat) (q : HostReq) : State :=
  let s := s.seenCopy q.kind
  (s.setPort { s.port with out := Tbl.put none s.port.out tag (some { q with clk := s.clk }) }).emit (.hostRead q.fn q.addr q.len)

/-- What waits leaves as far as it may, in order: an item is held back by its function being suspended, by the STRICT_ORDER under which it was
issued, by a lack of tags, and by an earlier write of its function (R605, R610, R612). -/
def portGo : List PortItem → List PortItem → State → State
  | [], kept, s => s.setPort { s.port with wait := kept }
  | i :: t, kept, s =>
    let ordered := i.strict && (s.portBusy i.fn || kept.any fun k => k.fn == i.fn)
    let behind := kept.any fun k => k.posted && k.fn == i.fn
    match i with
    | .write _ f o _ => if ordered || behind && (o.inOrder || s.portRun f) || (o.request && !s.portRun f) then portGo t (kept ++ [i]) s else portGo t kept (s.emit o)
    | .read _ q =>
      match if ordered || behind || !s.portRun q.fn then none else s.freeTag q with
      | some tag =>
        portGo t kept (s.issue tag q)
      | none => portGo t (kept ++ [i]) s

def State.portPump (s : State) : State := portGo s.port.wait [] s

/-- A posted write of a function (R610), of the DMA channel whose number plus 1 is `own`. -/
def State.portWrite (s : State) (f addr : Nat) (bs : List Byte) (poison : Bool := false) (own : Nat := 0) : State :=
  (s.l1Exit.setPort { s.port with wait := s.port.wait ++ [.write (s.strict f) f (.hostWrite f addr bs poison) own] }).portPump

/-- A memory read of a function. -/
def State.portRead (s : State) (f : Nat) (kind : ReqKind) (addr len : Nat) : State :=
  (s.l1Exit.setPort { s.port with wait := s.port.wait ++ [.read (s.strict f) ⟨f, kind, addr, len, 0⟩] }).portPump

/-- A request ends. `quarantine`: the tag is not given out again yet (R608). -/
def State.portEnd (s : State) (tag : Nat) (quarantine : Bool) : State :=
  (s.setPort { s.port with
    out := Tbl.put none s.port.out tag none
    quar := if quarantine then s.port.quar ++ [tag] else s.port.quar })

/-- Max_Read_Request_Size of a function, in bytes. -/
def State.mrrs (s : State) (f : Nat) : Nat := 128 * 2 ^ min 5 (s.get (Cfg.MRRS f))

/-- A read request is cut at the length limit and at 4 KiB boundaries: offset and length of each part. `fuel` bounds the parts. -/
def cutReads (size : Nat) : Nat → Nat → Nat → Nat → List (Nat × Nat)
  | 0, _, _, _ => []
  | fuel + 1, addr, off, len =>
    if len = 0 then []
    else
      let n := min (min size len) (4096 - addr % 4096)
      (off, n) :: cutReads size fuel (addr + n) (off + n) (len - n)

/-! ## Errors and inbound requests (R597, R613) -/

/-- The state with the bits of a mask set in a field. -/
def State.orIn (s : State) (x : Fld) (m : Nat) : State := s.set x (s.get x ||| m)

/-- An uncorrectable error of function `f` by its AER bit: the status bits, and an error message as Device Control and the AER masks allow
(R613). An advisory error of default severity is reported as correctable. -/
def State.aer (s : State) (f bit : Nat) (advisory : Bool := false) : State :=
  let ctl := (s.reg (Cfg.DEV_CTL f)).toNat
  let fatal := bitAt (s.get (Cfg.UNCOR_SEV f)) bit
  let status : Fld := ⟨Cfg.DEV_CTL f, 16, 4⟩
  let s := s.orIn (Cfg.UNCOR f) (2 ^ bit)
  let s := if bit = 20 then s.orIn status 8 else s
  if advisory && !fatal then
    let s := (s.orIn (Cfg.COR f) 0x2000).orIn status 1
    if bitAt ctl 0 && !bitAt (s.get (Cfg.COR_MASK f)) 13 && !bitAt (s.get (Cfg.UNCOR_MASK f)) bit then s.portMsg f (.errMsg f 0) else s
  else
    let s := s.orIn status (if fatal then 4 else 2)
    let allowed := bitAt ctl (if fatal then 2 else 1) || bitAt (s.reg (Cfg.base f + 4)).toNat 8
    if allowed && !bitAt (s.get (Cfg.UNCOR_MASK f)) bit && (bit != 20 || bitAt ctl 3 || bitAt (s.reg (Cfg.base f + 4)).toNat 8) then
      s.portMsg f (.errMsg f (if fatal then 2 else 1))
    else s

/-- A correctable error of function `f` by its AER bit (R613). -/
def State.aerCor (s : State) (f bit : Nat) : State :=
  let s := (s.orIn (Cfg.COR f) (2 ^ bit)).orIn ⟨Cfg.DEV_CTL f, 16, 4⟩ 1
  if bitAt (s.reg (Cfg.DEV_CTL f)).toNat 0 && !bitAt (s.get (Cfg.COR_MASK f)) bit then s.portMsg f (.errMsg f 0) else s

abbrev aerPoisoned : Nat := 12
abbrev aerTimeout : Nat := 14
abbrev aerUnexpected : Nat := 16
abbrev aerEcrc : Nat := 19
abbrev aerUnsupported : Nat := 20
abbrev aerInternal : Nat := 22

/-- A memory request ends as an Unsupported Request (R597): a read is completed so, a write is dropped. -/
def State.unsupported (s : State) (f : Nat) (write : Bool) : State :=
  let s := (s.bumpSat R.UR_CNT_CNT).aer f aerUnsupported write
  if write then s else s.portMsg f (.cplData f none)

/-- A memory request reaches the function: it is not in D3hot (R597). -/
def State.memAccess (s : State) (f : Nat) : Bool := s.get (Cfg.PM_STATE f) != 3

/-- The function of a requester's memory requests. -/
def fnOf : Who → Option Nat
  | .fn0 => some 0
  | .fn1 => some 1
  | .skep => none

/-- A requester's accesses reach the registers as things stand: its function is not in D3hot (R597), and the link has no L1 to leave
(R621). -/
def State.hears (s : State) (who : Who) : Bool :=
  !s.boot.down && match fnOf who with
  | some f => s.memAccess f && !s.on R.PCIE_LINK_L1
  | none => true

/-- An access of a register by a requester: through a function it brings the link out of L1 (R621), and a function in D3hot answers it as
unsupported (R597). None reaches the registers while the core power-on reset is asserted (R717). -/
def State.viaBus (s : State) (who : Who) (f : State → State) (write : Bool := true) : State :=
  if s.boot.down then s
  else match fnOf who with
  | some n => if s.memAccess n then f s.l1Exit else s.l1Exit.unsupported n write
  | none => f s

/-- A read is answered: through a function by a completion (R612). -/
def State.readAnswer (s : State) (who : Who) (o : Out) : State :=
  match fnOf who with
  | some n => s.portMsg n o
  | none => s.emit o

end Sys2Proof.Machine
end

