-- ==== Sys2Proof/Machine/Flags.lean ====
section
/-!
DEFINITION. Status flags and interrupts: the configuration-space fields that govern interrupts, MSI-X and INTA (R603,
R604), and the aggregated interrupt of each function (R737 to R739).
-/
set_option Elab.async false
namespace Sys2Proof.Machine

/-- Vectors of the MSI-X table of function `f` (R592). -/
def msixSize (f : Nat) : Nat := if f = 0 then 2048 else 32

/-- Function `f` signals vector `v`: a posted write, or its pending bit while the vector is masked (R603). -/
def State.msix (s : State) (f v : Nat) : State :=
  if s.on (Cfg.MSIX_EN f) && decide (v < msixSize f) then
    if s.on (Cfg.MSIX_MASK f) || s.on (Cfg.MSIX_VMASK f v) then s.raise (Cfg.MSIX_PEND f v)
    else s.portMsg f (.msix f v (s.get2 (Cfg.MSIX_ADDR_LO f v) (Cfg.MSIX_ADDR_HI f v)) (s.get (Cfg.MSIX_DATA f v)))
  else s

/-- The aggregated interrupt of function `f` is pending (R738). -/
def State.aggPending (s : State) (f : Nat) : Bool :=
  (s.reg (R.GIRQ_STATUS f) &&& s.reg (R.GIRQ_ENABLE f)) != 0

/-- INTA follows the aggregated interrupt while MSI-X and Interrupt Disable allow (R604). `wasOn`: INTA was asserted. -/
def State.inta (s : State) (f : Nat) (wasOn : Bool) : State :=
  let on := s.aggPending f && !s.on (Cfg.MSIX_EN f) && !s.on (Cfg.INT_DIS f)
  let s := s.setFlag (Cfg.INT_STATUS f) (s.aggPending f)
  if on && !wasOn then s.portMsg f (.intx f true)
  else if !on && wasOn then s.portMsg f (.intx f false)
  else s

/-- Whether INTA of function `f` is asserted (R604). -/
def State.intaOn (s : State) (f : Nat) : Bool :=
  s.aggPending f && !s.on (Cfg.MSIX_EN f) && !s.on (Cfg.INT_DIS f)

/-- Sending the aggregated interrupt of function `f` (R738): its vector, or VEC_REJ for a vector that the table does not
hold; and in D3hot with PME_En, PME_Status and a PM_PME message (R619). -/
def State.aggSend (s : State) (f : Nat) : State :=
  let s :=
    if s.on (Cfg.MSIX_EN f) then
      if s.get (R.GIRQ_VECTOR_AGG_VECTOR f) < msixSize f then s.msix f (s.get (R.GIRQ_VECTOR_AGG_VECTOR f))
      else s.raise (R.GIRQ_VECTOR_VEC_REJ f)
    else s
  if s.get (Cfg.PM_STATE f) = 3 && s.on (Cfg.PME_EN f) && !s.on (Cfg.PME_STATUS f) then
    (s.raise (Cfg.PME_STATUS f)).portMsg f (.pmPme f)
  else s

/-- After `s` became `t`, the aggregated interrupt of function `f` is sent if it became pending, and INTA follows. -/
def State.aggUpdate (t : State) (f : Nat) (s : State) : State :=
  let t := if t.aggPending f && !s.aggPending f then t.aggSend f else t
  t.inta f (s.intaOn f)

/-- A source bit of GIRQ_STATUS of function `f` is set (R737). -/
def State.girq (s : State) (f : Nat) (b : Fld) : State := (s.raise b).aggUpdate f s

/-- A source bit of both functions is set (R737). -/
def State.girqBoth (s : State) (b : Nat → Fld) : State := (s.girq 0 (b 0)).girq 1 (b 1)

/-- The SWARD source is the level of the watched flags (R124, R737). -/
def State.girqSward (s : State) : State :=
  let lvl := (List.range 8).any fun i => (s.reg (R.WATCH i) &&& s.reg (R.WATCH_IRQ_EN i)) != 0
  let s' := s.setFlag (R.GIRQ_STATUS_SWARD 0) lvl
  let s' := s'.aggUpdate 0 s
  let s'' := s'.setFlag (R.GIRQ_STATUS_SWARD 1) lvl
  s''.aggUpdate 1 s'

end Sys2Proof.Machine
end

