-- ==== Sys2Proof/Machine/Log.lean ====
section
/-!
DEFINITION. The event log queue (R708 to R711): what logging a happening does before its record reaches the MRAM.
-/
set_option Elab.async false
namespace Sys2Proof.Machine

/-- LFLAGS of a record: TIME_VALID when station time has been stepped (R708). -/
def State.logFlags (s : State) : Nat := if s.on R.TIME_STATUS_STEPPED then 2 else 0

/-- LOG_PENDING_CNT shows the queue (R711). -/
def State.logLevel (s : State) : State := s.set R.LOG_PENDING_CNT_CNT s.nvm.logQ.length

/-- Of a list of causes and event clocks, those of less than a second ago (R711). -/
def State.withinSecond (s : State) (l : List (Nat × Nat)) : List (Nat × Nat) := l.filter fun x => decide (s.clk < x.2 + 250000000)

/-- A record enters the queue, and takes the count of its cause's suppressed records along; one that finds the queue full is dropped (R711). -/
def State.logPush (s : State) (r : LogRec) : State :=
  let n := s.nvm
  if n.logQ.length < 64 then
    ({ s with nvm := { n with logQ := n.logQ ++ [r], recent := s.withinSecond n.recent ++ [(r.cause, s.clk)], supp := Tbl.put 0 n.supp r.cause 0 } }).logLevel
  else ({ s with nvm := { n with lost := n.lost + 1 } }).bumpSat R.LOG_LOST_CNT_CNT

/-- Skep logs a happening: at most 16 records of one cause and 64 in all within any second; more are counted and carried
in SUPP of the next record of the cause (R711). -/
def State.logAt (s : State) (time cause flags : Nat) (data : List Byte) : State :=
  let n := s.nvm
  let l := s.withinSecond n.recent
  let supp := Tbl.get 0 n.supp cause
  if 16 ≤ (l.filter (·.1 == cause)).length ∨ 64 ≤ l.length then
    { s with nvm := { n with supp := Tbl.put 0 n.supp cause (min 255 (supp + 1)) } }
  else s.logPush ⟨cause, flags, supp, time, padTo 44 data⟩

/-- Skep logs a happening of the present station time. -/
def State.log (s : State) (cause : Nat) (data : List Byte) : State := s.logAt s.timeNs cause s.logFlags data

end Sys2Proof.Machine
end

