-- ==== Sys2Proof/Machine/Sward.lean ====
section
/-!
DEFINITION. The Sward event fabric (chapter 4): requests, guards, event outputs and counters, and the commands of the block
but for the grant itself, which reaches every consumer and stands in Machine/Fabric.lean.
-/
set_option Elab.async false
namespace Sys2Proof.Machine

/-! ## Guards -/

/-- Channel `c` is guarded (R107). -/
def State.guarded (s : State) (c : Nat) : Bool := s.on (R.SWD_CH_CFG_GUARD c)

/-- OWNER of channel `c`: 0 function 0, 1 function 1, 2 firmware. -/
def State.owner (s : State) (c : Nat) : Nat := s.get (R.SWD_CH_CFG_OWNER c)

/-- WHO of SWD_VIOL_INFO (R132). -/
def whoCode : Who → Nat
  | .fn0 => 0
  | .fn1 => 1
  | .skep => 2

/-- A guard violation (R122): recorded, flagged and logged. -/
def State.guardViol (s : State) (c who : Nat) : State :=
  let s := ((s.set R.SWD_VIOL_INFO_CH c).set R.SWD_VIOL_INFO_WHO who).raise R.SWD_STATUS_GUARD_VIOL
  s.log 9 (leBytes 4 (s.reg R.SWD_VIOL_INFO).toNat)

/-- Who may write a channel's configuration (R120). -/
def State.mayConfig (s : State) (who : Who) (c : Nat) : Bool :=
  match who with
  | .skep => true
  | .fn1 => s.owner c != 2
  | .fn0 => s.owner c == 0 && !s.guarded c

/-- Who may publish on a channel by SWD_PUB (R123). -/
def State.mayPublish (s : State) (who : Who) (c : Nat) : Bool :=
  match who with
  | .skep => true
  | .fn1 => s.owner c != 2
  | .fn0 => s.owner c != 2 && !s.guarded c

/-- Whether the selector in force was last written through function 0 (R117, R121). -/
def State.byFn0 (s : State) (f : Sel) : Bool :=
  match Tbl.get none s.swd.selPrev f.addr with
  | some (_, b) => b
  | none => Tbl.get false s.swd.byFn0 f.addr

/-- What the selector register at `a` holds is kept in force to the end of this event clock (R117): called before the register is written. -/
def State.holdSelector (s : State) (a : Nat) : State :=
  match Tbl.get none s.swd.selPrev a with
  | some _ => s
  | none => { s with swd := { s.swd with selPrev := Tbl.put none s.swd.selPrev a (some (s.reg a, Tbl.get false s.swd.byFn0 a)) } }

/-- Sward records with a selector register whether it was last written through function 0 (R121). -/
def State.noteSelector (s : State) (who : Who) (a : Nat) : State :=
  { s with swd := { s.swd with byFn0 := Tbl.put false s.swd.byFn0 a (who == .fn0) } }

/-! ## Requests -/

/-- Requests dropped on a channel (R115, R116). -/
def State.dropReqs (s : State) (c n : Nat) : State :=
  if n = 0 then s
  else ((s.raise (R.SWD_CH_STATUS_DROP c)).raise R.SWD_STATUS_DROP).bumpSat (R.CH_DROP_CNT_CNT c) n

/-- The place of a producer in the order in which requests enter a channel in one event clock, where `first` entered first in the last
contested clock: the order rotates past it (R112; assumption 102). -/
def turnOf (first p : Nat) : Nat := (p + 255 - first) % 256

/-- A request enters a FIFO behind those of earlier clocks, among those of its own clock in rotating producer order (R112). -/
def enterFifo (first : Nat) (r : Req) : List Req → List Req
  | [] => [r]
  | x :: q => if x.clk = r.clk ∧ turnOf first r.producer < turnOf first x.producer then r :: x :: q else x :: enterFifo first r q

/-- A request reaches the arbiter: it enters the channel's FIFO of 64, or is dropped when the FIFO is full or the channel
disabled (R112, R115, R116). Of the requests of one clock those that come last in the order find the FIFO full. -/
def State.request (s : State) (r : Req) : State :=
  let c := r.channel
  if s.on (R.SWD_CH_CFG_EN c) then
    let s := { s with swd := { s.swd with reached := Tbl.put [] s.swd.reached c (r.producer :: Tbl.get [] s.swd.reached c) } }
    let q := enterFifo (Tbl.get 255 s.swd.turn c) { r with views := (List.range 8).map s.viewPos } (s.fifoOf c)
    (s.setFifo c (q.take 64)).dropReqs c (q.length - 64)
  else s.dropReqs c 1

/-- A request of producer `p` with PARAM (R108, R109); the request of an asynchronous producer reaches the arbiter 1 or 2
event clocks after it is raised, a free choice (R111, assumption 1). -/
def State.requestPlain (s : State) (c p param : Nat) : State :=
  if p < 0x40 then s.request ⟨c, p, 0, 0, param, 0, false, none, s.clk, []⟩
  else ({ s with swd := { s.swd with
    inFlight := s.swd.inFlight ++ [(⟨c, p, 0, 0, param, 0, false, none, s.clk + 1 + s.freeVal 1, []⟩ : Req)] } }).useFree

/-- The requests whose synchroniser ends in this event clock reach the arbiter (R111). -/
def State.arriveAsync (s : State) : State :=
  let due := s.swd.inFlight.filter fun r => decide (r.clk ≤ s.clk)
  let s := { s with swd := { s.swd with inFlight := s.swd.inFlight.filter fun r => decide (s.clk < r.clk) } }
  s.forList due fun r s => s.request r

/-- The producer that came first in the order among those that contested a channel in this event clock, whatever has become of their
requests since (R112; assumption 102). -/
def State.contested (s : State) (c : Nat) : Option Nat :=
  match Tbl.get [] s.swd.reached c with
  | p :: ps =>
    let first := Tbl.get 255 s.swd.turn c
    if ps.all (· == p) then none else some (ps.foldl (fun a b => if turnOf first b < turnOf first a then b else a) p)
  | [] => none

/-- The event clock ends: the order of producers rotates on the channels that were contested, selector writes and new guard windows come into force, and the flags
set in it are flags of an earlier clock (R7, R112, R117, R125). -/
def State.closeClock (s : State) : State :=
  let turn := s.swd.reached.foldl (fun t (c, _) => match s.contested c with | some p => Tbl.put 255 t c p | none => t) s.swd.turn
  { s with swd := { s.swd with turn := turn, reached := [], selPrev := [], noWindow := [] }, risen := [] }

/-- A producer publishes through its selector: nothing when the selector is disabled, a guard violation when it is inert
(R117, R121). -/
def State.publishOn (s : State) (f : Sel) (ch : Option Nat) (p param : Nat) : State :=
  match ch with
  | none => s
  | some c => if s.byFn0 f && s.guarded c then s.guardViol c 0 else s.requestPlain c p param
def State.publish (s : State) (f : Sel) (p param : Nat) : State := s.publishOn f (s.selCh? f) p param

/-- The FIFO of a channel is emptied into CH_DROP_CNT (R116). -/
def State.emptyFifo (s : State) (c : Nat) : State :=
  let n := (s.fifoOf c).length
  (s.setFifo c []).dropReqs c n

/-- A new guard window starts (R125, R126). -/
def State.newWindow (s : State) (c : Nat) : State :=
  { s with swd := { s.swd with window := Tbl.put 0 s.swd.window c 0 } }

/-! ## Consumers -/

/-- A selector hears channel `c` (R117). -/
def State.selHears (s : State) (c : Nat) (f : Sel) : Bool := s.selCh? f == some c

/-- Delivery of an event to the consumer input with selectors `fs` (R114, R117, R118, R121): `act` is what the input does
with the event it acts on, `coincidence` what it counts for an event discarded in the same event clock. An input one of whose selectors hears
the channel by right gets the event, and another that is inert then sets no GUARD_VIOL (assumption 15). -/
def State.deliver (s : State) (e : Event) (fs : List Sel) (act coincidence : State → State) : State :=
  let heard := fs.filter (s.selHears e.req.channel)
  if heard = [] then s
  else if heard.all (fun g => s.byFn0 g && s.guarded e.req.channel) then s.guardViol e.req.channel 0
  else
    let key := (fs.headD ⟨0, 0, 0⟩).addr
    if Tbl.get 0 s.swd.acted key = e.clk + 1 then coincidence s
    else act { s with swd := { s.swd with acted := Tbl.put 0 s.swd.acted key (e.clk + 1) } }

/-! ## Event outputs and counters -/

/-- A GPIO pin is driven, or released; a pin of a bank without supply is high-impedance (R753). -/
def State.drive (s : State) (k : Nat) (level : Option Bool) : State :=
  if Tbl.get false s.swd.bankDown (k / 16) then s.emit (.pin k none) else s.emit (.pin k level)

/-- Output `k` drives its pin active or inactive (R127). -/
def State.driveOut (s : State) (k : Nat) (active : Bool) : State :=
  s.drive (s.get (R.OUT_CTRL_GPIO k)) (some (active != s.on (R.OUT_CTRL_POL k)))

/-- The width W of the pulse an event starts (R127), in event clocks; 0 is taken as 1. -/
def State.outWidth (s : State) (k : Nat) (e : Event) : Nat :=
  let w :=
    if s.on (R.OUT_CTRL_WIDTH_SRC k) ∨ e.req.width = 0 then s.get (R.OUT_WIDTH_CLKS k)
    else if e.req.action = 5 ∧ bitAt e.req.param 23 then e.req.width * 250
    else e.req.width
  max 1 w

/-- Event output `k` acts on an event (R127, R128). -/
def State.outAct (s : State) (k : Nat) (e : Event) : State :=
  if s.on (R.OUT_CTRL_EN k) then
    let stop := e.clk + s.outWidth k e
    if s.on (R.OUT_STATUS_LEVEL k) then
      let s := ((s.raise (R.OUT_STATUS_OVERRUN k)).raise R.SWD_STATUS_OVERRUN).bumpSat (R.OUT_OVR_CNT_CNT k)
      if s.on (R.OUT_CTRL_BUSY_POLICY k) then s
      else { s with swd := { s.swd with
              pulseEnd := Tbl.put 0 s.swd.pulseEnd k (max stop (Tbl.get 0 s.swd.pulseEnd k)) } }
    else
      let s := { s with swd := { s.swd with pulseEnd := Tbl.put 0 s.swd.pulseEnd k stop } }
      (s.raise (R.OUT_STATUS_LEVEL k)).driveOut k true
  else s

/-- Event counter `k` acts on an event (R130). -/
def State.ecntAct (s : State) (k : Nat) : State :=
  if s.on (R.ECNT_CTRL_EN k) then s.bump (R.ECNT_VALUE_VALUE k) else s

/-- The four selectors of event output `k`, and of event counter `k` (R117). -/
def outSels (k : Nat) : List Sel := [R.OUT_SUB_A_SEL_0 k, R.OUT_SUB_A_SEL_1 k, R.OUT_SUB_B_SEL_2 k, R.OUT_SUB_B_SEL_3 k]
def ecntSels (k : Nat) : List Sel := [R.ECNT_SUB_A_SEL_0 k, R.ECNT_SUB_A_SEL_1 k, R.ECNT_SUB_B_SEL_2 k, R.ECNT_SUB_B_SEL_3 k]

/-- Delivery to the event outputs and counters. Coincident events are counted whether or not EN is set (assumption 91). -/
def State.deliverSward (s : State) (e : Event) : State :=
  let s := s.forEach 64 fun k s => s.deliver e (outSels k) (·.outAct k e) (·.bumpSat (R.OUT_COINC_CNT_CNT k))
  s.forEach 64 fun k s => s.deliver e (ecntSels k) (·.ecntAct k) (·.bumpSat (R.ECNT_COINC_CNT_CNT k))

/-- Output `k` stops driving and releases its pin. -/
def State.outRelease (s : State) (k : Nat) : State :=
  ((s.clear (R.OUT_CTRL_EN k)).clear (R.OUT_STATUS_LEVEL k)).drive (s.get (R.OUT_CTRL_GPIO k)) none

/-- An enabled switch input watches GPIO pin `p` (R64, R129). -/
def State.pinWatched (s : State) (p : Nat) : Bool :=
  (List.range 32).any fun k => s.on (R.SW_CTRL_EN k) && s.get (R.SW_CTRL_GPIO k) == p

/-! ## Commands -/

/-- A write of a channel's guard registers discards the count of its window; the next one starts in the next event clock (R125). -/
def State.dropWindow (s : State) (c : Nat) : State :=
  let s := s.newWindow c
  { s with swd := { s.swd with noWindow := Tbl.put false s.swd.noWindow c true } }

/-- GUARD_WINDOW_END (R125). -/
def execGuardWindowEnd (c : Fin 256) (s : State) : Host.Outcome State Fault Refusal := .next (s.newWindow c)

/-- A write of CH_CFG that R120 allows: EN 1 starts a new guard window on a channel that RUNAWAY had stopped (R126), EN 0 empties the FIFO
(R116). -/
def State.applyChCfg (s : State) (c : Nat) (v : Word) : State :=
  let s := s.writeReg (R.SWD_CH_CFG c) v
  if !s.on (R.SWD_CH_CFG_EN c) then s.emptyFifo c
  else if Tbl.get false s.swd.stopped c then
    let s := s.newWindow c
    { s with swd := { s.swd with stopped := Tbl.put false s.swd.stopped c false } }
  else s

/-- CH_CFG_WRITE (R120, R125, R782). -/
def execChCfgWrite (who : Who) (c : Fin 256) (r : ChReg) (v : Word) (s : State) : Host.Outcome State Fault Refusal :=
  .next <| s.viaBus who fun s =>
    match r with
    | .cfg =>
      if bitsOf v.toNat 1 2 = 3 then s.guardViol c (whoCode who)
      else if !s.mayConfig who c then s.guardViol c (whoCode who)
      else if who = .fn0 ∧ bitsOf v.toNat 1 3 ≠ bitsOf (s.reg (R.SWD_CH_CFG c)).toNat 1 3 then
        (s.applyChCfg c (BitVec.ofNat 32 (putBits v.toNat 1 3 (bitsOf (s.reg (R.SWD_CH_CFG c)).toNat 1 3)))).guardViol c 0
      else s.applyChCfg c v
    | .guard =>
      if s.mayConfig who c then (s.set (R.CH_GUARD_MAX c) (max 1 (bitsOf v.toNat 0 16))).dropWindow c
      else s.guardViol c (whoCode who)
    | .guardWin =>
      if s.mayConfig who c then
        (s.set (R.CH_GUARD_WIN_WIN c) (clampNat 1 250000000 (bitsOf v.toNat 0 28))).dropWindow c
      else s.guardViol c (whoCode who)

/-- Producer ID of a software publication (R111). -/
def whoProducer : Who → Nat
  | .fn0 => 0x80
  | .fn1 => 0x81
  | .skep => 0x82

/-- SWD_PUB (R123). -/
def execSwdPub (who : Who) (v : Word) (s : State) : Host.Outcome State Fault Refusal :=
  .next <| s.viaBus who fun s =>
    let c := bitsOf v.toNat 0 8
    (if s.mayPublish who c then s.requestPlain c (whoProducer who) (bitsOf v.toNat 8 24) else s.guardViol c (whoCode who))

/-- OUT_PULSE_END (R128): the pin returns inactive. -/
def execOutPulseEnd (k : Fin 64) (s : State) : Host.Outcome State Fault Refusal :=
  .next (if s.on (R.OUT_STATUS_LEVEL k) then (s.clear (R.OUT_STATUS_LEVEL k)).driveOut k false else s)

/-- OUT_CTRL_WRITE (R127, R129): an output is enabled only on a pin that no enabled switch input watches. A pulse that runs when EN is
cleared or GPIO changes ends at once (assumption 103). -/
def execOutCtrlWrite (who : Who) (k : Fin 64) (v : Word) (s : State) : Host.Outcome State Fault Refusal :=
  .next <| s.viaBus who fun s =>
    let old := s
    let s := s.writeReg (R.OUT_CTRL k) v
    let s := if old.on (R.OUT_CTRL_EN k) && (!s.on (R.OUT_CTRL_EN k) || s.get (R.OUT_CTRL_GPIO k) != old.get (R.OUT_CTRL_GPIO k))
      then (s.clear (R.OUT_STATUS_LEVEL k)).drive (old.get (R.OUT_CTRL_GPIO k)) none else s
    if s.on (R.OUT_CTRL_EN k) then
      if s.pinWatched (s.get (R.OUT_CTRL_GPIO k)) then
        ((s.clear (R.OUT_CTRL_EN k)).clear (R.OUT_STATUS_LEVEL k)).raise (R.OUT_STATUS_PIN_CONFLICT k)
      else s.driveOut k (s.on (R.OUT_STATUS_LEVEL k))
    else s

end Sys2Proof.Machine
end

