-- ==== Sys2Proof/Machine/Units.lean ====
section
/-!
DEFINITION. The unit table (R655 to R661): names of units, and the one operation that changes a unit's STATE.
-/
set_option Elab.async false
namespace Sys2Proof.Machine

/-- The name of a unit: class in [31:24], index in [23:0] (R655). -/
def unitId (cls i : Nat) : Nat := cls * 2 ^ 24 + i
abbrev laneUnit (i : Nat) : Nat := unitId 1 i
abbrev linkUnit (i : Nat) : Nat := unitId 2 i
abbrev epUnit (i : Nat) : Nat := unitId 3 i
abbrev chainUnit (i : Nat) : Nat := unitId 4 i
abbrev encUnit (i : Nat) : Nat := unitId 5 i
abbrev viewUnit (i : Nat) : Nat := unitId 6 i
abbrev slotUnit (i : Nat) : Nat := unitId 7 i
abbrev ringUnit (i : Nat) : Nat := unitId 8 i
abbrev dmaUnit (i : Nat) : Nat := unitId 9 i

/-- The number of units of a class (R655). -/
def unitCount (cls : Nat) : Nat :=
  match cls with
  | 1 => 32 | 2 => 32 | 3 => 2048 | 4 => 8 | 5 => 8 | 6 => 8 | 7 => 64 | 8 => 256 | 9 => 16 | _ => 0

/-- Whether a 32-bit UNIT names a unit. -/
def unitExists (u : Nat) : Bool := decide (u % 2 ^ 24 < unitCount (u / 2 ^ 24))

/-- STATE of a unit. -/
def State.unitState (s : State) (u : Nat) : UnitState := (s.unitOf u).state

/-- A unit is OFF. -/
def State.unitOff (s : State) (u : Nat) : Bool := s.unitState u == .off

/-- A unit is ON. -/
def State.unitOn (s : State) (u : Nat) : Bool := s.unitState u == .on

/-- PERMIT of a unit: ON in STARTING and ON, OFF in every other state (R656). -/
def State.permit (s : State) (u : Nat) : Bool := s.unitState u == .starting || s.unitState u == .on

/-- STATE as UNIT_GET shows it (R658). -/
def unitStateCode : UnitState → Nat
  | .off => 0
  | .starting => 1
  | .on => 2
  | .stopping => 3
  | .fault => 4

/-- Work of Skep's: done at once while it runs, and kept until it runs again while it does not (R24). -/
def State.skepDo (s : State) (j : SkepJob) (f : State → State) : State :=
  if s.skepRuns then f s else { s with skep := { s.skep with todo := s.skep.todo ++ [j] } }

/-- The same for work that is not repeated while it waits. -/
def State.skepOnce (s : State) (j : SkepJob) (f : State → State) : State :=
  if !s.skepRuns && s.skep.todo.contains j then s else s.skepDo j f

/-- An event of Skep's own (R114), on the channel of the selector at `sel`; one of Skep itself sets the SKEP interrupt source (R737). -/
def State.skepSays (s : State) (sel param : Nat) : State :=
  let s := s.publish ⟨sel, 0, 9⟩ 0x82 param
  if sel = R.EVT_SKEP then s.girqBoth R.GIRQ_STATUS_SKEP else s

/-- Skep publishes, once it runs (R24). -/
def State.skepPublish (s : State) (sel param : Nat) : State := s.skepDo (.says sel param) (·.skepSays sel param)

/-- PARAM of a happening of a unit (R673). -/
def skepParam (u kind : Nat) : Nat := u % 2 ^ 11 + u / 2 ^ 24 % 16 * 2 ^ 11 + kind * 2 ^ 16 + 0xD * 2 ^ 20

/-- Skep publishes a happening of a unit (R673). -/
def State.publishSkep (s : State) (u kind : Nat) : State := s.skepPublish R.EVT_SKEP (skepParam u kind)

/-- A command that waits for this unit has reached the moment that WAIT names (R658): the next change of STATE, or the unit's settling in
ON, OFF or FAULT. -/
def SkCmd.settle (c : SkCmd) (u : Nat) (e : UnitEntry) : SkCmd :=
  match c.wait with
  | some (w, full) =>
    if w = u ∧ c.seen.isNone ∧ (!full ∨ e.state = .on ∨ e.state = .off ∨ e.state = .fault) then { c with seen := some e } else c
  | none => c

/-- A unit changes its STATE: GEN increments (R656), the time of the change is kept, and an entry to FAULT is published,
logged and takes a CAUSE (R660, R673); one of a unit that is STOPPING is logged and not recorded (R656, R661; assumption 146). Skep enters a change that comes while it does not run once it runs again (R24; assumption 141). A unit already
in the state does not change. A unit whose enable is deferred passes from
STOPPING to STARTING in place of OFF, and waits for the scheduler (R656, R658, R693); one that leaves STARTING waits no longer. -/
def State.unitTo (s : State) (u : Nat) (st : UnitState) (cause : Nat := 0) : State :=
  let e := s.unitOf u
  if e.state = st then s
  else if e.state = .stopping ∧ st = .fault then s.log 8 (leBytes 4 u ++ leBytes 4 cause ++ leBytes 4 e.gen)
  else
    let again := e.deferred && st == .off
    let st := if again then .starting else st
    let e' : UnitEntry :=
      { state := st, gen := (e.gen + 1) % 2 ^ 32, changed := s.timeNs, cause := if st = .fault then cause else e.cause
        deferred := e.deferred && st == .stopping, downMs := e.downMs }
    let k := s.skep
    let rest := k.waiting.filter fun x => x.1 != .unit u
    let s := { s.setUnit u e' with skep := { k with
      cmds := k.cmds.map fun (m, c) => (m, c.settle u e')
      moved := if s.skepRuns ∨ k.moved.contains u then k.moved else k.moved ++ [u]
      waiting := if again then rest ++ [(.unit u, s.clk)] else if st = .starting then k.waiting else rest } }
    if st = .fault then
      (s.publishSkep u 0).log 8 (leBytes 4 u ++ leBytes 4 cause ++ leBytes 4 e'.gen)
    else s

/-- A reset clears a unit's enable: from any state to OFF, and a deferred enable is gone (R656). -/
def State.unitClear (s : State) (u : Nat) : State :=
  let e := s.unitOf u
  (if e.deferred then s.setUnit u { e with deferred := false } else s).unitTo u .off

/-- A unit is in FAULT with this CAUSE, whatever its state was (R659, R687). -/
def State.unitFault (s : State) (u cause : Nat) : State :=
  let s := if s.unitState u = .stopping then s.unitClear u else s
  let s := s.unitTo u .fault cause
  s.setUnit u { s.unitOf u with cause := cause }

/-- A unit that starts at once: OFF or FAULT to STARTING to ON (R655, R656). -/
def State.unitStartNow (s : State) (u : Nat) : State :=
  match s.unitState u with
  | .off | .fault => (s.unitTo u .starting).unitTo u .on
  | .starting => s.unitTo u .on
  | _ => s

/-- A unit that stops at once (R655, R656). -/
def State.unitStopNow (s : State) (u : Nat) : State :=
  match s.unitState u with
  | .starting | .on | .fault => (s.unitTo u .stopping).unitTo u .off
  | .stopping => s.unitTo u .off
  | .off => s

end Sys2Proof.Machine
end

