-- ==== Sys2Proof/Machine/Position.lean ====
section
/-!
DEFINITION. The position engine (chapter 3): sources and their interpolation, view positions, the position event table, its
crossings and firings, and insertion and removal. Timeline `t` is source `t` for `t < 8` and view `t - 8` otherwise (R80).
-/
set_option Elab.async false
namespace Sys2Proof.Machine

/-! ## The entry -/

/-- Fields of an entry (R81). -/
def ePos (e : BitVec 128) : Nat := bitsOf e.toNat 0 56
def eAction (e : BitVec 128) : Nat := bitsOf e.toNat 56 8
def eChannel (e : BitVec 128) : Nat := bitsOf e.toNat 64 8
def eWidth (e : BitVec 128) : Nat := bitsOf e.toNat 72 16
def eParam (e : BitVec 128) : Nat := bitsOf e.toNat 88 24
def eTl (e : BitVec 128) : Nat := bitsOf e.toNat 112 4
def eLateFire (e : BitVec 128) : Bool := bitAt e.toNat 120
def eDir (e : BitVec 128) : Nat := bitsOf e.toNat 121 2
def ePeriodic (e : BitVec 128) : Bool := bitAt e.toNat 123
def eGuarded (e : BitVec 128) : Bool := bitAt e.toNat 124

/-- An entry built from its fields (R81). -/
def mkEntry (pos action channel width param tl : Nat) (lateFire : Bool) (dir : Nat) (periodic guarded : Bool) :
    BitVec 128 :=
  BitVec.ofNat 128 (pos % 2 ^ 56 + action % 256 * 2 ^ 56 + channel % 256 * 2 ^ 64 + width % 2 ^ 16 * 2 ^ 72 +
    param % 2 ^ 24 * 2 ^ 88 + tl % 16 * 2 ^ 112 + lateFire.toNat * 2 ^ 120 + dir % 4 * 2 ^ 121 +
    periodic.toNat * 2 ^ 123 + guarded.toNat * 2 ^ 124)

/-- The handle of slot `i` (R85). -/
def State.handleOf (s : State) (i : Nat) : Nat := i + (s.slotOf i).gen % 256 * 2 ^ 18

/-- The source whose position a timeline follows: the source itself, or the source bound to the view (R110). -/
def State.tlSource (s : State) (t : Nat) : Nat := if t < 8 then t else s.get (R.VIEW_BIND_SOURCE (t - 8))

/-- The present position of a timeline. -/
def State.tlPos (s : State) (t : Nat) : Nat := if t < 8 then s.srcPos t else s.viewPos (t - 8)

/-! ## Slots -/

/-- Slots in use follow an insertion (`d` = 1) or a removal; the high-water field rises with USED (R103). -/
def State.slotCounts (s : State) (t : Nat) (d : Int) : State :=
  let f := if t < 8 then R.SRC_PENDING_CNT t else R.VIEW_PENDING_CNT (t - 8)
  let s := s.set f ((s.get f : Int) + d).toNat
  let s := s.set R.PE_USED_USED ((s.get R.PE_USED_USED : Int) + d).toNat
  s.setMax R.PE_HIGH_WATER_MAX (s.get R.PE_USED_USED)

/-- A slot is freed: its entry reads 0, and its generation increments (R85). -/
def State.freeSlot (s : State) (i : Nat) : State :=
  let x := s.slotOf i
  if x.entry = 0 then s
  else
    let s := s.setSlot i { entry := 0, gen := (x.gen + 1) % 256, client := 0 }
    let s := { s with pe := { s.pe with due := s.pe.due.filter (·.slot != i) } }
    s.slotCounts (eTl x.entry) (-1)

/-- A free slot: the one hinted if it is free, else the first free one; none when all are taken (assumption 6). -/
def State.pickSlot (s : State) (hint : Nat) : Option Nat :=
  if s.get R.PE_USED_USED = 262144 then none
  else if hint < 262144 ∧ (s.slotOf hint).entry = 0 then some hint
  else (List.range (s.pe.slots.length + 1)).find? fun i => (s.slotOf i).entry == 0

/-! ## Firing -/

/-- The event that a fired entry publishes (R83, R110). -/
def State.fireEvent (s : State) (i : Nat) (late : Bool) : State :=
  let e := (s.slotOf i).entry
  (s.request ⟨eChannel e, 0, eAction e, eWidth e, if ePeriodic e then 0 else eParam e, s.handleOf i, late,
    some (s.tlSource (eTl e)), s.clk, []⟩).bump R.FIRE_CNT_CNT

/-- A fired periodic entry advances by its period in its firing direction, past every period already crossed (R89). -/
def State.advance (s : State) (i : Nat) (forward : Bool) : State :=
  let x := s.slotOf i
  let e := x.entry
  let p := eParam e
  let gone := if forward then posDiff (s.tlPos (eTl e)) (ePos e) else posDiff (ePos e) (s.tlPos (eTl e))
  let skipped := gone.toNat / p
  let pos := if forward then posMod ((ePos e : Int) + ((skipped + 1) * p : Nat)) else posMod ((ePos e : Int) - ((skipped + 1) * p : Nat))
  let s := s.setSlot i { x with entry := BitVec.ofNat 128 (putBits e.toNat 0 56 pos) }
  if skipped = 0 then s
  else (s.raise R.PE_STATUS_PERIOD_SKIP).bumpSat R.PERIOD_SKIP_CNT_CNT skipped

/-- Slot `i` fires (R83): its event is requested, a one-shot entry is freed (R88), a periodic one advances (R89). -/
def State.fireSlot (s : State) (i : Nat) (late forward : Bool) : State :=
  let e := (s.slotOf i).entry
  if e = 0 then s
  else
    let s := s.fireEvent i late
    let s := { s with pe := { s.pe with due := s.pe.due.filter (·.slot != i) } }
    if ePeriodic e then s.advance i forward else s.freeSlot i

/-- The number of firings in the present event clock (R87). -/
def State.firedNow (s : State) : Nat := if s.pe.fireClk = s.clk then s.pe.fireN else 0

/-- One more entry fires in the present event clock. -/
def State.countFire (s : State) : State :=
  { s with pe := { s.pe with fireN := s.firedNow + 1, fireClk := s.clk } }

/-- A deferred firing is flagged and counted (R87). -/
def State.noteDefer (s : State) : State := (s.raise R.PE_STATUS_FIRE_DEFER).bumpSat R.FIRE_DEFER_CNT_CNT

/-! ## Crossing -/

/-- The direction in which a step from `p0` to `p1` crosses an entry that its DIR allows to fire, if it does (R86). -/
def crossing (e : BitVec 128) (p0 p1 : Nat) : Option Bool :=
  if bitAt (eDir e) 0 && decide (0 < posDiff (ePos e) p0) && decide (posDiff (ePos e) p1 ≤ 0) then some true
  else if bitAt (eDir e) 1 && decide (posDiff (ePos e) p0 < 0) && decide (0 ≤ posDiff (ePos e) p1) then some false
  else none

/-- Insertion of an item by its key into a list in rising order. -/
def insertBy {α : Type} (key : α → Nat × Nat) (x : α) : List α → List α
  | [] => [x]
  | y :: ys =>
    if (key x).1 < (key y).1 ∨ ((key x).1 = (key y).1 ∧ (key x).2 < (key y).2) then x :: y :: ys
    else y :: insertBy key x ys

/-- A list sorted by key, equal keys in their old order. -/
def sortBy {α : Type} (key : α → Nat × Nat) (l : List α) : List α := l.foldr (insertBy key) []

/-- The entries that steps of timelines cross. `moves` holds (timeline, old position, new position). -/
def State.crossed (s : State) (moves : List (Nat × Nat × Nat)) : List Due :=
  moves.flatMap fun m =>
    s.pe.slots.filterMap fun (i, x) =>
      if x.entry ≠ 0 ∧ eTl x.entry = m.1 ∧ ¬ s.pe.due.any (·.slot == i) then
        (crossing x.entry m.2.1 m.2.2).map fun fwd =>
          { slot := i, deferred := false, late := false, forward := fwd, dist := (posDiff (ePos x.entry) m.2.1).natAbs, clk := s.clk }
      else none

/-- The order of R87: by clock, in a clock the crossed entries before the late ones, then by distance, then by INDEX. -/
def Due.key (d : Due) : Nat × Nat := (d.clk * 2 + d.late.toNat, d.dist * 2 ^ 18 + d.slot)

/-- Entries fall due, in the order of R87. -/
def State.addDue (s : State) (l : List Due) : State :=
  { s with pe := { s.pe with due := l.foldl (fun q d => insertBy Due.key d q) s.pe.due } }

/-- The entries of this clock's moves fall due in place of what earlier moves of the same timelines crossed in it: a clock has one P0 and one
P1 (R86, R87). -/
def State.recross (s : State) (moves : List (Nat × Nat × Nat)) : State :=
  let tl := moves.map (·.1)
  let s := { s with pe := { s.pe with due := s.pe.due.filter fun d =>
    d.deferred || d.late || d.clk != s.clk || !tl.contains (eTl (s.slotOf d.slot).entry) } }
  s.addDue (s.crossed moves)

/-- An entry may fire: none fires while the source of its timeline is disabled (R70). -/
def State.mayFire (s : State) (i : Nat) : Bool := s.on (R.SRC_CTRL_EN (s.tlSource (eTl (s.slotOf i).entry)))

/-- The entry that fires next, when eight have not yet fired in this event clock (R87). -/
def State.nextDue (s : State) : Option Due := if s.firedNow < 8 then s.pe.due.find? fun d => s.mayFire d.slot else none

/-- The entries of a list beyond the eighth firing of an event clock are deferred, `n` having fired (R87). -/
def deferFrom (may : Nat → Bool) : Nat → List Due → List Due
  | _, [] => []
  | n, d :: l =>
    if may d.slot then { d with deferred := d.deferred || decide (8 ≤ n) } :: deferFrom may (n + 1) l else d :: deferFrom may n l

/-- The event clock ends: what it could not fire among its eight is deferred into the clocks that follow (R87). -/
def State.deferRest (s : State) : State :=
  { s with pe := { s.pe with due := deferFrom s.mayFire s.firedNow s.pe.due } }

/-! ## Moving a source and its views -/

/-- The view positions after a step of source `n` by `delta` sub-ticks (R77). -/
def State.moveView (s : State) (v : Nat) (delta : Int) : State :=
  let a := unsigned 80 ((s.viewPosOf v).acc + delta * s.getInt (R.VIEW_SCALE_SCALE v))
  let s := s.setViewPos v { s.viewPosOf v with acc := a }
  s.set (R.VIEW_POS_LO_POS v) (a / 2 ^ 24)

/-- The views in existence that are bound to source `n`. -/
def State.boundViews (s : State) (n : Nat) : List Nat :=
  (List.range 8).filter fun v => (s.viewPosOf v).active && s.get (R.VIEW_BIND_SOURCE v) == n

/-- Source `n` stands at `p` from now on, and its views move with it. -/
def State.placeSource (s : State) (n p : Nat) : State :=
  let delta := posDiff p (s.srcPos n)
  let s := s.setSrc n { s.srcOf n with pos := p }
  let s := s.set (R.SRC_POS_LO_POS n) p
  s.forList (s.boundViews n) fun v s => s.moveView v delta

/-- Source `n` steps to `p`: the entries that its timeline and those of its views cross from the clock's beginning to here fall due (R86,
R87). -/
def State.stepSource (s : State) (n p : Nat) : State :=
  if p = s.srcPos n then s
  else
    let s := s.placeSource n p
    s.recross ((n, (s.srcOf n).start, p) :: (s.boundViews n).map fun v => (v + 8, (s.viewPosOf v).start, s.viewPos v))

/-- What lies between the clock's beginning and here counts as passed: P0 of source `n` and of its views is their present position (R70,
R86). -/
def State.startSource (s : State) (n : Nat) : State :=
  let s := s.setSrc n { s.srcOf n with start := s.srcPos n }
  s.forList (s.boundViews n) fun v s => s.setViewPos v { s.viewPosOf v with start := s.viewPos v }

/-! ## Interpolation (R71 to R75) -/

/-- The window estimate of encoder channel `c`: event clocks per tick, as a fraction (R71). -/
def State.winEst (s : State) (c : Nat) : Option (Nat × Nat) :=
  if s.on (R.ENC_STATUS_SPEED_VALID c) && s.on (R.EDGES_EDGES c) then
    some (s.get (R.SPEED_WINDOW_WINDOW c), s.get (R.EDGES_EDGES c)) else none

/-- The last-interval estimate of encoder channel `c` (R71, R72). -/
def State.lastEst (s : State) (c : Nat) : Option (Nat × Nat) :=
  let i := s.get (R.LAST_INTERVAL_CLKS c)
  if i = 0xFFFFFF then none else some (max 1 i, 1)

/-- The estimate I of an INTERP mode as a fraction; none where it does not exist (R71, R72). -/
def State.estimate (s : State) (c mode : Nat) : Option (Nat × Nat) :=
  match mode with
  | 1 => s.lastEst c
  | 2 => s.winEst c
  | 3 =>
    match s.lastEst c, s.winEst c with
    | some (a, b), some (x, y) => if 2 * x * b < a * y ∨ 2 * a * y < x * b then some (x, y) else some (a, b)
    | some l, none => some l
    | none, w => w
  | _ => none

/-- SRC_OFFSET of source `n`. -/
def State.srcOffset (s : State) (n : Nat) : Nat := s.get2 (R.SRC_OFFSET_LO_OFFSET n) (R.SRC_OFFSET_HI_OFFSET n)

/-- The interpolated offset u of an encoder source (R71, R72). -/
def State.interpU (s : State) (n : Nat) : Nat :=
  let x := s.srcOf n
  let c := s.get (R.SRC_CTRL_NUM n)
  if s.get (R.SRC_CTRL_INTERP n) = 0 then 0
  else if x.susp then x.held
  else
    match (s.encOf c).lastClk, s.estimate c (s.get (R.SRC_CTRL_INTERP n)) with
    | some t0, some (a, b) => min 255 (256 * (s.clk - t0) * b / max 1 a)
    | _, _ => x.held

/-- What the SSI channel or receive stream that feeds source `n` has delivered. -/
def State.inRec (s : State) (n : Nat) : InRec :=
  let c := s.get (R.SRC_CTRL_NUM n)
  if s.get (R.SRC_CTRL_INPUT n) = 1 then (s.ssiOf c).reads else Tbl.get {} s.net.rx c

/-- Extrapolation of an SSI input between valid values (R73): the count, carried on at the rate of the last two valid reads for no further
than the step between them. Sub-ticks are cut toward the last value (assumption 124). -/
def extrapolate (x : InRec) (count clk : Nat) : Int :=
  match x.last, x.prev with
  | some (v1, t1), some (v0, t0) =>
    let step := 256 * signed 48 (unsigned 48 ((v1 : Int) - v0))
    let run := step.natAbs * (clk - t1) / max 1 (t1 - t0)
    let run := min run step.natAbs
    (256 * v1 : Nat) + (if step < 0 then -(run : Int) else run)
  | some (v, _), none => (256 * v : Nat)
  | none, _ => (256 * count : Nat)

/-- The position that receive stream input of source `n` delivers now (R161): POSITION + RATE × min(age, MAX_EXTRAP) / 4 ns, to
the nearest sub-tick; a negative age counts as 0. -/
def State.stationPos (s : State) (n : Nat) : Option Int :=
  match (s.inRec n).last with
  | none => none
  | some (p, t) =>
    let age := (timeDiff s.timeNs t).toNat
    let age := min age (s.get (R.RXPOS_LIMIT_MAX_EXTRAP (s.get (R.SRC_CTRL_NUM n))) * 1000)
    some ((p : Int) + divRound ((s.inRec n).rate * age) (4 * 2 ^ 24))

/-- The position that the SSI or station input of source `n` gives, before SRC_OFFSET and holding (R68, R73, R161). -/
def State.inputPos (s : State) (n : Nat) : Option Int :=
  if s.get (R.SRC_CTRL_INPUT n) = 2 then s.stationPos n
  else some (extrapolate (s.inRec n) (s.ssiOf (s.get (R.SRC_CTRL_NUM n))).count s.clk)

/-- The direction of motion of an SSI or station input (R73): that of its last step other than 0, and before any step, that of its RATE; 0 for
none (assumption 124). -/
def InRec.heading (x : InRec) : Int := if x.dir ≠ 0 then x.dir else if x.rate < 0 then -1 else if 0 < x.rate then 1 else 0

/-- A value is taken at once, rather than only where it lies ahead: the first one, and one whose step has the other sign than the step before
(R73). -/
def InRec.turns (x : InRec) (dir : Int) : Bool := x.last.isNone || (x.dir != 0 && dir != x.dir)

/-- The position that source `n` takes now (R68, R71, R73, R74). -/
def State.srcTarget (s : State) (n : Nat) : Nat :=
  let x := s.srcOf n
  if s.get (R.SRC_CTRL_INPUT n) = 0 then
    let c := s.encOf (s.get (R.SRC_CTRL_NUM n))
    posMod (256 * (c.count : Int) + c.sign * s.interpU n + s.srcOffset n)
  else
    match s.inputPos n with
    | none => x.pos
    | some p =>
      let p := posMod (p + s.srcOffset n)
      if s.on (R.SRC_STATUS_STALE n) then x.pos
      else if 0 ≤ posDiff p x.pos * (s.inRec n).heading then p else x.pos

/-- Whether interpolation of source `n` runs (SRC_STATUS.INTERP_ON). -/
def State.interpOn (s : State) (n : Nat) : Bool :=
  s.on (R.SRC_CTRL_EN n) &&
    (if s.get (R.SRC_CTRL_INPUT n) = 0 then s.get (R.SRC_CTRL_INTERP n) != 0 && !(s.srcOf n).susp
     else !s.on (R.SRC_STATUS_STALE n) && (s.inRec n).last.isSome &&
       (s.get (R.SRC_CTRL_INPUT n) == 2 || (s.inRec n).prev.isSome))

/-- The rate of source `n` in 8.24 sub-ticks per event clock (R75). -/
def State.srcRateOf (s : State) (n : Nat) : Int :=
  if !s.interpOn n then 0
  else
    let r : Int :=
      if s.get (R.SRC_CTRL_INPUT n) = 0 then
        let c := s.get (R.SRC_CTRL_NUM n)
        match s.estimate c (s.get (R.SRC_CTRL_INTERP n)) with
        | some (a, b) =>
          let m := divRound (256 * 2 ^ 24 * b) (max 1 a)
          if s.on (R.ENC_STATUS_DIR c) then -m else m
        | none => 0
      else if s.get (R.SRC_CTRL_INPUT n) = 2 then (s.inRec n).rate
      else
        match (s.inRec n).last, (s.inRec n).prev with
        | some (v1, t1), some (v0, t0) =>
          divRound (256 * 2 ^ 24 * signed 48 (unsigned 48 ((v1 : Int) - v0))) (max 1 (t1 - t0))
        | _, _ => 0
    clampInt (-2 ^ 31) (2 ^ 31 - 1) r

/-- SRC_STATUS and SRC_RATE of source `n` follow its input. -/
def State.srcShow (s : State) (n : Nat) : State :=
  let dir := if s.get (R.SRC_CTRL_INPUT n) = 0 then s.on (R.ENC_STATUS_DIR (s.get (R.SRC_CTRL_NUM n)))
    else decide ((s.inRec n).dir < 0)
  ((s.setFlag (R.SRC_STATUS_DIR n) dir).setFlag (R.SRC_STATUS_INTERP_ON n) (s.interpOn n)).setInt (R.SRC_RATE_RATE n)
    (s.srcRateOf n)

/-- Source `n` takes the position of its input now, crossing what lies between (R68, R86). -/
def State.refreshSource (s : State) (n : Nat) : State :=
  if s.on (R.SRC_CTRL_EN n) && (s.srcOf n).loaded then (s.stepSource n (s.srcTarget n)).srcShow n else s

/-- The sources fed by input `kind` (0 encoder, 1 SSI, 2 station), channel `c`. -/
def State.fedBy (s : State) (kind c : Nat) : List Nat :=
  (List.range 8).filter fun n => s.get (R.SRC_CTRL_INPUT n) == kind && s.get (R.SRC_CTRL_NUM n) == c

/-- Interpolation may run at a counted edge of channel `c` (R72). -/
def State.mayInterp (s : State) (c n : Nat) : Bool :=
  (s.encOf c).sign == (s.encOf c).prevSign && (s.encOf c).sign != 0 &&
    (s.estimate c (s.get (R.SRC_CTRL_INTERP n))).isSome

/-- A counted edge of encoder channel `c` reaches its sources: u starts from 0, suspended or running (R71, R72). -/
def State.encEdge (s : State) (c : Nat) : State :=
  s.forList (s.fedBy 0 c) fun n s =>
    (s.setSrc n { s.srcOf n with susp := !s.mayInterp c n, held := 0 }).refreshSource n

/-- The estimate of channel `c` changed without an edge: where it no longer exists, interpolation is suspended and u keeps
its value (R72). `old` is the state before the change. -/
def State.encEstimate (s : State) (c : Nat) (old : State) : State :=
  s.forList (s.fedBy 0 c) fun n s =>
    let x := s.srcOf n
    if !x.susp && (s.estimate c (s.get (R.SRC_CTRL_INTERP n))).isNone then
      (s.setSrc n { x with susp := true, held := old.interpU n }).refreshSource n
    else s.refreshSource n

/-- A station source's staleness changes: kind 4 on EVT_STREAM (R172). -/
def State.streamEvent (s : State) (n : Nat) (stale : Bool) : State :=
  if s.get (R.SRC_CTRL_INPUT n) = 2 then
    s.publish R.EVT_STREAM_SEL 0x30 (s.get (R.SRC_CTRL_NUM n) + stale.toNat * 8 + 4 * 2 ^ 20)
  else s

/-- A new value of source `n` is in its record; STALE clears (R74), and the position takes it: at once where the direction
turned, otherwise never backward (R73). -/
def State.takeValue (s : State) (n : Nat) (turned : Bool) : State :=
  let s := if s.on (R.SRC_STATUS_STALE n) then (s.clear (R.SRC_STATUS_STALE n)).streamEvent n false else s
  if s.on (R.SRC_CTRL_EN n) && (s.srcOf n).loaded then
    if turned then
      match s.inputPos n with
      | some p => (s.stepSource n (posMod (p + s.srcOffset n))).srcShow n
      | none => s.srcShow n
    else s.refreshSource n
  else s

/-- A valid value reaches the sources that an input feeds (R73, R74). -/
def State.inputValue (s : State) (kind c : Nat) (turned : Bool) : State :=
  s.forList (s.fedBy kind c) fun n s => (s.setSrc n { s.srcOf n with miss := 0 }).takeValue n turned

/-- A valid count `v` of SSI channel `c`, valid at event clock `t`, is recorded and reaches its sources (R62, R73). A step of 0 keeps the
direction (assumption 124). -/
def State.ssiInput (s : State) (c v t : Nat) : State :=
  let x := (s.ssiOf c).reads
  let step : Int := match x.last with
    | some (v0, _) => signed 48 (unsigned 48 ((v : Int) - v0))
    | none => 0
  let dir := if step = 0 then x.dir else if step < 0 then -1 else 1
  (s.setSsi c { s.ssiOf c with reads := { x with last := some (v, t), prev := x.last, dir := dir } }).inputValue 1 c (x.turns dir)

/-- An accepted entry of receive stream `c` is recorded and reaches its sources: position word, sample time and RATE (R160, R161). The
direction of R73 is that of the step from entry to entry; a step of 0 keeps it (assumption 124). -/
def State.stationInput (s : State) (c p t : Nat) (rate : Int) : State :=
  let x := Tbl.get {} s.net.rx c
  let step : Int := match x.last with
    | some (p0, _) => posDiff p p0
    | none => 0
  let dir := if step = 0 then x.dir else if step < 0 then -1 else 1
  let s := { s with net := { s.net with rx := Tbl.put {} s.net.rx c { last := some (p, t), rate := rate, dir := dir } } }
  s.inputValue 2 c (x.turns dir)

/-- A due read of an SSI or station input gave no valid result (R74). -/
def State.inputMiss (s : State) (kind c : Nat) : State :=
  s.forList (s.fedBy kind c) fun n s =>
    s.setSrc n { s.srcOf n with miss := (s.srcOf n).miss + 1 }

/-- An event clock begins for source `n`: its position and those of its views are P0 of the clock (R86), and it moves on by one event clock of
interpolation (R71, R73). -/
def State.tickSources (s : State) : State := s.forEach 8 fun n s => (s.startSource n).refreshSource n

/-! ## Insertion and removal -/

/-- A client's number (R101). -/
def clientCode : Client → Nat
  | .jobs => 0
  | .compare => 1
  | .ling => 2
  | .creel => 3
  | .skep => 4
  | .port p => 8 + p.val

/-- Reserved bits and fields marked 0 in R82 are 0, by action code. -/
def entryFieldsOk (e : BitVec 128) : Bool :=
  let w := eWidth e
  let p := eParam e
  bitsOf e.toNat 116 4 == 0 && bitsOf e.toNat 125 3 == 0 &&
    (match eAction e with
     | 1 => ePeriodic e || p == 0
     | 2 => w / 256 == 0 && (ePeriodic e || p == 0)
     | 3 => w == 0 && p / 256 == 0
     | 4 => p / 2 ^ 12 == 0
     | 5 => bitsOf p 21 2 == 0
     | 6 => w == 0 && p / 64 == 0
     | 7 => w == 0 && p / 2 ^ 12 == 0
     | 8 => w == 0 && p / 64 == 0
     | _ => false)

/-- BAD_ENTRY (R84, R93). -/
def State.badEntry (s : State) (e : BitVec 128) : Bool :=
  eAction e == 0 || decide (8 < eAction e) || eDir e == 0 ||
    (ePeriodic e && decide (2 < eAction e)) || (ePeriodic e && (eDir e == 3 || eParam e == 0)) ||
    !entryFieldsOk e || (decide (8 ≤ eTl e) && !(s.viewPosOf (eTl e - 8)).active) ||
    (s.guarded (eChannel e) && !eGuarded e)

/-- Host ports 0 to 5, those of function 0. -/
def isFn0Port (c : Nat) : Bool := decide (8 ≤ c ∧ c < 14)

/-- DENIED (R82, R93). -/
def State.denied (s : State) (c : Nat) (e : BitVec 128) : Bool :=
  (eAction e == 5 && isFn0Port c && !bitAt (eParam e) 20) || (eAction e == 6 && c != 4) ||
    (eAction e == 7 && !(c == 2 || c == 4 || decide (14 ≤ c))) ||
    (isFn0Port c && (eGuarded e || s.guarded (eChannel e)))

/-- An entry is late at position `p` of its timeline (R90). -/
def isLate (e : BitVec 128) (p : Nat) : Bool :=
  let d := posDiff (ePos e) p
  match eDir e with
  | 1 => decide (d ≤ 0)
  | 2 => decide (0 ≤ d)
  | _ => decide (d = 0)

/-- Free slots of the table. -/
def State.freeSlots (s : State) : Nat := 262144 - s.get R.PE_USED_USED

/-- An event of the position engine itself on EVT_FULL or EVT_LATE, about entry `e` (R101), with the source of its timeline (R110). -/
def State.peEvent (s : State) (f : Sel) (c : Nat) (e : BitVec 128) (kind handle : Nat) : State :=
  match s.selCh? f with
  | none => s
  | some ch =>
    if s.byFn0 f && s.guarded ch then s.guardViol ch 0
    else s.request ⟨ch, 0, 0, 0, c % 16 + eAction e * 16 + kind * 2 ^ 12 + 0xF * 2 ^ 20, handle, false, some (s.tlSource (eTl e)), s.clk, []⟩

/-- LATE is set, counted and published (R91, R101). -/
def State.noteLate (s : State) (c : Nat) (e : BitVec 128) (fired : Bool) (handle : Nat) : State :=
  let s := s.raise R.PE_STATUS_LATE
  let s := if fired then s.bumpSat R.LATE_FIRE_CNT_CNT else s.bumpSat R.LATE_DROP_CNT_CNT
  s.peEvent R.EVT_LATE_SEL c e (if fired then 2 else 1) handle

/-- An entry is put into slot `i`. -/
def State.storeEntry (s : State) (i c : Nat) (e : BitVec 128) : State :=
  ((s.setSlot i { s.slotOf i with entry := e, client := c }).slotCounts (eTl e) 1).bump R.INSERT_CNT_CNT

/-- A late entry falls due behind the entries crossed in this clock, among the late ones by INDEX (R87, R91). On the timeline of a disabled
source it waits until the source is enabled (R70; assumption 104). -/
def State.fireLate (s : State) (i : Nat) : State :=
  s.addDue [{ slot := i, deferred := false, late := true, forward := eDir (s.slotOf i).entry != 2, clk := s.clk }]

/-- The answer to an insertion or removal: the state after it, STATUS (R96) and the handle. -/
structure PAnswer where
  state : State
  status : Nat
  handle : Nat

/-- An insertion becomes active (R90, R91, R99); causes are taken in the order of R778. The event on EVT_LATE is requested before the late
entry's own (assumption 104). -/
def State.peInsert (s : State) (c : Nat) (e : BitVec 128) (hint : Nat) : PAnswer :=
  if s.badEntry e then ⟨s, 2, 0⟩
  else if s.denied c e then ⟨s, 3, 0⟩
  else
    let late := isLate e (s.tlPos (eTl e))
    if late && !eLateFire e then ⟨s.noteLate c e false 0, 4, 0⟩
    else
      let short := decide (8 ≤ c) && decide (s.freeSlots < s.get R.PE_CTRL_RESERVE + 1)
      match if short then none else s.pickSlot hint with
      | none =>
        let s := (s.raise R.PE_STATUS_TABLE_FULL).bumpSat R.FULL_CNT_CNT
        ⟨s.peEvent R.EVT_FULL_SEL c e 0 0, 1, 0⟩
      | some i =>
        let h := s.handleOf i
        let s := s.storeEntry i c e
        if late then ⟨(s.noteLate c e true h).fireLate i, 5, h⟩ else ⟨s, 0, h⟩

/-- The slot that a handle names, if it holds an entry of that generation (R85, R96). -/
def State.findHandle (s : State) (h : Nat) : Option Nat :=
  let i := h % 2 ^ 18
  if (s.slotOf i).entry ≠ 0 ∧ s.handleOf i = h % 2 ^ 26 then some i else none

/-- A removal becomes active (R93, R97): the slot is freed and the entry does not fire. -/
def State.peRemove (s : State) (c h : Nat) : PAnswer :=
  match s.findHandle h with
  | none => ⟨s, 6, 0⟩
  | some i =>
    let e := (s.slotOf i).entry
    if isFn0Port c && (eGuarded e || s.guarded (eChannel e)) then ⟨s, 3, 0⟩
    else ⟨s.freeSlot i, 0, 0⟩

/-- A request enters a client's queue (R98). -/
def State.peQueue (s : State) (c : Client) (r : PReq) : State :=
  { s with pe := { s.pe with queue := Tbl.put [] s.pe.queue (clientCode c) (Tbl.get [] s.pe.queue (clientCode c) ++ [r]) } }

/-- The client whose queue the engine serves next: the first with a request after the one served last, in the order of their numbers (R98;
assumption 105). -/
def State.peTurn (s : State) : Option Nat :=
  ((List.range 16).map fun i => (s.pe.served + 1 + i) % 16).find? fun c => Tbl.get [] s.pe.queue c != []

/-- The requests that wait in a client's queue. -/
def State.peWaiting (s : State) (c : Client) : List PReq := Tbl.get [] s.pe.queue (clientCode c)

/-- A client's queue without its first request, which the engine has taken (R98). -/
def State.peTake (s : State) (c : Client) : State :=
  { s with pe := { s.pe with served := clientCode c, queue := Tbl.put [] s.pe.queue (clientCode c) ((Tbl.get [] s.pe.queue (clientCode c)).drop 1) } }

/-- The slots in use on timeline `t`. -/
def State.slotsOn (s : State) (t : Nat) : List Nat :=
  (s.pe.slots.filter fun (_, x) => x.entry != 0 && eTl x.entry == t).map (·.1)

/-- The view timeline is loaded and exists from now on (R77, R80). -/
def State.startViewPos (s : State) (v : Nat) : State :=
  let off := s.get2 (R.VIEW_OFFSET_LO_OFFSET v) (R.VIEW_OFFSET_HI_OFFSET v)
  let p := signed 56 (s.srcPos (s.get (R.VIEW_BIND_SOURCE v)))
  let a := unsigned 80 ((off : Int) * 2 ^ 24 + p * s.getInt (R.VIEW_SCALE_SCALE v))
  ((s.setViewPos v { acc := a, start := a / 2 ^ 24, active := true }).raise (R.VIEW_STATUS_ACTIVE v)).set (R.VIEW_POS_LO_POS v) (a / 2 ^ 24)

/-- The entries of a view's timeline are removed without firing, each counted in DISCARD_CNT (R80); the timeline ends. -/
def State.stopViewPos (s : State) (v : Nat) : State :=
  let s := s.forList (s.slotsOn (v + 8)) fun i s =>
    ((s.freeSlot i).raise R.PE_STATUS_DISCARD).bumpSat R.DISCARD_CNT_CNT
  (s.setViewPos v { s.viewPosOf v with active := false }).clear (R.VIEW_STATUS_ACTIVE v)

/-- A distance in ticks of the bound source in view units: sub-ticks times VIEW_SCALE, halves away from zero (R79). -/
def State.viewDist (s : State) (v : Nat) (subticks : Int) : Int :=
  divRound (subticks * s.getInt (R.VIEW_SCALE_SCALE v)) (2 ^ 24)

/-! ## Commands -/

/-- The input and INTERP of a disabled source are as written; `old` is the state before. STALE stays as it is (assumption 124). With another input interpolation runs from the last
counted edge where R72 does not suspend it; a mode without an estimate suspends it, and u keeps its value (R71, R72). -/
def State.srcSelect (s : State) (n : Nat) (old : State) : State :=
  let x := s.srcOf n
  let c := s.get (R.SRC_CTRL_NUM n)
  if bitsOf (s.reg (R.SRC_CTRL n)).toNat 1 5 ≠ bitsOf (old.reg (R.SRC_CTRL n)).toNat 1 5 then
    s.setSrc n { pos := x.pos, start := x.start, susp := !(s.get (R.SRC_CTRL_INPUT n) == 0 && s.mayInterp c n) }
  else if !x.susp && (s.estimate c (s.get (R.SRC_CTRL_INTERP n))).isNone then
    s.setSrc n { x with loaded := false, susp := true, held := old.interpU n }
  else s.setSrc n { x with loaded := false }

/-- SRC_CTRL_WRITE (R69, R70): a reserved input is ignored whole; INPUT, NUM and INTERP change only while EN was 0. The position
is loaded by SOURCE_ENABLE. -/
def execSrcCtrlWrite (who : Who) (n : Fin 8) (v : Word) (s : State) : Host.Outcome State Fault Refusal :=
  .next <| s.viaBus who fun s =>
    let x := v.toNat
    let rsv := bitsOf x 1 2 = 3 ∨ (bitsOf x 1 2 = 1 ∧ 4 ≤ bitsOf x 3 3)
    if rsv then s.raise (R.SRC_STATUS_WRITE_REJ n)
    else if s.on (R.SRC_CTRL_EN n) then
      let rej := decide (bitsOf x 1 7 ≠ bitsOf (s.reg (R.SRC_CTRL n)).toNat 1 7)
      let s := s.set (R.SRC_CTRL_EN n) x
      let s := if rej then s.raise (R.SRC_STATUS_WRITE_REJ n) else s
      if s.on (R.SRC_CTRL_EN n) then s
      else (s.setSrc n { s.srcOf n with loaded := false }).srcShow n
    else
      let old := s
      let s := s.writeReg (R.SRC_CTRL n) v
      s.srcSelect n old

/-- SOURCE_STALE (R74): SRC_STALE due reads in a row gave no valid result; the position holds. -/
def execSourceStale (n : Fin 8) (s : State) : Host.Outcome State Fault Refusal :=
  .next <|
    if s.on (R.SRC_CTRL_EN n) && s.get (R.SRC_CTRL_INPUT n) != 0 &&
        decide (s.get (R.SRC_STALE_READS n) ≤ (s.srcOf n).miss) then
      let s := if s.on (R.SRC_STATUS_STALE n) then s else s.streamEvent n true
      ((s.raise (R.SRC_STATUS_STALE n)).raise (R.SRC_STATUS_STALE_SEEN n)).srcShow n
    else s

/-- VIEW_CFG_WRITE (R19, R105): only while the view unit is OFF, else BIND_REJ. -/
def execViewCfgWrite (who : Who) (n : Fin 8) (r : ViewReg) (v : Word) (s : State) : Host.Outcome State Fault Refusal :=
  .next <| s.viaBus who fun s =>
    if s.unitOff (viewUnit n) then
      match r with
      | .bind => s.set (R.VIEW_BIND_SOURCE n) v.toNat
      | .scale => s.set (R.VIEW_SCALE_SCALE n) v.toNat
      | .offsetLo => s.set (R.VIEW_OFFSET_LO_OFFSET n) v.toNat
      | .offsetHi => s.set (R.VIEW_OFFSET_HI_OFFSET n) v.toNat
    else s.raise (R.VIEW_STATUS_BIND_REJ n)

/-- Ports 6 and 7 are out of reach of function 0 (R93). -/
def portReach (who : Who) (p : Fin 8) : Bool := !(who == .fn0 && decide (6 ≤ p.val))

/-- The entry held in the port's word registers (R94). -/
def State.portEntry (s : State) (p : Nat) : BitVec 128 :=
  BitVec.ofNat 128 (s.get (R.PORT_W_0_W p) + s.get (R.PORT_W_1_W p) * 2 ^ 32 + s.get (R.PORT_W_2_W p) * 2 ^ 64 +
    s.get (R.PORT_W_3_W p) * 2 ^ 96)

/-- A port command: ignored with CMD_IGN while DONE is 0, else DONE clears and the request is queued (R94, R95). -/
def State.portCmd (s : State) (p : Fin 8) (r : PReq) : State :=
  if s.on (R.PORT_RESULT_DONE p) then (s.clear (R.PORT_RESULT_DONE p)).peQueue (.port p) r
  else s.raise (R.PORT_RESULT_CMD_IGN p)

/-- PORT_INSERT (R94). -/
def execPortInsert (who : Who) (p : Fin 8) (s : State) : Host.Outcome State Fault Refusal :=
  .next <| s.viaBus who fun s =>
    if portReach who p then s.portCmd p ⟨true, s.portEntry p, 0, 0⟩ else s

/-- PORT_REMOVE (R94, R97). -/
def execPortRemove (who : Who) (p : Fin 8) (s : State) : Host.Outcome State Fault Refusal :=
  .next <| s.viaBus who fun s =>
    (if portReach who p then
      s.portCmd p ⟨false, 0, s.get (R.PORT_HANDLE_INDEX p) + s.get (R.PORT_HANDLE_GEN p) * 2 ^ 18, 0⟩ else s)

end Sys2Proof.Machine
end

