-- ==== Sys2Proof/Machine/Ecc.lean ====
section
/-!
DEFINITION. Segments of device memory, its ECC and poison (chapter 10).
-/
set_option Elab.async false
namespace Sys2Proof.Machine

def State.histOf (s : State) (v : Nat) : Hist := Tbl.get {} s.creel.hist v
def State.setHist (s : State) (v : Nat) (h : Hist) : State :=
  { s with creel := { s.creel with hist := Tbl.put {} s.creel.hist v h } }
def State.rawOf (s : State) (d : Nat) : RawRing := Tbl.get {} s.creel.raw d
def State.setRaw (s : State) (d : Nat) (x : RawRing) : State :=
  { s with creel := { s.creel with raw := Tbl.put {} s.creel.raw d x } }
def State.markOf (s : State) (m : Nat) : Mark := Tbl.get {} s.creel.marks m
def State.setMark (s : State) (m : Nat) (x : Mark) : State :=
  { s with creel := { s.creel with marks := Tbl.put {} s.creel.marks m x } }
def State.refsOf (s : State) (j : Nat) : List (Nat × Nat) := Tbl.get [] s.creel.refs j

/-- Events of Creel (R392). -/
def State.publishCreel (s : State) (arg kind : Nat) : State :=
  s.publish R.EVT_CREEL_SEL 0x43 (arg % 2 ^ 12 + kind * 2 ^ 12 + 0x6 * 2 ^ 20)

/-! ## Segments -/

/-- First segment of the host window (R389). -/
def State.hostWin (s : State) : Nat := 786432 - s.get R.HOSTWIN_SEGS_SEGS

/-- A run of bytes lies wholly in the host window. -/
def State.inHostWin (s : State) (d n : Nat) : Bool := decide (s.hostWin * 65536 ≤ d ∧ d + n ≤ 786432 * 65536)

/-- Every allocated run with its region code and owner (R358, R361). -/
def State.allocated (s : State) : List ((Nat × Nat) × Nat × Nat) :=
  (s.creel.hist.flatMap fun (v, h) =>
    h.ring.map (fun x => (x, 3, v)) ++ h.stage.map (fun x => (x, 5, v)) ++ h.work.map (fun x => (x, 6, v))) ++
  (s.creel.raw.flatMap fun (d, x) => x.segs.map fun y => (y, 4, d)) ++
  (s.creel.learn.flatMap fun (v, l) => l.map fun y => (y, 6, v)) ++
  (s.creel.refs.flatMap fun (j, l) => l.map fun y => (y, 7, j))

/-- Region and owner of a segment (R358, R361). -/
def State.segInfo (s : State) (g : Nat) : Nat × Nat :=
  if g < 2048 then (1, 0)
  else if s.hostWin ≤ g then (2, 0)
  else match s.allocated.find? fun x => decide (x.1.1 ≤ g ∧ g < x.1.1 + x.1.2) with
    | some x => x.2
    | none => (0, 0)

/-- The first `n` free segments from `lo` on and below `hi`, as runs, beside the used runs of that range in order. -/
def takeRuns (hi : Nat) : Nat → List (Nat × Nat) → Nat → List (Nat × Nat)
  | lo, [], n => if n = 0 ∨ hi ≤ lo then [] else [(lo, min n (hi - lo))]
  | lo, (a, l) :: t, n =>
    if n = 0 then []
    else if lo < a then (lo, min n (a - lo)) :: takeRuns hi (a + l) t (n - min n (a - lo))
    else takeRuns hi (a + l) t n

/-- Segments of a list of runs. -/
def runLen (l : List (Nat × Nat)) : Nat := (l.map (·.2)).sum

/-- The segments of a quota, named by its free count, from the first up to but not with the second (R358, R360): history, reference and work, one
after the other (assumption 142). -/
def State.quotaSegs (s : State) (f : Fld) : Nat × Nat :=
  let hist := 2048 + s.get R.HIST_QUOTA_SEGS
  let refs := hist + s.get R.REF_QUOTA_SEGS
  if f = R.FREE_HIST_SEGS then (2048, hist)
  else if f = R.FREE_REF_SEGS then (hist, refs)
  else (refs, s.hostWin)

/-- An allocation from a quota's own free list, whose count is `f`: whole or not at all (R360). -/
def State.alloc (s : State) (f : Fld) (n : Nat) : Option (State × List (Nat × Nat)) :=
  if n ≤ s.get f then
    let (lo, hi) := s.quotaSegs f
    let used := (s.allocated.map (·.1)).filter fun x => decide (lo ≤ x.1 ∧ x.1 < hi)
    some (s.set f (s.get f - n), takeRuns hi lo (sortBy (fun x => (x.1, 0)) used) n)
  else none

/-- Segments return to the list of their quota (R360). -/
def State.giveBack (s : State) (f : Fld) (l : List (Nat × Nat)) : State := s.set f (s.get f + runLen l)

/-! ## ECC and poison -/

def State.poisoned (s : State) (u : Nat) : Bool := Tbl.get false s.creel.poison u
def State.setPoison (s : State) (u : Nat) (b : Bool) : State :=
  { s with creel := { s.creel with poison := Tbl.put false s.creel.poison u b } }

/-- The pseudo-channel of a unit: the first 32 are those of stack 0 (R354, R385; assumption 1). -/
def pcOf (u : Nat) : Nat := Config.pseudoChannel (u / 8) % 64

/-- A UE of unit `u` (R381, R383): poisoned, counted for its stack, logged and published. -/
def State.ueAt (s : State) (u : Nat) (scrub : Bool) : State :=
  let (reg, own) := s.segInfo (u * 32 / 65536)
  let i := s.get R.UE_LOG_HEAD_NEXT
  let s := s.setPoison u true
  let s := if pcOf u < 32 then s.bumpSat R.UE_CNT_0_CNT else s.bumpSat R.UE_CNT_1_CNT
  let s := (s.set (R.UE_LOG_ADDR_ADDR i) (u * 32)).set (R.UE_LOG_INFO_ADDR_HI i) (u * 32 / 2 ^ 32)
  let s := ((s.set (R.UE_LOG_INFO_REGION i) reg).set (R.UE_LOG_INFO_OWNER i) own).setFlag (R.UE_LOG_INFO_SCRUB i) scrub
  let s := ((s.raise (R.UE_LOG_INFO_VALID i)).set (R.UE_LOG_TIME_LO_NS i) s.timeNs).set (R.UE_LOG_TIME_HI_NS i) (s.timeNs / 2 ^ 32)
  let s := (s.bump R.UE_LOG_HEAD_NEXT).raise R.MEM_STATUS_UE
  (s.publishCreel i 4).log 11 (leBytes 4 (s.reg (R.UE_LOG_ADDR i)).toNat ++ leBytes 4 (s.reg (R.UE_LOG_INFO i)).toNat ++
    leBytes 4 (s.reg (R.UE_LOG_TIME_LO i)).toNat ++ leBytes 4 (s.reg (R.UE_LOG_TIME_HI i)).toNat)

/-- A correctable error read on pseudo-channel `pc` (R380, R385). -/
def State.ceAt (s : State) (pc : Nat) : State :=
  let s := if pc < 32 then s.bumpSat R.CE_CNT_0_CNT else s.bumpSat R.CE_CNT_1_CNT
  let hour := s.clk / 900000000000
  let c := s.creel
  let c := if c.ceHour = hour then c else { c with ceHour := hour, ce := [], ceWarned := [] }
  let n := Tbl.get 0 c.ce pc + 1
  let s := { s with creel := { c with ce := Tbl.put 0 c.ce pc n } }
  if s.get R.CE_THRESH_CNT < n ∧ Tbl.get false s.creel.ceWarned pc = false then
    let s := { s with creel := { s.creel with ceWarned := Tbl.put false s.creel.ceWarned pc true } }
    ((s.raise R.MEM_STATUS_CE_WARN).set R.CE_WARN_PC_PC pc).publishCreel pc 5
  else s

/-- A read meets an error: a corrected unit, or an uncorrectable one (R380, R381). -/
def State.memErr (s : State) (e : MemErr) (scrub : Bool) : State :=
  if e.ue then (if s.poisoned e.unit then s else s.ueAt e.unit scrub) else s.ceAt (pcOf e.unit)
def State.memErrs (s : State) (l : List MemErr) : State := s.forList l fun e s => s.memErr e false

/-- The errors of a unit are gone: it has been written (R380, R381). -/
def State.flawsDrop (s : State) (u : Nat) : State :=
  { s with creel := { s.creel with flaws := s.creel.flaws.filter (·.unit != u) } }

/-- A read meets the errors that lie in the units that it touches (R380, R381). A unit with an uncorrectable error is poisoned from then on; a corrected
unit keeps its error in memory until it is written. -/
def State.memMeet (s : State) (hit : Nat → Bool) : State :=
  let l := s.creel.flaws.filter (hit ·.unit)
  ({ s with creel := { s.creel with flaws := s.creel.flaws.filter fun e => !(hit e.unit && e.ue) } }).memErrs l

/-- A unit touched by a read of `n` bytes at `a`, and that read. -/
def unitIn (a n u : Nat) : Bool := decide (a < u * 32 + 32 ∧ u * 32 < a + n)
def State.readMeet (s : State) (a n : Nat) : State := s.memMeet (unitIn a n)

/-- A read touches a poisoned unit (R382). -/
def State.readPoison (s : State) (a n : Nat) : Bool :=
  s.creel.poison.any fun (u, p) => p && unitIn a n u

/-- A write to the part of unit `u` from byte `a` (R381): a whole unit takes valid check bits, and a part of a poisoned unit is discarded; one of a unit
that holds an uncorrectable error poisons it first (R380). `tag`: the data written is poisoned. -/
def State.unitWrite (s : State) (a : Nat) (bs : List Byte) (tag : Bool) : State :=
  let u := a / 32
  if bs.length = 32 then ((s.setBytes a bs).setPoison u tag).flawsDrop u
  else
    let s := (s.memMeet (· == u)).flawsDrop u
    if s.poisoned u then s.raise R.MEM_STATUS_PARTIAL_POISON
    else if tag then (s.setBytes a bs).setPoison u true
    else s.setBytes a bs

/-- A write of bytes to device memory, unit by unit; `fuel` bounds the units. -/
def State.memWriteGo (tag : Bool) : Nat → State → Nat → List Byte → State
  | 0, s, _, _ => s
  | fuel + 1, s, a, bs =>
    if bs = [] then s
    else
      let n := 32 - a % 32
      State.memWriteGo tag fuel (s.unitWrite a (bs.take n) tag) (a + n) (bs.drop n)
def State.memWrite (s : State) (a : Nat) (bs : List Byte) (tag : Bool := false) : State :=
  State.memWriteGo tag (bs.length / 32 + 2) s a bs

end Sys2Proof.Machine
end

