-- ==== Sys2Proof/Machine/Contexts.lean ====
section
/-!
DEFINITION. Repeat contexts (R490 to R497): allocation, the two conditions for retirement, and the context image. Keys from
2²⁰ upward stand for repeats cut without a context.
-/
set_option Elab.async false
namespace Sys2Proof.Machine

def State.ctxOf (s : State) (k : Nat) : Ctx := Tbl.get {} s.ctxs k
def State.setCtx (s : State) (k : Nat) (c : Ctx) : State := { s with ctxs := Tbl.put {} s.ctxs k c }

/-- A key names a context, not a repeat without one. -/
def isCtx (k : Nat) : Bool := decide (k < 1048576)

/-- The slot, web lane and sequence of a context's tag (R12). -/
def Ctx.slot (c : Ctx) : Nat := bitsOf c.tag 58 6
def Ctx.lane (c : Ctx) : Nat := bitsOf c.tag 52 6

/-- The context image (R496). -/
def Ctx.image (c : Ctx) : List Byte :=
  leBytes 8 c.tag ++ leBytes 8 c.anchor ++ leBytes 8 c.endPos ++ leBytes 4 c.firstRow ++ leBytes 2 c.rows ++
  leBytes 1 c.view ++ leBytes 1 (c.state + c.actDone.toNat * 8 + c.delivDone.toNat * 16) ++
  leBytes 8 c.openTime ++ leBytes 8 c.imagedTime ++ leBytes 8 c.judgedTime ++ leBytes 8 c.gatePos ++
  leBytes 4 (match c.gateHandle with | some h => h % 2 ^ 26 + 2 ^ 31 | none => 0) ++
  leBytes 1 c.actResult ++ leBytes 1 c.verdict ++ leBytes 2 c.rule ++ leBytes 2 c.cflags ++
  leBytes 1 c.markScore ++ leBytes 1 0 ++ leBytes 4 (unsigned 32 c.markDx) ++ leBytes 4 (unsigned 32 c.markDy) ++
  leBytes 4 0 ++ leBytes 8 c.actPos ++ padTo 32 c.cmp

/-! ## The context cache (R386, R387) -/

/-- Context `k` is written back to memory: whole units, poisoned where the context is (R381, R382, R387). -/
def State.ctxBack (s : State) (k : Nat) : State := s.memWrite (k * 128) (s.ctxOf k).image (Tbl.get false s.creel.badCtx k)

/-- A context enters or leaves the cache, poisoned or not. -/
def State.ctxCached (s : State) (k : Nat) (held bad : Bool) : State :=
  let c := s.creel
  { s with creel := { c with cached := Tbl.put false c.cached k held, badCtx := Tbl.put false c.badCtx k bad } }

/-- A lookup of a context (R387): a hit, or a miss that reads it from memory, with the errors and the poison that the read meets, and takes the
place of a context of Creel's choice (a free one, assumption 1), which is written back. -/
def State.ctxTouch (s : State) (k : Nat) : State :=
  if !isCtx k then s
  else if Tbl.get false s.creel.cached k then s.bump R.CTX_CACHE_HIT_CNT
  else
    let c := s.creel
    let victim := (c.cached.getD (s.freeVal 14) (k, true)).1
    let s := if c.cached.length < 16384 then s else (s.useFree.ctxBack victim).ctxCached victim false false
    let s := s.readMeet (k * 128) 128
    let bad := s.readPoison (k * 128) 128
    -- a poisoned context is marked (R382)
    let s := if bad then s.setCtx k { s.ctxOf k with cflags := (s.ctxOf k).cflags ||| 16 } else s
    (s.ctxCached k true bad).bump R.CTX_CACHE_MISS_CNT

/-- Every context in the cache is written back (R387). -/
def State.ctxFlush (s : State) : State := s.forList s.creel.cached.keys fun k s => s.ctxBack k

/-- Poison of a context: of its place in the cache, or of its bytes in memory (R382, R388). -/
def State.ctxPoison (s : State) (k : Nat) : Bool :=
  isCtx k && (if Tbl.get false s.creel.cached k then Tbl.get false s.creel.badCtx k else s.readPoison (k * 128) 128)

/-! ## Retirement -/

/-- A context retires: it joins the queue (R491, R492); a repeat without a context is forgotten. -/
def State.ctxRetire (s : State) (k : Nat) : State :=
  if isCtx k then
    let s := s.setCtx k { s.ctxOf k with state := 5 }
    ({ s with ctxQueue := s.ctxQueue ++ [(k, s.clk)] }).bump R.CTX_RETIRED_CNT
  else s.setCtx k {}

/-- ACT_RESULT of a context that has been looked up is set, once (R492, R493). -/
def State.ctxActs (s : State) (k result pos : Nat) : State :=
  let c := s.ctxOf k
  if c.actDone then s
  else
    let s := s.setCtx k { c with actDone := true, actResult := result, actPos := pos,
                                 state := if c.delivDone then c.state else max 3 c.state }
    if c.delivDone then s.ctxRetire k else s

/-- ACT_RESULT of a context is set, once (R387, R492, R493). -/
def State.ctxActed (s : State) (k result pos : Nat) : State := (s.ctxTouch k).ctxActs k result pos

/-- Withy reports a repeat delivered (R387, R492, R567). -/
def State.ctxDelivered (s : State) (k : Nat) : State :=
  let s := s.ctxTouch k
  let c := s.ctxOf k
  if c.delivDone || c.state == 5 then s
  else
    let s := s.setCtx k { c with delivDone := true, state := if c.actDone then c.state else max 4 c.state }
    if c.actDone then s.ctxRetire k else s

/-- The context at the head of the queue, if one had retired before this clock (R491). -/
def State.ctxHead (s : State) : Option Nat :=
  if s.ctxFresh < 1048576 then some s.ctxFresh
  else match s.ctxQueue with
    | (k, t) :: _ => if t < s.clk then some k else none
    | [] => none

/-- The head of the queue leaves it (R491). -/
def State.ctxShift (s : State) : State :=
  if s.ctxFresh < 1048576 then { s with ctxFresh := s.ctxFresh + 1 } else { s with ctxQueue := s.ctxQueue.drop 1 }

/-- The state after the head of the queue has been allocated: it enters OPEN with the contents given, which cover it whole (R381, R387). -/
def State.ctxTake (s : State) (k : Nat) (c : Ctx) : State :=
  let s := ((s.ctxTouch k).ctxCached k true false).ctxShift
  let s := s.setCtx k { c with state := 0 }
  let s := s.set R.CTX_RETIRED_CNT (s.get R.CTX_RETIRED_CNT - 1)
  if s.get R.CTX_RETIRED_CNT < s.get R.CTX_LOW_MIN then s.set R.CTX_LOW_MIN (s.get R.CTX_RETIRED_CNT) else s

/-- A repeat without a context takes a key of its own (R497). -/
def State.ctxNone (s : State) (c : Ctx) : State :=
  { s.setCtx s.noCtxKey { c with state := 0 } with noCtxKey := s.noCtxKey + 1 }

/-- A GATE event reaches the gate input of job control (R387, R493, R494). -/
def State.gateEvent (s : State) (e : Event) : State :=
  if e.req.action = 5 ∧ bitAt (s.reg (R.GATE_MASK (e.req.channel / 32))).toNat (e.req.channel % 32) ∧ bitAt e.req.param 20 = false then
    let k := bitsOf e.req.param 0 20
    let s := s.ctxTouch k
    let c := s.ctxOf k
    if c.gateHandle = some (e.req.handle % 2 ^ 26) ∧ c.actDone = false then
      s.ctxActs k (if e.req.late then 3 else 2) e.position
    else s.bumpSat R.GATE_STRAY_CNT_CNT
  else s

/-- What the removal of a GATE entry does to the context it names (R80, R97, R493). -/
def State.gateRemoved (s : State) (entry : BitVec 128) (handle result : Nat) : State :=
  if eAction entry = 5 ∧ bitAt (eParam entry) 20 = false then
    let k := bitsOf (eParam entry) 0 20
    let s := s.ctxTouch k
    if (s.ctxOf k).gateHandle = some (handle % 2 ^ 26) then s.ctxActs k result 0 else s
  else s

end Sys2Proof.Machine
end

