-- ==== Sys2Proof/Machine/Records.lean ====
section
/-!
DEFINITION. Withy's queues (R552 to R556): what queueing a record for its rings does, and LOSS records of the link layer and of
Creel. Issuing stands in Machine/Withy.lean.
-/
set_option Elab.async false
namespace Sys2Proof.Machine

/-- Kinds of EVT_WITHY (R577). -/
def State.publishWithy (s : State) (n kind : Nat) : State :=
  s.publish R.EVT_WITHY_SEL 0x44 (n % 256 + kind * 2 ^ 12 + 0xB * 2 ^ 20)

def State.ringQueue (s : State) (r : Nat) : List WRec := Tbl.get [] s.ringQ r

/-- The records queued in all rings. -/
def State.queued (s : State) : Nat := (s.ringQ.map fun e => e.2.length).sum

/-- The queue of a ring is replaced; the level registers follow (R582, R583). -/
def State.setRingQueue (s : State) (r : Nat) (q : List WRec) : State :=
  let s := { s with ringQ := Tbl.put [] s.ringQ r q }
  (s.set (R.RING_QLEVEL_RECORDS r) q.length).set R.PEND_LEVEL_RECORDS s.queued

/-- SIZE of ring `r`, entries from HEAD up to TAIL, and free entries (R553 to R555). -/
def State.ringSize (s : State) (r : Nat) : Nat := 2 ^ clampNat 6 16 (s.get (R.RING_CTRL_SIZE_LOG2 r))
def State.ringUsed (s : State) (r : Nat) : Nat :=
  (s.get (R.RING_PTR_TAIL r) + s.ringSize r - s.get (R.RING_HEAD_HEAD r)) % s.ringSize r
def State.ringFree (s : State) (r : Nat) : Nat := s.ringSize r - s.ringUsed r

/-- One REPEAT record of a repeat has been issued or dropped; after the last the repeat is delivered, and its candidate block
is released (R520, R567), unless the ring of blocks has become shorter meanwhile. -/
def State.repeatDelivered (s : State) (k : Nat) : State :=
  let s := match Tbl.get none s.candOf k with
    | some (v, b) =>
      let free := Tbl.get [] s.candFree v
      { s with candFree := Tbl.put [] s.candFree v (if b < s.get (R.CAND_BLOCKS_BLOCKS v) then free ++ [b] else free), candOf := Tbl.put none s.candOf k none }
    | none => s
  s.ctxDelivered k
def State.repeatOut (s : State) (k : Nat) : State :=
  let n := Tbl.get 0 s.repeatsOut k
  let s := { s with repeatsOut := Tbl.put 0 s.repeatsOut k (n - 1) }
  if n ≤ 1 then s.repeatDelivered k else s
def State.fetchOf (s : State) (f : Nat) : FetchSt := Tbl.get {} s.withy.fetch f
def State.setFetch (s : State) (f : Nat) (x : FetchSt) : State :=
  { s with withy := { s.withy with fetch := Tbl.put {} s.withy.fetch f x } }

/-- A fetch ends with a STATUS (R571). -/
def State.fetchEnd (s : State) (f status : Nat) : State :=
  (((s.setFetch f { gen := (s.fetchOf f).gen }).set (R.FB_RESULT_STATUS f) status).raise (R.FB_RESULT_DONE f)).publishWithy f 5

/-- The queued record of a fetch has been issued or dropped. -/
def State.fetchOut (s : State) (f : Nat) : State := s.setFetch f { s.fetchOf f with out := false }

def State.reportOut (s : State) (r : WRec) : State :=
  let s := match r.fetch with | some f => s.fetchOut f | none => s
  if r.type = 1 then (match r.key with | some k => s.repeatOut k | none => s) else s

/-- A record is dropped by its ring (R555); RING_DROP is published at the first drop after a RING_FULL record (R577). No LOSS record reports a
PREVIEW (R569). -/
def State.ringDrop (s : State) (r : Nat) (x : WRec) : State :=
  let (n, m) := Tbl.get (0, 0) s.ringLost r
  let w := Tbl.get ({} : RingSt) s.withy.ring r
  let first := !w.told
  let w := { w with told := true, lostTag := if x.type = 3 then w.lostTag else if n = 0 then x.tag else 0 }
  let s := if x.type = 3 then s else { s with ringLost := Tbl.put (0, 0) s.ringLost r (n + 1, m ||| 2 ^ (x.type - 1)) }
  let s := { s with withy := { s.withy with ring := Tbl.put {} s.withy.ring r w } }
  let s := (s.bumpSat (R.RING_DROP_CNT_CNT r)).raise (R.RING_STATUS_DROPPED r)
  let s := if first then s.publishWithy r 1 else s
  s.reportOut x

/-- A record is queued for ring `r`: nothing for a ring that is not enabled (R556); a record that finds too few entries waits,
or is dropped under FULL_POLICY, QMAX or a full pending store (R555). -/
def State.queueRec (s : State) (r : Nat) (x : WRec) : State :=
  if s.on (R.RING_CTRL_EN r) then
    let q := s.ringQueue r
    let short := decide (s.ringFree r < q.length + 3)
    if 65536 ≤ s.queued then (s.raise R.WITHY_STATUS_PEND_FULL).ringDrop r x
    else if short && (s.on (R.RING_CTRL_FULL_POLICY r) || decide (s.get (R.RING_QMAX_QMAX r) ≤ q.length)) then s.ringDrop r x
    else s.setRingQueue r (q ++ [{ x with clk := s.clk }])
  else s.reportOut x

/-- Enabled rings that take record type `t` of view `v` (R556). -/
def State.ringsFor (s : State) (t v : Nat) : List Nat :=
  (List.range 256).filter fun r =>
    s.on (R.RING_CTRL_EN r) && bitAt (s.get (R.RING_FILTER_TYPE_MASK r)) (t - 1) && bitAt (s.get (R.RING_FILTER_VIEW_MASK r)) v

/-- Type area of a LOSS record (R552). -/
def lossArea (cause origin ep stream ltypes first last endPos : Nat) : List Byte :=
  leBytes 1 cause ++ leBytes 1 origin ++ leBytes 2 ep ++ leBytes 1 stream ++ leBytes 1 ltypes ++ leBytes 2 0 ++
  leBytes 4 first ++ leBytes 4 last ++ leBytes 8 endPos

/-- A LOSS record of the link layer (R244, R258) for descriptor `d`: routed by its view, counted, and published. -/
def State.lossLink (s : State) (f d cause first last : Nat) : State :=
  let v := s.get (R.SD_BIND_VIEW d)
  let x : WRec := { type := 7, view := v, area := lossArea cause 0 (s.get (R.SD_BIND_EP d)) (s.get (R.SD_BIND_STREAM d)) 0 first last 0 }
  let s := s.forList (s.ringsFor 7 v) fun r s => s.queueRec r x
  -- the next row of the view carries GAP (R366)
  let h := Tbl.get {} s.creel.hist v
  let s := { s with creel := { s.creel with hist := Tbl.put {} s.creel.hist v { h with gap := true } } }
  let s := s.bumpSat (R.SD_LOSS_CNT_CNT d) (unsigned 32 ((last : Int) - first) + 1)
  (s.bumpSat (R.LOSS_CNT_CNT f)).publish (R.EVT_LINK_SEL f) 0x40 (f + 3 * 256 + 0x3 * 2 ^ 20)

/-- A LOSS record of Creel (R552): rows lost of a view, with the positions of the first and the last. -/
def State.lossCreel (s : State) (v cause rows pos endPos : Nat) : State :=
  let x : WRec := { type := 7, view := v, pos := pos, area := lossArea cause 1 0 0 0 rows 0 endPos }
  s.forList (s.ringsFor 7 v) fun r s => s.queueRec r x

end Sys2Proof.Machine
end

