-- ==== Sys2Proof/Machine/Memory.lean ====
section
/-!
DEFINITION. What Creel does for the other blocks (chapter 10): history rings and their marks, and raw rings.
-/
set_option Elab.async false
namespace Sys2Proof.Machine

/-- WORK_SEGS shows the stage, work and learning segments of a view (R358, R394, R535). -/
def State.showWork (s : State) (v : Nat) : State :=
  s.set (R.WORK_SEGS_SEGS v) (runLen (s.histOf v).stage + runLen (s.histOf v).work + runLen (Tbl.get [] s.creel.learn v))

/-! ## Bytes of a list of runs -/

/-- A write at byte offset `x` of the segments of a list of runs. -/
def State.runWrite (s : State) : List (Nat × Nat) → Nat → List Byte → State
  | [], _, _ => s
  | (g, n) :: t, x, bs =>
    let len := n * 65536
    if len ≤ x then s.runWrite t (x - len) bs
    else if bs.length ≤ len - x then s.memWrite (g * 65536 + x) bs
    else (s.memWrite (g * 65536 + x) (bs.take (len - x))).runWrite t 0 (bs.drop (len - x))

/-- The address of a byte offset of a list of runs. -/
def runAddr : List (Nat × Nat) → Nat → Nat
  | [], x => x
  | (g, n) :: t, x => if x < n * 65536 then g * 65536 + x else runAddr t (x - n * 65536)

/-- A unit that `n` bytes from a byte offset of a list of runs touch. -/
def runUnit (l : List (Nat × Nat)) (x n u : Nat) : Bool :=
  decide (0 < n) && (List.range ((n + 31) / 32 + 1)).any fun i => runAddr l (x + min (i * 32) (n - 1)) / 32 == u

/-- `n` bytes from a byte offset of a list of runs, and whether a unit read is poisoned. -/
def State.runRead (s : State) (l : List (Nat × Nat)) (x n : Nat) : List Byte :=
  (List.range n).map fun i => s.byte (runAddr l (x + i))
def State.runPoison (s : State) (l : List (Nat × Nat)) (x n : Nat) : Bool :=
  s.creel.poison.any fun (u, p) => p && runUnit l x n u

/-- A read from a byte offset of a list of runs meets the errors of the units that it touches (R380, R381). -/
def State.runMeet (s : State) (l : List (Nat × Nat)) (x n : Nat) : State := s.memMeet (runUnit l x n)

/-! ## History rings -/

/-- The rows that the ring holds. -/
def State.retainedRows (s : State) (v : Nat) : Nat := min (s.get (R.HIST_ROW_CAP_ROWS v)) (s.histOf v).stored

/-- A row is retained (R368). A row that Plait emits while the ring holds goes to the stage and is never a row of the ring (R376; assumption 129). -/
def State.retained (s : State) (v q : Nat) : Bool :=
  let d := unsigned 32 ((s.get (R.WRITE_SEQ_SEQ v) : Int) - q)
  decide (1 ≤ d ∧ d ≤ s.retainedRows v)

/-- A stage row is still stored (R376). -/
def State.stageRetained (s : State) (v q : Nat) : Bool :=
  decide (q < (s.histOf v).stageSeq ∧ (s.histOf v).stageSeq ≤ q + s.get (R.STAGE_ROW_CAP_ROWS v))

/-- Segments, byte offset of a row's slot, and whether it can be read whole (R364, R369). -/
def State.rowSegs (s : State) (v : Nat) (stage : Bool) : List (Nat × Nat) := if stage then (s.histOf v).stage else (s.histOf v).ring
def State.rowOff (s : State) (v : Nat) (stage : Bool) (q : Nat) : Nat :=
  q % max 1 (if stage then s.get (R.STAGE_ROW_CAP_ROWS v) else s.get (R.HIST_ROW_CAP_ROWS v)) * s.get (R.HIST_STRIDE_BYTES v)
def State.rowReadable (s : State) (v : Nat) (stage : Bool) (q : Nat) : Bool :=
  if stage then s.stageRetained v q else s.retained v q

/-- The row as Plait emitted it, without Creel's header, and its ROW_POS (R366). -/
def State.rowBytesAt (s : State) (v : Nat) (stage : Bool) (q : Nat) : List Byte :=
  let segs := s.rowSegs v stage
  let x := s.rowOff v stage q
  s.runRead segs (x + 32) (leNat (s.runRead segs (x + 24) 4))
def State.rowPosAt (s : State) (v : Nat) (stage : Bool) (q : Nat) : Nat :=
  leNat (s.runRead (s.rowSegs v stage) (s.rowOff v stage q) 8)

/-- A read of a row's header meets the errors that lie there (R380, R381): Creel's own, and the `n - 32` bytes after it. -/
def State.headMeet (s : State) (v : Nat) (stage : Bool) (q n : Nat) : State := s.runMeet (s.rowSegs v stage) (s.rowOff v stage q) n

/-- The oldest retained row. -/
def State.oldestSeq (s : State) (v : Nat) : Nat :=
  unsigned 32 ((s.get (R.WRITE_SEQ_SEQ v) : Int) - s.retainedRows v)

/-! ## Marks -/

/-- Marks SET on a view. -/
def State.setMarks (s : State) (v : Nat) : List Nat :=
  (List.range 64).filter fun m => s.get (R.MARK_STATUS_STATE m) == 2 && s.get (R.MARK_CFG_VIEW m) == v

/-- Marks on the row whose slot the next row would take (R375). -/
def State.blocking (s : State) (v : Nat) : List Nat :=
  let cap := s.get (R.HIST_ROW_CAP_ROWS v)
  if (s.histOf v).stored < cap then []
  else (s.setMarks v).filter fun m => (s.markOf m).row == unsigned 32 ((s.get (R.WRITE_SEQ_SEQ v) : Int) - cap)

/-- The LOSS record of a hold's rows that have not been told of yet (R376). -/
def State.holdLoss (s : State) (v : Nat) : State :=
  let h := s.histOf v
  if h.held = 0 then s
  else (s.lossCreel v 8 h.held h.heldFirst h.heldLast).setHist v { h with held := 0 }

/-- A HOLDING ring leaves HOLDING when nothing blocks it any longer (R377). -/
def State.holdCheck (s : State) (v : Nat) : State :=
  if s.on (R.HIST_STATUS_HOLDING v) then
    let b := if s.on (R.HIST_CFG_POLICY v) then s.blocking v else []
    let s := s.forList (s.setMarks v) fun m s => s.setFlag (R.MARK_STATUS_BLOCKING m) (b.contains m)
    if b = [] then
      let s := (s.clear (R.HIST_STATUS_HOLDING v)).publishCreel v 3
      let s := s.holdLoss v
      s.setHist v { s.histOf v with resume := true }
    else s
  else s

/-- A mark becomes SET on a row, or moves to it (R373); a SET_AT that is under way goes on. -/
def State.markSet (s : State) (m q : Nat) : State :=
  let v := s.get (R.MARK_CFG_VIEW m)
  let s := (s.headMeet v false q 32).setMark m { s.markOf m with row := q, moved := false }
  let s := (s.set (R.MARK_STATUS_STATE m) 2).clear (R.MARK_STATUS_BLOCKING m)
  let s := s.set2 (R.MARK_ROW_POS_LO_POS m) (R.MARK_ROW_POS_HI_POS m) (s.rowPosAt v false q)
  (s.publishCreel m 0).holdCheck v

/-- A mark leaves SET (R372, R374). -/
def State.markTo (s : State) (m st : Nat) : State :=
  let v := s.get (R.MARK_CFG_VIEW m)
  ((s.set (R.MARK_STATUS_STATE m) st).clear (R.MARK_STATUS_BLOCKING m)).holdCheck v

/-- A MARK event for mark `m` (R373). -/
def State.markEvent (s : State) (m : Nat) : State :=
  let v := s.get (R.MARK_CFG_VIEW m)
  if m < 64 ∧ s.get (R.MARK_STATUS_STATE m) ≠ 0 ∧ s.on (R.HIST_STATUS_ALLOCATED v) ∧ s.retainedRows v ≠ 0 then
    let q := unsigned 32 ((s.get (R.WRITE_SEQ_SEQ v) : Int) - s.get (R.MARK_CFG_BACK m))
    s.markSet m (if s.retained v q then q else s.oldestSeq v)
  else s.raise R.MEM_STATUS_MARK_IGN

/-- The four selectors of the MARK_SUB input, and delivery to it (R373). -/
def markSels : List Sel := [R.MARK_SUB_A_SEL_0, R.MARK_SUB_A_SEL_1, R.MARK_SUB_B_SEL_2, R.MARK_SUB_B_SEL_3]
def State.deliverMarks (s : State) (e : Event) : State :=
  s.deliver e markSels (fun s => if e.req.action = 8 then s.markEvent (e.req.param % 64) else s) id

/-- The MARK_SUB input acts before the writer in one event clock (R378): the events due in this clock are delivered to it now, and find it
acted on already when the clock ends. -/
def State.marksFirst (s : State) : State :=
  let due := s.swd.delivering.filter fun e => decide (e.clk ≤ s.clk) &&
    markSels.any fun g => s.selHears e.req.channel g && !(s.byFn0 g && s.guarded e.req.channel)
  s.forList due fun e s => s.deliverMarks e

/-- A mark on an overwritten row moves to the next row (R375). -/
def State.markAdvance (s : State) (v m : Nat) : State :=
  let x := s.markOf m
  let q := (x.row + 1) % 2 ^ 32
  let s := (s.headMeet v false q 32).setMark m { x with row := q, moved := true }
  let s := s.set2 (R.MARK_ROW_POS_LO_POS m) (R.MARK_ROW_POS_HI_POS m) (s.rowPosAt v false q)
  let s := s.bumpSat (R.MARK_LOST_ROWS_CNT m)
  if x.moved then s else (s.raise (R.MARK_STATUS_MARK_LOST m)).publishCreel m 1

/-! ## Writing rows -/

/-- Creel's row header (R366). -/
def rowHeader (pos time seq flags n : Nat) : List Byte :=
  leBytes 8 pos ++ leBytes 8 time ++ leBytes 4 seq ++ leBytes 1 flags ++ leBytes 3 0 ++ leBytes 4 n ++ leBytes 4 0

/-- A row goes to a slot, its header last (R364, R367). -/
def State.slotWrite (s : State) (v : Nat) (stage : Bool) (q pos : Nat) (row : List Byte) : State :=
  let h := s.histOf v
  let segs := s.rowSegs v stage
  let x := s.rowOff v stage q
  let s := s.runWrite segs (x + 32) row
  let s := s.runWrite segs x (rowHeader pos s.timeNs (q % 2 ^ 32) (h.gap.toNat + (h.resume && !stage).toNat * 2) row.length)
  s.setHist v { s.histOf v with gap := false, resume := if stage then h.resume else false }

/-- Where a row was stored: the stage or not, and its number there. -/
structure RowPlace where
  stage : Bool
  seq : Nat
deriving DecidableEq, Repr

/-- Creel writes an emitted row (R367, R375, R376), or loses it to a full write buffer (R356); the place is none when it was not
stored. -/
def State.rowWrite (s : State) (v pos : Nat) (row : List Byte) (stall : Bool) : State × Option RowPlace :=
  if !s.on (R.HIST_STATUS_ALLOCATED v) then (s, none)
  else if stall then
    let s := ((s.raise (R.HIST_STATUS_MEM_STALL v)).raise R.MEM_STATUS_MEM_STALL).bumpSat (R.STALL_LOSS_ROWS_CNT v)
    let s := (s.lossCreel v 9 1 pos pos).publishCreel v 7
    (s.setHist v { s.histOf v with gap := true }, none)
  else
    let b := s.blocking v
    if b ≠ [] ∧ s.on (R.HIST_CFG_POLICY v) then
      let s := if s.on (R.HIST_STATUS_HOLDING v) then s else (s.raise (R.HIST_STATUS_HOLDING v)).publishCreel v 2
      let s := s.forList b fun m s => s.raise (R.MARK_STATUS_BLOCKING m)
      let q := (s.histOf v).stageSeq
      let s := s.slotWrite v true q pos row
      let s := s.bumpSat (R.HOLD_LOSS_ROWS_CNT v)
      let h := s.histOf v
      let s := s.setHist v { h with stageSeq := q + 1, held := h.held + 1, heldLast := pos,
                                    heldFirst := if h.held = 0 then pos else h.heldFirst }
      (if h.held + 1 = 65536 then s.holdLoss v else s, some ⟨true, q⟩)
    else
      let q := s.get (R.WRITE_SEQ_SEQ v)
      let s := (s.slotWrite v false q pos row).bump (R.WRITE_SEQ_SEQ v)
      -- the next row of the last may be the one just written, where the ring has one slot
      let s := s.forList b fun m s => s.markAdvance v m
      (s.setHist v { s.histOf v with stored := (s.histOf v).stored + 1 }, some ⟨false, q⟩)

/-! ## Raw rings -/

/-- A descriptor becomes RUNNING with RAW_RING (R370): its ring is kept, or freed and allocated anew. -/
def State.rawStart (s : State) (d : Nat) : State :=
  if s.on (R.SD_CTRL_RAW_RING d) then
    let n := s.get (R.RAW_SEGS_SEGS d)
    let x := s.rawOf d
    if x.segs ≠ [] ∧ x.size = n then s
    else
      let s := (s.giveBack R.FREE_HIST_SEGS x.segs).setRaw d {}
      match if n = 0 then none else s.alloc R.FREE_HIST_SEGS n with
      | some (s, segs) => s.setRaw d { segs := segs, next := 0, size := n }
      | none => (s.raise R.MEM_STATUS_RAW_FAIL).publishCreel d 6
  else s

/-- An entry of a raw ring (R371): it starts on a 256-byte boundary, at the start of the ring where it would pass the end. -/
def State.rawWrite (s : State) (d trigPos line seq expLate : Nat) (payload : List Byte) : State :=
  let x := s.rawOf d
  let cap := runLen x.segs * 65536
  let n := 32 + payload.length
  if x.segs = [] ∨ cap < n ∨ !s.on (R.SD_CTRL_RAW_RING d) then s
  else
    let off := if cap < x.next + n then 0 else x.next
    let e := leBytes 8 trigPos ++ leBytes 4 line ++ leBytes 2 seq ++ leBytes 2 expLate ++ leBytes 4 payload.length ++
      leBytes 8 s.timeNs ++ leBytes 4 0 ++ payload
    (s.runWrite x.segs off e).setRaw d { x with next := (off + n + 255) / 256 * 256 }

end Sys2Proof.Machine
end

