-- ==== Sys2Proof/Machine/Creel.lean ====
section
/-!
DEFINITION. Creel's commands (chapter 10): the layout of device memory, history and raw rings, rewind marks, scrubbing, the context
peek, and training.
-/
set_option Elab.async false
namespace Sys2Proof.Machine

/-! ## Layout -/

/-- The layout registers that LAYOUT_WRITE names, in order: HOSTWIN_SEGS, REF_QUOTA, WORK_QUOTA (R359). -/
def layoutFld (k : Nat) : Fld :=
  match k with
  | 0 => R.HOSTWIN_SEGS_SEGS
  | 1 => R.REF_QUOTA_SEGS
  | _ => R.WORK_QUOTA_SEGS

/-- Segments of the history quota that the layout leaves (R358). -/
def State.histQuota (s : State) : Int :=
  786432 - 2048 - s.get R.HOSTWIN_SEGS_SEGS - s.get R.REF_QUOTA_SEGS - s.get R.WORK_QUOTA_SEGS

/-- LAYOUT_WRITE (R359). -/
def execLayoutWrite (who : Who) (k : Fin 3) (v : Word) (s : State) : Host.Outcome State Fault Refusal :=
  .next <| s.viaBus who fun s =>
    let n := bitsOf v.toNat 0 20
    let t := s.set (layoutFld k) n
    let windows := (List.range 16).any fun i => s.on (R.ACT_WIN_CFG_EN i)
    if !s.allocated.isEmpty || windows || (k.val == 0 && decide (262144 < n)) || decide (t.histQuota < 0) then
      s.raise R.MEM_STATUS_LAYOUT_REJ
    else
      let q := t.histQuota.toNat
      (((t.set R.HIST_QUOTA_SEGS q).set R.FREE_HIST_SEGS q).set R.FREE_REF_SEGS (t.get R.REF_QUOTA_SEGS)).set
        R.FREE_WORK_SEGS (t.get R.WORK_QUOTA_SEGS)

/-- SEG_QUERY (R361). -/
def execSegQuery (who : Who) (v : Word) (s : State) : Host.Outcome State Fault Refusal :=
  .next <| s.viaBus who fun s =>
    let g := bitsOf v.toNat 0 20
    if 786431 < g then ((s.set R.SEG_INFO_REGION 0).set R.SEG_INFO_OWNER 0).raise R.SEG_INFO_NO_SEG
    else
      let (reg, own) := s.segInfo g
      ((s.set R.SEG_INFO_REGION reg).set R.SEG_INFO_OWNER own).clear R.SEG_INFO_NO_SEG

/-! ## History rings -/

/-- A view's marks go to ARMED, and a hold that they made ends (R363, R377). -/
def State.marksArm (s : State) (v : Nat) : State :=
  (s.forList (s.setMarks v) fun m s => (s.set (R.MARK_STATUS_STATE m) 1).clear (R.MARK_STATUS_BLOCKING m)).holdCheck v

/-- A view's ring and stage are freed, and its marks go to ARMED (R363). -/
def State.histFree (s : State) (v : Nat) : State :=
  let h := s.histOf v
  let s := ((s.marksArm v).giveBack R.FREE_HIST_SEGS h.ring).giveBack R.FREE_WORK_SEGS h.stage
  let s := s.clear (R.HIST_STATUS_ALLOCATED v)
  let s := (s.set (R.HIST_ROW_CAP_ROWS v) 0).set (R.STAGE_ROW_CAP_ROWS v) 0
  (s.setHist v { work := h.work }).showWork v

/-- STRIDE and the row capacities of a view's ring and stage (R364). -/
def State.histShape (s : State) (v stride : Nat) : State :=
  let h := s.histOf v
  let s := (s.set (R.HIST_STRIDE_BYTES v) stride).set (R.HIST_ROW_CAP_ROWS v) (runLen h.ring * 65536 / stride)
  s.set (R.STAGE_ROW_CAP_ROWS v) (runLen h.stage * 65536 / stride)

/-- A ring and a stage of the configured sizes are allocated, both or neither (R360, R363). -/
def State.histTake (s : State) (v : Nat) : Option State :=
  match s.alloc R.FREE_HIST_SEGS (s.get (R.HIST_CFG_SEGS v)) with
  | none => none
  | some (s, ring) =>
    match (s.setHist v { s.histOf v with ring := ring }).alloc R.FREE_WORK_SEGS (s.get (R.STAGE_CFG_SEGS v)) with
    | none => none
    | some (s, stage) => some (s.setHist v { s.histOf v with ring := ring, stage := stage })

/-- The ring and the stage of a view have the configured sizes, and a start keeps them (R363). -/
def State.histKept (s : State) (v : Nat) : Bool :=
  s.on (R.HIST_STATUS_ALLOCATED v) && runLen (s.histOf v).ring == s.get (R.HIST_CFG_SEGS v) &&
    runLen (s.histOf v).stage == s.get (R.STAGE_CFG_SEGS v)

/-- The ring and the stage that a start of view `v` needs for rows of `bytes` bytes (R363, R364), or none when the quotas are short: a ring of the sizes
is kept with its segments and WRITE_SEQ, and another is freed first. A kept ring whose rows have another STRIDE than before retains no row of
before (assumption 67). -/
def State.histAlloc (s : State) (v bytes : Nat) : Option State :=
  let stride := (32 + bytes + 255) / 256 * 256
  if s.histKept v then
    if s.get (R.HIST_STRIDE_BYTES v) = stride then some s
    else
      let s := s.marksArm v
      some ((s.setHist v { s.histOf v with stored := 0, stageSeq := 0 }).histShape v stride)
  else
    ((s.histFree v).histTake v).map fun s =>
      (((s.histShape v stride).set (R.WRITE_SEQ_SEQ v) 0).raise (R.HIST_STATUS_ALLOCATED v)).showWork v

/-- A write of HIST_CFG, or of STAGE_CFG when `stage` (R363, R377). -/
def State.histCfgWrite (s : State) (v : Nat) (stage : Bool) (x : Word) : State :=
    let off := s.unitOff (viewUnit v)
    if stage then
      if off then s.writeReg (R.STAGE_CFG v) x else s.raise (R.HIST_STATUS_SIZE_REJ v)
    else
      let n := bitsOf x.toNat 0 20
      let s := if off then s.set (R.HIST_CFG_SEGS v) n
        else if n ≠ s.get (R.HIST_CFG_SEGS v) ∨ bitAt x.toNat 21 then s.raise (R.HIST_STATUS_SIZE_REJ v) else s
      let hold := bitAt x.toNat 20
      let s := if hold && !off && !s.on (R.STAGE_CFG_SEGS v) then s.raise (R.HIST_STATUS_POLICY_REJ v)
        else (s.setFlag (R.HIST_CFG_POLICY v) hold).holdCheck v
      if off && bitAt x.toNat 21 then s.histFree v else s

/-- HIST_CFG_WRITE (R363, R377). -/
def execHistCfgWrite (who : Who) (v : Fin 8) (stage : Bool) (x : Word) (s : State) : Host.Outcome State Fault Refusal :=
  .next <| s.viaBus who fun s =>
    s.histCfgWrite v stage x

/-- RELEASE (R363): a write of HIST_CFG with the bit set. -/
def execRelease (who : Who) (v : Fin 8) (x : Word) (s : State) : Host.Outcome State Fault Refusal :=
  .next <| s.viaBus who fun s =>
    s.histCfgWrite v false x

/-- RAW_SEGS_WRITE (R370): only while EN of the descriptor is 0; the raw ring is freed. -/
def execRawSegsWrite (who : Who) (d : Fin 4096) (v : Word) (s : State) : Host.Outcome State Fault Refusal :=
  .next <| s.viaBus who fun s =>
    let d := d.val
    if s.on (R.SD_CTRL_EN d) then s
    else ((s.giveBack R.FREE_HIST_SEGS (s.rawOf d).segs).setRaw d {}).writeReg (R.RAW_SEGS d) v

/-! ## Rewind marks -/

/-- MARK_CFG_WRITE (R372): EN 0 frees the mark from any state; in SET a write is ignored otherwise. -/
def execMarkCfgWrite (who : Who) (m : Fin 64) (v : Word) (s : State) : Host.Outcome State Fault Refusal :=
  .next <| s.viaBus who fun s =>
    let m := m.val
    let en := bitAt v.toNat 0
    if s.get (R.MARK_STATUS_STATE m) = 2 then
      let moved := bitsOf v.toNat 1 3 ≠ s.get (R.MARK_CFG_VIEW m) ∨ bitsOf v.toNat 16 16 ≠ s.get (R.MARK_CFG_BACK m)
      let s := if en ∨ moved then s.raise (R.MARK_STATUS_CMD_REJ m) else s
      if en then s else (s.clear (R.MARK_CFG_EN m)).markTo m 0
    else
      let s := s.writeReg (R.MARK_CFG m) v
      s.set (R.MARK_STATUS_STATE m) en.toNat

/-- A MARK_CMD while BUSY is ignored (R373). -/
def State.markCmd (s : State) (m : Nat) (f : State → State) : State :=
  if s.on (R.MARK_STATUS_BUSY m) then s.raise (R.MARK_STATUS_CMD_REJ m) else f s

/-- MARK_CLEAR (R374). -/
def execMarkClear (who : Who) (m : Fin 64) (s : State) : Host.Outcome State Fault Refusal :=
  .next <| s.viaBus who fun s =>
    s.markCmd m fun s => if s.get (R.MARK_STATUS_STATE m) = 2 then s.markTo m 1 else s

/-- SET_AT (R373): refused in FREE; BUSY until it completes. -/
def execSetAt (who : Who) (m : Fin 64) (s : State) : Host.Outcome State Fault Refusal :=
  .next <| s.viaBus who fun s =>
    (s.markCmd m fun s =>
      if s.get (R.MARK_STATUS_STATE m) = 0 then s.raise (R.MARK_STATUS_CMD_REJ m)
      else (s.raise (R.MARK_STATUS_BUSY m)).setMark m { s.markOf m with setAt := true })

/-- The retained rows of a view, oldest first. -/
def State.retainedSeqs (s : State) (v : Nat) : List Nat :=
  (List.range (s.retainedRows v)).map fun i => (s.oldestSeq v + i) % 2 ^ 32

/-- SET_AT_DONE (R373). -/
def execSetAtDone (m : Fin 64) (s : State) : Host.Outcome State Fault Refusal :=
  .next <|
    let m := m.val
    let x := s.markOf m
    if !x.setAt then s
    else
      let v := s.get (R.MARK_CFG_VIEW m)
      let pos := s.get2 (R.MARK_POS_LO_POS m) (R.MARK_POS_HI_POS m)
      let s := (s.clear (R.MARK_STATUS_BUSY m)).setMark m { x with setAt := false }
      if s.get (R.MARK_STATUS_STATE m) = 0 then s
      else
        match s.retainedSeqs v with
        | [] => s.raise (R.MARK_STATUS_CMD_REJ m)
        | q :: qs =>
          -- the rows are read from the oldest on, up to the one found (assumption 143)
          let passed := (q :: qs).takeWhile fun r => posBefore (s.rowPosAt v false r) pos
          let gone := posAfter (s.rowPosAt v false q) pos
          let found := (q :: qs)[passed.length]?
          let s := s.forList passed fun r s => s.headMeet v false r 32
          if gone then (s.headMeet v false q 32).raise (R.MARK_STATUS_GONE m)
          else match found with
            | some r => s.markSet m r
            | none => s.raise (R.MARK_STATUS_CMD_REJ m)

/-- SET_AHEAD (R373): Creel asks the position engine for a MARK entry; the refusal of the entry comes back as CMD_REJ. -/
def execSetAhead (who : Who) (m : Fin 64) (s : State) : Host.Outcome State Fault Refusal :=
  .next <| s.viaBus who fun s =>
    (s.markCmd m fun s =>
      match s.selCh? R.MARK_SUB_A_SEL_0 with
      | some c =>
        if s.get (R.MARK_STATUS_STATE m) = 1 then
          let pos := s.get2 (R.MARK_POS_LO_POS m) (R.MARK_POS_HI_POS m)
          s.peQueue .creel
            { insert := true, handle := 0, tag := m,
              entry := mkEntry pos 8 c 0 m (8 + s.get (R.MARK_CFG_VIEW m)) true 1 false (s.guarded c) }
        else s.raise (R.MARK_STATUS_CMD_REJ m)
      | none => s.raise (R.MARK_STATUS_CMD_REJ m))

/-- The result of SET_AHEAD's insertion (R373). -/
def State.markInserted (s : State) (m status : Nat) : State :=
  if status = 0 ∨ status = 5 then s else s.raise (R.MARK_STATUS_CMD_REJ m)

/-! ## Scrubbing, the context peek, training -/

/-- 32-byte units of device memory. -/
def memUnits : Nat := 786432 * 2048

/-- SCRUB_STEP (R380, R384): the next unit is read, with the errors that lie in it, and is written back where they are correctable; `err` is an error
that has arisen, in that unit or in another, where the read that meets it first finds it (assumption 130). -/
def execScrubStep (err : Option MemErr) (s : State) : Host.Outcome State Fault Refusal :=
  .next <|
    if s.on R.SCRUB_CFG_EN && s.on R.MEM_STATUS_MEM_READY then
      let u := s.creel.scrub
      let found := s.creel.flaws.filter (·.unit == u)
      let s := match err with
        | some e => { s with creel := { s.creel with flaws := s.creel.flaws ++ [e] } }
        | none => s
      let found := found ++ err.toList.filter (·.unit == u)
      let s := (s.flawsDrop u).forList found fun e s => s.memErr e true
      let next := (u + 1) % memUnits
      let s := { s with creel := { s.creel with scrub := next } }
      let s := s.set R.SCRUB_STATUS_PROGRESS (next / 2048)
      if next = 0 then s.bump R.SCRUB_PASS_CNT_CNT else s
    else s

/-- CTX_PEEK (R388). -/
def execCtxPeek (who : Who) (v : Word) (s : State) : Host.Outcome State Fault Refusal :=
  .next <| s.viaBus who fun s =>
    if s.on R.CTX_PEEK_STATUS_DONE then
      let k := bitsOf v.toNat 0 20
      let b := (s.ctxOf k).image
      -- a context that is not in the cache is read from memory (R380)
      let s := if Tbl.get false s.creel.cached k then s else s.readMeet (k * 128) 128
      let s := s.forEach 32 fun i s => s.set (R.CTX_PEEK_DATA i) (leAt b (4 * i) 4)
      (s.setFlag R.CTX_PEEK_STATUS_POISON (s.ctxPoison k)).raise R.CTX_PEEK_STATUS_DONE
    else s

/-- HBM_TRAIN_DONE (R390, R723): training that is in progress ends; bit i of `ok` says that stack i has trained. With both, zero-fill
begins. -/
def execHbmTrainDone (ok : BitVec 2) (s : State) : Host.Outcome State Fault Refusal :=
  .next <|
    if s.boot.training then
      let s := s.set R.MEM_STATUS_STACK_FAIL (3 - ok.toNat)
      let s := { s with creel := { s.creel with trained := ok.toNat == 3 }, boot := { s.boot with training := false } }
      if s.creel.trained then s.set R.BOOT_STATUS_STAGE 5 else s
    else s

/-- MEM_READY (R390, R723): zero-fill has completed. -/
def execMemReady (s : State) : Host.Outcome State Fault Refusal :=
  .next <|
    if s.creel.trained && !s.on R.MEM_STATUS_MEM_READY then
      let s := ({ s with mem := [], creel := { s.creel with poison := [], flaws := [], scrub := 0 } }).raise R.MEM_STATUS_MEM_READY
      (s.set R.BOOT_STATUS_STAGE 6).set R.BOOT_TIME_READY_MS (min 65535 (s.clk / 250000))
    else s

end Sys2Proof.Machine
end

