-- ==== Sys2Proof/Machine/LiveCal.lean ====
section
/-!
DEFINITION. Live calibration (R418 to R428) as the other blocks touch it: its states, freezing, and the opening of zone windows.
-/
set_option Elab.async false
namespace Sys2Proof.Machine

/-- Events of conditioning, which Skep publishes (R429). -/
def State.publishCond (s : State) (v arg kind : Nat) : State :=
  s.skepPublish R.EVT_COND (v + arg * 16 + kind * 2 ^ 12 + 0x7 * 2 ^ 20)

/-- A freeze cause reaches a view (R425). -/
def State.lcFreeze (s : State) (v cause : Nat) : State :=
  if s.get (R.LC_STATE_STATE v) = 0 then s
  else
    let s : State := { s with cond := { s.cond with froze := Tbl.put 0 s.cond.froze v (s.clk + 1) } }
    let s := (s.set (R.LC_STATE_STATE v) 2).set (R.LC_STATE_FREEZE_CAUSE v) cause
    ((s.set (R.LC_STATE_REPEATS v) 0).bump (R.FREEZE_CNT_CNT v)).publishCond v cause 0

/-- A freeze cause LIGHT of chain `n` (R425). -/
def State.lightFreeze (s : State) (n : Nat) : State :=
  s.forEach 8 fun v s => if bitAt (s.get (R.LC_CFG_LIGHT_CHAINS v)) n then s.lcFreeze v 4 else s

/-- A repeat has been cut in a view (R425). -/
def State.lcRepeat (s : State) (v : Nat) : State := s.bumpSat (R.LC_STATE_REPEATS v)

/-- LC_CFG_WRITE (R425). -/
def execLcCfgWrite (who : Who) (v : Fin 8) (x : Word) (s : State) : Host.Outcome State Fault Refusal :=
  .next <| s.viaBus who fun s =>
    let v := v.val
    let was := s.on (R.LC_CFG_LC_EN v)
    let forced := s.on (R.LC_CFG_FORCE_FREEZE v)
    let s := s.writeReg (R.LC_CFG v) x
    let en := s.on (R.LC_CFG_LC_EN v)
    let s := if en && !was then (s.set (R.LC_STATE_STATE v) 2).lcFreeze v 6
      else if !en then s.set (R.LC_STATE_STATE v) 0 else s
    if s.on (R.LC_CFG_FORCE_FREEZE v) && !(forced && was) then s.lcFreeze v 1 else s

def State.condOf (s : State) (d : Nat) : CondDesc := Tbl.get {} s.cond.desc d
def State.setCond (s : State) (d : Nat) (x : CondDesc) : State :=
  { s with cond := { s.cond with desc := Tbl.put {} s.cond.desc d x } }

/-- Zone accumulators in use. -/
def State.zoneAccs (s : State) : Nat :=
  (s.cond.wins.map fun w => (w.heads.map fun h => (h.cols.map List.length).sum).sum).sum

/-- The zone entry `k` opens a window for a repeat anchored at `anchor`, or skips it (R419). -/
def State.zoneOpen (s : State) (k anchor : Nat) : State :=
  let v := s.get (R.ZN_CFG_VIEW k)
  let start := posMod ((anchor : Int) + s.get (R.ZN_OFFSET_OFFSET k))
  let stop := posMod ((start : Int) + s.get (R.ZN_LEN_LEN k))
  let ranges := Tbl.get [] s.cond.ranges k
  let late := ranges.any fun (d, _, _) => match (s.condOf d).top with | some p => !posBefore p start | none => false
  if late then (s.raise (R.LC_STATUS_ZONE_LATE v)).bumpSat (R.ZONE_LATE_CNT_CNT v)
  else
    let heads : List ZHead := ranges.map fun (d, a, b) =>
      { desc := d, first := a, last := b,
        cols := List.replicate (b + 1 - a) (List.replicate (s.get (R.SD_FORMAT_COMP d) + 1) {}) }
    let need := (heads.map fun h => (h.cols.map List.length).sum).sum
    if 8 ≤ (s.cond.wins.filter (·.view == v)).length ∨ 1048576 < s.zoneAccs + need then
      (s.raise (R.LC_STATUS_ZONE_SKIP v)).bumpSat (R.ZONE_SKIP_CNT_CNT v)
    else { s with cond := { s.cond with wins := s.cond.wins ++ [⟨k, v, start, stop, false, heads⟩] } }

/-- The context of a repeat opens: a window for every zone of the slot that matches its view and web lane (R419). -/
def State.zonesFor (s : State) (slot v lane anchor : Nat) (splice : Bool) : State :=
  if splice || !s.on (R.LC_CFG_LC_EN v) then s
  else s.forEach 16 fun z s =>
    let k := 16 * slot + z
    if s.on (R.ZN_CFG_VALID k) && s.get (R.ZN_CFG_VIEW k) == v && s.get (R.ZN_CFG_WEB_LANE k) == lane then s.zoneOpen k anchor else s

/-- An entry of the calibration log (R428, R434). -/
def State.calLog (s : State) (w : ZoneWin) (result updated rejected : Nat) (delta : Int) (m0 : Nat) : State :=
  let i := s.get R.LOG_HEAD_NEXT
  let s := s.setReg (R.LOG_INFO i) (BitVec.ofNat 32 (w.view + w.k % 1024 * 8 + result * 2 ^ 16 + 2 ^ 31))
  let s := s.set2 (R.LOG_POS_LO_POS i) (R.LOG_POS_HI_POS i) w.stop
  let s := (s.set (R.LOG_COLS_UPDATED i) (min 65535 updated)).set (R.LOG_COLS_REJECTED i) (min 65535 rejected)
  let s := (s.setInt (R.LOG_DELTA_DELTA i) delta).set (R.LOG_LEVEL_M_0 i) m0
  (s.set2 (R.LOG_TIME_LO_NS i) (R.LOG_TIME_HI_NS i) s.timeNs).bump R.LOG_HEAD_NEXT

/-- The windows of a view whose unit stops are abandoned (R421, R428). -/
def State.zonesAbandon (s : State) (v : Nat) : State :=
  let gone := s.cond.wins.filter (·.view == v)
  let s := { s with cond := { s.cond with wins := s.cond.wins.filter (·.view != v) } }
  s.forList gone fun w s => s.calLog w 5 0 0 0 0

/-! ## Descriptors that start and stop (R402, R409) -/

/-- Bytes of the line-delay pool that a descriptor needs (R409). -/
def State.ldNeed (s : State) (d : Nat) : Nat :=
  s.get (R.COND_CTRL_LD_DEPTH d) * s.get (R.SD_GEOM_WIDTH d) * (s.get (R.SD_FORMAT_COMP d) + 1) * 2

/-- Bytes of the line-delay pool of 8 MiB that no descriptor has taken. -/
def State.ldFree (s : State) : Nat := 2 ^ 23 - (s.cond.desc.map (·.2.ldBytes)).sum

/-- A descriptor changes in conditioning, and LD_POOL_FREE follows. -/
def State.ldSet (s : State) (d : Nat) (x : CondDesc) : State :=
  let s := s.setCond d x
  s.set R.LD_POOL_FREE_KIB (s.ldFree / 1024)

/-- A descriptor stops: its line-delay space returns, and an ACCUM on it can no longer complete (R409, R416). -/
def State.condStop (s : State) (d : Nat) : State :=
  let x := s.condOf d
  let s := s.ldSet d { before := x.last.or x.before, top := x.top }
  match s.cond.run with
  | some r => if r.op = 6 ∧ r.first = d ∧ r.lines < 2 ^ r.count ∧ r.err = 0 then
      { s with cond := { s.cond with run := some { r with err := 4 } } } else s
  | none => s

/-- TABLE and BYPASS of component `c` (R407). -/
def State.lutSel (s : State) (d c : Nat) : Nat × Bool :=
  match c with
  | 0 => (s.get (R.LUT_SEL_A_TABLE_0 d), s.on (R.LUT_SEL_A_BYPASS_0 d))
  | 1 => (s.get (R.LUT_SEL_A_TABLE_1 d), s.on (R.LUT_SEL_A_BYPASS_1 d))
  | 2 => (s.get (R.LUT_SEL_B_TABLE_2 d), s.on (R.LUT_SEL_B_BYPASS_2 d))
  | _ => (s.get (R.LUT_SEL_B_TABLE_3 d), s.on (R.LUT_SEL_B_BYPASS_3 d))

/-- A LOAD or LUT_LOAD writes coefficients that descriptor `d` uses (R415). -/
def State.calTouches (s : State) (r : CalRun) (d : Nat) : Bool :=
  let comps := s.get (R.SD_FORMAT_COMP d) + 1
  let n := s.get (R.SD_GEOM_WIDTH d) * comps
  let base := s.get (R.CAL_BASE_SLOT d)
  (r.op == 1 && decide (base < r.first + r.count ∧ r.first < base + n)) ||
    (r.op == 4 && (List.range comps).any fun c =>
      let (t, bypass) := s.lutSel d c
      !bypass && decide (r.first ≤ t ∧ t < r.first + r.count))

/-- A LOAD or LUT_LOAD that runs has yet to write coefficients of descriptor `d`, which conditions its lines (R415): LOAD_LIVE. -/
def State.loadMeets (s : State) (d : Nat) : State :=
  match s.cond.run with
  | some r => if (s.condOf d).on && s.calTouches r d && decide (r.moved < r.count) then s.raise (R.COND_STATUS_LOAD_LIVE d) else s
  | none => s

/-- A descriptor becomes RUNNING: the checks of R402 and R409, and a command that loads its coefficients (R415). -/
def State.condStart (s : State) (d : Nat) : State :=
  let x : CondDesc := { before := (s.condOf d).last.or (s.condOf d).before, top := (s.condOf d).top }
  let s := (s.ldSet d x).clear (R.COND_STATUS_LD_FAIL d)
  State.loadMeets (d := d) <|
  if !s.on (R.COND_CTRL_COND_EN d) then s
  else if 2097152 < s.get (R.CAL_BASE_SLOT d) + s.get (R.SD_GEOM_WIDTH d) * (s.get (R.SD_FORMAT_COMP d) + 1) then
    s.raise (R.COND_STATUS_CFG_REJ d)
  else if !s.on (R.COND_CTRL_LD_EN d) then s.setCond d { x with on := true }
  else if s.ldFree < s.ldNeed d then (s.setCond d { x with on := true }).raise (R.COND_STATUS_LD_FAIL d)
  else s.ldSet d { x with on := true, ld := true, ldBytes := s.ldNeed d }

end Sys2Proof.Machine
end

