-- ==== Sys2Proof/Machine/Serial.lean ====
section
/-!
DEFINITION. The coding of the serial lanes and of the Talmon link, from blocks to levels (chapters 6 and 7): 66-bit blocks and their
transcoding, scrambling, the RS(544,514) code, alignment markers, PAM4 and NRZ symbols, the transmit filter, and the test patterns.
-/
set_option Elab.async false
namespace Sys2Proof.Machine

/-! ## Lists of bits -/

/-- The low `n` bits of a number, in transmission order: bit 0 first. -/
def bitList (n x : Nat) : List Bool := (List.range n).map (bitAt x)

/-- The number whose bits, lowest first, are a list's. -/
def bitNat : List Bool → Nat
  | [] => 0
  | b :: l => b.toNat + 2 * bitNat l

/-- Consecutive cutEvery of `k` members, `n` of them. -/
def cutEvery {α : Type} (k : Nat) : Nat → List α → List (List α)
  | 0, _ => []
  | n + 1, l => l.take k :: cutEvery k n (l.drop k)

/-! ## Symbols and levels -/

/-- Gray coding of a pair of bits (R182). -/
def grayCode (b1 b0 : Bool) : Nat :=
  match b1, b0 with
  | false, false => 0
  | false, true => 1
  | true, true => 2
  | true, false => 3

/-- The pair of bits of a Gray-coded value, first bit first (R182). -/
def grayBits (g : Nat) : List Bool := [decide (2 ≤ g), g == 1 || g == 2]

/-- Precoding of a sequence of symbols from P(−1), and its decoding (R182). -/
def precode : Nat → List Nat → List Nat
  | _, [] => []
  | p, g :: gs => let q := (g + 4 - p % 4) % 4; q :: precode q gs
def precodeInv : Nat → List Nat → List Nat
  | _, [] => []
  | p, q :: qs => (q + p) % 4 :: precodeInv q qs

/-- The level of a PAM4 symbol (R182). -/
def pamLevel (p : Nat) : Int := 2 * p - 3

/-- Bits in transmission order as Gray-coded values (R182). -/
def grayPairs : List Bool → List Nat
  | b1 :: b0 :: l => grayCode b1 b0 :: grayPairs l
  | _ => []

/-- The symbols that a transmitter sends for bits, from P(−1) on: one per bit at NRZ (R184), one per pair at PAM4, precoded where `pre` (R182). -/
def txSymbols (nrz pre : Bool) (p : Nat) (bits : List Bool) : List Nat :=
  if nrz then bits.map Bool.toNat else if pre then precode p (grayPairs bits) else grayPairs bits

/-- The bits that a receiver takes from decided symbols, with P(−1) from the symbol before (R182, R184). -/
def rxSymbols (nrz pre : Bool) (p : Nat) (syms : List Nat) : List Bool :=
  if nrz then syms.map (· == 1) else (if pre then precodeInv p syms else syms).flatMap grayBits

/-- The symbol whose level is the negated one (R185). -/
def invSymbol (nrz : Bool) (x : Nat) : Nat := if nrz then 1 - x else 3 - x

/-- Bits of a lane in one event clock, in eighths of a bit (R181, R137). -/
def laneEighths (mode : Nat) : Nat :=
  match mode with
  | 0 => 900
  | 1 => 1800
  | 4 => 825
  | _ => 330

/-- Symbols under TX_INV or RX_INV (R185). -/
def invSymbols (nrz inv : Bool) (l : List Nat) : List Nat := if inv then l.map (invSymbol nrz) else l

/-- The level of a symbol, in thirds of the outermost one (R182, R184, R188). -/
def symLevel (nrz : Bool) (x : Nat) : Int := if nrz then 3 * (2 * x - 1) else pamLevel x

/-- Decided symbols laid out as a number: one bit each at NRZ, two at PAM4, the first lowest. -/
def symsOf (nrz : Bool) (n x : Nat) : List Nat :=
  if nrz then (List.range n).map fun i => bitsOf x i 1 else (List.range (n / 2)).map fun i => bitsOf x (2 * i) 2

/-- The FIR filter (R188): the sum for 64ths of the full-scale swing, from the levels two and one ahead, at, and one behind. -/
def firSum (pre2 pre1 main post1 : Nat) (x2 x1 x0 xm1 : Int) : Int := pre2 * x2 - pre1 * x1 + main * x0 - post1 * xm1

/-- Full-scale differential amplitude of a SWING code, in mV (R188). -/
def swingMv (code : Nat) : Nat := 800 + 100 * code

/-- The transmitted levels of a run of symbol levels under coefficients laid out as TX_COEF (R188), in 1/192 mV: the levels are thirds, and
the taps 64ths. The first level of the list has been sent already, and the last two are still to be. -/
def firOut (coef : Nat) : List Int → List Int
  | xm1 :: x0 :: x1 :: x2 :: l =>
    firSum (bitsOf coef 0 4) (bitsOf coef 4 5) (bitsOf coef 9 7) (bitsOf coef 16 5) x2 x1 x0 xm1 * swingMv (bitsOf coef 21 2) ::
      firOut coef (x0 :: x1 :: x2 :: l)
  | _ => []

/-! ## Test patterns (R207) -/

/-- Order and feedback of a pattern: bits of the register, newest lowest, whose sum is the next bit; the reserved PATTERN 3 is PRBS31
(assumption 115). -/
def prbsTaps (pattern : Nat) : Nat × List Nat :=
  match pattern with
  | 0 => (7, [6, 5])
  | 1 => (13, [12, 11, 1, 0])
  | _ => (31, [30, 27])

/-- The next bit of a pattern. -/
def prbsBit (pattern reg : Nat) : Bool := ((prbsTaps pattern).2.filter (bitAt reg)).length % 2 == 1

/-- The register with a bit shifted in. -/
def prbsShift (pattern reg : Nat) (b : Bool) : Nat := (reg * 2 + b.toNat) % 2 ^ (prbsTaps pattern).1

/-- `n` bits of a pattern and the register after them. -/
def prbsRun (pattern : Nat) : Nat → Nat → List Bool × Nat
  | 0, reg => ([], reg)
  | n + 1, reg =>
    let b := prbsBit pattern reg
    let (l, r) := prbsRun pattern n (prbsShift pattern reg b)
    (b :: l, r)

/-- The first `n` bits of a list inverted, and how many are left to invert. -/
def invertBits : Nat → List Bool → List Bool × Nat
  | n, [] => ([], n)
  | 0, l => (l, 0)
  | n + 1, b :: l => let (m, k) := invertBits n l; ((!b) :: m, k)

/-- A checker after one received bit; whether it has taken lock, has lost it, and has counted the bit as wrong, beside it (R207). Until lock the
register follows the received bits; after it, the pattern. -/
def PrbsChk.step (pattern : Nat) (c : PrbsChk) (b : Bool) : PrbsChk :=
  let b' := prbsBit pattern c.reg
  if c.lock then
    let wrong := if b == b' then c.wrong else (c.idx :: c.wrong).take 64
    let lost := wrong.length == 64 && decide (c.idx < wrong.getLastD 0 + 1024) && b != b'
    if lost then { bits := c.bits + 1, errs := c.errs + 1, lost := true }
    else { c with reg := prbsShift pattern c.reg b', idx := c.idx + 1, wrong := wrong, bits := c.bits + 1,
                  errs := if b == b' then c.errs else c.errs + 1 }
  else
    let run := if (prbsTaps pattern).1 ≤ c.idx ∧ b = b' then c.run + 1 else 0
    let c := { c with reg := prbsShift pattern c.reg b, idx := c.idx + 1, run := run }
    if 1024 ≤ run then { c with lock := true, idx := 0, run := 0, wrong := [] } else c

/-! ## Blocks -/

/-- The type byte of a control block (R224). -/
def typeByte (code : Nat) : Nat := code % 16 + (15 - code % 16) * 16

/-- A control block from its type byte (R224 to R226). -/
def ctlBlk (byte payload : Nat) : Blk :=
  let c := byte % 16
  if byte / 16 + c = 15 ∧ 1 ≤ c ∧ c ≤ 4 then .ctl c payload else .bad

/-- Blocks `k` to 3 of a 257-bit block, from bit `pos` on; `first`: no control block has come yet (R227). -/
def transBlocks (x : Nat) : Nat → Nat → Nat → Bool → List Blk
  | 0, _, _, _ => []
  | n + 1, k, pos, first =>
    if bitAt x (1 + k) then .data (bitsOf x pos 64) :: transBlocks x n (k + 1) (pos + 64) first
    else if first then
      let c := bitsOf x pos 4
      ctlBlk (c + (15 - c) * 16) (bitsOf x (pos + 4) 56) :: transBlocks x n (k + 1) (pos + 60) false
    else ctlBlk (bitsOf x pos 8) (bitsOf x (pos + 8) 56) :: transBlocks x n (k + 1) (pos + 64) false

/-- The four blocks of a 257-bit block (R227); bit 0 clear with no control block is no block of the code. -/
def trans257 (x : Nat) : List Blk :=
  if bitAt x 0 then (List.range 4).map fun k => .data (bitsOf x (1 + 64 * k) 64)
  else if bitsOf x 1 4 = 15 then [.bad, .bad, .bad, .bad]
  else transBlocks x 4 0 5 true

/-- The payload bits of blocks from bit `pos` on; `first`: no control block has come yet (R227). -/
def packBlocks : List Blk → Nat → Bool → Nat
  | [], _, _ => 0
  | .data x :: l, pos, first => x % 2 ^ 64 * 2 ^ pos + packBlocks l (pos + 64) first
  | .ctl c x :: l, pos, true => (c % 16 + x % 2 ^ 56 * 2 ^ 4) * 2 ^ pos + packBlocks l (pos + 60) false
  | .ctl c x :: l, pos, false => (typeByte c + x % 2 ^ 56 * 2 ^ 8) * 2 ^ pos + packBlocks l (pos + 64) false
  | .bad :: l, pos, first => packBlocks l (pos + 64) first

/-- A block carries data. -/
def Blk.isData : Blk → Bool
  | .data _ => true
  | _ => false

/-- Four blocks transcoded into one 257-bit block (R227). -/
def transcode (l : List Blk) : Nat :=
  if l.all Blk.isData then 1 + packBlocks l 1 true
  else bitNat (l.map Blk.isData) * 2 + packBlocks l 5 true

/-- `n` bits of the scrambler sequence from a state, as a number, and the state after them (R228). -/
def scrBits : Nat → Nat → Nat → Nat → Nat × Nat
  | 0, _, st, acc => (acc, st)
  | n + 1, i, st, acc =>
    let b := (st / 2 ^ 57 % 2 + st / 2 ^ 38 % 2) % 2
    scrBits n (i + 1) ((st * 2 + b) % 2 ^ 58) (acc + b * 2 ^ i)

/-- The CRC-32 of IEEE 802.3 over bytes (R237). -/
def crc32Bit : Nat → Nat → Nat
  | 0, c => c
  | n + 1, c => crc32Bit n (if c % 2 = 1 then (c / 2) ^^^ 0xEDB88320 else c / 2)
def crc32 (bs : List Byte) : Nat := (bs.foldl (fun c b => crc32Bit 8 (c ^^^ b.toNat)) 0xFFFFFFFF) ^^^ 0xFFFFFFFF

/-- The blocks of a packet (R237, R238): START, the type header, LEN payload bytes padded with 0, and END with the CRC. -/
def packetBlocks (p : Packet) : List Blk :=
  let start := leBytes 7 (p.ptype + p.loc.toNat * 2 ^ 4 + p.bcast.toNat * 2 ^ 5 + p.ep % 2048 * 2 ^ 8 + p.payload.length * 2 ^ 24 +
    p.tspec % 65536 * 2 ^ 40)
  let n := (p.payload.length + 7) / 8
  let data := p.hdr.map (· % 2 ^ 64) ++ (List.range n).map fun i => leAt p.payload (8 * i) 8
  .ctl 1 (leNat start) :: data.map .data ++ [.ctl 2 (crc32 (start ++ data.flatMap (leBytes 8)))]

/-! ## The code RS(544,514)

R229 takes the code, its generator polynomial and the order of its parity symbols from IEEE 802.3 Clause 91, which the spec does not print
(assumption 111): symbols of GF(2¹⁰) under x¹⁰ + x³ + 1, the generator polynomial with the roots α⁰ to α²⁹ for α = 2, and the message in the
highest powers, sent first. -/

/-- A symbol times α. -/
def gfDouble (a : Nat) : Nat := if a < 512 then 2 * a else (2 * a) ^^^ 0x409

/-- `n` steps of a product: the partial sum, the shifted factor, and the bits of the other left. -/
def gfMulGo : Nat → Nat → Nat → Nat → Nat
  | 0, acc, _, _ => acc
  | n + 1, acc, a, b => gfMulGo n (if b % 2 = 1 then acc ^^^ a else acc) (gfDouble a) (b / 2)
def gfMul (a b : Nat) : Nat := gfMulGo 10 0 a b

/-- `a` to the power `2 ^ n − 1`, times `acc`, in `n` squarings. -/
def gfPowGo : Nat → Nat → Nat → Nat
  | 0, acc, _ => acc
  | n + 1, acc, a => gfPowGo n (gfMul acc a) (gfMul a a)

/-- The inverse of a symbol: its power 1,022. -/
def gfInv (a : Nat) : Nat := gfPowGo 9 1 (gfMul a a)

/-- The powers of `a` that the low bits of an exponent select, times `acc`. -/
def gfExpGo : Nat → Nat → Nat → Nat → Nat
  | 0, acc, _, _ => acc
  | k + 1, acc, a, n => gfExpGo k (if n % 2 = 1 then gfMul acc a else acc) (gfMul a a) (n / 2)

/-- α to the power `n`: α has the order 1,023. -/
def gfAlpha (n : Nat) : Nat := gfExpGo 10 1 2 (n % 1023)

/-- Sum of two polynomials, and a polynomial times a symbol, lowest coefficient first. -/
def polyAdd : List Nat → List Nat → List Nat
  | [], l => l
  | l, [] => l
  | a :: l, b :: m => (a ^^^ b) :: polyAdd l m
def polyScale (c : Nat) (l : List Nat) : List Nat := l.map (gfMul c)

/-- Value of a polynomial at a point. -/
def polyAt (l : List Nat) (x : Nat) : Nat := l.foldr (fun a v => a ^^^ gfMul v x) 0

/-- The generator polynomial, lowest coefficient first. -/
def rsGen : List Nat := (List.range 30).foldl (fun g j => polyAdd (0 :: g) (polyScale (gfAlpha j) g)) [1]

/-- The 30 parity symbols of a message, in the order sent: the remainder, highest power first. -/
def rsParity (msg : List Nat) : List Nat :=
  let g := (rsGen.take 30).reverse
  msg.foldl (fun r m =>
    let fb := m ^^^ r.headD 0
    polyAdd (r.drop 1 ++ [0]) (polyScale fb g)) (List.replicate 30 0)

/-- The value at α to the power `j` of a received word, sent highest power first. -/
def rsSyndrome (w : List Nat) (j : Nat) : Nat :=
  w.zipIdx.foldl (fun v x => if x.1 = 0 then v else v ^^^ gfMul x.1 (gfAlpha (j * (543 - x.2)))) 0

/-- The syndromes of a received word. -/
def rsSyndromes (w : List Nat) : List Nat := (List.range 30).map (rsSyndrome w)

/-- A step of the search for the error locator. -/
structure RsLoc where
  c : List Nat := [1]
  b : List Nat := [1]
  len : Nat := 0
  shift : Nat := 1
  last : Nat := 1

def RsLoc.step (syn : List Nat) (x : RsLoc) (n : Nat) : RsLoc :=
  let d := (List.range (x.len + 1)).foldl (fun v i => v ^^^ gfMul (x.c.getD i 0) (syn.getD (n - i) 0)) 0
  if d = 0 then { x with shift := x.shift + 1 }
  else
    let c := polyAdd x.c (List.replicate x.shift 0 ++ polyScale (gfMul d (gfInv x.last)) x.b)
    if 2 * x.len ≤ n then { c := c, b := x.c, len := n + 1 - x.len, shift := 1, last := d }
    else { x with c := c, shift := x.shift + 1 }

/-- The error at the position of power `i`, by the locator and the evaluator. -/
def rsError (loc eval : List Nat) (i : Nat) : Nat :=
  let x := gfAlpha (1023 - i)
  if polyAt loc x = 0 then
    let slope := polyAt (loc.zipIdx.map fun (c, k) => if k % 2 = 1 then c else 0) x
    -- the odd part at x is x times the derivative there
    gfMul (polyAt eval x) (gfInv slope)
  else 0

/-- A received word of 544 symbols as decoded (R230): the symbols corrected and the word, or none where no word of the code lies within 15. -/
def rsDecode (w : List Nat) : Option (Nat × List Nat) :=
  let syn := rsSyndromes w
  if syn.all (· == 0) then some (0, w)
  else
    let loc := (List.range 30).foldl (RsLoc.step syn) {}
    if 15 < loc.len then none
    else
      let c := loc.c.take (loc.len + 1)
      let eval := (List.range 30).map fun k => (List.range (k + 1)).foldl (fun v i => v ^^^ gfMul (c.getD i 0) (syn.getD (k - i) 0)) 0
      let errs := (List.range 544).map fun p => rsError c eval (543 - p)
      let fixed := polyAdd w errs
      let n := (errs.filter (· != 0)).length
      if n = loc.len ∧ (rsSyndromes fixed).all (· == 0) then some (n, fixed) else none

/-- The 544 symbols of a codeword from its 5,140 message bits (R229). -/
def rsCodeword (msg : Nat) : List Nat :=
  let m := (List.range 514).map fun i => bitsOf msg (10 * i) 10
  m ++ rsParity m

/-- The bits of logical lane `k` of a codeword on a link of `w` lanes (R229). -/
def laneBits (w k : Nat) (cw : List Nat) : List Bool := (List.range (544 / w)).flatMap fun j => bitList 10 (cw.getD (w * j + k) 0)

/-- The codeword whose lanes, by logical number, carry given bits (R222, R229). -/
def laneMerge (w : Nat) (lanes : List (List Bool)) : List Nat :=
  let syms := lanes.map fun b => (cutEvery 10 (544 / w) b).map bitNat
  (List.range 544).map fun i => (syms.getD (i % w) []).getD (i / w) 0

/-! ## Alignment markers (R231, R232) -/

/-- The fixed bytes of a marker. -/
def markerFixed : List (Nat × Nat) :=
  [(0, 0x9D), (1, 0x62), (2, 0x4B), (3, 0xB8), (12, 0x62), (13, 0x9D), (14, 0xB4), (15, 0x47)]
def popCount (w x : Nat) : Nat := ((List.range w).filter (bitAt x)).length
def markerByte (m : Nat) (i : Nat) : Nat := bitsOf m (8 * i) 8

/-- A marker is valid where at most 3 bits of its fixed bytes differ and the complement pairs of bytes 4 to 7 agree (R232). -/
def markerValid (m : Nat) : Bool :=
  decide (((markerFixed.map fun (i, v) => popCount 8 (markerByte m i ^^^ v)).sum) ≤ 3) &&
  markerByte m 4 + markerByte m 5 == 255 && markerByte m 6 + markerByte m 7 == 255

/-- The marker of a logical lane of a link of WIDTH code `w`, with its BIP-8 (R231). -/
def markerOf (k w bip : Nat) : Nat :=
  leNat ([0x9D, 0x62, 0x4B, 0xB8, k, 255 - k, w, 255 - w, bip, 255 - bip, 0x00, 0xFF, 0x62, 0x9D, 0xB4, 0x47].map (BitVec.ofNat 8))

/-- BIP-8 of a whole number of bytes of a lane's bits, added to `x` (R231). -/
def bip8 (x : Nat) (bits : List Bool) : Nat := (cutEvery 8 (bits.length / 8) bits).foldl (fun v b => v ^^^ bitNat b) x

end Sys2Proof.Machine
end

