-- ==== Sys2Proof/Machine/Endpoints.lean ====
section
/-!
DEFINITION. What endpoints, streams and message FIFOs do at the request of other blocks (chapters 7 and 8): CTRL requests and
their credits, FIFO items, enrolment, the loss of an endpoint, and the start and stop of a stream.
-/
set_option Elab.async false
namespace Sys2Proof.Machine

def State.epOf (s : State) (e : Nat) : Endpoint := Tbl.get {} s.eps e
def State.setEp (s : State) (e : Nat) (x : Endpoint) : State := { s with eps := Tbl.put {} s.eps e x }
def State.linkOf (s : State) (f : Nat) : Link := Tbl.get {} s.links f
def State.setLink (s : State) (f : Nat) (x : Link) : State := { s with links := Tbl.put {} s.links f x }
def State.streamOf (s : State) (d : Nat) : Stream := Tbl.get {} s.streams d
def State.setStream (s : State) (d : Nat) (x : Stream) : State := { s with streams := Tbl.put {} s.streams d x }

/-- EP_STATE (R278). -/
def State.epState (s : State) (e : Nat) : Nat := s.get (R.EP_INFO_EP_STATE e)

/-- EP_STATE changes; EPT_COUNT follows (R313). -/
def State.setEpState (s : State) (e st : Nat) : State :=
  let live (x : Nat) : Nat := if x = 1 ∨ x = 2 then 1 else 0
  let lost (x : Nat) : Nat := if x = 3 then 1 else 0
  let old := s.epState e
  let s := s.set (R.EP_INFO_EP_STATE e) st
  let s := s.set R.EPT_COUNT_LIVE (s.get R.EPT_COUNT_LIVE + live st - live old)
  s.set R.EPT_COUNT_LOST (s.get R.EPT_COUNT_LOST + lost st - lost old)

/-- Events of the endpoint table (R313). -/
def State.publishEpt (s : State) (e kind : Nat) : State :=
  s.skepPublish R.EVT_EPT (e + kind * 2 ^ 12 + 0x4 * 2 ^ 20)

/-- The link of an endpoint. -/
def State.epLink (s : State) (e : Nat) : Nat := s.get (R.EP_INFO_LINK e)

/-- Entries that are not FREE and lie on a link. -/
def State.epsOn (s : State) (f : Nat) : List Nat := s.eps.keys.filter fun e => s.epState e != 0 && s.epLink e == f

/-- The endpoint of a link without a hub, which every upstream packet is attributed to (R285): the entry that the link's partner was given, as
long as the entry names it. -/
def State.directEp (s : State) (f : Nat) : Option Nat := (s.linkOf f).partner.filter fun e => s.epState e != 0 && s.epLink e == f

/-- The entry that an upstream packet names (R285). -/
def State.sourceEp (s : State) (f : Nat) (p : Packet) : Option Nat :=
  if s.get (R.PARTNER_CAP_ROLE f) = 1 then (if s.epState p.ep = 0 then none else some p.ep) else s.directEp f

/-! ## Message FIFOs -/

/-- 32-bit words of a payload, the last filled with zeros (R307). -/
def wordsOf (b : List Byte) : List Nat := (List.range ((b.length + 3) / 4)).map fun i => leAt b (i * 4) 4

/-- Read words of an item (R308), and read words stored. -/
def MsgItem.size (m : MsgItem) : Nat := (m.words.length + 7) / 8
def State.mfLevel (s : State) (e : Nat) : Nat := ((s.epOf e).items.map MsgItem.size).sum

/-- The items of a FIFO are replaced; LEVEL follows. -/
def State.setItems (s : State) (e : Nat) (l : List MsgItem) : State :=
  let s := s.setEp e { s.epOf e with items := l }
  s.set (R.MF_STATUS_LEVEL e) (s.mfLevel e)

/-- An item reaches the FIFO (R307, R310, R312): stored, or discarded whole; the rest of an item that FLUSH cut is discarded as it arrives, and
the item with it. -/
def State.mfPush (s : State) (e kind status tag : Nat) (skep epoch : Bool) (len : Nat) (rest : List Nat) : State :=
  let x := s.epOf e
  if x.cutting then s.setEp e { x with cutting := false, dropped := true }
  else
    let w0 := kind + status * 16 + tag * 256 + skep.toNat * 2 ^ 16 + x.dropped.toNat * 2 ^ 17 + epoch.toNat * 2 ^ 18 + len * 2 ^ 20
    let m : MsgItem := ⟨w0 :: rest⟩
    if s.on (R.MF_CFG_EN e) && decide (s.mfLevel e + m.size ≤ s.get (R.MF_CFG_DEPTH e)) then
      (s.setEp e { x with dropped := false }).setItems e (x.items ++ [m])
    else ((s.setEp e { x with dropped := true }).bumpSat (R.MF_DROP_CNT_CNT e)).raise (R.MF_STATUS_OVERFLOW e)

/-! ## CTRL requests -/

/-- The requester is Skep. -/
def Purpose.skep : Purpose → Bool
  | .port _ => false
  | _ => true

/-- A packet waits to be sent downstream on a link (R241). -/
def State.sendLink (s : State) (f : Nat) (p : Packet) : State :=
  let l := s.linkOf f
  s.setLink f { l with tx := { l.tx with queue := l.tx.queue ++ [p] } }

/-- A packet waits to be sent downstream on the link of an endpoint. -/
def State.sendTo (s : State) (e : Nat) (p : Packet) : State := s.sendLink (s.epLink e) { p with ep := e }

/-- A request that Skep sends after ASSIGN (R283, R284), or after GROUP (R301): it leaves after the HUB packets queued before it. -/
def Purpose.followsHub : Purpose → Bool
  | .headEp | .ident => true
  | .stream _ on _ _ => on
  | _ => false

/-- The CTRL packet of a request (R246); enrolment of a partner itself uses LOCAL packets (R283). -/
def State.ctrlPacket (s : State) (e : Nat) (r : CtrlReq) : Packet :=
  { ptype := 2, ep := e,
    loc := (r.purpose == .headEp || r.purpose == .ident) && !s.on (R.EP_INFO_BEHIND_HUB e) && !s.on (R.EP_INFO_IS_HUB e),
    tspec := r.tag + r.write.toNat * 256 + r.epoch.toNat * 2 ^ 11,
    hdr := [r.addr + r.words * 2 ^ 32],
    payload := if r.write then r.data.flatMap (leBytes 4) else [],
    afterHub := r.purpose.followsHub }

/-- Requests that wait are sent while credits last and no reset is under way (R247, R248). -/
def State.ctrlPump (s : State) (e : Nat) : State :=
  let w := (s.epOf e).wait
  let s := s.setEp e { s.epOf e with wait := [] }
  s.forList w fun r s =>
    let x := s.epOf e
    if x.credits = 0 ∨ x.resetting then s.setEp e { x with wait := x.wait ++ [r] }
    else
      let r := { r with epoch := x.epoch }
      (s.setEp e { x with credits := x.credits - 1, out := x.out ++ [r] }).sendTo e (s.ctrlPacket e r)

/-- A request takes the next TAG of its endpoint and is sent (R246, R247, R293). -/
def State.ctrlRequest (s : State) (e : Nat) (write : Bool) (addr words : Nat) (data : List Nat) (why : Purpose) : State :=
  let x := s.epOf e
  let r : CtrlReq := ⟨x.nextTag, write, addr, words, data, why, x.epoch⟩
  (s.setEp e { x with nextTag := (x.nextTag + 1) % 256, wait := x.wait ++ [r] }).ctrlPump e

/-- An epoch reset (R248). -/
def State.epochReset (s : State) (e : Nat) : State :=
  let x := s.epOf e
  let s := s.setEp e { x with epoch := !x.epoch, resetting := true, credits := 0 }
  (s.raise (R.LINK_STATUS_CTRL_RESET (s.epLink e))).sendTo e { ptype := 5, tspec := (!x.epoch).toNat * 256 + 512 }

/-- HEAD_EP of an endpoint: its ID with VALID (R282). -/
def headEpWord (e : Nat) : Nat := e + 2 ^ 31

/-- Skep writes HEAD_EP, and reads the 8 identity words (R283). -/
def State.writeHeadEp (s : State) (e : Nat) (why : Purpose) : State := s.ctrlRequest e true 0x40 1 [headEpWord e] why
def State.readIdent (s : State) (e : Nat) : State := s.ctrlRequest e false 0 8 [] .ident

/-- Skep writes the 16 parameter sets (R292). -/
def State.writePsets (s : State) (e : Nat) : State :=
  let data := (List.range 16).flatMap fun k => [s.get (R.PSET_EXP_NS e k), s.get (R.PSET_CFG_GAIN e k)]
  (s.setEp e { s.epOf e with psetDirty := false }).ctrlRequest e true 0x1000 32 data (.pset (s.unitOf (epUnit e)).gen)

/-! ## Hub management -/

/-- A HUB packet (R255). -/
def hubPacket (kind h0 h1 : Nat) (loc : Bool) : Packet := { ptype := 7, loc := loc, tspec := kind, hdr := [h0, h1] }

/-- ASSIGN of an endpoint's slot, or its withdrawal (R255, R284). -/
def State.assign (s : State) (e : Nat) (valid : Bool) : State :=
  let h0 := s.get (R.EP_INFO_SLOT e) + e * 256 + valid.toNat * 2 ^ 19
  if s.on (R.EP_INFO_BEHIND_HUB e) then
    s.sendTo (s.get (R.EP_INFO_PARENT e)) (hubPacket 1 h0 0 false)
  else if s.on (R.EP_INFO_IS_HUB e) then s.sendTo e (hubPacket 1 h0 0 true)
  else s

/-- Skep withdraws the ASSIGN of a hub slot (R286, R289), slot 0 of a hub among them (R255, R283). -/
def State.withdraw (s : State) (e : Nat) : State :=
  let h0 := s.get (R.EP_INFO_SLOT e) + e * 256
  if s.on (R.EP_INFO_BEHIND_HUB e) then s.skepDo (.send (s.get (R.EP_INFO_PARENT e)) (hubPacket 1 h0 0 false)) (·.assign e false)
  else if s.on (R.EP_INFO_IS_HUB e) then s.skepDo (.send e (hubPacket 1 h0 0 true)) (·.assign e false)
  else s

/-! ## Descriptors -/

/-- Descriptors with EN, of an endpoint, and of a link; only a descriptor that has been written is listed. -/
def State.descs (s : State) : List Nat :=
  (s.regs.filterMap fun (a, _) =>
    if 0x240000 ≤ a ∧ a < 0x280000 ∧ a % 0x40 = 0 then some ((a - 0x240000) / 0x40) else none).filter fun d => s.on (R.SD_CTRL_EN d)
def State.descsOfEp (s : State) (e : Nat) : List Nat := s.descs.filter fun d => s.get (R.SD_BIND_EP d) == e
def State.descLink (s : State) (d : Nat) : Nat := s.epLink (s.get (R.SD_BIND_EP d))
def State.descsOfLink (s : State) (f : Nat) : List Nat := s.descs.filter fun d => s.descLink d == f
def State.running (s : State) (d : Nat) : Bool := s.on (R.SD_STATUS_RUNNING d)

/-- Members that Skep joins to hub groups (R301): the endpoints behind a hub with an EN descriptor, each in the GROUP of its
trigger input; a disabled input's group only where no enabled input of the link has the same. -/
def State.groupsDue (s : State) : List Member :=
  (s.descs.filterMap fun d =>
    let e := s.get (R.SD_BIND_EP d)
    let f := s.epLink e
    let i := s.get (R.SD_BIND_TRIG_IN d)
    let g := s.get (R.TRIG_CTRL_GROUP f i)
    if s.on (R.EP_INFO_BEHIND_HUB e) &&
       (s.on (R.TRIG_CTRL_EN f i) ||
         !((List.range 8).any fun j => s.on (R.TRIG_CTRL_EN f j) && s.get (R.TRIG_CTRL_GROUP f j) == g))
    then some ⟨f, s.get (R.EP_INFO_PARENT e), e, g⟩ else none).eraseDups

/-! ## Trigger inputs: budget -/

/-- The partner of a link is triggered by LAUNCH: both sides declare DET_TRIG and the version allows it (R253). -/
def State.detTrig (s : State) (f : Nat) : Bool := s.on (R.PARTNER_CAP_DET_TRIG f) && s.get (R.LINK_STATUS_VER_MAJOR f) == 2

/-- Members of a group behind the hub of a link. -/
def State.members (s : State) (f g : Nat) : List Nat := (s.groups.filter fun m => m.link == f && m.group == g).map Member.ep

/-- The partner of a link is known: its HELLO has given the link a version (R252). -/
def State.partnerKnown (s : State) (f : Nat) : Bool := s.on (R.LINK_STATUS_VER_MAJOR f)

/-- The floor of LAUNCH on a link for a group, in 0.25 ns (R262): the partner's MIN_LAUNCH, or the greatest PATH_BUDGET. -/
def State.launchFloor (s : State) (f g : Nat) : Nat :=
  if s.get (R.PARTNER_CAP_ROLE f) = 1 then ((s.members f g).map fun e => s.get (R.EP_PATH_BUDGET e)).foldl max 0
  else s.get (R.PARTNER_LAT_MIN_LAUNCH f)

/-- TX_TERM and SLOT of R268 in 0.25 ns. -/
def txTerm (rate : Nat) : Nat := match rate with | 0 => 240 | 1 => 176 | _ => 416
def txSlot (rate : Nat) : Nat := match rate with | 0 => 10 | 1 => 5 | _ => 27

/-- MIN_LAT of trigger input `i` in ns (R268). -/
def State.minLat (s : State) (f i : Nat) : Nat :=
  let rate := (Tbl.get {} s.lanes f).rate
  let k := ((List.range 8).filter fun j => j == i || s.on (R.TRIG_CTRL_EN f j)).length
  let floor := if s.detTrig f then s.launchFloor f (s.get (R.TRIG_CTRL_GROUP f i)) else s.get (R.PARTNER_LAT_NOMINAL_LAT f)
  (txTerm rate + (k - 1) * txSlot rate + s.get (R.LINK_DELAY_DELAY f) + floor + 3) / 4

/-- JITTER of R263: 2 while no partner is known. -/
def State.jitter (s : State) (f i : Nat) : Nat :=
  if !s.partnerKnown f then 2
  else if !s.detTrig f || (s.members f (s.get (R.TRIG_CTRL_GROUP f i))).any (fun e => !s.on (R.EP_INFO_DET_TRIG e)) then 60 else 2

/-- TRIG_STATUS of a link's inputs follows (R263, R268); MIN_LAT rising above TRIG_LAT of an enabled input sets BUDGET_ERR
(R269). -/
def State.trigRefresh (s : State) (f : Nat) : State :=
  s.forEach 8 fun i s =>
    let new := min 65535 (s.minLat f i)
    let old := s.get (R.TRIG_STATUS_MIN_LAT f i)
    let lat := s.get (R.TRIG_LAT_NS f i)
    let s := if s.on (R.TRIG_CTRL_EN f i) && decide (old ≤ lat ∧ lat < new) then s.raise (R.TRIG_STATUS_BUDGET_ERR f i) else s
    let s := (s.set (R.TRIG_STATUS_MIN_LAT f i) new).set (R.TRIG_STATUS_JITTER f i) (s.jitter f i)
    s.setFlag (R.TRIG_STATUS_RUNNING f i) (s.on (R.TRIG_CTRL_EN f i))

/-- GROUP to the hub of a member (R255), while the hub is reachable. -/
def State.sendGroup (s : State) (m : Member) (join : Bool) : State :=
  if s.epState m.hub = 2 then s.sendTo m.hub (hubPacket 2 (m.ep + m.group * 2 ^ 16 + join.toNat * 2 ^ 24) 0 false) else s

/-- Skep, while it runs (R24), sends leaves and joins until the members are those due (R301); the floors of the links follow. -/
def State.groupUpdate (s : State) : State :=
  if !s.skepRuns then s
  else
  let due := s.groupsDue
  let old := s.groups
  let gone := old.filter fun m => !due.contains m
  let added := due.filter fun m => !old.contains m
  let s := s.forList gone fun m s => s.sendGroup m false
  let s := s.forList added fun m s => s.sendGroup m true
  ({ s with groups := due }).forList ((gone ++ added).map Member.link).eraseDups fun f s => s.trigRefresh f

/-- A hub that has been enrolled holds no members: those due are joined anew (R301; assumption 117). -/
def State.groupsRejoin (s : State) (hub : Nat) : State := ({ s with groups := s.groups.filter (·.hub != hub) }).groupUpdate

/-- A new start of a stream, or its end: the next number. -/
def State.streamCount (s : State) (d : Nat) : State := s.setStream d { s.streamOf d with starts := (s.streamOf d).starts + 1 }

/-- Skep configures the head's stream, EN last (R301), the parameter sets before the first stream after a change (R292). -/
def State.streamWrites (s : State) (d : Nat) : State :=
  let e := s.get (R.SD_BIND_EP d)
  let s := s.streamCount d
  let n := (s.streamOf d).starts
  let s := if (s.epOf e).psetDirty && !(s.descsOfEp e).any s.running then s.writePsets e else s
  let a := 0x100 + s.get (R.SD_BIND_STREAM d) * 16
  let rows := if s.on (R.SD_CTRL_TILE d) then s.get (R.SD_TILE_TILE_ROWS d) else 1
  let cfg := s.get (R.SD_FORMAT_FMT d) + s.get (R.SD_FORMAT_COMP d) * 8 + s.get (R.SD_FORMAT_LAYOUT d) * 32 + 64
  let s := s.ctrlRequest e true (a + 4) 1 [s.get (R.SD_GEOM_WIDTH d)] (.stream d true false n)
  let s := s.ctrlRequest e true (a + 8) 1 [rows] (.stream d true false n)
  s.ctrlRequest e true a 1 [cfg] (.stream d true true n)

/-- Skep starts the head's stream of a descriptor (R301). -/
def State.streamStart (s : State) (d : Nat) : State := s.skepDo (.stream d) (·.streamWrites d)

/-- Skep stops the stream of an endpoint that descriptor `d` no longer admits (R301); a start of it that still waits for Skep is not made. -/
def State.streamEnd (s : State) (d e stream : Nat) : State :=
  let s := { s with skep := { s.skep with todo := s.skep.todo.filter (· != SkepJob.stream d) } }
  s.skepDo (.streamOff d e stream) fun s => s.ctrlRequest e true (0x100 + stream * 16) 1 [0] (.stream d false true 0)

/-- The lines of a stream in assembly are discarded, and its expectation ends. -/
def State.streamForget (s : State) (d : Nat) : State :=
  let f := s.descLink d
  let s := s.setLink f { s.linkOf f with asm := (s.linkOf f).asm.filter (·.desc != d) }
  ((s.clear (R.SD_STATUS_RUNNING d)).setStream d { starts := (s.streamOf d).starts + 1 }).condStop d

/-- The cause of a LOSS record: the most recent discard on the link since the stream's last good line, or GAP (R244). -/
def State.lossCause (s : State) (d : Nat) : Nat :=
  let l := s.linkOf (s.descLink d)
  if l.discards ≠ (s.streamOf d).discards then l.lastCause else 5

/-- The range of a stream that stops: from the expected line to the highest line seen (R783). -/
def State.openRange (s : State) (d : Nat) : Option (Nat × Nat) :=
  match (s.streamOf d).expect with
  | none => none
  | some x =>
    some (x, match (s.streamOf d).high with
             | some h => if 0 < signed 32 (unsigned 32 ((h : Int) - x)) then h else x
             | none => x)

/-- A running stream stops, with the LOSS record of R783. `down`: its link left UP. -/
def State.streamStop (s : State) (d : Nat) (down : Bool) : State :=
  if s.running d then
    let l := s.linkOf (s.descLink d)
    let isOpen := l.asm.any (·.desc == d) || decide (l.discards ≠ (s.streamOf d).discards)
    let s := match s.openRange d with
      | some (a, b) => if down || isOpen then s.lossLink (s.descLink d) d (if down then 3 else s.lossCause d) a b else s
      | none => s
    s.streamForget d
  else s

/-! ## Admission -/

/-- Bits of a sample on the link, and bytes of a sample stored (R296). -/
def fmtBits (fmt : Nat) : Nat := match fmt with | 0 => 8 | 1 => 10 | 2 => 12 | _ => 16
def fmtWidth (fmt : Nat) : Nat := if fmt = 0 then 1 else 2

/-- Components of a descriptor, and its rows. -/
def State.descComps (s : State) (d : Nat) : Nat := s.get (R.SD_FORMAT_COMP d) + 1
def State.descRows (s : State) (d : Nat) : Nat := if s.on (R.SD_CTRL_TILE d) then s.get (R.SD_TILE_TILE_ROWS d) else 1

/-- Bytes of a row of `n` pixels (R298), and of a line or tile. -/
def State.rowBytes (s : State) (d n : Nat) : Nat := (n * s.descComps d * fmtBits (s.get (R.SD_FORMAT_FMT d)) + 7) / 8
def State.lineBytes (s : State) (d : Nat) : Nat := s.rowBytes d (s.get (R.SD_GEOM_WIDTH d)) * s.descRows d

/-- The link forecast of a descriptor in bytes per second (R303). -/
def State.descLoad (s : State) (d : Nat) : Nat :=
  let b := s.lineBytes d
  s.get (R.SD_RATE_MAX_RATE d) * (8 * ((b + 7) / 8) + 40 * ((b + 16383) / 16384))

/-- The capacity of a link in MB/s (R303). -/
def State.linkCap (s : State) (f : Nat) : Nat :=
  2 ^ s.get (R.LINK_CTRL_WIDTH f) *
    (match (Tbl.get {} s.lanes f).rate with | 0 => 3143 | 1 => 6286 | _ => 1152)

/-- The device memory traffic that R33 counts for a descriptor, in bytes per second (R304). -/
def State.descMem (s : State) (d : Nat) : Nat :=
  let c := s.descComps d
  let w := fmtWidth (s.get (R.SD_FORMAT_FMT d))
  let px := s.get (R.SD_RATE_MAX_RATE d) * s.get (R.SD_GEOM_WIDTH d) * s.descRows d
  px * (3 * c * w + 1) + (if s.on (R.SD_CTRL_RAW_RING d) then s.get (R.SD_RATE_MAX_RATE d) * s.lineBytes d else 0)

def ceilDiv (a b : Nat) : Nat := (a + b - 1) / b

/-- The comparison load in samples per second (R530). -/
def State.cmpLoad (s : State) : Nat :=
  (s.descs.map fun d => s.get (R.SD_RATE_MAX_RATE d) * s.get (R.SD_GEOM_WIDTH d) * s.descRows d * s.descComps d).sum

/-- LINK_FORECAST and MEM_FORECAST show the sums in force (R305), OVER_CAP a capacity that has fallen below (R306), CMP_CAP the comparison
load (R530). -/
def State.forecasts (s : State) : State :=
  let s := s.set R.CMP_CAP_LOAD (ceilDiv s.cmpLoad 1000000000)
  let s := s.forEach 32 fun f s =>
    let l := s.descsOfLink f
    let sum := (l.map s.descLoad).sum
    if l = [] ∧ s.reg (R.LINK_FORECAST_F f) = 0 ∧ s.get (R.LINK_STATUS_LINK_STATE f) ≠ 4 then s
    else
      let s := (s.set (R.LINK_FORECAST_F_MBS f) (ceilDiv sum 1000000)).set (R.LINK_FORECAST_F_CAP f) (s.linkCap f / 2)
      if s.linkCap f * 1000000 < sum then s.raise (R.LINK_FORECAST_F_OVER_CAP f) else s
  s.set R.MEM_FORECAST_MBS (128000 + ceilDiv ((s.descs.map s.descMem).sum) 1000000)

/-! ## The identity of an endpoint -/

/-- Vendor and model, and serial, of an entry as read (R282). -/
def State.epVendor (s : State) (e : Nat) : Nat := (s.reg (R.ID_WORD e 0)).toNat
def State.epSerial (s : State) (e : Nat) : Nat := (s.reg (R.ID_WORD e 1)).toNat + (s.reg (R.ID_WORD e 2)).toNat * 2 ^ 32

/-- Entries IDENTIFIED or LOST with the same vendor, model and serial set DUP_SERIAL (R280). -/
def State.dupUpdate (s : State) : State :=
  let l := s.eps.keys.filter fun e => decide (2 ≤ s.epState e)
  s.forList l fun e s =>
    let dup := l.any fun x => x != e && s.epVendor x == s.epVendor e && s.epSerial x == s.epSerial e
    let s := s.setFlag (R.EP_STATUS_DUP_SERIAL e) dup
    if dup then s.raise R.EPT_STATUS_DUP_SERIAL else s

/-! ## Loss of an endpoint -/

/-- The outstanding requests of an endpoint complete with RSTATUS 9 (R273, R289): an item each, and the CTRL port of each. -/
def State.ctrlFailAll (s : State) (e : Nat) : State :=
  let x := s.epOf e
  let l := x.out ++ x.wait
  let s := s.setEp e { x with out := [], wait := [] }
  s.forList l fun r s =>
    let s := s.mfPush e 5 9 r.tag r.purpose.skep r.epoch 0 [r.addr]
    match r.purpose with
    | .port p => ((s.set (R.CP_RESULT_RSTATUS p) 9).set (R.CP_RESULT_TAG p) r.tag).raise (R.CP_RESULT_DONE p)
    | _ => s

/-- An entry that is FREE: its message FIFO stays (R307), and parameter sets that the next head has not been sent stay marked (R292). -/
def Endpoint.freed (x : Endpoint) : Endpoint := { items := x.items, cutting := x.cutting, dropped := x.dropped, psetDirty := x.psetDirty }

/-- The entry is LOST with a cause, from this event clock (R286, R289). -/
def State.epToLost (s : State) (e cause : Nat) : State :=
  let s := (s.setEpState e 3).set (R.EP_STATUS_CAUSE e) cause
  let s := s.setEp e { s.epOf e with lostClk := s.clk, wasLost := false, fails := 0, misses := 0 }
  ((s.raise R.EPT_STATUS_LOST_EP).publishEpt e 1).dupUpdate

/-- Completions of an endpoint's requests that wait for Skep concern it no more (R289, R779). -/
def State.jobsDrop (s : State) (e : Nat) : State :=
  { s with skep := { s.skep with todo := s.skep.todo.filter fun j => match j with | .ctrl x .. => x != e | _ => true } }

/-- The entry becomes LOST with a cause (R286, R288, R289), or ends its enrolment under R779; an entry that returns to FREE leaves its link, and the
sums in force follow (R305). -/
def State.epLost (s : State) (e cause : Nat) : State :=
  match s.epState e with
  | 1 =>
    let s := ((s.ctrlFailAll e).jobsDrop e).withdraw e
    if (s.epOf e).wasLost ∨ cause = 6 then s.epToLost e cause
    else
      let f := s.epLink e
      ((((s.setEpState e 0).setEp e (s.epOf e).freed).set (R.EP_INFO_LINK e) 0).forecasts.trigRefresh f).trigRefresh 0
  | 2 =>
    let s := (s.ctrlFailAll e).jobsDrop e
    let s := s.forList (s.descsOfEp e) fun d s => s.streamStop d (cause == 3)
    (s.withdraw e).epToLost e cause
  | _ => s

/-! ## Enrolment -/

/-- The ID for a found endpoint (R279, R280): that of a LOST entry with the same identity, the lowest FREE ID, or the entry lost
longest ago. -/
def State.pickId (s : State) (n : Enrol) : Option Nat :=
  let lost := s.eps.keys.filter fun e => s.epState e == 3
  let same := lost.filter fun e => s.epVendor e == n.vendor && s.epSerial e == n.serial
  match same.find? fun e => !s.on (R.EP_STATUS_DUP_SERIAL e) with
  | some e => some e
  | none =>
    match (List.range 2048).find? fun e => s.epState e == 0 with
    | some e => some e
    | none => (sortBy (fun e => ((s.epOf e).lostClk, e)) (lost.filter fun e => !same.contains e)).head?

/-- What R281 does before an ID of a LOST entry passes to an endpoint of another identity. -/
def State.reuseId (s : State) (e : Nat) : State :=
  let s := s.forList (s.descsOfEp e) fun d s => (s.clear (R.SD_CTRL_EN d)).streamForget d
  let s := s.forecasts.groupUpdate
  let s := s.resetRegs (R.PSET_EXP e 0) (R.PSET_EXP e 16)
  let s := s.setEp e { s.epOf e with psetDirty := true }
  let s := s.clear (R.EP_CTRL_AUTO_RESTART e)
  ((s.raise R.EPT_STATUS_ID_REUSED).publishEpt e 4).dupUpdate

/-- The entry becomes PRESENT for a found endpoint and its path is kept (R283, R284, R286); forecasts and MIN_LAT follow it to its link
(R268, R305). -/
def State.present (s : State) (e : Nat) (n : Enrol) : State :=
  let from' := s.epLink e
  let wasLost := s.epState e == 3
  let sameLink := wasLost && s.epLink e == n.link && (s.epOf e).resetting
  let s := s.setEpState e 1
  let s := s.set (R.EP_INFO_LINK e) n.link
  let s := s.setFlag (R.EP_INFO_IS_HUB e) n.isHub
  let s := s.set (R.EP_INFO_SLOT e) n.slot
  let s := s.setFlag (R.EP_INFO_BEHIND_HUB e) (n.hub != none && n.slot != 0)
  let s := s.set (R.EP_INFO_PARENT e) (if n.slot = 0 then 0 else n.hub.getD 0)
  let s := s.setFlag (R.EP_INFO_DET_TRIG e) n.detTrig
  let s := s.set (R.EP_INFO_CREDITS e) (n.credits - 1)
  let s := (s.set (R.EP_PATH_BUDGET e) n.budget).set (R.EP_PATH_NOMINAL_LAT e) n.nominal
  let x := s.epOf e
  let s := s.setEp e { x with wasLost := wasLost, vendor := n.vendor, serial := n.serial, fails := 0, misses := 0,
                              credits := if sameLink then 0 else n.credits, resetting := sameLink,
                              epoch := if sameLink then x.epoch else false, out := [], wait := [] }
  let s := if n.slot = 0 then s.setLink n.link { s.linkOf n.link with partner := some e } else s
  (s.forecasts.trigRefresh from').trigRefresh n.link

/-- Skep enrols one found endpoint: its ID, and the first writes (R283, R284). -/
def State.enrol (s : State) (n : Enrol) : State :=
  match s.pickId n with
  | none => s.raise R.EPT_STATUS_EP_FULL
  | some e =>
    let other := s.epState e == 3 && (s.epVendor e != n.vendor || s.epSerial e != n.serial)
    let s := if other then s.reuseId e else s
    let s := s.present e n
    let s := s.assign e true
    if n.isHub && n.slot == 0 then { s.readIdent e with enrolling := some e }
    else { s.writeHeadEp e .headEp with enrolling := some e }

/-- Up to `k` waiting endpoints are tried while no enrolment is under way: links in the order in which they reached UP, slots in order (R283). -/
def State.enrolGo : Nat → State → State
  | 0, s => s
  | k + 1, s =>
    if s.enrolling ≠ none then s
    else
      match sortBy (fun n => (n.order, n.slot)) s.enrolQ with
      | [] => s
      | n :: rest => State.enrolGo k (({ s with enrolQ := rest }).enrol n)

/-- The next endpoint is enrolled when none is under way and Skep runs (R24); one that finds no ID is passed over (R279). -/
def State.enrolNext (s : State) : State := if s.skepRuns then State.enrolGo s.enrolQ.length s else s

/-- An endpoint waits for enrolment. -/
def State.enrolAdd (s : State) (n : Enrol) : State := ({ s with enrolQ := s.enrolQ ++ [n] }).enrolNext

/-- The enrolment of an entry has ended. -/
def State.enrolEnd (s : State) (e : Nat) : State :=
  if s.enrolling = some e then ({ s with enrolling := none }).enrolNext else s

/-- The endpoint unit starts: Skep writes the parameter sets and HEAD_EP (R287). -/
def State.epUnitStart (s : State) (e : Nat) : State :=
  let s := s.unitTo (epUnit e) .starting
  (s.writePsets e).writeHeadEp e (.unitEp (s.unitOf (epUnit e)).gen)

/-- The endpoint unit goes to FAULT (R287, R288, R313). -/
def State.epUnitFault (s : State) (e cause : Nat) : State :=
  ((s.set (R.EP_STATUS_CAUSE e) cause).unitTo (epUnit e) .fault cause).publishEpt e 2

/-- The endpoint unit stops: its streams stop (R301, R655). -/
def State.epUnitStop (s : State) (e : Nat) : State :=
  let s := s.unitTo (epUnit e) .stopping
  let s := s.forList (s.descsOfEp e) fun d s =>
    if s.running d then
      (s.streamStop d false).streamEnd d e (s.get (R.SD_BIND_STREAM d))
    else s
  s.unitTo (epUnit e) .off

/-- The identity words have arrived: the entry is IDENTIFIED (R283, R290). -/
def State.identified (s : State) (e : Nat) (words : List Nat) : State :=
  let s := s.forEach 8 fun i s => s.setReg (R.ID_WORD e i) (BitVec.ofNat 32 (words.getD i 0))
  let s := s.setEp e { s.epOf e with fails := 0, misses := 0, wasLost := false }
  let s := ((s.setEpState e 2).raise R.EPT_STATUS_NEW_EP).publishEpt e 0
  let s := s.dupUpdate
  let s := if s.on (R.EP_INFO_IS_HUB e) then s.groupsRejoin e else s
  let s := if s.on (R.EP_CTRL_AUTO_RESTART e) && s.unitState (epUnit e) == .fault then s.epUnitStart e else s
  if s.on (R.EP_INFO_IS_HUB e) && s.get (R.EP_INFO_SLOT e) == 0 then s.ctrlRequest e false 0x200 64 [] .slotTable
  else s.enrolEnd e

/-- A step of enrolment has failed: it is retried twice, then the entry is LOST with ID_FAILED (R286). -/
def State.enrolFail (s : State) (e : Nat) (again : State → State) : State :=
  let x := s.epOf e
  if x.fails < 2 then again (s.setEp e { x with fails := x.fails + 1 })
  else (s.epLost e 6).enrolEnd e

/-- The descriptors of an endpoint that still have EN resume (R290), with the joins that are due (R301). -/
def State.streamsResume (s : State) (e : Nat) : State :=
  s.groupUpdate.forList ((s.descsOfEp e).filter fun d => !s.running d) fun d s => s.streamStart d

/-- The head of an endpoint has restarted and lost its configuration (R288): streams that ran have stopped, to be configured anew
when the unit is ON again (R290), and a unit STARTING or ON is in FAULT. -/
def State.headReset (s : State) (e : Nat) : State :=
  let s := (s.raise (R.EP_STATUS_HEAD_RESET e)).publishEpt e 3
  let s := s.forList ((s.descsOfEp e).filter s.running) fun d s => s.streamStop d false
  let s := if s.permit (epUnit e) then s.epUnitFault e 4 else s
  s.writeHeadEp e .resetEp

/-- What the completion of a request does: `st` is the head's STATUS or 8 for TIMEOUT (R286 to R294, R301). -/
def State.ctrlEnds (s : State) (e : Nat) (r : CtrlReq) (st : Nat) (data : List Nat) : State :=
  let x := s.epOf e
  let more (p : Purpose) : Bool := (x.out ++ x.wait).any fun q => q.purpose == p
  match r.purpose with
  | .port p => ((s.set (R.CP_RESULT_RSTATUS p) st).set (R.CP_RESULT_TAG p) r.tag).raise (R.CP_RESULT_DONE p)
  | .headEp => if st = 0 then (s.setEp e { x with fails := 0 }).readIdent e else s.enrolFail e fun s => s.writeHeadEp e .headEp
  | .resetEp => if st = 0 then (s.setEp e { x with fails := 0 }).readIdent e else s.enrolFail e fun s => s.writeHeadEp e .resetEp
  | .ident => if st = 0 then s.identified e data else s.enrolFail e fun s => s.readIdent e
  | .slotTable => s.enrolEnd e
  | .pset n | .unitEp n =>
    -- an answer to a write of an earlier start, or from before the unit's STATE last changed, concerns the unit no more
    if n ≠ (s.unitOf (epUnit e)).gen then s
    else if st = 8 then s.ctrlRequest e r.write r.addr r.words r.data r.purpose
    else if s.unitState (epUnit e) == .starting then
      if st ≠ 0 then s.epUnitFault e 5
      else if more (.pset n) || more (.unitEp n) then s
      else (s.unitTo (epUnit e) .on).streamsResume e
    else s
  | .health =>
    if st = 8 then
      let s := s.bumpSat (R.HEALTH_MISS_CNT_CNT e)
      let s := s.setEp e { s.epOf e with misses := x.misses + 1 }
      if s.get R.HEALTH_CFG_MISSES ≤ x.misses + 1 ∧ s.epState e = 2 then s.epLost e 2 else s
    else
      let s := s.setEp e { x with misses := 0 }
      if st = 0 ∧ bitAt (data.headD 0) 31 = false ∧ s.epState e = 2 then s.headReset e else s
  | .stream d on last n =>
    if on = false ∨ s.on (R.SD_CTRL_EN d) = false ∨ n ≠ (s.streamOf d).starts then s
    else if st = 8 then (if s.epState e = 2 then s.ctrlRequest e r.write r.addr r.words r.data r.purpose else s)
    else if st = 0 then
      if !last then s
      else if x.psetDirty && !(s.descsOfEp e).any s.running then
        -- a set has changed since the writes began (R292): the sets are written first
        (s.writePsets e).ctrlRequest e r.write r.addr r.words r.data r.purpose
      else ((s.raise (R.SD_STATUS_RUNNING d)).rawStart d).condStart d
    else
      -- HEAD_REFUSED: EN returns to 0 and the capacity is released (R300, R301)
      (((s.clear (R.SD_CTRL_EN d)).set (R.SD_STATUS_ADMIT_ERR d) 5).streamForget d).forecasts.groupUpdate

/-- A request completes: a CTRL port takes the result at once, and what Skep does about a request of its own waits for it to run (R24, R293). -/
def State.ctrlDone (s : State) (e : Nat) (r : CtrlReq) (st : Nat) (data : List Nat) : State :=
  if r.purpose.skep then s.skepDo (.ctrl e r st data) (·.ctrlEnds e r st data) else s.ctrlEnds e r st data

end Sys2Proof.Machine
end

