-- ==== Sys2Proof/Machine/Encoders.lean ====
section
/-!
DEFINITION. The encoder channels, SSI channels and switch inputs (chapter 2).
-/
set_option Elab.async false
namespace Sys2Proof.Machine

/-! ## Pass-through outputs (R51) -/

/-- Level at an input pin; the inputs of a bank without supply read low (R753). -/
def State.encPin (s : State) (n : Nat) (p : EncPin) : Bool :=
  let c := s.encOf n
  !Tbl.get false s.swd.bankDown 0 && (match p with | .a => c.pinA | .b => c.pinB | .z => c.pinZ)

/-- Filtered level of an input. -/
def EncChan.filt (c : EncChan) (p : EncPin) : Bool :=
  match p with
  | .a => c.filtA
  | .b => c.filtB
  | .z => c.filtZ

/-- What one pass-through output of channel `m` drives: nothing in high impedance or without its bank's supply (R51, R753);
the reserved PT_MODE 3 drives nothing (assumption 7). -/
def State.ptLevel (s : State) (m : Nat) (p : EncPin) : Option Bool :=
  if Tbl.get false s.swd.bankDown 0 then none
  else
    match s.get (R.ENC_PT_PT_MODE m) with
    | 1 => some (s.encPin (s.get (R.ENC_PT_PT_SRC m)) p)
    | 2 => some ((s.encOf (s.get (R.ENC_PT_PT_SRC m))).filt p)
    | _ => none

/-- The pass-through outputs that repeat input `p` of channel `n` in PT_MODE `mode` follow it. -/
def State.passThrough (s : State) (n mode : Nat) (p : EncPin) : State :=
  s.forEach 8 fun m s =>
    if s.get (R.ENC_PT_PT_MODE m) = mode ∧ s.get (R.ENC_PT_PT_SRC m) = n then s.emit (.encOut m p (s.ptLevel m p)) else s

/-! ## Counting -/

/-- Publication of an encoder event (R109): kind 0 index, 1 line-count, 2 direction, 3 illegal, 4 edge rate. -/
def State.encEvent (s : State) (n : Nat) (f : Sel) (kind : Nat) : State :=
  s.publish f (1 + n) (n + s.get (R.ENC_STATUS_DIR n) * 8 + kind * 16)

/-- The count of the channel, kept and shown; reading COUNT_LO captures the upper half (R53). -/
def State.setCount (s : State) (n x : Nat) : State :=
  (s.setEnc n { s.encOf n with count := x % 2 ^ 48 }).set (R.COUNT_LO_COUNT n) x

/-- A counted edge against, or along, the declared direction (R50). -/
def State.dirRun (s : State) (n : Nat) (sign : Int) : State :=
  let c := s.encOf n
  let declared : Int := if s.on (R.ENC_STATUS_DIR n) then -1 else 1
  if sign = declared then s.setEnc n { c with run := 0 }
  else if c.run + 1 ≤ s.get (R.ENC_CTRL_DIR_HYST n) then s.setEnc n { c with run := c.run + 1 }
  else
    let s := s.setEnc n { c with run := 0, skip := true }
    let s := s.setFlag (R.ENC_STATUS_DIR n) (decide (sign < 0))
    let s := (s.raise (R.ENC_STATUS_DIR_CHG n)).bumpSat (R.DIR_CHG_CNT_CNT n)
    s.encEvent n (R.EVT_DIR_SEL n) 2

/-- A counted edge of sign `sign` (R36, R42, R49, R50): the count, LAST_INTERVAL, the speed window and the direction run. -/
def State.countedEdge (s : State) (n : Nat) (sign : Int) : State :=
  let c := s.encOf n
  let s := s.setCount n (unsigned 48 (c.count + sign))
  let s := match c.lastClk with
    | none => s
    | some t => s.set (R.LAST_INTERVAL_CLKS n) (min 0xFFFFFF (s.clk - t))
  let close := match c.lastClk with
    | none => false
    | some t => decide (s.clk - t < 5)
  let s := s.setEnc n { s.encOf n with
    lastClk := some s.clk, prevSign := c.sign, sign := sign, net := c.net + sign,
    winNet := c.winNet + sign, winEdges := c.winEdges + 1 }
  let s := s.dirRun n sign
  let s := if close then (s.raise (R.ENC_STATUS_EDGE_RATE n)).encEvent n (R.EVT_RATE_SEL n) 4 else s
  s.encEdge n

/-- An illegal transition (R41). -/
def State.illegalEdge (s : State) (n : Nat) : State :=
  ((s.raise (R.ENC_STATUS_ILLEGAL n)).bumpSat (R.ILLEGAL_CNT_CNT n)).encEvent n (R.EVT_ILLEGAL_SEL n) 3

/-- The signs counted for a sample, from the filtered levels before and after it (R36, R37, R38): none, one, or an illegal
transition. -/
inductive Sample where
  | nothing
  | edge (sign : Int)
  | illegal
deriving DecidableEq, Repr

/-- What a sample counts in a MODE (R36, R37, R38, R41), before INVERT. -/
def sampleOf (mode : Nat) (a b a' b' : Bool) : Sample :=
  match mode with
  | 0 =>
    if a != a' && b != b' then .illegal
    else if a != a' then .edge (if a' != b then 1 else -1)
    else if b != b' then .edge (if b' == a then 1 else -1)
    else .nothing
  | 1 => if !a && a' then .edge (if b then 1 else -1) else .nothing
  | _ =>
    let up := !a && a'
    let down := !b && b'
    if up && down then .nothing else if up then .edge 1 else if down then .edge (-1) else .nothing

/-- The line-count check at a qualified index pulse (R46, R47). -/
def State.lineCount (s : State) (n : Nat) : State :=
  let c := s.encOf n
  let s :=
    if !c.idxOpen then s
    else
      let s := s.setInt (R.LC_LAST_NET n) c.net
      if c.skip then s.bumpSat (R.LC_SKIP_CNT_CNT n)
      else
        let nominal := s.get (R.LC_NOMINAL_LINES n) * (if s.get (R.ENC_CTRL_MODE n) = 0 then 4 else 1)
        if s.get (R.ENC_LC_TOL_TOL n) < ((c.net.natAbs : Int) - nominal).natAbs then
          (s.raise (R.ENC_STATUS_LINECOUNT_ERR n)).encEvent n (R.EVT_LINECOUNT_SEL n) 1
        else s
  s.setEnc n { s.encOf n with idxOpen := true, skip := false, net := 0 }

/-- The latch of a qualified index pulse (R43, R44). -/
def State.indexLatch (s : State) (n : Nat) : State :=
  let c := s.encOf n
  let s := (s.setEnc n { c with indexPos := c.count }).set (R.INDEX_POS_LO_POS n) c.count
  (s.raise (R.ENC_STATUS_INDEX_SEEN n)).encEvent n (R.EVT_INDEX_SEL n) 0

/-- A qualified index pulse (R43, R46). While INDEX_MODE is OFF a pulse neither ends an interval of R46 nor starts one (assumption 99). -/
def State.indexPulse (s : State) (n : Nat) : State :=
  match s.get (R.ENC_CTRL_INDEX_MODE n) with
  | 0 => s
  | 1 => (s.indexLatch n).lineCount n
  | _ =>
    if s.on (R.ENC_STATUS_ARMED n) then ((s.indexLatch n).clear (R.ENC_STATUS_ARMED n)).lineCount n
    else s.lineCount n

/-- What a filtered sample of an enabled channel counts: `old` are the levels before it. The first sample after enable sets the reference
state and counts nothing (R39). -/
def State.encCount (s : State) (n : Nat) (old : EncChan) : State :=
  let c := s.encOf n
  if !c.ref then s.setEnc n { c with ref := true }
  else
    let inv : Int := if s.on (R.ENC_CTRL_INVERT n) then -1 else 1
    match sampleOf (s.get (R.ENC_CTRL_MODE n)) old.filtA old.filtB c.filtA c.filtB with
    | .nothing => s
    | .edge sign => s.countedEdge n (inv * sign)
    | .illegal => s.illegalEdge n

/-- One filtered sample of an enabled channel: `old` are the levels before it (R39, R43). -/
def State.encSample (s : State) (n : Nat) (old : EncChan) : State :=
  let c := s.encOf n
  let s := s.encCount n old
  let active := !s.on (R.ENC_CTRL_Z_POL n)
  let rose := old.filtZ != active && c.filtZ == active
  if rose && (!s.on (R.ENC_CTRL_Z_GATE_AB n) || (c.filtA && c.filtB)) then s.indexPulse n else s

/-- The sample of an event clock in which no input of an enabled channel changes: the first one after enable sets the reference state
(R34, R39). -/
def State.encReference (s : State) : State :=
  s.forEach 8 fun n s =>
    if s.on (R.ENC_CTRL_EN n) && !(s.encOf n).ref then s.setEnc n { s.encOf n with ref := true } else s

/-! ## Encoder commands -/

/-- ENC_INPUT_CHANGE (R34): the level is held for acceptance; a return to the accepted level ends the hold. Without its bank's supply the
input reads low (R753). -/
def execEncInputChange (n : Fin 8) (pin : EncPin) (level : Bool) (s : State) : Host.Outcome State Fault Refusal :=
  let c := s.encOf n
  let seen := level && !Tbl.get false s.swd.bankDown 0
  let c := match pin with
    | .a => { c with pinA := level, holdA := seen != c.filtA }
    | .b => { c with pinB := level, holdB := seen != c.filtB }
    | .z => { c with pinZ := level, holdZ := seen != c.filtZ }
  .next ((s.setEnc n c).passThrough n 1 pin)

/-- FILTER_ACCEPT (R34, R36): the hold counts of the inputs named end in one sample; their new levels are accepted, counted
and passed through. -/
def execFilterAccept (n : Fin 8) (a b z : Bool) (s : State) : Host.Outcome State Fault Refusal :=
  let old := s.encOf n
  let a := a && old.holdA
  let b := b && old.holdB
  let z := z && old.holdZ
  let s := s.setEnc n { old with
    filtA := old.filtA != a, filtB := old.filtB != b, filtZ := old.filtZ != z,
    holdA := old.holdA && !a, holdB := old.holdB && !b, holdZ := old.holdZ && !z }
  let s := if a then s.passThrough n 2 .a else s
  let s := if b then s.passThrough n 2 .b else s
  let s := if z then s.passThrough n 2 .z else s
  .next (if s.on (R.ENC_CTRL_EN n) then s.encSample n old else s)

/-- The speed window in progress is discarded and a new one starts (R48); `old` is the state before what starts it. -/
def State.newSpeedWindow (s : State) (n : Nat) (old : State) : State :=
  let s := s.setEnc n { s.encOf n with winNet := 0, winEdges := 0 }
  (s.clear (R.ENC_STATUS_SPEED_VALID n)).encEstimate n old

/-- The channel arms for one latch in ONCE_ARMED (R43, R45). -/
def State.indexArm (s : State) (n : Nat) : State :=
  if s.get (R.ENC_CTRL_INDEX_MODE n) = 2 then s.raise (R.ENC_STATUS_ARMED n) else s

/-- An encoder channel is enabled (R39, R47, R48, R657) or disabled. The last counted edge stays known for LAST_INTERVAL (R49). Enabling
ends a direction run in progress, and ARMED stays over a disable (assumption 99). -/
def State.encEnable (s : State) (n : Nat) (en : Bool) : State :=
  if en then
    let c := s.encOf n
    let s := s.setEnc n { c with ref := false, run := 0, skip := c.idxOpen }
    (s.newSpeedWindow n s).unitStartNow (encUnit n)
  else s.unitStopNow (encUnit n)

/-- ENC_CTRL_WRITE (R35, R40, R780): MODE and INVERT change only from the disabled state; reserved values are refused. ARMED stays set when
INDEX_MODE leaves ONCE_ARMED or EN is cleared (assumption 99). A write of EN 0 stops the unit, one in FAULT too (R657). -/
def execEncCtrlWrite (who : Who) (n : Fin 8) (v : Word) (s : State) : Host.Outcome State Fault Refusal :=
  .next <| s.viaBus who fun s =>
    let old := s
    let x := v.toNat
    let en0 := s.on (R.ENC_CTRL_EN n)
    let mode := bitsOf x 1 2
    let im := bitsOf x 4 2
    let rej := (!en0 && mode == 3) || im == 3
    let s := s.writeReg (R.ENC_CTRL n) v
    let s := if en0 || mode = 3 then s.set (R.ENC_CTRL_MODE n) (old.get (R.ENC_CTRL_MODE n)) else s
    let s := if en0 then s.set (R.ENC_CTRL_INVERT n) (old.get (R.ENC_CTRL_INVERT n)) else s
    let s := if im = 3 then s.set (R.ENC_CTRL_INDEX_MODE n) (old.get (R.ENC_CTRL_INDEX_MODE n)) else s
    let s := if rej then s.raise (R.ENC_STATUS_CFG_REJ n) else s
    let s := if s.get (R.ENC_CTRL_INDEX_MODE n) ≠ old.get (R.ENC_CTRL_INDEX_MODE n)
      then s.setEnc n { s.encOf n with skip := true } else s
    let s := if bitAt x 6 then s.indexArm n else s
    if s.on (R.ENC_CTRL_EN n) && en0 then s else s.encEnable n (s.on (R.ENC_CTRL_EN n))

/-- INDEX_ARM (R45). -/
def execIndexArm (who : Who) (n : Fin 8) (s : State) : Host.Outcome State Fault Refusal :=
  .next <| s.viaBus who fun s =>
    s.indexArm n

/-- SPEED_WINDOW_WRITE (R48). -/
def execSpeedWindowWrite (who : Who) (n : Fin 8) (v : Word) (s : State) : Host.Outcome State Fault Refusal :=
  .next <| s.viaBus who fun s =>
    (s.set (R.SPEED_WINDOW_WINDOW n) (clampNat 250 250000000 (bitsOf v.toNat 0 28))).newSpeedWindow n s

/-- SPEED_WINDOW_END (R48). -/
def execSpeedWindowEnd (n : Fin 8) (s : State) : Host.Outcome State Fault Refusal :=
  .next <|
    if s.on (R.ENC_CTRL_EN n) then
      let old := s
      let c := s.encOf n
      let s := (s.setInt (R.SPEED_NET n) c.winNet).set (R.EDGES_EDGES n) c.winEdges
      let s := (s.raise (R.ENC_STATUS_SPEED_VALID n)).setEnc n { c with winNet := 0, winEdges := 0 }
      s.encEstimate n old
    else s

/-- LAST_INTERVAL_SATURATE (R49, R72). On a disabled channel LAST_INTERVAL keeps its value (assumption 99). -/
def execLastIntervalSaturate (n : Fin 8) (s : State) : Host.Outcome State Fault Refusal :=
  .next (if s.on (R.ENC_CTRL_EN n) then (s.set (R.LAST_INTERVAL_CLKS n) 0xFFFFFF).encEstimate n s else s)

/-! ## SSI -/

/-- A discarded read: counted, published with its cause, and a due read without a valid result for the sources (R57, R74,
R109). -/
def State.ssiDiscard (s : State) (m : Nat) (f : Fld) (bit : Nat) : State :=
  (((s.raise f).bumpSat (R.SSI_ERR_CNT_CNT m)).publish (R.EVT_SSI_ERR_SEL m) (9 + m) (m + 2 ^ bit)).inputMiss 1 m

/-- Gray code to binary of a `w`-bit word (R60). -/
def grayToBin : Nat → Nat → Nat
  | 0, _ => 0
  | w + 1, g =>
    let hi := grayToBin w (g / 2)
    hi * 2 + (hi % 2 + g % 2) % 2

/-- A read falls due (R59): it is deferred with OVERRUN while a read or its monoflop time runs. -/
def State.ssiDue (s : State) (m : Nat) : State :=
  if s.on (R.SSI_CTRL_EN m) then
    let c := s.ssiOf m
    let late := c.reading || decide (s.clk < c.monoEnd)
    let s := s.setSsi m { c with due := true }
    if late then s.raise (R.SSI_STATUS_OVERRUN m) else s
  else s

/-- SSI_READ_DUE (R59): the periodic timer; in triggered mode reads fall due at events. -/
def execSsiReadDue (m : Fin 4) (s : State) : Host.Outcome State Fault Refusal :=
  .next (if s.on (R.SSI_CTRL_TRIGGERED m) then s else s.ssiDue m)

/-- SSI_READ_START (R55, R57, R59): a due read begins once the monoflop time of the one before has ended; SSI_DATA low at the first falling
edge abandons the read with IDLE_ERR. An abandoned read starts no monoflop time (assumption 100). -/
def execSsiReadStart (m : Fin 4) (dataHigh : Bool) (s : State) : Host.Outcome State Fault Refusal :=
  let c := s.ssiOf m
  .next <|
    if s.on (R.SSI_CTRL_EN m) && c.due && !c.reading && decide (c.monoEnd ≤ s.clk) then
      if dataHigh then
        (s.setSsi m { c with due := false, reading := true, start := s.clk }).emit
          (.ssiClock m (1 + s.get (R.SSI_CTRL_LEAD_BITS m) + s.get (R.SSI_CTRL_WORD_BITS m) + s.get (R.SSI_CTRL_TRAIL_BITS m)))
      else (s.setSsi m { c with due := false }).ssiDiscard m (R.SSI_STATUS_IDLE_ERR m) 4
    else s

/-- SSI_COUNT and SSI_VALUE as kept and shown. -/
def State.ssiShow (s : State) (m value count : Nat) : State :=
  ((s.setSsi m { s.ssiOf m with value := value, count := count % 2 ^ 48 }).set (R.SSI_VALUE_LO_VALUE m) value).set
    (R.SSI_COUNT_LO_COUNT m) count

/-- A valid binary value becomes a count (R60, R61). A read that R61 discards leaves SSI_VALUE as it was (assumption 100). -/
def State.ssiValue (s : State) (m v : Nat) : State :=
  let c := s.ssiOf m
  let w := s.get (R.SSI_CTRL_WORD_BITS m)
  match c.ref with
  | none =>
    let s := (s.ssiShow m v v).raise (R.SSI_STATUS_VALID m)
    (s.setSsi m { s.ssiOf m with ref := some v, jumped := false }).ssiInput m v c.start
  | some r =>
    let d := signed w (unsigned w ((v : Int) - r))
    let max := s.get (R.SSI_MAXSTEP_STEP m)
    if max ≠ 0 ∧ max < d.natAbs then
      let s := s.setSsi m { c with jumped := !c.jumped, ref := if c.jumped then some v else c.ref }
      s.ssiDiscard m (R.SSI_STATUS_JUMP_ERR m) 5
    else
      let count := unsigned 48 (c.count + d)
      let s := (s.ssiShow m v count).raise (R.SSI_STATUS_VALID m)
      (s.setSsi m { s.ssiOf m with ref := some v, jumped := false }).ssiInput m count c.start

/-- SSI_READ_DONE (R55, R58, R60): it comes with the last rising edge, and the monoflop time runs from it (assumption 100). `bits` holds the lead, word and trailing bits as sampled, the last in bit 0. -/
def execSsiReadDone (m : Fin 4) (bits : Nat) (s : State) : Host.Outcome State Fault Refusal :=
  let c := s.ssiOf m
  .next <|
    if c.reading then
      let s := s.setSsi m { c with reading := false, monoEnd := s.clk + s.get (R.SSI_MONO_MONO m) }
      let w := s.get (R.SSI_CTRL_WORD_BITS m)
      let word := bitsOf bits (s.get (R.SSI_CTRL_TRAIL_BITS m)) w
      if s.on (R.SSI_CTRL_ERR_BIT_EN m) && bitAt bits 0 then s.ssiDiscard m (R.SSI_STATUS_SENSOR_ERR m) 6
      else s.ssiValue m (if s.on (R.SSI_CTRL_GRAY m) then grayToBin w word else word)
    else s

/-- SSI_CTRL_WRITE (R58): ignored whole with CFG_ERR when ERR_BIT_EN would be 1 without a trailing bit. Sward records the
writer with TRIG_CH (R121). A channel that is disabled abandons its running read and forgets a due one (assumption 100). -/
def execSsiCtrlWrite (who : Who) (m : Fin 4) (v : Word) (s : State) : Host.Outcome State Fault Refusal :=
  .next <| s.viaBus who fun s =>
    if bitAt v.toNat 3 && bitsOf v.toNat 16 3 == 0 then s.raise (R.SSI_STATUS_CFG_ERR m)
    else
      let en0 := s.on (R.SSI_CTRL_EN m)
      let s := ((s.holdSelector (R.SSI_CTRL m)).writeReg (R.SSI_CTRL m) v).noteSelector who (R.SSI_CTRL m)
      if s.on (R.SSI_CTRL_EN m) && !en0 then
        (s.setSsi m { s.ssiOf m with ref := none, jumped := false, due := false, reading := false }).clear (R.SSI_STATUS_VALID m)
      else if !s.on (R.SSI_CTRL_EN m) then s.setSsi m { s.ssiOf m with due := false, reading := false }
      else s

/-- A write of SSI_CLK: HI and LO outside 12 to 1,250 are stored as the nearer limit (R56). -/
def State.ssiClkWrite (s : State) (m : Nat) (v : Word) : State :=
  (s.set (R.SSI_CLK_HI m) (clampNat 12 1250 (bitsOf v.toNat 0 12))).set (R.SSI_CLK_LO m) (clampNat 12 1250 (bitsOf v.toNat 16 12))

/-- An SSI channel in triggered mode hears its TRIG_CH (R59, R121). -/
def State.deliverSsi (s : State) (e : Event) : State :=
  s.forEach 4 fun m s =>
    if s.on (R.SSI_CTRL_EN m) && s.on (R.SSI_CTRL_TRIGGERED m) && s.selGet (R.SSI_CTRL_TRIG_CH m) == e.req.channel then
      if s.byFn0 (R.SSI_CTRL_TRIG_CH m) && s.guarded e.req.channel then s.guardViol e.req.channel 0 else s.ssiDue m
    else s

/-! ## Switch inputs -/

/-- An accepted change of a switch input (R66, R109). -/
def State.swAccept (s : State) (k : Nat) (level : Bool) : State :=
  let s := ((s.setFlag (R.SW_STATUS_LEVEL k) level).raise (R.SW_STATUS_CHANGED k)).bumpSat (R.SW_CNT_CNT k)
  if bitAt (s.get (R.SW_CTRL_EDGE k)) (if level then 0 else 1) then
    s.publish (R.SW_EVT_SEL k) (0x10 + k) (k + level.toNat * 32)
  else s

/-- The level at switch input `k` after INVERT; a bank without supply reads low (R65, R753). -/
def State.swLevel (s : State) (k : Nat) (pin : Bool) : Bool :=
  (pin && !Tbl.get false s.swd.bankDown (s.get (R.SW_CTRL_GPIO k) / 16)) != s.on (R.SW_CTRL_INVERT k)

/-- A new level at an enabled switch input (R65). A time that runs is kept over a write of MODE, and ends as the new MODE says
(assumption 101). -/
def State.swChange (s : State) (k : Nat) (level : Bool) : State :=
  let w := s.swOf k
  if s.on (R.SW_CTRL_EN k) then
    if s.on (R.SW_CTRL_MODE k) then
      let s := s.setSw k { w with raw := level }
      if !w.timing && level != s.on (R.SW_STATUS_LEVEL k) then (s.setSw k ⟨level, true⟩).swAccept k level else s
    else s.setSw k ⟨level, level != s.on (R.SW_STATUS_LEVEL k)⟩
  else s.setSw k { w with raw := level }

/-- SW_INPUT_CHANGE (R65): the input that the command names sees the new level of its pin; another input on the same pin sees it by a command
of its own (assumption 101). -/
def execSwInputChange (k : Fin 32) (level : Bool) (s : State) : Host.Outcome State Fault Refusal :=
  let p := s.get (R.SW_CTRL_GPIO k)
  let s := { s with swd := { s.swd with pinIn := Tbl.put false s.swd.pinIn p level } }
  .next (s.swChange k (s.swLevel k level))

/-- DEBOUNCE_EXPIRE (R65): the level then present is accepted if it differs. The acceptance at the end of a LOCKOUT time starts no new
lockout (assumption 101). -/
def execDebounceExpire (k : Fin 32) (s : State) : Host.Outcome State Fault Refusal :=
  let w := s.swOf k
  .next <|
    if w.timing then
      let s := s.setSw k { w with timing := false }
      if w.raw != s.on (R.SW_STATUS_LEVEL k) then s.swAccept k w.raw else s
    else s

/-- The sample that switch input `k` takes of the pin it watches (R64, R65). -/
def State.swSample (s : State) (k : Nat) : State :=
  s.swChange k (s.swLevel k (Tbl.get false s.swd.pinIn (s.get (R.SW_CTRL_GPIO k))))

/-- SW_CTRL_WRITE (R64, R129): enabling makes the pin an input and stops an event output on it. The input then watches the pin that its
fields select, so a level that differs from the accepted one is debounced from here on (R65). -/
def execSwCtrlWrite (who : Who) (k : Fin 32) (v : Word) (s : State) : Host.Outcome State Fault Refusal :=
  .next <| s.viaBus who fun s =>
    let s := s.writeReg (R.SW_CTRL k) v
    if s.on (R.SW_CTRL_EN k) then
      let p := s.get (R.SW_CTRL_GPIO k)
      (s.forEach 64 fun o s =>
        if s.on (R.OUT_CTRL_EN o) && s.get (R.OUT_CTRL_GPIO o) == p then (s.outRelease o).raise (R.OUT_STATUS_PIN_CONFLICT o)
        else s).swSample k
    else (s.setSw k { s.swOf k with timing := false }).swSample k

end Sys2Proof.Machine
end

