-- ==== Sys2Proof/Machine/Station.lean ====
section
/-!
DEFINITION. Station network and time (chapter 5): the Ethernet ports, station time, IEEE 1588 and the station protocol.
-/
set_option Elab.async false
namespace Sys2Proof.Machine

/-! ## Access -/

/-- A write of this block through function 0 is ignored and sets WR_DENIED (R141). -/
def State.stationWrite (s : State) (who : Who) (f : State → State) : State :=
  if who = .fn0 then s.raise R.TIME_STATUS_WR_DENIED else f s

/-! ## Station time -/

/-- Station time advances by one event clock: 4 × 2⁴⁸ + RATE_ADJ in units of 2⁻⁴⁸ ns (R15, R142). -/
def State.timeTick (s : State) : State :=
  let t := ((s.timeNs : Int) * 2 ^ 48 + s.timeFrac + 4 * 2 ^ 48 + s.net.rateAdj).toNat
  { s with timeNs := t / 2 ^ 48 % 2 ^ 64, timeFrac := t % 2 ^ 48 }

/-- The time unit is in STATE (R145): FREE 0, ACQUIRING 1, LOCKED 2, HOLDOVER 3, GRANDMASTER 4. -/
def State.timeState (s : State) : Nat := s.get R.TIME_STATUS_STATE

/-- A change of the time unit's state: STATE_CHG and an event on EVT_TIME (R146, R172). -/
def State.timeChange (s : State) (st : Nat) (step : Bool) : State :=
  ((s.set R.TIME_STATUS_STATE st).raise R.TIME_STATUS_STATE_CHG).publish R.EVT_TIME_SEL 0x30
    (st + step.toNat * 8 + 2 ^ 20)

/-- RATE_ADJ takes a value (R142): 40 bits, in force from the next event clock. -/
def State.setRate (s : State) (r : Int) : State :=
  let s := s.set2 R.RATE_ADJ_LO_ADJ R.RATE_ADJ_HI_ADJ (unsigned 40 r)
  { s with net := { s.net with rateAdj := signed 40 (unsigned 40 r) } }

/-- A received station event is published on its map's local channel (R164, R172). -/
def State.publishMap (s : State) (i param : Nat) : State := s.publish (R.RXEVT_DST_SEL i) 0x30 param

/-- A late station event: published with LATE_IN where its map has LATE_FIRE, else dropped and counted (R164). -/
def State.lateEvent (s : State) (i param : Nat) : State :=
  if s.on (R.RXEVT_SRC_LATE_FIRE i) then s.publishMap i (param + 2 ^ 16) else s.bumpSat R.DEFER_LATE_CNT_CNT

/-- Deferred events whose deadline a forward step has crossed are late (R148). -/
def State.dropCrossed (s : State) : State :=
  let gone := s.net.deferred.filter fun d => decide (timeDiff d.deadline s.timeNs < 0)
  let kept := s.net.deferred.filter fun d => !decide (timeDiff d.deadline s.timeNs < 0)
  ({ s with net := { s.net with deferred := kept } }).forList gone fun d s => s.lateEvent d.map d.param

/-- A step of station time (R147, R148): STEP_GSEQ takes SWD_GSEQ, and STEPPED is set. -/
def State.timeStep (s : State) (ns : Int) : State :=
  let s := { s with timeNs := unsigned 64 (s.timeNs + ns) }
  let s := (s.set R.STEP_GSEQ_GSEQ (s.get R.SWD_GSEQ_GSEQ)).raise R.TIME_STATUS_STEPPED
  s.dropCrossed

/-- The steering record starts anew. -/
def State.freshSteering (s : State) : State :=
  { s with net := { s.net with samples := [], good := 0, bad := 0 } }

/-- The time unit returns to FREE (R146); where it is FREE already, only a RESTEP that clears STEPPED is a change. R146 names no case of a
write of MODE that finds FREE with STEPPED 1: it alters neither and is no change (DESIGN CHOICE, assumption 107). -/
def State.timeFree (s : State) (restep : Bool) : State :=
  let was := s.on R.TIME_STATUS_STEPPED
  let s := (if restep then s.clear R.TIME_STATUS_STEPPED else s).freshSteering
  if s.timeState = 0 ∧ ¬ (restep ∧ was) then s else s.timeChange 0 false

/-- The master is lost, or another clock, parent or port takes its place, or Skep halts (R146). `gone`: no master is left. -/
def State.timeLoss (s : State) (gone : Bool) : State :=
  let s := s.freshSteering
  match s.timeState with
  | 1 => if s.on R.TIME_STATUS_STEPPED then s.timeChange 3 false else if gone then s.timeChange 0 false else s
  | 2 => s.timeChange 3 false
  | _ => s

/-- Skep halts or is reset: a steered clock, or the grandmaster, reports HOLDOVER (R24, R146). -/
def State.timeSkepHalt (s : State) : State :=
  if s.timeState = 4 then s.timeChange 3 false else s.timeLoss true

/-- PTP mode is selected (MODE 1). -/
def State.ptpMode (s : State) : Bool := s.on R.TIME_CTRL_MODE

/-- RATE_ADJ_WRITE (R142): a write of RATE_ADJ_HI, only in MANUAL mode or by Skep. -/
def execRateAdjWrite (who : Who) (v : Word) (s : State) : Host.Outcome State Fault Refusal :=
  .next <| s.viaBus who fun s =>
    (s.stationWrite who fun s =>
      if s.ptpMode && who != .skep then s
      else s.setRate (signed 40 (s.get R.RATE_ADJ_LO_ADJ + bitsOf v.toNat 0 8 * 2 ^ 32)))

/-- TIME_STEP_WRITE (R147): a write of TIME_STEP_HI in MANUAL mode applies the 64-bit step. -/
def execTimeStepWrite (who : Who) (v : Word) (s : State) : Host.Outcome State Fault Refusal :=
  .next <| s.viaBus who fun s =>
    (s.stationWrite who fun s =>
      if s.ptpMode then s else s.timeStep (signed 64 (s.net.stepLo + v.toNat * 2 ^ 32)))

/-- RESTEP (R146). -/
def execRestep (who : Who) (s : State) : Host.Outcome State Fault Refusal :=
  .next <| s.viaBus who fun s =>
    s.stationWrite who fun s => s.timeFree true


/-! ## Ethernet ports -/

/-- The lanes of a Talmon link F: WIDTH gives 1, 2, 4 or 8 (R222). -/
def State.linkWidth (s : State) (f : Nat) : Nat := 2 ^ s.get (R.LINK_CTRL_WIDTH f)

/-- Lane `l` belongs to a Talmon link that is not OFF. -/
def State.laneLinked (s : State) (l : Nat) : Bool :=
  (List.range 32).any fun f => !s.unitOff (linkUnit f) && decide (f ≤ l ∧ l < f + s.linkWidth f)

/-- The port's MAC address as kept: first byte on the wire in the low bits (R174). -/
def State.mac (s : State) (p : Nat) : Nat := s.get2 (R.ETH_MAC_LO_MAC p) (R.ETH_MAC_HI_MAC p)

/-- A port may be enabled at `speed` (R136, R137, R140): group 7 has the FAMILY that allows it (R176), and another lane of the group that is in
use carries a port at the same rate, or beside 10GBASE-R the Talmon rate T10: the one in force (R201), or for a lane that has yet to start the
one it will take. A lane whose unit is in FAULT and whose EN is 0, such as one refused for its RATE (R178), runs at no rate. -/
def State.ethMayEnable (s : State) (p speed : Nat) : Bool :=
  s.unitOff (laneUnit (28 + p)) && !s.laneLinked (28 + p) && s.mac p != 0 && !bitAt (s.mac p) 0 &&
    s.get (R.GRP_CFG_FAMILY 7) == speed + 1 &&
    (List.range 4).all fun q =>
      q == p ||
        (if s.on (R.ETH_CTRL_EN q) then s.get (R.ETH_CTRL_SPEED q) == speed
         else if s.on (R.LANE_CTRL_EN (28 + q)) || s.unitState (laneUnit (28 + q)) == .stopping then
           (speed == 0 && (s.laneOf (28 + q)).rate == 2) || (s.laneOf (28 + q)).rate == 3 + speed
         else if s.unitState (laneUnit (28 + q)) == .starting then speed == 0 && s.get (R.LANE_CFG_RATE (28 + q)) == 2
         else if s.laneLinked (28 + q) then speed == 0 && s.get (R.LANE_CFG_RATE (28 + q)) == 2
         else true)

/-- Latencies by mode (R153), in ps. -/
def State.ethLatency (s : State) (p : Nat) : State :=
  if s.on (R.ETH_CTRL_SPEED p) then
    if s.on (R.ETH_CTRL_RS_FEC p) then (s.set (R.TX_LAT_PS p) 61200).set (R.RX_LAT_PS p) 148700
    else (s.set (R.TX_LAT_PS p) 24600).set (R.RX_LAT_PS p) 33100
  else (s.set (R.TX_LAT_PS p) 38400).set (R.RX_LAT_PS p) 52800

/-- The PTP port: the lowest-numbered port of PTP_MASK whose link is up (R152). -/
def State.ptpPort? (s : State) : Option Nat :=
  (List.range 4).find? fun p => bitAt (s.get R.TIME_CTRL_PTP_MASK) p && s.on (R.ETH_STATUS_LINK p)

/-- The master is forgotten, with the delay measurement under way. -/
def State.dropMaster (s : State) : State := { s with net := { s.net with master := none, reqTx := none, delayMeas := none } }

/-- PTP_PORT follows PTP_MASK and the links (R152). With no port left it keeps its value (assumption 107). -/
def State.setPtpPort (s : State) : State :=
  match s.ptpPort? with
  | some p => if s.get R.TIME_STATUS_PTP_PORT = p then s else (s.set R.TIME_STATUS_PTP_PORT p).dropMaster
  | none => s

/-- A change of the PTP port is a change of parent port (R146, R152). -/
def State.ptpPortUpdate (s : State) : State :=
  let t := s.setPtpPort
  if t.get R.TIME_STATUS_PTP_PORT = s.get R.TIME_STATUS_PTP_PORT then t else t.timeLoss false

/-- TIME_MODE_WRITE (R146, R152): a write of TIME_CTRL writes MODE and PTP_MASK; with RESTEP it also clears STEPPED. -/
def execTimeModeWrite (who : Who) (v : Word) (s : State) : Host.Outcome State Fault Refusal :=
  .next <| s.viaBus who fun s =>
    s.stationWrite who fun s => ((s.writeReg R.TIME_CTRL v).setPtpPort.dropMaster).timeFree (bitAt v.toNat 1)

/-- Port `p` runs RS-FEC, which is of 25GBASE-R only (R138, R174). -/
def State.rsFec (s : State) (p : Nat) : Bool := s.on (R.ETH_CTRL_SPEED p) && s.on (R.ETH_CTRL_RS_FEC p)

/-- The link of port `p` comes up or goes down (R152, R172); what waits for a port whose link changes is dropped (assumption 106). -/
def State.ethLink (s : State) (p : Nat) (up : Bool) : State :=
  if s.on (R.ETH_STATUS_LINK p) = up then s
  else
    let s := ((s.setFlag (R.ETH_STATUS_LINK p) up).setFlag (R.ETH_STATUS_BLOCK_LOCK p) up).setFlag
      (R.ETH_STATUS_FEC_ALIGN p) (up && s.rsFec p)
    let s := { s with net := { s.net with tx := Tbl.put {} s.net.tx p {} } }
    ((s.raise (R.ETH_STATUS_LINK_CHG p)).publish R.EVT_PORT_SEL 0x30 (p + up.toNat * 4 + 2 * 2 ^ 20)).ptpPortUpdate

/-- ETH_CTRL_WRITE (R136, R137, R140). A write that leaves EN at 1 enables nothing anew: only a SPEED that R137 would refuse is kept back
(assumption 125). -/
def execEthCtrlWrite (who : Who) (p : Fin 4) (v : Word) (s : State) : Host.Outcome State Fault Refusal :=
  .next <| s.viaBus who fun s =>
    (s.stationWrite who fun s =>
      let was := s.on (R.ETH_CTRL_EN p)
      if bitAt v.toNat 0 then
        let speed := s.get (R.ETH_CTRL_SPEED p)
        if was ∧ bitsOf v.toNat 1 1 = speed then (s.writeReg (R.ETH_CTRL p) v).ethLatency p
        else if s.ethMayEnable p (bitsOf v.toNat 1 1) then (s.writeReg (R.ETH_CTRL p) v).ethLatency p
        else if was then (((s.writeReg (R.ETH_CTRL p) v).set (R.ETH_CTRL_SPEED p) speed).ethLatency p).raise (R.ETH_STATUS_ETH_REJ p)
        else (((s.writeReg (R.ETH_CTRL p) v).clear (R.ETH_CTRL_EN p)).ethLatency p).raise (R.ETH_STATUS_ETH_REJ p)
      else
        ((s.writeReg (R.ETH_CTRL p) v).ethLatency p).ethLink p false)

/-- ETH_LINK_CHANGE (R152). -/
def execEthLinkChange (p : Fin 4) (up : Bool) (s : State) : Host.Outcome State Fault Refusal :=
  .next (if s.on (R.ETH_CTRL_EN p) then s.ethLink p up else s)

/-! ## Frames -/

/-- The PTP multicast address 01-1B-19-00-00-00, first byte low (R138). -/
def ptpGroup : Nat := 0x191B01

/-- STA_GROUP (R175). -/
def State.staGroup (s : State) : Nat := s.get2 R.STA_GROUP_LO_MAC R.STA_GROUP_HI_MAC

/-- Fields of a station frame, counted from VERSION (R155). -/
def staType (b : List Byte) : Nat := leAt b 1 1
def staLength (b : List Byte) : Nat := leAt b 2 2
def staStation (b : List Byte) : Nat := leAt b 4 2
def staSender (b : List Byte) : Nat := leAt b 6 1
def staTFlags (b : List Byte) : Nat := leAt b 7 1
def staSeq (b : List Byte) : Nat := leAt b 8 4
def staBody (b : List Byte) : List Byte := (b.drop 24).take (staLength b)

/-- LENGTH fits the body rules of its TYPE (R155, R158, R162, R165 to R167). A POS or EVENT body is a whole number of entries: another LENGTH is
taken not to fit, rather than to carry bytes beyond those defined (R156; DESIGN CHOICE, assumption 109). -/
def staLengthOk (b : List Byte) : Bool :=
  let n := staLength b
  decide (n ≤ 1476) && decide (n + 24 ≤ b.length) &&
    (match staType b with
     | 1 => decide (24 ≤ n ∧ n ≤ 192) && n % 24 == 0
     | 2 => decide (32 ≤ n ∧ n ≤ 512) && n % 32 == 0
     | 3 => decide (4 ≤ n)
     | 4 => decide (8 ≤ n)
     | 5 => decide (20 ≤ n)
     | _ => false)

/-- A station frame arrives (R156): discarded and counted, or kept for the handler of its TYPE. A beacon with the device's own
SENDER is counted and kept, since R168 reads its SERIAL. -/
def State.staFrame (s : State) (p : Nat) (f : EthFrame) : State :=
  let b := f.body
  if leAt b 0 1 / 16 ≠ 1 then (s.raise R.STA_STATUS_BAD_VER).bumpSat R.STA_DISCARD_CNT_CNT
  else if staStation b ≠ s.get R.STA_CTRL_STATION_ID ∨ staType b = 0 ∨ 5 < staType b ∨ ¬ staLengthOk b then
    s.bumpSat R.STA_DISCARD_CNT_CNT
  else
    let own := staSender b == s.get R.STA_CTRL_SENDER
    let s := if own then s.bumpSat R.STA_DISCARD_CNT_CNT else s
    if own && staType b != 5 then s
    else { s with net := { s.net with inbox := s.net.inbox ++ [⟨p, f.sa, b⟩] } }

/-! ## The lanes of the ports -/

/-- The transmitter is ACTIVE and sends, if not at its balls. -/
def State.txRuns (s : State) (l : Nat) : Bool :=
  let x := s.laneOf l
  s.get (R.LANE_STATUS_TX_PWR_ACT l) == 0 && x.tx.target == none && !x.idle && s.on (R.LANE_STATUS_PLL_LOCK l)

/-- The receiver of a lane takes its symbols from inside the device (R203, R204). -/
def State.laneLooped (s : State) (l : Nat) : Bool := s.get (R.LANE_CTRL_LOOP l) == 1 || s.get (R.LANE_CTRL_LOOP l) == 2

/-- The lane of port `p` carries the port's own data rather than a pattern (R207). -/
def State.ethData (s : State) (p : Nat) : Bool := !s.on (R.PRBS_CTRL_TX_EN (28 + p))

/-- What port `p` sends leaves at the balls: the transmitter drives them, and neither far-end loopback nor a pattern takes the place of the port's
data (R204, R205, R207). -/
def State.ethOutward (s : State) (p : Nat) : Bool :=
  (s.laneOf (28 + p)).sending && s.get (R.LANE_CTRL_LOOP (28 + p)) != 3 && s.ethData p

/-- A near-end loopback brings what port `p` sends to its own receiver (R203, R204). -/
def State.ethLooped (s : State) (p : Nat) : Bool :=
  s.laneLooped (28 + p) && s.txRuns (28 + p) && s.on (R.LANE_STATUS_READY (28 + p)) && s.ethData p

/-- The frame passes the filter of R139. -/
def State.ethTakes (s : State) (p : Nat) (f : EthFrame) : Bool :=
  !decide (f.length < 64 ∨ (if f.tags = 0 then 1518 else 1522) < f.length ∨ 1 < f.tags ∨
    ¬ (f.da = s.mac p ∨ f.da = 2 ^ 48 - 1 ∨ f.da = ptpGroup ∨ f.da = s.staGroup) ∨ (f.etherType ≠ 0x88F7 ∧ f.etherType ≠ 0x88B5))

/-- The port's own frame, looped back: it meets the filter and is counted like any other. Of its PTP messages none has an effect: a Delay_Req of the
device is sent while it is no grandmaster, and the others are its own (R151). -/
def State.ethOwn (s : State) (p : Nat) (f : EthFrame) : State :=
  if !s.ethTakes p f then s.bumpSat (R.RX_DISCARD_CNT p)
  else
    let s := s.bump (R.RX_OK_CNT p)
    if f.etherType = 0x88B5 ∧ s.on R.STA_CTRL_EN then s.staFrame p f else s

/-- A frame leaves the port's transmitter: outward as `o`, and where a near-end loopback is set, to the port's own receiver as `f`. -/
def State.ethSend (s : State) (p : Nat) (o : Out) (f : EthFrame) : State :=
  let t := if s.ethOutward p then s.emit o else s
  if s.ethLooped p then t.ethOwn p f else t

/-! ## The transmit queues -/

/-- A number's `n` bytes, first byte most significant. -/
def beBytes (n x : Nat) : List Byte := (leBytes n x).reverse

/-- A big-endian number of bytes `off` to `off + n - 1`. -/
def beAt (b : List Byte) (off n : Nat) : Nat := leNat (((b.drop off).take n).reverse)

/-- The clock identity made from a MAC address: its bytes with FF-FE in the middle (assumption 9), as a number whose first byte
is the most significant. -/
def clockIdentity (mac : Nat) : Nat :=
  let b := (leBytes 6 mac).map (·.toNat)
  (b.take 3 ++ [0xFF, 0xFE] ++ b.drop 3).foldl (fun x y => x * 256 + y) 0

/-- Port `p` is enabled and its link is up. -/
def State.portUp (s : State) (p : Nat) : Bool := s.on (R.ETH_CTRL_EN p) && s.on (R.ETH_STATUS_LINK p)

def State.ethTx (s : State) (p : Nat) : EthTx := Tbl.get {} s.net.tx p
def State.setEthTx (s : State) (p : Nat) (x : EthTx) : State := { s with net := { s.net with tx := Tbl.put {} s.net.tx p x } }

/-- The order in which a port transmits what waits (R169): PTP event messages, POS, EVENT, RESP, BEACON. R169 gives the other PTP messages no
place: they follow the event messages (DESIGN CHOICE, assumption 106). -/
def TxItem.rank : TxItem → Nat
  | .ptp m => if m.kind < 2 then 0 else 1
  | .sta 1 _ _ => 2
  | .sta 2 _ _ => 3
  | .sta 4 _ _ => 4
  | .sta _ _ _ => 5

/-- The oldest of the items of the best rank. -/
def TxItem.first : List TxItem → Option TxItem
  | [] => none
  | i :: l => match TxItem.first l with
    | none => some i
    | some j => if j.rank < i.rank then some j else some i

/-- The 802.1Q tag of the frames of port `p` (R139): VID and PCP. -/
def State.vlanTag (s : State) (p : Nat) : Option Nat :=
  if s.on (R.ETH_CTRL_VLAN_EN p) then some (s.get (R.ETH_CTRL_PCP p) * 2 ^ 13 + s.get (R.ETH_CTRL_VID p)) else none

/-- A station frame from its destination address up to its FCS (R139, R155): the Ethernet header of port `p`, the bytes from VERSION on, and the
padding to 64 bytes with the FCS, whose bytes the spec does not give. -/
def State.staBytes (s : State) (p da : Nat) (b : List Byte) : List Byte :=
  let tag := match s.vlanTag p with | some t => beBytes 2 0x8100 ++ beBytes 2 t | none => []
  let f := leBytes 6 da ++ leBytes 6 (s.mac p) ++ tag ++ beBytes 2 0x88B5 ++ b
  f ++ (List.range (60 - f.length)).map Config.padByte

/-- Bytes of a PTP message in its frame (assumption 9): 44 of a Sync, Delay_Req or Follow_Up, 54 of a Delay_Resp, 64 of an Announce. -/
def PtpMsg.size (m : PtpMsg) : Nat := if m.kind = 9 then 54 else if m.kind = 11 then 64 else 44

/-- Event clocks that a frame of `n` bytes before its FCS takes on port `p`, with preamble, FCS and gap: 10 or 25 Gb/s (R138; assumption 106). -/
def State.wireClocks (s : State) (p n : Nat) : Nat :=
  if s.on (R.ETH_CTRL_SPEED p) then ((n + 24) * 2 + 24) / 25 else (n + 24 + 4) / 5

/-- Bytes of a waiting item before its FCS. -/
def State.itemSize (s : State) (p : Nat) : TxItem → Nat
  | .sta _ da b => (s.staBytes p da b).length
  | .ptp m => max 60 (14 + (if s.on (R.ETH_CTRL_VLAN_EN p) then 4 else 0) + m.size)

/-- A hardware timestamp (R153): station time in ps, cut to 0.25 ns. -/
def cutQuarter (t : Int) : Int := t / 250 * 250
def State.stampPs (s : State) : Int := cutQuarter ((s.timeNs : Int) * 1000 + (s.timeFrac * 1000 / 2 ^ 48 : Nat))

/-- A PTP message leaves port `p`, with the 802.1Q tag of R139. -/
def State.ptpEmit (s : State) (p : Nat) (m : PtpMsg) : State :=
  s.ethSend p (.ptp p (s.vlanTag p) m) ⟨ptpGroup, s.mac p, (s.vlanTag p).isSome.toNat, 0x88F7, s.itemSize p (.ptp m) + 4, true, [], 0, 0⟩

/-- A message with a timestamp of `t` ps: whole nanoseconds, and the rest in correctionField (R153). -/
def PtpMsg.stamped (m : PtpMsg) (t : Int) : PtpMsg := { m with stamp := t / 1000, correction := m.correction + t % 1000 * 65536 / 1000 }

/-- A PTP message leaves on port `p` (R151, R153): an event message is timestamped, referred to the ball by TX_LAT. A Sync carries its timestamp
with ONE_STEP, and is followed by a Follow_Up otherwise; a Delay_Req is the one that the next Delay_Resp answers (R154). -/
def State.ptpLeaves (s : State) (p : Nat) (m : PtpMsg) : State :=
  let t := s.stampPs + s.get (R.TX_LAT_PS p)
  match m.kind with
  | 0 =>
    if s.on R.TIME_CTRL_ONE_STEP then s.ptpEmit p (m.stamped t)
    else
      let s := s.ptpEmit p { m with twoStep := true }
      s.setEthTx p { s.ethTx p with queue := (s.ethTx p).queue ++ [.ptp ({ m with kind := 8 }.stamped t)] }
  | 1 => ({ s with net := { s.net with reqTx := some t, reqSyncs := 0 } }).ptpEmit p m
  | _ => s.ptpEmit p m

/-- Port `p` transmits what waits first, once the frame before it has passed (R169). -/
def State.portServe (s : State) (p : Nat) : State :=
  if !s.portUp p || decide (s.clk < (s.ethTx p).busyTo) then s
  else
    match TxItem.first (s.ethTx p).queue with
    | none => s
    | some i =>
      let s := (s.setEthTx p { queue := (s.ethTx p).queue.erase i, busyTo := s.clk + s.wireClocks p (s.itemSize p i) }).bump (R.TX_OK_CNT p)
      match i with
      | .sta _ da b => s.ethSend p (.staFrame p (s.staBytes p da b)) ⟨da, s.mac p, (s.vlanTag p).isSome.toNat, 0x88B5,
          (s.staBytes p da b).length + 4, true, b, 0, 0⟩
      | .ptp m => s.ptpLeaves p m

/-- Traffic waits for port `p`, and leaves at once where the port is free; a port without a link takes none (assumption 106). -/
def State.portQueue (s : State) (p : Nat) (i : TxItem) : State :=
  if s.portUp p then (s.setEthTx p { s.ethTx p with queue := (s.ethTx p).queue ++ [i] }).portServe p else s

/-- Bytes of a station frame from VERSION on, with a SEQ of its TYPE (R155). -/
def State.staHeader (s : State) (type seq : Nat) (body : List Byte) : List Byte :=
  leBytes 1 0x10 ++ leBytes 1 type ++ leBytes 2 body.length ++ leBytes 2 (s.get R.STA_CTRL_STATION_ID) ++
    leBytes 1 (s.get R.STA_CTRL_SENDER) ++ leBytes 1 (s.timeState + (s.on R.TIME_STATUS_STEPPED).toNat * 8) ++
    leBytes 4 seq ++ leBytes 8 s.timeNs ++ leBytes 4 0

/-- A station frame is built for port `p` and queued there (R155, R169). -/
def State.staSendOn (s : State) (p type da seq : Nat) (body : List Byte) : State :=
  s.portQueue p (.sta type da (s.staHeader type seq body ++ body))

/-- The next SEQ of a TYPE is used up (R155). -/
def State.staNextSeq (s : State) (type : Nat) : State :=
  { s with net := { s.net with txSeq := Tbl.put 0 s.net.txSeq type ((Tbl.get 0 s.net.txSeq type + 1) % 2 ^ 32) } }

/-- A station frame goes to STA_GROUP on every port of TX_PORTS. -/
def State.staBroadcast (s : State) (type : Nat) (body : List Byte) : State :=
  let seq := Tbl.get 0 s.net.txSeq type
  (s.forEach 4 fun p s =>
    if bitAt (s.get R.STA_PORTS_TX_PORTS) p then s.staSendOn p type s.staGroup seq body else s).staNextSeq type

/-- A port that sends is free for traffic of a rank: nothing is under way, and nothing of that rank or a better one waits (R163, R169). -/
def State.txOpen (s : State) (rank : Nat) : Bool :=
  s.on R.STA_CTRL_EN && (List.range 4).any fun p =>
    bitAt (s.get R.STA_PORTS_TX_PORTS) p && s.portUp p && decide ((s.ethTx p).busyTo ≤ s.clk) &&
      (s.ethTx p).queue.all fun i => decide (rank < i.rank)

/-- Position entries of the oldest sampling clock that wait leave in one frame once a port is free (R159). -/
def State.buildPos (s : State) : State :=
  match s.net.posWait with
  | [] => s
  | e :: _ =>
    if s.txOpen 2 then
      let now := s.net.posWait.filter fun x => x.clk == e.clk
      ({ s with net := { s.net with posWait := s.net.posWait.filter fun x => x.clk != e.clk } }).staBroadcast 1 (now.flatMap PosWait.bytes)
    else s

/-- An IEEE 1588 message of the device (R151), with the next sequenceId of its type. -/
def State.ptpMsg (s : State) (kind : Nat) (logInterval : Int) : PtpMsg :=
  { kind, domain := s.get R.TIME_CTRL_DOMAIN, source := clockIdentity (s.mac (s.get R.TIME_STATUS_PTP_PORT)) * 65536 + 1,
    seq := Tbl.get 0 s.net.ptpSeq kind, logInterval }

/-- A PTP message of the device's own waits for port `p`. -/
def State.ptpSend (s : State) (p : Nat) (m : PtpMsg) : State :=
  ({ s with net := { s.net with ptpSeq := Tbl.put 0 s.net.ptpSeq m.kind ((m.seq + 1) % 65536) } }).portQueue p (.ptp m)

/-- A Delay_Req received as master is timestamped, referred to the ball by RX_LAT, and answered (R151, R153): the fields of the message as
assumption 9 has them. The interval that the master grants is not given, and free. -/
def State.delayReqRx (s : State) (p : Nat) (f : EthFrame) : State :=
  let b := f.body
  if s.skepRuns && s.timeState == 4 && s.ptpPort? == some p && leAt b 0 1 % 16 == 1 && leAt b 1 1 % 16 == 2 && decide (leAt b 1 1 / 16 ≤ 1) &&
      leAt b 4 1 == s.get R.TIME_CTRL_DOMAIN then
    let t := cutQuarter f.sfd - s.get (R.RX_LAT_PS p)
    let m := { s.ptpMsg 9 (signed 8 (s.freeVal 8)) with
      seq := beAt b 30 2, requesting := beAt b 20 10, stamp := t / 1000, correction := signed 64 (beAt b 8 8) - t % 1000 * 65536 / 1000 }
    s.useFree.portQueue p (.ptp m)
  else s

/-- ETH_FRAME_RX (R138, R139): a frame arrives at the balls; uncorrectable FEC codewords before it are counted (R174). A near-end loopback has the
receiver ignore its balls (R204), and far-end loopback sends the frame back while the transmitter runs (R205). -/
def execEthFrameRx (p : Fin 4) (f : EthFrame) (s : State) : Host.Outcome State Fault Refusal :=
  .next <|
    if !s.portUp p || s.laneLooped (28 + p) then s
    else
      let s := if s.get (R.LANE_CTRL_LOOP (28 + p)) = 3 && (s.laneOf (28 + p)).sending then s.emit (.ethBack p f) else s
      let s := if s.rsFec p then s.bumpSat (R.STA_FEC_UNCORR_CNT p) f.uncorr else s
      if !f.fcsOk then s.bumpSat (R.RX_FCS_ERR_CNT p)
      else if !s.ethTakes p f then s.bumpSat (R.RX_DISCARD_CNT p)
      else
        let s := s.bump (R.RX_OK_CNT p)
        if f.etherType = 0x88F7 then s.delayReqRx p f
        else if s.on R.STA_CTRL_EN then s.staFrame p f else s

/-- A sender's STATE and STEPPED say that it is synchronised (R157). -/
def isSync (state : Nat) (stepped : Bool) : Bool := state == 4 || (stepped && state != 0)

/-- The first waiting frame of a TYPE. -/
def State.inboxOf (s : State) (type : Nat) : Option StaFrame := s.net.inbox.find? fun f => staType f.bytes == type

/-- The inbox without its first frame of a TYPE. -/
def State.inboxTake (s : State) (type : Nat) : State :=
  { s with net := { s.net with inbox := s.net.inbox.eraseP fun f => staType f.bytes == type } }

/-! ## Position sharing -/

/-- The POS entry of source `n` (R158, R159). -/
def State.posEntry (s : State) (n : Nat) : List Byte :=
  let valid := s.on (R.SRC_CTRL_EN n) && !s.on (R.SRC_STATUS_STALE n)
  leBytes 1 (s.get (R.TXPOS_STREAM n)) ++
    leBytes 1 (valid.toNat + s.get (R.SRC_STATUS_DIR n) * 2 + s.get (R.SRC_STATUS_INTERP_ON n) * 4) ++
    leBytes 2 0 ++ leBytes 8 (s.srcPos n) ++ leBytes 8 s.timeNs ++ leBytes 4 (s.get (R.SRC_RATE_RATE n))

/-- TXPOS_SAMPLE (R159): the sources named are sampled in one event clock and share one frame. An entry that still waits is replaced by a new
sample of its stream. -/
def execTxposSample (sources : BitVec 8) (s : State) : Host.Outcome State Fault Refusal :=
  let due := (List.range 8).filter fun n => bitAt sources.toNat n && s.on (R.TXPOS_EN n)
  let new := due.map fun n => (⟨s.clk, s.get (R.TXPOS_STREAM n), s.posEntry n⟩ : PosWait)
  .next <|
    if s.on R.STA_CTRL_EN && !due.isEmpty then
      let old := s.net.posWait.filter fun x => new.all fun y => x.stream != y.stream
      ({ s with net := { s.net with posWait := old ++ new } }).buildPos
    else s

/-- The present time less a sample time, in ns (R160). -/
def State.ageOf (s : State) (t : Nat) : Int := timeDiff s.timeNs t

/-- One POS entry meets receive stream `n` (R160). -/
def State.posAccept (s : State) (n sender : Nat) (sync : Bool) (e : List Byte) : State :=
  let t := leAt e 12 8
  let p := leAt e 4 8 % 2 ^ 56
  if s.on (R.RXPOS_CTRL_EN n) && s.get (R.RXPOS_CTRL_SENDER n) == sender && s.get (R.RXPOS_CTRL_STREAM n) == leAt e 0 1 &&
      bitAt (leAt e 1 1) 0 then
    if !sync then s.raise (R.RXPOS_STATUS_NOT_SYNC n)
    else
      let stale := match Tbl.find s.rxLast n with
        | some t0 => decide (timeDiff t t0 ≤ 0)
        | none => false
      if stale then s
      else if s.ageOf t < -1000 ∨ (s.get (R.RXPOS_LIMIT_MAX_AGE n) * 1000 : Nat) < s.ageOf t then
        s.raise (R.RXPOS_STATUS_AGE_ERR n)
      else
        let s := (s.bump (R.RXPOS_ACC_CNT_CNT n))
        let s := { s with rxLast := (n, t) :: Tbl.drop s.rxLast n }
        s.stationInput n p t (signed 32 (leAt e 20 4))
  else s

/-- Consecutive pieces of `k` bytes, `n` of them. -/
def pieces (k : Nat) : Nat → List Byte → List (List Byte)
  | 0, _ => []
  | n + 1, b => b.take k :: pieces k n (b.drop k)

/-- STA_POS_RX (R158, R160). -/
def execStaPosRx (s : State) : Host.Outcome State Fault Refusal :=
  .next <|
    match s.inboxOf 1 with
    | none => s
    | some f =>
      let sync := isSync (staTFlags f.bytes % 8) (bitAt (staTFlags f.bytes) 3) && isSync s.timeState (s.on R.TIME_STATUS_STEPPED)
      (s.inboxTake 1).forList (pieces 24 (staLength f.bytes / 24) (staBody f.bytes)) fun e s =>
        s.forEach 8 fun n s => s.posAccept n (staSender f.bytes) sync e

/-- RX_STREAM_PERIOD (R161): a due read without a valid result. -/
def execRxStreamPeriod (n : Fin 8) (s : State) : Host.Outcome State Fault Refusal :=
  .next (if s.on (R.RXPOS_CTRL_EN n) then s.inputMiss 2 n else s)

/-! ## Station events -/

/-- The 32 bytes of an event in an EVENT frame (R162). -/
def eventEntry (e : Event) : List Byte :=
  leBytes 1 e.req.channel ++ leBytes 1 e.req.producer ++ leBytes 1 e.req.action ++ leBytes 1 e.req.late.toNat ++
    leBytes 2 e.req.width ++ leBytes 3 e.req.param ++ leBytes 1 e.stampSrc ++ leBytes 2 0 ++ leBytes 4 e.gseq ++
    leBytes 8 e.position ++ leBytes 8 e.time

/-- The station time unit forwards a granted event that a TXEVT selector names (R163). -/
def State.deliverStation (s : State) (e : Event) : State :=
  let heard := (List.range 16).filter fun i => s.selHears e.req.channel (R.TXEVT_SEL i)
  if heard = [] then s
  else if heard.all (fun i => s.byFn0 (R.TXEVT_SEL i) && s.guarded e.req.channel) then s.guardViol e.req.channel 0
  else if s.on R.STA_CTRL_EN then { s with net := { s.net with txEvents := s.net.txEvents ++ [e] } }
  else s

/-- Up to 16 waiting events leave in one frame, once a port is free (R163). -/
def State.buildEvents (s : State) : State :=
  let l := s.net.txEvents.take 16
  if l.isEmpty || !s.txOpen 3 then s
  else ({ s with net := { s.net with txEvents := s.net.txEvents.drop 16 } }).staBroadcast 2 (l.flatMap eventEntry)

/-- STA_EVENT_FRAME_SEND (R163). -/
def execStaEventFrameSend (s : State) : Host.Outcome State Fault Refusal := .next s.buildEvents

/-- At an event clock each port that has become free takes its next traffic in the order of R169. -/
def State.serveStation (s : State) : State := s.forEach 4 fun p s => s.buildPos.buildEvents.portServe p

/-- One EVENT entry meets receive map `i` (R164). -/
def State.mapEvent (s : State) (i sender : Nat) (e : List Byte) : State :=
  if s.on (R.RXEVT_SRC_EN i) && s.get (R.RXEVT_SRC_SENDER i) == sender && s.get (R.RXEVT_SRC_CHANNEL i) == leAt e 0 1 then
    let param := leAt e 0 1 + sender * 256
    let delay := s.get (R.RXEVT_DELAY_NS i)
    if delay = 0 then s.publishMap i param
    else
      let deadline := (leAt e 24 8 + delay) % 2 ^ 64
      if timeDiff deadline s.timeNs ≤ 0 then s.lateEvent i param
      else if s.net.deferred.length < 256 then
        { s with net := { s.net with deferred := s.net.deferred ++ [⟨i, param, deadline⟩] } }
      else (s.bumpSat R.DEFER_LATE_CNT_CNT).raise R.STA_STATUS_QUEUE_FULL
  else s

/-- STA_EVENT_RX (R162, R164). -/
def execStaEventRx (s : State) : Host.Outcome State Fault Refusal :=
  .next <|
    match s.inboxOf 2 with
    | none => s
    | some f =>
      (s.inboxTake 2).forList (pieces 32 (staLength f.bytes / 32) (staBody f.bytes)) fun e s =>
        s.forEach 32 fun i s => s.mapEvent i (staSender f.bytes) e

/-- DEFERRED_EVENT_DUE (R164): the first deferred event whose deadline station time has reached is published. -/
def execDeferredEventDue (s : State) : Host.Outcome State Fault Refusal :=
  .next <|
    match s.net.deferred.find? (fun d => decide (timeDiff d.deadline s.timeNs ≤ 0)) with
    | none => s
    | some d => ({ s with net := { s.net with deferred := s.net.deferred.erase d } }).publishMap d.map d.param

/-! ## Remote commands -/

/-- What the device keeps of a remote sender. -/
def State.remoteOf (s : State) (sender : Nat) : RemotePeer := Tbl.get {} s.net.remote sender
def State.setRemote (s : State) (sender : Nat) (r : RemotePeer) : State :=
  { s with net := { s.net with remote := Tbl.put {} s.net.remote sender r } }

/-- A RESP body (R166). -/
def respBody (seq status : Nat) (rsp : List Byte) : List Byte := leBytes 4 seq ++ leBytes 1 status ++ leBytes 3 0 ++ rsp

/-- A RESP goes to the sender of a command. -/
def State.sendResp (s : State) (port da : Nat) (body : List Byte) : State :=
  (s.staSendOn port 4 da (Tbl.get 0 s.net.txSeq 4) body).staNextSeq 4

/-- The enabled ALLOW entry of a sender (R166). -/
def State.allowOf (s : State) (sender : Nat) : Option Nat :=
  (List.range 16).find? fun i => s.on (R.ALLOW_EN i) && s.get (R.ALLOW_SENDER i) == sender

/-- STA_CMD_RX (R165, R166): a command of an allowed sender is handed to Skep; its RESP follows at its completion. While Skep does not run, no
command is looked at, and the frame waits (R24; assumption 108). -/
def execStaCmdRx (s : State) : Host.Outcome State Fault Refusal :=
  .next <|
    match if s.skepRuns then s.inboxOf 3 else none with
    | none => s
    | some f =>
      let s := s.inboxTake 3
      let b := staBody f.bytes
      let sender := staSender f.bytes
      let seq := staSeq f.bytes
      if leAt b 0 1 ≠ s.get R.STA_CTRL_SENDER then s
      else
        match s.allowOf sender with
        | none => (s.raise R.STA_STATUS_CMD_DENIED).sendResp f.port f.sa (respBody seq 1 [])
        | some i =>
          let r := s.remoteOf sender
          if r.lastSeq = some seq then s.sendResp f.port f.sa r.stored
          else if (Tbl.get {} s.skep.cmds (32 + sender)).req ≠ [] then s.sendResp f.port f.sa (respBody seq 2 [])
          else if b.length - 4 < 4 ∨ 1024 < b.length - 4 then s.sendResp f.port f.sa (respBody seq 3 [])
          else
            let s := s.setRemote sender { r with seq := seq, port := f.port, da := f.sa }
            { s with skep := { s.skep with
                cmds := Tbl.put {} s.skep.cmds (32 + sender) { req := b.drop 4, priv := s.on (R.ALLOW_PRIV i), rung := (s.clk, 32 + sender) } } }

/-! ## Beacons and peers -/

/-- grandmasterIdentity: of the master, or the device's own. -/
def State.gmIdentity (s : State) : Nat :=
  match s.net.master with
  | some m => m.gmId
  | none => clockIdentity (s.mac (s.get R.TIME_STATUS_PTP_PORT))

/-- A peer entry is in use once a beacon has filled it, and stays its sender's when the peer is absent (R168). -/
def State.peerUsed (s : State) (i : Nat) : Bool := Tbl.get false s.net.peers i

/-- BEACON_SEND (R167): every peer heard of, present or absent, ages by one period (R175). -/
def execBeaconSend (s : State) : Host.Outcome State Fault Refusal :=
  .next <|
    if s.on R.STA_CTRL_EN then
      let ports := (List.range 4).foldl (fun x p => x + s.get (R.ETH_STATUS_LINK p) * 2 ^ p) 0
      let streams := (List.range 8).foldl (fun x n => if s.on (R.TXPOS_EN n) then x ||| 2 ^ s.get (R.TXPOS_STREAM n) else x) 0
      let s := s.staBroadcast 5 (leBytes 8 Config.serial.toNat ++ leBytes 1 0 ++ leBytes 1 ports ++ leBytes 1 streams ++
        leBytes 1 0 ++ beBytes 8 s.gmIdentity)
      s.forEach 32 fun i s => if s.peerUsed i then s.bumpSat (R.PEER_INFO_AGE i) else s
    else s

/-- A peer event (R168, R172). -/
def State.peerEvent (s : State) (i : Nat) (found conflict : Bool) : State :=
  s.publish R.EVT_PEER_SEL 0x30 (i + found.toNat * 32 + conflict.toNat * 64 + 3 * 2 ^ 20)

/-- Peer entry `i` takes what a beacon says. -/
def State.peerSet (s : State) (i sender serial st : Nat) : State :=
  let s := { s with net := { s.net with peers := Tbl.put false s.net.peers i true } }
  ((((s.set2 (R.PEER_SERIAL_LO_SERIAL i) (R.PEER_SERIAL_HI_SERIAL i) serial).set (R.PEER_INFO_SENDER i) sender).raise
    (R.PEER_INFO_PRESENT i)).set (R.PEER_INFO_STATE i) st).clear (R.PEER_INFO_AGE i)

/-- STA_BEACON_RX (R168). -/
def execStaBeaconRx (s : State) : Host.Outcome State Fault Refusal :=
  .next <|
    match s.inboxOf 5 with
    | none => s
    | some f =>
      let s := s.inboxTake 5
      let sender := staSender f.bytes
      let serial := leAt (staBody f.bytes) 0 8
      let st := staTFlags f.bytes % 8
      if sender = s.get R.STA_CTRL_SENDER then
        if serial = Config.serial.toNat then s else (s.raise R.STA_STATUS_ID_CONFLICT).peerEvent 0 false true
      else
        match (List.range 32).find? fun i => s.peerUsed i && s.get (R.PEER_INFO_SENDER i) == sender with
        | some i => s.peerSet i sender serial st
        | none =>
          match (List.range 32).find? fun i => !s.peerUsed i with
          | some i => (s.peerSet i sender serial st).peerEvent i true false
          | none => s.raise R.STA_STATUS_PEER_FULL

/-- PEER_TIMEOUT (R168). -/
def execPeerTimeout (i : Fin 32) (s : State) : Host.Outcome State Fault Refusal :=
  .next (if s.on (R.PEER_INFO_PRESENT i) then (s.clear (R.PEER_INFO_PRESENT i)).peerEvent i false false else s)

/-! ## IEEE 1588 -/

/-- Lexicographic order of lists of numbers. -/
def lexLt : List Nat → List Nat → Bool
  | a :: as, b :: bs => decide (a < b) || (a == b && lexLt as bs)
  | [], _ :: _ => true
  | _, [] => false

/-- The order of the best master clock algorithm (R151; assumption 9): the smaller is the better clock. -/
def Master.rank (m : Master) : List Nat :=
  [m.priority1, m.clockClass, m.accuracy, m.variance, m.priority2, m.gmId, m.steps, m.parent]

/-- The data set of this clock (R151). -/
def State.ownClock (s : State) : Master :=
  let id := clockIdentity (s.mac (s.get R.TIME_STATUS_PTP_PORT))
  ⟨id, s.get R.PTP_CFG_PRIORITY_1, 248, 0xFE, 0xFFFF, s.get R.PTP_CFG_PRIORITY_2, 0, 0⟩

/-- A master that a received Announce describes. -/
def announceMaster (a : Announce) : Master :=
  ⟨a.gmId, a.priority1, a.clockClass, a.accuracy, a.variance, a.priority2, a.steps, a.parent⟩

/-- A master's versions are among those received and its intervals lie in the ranges supported; otherwise it is not selected (R151). -/
def announceUsable (a : Announce) : Bool :=
  a.version == 2 && decide (a.minor ≤ 1) && decide (-7 ≤ a.logSync ∧ a.logSync ≤ 1 ∧ -7 ≤ a.logMinDelayReq ∧ a.logMinDelayReq ≤ 5)

/-- Another clock is the master from now on (R146). -/
def State.newMaster (s : State) (m : Master) : State :=
  let old := s.net.master
  let s := { s with net := { s.net with master := some m } }
  let same := match old with
    | some o => o.gmId == m.gmId && o.parent == m.parent
    | none => false
  if s.timeState = 4 then s.freshSteering.timeChange 3 false
  else if same then s
  else
    let s := { s with net := { s.net with reqTx := none, delayMeas := none, delays := [] } }
    if old.isSome then s.timeLoss false else s

/-- Sync and Announce are both due. -/
def State.freshSync (s : State) : State := { s with net := { s.net with syncAt := 0, annAt := 0 } }

/-- The best master clock algorithm selects this clock (R146, R151). -/
def State.becomeGrandmaster (s : State) : State :=
  let s := { s with net := { s.net with master := none } }
  if s.timeState = 4 then s else s.freshSync.freshSteering.timeChange 4 false

/-- PTP_ANNOUNCE_RX (R151). -/
def execPtpAnnounceRx (p : Fin 4) (a : Announce) (s : State) : Host.Outcome State Fault Refusal :=
  .next <|
    if !s.ptpMode || !s.skepRuns || s.ptpPort? != some p.val || a.domain != s.get R.TIME_CTRL_DOMAIN || !announceUsable a then s
    else
      let m := announceMaster a
      let ownBest := !s.on R.TIME_CTRL_SLAVE_ONLY && lexLt s.ownClock.rank m.rank
      match s.net.master with
      | none => if ownBest then s.becomeGrandmaster else s.newMaster m
      | some o =>
        if o.parent = m.parent then (if ownBest then s.becomeGrandmaster else s.newMaster m)
        else if lexLt m.rank o.rank then s.newMaster m
        else s

/-- The median of a list: the middle of the sorted list, the mean of the two middle ones of an even count. -/
def median (l : List Int) : Int :=
  let off := l.foldl (fun a x => min a x) 0
  let t := sortBy (fun x => (x, 0)) (l.map fun x => (x - off).toNat)
  (t.getD ((t.length - 1) / 2) 0 + t.getD (t.length / 2) 0 : Nat) / 2 + off

/-- Twice the median of integers: the sum of the two middle ones, or twice the middle one. -/
def median2 (l : List Int) : Int :=
  let off := l.foldl (fun m x => min m x) 0
  let t := (sortBy (fun x => (x, 0)) (l.map fun x => (x - off).toNat)).toArray
  let n := t.size
  ((t.getD ((n - 1) / 2) 0 + t.getD (n / 2) 0 : Nat) : Int) + 2 * off

/-- Units of RATE_ADJ in `n` ppm (R142). -/
def ppmUnits (n : Nat) : Nat := 4 * 2 ^ 48 * n / 1000000

/-- Skep steers (R149): RATE_ADJ takes a value within MAX_SLEW of its frequency estimate; the estimate and the value are Skep's, and free
(assumption 1). -/
def State.steer (s : State) : State :=
  let slew := ppmUnits (s.get R.LOCK_CFG_MAX_SLEW)
  let est := signed 40 (s.freeVal 40)
  let s := { s.useFree with net := { s.net with freqEst := est } }
  let r := est + ((s.freeVal 40 % (2 * slew + 1) : Nat) : Int) - slew
  (s.setRate (clampInt (-2 ^ 39) (2 ^ 39 - 1) r)).useFree

/-- The step at the end of the first LOCK_SAMPLES samples (R147): the time moves by the negated median of their offsets, and
RATE_ADJ takes Skep's frequency estimate, which is free (assumption 1). R147 does not say how fine the step is: it is of whole nanoseconds, as
TIME_STEP is, the median rounded to the nearest, and TIME_FRAC stays (DESIGN CHOICE, assumption 107). -/
def State.ptpStep (s : State) : State :=
  let m := median s.net.samples
  let est := signed 40 (s.freeVal 40)
  let s := (s.timeStep (-(divRound m 1000))).useFree
  let s := { s with net := { s.net with samples := [], freqEst := est } }
  s.setRate est

/-- An accepted offset sample, in ps, drives the state (R146, R147). Samples before the step count toward LOCK_SAMPLES (assumption 107). -/
def State.offsetSample (s : State) (off : Int) : State :=
  let s := if s.timeState = 0 ∨ s.timeState = 3 then s.freshSteering.timeChange 1 false else s
  let th := s.get R.LOCK_CFG_LOCK_THRESH * 1000
  let need := s.get R.LOCK_CFG_LOCK_SAMPLES
  let n := s.net
  let s := { s with net := { n with
    good := if off.natAbs ≤ th then n.good + 1 else 0
    bad := if 4 * th < off.natAbs then n.bad + 1 else 0
    samples := if s.timeState = 1 ∧ ¬ s.on R.TIME_STATUS_STEPPED then n.samples ++ [off] else n.samples } }
  let stepNow := s.timeState = 1 ∧ ¬ s.on R.TIME_STATUS_STEPPED ∧ need ≤ s.net.samples.length
  let s := if stepNow then s.ptpStep else if s.on R.TIME_STATUS_STEPPED then s.steer else s
  if s.timeState = 1 ∧ s.on R.TIME_STATUS_STEPPED ∧ need ≤ s.net.good then
    ({ s with net := { s.net with bad := 0 } }).timeChange 2 (decide stepNow)
  else if s.timeState = 2 ∧ need ≤ s.net.bad then
    ({ s with net := { s.net with good := 0, bad := 0 } }).timeChange 1 false
  else s

/-- PTP_SYNC_RX (R153, R154): `t1` is the master's time and `t2` station time in ps as the Sync passed the PCS. Skep forms the sample: while it does
not run there is none (R24). -/
def execPtpSyncRx (p : Fin 4) (parent : Nat) (t1 t2 : Int) (s : State) : Host.Outcome State Fault Refusal :=
  .next <|
    match s.net.master with
    | none => s
    | some m =>
      if !s.ptpMode || s.ptpPort? != some p.val || m.parent != parent then s
      else
        let s := { s with net := { s.net with syncsSince := s.net.syncsSince + 1, reqSyncs := s.net.reqSyncs + 1 } }
        match if s.skepRuns then s.net.delayMeas else none with
        | none => s
        | some (t3, t4) =>
          if 16 < s.net.syncsSince then s
          else
            let t2 := cutQuarter t2 - s.get (R.RX_LAT_PS p)
            let mean := ((t2 - t1) + (t4 - t3)) / 2
            let off := t2 - t1 - mean - s.getInt (R.ASYM_PS p)
            if s.net.delays ≠ [] ∧ median s.net.delays + 1000000 < mean then s
            else
              let s := { s with net := { s.net with delays := (mean :: s.net.delays).take 16 } }
              let s := s.setInt R.OFFSET_NS (clampInt (-2 ^ 31) (2 ^ 31 - 1) (divRound off 1000))
              let s := s.setInt R.PATH_DELAY_NS (clampInt (-2 ^ 31) (2 ^ 31 - 1) (divRound mean 1000))
              s.offsetSample off

/-- PTP_DELAY_REQ_TX (R151, R153): a Delay_Req is sent, before any other traffic (R169). -/
def execPtpDelayReqTx (s : State) : Host.Outcome State Fault Refusal :=
  .next <|
    match s.ptpPort?, s.net.master with
    | some p, some _ => if s.ptpMode && s.skepRuns then s.ptpSend p (s.ptpMsg 1 0x7F) else s
    | _, _ => s

/-- PTP_DELAY_RESP_RX (R154): `t4` is the master's receive time, in ps. -/
def execPtpDelayRespRx (p : Fin 4) (parent : Nat) (t4 : Int) (s : State) : Host.Outcome State Fault Refusal :=
  .next <|
    match s.net.master, s.net.reqTx with
    | some m, some t3 =>
      if s.ptpMode && s.skepRuns && s.ptpPort? == some p.val && m.parent == parent then
        { s with net := { s.net with delayMeas := some (t3, t4), syncsSince := s.net.reqSyncs, reqTx := none } }
      else s
    | _, _ => s

/-- The interval of a logMessageInterval, in 1/128 s (R151). -/
def ptpInterval (log : Int) : Nat := 2 ^ (log + 7).toNat

/-- The grandmaster's Sync and Announce (R151). -/
def State.sendSync (s : State) (p : Nat) : State := s.ptpSend p (s.ptpMsg 0 (s.getInt R.PTP_CFG_LOG_SYNC))
def State.sendAnnounce (s : State) (p : Nat) : State :=
  s.ptpSend p { s.ptpMsg 11 (s.getInt R.PTP_CFG_LOG_ANNOUNCE) with master := some s.ownClock }

/-- The next Sync is due in `a` and the next Announce in `b`: the earlier is sent, or both (R151). -/
def State.sendDue (s : State) (p a b : Nat) : State :=
  let s := { s with net := { s.net with
    syncAt := if a ≤ b then ptpInterval (s.getInt R.PTP_CFG_LOG_SYNC) else a - b,
    annAt := if b ≤ a then ptpInterval (s.getInt R.PTP_CFG_LOG_ANNOUNCE) else b - a } }
  let s := if a ≤ b then s.sendSync p else s
  if b ≤ a then s.sendAnnounce p else s

/-- PTP_SYNC_TX (R151, R153): as grandmaster, the next moment at which a Sync, an Announce or both are due by the intervals of LOG_SYNC and
LOG_ANNOUNCE. Each interval runs on from its last message; the first of both are due together (assumption 122). -/
def execPtpSyncTx (s : State) : Host.Outcome State Fault Refusal :=
  .next <|
    match s.ptpPort? with
    | some p => if s.ptpMode && s.skepRuns && s.timeState == 4 then s.sendDue p s.net.syncAt s.net.annAt else s
    | none => s

/-- MASTER_LOST (R146, R154); a clock that is not slave-only, and hears no master, is then the best (R151). -/
def execMasterLost (s : State) : Host.Outcome State Fault Refusal :=
  .next <|
    if s.ptpMode && s.skepRuns then
      let s := s.dropMaster.timeLoss true
      if !s.on R.TIME_CTRL_SLAVE_ONLY && s.ptpPort?.isSome then s.becomeGrandmaster else s
    else s

end Sys2Proof.Machine
end

