-- ==== Sys2Proof/Machine/Links.lean ====
section
/-!
DEFINITION. The Talmon link (chapter 7): link states, alignment markers and deskew, the block stream and its packets, HELLO, CTRL and
CREDIT, hub packets, link delay and triggers.
-/
set_option Elab.async false
namespace Sys2Proof.Machine

/-- LINK_STATE (R271). -/
def State.linkState (s : State) (f : Nat) : Nat := s.get (R.LINK_STATUS_LINK_STATE f)

/-- The lanes of the link at lane F (R221). -/
def State.linkLanes (s : State) (f : Nat) : List Nat := (List.range (s.linkWidth f)).map (f + ·)

/-- The link that a lane belongs to: one whose unit is not OFF. -/
def State.linkAt (s : State) (l : Nat) : Option Nat :=
  (List.range 32).find? fun f => !s.unitOff (linkUnit f) && decide (f ≤ l ∧ l < f + s.linkWidth f)

/-- A lane beyond the first of the lanes that WIDTH of a lower one gives it, whatever the link unit's state (R221, R275). -/
def State.shadowed (s : State) (l : Nat) : Bool :=
  (List.range l).any fun f => f % s.linkWidth f == 0 && decide (l < f + s.linkWidth f)

/-- An event of the link on EVT_LINK (R273). -/
def State.publishLink (s : State) (f kind : Nat) : State :=
  s.publish (R.EVT_LINK_SEL f) 0x40 (f + kind * 256 + 0x3 * 2 ^ 20)

/-- The link changes its state and publishes (R272): kind 0 at UP, 1 on leaving UP; the kind of any other change is not stated and is
a free value (assumption 1). -/
def State.linkTo (s : State) (f st : Nat) : State :=
  let old := s.linkState f
  if old = st then s
  else
    let s := s.set (R.LINK_STATUS_LINK_STATE f) st
    if st = 4 then s.publishLink f 0
    else if old = 4 then s.publishLink f 1
    else (s.publishLink f (s.freeVal 3)).useFree

/-! ## Symbols of a lane -/

/-- An Ethernet port is enabled on a lane (R218). -/
def State.ethLane (s : State) (l : Nat) : Bool := decide (28 ≤ l ∧ l < 32) && s.on (R.ETH_CTRL_EN (l - 28))

/-- The rate at which a lane starts (R201): RATE, or that of the Ethernet port that the lane carries, as 3 + SPEED (R137). -/
def State.startRate (s : State) (l : Nat) : Nat :=
  if s.ethLane l then 3 + s.get (R.ETH_CTRL_SPEED (l - 28)) else s.get (R.LANE_CFG_RATE l)

/-- The signalling of a lane in use (R181, R184): T28, T56 and T10 by their codes, then 10GBASE-R and 25GBASE-R. -/
def State.laneMode (s : State) (l : Nat) : Nat := if s.ethLane l then s.startRate l else (s.laneOf l).rate

/-- Each bit of the lane is one NRZ symbol (R184). -/
def State.laneNrz (s : State) (l : Nat) : Bool := decide (2 ≤ s.laneMode l)

/-- PRECODE of a lane; NRZ ignores it (R182, R184). -/
def State.lanePre (s : State) (l : Nat) : Bool := s.on (R.LANE_CFG_PRECODE l)

/-- Symbols leave through TX_INV and the transmit filter (R185, R188) while the transmitter drives its balls; the levels of the last two wait for
those that follow them. -/
def State.laneLevels (s : State) (l : Nat) (syms : List Nat) : State :=
  let x := s.laneOf l
  if !x.sending then s
  else
    let lv := (if x.tail = [] then [0] else x.tail) ++
      (invSymbols (s.laneNrz l) (s.on (R.LANE_CTRL_TX_INV l)) syms).map (symLevel (s.laneNrz l))
    (s.setLane l { x with tail := lv.drop (lv.length - 3) }).emit (.levels l (firOut (s.reg (R.TX_COEF_ACT l)).toNat lv))

/-- READY of a lane. -/
def State.laneReady (s : State) (l : Nat) : Bool := s.on (R.LANE_STATUS_READY l)

/-- The symbols that a receiver decides for arriving levels, named by the symbols they stand for: RX_INV comes first (R185). -/
def State.laneDecide (s : State) (l : Nat) (syms : List Nat) : List Nat := invSymbols (s.laneNrz l) (s.on (R.LANE_CTRL_RX_INV l)) syms

/-- The bits of decided symbols; P(−1) is the symbol decided before them, or the first symbol decided (R183). -/
def State.laneSpells (s : State) (l : Nat) (syms : List Nat) : List Bool :=
  rxSymbols (s.laneNrz l) (s.lanePre l) ((s.laneOf l).rxPre.getD (syms.headD 0)) syms

/-- The decoder goes on from the last symbol decided; in far-end loopback the symbols are sent back as they are (R205). -/
def State.laneTook (s : State) (l : Nat) (syms : List Nat) : State :=
  let s := if syms = [] ∨ !s.laneReady l then s else s.setLane l { s.laneOf l with rxPre := some (syms.getLastD 0) }
  if s.get (R.LANE_CTRL_LOOP l) = 3 && s.laneReady l then s.laneLevels l syms else s

/-- What leaving UP does beside the change of state (R273, R289, R779, R267). -/
def State.linkLeaveUp (s : State) (f : Nat) : State :=
  let s := s.forList (s.descsOfLink f) fun d s => s.streamStop d true
  let s := { s with enrolQ := s.enrolQ.filter (·.link != f) }
  let s := s.forList (s.epsOn f) fun e s => (s.epLost e 3).enrolEnd e
  let l := s.linkOf f
  let s := s.setLink f { l with part := none, bad := none, inbox := [], asm := [], delays := [], echoes := 0, echoSent := [], partner := none,
                                trig := l.trig.map fun (i, t) => (i, { t with wait := none }) }
  ((s.clear (R.LINK_DELAY_DELAY f)).clear (R.LINK_DELAY_VALID f)).trigRefresh f

/-- The link changes to a state below UP, leaving UP first where it is there; deskew ends (R272), and what waits to be sent is dropped. -/
def State.linkFall (s : State) (f st : Nat) : State :=
  let s := if s.linkState f = 4 then s.linkLeaveUp f else s
  let l := s.linkOf f
  let s := s.setLink f { l with aligned := false, marks := [], part := none, bad := none, uncorr := 0, inbox := [],
                                tx := { l.tx with queue := [], blocks := [], trigs := [] } }
  s.linkTo f st

/-- READY fell on a lane of the link (R272). -/
def State.linkLaneDown (s : State) (l : Nat) : State :=
  match s.linkAt l with
  | some f => if 2 ≤ s.linkState f then s.linkFall f 1 else s
  | none => s

/-- READY rose on a lane, or the link reached LANE_WAIT: ALIGN once all lanes are READY (R272). -/
def State.linkLaneUp (s : State) (l : Nat) : State :=
  match s.linkAt l with
  | some f => if s.linkState f = 1 && (s.linkLanes f).all s.laneReady then s.linkFall f 2 else s
  | none => s

/-- The link unit starts (R272): LANE_WAIT, and ALIGN at once where all lanes are READY. -/
def State.linkStart (s : State) (f : Nat) : State :=
  let s := (s.unitTo (linkUnit f) .starting).setLink f { s.linkOf f with tx := {} }
  (((s.raise (R.LINK_CTRL_EN f)).linkTo f 1).linkLaneUp f)

/-- The link is DOWN: its unit has left STARTING and ON (R272). -/
def State.linkDown (s : State) (f : Nat) : State :=
  if s.linkState f = 0 then s.clear (R.LINK_CTRL_EN f) else (s.linkFall f 0).clear (R.LINK_CTRL_EN f)

/-- The link unit stops (R655); where a start was deferred it is STARTING again (R656). -/
def State.linkStop (s : State) (f : Nat) : State :=
  let s := ((s.unitTo (linkUnit f) .stopping).linkDown f).unitTo (linkUnit f) .off
  if s.unitState (linkUnit f) = .starting then s.linkStart f else s

/-! ## HELLO -/

/-- The device's HELLO (R251). MAX_WIDTH, CTRL_CREDITS from 1 to 16, MIN_LAUNCH and NOMINAL_LAT of the device are not stated: free values
(assumption 1). `rate` is byte 14. -/
def State.sendHello (s : State) (f rate : Nat) : State :=
  let l := s.linkOf f
  let x := s.freeVal 38
  let pay := leBytes 4 (3 + 2 * 2 ^ 24) ++ leBytes 1 0x0F ++ leBytes 1 (bitsOf x 0 2) ++ leBytes 1 (bitsOf x 2 4 + 1) ++ leBytes 1 0 ++
    leBytes 2 (bitsOf x 6 16) ++ leBytes 2 (bitsOf x 22 16) ++ leBytes 2 0 ++ leBytes 1 rate ++ leBytes 1 0
  (s.useFree.setLink f { l with ackOut := l.ackOut || l.heard }).sendLink f
    { ptype := 6, loc := true, tspec := l.heard.toNat, payload := pay }

/-- RATE code of the link's lanes. -/
def State.linkRate (s : State) (f : Nat) : Nat := (Tbl.get {} s.lanes f).rate

/-- ALIGN to HELLO (R272, R252). -/
def State.linkHello (s : State) (f : Nat) : State :=
  let s := s.setLink f { s.linkOf f with heard := false, ackIn := false, ackOut := false, common := 0 }
  (s.linkTo f 3).sendHello f (s.linkRate f)

/-- An ECHO_REQ leaves (R267): ECHO_ID counts the requests. Its departure is the instant `t1`, in 0.25 ns. -/
def State.sendEcho (s : State) (f t1 : Nat) : State :=
  let l := s.linkOf f
  (s.setLink f { l with echoes := l.echoes + 1, echoSent := (l.echoSent ++ [(l.echoes % 65536, t1)]).drop (l.echoSent.length - 255) }).sendLink f
    { ptype := 4, loc := true, tspec := 2, hdr := [l.echoes % 65536, 0] }

/-- The link enters UP (R272): the unit is ON, credits of its endpoints are reset (R273), Skep enrols the partner (R283), and the first
ECHO_REQ leaves (R267). -/
def State.linkUp (s : State) (f : Nat) : State :=
  let s := s.linkTo f 4
  let s := if s.unitState (linkUnit f) = .starting then s.unitTo (linkUnit f) .on else s
  let n := s.upCount
  let s := ({ s with upCount := n + 1 }).setLink f { s.linkOf f with upOrder := n, discards := 0, lastCause := 0 }
  let s := s.forList (s.epsOn f) fun e s => s.epochReset e
  let s := s.forecasts.trigRefresh f
  let s := if s.on (R.LINK_CTRL_ECHO_EN f) then s.sendEcho f (4 * 4 * s.clk) else s
  let isHub := s.get (R.PARTNER_CAP_ROLE f) = 1
  s.enrolAdd { order := n, slot := 0, link := f, hub := none, isHub := isHub, detTrig := s.detTrig f,
               credits := s.get (R.PARTNER_CAP_CTRL_CREDITS f), budget := s.get (R.PARTNER_LAT_MIN_LAUNCH f),
               nominal := s.get (R.PARTNER_LAT_NOMINAL_LAT f), vendor := (s.linkOf f).vendor, serial := (s.linkOf f).serial }

/-! ## Alignment markers -/

/-- Marker lock of a lane is lost (R232, R272). -/
def State.amLose (s : State) (l : Nat) : State :=
  let s := s.setLane l { s.laneOf l with amMiss := 0 }
  if s.on (R.LL_STATUS_AM_LOCK l) then
    let s := s.clear (R.LL_STATUS_AM_LOCK l)
    match s.linkAt l with
    | some f =>
      let s := s.raise (R.LINK_STATUS_AM_LOST f)
      if 3 ≤ s.linkState f then s.linkFall f 2 else s
    | none => s
  else s

/-- A marker position of a locked lane passes without a valid marker (R232). -/
def State.amMissed (s : State) (l n : Nat) : State :=
  if s.on (R.LL_STATUS_AM_LOCK l) then
    let s := s.bumpSat (R.AM_MISS_CNT_CNT l) n
    let m := (s.laneOf l).amMiss + n
    if 3 ≤ m then s.amLose l else s.setLane l { s.laneOf l with amMiss := m }
  else s

/-- The markers of a period have all arrived: the link tries to align (R233). A mark is its lane, logical number, width code and
arrival in 0.25 ns. -/
def State.deskew (s : State) (f : Nat) (marks : List (Nat × Nat × Nat × Nat)) : State :=
  let w := s.linkWidth f
  let l := s.linkOf f
  let times := marks.map (·.2.2.2)
  let first := times.foldl min (times.headD 0)
  let last := times.foldl max 0
  let skewed := decide (256 < last - first)
  let logical := marks.map (·.2.1)
  let distinct := logical.eraseDups.length == w && logical.all (· < w)
  let wrong := marks.any fun m => m.2.2.1 != s.get (R.LINK_CTRL_WIDTH f)
  let s := if skewed then s.raise (R.LINK_STATUS_DESKEW_ERR f) else s
  let bad := if wrong then l.badWidth + 1 else 0
  let s := if bad = 4 then s.raise (R.LINK_STATUS_WIDTH_ERR f) else s
  let s := s.setLink f { l with marks := [], badWidth := bad % 4 }
  if skewed || !distinct || wrong then s
  else
    let t0 : Nat := ((marks.find? fun m => m.2.1 == 0).map (·.2.2.2)).getD first
    let s := s.forList marks fun (m : Nat × Nat × Nat × Nat) s => s.setInt (R.LL_STATUS_SKEW m.1) ((m.2.2.2 : Int) - t0)
    if s.linkState f = 2 then s.setLink f { s.linkOf f with aligned := true, since := 0, uncorr := 0 }
    else s.setLink f { s.linkOf f with since := 0 }

/-- Half a marker period of a link, in 0.25 ns (R231): 16,384 codewords and the markers, at the rate of a lane. -/
def State.markerHalf (s : State) (f : Nat) : Nat := (16384 * 5440 / s.linkWidth f + 128) * 64 / laneEighths (s.laneMode f)

/-- A marker at its position on a READY lane (R231 to R233), with the time of its arrival in 0.25 ns; `bip` is BIP-8 of the lane's bits since the
last marker but for those of the codewords taken since. One that is not valid counts as a position without a marker. Markers that arrived more than
half a period before it are of another period, and align no more; where every lane has had one since this lane's last, the period has passed
without alignment, and is judged as it stands (R233; assumption 140). -/
def State.markerIn (s : State) (l m t bip : Nat) : State :=
  if !s.laneReady l then s
  else
    let bip := bip ^^^ (s.laneOf l).rxBip
    let s := s.setLane l { s.laneOf l with rxBip := 0 }
    if !markerValid m then s.amMissed l 1
    else
      let s := s.setLane l { s.laneOf l with amMiss := 0 }
      let locked := s.on (R.LL_STATUS_AM_LOCK l)
      let s := (s.raise (R.LL_STATUS_AM_LOCK l)).set (R.LL_STATUS_LOGICAL l) (bitsOf (markerByte m 4) 0 3)
      let s := if locked && markerByte m 8 != bip then s.bumpSat (R.BIP_ERR_CNT l) else s
      match s.linkAt l with
      | none => s
      | some f =>
        if s.linkState f < 2 then s
        else
          let k := s.linkOf f
          let mark : Nat × Nat × Nat × Nat := (l, bitsOf (markerByte m 4) 0 3, bitsOf (markerByte m 6) 0 2, t)
          let near := k.marks.filter fun (_, _, _, t') => decide (t < t' + s.markerHalf f)
          let marks := if near.any (·.1 == l) then [mark] else near ++ [mark]
          if marks.length = s.linkWidth f then s.deskew f marks
          else match k.marks.find? fun (l', _) => l' == l with
            | none => s.setLink f { k with marks := k.marks ++ [mark] }
            | some (_, _, _, t0) =>
              let since := k.marks.filter fun (_, _, _, t') => decide (t0 ≤ t')
              let s := if since.length = s.linkWidth f then s.deskew f since else s
              s.setLink f { s.linkOf f with marks := (if since.length = s.linkWidth f then [] else since.filter (·.1 != l)) ++ [mark] }

/-- The bits that arriving levels spell, after the one before them (R182 to R185). -/
def State.arrived (s : State) (l prev : Nat) (syms : List Nat) : List Bool :=
  rxSymbols (s.laneNrz l) (s.lanePre l) ((s.laneDecide l [prev]).headD 0) syms

/-- The symbols decided at a marker position, and the marker that they spell. The lowest two bits of the operand are the symbol before them. -/
def State.markerSyms (s : State) (l sym : Nat) : List Nat := s.laneDecide l (symsOf (s.laneNrz l) 128 (sym / 4))
def State.markerBits (s : State) (l sym : Nat) : Nat := bitNat (s.arrived l (bitsOf sym 0 2) (s.markerSyms l sym))

/-- AM_RECEIVED (R231 to R233): the level before a marker position of lane `l` and the levels at it, named by the symbols they stand for; the
marker's arrival in 0.25 ns; and BIP-8 over those of the lane's bits since the last marker that no CODEWORD_DECODE has brought. A lane in a
near-end loopback does not hear its balls (R204). The operands: assumption 116. -/
def execAmReceived (l : Fin 32) (sym : BitVec 130) (t : Nat) (bip : BitVec 8) (s : State) : Host.Outcome State Fault Refusal :=
  .next <|
    if !s.laneReady l || s.laneLooped l then s
    else (s.laneTook l (s.markerSyms l sym.toNat)).markerIn l (s.markerBits l sym.toNat) t bip.toNat

/-- AM_LOST (R232): the third consecutive marker position without a valid marker. -/
def execAmLost (l : Fin 32) (s : State) : Host.Outcome State Fault Refusal := .next (s.amMissed l (3 - (s.laneOf l).amMiss))

/-! ## Packets -/

/-- A discard on the link (R239, R244). -/
def State.discard (s : State) (f cause : Nat) : State :=
  let l := s.linkOf f
  s.setLink f { l with lastCause := cause, discards := l.discards + 1 }
def State.damaged (s : State) (f cause : Nat) : State := (s.discard f cause).bumpSat (R.CRC_ERR_CNT f)

/-- Header blocks of a packet type; none for a reserved type (R240). -/
def hdrBlocks (t : Nat) : Option Nat :=
  match t with
  | 1 => some 3 | 2 => some 1 | 3 => some 1 | 4 => some 2 | 5 => some 0 | 6 => some 0 | 7 => some 2 | _ => none

/-- Fields marked 0, and lengths, of a packet by its type (R238 to R255). -/
def packetFieldsOk (p : Packet) : Bool :=
  let h (i : Nat) := p.hdr.getD i 0
  let n := p.payload.length
  match p.ptype with
  | 1 => p.tspec / 256 == 0 && h 0 / 2 ^ 56 == 0 && bitsOf (h 1) 44 4 == 0
  | 2 =>
    let op := bitsOf p.tspec 8 3
    h 0 / 2 ^ 39 == 0 &&
      (if op = 2 then n == 4 * bitsOf (h 0) 32 7
       else if op = 4 then decide (4 ≤ n ∧ n ≤ 1024) && p.tspec % 256 == 0 && bitsOf (h 0) 32 7 == 0
       else n == 0)
  | 3 => p.tspec / 256 == 0 && decide (n ≤ 64)
  | 4 => p.tspec / 16 == 0 && h 1 == 0 && n == 0
  | 5 => p.tspec / 1024 == 0 && n == 0
  | 6 => p.tspec / 2 == 0 && n == 16 && leAt p.payload 4 1 / 16 == 0 && leAt p.payload 7 1 == 0 &&
      leAt p.payload 14 1 / 32 == 0 && leAt p.payload 15 1 == 0
  | _ => p.tspec / 16 == 0 && n == 0 && (p.tspec != 0 || (bitsOf (h 0) 13 3 == 0 && h 1 == 0))

/-- The packet made of the 7 START bytes and the data bytes, if nothing about it is damaged but its CRC (R238, R239). -/
def parsePacket (b : List Byte) : Option Packet :=
  let h := leAt b 0 7
  match hdrBlocks (h % 16) with
  | none => none
  | some k =>
    let len := bitsOf h 24 16
    if bitsOf h 6 2 ≠ 0 ∨ bitsOf h 19 5 ≠ 0 ∨ 16384 < len ∨ b.length ≠ 7 + 8 * (k + (len + 7) / 8) then none
    else
      let p : Packet :=
        { ptype := h % 16, loc := bitAt h 4, bcast := bitAt h 5, ep := bitsOf h 8 11, tspec := bitsOf h 40 16,
          hdr := (List.range k).map (fun i => leAt b (7 + 8 * i) 8), payload := (b.drop (7 + 8 * k)).take len }
      if packetFieldsOk p && !p.bcast then some p else none

/-- Bytes of the ingest buffer in use, and of the buffer of other packets (R257). -/
def State.ingestUsed (s : State) (f : Nat) : Nat :=
  let l := s.linkOf f
  ((l.inbox.filter (·.ptype == 1)).map (·.payload.length)).sum + ((l.asm ++ l.lines).map (·.size)).sum
def State.otherUsed (s : State) (f : Nat) : Nat :=
  (((s.linkOf f).inbox.filter (·.ptype != 1)).map fun p => 16 + 8 * p.hdr.length + p.payload.length).sum

/-- A good packet reaches its buffer (R257); outside UP only HELLO passes (R271). -/
def State.packetIn (s : State) (f : Nat) (p : Packet) : State :=
  let l := s.linkOf f
  let keep := s.setLink f { l with inbox := l.inbox ++ [p] }
  if s.linkState f ≠ 4 ∧ p.ptype ≠ 6 then s
  else if p.ptype = 1 then
    if s.ingestUsed f + p.payload.length ≤ 65536 * s.linkWidth f then
      keep.setMax (R.INGEST_HIGH_BYTES f) (s.ingestUsed f + p.payload.length)
    else (s.discard f 4).raise (R.LINK_STATUS_OVERFLOW f)
  else if s.otherUsed f + (16 + 8 * p.hdr.length + p.payload.length) ≤ 4096 then keep
  else s.damaged f 2

/-- The packet in progress ends damaged. -/
def State.dropPart (s : State) (f : Nat) : State :=
  let l := s.linkOf f
  match l.part with
  | none => s
  | some _ => (s.setLink f { l with part := none, bad := none }).damaged f (l.bad.getD 2)

/-- One block of the stream (R225, R226, R237, R239); `cause` is what a bad block counts as. A bad block outside a packet belongs to a
packet whose START it may have been. -/
def State.blockIn (s : State) (f cause : Nat) (b : Blk) : State :=
  let l := s.linkOf f
  match b with
  | .bad => (s.setLink f { l with part := some (l.part.getD []), bad := some (l.bad.getD cause) }).bumpSat (R.BAD_BLOCK_CNT f)
  | .data x =>
    match l.part with
    | some p => s.setLink f { l with part := some (p ++ leBytes 8 x) }
    | none => s
  | .ctl 1 x =>
    let s := s.dropPart f
    s.setLink f { s.linkOf f with part := some (leBytes 7 x), bad := none }
  | .ctl 2 x =>
    match l.part with
    | none => s
    | some p =>
      match (if l.bad = none ∧ x = crc32 p then parsePacket p else none) with
      | some pk => (s.setLink f { l with part := none }).packetIn f pk
      | none => s.dropPart f
  | .ctl _ _ => s

/-- A codeword after decoding (R230, R236): counters, then its blocks. -/
def State.codeword (s : State) (f : Nat) (blocks : List Blk) (cause : Nat) : State :=
  s.forList blocks fun b s => s.blockIn f cause b

/-- The codeword that the bits of the link's lanes form, in the order of their markers (R222, R229). -/
def State.mergeLanes (s : State) (f : Nat) (bits : List (List Bool)) : List Nat :=
  laneMerge (s.linkWidth f) ((List.range (s.linkWidth f)).map fun k =>
    (((s.linkLanes f).zip bits).find? fun (l, _) => s.get (R.LL_STATUS_LOGICAL l) == k).elim [] Prod.snd)

/-- The link takes codewords: aligned, or beyond ALIGN (R271, R272). -/
def State.takesCodewords (s : State) (f : Nat) : Bool := decide (3 ≤ s.linkState f) || (s.linkState f == 2 && (s.linkOf f).aligned)

/-- What the codeword decoder counts: corrected codewords and symbols, and uncorrectable codewords (R230). -/
def State.fecCount (s : State) (f : Nat) (dec : Option (Nat × List Nat)) : State :=
  match dec with
  | none => s.bumpSat (R.LINK_FEC_UNCORR_CNT f)
  | some (k, _) => if k = 0 then s else (s.bumpSat (R.FEC_CORR_CW_CNT f)).bumpSat (R.FEC_CORR_SYM_CNT f) k

/-- What the elastic buffer does: `ins` and `del` FILL blocks inserted and deleted, and whether it slips (R236). -/
def State.elastic (s : State) (f ins del : Nat) (slip : Bool) : State :=
  let s := (s.bump (R.FILL_INS_CNT f) ins).bump (R.FILL_DEL_CNT f) del
  if slip then
    let k := s.linkOf f
    (s.setLink f { k with bad := if k.part = none then none else some (k.bad.getD 2) }).raise (R.LINK_STATUS_EB_SLIP f)
  else s

/-- What a codeword does to a link in ALIGN, or to its blocks, descrambled with `seq`, in a state past it; it is number `n` after the markers
(R228, R230, R272). -/
def State.codewordTo (s : State) (f n seq : Nat) (dec : Option (Nat × List Nat)) : State :=
  match dec with
  | none =>
    let s := s.codeword f (List.replicate 80 .bad) 1
    if s.linkState f = 2 then s.setLink f { s.linkOf f with aligned := false }
    else if 64 ≤ (s.linkOf f).uncorr then s.linkFall f 2 else s
  | some (_, cw) =>
    if s.linkState f = 2 then (if n = 8 then s.linkHello f else s)
    else
      let x := bitNat ((cw.take 514).flatMap (bitList 10)) ^^^ seq
      s.codeword f ((List.range 20).flatMap fun i => trans257 (bitsOf x (257 * i) 257)) 2

/-- A codeword as the decoder leaves it (R228, R230, R236, R272): `dec` has the corrected symbols and the codeword, or is none for an uncorrectable
one; `ins` and `del` are the FILL blocks that the elastic buffer inserts and deletes, and `slip` says that it slips. -/
def State.codewordIn (s : State) (f : Nat) (dec : Option (Nat × List Nat)) (ins del : Nat) (slip : Bool) : State :=
  let l := s.linkOf f
  let z := scrBits 5140 0 (if l.since % 16384 = 0 then 2 ^ 58 - 1 else l.scr) 0
  let s := s.setLink f { l with since := l.since + 1, scr := z.2, uncorr := if dec = none then l.uncorr + 1 else 0 }
  ((s.fecCount f dec).elastic f ins del slip).codewordTo f (l.since + 1) z.1 dec

/-- BIP-8 of a receiver goes on over bits (R231). -/
def State.laneBip (s : State) (l : Nat) (bits : List Bool) : State := s.setLane l { s.laneOf l with rxBip := bip8 (s.laneOf l).rxBip bits }

/-- The bits that the lanes of a link bring to a codeword: a lane in a near-end loopback takes no part of those that arrive, `bits`, but brings
what it has heard last from itself (R203, R204). -/
def State.linkBits (s : State) (f : Nat) (bits : List (List Bool)) : List (List Bool) :=
  ((s.linkLanes f).zip bits).map fun (l, b) => if s.laneLooped l then (s.laneOf l).heard else b

/-- Bits of a codeword arrive on the link's lanes (R198, R229 to R231). -/
def State.lanesIn (s : State) (f : Nat) (bits : List (List Bool)) (ins del : Nat) (slip : Bool) : State :=
  let got := s.linkBits f bits
  let s := s.forList (((s.linkLanes f).zip bits).filter fun (l, _) => !s.laneLooped l) fun (l, b) s => s.laneBip l b
  if s.takesCodewords f then s.codewordIn f (rsDecode (s.mergeLanes f got)) ins del slip else s

/-- The symbols decided on the lanes of a link for the arriving levels of one codeword, lane after lane in physical order. -/
def State.rxSyms (s : State) (f rx : Nat) : List (List Nat) :=
  let n := 5440 / s.linkWidth f
  (s.linkLanes f).zipIdx.map fun (l, i) => s.laneDecide l (symsOf (s.laneNrz l) n (bitsOf rx (n * i) n))

/-- The bits that they spell, after one symbol of each lane before them. -/
def State.rxLanes (s : State) (f prev rx : Nat) : List (List Bool) :=
  (((s.linkLanes f).zip (s.rxSyms f rx)).zipIdx).map fun (x, i) => s.arrived x.1 (bitsOf prev (2 * i) 2) x.2

/-- CODEWORD_DECODE (R222, R228 to R230, R236, R272): the levels of one codeword arrive on the lanes of the link at F, named by the symbols they
stand for, lane after lane in physical order, and the level before them on each lane; `ins`, `del` and `slip` say what the elastic buffer does. A link whose lanes are all in a near-end
loopback does not hear its balls (R204). The operands: assumption 116. -/
def execCodewordDecode (f : Fin 32) (prev : BitVec 16) (rx : BitVec 5440) (ins del : Nat) (slip : Bool) (s : State) : Host.Outcome State Fault Refusal :=
  .next <|
    if (s.linkLanes f).all s.laneLooped then s
    else
      (s.forList (((s.linkLanes f).zip (s.rxSyms f rx.toNat)).filter fun (l, _) => !s.laneLooped l) fun (l, x) s => s.laneTook l x).lanesIn f (s.rxLanes f prev.toNat rx.toNat) ins del slip

/-! ## Handling packets -/

/-- The first packet that waits on a link and has a property, and the state without it. -/
def State.takePacket (s : State) (f : Nat) (q : Packet → Bool) : Option (Packet × State) :=
  let l := s.linkOf f
  match l.inbox.find? q with
  | some p => some (p, s.setLink f { l with inbox := l.inbox.erase p })
  | none => none

/-- The endpoint's unit lets an upstream packet pass (R655). -/
def State.epPasses (s : State) (e : Nat) : Bool := s.permit (epUnit e)

/-- A response (R246 to R248): its request completes, and an item reaches the message FIFO. -/
def State.response (s : State) (f : Nat) (p : Packet) (kind : Nat) : State :=
  match s.sourceEp f p with
  | none => s
  | some e =>
    let x := s.epOf e
    if bitAt p.tspec 11 ≠ x.epoch ∨ x.resetting then s.bumpSat (R.STALE_RSP_CNT_CNT f)
    else
      match x.out.find? (fun r => r.tag == p.tspec % 256) with
      | none => s
      | some r =>
        if !r.purpose.skep && !s.epPasses e then s
        else
          let s := s.setEp e { x with out := x.out.erase r }
          let s := s.mfPush e kind (bitsOf p.tspec 12 4) r.tag r.purpose.skep r.epoch p.payload.length
            (bitsOf (p.hdr.headD 0) 0 32 :: wordsOf p.payload)
          s.ctrlDone e r (bitsOf p.tspec 12 4) (wordsOf p.payload)

def isCtrl (op : Nat) (p : Packet) : Bool := p.ptype == 2 && bitsOf p.tspec 8 3 == op

/-- RDATA (R246). -/
def execRdata (f : Fin 32) (s : State) : Host.Outcome State Fault Refusal :=
  .next (match s.takePacket f (isCtrl 2) with | some (p, s) => s.response f p 1 | none => s)

/-- WACK (R246). -/
def execWack (f : Fin 32) (s : State) : Host.Outcome State Fault Refusal :=
  .next (match s.takePacket f (isCtrl 3) with | some (p, s) => s.response f p 2 | none => s)

/-- MSG (R246, R307). -/
def execMsg (f : Fin 32) (s : State) : Host.Outcome State Fault Refusal :=
  .next <|
    match s.takePacket f (isCtrl 4) with
    | none => s
    | some (p, s) =>
      match s.sourceEp f p with
      | none => s
      | some e =>
        if s.epPasses e then
          s.mfPush e 3 (bitsOf p.tspec 12 4) 0 false (bitAt p.tspec 11) p.payload.length
            (bitsOf (p.hdr.headD 0) 0 32 :: wordsOf p.payload)
        else s

/-- HEAD_EVENT (R249, R307). -/
def execHeadEvent (f : Fin 32) (s : State) : Host.Outcome State Fault Refusal :=
  .next <|
    match s.takePacket f (·.ptype == 3) with
    | none => s
    | some (p, s) =>
      match s.sourceEp f p with
      | none => s
      | some e =>
        if s.epPasses e then
          let code := p.tspec % 256
          let h := p.hdr.headD 0
          let s := s.mfPush e 4 0 0 false false p.payload.length
            (code :: bitsOf h 0 32 :: bitsOf h 32 32 :: wordsOf p.payload)
          s.publish (R.EVT_HEAD_SEL f) 0x40 (code + e * 256 + 0x2 * 2 ^ 20)
        else s

/-- CREDIT (R247, R248). -/
def execCredit (f : Fin 32) (s : State) : Host.Outcome State Fault Refusal :=
  .next <|
    match s.takePacket f (·.ptype == 5) with
    | none => s
    | some (p, s) =>
      match s.sourceEp f p with
      | none => s
      | some e =>
        let x := s.epOf e
        let full := s.get (R.EP_INFO_CREDITS e) + 1
        if bitAt p.tspec 8 ≠ x.epoch then s.bumpSat (R.STALE_RSP_CNT_CNT f)
        else if bitAt p.tspec 9 then
          if x.resetting then (s.setEp e { x with credits := full, resetting := false }).ctrlPump e else s
        else if x.resetting then s
        else (s.setEp e { x with credits := min full (x.credits + p.tspec % 256) }).ctrlPump e

/-- CTRL_TIMEOUT (R248): the oldest request with this TAG goes unanswered, sent or still waiting for a credit. -/
def execCtrlTimeout (e : Fin 2048) (tag : BitVec 8) (s : State) : Host.Outcome State Fault Refusal :=
  .next <|
    let x := s.epOf e
    match (x.out ++ x.wait).find? (fun r => r.tag == tag.toNat) with
    | none => s
    | some r =>
      let x := if x.out.contains r then { x with out := x.out.erase r } else { x with wait := x.wait.erase r }
      let s := ((s.setEp e x).bumpSat (R.CTRL_TIMEOUT_CNT_CNT (s.epLink e))).epochReset e
      let s := s.mfPush e 5 8 r.tag r.purpose.skep r.epoch 0 [r.addr]
      s.ctrlDone e r 8 []

/-- An epoch reset for every endpoint of a link (R248). -/
def State.creditReset (s : State) (f : Nat) : State := s.forList (s.epsOn f) fun e s => s.epochReset e

/-- CREDIT_RESET (R248): a write of LINK_CTRL with the bit set; WIDTH changes only while the unit is OFF (R275). -/
def execCreditReset (who : Who) (f : Fin 32) (v : Word) (s : State) : Host.Outcome State Fault Refusal :=
  .next <| s.viaBus who fun s =>
    let f := f.val
    let w := s.get (R.LINK_CTRL_WIDTH f)
    let off := s.unitOff (linkUnit f)
    let s := s.writeReg (R.LINK_CTRL f) v
    let s := if off then s else s.set (R.LINK_CTRL_WIDTH f) w
    (if bitAt v.toNat 4 then s.creditReset f else s)

/-! ## Link delay and positions -/

/-- ECHO_RSP (R267): `t4` is the arrival of the response's START block, in 0.25 ns on the scale of the request's departure. -/
def execEchoRsp (f : Fin 32) (t4 : Nat) (s : State) : Host.Outcome State Fault Refusal :=
  .next <|
    match s.takePacket f (fun p => p.ptype == 4 && bitsOf p.tspec 0 4 == 3) with
    | none => s
    | some (p, s) =>
      let l := s.linkOf f
      let h := p.hdr.headD 0
      match l.echoSent.find? (·.1 == bitsOf h 0 16) with
      | some (id, t1) =>
        -- twice the delay, so that the median and its rounding are exact
        let d : Nat := t4 - t1 - bitsOf h 16 32
        let delays := (d :: l.delays).take 8
        let m := median (delays.map fun (x : Nat) => (2 * x : Int))
        let s := s.setLink f { l with delays := delays, echoSent := l.echoSent.erase (id, t1) }
        let s := (s.set (R.LINK_DELAY_DELAY f) (divRound m 4).toNat).raise (R.LINK_DELAY_VALID f)
        s.trigRefresh f
      | none => s

/-- ECHO_REQ_TIMER (R267): `t1` is the departure of the request, in 0.25 ns. -/
def execEchoReqTimer (f : Fin 32) (t1 : Nat) (s : State) : Host.Outcome State Fault Refusal :=
  .next (if s.linkState f = 4 && s.on (R.LINK_CTRL_ECHO_EN f) then s.sendEcho f t1 else s)

/-- TIME_POS_TIMER (R250, R253). -/
def execTimePosTimer (f : Fin 32) (s : State) : Host.Outcome State Fault Refusal :=
  .next <|
    if s.linkState f = 4 && s.on (R.TIME_POS_CFG_PERIOD f) && s.on (R.PARTNER_CAP_TIME_POS f) then
      let v := s.get (R.TIME_POS_CFG_VIEW f)
      s.sendLink f { ptype := 4, bcast := true, tspec := 0, hdr := [s.viewPos v + v * 2 ^ 56, s.timeNs] }
    else s

/-! ## HELLO and rate agreement -/

/-- HELLO is complete once one with ACK has been sent and one received, with a common version (R252, R272). -/
def State.helloDone (s : State) (f : Nat) : State :=
  let l := s.linkOf f
  if s.linkState f = 3 && l.ackIn && l.ackOut && l.common != 0 then s.linkUp f else s

/-- HELLO (R251 to R254); `vendor` and `serial` are the identity by which Skep knows a returning partner (R279). -/
def execHello (f : Fin 32) (vendor : BitVec 32) (serial : BitVec 64) (s : State) : Host.Outcome State Fault Refusal :=
  .next <|
    let f := f.val
    match s.takePacket f (·.ptype == 6) with
    | none => s
    | some (p, s) =>
      let b (i : Nat) := leAt p.payload i 1
      let s := s.setReg (R.PARTNER_CAP f)
        (BitVec.ofNat 32 (b 3 % 4 + b 4 % 16 * 4 + b 5 % 4 * 64 + b 6 * 256))
      let s := (s.set (R.PARTNER_LAT_MIN_LAUNCH f) (leAt p.payload 8 2)).set (R.PARTNER_LAT_NOMINAL_LAT f) (leAt p.payload 10 2)
      let s := s.set (R.PARTNER_RES_MAX_RES f) (leAt p.payload 12 2)
      if s.linkState f = 4 then
        let r := b 14
        let s := if bitAt r 3 then s.raise (R.RATE_AGREE_ACCEPTED f) else s
        let s := if bitAt r 4 then s.raise (R.RATE_AGREE_REFUSED f) else s
        s.trigRefresh f
      else
        let l := s.linkOf f
        let common := b 0 % 4
        let s := s.setLink f { l with heard := true, ackIn := l.ackIn || bitAt p.tspec 0, common := common,
                                      vendor := vendor.toNat, serial := serial.toNat }
        if common = 0 then ((s.trigRefresh f).raise (R.LINK_STATUS_VER_ERR f)).publishLink f 2
        else
          let major := if bitAt common 1 then 2 else 1
          -- the device's minor versions are 0 (R251), so the lower is 0
          let s := (s.set (R.LINK_STATUS_VER_MAJOR f) major).set (R.LINK_STATUS_VER_MINOR f) 0
          (s.trigRefresh f).helloDone f

/-- HELLO_TIMER (R252): in HELLO state the device sends HELLO until one with ACK has been sent and one received. -/
def execHelloTimer (f : Fin 32) (s : State) : Host.Outcome State Fault Refusal :=
  .next (if s.linkState f = 3 && !((s.linkOf f).ackIn && (s.linkOf f).ackOut) then (s.sendHello f (s.linkRate f)).helloDone f else s)

/-- PROPOSE (R254): a write of RATE_AGREE. -/
def execPropose (who : Who) (f : Fin 32) (v : Word) (s : State) : Host.Outcome State Fault Refusal :=
  .next <| s.viaBus who fun s =>
    let f := f.val
    let s := s.writeReg (R.RATE_AGREE f) v
    if bitAt v.toNat 2 && s.linkState f == 4 then
      ((s.clear (R.RATE_AGREE_ACCEPTED f)).clear (R.RATE_AGREE_REFUSED f)).sendHello f (bitsOf v.toNat 0 2 + 4)
    else s

/-! ## Hub packets -/

/-- The top hub of a link. -/
def State.hubOf (s : State) (f : Nat) : Option Nat :=
  (s.epsOn f).find? fun e => s.on (R.EP_INFO_IS_HUB e) && s.get (R.EP_INFO_SLOT e) == 0 && s.epState e != 3

/-- PORT_STATUS (R255, R284, R289): `vendor` and `serial` are the identity by which Skep knows a returning endpoint (R279). -/
def execPortStatus (f : Fin 32) (vendor : BitVec 32) (serial : BitVec 64) (s : State) : Host.Outcome State Fault Refusal :=
  .next <|
    let f := f.val
    match s.takePacket f (fun p => p.ptype == 7 && p.tspec % 16 == 0) with
    | none => s
    | some (p, s) =>
      let h := p.hdr.headD 0
      let slot := bitsOf h 0 6
      let held := (s.epsOn f).find? fun e => s.get (R.EP_INFO_SLOT e) == slot && s.on (R.EP_INFO_BEHIND_HUB e) && s.epState e != 3
      if slot = 0 then s
      else if bitAt h 6 then
        match held, s.hubOf f with
        | some e, _ =>
          let s := (s.set (R.EP_PATH_BUDGET e) (bitsOf h 16 16)).setFlag (R.EP_INFO_DET_TRIG e) (bitAt h 7)
          ((s.set (R.EP_INFO_CREDITS e) (bitsOf h 9 4)).setFlag (R.EP_INFO_IS_HUB e) (bitAt h 8)).trigRefresh f
        | none, some hub =>
          let s := { s with enrolQ := s.enrolQ.filter fun n => !(n.link == f && n.slot == slot) }
          s.enrolAdd { order := (s.linkOf f).upOrder, slot := slot, link := f, hub := some hub, isHub := bitAt h 8,
                       detTrig := bitAt h 7, credits := bitsOf h 9 4 + 1, budget := bitsOf h 16 16, nominal := 0,
                       vendor := vendor.toNat, serial := serial.toNat }
        | none, none => s
      else
        let s := { s with enrolQ := s.enrolQ.filter fun n => !(n.link == f && n.slot == slot) }
        match held with
        | some e => (s.epLost e 1).enrolEnd e
        | none => s

/-- DROP (R256): a LOSS record of cause HUB_DROP; the range it tells of is not missed again. -/
def execDrop (f : Fin 32) (s : State) : Host.Outcome State Fault Refusal :=
  .next <|
    match s.takePacket f (fun p => p.ptype == 7 && p.tspec % 16 == 3) with
    | none => s
    | some (p, s) =>
      let h := p.hdr.getD 0 0
      let first := bitsOf h 16 32
      let last := bitsOf (p.hdr.getD 1 0) 0 32
      match s.descs.find? fun d => s.running d && s.get (R.SD_BIND_EP d) == bitsOf h 0 11 && s.get (R.SD_BIND_STREAM d) == bitsOf h 12 4 with
      | none => s
      | some d =>
        let s := s.lossLink f d 6 first last
        let x := s.streamOf d
        if x.expect = some first then s.setStream d { x with expect := some ((last + 1) % 2 ^ 32) } else s

/-! ## Triggers -/

def State.trigOf (s : State) (f i : Nat) : TrigIn := Tbl.get {} (s.linkOf f).trig i
def State.setTrig (s : State) (f i : Nat) (t : TrigIn) : State :=
  s.setLink f { s.linkOf f with trig := Tbl.put {} (s.linkOf f).trig i t }

/-- A trigger input acts on a delivered event (R259, R260, R270). -/
def State.trigAct (s : State) (f i : Nat) (e : Event) : State :=
  if !s.on (R.TRIG_CTRL_EN f i) then s
  else if s.linkState f ≠ 4 ∨ !s.on (R.LINK_DELAY_VALID f) then s.bumpSat (R.TRIG_DOWN_CNT_CNT f i)
  else
    let t := s.trigOf f i
    if t.wait ≠ none then (s.raise (R.TRIG_STATUS_OVERRUN f i)).bumpSat (R.TRIG_OVR_CNT_CNT f i)
    else
      let q : TrigReq :=
        { seq := s.get (R.TRIG_SEQ_SEQ f i),
          pset := if e.req.action = 2 then e.req.width % 256 else s.get (R.TRIG_CTRL_DEF_PSET f i),
          pos := e.req.views.getD (s.get (R.TRIG_CTRL_VIEW f i)) 0, clk := s.clk, req := e.clk - 1 - e.age }
      (s.setTrig f i { t with wait := some q }).bump (R.TRIG_SEQ_SEQ f i)

/-- Delivery to the trigger inputs. -/
def State.deliverTriggers (s : State) (e : Event) : State :=
  s.forEach 32 fun f s => s.forEach 8 fun i s =>
    s.deliver e [R.TRIG_SUB_SEL f i] (·.trigAct f i e)
      (fun s => if s.on (R.TRIG_CTRL_EN f i) then s.bumpSat (R.TRIG_COINC_CNT_CNT f i) else s)

/-- The CRC-12 of a TRIG payload (R261, R781), bit by bit from bit `i` on. -/
def crc12Go (x : Nat) : Nat → Nat → Nat → Nat
  | 0, _, c => c
  | n + 1, i, c =>
    let fb := (x / 2 ^ i % 2 + c / 2 ^ 11 % 2) % 2
    let c := c * 2 % 4096
    crc12Go x n (i + 1) (if fb = 1 then c ^^^ 0x80F else c)
def crc12 (x : Nat) : Nat := crc12Go x 44 0 0xFFF

/-- The payload of a TRIG block (R261). -/
def trigPayload (group pset seq launch : Nat) : Nat :=
  let x := group % 256 + pset % 256 * 2 ^ 8 + seq % 4096 * 2 ^ 16 + launch % 2 ^ 14 * 2 ^ 28
  x + crc12 x * 2 ^ 44

/-- t_tgt of a held TRIG block after t_req, in 0.25 ns (R263). -/
def State.trigTarget (s : State) (f i : Nat) : Int :=
  4 * s.get (R.TRIG_LAT_NS f i) - s.get (R.LINK_DELAY_DELAY f) - s.get (R.PARTNER_LAT_NOMINAL_LAT f)

/-- The event clock in which the TRIG block of an input is queued: that of its delivery, or of t_tgt where the block is held (R261, R263;
assumption 121). -/
def State.trigQueued (s : State) (f i : Nat) (q : TrigReq) : Nat :=
  if s.detTrig f then q.clk else max q.clk ((16 * (q.req : Int) + s.trigTarget f i) / 16).toNat

/-- A lower-numbered input has a TRIG block queued in the same clock, which leaves first (R261). -/
def State.trigBehind (s : State) (f i : Nat) (q : TrigReq) : Bool :=
  (List.range i).any fun j => (s.trigOf f j).wait.any fun p => s.trigQueued f j p == s.trigQueued f i q

/-- Block time of a link in 0.25 ns, rounded up: 68 bits with their share of parity. -/
def State.blockTime (s : State) (f : Nat) : Nat :=
  let kbit := match s.linkRate f with | 0 => 28125000 | 1 => 56250000 | _ => 10312500
  ceilDiv (68 * 4000000) (kbit * s.linkWidth f)

/-- TRIG_LAUNCH (R261 to R264): the TRIG block of input `i` is committed. `tx` is t_tx − t_req in 0.25 ns, `bnd` a block boundary in 0.25 ns after
t_req: the first at or after t_tgt lies whole block times from it (R263; assumption 121). A block that is held, or stands behind another, is not committed yet. -/
def execTrigLaunch (f : Fin 32) (i : Fin 8) (tx bnd : Nat) (s : State) : Host.Outcome State Fault Refusal :=
  .next <|
    let f := f.val
    let i := i.val
    let t := s.trigOf f i
    match t.wait with
    | none => s
    | some q =>
      let det := s.detTrig f
      let tgt := s.trigTarget f i
      if s.trigBehind f i q || (!det && decide ((tx : Int) < tgt)) then s
      else
      let group := s.get (R.TRIG_CTRL_GROUP f i)
      let floor := s.launchFloor f group
      let raw : Int := 4 * s.get (R.TRIG_LAT_NS f i) - tx - s.get (R.LINK_DELAY_DELAY f)
      let launch : Nat := if det then (if raw < floor then floor else raw.toNat) else 0
      let bnd : Int := tgt + ((bnd : Int) - tgt) % s.blockTime f
      let late : Nat := if det then (floor - raw).toNat else (tx - bnd).toNat
      let late := min late 65535
      let s := s.setTrig f i { wait := none, recs := (⟨q.seq, q.pos, late, q.pset⟩ :: t.recs).take 4096 }
      let pay := trigPayload group q.pset q.seq launch
      let l := s.linkOf f
      let s := (s.setLink f { l with tx := { l.tx with trigs := l.tx.trigs ++ [pay] } }).emit (.trig f pay tx)
      let s := s.sendLink f { ptype := 4, tspec := 1, hdr := [q.pos + group * 2 ^ 56, q.seq + late * 2 ^ 16] }
      if late = 0 then s else (s.raise (R.TRIG_STATUS_LATE f i)).bumpSat (R.TRIG_LATE_CNT_CNT f i)

/-- TRIG_CTRL_WRITE (R269): GROUP and VIEW change only while EN was 0; EN is refused with BUDGET_ERR. The MIN_LAT tested is that with the members
that the input's group has once EN is 1 (R262, R301). -/
def execTrigCtrlWrite (who : Who) (f : Fin 32) (i : Fin 8) (v : Word) (s : State) : Host.Outcome State Fault Refusal :=
  .next <| s.viaBus who fun s =>
    let f := f.val
    let i := i.val
    let was := s.on (R.TRIG_CTRL_EN f i)
    let old := (s.reg (R.TRIG_CTRL f i)).toNat
    let s := s.writeReg (R.TRIG_CTRL f i) v
    let s := if was then (s.set (R.TRIG_CTRL_GROUP f i) (bitsOf old 8 8)).set (R.TRIG_CTRL_VIEW f i) (bitsOf old 24 3) else s
    let s := if s.on (R.TRIG_CTRL_EN f i) && !was &&
        (s.linkState f != 4 || !s.on (R.LINK_DELAY_VALID f) || decide (s.get (R.TRIG_LAT_NS f i) < ({ s with groups := s.groupsDue }).minLat f i)) then
        (s.clear (R.TRIG_CTRL_EN f i)).raise (R.TRIG_STATUS_BUDGET_ERR f i)
      else s
    let s := s.groupUpdate
    (s.trigRefresh f)

/-! ## Streams -/

/-- Samples of a row from its packed bytes (R298): `n` samples of `bits` bits, least significant first. -/
def unpackRow (fmt n : Nat) (row : List Byte) : List Nat :=
  match fmt with
  | 0 => (List.range n).map fun i => leAt row i 1
  | 1 => let x := leNat row; (List.range n).map fun i => bitsOf x (10 * i) 10
  | 2 => let x := leNat row; (List.range n).map fun i => bitsOf x (12 * i) 12
  | 3 => (List.range n).map fun i => leAt row (2 * i) 2
  | 4 => (List.range n).map fun i => leAt row (2 * i) 2 % 1024
  | _ => (List.range n).map fun i => leAt row (2 * i) 2 % 4096

/-- The pixels of a row, each with its components, from its samples in link order (R297). -/
def rowPixels (count comps : Nat) (planar : Bool) (samples : List Nat) : List (List Nat) :=
  (List.range count).map fun p => (List.range comps).map fun c =>
    samples.getD (if planar then c * count + p else p * comps + c) 0

/-- LOSS on a stream for the lines from the expected one to the one before `line`; the expectation follows it (R244), and lines before it that are
partly assembled are dropped: their range is closed (R783). -/
def State.lineArrives (s : State) (d line : Nat) : State :=
  let x := s.streamOf d
  let f := s.descLink d
  let s := match x.expect with
    | none => s
    | some e =>
      if 0 < signed 32 (unsigned 32 ((line : Int) - e)) then s.lossLink f d (s.lossCause d) e (unsigned 32 ((line : Int) - 1)) else s
  let s := s.setStream d { expect := some ((line + 1) % 2 ^ 32), high := none, discards := (s.linkOf f).discards }
  let again := match x.expect with | some e => decide (signed 32 (unsigned 32 ((line : Int) - e)) < 0) | none => false
  let l := s.linkOf f
  -- a line before the good one can no longer end, nor any line of a numbering that has restarted
  let s := s.setLink f { l with asm := l.asm.filter fun y =>
    y.desc != d || (!again && decide (0 < signed 32 (unsigned 32 ((y.line : Int) - line)))) }
  s.set (R.SD_LAST_LINE_LINE d) line

/-- A trigger record by SEQ (R259). -/
def State.trigRec (s : State) (d seq : Nat) : Option TrigRec :=
  (s.trigOf (s.descLink d) (s.get (R.SD_BIND_TRIG_IN d))).recs.find? (·.seq == seq)

/-- A line has arrived whole: its checks against the view and its position (R302, R244, R245), then the raw ring (R371) and
conditioning. -/
def State.lineDone (s : State) (d : Nat) (l : Line) (payload : List Byte) : State :=
  let f := s.descLink d
  let s := s.lineArrives d l.line
  if !s.unitOn (viewUnit (s.get (R.SD_BIND_VIEW d))) then s.bumpSat (R.SD_VIEW_OFF_CNT_CNT d)
  else
    let placed : Option Line :=
      if l.posValid then some l
      else match s.trigRec d l.seq with
        | some r => some { l with trigPos := r.pos, expLate := min 65535 (l.expLate + r.devLate) }
        | none => none
    match placed with
    | none => s.lossLink f d 7 l.line l.line
    | some l =>
      let s := s.rawWrite d l.trigPos l.line l.seq l.expLate payload
      s.setLink f { s.linkOf f with lines := (s.linkOf f).lines ++ [l] }

/-- A STREAM packet that breaks the geometry of its descriptor (R243, R302): damaged, with the line's other segments. -/
def State.geomBad (s : State) (f d line : Nat) : State :=
  let l := s.linkOf f
  let s := s.setLink f { l with asm := l.asm.filter fun x => !(x.desc == d && x.line == line) }
  (s.damaged f 2).bumpSat (R.SD_GEOM_CNT_CNT d)

/-- The rows of an assembled line with a segment added: pixels appended to the rows from `row` on. -/
def addRows (rows : List (List (List Nat))) (row : Nat) (seg : List (List (List Nat))) : List (List (List Nat)) :=
  let n := max rows.length (row + seg.length)
  (List.range n).map fun i => rows.getD i [] ++ (if row ≤ i then seg.getD (i - row) [] else [])

/-- A segment of a running stream joins its line (R242, R243). -/
def State.segment (s : State) (f d : Nat) (p : Packet) : State :=
  let h (i : Nat) := p.hdr.getD i 0
  let line := bitsOf (h 1) 0 32
  let off := bitsOf (h 2) 0 16
  let count := bitsOf (h 2) 16 16
  let row := bitsOf (h 2) 32 16
  let rows := bitsOf (h 2) 48 16
  let width := s.get (R.SD_GEOM_WIDTH d)
  let tile := s.on (R.SD_CTRL_TILE d)
  let rb := s.rowBytes d count
  if count = 0 ∨ 32768 < count ∨ width < off + count ∨ (if tile then rows = 0 ∨ s.descRows d < row + rows else rows ≠ 1 ∨ row ≠ 0) ∨
      bitAt p.tspec 4 ≠ tile ∨ p.payload.length ≠ rows * rb then
    s.geomBad f d line
  else
    let l := s.linkOf f
    let old := l.asm.find? fun y => y.desc == d && y.line == line
    let held := old.elim [] Line.rows
    let last := bitAt p.tspec 7
    -- rows of the tile that are complete without this segment
    let whole (i : Nat) : Bool := (decide (row ≤ i ∧ i < row + rows)) || (held.getD i []).length == width
    if (List.range rows).any (fun i => (held.getD (row + i) []).length != off) ∨
        (last ∧ (off + count < width ∨ !(List.range (s.descRows d)).all whole)) then s.geomBad f d line
    else
      let x := s.streamOf d
      let higher := match x.high with | some y => decide (0 < signed 32 (unsigned 32 ((line : Int) - y))) | none => true
      let s := if higher then s.setStream d { x with high := some line } else s
      let c := s.descComps d
      let px := (List.range rows).map fun i =>
        rowPixels count c (s.on (R.SD_FORMAT_LAYOUT d)) (unpackRow (s.get (R.SD_FORMAT_FMT d)) (count * c) ((p.payload.drop (i * rb)).take rb))
      let base : Line := old.getD
        { desc := d, line := line, seq := (bitsOf (h 1) 32 12), trigPos := bitsOf (h 0) 0 56, posValid := bitAt p.tspec 5,
          short := bitAt p.tspec 6, tile := tile, expLate := bitsOf (h 1) 48 16 }
      let y : Line := { base with rows := addRows base.rows row px, size := base.size + p.payload.length, bytes := base.bytes ++ p.payload,
                                  short := base.short || bitAt p.tspec 6 }
      let rest := l.asm.filter fun z => !(z.desc == d && z.line == line)
      if last then
        let s := s.setLink f { l with asm := rest }
        s.lineDone d y y.bytes
      else s.setLink f { l with asm := rest ++ [y] }

/-- STREAM_RX (R242 to R245, R302). -/
def execStreamRx (f : Fin 32) (s : State) : Host.Outcome State Fault Refusal :=
  .next <|
    let f := f.val
    match s.takePacket f (·.ptype == 1) with
    | none => s
    | some (p, s) =>
      match s.sourceEp f p with
      | none => s.bumpSat (R.NO_EP_CNT_CNT f)
      | some e =>
        if s.epState e ≠ 2 then s.bumpSat (R.UNBOUND_CNT_CNT e)
        else
          match (s.descsOfEp e).find? fun d => s.running d && s.get (R.SD_BIND_STREAM d) == p.tspec % 16 with
          | none => s.bumpSat (R.UNBOUND_CNT_CNT e)
          | some d => if s.epPasses e then s.segment f d p else s

end Sys2Proof.Machine
end

