-- ==== Sys2Proof/Machine/Ling.lean ====
section
/-!
DEFINITION. Ling, the lighting controller (chapter 9): the chain protocol, enrolment, intensities, strobes, diagnosis, dose
and latched faults, for chains 0 to 7.
-/
set_option Elab.async false
namespace Sys2Proof.Machine

/-! ## Records and publications -/

def State.chainOf (s : State) (n : Nat) : Chain := Tbl.get {} s.chains n
def State.setChain (s : State) (n : Nat) (c : Chain) : State := { s with chains := Tbl.put {} s.chains n c }

/-- An event of Ling (R350). -/
def State.publishLing (s : State) (n driver channel kind : Nat) : State :=
  s.publish R.EVT_LING_SEL 0x31 (n + driver % 32 * 8 + channel % 16 * 256 + kind * 2 ^ 12 + 0x5 * 2 ^ 20)

/-- K of the chain. -/
def State.drivers (s : State) (n : Nat) : Nat := s.get (R.LING_CH_STATE_DRIVERS n)

/-- The key of a drive value or code: driver, row, channel (R353). -/
def dKey (d r c : Nat) : Nat := 256 * d + 16 * r + c

/-! ## Identity memory (R328) -/

def crc16Bits : Nat → Nat → Nat
  | 0, c => c
  | k + 1, c => crc16Bits k (if bitAt c 15 then (c * 2 % 65536) ^^^ 0x1021 else c * 2 % 65536)

/-- CRC-16 with x¹⁶ + x¹² + x⁵ + 1 and initial value 0xFFFF, most significant bit first (R328). -/
def crc16 (bs : List Byte) : Nat := bs.foldl (fun c b => crc16Bits 8 (c ^^^ (b.toNat * 256))) 0xFFFF

namespace LHead
def u8 (h : LHead) (a : Nat) : Nat := leAt h.image a 1
def u16 (h : LHead) (a : Nat) : Nat := leAt h.image a 2
def u32 (h : LHead) (a : Nat) : Nat := leAt h.image a 4
def proto (h : LHead) : Nat := h.u8 3
/-- A head that Ling drives as a version 2 head. -/
def v2 (h : LHead) : Bool := h.mode == 0 && h.proto / 16 == 2
/-- Rows of the head: 1 unless it is a version 2 head. -/
def rows (h : LHead) : Nat := if h.v2 then max 1 (min 16 (h.u8 0x1D)) else 1
def matrix (h : LHead) : Bool := h.v2 && bitAt (h.u8 0x1E) 0
def onDelay (h : LHead) : Nat := h.u16 0x20
def tWarn (h : LHead) : Int := signed 8 (h.u8 0x22)
def tMax (h : LHead) : Int := signed 8 (h.u8 0x23)
/-- MAP of channel `c` of driver `d` of the chain. -/
def map (h : LHead) (d c : Nat) : Nat := h.u16 (0x400 + 2 * (16 * (d - h.first) + c))
def emitter (h : LHead) (d c : Nat) : Bool := h.mode != 2 && h.map d c / 2 ^ 14 == 1
def group (h : LHead) (d c : Nat) : Nat := bitsOf (h.map d c) 4 5
def mapRow (h : LHead) (d c : Nat) : Nat := bitsOf (h.map d c) 9 4
def clsAt (h : LHead) (d c : Nat) : Nat := 0x100 + 8 * bitsOf (h.map d c) 0 4
def iCont (h : LHead) (d c : Nat) : Nat := h.u16 (h.clsAt d c)
def iPulse (h : LHead) (d c : Nat) : Nat := h.u16 (h.clsAt d c + 2)
def maxDuty (h : LHead) (d c : Nat) : Nat := h.u16 (h.clsAt d c + 4)
def maxPulse (h : LHead) (d c : Nat) : Nat := h.u16 (h.clsAt d c + 6)
def rated (h : LHead) (g : Nat) : Nat := h.u32 (0x180 + 4 * g)
/-- Byte offset of dose bank 0 or 1. -/
def bankAt (b : Nat) : Nat := if b = 0 then 0x200 else 0x300
/-- The bytes over which a dose bank's CRC is taken: SEQ and the ACC fields. -/
def bankBytes (h : LHead) (b : Nat) : List Byte :=
  (h.image.drop (bankAt b)).take 4 ++ (h.image.drop (bankAt b + 8)).take 128
def bankOk (h : LHead) (b : Nat) : Bool := crc16 (h.bankBytes b) == h.u16 (bankAt b + 4)
def bankSeq (h : LHead) (b : Nat) : Nat := h.u32 (bankAt b)
/-- The valid dose bank. -/
def validBank (h : LHead) : Option Nat :=
  if h.bankOk 0 && h.bankOk 1 then
    some (if 0 < signed 32 (unsigned 32 ((h.bankSeq 1 : Int) - h.bankSeq 0)) then 1 else 0)
  else if h.bankOk 0 then some 0
  else if h.bankOk 1 then some 1
  else none
/-- ACC of a dose group in the valid bank, 0 where there is none (R329). -/
def acc (h : LHead) (g : Nat) : Nat :=
  match h.validBank with
  | some b => h.u32 (bankAt b + 8 + 4 * g)
  | none => 0
/-- Drivers of the chain in the head, and their channels. -/
def channels (h : LHead) : List (Nat × Nat) :=
  (List.range h.drivers).flatMap fun i => (List.range 16).map fun c => (h.first + i, c)
def emitters (h : LHead) : List (Nat × Nat) := h.channels.filter fun (d, c) => h.emitter d c
end LHead

/-- MAGIC, LAYOUT and HDR_CRC are correct. -/
def idHeaderOk (b : List Byte) : Bool :=
  leAt b 0 2 == 0x474C && leAt b 2 1 == 1 && crc16 (b.take 0xFE ++ (b.drop 0x100).take 0x100) == leAt b 0xFE 2

/-- The classification of R329. -/
def idMode (b : List Byte) : Nat :=
  if idHeaderOk b && crc16 ((b.drop 0x400).take 0x400) == leAt b 0xFC 2 then
    if leAt b 3 1 / 16 = 1 ∨ leAt b 3 1 / 16 = 2 then 0 else 1
  else 2

/-- The image of the identity memory reached through driver `d`. -/
def Chain.imageOf (c : Chain) (d : Nat) : List Byte :=
  (List.range 1024).flatMap fun a => leBytes 2 (Tbl.get 0 c.words (1024 * d + a))

/-- The heads of a chain of `k` drivers, walked from driver `d` (R329, R331): drivers that no head's DRIVERS covers are one DARK
head. -/
def Chain.walk (c : Chain) (k : Nat) : Nat → Nat → List LHead
  | 0, _ => []
  | fuel + 1, d =>
    if k ≤ d then []
    else
      let b := c.imageOf d
      let m := leAt b 0x1C 1
      if idHeaderOk b && decide (1 ≤ m ∧ m ≤ 32) then
        { first := d, drivers := min m (k - d), mode := idMode b, image := b } :: c.walk k fuel (d + m)
      else [{ first := d, drivers := k - d, mode := 2, image := b }]

/-- The head of a driver. -/
def Chain.headOf? (c : Chain) (d : Nat) : Option LHead := c.heads.find? fun h => h.first ≤ d && d < h.first + h.drivers

/-! ## Slots (R320, R321, R323) -/

/-- A word with bit 31 making the number of ones odd (R321). -/
def oddParity (x : Nat) : BitVec 32 :=
  let y := x % 2 ^ 31
  BitVec.ofNat 32 (if popCount 31 y % 2 = 0 then y + 2 ^ 31 else y)

/-- A command slot. -/
def cmdSlot (op arg data : Nat) : BitVec 32 := oddParity (op * 2 ^ 28 + arg % 4096 * 2 ^ 16 + data % 65536)

/-- The command of frame `f` for driver `d`. -/
def State.slotFor (s : State) (n : Nat) (f : LFrame) (d : Nat) : BitVec 32 :=
  let c := s.chainOf n
  let v2 := match c.headOf? d with | some h => h.v2 | none => false
  match f with
  | .length => 0
  | .nop => cmdSlot 0 0 0
  | .rdId a => cmdSlot 4 a 0
  | .cfg pre =>
    if v2 then
      if pre then cmdSlot 6 0x100 (4 * s.get (R.CH_TIMING_PRE n))
      else cmdSlot 6 0 ((match c.headOf? d with | some h => h.rows | none => 1) - 1)
    else cmdSlot 0 0 0
  | .wrInt ws =>
    match ws.getD d none with
    | some (r, ch, v) => cmdSlot 1 (r * 256 + ch * 16) v
    | none => cmdSlot 0 0 0
  | .commit | .recommit => cmdSlot 2 0 0
  | .status k => cmdSlot 3 k 0
  | .diag td r ch =>
    if v2 then if d = td then cmdSlot 7 (0x800 + r * 16 + ch) 0 else cmdSlot 7 0 0 else cmdSlot 0 0 0
  | .wrId ws _ =>
    match ws.getD d none with
    | some (a, w) => cmdSlot 5 a w
    | none => cmdSlot 0 0 0

/-- The slots of a frame in the order sent: the slot of the last driver first (R320). The length measurement sends 32 slots of 0, the marker, and
slots of 0 until the marker has come back or 33 of them have passed (R327; assumption 120). -/
def State.slotsOf (s : State) (n : Nat) (f : LFrame) (marker : Option (Fin 33 × Bool)) : List (BitVec 32) :=
  match f with
  | .length =>
    let after' := match marker with | some (k, true) => k.val | some (k, false) => k.val + 1 | none => 33
    List.replicate 32 0 ++ 0xA55A5AA5 :: List.replicate after' 0
  | _ => ((List.range (s.drivers n)).map fun d => s.slotFor n f d).reverse

/-! ## Curves (R332) -/

/-- The drive value of code `x` through the chain's curve, rounded to the nearest integer. -/
def State.curve (s : State) (n x : Nat) : Nat :=
  match s.get (R.LING_CH_CTRL_CURVE n) with
  | 0 => x
  | 1 => bisect (fun d => decide ((2 * d - 1) ^ 5 * 65535 ^ 6 ≤ 32 * x ^ 11)) 16 0
  | 2 => bisect (fun d => decide ((2 * d + 1) ^ 65535 ≤ 2 ^ (16 * x + 65535))) 16 0
  | _ =>
    let u := fun i => Tbl.get 0 (s.chainOf n).curve i
    let i := x / 64
    if 1023 ≤ i then u 1023
    else (divRound ((u i : Int) * 64 + ((u (i + 1) : Int) - u i) * (x % 64 : Nat)) 64).toNat

/-! ## Placing a set (R330, R333, R338, R340) -/

/-- The code of a channel under a function from keys to codes: a segmented head uses row 0 only (R333). -/
def headCode (h : LHead) (code : Nat → Nat) (d r c : Nat) : Nat := code (dKey d (if h.matrix then r else 0) c)

/-- The drive value of a SAFE head's emitter (R330); the spec states none for an I_PULSE of 0 or a result beyond 16 bits. -/
def safeDrive (iCont iPulse : Nat) : Nat :=
  let d := 13107 * iCont / (2 * iPulse)
  if iPulse = 0 ∨ 65535 < d then (Config.unstated 16 330 iCont iPulse).toNat else d

/-- A segment of a segmented head: its MAP row, first driver and channels with their drive values. -/
structure Segment where
  row : Nat
  first : Nat
  chans : List (Nat × Nat × Nat)

/-- A placed set: drive values by key, rows used, and the channels that are overdriven with their MAX_PULSE. -/
structure Placed where
  drive : Tbl Nat
  rowsUsed : Nat
  fits : Bool
  maxPulses : List Nat

/-- The segments of a head, in order of MAP row. -/
def segmentsOf (h : LHead) (drive : Nat → Nat → Nat → Nat) : List Segment :=
  (List.range 16).filterMap fun r =>
    let cs := h.emitters.filter fun (d, c) => h.mapRow d c == r
    if cs.isEmpty then none else some ⟨r, h.first, cs.map fun (d, c) => (d, c, drive d 0 c)⟩

/-- Current of a channel times 65,535, in mA. -/
def current (h : LHead) (d c v : Nat) : Nat := v * h.iPulse d c

/-- The first row from `r` on in which a current fits (R338): only row `r` without STAGGER. -/
def fitRow (load : Nat → Nat) (cur limit : Nat) (stagger : Bool) : Nat → Nat → Option Nat
  | 0, _ => none
  | fuel + 1, r =>
    if 16 ≤ r then none
    else if load r + cur ≤ limit then some r
    else if stagger then fitRow load cur limit stagger fuel (r + 1) else none

/-- Segments placed one after the other: the loads by row, the drive values, and whether all fitted. -/
def placeSegs (limit : Nat) (stagger : Bool) (cur : Segment → Nat) :
    List Segment → List Nat → Tbl Nat → List Nat × Tbl Nat × Bool
  | [], load, drive => (load, drive, true)
  | u :: us, load, drive =>
    match fitRow (fun r => load.getD r 0) (cur u) limit stagger 17 (if stagger then 0 else u.row) with
    | none => (load, drive, false)
    | some r =>
      placeSegs limit stagger cur us (load.set r (load.getD r 0 + cur u))
        (u.chans.foldl (fun t (x : Nat × Nat × Nat) => Tbl.put 0 t (dKey x.1 r x.2.1) x.2.2) drive)

/-- A set of codes placed into rows (R338). -/
def State.place (s : State) (n : Nat) (code : Nat → Nat) : Placed :=
  let c := s.chainOf n
  let limit := s.get (R.CH_BUDGET_BUDGET n) * 10 * 65535
  let drive := fun (h : LHead) d r ch => s.curve n (headCode h code d r ch)
  -- heads that drive row 0 for every pulse: version 1 and SAFE
  let flat := c.heads.filter fun h => h.mode != 2 && !h.v2
  let flatDrive : List (LHead × Nat × Nat × Nat) := flat.flatMap fun h => h.emitters.map fun (d, ch) =>
    (h, d, ch, if h.mode = 1 then safeDrive (h.iCont d ch) (h.iPulse d ch) else drive h d 0 ch)
  let flatLoad := (flatDrive.map fun (h, d, ch, v) => current h d ch v).sum
  let mat := c.heads.filter (·.matrix)
  let matDrive : List (LHead × Nat × Nat × Nat × Nat) := mat.flatMap fun h => (List.range h.rows).flatMap fun r =>
    h.emitters.map fun (d, ch) => (h, d, r, ch, drive h d r ch)
  let load0 := (List.range 16).map fun r =>
    flatLoad + ((matDrive.filter fun x => x.2.2.1 == r).map fun (h, d, _, ch, v) => current h d ch v).sum
  let t0 := flatDrive.foldl (fun t (x : LHead × Nat × Nat × Nat) => Tbl.put 0 t (dKey x.2.1 0 x.2.2.1) x.2.2.2) []
  let t1 := matDrive.foldl (fun t (x : LHead × Nat × Nat × Nat × Nat) => Tbl.put 0 t (dKey x.2.1 x.2.2.1 x.2.2.2.1) x.2.2.2.2) t0
  let segs := (c.heads.filter fun h => h.v2 && !h.matrix).flatMap fun h => segmentsOf h (drive h)
  let segs := sortBy (fun (u : Segment) => (u.row, u.first)) segs
  let cur := fun (u : Segment) => (u.chans.map fun (d, ch, v) => match c.headOf? d with | some h => current h d ch v | none => 0).sum
  let (load, t, ok) := placeSegs limit (s.on (R.LING_CH_CTRL_STAGGER n)) cur segs load0 t1
  let lit := (t.map (·.1)).filter fun k => match c.headOf? (k / 256) with | some h => h.v2 | none => false
  let overs := t.filterMap fun (k, v) =>
    match c.headOf? (k / 256) with
    | some h => if h.mode = 0 ∧ h.iCont (k / 256) (k % 16) * 65535 < current h (k / 256) (k % 16) v
        then some (h.maxPulse (k / 256) (k % 16)) else none
    | none => none
  { drive := t, rowsUsed := max 1 ((lit.map fun k => k / 16 % 16 + 1).foldl max 0),
    fits := ok && load.all (· ≤ limit), maxPulses := overs }

/-- P + O in event clocks (R339). -/
def State.leadClks (s : State) (n : Nat) : Nat :=
  s.get (R.CH_TIMING_PRE n) + ((s.chainOf n).heads.map fun h => (h.onDelay + 3) / 4).foldl max 0

/-- The burst span of `m` rows of width `w` (R339). -/
def State.burstSpan (s : State) (n m w : Nat) : Nat := (m - 1) * (s.leadClks n + w + s.get (R.CH_BURST_ROW_GAP n)) + w

/-- The code of a set, and of step `i` of a ramp of `k` steps towards it (R335). -/
def State.codeOf (s : State) (n set key : Nat) : Nat := Tbl.get 0 (s.chainOf n).codes (set * 8192 + key)
def State.rampCode (s : State) (n : Nat) (m : LCommit) (key : Nat) : Nat :=
  if m.steps = 0 then s.codeOf n m.set key
  else
    let old := s.codeOf n (s.get (R.LING_CH_STATE_ACTIVE_SET n)) key
    let new := s.codeOf n m.set key
    ((old : Int) + (((new : Int) - old) * m.step).tdiv m.steps).toNat

/-- WR_INT frames for the words of each driver: one word of each driver per frame (R334). -/
def wrFrames (words : List (List (Nat × Nat × Nat))) : List LFrame :=
  (List.range ((words.map List.length).foldl max 0)).map fun i => .wrInt (words.map fun l => l[i]?)

/-- The words by which the drivers' shadow differs from a drive table; all words when nothing has been sent yet (R334). -/
def State.wrWords (s : State) (n : Nat) (full : Bool) (t : Tbl Nat) : List (List (Nat × Nat × Nat)) :=
  let c := s.chainOf n
  (List.range (s.drivers n)).map fun d =>
    let rows := match c.headOf? d with | some h => if h.v2 then 16 else 1 | none => 1
    (List.range rows).flatMap fun r => (List.range 16).filterMap fun ch =>
      let k := dKey d r ch
      if full || Tbl.get 0 t k != Tbl.get 0 c.shadow k then some (r, ch, Tbl.get 0 t k) else none

/-- A commit leaves: nothing of it is pending any more. -/
def State.commitEnd (s : State) (n : Nat) : State :=
  (s.setChain n { s.chainOf n with commit := none }).clear (R.LING_CH_STATE_COMMIT_PEND n)

/-- Steps 1 and 2 of R334 for the commit or ramp step `m`: the state, and whether the limits allow it. -/
def State.commitLoad (s : State) (n : Nat) (m : LCommit) : State × Bool :=
  let p := s.place n (s.rampCode n m)
  let w := s.get (R.GEN_CTRL_WIDTH n)
  let rows := if s.on (R.LING_CH_CTRL_BURST n) then p.rowsUsed else 1
  if !p.fits || decide (s.get (R.CH_BURST_BURST_MAX n) < s.burstSpan n rows w) then (s.raise (R.LING_CH_STATUS_BUDGET_ERR n), false)
  else if p.maxPulses.any (· < 4 * w) then (s.raise (R.LING_CH_STATUS_LIMIT n), false)
  else
    let c := s.chainOf n
    let fs := wrFrames (s.wrWords n (!c.sent) p.drive) ++ [.commit]
    let s := s.setChain n { c with
      queue := c.queue ++ fs, shadow := p.drive, sent := true, commit := some { m with rowsUsed := p.rowsUsed } }
    (s.raise (R.LING_CH_STATE_COMMIT_PEND n), true)

/-- A commit of a chain whose unit is not ON, or of one without a channel for its entry (R342), is refused and changes nothing. -/
def State.commitBarred (s : State) (n : Nat) (now : Bool) : Bool := !s.unitOn (chainUnit n) || (!now && (s.selCh? (R.STRB_SUB_SEL n)).isNone)

/-- A commit is asked for (R334, R335, R342): the state, and whether it is under way. -/
def State.commitAsk (s : State) (n : Nat) (m : LCommit) : State × Bool :=
  if s.on (R.LING_CH_STATE_COMMIT_PEND n) then (s.raise (R.LING_CH_STATUS_COMMIT_BUSY n), false)
  else if s.commitBarred n m.now then (s.raise (R.LING_CH_STATUS_CFG_REJ n), false)
  else s.commitLoad n m

/-! ## Dose and life (R345, R347) -/

/-- DOSE_PCT of a head in 0.1 %; the spec states none for a group without a rated dose. -/
def State.dosePct (s : State) (n : Nat) (h : LHead) : Nat :=
  let c := s.chainOf n
  (List.range (max 1 (min 32 (h.u8 0x1F)))).foldl (fun m g =>
    let acc := (h.emitters.filter fun (d, ch) => h.group d ch == g).foldl
      (fun a (x : Nat × Nat) => max a (Tbl.get 0 c.dose (16 * x.1 + x.2))) 0
    let p := if h.rated g = 0 then (Config.unstated 16 347 n g).toNat else acc * 1000 / (h.rated g * 10 ^ 12)
    max m (min 65535 p)) 0

/-- HEAD_LIFE of every head, with the warnings of R347. -/
def State.chainLife (s : State) (n : Nat) : State :=
  let heads := (s.chainOf n).heads
  s.forEach heads.length fun i s =>
    match heads[i]? with
    | none => s
    | some h =>
      if h.mode = 2 then s
      else
        let p := s.dosePct n h
        let s := s.set (R.HEAD_LIFE_DOSE_PCT n i) p
        let s := if s.get R.DOSE_CFG_WARN_PCT * 10 ≤ p ∧ ¬ s.on (R.HEAD_LIFE_LIFE_WARN n i) then
          (s.raise (R.HEAD_LIFE_LIFE_WARN n i)).publishLing n h.first 0 4 else s
        if 1000 ≤ p ∧ ¬ s.on (R.HEAD_LIFE_LIFE_END n i) then
          (s.raise (R.HEAD_LIFE_LIFE_END n i)).publishLing n h.first 0 5 else s

/-- Light of one channel in one pulse: its head, driver, row and channel, the drive value in force, and the light time in event clocks. -/
structure Light where
  head : LHead
  d : Nat
  row : Nat
  ch : Nat
  value : Nat
  time : Nat

/-- The key of a channel in the doses and the duty window. -/
def Light.chan (x : Light) : Nat := 16 * x.d + x.ch

/-- Row of driver `d` of a head after `count` falls of ENABLE: a head without row counters lights its row 0 (R324, R326). -/
def LHead.rowAt (h : LHead) (off : Tbl Nat) (count d : Nat) : Nat := if h.v2 then (count + Tbl.get 0 off d) % h.rows else 0

/-- The channels lit by a pulse that rises after `count` falls, with the drivers' own counts `off`: a version 2 head for `w` event clocks, a
version 1 or SAFE head for the whole pulse of `high` (R324, R326, R345). -/
def Chain.litBy (c : Chain) (off : Tbl Nat) (count w high : Nat) : List Light :=
  c.heads.flatMap fun h => h.emitters.filterMap fun (d, ch) =>
    let r := h.rowAt off count d
    let v := Tbl.get 0 c.active (dKey d r ch)
    if v = 0 then none else some ⟨h, d, r, ch, v, if h.v2 then w else high⟩

/-- Light is added to the dose of its channel and to the duty window (R340, R345). -/
def Chain.addLight (c : Chain) (x : Light) : Chain :=
  { c with dose := Tbl.put 0 c.dose x.chan (Tbl.get 0 c.dose x.chan + x.value * x.head.iPulse x.d x.ch * (4 * x.time) / 65535)
           duty := Tbl.put 0 c.duty x.chan (Tbl.get 0 c.duty x.chan + x.time)
           lit := if 500 ≤ x.time then Tbl.put false c.lit (dKey x.d x.row x.ch) true else c.lit }

/-- Light of one pulse is added to the doses and the duty window (R340, R345). -/
def State.addLight (s : State) (n : Nat) (l : List Light) : State :=
  (s.setChain n (l.foldl Chain.addLight (s.chainOf n))).chainLife n

/-- The row counters of the drivers clear (R323); what each had counted is kept for a driver that turns out to have missed the COMMIT (R336). -/
def Chain.rowsClear (c : Chain) : Chain :=
  { c with rowsWas := (List.range 32).foldl (fun t d => Tbl.put 0 t d (c.row + Tbl.get 0 c.rowOff d)) [], row := 0, rowOff := [] }

/-- The modulus of the chain's row counter as Ling keeps it: the most rows of the chain's heads, or the rows in use where a set has been placed beyond
them (R339; assumption 128). -/
def State.rowsMod (s : State) (n : Nat) : Nat :=
  max (((s.chainOf n).heads.map LHead.rows).foldl max 1) (s.get (R.LING_CH_STATE_ROWS_USED n))

/-- CHAIN_ENABLE goes to a level; at a rise each driver takes its row from its row counter (R324). -/
def State.enableTo (s : State) (n : Nat) (b : Bool) : State :=
  let c := s.chainOf n
  if c.enable = b then s
  else
    let c := if b then { c with rise := s.clk, riseRow := c.row, riseOff := c.rowOff } else c
    (s.setChain n { c with enable := b }).emit (.chainEnable n b)

/-- A pulse of `high` event clocks has ended, `w` of them light: the light is counted, and the row counter advances unless the pulse was the armed
diagnostic one (R324, R345). The rows lit are those taken at the rise; in a diagnostic pulse a head without DIAG lights its row 0 (R326). -/
def State.pulseLight (s : State) (n w high : Nat) : State :=
  let c := s.chainOf n
  let lit := c.litBy c.riseOff c.riseRow w high
  if high < 10 then s.setChain n { c with row := c.row + 1 }
  else match c.armed with
    | some (d, dr, ch) =>
      let l : List Light := match c.headOf? d with | some h => [⟨h, d, dr, ch, 3277, min w 750⟩] | none => []
      ((s.setChain n { c with armed := none }).bump (R.DIAG_CNT_CNT n)).addLight n (l ++ lit.filter fun x => !x.head.v2)
    | none => (s.setChain n { c with row := c.row + 1 }).addLight n lit

/-- ENABLE is forced low: the edges to come are gone, and a pulse under way ends here with the light that it has given (R345, R348). -/
def State.cutLight (s : State) (n : Nat) : State :=
  let c := s.chainOf n
  let s := s.setChain n { c with edges := [] }
  if c.enable then (s.enableTo n false).pulseLight n (s.clk - c.rise - c.lead) (s.clk - c.rise) else s

/-! ## The latch, and latched faults -/

/-- HELD shows whether a frame is held. -/
def State.setHeld (s : State) (n : Nat) (f : Option LFrame) : State :=
  (s.setChain n { s.chainOf n with held := f }).setFlag (R.LING_CH_STATE_HELD n) f.isSome

/-- A severe fault or the thermal unit latches the chain (R349, R687): outputs low, frames and commits gone, the unit in FAULT with
CAUSE `cause`. -/
def State.chainLatchFault (s : State) (n cause : Nat) : State :=
  let s := (s.cutLight n).setHeld n none
  let s := s.setChain n { s.chainOf n with queue := [], prev := none, latchDue := false, diag := none, armed := none }
  let s := ((s.commitEnd n).raise (R.LING_CH_STATE_LATCHED n)).set R.LING_STATUS_LATCHED (s.get R.LING_STATUS_LATCHED ||| 2 ^ n)
  let s := s.set (R.LING_CH_STATE_CAUSE n) (if cause = 16 then 3 else 4)
  let s := (s.unitTo (chainUnit n) .fault cause).publishLing n 0 0 6
  -- a chain that stops has no dose left to write back (assumption 146)
  let s := if s.unitState (chainUnit n) = .stopping then (s.clear (R.LING_CH_CTRL_EN n)).unitTo (chainUnit n) .off else s
  s.lightFreeze n

/-- The chain's start fails (R327). -/
def State.chainStartFault (s : State) (n cause code : Nat) : State :=
  let s := s.setChain n { s.chainOf n with queue := [], prev := none }
  (s.set (R.LING_CH_STATE_CAUSE n) code).unitTo (chainUnit n) .fault cause

/-- A COMMIT takes effect at LATCH (R323, R334, R335): active follows shadow, the row counter clears, ACTIVE_SET changes with the
last step, and the next step of a ramp is loaded. -/
def State.commitLatched (s : State) (n : Nat) : State :=
  let c := s.chainOf n
  let s := s.setChain n { c.rowsClear with before := c.active, meant := c.shadow, active := c.shadow, queue := .nop :: c.queue }
  match c.commit with
  | none => s
  | some m =>
    let s := (s.set (R.LING_CH_STATE_ROWS_USED n) m.rowsUsed)
    let s := (s.publishLing n 0 0 10).lightFreeze n
    if m.steps ≤ m.step then
      let s := (s.set (R.LING_CH_STATE_ACTIVE_SET n) m.set).commitEnd n
      if s.unitState (chainUnit n) = .starting then s.unitTo (chainUnit n) .on else s
    else
      let r := s.commitLoad n { m with step := m.step + 1 }
      if r.2 then r.1 else r.1.commitEnd n

/-- An identity memory after a WR_ID frame: the image shows the words as written (R353). -/
def LHead.written (h : LHead) (ws : List (Option (Nat × Nat))) : LHead :=
  match ws.getD h.first none with
  | some (a, w) => { h with image := h.image.take (2 * a) ++ leBytes 2 w ++ h.image.drop (2 * a + 2) }
  | none => h

/-- LATCH rises for a frame (R322): its effect at the drivers, and its responses come with the next frame. The second COMMIT of R336 has the effect
of a COMMIT (assumption 119). -/
def State.latchFrame (s : State) (n : Nat) (f : LFrame) : State :=
  let s := (s.setChain n { s.chainOf n with prev := some f, latchDue := false }).emit (.chainLatch n)
  match f with
  | .commit => s.commitLatched n
  | .recommit => let c := s.chainOf n; s.setChain n { c.rowsClear with active := c.meant, queue := .nop :: c.queue }
  | .diag d r ch => s.setChain n { s.chainOf n with armed := some (d, r, ch), diag := none }
  | .wrId ws done =>
    -- the image shows the words as written (R353)
    let c := s.chainOf n
    let s := s.setChain n { c with heads := c.heads.map (·.written ws) }
    match done with
    | some (h, seq) => s.set (R.HEAD_WB_SEQ_SEQ n h) seq
    | none => s
  | _ => s

/-- The held frame's LATCH rises. -/
def State.latchHeld (s : State) (n : Nat) : State :=
  match (s.chainOf n).held with
  | none => s.setChain n { s.chainOf n with latchDue := false }
  | some f => (s.setHeld n none).latchFrame n f

/-! ## Enrolment (R331) -/

/-- The registers of head `h`. -/
def State.showHead (s : State) (n i : Nat) (h : LHead) : State :=
  let s := (((s.set (R.HEAD_INFO_FIRST n i) h.first).set (R.HEAD_INFO_DRIVERS n i) h.drivers).set
    (R.HEAD_INFO_MODE n i) h.mode).set (R.HEAD_INFO_PROTO n i) h.proto
  match h.validBank with
  | some b => s.set (R.HEAD_WB_SEQ_SEQ n i) (h.bankSeq b)
  | none => s

/-- Step 3 to 6 of R331: the heads are classified, their doses taken over with what R347 says of them, and set 0 is loaded for a commit at once. -/
def State.chainClassify (s : State) (n : Nat) : State :=
  let c := s.chainOf n
  let heads := c.walk (s.drivers n) 33 0
  let dose := heads.foldl (fun (t : Tbl Nat) h => h.emitters.foldl (fun (t : Tbl Nat) (x : Nat × Nat) =>
    Tbl.put 0 t (16 * x.1 + x.2) (h.acc (h.group x.1 x.2) * 10 ^ 12)) t) []
  let s := s.setChain n { c with heads := heads, dose := dose, words := [], queue := [.cfg false, .cfg true] }
  let s := s.set (R.LING_CH_STATE_HEADS n) heads.length
  let s := s.forEach heads.length fun i s =>
    let h := heads.getD i ⟨0, 0, 2, [], false, false⟩
    let s := s.showHead n i h
    if h.mode = 1 then (s.raise (R.LING_CH_STATUS_SAFE_HEAD n)).publishLing n h.first 0 9
    else if h.mode = 2 then (s.raise (R.LING_CH_STATUS_ID_BAD n)).publishLing n h.first 0 9
    else s
  let s := s.chainLife n
  let r := s.commitLoad n ⟨0, true, 0, 0, 0, 0, 0, 1⟩
  -- a set 0 that the limits refuse leaves the drivers dark, and the unit goes to ON
  if r.2 then r.1 else r.1.unitTo (chainUnit n) .on

/-- The chain unit starts (R331): outputs on, and the length is measured first. -/
def State.chainStart (s : State) (n : Nat) : State :=
  let c := s.chainOf n
  let s := s.setChain n { codes := c.codes, curve := c.curve, queue := [.length], gen := c.gen, genPos := c.genPos,
                          genAsked := c.genAsked, genStall := c.genStall, dark := c.dark }
  let s := (s.raise (R.LING_CH_CTRL_EN n)).setReg (R.LING_CH_STATE n)
    (BitVec.ofNat 32 (putBits (putBits 0x10000 24 1 0) 27 1 (s.get (R.LING_CH_STATE_CUT n))))
  let s := s.resetRegs (R.CHS n 0) (R.CHS n 0 + 0x300)
  s

/-- The result of the length measurement (R327). -/
def State.chainLength (s : State) (n : Nat) (marker : Option (Fin 33 × Bool)) : State :=
  match marker with
  | none => s.chainStartFault n 14 1
  | some (_, false) => s.chainStartFault n 15 2
  | some (k, true) =>
    let s := s.set (R.LING_CH_STATE_DRIVERS n) k
    let s := s.setChain n { s.chainOf n with prev := none }
    if k.val = 0 then s.chainClassify n
    else s.setChain n { s.chainOf n with queue := (List.range 1024).map .rdId ++ [.nop] }

/-! ## Responses (R321, R322) -/

/-- The response of driver `d` of a chain of `k`, or 0 where none came. -/
def respOf (resps : List (BitVec 32)) (k d : Nat) : Nat := (resps.getD (k - 1 - d) 0).toNat

/-- A response word arrived with good parity. -/
def respOk (w : Nat) : Bool := popCount 32 w % 2 == 1

/-- A response whose command had no parity error. -/
def respGood (w : Nat) : Bool := respOk w && !bitAt w 26

/-- The temperatures of one frame (R349): TEMP of a head is the highest of its drivers. A DARK head whose header is damaged has no T_WARN and T_MAX to
hold it against (R328). -/
def State.chainTemps (s : State) (n : Nat) (resps : List (BitVec 32)) : State × Bool :=
  let k := s.drivers n
  let heads := (s.chainOf n).heads
  (List.range heads.length).foldl (fun (r : State × Bool) i =>
    let s := r.1
    let severe := r.2
    match (s.chainOf n).heads[i]? with
    | none => r
    | some h =>
      let ts := (List.range h.drivers).filterMap fun j =>
        let w := respOf resps k (h.first + j)
        if respOk w && bitsOf w 16 8 != 0x80 then some (signed 8 (bitsOf w 16 8)) else none
      match ts with
      | [] => r
      | t :: rest =>
        let t := rest.foldl max t
        let s := s.setInt (R.HEAD_TEMP_TEMP n i) t
        if h.mode = 2 && !idHeaderOk h.image then (s, severe)
        else
          let warm := decide (h.tWarn < t)
          let s := s.setChain n { s.chainOf n with heads := (s.chainOf n).heads.set i { h with warned := warm } }
          let s := if warm && !h.warned then (s.raise (R.LING_CH_STATUS_TEMP_WARN n)).publishLing n h.first 0 3 else s
          (s, severe || decide (h.tMax < t))) (s, false)

/-- Each channel set in a mask of driver `d`. -/
def State.eachChan (s : State) (mask : Nat) (f : Nat → State → State) : State :=
  s.forEach 16 fun c s => if bitAt mask c then f c s else s

/-- The rows that a TESTED report of a channel tells of: its MAP row, or for a matrix head the rows lit since the last report. -/
def Chain.testedRows (c : Chain) (h : LHead) (d ch : Nat) : List Nat :=
  if h.matrix then
    let lit := (List.range h.rows).filter fun r => Tbl.get false c.lit (dKey d r ch)
    if lit.isEmpty then List.range h.rows else lit
  else [h.mapRow d ch]

/-- Ling acts on a STATUS read (R343): whether a channel was SHORT in two consecutive reads. -/
def State.chainStatus (s : State) (n : Nat) (tested : List Nat) : State × Bool :=
  let c := s.chainOf n
  let k := s.drivers n
  let s := s.forEach k fun d s =>
    let em := fun ch => match c.headOf? d with | some h => h.emitter d ch | none => false
    let s := s.eachChan (c.openNow.getD d 0) fun ch s =>
      if em ch && !bitAt (s.get (R.CHS_OPEN n d)) ch then
        ((s.raise (R.LING_CH_STATUS_OPEN n)).set (R.CHS_OPEN n d) (s.get (R.CHS_OPEN n d) ||| 2 ^ ch)).publishLing n d ch 0
      else s
    let s := s.eachChan (c.shortNow.getD d 0) fun ch s =>
      ((s.raise (R.LING_CH_STATUS_SHORT n)).set (R.CHS_SHORT n d) (s.get (R.CHS_SHORT n d) ||| 2 ^ ch)).publishLing n d ch 1
    s.eachChan (tested.getD d 0) fun ch s =>
      match c.headOf? d with
      | none => s
      | some h =>
        if h.emitter d ch then
          let t := (c.testedRows h d ch).foldl (fun (t : Tbl Nat) r => Tbl.put 0 t (dKey d r ch) (s.clk + 1)) (s.chainOf n).tested
          (s.setChain n { s.chainOf n with tested := t }).set (R.UNVER_UNVERIFIED n d) (putBits (s.get (R.UNVER_UNVERIFIED n d)) ch 1 0)
        else s
  let again := (List.range k).any fun d => (c.shortNow.getD d 0) &&& (c.shortWas.getD d 0) != 0
  (s.setChain n { s.chainOf n with shortWas := c.shortNow, lit := [] }, again)

/-- The responses of frame `f` are read (R322, R336, R343, R349): the state, and the CAUSE of a severe fault. -/
def State.chainResponses (s : State) (n : Nat) (f : LFrame) (resps : List (BitVec 32)) : State × Option Nat :=
  let k := s.drivers n
  let ws := (List.range k).map fun d => respOf resps k d
  let errs := (ws.filter fun w => !respGood w).length
  let s := if errs = 0 then s else (s.raise (R.LING_CH_STATUS_PERR n)).bumpSat (R.PERR_CNT_CNT n) errs
  let lost := decide (0 < k) && ws.all (fun w => !respOk w)
  let s := s.setChain n { s.chainOf n with lostFrames := if lost then (s.chainOf n).lostFrames + 1 else 0 }
  let r := s.chainTemps n resps
  let s := r.1
  let hot := if r.2 then some 17 else none
  let data := fun (d : Nat) => let w := ws.getD d 0; if respGood w then w % 65536 else 0
  let t : State × Bool := match f with
    | .rdId a =>
      let t := (List.range k).foldl (fun (t : Tbl Nat) d =>
        let w := ws.getD d 0
        if respGood w && !bitAt w 25 then Tbl.put 0 t (1024 * d + a) (w % 65536) else t) (s.chainOf n).words
      let s := s.setChain n { s.chainOf n with words := t }
      (if a = 1023 then s.chainClassify n else s, false)
    | .wrInt words =>
      -- the words that a driver did not take are sent again (R334)
      let redo := (List.range k).map fun d => if respGood (ws.getD d 0) then none else words.getD d none
      if redo.all Option.isNone then (s, false)
      else
        let c := s.chainOf n
        (s.setChain n { c with queue := .wrInt redo :: c.queue }, false)
    | .commit | .recommit =>
      let miss := (List.range k).filter fun d => respOk (ws.getD d 0) && bitAt (ws.getD d 0) 26
      -- a driver that did not execute the COMMIT keeps its old intensities and its row count (R324, R336)
      let s := s.forList miss fun d s =>
        let c := s.chainOf n
        let kept := (List.range 256).foldl (fun t i => Tbl.put 0 t (256 * d + i) (Tbl.get 0 c.before (256 * d + i))) c.active
        let s := s.setChain n { c with active := kept, rowOff := Tbl.put 0 c.rowOff d (Tbl.get 0 c.rowsWas d) }
        (s.raise (R.LING_CH_STATUS_COMMIT_MISS n)).publishLing n d 0 8
      (if miss ≠ [] ∧ f = .commit then
        s.setChain n { s.chainOf n with queue := .recommit :: (s.chainOf n).queue } else s, false)
    | .status 0 => (s.setChain n { s.chainOf n with openNow := (List.range k).map data }, false)
    | .status 1 => (s.setChain n { s.chainOf n with shortNow := (List.range k).map data }, false)
    | .status _ => s.chainStatus n ((List.range k).map data)
    | _ => (s, false)
  let s := t.1
  let sev := if 3 ≤ (s.chainOf n).lostFrames then some 16 else if t.2 then some 17 else hot
  (s, sev)

/-! ## Position entries of a chain (R334, R335, R342, R344) -/

/-- Tag of Ling's requests to the position engine: kind 0 commit, 1 generator, 2 dark window. -/
def lingTag (kind n : Nat) : Nat := kind * 8 + n

/-- The channel of STRB_SUB. -/
def State.strobeChannel (s : State) (n : Nat) : Nat := s.get (R.STRB_SUB_SEL n) % 256

/-- The STROBE_LATCH entry of the commit or ramp step under way (R334, R335). -/
def State.commitEntry (s : State) (n : Nat) (m : LCommit) : State :=
  let pos := posMod ((m.pos : Int) + ((m.step - 1 : Nat) : Int) * m.pitch)
  s.peQueue .ling ⟨true, mkEntry pos 3 (s.strobeChannel n) 0 (2 ^ n) m.tl true 1 false true, 0, lingTag 0 n⟩

/-- A frame has been shifted: a COMMIT that is not due at once and a DIAG are held, every other frame is latched (R320, R334, R344). -/
def State.frameShifted (s : State) (n : Nat) (f : LFrame) : State :=
  match f with
  | .commit =>
    match (s.chainOf n).commit with
    | some m => if m.now then s.latchFrame n .commit else (s.setHeld n (some .commit)).commitEntry n m
    | none => s
  | .diag .. => if (s.chainOf n).diag.isSome then s.setHeld n (some f) else s
  | .length => s
  | _ => s.latchFrame n f

/-- A chain that stops is OFF once its dose frames have gone (R346). -/
def State.chainStopCheck (s : State) (n : Nat) : State :=
  if s.unitState (chainUnit n) = .stopping ∧ (s.chainOf n).queue = [] then
    let s := s.setChain n { s.chainOf n with prev := none }
    (s.clear (R.LING_CH_CTRL_EN n)).unitTo (chainUnit n) .off
  else s

/-- CHAIN_FRAME_DONE (R320, R322): the frame at the head of the queue has been shifted in and the responses of the frame before have
come out, the last driver's first. `marker`: the slots after which the marker of R327 came back, and whether on a slot boundary. -/
def execChainFrameDone (n : Fin 8) (resps : List (BitVec 32)) (marker : Option (Fin 33 × Bool)) (s : State) :
    Host.Outcome State Fault Refusal :=
  .next <|
    let n := n.val
    let c := s.chainOf n
    match c.queue with
    | [] => s
    | f :: rest =>
      if c.held.isSome then s
      else
        let s := s.emit (.chainFrame n (s.slotsOf n f marker))
        if f = .length then (s.setChain n { c with queue := [] }).chainLength n marker
        else
          let s := s.setChain n { c with queue := rest, prev := none }
          let r : State × Option Nat := match c.prev with
            | none => (s, none)
            | some p => s.chainResponses n p resps
          match r.2 with
          | some cause => r.1.chainLatchFault n cause
          | none =>
            let s := r.1
            -- a frame that a repeated word must precede is shifted in again after it
            let redo := match c.prev, (s.chainOf n).queue with
              | some (.wrInt _), .wrInt w :: q => if f = .commit ∧ q = rest then some (.wrInt w) else none
              | _, _ => none
            match redo with
            | some w => s.setChain n { s.chainOf n with queue := w :: .commit :: rest }
            | none => (s.frameShifted n f).chainStopCheck n

/-- COMMIT_CTRL_GO (R334): a write of COMMIT_CTRL. -/
def execCommitCtrlGo (who : Who) (n : Fin 8) (v : Word) (s : State) : Host.Outcome State Fault Refusal :=
  .next <| s.viaBus who fun s =>
    let n := n.val
    let s := s.writeReg (R.COMMIT_CTRL n) v
    if bitAt v.toNat 0 then
      let steps := s.get (R.COMMIT_CTRL_RAMP_STEPS n)
      (s.commitAsk n {
        set := bitsOf v.toNat 1 1, now := bitAt v.toNat 2
        tl := s.get (R.COMMIT_CTRL_TL_NUM n) + 8 * s.get (R.COMMIT_CTRL_TL_VIEW n)
        pos := s.get2 (R.COMMIT_POS_LO_POS n) (R.COMMIT_POS_HI_POS n)
        pitch := s.get (R.RAMP_PITCH_PITCH n), steps := steps, step := 1 }).1
    else s

/-! ## Bursts (R339, R340) -/

/-- A channel's current exceeds its I_CONT; never that of a SAFE head (R340). -/
def Light.over (x : Light) : Bool :=
  x.head.mode == 0 && decide (x.head.iCont x.d x.ch * 65535 < current x.head x.d x.ch x.value)

/-- A STROBE_ENABLE event of width `w` and row `r` lights a burst: `req` the request clock, `now` the clock of delivery. A channel that is overdriven in
some row of the burst counts with its light in all of them (R340). -/
def State.burst (s : State) (n w r req now : Nat) : State :=
  let c := s.chainOf n
  let lead := s.leadClks n
  let used := s.get (R.LING_CH_STATE_ROWS_USED n)
  let rows := if s.on (R.LING_CH_CTRL_BURST n) then (List.range used).filter (r ≤ ·) else [r]
  let m := s.rowsMod n
  let steps := (r + m - c.row % m) % m
  let litAt := fun i w high => c.litBy c.rowOff (c.row + steps + i) w high
  let widthOf := fun i => ((litAt i w w).filter Light.over).foldl (fun m x => min m (x.head.maxPulse x.d x.ch / 4)) w
  let ws := rows.zipIdx.map fun (r, i) => (r, widthOf i)
  let light := ws.zipIdx.flatMap fun (x, i) => litAt i x.2 (lead + x.2)
  let skip := (light.filter Light.over).any fun x =>
    let t := ((light.filter fun y => y.chan == x.chan).map (·.time)).sum
    decide (x.head.maxDuty x.d x.ch * 250 < Tbl.get 0 c.duty x.chan + t)
  if rows.isEmpty then s
  else if skip then
    ((s.raise (R.LING_CH_STATUS_DUTY_SKIP n)).bumpSat (R.DUTY_SKIP_CNT_CNT n)).lightFreeze n
  else
    let s := if ws.any fun (_, x) => x != w then s.raise (R.LING_CH_STATUS_LIMIT n) else s
    let wanted : Int := (req : Int) + s.get (R.CH_TIMING_ENABLE_DELAY n) - lead
    let earliest : Int := (now : Int) + 4 * steps
    let late := decide (wanted < earliest)
    let s := if late then ((s.raise (R.LING_CH_STATUS_STROBE_LATE n)).bumpSat (R.LATE_CNT_CNT n)).lightFreeze n else s
    let first := (max wanted earliest).toNat
    let stepEdges := (List.range steps).flatMap fun i => [(now + 4 * i, LEdge.stepUp), (now + 4 * i + 2, LEdge.stepDown)]
    let t := lead + w + s.get (R.CH_BURST_ROW_GAP n)
    let rowEdges := (List.range ws.length).flatMap fun i =>
      let (r, x) := ws.getD i (0, 0)
      [(first + i * t, LEdge.rowUp r x), (first + i * t + lead + x, LEdge.rowDown r x lead)]
    s.setChain n { s.chainOf n with edges := stepEdges ++ rowEdges, lead := lead }

/-- A deferred LATCH follows the fall of ENABLE (R341). -/
def State.latchDeferred (s : State) (n : Nat) : State := if (s.chainOf n).latchDue then s.latchHeld n else s

/-- ENABLE falls at the end of a pulse of `high` event clocks, `w` of them light (R324), and a deferred LATCH follows (R341). -/
def State.pulseEnd (s : State) (n w high : Nat) : State := ((s.enableTo n false).pulseLight n w high).latchDeferred n

/-- BURST_ROW_EDGE (R339): the next edge of CHAIN_ENABLE comes due. -/
def execBurstRowEdge (n : Fin 8) (s : State) : Host.Outcome State Fault Refusal :=
  .next <|
    let n := n.val
    match (s.chainOf n).edges with
    | [] => s
    | (_, e) :: rest =>
      let s := s.setChain n { s.chainOf n with edges := rest }
      match e with
      | .stepUp | .rowUp .. | .diagUp => s.enableTo n true
      | .stepDown => s.pulseEnd n 0 2
      | .rowDown _ w lead => s.pulseEnd n w (lead + w)
      | .diagDown _ _ _ lead => s.pulseEnd n 750 (lead + 750)

/-! ## Deliveries (R341, R344, R348) -/

/-- The event is one that the chain's strobe input acts on (R341). -/
def strobeActs (n : Nat) (e : Event) : Bool :=
  (decide (e.req.action = 3 ∨ e.req.action = 4) && bitAt e.req.param n) ||
    (e.req.action == 7 && bitsOf e.req.param 0 3 == n)

/-- A dark window's pulse will not come: the frame that waits for it is dropped. -/
def State.diagDrop (s : State) (n : Nat) : State :=
  let c := s.chainOf n
  let s := s.setChain n { c with diag := none, queue := c.queue.filter fun f => match f with | .diag .. => false | _ => true }
  match c.held with
  | some (.diag ..) => s.setHeld n none
  | _ => s

/-- A strobe event finds the input busy (R119, R341): OVERRUN. -/
def State.strobeOverrun (s : State) (n : Nat) : State := (s.raise (R.LING_CH_STATUS_OVERRUN n)).bumpSat (R.STRB_OVR_CNT_CNT n)

/-- The strobe input acts on an event (R341). -/
def State.strobeAct (s : State) (n : Nat) (e : Event) : State :=
  let c := s.chainOf n
  let off := s.on (R.LING_CH_STATE_CUT n) || s.on (R.LING_CH_STATE_LATCHED n) || !s.unitOn (chainUnit n)
  match e.req.action with
  | 3 =>
    if c.enable then
      if c.held.isSome then (s.setChain n { c with latchDue := true }).raise (R.LING_CH_STATUS_LATCH_DEFER n)
      else s.raise (R.LING_CH_STATUS_LATCH_IDLE n)
    else if c.edges ≠ [] then s.strobeOverrun n
    else if c.held.isSome then s.latchHeld n
    else s.raise (R.LING_CH_STATUS_LATCH_IDLE n)
  | 4 =>
    if c.edges ≠ [] then s.strobeOverrun n
    else if off then s
    else s.burst n e.req.width (bitsOf e.req.param 8 4) (e.clk - 1 - e.age) e.clk
  | _ =>
    if c.edges ≠ [] then (s.strobeOverrun n).diagDrop n
    else match c.held with
      | some (.diag d r ch) =>
        if off then s.diagDrop n
        else
          let s := s.latchHeld n
          let t := e.clk + 2
          let lead := s.leadClks n
          s.setChain n { s.chainOf n with edges := [(t, .diagUp), (t + lead + 750, .diagDown d r ch lead)], lead := lead }
      | _ => (s.raise (R.LING_CH_STATUS_DIAG_SKIP n)).diagDrop n

/-- An event on CUT_SUB (R348): ENABLE falls in the clock of delivery. -/
def State.cutAct (s : State) (n : Nat) : State :=
  ((((s.raise (R.LING_CH_STATE_CUT n)).cutLight n).latchDeferred n).publishLing n 0 0 7).lightFreeze n

/-- The emitter with the oldest TESTED report, lowest row first (R344): driver, row, channel. -/
def Chain.oldest (c : Chain) : Option (Nat × Nat × Nat) :=
  let all : List (Nat × Nat × Nat) := (c.heads.filter LHead.v2).flatMap fun h => h.emitters.flatMap fun (d, ch) =>
    (if h.matrix then List.range h.rows else [h.mapRow d ch]).map fun r => (d, r, ch)
  all.foldl (fun (m : Option (Nat × Nat × Nat)) x =>
    let age := fun (y : Nat × Nat × Nat) => Tbl.get 0 c.tested (dKey y.1 y.2.1 y.2.2)
    match m with
    | none => some x
    | some y => if age x < age y then some x else m) none

/-- The entry of the last dark window is still pending: asked for, or in the table (R344). -/
def State.darkPending (s : State) (n : Nat) : Bool :=
  match (s.chainOf n).dark with
  | none => false
  | some none => true
  | some (some h) => (s.findHandle h).isSome

/-- An event on DARK_SUB opens a dark window (R344). -/
def State.darkAct (s : State) (n : Nat) (e : Event) : State :=
  let c := s.chainOf n
  if !s.on (R.LING_CH_CTRL_DIAG_EN n) || !s.unitOn (chainUnit n) then s
  else if c.commit.isSome || c.held.isSome || c.diag.isSome || s.darkPending n || (s.selCh? (R.STRB_SUB_SEL n)).isNone then
    s.raise (R.LING_CH_STATUS_DIAG_SKIP n)
  else match c.oldest with
    | none => s
    | some (d, r, ch) =>
      let s := s.setChain n { c with diag := some ⟨d, r, ch⟩, dark := some none, queue := c.queue ++ [.diag d r ch] }
      let pos := posMod ((e.position : Int) + s.get (R.DARK_START_OFFSET n))
      s.peQueue .ling ⟨true, mkEntry pos 7 (s.strobeChannel n) 0 (n + d * 8 + ch * 256) e.stampSrc false 1 false true, 0, lingTag 2 n⟩

/-- Delivery to the inputs of every chain. -/
def State.deliverLing (s : State) (e : Event) : State :=
  s.forEach 8 fun n s =>
    let s := s.deliver e [R.LING_CUT_SUB_SEL n] (·.cutAct n) id
    let s := if strobeActs n e then
        s.deliver e [R.STRB_SUB_SEL n] (·.strobeAct n e) (·.bumpSat (R.STRB_COINC_CNT_CNT n)) else s
    s.deliver e [R.DARK_SUB_SEL n] (·.darkAct n e) (·.raise (R.LING_CH_STATUS_DIAG_SKIP n))

/-! ## The line strobe generator (R337) -/

/-- The generator asks for an entry at its position, or at the first point ahead of the view, and counts the points passed. -/
def State.genInsert (s : State) (n : Nat) : State :=
  let c := s.chainOf n
  let v := s.get (R.GEN_CTRL_VIEW n)
  let pitch := s.get (R.GEN_PITCH_PITCH n)
  let d := posDiff c.genPos (s.viewPos v)
  let k := if 0 < d ∨ pitch = 0 then 0 else (-d).toNat / pitch + 1
  let pos := posMod ((c.genPos : Int) + (k * pitch : Nat))
  let s := s.bumpSat (R.STRB_SKIP_CNT_CNT n) k
  let s := s.setChain n { c with genPos := pos, genAsked := true, gen := none, genStall := false }
  let ch := s.get (R.GEN_CTRL_CHANNEL n)
  s.peQueue .ling ⟨true, mkEntry pos 4 ch (s.get (R.GEN_CTRL_WIDTH n)) (2 ^ n) (8 + v) false 1 false (s.guarded ch), 0, lingTag 1 n⟩

/-- An entry of the generator that is in the table no more: after it has fired the next one follows; one that was removed unfired is inserted anew, so
that exactly one stays pending (R337). -/
def State.genKeep (s : State) (fired : Bool) : State :=
  s.forEach 8 fun n s =>
    let c := s.chainOf n
    if s.on (R.GEN_CTRL_GEN_EN n) && !c.genAsked && !c.genStall then
      match c.gen with
      | some h =>
        if (s.findHandle h).isNone then
          let next := if fired then posMod ((c.genPos : Int) + s.get (R.GEN_PITCH_PITCH n)) else c.genPos
          (s.setChain n { c with genPos := next }).genInsert n
        else s
      | none => s
    else s

/-- A write of GEN_CTRL (R337): GEN_EN and VIEW change only while GEN_EN was 0, so that a generator once started runs on (assumption 43); a rise
starts it at GEN_FIRST. -/
def State.genWrite (s : State) (n : Nat) (v : Word) : State :=
  let was := s.on (R.GEN_CTRL_GEN_EN n)
  let view := s.get (R.GEN_CTRL_VIEW n)
  let s := s.writeReg (R.GEN_CTRL n) v
  if was then (s.raise (R.GEN_CTRL_GEN_EN n)).set (R.GEN_CTRL_VIEW n) view
  else if s.on (R.GEN_CTRL_GEN_EN n) then
    (s.setChain n { s.chainOf n with genPos := s.get2 (R.GEN_FIRST_LO_POS n) (R.GEN_FIRST_HI_POS n) }).genInsert n
  else s

/-- The position engine answers one of Ling's requests: tag, STATUS of R96 and handle. -/
def State.lingAnswer (s : State) (tag status handle : Nat) : State :=
  let n := tag % 8
  let c := s.chainOf n
  match tag / 8 with
  | 0 =>
    -- a commit whose entry is refused is abandoned, and its held frame has no effect
    if status = 0 ∨ status = 5 then s else ((s.setHeld n none).commitEnd n).raise (R.LING_CH_STATUS_CFG_REJ n)
  | 1 =>
    let s := s.setChain n { c with genAsked := false }
    if status = 0 ∨ status = 5 then
      if s.on (R.GEN_CTRL_GEN_EN n) then s.setChain n { s.chainOf n with gen := some handle } else s
    else if !s.on (R.GEN_CTRL_GEN_EN n) then s
    else if status = 4 && s.on (R.GEN_PITCH_PITCH n) then s.genInsert n
    else (s.setChain n { s.chainOf n with genStall := true }).raise (R.LING_CH_STATUS_GEN_STALL n)
  | 2 =>
    if status = 0 ∨ status = 5 then
      s.setChain n { c with dark := some (some handle) }
    else ((s.setChain n { c with dark := none }).raise (R.LING_CH_STATUS_DIAG_SKIP n)).diagDrop n
  | _ => s

/-- GEN_RETRY (R337). -/
def execGenRetry (n : Fin 8) (s : State) : Host.Outcome State Fault Refusal :=
  .next (if s.on (R.GEN_CTRL_GEN_EN n) && (s.chainOf n).genStall then s.genInsert n else s)

/-- DUTY_WINDOW_END (R340). -/
def execDutyWindowEnd (n : Fin 8) (s : State) : Host.Outcome State Fault Refusal :=
  .next (s.setChain n { s.chainOf n with duty := [] })

/-! ## Diagnosis (R343) -/

/-- DIAG_STATUS_POLL: three STATUS frames, and a frame that brings the last responses. A poll still under way is not repeated. -/
def execDiagStatusPoll (n : Fin 8) (s : State) : Host.Outcome State Fault Refusal :=
  .next <|
    let c := s.chainOf n
    let busy := c.queue.any fun f => match f with | .status _ => true | _ => false
    if s.unitOn (chainUnit n) && !busy then
      s.setChain n { c with queue := c.queue ++ [.status 0, .status 1, .status 2, .nop] }
    else s

/-- A channel carries current in a row in use. -/
def State.carries (s : State) (n d c : Nat) : Bool :=
  let ch := s.chainOf n
  match ch.headOf? d with
  | some h => h.emitter d c && (List.range 16).any fun r => Tbl.get 0 ch.active (dKey d r c) != 0
  | none => false

/-- UNVERIFIED: VERIFY_WINDOW has passed for a channel that carries current. -/
def execUnverified (n : Fin 8) (d : Fin 32) (c : Fin 16) (s : State) : Host.Outcome State Fault Refusal :=
  .next <|
    if s.carries n d c && !bitAt (s.get (R.UNVER_UNVERIFIED n d)) c then
      ((s.set (R.UNVER_UNVERIFIED n d) (s.get (R.UNVER_UNVERIFIED n d) ||| 2 ^ c.val)).raise
        (R.LING_CH_STATUS_UNVERIFIED n)).publishLing n d c 2
    else s

/-- CUT_CLR (R348): a write through function 0 is ignored and sets CFG_REJ. -/
def execCutClr (who : Who) (n : Fin 8) (v : Word) (s : State) : Host.Outcome State Fault Refusal :=
  .next <| s.viaBus who fun s =>
    if who = .fn0 then s.raise (R.LING_CH_STATUS_CFG_REJ n)
    else if bitAt v.toNat 0 then s.clear (R.LING_CH_STATE_CUT n)
    else s

/-! ## Dose write-back (R346) -/

/-- A head as the WR_ID frames that wait will leave it: the write-back of R346 follows those that are queued before it. -/
def Chain.settled (c : Chain) (h : LHead) : LHead :=
  c.queue.foldl (fun h f => match f with | .wrId ws _ => h.written ws | _ => h) h

/-- The words of a dose bank, CRC last: word address and word. -/
def bankWords (h : LHead) (dose : Tbl Nat) : Nat × List (Nat × Nat) :=
  let b := match h.validBank with | some 0 => 1 | _ => 0
  let seq := match h.validBank with | some v => (h.bankSeq v + 1) % 2 ^ 32 | none => 1
  let acc := (List.range 32).map fun g =>
    (h.emitters.filter fun (d, c) => h.group d c == g).foldl
      (fun a (x : Nat × Nat) => max a (min 0xFFFFFFFF (Tbl.get 0 dose (16 * x.1 + x.2) / 10 ^ 12))) 0
  let crc := crc16 (leBytes 4 seq ++ acc.flatMap (leBytes 4))
  let at16 := LHead.bankAt b / 2
  let ws := [(at16, seq % 65536), (at16 + 1, seq / 65536), (at16 + 3, 0)] ++
    (List.range 32).flatMap (fun g => [(at16 + 4 + 2 * g, acc.getD g 0 % 65536), (at16 + 5 + 2 * g, acc.getD g 0 / 65536)])
  (seq, ws ++ [(at16 + 2, crc)])

/-- A dose write to head `i` is inhibited by its TEMP. -/
def State.doseInhibited (s : State) (n i : Nat) (h : LHead) : Bool :=
  let t := s.get (R.HEAD_TEMP_TEMP n i)
  h.proto / 16 != 1 && t != 0x80 && (decide (signed 8 t < 0) || decide (70 < signed 8 t))

/-- Dose write-back of the NORMAL heads, or of those of them that are deferred; `stop`: an inhibited write is abandoned. A latched chain shifts
nothing (R349). -/
def State.doseNow (s : State) (n : Nat) (deferred stop : Bool) : State :=
  let heads := (s.chainOf n).heads
  if s.on (R.LING_CH_STATE_LATCHED n) then s
  else s.forEach heads.length fun i s =>
    match (s.chainOf n).heads[i]? with
    | none => s
    | some h =>
      if h.mode ≠ 0 ∨ (deferred ∧ !h.deferred) then s
      else
        let c := s.chainOf n
        if s.doseInhibited n i h then
          (s.setChain n { c with heads := c.heads.set i { h with deferred := !stop } }).raise (R.LING_CH_STATUS_DOSE_DEFER n)
        else
          let (seq, ws) := bankWords (c.settled h) c.dose
          let frames := (List.range ws.length).map fun j =>
            LFrame.wrId (List.replicate h.first none ++ [ws[j]?]) (if j + 1 = ws.length then some (i, seq) else none)
          s.setChain n { c with heads := c.heads.set i { h with deferred := false }, queue := c.queue ++ frames ++ [.nop] }

/-- Skep's write-back, once it runs (R24, R346). -/
def State.doseWrite (s : State) (n : Nat) (deferred stop : Bool) : State := s.skepOnce (.dose n deferred stop) (·.doseNow n deferred stop)

/-- DOSE_WRITEBACK. -/
def execDoseWriteback (n : Fin 8) (s : State) : Host.Outcome State Fault Refusal :=
  .next (if s.unitOn (chainUnit n) then s.doseWrite n false false else s)

/-- DOSE_RETRY. -/
def execDoseRetry (n : Fin 8) (s : State) : Host.Outcome State Fault Refusal :=
  .next (if s.unitOn (chainUnit n) then s.doseWrite n true false else s)

/-- The chain unit stops (R346): light off, held frames and commits dropped, then the doses are written and the outputs fall. The unit
is STOPPING. -/
def State.chainStop (s : State) (n : Nat) : State :=
  let s := (s.cutLight n).setHeld n none
  let s := s.setChain n { s.chainOf n with queue := [], latchDue := false, diag := none, armed := none }
  ((s.commitEnd n).doseWrite n false true).chainStopCheck n

/-- CHAIN_CFG_WRITE (R318): unless the unit is OFF, CLK_DIV and RET_DELAY keep their values and CFG_REJ is set; the register's other fields follow the
write (assumption 113). -/
def execChainCfgWrite (who : Who) (n : Fin 8) (v : Word) (s : State) : Host.Outcome State Fault Refusal :=
  .next <| s.viaBus who fun s =>
    let old := s
    let s := s.writeReg (R.LING_CH_CTRL n) v
    if s.unitOff (chainUnit n) then s
    else ((s.set (R.LING_CH_CTRL_CLK_DIV n) (old.get (R.LING_CH_CTRL_CLK_DIV n))).set
      (R.LING_CH_CTRL_RET_DELAY n) (old.get (R.LING_CH_CTRL_RET_DELAY n))).raise (R.LING_CH_STATUS_CFG_REJ n)

end Sys2Proof.Machine
end

