-- ==== Sys2Proof/Machine/Cond.lean ====
section
/-!
DEFINITION. Pixel conditioning (chapter 11): the stages of a line, the calibration store and its commands, and the closing of zone
windows.
-/
set_option Elab.async false
namespace Sys2Proof.Machine

/-! ## The calibration store and the LUT pool (R400, R406) -/

/-- A slot after power-on reset: GAIN 1.0, LIVE 1.0 (R400). -/
def slotReset : Nat := 0x4000 * 2 ^ 16 + 0x400000 * 2 ^ 32

def State.calSlot (s : State) (i : Nat) : Nat := Tbl.get slotReset s.cond.cal i
def State.setCalSlot (s : State) (i x : Nat) : State := { s with cond := { s.cond with cal := Tbl.put slotReset s.cond.cal i x } }

def slotDark (x : Nat) : Nat := bitsOf x 0 16
def slotGain (x : Nat) : Nat := bitsOf x 16 16
def slotLive (x : Nat) : Nat := bitsOf x 32 24
def slotDefect (x : Nat) : Nat := bitsOf x 56 2

/-- An entry of the LUT pool, by table × 4096 + index: 16 × index after power-on reset. -/
def State.lutAt (s : State) (i : Nat) : Nat := Tbl.get (16 * (i % 4096)) s.cond.lut i
def State.setLut (s : State) (i x : Nat) : State :=
  { s with cond := { s.cond with lut := Tbl.put (16 * (i % 4096)) s.cond.lut i x } }

/-- The slot of pixel `p`, component `c` of descriptor `d` (R400). -/
def State.slotNo (s : State) (d p c : Nat) : Nat := s.get (R.CAL_BASE_SLOT d) + p * s.descComps d + c

/-! ## Stages (R397 to R411) -/

/-- Bits of a sample (R296). -/
def sampleBits (fmt : Nat) : Nat := match fmt with | 0 => 8 | 1 => 10 | 2 => 12 | 4 => 10 | 5 => 12 | _ => 16

/-- Stage 1 (R399). -/
def native (fmt v : Nat) : Nat := v % 2 ^ sampleBits fmt * 2 ^ (16 - sampleBits fmt)

/-- Stages 2 and 3 (R403): the value, and whether it was held at 0 and at 65,535. -/
def darkGain (slot x : Nat) : Nat × Bool × Bool :=
  let x1 := x - slotDark slot
  let y := (x1 * slotGain slot * slotLive slot + 2 ^ 35) / 2 ^ 36
  (min y 65535, decide (x < slotDark slot), decide (65535 < y))

/-- The value of the nearest good neighbour in a list that starts next to the pixel (R405): at most 4 pixels away. -/
def neighbour (l : List (Nat × Nat)) : Option (Nat × Nat) :=
  ((l.take 4).zipIdx.find? fun ((_, def_), _) => def_ == 0).map fun ((v, _), i) => (v, i)

/-- Stage 4 for one component of a line (R405): values with DEFECT codes; the values, and the samples left unfixed. -/
def fixDefects : List (Nat × Nat) → List (Nat × Nat) → List Nat × Nat
  | _, [] => ([], 0)
  | left, (v, code) :: right =>
    let (rest, n) := fixDefects ((v, code) :: left) right
    let l := (neighbour left).map (·.1)
    let r := (neighbour right).map (·.1)
    let fix : Option Nat :=
      match code with
      | 1 => match l, r with
        | some a, some b => some ((a + b + 1) / 2)
        | some a, none => some a
        | none, r => r
      | 2 => l.or r
      | 3 => r.or l
      | _ => some v
    match fix with
    | some x => (x :: rest, n)
    | none => (v :: rest, n + 1)

/-- Stage 5 through a table (R406). -/
def lutValue (l : Nat → Nat) (y : Nat) : Nat :=
  let i := y / 16
  let a := l i
  let b := if i = 4095 then 65536 else l (i + 1)
  clampNat 0 65535 ((a : Int) + (((b : Int) - a) * (y % 16 : Nat) + 8) / 16).toNat

/-- The samples of one component of a row of pixels. -/
def compOf (row : List (List Nat)) (c : Nat) : List Nat := row.map (·.getD c 0)

/-- Rows of pixels from the samples of each component. -/
def fromComps (n : Nat) (comps : List (List Nat)) : List (List Nat) :=
  (List.range n).map fun p => comps.map fun l => l.getD p 0

/-- A row after stages 2 to 4: its components, samples held at 0, whether one was held at 65,535, and samples left unfixed. -/
def State.stages234 (s : State) (d : Nat) (row : List (List Nat)) : List (List Nat) × Nat × Bool × Nat :=
  let rs := (List.range (s.descComps d)).map fun c =>
    let ys : List ((Nat × Bool × Bool) × Nat) := (compOf row c).zipIdx.map fun (x, p) =>
      let slot := s.calSlot (s.slotNo d p c)
      (darkGain slot x, slotDefect slot)
    let (fixed, unfixed) := fixDefects [] (ys.map fun (y, code) => (y.1, code))
    (fixed, (ys.filter fun (y : (Nat × Bool × Bool) × Nat) => y.1.2.1).length, ys.any fun y => y.1.2.2, unfixed)
  (fromComps row.length (rs.map (·.1)), (rs.map fun r => r.2.1).sum, rs.any fun r => r.2.2.1, (rs.map fun r => r.2.2.2).sum)

/-- Stage 5 of a row. -/
def State.stage5 (s : State) (d : Nat) (row : List (List Nat)) : List (List Nat) :=
  row.map fun px => px.zipIdx.map fun (y, c) =>
    let (t, bypass) := s.lutSel d c
    if bypass then y else lutValue (fun i => s.lutAt (4096 * t + i)) y

/-! ## Line delay (R408 to R410) -/

/-- The two neighbours in a buffer, oldest first, that bracket target `t`: the line at or before it and the line after it. -/
def bracket (t : Nat) : List LdLine → Option LdLine × Option LdLine
  | [] => (none, none)
  | a :: rest =>
    if posAfter a.pos t then (none, some a)
    else match bracket t rest with
      | (none, b) => (some a, b)
      | r => r

/-- Component `c` of an output line whose target is `t` (R408, R410): for each row and pixel, and whether the line is missed. -/
def ldPick (linear : Bool) (maxGap : Nat) (buf : List LdLine) (t : Nat) : Option (LdLine × LdLine × Nat) × Bool :=
  match bracket t buf with
  | (none, none) => (none, true)
  | (none, some b) => (some (b, b, 0), true)
  | (some a, none) => (some (a, a, 0), decide (a.pos ≠ t) && decide (maxGap < (posDiff t a.pos).toNat))
  | (some a, some b) =>
    let gap := (posDiff b.pos a.pos).toNat
    let da := (posDiff t a.pos).toNat
    let near := if 2 * da ≤ gap then a else b
    if maxGap < gap then (some (near, near, 0), true)
    else if linear then (some (a, b, da * 256 / gap), false)
    else (some (near, near, 0), false)

/-- s_a + w × (s_b − s_a), rounded with halves up. -/
def mix256 (a b w : Nat) : Nat := (((a : Int) * 256 + (w : Int) * ((b : Int) - a) + 128) / 256).toNat

/-- Stage 6 for a line that has entered the buffer: its rows, and whether it carries LD_MISS. -/
def State.lineDelay (s : State) (d pos : Nat) (rows : List (List (List Nat))) (buf : List LdLine) : List (List (List Nat)) × Bool :=
  let comps := s.descComps d
  let picks := (List.range comps).map fun c =>
    if c = s.get (R.COND_CTRL_REF_COMP d) then (none, false)
    else ldPick (s.on (R.COND_CTRL_LD_MODE d)) (s.get (R.LD_MAX_GAP_GAP d)) buf (posMod ((pos : Int) - s.get (R.LD_OFF_OFF d c)))
  let out := rows.zipIdx.map fun (row, r) => row.zipIdx.map fun (px, p) => px.zipIdx.map fun (y, c) =>
    match (picks.getD c (none, false)).1 with
    | none => y
    | some (a, b, w) =>
      let v := fun (l : LdLine) => ((l.rows.getD r []).getD p []).getD c 0
      mix256 (v a) (v b) w
  (out, picks.any (·.2))

/-! ## Zone measurement (R420) -/

def ZCol.add (z : ZCol) (v : Nat) : ZCol := { sum := z.sum + v, min := Nat.min z.min v, max := Nat.max z.max v, count := z.count + 1 }

/-- A window takes a line of descriptor `d` at `pos` with its values after stage 4. `on`: zones are measured on the descriptor (R402, R420).
`from?`: lines since the one at this position were lost. `miss`, `poison`: flags of the line, of which POISON alone keeps it from being
measured (R404). -/
def State.zoneLine (s : State) (w : ZoneWin) (d pos : Nat) (from? : Option Nat) (on miss poison : Bool) (rows : List (List (List Nat))) : ZoneWin :=
  if w.heads.any (·.desc == d) then
    let inside := !posBefore pos w.start && posBefore pos w.stop
    let lost := match from? with
      | some q => on && posBefore q w.stop && posAfter pos w.start
      | none => false
    let heads := w.heads.map fun h =>
      if h.desc ≠ d then h
      else
        let cols := if inside && on && !poison then
            rows.foldl (fun (cols : List (List ZCol)) row => cols.zipIdx.map fun (col, i) => col.zipIdx.map fun (z, c) =>
              let p := h.first + i
              if slotDefect (s.calSlot (s.slotNo d p c)) ≠ 0 then z else z.add ((row.getD p []).getD c 0)) h.cols
          else h.cols
        { h with cols := cols, done := h.done || !posBefore pos w.stop }
    { w with heads := heads, bad := w.bad || lost || (inside && on && (miss || poison)) }
  else w

/-! ## A line (R397) -/

/-- A line as conditioning gives it to the resampler. -/
structure CLine where
  line : Line
  flags : Nat
  rows : List (List (List Nat))

/-- A calibration command that loads writes some of its slots or entries (R415): those from `r.moved` up to `upto`. -/
def State.calLoad (s : State) (r : CalRun) (upto : Nat) : State :=
  let n := if r.op = 1 then 8 else 8192
  let s := s.readMeet (r.mem + n * r.moved) (n * (upto - r.moved))
  let s := s.forEach (upto - r.moved) fun i s =>
    let i := r.moved + i
    let at_ := r.mem + n * i
    if r.op = 1 then
      if s.readPoison at_ 8 then s
      else
        let x := leNat (s.bytes at_ 8)
        let old := s.calSlot (r.first + i)
        let pick := fun (k lo w : Nat) (y : Nat) => if bitAt r.fields k then putBits y lo w (bitsOf x lo w) else y
        s.setCalSlot (r.first + i) (pick 3 56 2 (pick 2 32 24 (pick 1 16 16 (pick 0 0 16 old))))
    else
      s.forEach 4096 fun j s =>
        if s.readPoison (at_ + 2 * j) 2 then s else s.setLut ((r.first + i) * 4096 + j) (leNat (s.bytes (at_ + 2 * j) 2))
  let err := if r.err = 0 ∧ s.readPoison (r.mem + n * r.moved) (n * (upto - r.moved)) then 3 else r.err
  { s with cond := { s.cond with run := some { r with moved := max r.moved upto, err := err } } }

/-- ACCUM takes a line of its descriptor (R416): its native samples are summed, those of every row of a tile. -/
def State.calAccum (s : State) (d : Nat) (rows : List (List (List Nat))) : State :=
  match s.cond.run with
  | some r =>
    if r.op = 6 ∧ r.first = d ∧ r.err = 0 ∧ r.lines < 2 ^ r.count then
      let sums := rows.foldl (fun (sums : List Nat) px => (px.flatten.zipIdx).map fun (v, i) => sums.getD i 0 + v) r.sums
      ({ s with cond := { s.cond with run := some { r with sums := sums, lines := r.lines + 1 } } }).set R.CAL_RESULT_LINES (r.lines + 1)
    else s
  | none => s

/-- The open windows take a line of a descriptor (R420). -/
def State.zonesTake (s : State) (d pos : Nat) (from? : Option Nat) (on miss poison : Bool) (rows : List (List (List Nat))) : State :=
  { s with cond := { s.cond with wins := s.cond.wins.map fun w => s.zoneLine w d pos from? on miss poison rows } }

/-- A line at `pos` has been treated: the last one, and the furthest one (R419). -/
def CondDesc.took (x : CondDesc) (pos line : Nat) : CondDesc :=
  { x with last := some pos, lastLine := line
           top := match x.top with | some p => if posAfter pos p then some pos else some p | none => some pos }

/-- The line before lost ones, at line `line` of a descriptor: lines of its numbering are missing (R244), or it has stopped since. -/
def CondDesc.lostFrom (x : CondDesc) (line : Nat) : Option Nat :=
  match x.last with
  | some p => if 0 < signed 32 (unsigned 32 ((line : Int) - x.lastLine - 1)) then some p else none
  | none => x.before

/-- A command that loads coefficients of descriptor `d` has written an open number of them by now (R415): whether one runs. -/
def State.loadLive (s : State) (d : Nat) : State × Bool :=
  match s.cond.run with
  | some r =>
    if s.calTouches r d && decide (r.moved < r.count) then
      (((s.useFree).calLoad r (min r.count (r.moved + s.freeVal 22))).raise (R.COND_STATUS_LOAD_LIVE d), true)
    else (s, false)
  | none => (s, false)

/-- The stages of a line (R397). `perr`: parity errors in values that the line uses (R404). -/
def State.condition (s : State) (l : Line) (perr : Nat) : State × CLine :=
  let d := l.desc
  let fmt := s.get (R.SD_FORMAT_FMT d)
  let x := s.condOf d
  let rows := l.rows.map fun row => row.map fun px => px.map (native fmt)
  let s := s.calAccum d rows
  let narrow := fun (rows : List (List (List Nat))) =>
    if fmtWidth fmt = 1 then rows.map fun row => row.map fun px => px.map fun y => min 255 ((y + 128) / 256) else rows
  if !x.on then
    ((s.zonesTake d l.trigPos (x.lostFrom l.line) false false false rows).setCond d (x.took l.trigPos l.line),
      ⟨l, 0, narrow rows⟩)
  else
    let loading := (s.loadLive d).2
    let s := (s.loadLive d).1
    let rs := rows.map (s.stages234 d)
    let r4 := rs.map (·.1)
    let sat := rs.any fun r => r.2.2.1
    let s := s.bumpSat (R.UNDER_CNT_CNT d) (rs.map fun r => r.2.1).sum
    let s := s.bumpSat (R.DP_UNFIXED_CNT_CNT d) (rs.map fun r => r.2.2.2).sum
    let s := if sat then s.bumpSat (R.SAT_CNT_CNT d) else s
    let s := if perr = 0 then s else (s.raise R.COND_GSTATUS_PERR).bumpSat R.CAL_PERR_CNT_CNT perr
    let r5 := r4.map (s.stage5 d)
    let delay := s.on (R.COND_CTRL_LD_EN d)
    -- the buffer is cleared when the position does not rise (R410)
    let clear := match x.last with | some p => !posAfter l.trigPos p | none => true
    let buf := if x.ld then
        let b := (if clear then [] else x.buf) ++ [⟨l.trigPos, r5⟩]
        b.drop (b.length - s.get (R.COND_CTRL_LD_DEPTH d))
      else []
    let (r6, miss) := if delay then if x.ld then s.lineDelay d l.trigPos r5 buf else (r5, true) else (r5, false)
    let s := if miss then s.bumpSat (R.LD_MISS_CNT_CNT d) else s
    let s := s.zonesTake d l.trigPos (x.lostFrom l.line) (s.on (R.COND_CTRL_LIVE_EN d)) miss (perr != 0) r4
    let s := s.setCond d { x.took l.trigPos l.line with buf := buf }
    (s, ⟨l, miss.toNat + 2 * sat.toNat + 4 * (perr != 0).toNat + 8 * loading.toNat, narrow r6⟩)

/-! ## Configuration and commands -/

/-- COND_CFG_WRITE (R401): a write of the register at `off` × 4 in the block of descriptor `d`. -/
def execCondCfgWrite (who : Who) (d : Fin 4096) (off : Fin 16) (v : Word) (s : State) : Host.Outcome State Fault Refusal :=
  .next <| s.viaBus who fun s =>
    if s.on (R.SD_CTRL_EN d) then s.raise (R.COND_STATUS_CFG_REJ d) else s.writeReg (R.COND_CTRL d + 4 * off.val) v

/-- The bytes that a command moves at CAL_MEM. -/
def State.calExtent (s : State) (r : CalRun) : Nat :=
  match r.op with
  | 1 | 2 => 8 * r.count
  | 4 | 5 => 8192 * r.count
  | 6 => 4 * s.get (R.SD_GEOM_WIDTH r.first) * s.descComps r.first
  | _ => 0

/-- A range that exceeds the store, the pool or the descriptors (R413). -/
def calRange (r : CalRun) : Bool :=
  match r.op with
  | 4 | 5 => decide (512 < r.first + r.count)
  | 6 => decide (4096 ≤ r.first ∨ 16 < r.count)
  | _ => decide (2097152 < r.first + r.count)

/-- A calibration command ends: ERR is stored, DONE set and CMD_DONE published (R412, R429). -/
def State.calEnd (s : State) (err : Nat) : State :=
  let s := { s with cond := { s.cond with run := none } }
  ((s.set R.CAL_RESULT_ERR err).raise R.CAL_RESULT_DONE).publishCond 0 err 2

/-- A write of CAL_CMD with a command other than ABORT (R412 to R416): it is ignored while one runs, and takes a copy of its
arguments. -/
def State.calStart (s : State) (op fields : Nat) : State :=
  if !s.on R.CAL_RESULT_DONE then s.raise R.COND_GSTATUS_CMD_IGN
  else
    let r : CalRun := { op := op, mem := s.get2 R.CAL_MEM_LO_D R.CAL_MEM_HI_D, first := s.get R.CAL_FIRST_FIRST,
                        count := s.get R.CAL_COUNT_COUNT, fields := fields }
    let err :=
      if calRange r then 1
      else if op ≠ 3 ∧ !s.inHostWin r.mem (s.calExtent r) then 2
      else if op = 6 ∧ !s.on (R.SD_STATUS_RUNNING r.first) then 4
      else 0
    let s := (s.clear R.CAL_RESULT_DONE).set R.CAL_RESULT_LINES 0
    -- descriptors that run and use the range of a command that loads (R415)
    let users := if err = 0 then (s.cond.desc.filter fun x => x.2.on && s.calTouches r x.1).map (·.1) else []
    let s := s.forList users fun d s => s.raise (R.COND_STATUS_LOAD_LIVE d)
    { s with cond := { s.cond with run := some { r with err := err, moved := if err = 0 then 0 else r.count } } }

/-- The slots or tables of a saving or resetting command from the first not yet moved up to `upto`. -/
def State.calMove (s : State) (r : CalRun) (upto : Nat) : State :=
  match r.op with
  | 1 | 4 => s.calLoad r upto
  | 2 => s.memWrite r.mem ((List.range upto).flatMap fun i => leBytes 8 (s.calSlot (r.first + i)))
  | 3 => s.forEach upto fun i s => s.setCalSlot (r.first + i) (putBits (s.calSlot (r.first + i)) 32 24 0x400000)
  | 5 => s.memWrite r.mem ((List.range (4096 * upto)).flatMap fun i => leBytes 2 (s.lutAt (4096 * r.first + i)))
  | _ => if upto = r.count then s.memWrite r.mem (r.sums.flatMap (leBytes 4)) else s

/-- LOAD (R413). -/
def execLoad (who : Who) (v : Word) (s : State) : Host.Outcome State Fault Refusal :=
  .next <| s.viaBus who fun s =>
    s.calStart 1 (bitsOf v.toNat 4 4)
/-- SAVE (R413, R415). -/
def execSave (who : Who) (s : State) : Host.Outcome State Fault Refusal :=
  .next <| s.viaBus who fun s =>
    s.calStart 2 0
/-- LIVE_RESET (R413). -/
def execLiveReset (who : Who) (s : State) : Host.Outcome State Fault Refusal :=
  .next <| s.viaBus who fun s =>
    s.calStart 3 0
/-- LUT_LOAD (R413). -/
def execLutLoad (who : Who) (s : State) : Host.Outcome State Fault Refusal :=
  .next <| s.viaBus who fun s =>
    s.calStart 4 0
/-- LUT_SAVE (R413). -/
def execLutSave (who : Who) (s : State) : Host.Outcome State Fault Refusal :=
  .next <| s.viaBus who fun s =>
    s.calStart 5 0
/-- ACCUM (R416). -/
def execAccum (who : Who) (s : State) : Host.Outcome State Fault Refusal :=
  .next <| s.viaBus who fun s =>
    s.calStart 6 0

/-- CAL_ABORT (R413): the running command ends with ABORTED; how much it has moved is open. -/
def execCalAbort (who : Who) (s : State) : Host.Outcome State Fault Refusal :=
  .next <| s.viaBus who fun s =>
    match s.cond.run with
    | none => s
    | some r =>
      let s := if r.op = 6 ∨ r.err ≠ 0 then s
        else (s.useFree).calMove r (min r.count (r.moved + s.freeVal 22))
      s.calEnd 5

/-- CAL_CMD_DONE (R412): the command has moved all its data, or was refused; an ACCUM ends once its lines are summed. -/
def execCalCmdDone (s : State) : Host.Outcome State Fault Refusal :=
  .next <|
    match s.cond.run with
    | none => s
    | some r =>
      if r.op = 6 then
        if r.err ≠ 0 then s.calEnd r.err
        else if r.lines < 2 ^ r.count then s
        else (s.calMove r r.count).calEnd 0
      else if r.err = 1 ∨ r.err = 2 then s.calEnd r.err
      else
        let s := s.calMove r r.count
        s.calEnd (match s.cond.run with | some r => r.err | none => 0)

/-! ## Zone windows close (R421 to R428) -/

/-- T_c of a zone entry. -/
def State.zoneTarget (s : State) (k c : Nat) : Nat :=
  match c with
  | 0 => s.get (R.ZN_TARGET_A_T_0 k)
  | 1 => s.get (R.ZN_TARGET_A_T_1 k)
  | 2 => s.get (R.ZN_TARGET_B_T_2 k)
  | _ => s.get (R.ZN_TARGET_B_T_3 k)

/-- A column of a window as the checks see it: head, pixel and components. -/
structure ZPix where
  desc : Nat
  px : Nat
  comps : List ZCol

/-- The measured columns of a window. -/
def ZoneWin.pixels (w : ZoneWin) : List ZPix :=
  (w.heads.flatMap fun h => h.cols.zipIdx.map fun (c, i) => ⟨h.desc, h.first + i, c⟩).filter fun z => z.comps.any (·.count != 0)

/-- Check 2 for one component (R422): the mean of the column means differs from T by more than MEAN_TOL × T. -/
def levelFails (tol t : Nat) (cols : List ZCol) : Bool :=
  let m := cols.filter (·.count != 0)
  let k := m.foldl (fun k z => Nat.lcm k z.count) 1
  let sum := (m.map fun z => z.sum * (k / z.count)).sum
  decide (tol * t * (k * m.length) < ((sum : Int) - (t * k * m.length : Nat)).natAbs * 1024)

/-- The mean of the column means of one component, rounded down. -/
def levelOf (cols : List ZCol) : Nat :=
  let m := cols.filter (·.count != 0)
  let k := m.foldl (fun k z => Nat.lcm k z.count) 1
  (m.map fun z => z.sum * (k / z.count)).sum / (k * m.length)

/-- Check 3 for one component: spot. -/
def spotFails (tol t : Nat) (z : ZCol) : Bool := z.count != 0 && (decide (tol * t < (z.max - z.min) * 1024) || z.sum == 0)

/-- A ratio r_p as numerator and denominator, put into an ordered list. -/
def ratioIn (x : Nat × Nat) : List (Nat × Nat) → List (Nat × Nat)
  | [] => [x]
  | y :: l => if x.1 * y.2 ≤ y.1 * x.2 then x :: y :: l else y :: ratioIn x l

/-- Check 4 for one component: r_p differs from the median of the columns around it by more than DEV_TOL; the median of an even number
is the mean of the middle two. -/
def streakFails (tol t : Nat) (z : ZCol) (around : List ZCol) : Bool :=
  let rs := (around.filter fun y => y.count != 0 && y.sum != 0).map fun y => (t * y.count, y.sum)
  if z.count = 0 ∨ rs.length < 8 then false
  else
    let l := rs.foldl (fun l x => ratioIn x l) []
    let a := l.getD ((l.length - 1) / 2) (0, 1)
    let b := l.getD (l.length / 2) (0, 1)
    -- r_p − (a + b) / 2, over 2 × z.sum × a.2 × b.2
    let num : Int := 2 * (t * z.count * a.2 * b.2 : Nat) - ((a.1 * b.2 + b.1 * a.2) * z.sum : Nat)
    decide (tol * (2 * z.sum * a.2 * b.2) < num.natAbs * 1024)

/-- Δ of one slot (R423), exact, in 2⁻²²: a numerator over a denominator. -/
def liveDelta (live t count sum tc maxStep : Nat) : Int × Nat :=
  let num : Int := (live : Int) * ((t * count : Nat) - (sum : Int))
  let den := sum * 2 ^ tc
  if (maxStep : Int) * den < num then (maxStep, 1)
  else if num < -((maxStep : Int) * den) then (-maxStep, 1)
  else (num, den)

/-- The sum of two fractions. -/
def addFrac (a b : Int × Nat) : Int × Nat :=
  let m := Nat.lcm a.2 b.2
  (a.1 * (m / a.2 : Nat) + b.1 * (m / b.2 : Nat), m)

/-- The updates of a window's eligible columns (R423): the state, the columns updated, and the mean Δ over the updated slots (R428). -/
def State.zoneUpdate (s : State) (w : ZoneWin) (l : List ZPix) : State × Nat × Int :=
  let v := w.view
  let saving := fun (i : Nat) => match s.cond.run with
    | some r => r.op == 2 && r.err == 0 && decide (r.first ≤ i ∧ i < r.first + r.count)
    | none => false
  let lo := s.get (R.LC_LIMIT_LIVE_MIN v) * 4096
  let hi := s.get (R.LC_LIMIT_LIVE_MAX v) * 4096
  let t : State × (Int × Nat) × Nat := l.foldl (fun (r : State × (Int × Nat) × Nat) z => z.comps.zipIdx.foldl (fun (r : State × (Int × Nat) × Nat) x =>
    let s := r.1
    let sum := r.2.1
    let n := r.2.2
    let col := x.1
    let c := x.2
    if col.count = 0 then r
    else
      let i := s.slotNo z.desc z.px c
      if saving i then (s.bumpSat (R.SKIP_SAVE_CNT_CNT v), sum, n)
      else
        let x := s.calSlot i
        let dl := liveDelta (slotLive x) (s.zoneTarget w.k c) col.count col.sum (s.get (R.LC_CFG_TC_LOG2 v)) (s.get (R.LC_STEP_MAX_STEP v))
        let new := divRound ((slotLive x : Int) * dl.2 + dl.1) dl.2
        let held := clampInt lo hi new
        let s := if held = new then s else (s.raise (R.LC_STATUS_LIMIT v)).bumpSat (R.LIMIT_CNT_CNT v)
        (s.setCalSlot i (putBits x 32 24 held.toNat), addFrac sum dl, n + 1)) r) (s, (0, 1), 0)
  let s := t.1.forList ((l.map (·.desc)).eraseDups) fun d s => s.bump (R.CAL_GEN_GEN d)
  let updated := l.filter fun z => z.comps.zipIdx.any fun (col, c) => col.count != 0 && !saving (s.slotNo z.desc z.px c)
  (s, updated.length, divRound t.2.1.1 (t.2.1.2 * t.2.2))

/-- A window is refused (R424, R425, R428): a run of refused windows freezes the view. -/
def State.zoneRefuse (s : State) (w : ZoneWin) (result rej m0 : Nat) : State :=
  let v := w.view
  let s := (s.set (R.LC_STATE_GOOD_RUN v) 0).calLog w result 0 rej 0 m0
  let n := Tbl.get 0 s.cond.rejRun v + 1
  let s := { s with cond := { s.cond with rejRun := Tbl.put 0 s.cond.rejRun v n } }
  if s.get (R.LC_STATE_STATE v) = 1 ∧ s.get (R.LC_TOL2_REJ_RUN v) ≤ n then s.lcFreeze v 5 else s

/-- A window closes (R421 to R426, R428): its checks, counts and log entry. An accepted closure may thaw its view and moves gains when
its event clock ends, since a freeze cause in it takes effect first (R427, assumption 144). -/
def State.zoneClose (s : State) (w : ZoneWin) : State :=
  let v := w.view
  let px := w.pixels
  let comps := (px.map fun z => z.comps.length).foldl max 0
  let col := fun (z : ZPix) c => z.comps.getD c {}
  let incomplete := w.bad || w.heads.any fun h => !h.done
  let level := (List.range comps).any fun c => levelFails (s.get (R.COND_LC_TOL_MEAN_TOL v)) (s.zoneTarget w.k c) (px.map fun z => col z c)
  let good3 := px.filter fun z => !(List.range comps).any fun c => spotFails (s.get (R.COND_LC_TOL_RANGE_TOL v)) (s.zoneTarget w.k c) (col z c)
  let good4 := good3.filter fun z => !(List.range comps).any fun c =>
    streakFails (s.get (R.COND_LC_TOL_DEV_TOL v)) (s.zoneTarget w.k c) (col z c)
      ((good3.filter fun y => y.desc == z.desc && decide (y.px ≤ z.px + 16 ∧ z.px ≤ y.px + 16)).map fun y => col y c)
  let rejected := px.length - good4.length
  let spread := decide (s.get (R.LC_TOL2_REJ_FRAC v) * px.length < rejected * 1024)
  let m0 := if px.isEmpty then 0 else levelOf (px.map fun z => col z 0)
  if incomplete then (s.bumpSat (R.REJ_INCOMPLETE_CNT_CNT v)).zoneRefuse w 2 0 m0
  else if level then (s.bumpSat (R.REJ_LEVEL_CNT_CNT v)).zoneRefuse w 3 0 m0
  else
    let s := s.bumpSat (R.COL_SPOT_CNT_CNT v) (px.length - good3.length)
    let s := s.bumpSat (R.COL_STREAK_CNT_CNT v) (good3.length - good4.length)
    if spread then (s.bumpSat (R.REJ_SPREAD_CNT_CNT v)).zoneRefuse w 4 rejected m0
    else
      let s := (s.bump (R.ZONE_OK_CNT_CNT v)).bumpSat (R.LC_STATE_GOOD_RUN v)
      let s : State := { s with cond := { s.cond with rejRun := Tbl.put 0 s.cond.rejRun v 0 } }
      let thaw := s.get (R.LC_STATE_STATE v) == 2 && !s.on (R.LC_CFG_FORCE_FREEZE v) &&
        decide (s.get (R.LC_CFG_HOLD_REPEATS v) ≤ s.get (R.LC_STATE_REPEATS v) ∧ s.get (R.LC_TOL2_THAW_GOOD v) ≤ s.get (R.LC_STATE_GOOD_RUN v))
      let e : ZonePend := ⟨w, good4.map fun z => (z.desc, z.px), s.get R.LOG_HEAD_NEXT, thaw⟩
      ({ s with cond := { s.cond with accepted := s.cond.accepted ++ [e] } }).calLog w 1 0 rejected 0 m0

/-- An accepted closure is applied at the end of its event clock, unless a freeze of its view came in that clock (R423, R425, R427). -/
def State.zoneApply (s : State) (e : ZonePend) : State :=
  let w := e.win
  let v := w.view
  if Tbl.get 0 s.cond.froze v = s.clk + 1 then s
  else
    let s := if e.thaw && s.get (R.LC_STATE_STATE v) == 2 then (s.set (R.LC_STATE_STATE v) 1).publishCond v 0 1 else s
    if s.get (R.LC_STATE_STATE v) = 1 then
      let (s, cols, mean) := s.zoneUpdate w (w.pixels.filter fun z => e.good.contains (z.desc, z.px))
      let info := w.view + w.k % 1024 * 8 + 2 ^ 31
      ((s.setReg (R.LOG_INFO e.log) (BitVec.ofNat 32 info)).set (R.LOG_COLS_UPDATED e.log) (min 65535 cols)).setInt (R.LOG_DELTA_DELTA e.log) mean
    else s

/-- An accepted closure put into a list in order of zone entry. -/
def zonePendIn (x : ZonePend) : List ZonePend → List ZonePend
  | [] => [x]
  | y :: l => if x.win.k < y.win.k then x :: y :: l else y :: zonePendIn x l

/-- The accepted closures of an event clock are applied, in order of zone entry (R427). -/
def State.zonesApply (s : State) : State :=
  ({ s with cond := { s.cond with accepted := [] } }).forList (s.cond.accepted.foldl (fun l e => zonePendIn e l) []) fun e s => s.zoneApply e

/-- A window is due to close (R421). -/
def State.zoneDue (s : State) (w : ZoneWin) : Bool :=
  w.heads.all (·.done) || posAfter (s.viewPos w.view) (posMod ((w.stop : Int) + s.get (R.LC_ZONE_CLOSE_GRACE w.view)))

/-- The window of a view that closes next: of those due, the first of the least zone entry (R427). -/
def State.zoneNext (s : State) (v : Nat) : Option ZoneWin :=
  (s.cond.wins.filter fun w => w.view == v && s.zoneDue w).foldl (fun (m : Option ZoneWin) w =>
    match m with
    | some x => if w.k < x.k then some w else m
    | none => some w) none

/-- ZONE_CLOSE (R421): a window of the view that is due. -/
def execZoneClose (v : Fin 8) (s : State) : Host.Outcome State Fault Refusal :=
  .next <|
    match s.zoneNext v with
    | none => s
    | some w => ({ s with cond := { s.cond with wins := s.cond.wins.erase w } }).zoneClose w

end Sys2Proof.Machine
end

