-- ==== Sys2Proof/Machine/Plait.lean ====
section
/-!
DEFINITION. Web space and Plait (chapter 12): the geometry of a view, lines in web space, runs, the making of a row, and live
alignment tracking.
-/
set_option Elab.async false
namespace Sys2Proof.Machine

def State.plaitOf (s : State) (v : Nat) : PView := Tbl.get {} s.plait.view v
def State.setPlait (s : State) (v : Nat) (x : PView) : State :=
  { s with plait := { s.plait with view := Tbl.put {} s.plait.view v x } }

/-- Events of this block, which Skep publishes (R461). -/
def State.publishPlait (s : State) (v arg kind : Nat) : State :=
  s.skepPublish R.EVT_PLAIT (v + arg % 256 * 16 + kind * 2 ^ 12 + 0x8 * 2 ^ 20)

/-! ## The column map and the geometry of a view (R436 to R439, R450) -/

/-- An entry of the map store. -/
def State.mapEntry (s : State) (i : Nat) : Nat := Tbl.get 0 s.plait.map i

/-- A valid pixel of a head: its number, X in 1/256 column, and a_p in sub-ticks. -/
structure MapPx where
  p : Nat
  x : Nat
  a : Int
deriving DecidableEq, Repr

/-- The valid pixels of head `h` of a view, of `width` pixels. -/
def State.mapPixels (s : State) (v h width : Nat) : List MapPx :=
  (List.range width).filterMap fun p =>
    let e := s.mapEntry (s.get (R.HD_MAP_MAP_BASE v h) + p)
    if bitAt e 25 then some ⟨p, bitsOf e 0 25, signed 16 (bitsOf e 32 16)⟩ else none

/-- The heads of a view: descriptors with EN = 1 that bind it, with their head numbers (R436). -/
def State.viewDescs (s : State) (v : Nat) : List (Nat × Nat) :=
  (List.range 4096).filterMap fun d =>
    if s.on (R.SD_CTRL_EN d) && s.get (R.SD_BIND_VIEW d) == v then some (s.get (R.SD_BIND_HEAD d), d) else none

/-- The columns that a head covers, from ⌈X_min⌉ to ⌊X_max⌋. -/
def coverOf (l : List MapPx) : Nat × Nat :=
  let lo := l.foldl (fun m x => min m x.x) (2 ^ 25)
  let hi := l.foldl (fun m x => max m x.x) 0
  ((lo + 255) / 256, hi / 256)

/-- The spread max a_p − min a_p. -/
def spreadOf (l : List MapPx) : Nat :=
  match l with
  | [] => 0
  | x :: t => (t.foldl (fun m y => max m y.a) x.a - t.foldl (fun m y => min m y.a) x.a).toNat

/-- The heads that a view has (R438): those fixed at the start of its unit, or, before one, those bound to it now. -/
def State.viewSet (s : State) (v : Nat) : List (Nat × Nat) :=
  match (s.plaitOf v).heads with
  | [] => s.viewDescs v
  | hs => hs.map fun h => (h.head, h.desc)

/-- The columns that two ranges share, or none. -/
def shared (a b : Nat × Nat) : Option (Nat × Nat) :=
  if max a.1 b.1 ≤ min a.2 b.2 then some (max a.1 b.1, min a.2 b.2) else none

/-- How many columns two ranges share. -/
def sharedCols (a b : Nat × Nat) : Nat := min a.2 b.2 + 1 - max a.1 b.1

/-- A range takes in a column. -/
def takesIn (c : Nat × Nat) (j : Nat) : Bool := decide (c.1 ≤ j ∧ j ≤ c.2)

/-- The upper neighbour of a head (R439): the head that covers the column above its range. Where two do, it is the one that shares more
columns with it (assumption 135). -/
def upperOf (hs : List PHead) (h : PHead) : Option Nat :=
  ((hs.filter fun g => takesIn (g.lo, g.hi) (h.hi + 1)).foldl (fun (m : Option (Nat × Nat)) g =>
    let n := sharedCols (h.lo, h.hi) (g.lo, g.hi)
    match m with
    | some (k, _) => if k < n then some (n, g.head) else m
    | none => some (n, g.head)) none).map (·.2)

/-- The heads of a view in order across the web, each with its upper neighbour (R439). -/
def State.viewHeads (s : State) (v : Nat) : List PHead :=
  let hs := sortBy (fun (h : PHead) => (h.lo, h.hi)) ((s.viewDescs v).map fun (h, d) =>
    let c := coverOf (s.mapPixels v h (s.get (R.SD_GEOM_WIDTH d)))
    { head := h, desc := d, lo := c.1, hi := c.2 })
  hs.map fun h => { h with up := upperOf hs h }

/-- The overlaps of a view: each head with its upper neighbour and the columns that they share (R439). -/
def PView.overlaps (x : PView) : List (PHead × PHead × Nat × Nat) :=
  x.heads.filterMap fun a =>
    match x.heads.find? fun b => some b.head == a.up with
    | some b => (shared (a.lo, a.hi) (b.lo, b.hi)).map fun c => (a, b, c)
    | none => none

/-- X rises or falls strictly in steps of 128 to 512 over consecutive pixels. -/
def mapSteps (rise : Bool) : List MapPx → Bool
  | a :: b :: t =>
    let d := if rise then (b.x : Int) - a.x else (a.x : Int) - b.x
    b.p == a.p + 1 && decide (128 ≤ d ∧ d ≤ 512) && mapSteps rise (b :: t)
  | _ => true

/-- Check 4 of R439 for one head. -/
def State.mapOk (s : State) (v h width : Nat) : Bool :=
  let l := s.mapPixels v h width
  !l.isEmpty && (mapSteps true l || mapSteps false l) && l.all (fun m => decide (m.x < s.get (R.VW_WIDTH_WIDTH v) * 256)) &&
    decide (s.get (R.HD_MAP_MAP_BASE v h) + width ≤ 1048576)

/-- Check 6 of R439: heads in order across the web, with the two highest columns covered so far plus 1. -/
def coverOk (width : Nat) : Nat → Nat → List (Nat × Nat) → Bool
  | top, _, [] => top == width
  | top, second, (lo, hi) :: t =>
    decide (lo ≤ top ∧ second ≤ lo) && coverOk width (max top (hi + 1)) (max second (min top (hi + 1))) t

/-- Check 7 of R439: a head and one that covers the column just above or just below its range overlap by at least `need` columns. -/
def overlapOk (need : Nat) (cov : List (Nat × Nat)) : Bool :=
  cov.all fun a => cov.all fun b =>
    !(takesIn b (a.2 + 1) || (a.1 != 0 && takesIn b (a.1 - 1))) || decide (need ≤ sharedCols a b)

/-- GEOM_ERR of a view (R439): the first failing check, or 0. -/
def State.geomErr (s : State) (v : Nat) : Nat :=
  let ds := s.viewDescs v
  let width := s.get (R.VW_WIDTH_WIDTH v)
  let pitch := s.get (R.VW_PITCH_PITCH v)
  let kind := fun d => (s.get (R.SD_CTRL_TILE d), s.get (R.SD_FORMAT_COMP d), s.get (R.SD_FORMAT_COMP_MAP d) % 16 ^ s.descComps d,
    fmtWidth (s.get (R.SD_FORMAT_FMT d)))
  let d0 := (ds.headD (0, 0)).2
  let cov := ((s.viewHeads v).map fun h => (h.lo, h.hi)).filter fun c => decide (c.1 ≤ c.2)
  if width = 0 ∨ 65536 < width ∨ ds.isEmpty ∨ 256 < ds.length then 1
  else if pitch < 64 then 2
  else if ds.any fun x => kind x.2 != kind d0 then 3
  else if ds.any fun (h, d) => !s.mapOk v h (s.get (R.SD_GEOM_WIDTH d)) then 4
  else if ds.any fun (h, d) => decide (8 * pitch < spreadOf (s.mapPixels v h (s.get (R.SD_GEOM_WIDTH d)))) then 5
  else if !coverOk width 0 0 cov then 6
  else if s.on (R.VW_CTRL_TRK_EN v) && !overlapOk (2 * s.get (R.TRK_CFG_TRK_RANGE v) + 16) cov then 7
  else 0

/-- NEED of a view in KiB (R450). -/
def State.joinNeed (s : State) (v : Nat) : Nat :=
  let hs := s.viewHeads v
  let aoff := fun (h : PHead) => s.getInt (R.HD_AOFF_A_OFF v h.head)
  let aMax := match hs with | [] => 0 | h :: t => t.foldl (fun m x => max m (aoff x)) (aoff h)
  let pitch := max 1 (s.get (R.VW_PITCH_PITCH v))
  let bytes := (hs.map fun h =>
    let spread := spreadOf (s.mapPixels v h.head (s.get (R.SD_GEOM_WIDTH h.desc)))
    let l := ((aMax - aoff h).toNat + 2 * s.get (R.TRK_LIMIT_A_LIM v) + spread + pitch - 1) / pitch
    (l + 6) * (h.hi + 1 - h.lo) * s.descComps h.desc * fmtWidth (s.get (R.SD_FORMAT_FMT h.desc))).sum
  (bytes + 1023) / 1024

/-- A refused write of a view's settings (R438, R450). -/
def State.viewRej (s : State) (v : Nat) : State := s.raise (R.VW_STATUS_CFG_REJ v)

/-- Writes of the view's window at word `off` (R438, R450): the registers of R438 accept writes only while the unit is OFF. -/
def execVwCtrlWrite (who : Who) (v : Fin 8) (off : Fin 2048) (x : Word) (s : State) : Host.Outcome State Fault Refusal :=
  .next <| s.viaBus who fun s =>
    let v := v.val
    let a := R.VW_CTRL v + 4 * off.val
    let off_ := s.unitOff (viewUnit v)
    if off.val = 0 then
      if bitsOf x.toNat 0 2 = 3 ∨ bitsOf x.toNat 2 2 = 3 then s.viewRej v
      else if off_ then s.writeReg a x
      else
        let t := s.writeReg a x
        let kept := (s.set (R.VW_CTRL_TRK_EN v) (bitsOf x.toNat 4 1)).set (R.VW_CTRL_TRK_HOLD v) (bitsOf x.toNat 5 1)
        if t.reg a = kept.reg a then kept else kept.viewRej v
    else if off.val = 1 ∨ off.val = 2 ∨ off.val = 3 ∨ off.val = 6 ∨ (1024 ≤ off.val ∧ off.val % 4 < 2) then
      if off_ then s.writeReg a x else s.viewRej v
    else if off.val = 7 then
      let others := ((List.range 8).filter (· != v)).foldl (fun n w => n + s.get (R.VW_JOIN_JOIN_KIB w)) 0
      let k := bitsOf x.toNat 0 16
      if !off_ || decide (32768 < others + k) then s.viewRej v
      else (s.set (R.VW_JOIN_JOIN_KIB v) k).set R.JOIN_FREE_KIB (32768 - others - k)
    else s.writeReg a x

/-! ## Lines in web space (R440 to R442) -/

/-- PSET of a line (R291). -/
def State.linePset (s : State) (l : Line) : Nat :=
  match s.trigRec l.desc l.seq with
  | some r => r.pset % 16
  | none => s.get (R.TRIG_CTRL_DEF_PSET (s.descLink l.desc) (s.get (R.SD_BIND_TRIG_IN l.desc))) % 16

/-- The exposure centre of a line (R440). -/
def State.exposureCentre (s : State) (l : Line) : Nat :=
  let v := s.get (R.SD_BIND_VIEW l.desc)
  let f := s.descLink l.desc
  let qns := 4 * s.get (R.TRIG_LAT_NS f (s.get (R.SD_BIND_TRIG_IN l.desc))) + l.expLate +
    2 * s.get (R.PSET_EXP_NS (s.get (R.SD_BIND_EP l.desc)) (s.linePset l))
  let rate := s.getInt (R.SRC_RATE_RATE (s.get (R.VIEW_BIND_SOURCE v)))
  posMod (l.trigPos + divRound (rate * s.getInt (R.VIEW_SCALE_SCALE v) * qns) (2 ^ 52))

/-- Twice the way from one line to another, in sub-ticks. -/
def lineDiff2 (a b : Nat × Int) : Int := 2 * posDiff a.1 b.1 + a.2 - b.2

/-- A view run begins (R442): VW_RUN counts it. -/
def State.plaitBegin (s : State) (v : Nat) : State :=
  let x := s.plaitOf v
  if x.begun then s
  else ((s.setPlait v { x with begun := true, first := true, win := [] }).bump (R.VW_RUN_RUN v)).publishPlait v 0 4

/-- A head of a view has taken a line: the line is its last, and the view's direction is that of its first head with two lines. -/
def State.plaitPut (s : State) (v head : Nat) (l : PLine) (h : PHead) : State :=
  let x := s.plaitOf v
  let h := { h with last := some (l.c, l.off2) }
  let dir := if x.dir = 0 ∧ 2 ≤ h.lines.length then h.dir else x.dir
  s.setPlait v { x with heads := x.heads.map (fun y => if y.head = head then h else y), dir := dir }

/-- A head's line reaches its run (R442). -/
def State.plaitTake (s : State) (v head : Nat) (l : PLine) : State :=
  let x := s.plaitOf v
  if x.closing then s.setPlait v { x with held := x.held ++ [(head, l)] }
  else
    match x.heads.find? (·.head == head) with
    | none => s
    | some h =>
      match h.last with
      | none => (s.plaitBegin v).plaitPut v head l { h with lines := [l], dir := 0 }
      | some last =>
        let d := lineDiff2 (l.c, l.off2) last
        let sgn : Int := if d = 0 then 0 else if d < 0 then -1 else 1
        if h.dir = 0 ∧ sgn ≠ 0 then (s.plaitBegin v).plaitPut v head l { h with lines := h.lines ++ [l], dir := sgn }
        else if h.dir ≠ 0 ∧ sgn = h.dir then (s.plaitBegin v).plaitPut v head l { h with lines := h.lines ++ [l] }
        else if h.dir ≠ 0 ∧ h.dir = x.dir then
          -- the head's run ends, and with it the view run
          let h := { h with last := none }
          s.setPlait v { x with heads := x.heads.map (fun y => if y.head = head then h else y), closing := true, held := [(head, l)] }
        else (s.plaitBegin v).plaitPut v head l { h with lines := [l], dir := 0 }

/-- A conditioned line enters the resampler (R438, R440, R441). -/
def State.plaitLine (s : State) (cl : CLine) : State :=
  let d := cl.line.desc
  let v := s.get (R.SD_BIND_VIEW d)
  let x := s.plaitOf v
  if !s.unitOn (viewUnit v) then s
  else if !(x.heads.any fun h => h.desc == d) then s.bumpSat (R.NOT_IN_VIEW_CNT_CNT v)
  else
    let head := s.get (R.SD_BIND_HEAD d)
    let c := s.exposureCentre cl.line
    let n := cl.rows.length
    let lines : List PLine := cl.rows.zipIdx.map fun (px, r) =>
      { c := c, flags := cl.flags, px := px
        off2 := if cl.line.tile then (2 * (r : Int) - (n - 1 : Nat)) * s.get (R.HD_MAP_TILE_PITCH v head) else 0 }
    let back := match x.heads.find? (·.head == head) with | some h => h.dir == -1 | none => false
    s.forList (if back then lines.reverse else lines) fun l s => s.plaitTake v head l

/-- LINE_CONDITION (R397): the first line that waits on the link at lane F passes conditioning and enters the resampler. `perr`: parity
errors in the coefficients that it uses (R404). -/
def execLineCondition (f : Fin 32) (perr : Nat) (s : State) : Host.Outcome State Fault Refusal :=
  .next <|
    let l := s.linkOf f
    match l.lines with
    | [] => s
    | x :: rest =>
      let s := s.setLink f { l with lines := rest }
      if !s.on (R.SD_STATUS_RUNNING x.desc) then s
      else
        let r := s.condition x perr
        r.1.plaitLine r.2

/-! ## Making a row (R443 to R449) -/

/-- The parts of a sub-tick in which A_h is exact: ε is in 0.01 ppm (R441). -/
def subParts : Nat := 100000000

/-- A_h of a head (R441), in 10⁻⁸ sub-tick. -/
def State.headA (s : State) (v h : Nat) : Int :=
  s.getInt (R.HD_AOFF_A_OFF v h) * (subParts + s.getInt (R.TRK_EPS_EPS v)) + subParts * s.getInt (R.HD_TRK_A_DA v h)

/-- Twice y_p − q in the direction of the run, for an along-web offset a_p, in 10⁻⁸ sub-tick. -/
def PLine.ahead (l : PLine) (dir ah a : Int) (q : Nat) : Int := dir * (subParts * (2 * posDiff l.c q + l.off2 - 2 * a) - 2 * ah)

/-- What a head gives for a row. -/
inductive HStat where
  | present
  | missing
  | pending
deriving DecidableEq, Repr

/-- The two lines that bracket `q` for offset `a`: the lines before the pair, newest first, the pair, and the lines after it. -/
def splitRun (ahead : PLine → Int) : List PLine → List PLine → Option (List PLine × PLine × PLine × List PLine)
  | before, a :: b :: t => if ahead a ≤ 0 ∧ 0 < ahead b then some (before, a, b, t) else splitRun ahead (a :: before) (b :: t)
  | _, _ => none

/-- The least and the greatest a_p of a list of pixels. -/
def aRange (l : List MapPx) : Int × Int :=
  match l with
  | [] => (0, 0)
  | x :: t => (t.foldl (fun m y => min m y.a) x.a, t.foldl (fun m y => max m y.a) x.a)

/-- A line lies beyond `q` for every pixel of its head. -/
def PLine.beyond (l : PLine) (dir ah : Int) (px : List MapPx) (q : Nat) : Bool :=
  decide (0 < min (l.ahead dir ah (aRange px).1 q) (l.ahead dir ah (aRange px).2 q))

/-- Whether head `h` is present for row `q`, missing, or still to come (R443, R445). Where a bound has passed, the head
is missing for the row if no line beyond it had arrived by then; where one had, CUBIC waits for no further line. A row that its first line has passed is never due for
it, and it is missing for that row (assumption 135). -/
def State.headStat (s : State) (v : Nat) (x : PView) (h : PHead) (px : List MapPx) (q : Nat) : HStat :=
  let ah := s.headA v h.head
  let (a0, a1) := aRange px
  let dmin := fun (l : PLine) => min (l.ahead x.dir ah a0 q) (l.ahead x.dir ah a1 q)
  let dmax := fun (l : PLine) => max (l.ahead x.dir ah a0 q) (l.ahead x.dir ah a1 q)
  let runs := s.on (R.SD_STATUS_RUNNING h.desc)
  let late := h.late.find? (·.1 == q)
  if !runs || late == some (q, true) || (h.dir != 0 && h.dir != x.dir) then .missing
  else
    let after := (h.lines.filter fun l => l.beyond x.dir ah px q).length
    let cubic := s.get (R.VW_CTRL_KERN_AW v) == 2 && !x.closing && late.isNone
    match h.lines with
    | [] => .pending
    | l0 :: _ =>
      if 0 < dmax l0 then .missing
      else if after = 0 then .pending
      else if cubic ∧ after < 2 then .pending
      else
        let pairs := (h.lines.zip (h.lines.drop 1)).filter fun (a, b) => decide (dmin a ≤ 0 ∧ 0 < dmax b)
        if pairs.any fun (a, b) => decide (2 * (s.get (R.VW_GAP_GAP_MAX v) : Int) < (lineDiff2 (b.c, b.off2) (a.c, a.off2)).natAbs) then .missing
        else .present

/-- Linear interpolation by t / 256. -/
def linear256 (a b t : Nat) : Nat := (((a : Int) * 256 + (t : Int) * ((b : Int) - a) + 128) / 256).toNat

/-- Cubic interpolation by t / 256 (R443), held within 0 to `top`. -/
def cubic256 (top a b c d t : Nat) : Nat :=
  let x : Int := t
  let w0 := -x ^ 3 + 512 * x ^ 2 - 65536 * x
  let w1 := 3 * x ^ 3 - 1280 * x ^ 2 + 2 * 256 ^ 3
  let w2 := -3 * x ^ 3 + 1024 * x ^ 2 + 65536 * x
  let w3 := x ^ 3 - 256 * x ^ 2
  (clampInt 0 top ((w0 * a + w1 * b + w2 * c + w3 * d + 256 ^ 3) / (2 * 256 ^ 3))).toNat

/-- A fraction in 1/256, halves rounded up. -/
def frac256 (num den : Nat) : Nat := (512 * num + den) / (2 * den)

/-- One interval differs from another by more than 25 %. -/
def uneven (outer central : Int) : Bool := decide (central < 4 * (outer - central).natAbs)

/-- A resampled value: its components, and the OR of the flags of the lines that have a weight in it (R448). -/
abbrev Mix : Type := List Nat × Nat

/-- A head's pixels for a row, and whether CUBIC fell back to LINEAR. -/
def State.headRow (s : State) (v : Nat) (x : PView) (h : PHead) (px : List MapPx) (q : Nat) : List Mix × Bool :=
  let ah := s.headA v h.head
  let kern := s.get (R.VW_CTRL_KERN_AW v)
  let top := if fmtWidth (s.get (R.SD_FORMAT_FMT h.desc)) = 1 then 255 else 65535
  let comps := s.descComps h.desc
  let arr := h.lines.map fun l => (l, l.px.toArray)
  let at_ := fun (l : PLine) (p : Nat) => match arr.find? fun y => y.1.c == l.c && y.1.off2 == l.off2 with
    | some y => y.2.getD p []
    | none => []
  let step := fun (a b : PLine) => x.dir * lineDiff2 (b.c, b.off2) (a.c, a.off2)
  let split := fun (m : MapPx) => splitRun (fun l => l.ahead x.dir ah m.a q) [] h.lines
  -- CUBIC holds for the whole row and head, or not at all
  let cubicOk := px.all fun m => match split m with
    | some (b :: _, a, c, d :: _) => !uneven (step b a) (step a c) && !uneven (step c d) (step a c)
    | _ => false
  let fall := kern == 2 && !cubicOk
  let vals := px.map fun m =>
    match split m with
    | none => (List.replicate comps 0, 0)
    | some (before, a, b, after) =>
      let da := (-(a.ahead x.dir ah m.a q)).toNat
      let t := frac256 da (subParts * (step a b).toNat)
      let va := at_ a m.p
      let vb := at_ b m.p
      let both := (if t < 256 then a.flags else 0) ||| (if 0 < t then b.flags else 0)
      if kern = 0 then if t < 128 then (va, a.flags) else (vb, b.flags)
      else if kern = 2 ∧ cubicOk then
        let p := before.headD a
        let n := after.headD b
        let vp := at_ p m.p
        let vn := at_ n m.p
        ((List.range comps).map fun c => cubic256 top (vp.getD c 0) (va.getD c 0) (vb.getD c 0) (vn.getD c 0) t,
          both ||| (if 0 < t ∧ t < 256 then p.flags ||| n.flags else 0))
      else ((List.range comps).map fun c => linear256 (va.getD c 0) (vb.getD c 0) t, both)
  (vals, fall)

/-- Two values mixed by t / 256: a value of weight 0 gives no flags. -/
def mixBy (f : Nat → Nat) (comps t : Nat) (a b : Mix) : Mix :=
  ((List.range comps).map f, (if t < 256 then a.2 else 0) ||| (if 0 < t then b.2 else 0))

/-- A head's samples at column `j` (R446) from its pixels `vals` at positions `xs`, rising: the value, and whether CUBIC fell back. A
column beyond the outermost pixel takes that pixel. -/
def columnAt (kern top comps : Nat) (xs : Array Int) (vals : Array Mix) (j : Nat) : Mix × Bool :=
  let n := xs.size
  let g : Int := 256 * (j : Int)
  -- the number of pixels at or before the column
  let i := bisect (fun k => decide (k ≤ n) && decide (xs.getD (k - 1) 0 ≤ g)) 17 0
  let px := fun k => vals.getD k ([], 0)
  if i = 0 then (px 0, false)
  else if n ≤ i then (px (n - 1), false)
  else
    let x0 := xs.getD (i - 1) 0
    let x1 := xs.getD i 0
    let t := frac256 (g - x0).toNat (x1 - x0).toNat
    let a := px (i - 1)
    let b := px i
    if kern = 0 then (if t < 128 then a else b, false)
    else if kern = 2 ∧ 2 ≤ i ∧ i + 1 < n ∧ !uneven (x0 - xs.getD (i - 2) 0) (x1 - x0) ∧ !uneven (xs.getD (i + 1) 0 - x1) (x1 - x0) then
      let p := px (i - 2)
      let q := px (i + 1)
      let m := mixBy (fun c => cubic256 top (p.1.getD c 0) (a.1.getD c 0) (b.1.getD c 0) (q.1.getD c 0) t) comps t a b
      ((m.1, m.2 ||| (if 0 < t ∧ t < 256 then p.2 ||| q.2 else 0)), false)
    else (mixBy (fun c => linear256 (a.1.getD c 0) (b.1.getD c 0) t) comps t a b, kern == 2)

/-- A row as Plait emits it (R449). -/
structure PRow where
  view : Nat
  pos : Nat
  run : Nat
  gen : Nat
  flags : Nat
  miss : Nat
  comps : Nat
  bytesPer : Nat
  cols : List (List Nat)

/-- The bytes of a row (R449). -/
def PRow.bytes (r : PRow) : List Byte :=
  leBytes 8 r.pos ++ leBytes 4 r.run ++ leBytes 4 r.gen ++ leBytes 1 r.flags ++ leBytes 1 r.view ++ leBytes 2 0 ++
    leBytes 4 r.cols.length ++ leBytes 8 0 ++ leBytes 32 r.miss ++
    r.cols.flatMap fun col => (List.range r.comps).flatMap fun c => leBytes r.bytesPer (col.getD c 0)

/-- The blend of two heads at column `j` of their overlap `j0` to `j1` (R447). -/
def blend (bw j0 j1 j : Nat) (a b : Mix) : Mix :=
  let n := min bw (j1 + 1 - j0)
  let js := j0 + (j1 + 1 - j0 - n) / 2
  if n = 0 then if j ≤ (j0 + j1) / 2 then a else b
  else if j < js then a
  else if js + n ≤ j then b
  else
    let w := ((2 * (j - js) + 1) * 256 + n) / (2 * n)
    mixBy (fun c => linear256 (a.1.getD c 0) (b.1.getD c 0) w) a.1.length w a b

/-- A grid position by whole steps of PITCH from `g`. -/
def gridPos (g pitch : Nat) (k : Int) : Nat := posMod ((g : Int) + k * pitch)

/-- The first grid position, in direction `dir`, at or beyond every pixel of a line, as steps from `g`. -/
def gridSteps (dir : Int) (g pitch : Nat) (ah a0 a1 : Int) (l : PLine) : Int :=
  let y := fun (a : Int) => l.ahead 1 ah a g
  let p : Int := 2 * subParts * (pitch : Int)
  if dir < 0 then min (y a0 / p) (y a1 / p) else max (-(-(y a0) / p)) (-(-(y a1) / p))

/-- The heads of a view that run in its direction, with their valid pixels. -/
def State.runHeads (s : State) (v : Nat) (x : PView) : List (PHead × List MapPx) :=
  x.heads.map fun h => (h, s.mapPixels v h.head (s.get (R.SD_GEOM_WIDTH h.desc)))

/-- The next grid position of the view run: kept, or found from the first lines of its heads (R435, R444). -/
def State.nextRow (s : State) (v : Nat) (x : PView) (hs : List (PHead × List MapPx)) : Option Nat :=
  match x.next with
  | some q => some q
  | none =>
    if x.dir = 0 then none
    else
      let pitch := s.get (R.VW_PITCH_PITCH v)
      let cands := hs.filterMap fun (h, px) =>
        match h.lines with
        | l :: _ => if h.dir = x.dir then some (h, px, l) else none
        | [] => none
      match cands with
      | [] => none
      | (_, _, l0) :: _ =>
        let g := x.grid.getD (l0.c / pitch * pitch)
        let ks := cands.map fun (h, px, l) => let (a0, a1) := aRange px; gridSteps x.dir g pitch (s.headA v h.head) a0 a1 l
        let k := ks.foldl (fun m k => if x.dir < 0 then max m k else min m k) (ks.headD 0)
        some (gridPos g pitch k)

/-- The first row from `q` on, at most `fuel` steps away, for which no head is pending and not every head is missing; and whether every
head is missing for a row before it, or `gone`. -/
def State.firstReady (s : State) (v : Nat) (x : PView) (hs : List (PHead × List MapPx)) : Nat → Nat → Bool → Option Nat × Bool
  | 0, _, gone => (none, gone)
  | fuel + 1, q, gone =>
    let st := hs.map fun (h, px) => s.headStat v x h px q
    if st.all (· != .pending) && st.any (· == .present) then (some q, gone)
    else s.firstReady v x hs fuel (gridPos q (s.get (R.VW_PITCH_PITCH v)) x.dir) (gone || st.all (· == .missing))

/-- Steps of the grid from `q` to the last line of any head. -/
def State.stepsLeft (s : State) (v : Nat) (x : PView) (hs : List (PHead × List MapPx)) (q : Nat) : Nat :=
  hs.foldl (fun m (h, px) => h.lines.foldl (fun m l =>
    let (a0, a1) := aRange px
    let d := max (l.ahead x.dir (s.headA v h.head) a0 q) (l.ahead x.dir (s.headA v h.head) a1 q)
    max m (d.toNat / (2 * subParts * max 1 (s.get (R.VW_PITCH_PITCH v))) + 1)) m) 0

/-- The view has left Plait: its unit is OFF, and no head is missing any more (R442, R463). -/
def State.plaitOff (s : State) (v : Nat) : State :=
  ((s.clear (R.VW_STATUS_HEAD_MISS v)).setPlait v {}).unitTo (viewUnit v) .off

/-- `n` tracking windows are rejected, in every overlap (R452, R456). -/
def State.trkReject (s : State) (v n : Nat) : State := s.bumpSat (R.TRK_REJ_CNT_CNT v) (n * (s.plaitOf v).overlaps.length)

/-- The next view run follows an ended one, or the unit goes OFF (R442). Windows that were complete as the run ended are rejected (R456).
A unit that stops first completes the run of the lines that it still holds. -/
def State.plaitTurn (s : State) (v : Nat) : State :=
  let x := s.plaitOf v
  let s := s.trkReject v (x.win.length / max 1 (s.get (R.TRK_CFG_TRK_ROWS v)))
  if x.stopping ∧ x.held = [] then s.plaitOff v
  else
    let s := s.setPlait v { x with
      heads := x.heads.map fun h => { h with lines := [], late := [], pair := none }
      next := none, begun := false, dir := 0, first := false, closing := false, held := [], win := [] }
    let s := s.forList x.held fun (h, l) s => s.plaitTake v h l
    if x.stopping then s.setPlait v { s.plaitOf v with closing := true } else s

/-- Lines that no later row needs leave the run: those before the line before the pair that brackets `q`. -/
def dropOld (behind : PLine → Bool) : List PLine → List PLine
  | a :: b :: c :: t => if behind c then dropOld behind (b :: c :: t) else a :: b :: c :: t
  | l => l

/-- The heads of a view are present for a row or missing (R445): what has changed is published, and VW_STATUS shows whether one is missing. -/
def State.headsMiss (s : State) (v : Nat) (hs : List (PHead × Bool)) : State :=
  let s := s.forList hs fun (h, miss) s =>
    if miss && !h.missing then s.publishPlait v h.head 1
    else if !miss && h.missing then s.publishPlait v h.head 2 else s
  let x := s.plaitOf v
  (s.setFlag (R.VW_STATUS_HEAD_MISS v) (hs.any (·.2))).setPlait v
    { x with heads := x.heads.map fun h => { h with missing := hs.any fun y => y.1.head == h.head && y.2 } }

/-- Row `q` is made (R443 to R449) from heads with their status. `perr`: parity errors in the map entries that it uses (R437). -/
def State.makeRow (s : State) (v : Nat) (x : PView) (hs : List (PHead × List MapPx)) (q perr : Nat) : State × PRow :=
  let xw := s.get (R.VW_CTRL_KERN_XW v)
  let width := s.get (R.VW_WIDTH_WIDTH v)
  let d0 := match x.heads with | h :: _ => h.desc | [] => 0
  let comps := s.descComps d0
  let bytesPer := fmtWidth (s.get (R.SD_FORMAT_FMT d0))
  let top := if bytesPer = 1 then 255 else 65535
  -- each head's row: its column function where it is present, flags, and whether CUBIC fell back along the web
  let made : List (PHead × Option (Array Int × Array Mix) × Bool) := hs.map fun (h, px) =>
    if s.headStat v x h px q = .present then
      let (vals, fall) := s.headRow v x h px q
      let dx := s.getInt (R.HD_TRK_X_DX v h.head)
      let xs := px.map fun m => (m.x : Int) + dx
      let rising := match px with | a :: b :: _ => decide (a.x < b.x) | _ => true
      (h, some (if rising then (xs.toArray, vals.toArray) else (xs.reverse.toArray, vals.reverse.toArray)), fall)
    else (h, none, false)
  let col := fun (y : PHead × Option (Array Int × Array Mix) × Bool) (j : Nat) =>
    match y.2.1 with
    | some (xs, vals) => some (columnAt xw top comps xs vals j)
    | none => none
  let none_ : Mix := (List.replicate comps 0, 0)
  let made' : List (Mix × Nat) := (List.range width).map fun j =>
    let here := made.filter fun y => decide (y.1.lo ≤ j ∧ j ≤ y.1.hi)
    match here with
    | a :: b :: _ =>
      match col a j, col b j with
      | some (va, fa), some (vb, fb) => (blend (s.get (R.VW_BLEND_BLEND_W v)) b.1.lo (min a.1.hi b.1.hi) j va vb, fa.toNat + fb.toNat)
      | some (va, fa), none => (va, fa.toNat)
      | none, some (vb, fb) => (vb, fb.toNat)
      | none, none => (none_, 0)
    | [a] => match col a j with
      | some (va, fa) => (va, fa.toNat)
      | none => (none_, 0)
    | [] => (none_, 0)
  let miss := made.foldl (fun m y => if y.2.1.isNone then m ||| 2 ^ y.1.head else m) 0
  let fl := made'.foldl (fun f y => f ||| y.1.2) 0 ||| (if perr = 0 then 0 else 4)
  let falls := (made.filter fun y => y.2.2).length + (made'.map (·.2)).sum
  let flags := fl + (if miss = 0 then 0 else 16) + x.first.toNat * 32 + (if x.dir < 0 then 64 else 0)
  let row : PRow := { view := v, pos := q, run := s.get (R.VW_RUN_RUN v), gen := s.get (R.VW_GEOM_GEN_GEN v), flags := flags, miss := miss,
                      comps := comps, bytesPer := bytesPer, cols := made'.map (·.1.1) }
  let s := s.bumpSat (R.CUBIC_FALL_CNT_CNT v) falls
  let s := if perr = 0 then s else (s.raise R.PLAIT_STATUS_MAP_PERR).bumpSat R.MAP_PERR_CNT_CNT perr
  -- a tracking window takes the overlaps (R451)
  let tc := s.get (R.TRK_CFG_TRK_COMP v)
  let seams := x.overlaps.map fun (a, b, j0, j1) =>
    let js := (List.range (j1 + 1 - j0)).map (· + j0)
    let take := fun (h : PHead) =>
      match made.find? fun y => y.1.head == h.head && y.2.1.isSome with
      | some y => some (js.map fun j => match col y j with | some (m, _) => m.1.getD tc 0 | none => 0)
      | none => none
    match take a, take b with
    | some la, some lb => some (la, lb)
    | _, _ => none
  let win := if s.on (R.VW_CTRL_TRK_EN v) then
      x.win ++ [⟨bitAt flags 5 || bitAt flags 2 || bitAt flags 0, seams⟩]
    else []
  -- the pair that made the row, for UPSAMPLE (R444), and lines no longer needed
  let hs' := made.zip (hs.map (·.2))
  let pairOf := fun (h : PHead) (px : List MapPx) => match px with
    | m :: _ => (splitRun (fun l => l.ahead x.dir (s.headA v h.head) m.a q) [] h.lines).map fun y => (y.2.1.c, y.2.1.off2)
    | [] => none
  let again := hs'.any fun (y, px) => y.2.1.isSome && y.1.pair.isSome && pairOf y.1 px == y.1.pair
  let s := if again then s.raise (R.VW_STATUS_UPSAMPLE v) else s
  let heads := hs'.map fun (y, px) =>
    let h := y.1
    let (a0, a1) := aRange px
    let behind := fun (l : PLine) => decide (max (l.ahead x.dir (s.headA v h.head) a0 q) (l.ahead x.dir (s.headA v h.head) a1 q) ≤ 0)
    { h with pair := if y.2.1.isSome then pairOf h px else none, lines := dropOld behind h.lines,
             late := h.late.filter fun y => decide (0 < x.dir * posDiff y.1 q) }
  let s := if miss = 0 then s else s.bumpSat (R.HEAD_MISS_ROWS_CNT v)
  let s := s.setPlait v { x with heads := heads, grid := some q, first := false, win := win,
                                 next := some (gridPos q (s.get (R.VW_PITCH_PITCH v)) x.dir) }
  ((s.headsMiss v (made.map fun y => (y.1, y.2.1.isNone))).bump (R.VW_ROW_CNT_CNT v), row)

/-- The next row of a view, if it can be completed; an ended run gives way to the next when no row is left. -/
def State.plaitRow (s : State) (v perr : Nat) : State × Option PRow :=
  let x := s.plaitOf v
  let hs := s.runHeads v x
  match s.nextRow v x hs with
  | none => (if x.closing then s.plaitTurn v else s, none)
  | some q =>
    let st := hs.map fun (h, px) => s.headStat v x h px q
    if st.all (· != .pending) && st.any (· == .present) then
      let r := s.makeRow v x hs q perr
      (r.1, some r.2)
    else if x.closing then
      let (ready, gone) := s.firstReady v x hs (s.stepsLeft v x hs q + 1) q false
      let s := if gone then s.headsMiss v (hs.map fun y => (y.1, true)) else s
      let x := s.plaitOf v
      let hs := s.runHeads v x
      match ready with
      | some q' => let r := s.makeRow v x hs q' perr; (r.1, some r.2)
      | none => (s.plaitTurn v, none)
    else if st.any (· == .pending) then (s.setPlait v { x with next := some q }, none)
    else
      -- every head is missing: the row is not emitted, and the next grid position that a line bounds follows
      let s := s.headsMiss v (hs.map fun y => (y.1, true))
      let x := s.plaitOf v
      let q1 := gridPos q (s.get (R.VW_PITCH_PITCH v)) x.dir
      if hs.any fun (h, _) => h.late.any (·.1 == q) then (s.setPlait v { x with next := some q1 }, none)
      else
        let ks := hs.flatMap fun (h, px) =>
          let (a0, a1) := aRange px
          h.lines.filterMap fun l =>
            let k := gridSteps x.dir q (s.get (R.VW_PITCH_PITCH v)) (s.headA v h.head) a0 a1 l
            if 0 < x.dir * k then some k else none
        match ks with
        | [] => (s, none)
        | k :: t =>
          let k := t.foldl (fun m k => if x.dir < 0 then max m k else min m k) k
          (s.setPlait v { x with next := some (gridPos q (s.get (R.VW_PITCH_PITCH v)) k) }, none)

/-- How far the view position has passed q + A_h in the direction of the run, in 10⁻⁸ sub-tick. -/
def State.pastHead (s : State) (v h q : Nat) : Int :=
  (s.plaitOf v).dir * (subParts * posDiff (s.viewPos v) q - s.headA v h)

/-- The first row from `q` on, at most `fuel` steps away, that still waits for a head. -/
def State.awaited (s : State) (v : Nat) (x : PView) (h : PHead) (px : List MapPx) : Nat → Nat → Option Nat
  | 0, _ => none
  | fuel + 1, q =>
    if s.headStat v x h px q = .pending then some q
    else s.awaited v x h px fuel (gridPos q (s.get (R.VW_PITCH_PITCH v)) x.dir)

/-- The first row that still waits for head `h` does so no longer, if the view is past q + A_h by at least `margin` (R445): the bound runs
for each head on its own, so it may pass for rows that wait for other heads too. -/
def State.headLate (s : State) (v h : Nat) (margin : Nat) : State :=
  let x := s.plaitOf v
  let hs := s.runHeads v x
  match s.nextRow v x hs, hs.find? (fun y => y.1.head == h) with
  | some q0, some (y, px) =>
    match s.awaited v x y px (s.stepsLeft v x [(y, px)] q0 + y.late.length + 1) q0 with
    | some q =>
      if (margin : Int) ≤ s.pastHead v h q then
        let e := (q, !y.lines.any fun l => l.beyond x.dir (s.headA v h) px q)
        s.setPlait v { x with next := some q0, heads := x.heads.map fun z => if z.head = h then { z with late := e :: z.late } else z }
      else s
    | none => s
  | _, _ => s

/-- HEAD_TIMEOUT (R445): the bound has passed for head `h` since the view reached q + A_h. -/
def execHeadTimeout (v : Fin 8) (h : Fin 256) (s : State) : Host.Outcome State Fault Refusal := .next (s.headLate v h 0)

/-- LATE_MARGIN_PASS (R445): the view position passes q + A_h + LATE_MARGIN. -/
def execLateMarginPass (v : Fin 8) (h : Fin 256) (s : State) : Host.Outcome State Fault Refusal :=
  .next (s.headLate v h (subParts * s.get (R.VW_LATE_LATE_MARGIN v) + 1))

/-! ## Tracking (R451 to R455) -/

/-- The normalised correlation of two lists of samples, in 2⁻⁴⁰; 0 where a list is constant and none is defined (assumption 133). -/
def corr (l : List (Nat × Nat)) : Int :=
  let n : Int := l.length
  let (sa, sb, saa, sbb, sab) := l.foldl (fun (t : Int × Int × Int × Int × Int) (x : Nat × Nat) =>
    (t.1 + x.1, t.2.1 + x.2, t.2.2.1 + x.1 * x.1, t.2.2.2.1 + x.2 * x.2, t.2.2.2.2 + x.1 * x.2)) (0, 0, 0, 0, 0)
  let num := n * sab - sa * sb
  let den := (n * saa - sa * sa) * (n * sbb - sb * sb)
  if den ≤ 0 then 0 else num.sign * sqrtFloor (num.natAbs ^ 2 * 2 ^ 80 / den.toNat)

/-- The score of a template (R483): negative correlations score 0. -/
def corr40 (l : List (Nat × Nat)) : Nat := (corr l).toNat

/-- The standard deviation of samples is below `m`. -/
def stdBelow (m : Nat) (l : List Nat) : Bool :=
  let n := l.length
  decide (n * (l.map fun x => x * x).sum - l.sum ^ 2 < m ^ 2 * n ^ 2)

/-- The peak of a parabola through three values, in 1/16 of a step from the middle one. -/
def parabola16 (l c r : Int) : Int :=
  let den := 2 * (2 * c - l - r)
  if den ≤ 0 then 0 else divRound (16 * (r - l)) den.toNat

/-- The measurement of one overlap over a window (R451, R452): mx in 1/256 column and my in 1/16 row, or none when rejected. -/
def measure (range minCorr minStd : Nat) (rows : List (List Nat × List Nat)) : Option (Int × Int) :=
  let n := rows.length
  let m := match rows with | r :: _ => r.1.length | [] => 0
  let a := (rows.map fun r => r.1.toArray).toArray
  let b := (rows.map fun r => r.2.toArray).toArray
  let k := 2 * range + 1
  let score := fun (dy dx : Nat) =>
    corr ((List.range (n - 2 * range)).flatMap fun r => (List.range (m - 2 * range)).map fun j =>
      ((a.getD (r + range) #[]).getD (j + range) 0, (b.getD (r + dy) #[]).getD (j + dx) 0))
  let all := ((List.range k).map fun dy => ((List.range k).map (score dy)).toArray).toArray
  let val := fun dy dx => (all.getD dy #[]).getD dx 0
  let best := (List.range k).foldl (fun (t : Int × Nat × Nat) dy => (List.range k).foldl (fun (t : Int × Nat × Nat) dx =>
    if t.1 < val dy dx then (val dy dx, dy, dx) else t) t) (val range range, range, range)
  let (c, dy, dx) := best
  if rows.isEmpty ∨ c * 256 < minCorr * 2 ^ 40 ∨ stdBelow minStd (rows.flatMap (·.1)) ∨ stdBelow minStd (rows.flatMap (·.2)) ∨
      dy = 0 ∨ dx = 0 ∨ dy + 1 = k ∨ dx + 1 = k then none
  else
    some (((dx : Int) - range) * 256 + parabola16 (val dy (dx - 1)) c (val dy (dx + 1)) * 16,
      ((dy : Int) - range) * 16 + parabola16 (val (dy - 1) dx) c (val (dy + 1) dx))

/-- The heads from `h` up the web, each the upper neighbour of the one before: at most `fuel` of them. -/
def upPath (hs : List PHead) : Nat → Nat → List Nat
  | 0, _ => []
  | fuel + 1, h =>
    match hs.find? fun y => y.head == h with
    | some y => h :: (match y.up with | some u => upPath hs fuel u | none => [])
    | none => []

/-- The residuals of the overlaps of a list of heads, summed: none where one is rejected or unmeasured. -/
def sumRes (res : List (Nat × Int)) : List Nat → Option Int
  | [] => some 0
  | h :: t =>
    match res.find? fun y => y.1 == h, sumRes res t with
    | some y, some n => some (y.2 + n)
    | _, _ => none

/-- The sum from the anchor to head `h` of the residuals of the overlaps between them (R453, step 3): those crossed upward count up, those
crossed downward down. There is none beyond a rejected overlap. -/
def chainSum (hs : List PHead) (res : List (Nat × Int)) (anchor h : Nat) : Option Int :=
  let pa := upPath hs hs.length anchor
  let ph := upPath hs hs.length h
  if !pa.any ph.contains then none
  else
    match sumRes res (pa.takeWhile fun y => !ph.contains y), sumRes res (ph.takeWhile fun y => !pa.contains y) with
    | some a, some b => some (a - b)
    | _, _ => none

/-- A bounded step by 2^−TC of a sum, held within a limit: the new value, and whether it was held. -/
def trackStep (old sum : Int) (tc step lim : Nat) : Int × Bool :=
  let d := clampInt (-step) step (divRound sum (2 ^ tc))
  let x := clampInt (-lim) lim (old + d)
  (x, decide (x ≠ old + d))

/-- An overlap as a window measures it (R451, R452): the lower head, the upper one, and mx and my unless it is rejected. -/
abbrev Meas : Type := PHead × PHead × Option (Int × Int)

/-- The measurements of a window (R451, R452): mx in 1/256 column, my in sub-ticks. A window that ends with its view run is rejected
(R456). -/
def State.trkMeasure (s : State) (v : Nat) (x : PView) (rows : List PWinRow) : List Meas :=
  let pitch : Int := s.get (R.VW_PITCH_PITCH v)
  x.overlaps.zipIdx.map fun ((a, b, _), i) =>
    let data := rows.map fun r => r.seams.getD i none
    if x.closing || rows.any (·.bad) || data.any Option.isNone then (a, b, none)
    else (a, b, (measure (s.get (R.TRK_CFG_TRK_RANGE v)) (s.get (R.TRK_THRESH_MIN_CORR v)) (s.get (R.TRK_THRESH_MIN_STD v))
      (data.map fun d => d.getD ([], []))).map fun (mx, my) => (mx, x.dir * divRound (my * pitch) 16))

/-- The measurements are counted and shown (R452). -/
def State.trkShow (s : State) (v : Nat) (meas : List Meas) : State :=
  s.forList meas fun y s =>
    match y.2.2 with
    | none => s.bumpSat (R.TRK_REJ_CNT_CNT v)
    | some (mx, my) =>
      ((s.bump (R.TRK_OK_CNT_CNT v)).setInt (R.HD_TRK_X_OVL_X v y.1.head) mx).setInt (R.HD_TRK_A_OVL_A v y.1.head) (clampInt (-32768) 32767 my)

/-- A correction held at its limit (R453). -/
def State.trkHeld (s : State) (v h : Nat) (held : Bool) : State :=
  if held then (s.raise (R.VW_STATUS_TRK_LIMIT v)).publishPlait v h 0 else s

/-- The tracked state moves by the accepted measurements (R453): strain, residuals, chain and update, in this order. -/
def State.trkUpdate (s : State) (v : Nat) (hs : List PHead) (meas : List Meas) : State :=
  let stagger := fun (y : Meas) => s.getInt (R.HD_AOFF_A_OFF v y.2.1.head) - s.getInt (R.HD_AOFF_A_OFF v y.1.head)
  -- strain, in 0.01 ppm
  let eps := meas.filterMap fun y =>
    match y.2.2 with
    | some (_, my) =>
      let d := stagger y
      if d ≠ 0 ∧ s.get (R.TRK_EPS_CFG_STRETCH_MIN v) * 256 ≤ d.natAbs then some (divRound (my * subParts * d.sign) d.natAbs) else none
    | none => none
  let med := if eps.isEmpty then 0 else divRound (median2 eps) 2
  let tc := s.get (R.TRK_CFG_TRK_TC v)
  let s := if eps.isEmpty then s
    else s.setInt (R.TRK_EPS_EPS v) (trackStep (s.getInt (R.TRK_EPS_EPS v)) med tc 1000 (s.get (R.TRK_EPS_CFG_EPS_LIM v) * 100)).1
  let rx := meas.filterMap fun y => y.2.2.map fun m => (y.1.head, -m.1)
  let ra := meas.filterMap fun y => y.2.2.map fun m => (y.1.head, -(m.2 - divRound (med * stagger y) subParts))
  let lowest := hs.foldl (fun m h => min m h.head) 256
  let anchor := if hs.any fun h => h.head == s.get (R.VW_CTRL_ANCHOR v) then s.get (R.VW_CTRL_ANCHOR v) else lowest
  let s := s.forList hs fun h s =>
    if h.head = anchor then (s.setInt (R.HD_TRK_X_DX v h.head) 0).setInt (R.HD_TRK_A_DA v h.head) 0
    else
      match chainSum hs rx anchor h.head, chainSum hs ra anchor h.head with
      | some sx, some sa =>
        let (dx, lx) := trackStep (s.getInt (R.HD_TRK_X_DX v h.head)) sx tc (s.get (R.TRK_STEP_X_STEP v)) (s.get (R.TRK_LIMIT_X_LIM v))
        let (da, la) := trackStep (s.getInt (R.HD_TRK_A_DA v h.head)) sa tc (s.get (R.TRK_STEP_A_STEP v)) (s.get (R.TRK_LIMIT_A_LIM v))
        (((s.setInt (R.HD_TRK_X_DX v h.head) dx).setInt (R.HD_TRK_A_DA v h.head) da).trkHeld v h.head lx).trkHeld v h.head la
      | _, _ => s
  s.bump (R.VW_GEOM_GEN_GEN v)

/-- TRK_WINDOW_END (R451 to R456): a window of TRK_ROWS rows is measured, and the state moves unless it is held (R454) or no overlap was
accepted. -/
def execTrkWindowEnd (v : Fin 8) (s : State) : Host.Outcome State Fault Refusal :=
  .next <|
    let v := v.val
    let x := s.plaitOf v
    let n := max 1 (s.get (R.TRK_CFG_TRK_ROWS v))
    if !s.on (R.VW_CTRL_TRK_EN v) || decide (x.win.length < n) then s
    else
      let meas := s.trkMeasure v x (x.win.take n)
      let s := (s.setPlait v { x with win := x.win.drop n }).trkShow v meas
      if s.on (R.VW_CTRL_TRK_HOLD v) || meas.all (·.2.2.isNone) then s else s.trkUpdate v x.heads meas

end Sys2Proof.Machine
end

