-- ==== Sys2Proof/Machine/SkepBase.lean ====
section
/-!
DEFINITION. Isaow commands as Skep takes them (R645 to R654): the copy of a request, the checks that every command shares, and its
completion. A requester is a mailbox (0 to 20) or a remote sender (32 + SENDER); keys from 512 upward are commands whose mailbox a
reset has cleared since (R651).
-/
set_option Elab.async false
namespace Sys2Proof.Machine

/-- STATUS codes (R654). -/
abbrev Isaow.ok : Nat := 0
abbrev Isaow.unsupported : Nat := 1
abbrev Isaow.badLength : Nat := 2
abbrev Isaow.badArg : Nat := 3
abbrev Isaow.denied : Nat := 4
abbrev Isaow.busy : Nat := 5
abbrev Isaow.notReady : Nat := 6
abbrev Isaow.noMemory : Nat := 7
abbrev Isaow.copyErr : Nat := 8
abbrev Isaow.badRecipe : Nat := 9
abbrev Isaow.badRef : Nat := 10
abbrev Isaow.badTol : Nat := 11
abbrev Isaow.badRules : Nat := 12
abbrev Isaow.gateTooClose : Nat := 13
abbrev Isaow.notActive : Nat := 14
abbrev Isaow.badView : Nat := 15
abbrev Isaow.armBusy : Nat := 16
abbrev Isaow.late : Nat := 17
abbrev Isaow.full : Nat := 18
abbrev Isaow.writeWindow : Nat := 19
abbrev Isaow.targetErr : Nat := 20
abbrev Isaow.aborted : Nat := 21
abbrev Isaow.fault : Nat := 22
abbrev Isaow.timeout : Nat := 23
abbrev Isaow.staleGen : Nat := 24
abbrev Isaow.dependency : Nat := 25
abbrev Isaow.cancelled : Nat := 26
abbrev Isaow.learnFail : Nat := 27
abbrev Isaow.skepReset : Nat := 28
abbrev Isaow.skepHalted : Nat := 29

def State.cmdOf (s : State) (m : Nat) : SkCmd := Tbl.get {} s.skep.cmds m
def State.setCmd (s : State) (m : Nat) (c : SkCmd) : State :=
  { s with skep := { s.skep with cmds := Tbl.put {} s.skep.cmds m c } }

/-- OPCODE, LEN, TOKEN and parameters of a request (R646). -/
def reqOp (r : List Byte) : Nat := leAt r 0 2
def reqLen (r : List Byte) : Nat := leAt r 2 2
def reqToken (r : List Byte) : Nat := leAt r 4 4
def reqParams (r : List Byte) : List Byte := (r.drop 8).take (reqLen r)

/-- What R662 and R663 say of an opcode and its OP: the least and the greatest LEN, whether it needs the rights of function 1, and
whether the OP is one of those listed. -/
structure IsaowRow where
  lo : Nat
  hi : Nat
  priv : Bool := false
  opOk : Bool := true

/-- The opcodes of Isaow 2.0 (R662). A length fits when it reaches the last byte listed and ends within its 8-byte group. -/
def isaowRow (op : Nat) (p : List Byte) : Option IsaowRow :=
  match op with
  | 0x0001 => some { lo := 4, hi := 8 }
  | 0x0002 => some { lo := 16, hi := 16 }
  | 0x0010 => some { lo := 4, hi := 8 }
  | 0x0011 => some { lo := 14, hi := 16, opOk := decide (leAt p 4 1 ≤ 2) }
  | 0x0020 => some { lo := 24, hi := 24 }
  | 0x0021 =>
    let v := leAt p 1 1
    some { lo := if v = 0 ∨ bitAt (leAt p 2 1) 0 then 3 else 16 + 8 * v.log2, hi := 72 }
  | 0x0022 => some { lo := 2, hi := 8 }
  | 0x0023 => some { lo := 5, hi := 8 }
  | 0x0030 => some { lo := 16, hi := 16 }
  | 0x0031 => some { lo := 16, hi := 4088, priv := true }
  | 0x0032 => some { lo := 16, hi := 16 }
  | 0x0040 => some { lo := 2, hi := 8 }
  | 0x0041 => some { lo := 2, hi := 8 }
  | 0x0050 => some { lo := if leAt p 0 1 = 1 then 12 else 1, hi := 16, priv := leAt p 0 1 != 0, opOk := decide (leAt p 0 1 ≤ 2) }
  | 0x0051 => some { lo := if leAt p 0 1 = 1 then 8 else 1, hi := 8, priv := leAt p 0 1 != 0, opOk := decide (leAt p 0 1 ≤ 1) }
  | 0x0060 => some { lo := 4, hi := 8, priv := true }
  | 0x0061 => some { lo := 0, hi := 0 }
  | _ => none

/-- The status that refuses a command before it runs (R653): UNSUPPORTED, BAD_LENGTH, DENIED, or BAD_ARG for an OP that is not listed. -/
def SkCmd.refusal (c : SkCmd) : Option Nat :=
  let p := reqParams c.req
  match isaowRow (reqOp c.req) p with
  | none => some Isaow.unsupported
  | some r =>
    let len := reqLen c.req
    if c.req.length < 8 + len ∨ len < r.lo ∨ r.hi < len then some Isaow.badLength
    else if r.priv && !c.priv then some Isaow.denied
    else if !r.opOk then some Isaow.badArg
    else none

/-- A command's STATUS and response parameters are known. -/
def State.skepAnswer (s : State) (m status : Nat) (p : List Byte := []) : State :=
  let c := s.cmdOf m
  if c.req = [] then s else s.setCmd m { c with started := true, resp := some (status, p) }

/-- What a command names, of which the commands take effect in the order of their RINGs (R648): units by name, job slots and views as their units;
and, above them, the copy of a job image and the writer of the MRAM (R701). -/
def SkCmd.names (c : SkCmd) : List Nat :=
  let p := reqParams c.req
  let views := fun (x : Nat) => ((List.range 8).filter fun v => bitAt x v).map viewUnit
  match reqOp c.req with
  | 0x0010 | 0x0011 => [leAt p 0 4]
  | 0x0020 => slotUnit (leAt p 0 1) :: (if leAt p 16 8 = 0 then [] else [2 ^ 32])
  | 0x0021 | 0x0022 => slotUnit (leAt p 0 1) :: views (leAt p 1 1)
  | 0x0023 => [slotUnit (leAt p 0 1), viewUnit (leAt p 1 1)]
  | 0x0031 => [2 ^ 32 + 1]
  | 0x0040 => [epUnit (leAt p 0 2)]
  | 0x0041 => [chainUnit (leAt p 0 1)]
  | _ => []

/-- A RING accepted before another (R648): in one clock the mailboxes come in the order of their numbers, and remote commands last. -/
def rungBefore (a b : Nat × Nat) : Bool := decide (a.1 < b.1) || (a.1 == b.1 && decide (a.2 < b.2))

/-- A command whose RING was accepted earlier names the same unit, slot or view and has yet to take effect (R648). -/
def State.skepBehind (s : State) (m : Nat) : Bool :=
  let c := s.cmdOf m
  s.skep.cmds.any fun (k, x) => k != m && x.req != [] && (!x.started || x.fetch.isSome) && x.resp.isNone && rungBefore x.rung c.rung &&
    x.names.any fun u => c.names.contains u

/-- The command of requester `m` runs, if it is opcode `op` with parameters that `sel` selects, has not run yet and stands behind no other (R648);
the checks of R653 come first. -/
def State.skepRun (s : State) (m op : Nat) (sel : List Byte → Bool) (f : List Byte → State → State) : State :=
  let c := s.cmdOf m
  let p := reqParams c.req
  if c.req = [] ∨ c.started ∨ c.resp.isSome ∨ !s.skepRuns ∨ reqOp c.req ≠ op ∨ !sel p ∨ s.skepBehind m then s
  else
    match c.refusal with
    | some st => s.skepAnswer m st
    | none => f p (s.setCmd m { c with started := true })

/-- The function through which a requester reaches bus addresses, if it has one (R645, R649). -/
def reqFn (m : Nat) : Option Nat :=
  let k := if m < 512 then m else m % 32
  if k < 16 then some 0 else if k < 20 then some 1 else none

/-- A requester may name this bus address: one without a function gives 0 (R649). -/
def addrOk (m addr : Nat) : Bool := addr == 0 || (reqFn m).isSome

/-- The inline limit of a requester, in parameter bytes (R649): a RESP holds 1,468 bytes of response, its own 8 among them (R155, R166; assumption 53). -/
def inlineMax (m : Nat) : Nat := if 32 ≤ m ∧ m < 512 then 1460 else 4088

/-- The next read of host memory that Skep makes. -/
def State.skepRead (s : State) (f : Nat) (kind : Nat → ReqKind) (addr len : Nat) : State :=
  let id := s.skep.reads + 1
  ({ s with skep := { s.skep with reads := id } }).portRead f (kind id) addr len

/-- Data goes to BUF, or inline after response parameters `p`, filled to `at_` bytes, and cut at the inline limit (R649). The last byte written to
BUF is read back before the command completes. -/
def State.skepData (s : State) (m buf : Nat) (p : List Byte) (at_ : Nat) (data : List Byte) : State :=
  if buf = 0 then s.skepAnswer m Isaow.ok ((padTo at_ p ++ data).take (inlineMax m))
  else if data = [] then s.skepAnswer m Isaow.ok p
  else
    let f := (reqFn m).getD 0
    let s := s.setCmd m { s.cmdOf m with started := true, held := some (s.skep.reads + 1, p) }
    (s.portWrite f buf data).skepRead f (.skepBack m) (buf + data.length - 1) 1

/-- The read-back of a buffer has ended (R649). -/
def State.skepBackIn (s : State) (m id : Nat) (ok : Bool) : State :=
  let c := s.cmdOf m
  match c.held with
  | some (i, p) =>
    if i ≠ id then s
    else
      let s := s.setCmd m { c with held := none }
      if ok then s.skepAnswer m Isaow.ok p else s.skepAnswer m Isaow.targetErr
  | none => s

/-- The next part of a command's buffer is read (R649, R663): the parts are read one after another. -/
def State.skepFetch (s : State) (m : Nat) (x : SkFetch) : State :=
  let f := (reqFn m).getD 0
  let at_ := x.addr + x.data.length
  let n := min (min (s.mrrs f) (x.len - x.data.length)) (4096 - at_ % 4096)
  if n = 0 then s.setCmd m { s.cmdOf m with started := true, fetch := some x }
  else (s.setCmd m { s.cmdOf m with started := true, fetch := some { x with id := s.skep.reads + 1 } }).skepRead f (.skepIn m) at_ n

/-- A part of a command's buffer has arrived, or could not be read. -/
def State.skepFetchIn (s : State) (m id : Nat) (r : Option (List Byte)) : State :=
  let c := s.cmdOf m
  match c.fetch with
  | some x =>
    if x.id ≠ id then s
    else match r with
      | some bs => s.skepFetch m { x with data := x.data ++ bs }
      | none => s.setCmd m { c with fetch := some { x with bad := true } }
  | none => s

/-- A response as it stands in a mailbox or a RESP (R646). -/
def respBytes (status token : Nat) (p : List Byte) : List Byte := leBytes 2 status ++ leBytes 2 p.length ++ leBytes 4 token ++ p

/-- Bytes of a mailbox. -/
def State.boxBytes (s : State) (m off n : Nat) : List Byte := (List.range n).map fun i => Tbl.get 0 s.skep.box (m * 4096 + off + i)
def State.setBox (s : State) (m off : Nat) : List Byte → State
  | [] => s
  | b :: bs =>
    let s := if off < 4096 then { s with skep := { s.skep with box := Tbl.put 0 s.skep.box (m * 4096 + off) b } } else s
    s.setBox m (off + 1) bs

/-- A mailbox is completed with a response (R647): BUSY clears, DONE is set, and its interrupt is sent: MSI-X, or MAILBOX of GIRQ_STATUS while
MSI-X is off (R737). -/
def State.boxDone (s : State) (m status token : Nat) (p : List Byte) : State :=
  let s := s.setBox m 0 (respBytes status token p)
  let s := ((s.clear (R.MB_STATUS_BUSY m)).raise (R.MB_STATUS_DONE m)).set (R.MB_STATUS_LAST_STATUS m) status
  let s := s.bump (R.MB_CNT_CNT m)
  let f := if m < 16 then 0 else 1
  if !s.on (R.MB_IRQ_IRQ_EN m) || decide (20 ≤ m) then s
  else if s.on (Cfg.MSIX_EN f) then s.msix f (s.get (R.MB_IRQ_VECTOR m))
  else s.girq f (R.GIRQ_STATUS_MAILBOX f)

/-- A command of a remote sender is answered, and its response stored for a repeat of its SEQ (R166). -/
def State.remoteDone (s : State) (m status token : Nat) (p : List Byte) : State :=
  let r := s.remoteOf (m - 32)
  let body := respBody r.seq 0 (respBytes status token p)
  (s.setRemote (m - 32) { r with lastSeq := some r.seq, stored := body }).sendResp r.port r.da body

/-! ## Units as commands show them (R655, R658) -/

/-- OBSERVED of a unit (R655): 0 STOPPED, 1 MOVING, 2 DOWN. -/
def State.observed (s : State) (u : Nat) : Nat :=
  let i := u % 2 ^ 24
  let moving := fun (b : Bool) => if b then 1 else 0
  match u / 2 ^ 24 with
  | 1 => if s.laneReady i then 1 else if s.on (R.LANE_CTRL_EN i) && s.get (R.LANE_STATUS_RX_PWR_ACT i) == 0 then 2
         else moving (s.laneOf i).sending
  | 2 => if s.linkState i = 4 then 1 else if s.linkState i = 0 then 0 else 2
  | 3 => if s.epState i = 3 then 2 else moving ((s.descsOfEp i).any s.running)
  | 4 => if s.on (R.LING_CH_STATE_CAUSE i) then 2 else moving (Tbl.get ({} : Chain) s.chains i).enable
  | 5 => moving (s.on (R.ENC_CTRL_EN i))
  | 6 => moving ((s.unitOn u || s.unitState u == .stopping) && (s.plaitOf i).begun)
  | 7 => moving (decide (4 ≤ s.get (R.SLOT_STATE_STATE i)))
  | 8 => if s.on (R.RING_CTRL_EN i) then 1 else if s.unitOn u then 2 else 0
  | 9 => let st := s.get (R.DMA_CH_STATE_STATE i); if st = 3 then 2 else moving (st == 1)
  | _ => 0

/-- The unit response (R658), of an entry; `cause`: what it shows as CAUSE. -/
def State.unitResponse (s : State) (u : Nat) (e : UnitEntry) (cause : Nat) : List Byte :=
  let permit := e.state == .starting || e.state == .on
  leBytes 4 u ++ leBytes 1 (unitStateCode e.state) ++
    leBytes 1 (permit.toNat + 2 * s.observed u + 8 * e.deferred.toNat) ++ leBytes 1 cause ++ leBytes 1 0 ++ leBytes 4 e.gen ++
    leBytes 4 0 ++ leBytes 8 e.changed ++ leBytes 4 e.downMs

/-- What a UNIT_SET that waits is answered with (R658, R661): the entry reached at the moment that WAIT names; TIMEOUT, when TIMEOUT_MS
has expired first. -/
def State.waitAnswer (s : State) (c : SkCmd) : Option (Nat × List Byte) :=
  match c.wait with
  | none => none
  | some (u, _) =>
    match c.seen with
    | some e =>
      some (if c.cancelled then Isaow.cancelled else if e.state = .fault then Isaow.fault else Isaow.ok, s.unitResponse u e e.cause)
    | none =>
      if leAt (reqParams c.req) 12 2 = 0 ∨ !bitAt (leAt (reqParams c.req) 5 1) 0 then none
      else some (Isaow.timeout, s.unitResponse u (s.unitOf u) (s.unitOf u).cause)

/-- The result of a SELF_TEST whose items have all ended or been skipped (R663). -/
def SelfTest.answer (t : SelfTest) : Option (Nat × List Byte) :=
  if (t.ended ||| t.skipped) = t.want then
    let failed := t.ended &&& t.failed
    some (Isaow.ok, leBytes 4 (t.ended - failed) ++ leBytes 4 failed ++ leBytes 4 t.skipped ++ leBytes 4 (if failed = 0 then 0 else t.first))
  else none

/-- STATUS and response of a command that can complete. A command that R653 refuses needs no row of its own. -/
def State.cmdAnswer (s : State) (c : SkCmd) : Option (Nat × List Byte) :=
  match c.resp with
  | some r => some r
  | none =>
    if c.req = [] then none
    else if !c.started then c.refusal.map fun st => (st, [])
    else match c.test with
      | some t => t.answer
      | none => s.waitAnswer c

/-- MB_COMMAND_DONE (R647): the command of a requester completes. -/
def execMbCommandDone (m : Fin 1024) (s : State) : Host.Outcome State Fault Refusal :=
  .next <|
    let m := m.val
    let c := s.cmdOf m
    match s.cmdAnswer c with
    | none => s
    | some (status, p) =>
      let token := reqToken c.req
      let s := s.setCmd m {}
      if 512 ≤ m then s
      else if m ≤ 20 then s.boxDone m status token p
      else if 32 ≤ m then s.remoteDone m status token p
      else s

/-- A write of RING to MB_CTRL (R647): while BUSY it sets DB_IGN; a halted Skep's mailbox completes at once (R672); before
configuration is released the mailboxes accept none (R723), and while Skep restarts nothing takes the request. -/
def State.boxRing (s : State) (m : Nat) : State :=
  if !s.skep.released then s
  else if s.on (R.MB_STATUS_BUSY m) then s.raise (R.MB_STATUS_DB_IGN m)
  else
    let s := (s.raise (R.MB_STATUS_BUSY m)).clear (R.MB_STATUS_DONE m)
    if s.get R.SKEP_STATUS_STATE = 2 then
      (s.boxDone m Isaow.skepHalted (leNat (s.boxBytes m 4 4)) []).girqBoth R.GIRQ_STATUS_SKEP
    else
      let len := leNat (s.boxBytes m 2 2)
      s.setCmd m { req := s.boxBytes m 0 (min 4096 (8 + len)), priv := decide (16 ≤ m), rung := (s.clk, m) }

/-- A CAL_WRITE that was mailbox `m`'s goes on under `key` (R651). -/
def State.rekeyWrite (s : State) (m key : Nat) : State :=
  { s with nvm := { s.nvm with writing := s.nvm.writing.map fun (w : GroupWrite) => if w.who = m then { w with who := key } else w } }

/-- What waits for the command of a requester goes on for it under another key (R651): job copies, armings and their requests to the position
engine, writes of groups, and self-test items. -/
def State.rekey (s : State) (m key : Nat) : State :=
  let arm := Tbl.get {} s.jobs.arms m
  let s := { s with jobs := { s.jobs with
    load := s.jobs.load.map fun (e : Nat × Option JLoad) => (e.1, e.2.map fun (l : JLoad) => if l.who = m then { l with who := key } else l)
    arms := if arm.views = [] then s.jobs.arms else Tbl.put {} (Tbl.put {} s.jobs.arms m {}) key arm } }
  let tag := fun (r : PReq) => if 2 ^ 20 ≤ r.tag ∧ (r.tag - 2 ^ 20) / 8 = m then { r with tag := 2 ^ 20 + key * 8 + r.tag % 8 } else r
  let s := { s with pe := { s.pe with queue := s.pe.queue.map fun (e : Nat × List PReq) => (e.1, if e.1 = clientCode .skep then e.2.map tag else e.2) } }
  let s := s.rekeyWrite m key
  { s with skep := { s.skep with waiting := s.skep.waiting.map fun (e : SchedItem × Nat) =>
      (match e.1 with | .test k i => SchedItem.test (if k = m then key else k) i | y => y, e.2) } }

/-- A reset of a mailbox's function (R651): BUSY and DONE clear; a command that runs goes on without a mailbox. One whose own read of host memory the
reset has abandoned (R616) ends with TARGET_ERR. -/
def State.boxReset (s : State) (m : Nat) : State :=
  let s := (s.clear (R.MB_STATUS_BUSY m)).clear (R.MB_STATUS_DONE m)
  let c := s.cmdOf m
  if c.req = [] then s
  else
    let key := (((List.range 15).map fun j => 512 + 32 * j + m).find? fun k => (s.cmdOf k).req == []).getD (512 + 480 + m)
    let c : SkCmd := if c.held.isSome then { c with held := none, resp := some (Isaow.targetErr, []) }
      else match c.fetch with
        | some x => if x.data.length < x.len then { c with fetch := some { x with bad := true } } else c
        | none => c
    ((s.setCmd m {}).setCmd key c).rekey m key

end Sys2Proof.Machine
end

