-- ==== Sys2Proof/Machine/Recipe.lean ====
section
/-!
DEFINITION. The recipe image (R465 to R472, R503 to R507): its sections, and the checks of a load (R476). An image is read through a
function from a byte offset and a length to bytes.
-/
set_option Elab.async false
namespace Sys2Proof.Machine

/-- Bytes of an image from an offset. -/
abbrev Img := Nat → Nat → List Byte

/-- The image held in a slot's reference segments (R475). -/
def State.slotImg (s : State) (j : Nat) : Img := s.runRead (s.refsOf j)

/-- An image given as a list. -/
def listImg (bs : List Byte) : Img := fun off n => padTo n (bs.drop off)

def Img.u (g : Img) (off n : Nat) : Nat := leNat (g off n)
def Img.i32 (g : Img) (off : Nat) : Int := signed 32 (g.u off 4)

/-- All `n` bytes from an offset are 0. -/
def Img.zeros (g : Img) (off n : Nat) : Bool := (g off n).all (· == 0)

/-- A section (R465). -/
structure Sec where
  type : Nat
  view : Nat
  index : Nat
  len : Nat
  off : Nat
deriving DecidableEq, Repr

/-- The sections of an image, in the order of its table. -/
def Img.secs (g : Img) : List Sec :=
  (List.range (g.u 6 2)).map fun k =>
    let e := 64 + 16 * k
    ⟨g.u e 2, g.u (e + 2) 1, g.u (e + 3) 1, g.u (e + 4) 4, g.u (e + 8) 8⟩

/-- The section of a type, view and INDEX. -/
def Img.sec (g : Img) (type view index : Nat) : Option Sec :=
  g.secs.find? fun x => x.type == type && x.view == view && x.index == index

/-- The section of lane `l`: INDEX l, or INDEX 0 (R503). -/
def Img.laneSec (g : Img) (type view l : Nat) : Option Sec :=
  match g.sec type view l with
  | some x => some x
  | none => g.sec type view 0

def Img.viewMask (g : Img) : Nat := g.u 28 1
def Img.noctxPolicy (g : Img) : Nat := g.u 29 1
def Img.nomarkPolicy (g : Img) : Nat := g.u 30 1

/-! ## Fields of the sections -/

/-- The VIEW section (R467). -/
structure RView where
  rows : Nat
  lanes : Nat
  missMax : Nat
  pitch : Nat
  searchY : Nat
  markMin : Nat
  rowPitch : Nat
deriving DecidableEq, Repr

/-- The VIEW section of a view; all 0 where there is none. -/
def Img.rview (g : Img) (v : Nat) : RView :=
  match g.sec 1 v 0 with
  | none => ⟨0, 0, 0, 0, 0, 0, 0⟩
  | some x => ⟨g.u x.off 2, g.u (x.off + 2) 1, g.u (x.off + 3) 1, g.u (x.off + 4) 4, g.u (x.off + 8) 2, g.u (x.off + 10) 1,
      g.u (x.off + 12) 4⟩

/-- An entry of the LANES section (R468). -/
structure RLane where
  markCol : Nat
  searchX : Nat
  markIndex : Nat
  markAoff : Int
  first : Nat
  last : Nat
deriving DecidableEq, Repr

/-- The entry of web lane `l` of a view. -/
def Img.rlane (g : Img) (v l : Nat) : RLane :=
  match g.sec 2 v 0 with
  | none => ⟨0, 0, 0, 0, 0, 0⟩
  | some x =>
    let o := x.off + 16 * l
    ⟨g.u o 4, g.u (o + 4) 2, g.u (o + 6) 1, g.i32 (o + 8), g.u (o + 12) 2, g.u (o + 14) 2⟩

/-- Columns of a lane's repeat (R502). -/
def RLane.width (x : RLane) : Nat := x.last + 1 - x.first

/-- The template of a MARK section (R469): width, height, component and samples by row. -/
structure RMark where
  w : Nat
  h : Nat
  comp : Nat
  px : List (List Nat)

def Img.rmark (g : Img) (v i : Nat) : Option RMark :=
  (g.sec 3 v i).map fun x =>
    let w := g.u x.off 1
    let h := g.u (x.off + 1) 1
    { w := w, h := h, comp := g.u (x.off + 2) 1
      px := (List.range h).map fun y => (g (x.off + 4 + y * w) w).map (·.toNat) }

/-- The GATE section (R471). -/
structure RGate where
  dist : Nat
  channel : Nat
  unitUs : Bool
  onSuspect : Bool
  width : Nat
  leadUs : Nat
deriving DecidableEq, Repr

def Img.rgate (g : Img) (v : Nat) : Option RGate :=
  (g.sec 5 v 0).map fun x =>
    let fl := g.u (x.off + 5) 1
    ⟨g.u x.off 4, g.u (x.off + 4) 1, bitAt fl 0, bitAt fl 1, g.u (x.off + 6) 2, g.u (x.off + 8) 4⟩

/-- The size of a REFERENCE section's data (R504). -/
def Img.refSize (g : Img) (x : Sec) : Nat := g.u x.off 4 * g.u (x.off + 4) 2 * g.u (x.off + 6) 1 * g.u (x.off + 7) 1
def Img.refLearn (g : Img) (x : Sec) : Bool := bitAt (g.u (x.off + 16) 1) 0

/-! ## The load checks (R476, R507) -/

/-- CRC of the whole image with its own field taken as 0 (R465). -/
def imgCrc (bs : List Byte) : Nat := crc32 (bs.take 24 ++ List.replicate 4 0 ++ bs.drop 28)

/-- Check 3: header. -/
def headerOk (g : Img) (bs : List Byte) (len : Nat) : Bool :=
  decide (64 ≤ len) && g.u 0 4 == 0x43525645 && g.u 4 1 == 1 && g.u 8 8 == len && g.u 24 4 == imgCrc bs

/-- Fields of the header in range or marked 0. -/
def headerFieldsOk (g : Img) (len : Nat) : Bool :=
  decide (1 ≤ g.u 6 2 ∧ g.u 6 2 ≤ 256 ∧ 64 + 16 * g.u 6 2 ≤ len ∧ g.noctxPolicy ≤ 2 ∧ g.nomarkPolicy ≤ 2) && g.zeros 31 33

/-- Check 4 for one section: its place, its type, its lengths, ranges and fields marked 0 (R465 to R472). -/
def Img.secOk (g : Img) (len : Nat) (x : Sec) : Bool :=
  decide (x.off + x.len ≤ len ∧ x.view ≤ 7) &&
  (match x.type with
   | 1 =>
     let r := g.rview x.view
     decide (x.len = 16 ∧ x.index = 0 ∧ 1 ≤ r.rows ∧ 1 ≤ r.lanes ∧ r.lanes ≤ 64 ∧ 1 ≤ r.missMax ∧ 1 ≤ r.searchY ∧ r.searchY ≤ 256) &&
       g.zeros (x.off + 11) 1
   | 2 =>
     let n := (g.rview x.view).lanes
     decide (x.len = 16 * n ∧ x.index = 0) && (List.range n).all fun l =>
       let r := g.rlane x.view l
       decide (r.searchX ≤ 256 ∧ r.first ≤ r.last) && (g.sec 3 x.view r.markIndex).isSome && g.zeros (x.off + 16 * l + 7) 1
   | 3 =>
     let w := g.u x.off 1
     let h := g.u (x.off + 1) 1
     decide (x.index ≤ 15 ∧ 8 ≤ w ∧ w ≤ 64 ∧ 8 ≤ h ∧ h ≤ 64 ∧ g.u (x.off + 2) 1 ≤ 3 ∧ x.len = 4 + w * h) && g.zeros (x.off + 3) 1
   | 4 =>
     decide (x.index = 0 ∧ 32 ≤ x.len ∧ x.len ≤ 512 ∧ x.len % 32 = 0) && (List.range (x.len / 32)).all fun k =>
       bitAt (g.u (x.off + 32 * k) 4) 0 && bitsOf (g.u (x.off + 32 * k) 4) 1 3 == x.view
   | 5 =>
     decide (x.index = 0 ∧ x.len = 16 ∧ 1 ≤ g.u x.off 4 ∧ g.u x.off 4 < 2 ^ 31 ∧ g.u (x.off + 5) 1 < 4) && g.zeros (x.off + 12) 4
   | 6 => decide (x.index ≤ 7 ∧ x.len = 8 + 16384 ∧ g.u x.off 1 = x.index) && g.zeros (x.off + 1) 3
   | 0x10 | 0x11 | 0x12 => true
   | t => bitAt t 15)

/-- Section `k` is one too many: an earlier one has its type, view and INDEX. -/
def Img.dupAt (g : Img) (k : Nat) : Bool :=
  match g.secs[k]? with
  | none => false
  | some x => (g.secs.take k).any fun y => y.type == x.type && y.view == x.view && y.index == x.index

/-- Views of VIEW_MASK. -/
def Img.views (g : Img) : List Nat := (List.range 8).filter fun v => bitAt g.viewMask v

/-- Check 4, counts per view: exactly one VIEW and LANES section, and a MARK section. -/
def Img.countsOk (g : Img) : Bool :=
  g.views.all fun v => (g.sec 1 v 0).isSome && (g.sec 2 v 0).isSome && g.secs.any fun x => x.type == 3 && x.view == v

/-- The first section for which a test fails. -/
def Img.firstBad (g : Img) (ok : Nat → Sec → Bool) : Option Nat := g.secs.zipIdx.findSome? fun (x, k) => if ok k x then none else some k

/-- The lanes of a view that use a REFERENCE or TOLERANCE section (R503). -/
def Img.lanesOf (g : Img) (x : Sec) : List Nat :=
  (List.range (g.rview x.view).lanes).filter fun l => g.laneSec x.type x.view l == some x

/-- WIDTH and ROWS fit every lane that uses the section (R507). -/
def Img.sizeOk (g : Img) (x : Sec) : Bool :=
  (g.lanesOf x).all fun l => g.u x.off 4 == (g.rlane x.view l).width && g.u (x.off + 4) 2 == (g.rview x.view).rows

/-- An enabled descriptor of a view (R436), for its component count and stored width. -/
def State.viewDesc? (s : State) (v : Nat) : Option Nat := (s.viewDescs v).head?.map (·.2)

/-- BAD_REF for a section (R503, R507): R507 lists no check of the bytes that R504 marks 0. -/
def State.refOk (s : State) (g : Img) (x : Sec) : Bool :=
  let w := g.u x.off 4
  let r := g.u (x.off + 4) 2
  let c := g.u (x.off + 6) 1
  let sw := g.u (x.off + 7) 1
  g.sizeOk x && decide (x.index ≤ 63 ∧ 1 ≤ c ∧ c ≤ 4 ∧ (sw = 1 ∨ sw = 2) ∧ g.u (x.off + 8) 4 < 16 * w ∧ g.u (x.off + 12) 4 < 16 * r ∧
    x.len = 64 + (if g.refLearn x then 2 else 1) * g.refSize x) &&
    (s.viewDescs x.view).all fun (_, d) => s.descComps d == c && fmtWidth (s.get (R.SD_FORMAT_FMT d)) == sw

/-- BAD_TOL for a section (R503, R507): R507 lists no check of the bytes that R505 marks 0 but for the entries of level 0. -/
def Img.tolOk (g : Img) (x : Sec) : Bool :=
  g.sizeOk x && decide (x.index ≤ 63 ∧ g.u (x.off + 6) 1 ≤ 7 ∧ x.len = 576 + g.u x.off 4 * g.u (x.off + 4) 2) && g.zeros (x.off + 64) 16

/-- BAD_RULES for a section (R506, R507). -/
def Img.rulesOk (g : Img) (x : Sec) : Bool :=
  let n := g.u x.off 1
  x.index == 0 && decide (n ≤ 64 ∧ x.len = 32 + 16 * n) && g.zeros (x.off + 1) 7 && g.zeros (x.off + 15) 17 &&
    ((List.range 7).all fun k => let y := g.u (x.off + 8 + k) 1; decide (1 ≤ y ∧ y ≤ 3)) &&
    (List.range n).all fun i =>
      let o := x.off + 32 + 16 * i
      let cm := g.u o 1
      let vd := g.u (o + 2) 1
      let code := g.u (o + 10) 2
      decide (1 ≤ cm ∧ cm < 8 ∧ 1 ≤ g.u (o + 1) 1 ∧ (vd = 2 ∨ vd = 3) ∧ 1 ≤ g.u (o + 3) 1 ∧ 1 ≤ code ∧ code ≤ 0xFEFF)

/-- Ceiling of a quotient of integers by a positive number. -/
def ceilDivInt (a : Int) (b : Nat) : Int := -((-a) / b)

/-- The margin of the gate distance check of a view (R529), in ticks; none when VIEW_SCALE is 0, and no distance is known. -/
def State.gateMargin (s : State) (g : Img) (v : Nat) (x : RGate) : Option Int :=
  let r := g.rview v
  let scale := (s.getInt (R.VIEW_SCALE_SCALE v)).natAbs
  let aMax := (s.viewDescs v).foldl (fun (m : Int) (h : Nat × Nat) => max m (s.getInt (R.HD_AOFF_A_OFF v h.1))) 0
    + s.get (R.TRK_LIMIT_A_LIM v)
  if scale = 0 then none
  else
    let q := ceilDivInt ((((((r.rows - 1) * r.rowPitch : Nat) : Int) + aMax + r.rowPitch) * 2 ^ 24)) (256 * scale)
    some (x.dist - q - ceilDivInt (s.get (R.VMAX_TICKS v) * (1500 + x.leadUs + 100) : Nat) 1000000)

/-- The longest repeat of a view among the jobs resident, but for slot `j` (R365). -/
def State.longestRepeat (s : State) (v j : Nat) : Nat :=
  (List.range 64).foldl (fun m i =>
    if i ≠ j ∧ 2 ≤ s.get (R.SLOT_STATE_STATE i) ∧ bitAt (s.get (R.SLOT_STATE_VIEW_MASK i)) v then max m ((s.slotImg i).rview v).rows else m) 0

/-- RING_MIN of a view for a longest repeat of `rows` rows (R365). -/
def State.ringMin (s : State) (v rows : Nat) : Nat :=
  let rate := (s.viewDescs v).foldl (fun m (h : Nat × Nat) => max m (s.get (R.SD_RATE_MAX_RATE h.2))) 0
  rows + (rate * 4 + 999) / 1000

/-- The first failing check of R476 from the third on, with its status and the index of the failing section. -/
def State.recipeBad (s : State) (j : Nat) (bs : List Byte) (len : Nat) : Option (Nat × Nat) :=
  let g := listImg bs
  let whole := 0xFFFFFFFF
  let at_ := fun (st : Nat) (k : Option Nat) => k.map fun k => (st, k)
  if !headerOk g bs len then some (Isaow.badRecipe, whole)
  else if !headerFieldsOk g len then some (Isaow.badRecipe, whole)
  else match g.firstBad (fun k x => g.secOk len x && !(decide (x.type ≤ 6) && g.dupAt k)) with
  | some k => some (Isaow.badRecipe, k)
  | none =>
    if !g.countsOk then some (Isaow.badRecipe, whole)
    else if !(g.views.all fun v => (g.sec 0x10 v 0).isSome) then some (Isaow.badRef, whole)
    else match at_ Isaow.badRef (g.firstBad fun k x => x.type != 0x10 || (s.refOk g x && !g.dupAt k)) with
    | some e => some e
    | none =>
      if !(g.views.all fun v => (g.sec 0x11 v 0).isSome) then some (Isaow.badTol, whole)
      else match at_ Isaow.badTol (g.firstBad fun k x => x.type != 0x11 || (g.tolOk x && !g.dupAt k)) with
      | some e => some e
      | none =>
        if !(g.views.all fun v => (g.sec 0x12 v 0).isSome) then some (Isaow.badRules, whole)
        else match at_ Isaow.badRules (g.firstBad fun k x => x.type != 0x12 || (g.rulesOk x && !g.dupAt k)) with
        | some e => some e
        | none =>
          let tight := g.views.any fun v => s.unitOn (viewUnit v) &&
            decide (min (s.get (R.HIST_ROW_CAP_ROWS v)) (s.get (R.STAGE_ROW_CAP_ROWS v)) < s.ringMin v (max (s.longestRepeat v j) (g.rview v).rows))
          if tight then some (Isaow.noMemory, whole) else none

/-- Check 7 of R476 for each view that has a GATE section; GATE_CHECK shows each margin (R529). -/
def State.gateChecks (s : State) (g : Img) : State × Bool :=
  g.views.foldl (fun (t : State × Bool) v =>
    match g.rgate v with
    | none => t
    | some x =>
      match s.gateMargin g v x with
      | none => (t.1, false)
      | some m => (t.1.setInt (R.GATE_CHECK_MARGIN v) m, t.2 && decide (0 ≤ m) && s.on (R.VMAX_TICKS v))) (s, true)

end Sys2Proof.Machine
end

