-- ==== Sys2Proof/Machine/Jobs.lean ====
section
/-!
DEFINITION. Job slots (R473 to R477): their states, loading and unloading, arming and cancelling, and the end of a learning session.
-/
set_option Elab.async false
namespace Sys2Proof.Machine

def State.jview (s : State) (v : Nat) : JView := Tbl.get {} s.jobs.view v
def State.setJview (s : State) (v : Nat) (x : JView) : State :=
  { s with jobs := { s.jobs with view := Tbl.put {} s.jobs.view v x } }
def State.repOf (s : State) (k : Nat) : Rep := Tbl.get {} s.compare.reps k
def State.setRep (s : State) (k : Nat) (x : Rep) : State :=
  { s with compare := { s.compare with reps := Tbl.put {} s.compare.reps k x } }

/-- Events of job control (R498). -/
def jobParam (arg v kind : Nat) : Nat := arg % 64 + v * 64 + kind * 2 ^ 12 + 0x9 * 2 ^ 20
def State.publishJob (s : State) (arg v kind : Nat) : State := s.publish R.EVT_JOB_SEL 0x41 (jobParam arg v kind)

/-! ## Slot states (R473, R474) -/

/-- STATE of a slot. -/
def State.slotSt (s : State) (j : Nat) : Nat := s.get (R.SLOT_STATE_STATE j)

/-- The state that a loaded slot has by its views and its repeats in flight (R473); the change from DRAINING to READY publishes DRAINED
for view `v`. -/
def State.slotUpdate (s : State) (j v : Nat) : State :=
  let old := s.slotSt j
  if old < 2 then s
  else
    let st := if s.on (R.SLOT_STATE_ACTIVE_VIEWS j) then 4 else if s.on (R.SLOT_STATE_ARMED_VIEWS j) then 3
      else if s.on (R.SLOT_FLIGHT_IN_FLIGHT j) then 5 else 2
    let s := s.set (R.SLOT_STATE_STATE j) st
    if old = 5 ∧ st = 2 then s.publishJob j v 1 else s

/-- A view joins or leaves the views in which a slot is active, or armed. -/
def State.slotView (s : State) (f : Nat → Fld) (j v : Nat) (b : Bool) : State :=
  let x := s.get (f j)
  s.set (f j) (if b then x ||| 2 ^ v else x - (if bitAt x v then 2 ^ v else 0))

/-- A repeat of a slot has been judged (R473). -/
def State.flightOut (s : State) (j v : Nat) : State :=
  (s.set (R.SLOT_FLIGHT_IN_FLIGHT j) (s.get (R.SLOT_FLIGHT_IN_FLIGHT j) - 1)).slotUpdate j v

/-! ## Loading (R475, R476) -/

/-- Zone entries of a slot (R418) follow a job's ZONES sections, or are cleared. -/
def State.zoneClear (s : State) (j : Nat) : State :=
  let s := s.forEach 16 fun z s => s.forEach 6 fun w s => s.setReg (R.ZN_CFG (16 * j + z) + 4 * w) 0
  { s with cond := { s.cond with ranges := s.cond.ranges.filter fun e => e.1 / 16 != j } }
def State.zoneFill (s : State) (j : Nat) (g : Img) : State :=
  let zs := g.secs.flatMap fun x => if x.type = 4 then (List.range (x.len / 32)).map fun k => x.off + 32 * k else []
  s.forList (zs.take 16).zipIdx fun (y : Nat × Nat) s =>
    s.forEach 6 fun w s => s.setReg (R.ZN_CFG (16 * j + y.2) + 4 * w) (BitVec.ofNat 32 (g.u (y.1 + 4 * w) 4 % (if w = 0 then 1024 else if w = 2 then 2 ^ 24 else 2 ^ 32)))

/-- The pixel ranges of a slot's zones (R419): of each head, the pixels whose centre X + dX (R453) lies within the zone's columns, less
ZONE_GUARD at each end. -/
def State.zoneRanges (s : State) (j : Nat) : State :=
  s.forEach 16 fun z s =>
    let k := 16 * j + z
    let v := s.get (R.ZN_CFG_VIEW k)
    let guard := s.get (R.LC_ZONE_ZONE_GUARD v)
    let l := if !s.on (R.ZN_CFG_VALID k) then [] else (s.viewSet v).filterMap fun (h, d) =>
      let dx := s.getInt (R.HD_TRK_X_DX v h)
      let px := (s.mapPixels v h (s.get (R.SD_GEOM_WIDTH d))).filter fun m =>
        decide ((s.get (R.ZN_COLS_FIRST k) * 256 : Int) ≤ m.x + dx ∧ (m.x : Int) + dx ≤ s.get (R.ZN_COLS_LAST k) * 256)
      match px with
      | [] => none
      | a :: t =>
        let lo := t.foldl (fun m x => min m x.p) a.p + guard
        let hi := t.foldl (fun m x => max m x.p) a.p
        if lo + guard ≤ hi then some (d, lo, hi - guard) else none
    { s with cond := { s.cond with ranges := Tbl.put [] s.cond.ranges k l } }

/-- A slot becomes EMPTY: its segments, zones and banks go, and RING_MIN of its views follows the jobs still resident (R365). -/
def State.slotFree (s : State) (j : Nat) : State :=
  let views := (List.range 8).filter fun v => bitAt (s.get (R.SLOT_STATE_VIEW_MASK j)) v
  let s := s.forList views fun v s => s.set (R.RING_MIN_ROWS v) (s.ringMin v (s.longestRepeat v j))
  let s := s.giveBack R.FREE_REF_SEGS (s.refsOf j)
  let s := { s with creel := { s.creel with refs := Tbl.put [] s.creel.refs j [] },
                    compare := { s.compare with banks := s.compare.banks.filter fun e => e.1 / 512 != j } }
  let s := (s.setReg (R.SLOT_STATE j) 0).set (R.SLOT_SEGS_SEGS j) 0
  ((s.set (R.JOB_ID_LO_ID j) 0).set (R.JOB_ID_HI_ID j) 0).zoneClear j

/-- The response of JOB_LOAD (R663). -/
def State.loadResp (s : State) (j bad : Nat) : List Byte :=
  leBytes 1 j ++ leBytes 1 (s.slotSt j) ++ leBytes 2 0 ++ leBytes 4 (s.get (R.SLOT_SEGS_SEGS j)) ++
    leBytes 4 (s.get (R.JOB_ID_LO_ID j)) ++ leBytes 4 (s.get (R.JOB_ID_HI_ID j)) ++ leBytes 4 bad

/-- A load ends with a failure (R474, R476, R657). -/
def State.loadFail (s : State) (j m status bad : Nat) : State :=
  let s := ({ s with jobs := { s.jobs with load := Tbl.put none s.jobs.load j none } }).slotFree j
  let s := (s.set (R.SLOT_LOAD_STATUS j) status).unitTo (slotUnit j) .fault 9
  s.skepAnswer m status (s.loadResp j bad)

/-- The next part of a job image is read (R475): the loader reads it in address order, one request after another. -/
def State.loadNext (s : State) (j : Nat) : State :=
  match Tbl.get none s.jobs.load j with
  | none => s
  | some ld =>
    let f := (reqFn ld.who).getD 0
    let at_ := ld.addr + ld.got
    let n := min (min (s.mrrs f) (ld.len - ld.got)) (4096 - at_ % 4096)
    if n = 0 ∨ ld.bad then s
    else
      let s := { s with jobs := { s.jobs with load := Tbl.put none s.jobs.load j (some { ld with id := s.skep.reads + 1 }) } }
      s.skepRead f (.image j) at_ n

/-- A part of a job image has arrived, and goes to the slot's segments; or its read has failed (R475, R476). -/
def State.loadIn (s : State) (j id : Nat) (r : Option (List Byte)) : State :=
  match Tbl.get none s.jobs.load j with
  | none => s
  | some ld =>
    if ld.id ≠ id then s
    else match r with
      | none => { s with jobs := { s.jobs with load := Tbl.put none s.jobs.load j (some { ld with bad := true }) } }
      | some bs =>
        let s := s.runWrite (s.refsOf j) ld.got bs
        ({ s with jobs := { s.jobs with load := Tbl.put none s.jobs.load j (some { ld with got := ld.got + bs.length }) } }).loadNext j

/-- JOB_LOAD (R474, R475): refused, an unload, or the start of a copy. A second load, of another slot, waits for the first to end (R648). -/
def execJobLoad (m : Fin 1024) (s : State) : Host.Outcome State Fault Refusal :=
  .next <|
    let m := m.val
    let slot := s.slotSt (leAt (reqParams (s.cmdOf m).req) 0 1)
    if s.jobs.load.any (fun e => e.2.isSome) && leAt (reqParams (s.cmdOf m).req) 16 8 != 0 && (slot == 0 || slot == 2) then s
    else s.skepRun m 0x0020 (fun _ => true) fun p s =>
      let j := leAt p 0 1
      let addr := leAt p 8 8
      let len := leAt p 16 8
      if 64 ≤ j ∨ !addrOk m addr ∨ (len ≠ 0 ∧ (reqFn m).isNone) then s.skepAnswer m Isaow.badArg
      else if s.slotSt j ≠ 0 ∧ s.slotSt j ≠ 2 then s.skepAnswer m Isaow.busy (s.loadResp j 0xFFFFFFFF)
      else
        let s := if s.slotSt j = 2 then (s.slotFree j).unitStopNow (slotUnit j) else s
        if len = 0 then
          let s := (s.set (R.SLOT_LOAD_STATUS j) 0).unitStopNow (slotUnit j)
          s.skepAnswer m Isaow.ok (s.loadResp j 0xFFFFFFFF)
        else
          let s := s.unitTo (slotUnit j) .starting
          -- without device memory every load fails (R390)
          if !s.on R.MEM_STATUS_MEM_READY then s.loadFail j m Isaow.noMemory 0xFFFFFFFF
          else match s.alloc R.FREE_REF_SEGS ((len + 65535) / 65536) with
          | none => s.loadFail j m Isaow.noMemory 0xFFFFFFFF
          | some (s, segs) =>
            let s := { s with creel := { s.creel with refs := Tbl.put [] s.creel.refs j segs },
                              jobs := { s.jobs with load := Tbl.put none s.jobs.load j (some { who := m, len := len, addr := addr, id := 0 }) } }
            let s := (s.set (R.SLOT_STATE_STATE j) 1).set (R.SLOT_SEGS_SEGS j) (runLen segs)
            s.loadNext j

/-- The key of a bank: slot, view and INDEX. -/
def bankKey (j v i : Nat) : Nat := j * 512 + v * 64 + i
def State.bankOf (s : State) (j v i : Nat) : Bank := Tbl.get {} s.compare.banks (bankKey j v i)
def State.setBank (s : State) (j v i : Nat) (b : Bank) : State :=
  { s with compare := { s.compare with banks := Tbl.put {} s.compare.banks (bankKey j v i) b } }

/-- Banks loaded with a job receive their generations as the load completes (R534), by view and then INDEX. -/
def State.bankLoad (s : State) (j : Nat) (g : Img) : State :=
  let refs := sortBy (fun (x : Sec) => (x.view, x.index)) (g.secs.filter (·.type == 0x10))
  s.forList refs fun x s =>
    if g.refLearn x then s.setBank j x.view x.index { cur := 1, valid := false, gen := 0 }
    else
      let s := s.bump R.REF_GEN_GEN
      s.setBank j x.view x.index { cur := 0, valid := true, gen := s.get R.REF_GEN_GEN }

/-- The job of slot `j` is loaded: its image is `g`, and the JOB_LOAD of mailbox or sender `who` is answered (R476, R478, R534). -/
def State.slotLoaded (s : State) (j who : Nat) (g : Img) : State :=
  let s := { s with jobs := { s.jobs with load := Tbl.put none s.jobs.load j none } }
  let s := (s.zoneClear j).zoneFill j g
  let s := (s.set (R.JOB_ID_LO_ID j) (g.u 16 4)).set (R.JOB_ID_HI_ID j) (g.u 20 4)
  let s := (s.set (R.SLOT_STATE_VIEW_MASK j) g.viewMask).set (R.SLOT_STATE_STATE j) 2
  let s := s.forList g.views fun v s =>
    let s := s.set (R.RING_MIN_ROWS v) (s.ringMin v (s.longestRepeat v 64))
    match g.rgate v with
    | some x => s.set (R.GATE_MASK_CHANNELS (x.channel / 32)) (s.get (R.GATE_MASK_CHANNELS (x.channel / 32)) ||| 2 ^ (x.channel % 32))
    | none => s
  let s := ((s.bankLoad j g).set (R.SLOT_LOAD_STATUS j) 0).unitTo (slotUnit j) .on
  s.skepAnswer who Isaow.ok (s.loadResp j 0xFFFFFFFF)

/-- JOB_LOAD_DONE (R476): the copy of slot `j` has ended, whole or with a target error or poison; the checks of the image in the slot's segments
follow in their order. -/
def execJobLoadDone (j : Fin 64) (s : State) : Host.Outcome State Fault Refusal :=
  .next <|
    let j := j.val
    match Tbl.get none s.jobs.load j with
    | none => s
    | some ld =>
      if ld.bad then s.loadFail j ld.who Isaow.copyErr 0xFFFFFFFF
      else if ld.got < ld.len then s
      else
        let bs := s.slotImg j 0 ld.len
        let g := listImg bs
        match s.recipeBad j bs ld.len with
        | some (st, k) => s.loadFail j ld.who st k
        | none =>
          let r := s.gateChecks g
          if !r.2 then r.1.loadFail j ld.who Isaow.gateTooClose 0xFFFFFFFF
          else
            r.1.slotLoaded j ld.who g

/-- A reset abandons the reads of a function (R616): a job image that is not copied whole cannot be. -/
def State.loadsLost (s : State) (f : Nat) : State :=
  { s with jobs := { s.jobs with load := s.jobs.load.map fun (j, x) =>
      (j, x.map fun l => if reqFn l.who = some f ∧ l.got < l.len then { l with bad := true } else l) } }

/-- A Skep reset aborts a load in progress (R671). -/
def State.loadAbort (s : State) : State :=
  s.forEach 64 fun j s =>
    match Tbl.get none s.jobs.load j with
    | some ld => s.loadFail j ld.who Isaow.aborted 0xFFFFFFFF
    | none => s

/-! ## Learning sessions (R537) -/

/-- Events of comparison, which Skep publishes (R540). -/
def State.publishCmp (s : State) (v rest kind : Nat) : State :=
  s.skepPublish R.EVT_CMP (v + rest + kind * 2 ^ 12 + 0xA * 2 ^ 20)

/-- Skep publishes a kind of comparison at most once per view in any 100 ms (R531, R540), once it runs (R24). -/
def State.tellNow (s : State) (v kind : Nat) : State :=
  let key := kind * 8 + v
  let t := Tbl.get 0 s.compare.told key
  if t ≠ 0 ∧ s.clk < t - 1 + 25000000 then s
  else ({ s with compare := { s.compare with told := Tbl.put 0 s.compare.told key (s.clk + 1) } }).publishCmp v 0 kind
def State.tellCmp (s : State) (v kind : Nat) : State := s.skepDo (.tell v kind) (·.tellNow v kind)

/-- The response of REF_LEARN (R663). -/
def State.learnResp (s : State) (v : Nat) : List Byte :=
  let j := s.get (R.LEARN_STATE_SLOT v)
  let i := s.get (R.LEARN_STATE_INDEX v)
  let b := s.bankOf j v i
  let g := s.slotImg j
  let (addr, size) := match g.sec 0x10 v i with
    | some x => (runAddr (s.refsOf j) (x.off + 64 + (if g.refLearn x then b.cur * g.refSize x else 0)), g.refSize x)
    | none => (0, 0)
  leBytes 1 (s.get (R.LEARN_STATE_STATE v)) ++ leBytes 1 (s.get (R.LEARN_STATE_CAUSE v)) ++
    leBytes 2 (s.get (R.LEARN_COUNT_COLLECTED v)) ++ leBytes 4 (s.get (R.LEARN_COUNT_REJECTED v)) ++
    leBytes 8 addr ++ leBytes 4 size ++ leBytes 4 b.gen

/-- The REF_LEARN command, not an ABORT, that runs for a view. -/
def State.learnCmd (s : State) (v : Nat) : Option Nat :=
  (s.skep.cmds.find? fun (_, c) =>
    let p := reqParams c.req
    reqOp c.req == 0x0023 && c.started && c.resp.isNone && leAt p 1 1 == v && !bitAt (leAt p 4 1) 0).map (·.1)

/-- A session releases its buffer (R536, R537). -/
def State.learnFree (s : State) (v : Nat) : State :=
  let s := s.giveBack R.FREE_WORK_SEGS (Tbl.get [] s.creel.learn v)
  ({ s with creel := { s.creel with learn := Tbl.put [] s.creel.learn v [] },
            compare := { s.compare with learn := Tbl.put {} s.compare.learn v {} } }).showWork v

/-- A session enters FAILED with a CAUSE (R537). -/
def State.learnStop (s : State) (v cause : Nat) : State :=
  let st := s.get (R.LEARN_STATE_STATE v)
  if st ≠ 1 ∧ st ≠ 2 then s
  else
    let s := (s.set (R.LEARN_STATE_STATE v) 4).set (R.LEARN_STATE_CAUSE v) cause
    let s := s.learnFree v
    let s := s.publishCmp v (s.get (R.LEARN_STATE_SLOT v) * 16 + (cause - 1) % 4 * 1024) 2
    match s.learnCmd v with
    | some m => s.skepAnswer m Isaow.learnFail (s.learnResp v)
    | none => s

/-! ## Arming (R477) -/

/-- Tags under which job control's requests come back from the position engine. -/
def armTag (m v : Nat) : Nat := 2 ^ 20 + m * 8 + v

/-- A view's pending switch shows in its registers, and in those of its slot. -/
def State.showPend (s : State) (v : Nat) : State :=
  match (s.jview v).pend with
  | some (j, pos, _) =>
    let s := (s.set (R.VJ_ACTIVE_ARM_SLOT v) j).raise (R.VJ_ACTIVE_ARM_VALID v)
    (s.set2 (R.SPLICE_LO_POS v) (R.SPLICE_HI_POS v) pos).slotView R.SLOT_STATE_ARMED_VIEWS j v true |>.slotUpdate j v
  | none => s.clear (R.VJ_ACTIVE_ARM_VALID v)

/-- Views of a mask. -/
def maskViews (x : Nat) : List Nat := (List.range 8).filter fun v => bitAt x v

/-- A view has a pending switch, or one that is being inserted. -/
def State.armBusy (s : State) (v : Nat) : Bool :=
  (s.jview v).pend.isSome || s.jobs.arms.any fun (_, a) => !a.cancel && a.views.any fun x => x.view == v && x.answer.isNone

/-- Why JOB_ARM or JOB_SWITCH fails before any insertion (R477). -/
def State.armBad (s : State) (j views : Nat) : Option Nat :=
  if 64 ≤ j ∨ s.slotSt j < 2 then some Isaow.notReady
  else
    let g := s.slotImg j
    let vs := maskViews views
    if vs.any fun v => !bitAt (s.get (R.SLOT_STATE_VIEW_MASK j)) v || !s.unitOn (viewUnit v) ||
        s.get (R.VW_PITCH_PITCH v) != (g.rview v).rowPitch then some Isaow.badView
    else if vs.any fun v => s.armBusy v || (s.on (R.VJ_ACTIVE_VALID v) && s.get (R.VJ_ACTIVE_SLOT v) == j) then some Isaow.armBusy
    else none

/-- The response of JOB_ARM and JOB_SWITCH (R663). -/
def State.armResp (s : State) (j : Nat) : List Byte :=
  let pend := fun v => match (s.jview v).pend with | some (i, p, h) => if i = j then some (p, h) else none | none => none
  let mask := (List.range 8).foldl (fun m v => if (pend v).isSome then m + 2 ^ v else m) 0
  leBytes 1 j ++ leBytes 1 mask ++ leBytes 2 0 ++
    (List.range 8).flatMap (fun v => leBytes 4 (match pend v with | some (_, h) => h | none => 0)) ++
    (List.range 8).flatMap fun v => leBytes 8 (match pend v with | some (p, _) => p | none => 0)

/-- JOB_SWITCH entries are queued for the views of an arming (R477). -/
def State.armStart (s : State) (m j : Nat) (views : List (Nat × Nat)) : State :=
  if views = [] then s.skepAnswer m Isaow.ok (s.armResp j)
  else
    let s := s.zoneRanges j
    let arm : JArm := { slot := j, views := views.map fun x => { view := x.1, pos := x.2 } }
    let s := { s with jobs := { s.jobs with arms := Tbl.put {} s.jobs.arms m arm } }
    s.forList views fun (x : Nat × Nat) s =>
      s.peQueue .skep
        { insert := true, handle := 0, tag := armTag m x.1,
          entry := mkEntry x.2 6 (bitsOf (s.get R.JSW_SUB_SEL) 0 8) 0 j (8 + x.1) false 1 false true }

/-- JOB_ARM (R477). -/
def execJobArm (m : Fin 1024) (s : State) : Host.Outcome State Fault Refusal :=
  .next (s.skepRun m 0x0021 (fun p => !bitAt (leAt p 2 1) 0) fun p s =>
    let j := leAt p 0 1
    match s.armBad j (leAt p 1 1) with
    | some st => s.skepAnswer m st
    | none => s.armStart m j ((maskViews (leAt p 1 1)).map fun v => (v, bitsOf (leAt p (8 + 8 * v) 8) 0 56)))

/-- JOB_SWITCH (R477). -/
def execJobSwitch (m : Fin 1024) (s : State) : Host.Outcome State Fault Refusal :=
  .next (s.skepRun m 0x0022 (fun _ => true) fun p s =>
    let j := leAt p 0 1
    match s.armBad j (leAt p 1 1) with
    | some st => s.skepAnswer m st
    | none => s.armStart m j ((maskViews (leAt p 1 1)).map fun v => (v, posMod (s.viewPos v + s.get R.ARM_LEAD_LEAD))))

/-- JOB_ARM_CANCEL (R477): removals of the pending entries of the named views. -/
def execJobArmCancel (m : Fin 1024) (s : State) : Host.Outcome State Fault Refusal :=
  .next (s.skepRun m 0x0021 (fun p => bitAt (leAt p 2 1) 0) fun p s =>
    let m := m.val
    let j := leAt p 0 1
    let l := (maskViews (leAt p 1 1)).filterMap fun v => (s.jview v).pend.map fun x => (v, x.2.1, x.2.2)
    if l = [] then s.skepAnswer m Isaow.ok (s.armResp j)
    else
      let arm : JArm := { cancel := true, slot := j, views := l.map fun x => { view := x.1, pos := x.2.1 } }
      let s := { s with jobs := { s.jobs with arms := Tbl.put {} s.jobs.arms m arm } }
      s.forList l fun (x : Nat × Nat × Nat) s =>
        s.peQueue .skep { insert := false, handle := x.2.2, tag := armTag m x.1, entry := 0 })

end Sys2Proof.Machine
end

