-- ==== Sys2Proof/Machine/Segment.lean ====
section
/-!
DEFINITION. Segmentation (R478 to R498): the search for marks, cuts and their contexts, roll epochs, and switches as they take effect.
-/
set_option Elab.async false
namespace Sys2Proof.Machine

/-! ## Scores (R483) -/

/-- A row of a view run by its position. -/
def rowAt (rows : List SRow) (p : Nat) : Option SRow := rows.find? fun r => r.pos == p

/-- The rows under a template of `h` rows whose centre row stands at `p`, top first; none unless all have been emitted. -/
def underRows (rows : List SRow) (h pitch p : Nat) : Option (List SRow) :=
  (List.range h).mapM fun (k : Nat) => rowAt rows (posMod ((p : Int) + ((k : Int) - (h / 2 : Nat)) * pitch))

/-- The score, in 2⁻⁴⁰, of a template centred at column `c` of rows under it; none outside the view. -/
def scoreAt (t : RMark) (under : List (Array (List Nat))) (width c : Nat) : Option Nat :=
  if c < t.w / 2 ∨ width < c - t.w / 2 + t.w then none
  else
    let x0 := c - t.w / 2
    some (corr40 ((t.px.zip under).flatMap fun (m, r) => m.zipIdx.map fun (a, i) => (a, (r.getD (x0 + i) []).getD t.comp 0)))

/-- A score in 1/256, at most 255. -/
def score256 (x : Nat) : Nat := min 255 (x * 256 / 2 ^ 40)

/-- The best place on one row of centres, over columns `lo` to `hi`, the lowest column on a tie; its refinement takes the row before and
the row after where they can be scored. -/
def bestOnRow (t : RMark) (rows : List SRow) (pitch p lo hi : Nat) : Option JFind :=
  match underRows rows t.h pitch p with
  | none => none
  | some l =>
    let width := match l with | r :: _ => r.px.length | [] => 0
    let arrs := fun (l : List SRow) => l.map fun r => r.px.toArray
    let here := arrs l
    let best := (List.range (hi + 1 - lo)).foldl (fun (b : Option (Nat × Nat)) i =>
      match scoreAt t here width (lo + i), b with
      | some x, some (y, _) => if score256 y < score256 x then some (x, lo + i) else b
      | some x, none => some (x, lo + i)
      | none, _ => b) none
    match best with
    | none => none
    | some (x, c) =>
      let side := fun (k : Int) => if (c : Int) + k < 0 then x else (scoreAt t here width ((c : Int) + k).toNat).getD x
      let row := fun (k : Int) => match underRows rows t.h pitch (posMod ((p : Int) + k * pitch)) with
        | some l => (scoreAt t (arrs l) width c).getD x
        | none => x
      let fx := if (scoreAt t here width (c + 1)).isSome && (c != 0 && (scoreAt t here width (c - 1)).isSome) then parabola16 (side (-1)) x (side 1) else 0
      let fy := if (underRows rows t.h pitch (posMod ((p : Int) + pitch))).isSome && (underRows rows t.h pitch (posMod ((p : Int) - pitch))).isSome
        then parabola16 (row (-1)) x (row 1) else 0
      some { row := p, score := x, col := 16 * (c : Int) + fx, m := posMod ((p : Int) + divRound (fy * pitch) 16) }

/-- The better of two places: the higher score, the earlier row on a tie. -/
def better (a b : Option JFind) : Option JFind :=
  match a, b with
  | some x, some y => if score256 x.score < score256 y.score then b else a
  | none, y => y
  | x, none => x

/-! ## Cutting (R485, R488 to R491, R497) -/

/-- A repeat goes to IMAGED (R492); `cut`: it is TRUNCATED. -/
def State.imaged (s : State) (k : Nat) (cut : Bool) : State :=
  if (s.ctxOf k).state ≠ 0 then s
  else
    let s := s.ctxTouch k
    let c := s.ctxOf k
    let fl := if cut then c.cflags ||| 2 else c.cflags
    let s := s.setCtx k { c with state := 1, imagedTime := s.timeNs, cflags := fl }
    let s := if cut then s.bumpSat (R.TRUNC_CNT_CNT c.view) else s
    s.setJview c.view { s.jview c.view with opened := (s.jview c.view).opened.filter (· != k) }

/-- CFLAGS that a row gives its repeats (R449, R496). -/
def SRow.cflags (r : SRow) : Nat :=
  (bitAt r.flags 2).toNat * 16 + (bitAt r.flags 4).toNat * 32 + r.loss.toNat * 64 + (bitAt r.flags 0).toNat * 128 +
    (bitAt r.flags 1).toNat * 256 + (bitAt r.flags 3).toNat * 512

/-- A row belongs to an open repeat: counted, its flags taken, its place kept for comparison. -/
def State.repRow (s : State) (k : Nat) (r : SRow) : State :=
  let c := s.ctxOf k
  let x := s.repOf k
  if posBefore r.pos c.anchor || posAfter r.pos c.endPos then s
  else
    let y := (posDiff r.pos c.anchor).toNat / max 1 x.pitch
    let s := s.ctxTouch k
    let c := s.ctxOf k
    let s := s.setCtx k { c with rows := c.rows + 1, cflags := c.cflags ||| r.cflags, firstRow := if c.rows = 0 then r.cnt else c.firstRow }
    let s := s.setRep k { x with rows := x.rows ++ [{ y := y, place := r.place, pos := r.pos }] }
    if posBefore r.pos c.endPos then s else s.imaged k false

/-- A new roll epoch (R489): the sequences of every lane of the view return to 0. -/
def State.newEpoch (s : State) (v b : Nat) : State :=
  let x := s.jview v
  let s := s.setJview v { x with roll := none, before := some (b, x.seqs), seqs := [] }
  let s := (s.bump (R.ROLL_STATUS_EPOCH v)).clear (R.ROLL_STATUS_PENDING v)
  (s.publishJob (s.get (R.ROLL_STATUS_EPOCH v)) v 6).lcFreeze v 3

/-- A lane's next epoch and sequence for a repeat anchored at `a` (R489, R490), with the state after the sequence has advanced. -/
def State.nextSeq (s : State) (v l a : Nat) : State × Nat × Nat :=
  let x := s.jview v
  let old := match x.before with | some (b, _) => posBefore a b | none => false
  if old then
    match x.before with
    | some (b, seqs) =>
      let n := Tbl.get 0 seqs l
      (s.setJview v { x with before := some (b, Tbl.put 0 seqs l ((n + 1) % 2 ^ 24)) }, (s.get (R.ROLL_STATUS_EPOCH v) + 255) % 256, n)
    | none => (s, 0, 0)
  else
    let n := Tbl.get 0 x.seqs l
    (s.setJview v { x with seqs := Tbl.put 0 x.seqs l ((n + 1) % 2 ^ 24) }, s.get (R.ROLL_STATUS_EPOCH v), n)

/-- Samples of a repeat that its slice has still to compare: none of one that is not compared (R511). -/
def Rep.left (x : Rep) : Nat := if x.blind || x.noRef then 0 else (x.height - min x.height (64 * x.band)) * x.width * x.comps

/-- The slice that takes a repeat at its cut (R509). -/
def State.pickSlice (s : State) : Nat :=
  let load := fun i => (s.compare.reps.map fun (_, x) => if x.slice = i then x.left else 0).sum
  ((List.range 8).foldl (fun (b : Nat × Nat) i => if load i < b.2 then (i, load i) else b) (0, load 0)).1

/-- What a cut is made of: the lane, the anchor and end, the mark's position, CFLAGS, and the score and offsets found. -/
structure Cut where
  slot : Nat
  lane : Nat
  anchor : Nat
  stop : Nat
  mark : Nat
  flags : Nat := 0
  score : Nat := 0
  dx : Int := 0
  dy : Int := 0

/-- The context of a cut is taken, or the cut goes without one (R491, R497). -/
def State.cutTake (s : State) (v : Nat) (head : Option Nat) (c : Ctx) : State :=
  let s := match head with
    | some k => s.ctxTake k c
    | none =>
      let s := (s.ctxNone c).bumpSat R.NOCTX_CNT_CNT
      if s.jobs.exhausted then s else (s.raise R.JC_STATUS_CTX_EXHAUSTED).publishJob 0 v 2
  let s := if head.isSome && s.jobs.exhausted then s.publishJob 0 v 3 else s
  { s with jobs := { s.jobs with exhausted := head.isNone } }

/-- The counters of a cut (R479, R487, R501). -/
def State.cutCount (s : State) (v : Nat) (q : Cut) : State :=
  let s := s.set (R.SLOT_FLIGHT_IN_FLIGHT q.slot) (s.get (R.SLOT_FLIGHT_IN_FLIGHT q.slot) + 1)
  let s := ((s.slotUpdate q.slot v).bump (R.SLOT_REPEATS_CNT q.slot)).bump (R.CUT_CNT_CNT v)
  let s := if bitAt q.flags 0 then s.bumpSat (R.SPLICE_CNT_CNT v) else s
  let s := if bitAt q.flags 2 then s.bumpSat (R.MISSING_CNT_CNT v) else s
  if bitAt q.flags 3 then s.bumpSat (R.BLIND_CNT_CNT v) else s

/-- The repeat of key `k` enters comparison at its cut, behind those cut before it (R509). -/
def State.repOpen (s : State) (v : Nat) (q : Cut) (k : Nat) : State :=
  let g := s.slotImg q.slot
  let d := (s.viewDesc? v).getD 0
  let s := s.setRep k { view := v, slot := q.slot, lane := q.lane, slice := s.pickSlice, mark := q.mark, pitch := s.get (R.VW_PITCH_PITCH v),
                        comps := s.descComps d, bytesPer := fmtWidth (s.get (R.SD_FORMAT_FMT d)), width := (g.rlane v q.lane).width,
                        height := (g.rview v).rows, blind := bitAt q.flags 3, cutClk := s.clk, order := s.compare.cuts }
  { s with compare := { s.compare with cuts := s.compare.cuts + 1 } }

/-- A row begins a view run, or belongs to a backward one (R449). -/
def SRow.starts (r : SRow) : Bool := bitAt r.flags 5
def SRow.backward (r : SRow) : Bool := bitAt r.flags 6

/-- A repeat is cut (R485, R490, R491, R497); rows of its run that Plait has emitted already belong to it, also those that still wait to be
searched (R480). One cut after its run has ended is TRUNCATED unless it has all its rows (R488). -/
def State.cut (s : State) (v : Nat) (q : Cut) : State :=
  let s := match (s.jview v).roll with
    | some b => if posBefore q.anchor b then s else s.newEpoch v b
    | none => s
  let (s, epoch, seq) := s.nextSeq v q.lane q.anchor
  let head := s.ctxHead
  let k := head.getD s.noCtxKey
  let tag := mkTag q.slot q.lane epoch seq (head.getD 0)
  let c : Ctx := { tag := tag, anchor := q.anchor, endPos := q.stop, view := v, openTime := s.timeNs, cflags := q.flags,
                   markScore := q.score, markDx := q.dx, markDy := q.dy }
  let s := ((s.cutTake v head c).repOpen v q k).cutCount v q
  let s := s.publish (R.JOB_CUT_SUB_SEL v) 0x41 (jobParam q.lane v 9)
  let s := if head.isSome && s.on (R.VJ_ACTIVE_VALID v) && s.get (R.VJ_ACTIVE_SLOT v) == q.slot
    then s.zonesFor q.slot v q.lane q.anchor (bitAt q.flags 0) else s
  let s := (s.lcRepeat v).setJview v { s.jview v with opened := (s.jview v).opened ++ [k] }
  let jv := s.jview v
  let s := s.forList (jv.rows.reverse ++ jv.wait.takeWhile (!·.starts)) fun r s => if (s.ctxOf k).state = 0 then s.repRow k r else s
  if !jv.live || jv.wait.any (·.starts) then s.imaged k true else s

/-! ## The lanes (R484 to R487) -/

/-- A position rounded down to a row of the grid of `q` (R485). -/
def gridFloor (p q pitch : Nat) : Nat := posMod ((q : Int) + posDiff p q / (pitch : Int) * (pitch : Int))

/-- A lane of a set in a view is replaced; LANE shows that of the active job (R501). -/
def State.setWebLane (s : State) (v i l : Nat) (x : JLane) : State :=
  let jv := s.jview v
  let sets := jv.sets.zipIdx.map fun (y, k) => if k = i then { y with lanes := y.lanes.set l x } else y
  let s := s.setJview v { jv with sets := sets }
  if i + 1 = jv.sets.length then
    ((s.setFlag (R.LANE_TRACK v l) (x.mode == 1)).set (R.LANE_MISSES v l) x.miss).set (R.LANE_SCORE v l) x.score
  else s

/-- The splice position at which a set stops cutting (R479): its own, or that of a pending switch, which the active job's lanes meet before the
switch takes effect (assumption 132). -/
def State.spliceOf (s : State) (v i : Nat) (set : JSet) : Option Nat :=
  match set.stop, (s.jview v).pend with
  | some p, _ => some p
  | none, some (_, p, _) => if i + 1 = (s.jview v).sets.length then some p else none
  | none, none => none

/-- A lane cuts the repeat of a mark at `m`, by R479: none of a new job before its splice position, none of an old job at or after its
own or after a repeat that has reached it; the lane of an old job is then done. -/
def State.laneCut (s : State) (v i l : Nat) (x : JLane) (q : Nat) (m : Nat) (flags score : Nat) (dx dy : Int) : State :=
  match (s.jview v).sets[i]? with
  | none => s
  | some set =>
    let pitch := s.get (R.VW_PITCH_PITCH v)
    let g := s.slotImg set.slot
    let a := gridFloor (posMod ((m : Int) - (g.rlane v l).markAoff)) q (max 1 pitch)
    let e := posMod ((a : Int) + (((g.rview v).rows - 1) * pitch : Nat))
    let early := match set.start with | some p => posBefore a p | none => false
    let at_ := s.spliceOf v i set
    let after (p : Option Nat) : Bool := match at_, p with | some b, some p => !posBefore p b | _, _ => false
    let beyond := after (some a) || after x.endAt
    let splice := after (some e)
    let s := s.setWebLane v i l { x with done := set.stop.isSome && (beyond || splice), endAt := if early || beyond then x.endAt else some e }
    if early || beyond then s
    else s.cut v { slot := set.slot, lane := l, anchor := a, stop := e, mark := m, flags := flags ||| splice.toNat, score := score, dx := dx, dy := dy }

/-- A mark has been found (R485, R487). -/
def State.laneFound (s : State) (v i l : Nat) (x : JLane) (f : JFind) : State :=
  match (s.jview v).sets[i]? with
  | none => s
  | some set =>
    let g := s.slotImg set.slot
    let r := g.rview v
    let s := if x.mode = 2 then s.publishJob l v 5 else s
    let dy := if x.mode = 1 then posDiff f.m x.pred else 0
    let y : JLane := { mode := 1, miss := 0, score := score256 f.score, pred := posMod ((f.m : Int) + r.pitch), seen := some f.row, cand := none, done := x.done, endAt := x.endAt }
    s.laneCut v i l y f.row f.m 0 (score256 f.score) (f.col - (g.rlane v l).markCol) dy

/-- No mark was found by the close of a window at `last` (R486, R487): the predicted repeat is cut, on the grid of row `q`. -/
def State.laneMissed (s : State) (v i l : Nat) (x : JLane) (last q : Nat) (score : Nat) : State :=
  match (s.jview v).sets[i]? with
  | none => s
  | some set =>
    let r := (s.slotImg set.slot).rview v
    let pred := posMod ((x.pred : Int) + r.pitch)
    if x.mode = 2 then
      s.laneCut v i l { x with pred := pred, score := score, seen := some last } q x.pred 8 0 0 0
    else
      let miss := x.miss + 1
      let lost := decide (r.missMax ≤ miss)
      let s := s.laneCut v i l { x with pred := pred, score := score, miss := miss, mode := if lost then 2 else 1, seen := some last } q x.pred 4 0 0 0
      if lost then s.publishJob l v 4 else s

/-- One lane of a set sees the row at `top` (R483 to R487). A search ends one row after its last centre row, when that row's score can be refined
along the web. `ending`: `top` was the last row of its run, so an acquisition and a window that has begun are decided on the rows there are. -/
def State.laneStep (s : State) (v i l top : Nat) (ending : Bool) : State :=
  let jv := s.jview v
  match jv.sets[i]? with
  | none => s
  | some set =>
    let x := set.lanes.getD l {}
    let g := s.slotImg set.slot
    let rl := g.rlane v l
    let r := g.rview v
    let pitch := max 1 (s.get (R.VW_PITCH_PITCH v))
    match if x.done then none else g.rmark v rl.markIndex with
    | none => s
    | some t =>
      -- the newest centre row whose template is complete
      let c := posMod ((top : Int) - ((t.h - 1 - t.h / 2) * pitch : Nat))
      let half := if x.mode = 1 then rl.searchX else max rl.searchX 256
      let lo := (rl.markCol - 16 * half + 8) / 16
      let hi := (rl.markCol + 16 * half + 8) / 16
      let started := fun p => match set.start with
        | some b => !posBefore (posMod ((p : Int) - (t.h / 2 * pitch : Nat))) b
        | none => true
      let best := fun (ps : List Nat) => ps.foldl (fun b p => better b (bestOnRow t jv.rows pitch p lo hi)) none
      let good := fun (f : Option JFind) => match f with | some f => decide (r.markMin ≤ score256 f.score) | none => false
      if x.mode = 0 then
        let here := if started c then bestOnRow t jv.rows pitch c lo hi else none
        let cand := match x.cand with
          | some (p0, f) => some (p0, if posDiff c p0 ≤ (r.searchY * pitch : Nat) then (better (some f) here).getD f else f)
          | none => if good here then here.map fun f => (c, f) else none
        match cand with
        | some (p0, f) =>
          if !ending && decide (posDiff c p0 ≤ (r.searchY * pitch : Nat)) then s.setWebLane v i l { x with cand := cand }
          else s.laneFound v i l x ((bestOnRow t jv.rows pitch f.row lo hi).getD f)
        | none =>
          let past := match set.stop with | some b => !posBefore (posMod ((c : Int) - rl.markAoff)) b | none => false
          if past then s.setWebLane v i l { x with done := true } else s
      else
        let reach : Int := (r.searchY * pitch : Nat)
        let last := posMod ((x.pred : Int) + reach)
        if !ending && decide (posDiff c x.pred ≤ reach) then s
        else
          let within := fun p => decide (posDiff p x.pred ≤ reach) && started p &&
            (if x.mode = 1 then decide (-reach ≤ posDiff p x.pred) else match x.seen with | some b => posAfter p b | none => true)
          let f := best ((jv.rows.map (·.pos)).filter within).reverse
          let begun := !ending || jv.rows.any fun y => decide ((posDiff y.pos x.pred).natAbs ≤ reach)
          match f with
          | some f' => if good f then s.laneFound v i l x f' else if begun then s.laneMissed v i l x last top (score256 f'.score) else s
          | none => if begun then s.laneMissed v i l x last top 0 else s

/-- Every lane of every job that cuts in the view sees a row, or the end of the run after it, in the order of the lanes (R491, R495); a job
whose lanes are all done cuts no more (R479). -/
def State.searchRow (s : State) (v : Nat) (r : SRow) (ending : Bool) : State :=
  let s := s.forEach 64 fun l s => s.forEach (s.jview v).sets.length fun i s =>
    match (s.jview v).sets[i]? with
    | some y => if l < y.lanes.length then s.laneStep v i l r.pos ending else s
    | none => s
  let jv := s.jview v
  let n := jv.sets.length
  s.setJview v { jv with sets := (jv.sets.zipIdx.filter fun (y, k) => k + 1 == n || !y.lanes.all (·.done)).map (·.1) }

/-- Rows that are not searched while a switch is pending (R480): those at or after its splice position. -/
def State.pausedAt (s : State) (v p : Nat) : Bool :=
  match (s.jview v).pend with
  | some (_, b, _) => !posBefore p b
  | none => false

/-- A view run begins (R484): every lane of every job that still cuts is in ACQUIRE. -/
def State.segRunStart (s : State) (v : Nat) (forward : Bool) : State :=
  let jv := s.jview v
  let sets := jv.sets.map fun y => { y with lanes := y.lanes.map fun l => { done := l.done, endAt := l.endAt } }
  let s := s.setJview v { jv with sets := sets, rows := [], searching := forward }
  s.forEach 64 fun l s => s.setReg (R.LANE v l) 0

/-- The search of a run ends with its last row (R484). -/
def State.segConclude (s : State) (v : Nat) : State :=
  let jv := s.jview v
  if !jv.searching then s
  else
    let s := s.setJview v { jv with searching := false }
    match jv.rows with
    | r :: _ => s.searchRow v r true
    | [] => s

/-- Rows that wait are searched, up to the first that must still wait (R480). `fuel` bounds them. -/
def State.resumeSearch (s : State) (v : Nat) : Nat → State
  | 0 => s
  | fuel + 1 =>
    let jv := s.jview v
    match jv.wait with
    | [] => (if jv.live then s else s.segConclude v).clear (R.VJ_ACTIVE_PAUSED v)
    | r :: t =>
      if !r.backward && s.pausedAt v r.pos then s.raise (R.VJ_ACTIVE_PAUSED v)
      else
        let s := if r.starts then (s.segConclude v).segRunStart v (!r.backward) else s
        let jv := s.jview v
        if r.backward then (s.setJview v { jv with wait := t }).resumeSearch v fuel
        else ((s.setJview v { jv with wait := t, rows := r :: jv.rows }).searchRow v r false).resumeSearch v fuel

/-- A view run ends, or the view unit leaves ON (R484, R488): what its last rows hold is decided, once they have been searched, and open
repeats are TRUNCATED. -/
def State.segRunEnd (s : State) (v : Nat) : State :=
  let s := s.setJview v { s.jview v with live := false }
  let s := if (s.jview v).wait = [] then s.segConclude v else s
  s.forList (s.jview v).opened fun k s => s.imaged k true

/-- A row that Plait has emitted and Creel has stored or lost reaches segmentation (R483, R488, R492). It is searched, and waits first while it lies
at or after the splice position of a pending switch (R480), also in a view that has no job yet. Rows of a backward run are never searched; the
first of it ends the search of the run before. -/
def State.segRow (s : State) (v : Nat) (row : PRow) (place : Option RowPlace) (gap : Bool) : State :=
  let s := if bitAt row.flags 5 then s.setJview v { s.jview v with live := !bitAt row.flags 6 } else s
  if bitAt row.flags 6 && !bitAt row.flags 5 then s
  else
    let stage := match place with | some p => p.stage | none => true
    let r : SRow := { pos := row.pos, cnt := s.get (R.VW_ROW_CNT_CNT v), place := place.map fun p => (p.stage, p.seq), flags := row.flags,
                      loss := gap || (stage && s.on (R.HIST_STATUS_ALLOCATED v)), px := row.cols }
    let s := if r.backward then s else s.forList (s.jview v).opened fun k s => s.repRow k r
    let jv := s.jview v
    if jv.sets = [] ∧ !s.pausedAt v r.pos ∧ jv.wait = [] ∧ !r.starts then s
    else (s.setJview v { jv with wait := jv.wait ++ [r] }).resumeSearch v (jv.wait.length + 1)

/-! ## Switches (R478 to R482) -/

/-- A LIGHT section of job `j` is not committed (R342, R478). -/
def State.lightMiss (s : State) (v j : Nat) : State := (s.raise R.JC_STATUS_LIGHT_MISS).publishJob j v 8

/-- Ling is asked to commit the codes of each LIGHT section of the new job for the view (R481). -/
def State.lightCommits (s : State) (v j pos : Nat) : State :=
  let g := s.slotImg j
  s.forList (g.secs.filter fun x => x.type == 6 && x.view == v) fun x s =>
    let n := x.index
    if s.on (R.LING_CH_STATE_COMMIT_PEND n) then s.lightMiss v j
    else if s.commitBarred n false then (s.raise (R.LING_CH_STATUS_CFG_REJ n)).lightMiss v j
    else
      let set := 1 - s.get (R.LING_CH_STATE_ACTIVE_SET n)
      let c := s.chainOf n
      let codes := (List.range 8192).foldl (fun t i => Tbl.put 0 t (set * 8192 + i) (g.u (x.off + 8 + 2 * i) 2)) c.codes
      let r := (s.setChain n { c with codes := codes }).commitAsk n
        { set := set, now := false, tl := 8 + v, pos := posMod ((pos : Int) + g.i32 (x.off + 4)), pitch := 0, steps := 0, step := 1 }
      if r.2 then r.1 else r.1.lightMiss v j

/-- A switch takes effect in a view (R478, R479). -/
def State.switchTakes (s : State) (v : Nat) : State :=
  let jv := s.jview v
  match jv.pend with
  | none => s
  | some (j, pos, _) =>
    let old := if s.on (R.VJ_ACTIVE_VALID v) then some (s.get (R.VJ_ACTIVE_SLOT v)) else none
    let sets := jv.sets.map fun y => { y with stop := some (match y.stop with | some b => b | none => pos) }
    let lanes := ((s.slotImg j).rview v).lanes
    let s := s.setJview v { jv with pend := none, sets := sets ++ [{ slot := j, start := some pos, lanes := List.replicate lanes {} }] }
    let s := s.forEach 64 fun l s => s.setReg (R.LANE v l) 0
    let s := ((s.set (R.VJ_ACTIVE_SLOT v) j).raise (R.VJ_ACTIVE_VALID v)).clear (R.VJ_ACTIVE_ARM_VALID v)
    let s := (s.slotView R.SLOT_STATE_ARMED_VIEWS j v false).slotView R.SLOT_STATE_ACTIVE_VIEWS j v true
    let s := ((s.slotUpdate j v).bump (R.SWITCH_CNT_CNT v)).publishJob j v 0
    let s := match old with
      | some o =>
        let s := (s.slotView R.SLOT_STATE_ACTIVE_VIEWS o v false).slotUpdate o v
        if s.get (R.LEARN_STATE_STATE v) = 1 ∧ s.get (R.LEARN_STATE_SLOT v) = o then s.learnStop v 1 else s
      | none => s
    -- the switch freezes live calibration (R425)
    ((s.lightCommits v j pos).lcFreeze v 2).resumeSearch v (jv.wait.length + 1)

/-- A pending switch is cancelled or removed (R477, R482); `lost`: ARM_LOST is published. -/
def State.switchDrop (s : State) (v : Nat) (lost : Bool) : State :=
  let jv := s.jview v
  match jv.pend with
  | none => s
  | some (j, _, _) =>
    let s := (s.setJview v { jv with pend := none }).clear (R.VJ_ACTIVE_ARM_VALID v)
    let s := (s.slotView R.SLOT_STATE_ARMED_VIEWS j v false).slotUpdate j v
    let s := if lost then s.publishJob j v 7 else s
    s.resumeSearch v (jv.wait.length + 1)

/-- The entry of a pending switch has left the table without firing: dropped as late, or removed through a port (R474). -/
def State.switchGone (s : State) (entry : BitVec 128) (handle : Nat) : State :=
  if eAction entry ≠ 6 then s
  else match (List.range 8).find? fun v => match (s.jview v).pend with | some (_, _, h) => h == handle | none => false with
    | some v => s.switchDrop v false
    | none => s

/-- A JOB_SWITCH event reaches job control (R478). -/
def State.switchEvent (s : State) (e : Event) : State :=
  if e.req.action ≠ 6 then s
  else
    match (List.range 8).find? fun v => match (s.jview v).pend with | some (_, _, h) => h == e.req.handle | none => false with
    | some v => s.switchTakes v
    | none => s.bumpSat R.STRAY_CNT_CNT

/-- Repeats cut already that a switch armed at `p` splits (R479): they carry SPLICE. -/
def State.spliceOpen (s : State) (v p : Nat) : State :=
  s.forList (s.compare.reps.map (·.1)) fun k s =>
    let c := s.ctxOf k
    if (s.repOf k).view = v ∧ c.state ≤ 1 ∧ !bitAt c.cflags 0 ∧ posBefore c.anchor p ∧ !posBefore c.endPos p then
      let s := s.ctxTouch k
      (s.setCtx k { s.ctxOf k with cflags := (s.ctxOf k).cflags ||| 1 }).bumpSat (R.SPLICE_CNT_CNT v)
    else s

/-- The answer of the position engine to a request under `armTag` (R477): a stored entry is a pending switch; a refusal fails the command
in every view; a cancelled entry is pending no longer. -/
def State.armAnswer (s : State) (tag status handle : Nat) : State :=
  let m := (tag - 2 ^ 20) / 8
  let v := tag % 8
  let a := Tbl.get {} s.jobs.arms m
  match a.views.find? fun x => x.view == v && x.answer.isNone with
  | none => s
  | some x =>
    let a := { a with views := a.views.map fun y => if y.view = v then { y with answer := some (status, handle) } else y }
    let s := { s with jobs := { s.jobs with arms := Tbl.put {} s.jobs.arms m a } }
    let s :=
      if a.cancel then (if status = 0 then s.switchDrop v false else s)
      else if status = 0 then (s.setJview v { s.jview v with pend := some (a.slot, x.pos, handle) }).showPend v |>.spliceOpen v x.pos
      else s
    if a.views.any (·.answer.isNone) then s
    else
      let s := { s with jobs := { s.jobs with arms := Tbl.put {} s.jobs.arms m {} } }
      let st := a.views.map fun y => (y.answer.getD (0, 0)).1
      if a.cancel || st.all (· == 0) then s.skepAnswer m Isaow.ok (s.armResp a.slot)
      else
        let s := s.forList a.views fun y s =>
          match y.answer with
          | some (0, h) =>
            if (s.jview y.view).pend.any fun p => p.2.2 == h then
              (s.switchDrop y.view false).peQueue .skep { insert := false, handle := h, tag := 0, entry := 0 }
            else s
          | _ => s
        s.skepAnswer m (if st.any fun x => x != 0 && x != 4 && x != 1 then Isaow.badView else if st.any (· == 4) then Isaow.late else Isaow.full)

/-! ## Roll epochs (R489) -/

/-- A boundary for the next roll is set at the view's position plus ROLL_DIST. -/
def State.rollSet (s : State) (v : Nat) : State :=
  let jv := s.jview v
  if jv.roll.isSome then s.raise (R.ROLL_STATUS_ROLL_OVR v)
  else
    (s.setJview v { jv with roll := some (posMod (s.viewPos v + s.getInt (R.ROLL_DIST_DIST v))) }).raise (R.ROLL_STATUS_PENDING v)

/-- ROLL_CMD (R489): a write with the bit set. -/
def execRollCmd (who : Who) (v : Fin 8) (x : Word) (s : State) : Host.Outcome State Fault Refusal :=
  .next <| s.viaBus who fun s =>
    if bitAt x.toNat 0 then s.rollSet v else s

/-- Delivery to job control: JOB_SWITCH events, gate events, and events on ROLL_SUB (R478, R489, R494). -/
def State.deliverJobs (s : State) (e : Event) : State :=
  let s := s.deliver e [R.JSW_SUB_SEL] (·.switchEvent e) id
  let s := s.gateEvent e
  s.forEach 8 fun v s => s.deliver e [R.ROLL_SUB_SEL v] (·.rollSet v) id

end Sys2Proof.Machine
end

