-- ==== Sys2Proof/Machine/Deliver.lean ====
section
/-!
DEFINITION. What Withy makes of a judged repeat and of the rows of a view (R546 to R549, R567 to R570): the records it queues.
-/
set_option Elab.async false
namespace Sys2Proof.Machine

/-- Rings that take record type `t` of a repeat (R556). -/
def State.ringsForRepeat (s : State) (t v verdict : Nat) : List Nat :=
  (s.ringsFor t v).filter fun r => bitAt (s.get (R.RING_FILTER_VERDICT_MASK r)) (verdict - 1)

/-- Bytes of a row of a view in a FULL record's body: its length rounded up to 8 (R549). -/
def roundUp8 (n : Nat) : Nat := (n + 7) / 8 * 8

/-- Half-up rounding of a number of sixteenths. -/
def round16 (x : Nat) : Nat := (x + 8) / 16

/-- A crop's extent on one axis (R568): the candidate's, widened and cut to the repeat; a longer one is cut to MAX pixels about the centre
and moved inside. First pixel and length. -/
def cropSpan (lo hi centre margin top size : Nat) : Nat × Nat :=
  let a := lo - margin
  let b := min (size - 1) (hi + margin)
  if b + 1 - a ≤ top then (a, b + 1 - a)
  else (min (centre - top / 2) (size - top), top)

/-- The rows that a repeat holds: fewer than its recipe's where it is TRUNCATED (R488). -/
def Rep.held (x : Rep) : Nat := x.rows.foldl (fun m r => max m (r.y + 1)) 0

/-- The crops of a repeat's first candidates: number, first column and row, width and height (R547, R568), cut to what the repeat holds, under
DV_CROP as it stood at the verdict (R586). -/
def Rep.cropRects (x : Rep) (n : Nat) : List (Nat × Nat × Nat × Nat × Nat) :=
  (List.range n).map fun i =>
    let c := x.cands.drop (32 * i)
    let m := bitsOf x.dvCrop 8 8
    let top := bitsOf x.dvCrop 16 13
    let (x0, w) := cropSpan (leAt c 0 2) (leAt c 2 2) (round16 (leAt c 20 4)) m top x.width
    let (y0, h) := cropSpan (leAt c 4 2) (leAt c 6 2) (round16 (leAt c 24 4)) m top x.held
    (i, x0, y0, w, h)

/-- HFLAGS of a repeat's records: NO_CONTEXT (R543). -/
def noCtxFlag (k : Nat) : Nat := if isCtx k then 0 else 4

/-- The type area of a REPEAT record (R546). -/
def repeatArea (c : Ctx) (x : Rep) : List Byte :=
  leBytes 1 c.verdict ++ leBytes 1 x.gateStatus ++ leBytes 2 c.rule ++ leBytes 2 c.cflags ++ leBytes 1 (leAt c.cmp 11 1) ++
    leBytes 1 (leAt c.cmp 10 1) ++ leBytes 2 (leAt c.cmp 0 2) ++ leBytes 2 (leAt c.cmp 2 2) ++
    leBytes 4 (match c.gateHandle with | some h => h % 2 ^ 26 + 2 ^ 31 | none => 0) ++ leBytes 8 c.endPos

/-- The read of a repeat's first `n` candidates in their block (R520, R568): where it reads. -/
def State.candRead (s : State) (k n : Nat) : List (Nat × Nat) × Nat × Nat :=
  match Tbl.get none s.candOf k with
  | some (v, b) => ((s.histOf v).work, b * 8192, 32 * n)
  | none => ([], 0, 0)

/-- A judged repeat is handed to Withy (R567, R568, R570): its context is looked up (R387), and its REPEAT records, then its CROP and FULL records
are queued. -/
def State.withyRepeat (s : State) (k : Nat) : State :=
  let s := s.ctxTouch k
  let c := s.ctxOf k
  let x := s.repOf k
  let v := c.view
  -- a record made from a poisoned context is marked (R382)
  let base : WRec := { type := 1, view := v, tag := c.tag, pos := c.anchor, hflags := noCtxFlag k + (s.ctxPoison k || bitAt c.cflags 4).toNat * 2 }
  let rings := s.ringsForRepeat 1 v c.verdict
  let s := { s with repeatsOut := Tbl.put 0 s.repeatsOut k rings.length }
  let rep : WRec := { base with area := repeatArea c x, body := .repeat k x.cands, key := some k }
  let n := min (bitsOf x.dvCrop 0 8) (leAt c.cmp 2 2)
  let q := s.candRead k n
  let cropping := bitAt (bitsOf x.dvMasks 0 3) (c.verdict - 1) && decide (0 < n)
  let s := if cropping then s.runMeet q.1 q.2.1 q.2.2 else s
  let candBad := s.runPoison q.1 q.2.1 q.2.2
  let s := if rings = [] then s.repeatDelivered k else s.forList rings fun r s => s.queueRec r rep
  let rects := x.cropRects n
  let rowsIn := x.rows.filter fun r => rects.any fun q => decide (q.2.2.1 ≤ r.y ∧ r.y < q.2.2.1 + q.2.2.2.2)
  let s :=
    if cropping then
      let g := s.slotImg x.slot
      let crop : WRec := { base with
        type := 2
        hflags := base.hflags ||| candBad.toNat * 2
        area := leBytes 1 n ++ leBytes 1 x.comps ++ leBytes 1 x.bytesPer
        span := ((rowsIn.head?.map (·.pos)).getD 0, (rowsIn.getLast?.map (·.pos)).getD 0)
        body := .crops v (g.rlane v x.lane).first (x.rows.map fun r => (r.y, r.place)) rects }
      s.forList (s.ringsForRepeat 2 v c.verdict) fun r s => s.queueRec r crop
    else s
  let s :=
    if bitAt (bitsOf x.dvMasks 4 3) (c.verdict - 1) then
      let full : WRec := { base with
        type := 4
        area := leBytes 4 x.rows.length ++ leBytes 4 (roundUp8 (64 + s.get (R.VW_WIDTH_WIDTH v) * x.comps * x.bytesPer)) ++
          leBytes 8 ((x.rows.getLast?.map (·.pos)).getD c.endPos) ++ leBytes 4 0
        body := .rows v (x.rows.map (·.place)) }
      s.forList (s.ringsForRepeat 4 v c.verdict) fun r s => s.queueRec r full
    else s
  s.setRep k {}

/-- The repeats of a view that have been judged are handed to Withy in the order of their verdicts, up to the first whose gate insertion has not
returned (R567, R578). -/
def State.handOver (s : State) (v : Nat) : State :=
  let mine := (s.compare.judged.filter fun k => (s.repOf k).view == v).takeWhile fun k => !(s.repOf k).gating
  let s := { s with compare := { s.compare with judged := s.compare.judged.filter fun k => !mine.contains k } }
  s.forList mine fun k s => s.withyRepeat k

/-! ## Previews (R548, R569) -/

def State.stripeOf (s : State) (v : Nat) : Stripe := Tbl.get {} s.withy.stripe v
def State.setStripe (s : State) (v : Nat) (x : Stripe) : State :=
  { s with withy := { s.withy with stripe := Tbl.put {} s.withy.stripe v x } }

/-- A stripe of a view that waits to be issued is replaced by a later one: the oldest PREVIEW record of the view leaves ring `r` (R569). A front
record that already takes pages is being issued and waits no longer. -/
def State.previewMakeRoom (s : State) (r v : Nat) : State :=
  let q := s.ringQueue r
  let w := Tbl.get ({} : RingSt) s.withy.ring r
  let front := if w.got.isEmpty && w.walk.isNone && w.back.isNone then 0 else 1
  let mine := (q.drop front).filter fun x => x.type == 3 && x.view == v
  if mine.length < 2 then s
  else
    let i := ((q.drop front).findIdx? fun x => x.type == 3 && x.view == v).getD 0
    (s.setRingQueue r (q.eraseIdx (front + i))).bumpSat (R.PREVIEW_SKIP_CNT_CNT v)

/-- A stripe closes: its PREVIEW record is queued, or shed while comparison is throttled (R569). -/
def State.stripeClose (s : State) (v : Nat) : State :=
  let x := s.stripeOf v
  let s := s.setStripe v {}
  if x.rows = [] then s
  else if s.on R.CMP_STATUS_THROTTLED then s.bumpSat (R.PREVIEW_SHED_CNT_CNT v)
  else
    let d := (s.viewDesc? v).getD 0
    let w := s.get (R.VW_WIDTH_WIDTH v) / max 1 x.decX
    let rec_ : WRec := { type := 3, view := v, pos := x.first, body := .preview v x.rows x.decX x.decY
                         area := leBytes 2 w ++ leBytes 2 ((x.rows.length + x.decY - 1) / max 1 x.decY) ++ leBytes 1 x.decX ++ leBytes 1 x.decY ++
                           leBytes 1 (s.descComps d) ++ leBytes 1 0 ++ leBytes 8 x.last }
    s.forList (s.ringsFor 3 v) fun r s => (s.previewMakeRoom r v).queueRec r rec_

/-- A row joins the present stripe of its view; the first row of a stripe fixes its shape (R569, R586). -/
def State.stripeRow (s : State) (v pos : Nat) (place : Option (Bool × Nat)) : State :=
  let x := s.stripeOf v
  let x := if x.rows = [] then
      let dx := clampNat 1 64 (s.get (R.DV_PREVIEW_DEC_X v))
      let dy := clampNat 1 64 (s.get (R.DV_PREVIEW_DEC_Y v))
      { x with first := pos, decX := dx, decY := dy, want := dy * (s.get (R.DV_PREVIEW_STRIPE v) + 1) }
    else x
  if x.rows = [] ∧ !s.on (R.DV_PREVIEW_EN v) then s
  else
    let s := s.setStripe v { x with rows := x.rows ++ [place], last := pos }
    if x.want ≤ x.rows.length + 1 then s.stripeClose v else s

end Sys2Proof.Machine
end

