-- ==== Sys2Proof/Machine/Rows.lean ====
section
/-!
DEFINITION. The emission of a view's rows (R448): Plait makes a row, Creel stores or loses it, segmentation and previews take it.
-/
set_option Elab.async false
namespace Sys2Proof.Machine

/-- A view run is over for the blocks behind Plait (R488, R569). -/
def State.runOver (s : State) (v : Nat) : State := (s.segRunEnd v).stripeClose v

/-- PLAIT_ROW_EMIT (R448): the next row of a view, if it can be completed, goes to Creel, to segmentation and to the preview; when no row
of an ended run is left, the run is over. `perr`: map entries with a parity error that the row uses (R437). `stall`: Creel's write
buffer is full (R356). -/
def execPlaitRowEmit (v : Fin 8) (perr : Nat) (stall : Bool) (s : State) : Host.Outcome State Fault Refusal :=
  .next <|
    let v := v.val
    let ending := (s.plaitOf v).closing
    match s.marksFirst.plaitRow v perr with
    | (s, some r) =>
      let gap := (s.histOf v).gap
      let (s, place) := s.rowWrite v r.pos r.bytes stall
      (s.segRow v r place gap).stripeRow v r.pos (place.map fun p => (p.stage, p.seq))
    | (s, none) => if ending then s.runOver v else s

end Sys2Proof.Machine
end

