-- ==== Sys2Proof/Machine/Pools.lean ====
section
/-!
DEFINITION. Withy's rings, pools and translation cache (R553 to R564): pages and their owners, table walks, and what a record becomes that
cannot be written.
-/
set_option Elab.async false
namespace Sys2Proof.Machine

def State.ringSt (s : State) (r : Nat) : RingSt := Tbl.get {} s.withy.ring r
def State.setRingSt (s : State) (r : Nat) (x : RingSt) : State :=
  { s with withy := { s.withy with ring := Tbl.put {} s.withy.ring r x } }
def State.poolOf (s : State) (p : Nat) : Pool := Tbl.get {} s.withy.pools p
def State.setPool (s : State) (p : Nat) (x : Pool) : State :=
  { s with withy := { s.withy with pools := Tbl.put {} s.withy.pools p x } }

/-- STATE of a pool (R584). -/
abbrev poolOff : Nat := 0
abbrev poolOn : Nat := 1
abbrev poolStopping : Nat := 2
abbrev poolFault : Nat := 3
abbrev poolReclaiming : Nat := 4

def State.poolSt (s : State) (p : Nat) : Nat := s.get (R.POOL_STATE_STATE p)

/-- PAGE_SIZE of a pool (R557). -/
def State.pageSize (s : State) (p : Nat) : Nat :=
  match s.get (R.POOL_CTRL_PSIZE p) with | 0 => 4096 | 1 => 65536 | _ => 2097152

/-- The largest body of a pool (R544). -/
def State.bodyMax (s : State) (p : Nat) : Nat := min (s.pageSize p ^ 2 / 4) (2 ^ 30)

/-- Pages that a body of `len` bytes takes, its list page included (R544). -/
def State.pagesFor (s : State) (p len : Nat) : Nat :=
  let n := (len + s.pageSize p - 1) / s.pageSize p
  if 1 < n then n + 1 else n

/-- The register that counts the pages in a state (R584). -/
def pageCount (p : Nat) : Option PageState → Option Fld
  | none => some (R.POOL_FREE_PAGES p)
  | some .filling => none
  | some .posted => some (R.POOL_POSTED_PAGES p)
  | some .faulted => some (R.FAULTED_CNT_PAGES p)

/-- A page enters a state (R559); POOL_LOW is published when FREE falls to it (R563). -/
def State.pageTo (s : State) (p page : Nat) (st : Option PageState) : State :=
  let x := s.poolOf p
  let old := Tbl.get none x.pages page
  if old = st then s
  else
    let before := s.get (R.POOL_FREE_PAGES p)
    let s := match pageCount p old with | some f => s.set f (s.get f - 1) | none => s
    let s := match pageCount p st with | some f => s.set f (s.get f + 1) | none => s
    let s := s.setPool p { x with pages := Tbl.put none x.pages page st, free := if st = none then x.free ++ [(page, s.clk)] else x.free }
    let low := s.get (R.POOL_LOW_PAGES p)
    if low < before ∧ s.get (R.POOL_FREE_PAGES p) ≤ low then s.publishWithy p 2 else s

/-- The page allocated next (R560), which is not one that became FREE in this clock (R562). -/
def State.nextPage (s : State) (p : Nat) : Option Nat :=
  let x := s.poolOf p
  if x.fresh < s.get (R.POOL_PAGES_PAGES p) then some x.fresh
  else match x.free with
    | (page, t) :: _ => if t < s.clk then some page else none
    | [] => none

/-- The next page is allocated: FILLING. -/
def State.takePage (s : State) (p page : Nat) : State :=
  let x := s.poolOf p
  let x := if page = x.fresh then { x with fresh := page + 1 } else { x with free := x.free.drop 1 }
  (s.setPool p x).pageTo p page (some .filling)

/-! ## Translation -/

def State.tlbFind (s : State) (p page : Nat) : Option Tlb := s.withy.tlb.find? fun t => t.pool == p && t.page == page

/-- A translation becomes the one used last; the cache holds 4,096 (R560). -/
def State.tlbUse (s : State) (t : Tlb) : State :=
  let l := (s.withy.tlb.filter fun u => !(u.pool == t.pool && u.page == t.page)) ++ [t]
  { s with withy := { s.withy with tlb := l.drop (l.length - 4096) } }

/-- Translations of a pool leave the cache, or of one page. -/
def State.tlbDrop (s : State) (p : Nat) (page : Option Nat) : State :=
  { s with withy := { s.withy with
      tlb := s.withy.tlb.filter fun t => !(t.pool == p && match page with | some i => t.page == i | none => true) } }

/-- Address of a page's level-1 entry (R557). -/
def State.tableAt (s : State) (p page : Nat) : Nat := s.get2 (R.POOL_TABLE_LO_ADDR p) (R.POOL_TABLE_HI_ADDR p) + page / 512 * 8

/-! ## Records -/

/-- Rings of a pool that are enabled. -/
def State.ringsOf (s : State) (p : Nat) : List Nat :=
  (List.range 256).filter fun r => s.on (R.RING_CTRL_EN r) && s.get (R.RING_CTRL_POOL r) == p

/-- The bytes of a record's body (R544 to R551). -/
def State.bodyLen (s : State) (x : WRec) : Nat :=
  match x.body with
  | .none => 0
  | .bytes b => b.length
  | .repeat _ cands => 128 + cands.length
  | .crops _ _ _ rects => (rects.map fun q => roundUp8 (16 + q.2.2.2.1 * q.2.2.2.2 * leAt x.area 1 1 * leAt x.area 2 1)).sum
  | .preview v _ _ _ => leAt x.area 0 2 * leAt x.area 2 2 * leAt x.area 6 1 * fmtWidth (s.get (R.SD_FORMAT_FMT ((s.viewDesc? v).getD 0)))
  | .rows _ rows => rows.length * leAt x.area 4 4

/-- The front record of ring `r` holds all the pages that it needs. -/
def State.hasPages (s : State) (r : Nat) : Bool :=
  match s.ringQueue r with
  | x :: _ => (s.ringSt r).got.length == s.pagesFor (s.get (R.RING_CTRL_POOL r)) (s.bodyLen x)
  | [] => false

/-- Positions of the first and the last row of a record that holds rows. -/
def WRec.rowSpan (x : WRec) : Nat × Nat :=
  match x.type with
  | 2 => x.span
  | 4 => (x.pos, leAt x.area 8 8)
  | _ => (0, 0)

/-- The LOSS record that takes a record's place (R552): causes of Withy. Position and end are those of lost rows. -/
def lossFor (x : WRec) (cause : Nat) : WRec :=
  { type := 7, view := x.view, tag := x.tag, pos := x.rowSpan.1, fetch := x.fetch, clk := x.clk, hflags := x.hflags &&& 4
    area := lossArea cause 2 0 0 (2 ^ (x.type - 1)) 1 0 x.rowSpan.2 }

/-- Issue pauses for a ring whose pool is RECLAIMING (R579, R581), and for every ring while Withy is SUSPENDED (R580). -/
def State.ringHeld (s : State) (r : Nat) : Bool :=
  s.on R.WITHY_STATUS_SUSPENDED || s.poolSt (s.get (R.RING_CTRL_POOL r)) == poolReclaiming

/-- A pool whose pages are all FREE; when PAGE_FAULT was last published is kept, and so is the number of its last RECLAIM. -/
def Pool.anew (x : Pool) : Pool := { told := x.told, gen := x.gen }

/-- Pages that the front record of a ring holds return to FREE, and its translation is forgotten. -/
def State.dropPages (s : State) (r : Nat) : State :=
  let p := s.get (R.RING_CTRL_POOL r)
  let x := s.ringSt r
  let pages := x.got.map (·.1) ++ x.walk.toList
  let s := s.setRingSt r { x with got := [], walk := none, back := none }
  if s.poolSt p = poolOff then s else s.forList pages fun i s => s.pageTo p i none

/-- The record at the front of a ring becomes a LOSS record (R544, R561, R563, R564, R568), or nothing if it is a PREVIEW (R569). A REPEAT is
thereby reported (R567). -/
def State.frontLoss (s : State) (r cause : Nat) : State :=
  match s.ringQueue r with
  | [] => s
  | x :: q =>
    let s := s.dropPages r
    let s := s.setRingQueue r (if x.type = 3 then q else lossFor x cause :: q)
    let s := if cause = 11 then s.bumpSat (R.NOBUF_CNT_CNT (s.get (R.RING_CTRL_POOL r))) else s
    let s := if cause = 10 then s.bumpSat (R.NOT_RETAINED_CNT_CNT x.view) else s
    if x.type = 1 then (match x.key with | some k => s.repeatOut k | none => s) else s

/-- Records that wait for pages of a pool become LOSS records (R561, R564); one that holds all its pages is completed. -/
def State.poolLosses (s : State) (p cause : Nat) : State :=
  s.forList (s.ringsOf p) fun r s =>
    match s.ringQueue r with
    | x :: _ => if x.body ≠ .none ∧ (s.ringSt r).back = none ∧ !s.hasPages r then s.frontLoss r cause else s
    | [] => s

/-- A pool becomes OFF: every page leaves it (R559). -/
def State.poolToOff (s : State) (p : Nat) : State :=
  if s.poolSt p = poolOff then s
  else
    let s := s.set R.PAGES_TOTAL_PAGES (s.get R.PAGES_TOTAL_PAGES - s.get (R.POOL_PAGES_PAGES p))
    let s := (s.setPool p (s.poolOf p).anew).tlbDrop p none
    let s := (s.set (R.POOL_STATE_STATE p) poolOff).clear (R.POOL_CTRL_EN p)
    ((s.set (R.POOL_FREE_PAGES p) 0).set (R.POOL_POSTED_PAGES p) 0).set (R.FAULTED_CNT_PAGES p) 0

/-- A STOPPING pool is OFF when no record holds FILLING pages any longer (R564). -/
def State.poolStopCheck (s : State) (p : Nat) : State :=
  if s.poolSt p = poolStopping ∧ (s.ringsOf p).all (fun r => (s.ringSt r).got.isEmpty) then s.poolToOff p else s

/-- A failed table read or read-back puts a pool into FAULT (R561, R574). -/
def State.poolToFault (s : State) (p addr : Nat) : State :=
  if s.poolSt p = poolOn ∨ s.poolSt p = poolStopping ∨ s.poolSt p = poolReclaiming then
    let s := (s.set (R.POOL_STATE_STATE p) poolFault).tlbDrop p none
    let s := s.set2 (R.FAULT_ADDR_LO_ADDR p) (R.FAULT_ADDR_HI_ADDR p) addr
    (s.publishWithy p 3).poolLosses p 14
  else s

/-! ## Allocation -/

/-- The front record of a ring takes its pages one after another, until it has them all, until the pool has none, or until a page must be
translated through the tables (R560). -/
def State.allocPages (s : State) (r p need : Nat) : Nat → State
  | 0 => s
  | fuel + 1 =>
    let x := s.ringSt r
    if need ≤ x.got.length ∨ x.walk.isSome ∨ s.poolSt p ≠ poolOn then s
    else match s.nextPage p with
      | none => s
      | some page =>
        let s := s.takePage p page
        match s.tlbFind p page with
        | some t =>
          let s := (s.tlbUse t).bump R.TLB_HIT_CNT
          (s.setRingSt r { x with got := x.got ++ [(page, t.addr, t.peer)] }).allocPages r p need fuel
        | none =>
          let s := (s.setRingSt r { x with walk := some page }).bump R.TLB_MISS_CNT
          s.portRead 0 (.walk1 r page) (s.tableAt p page) 8

/-- Allocation for the front record goes on. -/
def State.allocMore (s : State) (r : Nat) : State :=
  match s.ringQueue r with
  | x :: _ =>
    let p := s.get (R.RING_CTRL_POOL r)
    let need := s.pagesFor p (s.bodyLen x)
    s.allocPages r p need (need + 1)
  | [] => s

/-- A page's entry is not valid: FAULTED, told at most once in 100 ms, and the next page follows (R561). -/
def State.pageFaulted (s : State) (r p page : Nat) : State :=
  let s := s.setRingSt r { s.ringSt r with walk := none }
  let s := s.pageTo p page (some .faulted)
  let x := s.poolOf p
  let s := if x.told ≠ 0 ∧ s.clk < x.told - 1 + 25000000 then s
    else (s.setPool p { x with told := s.clk + 1 }).publishWithy p 4
  s.allocMore r

/-- A page table entry has been read for the front record of ring `r` (R557, R561); a failed read is none. -/
def State.walked (s : State) (r page addr : Nat) (level2 : Bool) (entry : Option Nat) : State :=
  let p := s.get (R.RING_CTRL_POOL r)
  if (s.ringSt r).walk ≠ some page then s
  else match entry with
    | none => s.poolToFault p addr
    | some e =>
      let a := e / 4096 * 4096
      if !bitAt e 0 then s.pageFaulted r p page
      else if level2 then
        if a % s.pageSize p ≠ 0 then s.pageFaulted r p page
        else
          let x := s.ringSt r
          let t : Tlb := ⟨p, page, a, bitAt e 1⟩
          ((s.tlbUse t).setRingSt r { x with walk := none, got := x.got ++ [(page, a, bitAt e 1)] }).allocMore r
      else s.portRead 0 (.walk2 r page) (a + page % 512 * 8) 8

/-! ## Commands to pools -/

/-- POOL_ENABLE (R558): a write of POOL_CTRL, which a pool takes only while it is OFF; EN written 1 in another state sets POOL_REJ, but for a pool
that is ON, whose EN is 1 already (assumption 82). -/
def execPoolEnable (who : Who) (p : Fin 64) (v : Word) (s : State) : Host.Outcome State Fault Refusal :=
  .next <| s.viaBus who fun s =>
    let p := p.val
    if s.poolSt p ≠ poolOff then (if bitAt v.toNat 0 && s.poolSt p != poolOn then s.raise (R.POOL_STATE_POOL_REJ p) else s)
    else
      let s := s.writeReg (R.POOL_CTRL p) v
      let n := s.get (R.POOL_PAGES_PAGES p)
      if !s.on (R.POOL_CTRL_EN p) then s
      else if n = 0 ∨ 262144 < n ∨ 1048576 < s.get R.PAGES_TOTAL_PAGES + n ∨ s.get (R.POOL_CTRL_PSIZE p) = 3 then
        (s.clear (R.POOL_CTRL_EN p)).raise (R.POOL_STATE_POOL_REJ p)
      else
        let s := (s.setPool p (s.poolOf p).anew).set R.PAGES_TOTAL_PAGES (s.get R.PAGES_TOTAL_PAGES + n)
        (s.set (R.POOL_STATE_STATE p) poolOn).set (R.POOL_FREE_PAGES p) n

/-- A return that R562 does not allow. -/
def State.freeErr (s : State) (p : Nat) : State :=
  (((s.raise R.WITHY_STATUS_FREE_ERR).bumpSat R.FREE_ERR_CNT_CNT).set R.ERR_INFO_NUM p).raise R.ERR_INFO_IS_POOL

/-- POOL_FREE_DB (R562): pages return. -/
def execPoolFreeDb (who : Who) (p : Fin 64) (v : Word) (s : State) : Host.Outcome State Fault Refusal :=
  .next <| s.viaBus who fun s =>
    let p := p.val
    let first := bitsOf v.toNat 0 18
    s.forEach (bitsOf v.toNat 18 8 + 1) fun i s =>
      let page := first + i
      if s.poolSt p = poolOff then s.freeErr p
      else match Tbl.get none (s.poolOf p).pages page with
        | some .posted | some .faulted =>
          let s := s.pageTo p page none
          if bitAt v.toNat 31 then s.tlbDrop p (some page) else s
        | _ => s.freeErr p

/-- DISABLE (R564). -/
def execDisable (who : Who) (p : Fin 64) (s : State) : Host.Outcome State Fault Refusal :=
  .next <| s.viaBus who fun s =>
    let p := p.val
    if s.poolSt p = poolFault then
      let s := s.forList (s.ringsOf p) fun r s => if (s.ringSt r).got.isEmpty then s else s.frontLoss r 14
      s.poolToOff p
    else if s.poolSt p = poolOn ∨ s.poolSt p = poolReclaiming then
      let s := ((s.set (R.POOL_STATE_STATE p) poolStopping).tlbDrop p none).poolLosses p 11
      s.poolStopCheck p
    else s

/-! ## RECLAIM (R581) -/

/-- The last read of a RECLAIM has ended: POSTED pages that nothing names become FREE, and the pool is ON again. -/
def State.reclaimEnd (s : State) (p : Nat) : State :=
  let x := s.poolOf p
  let gone := (x.pages.filter fun e => e.2 == some .posted && !x.keep.contains e.1).map (·.1)
  ((s.forList gone fun i s => s.pageTo p i none).set (R.RECLAIMED_PAGES p) gone.length).set (R.POOL_STATE_STATE p) poolOn

/-- Reads of a RECLAIM: those issued now are counted, and one that has ended is not. -/
def State.reclaimReads (s : State) (p ended : Nat) (l : List (RcStep × Nat × Nat)) : State :=
  let x := s.poolOf p
  let s := s.setPool p { x with await := x.await + l.length - ended }
  let s := s.forList l fun q s => s.portRead 0 (.reclaim p x.gen q.1) q.2.1 q.2.2
  if (s.poolOf p).await = 0 then s.reclaimEnd p else s

/-- A read of a RECLAIM has ended (R544, R557, R581): a header names a page of the pool and, with LIST, a list page, which is found through the
tables; a failed read, or a table entry that is not valid, is a failed table read (R561; assumption 131). -/
def State.reclaimIn (s : State) (p gen : Nat) (step : RcStep) (addr : Nat) (data : Option (List Byte)) : State :=
  let x := s.poolOf p
  if x.gen ≠ gen ∨ s.poolSt p ≠ poolReclaiming then s
  else match data with
    | none => s.poolToFault p addr
    | some b =>
      let e := leNat b
      match step with
      | .header =>
        let len := leAt b 32 4
        let page := leAt b 36 4 % 2 ^ 18
        if leAt b 3 1 % 64 ≠ p ∨ len = 0 then s.reclaimReads p 1 []
        else
          let s := s.setPool p { x with keep := page :: x.keep }
          let n := (len + s.pageSize p - 1) / s.pageSize p
          s.reclaimReads p 1 (if bitAt (leAt b 1 1) 4 then [(.walk1 page n, s.tableAt p page, 8)] else [])
      | .walk1 page n =>
        if bitAt e 0 then s.reclaimReads p 1 [(.walk2 page n, e / 4096 * 4096 + page % 512 * 8, 8)] else s.poolToFault p addr
      | .walk2 _ n =>
        let a := e / 4096 * 4096
        if bitAt e 0 then s.reclaimReads p 1 ((cutReads (s.mrrs 0) (4 * n) a 0 (4 * n)).map fun y => (.list, a + y.1, y.2))
        else s.poolToFault p addr
      | .list =>
        let l := (List.range (b.length / 4)).map fun i => leAt b (4 * i) 4 % 2 ^ 18
        (s.setPool p { x with keep := l ++ x.keep }).reclaimReads p 1 []

/-- RECLAIM (R560, R581): a pool that is ON becomes RECLAIMING, and every header from HEAD up to TAIL of each enabled ring is read back. What is
freed follows from what those reads return (COMPLETION_RX): the operand, the pages that the sender takes to be named, has no effect
(assumption 131). -/
def execReclaim (who : Who) (p : Fin 64) (_named : List Nat) (s : State) : Host.Outcome State Fault Refusal :=
  .next <| s.viaBus who fun s =>
    let p := p.val
    if s.poolSt p ≠ poolOn then s
    else
      let x := s.poolOf p
      let s := ((s.set (R.POOL_STATE_STATE p) poolReclaiming).tlbDrop p none).setPool p { x with await := 0, keep := [], gen := x.gen + 1 }
      let heads := ((List.range 256).filter fun r => s.on (R.RING_CTRL_EN r)).flatMap fun r => (List.range (s.ringUsed r)).map fun i =>
        (RcStep.header, s.get2 (R.RING_BASE_LO_ADDR r) (R.RING_BASE_HI_ADDR r) + (s.get (R.RING_HEAD_HEAD r) + i) % s.ringSize r * 64, 64)
      s.reclaimReads p 0 heads

end Sys2Proof.Machine
end

