-- ==== Sys2Proof/Machine/Withy.lean ====
section
/-!
DEFINITION. Withy issues records (R543 to R556, R565 to R568), raises ring interrupts (R575), serves the fetch ports (R571 to R573) and the
event taps (R576), and is reset (R580).
-/
set_option Elab.async false
namespace Sys2Proof.Machine

/-! ## Bodies -/

/-- A body as it is built: its bytes, and whether a row was OVERWRITTEN, a datum read poisoned, a row taken from a stage. -/
structure Body where
  bytes : List Byte := []
  overwritten : Bool := false
  poison : Bool := false
  stage : Bool := false

/-- The bytes of a row where it is stored, or none when it cannot be read whole (R369). -/
def State.placed (s : State) (v : Nat) : Option (Bool × Nat) → Option (List Byte)
  | some (stage, q) => if s.rowReadable v stage q then some (s.rowBytesAt v stage q) else none
  | none => none

/-- The read of `n` bytes from byte `lo` of a row where it is stored: segments, offset and length; none when it cannot be read. -/
def State.rowPart (s : State) (v lo n : Nat) : Option (Bool × Nat) → List (List (Nat × Nat) × Nat × Nat)
  | some (stage, q) => if s.rowReadable v stage q then [(s.rowSegs v stage, s.rowOff v stage q + 32 + lo, n)] else []
  | none => []

/-- Whether a place lies in a stage. -/
def inStage : Option (Bool × Nat) → Bool
  | some (stage, _) => stage
  | none => false

/-- One crop: header, samples, filling (R547). `n`: bytes of a column. -/
def cropBytes (n col0 : Nat) (rows : Nat → List Byte) (q : Nat × Nat × Nat × Nat × Nat) : List Byte :=
  let (cand, x0, y0, w, h) := q
  let head := leBytes 1 cand ++ leBytes 1 0 ++ leBytes 2 x0 ++ leBytes 2 y0 ++ leBytes 2 w ++ leBytes 2 h ++ leBytes 6 0
  let data := (List.range h).flatMap fun i => padTo (w * n) ((rows (y0 + i)).drop (64 + (col0 + x0) * n))
  padTo (roundUp8 (16 + w * h * n)) (head ++ data)

/-- A stripe's output rows: means of blocks, halves up (R569). `sw`: bytes of a sample; `comps`: components. -/
def stripeBytes (sw comps width decX decY : Nat) (rows : List (List Byte)) : List Byte :=
  let sample := fun (row : List Byte) (col c : Nat) => leAt row (64 + (col * comps + c) * sw) sw
  (List.range ((rows.length + decY - 1) / max 1 decY)).flatMap fun k =>
    let block := (rows.drop (k * decY)).take decY
    (List.range width).flatMap fun j => (List.range comps).flatMap fun c =>
      let xs := block.flatMap fun row => (List.range decX).map fun i => sample row (j * decX + i) c
      leBytes sw ((2 * xs.sum + xs.length) / (2 * max 1 xs.length))

/-- The image of a repeat's context at issue; a repeat without one has STATE 2 and context index 0 (R546). -/
def State.repeatImage (s : State) (k : Nat) : List Byte :=
  let c := s.ctxOf k
  if isCtx k then c.image else ({ c with state := 2, actDone := false, delivDone := false } : Ctx).image

/-- The reads of device memory that the body of a record takes (R546 to R549): segments, offset and length. -/
def State.bodyReads (s : State) (x : WRec) : List (List (Nat × Nat) × Nat × Nat) :=
  match x.body with
  | .none | .bytes _ => []
  | .repeat k cands =>
    match Tbl.get none s.candOf k with
    | some (v, b) => [((s.histOf v).work, b * 8192, cands.length)]
    | none => []
  | .crops v col0 rows rects =>
    let n := leAt x.area 1 1 * leAt x.area 2 1
    rects.flatMap fun (_, x0, y0, w, h) =>
      (rows.filter fun r => decide (y0 ≤ r.1 ∧ r.1 < y0 + h)).flatMap fun r => s.rowPart v (64 + (col0 + x0) * n) (w * n) r.2
  | .preview v rows decX _ =>
    let n := leAt x.area 6 1 * fmtWidth (s.get (R.SD_FORMAT_FMT ((s.viewDesc? v).getD 0)))
    rows.flatMap (s.rowPart v 64 (leAt x.area 0 2 * decX * n))
  | .rows v rows => rows.flatMap fun r => s.rowPart v 0 ((s.placed v r).getD []).length r

/-- A read of the body returned poison (R382, R543). -/
def State.bodyPoison (s : State) (x : WRec) : Bool := (s.bodyReads x).any fun (l, o, n) => s.runPoison l o n

/-- The reads of a body meet the errors that lie there (R380, R381); the image of a context is looked up (R387). -/
def State.bodyMeet (s : State) (x : WRec) : State :=
  let s := s.forList (s.bodyReads x) fun q s => s.runMeet q.1 q.2.1 q.2.2
  match x.body with
  | .repeat k _ => s.ctxTouch k
  | _ => s

/-- The body of a record at its issue (R544 to R551). -/
def State.bodyOf (s : State) (x : WRec) : Body :=
  match x.body with
  | .none => {}
  | .bytes b => { bytes := b }
  | .repeat k cands => { bytes := s.repeatImage k ++ cands, poison := s.ctxPoison k || s.bodyPoison x }
  | .crops v col0 rows rects =>
    let used := rows.filter fun r => rects.any fun q => decide (q.2.2.1 ≤ r.1 ∧ r.1 < q.2.2.1 + q.2.2.2.2)
    let row := fun (y : Nat) => ((rows.find? fun r => r.1 == y).bind fun r => s.placed v r.2).getD []
    { bytes := rects.flatMap (cropBytes (leAt x.area 1 1 * leAt x.area 2 1) col0 row)
      overwritten := (used.any fun r => (s.placed v r.2).isNone) ||
        rects.any fun q => (List.range q.2.2.2.2).any fun i => (rows.find? fun r => r.1 == q.2.2.1 + i).isNone
      poison := s.bodyPoison x
      stage := used.any fun r => inStage r.2 }
  | .preview v rows decX decY =>
    { bytes := stripeBytes (fmtWidth (s.get (R.SD_FORMAT_FMT ((s.viewDesc? v).getD 0)))) (leAt x.area 6 1) (leAt x.area 0 2) decX decY
        (rows.map fun r => (s.placed v r).getD [])
      overwritten := rows.any fun r => (s.placed v r).isNone
      poison := s.bodyPoison x
      stage := rows.any inStage }
  | .rows v rows =>
    { bytes := rows.flatMap fun r => padTo (leAt x.area 4 4) ((s.placed v r).getD [])
      overwritten := rows.isEmpty || rows.any fun r => (s.placed v r).isNone
      poison := s.bodyPoison x
      stage := rows.any inStage }

/-! ## Interrupts (R575, R577) -/

/-- A ring's interrupt is sent (R575, R737). -/
def State.ringIrqSend (s : State) (r : Nat) : State :=
  if s.on (Cfg.MSIX_EN 0) then s.msix 0 (s.get (R.RING_IRQ_VECTOR r)) else s.girq 0 (R.GIRQ_STATUS_RING 0)

/-- Bus address of an entry of a ring. -/
def State.ringEntry (s : State) (r i : Nat) : Nat := s.get2 (R.RING_BASE_LO_ADDR r) (R.RING_BASE_HI_ADDR r) + i * 64

/-- A ring's interrupt falls due while Withy is not SUSPENDED: ARMED clears; a ring in peer memory reads its last header back first (R574). -/
def State.ringIrqDue (s : State) (r : Nat) : State :=
  let s := (s.clear (R.RING_HEAD_ARMED r)).setRingSt r { s.ringSt r with armedAt := none, timed := false }
  if s.on (R.RING_CTRL_PEER r) then
    let s := s.setRingSt r { s.ringSt r with irqBack := some false }
    s.portRead 0 (.headBack r) (s.ringEntry r ((s.get (R.RING_PTR_TAIL r) + s.ringSize r - 1) % s.ringSize r) + 63) 1
  else s.ringIrqSend r

/-- The interrupt is sent when the ring is ARMED and holds IRQ_COUNT records, or any record once IRQ_TIME has run out (R575); not while Withy is
SUSPENDED (R580). -/
def State.ringIrqCheck (s : State) (r : Nat) : State :=
  let timed := (s.ringSt r).timed && s.on (R.RING_IRQ_TIME_US r) && decide (0 < s.ringUsed r)
  if s.on (R.RING_CTRL_EN r) && s.on (R.RING_IRQ_IRQ_EN r) && s.on (R.RING_HEAD_ARMED r) && !s.on R.WITHY_STATUS_SUSPENDED &&
      (timed || decide (max 1 (s.get (R.RING_IRQ_IRQ_COUNT r)) ≤ s.ringUsed r)) then
    s.ringIrqDue r
  else s

/-! ## Headers -/

/-- PHASE of the record with sequence number `n` (R554). -/
def State.phase (s : State) (r n : Nat) : Nat := if n / s.ringSize r % 2 = 0 then 1 else 0

/-- A header (R543). -/
def State.headerOf (s : State) (r : Nat) (x : WRec) (flags len page : Nat) : List Byte :=
  let n := s.get (R.RING_RSEQ_RSEQ r)
  leBytes 1 (x.type % 16) ++ leBytes 1 (x.hflags ||| flags ||| s.phase r n) ++ leBytes 1 x.view ++
    leBytes 1 (if len = 0 then 0 else s.get (R.RING_CTRL_POOL r)) ++ leBytes 4 n ++ leBytes 8 x.tag ++ leBytes 8 x.pos ++
    leBytes 8 (x.time.getD s.timeNs) ++ leBytes 4 len ++ leBytes 4 (page % 2 ^ 18) ++ padTo 24 x.area

/-- A header is written into the ring: the record is issued (R554, R565), the ring's counters and interrupts follow. -/
def State.putHeader (s : State) (r : Nat) (x : WRec) (flags len page : Nat) : State :=
  let before := s.ringUsed r
  let n := s.get (R.RING_RSEQ_RSEQ r)
  let s := s.portWrite 0 (s.ringEntry r (s.get (R.RING_PTR_TAIL r))) (s.headerOf r x flags len page)
  let s := s.set (R.RING_PTR_TAIL r) ((s.get (R.RING_PTR_TAIL r) + 1) % s.ringSize r)
  let s := ((s.set (R.RING_RSEQ_RSEQ r) (n + 1)).set (R.RING_PTR_LAP r) (s.phase r ((n + 1) % 2 ^ 32))).bump (R.RING_REC_CNT_CNT r)
  let level := s.get (R.RING_THRESH_LEVEL r)
  let s := if level ≠ 0 ∧ before < level ∧ level ≤ s.ringUsed r then s.publishWithy r 0 else s
  let w := s.ringSt r
  let s := if s.on (R.RING_HEAD_ARMED r) && w.armedAt.isNone then s.setRingSt r { w with armedAt := some s.clk } else s
  let s := match x.fetch with
    | some f => if x.type = 4 then s.bump (R.FB_FULL_CNT_CNT f) else s.bump (R.FB_LOSS_CNT_CNT f)
    | none => s
  s.ringIrqCheck r

/-- The record at the front of a ring is issued: its pages become POSTED, and it leaves the queue. -/
def State.frontHeader (s : State) (r flags len page : Nat) : State :=
  match s.ringQueue r with
  | [] => s
  | x :: q =>
    let p := s.get (R.RING_CTRL_POOL r)
    let pages := (s.ringSt r).got.map (·.1)
    let s := (s.putHeader r x flags len page).setRingQueue r q
    let s := s.forList pages fun i s => s.pageTo p i (some .posted)
    let s := s.setRingSt r { s.ringSt r with got := [], back := none }
    (s.reportOut x).poolStopCheck p

/-- The LOSS record for what a ring has dropped (R555), written before any other record; two free entries are enough. -/
def State.ringFullRecord (s : State) (r : Nat) : State :=
  let (n, mask) := Tbl.get (0, 0) s.ringLost r
  if n = 0 ∨ s.ringFree r < 2 ∨ s.ringHeld r ∨ (s.ringSt r).back.isSome then s
  else
    let x : WRec := { type := 7, tag := (s.ringSt r).lostTag, area := lossArea 12 2 0 0 mask (n % 2 ^ 32) 0 0 }
    let t := s.putHeader r x 0 0 0
    { t.setRingSt r { t.ringSt r with told := false } with ringLost := Tbl.put (0, 0) s.ringLost r (0, 0) }

/-! ## Fetch ports -/

/-- A fetch port queues its next record, one at a time; after the last has been issued or dropped the fetch is done (R571). -/
def State.fetchFeedGo (f : Nat) : Nat → State → State
  | 0, s => s
  | fuel + 1, s =>
    let x := s.fetchOf f
    if !x.busy || x.out || decide (0 < x.await) then s
    else match x.todo with
      | [] => s.fetchEnd f 0
      | y :: t => State.fetchFeedGo f fuel ((s.setFetch f { x with todo := t, out := true }).queueRec x.ring y)

def State.fetchFeed (s : State) : State := s.forEach 8 fun f s => State.fetchFeedGo f ((s.fetchOf f).todo.length + 2) s

/-! ## Issue -/

/-- The record at the front, which needs no pages, is issued. -/
def State.issuePlain (s : State) (r : Nat) : State := s.frontHeader r 0 0 0

/-- The front record has its pages: its body and list are written, and then its header, unless the body must be read back first (R544,
R554, R574). -/
def State.issueBody (s : State) (r : Nat) (b : Body) : State :=
  let p := s.get (R.RING_CTRL_POOL r)
  let size := s.pageSize p
  let got := (s.ringSt r).got
  let list := decide (1 < got.length)
  let body := if list then got.drop 1 else got
  let s := s.forList body.zipIdx fun (e, i) s => s.portWrite 0 e.2.1 ((b.bytes.drop (i * size)).take size)
  let s := if list then s.portWrite 0 ((got.headD (0, 0, false)).2.1) (body.flatMap fun e => leBytes 4 e.1) else s
  let flags := b.poison.toNat * 2 + list.toNat * 16 + b.stage.toNat * 32
  let page := (got.headD (0, 0, false)).1
  if body.any fun e => e.2.2 != s.on (R.RING_CTRL_PEER r) then
    let last := (body.getLastD (0, 0, false)).2.1 + (b.bytes.length - 1) % size
    (s.setRingSt r { s.ringSt r with back := some { hflags := flags, len := b.bytes.length, page := page } }).portRead 0 (.bodyBack r) last 1
  else s.frontHeader r flags b.bytes.length page

/-- Class of a record (R545). -/
def recClass (x : WRec) : Nat := match x.type with | 2 => 2 | 3 => 3 | 4 => 4 | _ => 1

/-- The class in which a ring has a record ready to be written (R566): the LOSS record of RING_FULL, a record without a body or one that a LOSS
record replaces, or a record that has its pages. -/
def State.readyClass (s : State) (r : Nat) : Option Nat :=
  if !s.on (R.RING_CTRL_EN r) || s.ringHeld r || (s.ringSt r).back.isSome then none
  else if (Tbl.get (0, 0) s.ringLost r).1 ≠ 0 then (if s.ringFree r < 2 then none else some 1)
  else match s.ringQueue r with
    | [] => none
    | x :: _ =>
      if s.ringFree r < 3 then none
      else if x.body = .none then some 1
      else if s.hasPages r then some (recClass x)
      else if s.poolSt (s.get (R.RING_CTRL_POOL r)) ≠ poolOn then some 1
      else none

/-- The rings that have a record of class `c` ready. -/
def State.ringsReady (s : State) (c : Nat) : List Nat :=
  (s.ringQ.keys ++ s.ringLost.keys).eraseDups.filter fun r => s.readyClass r == some c

/-- The class that is served (R566; assumption 118): class 4 while it is short of its share, otherwise the highest that has a record ready. -/
def State.classServed (s : State) : Option Nat :=
  let short := decide (256 * s.withy.share.2 < s.get R.SCHED_FULL_SHARE * s.withy.share.1)
  if short && s.ringsReady 4 != [] then some 4
  else [1, 2, 3, 4].find? fun c => s.ringsReady c != []

/-- It is the turn of ring `r`, in rotation from the ring of its class that was served last (R566; assumption 118). -/
def State.ringTurn (s : State) (r : Nat) : Bool :=
  match s.classServed with
  | none => false
  | some c =>
    let after' (q : Nat) : Nat := (q + 255 - Tbl.get 255 s.withy.turn c) % 256
    (s.ringsReady c).contains r && (s.ringsReady c).all fun q => after' r ≤ after' q

/-- A ring of class `c` has been served `n` bytes (R566). -/
def State.served (s : State) (r c n : Nat) : State :=
  let w := s.withy
  let share := if s.ringsReady 4 = [] then (0, 0) else (w.share.1 + n, w.share.2 + if c = 4 then n else 0)
  { s with withy := { w with turn := Tbl.put 255 w.turn c r, share := share } }

/-- The front record of a ring goes as far as it can without a write (R554, R561): a body that cannot be delivered makes way for a LOSS record, or
for nothing if it is a PREVIEW, and any other takes its pages. -/
def State.prepareFront (s : State) (r : Nat) : State :=
  if !s.on (R.RING_CTRL_EN r) || s.ringHeld r || (s.ringSt r).back.isSome || (Tbl.get (0, 0) s.ringLost r).1 != 0 then s
  else match s.ringQueue r with
    | [] => s
    | x :: q =>
      let p := s.get (R.RING_CTRL_POOL r)
      if s.ringFree r < 3 ∨ x.body = .none then s
      else if s.poolSt p = poolOff ∨ (s.poolSt p ≠ poolOn ∧ !s.hasPages r) then s.frontLoss r 11
      else
        let b := s.bodyOf x
        if b.overwritten then
          if x.type = 3 then (((s.dropPages r).setRingQueue r q).bumpSat (R.PREVIEW_SKIP_CNT_CNT x.view)).poolStopCheck p else s.frontLoss r 10
        else if s.bodyMax p < b.bytes.length then s.frontLoss r 15
        else
          let need := s.pagesFor p b.bytes.length
          if s.get (R.POOL_FREE_PAGES p) + (s.ringSt r).got.length + (s.ringSt r).walk.toList.length < need then s else s.allocMore r

/-- The record of a ring whose turn it is leaves (R554, R565): RING_FULL first; a record without a body by its header alone, any other with its
body. -/
def State.writeFront (s : State) (r : Nat) : State :=
  if (Tbl.get (0, 0) s.ringLost r).1 ≠ 0 then (s.ringFullRecord r).served r 1 64
  else match s.ringQueue r with
    | [] => s
    | x :: _ =>
      if x.body = .none then (s.issuePlain r).served r 1 64
      else
        let s := s.bodyMeet x
        let b := s.bodyOf x
        if b.overwritten ∨ s.poolSt (s.get (R.RING_CTRL_POOL r)) = poolOff then s
        else (s.issueBody r b).served r (recClass x) (64 + b.bytes.length)

/-- The back end may issue a write for ring `r`: its record is made ready, and leaves if the ring is the one to be served (R566). -/
def State.issueFront (s : State) (r : Nat) : State :=
  let s := s.prepareFront r
  if s.ringTurn r then s.writeFront r else s

/-- RECORD_ISSUE (R554, R565, R566): a host interface clock in which the back end may issue a write, for ring `r` if that is the ring to be served. -/
def execRecordIssue (r : Fin 256) (s : State) : Host.Outcome State Fault Refusal := .next (s.issueFront r).fetchFeed

/-- POOL_WAIT_EXPIRE (R563): the record at the front of a ring has waited POOL_WAIT µs for pages; while its pool is RECLAIMING it goes on waiting
(R579). -/
def execPoolWaitExpire (r : Fin 256) (s : State) : Host.Outcome State Fault Refusal :=
  .next <|
    match s.ringQueue r with
    | x :: _ =>
      let p := s.get (R.RING_CTRL_POOL r)
      let w := s.ringSt r
      if x.body ≠ .none ∧ s.poolSt p ≠ poolReclaiming ∧ w.back = none ∧ s.get (R.POOL_FREE_PAGES p) + w.got.length + w.walk.toList.length < s.pagesFor p (s.bodyLen x) then
        (s.frontLoss r 11).fetchFeed
      else s
    | [] => s

/-! ## Rings -/

/-- EN of a ring is cleared: its queue is discarded, and each REPEAT in it is reported delivered (R579). -/
def State.ringOff (s : State) (r : Nat) : State :=
  let q := s.ringQueue r
  let s := s.dropPages r
  let s := (s.clear (R.RING_CTRL_EN r)).setRingQueue r []
  let s := { s with ringLost := Tbl.put (0, 0) s.ringLost r (0, 0) }
  let s := s.setRingSt r {}
  let s := s.forList q fun x s => s.reportOut x
  (s.poolStopCheck (s.get (R.RING_CTRL_POOL r))).fetchFeed

/-- A ring stops (R579, R657). -/
def State.ringDisable (s : State) (r : Nat) : State := (s.ringOff r).unitStopNow (ringUnit r)

/-- A ring starts at once: pointers and RSEQ begin anew (R553, R655). -/
def State.ringStart (s : State) (r : Nat) : State :=
  let s := ((s.set (R.RING_PTR_TAIL r) 0).set (R.RING_PTR_LAP r) 1).set (R.RING_HEAD_HEAD r) 0
  ((s.set (R.RING_RSEQ_RSEQ r) 0).raise (R.RING_CTRL_EN r)).unitStartNow (ringUnit r)

/-- RING_ENABLE (R553, R579, R657): a write of RING_CTRL. Fields other than EN are taken only while EN is 0. EN 0 is an OFF, also of a ring whose EN hardware has
cleared. -/
def execRingEnable (who : Who) (r : Fin 256) (v : Word) (s : State) : Host.Outcome State Fault Refusal :=
  .next <| s.viaBus who fun s =>
    let r := r.val
    if s.on (R.RING_CTRL_EN r) then
      let s := if bitsOf v.toNat 1 13 = bitsOf (s.reg (R.RING_CTRL r)).toNat 1 13 then s else s.raise (R.RING_STATUS_CFG_REJ r)
      if bitAt v.toNat 0 then s else s.ringDisable r
    else
      let s := s.writeReg (R.RING_CTRL r) v
      if s.on (R.RING_CTRL_EN r) then s.ringStart r else s.unitStopNow (ringUnit r)

/-- RING_HEAD_DB (R554, R575, R577). -/
def execRingHeadDb (who : Who) (r : Fin 256) (v : Word) (s : State) : Host.Outcome State Fault Refusal :=
  .next <| s.viaBus who fun s =>
    let r := r.val
    let h := bitsOf v.toNat 0 16
    let size := s.ringSize r
    if size ≤ h ∨ s.ringUsed r < (h + size - s.get (R.RING_HEAD_HEAD r)) % size then
      (((s.raise (R.RING_STATUS_HEAD_ERR r)).raise R.WITHY_STATUS_HEAD_ERR).set R.ERR_INFO_NUM r).clear R.ERR_INFO_IS_POOL
    else
      let s := s.set (R.RING_HEAD_HEAD r) h
      let s :=
        if bitAt v.toNat 31 then
          let w := s.ringSt r
          let s := (s.raise (R.RING_HEAD_ARMED r)).setRingSt r { w with
            timed := w.timed && s.on (R.RING_HEAD_ARMED r), armedAt := if s.ringUsed r = 0 then none else if w.armedAt.isSome then w.armedAt else some s.clk }
          s.ringIrqCheck r
        else s
      if s.on (R.RING_CTRL_EN r) then s.ringFullRecord r else s

/-- RING_IRQ_TIMER (R575): IRQ_TIME µs have passed since the first record issued while ARMED; while Withy is SUSPENDED this is remembered
(R580). -/
def execRingIrqTimer (r : Fin 256) (s : State) : Host.Outcome State Fault Refusal :=
  .next <|
    let r := r.val
    if s.on (R.RING_CTRL_EN r) && s.on (R.RING_IRQ_IRQ_EN r) && s.on (R.RING_HEAD_ARMED r) && s.on (R.RING_IRQ_TIME_US r) &&
        decide (0 < s.ringUsed r) && (s.ringSt r).armedAt.isSome then
      (s.setRingSt r { s.ringSt r with timed := true }).ringIrqCheck r
    else s

/-! ## Peer destinations (R574) -/

/-- The read-back of a body has failed: the pool enters FAULT. -/
def State.bodyBackFail (s : State) (r addr : Nat) : State := s.poolToFault (s.get (R.RING_CTRL_POOL r)) addr

/-- The read-back of a header has failed: hardware clears EN, and the unit is observed DOWN (R574, R655). -/
def State.headBackFail (s : State) (r : Nat) : State := (s.ringOff r).raise (R.RING_STATUS_CFG_REJ r)

/-- A read-back has arrived. -/
def State.bodyBackIn (s : State) (r : Nat) : State :=
  let w := s.ringSt r
  s.setRingSt r { w with back := w.back.map fun b => { b with arrived := true } }
def State.headBackIn (s : State) (r : Nat) : State :=
  let w := s.ringSt r
  s.setRingSt r { w with irqBack := w.irqBack.map fun _ => true }

/-- PEER_READ_BACK (R574): a read-back that has arrived lets the header, or the interrupt, follow, unless issue is held (R580, R581). -/
def execPeerReadBack (r : Fin 256) (s : State) : Host.Outcome State Fault Refusal :=
  .next <|
    let r := r.val
    let s := if (s.ringSt r).irqBack = some true && !s.on R.WITHY_STATUS_SUSPENDED then
        (s.setRingSt r { s.ringSt r with irqBack := none }).ringIrqSend r else s
    match (s.ringSt r).back with
    | some b =>
      if b.arrived && !s.ringHeld r then (s.frontHeader r b.hflags b.len b.page).fetchFeed else s
    | none => s

/-! ## Fetch-back (R571 to R573) -/

/-- A record of a fetch that stands for rows or for their loss. -/
def fetchLoss (f view tag cause pos endPos : Nat) : WRec :=
  { type := 7, view := view, tag := tag, pos := pos, fetch := some f, area := lossArea cause 2 0 0 8 1 0 endPos }

/-- A FULL record of rows in the ring of a view (R549). -/
def State.fetchFull (s : State) (f v tag pos endPos id : Nat) (rows : List (Option Nat)) (bad : Bool := false) : WRec :=
  let first := (rows.headD none).getD 0
  -- the positions come from Creel's headers (R366, R382)
  let bad := bad || rows.any fun r => match r with | some q => s.runPoison (s.rowSegs v false) (s.rowOff v false q) 32 | none => false
  { type := 4, view := v, tag := tag, pos := pos, fetch := some f, hflags := 8 + bad.toNat * 2
    area := leBytes 4 rows.length ++ leBytes 4 (roundUp8 (s.rowBytesAt v false first).length) ++ leBytes 8 endPos ++ leBytes 4 id
    body := .rows v (rows.map fun r => r.map fun q => (false, q)) }

/-- Retained rows of a view's ring in ring order: number, position, and whether they are BACKWARD. -/
def State.ringRows (s : State) (v : Nat) : List (Nat × Nat × Bool) :=
  (List.range (s.retainedRows v)).map fun (i : Nat) =>
    let q := unsigned 32 ((s.get (R.WRITE_SEQ_SEQ v) : Int) - s.retainedRows v + (i : Int))
    (q, s.rowPosAt v false q, bitAt (leAt (s.rowBytesAt v false q) 16 1) 6)

/-- The search for a fetch's rows reads the headers of the retained rows, with the errors that lie there (R380, R381; assumption 143). -/
def State.ringMeet (s : State) (v : Nat) : State := s.forList ((s.ringRows v).map (·.1)) fun q s => s.headMeet v false q 64

/-- The record of a tag (R572): the rows of the repeat, found in the ring by their positions, not before the repeat's first row. -/
def State.fetchTag (s : State) (f v id tag : Nat) : WRec :=
  let c := s.ctxOf (tag % 2 ^ 20)
  if c.tag = tag ∧ c.view = v then
    let back := unsigned 32 ((s.get (R.VW_ROW_CNT_CNT v) : Int) - c.firstRow)
    let rows := (s.ringRows v).filterMap fun (q, pos, bw) =>
      if !bw ∧ 0 ≤ posDiff pos c.anchor ∧ 0 ≤ posDiff c.endPos pos ∧ unsigned 32 ((s.get (R.WRITE_SEQ_SEQ v) : Int) - 1 - q) ≤ back
      then some q else none
    let rows := (List.range c.rows).map fun i => rows[i]?
    -- a TRUNCATED repeat ends at its last row (R549)
    let stop := match rows.getLast? with
      | some (some q) => if bitAt c.cflags 1 then s.rowPosAt v false q else c.endPos
      | _ => c.endPos
    s.fetchFull f v tag c.anchor stop id rows (s.ctxPoison (tag % 2 ^ 20))
  else fetchLoss f v tag 13 0 0

/-- Rows cut into records of at most `n`. -/
def chunks {α : Type} (n : Nat) : Nat → List α → List (List α)
  | 0, _ => []
  | fuel + 1, l => if l.isEmpty then [] else l.take n :: chunks n fuel (l.drop n)

/-- The records of a POS fetch (R573). -/
def State.fetchPos (s : State) (f v id first last chunk : Nat) : List WRec :=
  let rows := (s.ringRows v).filter fun r => decide (0 ≤ posDiff r.2.1 first) && decide (0 ≤ posDiff last r.2.1)
  if rows = [] then [fetchLoss f v 0 10 first last]
  else (chunks (max 1 chunk) rows.length rows).map fun l =>
    s.fetchFull f v 0 (l.headD (0, 0, false)).2.1 (l.getLastD (0, 0, false)).2.1 id (l.map fun r => some r.1)

/-- The tag list of a fetch has arrived whole: its records follow (R572). -/
def State.fetchList (s : State) (f : Nat) : State :=
  let x := s.fetchOf f
  let bytes := (sortBy (fun (e : Nat × List Byte) => (e.1, 0)) x.buf).flatMap (·.2)
  let tags := (List.range x.count).map fun i => leAt bytes (8 * i) 8
  let s := (s.forList tags fun t s => s.ctxTouch (t % 2 ^ 20)).ringMeet x.view
  (s.setFetch f { x with buf := [], todo := tags.map (s.fetchTag f x.view x.id) }).fetchFeed

/-- A part of a tag list arrives; a failed or poisoned read ends the request (R572). -/
def State.fetchPart (s : State) (f gen off : Nat) (data : Option (List Byte)) : State :=
  let x := s.fetchOf f
  if !x.busy ∨ x.gen ≠ gen ∨ x.await = 0 then s
  else match data with
    | none => s.fetchEnd f 1
    | some d =>
      let s := s.setFetch f { x with await := x.await - 1, buf := x.buf ++ [(off, d)] }
      if x.await ≤ 1 then s.fetchList f else s

/-- FB_GO (R571 to R573). -/
def execFbGo (who : Who) (f : Fin 8) (s : State) : Host.Outcome State Fault Refusal :=
  .next <| s.viaBus who fun s =>
    let f := f.val
    if !s.on (R.FB_RESULT_DONE f) then s.raise (R.FB_RESULT_CMD_IGN f)
    else
      let s := ((s.clear (R.FB_RESULT_DONE f)).set (R.FB_FULL_CNT_CNT f) 0).set (R.FB_LOSS_CNT_CNT f) 0
      let mode := s.get (R.FB_CTRL_MODE f)
      let n := s.get (R.FB_COUNT_TAGS f)
      let r := s.get (R.FB_CTRL_RING f)
      let v := s.get (R.FB_CTRL_VIEW f)
      let id := s.get (R.FB_ID_ID f)
      let x : FetchSt := { busy := true, ring := r, view := v, id := id, count := n, gen := (s.fetchOf f).gen + 1 }
      if (mode ≠ 1 ∧ mode ≠ 2) ∨ n = 0 ∨ 4096 < n ∨ !s.on (R.RING_CTRL_EN r) then s.fetchEnd f 2
      else if mode = 1 then
        let a := s.get2 (R.FB_LIST_LO_ADDR f) (R.FB_LIST_HI_ADDR f)
        let parts := cutReads (s.mrrs 0) (8 * n) a 0 (8 * n)
        (s.setFetch f { x with await := parts.length }).forList parts fun y s => s.portRead 0 (.list f x.gen y.1) (a + y.1) y.2
      else
        let s := s.ringMeet v
        let todo := s.fetchPos f v id (s.get2 (R.FB_FIRST_LO_POS f) (R.FB_FIRST_HI_POS f))
          (s.get2 (R.FB_LAST_LO_POS f) (R.FB_LAST_HI_POS f)) (s.get (R.FB_CHUNK_ROWS f))
        (s.setFetch f { x with todo := todo }).fetchFeed

/-- FB_ABORT (R571, R579): records not yet issued are not issued. -/
def execFbAbort (who : Who) (f : Fin 8) (s : State) : Host.Outcome State Fault Refusal :=
  .next <| s.viaBus who fun s =>
    let f := f.val
    let x := s.fetchOf f
    if !x.busy then s
    else
      let q := s.ringQueue x.ring
      let front := match q with | y :: _ => y.fetch == some f | [] => false
      let s := if front then s.dropPages x.ring else s
      let s := s.setRingQueue x.ring (q.filter fun y => y.fetch != some f)
      (s.fetchEnd f 3).poolStopCheck (s.get (R.RING_CTRL_POOL x.ring))

/-! ## Event taps (R550, R576) -/

/-- EVENT records that wait. -/
def State.tapLevel (s : State) : Nat := (s.ringQ.map fun e => (e.2.filter fun x => x.type == 5).length).sum

/-- The EVENT record of an event (R550). -/
def eventRec (e : Event) : WRec :=
  { type := 5, pos := e.position, time := some e.time
    area := leBytes 1 e.req.channel ++ leBytes 1 e.req.producer ++ leBytes 1 e.req.action ++ leBytes 1 (e.req.late.toNat + e.stampSrc * 2) ++
      leBytes 2 e.req.width ++ leBytes 1 e.age ++ leBytes 1 0 ++ leBytes 3 e.req.param ++ leBytes 1 0 ++
      leBytes 4 (e.req.handle % 2 ^ 26) ++ leBytes 4 e.gseq }

/-- An event is delivered to a tap (R576). -/
def State.tapEvent (s : State) (i : Nat) (e : Event) : State :=
  let r := s.get (R.EVT_TAP_RING i)
  if s.tapLevel < 4096 then s.queueRec r (eventRec e)
  else
    let s := s.bumpSat R.EVT_DROP_CNT_CNT
    if s.on (R.RING_CTRL_EN r) then s.ringDrop r (eventRec e) else s

def State.deliverTaps (s : State) (e : Event) : State :=
  s.forEach 32 fun i s => s.deliver e [R.EVT_TAP_SEL i] (·.tapEvent i e) id

/-! ## Suspension and reset (R580) -/

/-- SUSPENDED follows the link, Bus Master Enable and the power state of function 0; what waits in the port goes on, and as SUSPENDED ends so do
ring interrupts. -/
def State.withyLink (s : State) : State :=
  let was := s.on R.WITHY_STATUS_SUSPENDED
  let s := (s.setFlag R.WITHY_STATUS_SUSPENDED (!s.portRun 0)).portPump
  if was && s.portRun 0 then s.forEach 256 fun r s => s.ringIrqCheck r else s

/-- Hot reset, PERST# and a function-level reset of function 0 (R580, R615). -/
def State.withyReset (s : State) : State :=
  let s := s.forEach 8 fun f s =>
    (s.setFetch f { gen := (s.fetchOf f).gen }).raise (R.FB_RESULT_DONE f)
  let s := s.forEach 256 fun r s => (if s.on (R.RING_CTRL_EN r) then s.ringOff r else s).unitClear (ringUnit r)
  let s := s.forEach 64 fun p s => s.poolToOff p
  { s with withy := { s.withy with tlb := [] } }

end Sys2Proof.Machine
end

