-- ==== Sys2Proof/Machine/Dma.lean ====
section
/-!
DEFINITION. The DMA engine (chapter 17): descriptors, data, completion, appending, disabling and errors.
-/
set_option Elab.async false
namespace Sys2Proof.Machine

def State.dmaOf (s : State) (n : Nat) : DmaChan := Tbl.get {} s.dma n
def State.setDma (s : State) (n : Nat) (x : DmaChan) : State := { s with dma := Tbl.put {} s.dma n x }

/-- STATE of a channel (R627). -/
abbrev dmaIdle : Nat := 0
abbrev dmaRunning : Nat := 1
abbrev dmaParked : Nat := 2
abbrev dmaStopped : Nat := 3
abbrev dmaDraining : Nat := 4

def State.dmaSt (s : State) (n : Nat) : Nat := s.get (R.DMA_CH_STATE_STATE n)

/-- A channel enters a state; its unit and STOPPED follow (R627). -/
def State.dmaTo (s : State) (n st : Nat) : State :=
  let u := dmaUnit n
  let s := s.set (R.DMA_CH_STATE_STATE n) st
  let bits := s.get R.DMA_STATUS_STOPPED
  let s := s.set R.DMA_STATUS_STOPPED (if st = dmaStopped then bits ||| 2 ^ n else bits - (if bitAt bits n then 2 ^ n else 0))
  match st with
  | 0 => s.unitTo u .off
  | 3 => s.unitTo u .fault 18
  | 4 => s.unitTo u .stopping
  | _ => if s.unitOn u then s else (s.unitTo u .starting).unitTo u .on

/-- Events of a channel (R641). -/
def State.publishDma (s : State) (n cause kind : Nat) : State :=
  s.publish R.EVT_DMA_SEL 0x45 (n + cause * 16 + kind * 2 ^ 12 + 0xC * 2 ^ 20)

/-- The interrupt of a channel (R631, R737). -/
def State.dmaIrq (s : State) (n : Nat) : State :=
  if !s.on (R.CH_IRQ_IRQ_EN n) then s
  else if s.on (Cfg.MSIX_EN 0) then s.msix 0 (s.get (R.CH_IRQ_VECTOR n))
  else s.girq 0 (R.GIRQ_STATUS_DMA 0)

/-- A request is one of channel `n`. -/
def ReqKind.dma (n : Nat) : ReqKind → Bool
  | .dmaDesc c _ _ | .dmaData c _ _ | .dmaBack c _ => c == n
  | _ => false

/-- A request of the channel reads a descriptor. -/
def ReqKind.dmaFetch (n : Nat) : ReqKind → Bool
  | .dmaDesc c _ _ => c == n
  | _ => false

/-- A request reads data of a descriptor. -/
def ReqKind.dmaMove : ReqKind → Bool
  | .dmaData _ _ _ => true
  | _ => false

/-- Requests and writes of the channel that have not been issued never are (R635, R636). -/
def State.dmaForget (s : State) (n : Nat) : State :=
  s.setPort { s.port with wait := s.port.wait.filter fun i => match i with | .read _ q => !q.kind.dma n | .write _ _ _ own => own != n + 1 }

/-- An error stops the channel (R636). -/
def State.dmaStop (s : State) (n cause addr : Nat) : State :=
  let s := (s.dmaForget n).set (R.DMA_CH_STATE_CAUSE n) cause
  let s := s.set2 (R.ERR_ADDR_LO_ADDR n) (R.ERR_ADDR_HI_ADDR n) addr
  ((s.dmaTo n dmaStopped).publishDma n cause 2).dmaIrq n

/-- The read of a descriptor is asked of the port, unless it would take the chain count above CHAIN_MAX (R632, R634). `again`: a parked descriptor. -/
def State.dmaFetch (s : State) (n addr : Nat) (again : Bool) : State :=
  let x := s.dmaOf n
  if !again && decide (max 1 (s.get (R.CHAIN_MAX_MAX n)) ≤ x.chain) then s.dmaStop n 5 addr
  else
    let s := s.set2 (R.CUR_DESC_LO_ADDR n) (R.CUR_DESC_HI_ADDR n) addr
    let s := s.setDma n { x with raw := none, desc := none, next := 0, flight := 0, early := [], written := 0, poison := false, back := none,
                                 chain := if again then x.chain else x.chain + 1 }
    s.portRead 0 (.dmaDesc n x.gen again) addr 32

/-- Address of the descriptor in progress or parked. -/
def State.dmaCur (s : State) (n : Nat) : Nat := s.get2 (R.CUR_DESC_LO_ADDR n) (R.CUR_DESC_HI_ADDR n)

/-- A parked channel re-reads its descriptor when an append has come since its last read (R634). -/
def State.dmaAgain (s : State) (n : Nat) : State :=
  let fetching := (s.port.out.any fun e => match e.2 with | some q => q.kind.dmaFetch n | none => false) ||
    (s.port.wait.any fun i => match i with | .read _ q => q.kind.dmaFetch n | .write _ _ _ _ => false)
  if s.dmaSt n = dmaParked ∧ s.get (R.APPEND_CNT_CNT n) ≠ s.get (R.SEEN_CNT_CNT n) ∧ !fetching ∧ (s.dmaOf n).raw.isNone then
    s.dmaFetch n (s.dmaCur n) true
  else s

/-- A channel starts (R628). -/
def State.dmaStart (s : State) (n : Nat) : State :=
    let addr := s.get2 (R.DESC_PTR_LO_ADDR n) (R.DESC_PTR_HI_ADDR n)
    if s.dmaSt n ≠ dmaIdle ∨ addr % 32 ≠ 0 then s.raise (R.DMA_CH_STATE_START_REJ n)
    else
      let s := (s.raise (R.DMA_CH_CTRL_EN n)).set (R.DESC_CNT_CNT n) 0
      let s := s.set2 (R.BYTE_CNT_LO_BYTES n) (R.BYTE_CNT_HI_BYTES n) 0
      let s := (s.setDma n { gen := (s.dmaOf n).gen + 1 }).set (R.SEEN_CNT_CNT n) (s.get (R.APPEND_CNT_CNT n))
      (s.dmaTo n dmaRunning).dmaFetch n addr false

/-- DMA_START (R628): EN is written 1. -/
def execDmaStart (who : Who) (n : Fin 16) (s : State) : Host.Outcome State Fault Refusal :=
  .next <| s.viaBus who fun s =>
    s.dmaStart n

/-- A channel is disabled (R628, R635). The counters and CUR_DESC are undefined until the next start: free values (assumption 1). -/
def State.dmaOff (s : State) (n : Nat) : State :=
    if s.dmaSt n = dmaIdle then (s.clear (R.DMA_CH_CTRL_EN n)).unitStopNow (dmaUnit n)
    else if s.dmaSt n = dmaDraining then s.clear (R.DMA_CH_CTRL_EN n)
    else
      let s := (s.clear (R.DMA_CH_CTRL_EN n)).dmaForget n
      let s := (s.setFree (R.DESC_CNT_CNT n)).setFree (R.BYTE_CNT_LO_BYTES n)
      let s := ((s.setFree (R.BYTE_CNT_HI_BYTES n)).setFree (R.CUR_DESC_LO_ADDR n)).setFree (R.CUR_DESC_HI_ADDR n)
      (s.setDma n { gen := (s.dmaOf n).gen + 1 }).dmaTo n dmaDraining

/-- DMA_DISABLE (R628, R635): EN is written 0. -/
def execDmaDisable (who : Who) (n : Fin 16) (s : State) : Host.Outcome State Fault Refusal :=
  .next <| s.viaBus who fun s =>
    s.dmaOff n

/-- DMA_DRAIN_DONE (R635): no read of a draining channel is outstanding any longer. -/
def execDmaDrainDone (n : Fin 16) (s : State) : Host.Outcome State Fault Refusal :=
  .next <|
    if s.dmaSt n = dmaDraining ∧ !(s.port.out.any fun e => match e.2 with | some q => q.kind.dma n | none => false) then s.dmaTo n dmaIdle
    else s

/-! ## Data -/

/-- Bytes of device memory (R354). -/
abbrev memSize : Nat := 786432 * 65536

/-- A segment may be written from outside (R362): the host window, and reference segments of a slot that is LOADING. -/
def State.segOpen (s : State) (g : Nat) : Bool :=
  let (reg, own) := s.segInfo g
  reg == 2 || (reg == 7 && s.slotSt own == 1)

/-- Creel's check of a write from outside (R362): refused whole, with DENIED. -/
def State.extWriteOk (s : State) (a n : Nat) : Bool :=
  decide (a + n ≤ memSize) && (List.range ((a + n - 1) / 65536 + 1 - a / 65536)).all fun i => s.segOpen (a / 65536 + i)
def State.extDenied (s : State) : State := (s.raise R.MEM_STATUS_DENIED).bumpSat R.DENIED_CNT_CNT

/-- Every segment of a range is allocated. -/
def State.extReadOk (s : State) (a n : Nat) : Bool :=
  decide (a + n ≤ memSize) && (List.range ((a + n - 1) / 65536 + 1 - a / 65536)).all fun i => (s.segInfo (a / 65536 + i)).1 != 0

/-- Data of a descriptor is written at offset `off` (R630, R636, R637). -/
def State.dmaWrite (s : State) (n : Nat) (d : DmaDesc) (off : Nat) (bs : List Byte) (poison : Bool) : State :=
  let a := d.dst + off
  let dev := bitAt d.flags 4
  if dev && !s.extWriteOk a bs.length then s.extDenied.dmaStop n 3 a
  else
    let x := s.dmaOf n
    let s := if poison && !x.poison then (s.raise (R.DMA_CH_STATE_POISON n)).bumpSat (R.POISON_CNT_CNT n) else s
    let s := if dev then s.memWrite a bs poison else s.portWrite 0 a bs poison (n + 1)
    let x := { x with written := x.written + bs.length, poison := x.poison || poison }
    let s := s.setDma n x
    if x.written = d.len ∧ !dev ∧ d.flags % 8 ≠ 0 then
      (s.setDma n { x with back := some false }).portRead 0 (.dmaBack n x.gen) ((d.dst + d.len - 1) / 4 * 4) 4
    else s

/-- Data that has arrived is written in address order (R629): `early` holds what came ahead of its turn. `fuel` bounds its pieces. -/
def State.dmaFlow (s : State) (n gen : Nat) : Nat → State
  | 0 => s
  | fuel + 1 =>
    let x := s.dmaOf n
    match x.desc, x.early.find? (·.1 == x.written) with
    | some d, some (off, bs, poison) =>
      if x.gen ≠ gen ∨ s.dmaSt n ≠ dmaRunning then s
      else ((s.setDma n { x with early := x.early.filter (·.1 != off) }).dmaWrite n d off bs poison).dmaFlow n gen fuel
    | _, _ => s

/-- A data read of the engine waits in the port (R605). -/
def State.dmaHeld (s : State) : Bool :=
  s.port.wait.any fun i => match i with | .read _ q => q.kind.dmaMove | .write _ _ _ _ => false

/-- A channel has data to move. From host or peer memory: fewer than OUTSTANDING requests are in flight, and no data request waits in the port
(R605, R638). From device memory: Bus Master Enable is set and function 0 is in D0 (R639), and the link is up for a host destination. -/
def State.dmaMay (s : State) : Bool := s.on (Cfg.BME 0) && s.get (Cfg.PM_STATE 0) == 0
def State.dmaReady (s : State) (n : Nat) : Bool :=
  let x := s.dmaOf n
  match x.desc with
  | none => false
  | some d =>
    s.dmaSt n == dmaRunning && decide (x.next < d.len) &&
      if bitAt d.flags 3 then s.dmaMay && (bitAt d.flags 4 || s.portRun 0)
      else !s.dmaHeld && decide (x.flight < clampNat 1 256 (s.get (R.DMA_CH_CFG_OUTSTANDING n)))

/-- The turn of a channel: its next data in address order, up to a 4 KiB boundary of its source (R629, R638). -/
def State.dmaTurn (s : State) (n : Nat) : Nat → State
  | 0 => s
  | fuel + 1 =>
    let x := s.dmaOf n
    match x.desc with
    | none => s
    | some d =>
      let a := d.src + x.next
      if !s.dmaReady n then s
      else if bitAt d.flags 3 then
        let len := min (d.len - x.next) (4096 - a % 4096)
        ((s.readMeet a len).setDma n { x with next := x.next + len }).dmaWrite n d x.next ((s.readMeet a len).bytes a len)
          ((s.readMeet a len).readPoison a len)
      else
        let len := min (min (s.mrrs 0) (d.len - x.next)) (4096 - a % 4096)
        let t := (s.setDma n { x with next := x.next + len, flight := x.flight + 1 }).portRead 0 (.dmaData n x.gen x.next) a len
        if (a + len) % 4096 = 0 then t else t.dmaTurn n fuel

/-- A channel's turn has been cut short of its 4 KiB by a request that waits for a tag (R605, R638): the turn goes on with the channel. -/
def State.dmaCut (s : State) (n : Nat) : Bool :=
  match (s.dmaOf n).desc with
  | some d => s.dmaHeld && !bitAt d.flags 3 && (d.src + (s.dmaOf n).next) % 4096 != 0 && decide ((s.dmaOf n).next < d.len)
  | none => false

/-- The channels move data in rotation, as long as one has data that may move (R605, R638; assumption 86). -/
def State.dmaServeGo (s : State) : Nat → State
  | 0 => s
  | fuel + 1 =>
    match ((List.range 16).map fun i => (s.port.dmaLast + 1 + i) % 16).find? s.dmaReady with
      | none => s
      | some n =>
        let t := s.dmaTurn n 33
        { t with port := { t.port with dmaLast := if t.dmaCut n then (n + 15) % 16 else n } }.dmaServeGo fuel

/-- The fuel covers a 4 KiB turn for every byte range that 16 descriptors of 1 GiB can hold. -/
def State.dmaServe (s : State) : State := s.dmaServeGo 4198432

/-- A descriptor as it is read (R625). -/
def dmaParse (bs : List Byte) : DmaDesc := ⟨leAt bs 0 8, leAt bs 8 8, leAt bs 16 4, leAt bs 20 4, leAt bs 24 8⟩

/-- A descriptor is refused (R626). -/
def DmaDesc.bad (d : DmaDesc) : Bool :=
  d.len == 0 || decide (0x40000000 < d.len) || decide (32 ≤ d.flags) ||
    (bitAt d.flags 3 && decide (memSize < d.src + d.len)) || (bitAt d.flags 4 && decide (memSize < d.dst + d.len)) ||
    (!bitAt d.flags 0 && d.next % 32 != 0)

/-- DMA_DESC_FETCHED (R629, R634): a descriptor that has arrived is checked, and its data requests are issued; one re-read while parked
is followed if its EOC is cleared. Without Bus Master Enable, or in D3hot, the channel waits (R639). -/
def execDmaDescFetched (n : Fin 16) (s : State) : Host.Outcome State Fault Refusal :=
  .next <|
    let n := n.val
    let x := s.dmaOf n
    match if s.dmaMay then x.raw else none with
    | none => s
    | some (bs, _) =>
      let d := dmaParse bs
      let s := s.setDma n { x with raw := none }
      if s.dmaSt n = dmaParked then
        if d.bad then s.dmaStop n 4 (s.dmaCur n)
        else if bitAt d.flags 0 then s.dmaAgain n
        else (s.dmaTo n dmaRunning).dmaFetch n d.next false
      else if s.dmaSt n = dmaRunning then
        if d.bad then s.dmaStop n 4 (s.dmaCur n)
        else (s.setDma n { x with raw := none, desc := some d }).dmaServe
      else s

/-- DMA_DESC_COMPLETE (R630 to R632, R634): all data of a descriptor has been written, its host writes have been issued, and it is read back where
that is needed. Without Bus Master Enable, or in D3hot, the channel waits (R639). -/
def execDmaDescComplete (n : Fin 16) (s : State) : Host.Outcome State Fault Refusal :=
  .next <|
    let n := n.val
    let x := s.dmaOf n
    match x.desc with
    | none => s
    | some d =>
      let needBack := !bitAt d.flags 4 && decide (d.flags % 8 ≠ 0)
      let unissued := s.port.wait.any fun i => match i with | .read _ _ => false | .write _ _ _ own => own == n + 1
      if !s.dmaMay ∨ s.dmaSt n ≠ dmaRunning ∨ x.written < d.len ∨ (needBack ∧ x.back ≠ some true) ∨ unissued then s
      else
        let s := s.bump (R.DESC_CNT_CNT n)
        let s := s.set2 (R.BYTE_CNT_LO_BYTES n) (R.BYTE_CNT_HI_BYTES n) (s.get2 (R.BYTE_CNT_LO_BYTES n) (R.BYTE_CNT_HI_BYTES n) + d.len)
        let s := s.setDma n { x with desc := none }
        let s := if bitAt d.flags 1 then (s.dmaIrq n).publishDma n 0 0 else s
        if bitAt d.flags 0 then
          let s := (s.setDma n { s.dmaOf n with chain := 0 }).dmaTo n dmaParked
          (s.publishDma n 0 1).dmaAgain n
        else s.dmaFetch n d.next false

/-- APPEND_DB (R634, R640, R644). -/
def execAppendDb (who : Who) (n : Fin 16) (s : State) : Host.Outcome State Fault Refusal :=
  .next <| s.viaBus who fun s =>
    (s.bump (R.APPEND_CNT_CNT n)).dmaAgain n

/-- A read of a channel ends (R636, R637): with data, or with the CAUSE of its failure. `addr`: the address read. -/
def State.dmaIn (s : State) (kind : ReqKind) (addr : Nat) (r : Except Nat (List Byte × Bool)) : State :=
  match kind with
  | .dmaDesc n gen _ =>
    let x := s.dmaOf n
    if x.gen ≠ gen ∨ (s.dmaSt n ≠ dmaRunning ∧ s.dmaSt n ≠ dmaParked) then s
    else match r with
      | .ok d => s.setDma n { x with raw := some d }
      | .error c => s.dmaStop n c addr
  | .dmaData n gen off =>
    let x := s.dmaOf n
    match x.desc with
    | none => s.dmaServe
    | some _ =>
      if x.gen ≠ gen ∨ s.dmaSt n ≠ dmaRunning then s.dmaServe
      else match r with
        | .ok (bs, poison) =>
          ((s.setDma n { x with flight := x.flight - 1, early := x.early ++ [(off, bs, poison)] }).dmaFlow n gen (x.early.length + 1)).dmaServe
        | .error c => (s.dmaStop n c addr).dmaServe
  | .dmaBack n gen =>
    let x := s.dmaOf n
    if x.gen ≠ gen ∨ s.dmaSt n ≠ dmaRunning then s.dmaServe
    else match r with
      | .ok _ => s.setDma n { x with back := some true }
      | .error c => (s.dmaStop n c addr).dmaServe
  | _ => s.dmaServe

/-- The channels are stopped and reset (R615, R639). -/
def State.dmaReset (s : State) : State :=
  let s := s.forEach 16 fun n s =>
    (((s.dmaForget n).setDma n { gen := (s.dmaOf n).gen + 1 }).unitClear (dmaUnit n)).dmaTo n dmaIdle
  s.resetRegs 0x1101000 0x1102000

end Sys2Proof.Machine
end

