-- ==== Sys2Proof/Machine/Nvm.lean ====
section
/-!
DEFINITION. The MRAM (chapter 20): writes, calibration groups and what Skep takes from them, counters, the event log, and the commands
that read and write the MRAM.
-/
set_option Elab.async false
namespace Sys2Proof.Machine

/-! ## Writes (R700, R701) -/

/-- TH_MAX lies inside the write window (R700). -/
def State.writeWindow (s : State) : Bool := decide (-200 ≤ s.getInt R.TH_MAX_TEMP ∧ s.getInt R.TH_MAX_TEMP ≤ 1100)

/-- A command would write outside the window (R700). -/
def State.windowRefused (s : State) : State := (s.raise R.NVM_STATUS_WRITE_WINDOW).bumpSat R.WRITE_REJ_CNT_CNT

/-- Skep writes bytes of the MRAM and reads every word back (R701). `bad`: a byte of a word that reads back wrong twice; the write ends
with that word, whose content is a free value (assumption 1), and NVM_FAIL is set. -/
def State.nvWrite (s : State) (a : Nat) (bs : List Byte) (bad : Option Nat) : State × Bool :=
  match bad with
  | some b =>
    if a ≤ b ∧ b < a + bs.length then
      let w := b / 8 * 8
      let s := s.setNvBytes a (bs.take (w - a))
      (((s.setNvBytes w (leBytes 8 (s.freeVal 64))).useFree.raise R.NVM_STATUS_NVM_FAIL), false)
    else (s.setNvBytes a bs, true)
  | none => (s.setNvBytes a bs, true)

/-! ## Calibration groups (R702 to R707) -/

/-- The groups: bit, offset, size (R702). -/
def calGroups : List (Nat × Nat × Nat) :=
  [(0, 0x0000, 0x100), (1, 0x0100, 0x100), (2, 0x0200, 0x800), (3, 0x0A00, 0x400), (4, 0x0E00, 0x100), (5, 0x0F00, 0x100),
   (6, 0x8000, 0x8000)] ++ (List.range 8).map fun v => (8 + v, 0x1000 + v * 0x800, 0x800)

/-- ORIGIN and LEN of the group at an offset (R703). -/
def State.calOrigin (s : State) (a : Nat) : Nat := (s.nvByte (a + 2)).toNat
def State.calLen (s : State) (a : Nat) : Nat := leNat (s.nvBytes (a + 4) 4)

/-- A group is valid (R703). -/
def State.calHeaderOk (s : State) (a size : Nat) : Bool :=
  (s.calOrigin a == 1 || s.calOrigin a == 2) && decide (s.calLen a ≤ size - 16) &&
    crc32 (s.nvBytes (a + 16) (s.calLen a)) == leNat (s.nvBytes (a + 8) 4)

/-- The data of a group: bytes beyond LEN read 0. -/
def State.calData (s : State) (a n : Nat) : List Byte := padTo n (s.nvBytes (a + 16) (min n (s.calLen a)))

/-- Five thresholds in 0.1 °C lie in their ranges and rise strictly (R679). -/
def thresholdsOk : List Int → Bool
  | [w, t, d, l, p] =>
    decide (600 ≤ w ∧ w ≤ 1200 ∧ 700 ≤ t ∧ t ≤ 1220 ∧ 800 ≤ d ∧ d ≤ 1240 ∧ 850 ≤ l ∧ l ≤ 1250 ∧ 1000 ≤ p ∧ p ≤ 1250) &&
      decide (w < t ∧ t < d ∧ d < l ∧ l < p)
  | _ => false

/-- Five thresholds as bytes hold them (R663, R707). -/
def thresholdsAt (bs : List Byte) (off : Nat) : List Int := (List.range 5).map fun i => signed 16 (leAt bs (off + 2 * i) 2)

/-- A group is taken as valid: a THERMAL group also needs thresholds that R679 allows (R704). -/
def State.calOk (s : State) (g a size : Nat) : Bool :=
  s.calHeaderOk a size && (g != 4 || thresholdsOk (thresholdsAt (s.calData a 10) 0))

/-- Skep checks every group (R704). -/
def State.calCheck (s : State) : State :=
  let mask := fun (p : Nat × Nat × Nat → Bool) => ((calGroups.filter p).map fun x => 2 ^ x.1).sum
  let s := s.set R.CAL_VALID_GROUPS (mask fun x => s.calOk x.1 x.2.1 x.2.2)
  (s.set R.CAL_USER_GROUPS (mask fun x => s.calOrigin x.2.1 == 2)).raise R.NVM_STATUS_READY

/-- Subsystem values of the functions as IDENT data give them: a field of 0 is absent (R591, R707). -/
def subsysOf (d : List Byte) : Nat × Nat × Nat :=
  let pick := fun (off dflt : Nat) => if leAt d off 2 = 0 then dflt else leAt d off 2
  (pick 24 0x1D7A, pick 26 0x6480, pick 28 0x6481)

/-- Skep loads the subsystem values that it took at its start into the configuration spaces (R591, R705, R727). -/
def State.applySubsystem (s : State) : State :=
  let x := s.skep.subsys
  s.forEach 2 fun f s => (s.set (Cfg.SUBSYS_VENDOR f) x.1).set (Cfg.SUBSYS_ID f) (if f = 0 then x.2.1 else x.2.2)

/-- IDENT is applied, at every start of Skep (R704, R707). -/
def State.applyIdent (s : State) : State :=
  let ok := s.calOk 0 0 0x100
  let d := if ok then s.calData 0 32 else []
  let s := s.forEach 4 fun n s => (s.set (R.ETH_MAC_LO_MAC n) (leAt d (6 * n) 4)).set (R.ETH_MAC_HI_MAC n) (leAt d (6 * n + 4) 2)
  let smb := leAt d 30 1 % 128
  let s := { s with skep := { s.skep with smbAddr := if smb = 0 then 0x4C else smb, subsys := subsysOf d }, boot := { s.boot with identDone := true } }
  (s.applySubsystem).setFlag R.BOOT_STATUS_CFG_DEFAULT (!ok)

/-- Five thresholds come into force (R679). -/
def State.setThresholds (s : State) (l : List Int) : State :=
  let t := fun (i : Nat) => l.getD i 0
  let s := (s.setInt R.TH_LIMIT_A_WARN (t 0)).setInt R.TH_LIMIT_A_THROTTLE (t 1)
  ((s.setInt R.TH_LIMIT_B_DATA_STOP (t 2)).setInt R.TH_LIMIT_B_LIGHT_LATCH (t 3)).setInt R.TH_LIMIT_C_TRIP (t 4)

/-- THERMAL is applied (R681, R704). -/
def State.applyThermal (s : State) : State :=
  s.setThresholds (if s.calOk 4 0x0E00 0x100 then thresholdsAt (s.calData 0x0E00 10) 0 else [1000, 1080, 1150, 1180, 1250])

/-- POWER is applied (R690 to R692, R704, R707). -/
def State.applyPower (s : State) : State :=
  if s.calOk 5 0x0F00 0x100 then
    let d := s.calData 0x0F00 106
    let avs := (List.range 17).map fun b => leAt d (72 + 2 * b) 2
    let rails := (List.range (min 16 (leAt d 4 1))).map fun i =>
      ({ code := leAt d (8 + 4 * i) 1, addr := leAt d (9 + 4 * i) 1 % 128, page := leAt d (10 + 4 * i) 1 } : Rail)
    ({ s with therm := { s.therm with rails := rails, busFast := bitAt (leAt d 5 1) 0, avs := if avs.contains 0 then [] else avs } }).set
      R.PWR_BUDGET_MW (leAt d 0 4)
  else ({ s with therm := { s.therm with rails := [], busFast := false, avs := [] } }).set R.PWR_BUDGET_MW 140000

/-- The group whose data holds a range wholly (R705). -/
def calGroupAt (a n : Nat) : Option (Nat × Nat × Nat) :=
  calGroups.find? fun x => decide (x.2.1 + 16 ≤ a ∧ a + n ≤ x.2.1 + x.2.2 ∧ a < x.2.1 + x.2.2)

/-- The write in progress changes; WRITE_BUSY shows it (R701, R715). -/
def State.setWriting (s : State) (w : Option GroupWrite) : State :=
  ({ s with nvm := { s.nvm with writing := w } }).setFlag R.NVM_STATUS_WRITE_BUSY w.isSome

/-- Step 1 of a write into a group (R705): its data bytes. The result says whether every word read back right. -/
def State.groupData (s : State) (w : GroupWrite) (data : List Byte) (bad : Option Nat) : State × Bool :=
  match s.nvWrite w.off data bad with
  | (t, true) => (t.setWriting (some { w with origin := s.calOrigin w.at_ }), true)
  | r => r

/-- Steps 2 and 3 (R705): the group header, and the log record. -/
def State.groupHeader (s : State) (w : GroupWrite) (bad : Option Nat) : State × Bool :=
  let stop := w.off + w.len - (w.at_ + 16)
  let len := if w.whole then stop else max (s.calLen w.at_) stop
  let crc := crc32 (s.nvBytes (w.at_ + 16) len)
  let seq := leNat (s.nvBytes (w.at_ + 12) 4) + 1
  match (s.setWriting none).nvWrite w.at_ (leBytes 2 (w.group + 1) ++ [2, 0] ++ leBytes 4 len ++ leBytes 4 crc ++ leBytes 4 seq) bad with
  | (s, true) => (s.calCheck.log 15 (leBytes 4 w.group ++ leBytes 4 w.off ++ leBytes 4 w.len ++ leBytes 4 w.origin), true)
  | r => r

/-- A SAVE_GEOM that runs was accepted before this event clock (R701). -/
def State.saveBefore (s : State) (clk : Nat) : Bool :=
  match s.plait.run with
  | some r => r.op == 3 && r.err == 0 && decide (r.since < clk)
  | none => false

/-- A CAL_WRITE accepted no later than this event clock has yet to end (R648, R701). -/
def State.calWriteBefore (s : State) (clk : Nat) : Bool :=
  s.skep.cmds.any fun (_, c) => c.req != [] && reqOp c.req == 0x0031 && c.resp.isNone && c.refusal.isNone && decide (c.rung.1 ≤ clk)

/-- The write in progress touches the bytes of a read (R701). -/
def State.writeMeets (s : State) (a n : Nat) : Bool :=
  match s.nvm.writing with
  | some w => (calGroups.filter (·.1 == w.group)).any fun x => decide (x.2.1 < a + n ∧ a < x.2.1 + x.2.2)
  | none => false

/-! ## Counters (R713) -/

abbrev ctrLogNext : Nat := 0
abbrev ctrMinSeq : Nat := 1
abbrev ctrPowerOn : Nat := 2
abbrev ctrOnHours : Nat := 3
abbrev ctrTrip : Nat := 4
abbrev ctrStopLife : Nat := 5
abbrev ctrSkepReset : Nat := 6

def ctrAddr (k : Nat) : Nat := 0x10000 + 32 * k

/-- The valid value of a copy. -/
def State.ctrCopy (s : State) (a : Nat) : Option Nat :=
  let b := s.nvBytes a 8
  if crc32 b = leNat (s.nvBytes (a + 8) 4) then some (leNat b) else none

/-- The value stored: the larger valid copy. -/
def State.ctrStored (s : State) (k : Nat) : Nat :=
  max ((s.ctrCopy (ctrAddr k)).getD 0) ((s.ctrCopy (ctrAddr k + 16)).getD 0)

/-- The value as Skep knows it. -/
def State.ctrValue (s : State) (k : Nat) : Nat := (Tbl.get none s.nvm.ctr k).getD (s.ctrStored k)

/-- A write of a counter goes to a copy that is not valid, or to the smaller. `bad`: a word that reads back wrong twice (R701). -/
def State.ctrPut (s : State) (k v : Nat) (bad : Option Nat) : State :=
  let a := ctrAddr k
  let at_ := match s.ctrCopy a, s.ctrCopy (a + 16) with
    | none, _ => a
    | some _, none => a + 16
    | some x, some y => if y < x then a + 16 else a
  (s.nvWrite at_ (leBytes 8 v ++ leBytes 4 (crc32 (leBytes 8 v)) ++ leBytes 4 0) bad).1

/-- Skep writes a counter, now, or when the window opens and no other write is in progress (R700, R701). -/
def State.ctrWrite (s : State) (k v : Nat) (bad : Option Nat) : State :=
  if s.writeWindow && s.nvm.writing.isNone then ({ s with nvm := { s.nvm with ctr := Tbl.put none s.nvm.ctr k none } }).ctrPut k v bad
  else { s with nvm := { s.nvm with ctr := Tbl.put none s.nvm.ctr k (some v) } }
def State.ctrBump (s : State) (k : Nat) (bad : Option Nat) : State := s.ctrWrite k (s.ctrValue k + 1) bad

/-- Counters that waited for the window are written. -/
def State.ctrFlush (s : State) (bad : Option Nat) : State :=
  s.forList s.nvm.ctr fun (k, v) s => match v with | some v => s.ctrWrite k v bad | none => s

/-- The counters that registers show (R715). -/
def State.ctrShow (s : State) : State :=
  ((s.set R.POWER_ON_CNT_CNT (s.ctrValue ctrPowerOn)).set R.ON_HOURS_HOURS (s.ctrValue ctrOnHours)).set
    R.MIN_SEQ_SEQ (s.ctrValue ctrMinSeq)

/-! ## Event log (R708 to R712) -/

def logAddr (seq : Nat) : Nat := 0x100000 + seq % 16384 * 64

/-- LOG_NEXT and LOG_OLDEST. -/
def State.logNextTo (s : State) (n : Nat) : State := (s.set R.LOG_NEXT_SEQ n).set R.LOG_OLDEST_SEQ (n - 16384)

/-- The walk forward over records whose SEQ is the expected one and whose CRC matches (R709). -/
def State.logWalk (s : State) : Nat → Nat → Nat
  | 0, n => n
  | fuel + 1, n =>
    let b := s.nvBytes (logAddr n) 64
    if leAt b 0 4 = n % 2 ^ 32 ∧ crc32 (b.take 60) = leAt b 60 4 then s.logWalk fuel (n + 1) else n

/-- Skep's start of the log (R709). -/
def State.logStart (s : State) : State := s.logNextTo (s.logWalk 16384 (s.ctrStored ctrLogNext))

/-- One record is written whole, and LOG_NEXT advances; its counter is written after every 64th (R708, R709). -/
def State.logWrite (s : State) (r : LogRec) (bad : Option Nat) : State :=
  let n := s.get R.LOG_NEXT_SEQ
  let b := leBytes 4 n ++ leBytes 2 r.cause ++ leBytes 1 r.flags ++ leBytes 1 r.supp ++ leBytes 8 r.time ++ padTo 44 r.data
  let s := { s with nvm := { s.nvm with written := s.withinSecond s.nvm.written ++ [(r.cause, s.clk)] } }
  let s := ((s.nvWrite (logAddr n) (b ++ leBytes 4 (crc32 b)) bad).1).logNextTo (n + 1)
  if (n + 1) % 64 = 0 then s.ctrWrite ctrLogNext (n + 1) bad else s

/-- Records of these causes, and the LOG_LOST record that goes before them, may be written now: 16 of one cause and 64 in all within any second
(R711). -/
def State.logRoom (s : State) (causes : List Nat) : Bool :=
  let l := (s.withinSecond s.nvm.written).map (·.1) ++ (if s.nvm.lost = 0 then causes else 16 :: causes)
  decide (l.length ≤ 64) && l.all fun c => decide ((l.filter (· == c)).length ≤ 16)

/-- A record that was not logged by `logAt` counts among those of this second (R711). -/
def State.logCounts (s : State) (cause : Nat) : State :=
  { s with nvm := { s.nvm with recent := s.withinSecond s.nvm.recent ++ [(cause, s.clk)] } }

/-- The first record written after a drop is preceded by one LOG_LOST record (R711; assumption 89). -/
def State.lostWrite (s : State) (bad : Option Nat) : State :=
  if s.nvm.lost = 0 then s
  else (({ s with nvm := { s.nvm with lost := 0 } }).logCounts 16).logWrite ⟨16, s.logFlags, 0, s.timeNs, leBytes 4 s.nvm.lost⟩ bad

/-- The two records of a data-path stop are written (R684, R710). -/
def State.stopWrite (s : State) (time flags : Nat) (pos : List Nat) (cnt : Nat) (bad : Option Nat) : State :=
  let s := (((s.lostWrite bad).logCounts 3).logCounts 3).logWrite ⟨3, flags, 0, time, (pos.take 5).flatMap (leBytes 8)⟩ bad
  let s := s.logWrite ⟨3, flags + 1, 0, time, (pos.drop 5).flatMap (leBytes 8) ++ leBytes 4 cnt⟩ bad
  (({ s with nvm := { s.nvm with heldStop := none } }).ctrBump ctrStopLife bad).clear R.TH_STATUS_LOG_PENDING

/-- The oldest record that waits is written; `t` still wait (R711). -/
def State.queueWrite (s : State) (r : LogRec) (t : List LogRec) (bad : Option Nat) : State :=
  ((({ s with nvm := { s.nvm with logQ := t } }).logLevel).lostWrite bad).logWrite r bad

/-- LOG_RECORD_WRITE (R684, R700, R709, R711): inside the window, the data-path stop record that the always-on domain holds, or the
oldest record that waits, when the limit of R711 allows it and no write is in progress (assumption 89). `bad`: a word that reads back wrong twice
(R701). -/
def execLogRecordWrite (bad : Option Nat) (s : State) : Host.Outcome State Fault Refusal :=
  .next <|
    if !s.writeWindow || !s.skepRuns || s.nvm.writing.isSome then s
    else
      let s := s.ctrFlush bad
      match s.nvm.heldStop with
      | some (time, flags, pos, cnt) => if s.logRoom [3, 3] then s.stopWrite time flags pos cnt bad else s
      | none =>
        match s.nvm.logQ with
        | [] => s
        | r :: t => if s.logRoom [r.cause] then s.queueWrite r t bad else s

/-- An operating hour is counted (R713). -/
def State.onHour (s : State) (bad : Option Nat) : State := (s.ctrBump ctrOnHours bad).ctrShow

/-- ON_HOURS_TICK (R713): Skep counts the hour once it runs (R24). `bad`: a word that reads back wrong twice (R701). -/
def execOnHoursTick (bad : Option Nat) (s : State) : Host.Outcome State Fault Refusal := .next (s.skepDo (.hour bad) (·.onHour bad))

/-! ## Commands -/

/-- CAL_READ reaches this range (R698). -/
def calReadable (a n : Nat) : Bool :=
  decide (a + n ≤ 0x10000 ∧ a < 0x10000) || decide (0x10000 ≤ a ∧ a + n ≤ 0x11000 ∧ a < 0x11000) ||
    decide (0x200000 ≤ a ∧ a + n ≤ 0x300000 ∧ a < 0x300000)

/-- Bytes that reach the requester: all in a buffer, or what the inline limit leaves after `at_` bytes (R649). -/
def dataRoom (m buf at_ n : Nat) : Nat := if buf = 0 then min n (inlineMax m - at_) else n

/-- CAL_READ (R663, R698, R701): it waits for a write in progress to a group that it reads. -/
def execCalRead (m : Fin 1024) (s : State) : Host.Outcome State Fault Refusal :=
  .next <|
    let m := m.val
    s.skepRun m 0x0030 (fun _ => true) fun p s =>
      let a := leAt p 0 4
      let n := leAt p 4 4
      let buf := leAt p 8 8
      if !addrOk m buf || !calReadable a n then s.skepAnswer m Isaow.badArg
      else
        let n := dataRoom m buf 16 n
        if s.writeMeets a n then s.setCmd m { s.cmdOf m with started := false }
        else s.skepData m buf (leBytes 4 n) 16 (s.nvBytes a n)

/-- The bytes of a CAL_WRITE are at hand: its write begins (R700, R705, R714). -/
def State.calStore (s : State) (m a : Nat) (bytes : List Byte) (bad : Option Nat) : State :=
  if !s.writeWindow then s.windowRefused.skepAnswer m Isaow.writeWindow
  else match calGroupAt a bytes.length with
    | some (g, at_, _) =>
      match s.groupData ⟨m, g, at_, a, bytes.length, false, 0⟩ bytes bad with
      | (s, true) => s
      | (s, false) => s.skepAnswer m Isaow.copyErr
    | none =>
      match s.nvWrite a bytes bad with
      | (s, true) => s.skepAnswer m Isaow.ok (leBytes 4 bytes.length)
      | (s, false) => s.skepAnswer m Isaow.copyErr

/-- A CAL_WRITE is taken (R663, R698, R700, R701): it reads its buffer, or has its data inline and begins. -/
def State.calTake (s : State) (m : Nat) (bad : Option Nat) : State :=
  if s.saveBefore (s.cmdOf m).rung.1 then s
  else
    s.skepRun m 0x0031 (fun _ => true) fun p s =>
      let a := leAt p 0 4
      let n := leAt p 4 4
      let buf := leAt p 8 8
      let user := decide (0x200000 ≤ a ∧ a + n ≤ 0x300000 ∧ a < 0x300000)
      if !addrOk m buf || !(user || (calGroupAt a n).isSome) then s.skepAnswer m Isaow.badArg
      else if buf = 0 ∧ p.length < 16 + n then s.skepAnswer m Isaow.badLength
      else if !s.writeWindow then s.windowRefused.skepAnswer m Isaow.writeWindow
      else if buf ≠ 0 then s.skepFetch m { id := 0, addr := buf, len := n }
      else
        let bytes := (p.drop 16).take n
        (s.setCmd m { s.cmdOf m with fetch := some { id := 0, addr := 0, len := n, data := bytes } }).calStore m a bytes bad

/-- CAL_WRITE (R663, R698, R700, R701, R705, R714): the next part of the command: its taking; the write of its bytes, once its buffer has been
read; or the header of the group, and its answer (assumption 82). `bad`: a word that reads back wrong twice. -/
def execCalWrite (m : Fin 1024) (bad : Option Nat) (s : State) : Host.Outcome State Fault Refusal :=
  .next <|
    let m := m.val
    let c := s.cmdOf m
    match s.nvm.writing with
    | some w =>
      if w.who ≠ m ∨ !s.skepRuns then s
      else match s.groupHeader w bad with
        | (s, true) => s.skepAnswer m Isaow.ok (leBytes 4 w.len)
        | (s, false) => s.skepAnswer m Isaow.copyErr
    | none =>
      match c.fetch with
      | some x =>
        if c.resp.isSome ∨ !s.skepRuns then s
        else if x.bad then s.skepAnswer m Isaow.targetErr
        else if x.data.length < x.len then s
        else s.calStore m (leAt (reqParams c.req) 0 4) x.data bad
      | none => s.calTake m bad

/-- LOG_READ (R663, R712). -/
def execLogRead (m : Fin 1024) (s : State) : Host.Outcome State Fault Refusal :=
  .next <|
    let m := m.val
    s.skepRun m 0x0032 (fun _ => true) fun p s =>
      let first := leAt p 0 4
      let count := leAt p 4 4
      let buf := leAt p 8 8
      let next := s.get R.LOG_NEXT_SEQ
      let old := s.get R.LOG_OLDEST_SEQ
      if !addrOk m buf || count = 0 || decide ((if buf = 0 then 63 else 16384) < count) then s.skepAnswer m Isaow.badArg
      else
        let first := max first old
        let n := min count (next - first)
        s.skepData m buf (leBytes 4 n ++ leBytes 4 old ++ leBytes 4 next) 16
          ((List.range n).flatMap fun i => s.nvBytes (logAddr (first + i)) 64)

end Sys2Proof.Machine
end

