-- ==== Sys2Proof/Machine/Geometry.lean ====
section
/-!
DEFINITION. Geometry commands (R457 to R459): column maps move between the map store and the host window, and the tracked state of a view
is saved, loaded and reset.
-/
set_option Elab.async false
namespace Sys2Proof.Machine

/-- Heads of a view in rising head number. -/
def State.headNumbers (s : State) (v : Nat) : List Nat :=
  (sortBy (fun (h : Nat) => (h, 0)) ((s.viewSet v).map (·.1)))

/-- The place of the station geometry record of view `v` (R702). -/
def geomAt (v : Nat) : Nat := 0x1000 + v * 0x800

/-- The record as SAVE_GEOM writes it (R707). -/
def State.geomRecord (s : State) (v : Nat) : List Byte :=
  let hs := s.headNumbers v
  leBytes 2 hs.length ++ leBytes 2 0 ++ leBytes 4 (s.get (R.TRK_EPS_EPS v)) ++
    hs.flatMap fun h => leBytes 2 (s.get (R.HD_TRK_X_DX v h)) ++ leBytes 2 (s.get (R.HD_TRK_A_DA v h))

/-- A record that fits the view exists (R458): it is valid, and its head count is the view's. -/
def State.geomFits (s : State) (v : Nat) : Bool :=
  let n := leAt (s.calData (geomAt v) 2) 0 2
  s.calOk (8 + v) (geomAt v) 0x800 && n != 0 && n == (s.headNumbers v).length

/-- The tracked state of view `v` changes to ε and the corrections that `f` gives for the i-th head; a new generation names it (R455). -/
def State.geomState (s : State) (v eps : Nat) (f : Nat → Nat × Nat) : State :=
  let s := s.set (R.TRK_EPS_EPS v) eps
  let hs := s.headNumbers v
  (s.forEach hs.length fun i s =>
    let h := hs.getD i 0
    (s.set (R.HD_TRK_X_DX v h) (f i).1).set (R.HD_TRK_A_DA v h) (f i).2).bump (R.VW_GEOM_GEN_GEN v)

/-- The tracked state takes the values of the record (R458, R459). -/
def State.geomLoad (s : State) (v : Nat) : State :=
  let d := s.calData (geomAt v) 1032
  s.geomState v (leAt d 4 4) fun i => (leAt d (8 + 4 * i) 2, leAt d (10 + 4 * i) 2)

/-- The tracked state becomes 0 (R458), for every head number. -/
def State.geomZero (s : State) (v : Nat) : State :=
  ((s.set (R.TRK_EPS_EPS v) 0).forEach 256 fun h s =>
    (s.set (R.HD_TRK_X_DX v h) 0).set (R.HD_TRK_A_DA v h) 0).bump (R.VW_GEOM_GEN_GEN v)

/-- A head of a view that is not OFF uses a map entry of a range (R458). -/
def State.mapInUse (s : State) (first count : Nat) : Bool :=
  (List.range 8).any fun v => !s.unitOff (viewUnit v) && (s.viewSet v).any fun (h, d) =>
    let base := s.get (R.HD_MAP_MAP_BASE v h)
    decide (base < first + count ∧ first < base + s.get (R.SD_GEOM_WIDTH d))

/-- LOAD_MAP and SAVE_MAP move the entries up to `upto` (R458): entries of a poisoned unit stay, and a LOAD_MAP that meets one will end
with POISON. -/
def State.geomMove (s : State) (r : CalRun) (upto : Nat) : State :=
  match r.op with
  | 1 =>
    let s := s.readMeet r.mem (8 * upto)
    let s' := s.forEach upto fun i t =>
      if s.readPoison (r.mem + 8 * i) 8 then t
      else { t with plait := { t.plait with map := Tbl.put 0 t.plait.map (r.first + i) (leNat (s.bytes (r.mem + 8 * i) 8)) } }
    let err := if s.readPoison r.mem (8 * upto) then 3 else r.err
    { s' with plait := { s'.plait with run := some { r with err := err } } }
  | 2 => s.memWrite r.mem ((List.range upto).flatMap fun i => leBytes 8 (s.mapEntry (r.first + i)))
  | _ => s

/-- A geometry command ends (R457): ERR is stored, DONE set and CMD_DONE published. -/
def State.geomEnd (s : State) (err : Nat) : State :=
  let s := { s with plait := { s.plait with run := none } }
  ((s.set R.GEOM_RESULT_ERR err).raise R.GEOM_RESULT_DONE).publishPlait 0 err 3

/-- A write of GEOM_CMD with OP 1 to 5 (R457, R458): it is ignored while a command runs, takes its arguments, and meets the first of RANGE,
NOT_WINDOW and VIEW_ON. SAVE_GEOM takes the tracked state now, and TRK_RESET resets it now, ahead of an update of this clock (R456). -/
def State.geomStart (s : State) (op : Nat) : State :=
  if !s.on R.GEOM_RESULT_DONE then s.raise R.PLAIT_STATUS_CMD_IGN
  else
    let r : CalRun := { op := op, mem := s.get2 R.GEOM_MEM_LO_D R.GEOM_MEM_HI_D, first := s.get R.GEOM_FIRST_FIRST,
                        count := s.get R.GEOM_COUNT_COUNT, fields := 0, since := s.clk }
    let err :=
      if op ≤ 2 then
        if r.count = 0 ∨ 1048576 < r.first + r.count then 1
        else if !s.inHostWin r.mem (8 * r.count) then 2
        else if op = 1 ∧ s.mapInUse r.first r.count then 4
        else 0
      else if 7 < r.first then 1
      else if op = 4 ∧ !s.unitOff (viewUnit r.first) then 4
      else 0
    let s := s.clear R.GEOM_RESULT_DONE
    let record := if op = 3 ∧ err = 0 then (s.geomRecord r.first).map BitVec.toNat else []
    let s := if op = 5 ∧ err = 0 then s.geomZero r.first else s
    { s with plait := { s.plait with run := some { r with err := err, sums := record } } }

/-- LOAD_MAP (R458). -/
def execLoadMap (who : Who) (s : State) : Host.Outcome State Fault Refusal :=
  .next <| s.viaBus who fun s =>
    s.geomStart 1
/-- SAVE_MAP (R458). -/
def execSaveMap (who : Who) (s : State) : Host.Outcome State Fault Refusal :=
  .next <| s.viaBus who fun s =>
    s.geomStart 2
/-- SAVE_GEOM (R458). -/
def execSaveGeom (who : Who) (s : State) : Host.Outcome State Fault Refusal :=
  .next <| s.viaBus who fun s =>
    s.geomStart 3
/-- LOAD_GEOM (R458). -/
def execLoadGeom (who : Who) (s : State) : Host.Outcome State Fault Refusal :=
  .next <| s.viaBus who fun s =>
    s.geomStart 4
/-- TRK_RESET (R458). -/
def execTrkReset (who : Who) (s : State) : Host.Outcome State Fault Refusal :=
  .next <| s.viaBus who fun s =>
    s.geomStart 5

/-- The header of a SAVE_GEOM whose data stand is written; afterwards the zones of live calibration are mapped again (R419, R459). -/
def State.geomHeader (s : State) (w : GroupWrite) (bad : Option Nat) : State × Bool :=
  match s.groupHeader w bad with
  | (t, true) => (t.forEach 64 fun j t => t.zoneRanges j, true)
  | r => r

/-- GEOM_ABORT (R457, R458): the running command ends with ABORTED; how much a map command has moved is open. A write of the MRAM that has begun is
completed. -/
def execGeomAbort (who : Who) (s : State) : Host.Outcome State Fault Refusal :=
  .next <| s.viaBus who fun s =>
    match s.plait.run with
    | none => s
    | some r =>
      (if r.op ≤ 2 ∧ r.err = 0 then s.useFree.geomMove r (min r.count (s.freeVal 21))
       else match s.nvm.writing with
        | some w => if w.who = 1024 then (s.geomHeader w none).1 else s
        | none => s).geomEnd 7

/-- The next part of a SAVE_GEOM as Skep carries it out (R458, R700, R701, R705): the data, with the record of its start, unless a CAL_WRITE goes before; it
is refused outside the write window; then the header. ERR after a write that reads back wrong twice is open. -/
def State.geomSave (s : State) (r : CalRun) (bad : Option Nat) : State :=
  match s.nvm.writing with
  | some w =>
    if w.who ≠ 1024 then s
    else match s.geomHeader w bad with
      | (t, true) => t.geomEnd 0
      | (t, false) => t.useFree.geomEnd (t.freeVal 4)
  | none =>
    if s.calWriteBefore r.since then s
    else if !s.writeWindow then s.windowRefused.geomEnd 5
    else
      let v := r.first
      let data := r.sums.map (BitVec.ofNat 8)
      match s.groupData ⟨1024, 8 + v, geomAt v, geomAt v + 16, data.length, true, 0⟩ data bad with
      | (t, true) => t
      | (t, false) => t.useFree.geomEnd (t.freeVal 4)

/-- GEOM_CMD_DONE (R457, R458): the command has moved its data, or was refused. `bad`: a word of the MRAM that reads back wrong twice. A
SAVE_GEOM waits for Skep to run, and takes two of these: its data and its header (R705; assumption 88). -/
def execGeomCmdDone (bad : Option Nat) (s : State) : Host.Outcome State Fault Refusal :=
  .next <|
    match s.plait.run with
    | none => s
    | some r =>
      if r.err ≠ 0 then s.geomEnd r.err
      else match r.op with
        | 3 => if s.skepRuns then s.geomSave r bad else s
        | 4 => if s.geomFits r.first then (s.geomLoad r.first).geomEnd 0 else s.geomEnd 6
        | 5 => s.geomEnd 0
        | _ =>
          let s := s.geomMove r r.count
          s.geomEnd (match s.plait.run with | some r => r.err | none => 0)

end Sys2Proof.Machine
end

