-- ==== Sys2Proof/Machine/Lanes.lean ====
section
/-!
DEFINITION. Serial lanes (chapter 6): group PLLs, rates and coefficients, blind bring-up, loopbacks, power states, and margin
measurement.
-/
set_option Elab.async false
namespace Sys2Proof.Machine

/-! ## Coefficients -/

/-- A valid coefficient set, in the layout of TX_COEF (R188). -/
def coefValid (v : Nat) : Bool :=
  let a := bitsOf v 0 4
  let b := bitsOf v 4 5
  let m := bitsOf v 9 7
  let p := bitsOf v 16 5
  decide (a ≤ 8 ∧ b ≤ 16 ∧ 24 ≤ m ∧ m ≤ 64 ∧ p ≤ 16 ∧ a + b + m + p ≤ 64)

/-- Coefficients in the layout of TX_COEF, without SWING. -/
def mkCoef (pre2 pre1 main post1 : Nat) : Nat := pre2 + pre1 * 2 ^ 4 + main * 2 ^ 9 + post1 * 2 ^ 16

/-- The presets of R189: 0 to 7. -/
def presetCoef (n : Nat) : Nat :=
  match n with
  | 0 => mkCoef 0 0 64 0
  | 1 => mkCoef 0 0 56 8
  | 2 => mkCoef 0 4 52 8
  | 3 => mkCoef 0 8 48 8
  | 4 => mkCoef 2 8 46 8
  | 5 => mkCoef 0 6 46 12
  | 6 => mkCoef 0 4 44 16
  | _ => mkCoef 4 12 40 8

/-- Default preset of a signalling (R189). -/
def defaultPreset (mode : Nat) : Nat := match mode with | 0 => 2 | 1 => 5 | 4 => 1 | _ => 0

/-- The coefficients that a blind start takes (R189, R190). -/
def State.startCoef (s : State) (l : Nat) : Nat :=
  let n := s.get (R.LANE_CFG_TX_PRESET l)
  let own := (s.reg (R.TX_COEF l)).toNat
  let c := if n = 15 then own % 2 ^ 21 else presetCoef (if n < 8 then n else defaultPreset (s.laneMode l))
  c + bitsOf own 21 2 * 2 ^ 21

/-- A rate that the family of a lane's group allows (R176, R178, R181). -/
def rateAllowed (family rate : Nat) : Bool :=
  match family with
  | 0 => decide (rate ≤ 1)
  | 1 => rate == 2
  | _ => false

/-- A Talmon rate passes by the family; the rate of an Ethernet port was settled at its enable (R137). -/
def State.laneRateOk (s : State) (l : Nat) : Bool := s.ethLane l || rateAllowed (s.get (R.GRP_CFG_FAMILY (l / 4))) (s.get (R.LANE_CFG_RATE l))

/-- A write of a lane register as R218 lets it pass. -/
def State.laneWrite (s : State) (who : Who) (l : Nat) (f : State → State) : State :=
  if who = .fn0 ∧ s.ethLane l then s.raise (R.LANE_STATUS_LANE_WR_DENIED l) else f s

/-- A lane event (R217). -/
def State.publishLane (s : State) (l kind : Nat) : State := s.publish (R.EVT_LANE_SEL l) 0x40 (l + kind * 256 + 2 ^ 20)

/-- The transmitter drives its balls, or goes to electrical idle. -/
def State.laneSends (s : State) (l : Nat) (on : Bool) : State :=
  let x := s.laneOf l
  if x.sending = on then s else (s.setLane l { x with sending := on, tail := [] }).emit (.laneTx l on)

/-- What the transmitter does at its balls (R203 to R205). -/
def State.txDrive (s : State) (l : Nat) : State :=
  s.laneSends l (s.txRuns l &&
    match s.get (R.LANE_CTRL_LOOP l) with
    | 0 => true
    | 1 => s.on (R.LANE_CTRL_NES_TX_OUT l)
    | 2 => false
    | _ => s.laneReady l)

/-- READY falls (R194, R198, R215 to R217). -/
def State.readyFall (s : State) (l : Nat) : State :=
  if s.laneReady l then
    let x := s.laneOf l
    let s := s.clear (R.LANE_STATUS_READY l)
    let s := if x.margin then
        ((s.setLane l { x with margin := false }).raise (R.MARGIN_STATUS_ABORTED l)).raise (R.MARGIN_STATUS_DONE l)
      else s
    let s := (s.clear (R.EYE_SUM_1_VALID l)).clear (R.LL_STATUS_AM_LOCK l)
    ((s.publishLane l 1).txDrive l).linkLaneDown l
  else s

/-- READY rises (R194, R197, R200): a STARTING lane unit is ON. -/
def State.readyRise (s : State) (l : Nat) : State :=
  let x := s.laneOf l
  let s := (s.set (R.LANE_STATUS_RX_STATE l) 5).raise (R.LANE_STATUS_READY l)
  let s := s.set (R.ACQ_TIME_US l) ((s.clk - x.acqClk) / 250)
  let s := s.setLane l { x with attempt := 0, warm := false }
  let s := s.publishLane l 0
  let s := if s.unitState (laneUnit l) = .starting then s.unitTo (laneUnit l) .on else s
  (s.txDrive l).linkLaneUp l

/-- The receiver enters a state below READY (R193); the symbol that it decides first is the first P(−1) of its decoder (R183). -/
def State.rxTo (s : State) (l st : Nat) : State :=
  let s := s.readyFall l
  let s := s.setLane l { s.laneOf l with rxPre := none, rxBip := 0 }
  let s := s.set (R.LANE_STATUS_RX_STATE l) st
  let s := s.setFlag (R.LANE_STATUS_CDR_LOCK l) (decide (3 ≤ st))
  s.setFlag (R.LANE_STATUS_ADAPT_DONE l) (decide (4 ≤ st))

/-- Starting peaking of a cold acquisition (R191). -/
def startPeaking (preset attempt : Nat) : Nat :=
  match preset with
  | 0 => 3
  | 1 => 8
  | 2 => 13
  | _ => if attempt = 0 then 8 else match attempt % 3 with | 1 => 13 | 2 => 3 | _ => 8

/-- The equaliser starts cold (R191); with ADAPT_FREEZE it keeps its values (R192). -/
def State.coldEq (s : State) (l : Nat) : State :=
  let x := s.laneOf l
  let s := s.setLane l { x with warm := false }
  if s.on (R.LANE_CFG_ADAPT_FREEZE l) then s
  else
    let p := clampNat (s.get (R.CTLE_CFG_CTLE_MIN l)) (s.get (R.CTLE_CFG_CTLE_MAX l))
      (startPeaking (s.get (R.LANE_CFG_RX_PRESET l)) x.attempt)
    (s.set (R.CTLE_CFG_CTLE_SET l) p).forEach 12 fun k s => s.clear (R.DFE_TAP_TAP l k)

/-- The receiver waits for signal: a warm acquisition, or a cold one (R196, R197). In near-end parallel loopback READY is 1 while the
PLL is locked (R204). -/
def State.noSignal (s : State) (l : Nat) (warm : Bool) : State :=
  let s := s.rxTo l 1
  let s := if warm then s.setLane l { s.laneOf l with warm := true } else s.coldEq l
  if s.get (R.LANE_CTRL_LOOP l) = 2 then (s.setLane l { s.laneOf l with acqClk := s.clk }).readyRise l else s

/-- The receiver is DISABLED (R194). -/
def State.rxOff (s : State) (l : Nat) : State := s.rxTo l 0

/-- The receiver starts where it is ACTIVE and stays so, its unit runs and the PLL is locked (R194): the first attempt of AUTO (R191). A start that
must be cold is cold whatever has woken the receiver since it was asked for (R201, R204, R206). -/
def State.rxStart (s : State) (l : Nat) (warm : Bool) : State :=
  if s.permit (laneUnit l) && s.get (R.LANE_STATUS_RX_PWR_ACT l) == 0 && (s.laneOf l).rx.target == none &&
      s.on (R.LANE_STATUS_PLL_LOCK l) then
    let x := s.laneOf l
    (s.setLane l { x with attempt := 0, cold := false }).noSignal l (warm && !x.cold)
  else s

/-- The receiver starts cold, now or once it is ACTIVE with the PLL locked (R201, R204, R206). -/
def State.rxCold (s : State) (l : Nat) : State := (s.setLane l { s.laneOf l with cold := true }).rxStart l false

/-! ## PLL -/

/-- The four lanes of a group. -/
def groupLanes (g : Nat) : List Nat := (List.range 4).map (4 * g + ·)

/-- PLL_LOCK of a group, shown in each of its lanes. -/
def State.setPllLock (s : State) (g : Nat) (b : Bool) : State :=
  s.forList (groupLanes g) (fun l s => s.setFlag (R.LANE_STATUS_PLL_LOCK l) b) |>.setFlag (R.GRP_STATUS_PLL_LOCK g) b

/-- A side of a lane is OFF and stays so. -/
def State.laneOff (s : State) (l : Nat) : Bool :=
  s.get (R.LANE_STATUS_TX_PWR_ACT l) == 2 && s.get (R.LANE_STATUS_RX_PWR_ACT l) == 2 &&
    (s.laneOf l).tx.target == none && (s.laneOf l).rx.target == none

/-- The group's PLL is powered down while all its sides are OFF (R180). -/
def State.pllRest (s : State) (g : Nat) : State :=
  if (groupLanes g).all s.laneOff then ({ s with pllUp := Tbl.put false s.pllUp g false, pllLost := Tbl.put false s.pllLost g false }).setPllLock g false
  else s

/-! ## Power states -/

/-- Code 3 is OFF (R209). -/
def pwrCode (x : Nat) : Nat := if x = 3 then 2 else x

/-- The power registers of a side. -/
def State.side (s : State) (l : Nat) (tx : Bool) : PwrSide := if tx then (s.laneOf l).tx else (s.laneOf l).rx
def State.setSide (s : State) (l : Nat) (tx : Bool) (p : PwrSide) : State :=
  let x := s.laneOf l
  s.setLane l (if tx then { x with tx := p } else { x with rx := p })
def pwrAct (l : Nat) (tx : Bool) : Fld := if tx then R.LANE_STATUS_TX_PWR_ACT l else R.LANE_STATUS_RX_PWR_ACT l

/-- A power state is asked of a side (R211): held while a transition is in progress. `warm`: a wake of the receiver acquires warm. -/
def State.pwrRequest (s : State) (l : Nat) (tx : Bool) (dest : Nat) (warm : Bool) : State :=
  let p := s.side l tx
  if p.target ≠ none then s.setSide l tx { p with held := some (dest, warm) }
  else if s.get (pwrAct l tx) = dest then s
  else
    let s := s.setSide l tx { p with target := some dest }
    if dest = 0 then
      let s := { s with pllUp := Tbl.put false s.pllUp (l / 4) true }
      if tx then s else s.setLane l { s.laneOf l with warm := warm }
    else if tx then s.txDrive l
    else if s.get (pwrAct l tx) = 0 then s.rxOff l else s

/-- A register write asks for a power state: a request that the link layer has made in the same clock prevails (R25, R211). -/
def State.pwrWritten (s : State) (l : Nat) (tx : Bool) (dest : Nat) : State :=
  if (s.side l tx).linkClk = s.clk + 1 then s else s.pwrRequest l tx dest true

/-- The link layer asks for a power state of a lane that runs (R211). -/
def State.pwrLinkAsk (s : State) (l : Nat) (tx : Bool) (dest : Nat) : State :=
  if s.on (R.LANE_CTRL_EN l) then
    let s := s.pwrRequest l tx dest true
    s.setSide l tx { s.side l tx with linkClk := s.clk + 1 }
  else s

/-- The lane unit is ON where its receiver is not ACTIVE and its transmitter is (R200); it is OFF when both sides are (R655). -/
def State.laneSettle (s : State) (l : Nat) : State :=
  match s.unitState (laneUnit l) with
  | .starting =>
    if s.get (R.LANE_CTRL_RX_PWR l) ≠ 0 && s.get (R.LANE_STATUS_TX_PWR_ACT l) == 0 && (s.laneOf l).tx.target == none then
      s.unitTo (laneUnit l) .on
    else s
  | .stopping => if s.laneOff l then s.unitTo (laneUnit l) .off else s
  | _ => s

/-- A side has reached a power state (R210). -/
def State.pwrReached (s : State) (l : Nat) (tx : Bool) (dest : Nat) : State :=
  let s := s.set (pwrAct l tx) dest
  let s := if dest = 0 && !Tbl.get false s.pllLost (l / 4) then s.setPllLock (l / 4) true else s
  let s := if dest ≠ 0 then s else if tx then s.txDrive l else s.rxStart l (s.laneOf l).warm
  (s.pllRest (l / 4)).laneSettle l

/-- PWR_TRANSITION_DONE (R210, R211). -/
def execPwrTransitionDone (l : Fin 32) (tx : Bool) (s : State) : Host.Outcome State Fault Refusal :=
  .next <|
    let p := s.side l tx
    match p.target with
    | none => s
    | some dest =>
      let s := (s.setSide l tx { p with target := none, held := none }).pwrReached l tx dest
      match p.held with
      | some (h, warm) => s.pwrRequest l tx h warm
      | none => s

/-! ## Starting and stopping -/

/-- EN rises (R199): both sides take the states of TX_PWR and RX_PWR. MIN_LAT of the link at the lane follows its rate (R268). -/
def State.laneEnable (s : State) (l : Nat) : State :=
  let s := s.raise (R.LANE_CTRL_EN l)
  let x := s.laneOf l
  let s := s.setLane l { x with rate := s.startRate l, precoder := 0, warm := false, cold := true, attempt := 0, idle := false }
  let s := (s.set (R.TX_COEF_ACT_V l) (s.startCoef l)).trigRefresh l
  let s := s.pwrRequest l true (pwrCode (s.get (R.LANE_CTRL_TX_PWR l))) false
  (s.pwrRequest l false (pwrCode (s.get (R.LANE_CTRL_RX_PWR l))) false).laneSettle l

/-- EN falls (R199): both sides go to OFF. -/
def State.laneGate (s : State) (l : Nat) : State :=
  let s := (s.clear (R.LANE_CTRL_EN l)).rxOff l
  let s := s.setLane l { s.laneOf l with idle := false }
  (s.pwrRequest l true 2 false).pwrRequest l false 2 false

/-- The lane unit starts (R178, R199, R656): a RATE that the family does not allow refuses it; the CAUSE of that FAULT is not stated and
is a free value (assumption 1). -/
def State.laneStart (s : State) (l : Nat) : State :=
  let s := s.unitTo (laneUnit l) .starting
  if s.laneRateOk l then s.laneEnable l
  else ((s.raise (R.LANE_STATUS_RATE_REJ l)).unitTo (laneUnit l) .fault (s.freeVal 8)).useFree

/-- The lane unit stops (R199, R655). -/
def State.laneStop (s : State) (l : Nat) : State := ((s.unitTo (laneUnit l) .stopping).laneGate l).laneSettle l

/-- Skep stops a lane that it is to start again (R202, R656): once both sides are OFF the unit is STARTING and waits for the scheduler (R693). A
unit that is OFF stays so. -/
def State.laneAgain (s : State) (l : Nat) : State :=
  let u := laneUnit l
  if s.unitOff u then s
  else
    let s := s.setUnit u { s.unitOf u with deferred := true }
    if s.unitState u = .stopping then s else s.laneStop l

/-- RESTART of a lane (R178, R201, R202). A write of the bit restarts a lane with EN 1 in hardware, and its unit passes STOPPING and STARTING at
once. Skep makes every other restart, and those of UNIT_SET (`bySkep`), through its scheduler (R656, R693); DATA_STOP refuses them (R685). -/
def State.laneRestart (s : State) (l : Nat) (bySkep : Bool) : State :=
  if !s.laneRateOk l then s.raise (R.LANE_STATUS_RATE_REJ l)
  else
    let s := (s.set (R.LANE_CTRL_TX_PWR l) 0).set (R.LANE_CTRL_RX_PWR l) 0
    if !bySkep && s.on (R.LANE_CTRL_EN l) then
      let s := (s.unitTo (laneUnit l) .stopping).unitTo (laneUnit l) .starting
      let s := s.setLane l { s.laneOf l with rate := s.startRate l, idle := true, attempt := 0, warm := false }
      let s := (s.txDrive l).trigRefresh l
      let s := s.pwrRequest l true 0 false
      let s := s.rxCold l
      if s.get (R.LANE_STATUS_RX_PWR_ACT l) = 0 && (s.laneOf l).rx.target == none then s else s.pwrRequest l false 0 false
    else if s.on R.TH_STATUS_DATA_STOP then s
    else s.laneAgain l

/-- A loopback is selected or left (R203 to R206). -/
def State.loopChange (s : State) (l old new : Nat) : State :=
  if old = new then s
  else
    let s := s.set (R.LANE_CTRL_LOOP l) new
    let s := s.setLane l { s.laneOf l with heard := [] }
    let s := if new ≠ 3 ∨ old ≠ 0 then s.rxCold l else s
    s.txDrive l

/-- A write of LANE_CTRL (R201, R203, R209, R211, R218): the power states under the loopback in force, then LOOP under the power states
that result, then RESTART. -/
def State.laneCtrlWrite (s : State) (who : Who) (l : Nat) (v : Word) : State :=
  s.laneWrite who l fun s =>
    let x := v.toNat
    let old := (s.reg (R.LANE_CTRL l)).toNat
    let loop := bitsOf old 9 2
    let s := s.writeReg (R.LANE_CTRL l) v
    -- the fields that have rules of their own are put back first
    let s := ((s.set (R.LANE_CTRL_TX_PWR l) (bitsOf old 2 2)).set (R.LANE_CTRL_RX_PWR l) (bitsOf old 4 2)).set (R.LANE_CTRL_LOOP l) loop
    -- a RESTART sets both sides to ACTIVE (R201)
    let go := bitAt x 1 && s.laneRateOk l
    let tx := if go then 0 else bitsOf x 2 2
    let rx := if go then 0 else bitsOf x 4 2
    let rejTx := loop ≠ 0 ∧ tx ≠ 0
    let rejRx := loop ≠ 0 ∧ rx ≠ 0
    let s := if rejTx ∨ rejRx then s.raise (R.LANE_STATUS_LOOP_REJ l) else s
    let en := s.on (R.LANE_CTRL_EN l)
    let s := if rejTx then s
      else
        let s := s.set (R.LANE_CTRL_TX_PWR l) tx
        if en then s.pwrWritten l true (pwrCode tx) else s
    let s := if rejRx then s
      else
        let s := s.set (R.LANE_CTRL_RX_PWR l) rx
        if en then s.pwrWritten l false (pwrCode rx) else s
    let want := bitsOf x 9 2
    let s := if want ≠ 0 ∧ (s.get (R.LANE_CTRL_TX_PWR l) ≠ 0 ∨ s.get (R.LANE_CTRL_RX_PWR l) ≠ 0) then
        s.raise (R.LANE_STATUS_LOOP_REJ l)
      else s.loopChange l loop want
    let s := s.txDrive l
    if bitAt x 1 then s.laneRestart l false else s.laneSettle l

/-- RESTART (R201): a write of LANE_CTRL with the bit set. -/
def execRestart (who : Who) (l : Fin 32) (v : Word) (s : State) : Host.Outcome State Fault Refusal :=
  .next <| s.viaBus who fun s =>
    s.laneCtrlWrite who l v

/-- RESTART_IDLE_END (R201): the transmitter starts at RATE with the preset of R189 and a precoder state of 0. -/
def execRestartIdleEnd (l : Fin 32) (s : State) : Host.Outcome State Fault Refusal :=
  .next <|
    let x := s.laneOf l
    if x.idle then
      ((s.setLane l { x with idle := false, precoder := 0 }).set (R.TX_COEF_ACT_V l) (s.startCoef l)).txDrive l
    else s

/-- LOOP_WRITE (R203, R206). -/
def execLoopWrite (who : Who) (l : Fin 32) (v : Word) (s : State) : Host.Outcome State Fault Refusal :=
  .next <| s.viaBus who fun s =>
    s.laneCtrlWrite who l v

/-- PWR_STATE_WRITE (R209, R211). -/
def execPwrStateWrite (l : Fin 32) (a : PwrAsk) (s : State) : Host.Outcome State Fault Refusal :=
  .next (match a with
    | .write who v => s.viaBus who fun s => s.laneCtrlWrite who l v
    | .link tx dest => s.pwrLinkAsk l tx dest)

/-- TX_COEF_WRITE (R188, R190). -/
def execTxCoefWrite (who : Who) (l : Fin 32) (v : Word) (s : State) : Host.Outcome State Fault Refusal :=
  .next <| s.viaBus who fun s =>
    s.laneWrite who l fun s =>
      if coefValid v.toNat then
        let s := s.writeReg (R.TX_COEF l) v
        if s.get (R.LANE_CFG_TX_PRESET l) = 15 && s.get (R.LANE_STATUS_TX_PWR_ACT l) == 0 then
          s.set (R.TX_COEF_ACT_V l) (s.reg (R.TX_COEF l)).toNat
        else s
      else s.raise (R.LANE_STATUS_FIR_REJ l)

/-! ## Groups -/

/-- GRP_CFG_WRITE (R177). -/
def execGrpCfgWrite (who : Who) (g : Fin 8) (v : Word) (s : State) : Host.Outcome State Fault Refusal :=
  .next <| s.viaBus who fun s =>
    let idle := (groupLanes g).all fun l => s.unitOff (laneUnit l)
    let eth := g.val == 7 && (List.range 4).any fun p => s.on (R.ETH_CTRL_EN p)
    if idle && !eth && !(bitsOf v.toNat 1 2 == 2 && g.val != 7) then s.writeReg (R.GRP_CFG g) v
    else s.raise (R.GRP_STATUS_GRP_REJ g)

/-- REF_MEASURE (R179): the offset in 0.1 ppm, or none for an absent reference. -/
def execRefMeasure (g : Fin 8) (ppm : Option (BitVec 16)) (s : State) : Host.Outcome State Fault Refusal :=
  .next <|
    match ppm with
    | none => s.raise (R.GRP_STATUS_REF_LOSS g)
    | some x =>
      let s := s.set (R.GRP_STATUS_REF_PPM g) x.toNat
      if 10000 < x.toInt.natAbs then s.raise (R.GRP_STATUS_REF_LOSS g) else s

/-- PLL_UNLOCK (R179, R194, R217). -/
def execPllUnlock (g : Fin 8) (s : State) : Host.Outcome State Fault Refusal :=
  .next <|
    if s.on (R.GRP_STATUS_PLL_LOCK g) then
      let s := { s with pllLost := Tbl.put false s.pllLost g true }
      let s := ((s.setPllLock g false).raise (R.GRP_STATUS_PLL_UNLOCK g)).bumpSat (R.PLL_UNLOCK_CNT_CNT g)
      s.forList (groupLanes g) fun l s => ((s.rxOff l).txDrive l).publishLane l 4
    else s

/-- PLL_RELOCK (R179): ACTIVE transmitters resume and ACTIVE receivers start blind. -/
def execPllRelock (g : Fin 8) (s : State) : Host.Outcome State Fault Refusal :=
  .next <|
    if Tbl.get false s.pllLost g then
      (({ s with pllLost := Tbl.put false s.pllLost g false }).setPllLock g true).forList (groupLanes g) fun l s => (s.txDrive l).rxStart l false
    else s

/-! ## Acquisition -/

def State.rxState (s : State) (l : Nat) : Nat := s.get (R.LANE_STATUS_RX_STATE l)

/-- SIG_DET_RISE (R195, R212). -/
def execSigDetRise (l : Fin 32) (s : State) : Host.Outcome State Fault Refusal :=
  .next <|
    let l := l.val
    let was := s.on (R.LANE_STATUS_SIG_DET l)
    let s := s.raise (R.LANE_STATUS_SIG_DET l)
    if !was && s.get (R.LANE_STATUS_RX_PWR_ACT l) != 0 then
      let s := (s.raise (R.LANE_STATUS_SIG_WAKE l)).publishLane l 2
      if s.on (R.LANE_CTRL_RX_AUTOWAKE l) then
        let s := s.set (R.LANE_CTRL_RX_PWR l) 0
        if s.on (R.LANE_CTRL_EN l) then s.pwrRequest l false 0 true else s
      else s
    else s

/-- SIG_DET_HOLD (R194): NO_SIGNAL to CDR_ACQ. In near-end serial loopback the signal is that of the lane's own transmitter (R204). -/
def execSigDetHold (l : Fin 32) (s : State) : Host.Outcome State Fault Refusal :=
  .next (if s.rxState l = 1 && (if s.get (R.LANE_CTRL_LOOP l) = 1 then s.txRuns l else s.on (R.LANE_STATUS_SIG_DET l)) then
      let s := s.rxTo l 2
      s.setLane l { s.laneOf l with acqClk := s.clk }
    else s)

/-- A READY receiver loses its signal or its lock (R194, R197): the acquisition that follows is warm. -/
def State.lockLost (s : State) (l : Nat) : State :=
  ((s.raise (R.LANE_STATUS_LOCK_LOST l)).bumpSat (R.LOCK_LOST_CNT_CNT l)).noSignal l true

/-- SIG_DET_FALL (R194, R195). -/
def execSigDetFall (l : Fin 32) (s : State) : Host.Outcome State Fault Refusal :=
  .next <|
    let s := s.clear (R.LANE_STATUS_SIG_DET l)
    let st := s.rxState l
    if s.get (R.LANE_CTRL_LOOP l) = 1 ∨ s.get (R.LANE_CTRL_LOOP l) = 2 then s
    else if st = 5 then s.lockLost l
    else if 2 ≤ st then s.noSignal l false
    else s

/-- CDR_LOCK (R194): CDR_ACQ to ADAPT. -/
def execCdrLock (l : Fin 32) (s : State) : Host.Outcome State Fault Refusal := .next (if s.rxState l = 2 then s.rxTo l 3 else s)

/-- ADAPT_SETTLED (R191, R192, R194): ADAPT to EYE_CHECK; `ctle` and `taps` are the values that adaptation has reached. -/
def execAdaptSettled (l : Fin 32) (ctle : BitVec 4) (taps : List (BitVec 8)) (s : State) : Host.Outcome State Fault Refusal :=
  .next <|
    if s.rxState l = 3 then
      let s := if s.on (R.LANE_CFG_ADAPT_FREEZE l) then s
        else
          let s := s.set (R.CTLE_CFG_CTLE_SET l)
            (clampNat (s.get (R.CTLE_CFG_CTLE_MIN l)) (s.get (R.CTLE_CFG_CTLE_MAX l)) ctle.toNat)
          s.forEach 12 fun k s => s.set (R.DFE_TAP_TAP l k) (taps.getD k 0).toNat
      s.rxTo l 4
    else s

/-- EYE_CHECK_DONE (R194): `height` is the smallest eye height of the quick measurement, in mV. -/
def execEyeCheckDone (l : Fin 32) (height : BitVec 8) (s : State) : Host.Outcome State Fault Refusal :=
  .next <|
    if s.rxState l = 4 then
      if s.get (R.ACQ_CFG_LOCK_EYE l) ≤ height.toNat then s.readyRise l else s.rxTo l 3
    else s

/-- CDR_LOCK_LOST (R194, R197). Near-end parallel loopback does not use the receiver's clock recovery (R204). -/
def execCdrLockLost (l : Fin 32) (s : State) : Host.Outcome State Fault Refusal :=
  .next (if s.rxState l = 5 && s.get (R.LANE_CTRL_LOOP l) != 2 then s.lockLost l else s)

/-- ACQ_TIMEOUT (R194, R196, R217). -/
def execAcqTimeout (l : Fin 32) (s : State) : Host.Outcome State Fault Refusal :=
  .next <|
    let st := s.rxState l
    if 2 ≤ st ∧ st ≤ 4 then
      let s := ((s.raise (R.LANE_STATUS_ACQ_TIMEOUT l)).bumpSat (R.ACQ_RETRY_CNT_CNT l)).publishLane l 3
      (s.setLane l { s.laneOf l with attempt := (s.laneOf l).attempt + 1 }).noSignal l false
    else s

/-- WARM_ACQ_TIMEOUT (R197): the acquisition continues cold. -/
def execWarmAcqTimeout (l : Fin 32) (s : State) : Host.Outcome State Fault Refusal :=
  .next (if (s.laneOf l).warm && decide (1 ≤ s.rxState l ∧ s.rxState l ≤ 4) then s.coldEq l else s)

/-- FREQ_OFFSET_UPDATE (R214), in 0.1 ppm. -/
def execFreqOffsetUpdate (l : Fin 32) (ppm : BitVec 16) (s : State) : Host.Outcome State Fault Refusal :=
  .next <|
    if s.on (R.LANE_STATUS_CDR_LOCK l) then
      let s := s.set (R.FREQ_OFFSET_PPM l) ppm.toNat
      if 2200 < ppm.toInt.natAbs then s.raise (R.LANE_STATUS_PPM_WARN l) else s
    else s

/-- EYE_SUMMARY_REFRESH (R215): heights and widths of the lower, middle and upper eye; at NRZ only the middle one is measured. -/
def execEyeSummaryRefresh (l : Fin 32) (heights widths : BitVec 24) (s : State) : Host.Outcome State Fault Refusal :=
  .next <|
    if s.laneReady l && !(s.laneOf l).margin then
      let m (x : Nat) : Nat := if s.laneNrz l then bitsOf x 8 8 * 2 ^ 8 else x
      (s.setReg (R.EYE_SUM_0 l) (BitVec.ofNat 32 (m heights.toNat))).setReg (R.EYE_SUM_1 l)
        (BitVec.ofNat 32 (m widths.toNat + 2 ^ 31))
    else s

/-- MARGIN_START (R216): a write of MARGIN_CTRL. A measurement started while READY is 0 is aborted at once. -/
def execMarginStart (who : Who) (l : Fin 32) (v : Word) (s : State) : Host.Outcome State Fault Refusal :=
  .next <| s.viaBus who fun s =>
    s.laneWrite who l fun s =>
      let s := s.writeReg (R.MARGIN_CTRL l) v
      let x := s.laneOf l
      if bitAt v.toNat 0 && !x.margin then
        if s.laneReady l then
          ((s.setLane l { x with margin := true }).clear (R.MARGIN_STATUS_DONE l)).clear (R.MARGIN_STATUS_ABORTED l)
        else (s.raise (R.MARGIN_STATUS_DONE l)).raise (R.MARGIN_STATUS_ABORTED l)
      else s

/-- MARGIN_DONE (R216): the disagreements counted. -/
def execMarginDone (l : Fin 32) (count : Nat) (s : State) : Host.Outcome State Fault Refusal :=
  .next <|
    let x := s.laneOf l
    if x.margin then
      ((s.setLane l { x with margin := false }).set (R.MARGIN_ERR_CNT l) (min count (2 ^ 32 - 1))).raise (R.MARGIN_STATUS_DONE l)
    else s

/-! ## Pattern generator and checker -/

/-- INJECT (R207): a write of PRBS_CTRL. The generator starts anew with TX_EN or another PATTERN, the checker with RX_EN or another PATTERN. -/
def execInject (who : Who) (l : Fin 32) (v : Word) (s : State) : Host.Outcome State Fault Refusal :=
  .next <| s.viaBus who fun s =>
    s.laneWrite who l fun s =>
      let old := s.get (R.PRBS_CTRL_PATTERN l)
      let s := s.writeReg (R.PRBS_CTRL l) v
      let same := s.get (R.PRBS_CTRL_PATTERN l) == old
      let x := s.laneOf l
      let x := if s.on (R.PRBS_CTRL_TX_EN l) then { x with injected := x.injected + (bitAt v.toNat 4).toNat, gen := if same then x.gen else none }
        else { x with gen := none, genPhase := 0, injected := 0 }
      let s := s.setLane l { x with chk := if s.on (R.PRBS_CTRL_RX_EN l) && same then x.chk else {} }
      if s.on (R.PRBS_CTRL_RX_EN l) && same then s else s.clear (R.PRBS_STATUS_LOCK l)

/-- The checker has compared `bits` more bits, `errs` of them wrong (R207, R208). -/
def State.prbsCount (s : State) (l errs bits : Nat) : State :=
  (s.bumpSat (R.PRBS_ERR_CNT l) errs).setLane l { s.laneOf l with prbsBits := (s.laneOf l).prbsBits + bits }

/-- A read of PRBS_ERR captures the bits checked over the same interval (R208). -/
def State.prbsCapture (s : State) (l : Nat) : State :=
  (s.set2 (R.PRBS_BITS_LO_BITS l) (R.PRBS_BITS_HI_BITS l) (s.laneOf l).prbsBits).setLane l { s.laneOf l with prbsBits := 0 }

/-- PRBS_ERR_READ (R208): since the previous read and before this event clock, the checker has also compared `bits` bits that came over the
balls, `errs` of them wrong. The read leaves what this clock has counted (R7). -/
def execPrbsErrRead (who : Who) (l : Fin 32) (errs bits : Nat) (s : State) : Host.Outcome State Fault Refusal :=
  .next <|
    let was := s.rcWas (R.PRBS_ERR l)
    let s := (s.prbsCount l errs bits).rcNote (R.PRBS_ERR l) (min (was.1 + errs) (2 ^ 32 - 1)) was.2
    s.viaBus who (write := false) fun s =>
      let was := s.rcWas (R.PRBS_ERR l)
      (((s.prbsCapture l).setReg (R.PRBS_ERR l) (BitVec.ofNat 32 was.2)).rcNote (R.PRBS_ERR l) 0 was.2).readAnswer who
        (.readData who (R.PRBS_ERR l) (BitVec.ofNat 32 was.1))

/-- PRBS_LOCK (R207). -/
def execPrbsLock (l : Fin 32) (s : State) : Host.Outcome State Fault Refusal :=
  .next (if s.on (R.PRBS_CTRL_RX_EN l) then s.raise (R.PRBS_STATUS_LOCK l) else s)

/-- The checker loses lock (R207). -/
def State.prbsLost (s : State) (l : Nat) : State :=
  if s.on (R.PRBS_STATUS_LOCK l) then (s.clear (R.PRBS_STATUS_LOCK l)).raise (R.PRBS_STATUS_PRBS_LOCK_LOST l) else s

/-- PRBS_LOCK_LOST (R207). -/
def execPrbsLockLost (l : Fin 32) (s : State) : Host.Outcome State Fault Refusal := .next (s.prbsLost l)

end Sys2Proof.Machine
end

