-- ==== Sys2Proof/Machine/Power.lean ====
section
/-!
DEFINITION. Starts and stops of units by class (R655), the power forecast, and the scheduler that every start passes (R692, R693).
-/
set_option Elab.async false
namespace Sys2Proof.Machine

/-! ## View units -/

/-- A unit's start is refused with a CAUSE (R656). -/
def State.startRefused (s : State) (u cause : Nat) : State := s.unitTo u .fault cause

/-- The work area of view `v` holds CAND_BLOCKS blocks of 8 KiB (R520): kept where it has the size, and allocated anew otherwise. -/
def State.workAlloc (s : State) (v : Nat) : Option State :=
  let n := (s.get (R.CAND_BLOCKS_BLOCKS v) + 7) / 8
  let h := s.histOf v
  if runLen h.work = n then some s
  else
    match ((s.giveBack R.FREE_WORK_SEGS h.work).setHist v { h with work := [] }).alloc R.FREE_WORK_SEGS n with
    | some (s, l) => some ((s.setHist v { s.histOf v with work := l }).showWork v)
    | none => none

/-- Bytes of a row of view `v` as Plait emits it (R448). -/
def State.viewRowBytes (s : State) (v : Nat) : Nat :=
  match s.viewDesc? v with
  | some d => 64 + s.get (R.VW_WIDTH_WIDTH v) * s.descComps d * fmtWidth (s.get (R.SD_FORMAT_FMT d))
  | none => 64

/-- The history ring of a view and its work area, at the view's row size: both or neither (R363). -/
def State.viewRings (s : State) (v : Nat) : Option State := (s.histAlloc v (s.viewRowBytes v)).bind (·.workAlloc v)

/-- The allocations of a view start, and whether all have succeeded (R360, R363 to R365, R520). RING_MIN is computed first. A start that
fails allocates nothing, and has freed a ring of other sizes (R363). -/
def State.viewAlloc (s : State) (v : Nat) : State × Bool :=
  let stride := (32 + s.viewRowBytes v + 255) / 256 * 256
  let rmin := s.get (R.RING_MIN_ROWS v)
  if s.get (R.HIST_CFG_SEGS v) * 65536 / stride < rmin ∨ s.get (R.STAGE_CFG_SEGS v) * 65536 / stride < rmin then (s, false)
  else
    match s.viewRings v with
    | some s => (s, true)
    | none => (if s.histKept v then s else s.histFree v, false)

/-- The view unit is ON: its timeline exists, Plait knows its heads, its candidate blocks are free but for those that repeats hold, and the
active job cuts again (R77, R439, R482, R520). -/
def State.viewOn (s : State) (v : Nat) : State :=
  let held := s.candOf.filterMap fun e => match e.2 with | some (w, b) => if w = v then some b else none | none => none
  let s := { s with candFree := Tbl.put [] s.candFree v ((List.range (s.get (R.CAND_BLOCKS_BLOCKS v))).filter fun b => !held.contains b) }
  let s := s.startViewPos v
  let pitch := s.get (R.VW_PITCH_PITCH v)
  let s := s.setPlait v { heads := s.viewHeads v, grid := some (s.viewPos v / pitch * pitch) }
  let s := if s.on (R.VJ_ACTIVE_VALID v) then
      let j := s.get (R.VJ_ACTIVE_SLOT v)
      s.setJview v { s.jview v with sets := [{ slot := j, lanes := List.replicate ((s.slotImg j).rview v).lanes {} }] }
    else s
  let s := (s.setJview v { s.jview v with rows := [], wait := [], live := false, searching := false }).forEach 64 fun l s => s.setReg (R.LANE v l) 0
  s.unitTo (viewUnit v) .on

/-- The view unit starts (R78, R390, R439, R450, R459, R363 to R365): the first check that fails refuses the start. The CAUSE of a scale of 0
is not stated and is a free value (assumption 1). -/
def State.viewStart (s : State) (v : Nat) : State :=
  let u := viewUnit v
  let s := s.unitTo u .starting
  if !s.on R.MEM_STATUS_MEM_READY then s.startRefused u 11
  else if s.get (R.VIEW_SCALE_SCALE v) = 0 then s.useFree.startRefused u (s.freeVal 8)
  else
    let err := s.geomErr v
    let s := s.set (R.VW_STATUS_GEOM_ERR v) err
    if err ≠ 0 then s.startRefused u 12
    else
      let need := s.joinNeed v
      let s := s.set (R.VW_JOIN_NEED_KIB v) (min 65535 need)
      if s.get (R.VW_JOIN_JOIN_KIB v) < need then s.startRefused u 13
      else
        let s := if s.on (R.VW_CTRL_USE_SAVED v) then
            (if s.geomFits v then s.geomLoad v else s.raise (R.VW_STATUS_NO_GEOM v))
          else s
        let s := s.set (R.RING_MIN_ROWS v) (s.ringMin v (s.longestRepeat v 64))
        match s.viewAlloc v with
        | (s, true) => s.viewOn v
        | (s, false) => s.startRefused u 10

/-- The view unit stops (R80, R421, R482, R488, R536): it leaves ON at once, its timeline ends, open repeats are TRUNCATED, and it is OFF
once the lines of its view run have left the resampler. -/
def State.viewStop (s : State) (v : Nat) : State :=
  let u := viewUnit v
  let s := s.unitTo u .stopping
  -- a switch whose entry has fired already is not removed (R482)
  let s := match (s.jview v).pend with
    | some (_, _, h) => if (s.findHandle h).isSome then s.switchDrop v true else s
    | none => s
  let s := s.forList (s.slotsOn (v + 8)) fun i s => s.gateRemoved (s.slotOf i).entry (s.handleOf i) 6
  let s := (((s.stopViewPos v).genKeep false).zonesAbandon v).learnStop v 4
  let s := s.segRunEnd v
  let s := s.setJview v { s.jview v with sets := [], wait := [] }
  let x := s.plaitOf v
  if x.begun then s.setPlait v { x with closing := true, stopping := true }
  else (s.plaitOff v).stripeClose v

/-! ## Starts and stops by class -/

/-- Skep starts a unit that is STARTING (R655). A link has left DOWN as its unit became STARTING (R272). -/
def State.classStart (s : State) (u : Nat) : State :=
  let i := u % 2 ^ 24
  match u / 2 ^ 24 with
  | 1 => s.laneStart i
  | 2 => if s.linkState i = 0 then s.linkStart i else s
  | 3 => s.epUnitStart i
  | 4 => s.chainStart i
  | 5 => (s.raise (R.ENC_CTRL_EN i)).encEnable i true
  | 6 => s.viewStart i
  | 8 => s.ringStart i
  | 9 =>
    let s := s.dmaStart i
    if s.unitState u = .starting then s.startRefused u 18 else s
  | _ => s

/-- Skep stops a unit (R655). -/
def State.classStop (s : State) (u : Nat) : State :=
  let i := u % 2 ^ 24
  match u / 2 ^ 24 with
  | 1 => s.laneStop i
  | 2 => s.linkStop i
  | 3 => s.epUnitStop i
  | 4 => (s.unitTo u .stopping).chainStop i
  | 5 => (s.clear (R.ENC_CTRL_EN i)).encEnable i false
  | 6 => s.viewStop i
  | 8 => s.ringDisable i
  | 9 =>
    let s := (s.unitTo u .stopping).dmaOff i
    if s.dmaSt i = dmaIdle then s.unitTo u .off else s
  | _ => s

/-- A unit's PERMIT is withdrawn by a fault that Skep finds (R655, R656, R659): the gate of its class takes effect. -/
def State.classGate (s : State) (u : Nat) : State :=
  let i := u % 2 ^ 24
  match u / 2 ^ 24 with
  | 1 => s.laneGate i
  | 2 => s.linkDown i
  | 5 => s.clear (R.ENC_CTRL_EN i)
  | _ => s

/-! ## The power budget (R692, R693) -/

/-- A self-test item that is under way costs this much (R692). -/
def testCost (i : Nat) : Nat := if i = 0 then 10000 else if i = 1 then 20000 else 0

/-- FORECAST, in mW (R692): the comparison load counts while the data path runs (R683). -/
def State.forecast (s : State) : Nat :=
  let groups := ((List.range 8).filter fun g => Tbl.get false s.pllUp g).length
  let chains := ((List.range 8).filter fun n => s.unitOn (chainUnit n)).length
  let tests := (s.skep.cmds.map fun (_, c) =>
    match c.test with
    | some t => ((List.range 2).map fun i => if bitAt t.begun i && !bitAt t.ended i then testCost i else 0).sum
    | none => 0).sum
  21000 + (if s.creel.trained then 14000 else 0) + (if s.boot.training then 25000 else 0) + 2000 * groups +
    (if s.on R.TH_STATUS_DATA_STOP then 0 else ceilDiv (220 * s.cmpLoad) 1000000000) + 500 * chains + tests

/-- The cost of a request (R693). -/
def State.schedCost (s : State) (x : SchedItem) : Nat :=
  match x with
  | .hbm => 25000
  | .test _ i => testCost i
  | .unit u =>
    match u / 2 ^ 24 with
    | 1 => if Tbl.get false s.pllUp (u % 2 ^ 24 / 4) then 0 else 2000
    | 4 => 500
    | _ => 0

/-- A self-test item is admitted, or skipped. -/
def State.testItem (s : State) (m i : Nat) (run : Bool) : State :=
  let c := s.cmdOf m
  match c.test with
  | some t => s.setCmd m { c with test := some (if run then { t with begun := t.begun ||| 2 ^ i } else { t with skipped := t.skipped ||| 2 ^ i }) }
  | none => s

/-- A request whose cost exceeds BUDGET − 21,000 mW is refused at once (R693). -/
def State.schedRefused (s : State) (x : SchedItem) : State :=
  match x with
  | .unit u => (s.unitTo u .fault 19).classGate u
  | .test m i => s.testItem m i false
  | .hbm => s

/-- A request joins the queue (R693). -/
def State.schedule (s : State) (x : SchedItem) : State :=
  if s.get R.PWR_BUDGET_MW < 21000 + s.schedCost x then s.schedRefused x
  else { s with skep := { s.skep with waiting := s.skep.waiting ++ [(x, s.clk)] } }

/-- A unit that is OFF or in FAULT becomes STARTING and waits for the scheduler (R656, R693); a link waits for its lanes from then on (R271, R272). -/
def State.unitBegin (s : State) (u : Nat) : State :=
  (if u / 2 ^ 24 = 2 then s.linkStart (u % 2 ^ 24) else s.unitTo u .starting).schedule (.unit u)

/-- A data-path stop prevails over an admitted start of a link, or of a lane that carries no Ethernet (R683, R686). -/
def State.stopTakes (s : State) (u : Nat) : Bool :=
  s.on R.TH_STATUS_DATA_STOP && (u / 2 ^ 24 == 2 || u / 2 ^ 24 == 1 && !s.ethLane (u % 2 ^ 24))

/-- A request is admitted. -/
def State.schedRun (s : State) (x : SchedItem) : State :=
  match x with
  | .unit u =>
    if s.stopTakes u then
      (({ s with therm := { s.therm with stopped := s.therm.stopped ++ [u] } }).unitTo u .fault 19).classGate u
    else s.classStart u
  | .test m i => s.testItem m i true
  | .hbm => ({ s with boot := { s.boot with training := true } }).set R.BOOT_STATUS_STAGE 4

/-- Self-test items that run have ended by the next tick (R692; assumption 147). -/
def State.testsEnd (s : State) : State :=
  { s with skep := { s.skep with cmds := s.skep.cmds.map fun (e : Nat × SkCmd) =>
      (e.1, { e.2 with test := e.2.test.map fun (t : SelfTest) => { t with ended := t.begun } }) } }

/-- SCHEDULER_TICK (R693): the first waiting request whose cost fits the remaining budget starts; one that has waited 1 s is the only one
considered. -/
def execSchedulerTick (s : State) : Host.Outcome State Fault Refusal :=
  .next <|
    if !s.skepRuns then s
    else
      let s := s.testsEnd
      let k := s.skep
      let used := max s.forecast (s.get R.PWR_MEASURED_MW)
      let fits := fun (x : SchedItem × Nat) => decide (used + s.schedCost x.1 ≤ s.get R.PWR_BUDGET_MW)
      let pick := match k.waiting.findIdx? fun x => decide (x.2 + 250000000 ≤ s.clk) with
        | some i => if (k.waiting[i]?.map fits).getD false then some i else none
        | none => k.waiting.findIdx? fits
      match pick with
      | none => s
      | some i =>
        match k.waiting[i]? with
        | none => s
        | some (x, _) => ({ s with skep := { k with waiting := k.waiting.eraseIdx i } }).schedRun x

end Sys2Proof.Machine
end

