-- ==== Sys2Proof/Machine/UnitCmds.lean ====
section
/-!
DEFINITION. Isaow commands on units and on the device as a whole (R652, R655 to R665, R668), and the SMBus sideband (R650).
-/
set_option Elab.async false
namespace Sys2Proof.Machine

/-! ## HELLO (R652) -/

/-- Who a requester is to Isaow (R652): function 0, function 1, the SMBus as 2, or a remote sender. -/
def reqKey (m : Nat) : Nat :=
  let k := if m < 512 then m else m % 32
  if 32 ≤ m ∧ m < 512 then m else if k < 16 then 0 else if k < 20 then 1 else 2

/-- HELLO (R652). -/
def execHelloCmd (m : Fin 1024) (s : State) : Host.Outcome State Fault Refusal :=
  .next <|
    let m := m.val
    s.skepRun m 0x0001 (fun _ => true) fun p s =>
      let minor := min (leAt p 1 1) (s.get R.ISAOW_VER_MINOR)
      let resp := leBytes 1 (s.get R.ISAOW_VER_MAJOR) ++ leBytes 1 minor ++ leBytes 1 4 ++ leBytes 1 0 ++ leBytes 4 (s.get R.FW_VERSION_VERSION)
      if leAt p 0 1 = s.get R.ISAOW_VER_MAJOR then
        (if m < 512 then { s with skep := { s.skep with minor := Tbl.put 0 s.skep.minor (reqKey m) (minor + 1) } } else s).skepAnswer m Isaow.ok resp
      else s.skepAnswer m Isaow.unsupported resp

/-! ## UNIT_GET and UNIT_SET (R658) -/

/-- The unit response of the present entry. -/
def State.unitAnswer (s : State) (m status u : Nat) : State :=
  s.skepAnswer m status (s.unitResponse u (s.unitOf u) (s.unitOf u).cause)

/-- UNIT_GET (R658). -/
def execUnitGet (m : Fin 1024) (s : State) : Host.Outcome State Fault Refusal :=
  .next <|
    let m := m.val
    s.skepRun m 0x0010 (fun _ => true) fun p s =>
      let u := leAt p 0 4
      if unitExists u then s.unitAnswer m Isaow.ok u else s.skepAnswer m Isaow.badArg

/-- Endpoint units that hold a link: those of its endpoints that are not OFF. -/
def State.linkDeps (s : State) (f : Nat) : List Nat := (s.epsOn f).filter fun e => !s.unitOff (epUnit e)

/-- A unit whose OFF another unit forbids (R658). -/
def State.offDeps (s : State) (u : Nat) : Bool :=
  let i := u % 2 ^ 24
  match u / 2 ^ 24 with
  | 1 => (s.linkAt i).isSome
  | 2 => !(s.linkDeps i).isEmpty
  | _ => false

/-- The endpoints that depend on a link stop (R658). -/
def State.epsStop (s : State) (f : Nat) : State := s.forList (s.linkDeps f) fun e s => s.epUnitStop e

/-- CASCADE (R658): endpoints first, then the link. -/
def State.cascade (s : State) (u : Nat) : State :=
  let i := u % 2 ^ 24
  match u / 2 ^ 24 with
  | 1 => match s.linkAt i with
    | some f => if s.unitState (linkUnit f) = .stopping then s.epsStop f else (s.epsStop f).linkStop f
    | none => s
  | 2 => s.epsStop i
  | _ => s

/-- A UNIT_SET that cannot be decided on its unit (R656 to R658): no such unit, a job slot, or a RESTART of anything but a lane; or one that
needs the rights of function 1 (R218, R662). -/
def State.unitSetBad (s : State) (u op : Nat) (priv : Bool) : Option Nat :=
  let cls := u / 2 ^ 24
  if !unitExists u || cls == 7 || (op == 2 && cls != 1) then some Isaow.badArg
  else if !priv && (cls == 4 || (cls == 1 && s.ethLane (u % 2 ^ 24))) then some Isaow.denied
  else none

/-- A UNIT_SET begins to change its unit (R658): from now on the command waits for the moment that WAIT names. -/
def State.unitWait (s : State) (m u : Nat) (full : Bool) : State := s.setCmd m { s.cmdOf m with wait := some (u, full) }

/-- UNIT_SET, once its unit and the requester's rights have been checked (R658): CHECK_GEN, then the operation. -/
def State.unitSet (s : State) (m op : Nat) (f : Nat → Bool → State → State) : State :=
  s.skepRun m 0x0011 (fun p => leAt p 4 1 == op) fun p s =>
    let u := leAt p 0 4
    match s.unitSetBad u op (s.cmdOf m).priv with
    | some st => s.skepAnswer m st
    | none =>
      if bitAt (leAt p 5 1) 2 && leAt p 8 4 != (s.unitOf u).gen then s.unitAnswer m Isaow.staleGen u
      else f u (bitAt (leAt p 5 1) 0) s

/-- DATA_STOP refuses the start of a lane or a link (R685). -/
def State.stopRefuses (s : State) (u : Nat) : Bool := s.on R.TH_STATUS_DATA_STOP && (u / 2 ^ 24 == 1 || u / 2 ^ 24 == 2)

/-- The lanes of a link can form it (R221): F is a multiple of the width, the lanes run at one rate in groups of one FAMILY, and none of them carries
Ethernet (R136) or another link (assumption 114). -/
def State.linkForms (s : State) (f : Nat) : Bool :=
  f % s.linkWidth f == 0 && decide ((s.laneOf f).rate ≤ 2) && (s.linkLanes f).all fun l =>
    (s.laneOf l).rate == (s.laneOf f).rate && s.get (R.GRP_CFG_FAMILY (l / 4)) == s.get (R.GRP_CFG_FAMILY (f / 4)) && !s.ethLane l &&
      (s.linkAt l).all (· == f)

/-- The status that refuses an ON, and the CAUSE that its response shows (R658, R685). -/
def State.onRefusal (s : State) (u : Nat) : Option (Nat × Nat) :=
  let i := u % 2 ^ 24
  let e := s.unitOf u
  match u / 2 ^ 24 with
  | 2 =>
    if s.stopRefuses u then some (Isaow.fault, 19)
    else if s.linkForms i && (s.linkLanes i).all fun l => s.permit (laneUnit l) then none else some (Isaow.dependency, e.cause)
  | 3 => if s.epState i = 2 then none else some (Isaow.notReady, e.cause)
  | 4 => if s.on (R.LING_CH_STATE_LATCHED i) then some (Isaow.fault, e.cause) else none
  | _ => if s.stopRefuses u then some (Isaow.fault, 19) else none

/-- UNIT_SET_ON (R656, R658, R661, R685, R693). -/
def execUnitSetOn (m : Fin 1024) (s : State) : Host.Outcome State Fault Refusal :=
  .next <|
    let m := m.val
    s.unitSet m 1 fun u wait s =>
      let e := s.unitOf u
      match s.onRefusal u with
      | some (st, cause) => s.skepAnswer m st (s.unitResponse u e cause)
      | none =>
        match e.state with
        | .starting | .on => s.unitAnswer m Isaow.ok u
        | .stopping => (s.unitWait m u wait).setUnit u { e with deferred := true }
        | .off | .fault => (s.unitWait m u wait).unitBegin u

/-- A command that deferred the enable of this unit completes CANCELLED (R661). -/
def SkCmd.cancel (c : SkCmd) (u : Nat) (e : UnitEntry) : SkCmd :=
  match c.wait with
  | some (w, _) => if w = u ∧ c.seen.isNone ∧ leAt (reqParams c.req) 4 1 = 1 then { c with seen := some e, cancelled := true } else c
  | none => c

/-- A deferral ends (R661). -/
def State.deferEnd (s : State) (u : Nat) : State :=
  let e : UnitEntry := { s.unitOf u with deferred := false }
  let s := { s with skep := { s.skep with cmds := s.skep.cmds.map fun (x : Nat × SkCmd) => (x.1, x.2.cancel u e) } }
  s.setUnit u e

/-- UNIT_SET_OFF (R656, R658, R661). -/
def execUnitSetOff (m : Fin 1024) (s : State) : Host.Outcome State Fault Refusal :=
  .next <|
    let m := m.val
    s.unitSet m 0 fun u wait s =>
      let cascade := bitAt (leAt (reqParams (s.cmdOf m).req) 5 1) 1
      if s.offDeps u && !cascade then s.unitAnswer m Isaow.dependency u
      else
        let s := s.cascade u
        match s.unitState u with
        | .off => s.unitAnswer m Isaow.ok u
        | .stopping => (if (s.unitOf u).deferred then s.deferEnd u else s).unitAnswer m Isaow.ok u
        | _ => (s.unitWait m u wait).classStop u

/-- UNIT_SET_RESTART (R202, R656, R658, R693): a lane passes STOPPING and STARTING; a lane that is OFF stays so. -/
def execUnitSetRestart (m : Fin 1024) (s : State) : Host.Outcome State Fault Refusal :=
  .next <|
    let m := m.val
    s.unitSet m 2 fun u wait s =>
      let e := s.unitOf u
      if s.stopRefuses u then s.skepAnswer m Isaow.fault (s.unitResponse u e 19)
      else
        let t := (s.unitWait m u wait).laneRestart (u % 2 ^ 24) true
        if t.unitOf u = e then t.unitAnswer m Isaow.ok u else t

/-! ## SUMMARY (R664, R665) -/

/-- Units in the order of R665. -/
def summaryUnits : List Nat :=
  [(1, 32), (2, 32), (3, 2048), (4, 8), (5, 8), (6, 8), (7, 64), (8, 256), (9, 16)].flatMap fun (c, n) => (List.range n).map fun i => unitId c i

/-- The sections of a snapshot: each entry padded to its size. -/
def State.summary (s : State) (id : Nat) : List Byte :=
  let flag := fun (f : Fld) (k : Nat) => s.get f * 2 ^ k
  let pos := fun (x : Nat) => leBytes 8 x
  let header := leBytes 4 0x59554D53 ++ leBytes 2 1 ++ leBytes 2 0 ++ leBytes 4 28704 ++ leBytes 4 id ++ leBytes 8 s.timeNs ++
    leBytes 4 (s.get R.SWD_GSEQ_GSEQ)
  let device := leBytes 4 (s.reg R.SERIAL_LO).toNat ++ leBytes 4 (s.reg R.SERIAL_HI).toNat ++ leBytes 1 ((s.reg R.GREV).toNat % 256) ++
    leBytes 1 (s.get R.ISAOW_VER_MAJOR) ++ leBytes 1 (s.get R.ISAOW_VER_MINOR) ++ leBytes 1 s.skep.patchStatus ++
    leBytes 4 (s.get R.FW_VERSION_VERSION) ++ leBytes 4 (s.get R.SKEP_RESET_CNT_CNT) ++ leBytes 1 ((s.reg R.MEM_STATUS).toNat % 8)
  let time := leBytes 8 s.timeNs ++ leBytes 1 s.timeState ++ leBytes 1 (s.get R.TIME_STATUS_STEPPED) ++ leBytes 2 0 ++
    leBytes 4 (s.reg R.OFFSET).toNat
  let src := fun (n : Nat) => pos (s.srcPos n) ++ leBytes 4 (s.reg (R.SRC_RATE n)).toNat ++
    leBytes 1 (flag (R.SRC_STATUS_DIR n) 0 + flag (R.SRC_STATUS_STALE n) 1)
  let view := fun (v : Nat) => pos (s.viewPos v) ++ leBytes 4 0 ++ leBytes 1 (if s.unitOn (viewUnit v) then 4 else 0)
  let unit := fun (u : Nat) =>
    let e := s.unitOf u
    leBytes 4 e.gen ++ leBytes 1 (unitStateCode e.state + (s.permit u).toNat * 8 + s.observed u * 16) ++ leBytes 1 e.cause
  let slot := fun (j : Nat) => leBytes 1 (s.slotSt j) ++ leBytes 1 (s.get (R.SLOT_STATE_ACTIVE_VIEWS j)) ++
    leBytes 1 (s.get (R.SLOT_STATE_ARMED_VIEWS j)) ++ leBytes 1 (s.get (R.SLOT_LOAD_STATUS j)) ++
    leBytes 4 (s.get (R.SLOT_FLIGHT_IN_FLIGHT j)) ++ leBytes 4 (s.get (R.JOB_ID_LO_ID j)) ++ leBytes 4 (s.get (R.JOB_ID_HI_ID j)) ++
    leBytes 4 (s.get (R.SLOT_SEGS_SEGS j))
  let jv := fun (v : Nat) => leBytes 1 (s.get (R.VJ_ACTIVE_SLOT v) + flag (R.VJ_ACTIVE_VALID v) 7) ++
    leBytes 1 (s.get (R.VJ_ACTIVE_ARM_SLOT v) + flag (R.VJ_ACTIVE_ARM_VALID v) 7) ++ leBytes 1 (s.get (R.ROLL_STATUS_EPOCH v)) ++
    leBytes 1 (s.get (R.LC_STATE_STATE v)) ++ leBytes 4 0 ++ pos (s.get2 (R.SPLICE_LO_POS v) (R.SPLICE_HI_POS v)) ++
    leBytes 4 (s.get (R.CUT_CNT_CNT v)) ++ leBytes 4 (s.get (R.WRITE_SEQ_SEQ v))
  let pool := fun (p : Nat) => leBytes 1 (s.get (R.POOL_STATE_STATE p)) ++ leBytes 1 (s.get (R.POOL_CTRL_PSIZE p)) ++ leBytes 2 0 ++
    leBytes 4 (s.get (R.POOL_FREE_PAGES p)) ++ leBytes 4 (s.get (R.POOL_POSTED_PAGES p)) ++ leBytes 4 (s.get (R.FAULTED_CNT_PAGES p))
  let ring := fun (r : Nat) => leBytes 1 (flag (R.RING_CTRL_EN r) 0 + flag (R.RING_PTR_LAP r) 1 + flag (R.RING_HEAD_ARMED r) 2) ++
    leBytes 1 (s.get (R.RING_CTRL_POOL r)) ++ leBytes 2 (s.get (R.RING_HEAD_HEAD r)) ++ leBytes 2 (s.get (R.RING_PTR_TAIL r)) ++
    leBytes 2 (Tbl.get [] s.ringQ r).length ++ leBytes 4 (s.get (R.RING_RSEQ_RSEQ r))
  let mark := fun (k : Nat) => leBytes 1 (s.get (R.MARK_STATUS_STATE k)) ++ leBytes 1 (s.get (R.MARK_CFG_VIEW k)) ++
    leBytes 1 (flag (R.MARK_STATUS_MARK_LOST k) 0 + flag (R.MARK_STATUS_BLOCKING k) 1) ++ leBytes 1 0 ++
    pos (s.get2 (R.MARK_ROW_POS_LO_POS k) (R.MARK_ROW_POS_HI_POS k))
  let faults := leBytes 1 (s.get R.LING_STATUS_LATCHED) ++
    leBytes 1 (flag R.TH_STATUS_TRIP_SEEN 0 + flag R.TH_STATUS_DATA_STOP 1 + flag R.SKEP_STATUS_TABLE_REBUILT 2) ++
    leBytes 1 (s.get R.MEM_STATUS_STACK_FAIL) ++ leBytes 1 0 ++ leBytes 4 (s.get R.LOG_NEXT_SEQ) ++
    leBytes 4 (s.get R.STOP_TIME_LO_NS) ++ leBytes 4 (s.get R.STOP_TIME_HI_NS)
  let section_ := fun (n size : Nat) (f : Nat → List Byte) => (List.range n).flatMap fun i => padTo size (f i)
  padTo 64 header ++ padTo 64 device ++ padTo 32 time ++ section_ 8 16 src ++ section_ 8 16 view ++
    summaryUnits.flatMap (fun u => padTo 8 (unit u)) ++ section_ 64 32 slot ++ section_ 8 32 jv ++ section_ 64 16 pool ++
    section_ 256 16 ring ++ section_ 64 16 mark ++ padTo 64 faults

/-- SUMMARY (R664). -/
def execSummary (m : Fin 1024) (s : State) : Host.Outcome State Fault Refusal :=
  .next <|
    let m := m.val
    s.skepRun m 0x0002 (fun _ => true) fun p s =>
      let off := leAt p 0 4
      let len := leAt p 4 4
      let buf := leAt p 8 8
      let key := reqKey m
      let s := if off = 0 ∧ addrOk m buf then
          let id := (s.skep.snapId + 1) % 2 ^ 32
          { s with skep := { s.skep with snapId := id, snaps := Tbl.put (0, []) s.skep.snaps key (id, s.summary id) } }
        else s
      let (id, snap) := Tbl.get (0, []) s.skep.snaps key
      if !addrOk m buf || snap == [] || decide (snap.length < off) then s.skepAnswer m Isaow.badArg
      else
        let data := (snap.drop off).take (dataRoom m buf 12 len)
        s.skepData m buf (leBytes 4 28704 ++ leBytes 4 data.length ++ leBytes 4 id) 12 data

/-! ## What the device reports -/

/-- Words of registers as bytes. -/
def State.regBytes (s : State) (a n : Nat) : List Byte := (List.range n).flatMap fun i => leBytes 4 (s.reg (a + 4 * i)).toNat

/-- HEAD_INFO (R314, R663). -/
def execHeadInfo (m : Fin 1024) (s : State) : Host.Outcome State Fault Refusal :=
  .next <|
    let m := m.val
    s.skepRun m 0x0040 (fun _ => true) fun p s =>
      let e := leAt p 0 2
      if e < 2048 then s.skepAnswer m Isaow.ok (s.regBytes (R.EP_INFO e) 64) else s.skepAnswer m Isaow.badArg

/-- LIGHT_INFO (R352, R663). -/
def execLightInfo (m : Fin 1024) (s : State) : Host.Outcome State Fault Refusal :=
  .next <|
    let m := m.val
    s.skepRun m 0x0041 (fun _ => true) fun p s =>
      let n := leAt p 0 1
      let h := leAt p 1 1
      if 8 ≤ n ∨ 32 ≤ h then s.skepAnswer m Isaow.badArg
      else match (s.chainOf n).heads[h]? with
        | some x => s.skepAnswer m Isaow.ok ((s.regBytes (R.HEAD_INFO n h) 4 ++ padTo 2048 x.image).take (inlineMax m))
        | none => s.skepAnswer m (if s.unitOn (chainUnit n) then Isaow.badArg else Isaow.notReady)

/-- PATCH_INFO (R668). -/
def execPatchInfo (m : Fin 1024) (s : State) : Host.Outcome State Fault Refusal :=
  .next <|
    let m := m.val
    s.skepRun m 0x0061 (fun _ => true) fun _ s =>
      let k := s.skep
      let slots := ((List.range 64).filter fun i => bitAt k.patchSlots i).length
      s.skepAnswer m Isaow.ok (leBytes 1 k.patchStatus ++ leBytes 1 k.patchCopy ++ leBytes 1 slots ++ leBytes 1 0 ++ leBytes 4 k.patchSeq ++
        leBytes 4 (s.get R.MIN_SEQ_SEQ) ++ leBytes 4 (s.get R.FW_VERSION_VERSION) ++ leBytes 32 k.patchHash ++ leBytes 8 k.patchSlots)

/-- A self-test item can run (R663): patterns need free segments, PRBS31 a lane that is OFF. -/
def State.testCan (s : State) (i : Nat) : Bool :=
  match i with
  | 0 | 3 => true
  | 1 => s.on R.MEM_STATUS_MEM_READY && (s.on R.FREE_HIST_SEGS || s.on R.FREE_WORK_SEGS || s.on R.FREE_REF_SEGS)
  | 2 => (List.range 32).any fun l => s.unitOff (laneUnit l)
  | _ => false

/-- SELF_TEST (R662, R663, R693): the items pass the scheduler in rising order; those that cannot run are skipped. `failed` and `first` are
what the tests will find. -/
def execSelfTest (m : Fin 1024) (failed first : Nat) (s : State) : Host.Outcome State Fault Refusal :=
  .next <|
    let m := m.val
    s.skepRun m 0x0060 (fun _ => true) fun p s =>
      if s.skep.cmds.any fun e => e.2.test.isSome then s.skepAnswer m Isaow.busy
      else
        let s := s.setCmd m { s.cmdOf m with test := some { want := leAt p 0 4, failed := failed, first := first } }
        s.forEach 32 fun i s =>
          if !bitAt (leAt p 0 4) i then s else if s.testCan i then s.schedule (.test m i) else s.testItem m i false

/-! ## The SMBus sideband (R650) -/

/-- A transaction reaches the sideband: it answers only while Skep runs; a write whose PEC is wrong is counted and ignored. -/
def State.smbWrite (s : State) (pecOk : Bool) (f : State → State) : State :=
  if !s.skepRuns then s else if pecOk then f s else s.bumpSat R.SMB_PEC_ERR_CNT

def State.smbTo (s : State) (off : Nat) : State := { s with skep := { s.skep with smbOffset := off % 65536 } }

/-- SMB_SET_OFFSET (R650): a Write Word sets the offset; a Send Byte rings mailbox 20. -/
def execSmbSetOffset (c : SmbCmd) (pecOk : Bool) (s : State) : Host.Outcome State Fault Refusal :=
  .next (s.smbWrite pecOk fun s =>
    match c with
    | .offset v => s.smbTo v.toNat
    | .ring => s.boxRing 20)

/-- SMB_BLOCK_WRITE (R647, R650): bytes of mailbox 20, unless it is BUSY. -/
def execSmbBlockWrite (bytes : List Byte) (pecOk : Bool) (s : State) : Host.Outcome State Fault Refusal :=
  .next (s.smbWrite pecOk fun s =>
    if bytes = [] ∨ 32 < bytes.length then s
    else
      let off := s.skep.smbOffset
      let s := if s.on (R.MB_STATUS_BUSY 20) then s.raise (R.MB_STATUS_WR_BUSY 20) else s.setBox 20 off bytes
      s.smbTo (off + bytes.length))

/-- SMB_BLOCK_READ (R650). -/
def execSmbBlockRead (n : Fin 33) (s : State) : Host.Outcome State Fault Refusal :=
  .next <|
    if !s.skepRuns || n.val == 0 then s
    else
      let off := s.skep.smbOffset
      (s.emit (.smb (s.boxBytes 20 off n.val))).smbTo (off + n.val)

/-- SMB_READ_STATUS (R650). -/
def execSmbReadStatus (s : State) : Host.Outcome State Fault Refusal :=
  .next <|
    if !s.skepRuns then s
    else s.emit (.smb (leBytes 1 (s.get (R.MB_STATUS_BUSY 20) + 2 * s.get (R.MB_STATUS_DONE 20))))

/-! ## Disagreeing paths (R659) -/

/-- The time for which a unit has been observed DOWN goes on or ends; after more than 10 ms a unit that is ON goes to FAULT. -/
def State.pathCheck (s : State) (u : Nat) : State :=
  let e := s.unitOf u
  if s.observed u = 2 then
    let n := min (2 ^ 32 - 1) (e.downMs + 1)
    let s := s.setUnit u { e with downMs := n }
    if e.state = .on ∧ 10 < n then
      if u / 2 ^ 24 = 3 then s.epUnitFault (u % 2 ^ 24) (s.get (R.EP_STATUS_CAUSE (u % 2 ^ 24))) else (s.unitTo u .fault 7).classGate u
    else s
  else s.setUnit u { e with downMs := 0 }

/-- Units whose check changes anything: those with an entry, and those observed DOWN. -/
def State.pathUnits (s : State) : List Nat := summaryUnits.filter fun u => s.units.any (·.1 == u) || s.observed u == 2

/-- UNIT_PATH_CHECK (R659, R661): every unit is compared with what is observed. `moving`: units found MOVING more than 1 µs
after their gate took effect. -/
def execUnitPathCheck (moving : List Nat) (s : State) : Host.Outcome State Fault Refusal :=
  .next <|
    if !s.skepRuns then s
    else
      let s := s.forList s.pathUnits fun u s => s.pathCheck u
      s.forList moving fun u s =>
        if unitExists u && !s.permit u && s.unitState u != .fault then (s.unitFault u 8).classGate u else s

end Sys2Proof.Machine
end

