-- ==== Sys2Proof/Machine/Thermal.lean ====
section
/-!
DEFINITION. The thermal and power unit (chapter 19).
-/
set_option Elab.async false
namespace Sys2Proof.Machine

/-- The unit publishes (R695): sensor and kind; some kinds also set the THERMAL interrupt source (R737). -/
def thermParam (sensor : Nat) (max : Int) (kind : Nat) : Nat := sensor + unsigned 8 (max / 10) * 16 + kind * 2 ^ 12 + 0xE * 2 ^ 20
def State.publishTherm (s : State) (sensor kind : Nat) : State :=
  let s := s.publish R.EVT_THERM_SEL 0x32 (thermParam sensor (s.getInt R.TH_MAX_TEMP) kind)
  if [0, 2, 4, 5, 6, 7].contains kind then s.girqBoth R.GIRQ_STATUS_THERMAL else s

/-! ## Data-path stop (R683 to R685) -/

/-- The lanes that a data-path stop takes (R683): those of Talmon links whose unit is STARTING or ON, but for lanes of an enabled Ethernet port. -/
def State.stopLanes (s : State) : List Nat :=
  (List.range 32).filter fun l => (s.linkAt l).isSome && !s.ethLane l && s.permit (laneUnit l)
def State.stopLinks (s : State) : List Nat := (List.range 32).filter fun f => s.permit (linkUnit f)

/-- What the always-on domain latches at a data-path stop: the units it stops, station time and the source positions (R683, R684). -/
def State.stopHold (s : State) (units : List Nat) : State :=
  { s with
    therm := { s.therm with stopped := units }
    nvm := { s.nvm with heldStop := some (s.timeNs, s.logFlags, (List.range 8).map s.srcPos, s.get R.STOP_CNT_CNT) } }

/-- The data-path stop: links and lanes go to FAULT, the contexts in the cache are written back (R387), open repeats are TRUNCATED and
view runs end; station time and the source positions are
latched in the always-on domain (R683, R684). -/
def State.dataStop (s : State) : State :=
  if s.on R.TH_STATUS_DATA_STOP then s
  else
    let links := s.stopLinks
    let lanes := s.stopLanes
    let s := (s.raise R.TH_STATUS_DATA_STOP).bump R.STOP_CNT_CNT
    let s := (s.set2 R.STOP_TIME_LO_NS R.STOP_TIME_HI_NS s.timeNs).stopHold (lanes.map laneUnit ++ links.map linkUnit)
    let s := s.raise R.TH_STATUS_LOG_PENDING
    let s := s.forList links fun f s => (s.unitTo (linkUnit f) .fault 19).linkDown f
    let s := s.forList lanes fun l s => ((s.unitTo (laneUnit l) .fault 19).laneGate l).laneSettle l
    let s := s.ctxFlush
    let s := s.forEach 8 fun v s =>
      let s := s.segRunEnd v
      let x := s.plaitOf v
      if x.begun then s.setPlait v { x with closing := true } else s
    s.publishTherm (s.get R.TH_MAX_SENSOR) 4

/-- The lighting latch (R687): every chain is latched with its unit in FAULT and CAUSE THERMAL, and an event goes to each of the channels 48 to 55. -/
def State.lightLatch (s : State) : State :=
  if s.on R.TH_STATUS_LIGHT_LATCH then s
  else
    let s := s.raise R.TH_STATUS_LIGHT_LATCH
    let s := s.forEach 8 fun n s => (if s.on (R.LING_CH_STATE_LATCHED n) then s else s.chainLatchFault n 19).unitFault (chainUnit n) 19
    let sensor := s.get R.TH_MAX_SENSOR
    let param := thermParam sensor (s.getInt R.TH_MAX_TEMP) 5
    let s := s.forEach 8 fun k s => s.requestPlain (48 + k) 0x32 param
    (s.publishTherm sensor 5).log 4 (leBytes 4 0xFF ++ leBytes 4 (s.reg R.TH_MAX).toNat)

/-! ## Sampling (R676 to R682) -/

/-- A sensor's sample (R677): outside the range for the third time in a row, the sensor is invalid. -/
def State.sensor (s : State) (i : Nat) (t : Int) : State :=
  let n := if t < -600 ∨ 1500 < t then Tbl.get 0 s.therm.bad i + 1 else 0
  let s := { s with therm := { s.therm with bad := Tbl.put 0 s.therm.bad i n } }
  let s := (s.setInt (R.SENSOR_TEMP i) t).setFlag (R.SENSOR_VALID i) (decide (n < 3))
  if n = 3 then (s.raise R.TH_STATUS_SENS_FAIL).publishTherm i 6 else s

/-- Valid sensors. -/
def State.sensors (s : State) : List Nat := (List.range 16).filter fun i => s.on (R.SENSOR_VALID i)

/-- The hottest valid sensor: the lowest-numbered of equals. -/
def State.hottest (s : State) : Option Nat :=
  s.sensors.foldl (fun m i => match m with
    | none => some i
    | some j => if s.getInt (R.SENSOR_TEMP j) < s.getInt (R.SENSOR_TEMP i) then some i else some j) none

/-- The thresholds of R679, in 0.1 °C. -/
def State.thresholds (s : State) : List Int :=
  [s.getInt R.TH_LIMIT_A_WARN, s.getInt R.TH_LIMIT_A_THROTTLE, s.getInt R.TH_LIMIT_B_DATA_STOP, s.getInt R.TH_LIMIT_B_LIGHT_LATCH,
   s.getInt R.TH_LIMIT_C_TRIP]

/-- Comparison is throttled, or no longer (R532, R682). -/
def State.throttle (s : State) (on : Bool) : State :=
  let s := (s.setFlag R.TH_STATUS_THROTTLE on).setFlag R.CMP_STATUS_THROTTLED on
  let s := s.set R.CMP_CAP_CAP (if on then 192 else 384)
  let s := if on then s.bump R.THROTTLE_CNT_CNT else s
  (s.publishTherm (s.get R.TH_MAX_SENSOR) (if on then 2 else 3)).publishCmp 0 0 (if on then 3 else 4)

/-- The actions of the thresholds reached or left, in the order of R679 (R680, R686). -/
def State.thermAct (s : State) : State :=
  let m := s.getInt R.TH_MAX_TEMP
  let hyst := s.getInt R.TH_LIMIT_C_HYST
  let hot := s.get R.TH_MAX_SENSOR
  let s :=
    if !s.on R.TH_STATUS_WARN && decide (s.getInt R.TH_LIMIT_A_WARN ≤ m) then (s.raise R.TH_STATUS_WARN).publishTherm hot 0
    else if s.on R.TH_STATUS_WARN && decide (m + hyst ≤ s.getInt R.TH_LIMIT_A_WARN) then (s.clear R.TH_STATUS_WARN).publishTherm hot 1
    else s
  let s :=
    if !s.on R.TH_STATUS_THROTTLE && decide (s.getInt R.TH_LIMIT_A_THROTTLE ≤ m) then s.throttle true
    else if s.on R.TH_STATUS_THROTTLE && decide (m + hyst ≤ s.getInt R.TH_LIMIT_A_THROTTLE) then s.throttle false
    else s
  let s := if s.getInt R.TH_LIMIT_B_DATA_STOP ≤ m ∨ s.therm.held then s.dataStop else s
  if s.getInt R.TH_LIMIT_B_LIGHT_LATCH ≤ m then s.lightLatch else s

/-- SENSOR_SAMPLE (R676, R677, R680): the sixteen readings, in 0.1 °C. WIN_OK follows TH_MAX (R715; DEDUCED, assumption 60). -/
def execSensorSample (temps : List Int) (s : State) : Host.Outcome State Fault Refusal :=
  .next <|
    let s := s.forEach 16 fun i s => s.sensor i (temps.getD i 0)
    let s := match s.hottest with
      | some i => (s.setInt R.TH_MAX_TEMP (s.getInt (R.SENSOR_TEMP i))).set R.TH_MAX_SENSOR i
      | none => s
    let s := s.setFlag R.NVM_STATUS_WIN_OK s.writeWindow
    let near := s.sensors.any fun i => (1050 :: s.thresholds).any fun t => decide ((t - s.getInt (R.SENSOR_TEMP i)).natAbs ≤ 80)
    let s := s.setFlag R.TH_STATUS_FAST near
    let s := { s with therm := { s.therm with held := decide (s.sensors.length < 8) } }
    s.thermAct

/-- STACK_TEMP_READ (R678): the stacks' temperatures in °C. -/
def execStackTempRead (t0 t1 : Int) (s : State) : Host.Outcome State Fault Refusal :=
  .next <|
    let s := (s.setInt R.STACK_TEMP_STACK_0 t0).setInt R.STACK_TEMP_STACK_1 t1
    let s := s.setFlag R.TH_STATUS_HBM_HOT (decide (85 < max t0 t1))
    let s := { s with therm := { s.therm with stackHot := decide ((s.get R.STACK_TEMP_STACK_STOP : Int) ≤ max t0 t1) } }
    if s.therm.stackHot then s.dataStop else s

/-- THERM_TRIP (R688). -/
def execThermTrip (s : State) : Host.Outcome State Fault Refusal :=
  .next <|
    let t := { s with therm := { s.therm with tripFlag := true, tripping := true } }
    if s.therm.tripping then t else t.emit .thermTrip

/-! ## Power (R690, R691, R694) -/

/-- The PEC of SMBus: CRC-8 with the polynomial x⁸ + x² + x + 1 (assumption 148). -/
def pec8Bit : Nat → Nat → Nat
  | 0, c => c
  | n + 1, c => pec8Bit n (if 128 ≤ c then (c * 2 % 256) ^^^ 7 else c * 2)
def pec8 (bs : List Nat) : Nat := bs.foldl (fun c b => pec8Bit 8 (c ^^^ b)) 0

/-- The data of a rail's answer to a read: `n` bytes and the PEC over the whole transaction; none where it is not answered or the PEC is wrong
(R690). -/
def Rail.read (r : Rail) (cmd n : Nat) (bs : List Byte) : Option Nat :=
  if bs.length = n + 1 ∧ pec8 ([r.addr * 2, cmd, r.addr * 2 + 1] ++ (bs.take n).map BitVec.toNat) = leNat (bs.drop n) then some (leNat (bs.take n)) else none

/-- A number of thousandths of m × 2^e, rounded down, and 0 for a negative one. -/
def milli (m e : Int) : Nat := if 0 ≤ e then (m * 2 ^ e.toNat * 1000).toNat else (m * 1000 / 2 ^ (-e).toNat).toNat

/-- Mantissa and exponent of a LINEAR11 word, and the exponent of VOUT_MODE in linear format (R690). -/
def linear11 (x : Nat) : Int × Int := (signed 11 (x % 2 ^ 11), signed 5 (x / 2 ^ 11))
def voutExp (mode : Nat) : Option Int := if mode / 32 = 0 then some (signed 5 (mode % 32)) else none

/-- A rail's output voltage in mV (LINEAR16 under VOUT_MODE). -/
def Rail.volts (r : Rail) (x : RailReply) : Option Nat :=
  ((r.read 0x20 1 x.mode).bind voutExp).bind fun e => (r.read 0x8B 2 x.vout).map fun v => milli v e

/-- A rail's power in mW: READ_POUT, or READ_VOUT × READ_IOUT where that is not answered (R690). -/
def Rail.power (r : Rail) (x : RailReply) : Option Nat :=
  match r.read 0x96 2 x.pout with
  | some w => some (milli (linear11 w).1 (linear11 w).2)
  | none =>
    match (r.read 0x20 1 x.mode).bind voutExp, r.read 0x8B 2 x.vout, r.read 0x8C 2 x.iout with
    | some e, some v, some i => some (milli (v * (linear11 i).1) (e + (linear11 i).2))
    | _, _, _ => none

/-- The transactions of a rail's poll: PAGE, READ_POUT, and, where they serve, VOUT_MODE, READ_VOUT and READ_IOUT. -/
def Rail.asks (r : Rail) (x : RailReply) : List Out :=
  let fall := (r.read 0x96 2 x.pout).isNone
  ([(0x00, [BitVec.ofNat 8 r.page]), (0x96, [])] ++ (if fall || r.code == 0 then [(0x20, []), (0x8B, [])] else []) ++
    (if fall then [(0x8C, [])] else [])).map fun (c, d) => .pmbus r.addr r.page c d

/-- A rail's poll (R690): its last power stays where it does not answer. -/
def Rail.poll (r : Rail) (x : RailReply) : Rail :=
  match r.power x with
  | some mw => { r with last := mw, fails := 0 }
  | none => { r with fails := r.fails + 1 }

/-- The AVS target for a temperature in 0.1 °C (R691, R707). -/
def avsTarget (l : List Nat) (t : Int) : Nat := max 720 (min 780 (l.getD (min 16 ((t + 400) / 100).toNat) 0))

/-- VDD_CORE moves by a step of 5 mV toward its target (R691). -/
def vcoreStep (now target : Nat) : Nat := max 720 (min 780 (if now < target then min target (now + 5) else max target (now - 5)))

/-- A voltage in mV as a LINEAR16 word of an exponent, to the nearest. -/
def linear16 (mv : Nat) (e : Int) : Nat := if 0 ≤ e then (mv + 500 * 2 ^ e.toNat) / (1000 * 2 ^ e.toNat) else (mv * 2 ^ (-e).toNat + 500) / 1000

/-- VDD_CORE takes a step toward the target of the AVS table (R691), while its rail answers. -/
def State.avsStep (s : State) (l : List Rail) (replies : List RailReply) : State :=
  if s.therm.avs = [] then s
  else
    let target := avsTarget s.therm.avs (s.getInt R.TH_MAX_TEMP)
    let s := s.set R.VCORE_TARGET target
    match l.zipIdx.find? (·.1.code == 0) with
    | some (r, i) =>
      match (r.read 0x20 1 (replies.getD i {}).mode).bind voutExp with
      | some e =>
        if r.fails < 3 ∧ s.get R.VCORE_MV ≠ target then
          s.emit (.pmbus r.addr r.page 0x21 (leBytes 2 (linear16 (vcoreStep (s.get R.VCORE_MV) target) e)))
        else s
      | none => s
    | none => s

/-- PMBUS_POLL (R690, R691): `replies`: what each rail in turn answers. VCORE shows READ_VOUT of the VDD_CORE rail. -/
def execPmbusPoll (replies : List RailReply) (s : State) : Host.Outcome State Fault Refusal :=
  .next <|
    if !s.skepRuns then s
    else
      let old := s.therm.rails
      let s := s.forList old.zipIdx fun (r, i) s => s.forList (r.asks (replies.getD i {})) fun o s => s.emit o
      let l := old.zipIdx.map fun (x : Rail × Nat) => x.1.poll (replies.getD x.2 {})
      let s := { s with therm := { s.therm with rails := l } }
      let s := s.forList l fun r s => if r.fails = 3 then (s.raise R.TH_STATUS_PMBUS_ERR).log 13 (leBytes 4 r.code) else s
      let s := s.set R.PWR_MEASURED_MW (min (2 ^ 18 - 1) (l.map (·.last)).sum)
      let s := match l.zipIdx.find? (·.1.code == 0) with
        | some (r, i) => match r.volts (replies.getD i {}) with
          | some mv => s.set R.VCORE_MV mv
          | none => s
        | none => s
      s.avsStep l replies

/-- OVER_BUDGET (R694): MEASURED has exceeded BUDGET for 100 ms. -/
def execOverBudget (s : State) : Host.Outcome State Fault Refusal :=
  .next <|
    if s.get R.PWR_BUDGET_MW < s.get R.PWR_MEASURED_MW then
      ((s.raise R.TH_STATUS_OVER_BUDGET).publishTherm (s.get R.TH_MAX_SENSOR) 7).log 14
        (leBytes 4 (s.get R.PWR_BUDGET_MW) ++ leBytes 4 (s.get R.PWR_MEASURED_MW))
    else s

/-! ## Commands (R663, R679, R685, R692) -/

/-- The response of THERMAL (R663). -/
def State.thermResp (s : State) : List Byte :=
  (List.range 16).flatMap (fun i => leBytes 2 (s.get (R.SENSOR_TEMP i))) ++ s.thresholds.flatMap (fun t => leBytes 2 (unsigned 16 t)) ++
    leBytes 1 ((s.reg R.TH_STATUS).toNat % 32)

/-- THERMAL_READ (R663). -/
def execThermalRead (m : Fin 1024) (s : State) : Host.Outcome State Fault Refusal :=
  .next (s.skepRun m.val 0x0050 (fun p => leAt p 0 1 == 0) fun _ s => s.skepAnswer m.val Isaow.ok s.thermResp)

/-- THERMAL_SET (R679): five thresholds, from the next sample on. -/
def execThermalSet (m : Fin 1024) (s : State) : Host.Outcome State Fault Refusal :=
  .next (s.skepRun m.val 0x0050 (fun p => leAt p 0 1 == 1) fun p s =>
    let l := thresholdsAt p 2
    if thresholdsOk l then let s := s.setThresholds l; s.skepAnswer m.val Isaow.ok s.thermResp
    else s.skepAnswer m.val Isaow.badArg)

/-- A unit that the data-path stop has put into FAULT starts again, through the scheduler (R685). -/
def State.stopRestart (s : State) (u : Nat) : State :=
  let e := s.unitOf u
  if e.state = .fault ∧ e.cause = 19 then s.unitBegin u else s

/-- THERMAL_RESTART (R677, R685): the data path restarts once the die and the stacks have cooled and at least 8 sensors are valid; the units that the stop took start again, lanes
first. -/
def execThermalRestart (m : Fin 1024) (s : State) : Host.Outcome State Fault Refusal :=
  .next (s.skepRun m.val 0x0050 (fun p => leAt p 0 1 == 2) fun _ s =>
    if (s.sensors.any fun i => decide (950 < s.getInt (R.SENSOR_TEMP i))) || s.therm.stackHot || s.therm.held then s.skepAnswer m.val Isaow.badArg
    else
      let l := s.therm.stopped.filter (· / 2 ^ 24 == 1) ++ s.therm.stopped.filter (· / 2 ^ 24 != 1)
      let s := if s.on R.TH_STATUS_DATA_STOP then
          let s := ({ s with therm := { s.therm with stopped := [] } }).clear R.TH_STATUS_DATA_STOP
          (s.publishTherm (s.get R.TH_MAX_SENSOR) 8).forList l fun u s => s.stopRestart u
        else s
      s.skepAnswer m.val Isaow.ok s.thermResp)

/-- The response of POWER_BUDGET (R663). -/
def State.powerResp (s : State) : List Byte :=
  leBytes 4 (s.get R.PWR_BUDGET_MW) ++ leBytes 4 s.forecast ++ leBytes 4 (s.get R.PWR_MEASURED_MW) ++ leBytes 4 s.skep.waiting.length

/-- POWER_BUDGET_READ (R663). -/
def execPowerBudgetRead (m : Fin 1024) (s : State) : Host.Outcome State Fault Refusal :=
  .next (s.skepRun m.val 0x0051 (fun p => leAt p 0 1 == 0) fun _ s => s.skepAnswer m.val Isaow.ok s.powerResp)

/-- POWER_BUDGET_SET (R692). -/
def execPowerBudgetSet (m : Fin 1024) (s : State) : Host.Outcome State Fault Refusal :=
  .next (s.skepRun m.val 0x0051 (fun p => leAt p 0 1 == 1) fun p s =>
    let b := leAt p 4 4
    if 50000 ≤ b ∧ b ≤ 140000 then let s := s.set R.PWR_BUDGET_MW b; s.skepAnswer m.val Isaow.ok s.powerResp
    else s.skepAnswer m.val Isaow.badArg)

end Sys2Proof.Machine
end

