-- ==== Sys2Proof/Machine/Patch.lean ====
section
/-!
DEFINITION. Patch images (R666 to R668, R724): SHA-256, the checks of a copy, and the choice between two.
-/
set_option Elab.async false
namespace Sys2Proof.Machine

/-! ## SHA-256, by FIPS 180-4, which R667 names -/

/-- The prime numbers up to the 64th. -/
def shaPrimes : List Nat := (List.range 312).filter fun n => 2 ≤ n && (List.range n).all fun d => d < 2 || n % d != 0

/-- The first 32 fractional bits of the `e`-th root of a number below 2¹², as the standard takes them from roots of primes. -/
def rootBits (e p : Nat) : Nat := bisect (fun r => decide (r ^ e ≤ p * 2 ^ (32 * e))) 40 0 % 2 ^ 32

/-- The round constants, from the cube roots of all these primes, and the initial hash, from the square roots of the first eight. -/
def shaK : List Nat := shaPrimes.map (rootBits 3)
def shaInit : List Nat := (shaPrimes.take 8).map (rootBits 2)

def rotr32 (x n : Nat) : Nat := x / 2 ^ n + x % 2 ^ n * 2 ^ (32 - n)
def xor3 (a b c : Nat) : Nat := a ^^^ b ^^^ c

/-- The 64 words of a block's schedule, newest first. -/
def shaSched : Nat → List Nat → List Nat
  | 0, w => w
  | k + 1, w =>
    let x := w.getD 14 0
    let y := w.getD 1 0
    let s0 := xor3 (rotr32 x 7) (rotr32 x 18) (x / 2 ^ 3)
    let s1 := xor3 (rotr32 y 17) (rotr32 y 19) (y / 2 ^ 10)
    shaSched k ((w.getD 15 0 + s0 + w.getD 6 0 + s1) % 2 ^ 32 :: w)

/-- One round, on the eight working variables. -/
def shaRound (v : List Nat) (kw : Nat × Nat) : List Nat :=
  match v with
  | [a, b, c, d, e, f, g, h] =>
    let t1 := h + xor3 (rotr32 e 6) (rotr32 e 11) (rotr32 e 25) + ((e &&& f) ^^^ ((0xFFFFFFFF ^^^ e) &&& g)) + kw.1 + kw.2
    let t2 := xor3 (rotr32 a 2) (rotr32 a 13) (rotr32 a 22) + xor3 (a &&& b) (a &&& c) (b &&& c)
    [(t1 + t2) % 2 ^ 32, a, b, c, (d + t1) % 2 ^ 32, e, f, g]
  | _ => v

/-- The hash state after a block of 64 bytes. -/
def shaBlock (h : List Nat) (b : List Byte) : List Nat :=
  let words := (List.range 16).map fun i => leNat ((b.drop (4 * i)).take 4).reverse
  let v := (shaK.zip (shaSched 48 words.reverse).reverse).foldl shaRound h
  (h.zip v).map fun (x, y) => (x + y) % 2 ^ 32

def shaBlocks : Nat → List Nat → List Byte → List Nat
  | 0, h, _ => h
  | n + 1, h, bs => shaBlocks n (shaBlock h (bs.take 64)) (bs.drop 64)

/-- SHA-256 of a list of bytes. -/
def sha256 (bs : List Byte) : List Byte :=
  let zeros := (119 - bs.length % 64) % 64
  let m := bs ++ [0x80] ++ List.replicate zeros 0 ++ (leBytes 8 (8 * bs.length)).reverse
  (shaBlocks (m.length / 64) shaInit m).flatMap fun x => (leBytes 4 x).reverse

/-! ## Copies (R666, R667) -/

def patchCount (c : List Byte) : Nat := leAt c 6 2
def patchSeq (c : List Byte) : Nat := leAt c 12 4
def patchLen (c : List Byte) : Nat := leAt c 20 4
def patchCode (c : List Byte) : Nat := leAt c 24 4

/-- Check 1 of R667. -/
def patchFormOk (c : List Byte) : Bool :=
  leAt c 0 4 == 0x4B504B53 && leAt c 4 1 == 1 && decide (1 ≤ patchCount c ∧ patchCount c ≤ 64) &&
    decide (4 ≤ patchCode c ∧ patchCode c ≤ 131072 ∧ patchCode c % 4 = 0) && patchLen c == 128 + 16 * patchCount c + patchCode c

/-- SLOT of each entry, and check 5 of R667. -/
def patchSlotsOf (c : List Byte) : List Nat := (List.range (patchCount c)).map fun k => leAt c (64 + 16 * k) 1
def patchEntriesOk (c : List Byte) : Bool :=
  let l := patchSlotsOf c
  l.eraseDups.length == l.length && l.all (fun x => decide (x < 64)) &&
    (List.range (patchCount c)).all fun k => decide (leAt c (72 + 16 * k) 4 < patchCode c)

/-- STATUS of a copy (R667, R668, R724): 1 when it is valid. -/
def patchCheck (minSeq : Nat) (c : List Byte) : Nat :=
  if !patchFormOk c then 2
  else if leAt c 8 4 ≠ Config.romId.toNat then 3
  else if !Config.sigOk (c.take (patchLen c)) then 4
  else if patchSeq c < minSeq then 5
  else if !patchEntriesOk c then 2
  else 1

/-- A header that reads all 0xFF. -/
def patchBlank (c : List Byte) : Bool := (c.take 64).all (· == 0xFF)

/-- No patch: Skep runs from ROM alone (R667, R724). -/
def State.patchNone (s : State) (status : Nat) : State :=
  let s := { s with skep := { s.skep with
    patchStatus := status, patchCopy := 0xFF, patchSlots := 0, patchSeq := 0, patchFw := 0, patchHash := 0, patchCode := [], patchMap := [] } }
  ((s.clear R.SKEP_STATUS_PATCHED).set R.FW_VERSION_VERSION Config.romVersion.toNat).set R.ISAOW_VER_MINOR 0

/-- A valid copy is loaded (R666 to R668): its code, what its entries redirect, and what PATCH_INFO tells; the minor that it offers is its own (R652): a free value (assumption 1). -/
def State.patchLoad (s : State) (copy : Nat) (c : List Byte) (bad : Option Nat) : State :=
  let s := { s with skep := { s.skep with
    patchStatus := 1, patchCopy := copy, patchSlots := ((patchSlotsOf c).map (2 ^ ·)).sum, patchSeq := patchSeq c, patchFw := leAt c 16 4
    patchCode := (c.drop (64 + 16 * patchCount c)).take (patchCode c)
    patchMap := (List.range (patchCount c)).map fun k => (leAt c (64 + 16 * k) 1, leAt c (68 + 16 * k) 4, leAt c (72 + 16 * k) 4)
    patchHash := leNat (sha256 (c.take (patchLen c))) } }
  let s := ((s.raise R.SKEP_STATUS_PATCHED).set R.FW_VERSION_VERSION (leAt c 16 4)).setFree R.ISAOW_VER_MINOR
  if bitAt (leAt c 5 1) 0 && decide (s.ctrValue ctrMinSeq < patchSeq c) then (s.ctrWrite ctrMinSeq (patchSeq c) bad).ctrShow else s

/-- The quad-SPI reads of a search (R724): the JEDEC ID, both headers, and each copy that is checked past its form, whole. -/
def patchReads (f : Flash) (a b : Nat) : List Out :=
  let first := decide (patchSeq f.a < patchSeq f.b)
  let whole := fun (st base : Nat) (c : List Byte) => if st = 2 ∧ !patchFormOk c then [] else [Out.spiRead 0x6B base (patchLen c)]
  let ra := whole a 0 f.a
  let rb := whole b 0x40000 f.b
  .spiRead 0x9F 0 3 ::
    (if f.id = 0 ∨ f.id = 0xFFFFFF then []
     else [.spiRead 0x6B 0 64, .spiRead 0x6B 0x40000 64] ++
      (if patchBlank f.a ∧ patchBlank f.b then []
       else if first then rb ++ (if b = 1 then [] else ra) else ra ++ (if a = 1 then [] else rb)))

/-- Skep looks for a patch (R667, R724): the copy with the higher SEQ first, copy A on a tie, then the other. What a stage that ends with FLASH_ERR had
read by then is not told (assumption 74). -/
def State.patchFind (s : State) (f : Flash) (bad : Option Nat) : State :=
  let s := s.set R.QSPI_ID_ID f.id
  let min := s.ctrValue ctrMinSeq
  let a := patchCheck min f.a
  let b := patchCheck min f.b
  let s := s.forList (if f.slow then [.spiRead 0x9F 0 3] else patchReads f a b) fun o s => s.emit o
  if f.slow then s.patchNone 6
  else if f.id = 0 ∨ f.id = 0xFFFFFF ∨ (patchBlank f.a ∧ patchBlank f.b) then s.patchNone 0
  else if patchSeq f.a < patchSeq f.b then
    (if b = 1 then s.patchLoad 1 f.b bad else if a = 1 then s.patchLoad 0 f.a bad else s.patchNone a)
  else (if a = 1 then s.patchLoad 0 f.a bad else if b = 1 then s.patchLoad 1 f.b bad else s.patchNone a)

end Sys2Proof.Machine
end

