-- ==== Sys2Proof/Machine/Pcie.lean ====
section
/-!
DEFINITION. The PCI Express endpoint (chapter 16): errors, the peer window, configuration requests, completions of the device's own
requests, the resets of the port, and power management.
-/
set_option Elab.async false
namespace Sys2Proof.Machine

/-! ## Peer window (R598 to R602) -/

/-- The enabled active descriptor that covers a byte of BAR 2, and the byte's address in device memory. -/
def State.winMap (s : State) (x : Nat) : Option (Nat × Nat) :=
  let u := x / 0x200000
  ((List.range 16).find? fun i =>
    s.on (R.ACT_WIN_CFG_EN i) && decide (s.get (R.ACT_WIN_BAR_BASE i) ≤ u ∧ u < s.get (R.ACT_WIN_BAR_BASE i) + s.get (R.ACT_WIN_CFG_SIZE i))).map
    fun i => (i, s.get (R.ACT_WIN_TGT_SEG i) * 65536 + x - s.get (R.ACT_WIN_BAR_BASE i) * 0x200000)

/-- Bytes of BAR 2 by the size in force (R595). -/
def State.bar2Bytes (s : State) : Nat := 2 ^ (s.port.bar2 + 20)

/-- A request of `len` bytes at `off` reaches the peer window: function 0 is not in D3hot (R597), and BAR 2 reaches so far (R595). -/
def State.winReached (s : State) (off len : Nat) : Bool := s.memAccess 0 && decide (off + len ≤ s.bar2Bytes)

/-- A request is cut where it crosses a 2 MiB boundary: offset and length of each part. -/
def winParts (off len : Nat) : List (Nat × Nat) :=
  (List.range ((off + len + 0x1FFFFF) / 0x200000 - off / 0x200000)).map fun i =>
    let a := max off ((off / 0x200000 + i) * 0x200000)
    (a, min (off + len) ((off / 0x200000 + i + 1) * 0x200000) - a)

/-- A case of R602. -/
def State.winCase (s : State) (off desc cause : Nat) (write : Bool) : State :=
  let s := s.bumpSat R.WIN_DROP_CNT_CNT
  let s := s.set2 R.WIN_ERR_ADDR_LO_OFFSET R.WIN_ERR_ADDR_HI_OFFSET off
  let s := (s.set R.WIN_ERR_INFO_DESC desc).set R.WIN_ERR_INFO_CAUSE cause
  let s := (s.setFlag R.WIN_ERR_INFO_WRITE write).raise R.WIN_ERR_INFO_VALID
  (s.log 12 (leBytes 8 off ++ leBytes 4 (s.reg R.WIN_ERR_INFO).toNat)).girqBoth R.GIRQ_STATUS_PCIE

/-- Why a request cannot be served: descriptor and CAUSE, or the parts as (address, length) in device memory. -/
def State.winCheck (s : State) (off len : Nat) (write : Bool) : Except (Nat × Nat) (List (Nat × Nat)) :=
  let parts := (winParts off len).map fun (a, n) => (s.winMap a, n)
  if parts.any fun p => p.1.isNone then .error (0, 1)
  else
    let l := parts.filterMap fun p => p.1.map fun (i, d) => (i, d, p.2)
    match if write then l.find? fun (i, _, _) => !s.on (R.ACT_WIN_CFG_WRITE_EN i) else none with
    | some (i, _, _) => .error (i, 2)
    | none =>
      match l.find? fun (_, d, n) => if write then !s.extWriteOk d n else !s.extReadOk d n with
      | some (i, _, _) => .error (i, if write then 3 else 4)
      | none => .ok (l.map fun (_, d, n) => (d, n))

/-- Bytes are written to the parts of a request. -/
def State.winPut (s : State) (poison : Bool) : List (Nat × Nat) → List Byte → State
  | [], _ => s
  | (d, n) :: t, bs => (s.memWrite d (bs.take n) poison).winPut poison t (bs.drop n)

/-- PEER_WINDOW_WRITE (R600 to R602, R614): `off` is the offset in BAR 2. -/
def execPeerWindowWrite (off : Nat) (bytes : List Byte) (poison : Bool) (s : State) : Host.Outcome State Fault Refusal :=
  .next <|
    let s := s.l1Exit
    let s := if poison then s.aer 0 aerPoisoned else s
    if !s.winReached off bytes.length then s.unsupported 0 true
    else match s.winCheck off bytes.length true with
      | .ok l => s.winPut poison l bytes
      | .error (i, cause) => (if cause = 3 then s.extDenied else s).winCase off i cause true

/-- The parts of a read meet the errors that lie in them, and those that the command names (R380). -/
def State.winMeet (s : State) (l : List (Nat × Nat)) (errs : List MemErr) : State := (s.forList l fun x s => s.readMeet x.1 x.2).memErrs errs

/-- PEER_WINDOW_READ (R382, R600 to R602). `errs`: the errors that the read meets in device memory
beside those that lie there (R380; assumption 130). -/
def execPeerWindowRead (off len : Nat) (errs : List MemErr) (s : State) : Host.Outcome State Fault Refusal :=
  .next <|
    if !s.winReached off len then s.unsupported 0 false
    else match s.winCheck off len false with
      | .ok l =>
        let s := s.winMeet l errs
        s.portMsg 0 (.cplData 0 (some (l.flatMap fun (d, n) => s.bytes d n)) (l.any fun (d, n) => s.readPoison d n))
      | .error (i, cause) => (s.winCase off i cause false).unsupported 0 false

/-- A shadow descriptor fails the check of R599. -/
def State.winBad (s : State) (i : Nat) : Bool :=
  let base := fun (j : Nat) => s.get (R.WIN_BAR_BASE j)
  let stop := fun (j : Nat) => s.get (R.WIN_BAR_BASE j) + s.get (R.WIN_CFG_SIZE j)
  s.on (R.WIN_CFG_EN i) &&
    (s.get (R.WIN_CFG_SIZE i) == 0 || decide (32768 < stop i) || decide (786432 < s.get (R.WIN_TGT_SEG i) + 32 * s.get (R.WIN_CFG_SIZE i)) ||
      (List.range 16).any fun j => j != i && s.on (R.WIN_CFG_EN j) && s.on (R.WIN_CFG_SIZE j) && decide (base i < stop j ∧ base j < stop i))

/-- WINDOW_COMMIT (R599, R600). -/
def execWindowCommit (who : Who) (s : State) : Host.Outcome State Fault Refusal :=
  .next <| s.viaBus who fun s =>
    match (List.range 16).find? s.winBad with
    | some i => (s.raise R.WIN_STATUS_WINDOW_REJ).set R.WIN_STATUS_REJ_DESC i
    | none =>
      let s := s.forEach 16 fun i s =>
        ((s.setReg (R.ACT_WIN_CFG i) (s.reg (R.WIN_CFG i))).setReg (R.ACT_WIN_BAR i) (s.reg (R.WIN_BAR i))).setReg
          (R.ACT_WIN_TGT i) (s.reg (R.WIN_TGT i))
      s.set R.WIN_STATUS_ACTIVE (((List.range 16).filter fun i => s.on (R.ACT_WIN_CFG_EN i)).map fun i => 2 ^ i).sum

/-- BAR0_BAD_REQUEST (R590, R596, R597, R614): a memory request to BAR 0 or BAR 4 of function `f`, `len` bytes at `off`, or another TLP that the
port does not serve. `part`: registers that the byte enables of a write cover only in part. A Vendor-defined message of Type 1 is discarded
silently; another message needs no completion. -/
def execBar0BadRequest (f : Fin 2) (kind : BadTlp) (write : Bool) (off len part : Nat) (poison : Bool) (s : State) :
    Host.Outcome State Fault Refusal :=
  .next <|
    let s := s.l1Exit
    match kind with
    | .vendor1 => s
    | .vendor0 | .message => s.unsupported f true
    | .atomicOp => s.unsupported f false
    | .io => s.unsupported f false
    | .memory =>
    if !s.memAccess f ∨ len = 0 ∨ 64 < len ∨ off / 64 ≠ (off + len - 1) / 64 then s.unsupported f write
    else if !write then s
    else if poison then s.aer f aerPoisoned
    else s.bumpSat R.PARTIAL_WR_CNT_CNT part

/-! ## Configuration space (R591 to R595, R604, R617, R725) -/

/-- Bits that software writes, and bits that it clears by writing 1, by offset (R591, R594, R595; assumption 5). -/
def State.cfgMask (s : State) (f off : Nat) : Nat × Nat :=
  let size := s.port.bar2
  match off with
  | 0x04 => (0x546, 0xF9000000)
  | 0x0C => (0xFF, 0)
  | 0x10 => (if f = 0 then 0xFC000000 else 0xFFF00000, 0)
  | 0x14 => (0xFFFFFFFF, 0)
  | 0x18 => (if f ≠ 0 then 0 else if size < 12 then 2 ^ 32 - 2 ^ (size + 20) else 0, 0)
  | 0x1C => (if f ≠ 0 then 0 else if size < 12 then 0xFFFFFFFF else 2 ^ 32 - 2 ^ (size - 12), 0)
  | 0x20 => (if f = 0 then 0xFFFF0000 else 0, 0)
  | 0x24 => (if f = 0 then 0xFFFFFFFF else 0, 0)
  | 0x3C => (0xFF, 0)
  | 0x44 => (0x100, 0x8000)
  | 0x50 => (0xC0000000, 0)
  | 0x78 => (0x7DFF, 0xF0000)
  | 0x80 => (0xCB, 0)
  | 0x98 => (0x100F, 0)
  | 0x104 => (0, 0x7FFF030)
  | 0x108 | 0x10C => (0x7FFF030, 0)
  | 0x110 => (0, 0xF1C1)
  | 0x114 => (0xF1C1, 0)
  | 0x118 => (0x140, 0)
  | 0x188 => (if f = 0 && !s.on (Cfg.MSE 0) then 0x3F00 else 0, 0)
  | _ => (0, 0)

/-- Pending vectors whose masks are open are sent (R603). -/
def State.msixFlush (s : State) (f : Nat) : State :=
  if !s.on (Cfg.MSIX_EN f) || s.on (Cfg.MSIX_MASK f) then s
  else
    let lo := 0x5200000 + f * 0x1000
    let due := (s.regs.filter fun e => decide (lo ≤ e.1 ∧ e.1 < lo + 0x1000)).flatMap fun e =>
      ((List.range 32).filter fun b => bitAt e.2.toNat b).map fun b => (e.1 - lo) / 4 * 32 + b
    s.forList due fun v s => if s.on (Cfg.MSIX_VMASK f v) then s else (s.clear (Cfg.MSIX_PEND f v)).msix f v

/-- In D3hot with PME_En, a pending aggregated interrupt makes PME_Status and a message (R619). -/
def State.pmeCheck (s : State) (f : Nat) : State :=
  if s.get (Cfg.PM_STATE f) = 3 && s.on (Cfg.PME_EN f) && !s.on (Cfg.PME_STATUS f) && s.aggPending f then
    (s.raise (Cfg.PME_STATUS f)).portMsg f (.pmPme f)
  else s

/-- Withy and the DMA engine go on, or wait, as the link, Bus Master Enable and the power state allow (R580, R639). -/
def State.hostResume (s : State) : State := s.withyLink.dmaServe

/-- A function moves between D0 and D3hot (R618): nothing is cleared; Withy and the DMA engine wait, and at the entry of function 0 Ling
writes back the dose of its light heads (R346). -/
def State.pmTo (s : State) (f : Nat) (d3 : Bool) : State :=
  let was := s.get (Cfg.PM_STATE f)
  let s := s.set (Cfg.PM_STATE f) (if d3 then 3 else 0)
  let s := if d3 && f == 0 && was != 3 then
      s.forEach 8 fun n s => if s.unitOn (chainUnit n) then s.doseWrite n false true else s
    else s
  s.hostResume.pmeCheck f

/-- Bytes of a configuration write that its byte enables cover. -/
def enableMask (be : Nat) : Nat := ((List.range 4).map fun i => if bitAt be i then 0xFF * 2 ^ (8 * i) else 0).sum

/-- A BAR 2 size that R595 offers. -/
def bar2SizeOk (n : Nat) : Bool := decide (10 ≤ n ∧ n ≤ 16)

/-- A configuration write (R591, R604, R617, R618). -/
def State.cfgWrite (s : State) (f off be v : Nat) : State :=
  let a := Cfg.base f + off
  let (rw, w1c) := s.cfgMask f off
  let en := enableMask be
  let old := s.reg a
  let new := maskedWrite (rw &&& en) (w1c &&& en) old (BitVec.ofNat 32 v)
  let new := if off = 0x188 && f == 0 && !bar2SizeOk (bitsOf new.toNat 8 6) then old else new
  let t := s.setReg a new
  -- the size selected applies as Memory Space Enable is set (R595)
  let t := if off = 0x04 && f == 0 && bitAt new.toNat 1 && !bitAt old.toNat 1 && t.port.bar2 != t.get Cfg.BAR2_SIZE then
      let t := { t with port := { t.port with bar2 := t.get Cfg.BAR2_SIZE } }
      [0x18, 0x1C].foldl (fun (t : State) o =>
        t.setReg (Cfg.base 0 + o) (maskedWrite (t.cfgMask 0 o).1 0 (BitVec.ofNat 32 (if o = 0x18 then 0xC else 0)) (t.reg (Cfg.base 0 + o)))) t
    else t
  let t := if off = 0x78 && bitAt (v &&& en) 15 then
      { t with port := { t.port with flr := Tbl.put false t.port.flr f true } } else t
  let t := if off = 0x44 && bitAt be 0 && (v % 4 == 0 || v % 4 == 3) then t.pmTo f (v % 4 == 3) else t
  ((t.msixFlush f).pmeCheck f |>.inta f (s.intaOn f)).hostResume

/-- CONFIG_REQUEST (R591, R597, R617, R725): a configuration request for function `f` at `off`, with byte enables for a write. -/
def execConfigRequest (f : Nat) (write : Bool) (off : Fin 4096) (be : Fin 16) (v : Word) (s : State) : Host.Outcome State Fault Refusal :=
  .next <|
    let off := off.val / 4 * 4
    if 2 ≤ f then ((s.bumpSat R.UR_CNT_CNT).aer 0 aerUnsupported).portMsg 0 (.cplConfig f 1 0)
    else if !s.skep.released || Tbl.get false s.port.flr f then s.portMsg f (.cplConfig f 2 0)
    else if write then (s.cfgWrite f off be v.toNat).portMsg f (.cplConfig f 0 0)
    else s.portMsg f (.cplConfig f 0 (s.reg (Cfg.base f + off)))

/-! ## Completions (R605 to R609) -/

/-- A request of the device ends: with data, or with `err`, 1 for a timeout and 2 for an error completion. -/
def State.requestEnds (s : State) (q : HostReq) (r : Except Nat (List Byte × Bool)) : State :=
  let good := match r with | .ok (bs, poison) => if poison then none else some bs | .error _ => none
  match q.kind with
  | .walk1 ring page => (s.walked ring page q.addr false (good.map leNat)).dmaServe
  | .walk2 ring page => (s.walked ring page q.addr true (good.map leNat)).dmaServe
  | .bodyBack ring => match r with | .ok _ => (s.bodyBackIn ring).dmaServe | .error _ => (s.bodyBackFail ring q.addr).dmaServe
  | .headBack ring => match r with | .ok _ => (s.headBackIn ring).dmaServe | .error _ => (s.headBackFail ring).dmaServe
  | .list port gen off => (s.fetchPart port gen off good).dmaServe
  | .reclaim p gen step => (s.reclaimIn p gen step q.addr good).dmaServe
  | .skepBack m id => (s.skepBackIn m id (match r with | .ok _ => true | .error _ => false)).dmaServe
  | .skepIn m id => (s.skepFetchIn m id good).dmaServe
  | .image j id => (s.loadIn j id good).dmaServe
  | k => s.dmaIn k q.addr r

/-- COMPLETION_RX (R608, R609): all data of a request, or an error status, has arrived. -/
def execCompletionRx (tag : Fin 1024) (ok : Bool) (data : List Byte) (poison : Bool) (s : State) : Host.Outcome State Fault Refusal :=
  .next <|
    match Tbl.get none s.port.out tag.val with
    | none => (s.bumpSat R.LATE_CPL_CNT_CNT).aer 0 aerUnexpected true
    | some q =>
      let s := s.portEnd tag.val false
      let s := if ok && poison then s.aer q.fn aerPoisoned else s
      ((s.requestEnds q (if ok then .ok (padTo q.len data, poison) else .error 2)).portPump).dmaServe

/-- COMPLETION_TIMEOUT (R606, R607). -/
def execCompletionTimeout (tag : Fin 1024) (s : State) : Host.Outcome State Fault Refusal :=
  .next <|
    match Tbl.get none s.port.out tag.val with
    | none => s
    | some q =>
      let s := ((s.portEnd tag.val true).bumpSat R.CPL_TO_CNT_CNT).aer q.fn aerTimeout
      (((s.girqBoth R.GIRQ_STATUS_PCIE).requestEnds q (.error 1)).portPump).dmaServe

/-- TAG_QUARANTINE_END (R608). -/
def execTagQuarantineEnd (tag : Fin 1024) (s : State) : Host.Outcome State Fault Refusal :=
  .next (s.setPort { s.port with quar := s.port.quar.filter (· != tag.val) }).portPump.dmaServe

/-! ## Resets (R615 to R617) -/

/-- Requests of a function are abandoned, and their tags quarantined (R616); an internal error stops the port no longer (R613). -/
def State.portAbandon (s : State) (f : Nat) : State :=
  let gone := s.port.out.filterMap fun e => match e.2 with | some q => if q.fn = f then some e.1 else none | none => none
  s.setPort { s.port with
    out := s.port.out.filter fun e => !gone.contains e.1
    quar := s.port.quar ++ gone
    wait := s.port.wait.filter fun i => i.fn != f
    stopped := false }

/-- What a reset of a function clears under R615, R651, R652, R739 and R745. -/
def State.functionReset (s : State) (f : Nat) : State :=
  let was := s.intaOn f
  let s := (s.portAbandon f).loadsLost f
  let s := s.resetRegs (Cfg.base f) (Cfg.base f + 0x1000)
  let s := s.resetRegs (0x5100000 + f * 0x10000) (0x5110000 + f * 0x10000)
  let s := s.resetRegs (0x5200000 + f * 0x1000) (0x5201000 + f * 0x1000)
  let s := s.resetRegs (R.GIRQ_STATUS f) (R.GIRQ_SOFT f + 4)
  let s := if was then s.portMsg f (.intx f false) else s
  let s := s.clear (if f = 0 then R.PCIE_CTRL_STRICT_ORDER_0 else R.PCIE_CTRL_STRICT_ORDER_1)
  let s := s.forList (if f = 0 then List.range 16 else [16, 17, 18, 19]) fun m s => s.boxReset m
  let s := { s with skep := { s.skep with minor := Tbl.put 0 s.skep.minor f 0 } }
  let s := if f = 0 then
      let s : State := { s with port := { s.port with bar2 := 10 } }
      let s := s.forEach 16 fun i s => (s.clear (R.WIN_CFG_EN i)).clear (R.ACT_WIN_CFG_EN i)
      (s.clear R.WIN_STATUS_ACTIVE).withyReset.dmaReset
    else { s.resetRegs R.IND_OFFSET (R.IND_STATUS + 4) with ind := none }
  s.girqSward.withyLink

/-- What PERST# and a hot reset clear beside the functions: TAG_LIMIT and the counters of the chapter; the link goes down. -/
def State.hostReset (s : State) : State :=
  let s := (s.functionReset 0).functionReset 1
  let s := s.resetRegs R.TAG_LIMIT (R.TAG_LIMIT + 4)
  let s := s.resetRegs R.CPL_TO_CNT (R.WIN_DROP_CNT + 4)
  let s := (s.setReg R.PARTIAL_WR_CNT 0).setReg R.PCIE_LINK 0
  s.withyLink

/-- PERST (R615, R727). -/
def execPerst (s : State) : Host.Outcome State Fault Refusal :=
  .next (({ s with port := { s.port with perst := true } }).hostReset.raise R.RESET_CAUSE_PERST)

/-- PERST_DEASSERT (R620, R727): the link trains, and WAKE# is released. -/
def execPerstDeassert (s : State) : Host.Outcome State Fault Refusal :=
  .next <|
    let woke := s.port.wake
    let s := { s with port := { s.port with perst := false, wake := false } }
    if woke then s.emit (.wake false) else s

/-- HOT_RESET (R615, R728). -/
def execHotReset (s : State) : Host.Outcome State Fault Refusal := .next (s.hostReset.raise R.RESET_CAUSE_HOT_RESET)

/-- FUNCTION_LEVEL_RESET (R615 to R617): the reset of one function is complete. -/
def execFunctionLevelReset (f : Fin 2) (s : State) : Host.Outcome State Fault Refusal :=
  .next <|
    let s := { s with port := { s.port with flr := Tbl.put false s.port.flr f.val false } }
    let s := (s.functionReset f).raise (if f.val = 0 then R.RESET_CAUSE_FLR_0 else R.RESET_CAUSE_FLR_1)
    let s := if s.boot.identDone && s.skepRuns then s.applySubsystem else s
    (s.set (Cfg.LINK_SPEED f) (s.get R.PCIE_LINK_RATE)).set (Cfg.LINK_WIDTH f) (s.get R.PCIE_LINK_WIDTH)

/-! ## Link and power management (R580, R618 to R622) -/

/-- The class and AER bit of an error that the port detects (R613; assumption 5): correctable, or not. -/
def errorBit : PcieError → Bool × Nat
  | .receiver => (true, 0)
  | .badTlp => (true, 6)
  | .badDllp => (true, 7)
  | .replayRollover => (true, 8)
  | .replayTimeout => (true, 12)
  | .correctedInternal => (true, 14)
  | .headerOverflow => (true, 15)
  | .dlProtocol => (false, 4)
  | .flowControl => (false, 13)
  | .overflow => (false, 17)
  | .malformed => (false, 18)
  | .ecrc => (false, aerEcrc)
  | .internal => (false, aerInternal)

/-- The port detects an error (R589, R613): it is reported through AER; a TLP that it concerns is discarded. A failed ECRC is detected only while
the check is enabled. An Uncorrectable Internal Error stops the port's requests, and Withy is SUSPENDED. -/
def State.pcieError (s : State) (f : Nat) (e : PcieError) : State :=
  if e = .ecrc ∧ !bitAt (s.reg (Cfg.base f + 0x118)).toNat 8 then s
  else
    let (correctable, bit) := errorBit e
    let s := if correctable then s.aerCor f bit else s.aer f bit
    if e = .internal then ({ s with port := { s.port with stopped := true } }).hostResume else s

/-- The link is up with this rate and width, and Skep has loaded the subsystem values; or it is down. -/
def State.pcieLink (s : State) (up : Bool) (rate width : Nat) (flit : Bool) : State :=
  let s := s.setReg R.PCIE_LINK 0
  let s := if up then
      (((s.set R.PCIE_LINK_RATE rate).set R.PCIE_LINK_WIDTH width).setFlag R.PCIE_LINK_FLIT flit).raise R.PCIE_LINK_UP
    else s
  let s := if up && s.boot.identDone && s.skepRuns then s.applySubsystem else s
  let s := s.forEach 2 fun f s => (s.set (Cfg.LINK_SPEED f) (s.get R.PCIE_LINK_RATE)).set (Cfg.LINK_WIDTH f) (s.get R.PCIE_LINK_WIDTH)
  s.hostResume

/-- PCIE_LINK_CHANGE (R580, R613, R622, R727, R728, R730): the link comes up, which waits for PERST# to be deasserted; it goes down; or the port
detects an error. -/
def execPcieLinkChange (ev : PcieEvent) (s : State) : Host.Outcome State Fault Refusal :=
  .next <|
    match ev with
    | .up rate width flit => if s.port.perst || s.boot.down then s else s.pcieLink true rate width flit
    | .down => s.pcieLink false 0 0 false
    | .error f e => s.pcieError f e

/-- PM_STATE_CHANGE (R618, R619). -/
def execPmStateChange (f : Fin 2) (d3 : Bool) (s : State) : Host.Outcome State Fault Refusal := .next (s.pmTo f d3)

/-- PME_RESEND (R619). -/
def execPmeResend (f : Fin 2) (s : State) : Host.Outcome State Fault Refusal :=
  .next (if s.get (Cfg.PM_STATE f) = 3 && s.on (Cfg.PME_STATUS f) then s.portMsg f (.pmPme f) else s)

/-- L1_ENTRY (R621): the port has been idle for L1_IDLE µs. -/
def execL1Entry (s : State) : Host.Outcome State Fault Refusal :=
  .next <|
    if s.on R.PCIE_LINK_UP && bitAt (s.get (Cfg.ASPM 0)) 1 && !s.on R.PCIE_LINK_L1 && s.port.out.isEmpty && s.port.wait.isEmpty then
      (s.raise R.PCIE_LINK_L1).emit .enterL1
    else s

/-- WAKE_PIN (R620): in D3cold, GPIO `k` reaches a level. -/
def execWakePin (k : Fin 8) (level : Bool) (s : State) : Host.Outcome State Fault Refusal :=
  .next <|
    if s.boot.down && s.port.pmeArmed && bitAt (s.get R.WAKE_CFG_MASK) k && bitAt (s.get R.WAKE_CFG_POL) k == level && !s.port.wake then
      ({ s with port := { s.port with wake := true } }).emit (.wake true)
    else s

end Sys2Proof.Machine
end

