-- ==== Sys2Proof/Machine/Boot.lean ====
section
/-!
DEFINITION. Resets of the whole device, the boot ladder, and the resets of Skep (R669 to R672, chapter 21).
-/
set_option Elab.async false
namespace Sys2Proof.Machine

/-! ## Resets (R717 to R722) -/

/-- What the pins do while the core power-on reset or SYS_RESET# is asserted (R718). -/
def State.pinsReleased (s : State) : State :=
  let s := s.forEach 64 fun k s => s.emit (.pin k none)
  let s := s.forEach 8 fun n s => ((s.emit (.encOut n .a none)).emit (.encOut n .b none)).emit (.encOut n .z none)
  let s := s.forEach 8 fun n s => (s.emit (.chainEnable n false)).emit (.chainLow n)
  ((s.forEach 32 fun l s => s.emit (.laneTx l false)).emit .pcieIdle).emit .spiIdle

/-- What the always-on domain holds (R349, R622, R684, R687, R688, R722): WAKE_CFG, RESET_CAUSE, the lighting latch, TRIP_FLAG, a held
data-path stop record, and what R620 needs in D3cold; and THERM_TRIP#, which only the removal of VDD_CORE releases (R688). -/
def State.keepAon (s t : State) : State :=
  let t := (t.setReg R.RESET_CAUSE (s.reg R.RESET_CAUSE)).setReg R.WAKE_CFG (s.reg R.WAKE_CFG)
  let t := t.forEach 8 fun n t => t.setFlag (R.LING_CH_STATE_LATCHED n) (s.on (R.LING_CH_STATE_LATCHED n))
  let t := t.set R.LING_STATUS_LATCHED (s.get R.LING_STATUS_LATCHED)
  let t := t.setFlag R.TH_STATUS_LIGHT_LATCH (s.on R.TH_STATUS_LIGHT_LATCH)
  let t := t.setFlag R.TH_STATUS_LOG_PENDING s.nvm.heldStop.isSome
  { t with therm := { t.therm with tripFlag := s.therm.tripFlag, tripping := s.therm.tripping }, nvm := { t.nvm with heldStop := s.nvm.heldStop }
           port := { t.port with wake := s.port.wake, pmeArmed := s.port.pmeArmed } }

/-- A reset of everything but the MRAM (R720, R722): the levels outside the device, its outward record, the queue and the count of free
values stay; `aon`: the always-on domain is reset as well. -/
def State.coldReset (s : State) (aon : Bool) : State :=
  let t : State := { State.reset with
    free := s.free, mram := s.mram, outs := s.outs, pending := s.pending, boot := { down := s.boot.down }
    port := { perst := s.port.perst }, swd := { pinIn := s.swd.pinIn, bankDown := s.swd.bankDown } }
  let t := t.forEach 8 fun n t =>
    let c := s.encOf n
    t.setEnc n { pinA := c.pinA, pinB := c.pinB, pinZ := c.pinZ, holdA := s.encPin n .a, holdB := s.encPin n .b, holdZ := s.encPin n .z }
  let t := if aon then t else s.keepAon t
  t.pinsReleased

/-! ## Skep starts (R689, R704, R723, R729) -/

/-- Step 4 of R723: TRIP_FLAG is read, told of and cleared (R689). `bad`: a word that reads back wrong twice (R701). -/
def State.readTrip (s : State) (bad : Option Nat) : State :=
  if s.therm.tripFlag then
    let s := ({ s with therm := { s.therm with tripFlag := false } }).raise R.TH_STATUS_TRIP_SEEN
    (s.log 2 []).ctrBump ctrTrip bad
  else s

/-- The BOOT record (R710). -/
def State.logBoot (s : State) : State :=
  s.log 1 (leBytes 4 (s.reg R.RESET_CAUSE).toNat ++ leBytes 4 s.skep.patchStatus ++ leBytes 4 (s.get R.FW_VERSION_VERSION))

/-- Steps 2 to 4 of R723: Skep starts in mask ROM; STAGE is PATCH next. -/
def State.bootStart (s : State) (bad : Option Nat) : State :=
  let s := { s with boot := { s.boot with begun := true } }.patchNone 0
  let s := (s.set R.BOOT_STATUS_STAGE 1).calCheck.applyIdent
  let s := (s.applyThermal.applyPower.logStart).readTrip bad
  (s.ctrBump ctrPowerOn bad).ctrShow.set R.BOOT_STATUS_STAGE 2

/-- AON_RESET (R717, R720, R731): the always-on domain is reset, and everything that the core power-on reset clears, which is held until
CORE_POR. -/
def execAonReset (s : State) : Host.Outcome State Fault Refusal :=
  .next <|
    let s := s.coldReset true
    { s with boot := { s.boot with down := true } }

/-- CORE_POR (R720, R723): the core power-on reset is released, and cold boot begins. `bad`: a word that reads back wrong twice (R701). -/
def execCorePor (bad : Option Nat) (s : State) : Host.Outcome State Fault Refusal :=
  .next <|
    let s := s.coldReset false
    let s := { s with boot := { s.boot with down := false } }
    (s.raise R.RESET_CAUSE_CORE_POR).bootStart bad

/-- SUPPLY_DROP (R620, R688, R717, R718): the core power-on reset is asserted, with PME_En kept as it was before. `core`: VDD_CORE is removed,
which releases THERM_TRIP#. -/
def execSupplyDrop (core : Bool) (s : State) : Host.Outcome State Fault Refusal :=
  .next <|
    let armed := if s.boot.down then s.port.pmeArmed else s.on (Cfg.PME_EN 0) || s.on (Cfg.PME_EN 1)
    let s := s.coldReset false
    let s := { s with boot := { s.boot with down := true }, port := { s.port with pmeArmed := armed } }
    { s with therm := { s.therm with tripping := s.therm.tripping && !core } }

/-- SYS_RESET (R689, R720 to R723): boot restarts from step 2; TRIP_SEEN stays set until a power-on reset. While the core power-on reset is asserted
there is no more to reset. `bad`: a word that reads back wrong twice (R701). -/
def execSysReset (bad : Option Nat) (s : State) : Host.Outcome State Fault Refusal :=
  .next <|
    if s.boot.down then s.raise R.RESET_CAUSE_SYS_RESET
    else
      let seen := s.on R.TH_STATUS_TRIP_SEEN
      ((s.coldReset false).setFlag R.TH_STATUS_TRIP_SEEN seen |>.raise R.RESET_CAUSE_SYS_RESET).bootStart bad

/-! ## The boot ladder (R723 to R726) -/

/-- PATCH_STAGE_END (R724): the stage ends with a patch loaded or not. From State.reset, Skep starts first. -/
def execPatchStageEnd (flash : Flash) (bad : Option Nat) (s : State) : Host.Outcome State Fault Refusal :=
  .next <|
    if s.boot.patchDone || !s.skepRuns then s
    else
      let s := if s.boot.identDone then s else s.bootStart bad
      let s := s.patchFind flash bad
      { s with boot := { s.boot with patchDone := true } }

/-- Configuration is released (R725). -/
def State.release (s : State) : State :=
  let s := { s with skep := { s.skep with released := true } }
  s.set R.BOOT_TIME_RELEASE_MS (min 65535 (s.clk / 250000))

/-- CONFIG_RELEASE (R725, R726): IDENT has been applied and the patch stage has ended; HBM training is the scheduler's first request. -/
def execConfigRelease (s : State) : Host.Outcome State Fault Refusal :=
  .next <|
    if s.skepRuns && s.boot.identDone && s.boot.patchDone && !s.skep.released then
      let s := (s.release.set R.BOOT_STATUS_STAGE 3).logBoot
      s.schedule .hbm
    else s

/-! ## Skep resets (R669 to R672, R729) -/

/-- What the clearing of Skep's RAM ends (R669, R671, R711, R722): commands that run, waits, agreements, snapshots, the log queue, counters
not yet written, a write in progress, and JOB_LOADs. The limit of R711 holds over it (assumption 89). -/
def State.skepRamClear (s : State) : State :=
  let busy := (List.range 21).filter fun m => s.on (R.MB_STATUS_BUSY m)
  let s := s.loadAbort
  let s := s.forList busy fun m s => s.boxDone m Isaow.skepReset (leNat (s.boxBytes m 4 4)) []
  let s := { s with
    skep := { s.skep with cmds := [], minor := [], snaps := [], waiting := [] }
    jobs := { s.jobs with arms := [] }
    net := { s.net with remote := [] }
    nvm := { heldStop := s.nvm.heldStop, recent := s.nvm.recent, written := s.nvm.written } }
  let s := s.setWriting none
  s.timeSkepHalt.logLevel

/-- Configuration is released without Skep: the defaults of R704 stand in place of IDENT (R725). -/
def State.releaseFailed (s : State) : State :=
  let s := s.forEach 4 fun n s => (s.set (R.ETH_MAC_LO_MAC n) 0).set (R.ETH_MAC_HI_MAC n) 0
  let s := s.forEach 2 fun f s => (s.set (Cfg.SUBSYS_VENDOR f) 0x1D7A).set (Cfg.SUBSYS_ID f) (0x6480 + f)
  let s := { s with skep := { s.skep with smbAddr := 0x4C, subsys := subsysOf [] }, boot := { s.boot with identDone := false } }
  (s.release.raise R.BOOT_STATUS_BOOT_FAIL).raise R.BOOT_STATUS_CFG_DEFAULT

/-- SKEP_WATCHDOG (R669, R671, R672, R725): Skep is reset, or, with a fourth reset within 10 s, halts; a halt before configuration release
releases it. SKEP_RESET_LIFE counts every reset (R713). -/
def execSkepWatchdog (cause pc : Word) (bad : Option Nat) (s : State) : Host.Outcome State Fault Refusal :=
  .next <|
    if s.get R.SKEP_STATUS_STATE = 2 ∨ s.boot.down then s
    else
      let s := s.skepRamClear
      let recent := (s.skep.resets.filter fun t => decide (s.clk < t + 2500000000)) ++ [s.clk]
      let s := { s with skep := { s.skep with resets := recent } }
      let s := ((s.bump R.SKEP_RESET_CNT_CNT).raise R.RESET_CAUSE_SKEP).ctrBump ctrSkepReset bad
      if 4 ≤ recent.length then
        let s := ((s.set R.SKEP_STATUS_STATE 2).log 6 []).skepSays R.EVT_SKEP (skepParam 0 2)
        if s.skep.released then s else s.releaseFailed
      else
        ((s.set R.SKEP_STATUS_STATE 1).log 5 (leBytes 4 cause.toNat ++ leBytes 4 pc.toNat)).skepSays R.EVT_SKEP (skepParam 0 1)

/-- SKEP_RESTART (R672, R674): only through function 1, and only while Skep is halted; the count of resets begins anew. -/
def execSkepRestart (who : Who) (s : State) : Host.Outcome State Fault Refusal :=
  .next <| s.viaBus who fun s =>
    if who = .fn1 ∧ s.get R.SKEP_STATUS_STATE = 2 then
      ({ s with skep := { s.skep with resets := [] } }).set R.SKEP_STATUS_STATE 1
    else s

/-- The entry of a unit rebuilt from observation (R670): one that has lost its PERMIT takes the gate of its class (R655, R272). A view that is no longer
ON loses its timeline (R80). -/
def State.rebuild (s : State) (u : Nat) : State :=
  let e := s.unitOf u
  let st : UnitState := match s.observed u with | 1 => .on | 0 => .off | _ => .fault
  let s := if u / 2 ^ 24 = 6 ∧ e.state = .on ∧ st ≠ .on then s.viewStop (u % 2 ^ 24) else s
  let e' : UnitEntry := { state := st, cause := if st = .fault then 7 else e.cause, gen := (e.gen + 1) % 2 ^ 32
                          changed := if st = e.state then e.changed else s.timeNs, downMs := e.downMs }
  let s := s.setUnit u e'
  let s := if (e.state = .starting ∨ e.state = .on) ∧ st ≠ .on then s.classGate u else s
  if st = .fault ∧ e.state ≠ .fault then
    (s.publishSkep u 0).log 8 (leBytes 4 u ++ leBytes 4 7 ++ leBytes 4 e'.gen)
  else s

/-- The unit table is rebuilt (R670). -/
def State.tableRebuild (s : State) : State :=
  let s := s.forList summaryUnits fun u s => s.rebuild u
  ((s.raise R.SKEP_STATUS_TABLE_REBUILT).log 7 []).publishSkep 0 3

/-- Work of Skep's that has waited (R24): a start of a stream only where its descriptor is still admitted, after the joins that are due (R301). -/
def State.skepJob (s : State) (j : SkepJob) : State :=
  match j with
  | .ctrl e r st data => s.ctrlEnds e r st data
  | .stream d => if s.on (R.SD_CTRL_EN d) && !s.running d then s.groupUpdate.streamWrites d else s
  | .streamOff d e stream => s.ctrlRequest e true (0x100 + stream * 16) 1 [0] (.stream d false true 0)
  | .send e p => s.sendTo e p
  | .dose n deferred stop => s.doseNow n deferred stop
  | .says sel param => s.skepSays sel param
  | .tell v kind => s.tellNow v kind
  | .hour bad => s.onHour bad

/-- Skep runs again: it enters the units that have moved and does what has waited for it in order, then the groups and the enrolments that are due
(R24, R283, R301). -/
def State.skepResume (s : State) : State :=
  let k := s.skep
  let s := { s with skep := { k with todo := [], moved := [] } }
  let s := s.forList k.moved fun u s => s.setUnit u { s.unitOf u with changed := s.timeNs }
  (s.forList k.todo fun j s => s.skepJob j).groupUpdate.enrolNext

/-- What a restarted Skep reads again (R670, R689, R729): tables, log, TRIP_FLAG and counters, and the patch where its kept image is not
the flash's. -/
def State.skepReread (s : State) (reload : Option Flash) (bad : Option Nat) : State :=
  let s := ((s.calCheck.applyIdent.logStart).readTrip bad).ctrShow
  match reload with
  | some f => s.patchFind f bad
  | none => s

/-- What a restarted Skep schedules again (R670): a training that was still to come, and starts it had begun. -/
def State.startsAgain (s : State) : State :=
  let s := if s.skep.released && !s.creel.trained && !s.boot.training && s.get R.MEM_STATUS_STACK_FAIL == 0 then s.schedule .hbm else s
  s.forList (summaryUnits.filter fun u => s.unitState u == .starting && s.observed u != 1) fun u s => s.schedule (.unit u)

/-- SKEP_RESTART_DONE (R670, R672, R723, R729): Skep has restarted, and logs its start unless the configuration release is still to come and does
so. STAGE shows ROM and CAL meanwhile, and RELEASED in the end, where configuration has been released (assumption 149). `parityOk`: the unit table has passed its check; `reload`: the hash of the
kept patch image differed, and what the flash then held. -/
def execSkepRestartDone (parityOk : Bool) (reload : Option Flash) (bad : Option Nat) (s : State) : Host.Outcome State Fault Refusal :=
  .next <|
    if s.get R.SKEP_STATUS_STATE ≠ 1 then s
    else
      let s := ((s.set R.SKEP_STATUS_STATE 0).skepResume).skepReread reload bad
      let s := (if parityOk then s else s.tableRebuild).startsAgain
      if s.skep.released then s.logBoot.set R.BOOT_STATUS_STAGE 3 else s

end Sys2Proof.Machine
end

