-- ==== Sys2Proof/Machine/Compare.lean ====
section
/-!
DEFINITION. Reference comparison (chapter 14): registration, the difference test, candidates, rules and verdicts, gate entries, and
learned references.
-/
set_option Elab.async false
namespace Sys2Proof.Machine

/-! ## Pictures -/

/-- A picture of columns by row: the samples of pixel (x, y), none where there is no such pixel or it must not be used. -/
structure Pic where
  width : Nat
  height : Nat
  rows : Array (Option (Array (List Nat)))

def Pic.at (p : Pic) (x y : Nat) : Option (List Nat) :=
  match p.rows.getD y none with
  | some r => r[x]?
  | none => none

/-- One component of pixel (x, y), given as integers. -/
def Pic.sample (p : Pic) (c : Nat) (x y : Int) : Option Nat :=
  if x < 0 ∨ y < 0 then none else (p.at x.toNat y.toNat).map fun l => l.getD c 0

/-- The rows of a repeat that can be compared (R510). -/
def Rep.pic (x : Rep) : Pic :=
  let blank : Array (Option (Array (List Nat))) := (List.replicate x.height none).toArray
  { width := x.width, height := x.height
    rows := x.rows.foldl (fun a r => if r.read && !r.overwritten then a.setIfInBounds r.y (some r.px.toArray) else a) blank }

/-- Samples stored little-endian by pixel, `c` components of `sw` bytes. -/
def splitRow (w c sw : Nat) (bs : List Byte) : Array (List Nat) :=
  ((List.range w).map fun x => (List.range c).map fun k => leAt bs ((x * c + k) * sw) sw).toArray

/-- A picture read from bytes: REFERENCE data (R504). -/
def picOf (rd : Img) (off w h c sw : Nat) : Pic :=
  { width := w, height := h, rows := ((List.range h).map fun y => some (splitRow w c sw (rd (off + y * w * c * sw) (w * c * sw)))).toArray }

/-! ## Registration (R512 to R515) -/

/-- The class of a tile (R514). -/
inductive TileClass where
  | blank
  | failed
  | accepted
deriving DecidableEq, Repr

/-- A tile: its vector in 1/16 pixel, x and then y, and its class. -/
structure Tile where
  x : Int
  y : Int
  cls : TileClass

/-- The pairs of samples of a tile under a whole displacement. -/
def tilePairs (a b : Pic) (comp x0 x1 y0 y1 : Nat) (ux uy : Int) : List (Nat × Nat) :=
  (List.range (y1 - y0)).flatMap fun j => (List.range (x1 - x0)).filterMap fun i =>
    let x : Int := (x0 + i : Nat)
    let y : Int := (y0 + j : Nat)
    match a.sample comp x y, b.sample comp (x - ux) (y - uy) with
    | some p, some q => some (p, q)
    | _, _ => none

/-- A tile's own vector and class, before its neighbours are asked (R513, R514). (u0x, u0y): the coarse displacement in 1/16. Among equal peaks the
middle of the search goes first, then the lowest row, then the lowest column (assumption 133). -/
def tileFirst (a b : Pic) (g : RegCfg) (u0x u0y : Int) (x0 x1 y0 y1 : Nat) : Tile :=
  let rx := (u0x + 8) / 16
  let ry := (u0y + 8) / 16
  let refs := (List.range (y1 - y0)).flatMap fun j => (List.range (x1 - x0)).filterMap fun i =>
    b.sample g.comp ((x0 + i : Nat) - rx) ((y0 + j : Nat) - ry)
  let score := fun (dx dy : Int) => corr (tilePairs a b g.comp x0 x1 y0 y1 (rx + dx) (ry + dy))
  let all := ((List.range 17).map fun (j : Nat) => ((List.range 17).map fun (i : Nat) => score ((i : Int) - 8) ((j : Int) - 8)).toArray).toArray
  let val := fun (i j : Nat) => (all.getD j #[]).getD i 0
  let best := (List.range 17).foldl (fun (t : Int × Nat × Nat) j => (List.range 17).foldl (fun (t : Int × Nat × Nat) i =>
    if t.1 < val i j then (val i j, i, j) else t) t) (val 8 8, 8, 8)
  let (c, i, j) := best
  let edge := i = 0 ∨ i = 16 ∨ j = 0 ∨ j = 16
  let fx := if edge then 0 else parabola16 (val (i - 1) j) c (val (i + 1) j)
  let fy := if edge then 0 else parabola16 (val i (j - 1)) c (val i (j + 1))
  let cls := if stdBelow g.minStd refs then TileClass.blank
    else if c * 256 < g.minCorr * 2 ^ 40 ∨ edge then .failed else .accepted
  { x := 16 * (rx + i - 8) + fx, y := 16 * (ry + j - 8) + fy, cls := cls }

/-- A grid of tiles, `nx` across and `ny` down. -/
structure Field where
  nx : Nat
  ny : Nat
  tiles : Array (Array Tile)

def Field.at? (f : Field) (i j : Int) : Option Tile :=
  if i < 0 ∨ j < 0 then none
  else match f.tiles[j.toNat]? with | some r => r[i.toNat]? | none => none

/-- The accepted vectors among a tile's 8 neighbours. -/
def Field.near (f : Field) (i j : Nat) : List (Int × Int) :=
  ([(-1, -1), (0, -1), (1, -1), (-1, 0), (1, 0), (-1, 1), (0, 1), (1, 1)] : List (Int × Int)).filterMap fun d =>
    match f.at? ((i : Int) + d.1) ((j : Int) + d.2) with
    | some t => if t.cls = .accepted then some (t.x, t.y) else none
    | none => none

/-- The tiles of a picture of `w` by `h` pixels. -/
def fieldMap (nx ny : Nat) (f : Nat → Nat → Tile) : Field :=
  { nx := nx, ny := ny, tiles := ((List.range ny).map fun j => ((List.range nx).map fun i => f i j).toArray).toArray }

/-- What registration gives: the vectors in 1/32 pixel by tile, the replaced tiles, and whether REG_FAIL is present (R514). -/
structure Reg where
  nx : Nat
  ny : Nat
  vec : Array (Array (Int × Int))
  repl : Nat
  fail : Bool
  fieldMax : Nat

/-- Registration of a repeat `a` to a reference `b` (R513, R514). -/
def register (a b : Pic) (g : RegCfg) (u0x u0y : Int) : Reg :=
  let nx := (a.width + 63) / 64
  let ny := (a.height + 63) / 64
  let f := fieldMap nx ny fun (i j : Nat) => tileFirst a b g u0x u0y (64 * i) (min a.width (64 * i + 64)) (64 * j) (min a.height (64 * j + 64))
  let f := fieldMap nx ny fun (i j : Nat) =>
    let t := (f.at? i j).getD ⟨0, 0, .failed⟩
    let n := f.near i j
    if t.cls = .accepted ∧ 3 ≤ n.length ∧
        (2 * g.dev < (2 * t.x - median2 (n.map (·.1))).natAbs ∨ 2 * g.dev < (2 * t.y - median2 (n.map (·.2))).natAbs) then { t with cls := .failed }
    else t
  let vec := ((List.range ny).map fun (j : Nat) => ((List.range nx).map fun (i : Nat) =>
    let t := (f.at? i j).getD ⟨0, 0, .failed⟩
    let n := f.near i j
    if t.cls = .accepted then (2 * t.x, 2 * t.y)
    else if n.isEmpty then (2 * u0x, 2 * u0y)
    else (median2 (n.map (·.1)), median2 (n.map (·.2)))).toArray).toArray
  let all := f.tiles.toList.flatMap (·.toList)
  let count := fun c => (all.filter fun t => t.cls == c).length
  let far := vec.toList.foldl (fun m r => r.toList.foldl (fun m p => max m (max (p.1 - 2 * u0x).natAbs (p.2 - 2 * u0y).natAbs)) m) 0
  { nx := nx, ny := ny, vec := vec, repl := all.length - count .accepted
    fail := decide (g.failFrac * (all.length - count .blank) < 256 * count .failed), fieldMax := far / 2 }

/-- Where pixel `x` of `size` lies among tile centres, in half pixels: the lower tile, the way into the interval and its length. -/
def tileSpan (n size x : Nat) : Nat × Nat × Nat :=
  let centre := fun i => 64 * i + min size (64 * i + 64) - 1
  let i := min (n - 1) (if 2 * x < centre (x / 64) then x / 64 - 1 else x / 64)
  if 2 * x ≤ centre 0 then (0, 0, 1)
  else if n ≤ i + 1 then (n - 1, 0, 1)
  else (i, 2 * x - centre i, centre (i + 1) - centre i)

/-- The displacement at a pixel (R515): numerators in 1/32 pixel over a common denominator. -/
def Reg.field (r : Reg) (a : Pic) (x y : Nat) : Int × Int × Nat :=
  let (i, s, p) := tileSpan r.nx a.width x
  let (j, t, q) := tileSpan r.ny a.height y
  let v := fun i j => (r.vec.getD j #[]).getD i (0, 0)
  let mix := fun (g : Int × Int → Int) =>
    let v00 := g (v i j)
    let v10 := if s = 0 then v00 else g (v (i + 1) j)
    let v01 := if t = 0 then v00 else g (v i (j + 1))
    let v11 := if s = 0 then v01 else if t = 0 then v10 else g (v (i + 1) (j + 1))
    ((p - s : Nat) : Int) * (((q - t : Nat) : Int) * v00 + t * v01) + s * (((q - t : Nat) : Int) * v10 + t * v11)
  (mix (·.1), mix (·.2), p * q)

/-- A point of a picture as numerators over a denominator. -/
structure Pt where
  x : Int
  y : Int
  den : Nat

/-- The reference point of repeat pixel (x, y). -/
def Reg.point (r : Reg) (a : Pic) (x y : Nat) : Pt :=
  let (ux, uy, d) := r.field a x y
  { x := (x : Int) * 32 * d - ux, y := (y : Int) * 32 * d - uy, den := 32 * d }

/-- A point lies within a picture. -/
def Pt.inside (p : Pt) (b : Pic) : Bool :=
  decide (0 ≤ p.x ∧ 0 ≤ p.y ∧ p.x ≤ ((b.width - 1) * p.den : Nat) ∧ p.y ≤ ((b.height - 1) * p.den : Nat))

/-- The pixel nearest to a point, halves up. -/
def Pt.near (p : Pt) : Nat × Nat := (((2 * p.x + p.den) / (2 * p.den)).toNat, ((2 * p.y + p.den) / (2 * p.den)).toNat)

/-- A component sampled bilinearly at a point, halves rounded up; none where a pixel it needs is missing. -/
def Pt.bilinear (p : Pt) (b : Pic) (c : Nat) : Option Nat :=
  let x0 := p.x / p.den
  let y0 := p.y / p.den
  let fx := (p.x % p.den).toNat
  let fy := (p.y % p.den).toNat
  let at_ := fun (dx dy : Int) => b.sample c (x0 + dx) (y0 + dy)
  match at_ 0 0, (if fx = 0 then at_ 0 0 else at_ 1 0), (if fy = 0 then at_ 0 0 else at_ 0 1),
      (if fx = 0 then (if fy = 0 then at_ 0 0 else at_ 0 1) else if fy = 0 then at_ 1 0 else at_ 1 1) with
  | some v00, some v10, some v01, some v11 =>
    let d := p.den
    let n := (d - fx) * ((d - fy) * v00 + fy * v01) + fx * ((d - fy) * v10 + fy * v11)
    some ((2 * n + d * d) / (2 * d * d))
  | _, _, _, _ => none

/-! ## Difference and tolerance (R516, R517) -/

/-- A TOLERANCE section as read (R505). -/
structure Tol where
  width : Nat
  dilR : Nat
  gain : Nat → Nat
  light : Nat → Nat → Nat
  dark : Nat → Nat → Nat
  map : Nat → Nat → Nat

def Img.tol (g : Img) (x : Sec) : Tol :=
  let w := g.u x.off 4
  { width := w, dilR := g.u (x.off + 6) 1, gain := fun c => g.u (x.off + 8 + c) 1
    light := fun k c => g.u (x.off + 64 + 16 * k + 4 * c) 2, dark := fun k c => g.u (x.off + 66 + 16 * k + 4 * c) 2
    map := fun px py => g.u (x.off + 576 + py * w + px) 1 }

/-- g_c of a reference pixel (R516). -/
def edgeAt (b : Pic) (c : Nat) (x y : Int) : Nat :=
  match b.sample c x y with
  | none => 0
  | some v =>
    ([(-1, -1), (0, -1), (1, -1), (-1, 0), (1, 0), (-1, 1), (0, 1), (1, 1)] : List (Int × Int)).foldl (fun m d =>
      match b.sample c (x + d.1) (y + d.2) with
      | some w => max m ((v : Int) - w).natAbs
      | none => m) 0

/-- G_c about a reference pixel (R516). -/
def dilated (b : Pic) (c r : Nat) (x y : Int) : Nat :=
  (List.range (2 * r + 1)).foldl (fun (m : Nat) (j : Nat) => (List.range (2 * r + 1)).foldl (fun (m : Nat) (i : Nat) =>
    max m (edgeAt b c (x + (i : Int) - (r : Int)) (y + (j : Int) - (r : Int)))) m) 0

/-- A defect pixel (R517): its place, class (1 LIGHT, 2 DARK, 3 COLOUR), region, excess, peak component, and whether a value used for it
was poisoned (R519). -/
structure Defect where
  x : Nat
  y : Nat
  cls : Nat
  region : Nat
  excess : Nat
  comp : Nat
  poison : Bool

/-- Which of the values that a comparison reads are poisoned: repeat pixels, reference pixels, map bytes, and the tolerance entries of a level. -/
structure Tainted where
  rep : Nat → Nat → Bool
  ref : Nat → Nat → Bool
  map : Nat → Nat → Bool
  level : Nat → Bool
  /-- DIL_R and EDGE_GAIN_c (R505, R516). -/
  edge : Bool

/-- A reference pixel with coordinates given as integers is poisoned. -/
def Tainted.refAt (q : Tainted) (b : Pic) (x y : Int) : Bool :=
  decide (0 ≤ x ∧ 0 ≤ y ∧ x < b.width ∧ y < b.height) && q.ref x.toNat y.toNat

/-- A value used for one pixel of a repeat is poisoned (R515 to R517, R519, R521): its sample, the map byte, and unless its level is 0 the level's
entries, the reference pixels it is interpolated from, and those about the nearest one that make its edge allowance. -/
def Tainted.pixel (q : Tainted) (a b : Pic) (t : Tol) (reg : Reg) (x y : Nat) : Bool :=
  let p := reg.point a x y
  if (a.at x y).isNone || !p.inside b then false
  else
    let n := p.near
    let k := t.map n.1 n.2 % 32
    let r := t.dilR + 1
    let square (m : Nat) (f : Nat → Nat → Bool) : Bool := (List.range m).any fun j => (List.range m).any fun i => f i j
    q.rep x y || q.map n.1 n.2 ||
      (k != 0 && (q.edge || q.level k ||
        square 2 (fun i j => (i == 0 || p.x % p.den != 0) && (j == 0 || p.y % p.den != 0) && q.refAt b (p.x / p.den + i) (p.y / p.den + j)) ||
        square (2 * r + 1) fun i j => q.refAt b ((n.1 : Int) + i - r) ((n.2 : Int) + j - r)))

/-- The test of one pixel of a repeat (R516, R517). -/
def testPixel (a b : Pic) (t : Tol) (reg : Reg) (comps : Nat) (q : Tainted) (x y : Nat) : Option Defect :=
  match a.at x y with
  | none => none
  | some s =>
    let p := reg.point a x y
    if !p.inside b then none
    else
      let n := p.near
      let tb := t.map n.1 n.2
      let k := tb % 32
      if k = 0 then none
      else
        let hits : List (Nat × Bool × Nat) := (List.range comps).filterMap fun c =>
          match p.bilinear b c with
          | none => none
          | some r =>
            let e := (t.gain c * dilated b c t.dilR n.1 n.2 + 8) / 16
            let d : Int := (s.getD c 0 : Nat) - (r : Nat)
            let lt := min 65535 (t.light k c + e)
            let dt := min 65535 (t.dark k c + e)
            if (lt : Int) < d then some (c, true, (d - lt).toNat)
            else if (dt : Int) < -d then some (c, false, (-d - dt).toNat)
            else none
        match hits with
        | [] => none
        | h :: rest =>
          let top := rest.foldl (fun (m : Nat × Bool × Nat) q => if m.2.2 < q.2.2 then q else m) h
          let cls := if hits.all (·.2.1) then 1 else if hits.all (!·.2.1) then 2 else 3
          some { x := x, y := y, cls := cls, region := tb / 32, excess := top.2.2, comp := top.1, poison := q.pixel a b t reg x y }

/-! ## Candidates (R518, R519) -/

/-- Two pixels touch. -/
def Defect.touches (p q : Defect) : Bool :=
  decide (((p.x : Int) - q.x).natAbs ≤ 1 ∧ ((p.y : Int) - q.y).natAbs ≤ 1)

/-- A pixel joins the sets that it touches, which become one; each set holds its pixels in row order, newest first, and the sets stand in
order of their first pixels. -/
def joinSets (sets : List (List Defect)) (p : Defect) : List (List Defect) :=
  let near := fun (l : List Defect) => l.any fun q => p.touches q
  let hit := sets.filter near
  match hit with
  | [] => sets ++ [[p]]
  | h :: _ =>
    let first := sets.findIdx near
    let all := p :: (sortBy (fun (q : Defect) => (q.y, q.x)) hit.flatten).reverse
    let _ := h
    (sets.zipIdx.filterMap fun (l, i) => if i = first then some all else if near l then none else some l)

/-- A candidate (R518). -/
structure Cand where
  x0 : Nat
  x1 : Nat
  y0 : Nat
  y1 : Nat
  area : Nat
  cls : Nat
  region : Nat
  peak : Nat
  comp : Nat
  sum : Nat
  cx : Nat
  cy : Nat
  edge : Bool
  poison : Bool

/-- A centroid in 1/16, halves up. -/
def centroid16 (sum n : Nat) : Nat := (32 * sum + n) / (2 * max 1 n)

/-- The candidate of a set of pixels, in row order. -/
def candFrom (w h : Nat) (l : List Defect) : Cand :=
  let d0 : Defect := l.headD ⟨0, 0, 1, 0, 0, 0, false⟩
  let top := l.foldl (fun (m : Defect) q => if m.excess < q.excess then q else m) d0
  let x0 := l.foldl (fun m q => min m q.x) d0.x
  let x1 := l.foldl (fun m q => max m q.x) d0.x
  let y0 := l.foldl (fun m q => min m q.y) d0.y
  let y1 := l.foldl (fun m q => max m q.y) d0.y
  { x0 := x0, x1 := x1, y0 := y0, y1 := y1, area := l.length
    cls := if l.all (·.cls == 1) then 1 else if l.all (·.cls == 2) then 2 else 3
    region := top.region, peak := top.excess, comp := top.comp, sum := (l.map (·.excess)).sum
    cx := centroid16 (l.map (·.x)).sum l.length, cy := centroid16 (l.map (·.y)).sum l.length
    edge := x0 == 0 || y0 == 0 || x1 + 1 == w || y1 + 1 == h, poison := l.any (·.poison) }

/-- A candidate record (R519). -/
def Cand.bytes (c : Cand) (rule : Nat) : List Byte :=
  leBytes 2 c.x0 ++ leBytes 2 c.x1 ++ leBytes 2 c.y0 ++ leBytes 2 c.y1 ++ leBytes 4 c.area ++ leBytes 1 (c.cls + c.region * 4) ++
    leBytes 1 rule ++ leBytes 2 (min 0xFFFF c.peak) ++ leBytes 4 (min 0xFFFFFFFF c.sum) ++ leBytes 4 c.cx ++ leBytes 4 c.cy ++
    leBytes 1 c.comp ++ leBytes 1 (c.edge.toNat + c.poison.toNat * 2) ++ leBytes 2 0

/-! ## Rules (R506, R522) -/

/-- A rule. -/
structure Rule where
  classes : Nat
  regions : Nat
  verdict : Nat
  count : Nat
  minArea : Nat
  minPeak : Nat
  code : Nat
  minSum : Nat

def Img.rules (g : Img) (v : Nat) : List Rule :=
  match g.sec 0x12 v 0 with
  | none => []
  | some x => (List.range (g.u x.off 1)).map fun i =>
    let o := x.off + 32 + 16 * i
    ⟨g.u o 1, g.u (o + 1) 1, g.u (o + 2) 1, g.u (o + 3) 1, g.u (o + 4) 4, g.u (o + 8) 2, g.u (o + 10) 2, g.u (o + 12) 4⟩

/-- SPECIAL_k of a view. -/
def Img.special (g : Img) (v k : Nat) : Nat :=
  match g.sec 0x12 v 0 with
  | none => 1
  | some x => g.u (x.off + 8 + k) 1

def Rule.matchesCand (r : Rule) (c : Cand) : Bool :=
  bitAt r.classes (c.cls - 1) && bitAt r.regions c.region && decide (r.minArea ≤ c.area ∧ r.minPeak ≤ c.peak ∧ r.minSum ≤ c.sum)

def Rule.fires (r : Rule) (l : List Cand) : Bool := decide (r.count ≤ (l.filter r.matchesCand).length)

/-- RULE_IDX of a candidate. -/
def ruleIdx (rules : List Rule) (all : List Cand) (c : Cand) : Nat :=
  (rules.findIdx? fun r => r.fires all && r.matchesCand c).getD 0xFF

/-- The rule verdict and its code. -/
def ruleVerdict (rules : List Rule) (all : List Cand) : Nat × Nat :=
  let fired := rules.filter fun r => r.fires all
  let worst := fired.foldl (fun m r => max m r.verdict) 1
  match fired.find? fun r => r.verdict == worst with
  | some r => (worst, r.code)
  | none => (1, 0)

/-- The verdict of special conditions `bits` and a rule verdict (R523). -/
def finalVerdict (g : Img) (v bits : Nat) (rule : Nat × Nat) : Nat × Nat :=
  let present := (List.range 7).filter fun k => bitAt bits k
  let worst := present.foldl (fun m k => max m (g.special v k)) rule.1
  match present.find? fun k => g.special v k == worst with
  | some k => (worst, 0xFF02 + k)
  | none => (worst, rule.2)

/-! ## Bands (R509, R510) -/

/-- Bands of a repeat. -/
def Rep.bands (x : Rep) : Nat := (x.height + 63) / 64

/-- The next band of a repeat can begin: its rows and the 8 that follow are in device memory, or the repeat is IMAGED. -/
def State.bandReady (s : State) (k : Nat) : Bool :=
  let x := s.repOf k
  let c := s.ctxOf k
  let top := x.rows.foldl (fun m r => max m (r.y + 1)) 0
  !x.blind && !x.noRef && decide (x.band < x.bands) &&
    (decide (c.state = 1) || (decide (c.state = 0) && decide (min x.height (64 * x.band + 72) ≤ top)))

/-- One repeat was cut before another (R509): in an earlier event clock, or in one clock in the order of view and lane (R491). -/
def State.cutBefore (s : State) (a b : Nat) : Bool :=
  let x := s.repOf a
  let y := s.repOf b
  decide (x.cutClk < y.cutClk ∨ (x.cutClk = y.cutClk ∧ (x.view < y.view ∨ (x.view = y.view ∧ (x.lane < y.lane ∨ (x.lane = y.lane ∧ x.order < y.order))))))

/-- The repeat whose band slice `i` takes next. -/
def State.nextBand (s : State) (i : Nat) : Option Nat :=
  (s.compare.reps.keys.filter fun k => (s.repOf k).slice == i && s.bandReady k).foldl (fun b k =>
    match b with
    | some j => if s.cutBefore k j then some k else b
    | none => some k) none

/-- The REFERENCE section of a repeat and the comparison it needs (R503, R521): none under NO_REF. -/
def State.refOf (s : State) (x : Rep) : Option (Sec × RepCfg) :=
  let g := s.slotImg x.slot
  match g.laneSec 0x10 x.view x.lane with
  | none => none
  | some r =>
    let b := s.bankOf x.slot x.view r.index
    if !b.valid || g.u (r.off + 6) 1 != x.comps || g.u (r.off + 7) 1 != x.bytesPer then none
    else
      some (r, { bank := r.off + 64 + (if g.refLearn r then b.cur * g.refSize r else 0), gen := b.gen,
                 markX := g.u (r.off + 8) 4, markY := g.u (r.off + 12) 4 })

/-- The registers of a view that a repeat of `comps` components uses, as they stand now (R510, R542). -/
def State.cmpRegs (s : State) (v comps : Nat) : CmpRegs :=
  let comp := s.get (R.CV_CTRL_REG_COMP v)
  { reg := ⟨if comp < comps then comp else 0, s.get (R.REG_CFG_REG_MIN_CORR v), s.get (R.REG_CFG_REG_MIN_STD v), s.get (R.REG_CFG_REG_DEV v),
      s.get (R.REG_CFG_REG_FAIL_FRAC v)⟩
    lateFire := s.on (R.CV_CTRL_GATE_LATE_FIRE v), mask := s.get (R.VERDICT_MASK_MASK v), sel := s.selCh? (R.VERDICT_SUB_SEL v) }

/-- The registers that hold for a repeat: as its first band fixed them, or as they stand for one that has none (R510; assumption 134). -/
def State.repRegs (s : State) (x : Rep) : CmpRegs := x.regs.getD (s.cmpRegs x.view x.comps)

/-- A row of a repeat is read under R369, whole or OVERWRITTEN, with the columns whose bytes are poisoned; a row that a full write buffer lost
(R356) is OVERWRITTEN. -/
def State.readRepRow (s : State) (x : Rep) (r : RepRow) : RepRow :=
  if r.read then r
  else match r.place with
  | none => { r with read := true, overwritten := true }
  | some (stage, q) =>
    if !s.rowReadable x.view stage q then { r with read := true, overwritten := true }
    else
      let n := x.comps * x.bytesPer
      let first := (s.slotImg x.slot).rlane x.view x.lane |>.first
      let row := s.rowBytesAt x.view stage q
      let px := (splitRow x.width x.comps x.bytesPer (row.drop (64 + first * n))).toList
      let width := s.get (R.VW_WIDTH_WIDTH x.view)
      let bad := (List.range x.width).filter fun i =>
        s.runPoison (s.rowSegs x.view stage) (s.rowOff x.view stage q + 96 + (first + i) * n) n
      { r with read := true, bad := bad, px := px.take (width - first) }

/-- The rows of a band are read. -/
def State.readBand (s : State) (x : Rep) (b : Nat) : Rep :=
  { x with rows := x.rows.map fun r => if r.y / 64 = b then s.readRepRow x r else r }

/-- The reads of rows of a repeat meet the errors that lie in its columns (R380, R381). -/
def State.rowsMeet (s : State) (x : Rep) (rows : List RepRow) : State :=
  let n := x.comps * x.bytesPer
  let first := ((s.slotImg x.slot).rlane x.view x.lane).first
  s.forList rows fun r s =>
    match if r.read then none else r.place with
    | some (stage, q) =>
      if s.rowReadable x.view stage q then s.runMeet (s.rowSegs x.view stage) (s.rowOff x.view stage q + 96 + first * n) (x.width * n) else s
    | none => s

/-- BAND_COMPARE (R509, R510): slice `i` begins the band of the repeat cut earliest. `errs`: the errors that its reads meet (R380). -/
def execBandCompare (i : Fin 8) (errs : List MemErr) (s : State) : Host.Outcome State Fault Refusal :=
  .next <|
    match s.nextBand i with
    | none => s
    | some k =>
      let s := s.memErrs errs
      let x := s.repOf k
      let x := if x.band = 0 then { x with regs := some (s.cmpRegs x.view x.comps), cfg := (s.refOf x).map (·.2) } else x
      if x.cfg.isNone then s.setRep k { x with noRef := true }
      else
        let s := s.rowsMeet x (x.rows.filter fun r => r.y / 64 == x.band)
        s.setRep k { s.readBand x x.band with band := x.band + 1, throttled := x.throttled || s.on R.CMP_STATUS_THROTTLED }

/-! ## The result of a comparison -/

/-- What the stages of a comparison give (R508). -/
structure CmpRes where
  cands : List Cand := []
  area : Nat := 0
  u0x : Int := 0
  u0y : Int := 0
  repl : Nat := 0
  fieldMax : Nat := 0
  regFail : Bool := false
  poison : Bool := false

/-- The mark of a repeat in its own coordinates, in 1/16 (R512). -/
def State.repMark (s : State) (c : Ctx) (x : Rep) : Int × Int :=
  let rl := (s.slotImg x.slot).rlane x.view x.lane
  let dx := if bitAt c.cflags 2 then 0 else c.markDx
  ((rl.markCol : Int) + dx - 16 * (rl.first : Int),
   (32 * posDiff x.mark c.anchor + x.pitch) / (2 * (max 1 x.pitch : Nat)))

/-- A reference pixel that fine registration reads is poisoned (R513): those within 8 pixels of the repeat at its coarse displacement. -/
def searched (a b : Pic) (u0x u0y : Int) (q : Tainted) : Bool :=
  let rx := (u0x + 8) / 16
  let ry := (u0y + 8) / 16
  (List.range (a.height + 16)).any fun j => (List.range (a.width + 16)).any fun i => q.refAt b ((i : Int) - 8 - rx) ((j : Int) - 8 - ry)

/-- The values of the RULES section that a verdict uses are poisoned (R521). -/
def State.rulesPoison (s : State) (x : Rep) : Bool :=
  match (s.slotImg x.slot).sec 0x12 x.view 0 with
  | some y => s.runPoison (s.refsOf x.slot) y.off y.len
  | none => false

/-- The reads of a job's sections for a repeat meet the errors that lie there (R380, R381). -/
def State.sectionsMeet (s : State) (x : Rep) : State :=
  let g := s.slotImg x.slot
  let segs := s.refsOf x.slot
  let s := match x.cfg, g.laneSec 0x10 x.view x.lane with
    | some cfg, some r => (s.runMeet segs r.off 16).runMeet segs cfg.bank (g.refSize r)
    | _, _ => s
  let s := match x.cfg, g.laneSec 0x11 x.view x.lane with
    | some _, some t => s.runMeet segs t.off t.len
    | _, _ => s
  match g.sec 0x12 x.view 0 with
  | some y => s.runMeet segs y.off y.len
  | none => s

/-- The comparison of a repeat (R512 to R518). -/
def State.compareRep (s : State) (k : Nat) : CmpRes :=
  let x := s.repOf k
  let c := s.ctxOf k
  let g := s.slotImg x.slot
  match x.cfg, g.laneSec 0x10 x.view x.lane, g.laneSec 0x11 x.view x.lane with
  | some cfg, some r, some ts =>
    let a := x.pic
    let sw := g.u (r.off + 7) 1
    let w := g.u r.off 4
    let h := g.u (r.off + 4) 2
    let b := picOf g cfg.bank w h x.comps sw
    let m := s.repMark c x
    let u0x := m.1 - cfg.markX
    let u0y := m.2 - cfg.markY
    let reg := register a b (s.repRegs x).reg u0x u0y
    let segs := s.refsOf x.slot
    let n := x.comps * sw
    let bad := s.runPoison segs
    let q : Tainted :=
      { rep := fun px py => x.rows.any fun q => q.y == py && q.bad.contains px
        ref := fun px py => bad (cfg.bank + (py * w + px) * n) n
        map := fun px py => bad (ts.off + 576 + py * w + px) 1
        level := fun k => bad (ts.off + 64 + 16 * k) (4 * x.comps)
        edge := bad (ts.off + 6) 6 }
    let t := g.tol ts
    let hits := (List.range x.height).flatMap fun y => (List.range x.width).filterMap fun px => testPixel a b t reg x.comps q px y
    let sets := hits.foldl joinSets []
    { cands := sets.map fun l => candFrom x.width x.height l.reverse, area := hits.length, u0x := u0x, u0y := u0y, repl := reg.repl
      fieldMax := reg.fieldMax, regFail := reg.fail
      poison := x.rows.any (fun q => !q.bad.isEmpty) || bad r.off 16 || bad ts.off 12 ||
        searched a b u0x u0y q || (List.range x.height).any fun y => (List.range x.width).any fun px => q.pixel a b t reg px y }
  | _, _, _ => {}

/-! ## Verdicts (R520 to R531) -/

/-- Special conditions of a repeat (R521), with the comparison's where it was compared. -/
def specials (c : Ctx) (x : Rep) (r : CmpRes) : Nat :=
  (bitAt c.cflags 4 || r.poison).toNat + (x.rows.any (·.overwritten)).toNat * 2 + (bitAt c.cflags 1).toNat * 4 +
    (decide (256 < r.cands.length)).toNat * 8 + r.regFail.toNat * 16 + x.noRef.toNat * 32 + (bitAt c.cflags 6 || bitAt c.cflags 5).toNat * 64

/-- A candidate block for a repeat (R520): its number, or none when it has no candidate or no block is free. -/
def State.takeBlock (s : State) (k v : Nat) (need : Bool) : State × Option Nat × Bool :=
  if !need then (s, none, false)
  else match Tbl.get [] s.candFree v with
    | b :: rest => ({ s with candFree := Tbl.put [] s.candFree v rest, candOf := Tbl.put none s.candOf k (some (v, b)) }, some b, false)
    | [] =>
      let s := (s.raise R.CMP_STATUS_CAND_DROP).bumpSat (R.CAND_DROP_CNT_CNT v)
      (s.tellCmp v 5, none, true)

/-- The GATE entry of a repeat (R525, R526), when its job and verdict call for one. -/
def State.gateEntry (s : State) (k : Nat) : Option (BitVec 128) :=
  let c := s.ctxOf k
  let x := s.repOf k
  let v := c.view
  let g := s.slotImg x.slot
  match g.rgate v with
  | none => none
  | some y =>
    let calls := c.verdict == 3 || (c.verdict == 2 && y.onSuspect)
    let calls := if isCtx k then calls else if g.noctxPolicy = 0 then true else if g.noctxPolicy = 1 then calls else false
    if !calls then none
    else
      let pos := posMod ((c.anchor : Int) + s.viewDist v (256 * y.dist))
      let param := (if isCtx k then k else 2 ^ 20) + y.unitUs.toNat * 2 ^ 23
      some (mkEntry pos 5 y.channel y.width param (8 + v) (s.repRegs x).lateFire 1 false true)

/-! ## Learning (R534 to R537) -/

def State.learnOf (s : State) (v : Nat) : Learn := Tbl.get {} s.compare.learn v
def State.setLearn (s : State) (v : Nat) (x : Learn) : State :=
  { s with compare := { s.compare with learn := Tbl.put {} s.compare.learn v x } }

/-- A repeat's picture as bytes in the coordinates of a seed it is registered to; the samples of a row that was not stored or is OVERWRITTEN are not
stated (R535; assumptions 1 and 64). -/
def learnBytes (a : Pic) (reg : Option Reg) (comps sw : Nat) : List Byte :=
  (List.range a.height).flatMap fun y => (List.range a.width).flatMap fun x => (List.range comps).flatMap fun c =>
    let v := match reg with
      | none => (a.sample c x y).getD (Config.unstated 16 535 (y * 2 ^ 20 + x) c).toNat
      | some r =>
        -- the seed's pixel (x, y) lies at (x + u_x, y + u_y) of the repeat; the edges are held
        let (ux, uy, d) := r.field a x y
        let hold := fun (p : Int) (n : Nat) => clampInt 0 (((n - 1) * 32 * d : Nat) : Int) p
        let p : Pt := { x := hold ((x : Int) * 32 * d + ux) a.width, y := hold ((y : Int) * 32 * d + uy) a.height, den := 32 * d }
        (p.bilinear a c).getD (Config.unstated 16 535 (y * 2 ^ 20 + x) c).toNat
    leBytes sw v

/-- Copy `n` of a learning session is stored (R535, R536); poison travels with it (R381). -/
def State.learnStore (s : State) (v n : Nat) (bad : Bool) (bs : List Byte) : State :=
  let l := s.learnOf v
  let segs := Tbl.get [] s.creel.learn v
  let s := s.runWrite segs (n * l.size) bs
  let s := if bad then s.setPoison (runAddr segs (n * l.size) / 32) true else s
  let s := s.bump (R.LEARN_COUNT_COLLECTED v)
  if s.get (R.LEARN_COUNT_COLLECTED v) = l.n then s.set (R.LEARN_STATE_STATE v) 2 else s

/-- A judged repeat is offered to the learning session of its view (R535). -/
def State.learnTake (s : State) (k : Nat) : State :=
  let c := s.ctxOf k
  let v := c.view
  let x0 := s.repOf k
  let l := s.learnOf v
  let g := s.slotImg x0.slot
  if s.get (R.LEARN_STATE_STATE v) ≠ 1 ∨ x0.slot ≠ l.slot ∨ c.cflags % 256 ≠ 0 then s
  else match g.laneSec 0x10 v x0.lane with
    | none => s
    | some r =>
      if r.index ≠ l.index ∨ x0.width * x0.height * x0.comps * x0.bytesPer ≠ l.size then s
      else
        let s := s.rowsMeet x0 x0.rows
        let x := { x0 with rows := x0.rows.map fun q => s.readRepRow x0 q }
        let a := x.pic
        let n := s.get (R.LEARN_COUNT_COLLECTED v)
        let m := s.repMark c x
        let bad := x.rows.any fun q => !q.bad.isEmpty
        if n = 0 then (s.setLearn v { l with markX := m.1, markY := m.2 }).learnStore v n bad (learnBytes a none x.comps x.bytesPer)
        else
          let s := s.runMeet (Tbl.get [] s.creel.learn v) 0 l.size
          let b := picOf (s.runRead (Tbl.get [] s.creel.learn v)) 0 x.width x.height x.comps x.bytesPer
          let reg := register a b (s.repRegs x).reg (m.1 - l.markX) (m.2 - l.markY)
          if reg.fail then s.bumpSat (R.LEARN_COUNT_REJECTED v) else s.learnStore v n bad (learnBytes a (some reg) x.comps x.bytesPer)

/-- REF_LEARN (R534): a session starts in COLLECTING, or is refused. -/
def execRefLearn (m : Fin 1024) (s : State) : Host.Outcome State Fault Refusal :=
  .next (s.skepRun m 0x0023 (fun p => !bitAt (leAt p 4 1) 0) fun p s =>
    let j := leAt p 0 1
    let v := leAt p 1 1
    let i := leAt p 2 1
    let n := leAt p 3 1
    let g := s.slotImg j
    let sec := if 64 ≤ j ∨ 8 ≤ v ∨ s.slotSt j < 2 then none else g.sec 0x10 v i
    match sec with
    | none => s.skepAnswer m Isaow.badArg
    | some r =>
      if n < 5 ∨ 63 < n ∨ !g.refLearn r then s.skepAnswer m Isaow.badArg
      else if !(s.on (R.VJ_ACTIVE_VALID v) && s.get (R.VJ_ACTIVE_SLOT v) == j) then s.skepAnswer m Isaow.notActive
      else if s.get (R.LEARN_STATE_STATE v) = 1 ∨ s.get (R.LEARN_STATE_STATE v) = 2 then s.skepAnswer m Isaow.busy
      else match s.alloc R.FREE_WORK_SEGS ((n * g.refSize r + 65535) / 65536) with
        | none => s.skepAnswer m Isaow.noMemory
        | some (s, segs) =>
          let s := ({ s with creel := { s.creel with learn := Tbl.put [] s.creel.learn v segs } }).showWork v
          let s := s.setLearn v { slot := j, index := i, n := n, size := g.refSize r }
          let s := (s.setReg (R.LEARN_STATE v) 0).setReg (R.LEARN_COUNT v) 0
          let s := ((s.set (R.LEARN_STATE_SLOT v) j).set (R.LEARN_STATE_INDEX v) i).set (R.LEARN_STATE_N v) n
          s.set (R.LEARN_STATE_STATE v) 1)

/-- REF_LEARN_ABORT (R537, R663): answered at once; the session's own command then completes with LEARN_FAIL. -/
def execRefLearnAbort (m : Fin 1024) (s : State) : Host.Outcome State Fault Refusal :=
  .next (s.skepRun m 0x0023 (fun p => bitAt (leAt p 4 1) 0) fun p s =>
    let v := leAt p 1 1
    if 8 ≤ v then s.skepAnswer m Isaow.badArg
    else
      let s := s.learnStop v 2
      s.skepAnswer m Isaow.ok (s.learnResp v))

/-- LEARN_COMPUTE_DONE (R536): the value of rank ⌊(N − 1) / 2⌋ of each sample goes to the inactive bank, and the banks swap. -/
def execLearnComputeDone (v : Fin 8) (s : State) : Host.Outcome State Fault Refusal :=
  .next <|
    let v := v.val
    let l := s.learnOf v
    let segs := Tbl.get [] s.creel.learn v
    let s := if s.get (R.LEARN_STATE_STATE v) = 2 then s.runMeet segs 0 (l.n * l.size) else s
    if s.get (R.LEARN_STATE_STATE v) ≠ 2 then s
    else if s.runPoison segs 0 (l.n * l.size) then s.learnStop v 3
    else match (s.slotImg l.slot).sec 0x10 v l.index with
      | none => s.learnStop v 1
      | some r =>
        let g := s.slotImg l.slot
        let sw := g.u (r.off + 7) 1
        let b := s.bankOf l.slot v l.index
        let data := (List.range (l.size / max 1 sw)).flatMap fun i =>
          let vs := (List.range l.n).map fun q => leNat (s.runRead segs (q * l.size + i * sw) sw)
          leBytes sw ((sortBy (fun x => (x, 0)) vs).getD ((l.n - 1) / 2) 0)
        let s := s.runWrite (s.refsOf l.slot) (r.off + 64 + (1 - b.cur) * l.size) data
        let s := s.runWrite (s.refsOf l.slot) (r.off + 8) (leBytes 4 l.markX.toNat ++ leBytes 4 l.markY.toNat)
        let s := s.bump R.REF_GEN_GEN
        let s := s.setBank l.slot v l.index { cur := 1 - b.cur, valid := true, gen := s.get R.REF_GEN_GEN }
        let s := ((s.set (R.LEARN_STATE_STATE v) 3).learnFree v).publishCmp v (l.slot * 16) 1
        match s.learnCmd v with
        | some m => s.skepAnswer m Isaow.ok (s.learnResp v)
        | none => s

/-! ## The verdict (R523 to R526, R539) -/

/-- The verdict event of a view (R539), under VERDICT_MASK and VERDICT_SUB as the repeat's first band fixed them (R510). -/
def State.verdictEvent (s : State) (k : Nat) : State :=
  let c := s.ctxOf k
  let v := c.view
  let q := s.repRegs (s.repOf k)
  if bitAt q.mask (c.verdict - 1) then
    s.publishOn (R.VERDICT_SUB_SEL v) q.sel 0x42 ((if isCtx k then k else 0) + c.verdict * 2 ^ 20 + (if isCtx k then 0 else 2 ^ 22))
  else s

/-- A repeat can be judged: it is IMAGED, and compared or not to be compared (R509, R511). -/
def State.judgeable (s : State) (k : Nat) : Bool :=
  let c := s.ctxOf k
  let x := s.repOf k
  decide (c.state = 1) && x != {} && !x.gating && (bitAt c.cflags 3 || x.noRef || decide (x.bands ≤ x.band))

/-- The repeat is judged past its bound of 1.5 ms after it was imaged (R531). -/
def State.judgedLate (s : State) (c : Ctx) : Bool := decide (1500000 < timeDiff s.timeNs c.imagedTime)

/-- What a verdict says of its time (R531): the longest so far, and a missed bound. -/
def State.boundCheck (s : State) (v : Nat) (c : Ctx) : State :=
  let us := (timeDiff s.timeNs c.imagedTime).toNat / 1000
  let late := s.judgedLate c
  let s := s.setMax (R.LAT_MAX_US v) (min 65535 us)
  if late then ((s.raise R.CMP_STATUS_BOUND_MISS).bumpSat (R.BOUND_MISS_CNT_CNT v)).tellCmp v 0 else s

/-- The comparison area of a context (R524): candidates, offset, field, special bits, flags, reference, peak and block. -/
def State.cmpArea (s : State) (c : Ctx) (x : Rep) (r : CmpRes) (keep bits : Nat) (drop : Bool) (block : Option Nat) : List Byte :=
  leBytes 2 (min 65535 r.cands.length) ++ leBytes 2 keep ++ leBytes 2 (unsigned 16 r.u0x) ++
    leBytes 2 (unsigned 16 r.u0y) ++ leBytes 1 (min 255 r.fieldMax) ++ leBytes 1 (min 255 r.repl) ++ leBytes 1 bits ++
    leBytes 1 (x.throttled.toNat + (s.judgedLate c).toNat * 2 + drop.toNat * 4) ++ leBytes 4 (match x.cfg with | some q => q.gen | none => 0) ++
    leBytes 4 (min 0xFFFFFFFF r.area) ++ leBytes 2 (min 0xFFFF (r.cands.foldl (fun m q => max m q.peak) 0)) ++
    leBytes 1 (match (s.slotImg x.slot).laneSec 0x10 c.view x.lane with | some q => q.index | none => 0) ++ leBytes 1 x.slice ++
    leBytes 4 (match block with | some b => b | none => 0xFFFFFFFF) ++ leBytes 4 0

/-- The candidate records go to their block of the view's ring (R520). -/
def State.storeCands (s : State) (v : Nat) (block : Option Nat) (recs : List Byte) : State :=
  match block with
  | some b => s.runWrite (s.histOf v).work (b * 8192) recs
  | none => s

/-- The verdict counters of a view, and those of the special conditions (R521, R523). -/
def State.countVerdict (s : State) (v vd bits : Nat) : State :=
  let s := if vd = 1 then s.bump (R.PASS_CNT_CNT v) else if vd = 2 then s.bump (R.SUSPECT_CNT_CNT v) else s.bump (R.FAIL_CNT_CNT v)
  s.forEach 7 fun i s => if bitAt bits i then s.bumpSat (R.SPECIAL_CNT_CNT v i) else s

/-- The repeat under key `k` joins the judged ones of its view, in verdict order (R578). -/
def State.judgedNext (s : State) (k : Nat) : State :=
  { s with compare := { s.compare with judged := s.compare.judged ++ [k] } }

/-- A judged repeat asks for its gate entry (R526), or with none to ask for goes on to Withy. -/
def State.gateAsk (s : State) (k v : Nat) : State :=
  match s.gateEntry k with
  | some e => (s.setRep k { s.repOf k with gating := true }).peQueue .compare { insert := true, entry := e, handle := 0, tag := k }
  | none => (s.ctxActs k 1 0).handOver v

/-- VERDICT_READY (R508, R511, R518 to R526): the repeat under key `k` closes its candidates, takes its verdict and asks for its gate
entry. -/
def execVerdictReady (k : Nat) (s : State) : Host.Outcome State Fault Refusal :=
  .next <|
    if !s.judgeable k then s
    else
      let s := (s.ctxTouch k).sectionsMeet (s.repOf k)
      let c := s.ctxOf k
      let x := s.repOf k
      let v := c.view
      let g := s.slotImg x.slot
      let blind := bitAt c.cflags 3
      let compared := !blind && !x.noRef
      let r := if compared then s.compareRep k else {}
      -- a repeat that is not BLIND is judged by the RULES section (R521, R523)
      let r := { r with poison := r.poison || (!blind && s.rulesPoison x) }
      let x := if blind && (s.refOf x).isNone then { x with noRef := true } else x
      let bits := specials c x r
      let verdict : Nat × Nat :=
        if blind then (3 - g.nomarkPolicy, 0xFF01)
        else finalVerdict g v bits (ruleVerdict (g.rules v) r.cands)
      let (s, block, drop) := s.takeBlock k v (!r.cands.isEmpty)
      let keep := if block.isSome then r.cands.take 256 else []
      let rules := g.rules v
      let recs := keep.flatMap fun q => q.bytes (ruleIdx rules r.cands q)
      let s := (s.storeCands v block recs).boundCheck v c
      let area := s.cmpArea c x r keep.length bits drop block
      let s := s.setCtx k { s.ctxOf k with
        state := 2, judgedTime := s.timeNs, verdict := verdict.1, rule := verdict.2, cmp := area
        -- a poisoned value marks the context too (R382)
        cflags := c.cflags ||| if r.poison then 16 else 0 }
      let s := s.setRep k { x with cands := recs, dvCrop := (s.reg (R.DV_CROP v)).toNat, dvMasks := (s.reg (R.DV_MASKS v)).toNat }
      let s := s.countVerdict v verdict.1 bits
      ((((s.flightOut x.slot v).verdictEvent k).learnTake k).judgedNext k).gateAsk k v

/-- The lead distance of a gate (R528), in 2⁻⁴⁸ sub-ticks of its view. -/
def State.leadDist (s : State) (v leadUs : Nat) : Int :=
  (leadUs * 250 : Nat) * s.getInt (R.SRC_RATE_RATE (s.get (R.VIEW_BIND_SOURCE v))) * (s.getInt (R.VIEW_SCALE_SCALE v)).natAbs

/-- The position engine has answered the insertion for the repeat under key `k`: position and handle go into the context at once (R526), and
the answer waits for GATE_INSERT_RESULT. -/
def State.gateAnswer (s : State) (k : Nat) (e : BitVec 128) (status handle : Nat) : State :=
  let c := s.ctxOf k
  let x := s.repOf k
  let v := c.view
  let lead := match (s.slotImg x.slot).rgate v with | some y => y.leadUs | none => 0
  let short := decide (status = 0 ∧ posDiff (ePos e) (s.viewPos v) * 2 ^ 48 < s.leadDist v lead)
  let s := if status = 0 ∨ status = 5 then
      let s := s.ctxTouch k
      s.setCtx k { s.ctxOf k with gatePos := ePos e, gateHandle := some (handle % 2 ^ 26) }
    else s
  { s with compare := { s.compare with answers := s.compare.answers ++ [⟨k, status, handle, short, !s.unitOn (viewUnit v)⟩] } }

/-- GATE_INSERT_RESULT (R527, R528): the answer of the oldest insertion is recorded, and its repeat goes to Withy. -/
def execGateInsertResult (s : State) : Host.Outcome State Fault Refusal :=
  .next <|
    match s.compare.answers with
    | [] => s
    | ⟨k, status, _, short, viewOff⟩ :: rest =>
      let s := { s with compare := { s.compare with answers := rest } }
      let c := s.ctxOf k
      let x := s.repOf k
      let v := c.view
      let s := s.setRep k { x with gateStatus := status, gating := false }
      let s := if short then
          let s := s.ctxTouch k
          (s.setCtx k { s.ctxOf k with cmp := c.cmp.set 11 (BitVec.ofNat 8 (leAt c.cmp 11 1 ||| 8)) }).bumpSat (R.LEAD_SHORT_CNT_CNT v)
        else s
      let s := match status with
        | 0 => s
        | 5 => s.bumpSat (R.LATE_GATE_CNT_CNT v)
        | 4 => (s.ctxActed k 4 0).bumpSat (R.LATE_GATE_CNT_CNT v)
        | 2 => if viewOff then s.ctxActed k 6 0 else (s.ctxActed k 5 0).bumpSat (R.UNSCHED_CNT_CNT v)
        | _ => (s.ctxActed k 5 0).bumpSat (R.UNSCHED_CNT_CNT v)
      s.handOver v

end Sys2Proof.Machine
end

