-- ==== Sys2Proof/Machine/Fabric.lean ====
section
/-!
DEFINITION. Where the position engine and the Sward arbiter meet every other block: an insertion or removal that becomes active and its
answer to the client, a source's enable, firing, and the grant of an event with its delivery to all consumers (chapters 3 and 4).
-/
set_option Elab.async false
namespace Sys2Proof.Machine

/-! ## Insertion and removal -/

/-- The result of a port's request (R94). -/
def State.portAnswer (s : State) (p status handle : Nat) : State :=
  let s := s.set (R.PORT_RESULT_STATUS p) status
  let s := if status = 0 ∨ status = 5 then (s.set (R.PORT_RESULT_HANDLE_INDEX p) handle).set (R.PORT_RESULT_HANDLE_GEN p) (handle / 2 ^ 18) else s
  s.raise (R.PORT_RESULT_DONE p)

/-- The result of a request returns to its client (R92, R94, R100). -/
def State.peResult (s : State) (c : Client) (r : PReq) (a : PAnswer) : State :=
  match c with
  | .jobs => s
  | .compare => if r.insert then s.gateAnswer r.tag r.entry a.status a.handle else s
  | .ling => s.lingAnswer r.tag a.status a.handle
  | .creel => if r.insert then s.markInserted r.tag a.status else s
  | .skep => if 2 ^ 20 ≤ r.tag then s.armAnswer r.tag a.status a.handle else s
  | .port p => if r.insert then s.portAnswer p a.status a.handle
    else (s.set (R.PORT_RESULT_STATUS p) a.status).raise (R.PORT_RESULT_DONE p)

/-- ENTRY_INSERT_ACTIVE (R90): the first request of a client's queue, an insertion, becomes active when the rotation is at that client
(R98); `slot` is the slot that the engine prefers (assumption 6). -/
def execEntryInsertActive (c : Client) (slot : Nat) (s : State) : Host.Outcome State Fault Refusal :=
  .next <|
    match s.peWaiting c with
    | [] => s
    | r :: _ =>
      if r.insert && s.peTurn == some (clientCode c) then
        let a := (s.peTake c).peInsert (clientCode c) r.entry slot
        a.state.peResult c r a
      else s

/-- What follows where a port has removed entry `e` (R474, R493). -/
def State.portRemoved (s : State) (status client : Nat) (e : BitVec 128) (handle : Nat) : State :=
  if status = 0 ∧ 8 ≤ client then (s.gateRemoved e handle 7).switchGone e (handle % 2 ^ 26) else s

/-- ENTRY_REMOVE_ACTIVE (R97): the first request of a client's queue, a removal, becomes active when the rotation is at that client (R98). A
GATE entry that a port removes sets its context's ACT_RESULT to REMOVED (R493), a JOB_SWITCH entry that it removes is no pending switch any
longer (R474), and a generator inserts its entry anew (R337). -/
def execEntryRemoveActive (c : Client) (s : State) : Host.Outcome State Fault Refusal :=
  .next <|
    match s.peWaiting c with
    | [] => s
    | r :: _ =>
      if r.insert || s.peTurn != some (clientCode c) then s
      else
        let e := (s.slotOf (r.handle % 2 ^ 18)).entry
        let a := (s.peTake c).peRemove (clientCode c) r.handle
        ((a.state.portRemoved a.status (clientCode c) e r.handle).genKeep false).peResult c r a

/-! ## Firing -/

/-- ENTRY_CROSSED (R83, R86, R87): the entry that is next in the order of R87 fires, one of this clock's eight; a generator whose entry has
fired inserts the next (R337). -/
def execEntryCrossed (s : State) : Host.Outcome State Fault Refusal :=
  .next <|
    match s.nextDue with
    | some d => if d.deferred then s else (s.countFire.fireSlot d.slot d.late d.forward).genKeep true
    | none => s

/-- ENTRY_DEFERRED_FIRE (R87): an entry that an earlier clock has deferred fires with FIRE_DEFER, one of this clock's eight. -/
def execEntryDeferredFire (s : State) : Host.Outcome State Fault Refusal :=
  .next <|
    match s.nextDue with
    | some d => if d.deferred then (s.noteDefer.countFire.fireSlot d.slot d.late d.forward).genKeep true else s
    | none => s

/-- The late entries that are next fire as the event clock in which they became active ends (R87, R91). -/
def State.fireLates (s : State) : Nat → State
  | 0 => s
  | fuel + 1 =>
    match s.nextDue with
    | some d =>
      if d.late && !d.deferred then ((s.countFire.fireSlot d.slot true d.forward).genKeep true).fireLates fuel else s
    | none => s

/-! ## Enabling a source (R70) -/

/-- An entry between the old and the new position of a source that is enabled is late (R70, R91). -/
def State.jumpLate (s : State) (d : Due) : State :=
  let x := s.slotOf d.slot
  let e := x.entry
  let h := s.handleOf d.slot
  if e = 0 then s
  else if eLateFire e then (s.noteLate x.client e true h).fireLate d.slot
  else (((s.noteLate x.client e false 0).freeSlot d.slot).gateRemoved e h 4).switchGone e h

/-- SOURCE_ENABLE (R70): the position word of a source that has been enabled is loaded from its input without crossing; the entries jumped
over are late, taken by INDEX (R87). -/
def execSourceEnable (n : Fin 8) (s : State) : Host.Outcome State Fault Refusal :=
  .next <|
    if s.on (R.SRC_CTRL_EN n) && !(s.srcOf n).loaded then
      let s := s.setSrc n { s.srcOf n with loaded := true }
      let old := s
      let p := match s.get (R.SRC_CTRL_INPUT n) with
        | 0 => s.srcTarget n
        | _ => match s.inputPos n with
          | some p => posMod (p + s.srcOffset n)
          | none => s.srcPos n
      let s := s.placeSource n p
      let moves := (n.val, old.srcPos n, p) :: (old.boundViews n).map fun (v : Nat) => (v + 8, old.viewPos v, s.viewPos v)
      let s := s.startSource n
      let s := s.forList (sortBy (fun d => (d.slot, 0)) (s.crossed moves)) fun d s => s.jumpLate d
      (s.srcShow n).genKeep true
    else s

/-! ## The arbiter (R112 to R114, R124, R125) -/

/-- The channel whose head event is granted next in this event clock: a request is never granted in the clock of its arrival, a channel is
granted once a clock and 16 are at most, in rotating order after the last channel granted (R112). -/
def State.nextGrant (s : State) : Option (Nat × Req) :=
  let done := if s.swd.grantClk = s.clk + 1 then s.swd.granted else []
  if 16 ≤ done.length then none
  else
    ((List.range 256).map fun (i : Nat) => (s.swd.lastCh + 1 + i) % 256).findSome? fun (c : Nat) =>
      match s.fifoOf c with
      | r :: _ => if r.clk < s.clk ∧ ¬ done.contains c then some (c, r) else none
      | [] => none

/-- The event that the grant of a request forms (R108, R110, R113); it is delivered in the clock after (R114). -/
def State.eventOf (s : State) (c : Nat) (r : Req) : Event :=
  let src := match r.src with | some n => n | none => s.get (R.SWD_CH_CFG_STAMP_SRC c)
  { req := r, age := min 255 (s.clk - r.clk), gseq := (s.get R.SWD_GSEQ_GSEQ + 1) % 2 ^ 32, stampSrc := src
    position := s.srcPos src, time := s.timeNs, clk := s.clk + 1 }

/-- RUNAWAY (R125): the channel of event `e` is stopped, its FIFO emptied, and the log told. -/
def State.runaway (s : State) (c : Nat) (e : Event) : State :=
  let s := { s with swd := { s.swd with stopped := Tbl.put false s.swd.stopped c true } }
  let s := ((s.clear (R.SWD_CH_CFG_EN c)).raise (R.SWD_CH_STATUS_RUNAWAY c)).raise R.SWD_STATUS_RUNAWAY
  (s.emptyFifo c).log 10 (leBytes 4 c ++ leBytes 4 e.gseq ++ leBytes 8 e.position)

/-- The grant itself: the request leaves its FIFO, GSEQ, WATCH and CH_CNT count it, and a count above CH_GUARD_MAX in the guard window
stops the channel with RUNAWAY (R113, R124, R125). A grant in the clock of a write of the guard registers lies in no window (assumption
102). -/
def State.grant (s : State) (c : Nat) (e : Event) : State :=
  let done := if s.swd.grantClk = s.clk + 1 then s.swd.granted else []
  let s := s.setFifo c ((s.fifoOf c).drop 1)
  let k := if Tbl.get false s.swd.noWindow c then 0 else Tbl.get 0 s.swd.window c + 1
  let s := { s with swd := { s.swd with
    lastCh := c, grantClk := s.clk + 1, granted := done ++ [c], window := Tbl.put 0 s.swd.window c k } }
  let s := s.set R.SWD_GSEQ_GSEQ e.gseq
  let s := (s.raiseBits (R.WATCH_FLAGS (c / 32)) (2 ^ (c % 32))).girqSward
  let s := s.bump (R.CH_CNT_CNT c)
  if s.get (R.CH_GUARD_MAX c) < k then s.runaway c e else s

/-- A granted event reaches every subscribed consumer input (R111, R114). -/
def State.deliverAll (s : State) (e : Event) : State :=
  let s := (s.deliverSward e).deliverTriggers e
  let s := (s.deliverLing e).deliverJobs e
  let s := (s.deliverMarks e).deliverSsi e
  (s.deliverStation e).deliverTaps e

/-- EVENT_GRANT (R112): the arbiter grants one event, which is delivered in the event clock after (R114). -/
def execEventGrant (s : State) : Host.Outcome State Fault Refusal :=
  .next <|
    match s.nextGrant with
    | none => s
    | some (c, r) =>
      let e := s.eventOf c r
      let s := s.grant c e
      { s with swd := { s.swd with delivering := s.swd.delivering ++ [e] } }

/-- The deliveries of this event clock, in GSEQ order: the events granted in the clock before (R114, R118), also on a channel whose EN has
been cleared since (assumption 103). Accesses of the clock come first
(R25), so the deliveries are made as it ends. -/
def State.deliverDue (s : State) : State :=
  let due := s.swd.delivering.filter fun e => decide (e.clk ≤ s.clk)
  let s := { s with swd := { s.swd with delivering := s.swd.delivering.filter fun e => decide (s.clk < e.clk) } }
  s.forList due fun e s => s.deliverAll e

end Sys2Proof.Machine
end

