-- ==== Sys2Proof/Machine/Heads.lean ====
section
/-!
DEFINITION. Heads, endpoints and streams (chapter 8): the commands of the endpoint table, the CTRL ports, admission of stream
descriptors, and the message FIFOs.
-/
set_option Elab.async false
namespace Sys2Proof.Machine

/-! ## The endpoint table -/

/-- FORGET (R279): a write of EP_CTRL; it frees a LOST entry. -/
def execForget (who : Who) (e : Fin 2048) (v : Word) (s : State) : Host.Outcome State Fault Refusal :=
  .next <| s.viaBus who fun s =>
    let e := e.val
    let s := s.writeReg (R.EP_CTRL e) v
    if bitAt v.toNat 1 && s.epState e == 3 then
      ((s.setEpState e 0).clear (R.EP_STATUS_DUP_SERIAL e)).setEp e (s.epOf e).freed |>.dupUpdate
    else s

/-- HEALTH_POLL (R288): Skep, while it runs (R24), reads HEAD_EP of every IDENTIFIED endpoint. -/
def execHealthPoll (s : State) : Host.Outcome State Fault Refusal :=
  .next <|
    if s.skepRuns && s.on R.HEALTH_CFG_PERIOD then
      s.forList (s.eps.keys.filter fun e => s.epState e == 2) fun e s => s.ctrlRequest e false 0x40 1 [] .health
    else s

/-- PSET_WRITE (R292): PSET_EXP_k, or PSET_CFG_k when `cfg`. -/
def execPsetWrite (who : Who) (e : Fin 2048) (k : Fin 16) (cfg : Bool) (v : Word) (s : State) : Host.Outcome State Fault Refusal :=
  .next <| s.viaBus who fun s =>
    let e := e.val
    if (s.descsOfEp e).any s.running then s.raise (R.EP_STATUS_PSET_REJ e)
    else
      let s := s.writeReg (if cfg then R.PSET_CFG e k else R.PSET_EXP e k) v
      s.setEp e { s.epOf e with psetDirty := true }

/-! ## CTRL ports -/

/-- RSTATUS of a request that is not sent (R294); the checks are made in the order BAD_REQ, DENIED, NOT_READY. -/
def State.cpRefusal (s : State) (e addr words : Nat) : Option Nat :=
  let stop := addr + 4 * words
  let touches (lo hi : Nat) : Bool := decide (addr < hi ∧ lo < stop)
  if words = 0 ∨ 64 < words ∨ (addr < 0x10000 ∧ 0x10000 < stop) then some 14
  else if touches 0x40 0x44 || touches 0x100 0x200 || touches 0x1000 0x1080 then some 12
  else if s.epState e ≠ 2 then some 13
  else none

/-- CP_GO (R293, R294): a write of CP_CMD. A request that fails at once has taken its TAG, and leaves DONE set. -/
def execCpGo (who : Who) (p : Fin 16) (v : Word) (s : State) : Host.Outcome State Fault Refusal :=
  .next <| s.viaBus who fun s =>
    let p := p.val
    if !bitAt v.toNat 0 then s
    else if !s.on (R.CP_RESULT_DONE p) then s.raise (R.CP_RESULT_CMD_IGN p)
    else
      let e := s.get (R.CP_EP_EP p)
      let words := s.get (R.CP_REQ_WORDS p)
      let addr := s.get (R.CP_ADDR_ADDR p)
      match s.cpRefusal e addr words with
      | some st =>
        let x := s.epOf e
        let s := s.setEp e { x with nextTag := (x.nextTag + 1) % 256 }
        (s.set (R.CP_RESULT_RSTATUS p) st).set (R.CP_RESULT_TAG p) x.nextTag
      | none =>
        let write := s.on (R.CP_REQ_OP p)
        let data := if write then (List.range words).map fun i => s.get (R.CP_DATA_DATA p i) else []
        (s.clear (R.CP_RESULT_DONE p)).ctrlRequest e write addr words data (.port p)

/-! ## Admission -/

/-- The fields of a descriptor lie in their ranges, its endpoint's identity offers them, and no enabled descriptor conflicts (R295 to
R300). -/
def State.descBad (s : State) (d : Nat) : Bool :=
  let e := s.get (R.SD_BIND_EP d)
  let caps := (s.reg (R.ID_WORD e 4)).toNat
  let fmt := s.get (R.SD_FORMAT_FMT d)
  let c := s.descComps d
  let width := s.get (R.SD_GEOM_WIDTH d)
  let rows := s.get (R.SD_TILE_TILE_ROWS d)
  let rate := s.get (R.SD_RATE_MAX_RATE d)
  let tile := s.on (R.SD_CTRL_TILE d)
  decide (5 < fmt) || (List.range c).any (fun i => decide (5 < bitsOf (s.get (R.SD_FORMAT_COMP_MAP d)) (4 * i) 4)) ||
  decide (width = 0 ∨ 32768 < width ∨ rows = 0 ∨ 8192 < rows ∨ rate = 0 ∨ 4000000 < rate) ||
  (tile && !bitAt caps 5) || (s.on (R.SD_FORMAT_LAYOUT d) && !bitAt caps 6) ||
  decide (bitsOf caps 8 3 < c) || !bitAt caps (16 + fmt) || decide (bitsOf (s.reg (R.ID_WORD e 5)).toNat 0 17 < width) ||
  (s.descs.any fun x => x != d &&
    ((s.get (R.SD_BIND_EP x) == e && s.get (R.SD_BIND_STREAM x) == s.get (R.SD_BIND_STREAM d)) ||
     (s.get (R.SD_BIND_VIEW x) == s.get (R.SD_BIND_VIEW d) && s.get (R.SD_BIND_HEAD x) == s.get (R.SD_BIND_HEAD d))))

/-- The admission of a descriptor that has EN 0 (R33, R300, R303, R304): 0, or its ADMIT_ERR. -/
def State.admitErr (s : State) (d : Nat) : Nat :=
  let f := s.descLink d
  if s.epState (s.get (R.SD_BIND_EP d)) ≠ 2 then 4
  else if s.descBad d then 1
  else if s.linkCap f * 1000000 < ((s.descsOfLink f).map s.descLoad).sum + s.descLoad d then 2
  else if 1312000000000 < 128000000000 + (s.descs.map s.descMem).sum + s.descMem d then 3
  else 0

/-- The descriptor's own forecast is shown (R315). -/
def State.showLoad (s : State) (d : Nat) : State := s.set (R.SD_LOAD_MBS d) (min 65535 (ceilDiv (s.descLoad d) 1000000))

/-- DESC_ENABLE (R300, R301, R305): a write of SD_CTRL with EN 1. -/
def execDescEnable (who : Who) (d : Fin 4096) (v : Word) (s : State) : Host.Outcome State Fault Refusal :=
  .next <| s.viaBus who fun s =>
    let d := d.val
    if s.on (R.SD_CTRL_EN d) then s.raise (R.SD_STATUS_DESC_REJ d)
    else
      let s := (s.writeReg (R.SD_CTRL d) v).clear (R.SD_CTRL_EN d)
      let err := s.admitErr d
      let s := (s.set (R.SD_STATUS_ADMIT_ERR d) err).showLoad d
      if err = 0 ∧ bitAt v.toNat 0 then
        ((s.raise (R.SD_CTRL_EN d)).forecasts.groupUpdate).streamStart d
      else s

/-- A descriptor is disabled (R301): Skep stops the head's stream, and the capacity is released. -/
def State.descOff (s : State) (d : Nat) : State :=
  if s.on (R.SD_CTRL_EN d) then
    let e := s.get (R.SD_BIND_EP d)
    let s := if s.running d then s.streamStop d false else s
    let s := (s.clear (R.SD_CTRL_EN d)).streamForget d
    let s := if s.epState e = 2 then s.streamEnd d e (s.get (R.SD_BIND_STREAM d)) else s
    s.forecasts.groupUpdate
  else s

/-- DESC_DISABLE (R300, R301): a write of SD_CTRL with EN 0. -/
def execDescDisable (who : Who) (d : Fin 4096) (v : Word) (s : State) : Host.Outcome State Fault Refusal :=
  .next <| s.viaBus who fun s =>
    let d := d.val
    if s.on (R.SD_CTRL_EN d) then
      let s := if bitsOf v.toNat 1 2 ≠ bitsOf (s.reg (R.SD_CTRL d)).toNat 1 2 then s.raise (R.SD_STATUS_DESC_REJ d) else s
      s.descOff d
    else (s.writeReg (R.SD_CTRL d) v).clear (R.SD_CTRL_EN d)

/-! ## Message FIFOs -/

/-- MF_CFG_WRITE (R309): DEPTH only while EN is 0 and the pool fits. -/
def execMfCfgWrite (who : Who) (e : Fin 2048) (v : Word) (s : State) : Host.Outcome State Fault Refusal :=
  .next <| s.viaBus who fun s =>
    let e := e.val
    let old := s.get (R.MF_CFG_DEPTH e)
    let new := bitsOf v.toNat 16 11
    let free := s.get R.MF_POOL_FREE_WORDS
    let en := s.on (R.MF_CFG_EN e)
    let s := (s.writeReg (R.MF_CFG e) v).set (R.MF_CFG_DEPTH e) old
    if new = old then s
    else if !en && decide (9 ≤ new ∧ new ≤ 1024 ∧ new ≤ free + old) then
      (s.set (R.MF_CFG_DEPTH e) new).set R.MF_POOL_FREE_WORDS (free + old - new)
    else s.raise (R.MF_STATUS_DEPTH_REJ e)

/-- FLUSH (R307, R312): `cut` says that the producer is in the middle of an item. -/
def execFlush (who : Who) (e : Fin 2048) (cut : Bool) (v : Word) (s : State) : Host.Outcome State Fault Refusal :=
  .next <| s.viaBus who fun s =>
    let e := e.val
    if bitAt v.toNat 0 then
      let s := if (s.epOf e).items = [] then s else s.setEp e { s.epOf e with dropped := true }
      let s := s.setItems e []
      if cut then
        ((s.setEp e { s.epOf e with cutting := true, dropped := true }).raise (R.MF_STATUS_FLUSH_CUT e)).bumpSat (R.MF_CUT_CNT_CNT e)
      else s
    else s

/-- MSG_RECORD_TAKE (R311, R551): bit i of `parity` says that read word i of the item has a parity error. -/
def execMsgRecordTake (e : Fin 2048) (parity : BitVec 64) (s : State) : Host.Outcome State Fault Refusal :=
  .next <|
    let e := e.val
    match (s.epOf e).items with
    | [] => s
    | m :: rest =>
      let mask := parity.toNat % 2 ^ min 64 m.size
      let n := popCount 64 mask
      let s := s.setItems e rest
      let s := if n = 0 then s else (s.raise (R.MF_STATUS_PARITY e)).bumpSat (R.MF_PARITY_CNT_CNT e) n
      let body := m.words.flatMap (leBytes 4)
      let x : WRec := { type := 6, hflags := if n = 0 then 0 else 2, body := .bytes body,
                        area := leBytes 2 e ++ leBytes 2 m.words.length ++ leBytes 4 0 ++ leBytes 8 mask ++ leBytes 8 0 }
      s.queueRec (s.get (R.MF_CFG_RING e)) x

end Sys2Proof.Machine
end

