-- ==== Sys2Proof/Machine/Irq.lean ====
section
/-!
DEFINITION. Interrupt aggregation as software drives it (R737 to R739), and the supplies of the GPIO banks (R753).
-/
set_option Elab.async false
namespace Sys2Proof.Machine

/-- The function whose aggregation registers a requester reaches (R737); Skep has none of its own and reaches those of function 0. -/
def girqFn : Who → Nat
  | .fn1 => 1
  | _ => 0

/-- GIRQ_STATUS_WRITE (R737, R738): a write of GIRQ_STATUS, or of GIRQ_ENABLE when `enable`; the interrupt is sent again if the write leaves
it pending. -/
def execGirqStatusWrite (who : Who) (enable : Bool) (v : Word) (s : State) : Host.Outcome State Fault Refusal :=
  .next <| s.viaBus who fun s =>
    let f := girqFn who
    let was := s.intaOn f
    let t := if enable then s.setReg (R.GIRQ_ENABLE f) (maskedWrite 0xFF 0 (s.reg (R.GIRQ_ENABLE f)) v)
      else s.setReg (R.GIRQ_STATUS f) (maskedWrite 0 (0xFE - bitsOf (s.risenOf (R.GIRQ_STATUS f)) 1 7 * 2) (s.reg (R.GIRQ_STATUS f)) v)
    (if t.aggPending f then t.aggSend f else t).inta f was

/-- GIRQ_SOFT (R737). -/
def execGirqSoft (who : Who) (s : State) : Host.Outcome State Fault Refusal :=
  .next <| s.viaBus who fun s =>
    s.girq (girqFn who) (R.GIRQ_STATUS_SOFT (girqFn who))

/-- The levels at the encoder inputs are held for acceptance anew, and the pass-through outputs follow. -/
def State.encBank (s : State) : State :=
  let s := s.forEach 8 fun n s =>
    let c := s.encOf n
    s.setEnc n { c with holdA := s.encPin n .a != c.filtA, holdB := s.encPin n .b != c.filtB, holdZ := s.encPin n .z != c.filtZ }
  s.forEach 8 fun m s =>
    if s.get (R.ENC_PT_PT_MODE m) = 0 then s
    else ((s.emit (.encOut m .a (s.ptLevel m .a))).emit (.encOut m .b (s.ptLevel m .b))).emit (.encOut m .z (s.ptLevel m .z))

/-- VDDIO_GPIO_CHANGE (R753): a bank loses its supply or has it again: its inputs read low meanwhile, and its outputs are released. -/
def execVddioGpioChange (bank : Fin 4) (up : Bool) (s : State) : Host.Outcome State Fault Refusal :=
  .next <|
    let b := bank.val
    if Tbl.get false s.swd.bankDown b = !up then s
    else
      let s := { s with swd := { s.swd with bankDown := Tbl.put false s.swd.bankDown b (!up) } }
      let s := if b = 0 then s.encBank else s
      let s := s.forEach 64 fun k s =>
        if s.on (R.OUT_CTRL_EN k) && s.get (R.OUT_CTRL_GPIO k) / 16 == b then s.driveOut k (s.on (R.OUT_STATUS_LEVEL k)) else s
      s.forEach 32 fun k s =>
        let p := s.get (R.SW_CTRL_GPIO k)
        if p / 16 = b then s.swChange k (s.swLevel k (Tbl.get false s.swd.pinIn p)) else s

end Sys2Proof.Machine
end

