-- ==== Sys2Proof/Machine/Access.lean ====
section
/-!
DEFINITION. Accesses to registers and memory windows by address (R5 to R7, R53, R117, R596, R732 to R745): where an address leads, what
a write or a read does there, and the indirect port of function 1. Function 0 and Skep name a register by its offset in BAR 0 of
function 0, function 1 by its offset in its own BAR 0 (R742). The offsets from 0x0510_0000 on stand for BAR 4 of function 0.
-/
set_option Elab.async false
namespace Sys2Proof.Machine

/-! ## Where an address leads (R592, R732, R742, R743) -/

/-- What an address reaches: a register or window of the map, a byte of a mailbox, or a word of a function's MSI-X table or pending bits
by the model's address for it. -/
inductive Place where
  | reg (a : Nat)
  | box (m off : Nat)
  | msix (f a : Nat)
  | nothing
deriving DecidableEq, Repr

/-- An offset in BAR 0 of function 0 (R732), or from 0x0510_0000 on in its BAR 4 (R592, R594). -/
def place0 (a : Nat) : Place :=
  if a < 0x10000 then .reg a
  else if a < 0x20000 then .box ((a - 0x10000) / 0x1000) (a % 0x1000)
  else if a < 0x30000 then .reg a
  else if a < 0x100000 then .nothing
  else if a < 0x1600000 then .reg a
  else if 0x5100000 ≤ a ∧ a < 0x5108000 then .msix 0 a
  else if 0x5108000 ≤ a ∧ a < 0x5108100 then .msix 0 (0x5200000 + (a - 0x5108000))
  else .nothing

/-- An offset in BAR 0 of function 1 (R742). -/
def place1 (a : Nat) : Place :=
  if a < 0x10000 then .reg a
  else if a < 0x14000 then .box (16 + (a - 0x10000) / 0x1000) (a % 0x1000)
  else if a < 0x18000 then .reg (0x900000 + (a - 0x14000))
  else if a < 0x1C000 then .reg (0x800000 + (a - 0x18000))
  else if a < 0x20000 then .reg (0x1300000 + (a - 0x1C000))
  else if a < 0x28000 then .reg (0xA00000 + (a - 0x20000))
  else if a < 0x30000 then .reg (0xB00000 + (a - 0x28000))
  else if a < 0x34000 then .reg (0x1200000 + (a - 0x30000))
  else if a < 0x40000 then .nothing
  else if a < 0x60000 then .reg (0x1400000 + (a - 0x40000))
  else if a < 0x80000 then .reg (0x100000 + 28 * 0x8000 + (a - 0x60000))
  else if 0xF0000 ≤ a ∧ a < 0xF0200 then .msix 1 (0x5110000 + (a - 0xF0000))
  else if 0xF1000 ≤ a ∧ a < 0xF1004 then .msix 1 (0x5201000 + (a - 0xF1000))
  else .nothing

/-- Where an address leads for a requester; accesses are of aligned 32-bit words. -/
def placeOf (who : Who) (a : Nat) : Place :=
  match who with
  | .fn1 => place1 (a / 4 * 4)
  | _ => place0 (a / 4 * 4)

/-- The aggregation registers and the group registers have one address in the model and several in the map (R220, R743). -/
def canon (who : Who) (a : Nat) : Nat :=
  if 0x200 ≤ a ∧ a < 0x210 ∧ who = .fn1 then a + 0x4000000
  else if 0x100000 ≤ a ∧ a < 0x200000 ∧ 0x800 ≤ a % 0x8000 ∧ a % 0x8000 < 0x810 then
    0x100000 + (a - 0x100000) / 0x20000 * 0x20000 + a % 0x8000
  else a

/-- Registers that a requester cannot reach read 0 and ignore writes: mailboxes 16 to 20 and SKEP_RESTART, ports 6 and 7, and the
indirect port, through function 0 (R93, R674, R743). -/
def hidden (who : Who) (a : Nat) : Bool :=
  (who == .fn0 && ((decide (0xA100 ≤ a ∧ a < 0xA150)) || a == R.SKEP_RESTART || decide (R.PORT_W_0 6 ≤ a ∧ a < R.PORT_W_0 8))) ||
    (who != .fn1 && decide (0xC000 ≤ a ∧ a < 0xC100))

/-- Mailboxes 0 to 15 and 20 are read-only through function 1 (R674). -/
def boxReadOnly (who : Who) (a : Nat) : Bool :=
  who == .fn1 && (decide (0xA000 ≤ a ∧ a < 0xA100) || decide (0xA140 ≤ a ∧ a < 0xA150))

/-- The registers that hold selectors (R117): base, numbers and strides. -/
def selRows : List (Nat × Nat × Nat × Nat × Nat) :=
  [(0xA210, 1, 0, 1, 0), (0x1000E0, 32, 0x8000, 1, 0), (0x101024, 32, 0x8000, 1, 0), (0x101028, 32, 0x8000, 1, 0),
   (0x101104, 32, 0x8000, 8, 0x40), (0x200008, 1, 0, 1, 0), (0x300020, 1, 0, 1, 0), (0x300024, 1, 0, 1, 0), (0x300028, 1, 0, 1, 0),
   (0x400004, 1, 0, 1, 0), (0x500004, 1, 0, 1, 0), (0x600004, 1, 0, 1, 0), (0x600008, 1, 0, 1, 0), (0x60400C, 8, 0x400, 1, 0),
   (0x60401C, 8, 0x400, 1, 0), (0x700004, 1, 0, 1, 0), (0x701004, 8, 0x100, 1, 0), (0x800030, 1, 0, 1, 0), (0x800034, 1, 0, 1, 0)] ++
  [(0x900044, 8, 0x100, 1, 0), (0x900048, 8, 0x100, 1, 0), (0x90004C, 8, 0x100, 1, 0), (0x900050, 8, 0x100, 1, 0),
   (0x900054, 8, 0x100, 1, 0), (0x901030, 4, 0x100, 1, 0), (0x902004, 32, 0x20, 1, 0), (0xA04004, 64, 0x20, 1, 0),
   (0xA04008, 64, 0x20, 1, 0), (0xA05004, 64, 0x20, 1, 0), (0xA05008, 64, 0x20, 1, 0), (0xB00004, 1, 0, 1, 0),
   (0xB01038, 8, 0x800, 1, 0), (0xB0103C, 8, 0x800, 1, 0), (0xB01040, 8, 0x800, 1, 0), (0x1000004, 1, 0, 1, 0),
   (0x1050000, 32, 0x4, 1, 0), (0x1100004, 1, 0, 1, 0)] ++
  [(0x1200040, 1, 0, 1, 0), (0x1200044, 1, 0, 1, 0), (0x1200048, 1, 0, 1, 0), (0x120004C, 1, 0, 1, 0), (0x1202400, 16, 0x4, 1, 0),
   (0x1202504, 32, 0x10, 1, 0), (0x1300008, 1, 0, 1, 0)]

/-- The register at `a` holds selectors. -/
def isSelector (a : Nat) : Bool :=
  selRows.any fun (b, n1, s1, n2, s2) => ({ base := b, n1, s1, n2, s2, reset := 0, rw := 0, w1c := 0, ro := 0, rc := 0 } : RegRow).holds a

/-! ## Writes -/

/-- The state that a command's meaning leaves. -/
def after (s : State) (f : State → Host.Outcome State Fault Refusal) : State :=
  match f s with
  | .next t => t
  | _ => s

/-- The entry of a table of `n` equal blocks that holds an address: its number and the offset in it. -/
def blockAt (n base stride a : Nat) : Option (Fin n × Nat) :=
  if h : base ≤ a ∧ (a - base) / stride < n then some (⟨(a - base) / stride, h.2⟩, (a - base) % stride) else none

/-- The global block (R622, R674, R675, R737 to R739, R745). -/
def State.writeGlobal (s : State) (who : Who) (a : Nat) (v : Word) : Option State :=
  if a % 0x4000000 = 0x200 then some (after s (execGirqStatusWrite who false v))
  else if a % 0x4000000 = 0x204 then some (after s (execGirqStatusWrite who true v))
  else if a % 0x4000000 = 0x20C then some (if bitAt v.toNat 0 then after s (execGirqSoft who) else s)
  else if a = R.PCIE_CTRL ∨ a = R.TAG_LIMIT then some (s.writeReg a v).portPump
  else if a = R.WINDOW_COMMIT then some (if bitAt v.toNat 0 then after s (execWindowCommit who) else s)
  else if a = R.SKEP_RESTART then some (if bitAt v.toNat 0 then after s (execSkepRestart who) else s)
  else match blockAt 21 0xA000 0x10 a with
    | some (m, 0x0) => some (if bitAt v.toNat 0 then s.boxRing m else s)
    | _ => none

/-- The doorbells (R588, R644). -/
def State.writeDoorbell (s : State) (who : Who) (a : Nat) (v : Word) : Option State :=
  match blockAt 256 0x20000 4 a with
  | some (r, _) => some (after s (execRingHeadDb who r v))
  | none => match blockAt 64 0x21000 4 a with
    | some (p, _) => some (after s (execPoolFreeDb who p v))
    | none => match blockAt 16 0x22000 4 a with
      | some (n, _) => some (after s (execAppendDb who n))
      | none => none

/-- A trigger input's registers (R269, R276). -/
def State.writeTrig (s : State) (who : Who) (f : Fin 32) (i : Fin 8) (off : Nat) (v : Word) : Option State :=
  match off with
  | 0x0 => some (after s (execTrigCtrlWrite who f i v))
  | 0x8 => some (if s.on (R.TRIG_CTRL_EN f i) then s else (s.set (R.TRIG_LAT_NS f i) (clampNat 100 4000 (bitsOf v.toNat 0 12))).trigRefresh f)
  | _ => none

/-- The window of a lane: its registers (R188, R192, R201, R211, R216, R219), its group's (R220) and its link's (R275, R276). -/
def State.writeLane (s : State) (who : Who) (l : Fin 32) (off : Nat) (v : Word) : Option State :=
  if 0x1100 ≤ off then
    match blockAt 8 0x1100 0x40 off with
    | some (i, o) => s.writeTrig who l i o v
    | none => none
  else if 0x44 ≤ off ∧ off < 0x74 then
    some (s.laneWrite who l fun s => if s.on (R.LANE_CFG_ADAPT_FREEZE l) then s.writeReg (R.LANE_CTRL l + off) v else s)
  else
    match off with
    | 0x0 => some (s.laneCtrlWrite who l v)
    | 0x8 => some (after s (execTxCoefWrite who l v))
    | 0x10 => some (s.laneWrite who l fun s =>
        let old := s.get (R.CTLE_CFG_CTLE_SET l)
        let keep := !s.on (R.LANE_CFG_ADAPT_FREEZE l)
        let s := s.writeReg (R.CTLE_CFG l) v
        if keep then s.set (R.CTLE_CFG_CTLE_SET l) old else s)
    | 0xA8 => some (after s (execMarginStart who l v))
    | 0xC0 => some (after s (execInject who l v))
    | 0x800 => some (after s (execGrpCfgWrite who ⟨l / 4, by omega⟩ v))
    | 0x1000 => some (after s (execCreditReset who l v))
    | 0x101C => some (after s (execPropose who l v))
    | _ => if off < 0x100 ∧ (regRow? (R.LANE_CTRL l + off)).isSome then some (s.laneWrite who l fun s => s.writeReg (R.LANE_CTRL l + off) v) else none

/-- Endpoints, CTRL ports and stream descriptors (R292, R293, R300, R314 to R316). -/
def State.writeHeads (s : State) (who : Who) (a : Nat) (v : Word) : Option State :=
  match blockAt 4096 0x240000 0x40 a with
  | some (d, 0x0) => some (after s (if bitAt v.toNat 0 then execDescEnable who d v else execDescDisable who d v))
  | some (d, off) => if off < 0x18 ∧ s.on (R.SD_CTRL_EN d) then some (s.raise (R.SD_STATUS_DESC_REJ d)) else none
  | none => match blockAt 2048 0x280000 0x100 a with
    | some (e, 0x28) => some (after s (execForget who e v))
    | some (e, off) => match blockAt 16 0x80 8 off with
      | some (k, o) => some (after s (execPsetWrite who e k (o == 4) v))
      | none => none
    | none => match blockAt 16 0x201000 0x200 a with
      | some (p, 0xC) => some (after s (execCpGo who p v))
      | _ => none

/-- Creel (R359, R361, R363, R370, R372 to R374, R388). -/
def State.writeCreel (s : State) (who : Who) (a : Nat) (v : Word) : Option State :=
  if a = R.SEG_QUERY then some (after s (execSegQuery who v))
  else if a = R.CTX_PEEK_IDX then some (after s (execCtxPeek who v))
  else match blockAt 3 0x300004 4 a with
    | some (k, _) => some (after s (execLayoutWrite who k v))
    | none => match blockAt 8 0x301000 0x80 a with
      | some (w, 0x0) => some (s.histCfgWrite w false v)
      | some (w, 0x4) => some (s.histCfgWrite w true v)
      | some _ => none
      | none => match blockAt 64 0x302000 0x20 a with
        | some (m, 0x0) => some (after s (execMarkCfgWrite who m v))
        | some (m, 0x4) => some (match bitsOf v.toNat 0 2 with
            | 1 => after s (execMarkClear who m)
            | 2 => after s (execSetAt who m)
            | 3 => after s (execSetAhead who m)
            | _ => s)
        | some _ => none
        | none => match blockAt 4096 0x308000 4 a with
          | some (d, _) => some (after s (execRawSegsWrite who d v))
          | none => none

/-- Conditioning (R401, R412, R413, R425). -/
def State.writeCond (s : State) (who : Who) (a : Nat) (v : Word) : Option State :=
  if a = R.CAL_CMD then
    some (match bitsOf v.toNat 0 3 with
      | 1 => after s (execLoad who v)
      | 2 => after s (execSave who)
      | 3 => after s (execLiveReset who)
      | 4 => after s (execLutLoad who)
      | 5 => after s (execLutSave who)
      | 6 => after s (execAccum who)
      | 7 => after s (execCalAbort who)
      | _ => if s.on R.CAL_RESULT_DONE then s else s.raise R.COND_GSTATUS_CMD_IGN)
  else match blockAt 4096 0x410000 0x40 a with
    | some (d, off) => if off < 0x3C then
        (if h : off / 4 < 16 then some (after s (execCondCfgWrite who d ⟨off / 4, h⟩ v)) else none) else none
    | none => match blockAt 8 0x450000 0x100 a with
      | some (w, 0x0) => some (after s (execLcCfgWrite who w v))
      | _ => none

/-- Web space and Plait (R438, R457, R458). -/
def State.writePlait (s : State) (who : Who) (a : Nat) (v : Word) : Option State :=
  if a = R.GEOM_CMD then
    some (match bitsOf v.toNat 0 3 with
      | 1 => after s (execLoadMap who)
      | 2 => after s (execSaveMap who)
      | 3 => after s (execSaveGeom who)
      | 4 => after s (execLoadGeom who)
      | 5 => after s (execTrkReset who)
      | 6 => after s (execGeomAbort who)
      | 7 => s.raise R.PLAIT_STATUS_CMD_IGN
      | _ => s)
  else match blockAt 8 0x510000 0x2000 a with
    | some (w, off) => if h : off / 4 < 2048 then some (after s (execVwCtrlWrite who w ⟨off / 4, h⟩ v)) else none
    | none => none

/-- Job control and comparison (R489, R499, R520, R542). -/
def State.writeJobs (s : State) (who : Who) (a : Nat) (v : Word) : Option State :=
  if a = R.CTX_LOW then
    let s := s.writeReg a v
    some (s.set R.CTX_LOW_MIN (min (s.get R.CTX_LOW_MIN) (s.get R.CTX_RETIRED_CNT)))
  else match blockAt 8 0x604000 0x400 a with
    | some (w, 0x14) => some (after s (execRollCmd who w v))
    | some _ => none
    | none => match blockAt 8 0x701000 0x100 a with
      | some (w, 0x14) => if s.unitOff (viewUnit w) then none else some (s.raise (R.CV_CTRL_CFG_REJ w))
      | _ => none

/-- The position engine (R69, R94, R103, R105). -/
def State.writePosition (s : State) (who : Who) (a : Nat) (v : Word) : Option State :=
  if a = R.PE_HIGH_WATER then
    let s := s.writeReg a v
    some (s.setMax R.PE_HIGH_WATER_MAX (s.get R.PE_USED_USED))
  else match blockAt 8 0x801000 0x40 a with
    | some (n, 0x0) => some (after s (execSrcCtrlWrite who n v))
    | some (n, off) =>
      if (off = 0x4 ∨ off = 0x8) ∧ s.on (R.SRC_CTRL_EN n) then
        some (if (s.writeReg a v).reg a = s.reg a then s else s.raise (R.SRC_STATUS_WRITE_REJ n))
      else none
    | none => match blockAt 8 0x802000 0x40 a with
      | some (w, 0x0) => some (after s (execViewCfgWrite who w .bind v))
      | some (w, 0x4) => some (after s (execViewCfgWrite who w .scale v))
      | some (w, 0x8) => some (after s (execViewCfgWrite who w .offsetLo v))
      | some (w, 0xC) => some (after s (execViewCfgWrite who w .offsetHi v))
      | some _ => none
      | none => match blockAt 8 0x803000 0x40 a with
        | some (p, 0x14) => some (match bitsOf v.toNat 0 2 with
            | 1 => after s (execPortInsert who p)
            | 2 => after s (execPortRemove who p)
            | _ => s)
        | _ => none

/-- Encoders, SSI channels and switch inputs (R40, R47, R48, R51, R58, R64). -/
def State.writeInputs (s : State) (who : Who) (a : Nat) (v : Word) : Option State :=
  match blockAt 8 0x900000 0x100 a with
  | some (n, 0x0) => some (after s (execEncCtrlWrite who n v))
  | some (n, 0x4) =>
    let s := s.writeReg a v
    some (s.forList [.a, .b, .z] fun p s => s.emit (.encOut n p (s.ptLevel n p)))
  | some (n, 0x18) | some (n, 0x1C) =>
    let s := s.writeReg a v
    some (s.setEnc n { s.encOf n with skip := true })
  | some (n, 0x24) => some (after s (execSpeedWindowWrite who n v))
  | some _ => none
  | none => match blockAt 4 0x901000 0x100 a with
    | some (m, 0x0) => some (after s (execSsiCtrlWrite who m v))
    | some (m, 0x4) => some (s.ssiClkWrite m v)
    | some _ => none
    | none => match blockAt 32 0x902000 0x20 a with
      | some (k, 0x0) => some (after s (execSwCtrlWrite who k v))
      | _ => none

/-- Sward (R120, R123, R124, R127). -/
def State.writeSward (s : State) (who : Who) (a : Nat) (v : Word) : Option State :=
  if a = R.SWD_PUB then some (after s (execSwdPub who v))
  else match blockAt 16 0xA00100 4 a with
    | some _ => some (s.writeReg a v).girqSward
    | none => match blockAt 256 0xA01000 0x20 a with
      | some (c, 0x0) => some (after s (execChCfgWrite who c .cfg v))
      | some (c, 0x4) => some (after s (execChCfgWrite who c .guard v))
      | some (c, 0x8) => some (after s (execChCfgWrite who c .guardWin v))
      | some _ => none
      | none => match blockAt 64 0xA04000 0x20 a with
        | some (k, 0x0) => some (after s (execOutCtrlWrite who k v))
        | _ => none

/-- A 32-bit write of two 16-bit entries of a table. -/
def putPair (t : Tbl Nat) (i : Nat) (v : Word) : Tbl Nat :=
  Tbl.put 0 (Tbl.put 0 t i (v.toNat % 65536)) (i + 1) (v.toNat / 65536)

/-- Ling (R318, R333, R334, R337, R348, R353). -/
def State.writeLing (s : State) (who : Who) (a : Nat) (v : Word) : Option State :=
  match blockAt 8 0xB01000 0x800 a with
  | some (n, 0x0) => some (after s (execChainCfgWrite who n v))
  | some (n, 0x10) => some (s.genWrite n v)
  | some (n, 0x14) | some (n, 0x18) | some (n, 0x1C) => if s.on (R.GEN_CTRL_GEN_EN n) then some s else none
  | some (n, 0x20) => some (after s (execCommitCtrlGo who n v))
  | some (n, 0x4C) => some (after s (execCutClr who n v))
  | some _ => none
  | none => match blockAt 8 0xB20000 0x800 a with
    | some (n, off) => some (s.setChain n { s.chainOf n with curve := putPair (s.chainOf n).curve (off / 2) v })
    | none => match blockAt 8 0xB40000 0x8000 a with
      | some (n, off) =>
        let x := off / 0x4000
        let busy : Bool := match (s.chainOf n).commit with | some m => m.set == x | none => false
        if s.get (R.LING_CH_STATE_ACTIVE_SET n) == x || busy then some (s.raise (R.LING_CH_STATUS_CFG_REJ n))
        else some (s.setChain n { s.chainOf n with codes := putPair (s.chainOf n).codes (off / 2) v })
      | none => none

/-- Withy (R553, R558, R564, R571, R581). -/
def State.writeWithy (s : State) (who : Who) (a : Nat) (v : Word) : Option State :=
  match blockAt 256 0x1010000 0x40 a with
  | some (r, 0x0) => some (after s (execRingEnable who r v))
  | some (r, 0x8) | some (r, 0xC) => if s.on (R.RING_CTRL_EN r) then some (s.raise (R.RING_STATUS_CFG_REJ r)) else none
  | some (r, 0x10) => some ((s.writeReg a v).ringIrqCheck r)
  | some _ => none
  | none => match blockAt 64 0x1020000 0x40 a with
    | some (p, 0x0) => some (after s (execPoolEnable who p v))
    | some (p, 0x4) | some (p, 0x8) | some (p, 0xC) => if s.poolSt p = poolOff then none else some s
    | some (p, 0x10) => some (match bitsOf v.toNat 0 2 with
        | 1 => after s (execDisable who p)
        | 2 => after s (execReclaim who p [])
        | _ => s)
    | some _ => none
    | none => match blockAt 8 0x1030000 0x40 a with
      | some (f, 0x28) => some (match bitsOf v.toNat 0 2 with
          | 1 => after s (execFbGo who f)
          | 2 => after s (execFbAbort who f)
          | _ => s)
      | _ => none

/-- The DMA engine (R628, R632). -/
def State.writeDma (s : State) (who : Who) (a : Nat) (v : Word) : Option State :=
  match blockAt 16 0x1101000 0x100 a with
  | some (n, 0x0) => some (if bitAt v.toNat 0 then after s (execDmaStart who n) else after s (execDmaDisable who n))
  | some (n, 0x8) | some (n, 0xC) => if s.dmaSt n = dmaIdle then none else some s
  | some (n, 0x18) => some (s.set (R.CHAIN_MAX_MAX n) (max 1 (bitsOf v.toNat 0 24)))
  | _ => none

/-- The station block: through function 0 a write is ignored and sets WR_DENIED (R136, R141, R142, R146, R147). -/
def State.writeStation (s : State) (who : Who) (a : Nat) (v : Word) : Option State :=
  if a = R.TIME_CTRL then some (after s (execTimeModeWrite who v))
  else if a = R.RATE_ADJ_LO then some (s.stationWrite who fun s => if s.ptpMode && who != .skep then s else s.writeReg a v)
  else if a = R.RATE_ADJ_HI then
    some (s.stationWrite who fun s => if s.ptpMode && who != .skep then s else after (s.writeReg a v) (execRateAdjWrite who v))
  else if a = R.TIME_STEP_LO then
    some (s.stationWrite who fun s => if s.ptpMode then s else { s with net := { s.net with stepLo := v.toNat } })
  else if a = R.TIME_STEP_HI then some (after s (execTimeStepWrite who v))
  else match blockAt 4 0x1201000 0x100 a with
    | some (p, 0x0) => some (after s (execEthCtrlWrite who p v))
    | _ => if (regRow? a).isSome then some (s.stationWrite who fun s => s.writeReg a v) else none

/-- Message FIFOs (R309, R312, R317). -/
def State.writeFifo (s : State) (who : Who) (a : Nat) (v : Word) : Option State :=
  match blockAt 2048 0x1500000 0x20 a with
  | some (e, 0x0) => some (after s (execMfCfgWrite who e v))
  | some (e, 0x8) => some (after s (execFlush who e false v))
  | _ => none

/-- The registers whose write does more than R5 says, by the MiB of BAR 0. -/
def State.writeSpecial (s : State) (who : Who) (a : Nat) (v : Word) : Option State :=
  if a < 0x20000 ∨ 0x4000000 ≤ a then s.writeGlobal who a v
  else match a / 0x100000 with
    | 0 => s.writeDoorbell who a v
    | 1 => match blockAt 32 0x100000 0x8000 a with
      | some (l, off) => s.writeLane who l off v
      | none => none
    | 2 => s.writeHeads who a v
    | 3 => s.writeCreel who a v
    | 4 => s.writeCond who a v
    | 5 => s.writePlait who a v
    | 6 | 7 => s.writeJobs who a v
    | 8 => s.writePosition who a v
    | 9 => s.writeInputs who a v
    | 10 => s.writeSward who a v
    | 11 => s.writeLing who a v
    | 16 => s.writeWithy who a v
    | 17 => s.writeDma who a v
    | 18 => s.writeStation who a v
    | 21 => s.writeFifo who a v
    | _ => none

/-- A link register in the window of a lane that belongs to the link of another lane (R221, R275): it reads 0 and ignores writes. -/
def State.linkShadow (s : State) (a : Nat) : Bool :=
  match blockAt 32 0x100000 0x8000 a with
  | some (l, off) => decide (0x1000 ≤ off ∧ off < 0x1800) && s.shadowed l
  | none => false

/-- The station block and the lanes of an Ethernet port ignore writes through function 0 (R141, R218). -/
def State.writeDenied (s : State) (who : Who) (a : Nat) : Bool :=
  who == .fn0 && (decide (0x1200000 ≤ a ∧ a < 0x1300000) ||
    (match blockAt 32 0x100000 0x8000 a with | some (l, off) => decide (off < 0x100) && s.ethLane l | none => false))

/-- A write of a register of the map (R5, R6), with the writer noted for a selector (R121). -/
def State.regWrite (s : State) (who : Who) (a : Nat) (v : Word) : State :=
  let a := canon who a
  if hidden who a || boxReadOnly who a || s.linkShadow a then s
  else
    let sel := isSelector a && !s.writeDenied who a
    let s := if sel then s.holdSelector a else s
    let t := match s.writeSpecial who a v with
      | some t => t
      | none => s.writeReg a v
    if sel then t.noteSelector who a else t

/-! ## Reads -/

/-- GSTATUS (R736): SKEP_RUN reads 1 once Skep has begun step 2 of R723 and while it runs (assumption 20). -/
def State.gstatus (s : State) : Nat :=
  s.get R.MEM_STATUS_MEM_READY + (s.skepRuns && s.boot.begun).toNat * 2 + s.get R.TH_STATUS_DATA_STOP * 4 +
    (s.on R.LING_STATUS_LATCHED).toNat * 8 + s.get R.TH_STATUS_THROTTLE * 16 + s.get R.WITHY_STATUS_SUSPENDED * 32 +
    s.get R.BOOT_STATUS_BOOT_FAIL * 64 + s.get R.TH_STATUS_TRIP_SEEN * 128

/-- The newest and the oldest retained row's positions, and the oldest row's sequence (R368); 0 with no row retained. -/
def State.newestPos (s : State) (v : Nat) : Nat :=
  if s.retainedRows v = 0 then 0 else s.rowPosAt v false (unsigned 32 ((s.get (R.WRITE_SEQ_SEQ v) : Int) - 1))
def State.oldestPos (s : State) (v : Nat) : Nat := if s.retainedRows v = 0 then 0 else s.rowPosAt v false (s.oldestSeq v)

/-- A word of Ling's windows (R353). -/
def State.lingWindow (s : State) (a : Nat) : Nat :=
  let pair := fun (t : Tbl Nat) (i : Nat) => Tbl.get 0 t i % 65536 + Tbl.get 0 t (i + 1) % 65536 * 65536
  match blockAt 8 0xB20000 0x800 a with
  | some (n, off) => pair (s.chainOf n).curve (off / 2)
  | none => match blockAt 8 0xB40000 0x8000 a with
    | some (n, off) => pair (s.chainOf n).codes (off / 2)
    | none => match blockAt 8 0xB60000 0x800 a with
      | some (n, off) => min 0xFFFFFFFF (Tbl.get 0 (s.chainOf n).dose (off / 4) / 10 ^ 12)
      | none => match blockAt 8 0xB80000 0x10000 a with
        | some (n, off) => match (s.chainOf n).heads[off / 0x800]? with
          | some h => leAt h.image (off % 0x800) 4
          | none => 0
        | none => 0

/-- The value of a register of the map as a read returns it. -/
def State.regValue (s : State) (a : Nat) : Word :=
  let w := fun (n : Nat) => BitVec.ofNat 32 n
  if a = R.GSTATUS then w s.gstatus
  else if a = R.TIME_NS_LO then w s.timeNs
  else if a = R.PWR_FORECAST then w s.forecast
  else if a = R.PWR_WAITING then w s.skep.waiting.length
  else if 0xC00000 ≤ a ∧ a < 0x1000000 then w (bitsOf (s.slotOf ((a - 0xC00000) / 16)).entry.toNat (a % 16 * 8) 32)
  else if 0xB20000 ≤ a ∧ a < 0xC00000 then w (s.lingWindow a)
  else if 0x1410000 ≤ a ∧ a < 0x1420000 then w (leNat (s.nvBytes (a - 0x1410000) 4))
  else match blockAt 8 0x301000 0x80 a with
    | some (v, 0x20) => w (s.newestPos v)
    | _ => match regRow? a with
      | some r => s.reg a &&& w (r.rw ||| r.w1c ||| r.ro ||| r.rc)
      | none => 0

/-- Reading a LO register captures the rest of the same value (R53, R76, R143, R368). -/
def State.capture (s : State) (a : Nat) : State :=
  if a = R.TIME_NS_LO then (s.setReg R.TIME_NS_HI (BitVec.ofNat 32 (s.timeNs / 2 ^ 32))).setReg R.TIME_FRAC (BitVec.ofNat 32 (s.timeFrac / 2 ^ 16))
  else match blockAt 8 0x900000 0x100 a with
    | some (n, 0x8) => s.set (R.COUNT_HI_COUNT n) ((s.encOf n).count / 2 ^ 32)
    | some (n, 0x10) => s.set (R.INDEX_POS_HI_POS n) ((s.encOf n).indexPos / 2 ^ 32)
    | _ => match blockAt 4 0x901000 0x100 a with
      | some (m, 0x18) => s.set (R.SSI_VALUE_HI_VALUE m) ((s.ssiOf m).value / 2 ^ 32)
      | some (m, 0x20) => s.set (R.SSI_COUNT_HI_COUNT m) ((s.ssiOf m).count / 2 ^ 32)
      | _ => match blockAt 8 0x801000 0x40 a with
        | some (n, 0xC) => s.set (R.SRC_POS_HI_POS n) (s.srcPos n / 2 ^ 32)
        | _ => match blockAt 8 0x802000 0x40 a with
          | some (v, 0x10) => s.set (R.VIEW_POS_HI_POS v) (s.viewPos v / 2 ^ 32)
          | _ => match blockAt 8 0x301000 0x80 a with
            | some (v, 0x20) =>
              let s' := s.set (R.NEWEST_POS_HI_POS v) (s.newestPos v / 2 ^ 32)
              let s' := s'.set2 (R.OLDEST_POS_LO_POS v) (R.OLDEST_POS_HI_POS v) (s.oldestPos v)
              s'.set (R.OLDEST_SEQ_SEQ v) (s.oldestSeq v)
            | _ => s

/-- A read of PRBS_ERR captures the bit count of its lane (R208). -/
def State.rcCapture (s : State) (a : Nat) : State :=
  match blockAt 32 0x100000 0x8000 a with
  | some (l, o) => if o = 0xC8 then s.prbsCapture l else s
  | none => s

/-- A read of a register of the map: its value, and the state after its side effects. A counter that the read clears answers what it held before
this event clock's increments, which it keeps. `coincident`: hardware increments it once more in the same clock (R7). -/
def State.regRead (s : State) (who : Who) (a : Nat) (coincident : Bool) : Word × State :=
  let a := canon who a
  if hidden who a then (0, s)
  else if s.linkShadow a then (0, s)
  else
    let v := s.regValue a
    if rcBits a = 0 then (v, s.capture a)
    else
      let n := (s.rcWas a).2 + coincident.toNat
      let t := (s.rcCapture a).setReg a (BitVec.ofNat 32 n)
      (if s.risenOf a = 0 then v else BitVec.ofNat 32 (s.rcWas a).1, t.rcNote a 0 n)

/-- A 32-bit read by a requester at a place. -/
def State.placeRead (s : State) (who : Who) (p : Place) (coincident : Bool) : Word × State :=
  match p with
  | .reg a => s.regRead who a coincident
  | .box m off => (BitVec.ofNat 32 (leNat (s.boxBytes m off 4)), s)
  | .msix _ a => (s.reg a, s)
  | .nothing => (0, s)

/-- A read by a requester at an address, and its completion (R597, R612). -/
def State.busRead (s : State) (who : Who) (a : Nat) (coincident : Bool) : State :=
  s.viaBus who (write := false) fun s =>
    let (v, t) := s.placeRead who (placeOf who a) coincident
    t.readAnswer who (.readData who a v)

/-! ## The indirect port (R744) -/

/-- The access of an indirect command is made at its GO, in order with the direct accesses of function 1 (R611): what a read found, and the
state after it. -/
def State.indAccess (s : State) (a : Nat) (write : Bool) : Option Word × State :=
  match place0 a, write with
  | .reg b, true => (none, s.regWrite .fn1 b (s.reg R.IND_DATA))
  | .reg b, false =>
    let (v, t) := s.regRead .fn1 b false
    (some v, t)
  | _, true => (none, s)
  | _, false => (some 0, s)

/-- Indirect commands of function 1 (R744; assumption 145). -/
def State.indGo (s : State) (write : Bool) : State :=
  if !s.on R.IND_STATUS_DONE then s.raise R.IND_STATUS_CMD_IGN
  else
    let a := s.get R.IND_OFFSET_OFFSET * 4
    if a < 0x30000 ∨ 0x1600000 ≤ a then s.raise R.IND_STATUS_IND_REJ
    else
      let (v, t) := s.indAccess a write
      { t.clear R.IND_STATUS_DONE with ind := some v }

/-! ## Writes at an address -/

/-- A 32-bit write by a requester at a place. -/
def State.placeWrite (s : State) (who : Who) (p : Place) (v : Word) : State :=
  match p with
  | .reg a =>
    if a = R.IND_CMD ∧ who = .fn1 then (if bitAt v.toNat 0 then s.indGo (bitAt v.toNat 1) else s) else s.regWrite who a v
  | .box m off =>
    if s.on (R.MB_STATUS_BUSY m) then s.raise (R.MB_STATUS_WR_BUSY m) else s.setBox m off (leBytes 4 v.toNat)
  | .msix f a =>
    if 0x5200000 ≤ a then s
    else
      let mask := match a % 16 with | 0 => 0xFFFFFFFC | 12 => 0x1 | _ => 0xFFFFFFFF
      (s.setReg a (maskedWrite mask 0 (s.reg a) v)).msixFlush f
  | .nothing => s

/-- A 32-bit write by a requester at an address; a function in D3hot answers as unsupported (R597). -/
def State.busWrite (s : State) (who : Who) (a : Nat) (v : Word) : State := s.viaBus who fun s => s.placeWrite who (placeOf who a) v

/-! ## Requests of several registers (R596) -/

/-- `n` words from `a` on lie in one block of 64 bytes. -/
def inBlock (a n : Nat) : Bool := decide (a / 4 % 16 + n ≤ 16)

/-- The registers of one write are accessed in ascending address order. -/
def State.wordsWrite (s : State) (who : Who) (a : Nat) : List Word → State
  | [] => s
  | v :: vs => (s.placeWrite who (placeOf who a) v).wordsWrite who (a + 4) vs

/-- The registers of one read are accessed in ascending address order. -/
def State.wordsRead (s : State) (who : Who) : Nat → Nat → List Word × State
  | 0, _ => ([], s)
  | n + 1, a =>
    let (v, t) := s.placeRead who (placeOf who a) false
    let (vs, t) := t.wordsRead who n (a + 4)
    (v :: vs, t)

/-- A request that crosses a 64-byte boundary is no access: it ends as unsupported (R597). -/
def State.blockOnly (s : State) (who : Who) (a n : Nat) (write : Bool) (f : State → State) : State :=
  s.viaBus who (write := write) fun s =>
    match fnOf who with
    | some k => if inBlock a n then f s else s.unsupported k write
    | none => f s

/-! ## Commands -/

/-- REGISTER_WRITE (R5, R596, R741): a write of one register, and of those after it that the same request covers. -/
def execRegisterWrite (who : Who) (addr : Nat) (v : Word) (more : List Word) (s : State) : Host.Outcome State Fault Refusal :=
  .next <|
    match more with
    | [] => s.busWrite who addr v
    | _ => s.blockOnly who addr (more.length + 1) true fun s => s.wordsWrite who addr (v :: more)

/-- RC_COUNTER_READ (R5, R7). -/
def execRcCounterRead (who : Who) (addr : Nat) (coincident : Bool) (s : State) : Host.Outcome State Fault Refusal :=
  .next (s.busRead who addr coincident)

/-- LO_CAPTURE_READ (R53, R76, R102, R143, R368, R596): a read that takes more than 32 bits of one event clock: the LO register of a value, `words`
registers in one request, or, with 4 at an aligned address of the table window, one whole entry (assumption 110). -/
def execLoCaptureRead (who : Who) (addr words : Nat) (s : State) : Host.Outcome State Fault Refusal :=
  .next <|
    if words = 1 then s.busRead who addr false
    else s.blockOnly who addr words false fun s =>
      if who ≠ .fn1 ∧ 0xC00000 ≤ addr ∧ addr < 0x1000000 ∧ addr % 16 = 0 ∧ words = 4 then
        s.readAnswer who (.readEntry who addr (s.slotOf ((addr - 0xC00000) / 16)).entry)
      else
        let (vs, t) := s.wordsRead who words addr
        t.readAnswer who (.readWords who addr vs)

/-- A place is a register that holds selectors. -/
def Place.selector (who : Who) : Place → Bool
  | .reg a => isSelector (canon who a)
  | _ => false

/-- SELECTOR_WRITE (R117, R121): a write of a register that holds selectors. -/
def execSelectorWrite (who : Who) (addr : Nat) (v : Word) (s : State) : Host.Outcome State Fault Refusal :=
  .next (if (placeOf who addr).selector who then s.busWrite who addr v else s)

/-- IND_READ (R744, R745): a write of IND_CMD through function 1 with GO 1 and WRITE 0. -/
def execIndRead (s : State) : Host.Outcome State Fault Refusal := .next (s.busWrite .fn1 R.IND_CMD 1)

/-- IND_WRITE (R744, R745): a write of IND_CMD through function 1 with GO 1 and WRITE 1. -/
def execIndWrite (s : State) : Host.Outcome State Fault Refusal := .next (s.busWrite .fn1 R.IND_CMD 3)

/-- IND_ACCESS_DONE (R744): IND_DATA receives what the access read, and DONE is set. -/
def execIndAccessDone (s : State) : Host.Outcome State Fault Refusal :=
  .next <|
    match s.ind with
    | none => s
    | some d =>
      let s := { s with ind := none }
      let s := match d with
        | some v => s.setReg R.IND_DATA v
        | none => s
      s.raise R.IND_STATUS_DONE

end Sys2Proof.Machine
end

