-- ==== Sys2Proof/Machine/Dispatch.lean ====
section
/-!
DEFINITION. The dispatch: one arm for each command, one direct call of its meaning.
-/
namespace Sys2Proof.Machine

def exec (i : Instr) (s : State) : Host.Outcome State Fault Refusal :=
  match i with
  | .registerWrite who addr v more => Sys2Proof.Machine.execRegisterWrite who addr v more s
  | .rcCounterRead who addr coincident => Sys2Proof.Machine.execRcCounterRead who addr coincident s
  | .loCaptureRead who addr words => Sys2Proof.Machine.execLoCaptureRead who addr words s
  | .encCtrlWrite who n v => Sys2Proof.Machine.execEncCtrlWrite who n v s
  | .indexArm who n => Sys2Proof.Machine.execIndexArm who n s
  | .speedWindowWrite who n v => Sys2Proof.Machine.execSpeedWindowWrite who n v s
  | .encInputChange n pin level => Sys2Proof.Machine.execEncInputChange n pin level s
  | .filterAccept n a b z => Sys2Proof.Machine.execFilterAccept n a b z s
  | .speedWindowEnd n => Sys2Proof.Machine.execSpeedWindowEnd n s
  | .lastIntervalSaturate n => Sys2Proof.Machine.execLastIntervalSaturate n s
  | .ssiCtrlWrite who m v => Sys2Proof.Machine.execSsiCtrlWrite who m v s
  | .ssiReadDue m => Sys2Proof.Machine.execSsiReadDue m s
  | .ssiReadStart m dataHigh => Sys2Proof.Machine.execSsiReadStart m dataHigh s
  | .ssiReadDone m bits => Sys2Proof.Machine.execSsiReadDone m bits s
  | .swInputChange k level => Sys2Proof.Machine.execSwInputChange k level s
  | .debounceExpire k => Sys2Proof.Machine.execDebounceExpire k s
  | .swCtrlWrite who k v => Sys2Proof.Machine.execSwCtrlWrite who k v s
  | .srcCtrlWrite who n v => Sys2Proof.Machine.execSrcCtrlWrite who n v s
  | .sourceEnable n => Sys2Proof.Machine.execSourceEnable n s
  | .sourceStale n => Sys2Proof.Machine.execSourceStale n s
  | .viewCfgWrite who n r v => Sys2Proof.Machine.execViewCfgWrite who n r v s
  | .portInsert who p => Sys2Proof.Machine.execPortInsert who p s
  | .portRemove who p => Sys2Proof.Machine.execPortRemove who p s
  | .entryInsertActive c slot => Sys2Proof.Machine.execEntryInsertActive c slot s
  | .entryRemoveActive c => Sys2Proof.Machine.execEntryRemoveActive c s
  | .entryCrossed => Sys2Proof.Machine.execEntryCrossed s
  | .entryDeferredFire => Sys2Proof.Machine.execEntryDeferredFire s
  | .eventGrant => Sys2Proof.Machine.execEventGrant s
  | .guardWindowEnd c => Sys2Proof.Machine.execGuardWindowEnd c s
  | .chCfgWrite who c r v => Sys2Proof.Machine.execChCfgWrite who c r v s
  | .swdPub who v => Sys2Proof.Machine.execSwdPub who v s
  | .selectorWrite who addr v => Sys2Proof.Machine.execSelectorWrite who addr v s
  | .outPulseEnd k => Sys2Proof.Machine.execOutPulseEnd k s
  | .outCtrlWrite who k v => Sys2Proof.Machine.execOutCtrlWrite who k v s
  | .ethCtrlWrite who p v => Sys2Proof.Machine.execEthCtrlWrite who p v s
  | .ethLinkChange p up => Sys2Proof.Machine.execEthLinkChange p up s
  | .ethFrameRx p f => Sys2Proof.Machine.execEthFrameRx p f s
  | .rateAdjWrite who v => Sys2Proof.Machine.execRateAdjWrite who v s
  | .timeStepWrite who v => Sys2Proof.Machine.execTimeStepWrite who v s
  | .restep who => Sys2Proof.Machine.execRestep who s
  | .timeModeWrite who v => Sys2Proof.Machine.execTimeModeWrite who v s
  | .ptpAnnounceRx p a => Sys2Proof.Machine.execPtpAnnounceRx p a s
  | .ptpSyncRx p parent t1 t2 => Sys2Proof.Machine.execPtpSyncRx p parent t1 t2 s
  | .ptpDelayRespRx p parent t4 => Sys2Proof.Machine.execPtpDelayRespRx p parent t4 s
  | .ptpDelayReqTx => Sys2Proof.Machine.execPtpDelayReqTx s
  | .ptpSyncTx => Sys2Proof.Machine.execPtpSyncTx s
  | .masterLost => Sys2Proof.Machine.execMasterLost s
  | .txposSample sources => Sys2Proof.Machine.execTxposSample sources s
  | .staPosRx => Sys2Proof.Machine.execStaPosRx s
  | .rxStreamPeriod n => Sys2Proof.Machine.execRxStreamPeriod n s
  | .staEventFrameSend => Sys2Proof.Machine.execStaEventFrameSend s
  | .staEventRx => Sys2Proof.Machine.execStaEventRx s
  | .deferredEventDue => Sys2Proof.Machine.execDeferredEventDue s
  | .staCmdRx => Sys2Proof.Machine.execStaCmdRx s
  | .beaconSend => Sys2Proof.Machine.execBeaconSend s
  | .staBeaconRx => Sys2Proof.Machine.execStaBeaconRx s
  | .peerTimeout j => Sys2Proof.Machine.execPeerTimeout j s
  | .grpCfgWrite who g v => Sys2Proof.Machine.execGrpCfgWrite who g v s
  | .refMeasure g ppm => Sys2Proof.Machine.execRefMeasure g ppm s
  | .pllUnlock g => Sys2Proof.Machine.execPllUnlock g s
  | .pllRelock g => Sys2Proof.Machine.execPllRelock g s
  | .restart who l v => Sys2Proof.Machine.execRestart who l v s
  | .restartIdleEnd l => Sys2Proof.Machine.execRestartIdleEnd l s
  | .loopWrite who l v => Sys2Proof.Machine.execLoopWrite who l v s
  | .pwrStateWrite l a => Sys2Proof.Machine.execPwrStateWrite l a s
  | .pwrTransitionDone l tx => Sys2Proof.Machine.execPwrTransitionDone l tx s
  | .txCoefWrite who l v => Sys2Proof.Machine.execTxCoefWrite who l v s
  | .sigDetRise l => Sys2Proof.Machine.execSigDetRise l s
  | .sigDetHold l => Sys2Proof.Machine.execSigDetHold l s
  | .sigDetFall l => Sys2Proof.Machine.execSigDetFall l s
  | .cdrLock l => Sys2Proof.Machine.execCdrLock l s
  | .adaptSettled l ctle taps => Sys2Proof.Machine.execAdaptSettled l ctle taps s
  | .eyeCheckDone l height => Sys2Proof.Machine.execEyeCheckDone l height s
  | .cdrLockLost l => Sys2Proof.Machine.execCdrLockLost l s
  | .acqTimeout l => Sys2Proof.Machine.execAcqTimeout l s
  | .warmAcqTimeout l => Sys2Proof.Machine.execWarmAcqTimeout l s
  | .freqOffsetUpdate l ppm => Sys2Proof.Machine.execFreqOffsetUpdate l ppm s
  | .eyeSummaryRefresh l heights widths => Sys2Proof.Machine.execEyeSummaryRefresh l heights widths s
  | .marginStart who l v => Sys2Proof.Machine.execMarginStart who l v s
  | .marginDone l count => Sys2Proof.Machine.execMarginDone l count s
  | .inject who l v => Sys2Proof.Machine.execInject who l v s
  | .prbsErrRead who l errs bits => Sys2Proof.Machine.execPrbsErrRead who l errs bits s
  | .prbsLock l => Sys2Proof.Machine.execPrbsLock l s
  | .prbsLockLost l => Sys2Proof.Machine.execPrbsLockLost l s
  | .amReceived l sym t bip => Sys2Proof.Machine.execAmReceived l sym t bip s
  | .amLost l => Sys2Proof.Machine.execAmLost l s
  | .codewordDecode f prev rx ins del slip => Sys2Proof.Machine.execCodewordDecode f prev rx ins del slip s
  | .streamRx f => Sys2Proof.Machine.execStreamRx f s
  | .rdata f => Sys2Proof.Machine.execRdata f s
  | .wack f => Sys2Proof.Machine.execWack f s
  | .msg f => Sys2Proof.Machine.execMsg f s
  | .headEvent f => Sys2Proof.Machine.execHeadEvent f s
  | .credit f => Sys2Proof.Machine.execCredit f s
  | .ctrlTimeout e tag => Sys2Proof.Machine.execCtrlTimeout e tag s
  | .creditReset who f v => Sys2Proof.Machine.execCreditReset who f v s
  | .echoRsp f t4 => Sys2Proof.Machine.execEchoRsp f t4 s
  | .echoReqTimer f t1 => Sys2Proof.Machine.execEchoReqTimer f t1 s
  | .timePosTimer f => Sys2Proof.Machine.execTimePosTimer f s
  | .hello f vendor serial => Sys2Proof.Machine.execHello f vendor serial s
  | .helloTimer f => Sys2Proof.Machine.execHelloTimer f s
  | .propose who f v => Sys2Proof.Machine.execPropose who f v s
  | .portStatus f vendor serial => Sys2Proof.Machine.execPortStatus f vendor serial s
  | .drop f => Sys2Proof.Machine.execDrop f s
  | .trigCtrlWrite who f j v => Sys2Proof.Machine.execTrigCtrlWrite who f j v s
  | .trigLaunch f j tx bnd => Sys2Proof.Machine.execTrigLaunch f j tx bnd s
  | .forget who e v => Sys2Proof.Machine.execForget who e v s
  | .healthPoll => Sys2Proof.Machine.execHealthPoll s
  | .psetWrite who e k cfg v => Sys2Proof.Machine.execPsetWrite who e k cfg v s
  | .cpGo who p v => Sys2Proof.Machine.execCpGo who p v s
  | .descEnable who d v => Sys2Proof.Machine.execDescEnable who d v s
  | .descDisable who d v => Sys2Proof.Machine.execDescDisable who d v s
  | .mfCfgWrite who e v => Sys2Proof.Machine.execMfCfgWrite who e v s
  | .flush who e cut v => Sys2Proof.Machine.execFlush who e cut v s
  | .msgRecordTake e parity => Sys2Proof.Machine.execMsgRecordTake e parity s
  | .chainFrameDone n resps marker => Sys2Proof.Machine.execChainFrameDone n resps marker s
  | .commitCtrlGo who n v => Sys2Proof.Machine.execCommitCtrlGo who n v s
  | .burstRowEdge n => Sys2Proof.Machine.execBurstRowEdge n s
  | .genRetry n => Sys2Proof.Machine.execGenRetry n s
  | .dutyWindowEnd n => Sys2Proof.Machine.execDutyWindowEnd n s
  | .diagStatusPoll n => Sys2Proof.Machine.execDiagStatusPoll n s
  | .unverified n d c => Sys2Proof.Machine.execUnverified n d c s
  | .cutClr who n v => Sys2Proof.Machine.execCutClr who n v s
  | .doseWriteback n => Sys2Proof.Machine.execDoseWriteback n s
  | .doseRetry n => Sys2Proof.Machine.execDoseRetry n s
  | .chainCfgWrite who n v => Sys2Proof.Machine.execChainCfgWrite who n v s
  | .layoutWrite who k v => Sys2Proof.Machine.execLayoutWrite who k v s
  | .segQuery who v => Sys2Proof.Machine.execSegQuery who v s
  | .histCfgWrite who v stage x => Sys2Proof.Machine.execHistCfgWrite who v stage x s
  | .release who v x => Sys2Proof.Machine.execRelease who v x s
  | .rawSegsWrite who d v => Sys2Proof.Machine.execRawSegsWrite who d v s
  | .markCfgWrite who m v => Sys2Proof.Machine.execMarkCfgWrite who m v s
  | .markClear who m => Sys2Proof.Machine.execMarkClear who m s
  | .setAt who m => Sys2Proof.Machine.execSetAt who m s
  | .setAtDone m => Sys2Proof.Machine.execSetAtDone m s
  | .setAhead who m => Sys2Proof.Machine.execSetAhead who m s
  | .scrubStep err => Sys2Proof.Machine.execScrubStep err s
  | .ctxPeek who v => Sys2Proof.Machine.execCtxPeek who v s
  | .hbmTrainDone ok => Sys2Proof.Machine.execHbmTrainDone ok s
  | .memReady => Sys2Proof.Machine.execMemReady s
  | .lineCondition f perr => Sys2Proof.Machine.execLineCondition f perr s
  | .condCfgWrite who d off v => Sys2Proof.Machine.execCondCfgWrite who d off v s
  | .load who v => Sys2Proof.Machine.execLoad who v s
  | .save who => Sys2Proof.Machine.execSave who s
  | .liveReset who => Sys2Proof.Machine.execLiveReset who s
  | .lutLoad who => Sys2Proof.Machine.execLutLoad who s
  | .lutSave who => Sys2Proof.Machine.execLutSave who s
  | .accum who => Sys2Proof.Machine.execAccum who s
  | .calAbort who => Sys2Proof.Machine.execCalAbort who s
  | .calCmdDone => Sys2Proof.Machine.execCalCmdDone s
  | .zoneClose v => Sys2Proof.Machine.execZoneClose v s
  | .lcCfgWrite who v x => Sys2Proof.Machine.execLcCfgWrite who v x s
  | .vwCtrlWrite who v off x => Sys2Proof.Machine.execVwCtrlWrite who v off x s
  | .plaitRowEmit v perr stall => Sys2Proof.Machine.execPlaitRowEmit v perr stall s
  | .headTimeout v h => Sys2Proof.Machine.execHeadTimeout v h s
  | .lateMarginPass v h => Sys2Proof.Machine.execLateMarginPass v h s
  | .trkWindowEnd v => Sys2Proof.Machine.execTrkWindowEnd v s
  | .loadMap who => Sys2Proof.Machine.execLoadMap who s
  | .saveMap who => Sys2Proof.Machine.execSaveMap who s
  | .saveGeom who => Sys2Proof.Machine.execSaveGeom who s
  | .loadGeom who => Sys2Proof.Machine.execLoadGeom who s
  | .trkReset who => Sys2Proof.Machine.execTrkReset who s
  | .geomAbort who => Sys2Proof.Machine.execGeomAbort who s
  | .geomCmdDone bad => Sys2Proof.Machine.execGeomCmdDone bad s
  | .jobLoad m => Sys2Proof.Machine.execJobLoad m s
  | .jobLoadDone j => Sys2Proof.Machine.execJobLoadDone j s
  | .jobArm m => Sys2Proof.Machine.execJobArm m s
  | .jobArmCancel m => Sys2Proof.Machine.execJobArmCancel m s
  | .jobSwitch m => Sys2Proof.Machine.execJobSwitch m s
  | .rollCmd who v x => Sys2Proof.Machine.execRollCmd who v x s
  | .bandCompare j errs => Sys2Proof.Machine.execBandCompare j errs s
  | .verdictReady k => Sys2Proof.Machine.execVerdictReady k s
  | .gateInsertResult => Sys2Proof.Machine.execGateInsertResult s
  | .refLearn m => Sys2Proof.Machine.execRefLearn m s
  | .refLearnAbort m => Sys2Proof.Machine.execRefLearnAbort m s
  | .learnComputeDone v => Sys2Proof.Machine.execLearnComputeDone v s
  | .ringEnable who r v => Sys2Proof.Machine.execRingEnable who r v s
  | .recordIssue r => Sys2Proof.Machine.execRecordIssue r s
  | .ringHeadDb who r v => Sys2Proof.Machine.execRingHeadDb who r v s
  | .ringIrqTimer r => Sys2Proof.Machine.execRingIrqTimer r s
  | .poolEnable who p v => Sys2Proof.Machine.execPoolEnable who p v s
  | .poolFreeDb who p v => Sys2Proof.Machine.execPoolFreeDb who p v s
  | .poolWaitExpire r => Sys2Proof.Machine.execPoolWaitExpire r s
  | .disable who p => Sys2Proof.Machine.execDisable who p s
  | .reclaim who p named => Sys2Proof.Machine.execReclaim who p named s
  | .fbGo who f => Sys2Proof.Machine.execFbGo who f s
  | .fbAbort who f => Sys2Proof.Machine.execFbAbort who f s
  | .peerReadBack r => Sys2Proof.Machine.execPeerReadBack r s
  | .peerWindowWrite off bytes poison => Sys2Proof.Machine.execPeerWindowWrite off bytes poison s
  | .peerWindowRead off len errs => Sys2Proof.Machine.execPeerWindowRead off len errs s
  | .windowCommit who => Sys2Proof.Machine.execWindowCommit who s
  | .bar0BadRequest f kind write off len part poison => Sys2Proof.Machine.execBar0BadRequest f kind write off len part poison s
  | .configRequest f write off be v => Sys2Proof.Machine.execConfigRequest f write off be v s
  | .completionRx tag ok data poison => Sys2Proof.Machine.execCompletionRx tag ok data poison s
  | .completionTimeout tag => Sys2Proof.Machine.execCompletionTimeout tag s
  | .tagQuarantineEnd tag => Sys2Proof.Machine.execTagQuarantineEnd tag s
  | .perst => Sys2Proof.Machine.execPerst s
  | .hotReset => Sys2Proof.Machine.execHotReset s
  | .functionLevelReset f => Sys2Proof.Machine.execFunctionLevelReset f s
  | .pcieLinkChange ev => Sys2Proof.Machine.execPcieLinkChange ev s
  | .pmStateChange f d3 => Sys2Proof.Machine.execPmStateChange f d3 s
  | .l1Entry => Sys2Proof.Machine.execL1Entry s
  | .wakePin k level => Sys2Proof.Machine.execWakePin k level s
  | .dmaStart who n => Sys2Proof.Machine.execDmaStart who n s
  | .dmaDisable who n => Sys2Proof.Machine.execDmaDisable who n s
  | .dmaDrainDone n => Sys2Proof.Machine.execDmaDrainDone n s
  | .dmaDescFetched n => Sys2Proof.Machine.execDmaDescFetched n s
  | .dmaDescComplete n => Sys2Proof.Machine.execDmaDescComplete n s
  | .appendDb who n => Sys2Proof.Machine.execAppendDb who n s
  | .helloCmd m => Sys2Proof.Machine.execHelloCmd m s
  | .summary m => Sys2Proof.Machine.execSummary m s
  | .unitGet m => Sys2Proof.Machine.execUnitGet m s
  | .unitSetOn m => Sys2Proof.Machine.execUnitSetOn m s
  | .unitSetOff m => Sys2Proof.Machine.execUnitSetOff m s
  | .unitSetRestart m => Sys2Proof.Machine.execUnitSetRestart m s
  | .calRead m => Sys2Proof.Machine.execCalRead m s
  | .calWrite m bad => Sys2Proof.Machine.execCalWrite m bad s
  | .logRead m => Sys2Proof.Machine.execLogRead m s
  | .headInfo m => Sys2Proof.Machine.execHeadInfo m s
  | .lightInfo m => Sys2Proof.Machine.execLightInfo m s
  | .thermalRead m => Sys2Proof.Machine.execThermalRead m s
  | .thermalSet m => Sys2Proof.Machine.execThermalSet m s
  | .thermalRestart m => Sys2Proof.Machine.execThermalRestart m s
  | .powerBudgetRead m => Sys2Proof.Machine.execPowerBudgetRead m s
  | .powerBudgetSet m => Sys2Proof.Machine.execPowerBudgetSet m s
  | .selfTest m failed first => Sys2Proof.Machine.execSelfTest m failed first s
  | .patchInfo m => Sys2Proof.Machine.execPatchInfo m s
  | .mbCommandDone m => Sys2Proof.Machine.execMbCommandDone m s
  | .smbSetOffset c pecOk => Sys2Proof.Machine.execSmbSetOffset c pecOk s
  | .smbBlockWrite bytes pecOk => Sys2Proof.Machine.execSmbBlockWrite bytes pecOk s
  | .smbBlockRead n => Sys2Proof.Machine.execSmbBlockRead n s
  | .smbReadStatus => Sys2Proof.Machine.execSmbReadStatus s
  | .unitPathCheck moving => Sys2Proof.Machine.execUnitPathCheck moving s
  | .schedulerTick => Sys2Proof.Machine.execSchedulerTick s
  | .skepWatchdog cause pc bad => Sys2Proof.Machine.execSkepWatchdog cause pc bad s
  | .skepRestartDone parityOk reload bad => Sys2Proof.Machine.execSkepRestartDone parityOk reload bad s
  | .skepRestart who => Sys2Proof.Machine.execSkepRestart who s
  | .sensorSample temps => Sys2Proof.Machine.execSensorSample temps s
  | .stackTempRead t0 t1 => Sys2Proof.Machine.execStackTempRead t0 t1 s
  | .thermTrip => Sys2Proof.Machine.execThermTrip s
  | .pmbusPoll replies => Sys2Proof.Machine.execPmbusPoll replies s
  | .overBudget => Sys2Proof.Machine.execOverBudget s
  | .logRecordWrite bad => Sys2Proof.Machine.execLogRecordWrite bad s
  | .onHoursTick bad => Sys2Proof.Machine.execOnHoursTick bad s
  | .aonReset => Sys2Proof.Machine.execAonReset s
  | .corePor bad => Sys2Proof.Machine.execCorePor bad s
  | .supplyDrop core => Sys2Proof.Machine.execSupplyDrop core s
  | .sysReset bad => Sys2Proof.Machine.execSysReset bad s
  | .patchStageEnd flash bad => Sys2Proof.Machine.execPatchStageEnd flash bad s
  | .configRelease => Sys2Proof.Machine.execConfigRelease s
  | .girqStatusWrite who enable v => Sys2Proof.Machine.execGirqStatusWrite who enable v s
  | .girqSoft who => Sys2Proof.Machine.execGirqSoft who s
  | .indRead => Sys2Proof.Machine.execIndRead s
  | .indWrite => Sys2Proof.Machine.execIndWrite s
  | .indAccessDone => Sys2Proof.Machine.execIndAccessDone s
  | .perstDeassert => Sys2Proof.Machine.execPerstDeassert s
  | .pmeResend f => Sys2Proof.Machine.execPmeResend f s
  | .vddioGpioChange bank up => Sys2Proof.Machine.execVddioGpioChange bank up s

end Sys2Proof.Machine
end

