-- ==== Sys2Proof/Machine/Wire.lean ====
section
/-!
DEFINITION. What the serial lanes send as time passes (chapters 6 and 7): the codewords of the Talmon links, the test patterns, and what a
loopback inside the device makes of them. One event clock at a time; a codeword leaves whole in the clock in which its last bit is due
(assumption 112).
-/
set_option Elab.async false
namespace Sys2Proof.Machine

/-! ## The block stream of a link -/

/-- Precedence of a packet (R241). -/
def Packet.rank (p : Packet) : Nat :=
  match p.ptype with
  | 4 => match p.tspec % 16 with | 1 => 0 | 2 => 4 | _ => 6
  | 5 => 1
  | 2 => 2
  | 7 => 3
  | 6 => 5
  | _ => 6

/-- The packets that may be sent: one that Skep sends after a HUB packet waits for the HUB packets queued before it (R283, R284, R301;
assumption 139). -/
def LinkTx.ready : List Packet → List Packet
  | [] => []
  | p :: ps => p :: (LinkTx.ready ps).filter fun q => !(p.ptype == 7 && q.afterHub)

/-- The packet that is sent next: the oldest of the first rank. -/
def LinkTx.front (t : LinkTx) : Option Packet :=
  (LinkTx.ready t.queue).foldl (fun best p => match best with | some b => if p.rank < b.rank then some p else best | none => some p) none

/-- The next block of the stream, and the packet that it begins (R235, R237, R241, R261): TRIG before all else, then the packet under way, then the
packet of the first rank, and FILL where nothing waits. A FILL is due in every 4,096 blocks; one is sent early where no TRIG waits, so that TRIG
seldom has to. -/
def LinkTx.next (t : LinkTx) : Blk × Option Packet × LinkTx :=
  let fill := (.ctl 3 0, none, { t with sinceFill := 0 })
  let u := { t with sinceFill := t.sinceFill + 1 }
  if 4095 ≤ t.sinceFill then fill
  else match t.trigs with
    | p :: ps => (.ctl 4 p, none, { u with trigs := ps })
    | [] =>
      if 4032 ≤ t.sinceFill then fill
      else match t.blocks with
        | b :: bs => (b, none, { u with blocks := bs })
        | [] => match t.front with
          | none => fill
          | some p => ((packetBlocks p).headD .bad, some { p with afterHub := false }, { u with queue := t.queue.erase p, blocks := (packetBlocks p).tail })

/-- The next `n` blocks and the packets that they begin. -/
def LinkTx.run : Nat → LinkTx → List Blk × List Packet × LinkTx
  | 0, t => ([], [], t)
  | n + 1, t =>
    let (b, p, t) := t.next
    let (bs, ps, t) := t.run n
    (b :: bs, p.toList ++ ps, t)

/-- The message bits of 80 blocks before scrambling (R227, R229). -/
def messageOf (blocks : List Blk) : Nat :=
  ((cutEvery 4 20 blocks).zipIdx.map fun (b, i) => transcode b * 2 ^ (257 * i)).sum

/-! ## Lanes -/

/-- The pattern generator has replaced the link's data on a lane (R207); far-end loopback sends neither (R205). -/
def State.lanePattern (s : State) (l : Nat) : Bool := s.on (R.PRBS_CTRL_TX_EN l) && s.get (R.LANE_CTRL_LOOP l) != 3

/-- The symbols that a transmitter makes of bits (R182 to R184). -/
def State.laneSyms (s : State) (l : Nat) (bits : List Bool) : List Nat :=
  txSymbols (s.laneNrz l) (s.lanePre l) (s.laneOf l).precoder bits

/-- A transmitter sends bits as symbols, and its precoder goes on from the last of them (R182, R183). -/
def State.laneSend (s : State) (l : Nat) (bits : List Bool) : State :=
  let syms := s.laneSyms l bits
  (s.setLane l { s.laneOf l with precoder := syms.getLastD (s.laneOf l).precoder }).laneLevels l syms

/-- The symbols that near-end serial loopback brings to the slicer for bits that the lane sends (R203 to R205). -/
def State.laneBack (s : State) (l : Nat) (bits : List Bool) : List Nat :=
  s.laneDecide l (invSymbols (s.laneNrz l) (s.on (R.LANE_CTRL_TX_INV l)) (s.laneSyms l bits))

/-- The bits that a near-end loopback returns for bits that the lane sends. -/
def State.laneHears (s : State) (l : Nat) (bits : List Bool) : List Bool :=
  if s.get (R.LANE_CTRL_LOOP l) = 2 then bits else s.laneSpells l (s.laneBack l bits)

/-- Received bits reach the pattern checker (R207, R208). -/
def State.laneCheck (s : State) (l : Nat) (bits : List Bool) : State :=
  if s.on (R.PRBS_CTRL_RX_EN l) && s.laneReady l then
    let c := bits.foldl (PrbsChk.step (s.get (R.PRBS_CTRL_PATTERN l))) (s.laneOf l).chk
    let s := (s.setLane l { s.laneOf l with chk := { c with bits := 0, errs := 0, lost := false } }).prbsCount l c.errs c.bits
    let s := if c.lost then s.prbsLost l else s
    if c.lock then s.raise (R.PRBS_STATUS_LOCK l) else s
  else s

/-- A transmitter sends bits; a near-end loopback returns them to the lane's receiver. -/
def State.laneOut (s : State) (l : Nat) (bits : List Bool) : State :=
  if s.laneLooped l then
    let back := if s.get (R.LANE_CTRL_LOOP l) = 1 then s.laneBack l bits else []
    (((s.laneSend l bits).laneTook l back).laneCheck l (s.laneHears l bits))
  else s.laneSend l bits

/-- One event clock of a lane's pattern generator (R207). The generator's first register is a free value other than 0
(assumption 115). -/
def State.servePattern (s : State) (l : Nat) : State :=
  if s.lanePattern l && s.txRuns l then
    let x := s.laneOf l
    let p := s.get (R.PRBS_CTRL_PATTERN l)
    let unit := if s.laneNrz l then 1 else 2
    let time := x.genPhase + laneEighths (s.laneMode l)
    let n := time / (8 * unit) * unit
    let reg := x.gen.getD (s.freeVal 31 % (2 ^ (prbsTaps p).1 - 1) + 1)
    let s := if x.gen = none then s.useFree else s
    let (bits, reg) := prbsRun p n reg
    let (bits, left) := invertBits x.injected bits
    (s.setLane l { x with gen := some reg, genPhase := time % (8 * unit), injected := left }).laneOut l bits
  else s

/-! ## Codewords -/

/-- A codeword of a link, with its marker where a period begins, leaves on a lane (R229, R231). -/
def State.laneWord (s : State) (l : Nat) (mark : List Bool) (bits : List Bool) : State :=
  let x := s.laneOf l
  let s := s.setLane l { x with txBip := bip8 (if mark = [] then x.txBip else 0) bits }
  if s.lanePattern l || s.get (R.LANE_CTRL_LOOP l) == 3 || !s.txRuns l then s else s.laneOut l (mark ++ bits)

/-- A lane in a near-end loopback hears its part of a codeword, after its marker where it is the `first` of a period (R203, R231): a lane whose
data the pattern has replaced brings neither. -/
def State.laneHeard (s : State) (l : Nat) (first : Bool) (b : List Bool) : State :=
  let s := if first then s.markerIn l (if s.lanePattern l then 0 else bitNat (b.take 128)) (16 * s.clk) 0 else s
  let bits := if first then b.drop 128 else b
  (s.setLane l { s.laneOf l with heard := if s.lanePattern l then [] else bits }).laneBip l bits

/-- The link takes the codeword that its lanes have all heard from themselves (R203). -/
def State.linkBack (s : State) (f : Nat) : State :=
  let lanes := s.linkLanes f
  if !s.takesCodewords f then s
  else if lanes.any s.lanePattern then s.codewordIn f none 0 0 false
  else s.codewordIn f (rsDecode (s.mergeLanes f (lanes.map fun l => (s.laneOf l).heard))) 0 0 false

/-- A codeword leaves on the lanes of a link (R222, R228, R229, R231); `left` is the time left over. -/
def State.sendCodeword (s : State) (f left : Nat) : State :=
  let l := s.linkOf f
  let w := s.linkWidth f
  let first := l.tx.count == 0
  let r := l.tx.run 80
  let tx := r.2.2
  let z := scrBits 5140 0 (if first then 2 ^ 58 - 1 else tx.scr) 0
  let cw := rsCodeword (messageOf r.1 ^^^ z.1)
  let s := s.setLink f { l with tx := { tx with phase := left, count := (tx.count + 1) % 16384, scr := z.2 } }
  let lanes := s.linkLanes f
  let outward := lanes.all fun l => (s.laneOf l).sending && s.get (R.LANE_CTRL_LOOP l) != 3 && !s.lanePattern l
  let s := s.forList r.2.1 fun p s => if outward then s.emit (.packet f p) else s
  let words := lanes.zipIdx.map fun (l, k) =>
    (l, if first then bitList 128 (markerOf k (s.get (R.LINK_CTRL_WIDTH f)) (s.laneOf l).txBip) else [], laneBits w k cw)
  let looped := words.filter fun (l, _, _) => s.laneLooped l && s.txRuns l
  let heard := looped.map fun (l, m, b) => (l, s.laneHears l (m ++ b))
  let s := s.forList words fun (l, m, b) s => s.laneWord l m b
  let s := s.forList heard fun (l, b) s => s.laneHeard l first b
  if looped.length = w then s.linkBack f else s

/-- One event clock of a link's transmitter: the link sends from LANE_WAIT on. -/
def State.serveLink (s : State) (f : Nat) : State :=
  if s.linkState f = 0 then s
  else
    let l := s.linkOf f
    let w := s.linkWidth f
    let time := l.tx.phase + w * laneEighths (s.laneMode f)
    let need := 43520 + if l.tx.count = 0 then 1024 * w else 0
    if time < need then s.setLink f { l with tx := { l.tx with phase := time } } else s.sendCodeword f (time - need)

/-- One event clock of every lane. -/
def State.serveLanes (s : State) : State := (s.forEach 32 fun f s => s.serveLink f).forEach 32 fun l s => s.servePattern l

end Sys2Proof.Machine
end

