-- ==== Sys2Proof/Machine/Tick.lean ====
section
/-!
DEFINITION. One event clock: what passes when no command waits (assumption 2).
-/
set_option Elab.async false
namespace Sys2Proof.Machine

/-- The present event clock ends: the late entries of it that are next fire (R87, R91), its deliveries are made after its accesses (R25, R114), the zone closures of it are applied (R427), its sample sets the reference of a channel just
enabled (R39), and what is left to fire is deferred (R87). -/
def State.endClock (s : State) : State := (s.fireLates 8).deliverDue.zonesApply.encReference.deferRest.closeClock

/-- The next event clock begins (R13, R15): the clock and station time advance, every position source moves on by one clock of interpolation,
asynchronous requests arrive (R111), and the Ethernet ports and the serial lanes transmit (R169, R241). -/
def State.startClock (s : State) : State := ({ s with clk := s.clk + 1 }).timeTick.tickSources.arriveAsync.serveStation.serveLanes

/-- One event clock passes. -/
def State.tick (s : State) : State := s.endClock.startClock

end Sys2Proof.Machine
end

