-- ==== Sys2Proof/Safety.lean ====
section
/-!
DEFINITION. What every step of the block keeps, in the terms the statements use: the canonical form of the register file and
of the memories, the bounds of the queues that the spec bounds, the parts of the machine, and which parts each command may change.
-/
set_option Elab.async false
namespace Sys2Proof.Machine

/-- The invariant of the machine: the register file, the device memory and the MRAM stand in their canonical form; the event
log queue holds at most 64 records (R711); every channel FIFO holds at most 64 requests (R112). -/
structure State.Canon (s : State) : Prop where
  regs : Tbl.wf regReset s.regs = true
  mem : Memory.wf s.mem = true
  mram : Memory.wf s.mram = true
  logQ : s.nvm.logQ.length ≤ 64
  fifo : ∀ c, (s.fifoOf c).length ≤ 64

/-- What every command does to the state it runs on: the commands that wait stay as they are, what has been driven outward
stays and is only added to, free values are only used up, and the invariant is kept. -/
structure Keeps (s t : State) : Prop where
  pending : t.pending = s.pending
  outs : s.outs <+: t.outs
  free : s.free ≤ t.free
  canon : s.Canon → t.Canon

/-- The state changes in nothing but registers (and in the note of the flags raised in this event clock, R7), and in no register outside a list. -/
def OnlyRegs (s t : State) (l : List Nat) : Prop := t = { s with regs := t.regs, risen := t.risen } ∧ ∀ a, a ∉ l → t.reg a = s.reg a

/-- The conclusion of the statements about one command: it answers a next state, and that state has a property. -/
def Answers (c : Instr) (s : State) (P : State → Prop) : Prop := ∃ t, exec c s = .next t ∧ P t

/-! ## Isaow commands -/

/-- The parameters of the request that requester `m` has made (R646). -/
def State.params (s : State) (m : Nat) : List Byte := reqParams (s.cmdOf m).req

/-- The request of requester `m` stands with opcode `op`, Skep runs, the command has neither run nor been
answered, and no command that was rung earlier and names the same thing is still before it (R648). -/
structure State.Waits (s : State) (m op : Nat) : Prop where
  req : (s.cmdOf m).req ≠ []
  fresh : (s.cmdOf m).started = false
  unanswered : (s.cmdOf m).resp = none
  runs : s.skepRuns = true
  op : reqOp (s.cmdOf m).req = op
  first : s.skepBehind m = false

/-- It stands so, and the checks that every command shares (R653) refuse nothing of it. -/
structure State.CanRun (s : State) (m op : Nat) : Prop where
  waits : s.Waits m op
  fits : (s.cmdOf m).refusal = none

/-- The command of requester `m` has an answer: its STATUS and response parameters. -/
def State.AnswerIs (s : State) (m status : Nat) (p : List Byte) : Prop := (s.cmdOf m).resp = some (status, p)

/-! ## The parts of the machine -/

/-- The parts of the machine. -/
inductive Part where
  /-- Event clocks since reset. -/
  | clock
  /-- Station time (R15). -/
  | time
  /-- The count of free values (assumption 1). -/
  | freeVals
  /-- The register file, and the flags that hardware has set in this event clock. -/
  | regs
  /-- Device memory. -/
  | memory
  /-- The MRAM. -/
  | mram
  /-- The unit table (R653). -/
  | units
  /-- Sward beside its registers (chapter 4). -/
  | fabric
  /-- Encoder, SSI and switch inputs beside their registers (chapter 2). -/
  | inputs
  /-- The position engine beside its registers (chapter 3). -/
  | position
  /-- The time unit, the Ethernet ports and the station streams beside their registers (chapter 5). -/
  | station
  /-- The lanes beside their registers (chapter 6). -/
  | lanes
  /-- The links beside their registers (chapter 7). -/
  | links
  /-- The endpoints, their enrolment and their groups beside their registers (chapters 7 and 8). -/
  | endpoints
  /-- The stream descriptors beside their registers (chapter 8). -/
  | streams
  /-- The lighting chains beside their registers (chapter 9). -/
  | lighting
  /-- Creel beside its registers (chapter 10). -/
  | creel
  /-- Conditioning beside its registers (chapter 11). -/
  | conditioning
  /-- Plait beside its registers (chapter 12). -/
  | plait
  /-- The repeat contexts (R490). -/
  | contexts
  /-- The job slots and segmentation beside their registers (chapter 13). -/
  | jobs
  /-- Comparison beside its registers (chapter 14). -/
  | compare
  /-- Withy beside its registers (chapter 15). -/
  | delivery
  /-- The PCI Express port beside its registers (chapter 16). -/
  | port
  /-- The DMA channels beside their registers (chapter 17). -/
  | dma
  /-- Skep and the mailboxes beside their registers (chapter 18). -/
  | skep
  /-- The event log queue and what Skep keeps of the MRAM (chapter 20). -/
  | nvm
  /-- The thermal and power unit beside its registers (chapter 19). -/
  | thermal
  /-- The boot ladder beside its registers (chapter 21). -/
  | boot
  /-- The indirect access in progress (R744). -/
  | indirect
  /-- The record of what the device has driven outward. -/
  | outs
deriving DecidableEq, Repr

/-- The number of a part. -/
def Part.no : Part → Nat
  | .clock => 0
  | .time => 1
  | .freeVals => 2
  | .regs => 3
  | .memory => 4
  | .mram => 5
  | .units => 6
  | .fabric => 7
  | .inputs => 8
  | .position => 9
  | .station => 10
  | .lanes => 11
  | .links => 12
  | .endpoints => 13
  | .streams => 14
  | .lighting => 15
  | .creel => 16
  | .conditioning => 17
  | .plait => 18
  | .contexts => 19
  | .jobs => 20
  | .compare => 21
  | .delivery => 22
  | .port => 23
  | .dma => 24
  | .skep => 25
  | .nvm => 26
  | .thermal => 27
  | .boot => 28
  | .indirect => 29
  | .outs => 30

/-- A part of the machine is the same in two states. -/
def Part.Same (p : Part) (s t : State) : Prop :=
  match p with
  | .clock => t.clk = s.clk
  | .time => t.timeNs = s.timeNs ∧ t.timeFrac = s.timeFrac
  | .freeVals => t.free = s.free
  | .regs => t.regs = s.regs ∧ t.risen = s.risen
  | .memory => t.mem = s.mem
  | .mram => t.mram = s.mram
  | .units => t.units = s.units
  | .fabric => t.swd = s.swd
  | .inputs => t.enc = s.enc ∧ t.ssi = s.ssi ∧ t.sw = s.sw
  | .position => t.pe = s.pe
  | .station => t.net = s.net ∧ t.rxLast = s.rxLast
  | .lanes => t.lanes = s.lanes ∧ t.pllUp = s.pllUp ∧ t.pllLost = s.pllLost
  | .links => t.links = s.links
  | .endpoints => t.eps = s.eps ∧ t.enrolQ = s.enrolQ ∧ t.enrolling = s.enrolling ∧ t.upCount = s.upCount ∧ t.groups = s.groups
  | .streams => t.streams = s.streams
  | .lighting => t.chains = s.chains
  | .creel => t.creel = s.creel
  | .conditioning => t.cond = s.cond
  | .plait => t.plait = s.plait
  | .contexts => t.ctxs = s.ctxs ∧ t.ctxFresh = s.ctxFresh ∧ t.ctxQueue = s.ctxQueue ∧ t.noCtxKey = s.noCtxKey
  | .jobs => t.jobs = s.jobs
  | .compare => t.candFree = s.candFree ∧ t.candOf = s.candOf ∧ t.compare = s.compare
  | .delivery => t.ringQ = s.ringQ ∧ t.ringLost = s.ringLost ∧ t.repeatsOut = s.repeatsOut ∧ t.withy = s.withy
  | .port => t.port = s.port
  | .dma => t.dma = s.dma
  | .skep => t.skep = s.skep
  | .nvm => t.nvm = s.nvm
  | .thermal => t.therm = s.therm
  | .boot => t.boot = s.boot
  | .indirect => t.ind = s.ind
  | .outs => t.outs = s.outs

/-! ## The footprint of each command -/

/-- The parts that a command may change; it changes no other. A reset of the whole device may change every part but the MRAM, which boot
writes afterwards. -/
def footprint : Instr → List Part
  | .registerWrite _ _ _ _ => [.clock, .time, .freeVals, .regs, .memory, .mram, .units, .fabric, .inputs, .position, .station, .lanes, .links, .endpoints, .streams, .lighting, .creel, .conditioning, .plait, .contexts, .jobs, .compare, .delivery, .port, .dma, .skep, .nvm, .indirect, .outs]
  | .rcCounterRead _ _ _ => [.regs, .fabric, .lanes, .port, .outs]
  | .loCaptureRead _ _ _ => [.regs, .fabric, .lanes, .port, .outs]
  | .encCtrlWrite _ _ _ => [.freeVals, .regs, .units, .fabric, .inputs, .position, .port, .skep, .nvm, .outs]
  | .indexArm _ _ => [.regs, .fabric, .port, .outs]
  | .speedWindowWrite _ _ _ => [.regs, .fabric, .inputs, .position, .port, .outs]
  | .encInputChange _ _ _ => [.inputs, .outs]
  | .filterAccept _ _ _ _ => [.freeVals, .regs, .fabric, .inputs, .position, .nvm, .outs]
  | .speedWindowEnd _ => [.regs, .inputs, .position]
  | .lastIntervalSaturate _ => [.regs, .position]
  | .ssiCtrlWrite _ _ _ => [.regs, .fabric, .inputs, .port, .outs]
  | .ssiReadDue _ => [.regs, .inputs]
  | .ssiReadStart _ _ => [.freeVals, .regs, .fabric, .inputs, .position, .nvm, .outs]
  | .ssiReadDone _ _ => [.freeVals, .regs, .fabric, .inputs, .position, .nvm]
  | .swInputChange _ _ => [.freeVals, .regs, .fabric, .inputs, .nvm]
  | .debounceExpire _ => [.freeVals, .regs, .fabric, .inputs, .nvm]
  | .swCtrlWrite _ _ _ => [.freeVals, .regs, .fabric, .inputs, .port, .nvm, .outs]
  | .srcCtrlWrite _ _ _ => [.regs, .fabric, .position, .port, .outs]
  | .sourceEnable _ => [.clock, .freeVals, .regs, .memory, .fabric, .position, .lanes, .lighting, .creel, .conditioning, .contexts, .jobs, .compare, .port, .skep, .nvm, .outs]
  | .sourceStale _ => [.freeVals, .regs, .fabric, .nvm]
  | .viewCfgWrite _ _ _ _ => [.regs, .fabric, .port, .outs]
  | .portInsert _ _ => [.regs, .fabric, .position, .port, .outs]
  | .portRemove _ _ => [.regs, .fabric, .position, .port, .outs]
  | .entryInsertActive _ _ => [.clock, .freeVals, .regs, .memory, .fabric, .position, .lanes, .lighting, .creel, .conditioning, .contexts, .jobs, .compare, .port, .skep, .nvm, .outs]
  | .entryRemoveActive _ => [.freeVals, .regs, .memory, .fabric, .position, .lanes, .lighting, .creel, .conditioning, .contexts, .jobs, .compare, .port, .skep, .nvm, .outs]
  | .entryCrossed => [.regs, .fabric, .position, .lighting]
  | .entryDeferredFire => [.regs, .fabric, .position, .lighting]
  | .eventGrant => [.regs, .fabric, .port, .nvm, .outs]
  | .guardWindowEnd _ => [.fabric]
  | .chCfgWrite _ _ _ _ => [.regs, .fabric, .port, .nvm, .outs]
  | .swdPub _ _ => [.freeVals, .regs, .fabric, .port, .nvm, .outs]
  | .selectorWrite _ _ _ => [.clock, .time, .freeVals, .regs, .memory, .mram, .units, .fabric, .inputs, .position, .station, .lanes, .links, .endpoints, .streams, .lighting, .creel, .conditioning, .plait, .contexts, .jobs, .compare, .delivery, .port, .dma, .skep, .nvm, .indirect, .outs]
  | .outPulseEnd _ => [.regs, .outs]
  | .outCtrlWrite _ _ _ => [.regs, .fabric, .port, .outs]
  | .ethCtrlWrite _ _ _ => [.freeVals, .regs, .fabric, .station, .port, .nvm, .outs]
  | .ethLinkChange _ _ => [.freeVals, .regs, .fabric, .station, .nvm]
  | .ethFrameRx _ _ => [.freeVals, .regs, .station, .outs]
  | .rateAdjWrite _ _ => [.regs, .fabric, .station, .port, .outs]
  | .timeStepWrite _ _ => [.time, .freeVals, .regs, .fabric, .station, .port, .nvm, .outs]
  | .restep _ => [.freeVals, .regs, .fabric, .station, .port, .nvm, .outs]
  | .timeModeWrite _ _ => [.freeVals, .regs, .fabric, .station, .port, .nvm, .outs]
  | .ptpAnnounceRx _ _ => [.freeVals, .regs, .fabric, .station, .nvm]
  | .ptpSyncRx _ _ _ _ => [.time, .freeVals, .regs, .fabric, .station, .nvm]
  | .ptpDelayRespRx _ _ _ => [.station]
  | .ptpDelayReqTx => [.regs, .station, .outs]
  | .ptpSyncTx => [.regs, .station, .outs]
  | .masterLost => [.freeVals, .regs, .fabric, .station, .nvm]
  | .txposSample _ => [.regs, .station, .outs]
  | .staPosRx => [.freeVals, .regs, .fabric, .position, .station, .nvm]
  | .rxStreamPeriod _ => [.position]
  | .staEventFrameSend => [.regs, .station, .outs]
  | .staEventRx => [.freeVals, .regs, .fabric, .station, .nvm]
  | .deferredEventDue => [.freeVals, .regs, .fabric, .station, .nvm]
  | .staCmdRx => [.regs, .station, .port, .skep, .outs]
  | .beaconSend => [.regs, .station, .outs]
  | .staBeaconRx => [.freeVals, .regs, .fabric, .station, .nvm]
  | .peerTimeout _ => [.freeVals, .regs, .fabric, .nvm]
  | .grpCfgWrite _ _ _ => [.regs, .fabric, .port, .outs]
  | .refMeasure _ _ => [.regs]
  | .pllUnlock _ => [.freeVals, .regs, .memory, .fabric, .lanes, .links, .endpoints, .streams, .creel, .conditioning, .contexts, .compare, .delivery, .port, .skep, .nvm, .outs]
  | .pllRelock _ => [.freeVals, .regs, .memory, .units, .fabric, .lanes, .links, .endpoints, .streams, .creel, .conditioning, .contexts, .compare, .delivery, .port, .skep, .nvm, .outs]
  | .restart _ _ _ => [.freeVals, .regs, .memory, .units, .fabric, .lanes, .links, .endpoints, .streams, .creel, .conditioning, .contexts, .compare, .delivery, .port, .skep, .nvm, .outs]
  | .restartIdleEnd _ => [.regs, .lanes, .outs]
  | .loopWrite _ _ _ => [.freeVals, .regs, .memory, .units, .fabric, .lanes, .links, .endpoints, .streams, .creel, .conditioning, .contexts, .compare, .delivery, .port, .skep, .nvm, .outs]
  | .pwrStateWrite _ _ => [.freeVals, .regs, .memory, .units, .fabric, .lanes, .links, .endpoints, .streams, .creel, .conditioning, .contexts, .compare, .delivery, .port, .skep, .nvm, .outs]
  | .pwrTransitionDone _ _ => [.freeVals, .regs, .memory, .units, .fabric, .lanes, .links, .endpoints, .streams, .creel, .conditioning, .contexts, .compare, .delivery, .port, .skep, .nvm, .outs]
  | .txCoefWrite _ _ _ => [.regs, .fabric, .port, .outs]
  | .sigDetRise _ => [.freeVals, .regs, .memory, .fabric, .lanes, .links, .endpoints, .streams, .creel, .conditioning, .contexts, .compare, .delivery, .port, .skep, .nvm, .outs]
  | .sigDetHold _ => [.freeVals, .regs, .memory, .fabric, .lanes, .links, .endpoints, .streams, .creel, .conditioning, .contexts, .compare, .delivery, .port, .skep, .nvm, .outs]
  | .sigDetFall _ => [.freeVals, .regs, .memory, .units, .fabric, .lanes, .links, .endpoints, .streams, .creel, .conditioning, .contexts, .compare, .delivery, .port, .skep, .nvm, .outs]
  | .cdrLock _ => [.freeVals, .regs, .memory, .fabric, .lanes, .links, .endpoints, .streams, .creel, .conditioning, .contexts, .compare, .delivery, .port, .skep, .nvm, .outs]
  | .adaptSettled _ _ _ => [.freeVals, .regs, .memory, .fabric, .lanes, .links, .endpoints, .streams, .creel, .conditioning, .contexts, .compare, .delivery, .port, .skep, .nvm, .outs]
  | .eyeCheckDone _ _ => [.freeVals, .regs, .memory, .units, .fabric, .lanes, .links, .endpoints, .streams, .creel, .conditioning, .contexts, .compare, .delivery, .port, .skep, .nvm, .outs]
  | .cdrLockLost _ => [.freeVals, .regs, .memory, .units, .fabric, .lanes, .links, .endpoints, .streams, .creel, .conditioning, .contexts, .compare, .delivery, .port, .skep, .nvm, .outs]
  | .acqTimeout _ => [.freeVals, .regs, .memory, .units, .fabric, .lanes, .links, .endpoints, .streams, .creel, .conditioning, .contexts, .compare, .delivery, .port, .skep, .nvm, .outs]
  | .warmAcqTimeout _ => [.regs, .lanes]
  | .freqOffsetUpdate _ _ => [.regs]
  | .eyeSummaryRefresh _ _ _ => [.regs]
  | .marginStart _ _ _ => [.regs, .fabric, .lanes, .port, .outs]
  | .marginDone _ _ => [.regs, .lanes]
  | .inject _ _ _ => [.regs, .fabric, .lanes, .port, .outs]
  | .prbsErrRead _ _ _ _ => [.regs, .fabric, .lanes, .port, .outs]
  | .prbsLock _ => [.regs]
  | .prbsLockLost _ => [.regs]
  | .amReceived _ _ _ _ => [.freeVals, .regs, .memory, .fabric, .lanes, .links, .endpoints, .streams, .creel, .conditioning, .contexts, .compare, .delivery, .port, .skep, .nvm, .outs]
  | .amLost _ => [.freeVals, .regs, .memory, .fabric, .lanes, .links, .endpoints, .streams, .creel, .conditioning, .contexts, .compare, .delivery, .port, .skep, .nvm, .outs]
  | .codewordDecode _ _ _ _ _ _ => [.freeVals, .regs, .memory, .fabric, .lanes, .links, .endpoints, .streams, .creel, .conditioning, .contexts, .compare, .delivery, .port, .skep, .nvm, .outs]
  | .streamRx _ => [.freeVals, .regs, .memory, .fabric, .links, .streams, .creel, .contexts, .compare, .delivery, .nvm]
  | .rdata _ => [.freeVals, .regs, .memory, .units, .fabric, .links, .endpoints, .streams, .creel, .conditioning, .contexts, .compare, .delivery, .port, .skep, .nvm, .outs]
  | .wack _ => [.freeVals, .regs, .memory, .units, .fabric, .links, .endpoints, .streams, .creel, .conditioning, .contexts, .compare, .delivery, .port, .skep, .nvm, .outs]
  | .msg _ => [.regs, .links, .endpoints]
  | .headEvent _ => [.freeVals, .regs, .fabric, .links, .endpoints, .nvm]
  | .credit _ => [.regs, .links, .endpoints]
  | .ctrlTimeout _ _ => [.freeVals, .regs, .memory, .units, .fabric, .links, .endpoints, .streams, .creel, .conditioning, .contexts, .compare, .delivery, .port, .skep, .nvm, .outs]
  | .creditReset _ _ _ => [.regs, .fabric, .links, .endpoints, .port, .outs]
  | .echoRsp _ _ => [.regs, .links]
  | .echoReqTimer _ _ => [.links]
  | .timePosTimer _ => [.links]
  | .hello _ _ _ => [.freeVals, .regs, .units, .fabric, .links, .endpoints, .streams, .conditioning, .port, .skep, .nvm, .outs]
  | .helloTimer _ => [.freeVals, .regs, .units, .fabric, .links, .endpoints, .streams, .conditioning, .port, .skep, .nvm, .outs]
  | .propose _ _ _ => [.freeVals, .regs, .fabric, .links, .port, .outs]
  | .portStatus _ _ _ => [.freeVals, .regs, .memory, .fabric, .links, .endpoints, .streams, .creel, .conditioning, .contexts, .compare, .delivery, .port, .skep, .nvm, .outs]
  | .drop _ => [.freeVals, .regs, .memory, .fabric, .links, .streams, .creel, .contexts, .compare, .delivery, .nvm]
  | .trigCtrlWrite _ _ _ _ => [.regs, .fabric, .links, .endpoints, .port, .outs]
  | .trigLaunch _ _ _ _ => [.regs, .links, .outs]
  | .forget _ _ _ => [.regs, .fabric, .endpoints, .port, .outs]
  | .healthPoll => [.links, .endpoints]
  | .psetWrite _ _ _ _ _ => [.regs, .fabric, .endpoints, .port, .outs]
  | .cpGo _ _ _ => [.regs, .fabric, .links, .endpoints, .port, .outs]
  | .descEnable _ _ _ => [.regs, .fabric, .links, .endpoints, .streams, .port, .skep, .outs]
  | .descDisable _ _ _ => [.freeVals, .regs, .memory, .fabric, .links, .endpoints, .streams, .creel, .conditioning, .contexts, .compare, .delivery, .port, .skep, .nvm, .outs]
  | .mfCfgWrite _ _ _ => [.regs, .fabric, .port, .outs]
  | .flush _ _ _ _ => [.regs, .fabric, .endpoints, .port, .outs]
  | .msgRecordTake _ _ => [.freeVals, .regs, .memory, .fabric, .endpoints, .creel, .contexts, .compare, .delivery, .nvm]
  | .chainFrameDone _ _ _ => [.freeVals, .regs, .units, .fabric, .position, .lighting, .conditioning, .port, .skep, .nvm, .outs]
  | .commitCtrlGo _ _ _ => [.regs, .fabric, .lighting, .port, .outs]
  | .burstRowEdge _ => [.freeVals, .regs, .units, .fabric, .lighting, .conditioning, .port, .skep, .nvm, .outs]
  | .genRetry _ => [.regs, .position, .lighting]
  | .dutyWindowEnd _ => [.lighting]
  | .diagStatusPoll _ => [.lighting]
  | .unverified _ _ _ => [.freeVals, .regs, .fabric, .nvm]
  | .cutClr _ _ _ => [.regs, .fabric, .port, .outs]
  | .doseWriteback _ => [.regs, .lighting, .skep]
  | .doseRetry _ => [.regs, .lighting, .skep]
  | .chainCfgWrite _ _ _ => [.regs, .fabric, .port, .outs]
  | .layoutWrite _ _ _ => [.regs, .fabric, .port, .outs]
  | .segQuery _ _ => [.regs, .fabric, .port, .outs]
  | .histCfgWrite _ _ _ _ => [.freeVals, .regs, .memory, .fabric, .creel, .contexts, .compare, .delivery, .port, .nvm, .outs]
  | .release _ _ _ => [.freeVals, .regs, .memory, .fabric, .creel, .contexts, .compare, .delivery, .port, .nvm, .outs]
  | .rawSegsWrite _ _ _ => [.regs, .fabric, .creel, .port, .outs]
  | .markCfgWrite _ _ _ => [.freeVals, .regs, .memory, .fabric, .creel, .contexts, .compare, .delivery, .port, .nvm, .outs]
  | .markClear _ _ => [.freeVals, .regs, .memory, .fabric, .creel, .contexts, .compare, .delivery, .port, .nvm, .outs]
  | .setAt _ _ => [.regs, .fabric, .creel, .port, .outs]
  | .setAtDone _ => [.freeVals, .regs, .memory, .fabric, .creel, .contexts, .compare, .delivery, .nvm]
  | .setAhead _ _ => [.regs, .fabric, .position, .port, .outs]
  | .scrubStep _ => [.freeVals, .regs, .fabric, .creel, .nvm]
  | .ctxPeek _ _ => [.freeVals, .regs, .fabric, .creel, .port, .nvm, .outs]
  | .hbmTrainDone _ => [.regs, .creel, .boot]
  | .memReady => [.regs, .memory, .creel]
  | .lineCondition _ _ => [.freeVals, .regs, .fabric, .links, .creel, .conditioning, .plait, .port, .skep, .nvm, .outs]
  | .condCfgWrite _ _ _ _ => [.regs, .fabric, .port, .outs]
  | .load _ _ => [.regs, .fabric, .conditioning, .port, .outs]
  | .save _ => [.regs, .fabric, .conditioning, .port, .outs]
  | .liveReset _ => [.regs, .fabric, .conditioning, .port, .outs]
  | .lutLoad _ => [.regs, .fabric, .conditioning, .port, .outs]
  | .lutSave _ => [.regs, .fabric, .conditioning, .port, .outs]
  | .accum _ => [.regs, .fabric, .conditioning, .port, .outs]
  | .calAbort _ => [.freeVals, .regs, .memory, .fabric, .creel, .conditioning, .port, .skep, .nvm, .outs]
  | .calCmdDone => [.freeVals, .regs, .memory, .fabric, .creel, .conditioning, .port, .skep, .nvm, .outs]
  | .zoneClose _ => [.freeVals, .regs, .fabric, .conditioning, .port, .skep, .nvm, .outs]
  | .lcCfgWrite _ _ _ => [.freeVals, .regs, .fabric, .conditioning, .port, .skep, .nvm, .outs]
  | .vwCtrlWrite _ _ _ _ => [.regs, .fabric, .port, .outs]
  | .plaitRowEmit _ _ _ => [.freeVals, .regs, .memory, .units, .fabric, .lanes, .links, .endpoints, .creel, .conditioning, .plait, .contexts, .jobs, .compare, .delivery, .port, .skep, .nvm, .outs]
  | .headTimeout _ _ => [.plait]
  | .lateMarginPass _ _ => [.plait]
  | .trkWindowEnd _ => [.freeVals, .regs, .fabric, .plait, .port, .skep, .nvm, .outs]
  | .loadMap _ => [.regs, .fabric, .plait, .port, .outs]
  | .saveMap _ => [.regs, .fabric, .plait, .port, .outs]
  | .saveGeom _ => [.regs, .fabric, .plait, .port, .outs]
  | .loadGeom _ => [.regs, .fabric, .plait, .port, .outs]
  | .trkReset _ => [.regs, .fabric, .plait, .port, .outs]
  | .geomAbort _ => [.freeVals, .regs, .memory, .mram, .fabric, .creel, .conditioning, .plait, .port, .skep, .nvm, .outs]
  | .geomCmdDone _ => [.freeVals, .regs, .memory, .mram, .fabric, .creel, .conditioning, .plait, .port, .skep, .nvm, .outs]
  | .jobLoad _ => [.clock, .freeVals, .regs, .units, .fabric, .creel, .conditioning, .jobs, .compare, .port, .skep, .nvm, .outs]
  | .jobLoadDone _ => [.freeVals, .regs, .units, .fabric, .creel, .conditioning, .jobs, .compare, .port, .skep, .nvm, .outs]
  | .jobArm _ => [.position, .conditioning, .jobs, .skep]
  | .jobArmCancel _ => [.position, .jobs, .skep]
  | .jobSwitch _ => [.position, .conditioning, .jobs, .skep]
  | .rollCmd _ _ _ => [.regs, .fabric, .jobs, .port, .outs]
  | .bandCompare _ _ => [.freeVals, .regs, .fabric, .creel, .compare, .nvm]
  | .verdictReady _ => [.freeVals, .regs, .memory, .fabric, .position, .creel, .contexts, .compare, .delivery, .port, .skep, .nvm, .outs]
  | .gateInsertResult => [.freeVals, .regs, .memory, .fabric, .creel, .contexts, .compare, .delivery, .nvm]
  | .refLearn _ => [.regs, .creel, .compare, .skep]
  | .refLearnAbort _ => [.freeVals, .regs, .fabric, .creel, .compare, .port, .skep, .nvm, .outs]
  | .learnComputeDone _ => [.freeVals, .regs, .memory, .fabric, .creel, .compare, .port, .skep, .nvm, .outs]
  | .ringEnable _ _ _ => [.freeVals, .regs, .memory, .units, .fabric, .creel, .contexts, .compare, .delivery, .port, .skep, .nvm, .outs]
  | .recordIssue _ => [.clock, .freeVals, .regs, .memory, .fabric, .creel, .contexts, .compare, .delivery, .port, .nvm, .outs]
  | .ringHeadDb _ _ _ => [.clock, .freeVals, .regs, .fabric, .delivery, .port, .nvm, .outs]
  | .ringIrqTimer _ => [.clock, .regs, .fabric, .delivery, .port, .outs]
  | .poolEnable _ _ _ => [.regs, .fabric, .delivery, .port, .outs]
  | .poolFreeDb _ _ _ => [.freeVals, .regs, .fabric, .delivery, .port, .nvm, .outs]
  | .poolWaitExpire _ => [.freeVals, .regs, .memory, .fabric, .creel, .contexts, .compare, .delivery, .nvm]
  | .disable _ _ => [.freeVals, .regs, .memory, .fabric, .creel, .contexts, .compare, .delivery, .port, .nvm, .outs]
  | .reclaim _ _ _ => [.clock, .freeVals, .regs, .fabric, .delivery, .port, .nvm, .outs]
  | .fbGo _ _ => [.clock, .freeVals, .regs, .memory, .fabric, .creel, .contexts, .compare, .delivery, .port, .nvm, .outs]
  | .fbAbort _ _ => [.freeVals, .regs, .fabric, .delivery, .port, .nvm, .outs]
  | .peerReadBack _ => [.clock, .freeVals, .regs, .memory, .fabric, .creel, .contexts, .compare, .delivery, .port, .nvm, .outs]
  | .peerWindowWrite _ _ _ => [.freeVals, .regs, .memory, .fabric, .creel, .port, .nvm, .outs]
  | .peerWindowRead _ _ _ => [.freeVals, .regs, .fabric, .creel, .port, .nvm, .outs]
  | .windowCommit _ => [.regs, .fabric, .port, .outs]
  | .bar0BadRequest _ _ _ _ _ _ _ => [.regs, .fabric, .port, .outs]
  | .configRequest _ _ _ _ _ => [.clock, .freeVals, .regs, .memory, .units, .fabric, .lighting, .creel, .delivery, .port, .dma, .skep, .nvm, .outs]
  | .completionRx _ _ _ _ => [.clock, .freeVals, .regs, .memory, .units, .fabric, .creel, .contexts, .jobs, .compare, .delivery, .port, .dma, .skep, .nvm, .outs]
  | .completionTimeout _ => [.clock, .freeVals, .regs, .memory, .units, .fabric, .creel, .contexts, .jobs, .compare, .delivery, .port, .dma, .skep, .nvm, .outs]
  | .tagQuarantineEnd _ => [.clock, .freeVals, .regs, .memory, .units, .fabric, .creel, .port, .dma, .skep, .nvm, .outs]
  | .perst => [.clock, .freeVals, .regs, .memory, .units, .fabric, .position, .creel, .contexts, .jobs, .compare, .delivery, .port, .dma, .skep, .nvm, .indirect, .outs]
  | .hotReset => [.clock, .freeVals, .regs, .memory, .units, .fabric, .position, .creel, .contexts, .jobs, .compare, .delivery, .port, .dma, .skep, .nvm, .indirect, .outs]
  | .functionLevelReset _ => [.clock, .freeVals, .regs, .memory, .units, .fabric, .position, .creel, .contexts, .jobs, .compare, .delivery, .port, .dma, .skep, .nvm, .indirect, .outs]
  | .pcieLinkChange _ => [.clock, .freeVals, .regs, .memory, .units, .fabric, .creel, .delivery, .port, .dma, .skep, .nvm, .outs]
  | .pmStateChange _ _ => [.clock, .freeVals, .regs, .memory, .units, .fabric, .lighting, .creel, .delivery, .port, .dma, .skep, .nvm, .outs]
  | .l1Entry => [.regs, .outs]
  | .wakePin _ _ => [.port, .outs]
  | .dmaStart _ _ => [.clock, .freeVals, .regs, .units, .fabric, .port, .dma, .skep, .nvm, .outs]
  | .dmaDisable _ _ => [.freeVals, .regs, .units, .fabric, .port, .dma, .skep, .nvm, .outs]
  | .dmaDrainDone _ => [.freeVals, .regs, .units, .fabric, .port, .skep, .nvm, .outs]
  | .dmaDescFetched _ => [.clock, .freeVals, .regs, .memory, .units, .fabric, .creel, .port, .dma, .skep, .nvm, .outs]
  | .dmaDescComplete _ => [.clock, .freeVals, .regs, .units, .fabric, .port, .dma, .skep, .nvm, .outs]
  | .appendDb _ _ => [.clock, .freeVals, .regs, .units, .fabric, .port, .dma, .skep, .nvm, .outs]
  | .helloCmd _ => [.skep]
  | .summary _ => [.clock, .regs, .port, .skep, .outs]
  | .unitGet _ => [.skep]
  | .unitSetOn _ => [.freeVals, .regs, .memory, .units, .fabric, .lanes, .links, .endpoints, .streams, .creel, .conditioning, .contexts, .compare, .delivery, .port, .skep, .nvm, .outs]
  | .unitSetOff _ => [.freeVals, .regs, .memory, .units, .fabric, .inputs, .position, .lanes, .links, .endpoints, .streams, .lighting, .creel, .conditioning, .plait, .contexts, .jobs, .compare, .delivery, .port, .dma, .skep, .nvm, .outs]
  | .unitSetRestart _ => [.freeVals, .regs, .memory, .units, .fabric, .lanes, .links, .endpoints, .streams, .creel, .conditioning, .contexts, .compare, .delivery, .port, .skep, .nvm, .outs]
  | .calRead _ => [.clock, .regs, .port, .skep, .outs]
  | .calWrite _ _ => [.clock, .freeVals, .regs, .mram, .port, .skep, .nvm, .outs]
  | .logRead _ => [.clock, .regs, .port, .skep, .outs]
  | .headInfo _ => [.skep]
  | .lightInfo _ => [.skep]
  | .thermalRead _ => [.skep]
  | .thermalSet _ => [.regs, .skep]
  | .thermalRestart _ => [.freeVals, .regs, .memory, .units, .fabric, .lanes, .links, .endpoints, .streams, .creel, .conditioning, .contexts, .compare, .delivery, .port, .skep, .nvm, .thermal, .outs]
  | .powerBudgetRead _ => [.skep]
  | .powerBudgetSet _ => [.regs, .skep]
  | .selfTest _ _ _ => [.freeVals, .regs, .memory, .units, .fabric, .lanes, .links, .endpoints, .streams, .creel, .conditioning, .contexts, .compare, .delivery, .port, .skep, .nvm, .outs]
  | .patchInfo _ => [.skep]
  | .mbCommandDone _ => [.regs, .fabric, .station, .port, .skep, .outs]
  | .smbSetOffset _ _ => [.regs, .fabric, .port, .skep, .outs]
  | .smbBlockWrite _ _ => [.regs, .skep]
  | .smbBlockRead _ => [.skep, .outs]
  | .smbReadStatus => [.outs]
  | .unitPathCheck _ => [.freeVals, .regs, .memory, .units, .fabric, .lanes, .links, .endpoints, .streams, .creel, .conditioning, .contexts, .compare, .delivery, .port, .skep, .nvm, .outs]
  | .schedulerTick => [.clock, .freeVals, .regs, .memory, .units, .fabric, .inputs, .position, .lanes, .links, .endpoints, .streams, .lighting, .creel, .conditioning, .plait, .contexts, .jobs, .compare, .delivery, .port, .dma, .skep, .nvm, .thermal, .boot, .outs]
  | .skepWatchdog _ _ _ => [.freeVals, .regs, .mram, .units, .fabric, .station, .creel, .conditioning, .jobs, .compare, .port, .skep, .nvm, .boot, .outs]
  | .skepRestartDone _ _ _ => [.freeVals, .regs, .memory, .mram, .units, .fabric, .position, .lanes, .links, .endpoints, .streams, .lighting, .creel, .conditioning, .plait, .contexts, .jobs, .compare, .delivery, .port, .skep, .nvm, .thermal, .boot, .outs]
  | .skepRestart _ => [.regs, .fabric, .port, .skep, .outs]
  | .sensorSample _ => [.freeVals, .regs, .memory, .units, .fabric, .lanes, .links, .endpoints, .streams, .lighting, .creel, .conditioning, .plait, .contexts, .jobs, .compare, .delivery, .port, .skep, .nvm, .thermal, .outs]
  | .stackTempRead _ _ => [.freeVals, .regs, .memory, .units, .fabric, .lanes, .links, .endpoints, .streams, .creel, .conditioning, .plait, .contexts, .jobs, .compare, .delivery, .port, .skep, .nvm, .thermal, .outs]
  | .thermTrip => [.thermal, .outs]
  | .pmbusPoll _ => [.regs, .nvm, .thermal, .outs]
  | .overBudget => [.freeVals, .regs, .fabric, .port, .nvm, .outs]
  | .logRecordWrite _ => [.freeVals, .regs, .mram, .nvm]
  | .onHoursTick _ => [.freeVals, .regs, .mram, .skep, .nvm]
  | .aonReset => [.clock, .time, .regs, .memory, .units, .fabric, .inputs, .position, .station, .lanes, .links, .endpoints, .streams, .lighting, .creel, .conditioning, .plait, .contexts, .jobs, .compare, .delivery, .port, .dma, .skep, .nvm, .thermal, .boot, .indirect, .outs]
  | .corePor _ => [.clock, .time, .freeVals, .regs, .memory, .mram, .units, .fabric, .inputs, .position, .station, .lanes, .links, .endpoints, .streams, .lighting, .creel, .conditioning, .plait, .contexts, .jobs, .compare, .delivery, .port, .dma, .skep, .nvm, .thermal, .boot, .indirect, .outs]
  | .supplyDrop _ => [.clock, .time, .regs, .memory, .units, .fabric, .inputs, .position, .station, .lanes, .links, .endpoints, .streams, .lighting, .creel, .conditioning, .plait, .contexts, .jobs, .compare, .delivery, .port, .dma, .skep, .nvm, .thermal, .boot, .indirect, .outs]
  | .sysReset _ => [.clock, .time, .freeVals, .regs, .memory, .mram, .units, .fabric, .inputs, .position, .station, .lanes, .links, .endpoints, .streams, .lighting, .creel, .conditioning, .plait, .contexts, .jobs, .compare, .delivery, .port, .dma, .skep, .nvm, .thermal, .boot, .indirect, .outs]
  | .patchStageEnd _ _ => [.freeVals, .regs, .mram, .skep, .nvm, .thermal, .boot, .outs]
  | .configRelease => [.freeVals, .regs, .memory, .units, .fabric, .lanes, .links, .endpoints, .streams, .creel, .conditioning, .contexts, .compare, .delivery, .port, .skep, .nvm, .outs]
  | .girqStatusWrite _ _ _ => [.regs, .fabric, .port, .outs]
  | .girqSoft _ => [.regs, .fabric, .port, .outs]
  | .indRead => [.clock, .time, .freeVals, .regs, .memory, .mram, .units, .fabric, .inputs, .position, .station, .lanes, .links, .endpoints, .streams, .lighting, .creel, .conditioning, .plait, .contexts, .jobs, .compare, .delivery, .port, .dma, .skep, .nvm, .indirect, .outs]
  | .indWrite => [.clock, .time, .freeVals, .regs, .memory, .mram, .units, .fabric, .inputs, .position, .station, .lanes, .links, .endpoints, .streams, .lighting, .creel, .conditioning, .plait, .contexts, .jobs, .compare, .delivery, .port, .dma, .skep, .nvm, .indirect, .outs]
  | .indAccessDone => [.regs, .indirect]
  | .perstDeassert => [.port, .outs]
  | .pmeResend _ => [.regs, .fabric, .port, .outs]
  | .vddioGpioChange _ _ => [.freeVals, .regs, .fabric, .inputs, .nvm, .outs]

/-! ## Accesses of a register -/

/-- The requester of a command that writes a register with a row of its own; none of a command that reads, or whose register is an operand. -/
def sender : Instr → Option Who
  | .pwrStateWrite _ (.write who _) => some who
  | .encCtrlWrite who _ _ | .indexArm who _ | .speedWindowWrite who _ _ | .ssiCtrlWrite who _ _ | .swCtrlWrite who _ _ | .srcCtrlWrite who _ _
  | .viewCfgWrite who _ _ _ | .portInsert who _ | .portRemove who _ | .chCfgWrite who _ _ _ | .swdPub who _ | .outCtrlWrite who _ _
  | .ethCtrlWrite who _ _ | .rateAdjWrite who _ | .timeStepWrite who _ | .restep who | .timeModeWrite who _ | .grpCfgWrite who _ _ | .restart who _ _
  | .loopWrite who _ _ | .txCoefWrite who _ _ | .marginStart who _ _ | .inject who _ _ | .creditReset who _ _ | .propose who _ _
  | .trigCtrlWrite who _ _ _ | .forget who _ _ | .psetWrite who _ _ _ _ | .cpGo who _ _ | .descEnable who _ _ | .descDisable who _ _
  | .mfCfgWrite who _ _ | .flush who _ _ _ | .commitCtrlGo who _ _ | .cutClr who _ _ | .chainCfgWrite who _ _ | .layoutWrite who _ _
  | .segQuery who _ | .histCfgWrite who _ _ _ | .release who _ _ | .rawSegsWrite who _ _ | .markCfgWrite who _ _ | .markClear who _ | .setAt who _
  | .setAhead who _ | .ctxPeek who _ | .condCfgWrite who _ _ _ | .load who _ | .save who | .liveReset who | .lutLoad who | .lutSave who | .accum who
  | .calAbort who | .lcCfgWrite who _ _ | .vwCtrlWrite who _ _ _ | .loadMap who | .saveMap who | .saveGeom who | .loadGeom who | .trkReset who
  | .geomAbort who | .rollCmd who _ _ | .ringEnable who _ _ | .ringHeadDb who _ _ | .poolEnable who _ _ | .poolFreeDb who _ _ | .disable who _
  | .reclaim who _ _ | .fbGo who _ | .fbAbort who _ | .windowCommit who | .dmaStart who _ | .dmaDisable who _ | .appendDb who _ | .skepRestart who
  | .girqStatusWrite who _ _ | .girqSoft who => some who
  | .pwrStateWrite _ (.link _ _) => none
  | .registerWrite _ _ _ _ | .rcCounterRead _ _ _ | .loCaptureRead _ _ _ | .encInputChange _ _ _ | .filterAccept _ _ _ _ | .speedWindowEnd _
  | .lastIntervalSaturate _ | .ssiReadDue _ | .ssiReadStart _ _ | .ssiReadDone _ _ | .swInputChange _ _ | .debounceExpire _ | .sourceEnable _
  | .sourceStale _ | .entryInsertActive _ _ | .entryRemoveActive _ | .entryCrossed | .entryDeferredFire | .eventGrant | .guardWindowEnd _
  | .selectorWrite _ _ _ | .outPulseEnd _ | .ethLinkChange _ _ | .ethFrameRx _ _ | .ptpAnnounceRx _ _ | .ptpSyncRx _ _ _ _ | .ptpDelayRespRx _ _ _
  | .ptpDelayReqTx | .ptpSyncTx | .masterLost | .txposSample _ | .staPosRx | .rxStreamPeriod _ | .staEventFrameSend | .staEventRx | .deferredEventDue
  | .staCmdRx | .beaconSend | .staBeaconRx | .peerTimeout _ | .refMeasure _ _ | .pllUnlock _ | .pllRelock _ | .restartIdleEnd _
  | .pwrTransitionDone _ _ | .sigDetRise _ | .sigDetHold _ | .sigDetFall _ | .cdrLock _ | .adaptSettled _ _ _ | .eyeCheckDone _ _ | .cdrLockLost _
  | .acqTimeout _ | .warmAcqTimeout _ | .freqOffsetUpdate _ _ | .eyeSummaryRefresh _ _ _ | .marginDone _ _ | .prbsErrRead _ _ _ _ | .prbsLock _
  | .prbsLockLost _ | .amReceived _ _ _ _ | .amLost _ | .codewordDecode _ _ _ _ _ _ | .streamRx _ | .rdata _ | .wack _ | .msg _ | .headEvent _
  | .credit _ | .ctrlTimeout _ _ | .echoRsp _ _ | .echoReqTimer _ _ | .timePosTimer _ | .hello _ _ _ | .helloTimer _ | .portStatus _ _ _ | .drop _
  | .trigLaunch _ _ _ _ | .healthPoll | .msgRecordTake _ _ | .chainFrameDone _ _ _ | .burstRowEdge _ | .genRetry _ | .dutyWindowEnd _
  | .diagStatusPoll _ | .unverified _ _ _ | .doseWriteback _ | .doseRetry _ | .setAtDone _ | .scrubStep _ | .hbmTrainDone _ | .memReady
  | .lineCondition _ _ | .calCmdDone | .zoneClose _ | .plaitRowEmit _ _ _ | .headTimeout _ _ | .lateMarginPass _ _ | .trkWindowEnd _ | .geomCmdDone _
  | .jobLoad _ | .jobLoadDone _ | .jobArm _ | .jobArmCancel _ | .jobSwitch _ | .bandCompare _ _ | .verdictReady _ | .gateInsertResult | .refLearn _
  | .refLearnAbort _ | .learnComputeDone _ | .recordIssue _ | .ringIrqTimer _ | .poolWaitExpire _ | .peerReadBack _ | .peerWindowWrite _ _ _
  | .peerWindowRead _ _ _ | .bar0BadRequest _ _ _ _ _ _ _ | .configRequest _ _ _ _ _ | .completionRx _ _ _ _ | .completionTimeout _
  | .tagQuarantineEnd _ | .perst | .hotReset | .functionLevelReset _ | .pcieLinkChange _ | .pmStateChange _ _ | .l1Entry | .wakePin _ _
  | .dmaDrainDone _ | .dmaDescFetched _ | .dmaDescComplete _ | .helloCmd _ | .summary _ | .unitGet _ | .unitSetOn _ | .unitSetOff _
  | .unitSetRestart _ | .calRead _ | .calWrite _ _ | .logRead _ | .headInfo _ | .lightInfo _ | .thermalRead _ | .thermalSet _ | .thermalRestart _
  | .powerBudgetRead _ | .powerBudgetSet _ | .selfTest _ _ _ | .patchInfo _ | .mbCommandDone _ | .smbSetOffset _ _ | .smbBlockWrite _ _
  | .smbBlockRead _ | .smbReadStatus | .unitPathCheck _ | .schedulerTick | .skepWatchdog _ _ _ | .skepRestartDone _ _ _ | .sensorSample _
  | .stackTempRead _ _ | .thermTrip | .pmbusPoll _ | .overBudget | .logRecordWrite _ | .onHoursTick _ | .aonReset | .corePor _ | .supplyDrop _
  | .sysReset _ | .patchStageEnd _ _ | .configRelease | .indRead | .indWrite | .indAccessDone | .perstDeassert | .pmeResend _ | .vddioGpioChange _ _ => none

end Sys2Proof.Machine
end

