-- ==== Sys2Proof/WellFormed.lean ====
section
/-!
DEFINITION. Which commands are well formed: the operands that no type bounds, in the ranges and shapes that the spec gives them. The machine
answers a next state for every command; a well-formed one is one that the hardware can meet.
-/
set_option Elab.async false
namespace Sys2Proof

/-- An aligned 32-bit word of a register window: BAR 0 and BAR 4 of function 0, or BAR 0 of function 1 (R4, R588). -/
def wordAddr (a : Nat) : Bool := a % 4 == 0 && decide (a < 2 ^ 27)

/-- A frame whose length is that of its fields: 14 bytes of header, 4 per tag, the body and the FCS (R138). -/
def EthFrame.ok (f : EthFrame) : Bool :=
  decide (f.da < 2 ^ 48) && decide (f.sa < 2 ^ 48) && decide (f.etherType < 2 ^ 16) && f.length == 18 + 4 * f.tags + f.body.length

/-- An Announce message whose fields have their widths (R151). -/
def Announce.ok (a : Announce) : Bool :=
  [(a.version, 4), (a.minor, 4), (a.domain, 8), (a.gmId, 64), (a.priority1, 8), (a.clockClass, 8), (a.accuracy, 8), (a.variance, 16), (a.priority2, 8),
    (a.steps, 16), (a.parent, 80)].all fun x => decide (x.1 < 2 ^ x.2)

/-- A 32-byte unit of the 48 GiB of device memory, and one of its 64 pseudo-channels (R354). -/
def MemErr.ok (e : MemErr) : Bool := decide (e.unit < 786432 * 2048)

/-- The operands of a command are such as the hardware can meet. -/
def wellFormed : Instr → Bool
  | .registerWrite _ addr _ more => wordAddr addr && decide (more.length ≤ 15)
  | .rcCounterRead _ addr _ => wordAddr addr
  | .loCaptureRead _ addr words => wordAddr addr && decide (1 ≤ words ∧ words ≤ 16)
  | .encCtrlWrite _ _ _ => true
  | .indexArm _ _ => true
  | .speedWindowWrite _ _ _ => true
  | .encInputChange _ _ _ => true
  | .filterAccept _ _ _ _ => true
  | .speedWindowEnd _ => true
  | .lastIntervalSaturate _ => true
  | .ssiCtrlWrite _ _ _ => true
  | .ssiReadDue _ => true
  | .ssiReadStart _ _ => true
  | .ssiReadDone _ bits => decide (bits < 2 ^ 128)
  | .swInputChange _ _ => true
  | .debounceExpire _ => true
  | .swCtrlWrite _ _ _ => true
  | .srcCtrlWrite _ _ _ => true
  | .sourceEnable _ => true
  | .sourceStale _ => true
  | .viewCfgWrite _ _ _ _ => true
  | .portInsert _ _ => true
  | .portRemove _ _ => true
  | .entryInsertActive _ slot => decide (slot < 262144)
  | .entryRemoveActive _ => true
  | .entryCrossed => true
  | .entryDeferredFire => true
  | .eventGrant => true
  | .guardWindowEnd _ => true
  | .chCfgWrite _ _ _ _ => true
  | .swdPub _ _ => true
  | .selectorWrite _ addr _ => wordAddr addr
  | .outPulseEnd _ => true
  | .outCtrlWrite _ _ _ => true
  | .ethCtrlWrite _ _ _ => true
  | .ethLinkChange _ _ => true
  | .ethFrameRx _ f => f.ok
  | .rateAdjWrite _ _ => true
  | .timeStepWrite _ _ => true
  | .restep _ => true
  | .timeModeWrite _ _ => true
  | .ptpAnnounceRx _ a => a.ok
  | .ptpSyncRx _ parent _ _ => decide (parent < 2 ^ 80)
  | .ptpDelayRespRx _ parent _ => decide (parent < 2 ^ 80)
  | .ptpDelayReqTx => true
  | .ptpSyncTx => true
  | .masterLost => true
  | .txposSample _ => true
  | .staPosRx => true
  | .rxStreamPeriod _ => true
  | .staEventFrameSend => true
  | .staEventRx => true
  | .deferredEventDue => true
  | .staCmdRx => true
  | .beaconSend => true
  | .staBeaconRx => true
  | .peerTimeout _ => true
  | .grpCfgWrite _ _ _ => true
  | .refMeasure _ _ => true
  | .pllUnlock _ => true
  | .pllRelock _ => true
  | .restart _ _ _ => true
  | .restartIdleEnd _ => true
  | .loopWrite _ _ _ => true
  | .pwrStateWrite _ _ => true
  | .pwrTransitionDone _ _ => true
  | .txCoefWrite _ _ _ => true
  | .sigDetRise _ => true
  | .sigDetHold _ => true
  | .sigDetFall _ => true
  | .cdrLock _ => true
  | .adaptSettled _ _ taps => taps.length == 12
  | .eyeCheckDone _ _ => true
  | .cdrLockLost _ => true
  | .acqTimeout _ => true
  | .warmAcqTimeout _ => true
  | .freqOffsetUpdate _ _ => true
  | .eyeSummaryRefresh _ _ _ => true
  | .marginStart _ _ _ => true
  | .marginDone _ count => decide (count < 2 ^ 32)
  | .inject _ _ _ => true
  | .prbsErrRead _ _ _ bits => decide (bits < 2 ^ 64)
  | .prbsLock _ => true
  | .prbsLockLost _ => true
  | .amReceived _ _ _ _ => true
  | .amLost _ => true
  | .codewordDecode _ _ _ _ _ _ => true
  | .streamRx _ => true
  | .rdata _ => true
  | .wack _ => true
  | .msg _ => true
  | .headEvent _ => true
  | .credit _ => true
  | .ctrlTimeout _ _ => true
  | .creditReset _ _ _ => true
  | .echoRsp _ _ => true
  | .echoReqTimer _ _ => true
  | .timePosTimer _ => true
  | .hello _ _ _ => true
  | .helloTimer _ => true
  | .propose _ _ _ => true
  | .portStatus _ _ _ => true
  | .drop _ => true
  | .trigCtrlWrite _ _ _ _ => true
  | .trigLaunch _ _ _ _ => true
  | .forget _ _ _ => true
  | .healthPoll => true
  | .psetWrite _ _ _ _ _ => true
  | .cpGo _ _ _ => true
  | .descEnable _ _ _ => true
  | .descDisable _ _ _ => true
  | .mfCfgWrite _ _ _ => true
  | .flush _ _ _ _ => true
  | .msgRecordTake _ _ => true
  | .chainFrameDone _ resps _ => decide (resps.length ≤ 32)
  | .commitCtrlGo _ _ _ => true
  | .burstRowEdge _ => true
  | .genRetry _ => true
  | .dutyWindowEnd _ => true
  | .diagStatusPoll _ => true
  | .unverified _ _ _ => true
  | .cutClr _ _ _ => true
  | .doseWriteback _ => true
  | .doseRetry _ => true
  | .chainCfgWrite _ _ _ => true
  | .layoutWrite _ _ _ => true
  | .segQuery _ _ => true
  | .histCfgWrite _ _ _ _ => true
  | .release _ _ _ => true
  | .rawSegsWrite _ _ _ => true
  | .markCfgWrite _ _ _ => true
  | .markClear _ _ => true
  | .setAt _ _ => true
  | .setAtDone _ => true
  | .setAhead _ _ => true
  | .scrubStep err => err.all MemErr.ok
  | .ctxPeek _ _ => true
  | .hbmTrainDone _ => true
  | .memReady => true
  | .lineCondition _ _ => true
  | .condCfgWrite _ _ _ _ => true
  | .load _ _ => true
  | .save _ => true
  | .liveReset _ => true
  | .lutLoad _ => true
  | .lutSave _ => true
  | .accum _ => true
  | .calAbort _ => true
  | .calCmdDone => true
  | .zoneClose _ => true
  | .lcCfgWrite _ _ _ => true
  | .vwCtrlWrite _ _ _ _ => true
  | .plaitRowEmit _ _ _ => true
  | .headTimeout _ _ => true
  | .lateMarginPass _ _ => true
  | .trkWindowEnd _ => true
  | .loadMap _ => true
  | .saveMap _ => true
  | .saveGeom _ => true
  | .loadGeom _ => true
  | .trkReset _ => true
  | .geomAbort _ => true
  | .geomCmdDone _ => true
  | .jobLoad _ => true
  | .jobLoadDone _ => true
  | .jobArm _ => true
  | .jobArmCancel _ => true
  | .jobSwitch _ => true
  | .rollCmd _ _ _ => true
  | .bandCompare _ errs => errs.all MemErr.ok
  | .verdictReady k => decide (k < 2 ^ 32)
  | .gateInsertResult => true
  | .refLearn _ => true
  | .refLearnAbort _ => true
  | .learnComputeDone _ => true
  | .ringEnable _ _ _ => true
  | .recordIssue _ => true
  | .ringHeadDb _ _ _ => true
  | .ringIrqTimer _ => true
  | .poolEnable _ _ _ => true
  | .poolFreeDb _ _ _ => true
  | .poolWaitExpire _ => true
  | .disable _ _ => true
  | .reclaim _ _ named => named.all fun k => decide (k < 2 ^ 18)
  | .fbGo _ _ => true
  | .fbAbort _ _ => true
  | .peerReadBack _ => true
  | .peerWindowWrite off bytes _ => decide (off + bytes.length ≤ 2 ^ 36)
  | .peerWindowRead off len errs => decide (off + len ≤ 2 ^ 36) && errs.all MemErr.ok
  | .windowCommit _ => true
  | .bar0BadRequest _ _ _ off len part _ => decide (off + len ≤ 2 ^ 26) && decide (part ≤ 2)
  | .configRequest f _ off _ _ => decide (f < 8) && off.val % 4 == 0
  | .completionRx _ _ data _ => decide (data.length ≤ 4096)
  | .completionTimeout _ => true
  | .tagQuarantineEnd _ => true
  | .perst => true
  | .hotReset => true
  | .functionLevelReset _ => true
  | .pcieLinkChange (.up rate width _) => decide (1 ≤ rate ∧ rate ≤ 6) && [1, 2, 4, 8, 16].contains width
  | .pcieLinkChange _ => true
  | .pmStateChange _ _ => true
  | .l1Entry => true
  | .wakePin _ _ => true
  | .dmaStart _ _ => true
  | .dmaDisable _ _ => true
  | .dmaDrainDone _ => true
  | .dmaDescFetched _ => true
  | .dmaDescComplete _ => true
  | .appendDb _ _ => true
  | .helloCmd _ => true
  | .summary _ => true
  | .unitGet _ => true
  | .unitSetOn _ => true
  | .unitSetOff _ => true
  | .unitSetRestart _ => true
  | .calRead _ => true
  | .calWrite _ _ => true
  | .logRead _ => true
  | .headInfo _ => true
  | .lightInfo _ => true
  | .thermalRead _ => true
  | .thermalSet _ => true
  | .thermalRestart _ => true
  | .powerBudgetRead _ => true
  | .powerBudgetSet _ => true
  | .selfTest _ failed first => decide (failed < 2 ^ 32) && decide (first < 2 ^ 32)
  | .patchInfo _ => true
  | .mbCommandDone _ => true
  | .smbSetOffset _ _ => true
  | .smbBlockWrite bytes _ => decide (1 ≤ bytes.length ∧ bytes.length ≤ 32)
  | .smbBlockRead n => decide (1 ≤ n.val)
  | .smbReadStatus => true
  | .unitPathCheck moving => moving.all fun u => decide (u < 2 ^ 32)
  | .schedulerTick => true
  | .skepWatchdog _ _ _ => true
  | .skepRestartDone _ _ _ => true
  | .skepRestart _ => true
  | .sensorSample temps => temps.length == 16
  | .stackTempRead _ _ => true
  | .thermTrip => true
  | .pmbusPoll _ => true
  | .overBudget => true
  | .logRecordWrite _ => true
  | .onHoursTick _ => true
  | .aonReset => true
  | .corePor _ => true
  | .supplyDrop _ => true
  | .sysReset _ => true
  | .patchStageEnd flash _ => decide (flash.id < 2 ^ 24)
  | .configRelease => true
  | .girqStatusWrite _ _ _ => true
  | .girqSoft _ => true
  | .indRead => true
  | .indWrite => true
  | .indAccessDone => true
  | .perstDeassert => true
  | .pmeResend _ => true
  | .vddioGpioChange _ _ => true

end Sys2Proof
end

