-- ==== Sys2Proof/Certificates/Slice0/Obligations.lean ====
section
/-!
DEFINITION. The statements for the provers, family by family. `Answers c s P`: the command `c` answers a next state from `s`, and `P` holds of
it; what else the command may change is bounded by `Obligations.FootprintOfEveryCommand`.
-/
set_option Elab.async false

section

open Sys2Proof Sys2Proof.Machine

/-- The step. The clause on an empty queue is the model's choice (assumption 2). -/
def Obligations.StepRunsFront : Prop :=
  (∀ (s : State) (c : Instr) (cs : List Instr), s.pending = c :: cs → step s = exec c { s with pending := cs }) ∧
  (∀ s : State, s.pending = [] → ∃ t, step s = .next t ∧ t.clk = s.clk + 1 ∧ t.pending = [])

/-- No command ends in a fault or a refusal, and every command keeps `State.Canon`. -/
def Obligations.EveryCommandAnswers : Prop := ∀ (c : Instr) (s : State), ∃ t, exec c s = .next t ∧ Keeps s t

/-- The frame of every command: the parts outside `footprint`. -/
def Obligations.FootprintOfEveryCommand : Prop :=
  ∀ (c : Instr) (s t : State) (p : Part), exec c s = .next t → p ∉ footprint c → p.Same s t

/-- `State.Canon` is an invariant of the step, from every state that meets it. -/
def Obligations.StepKeepsInvariant : Prop :=
  ∀ s t : State, step s = .next t → (s.Canon → t.Canon) ∧ t.pending = s.pending.tail

/-- R107, R656, R679, R734, R740: the state after reset. The MRAM as it leaves the factory is the model's choice (assumption 88). -/
def Obligations.ResetState : Prop :=
  State.reset.Canon ∧ State.reset.pending = [] ∧ State.reset.mem = [] ∧ State.reset.mram = mramFactory ∧ (∀ u, State.reset.unitState u = .off) ∧
  (∀ c : Fin 256, State.reset.on (R.SWD_CH_CFG_EN c) = true ∧ State.reset.fifoOf c = []) ∧
  State.reset.thresholds = [1000, 1080, 1150, 1180, 1250] ∧ State.reset.get R.PWR_BUDGET_MW = 140000 ∧
  State.reset.reg R.GID = 0x64801D7A ∧ (∀ k : Fin 4, State.reset.reg (0x400 + 4 * k) = 0)

/-- R9. -/
def Obligations.PositionOrder : Prop :=
  ∀ a b : Nat, a < 2 ^ 56 → b < 2 ^ 56 → ∃ d : Int, -2 ^ 55 ≤ d ∧ d < 2 ^ 55 ∧ (2 : Int) ^ 56 ∣ (a : Int) - b - d ∧
    (posAfter a b = true ↔ 0 < d) ∧ (posBefore a b = true ↔ d < 0) ∧ (a = b ↔ d = 0) ∧
    ((posAfter a b = false ∧ posBefore a b = false) ↔ d = 0) ∧ (d = -2 ^ 55 → posBefore a b = true)

/-- R95. -/
def Obligations.PortRequestTaken : Prop :=
  (∀ (s : State) (who : Who) (p : Fin 8) (c : Instr), s.hears who = true → c ∈ [.portInsert who p, .portRemove who p] → who ≠ .fn0 ∨ p.val < 6 →
    s.on (R.PORT_RESULT_DONE p) = false → Answers c s fun t => t.on (R.PORT_RESULT_CMD_IGN p) = true ∧ OnlyRegs s t [R.PORT_RESULT p]) ∧
  (∀ (s : State) (p : Fin 6) (op v : Word) (a : Nat), s.hears .fn0 = true → a ∈ [R.PORT_W_0 p, R.PORT_W_1 p, R.PORT_W_2 p, R.PORT_W_3 p] →
    Answers (.registerWrite .fn0 a v []) s fun t => t.reg a = v ∧ OnlyRegs s t [a] ∧ t.peWaiting (.port ⟨p, by omega⟩) = s.peWaiting (.port ⟨p, by omega⟩)) ∧
  (∀ (s : State) (p : Fin 6) (v : Word), s.hears .fn0 = true → Answers (.registerWrite .fn0 (R.PORT_HANDLE p) v []) s fun t =>
    t.get (R.PORT_HANDLE_INDEX p) = v.toNat % 2 ^ 18 ∧ t.get (R.PORT_HANDLE_GEN p) = v.toNat / 2 ^ 18 % 2 ^ 8 ∧ OnlyRegs s t [R.PORT_HANDLE p] ∧
    t.peWaiting (.port ⟨p, by omega⟩) = s.peWaiting (.port ⟨p, by omega⟩))

/-- R111, R112, R115, R120, R123, R125: the commands of the event fabric. -/
def Obligations.FabricCommands : Prop :=
  (∀ (s : State) (c : Fin 256), Answers (.guardWindowEnd c) s fun t =>
    Tbl.get 0 t.swd.window c = 0 ∧ (∀ d, d ≠ c.val → Tbl.get 0 t.swd.window d = Tbl.get 0 s.swd.window d) ∧
    (∀ d, t.fifoOf d = s.fifoOf d) ∧ (∀ a, t.reg a = s.reg a)) ∧
  (∀ (s : State) (who : Who) (c : Fin 256) (v : Word), s.hears who = true → s.mayConfig who c = true →
    Answers (.chCfgWrite who c .guard v) s fun t =>
      t.get (R.CH_GUARD_MAX c) = max 1 (v.toNat % 2 ^ 16) ∧ Tbl.get 0 t.swd.window c = 0 ∧
      (∀ a, a ≠ R.CH_GUARD c → t.reg a = s.reg a)) ∧
  (∀ (s : State) (who : Who) (c : Fin 256) (v : Word), s.hears who = true → s.mayConfig who c = false →
    Answers (.chCfgWrite who c .guard v) s fun t =>
      t.on R.SWD_STATUS_GUARD_VIOL = true ∧ t.get R.SWD_VIOL_INFO_CH = c ∧ t.get R.SWD_VIOL_INFO_WHO = whoCode who ∧
      t.get (R.CH_GUARD_MAX c) = s.get (R.CH_GUARD_MAX c)) ∧
  (∀ (s : State) (who : Who) (v : Word), s.hears who = true → s.mayPublish who (v.toNat % 256) = true → Answers (.swdPub who v) s fun t =>
    (∃ r : Req, r.channel = v.toNat % 256 ∧ r.producer = whoProducer who ∧ r.param = v.toNat / 256 ∧ s.clk < r.clk ∧ r.clk ≤ s.clk + 2 ∧
      t.swd.inFlight = s.swd.inFlight ++ [r]) ∧ (∀ d, t.fifoOf d = s.fifoOf d) ∧ t.regs = s.regs) ∧
  (∀ (s : State) (who : Who) (v : Word), s.hears who = true → s.mayPublish who (v.toNat % 256) = false →
    Answers (.swdPub who v) s fun t => t.on R.SWD_STATUS_GUARD_VIOL = true ∧ ∀ d, t.fifoOf d = s.fifoOf d)

/-- R34, R36 to R41, R45, R48, R49: the encoder channels. -/
def Obligations.EncoderCommands : Prop :=
  (∀ (s : State) (n : Fin 8) (level : Bool), Answers (.encInputChange n .a level) s fun t =>
    t.encOf n = { s.encOf n with pinA := level, holdA := (level && !Tbl.get false s.swd.bankDown 0) != (s.encOf n).filtA } ∧ t.regs = s.regs) ∧
  (∀ (s : State) (n : Fin 8) (level : Bool), Answers (.encInputChange n .b level) s fun t =>
    t.encOf n = { s.encOf n with pinB := level, holdB := (level && !Tbl.get false s.swd.bankDown 0) != (s.encOf n).filtB } ∧ t.regs = s.regs) ∧
  (∀ (s : State) (n : Fin 8) (level : Bool), Answers (.encInputChange n .z level) s fun t =>
    t.encOf n = { s.encOf n with pinZ := level, holdZ := (level && !Tbl.get false s.swd.bankDown 0) != (s.encOf n).filtZ } ∧ t.regs = s.regs) ∧
  (∀ (s : State) (n : Fin 8) (a b z : Bool), s.on (R.ENC_CTRL_EN n) = false → Answers (.filterAccept n a b z) s fun t =>
    t.encOf n = { s.encOf n with
      filtA := (s.encOf n).filtA != (a && (s.encOf n).holdA), filtB := (s.encOf n).filtB != (b && (s.encOf n).holdB),
      filtZ := (s.encOf n).filtZ != (z && (s.encOf n).holdZ), holdA := (s.encOf n).holdA && !(a && (s.encOf n).holdA),
      holdB := (s.encOf n).holdB && !(b && (s.encOf n).holdB), holdZ := (s.encOf n).holdZ && !(z && (s.encOf n).holdZ) } ∧
    t.regs = s.regs) ∧
  (∀ (s : State) (n : Fin 8) (a b z : Bool), s.on (R.ENC_CTRL_EN n) = true → (s.encOf n).ref = true →
    Answers (.filterAccept n a b z) s fun t =>
      (t.encOf n).count = match sampleOf (s.get (R.ENC_CTRL_MODE n)) (s.encOf n).filtA (s.encOf n).filtB
          ((s.encOf n).filtA != (a && (s.encOf n).holdA)) ((s.encOf n).filtB != (b && (s.encOf n).holdB)) with
        | .edge g => unsigned 48 ((s.encOf n).count + (if s.on (R.ENC_CTRL_INVERT n) then -g else g)) % 2 ^ 48
        | _ => (s.encOf n).count) ∧
  (∀ (s : State) (who : Who) (n : Fin 8), s.hears who = true → s.get (R.ENC_CTRL_INDEX_MODE n) = 2 → Answers (.indexArm who n) s fun t =>
    t.on (R.ENC_STATUS_ARMED n) = true ∧ OnlyRegs s t [R.ENC_STATUS n]) ∧
  (∀ (s : State) (who : Who) (n : Fin 8), s.hears who = true → s.get (R.ENC_CTRL_INDEX_MODE n) ≠ 2 → Answers (.indexArm who n) s fun t => t = s) ∧
  (∀ (s : State) (who : Who) (n : Fin 8) (v : Word), s.hears who = true → Answers (.speedWindowWrite who n v) s fun t =>
    t.get (R.SPEED_WINDOW_WINDOW n) = clampNat 250 250000000 (v.toNat % 2 ^ 28) ∧ t.on (R.ENC_STATUS_SPEED_VALID n) = false ∧
    t.encOf n = { s.encOf n with winNet := 0, winEdges := 0 }) ∧
  (∀ (s : State) (n : Fin 8), s.on (R.ENC_CTRL_EN n) = true → Answers (.speedWindowEnd n) s fun t =>
    t.get (R.SPEED_NET n) = unsigned 32 (s.encOf n).winNet ∧ t.get (R.EDGES_EDGES n) = (s.encOf n).winEdges % 2 ^ 32 ∧
    t.on (R.ENC_STATUS_SPEED_VALID n) = true ∧ t.encOf n = { s.encOf n with winNet := 0, winEdges := 0 }) ∧
  (∀ (s : State) (n : Fin 8), s.on (R.ENC_CTRL_EN n) = true → Answers (.lastIntervalSaturate n) s fun t =>
    t.get (R.LAST_INTERVAL_CLKS n) = 0xFFFFFF ∧ t.encOf n = s.encOf n) ∧
  (∀ (s : State) (who : Who) (n : Fin 8) (v : Word), s.hears who = true → s.on (R.ENC_CTRL_EN n) = false → bitAt v.toNat 0 = true → bitsOf v.toNat 1 2 ≠ 3 →
    bitsOf v.toNat 4 2 ≠ 3 → s.unitState (encUnit n) = .off →
    Answers (.encCtrlWrite who n v) s fun t =>
      t.on (R.ENC_CTRL_EN n) = true ∧ t.get (R.ENC_CTRL_MODE n) = bitsOf v.toNat 1 2 ∧
      t.on (R.ENC_CTRL_INVERT n) = bitAt v.toNat 3 ∧ t.unitState (encUnit n) = .on ∧
      (t.encOf n).ref = false ∧ (t.encOf n).lastClk = (s.encOf n).lastClk ∧ (t.encOf n).count = (s.encOf n).count) ∧
  (∀ (s : State) (who : Who) (n : Fin 8) (v : Word), s.hears who = true → s.on (R.ENC_CTRL_EN n) = true → bitAt v.toNat 0 = true → bitsOf v.toNat 4 2 = 3 →
    bitAt v.toNat 6 = false →
    Answers (.encCtrlWrite who n v) s fun t =>
      t.on (R.ENC_STATUS_CFG_REJ n) = true ∧ t.get (R.ENC_CTRL_INDEX_MODE n) = s.get (R.ENC_CTRL_INDEX_MODE n) ∧
      t.get (R.ENC_CTRL_MODE n) = s.get (R.ENC_CTRL_MODE n) ∧ t.encOf n = s.encOf n)

/-- R55, R57 to R60: the SSI channels. -/
def Obligations.SsiCommands : Prop :=
  (∀ (s : State) (who : Who) (m : Fin 4) (v : Word), s.hears who = true → bitAt v.toNat 3 = true → bitsOf v.toNat 16 3 = 0 →
    Answers (.ssiCtrlWrite who m v) s fun t => t.on (R.SSI_STATUS_CFG_ERR m) = true ∧ OnlyRegs s t [R.SSI_STATUS m]) ∧
  (∀ (s : State) (who : Who) (m : Fin 4) (v : Word), s.hears who = true → bitAt v.toNat 3 = false → bitAt v.toNat 0 = true → s.on (R.SSI_CTRL_EN m) = false →
    Answers (.ssiCtrlWrite who m v) s fun t => t.on (R.SSI_CTRL_EN m) = true ∧ t.get (R.SSI_CTRL_WORD_BITS m) = bitsOf v.toNat 8 6 ∧
      t.on (R.SSI_STATUS_VALID m) = false ∧ (t.ssiOf m).ref = none ∧ (t.ssiOf m).due = false ∧ (t.ssiOf m).reading = false) ∧
  (∀ (s : State) (m : Fin 4), s.on (R.SSI_CTRL_EN m) = true → s.on (R.SSI_CTRL_TRIGGERED m) = false → Answers (.ssiReadDue m) s fun t =>
    t.ssiOf m = { s.ssiOf m with due := true } ∧
    t.on (R.SSI_STATUS_OVERRUN m) = (s.on (R.SSI_STATUS_OVERRUN m) || (s.ssiOf m).reading || decide (s.clk < (s.ssiOf m).monoEnd)) ∧
    ∀ a, a ≠ R.SSI_STATUS m → t.reg a = s.reg a) ∧
  (∀ (s : State) (m : Fin 4), s.on (R.SSI_CTRL_EN m) = true → (s.ssiOf m).due = true → (s.ssiOf m).reading = false →
    (s.ssiOf m).monoEnd ≤ s.clk → Answers (.ssiReadStart m true) s fun t =>
      t.ssiOf m = { s.ssiOf m with due := false, reading := true, start := s.clk } ∧ t.regs = s.regs ∧
      t.outs = s.outs ++ [.ssiClock m (1 + s.get (R.SSI_CTRL_LEAD_BITS m) + s.get (R.SSI_CTRL_WORD_BITS m) + s.get (R.SSI_CTRL_TRAIL_BITS m))]) ∧
  (∀ (s : State) (m : Fin 4), s.on (R.SSI_CTRL_EN m) = true → (s.ssiOf m).due = true → (s.ssiOf m).reading = false →
    (s.ssiOf m).monoEnd ≤ s.clk → Answers (.ssiReadStart m false) s fun t =>
      t.ssiOf m = { s.ssiOf m with due := false } ∧ t.on (R.SSI_STATUS_IDLE_ERR m) = true ∧
      t.get (R.SSI_ERR_CNT_CNT m) = min (s.get (R.SSI_ERR_CNT_CNT m) + 1) 65535 ∧ t.outs = s.outs) ∧
  (∀ (s : State) (m : Fin 4) (bits : Nat), (s.ssiOf m).reading = true → s.on (R.SSI_CTRL_ERR_BIT_EN m) = true → bitAt bits 0 = true →
    Answers (.ssiReadDone m bits) s fun t =>
      t.ssiOf m = { s.ssiOf m with reading := false, monoEnd := s.clk + s.get (R.SSI_MONO_MONO m) } ∧
      t.on (R.SSI_STATUS_SENSOR_ERR m) = true ∧ t.get (R.SSI_ERR_CNT_CNT m) = min (s.get (R.SSI_ERR_CNT_CNT m) + 1) 65535) ∧
  (∀ (s : State) (m : Fin 4) (bits : Nat), (s.ssiOf m).reading = true → s.on (R.SSI_CTRL_ERR_BIT_EN m) = false →
    s.on (R.SSI_CTRL_GRAY m) = false → (s.ssiOf m).ref = none →
    Answers (.ssiReadDone m bits) s fun t =>
      ∃ x, x = bitsOf bits (s.get (R.SSI_CTRL_TRAIL_BITS m)) (s.get (R.SSI_CTRL_WORD_BITS m)) ∧ (t.ssiOf m).value = x ∧
        (t.ssiOf m).count = x % 2 ^ 48 ∧ (t.ssiOf m).ref = some x ∧ (t.ssiOf m).reading = false)

/-- R64 to R66, R129: the switch inputs. -/
def Obligations.SwitchCommands : Prop :=
  (∀ (s : State) (k : Fin 32) (p : Bool), s.on (R.SW_CTRL_EN k) = true → s.on (R.SW_CTRL_MODE k) = true → (s.swOf k).timing = false →
    s.swLevel k p ≠ s.on (R.SW_STATUS_LEVEL k) →
    Answers (.swInputChange k p) s fun t => t.swOf k = ⟨s.swLevel k p, true⟩ ∧ t.on (R.SW_STATUS_LEVEL k) = s.swLevel k p ∧
      t.on (R.SW_STATUS_CHANGED k) = true ∧ t.get (R.SW_CNT_CNT k) = min (s.get (R.SW_CNT_CNT k) + 1) 65535) ∧
  (∀ (s : State) (k : Fin 32) (p : Bool), s.on (R.SW_CTRL_EN k) = true → s.on (R.SW_CTRL_MODE k) = false →
    Answers (.swInputChange k p) s fun t => t.swOf k = ⟨s.swLevel k p, s.swLevel k p != s.on (R.SW_STATUS_LEVEL k)⟩ ∧ t.regs = s.regs) ∧
  (∀ (s : State) (k : Fin 32), (s.swOf k).timing = true → (s.swOf k).raw ≠ s.on (R.SW_STATUS_LEVEL k) →
    Answers (.debounceExpire k) s fun t => t.swOf k = ⟨(s.swOf k).raw, false⟩ ∧ t.on (R.SW_STATUS_LEVEL k) = (s.swOf k).raw ∧
      t.get (R.SW_CNT_CNT k) = min (s.get (R.SW_CNT_CNT k) + 1) 65535) ∧
  (∀ (s : State) (k : Fin 32), (s.swOf k).timing = true → (s.swOf k).raw = s.on (R.SW_STATUS_LEVEL k) →
    Answers (.debounceExpire k) s fun t => t.swOf k = ⟨(s.swOf k).raw, false⟩ ∧ t.regs = s.regs) ∧
  (∀ (s : State) (who : Who) (k : Fin 32) (v : Word), s.hears who = true → bitAt v.toNat 0 = true → Answers (.swCtrlWrite who k v) s fun t =>
    t.on (R.SW_CTRL_EN k) = true ∧ t.get (R.SW_CTRL_GPIO k) = bitsOf v.toNat 1 6 ∧
    ∀ o : Fin 64, s.on (R.OUT_CTRL_EN o) = true → s.get (R.OUT_CTRL_GPIO o) = bitsOf v.toNat 1 6 →
      t.on (R.OUT_CTRL_EN o) = false ∧ t.on (R.OUT_STATUS_PIN_CONFLICT o) = true ∧ t.on (R.OUT_STATUS_LEVEL o) = false) ∧
  (∀ (s : State) (who : Who) (k : Fin 32) (v : Word), s.hears who = true → bitAt v.toNat 0 = false → Answers (.swCtrlWrite who k v) s fun t =>
    t.on (R.SW_CTRL_EN k) = false ∧ (t.swOf k).timing = false ∧ ∀ a, a ≠ R.SW_CTRL k → t.reg a = s.reg a)

/-- R69, R70, R74, R93 to R95, R97, R105: sources, views and ports. -/
def Obligations.SourceAndViewCommands : Prop :=
  (∀ (s : State) (who : Who) (n : Fin 8) (v : Word), s.hears who = true → bitsOf v.toNat 1 2 = 3 ∨ (bitsOf v.toNat 1 2 = 1 ∧ 4 ≤ bitsOf v.toNat 3 3) →
    Answers (.srcCtrlWrite who n v) s fun t => t.on (R.SRC_STATUS_WRITE_REJ n) = true ∧ OnlyRegs s t [R.SRC_STATUS n]) ∧
  (∀ (s : State) (who : Who) (n : Fin 8) (v : Word), s.hears who = true → ¬ (bitsOf v.toNat 1 2 = 3 ∨ (bitsOf v.toNat 1 2 = 1 ∧ 4 ≤ bitsOf v.toNat 3 3)) →
    s.on (R.SRC_CTRL_EN n) = false →
    Answers (.srcCtrlWrite who n v) s fun t => t.get (R.SRC_CTRL_EN n) = bitsOf v.toNat 0 1 ∧ t.get (R.SRC_CTRL_INPUT n) = bitsOf v.toNat 1 2 ∧
      t.get (R.SRC_CTRL_NUM n) = bitsOf v.toNat 3 3 ∧ t.get (R.SRC_CTRL_INTERP n) = bitsOf v.toNat 6 2 ∧
      (t.srcOf n).pos = (s.srcOf n).pos ∧ (t.srcOf n).loaded = false ∧ ∀ a, a ≠ R.SRC_CTRL n → t.reg a = s.reg a) ∧
  (∀ (s : State) (who : Who) (n : Fin 8) (v : Word), s.hears who = true → ¬ (bitsOf v.toNat 1 2 = 3 ∨ (bitsOf v.toNat 1 2 = 1 ∧ 4 ≤ bitsOf v.toNat 3 3)) →
    s.on (R.SRC_CTRL_EN n) = true → bitAt v.toNat 0 = true → bitsOf v.toNat 1 7 ≠ bitsOf (s.reg (R.SRC_CTRL n)).toNat 1 7 →
    Answers (.srcCtrlWrite who n v) s fun t => t.reg (R.SRC_CTRL n) = s.reg (R.SRC_CTRL n) ∧ t.on (R.SRC_STATUS_WRITE_REJ n) = true ∧
      OnlyRegs s t [R.SRC_STATUS n]) ∧
  (∀ (s : State) (n : Fin 8), s.on (R.SRC_CTRL_EN n) = true → s.get (R.SRC_CTRL_INPUT n) = 0 → (s.srcOf n).loaded = false →
    Answers (.sourceEnable n) s fun t => (t.srcOf n).loaded = true ∧ t.srcPos n = s.srcTarget n) ∧
  (∀ (s : State) (n : Fin 8) (p : Int), s.on (R.SRC_CTRL_EN n) = true → s.get (R.SRC_CTRL_INPUT n) ≠ 0 → (s.srcOf n).loaded = false →
    s.inputPos n = some p → Answers (.sourceEnable n) s fun t => (t.srcOf n).loaded = true ∧ t.srcPos n = posMod (p + s.srcOffset n)) ∧
  (∀ (s : State) (n : Fin 8), s.on (R.SRC_CTRL_EN n) = true → s.get (R.SRC_CTRL_INPUT n) ≠ 0 → s.get (R.SRC_STALE_READS n) ≤ (s.srcOf n).miss →
    Answers (.sourceStale n) s fun t => t.on (R.SRC_STATUS_STALE n) = true ∧ t.on (R.SRC_STATUS_STALE_SEEN n) = true ∧
      t.srcPos n = s.srcPos n) ∧
  (∀ (s : State) (who : Who) (n : Fin 8) (v : Word), s.hears who = true → s.unitOff (viewUnit n) = true →
    Answers (.viewCfgWrite who n .bind v) s fun t => t.get (R.VIEW_BIND_SOURCE n) = v.toNat % 8 ∧ OnlyRegs s t [R.VIEW_BIND n]) ∧
  (∀ (s : State) (who : Who) (n : Fin 8) (v : Word), s.hears who = true → s.unitOff (viewUnit n) = true →
    Answers (.viewCfgWrite who n .scale v) s fun t => t.reg (R.VIEW_SCALE n) = v ∧ OnlyRegs s t [R.VIEW_SCALE n]) ∧
  (∀ (s : State) (who : Who) (n : Fin 8) (v : Word), s.hears who = true → s.unitOff (viewUnit n) = true →
    Answers (.viewCfgWrite who n .offsetLo v) s fun t => t.reg (R.VIEW_OFFSET_LO n) = v ∧ OnlyRegs s t [R.VIEW_OFFSET_LO n]) ∧
  (∀ (s : State) (who : Who) (n : Fin 8) (v : Word), s.hears who = true → s.unitOff (viewUnit n) = true →
    Answers (.viewCfgWrite who n .offsetHi v) s fun t => t.get (R.VIEW_OFFSET_HI_OFFSET n) = v.toNat % 2 ^ 24 ∧
      OnlyRegs s t [R.VIEW_OFFSET_HI n]) ∧
  (∀ (s : State) (who : Who) (n : Fin 8) (r : ViewReg) (v : Word), s.hears who = true → s.unitOff (viewUnit n) = false →
    Answers (.viewCfgWrite who n r v) s fun t => t.on (R.VIEW_STATUS_BIND_REJ n) = true ∧ OnlyRegs s t [R.VIEW_STATUS n]) ∧
  (∀ (s : State) (who : Who) (p : Fin 8), s.hears who = true → who ≠ .fn0 ∨ p.val < 6 → s.on (R.PORT_RESULT_DONE p) = true → Answers (.portInsert who p) s fun t =>
    t.on (R.PORT_RESULT_DONE p) = false ∧ t.peWaiting (.port p) = s.peWaiting (.port p) ++ [⟨true, s.portEntry p, 0, 0⟩] ∧
    ∀ a, a ≠ R.PORT_RESULT p → t.reg a = s.reg a) ∧
  (∀ (s : State) (who : Who) (p : Fin 8), s.hears who = true → who ≠ .fn0 ∨ p.val < 6 → s.on (R.PORT_RESULT_DONE p) = true → Answers (.portRemove who p) s fun t =>
    t.on (R.PORT_RESULT_DONE p) = false ∧ t.peWaiting (.port p) = s.peWaiting (.port p) ++
      [⟨false, 0, s.get (R.PORT_HANDLE_INDEX p) + s.get (R.PORT_HANDLE_GEN p) * 2 ^ 18, 0⟩] ∧
    ∀ a, a ≠ R.PORT_RESULT p → t.reg a = s.reg a) ∧
  (∀ (s : State) (who : Who) (p : Fin 8), s.hears who = true → who ≠ .fn0 ∨ p.val < 6 → s.on (R.PORT_RESULT_DONE p) = false →
    (Answers (.portInsert who p) s fun t => t.on (R.PORT_RESULT_CMD_IGN p) = true ∧ OnlyRegs s t [R.PORT_RESULT p]) ∧
    Answers (.portRemove who p) s fun t => t.on (R.PORT_RESULT_CMD_IGN p) = true ∧ OnlyRegs s t [R.PORT_RESULT p]) ∧
  (∀ (s : State) (p : Fin 8), s.hears .fn0 = true → 6 ≤ p.val → (Answers (.portInsert .fn0 p) s fun t => t = s) ∧ Answers (.portRemove .fn0 p) s fun t => t = s)

/-- R83, R85, R87 to R91, R94, R96 to R98, R103, R112 to R114, R125: the event table and the arbiter. The clauses over every client leave out
the answer to an arm of firmware (R475). The order in which `peTurn` serves the clients is the model's (assumption 105). -/
def Obligations.TableCommands : Prop :=
  (∀ (s : State) (c : Client) (slot i : Nat) (r : PReq) (q : List PReq), s.peWaiting c = r :: q → r.insert = true →
    s.peTurn = some (clientCode c) → (c = .skep → r.tag < 2 ^ 20) → s.badEntry r.entry = false → s.denied (clientCode c) r.entry = false →
    isLate r.entry (s.tlPos (eTl r.entry)) = false → (8 ≤ clientCode c → s.get R.PE_CTRL_RESERVE < s.freeSlots) → s.pickSlot slot = some i →
    Answers (.entryInsertActive c slot) s fun t =>
      t.slotOf i = { s.slotOf i with entry := r.entry, client := clientCode c } ∧ (∀ j, j ≠ i → t.slotOf j = s.slotOf j) ∧
      q <+: t.peWaiting c ∧ t.get R.INSERT_CNT_CNT = (s.get R.INSERT_CNT_CNT + 1) % 2 ^ 32) ∧
  (∀ (s : State) (p : Fin 8) (slot i : Nat) (r : PReq) (q : List PReq), s.peWaiting (.port p) = r :: q → r.insert = true →
    s.peTurn = some (8 + p.val) → s.badEntry r.entry = false → s.denied (8 + p.val) r.entry = false →
    isLate r.entry (s.tlPos (eTl r.entry)) = false → s.get R.PE_CTRL_RESERVE < s.freeSlots → s.pickSlot slot = some i → i < 262144 →
    Answers (.entryInsertActive (.port p) slot) s fun t =>
      t.peWaiting (.port p) = q ∧ t.on (R.PORT_RESULT_DONE p) = true ∧ t.get (R.PORT_RESULT_STATUS p) = 0 ∧
      t.get (R.PORT_RESULT_HANDLE_INDEX p) = i ∧ t.get (R.PORT_RESULT_HANDLE_GEN p) = (s.slotOf i).gen % 256) ∧
  (∀ (s : State) (p : Fin 8) (slot : Nat) (r : PReq) (q : List PReq), s.peWaiting (.port p) = r :: q → r.insert = true →
    s.peTurn = some (8 + p.val) → s.badEntry r.entry = true → Answers (.entryInsertActive (.port p) slot) s fun t =>
      t.pe.slots = s.pe.slots ∧ t.peWaiting (.port p) = q ∧ t.on (R.PORT_RESULT_DONE p) = true ∧ t.get (R.PORT_RESULT_STATUS p) = 2 ∧
      OnlyRegs { s with pe := t.pe } t [R.PORT_RESULT p]) ∧
  (∀ (s : State) (c : Client) (r : PReq) (q : List PReq) (i : Nat), s.peWaiting c = r :: q → r.insert = false →
    s.peTurn = some (clientCode c) → (c = .skep → r.tag < 2 ^ 20) → s.findHandle r.handle = some i →
    (isFn0Port (clientCode c) = true → eGuarded (s.slotOf i).entry = false ∧ s.guarded (eChannel (s.slotOf i).entry) = false) →
    Answers (.entryRemoveActive c) s fun t =>
      t.slotOf i = { entry := 0, gen := ((s.slotOf i).gen + 1) % 256, client := 0 } ∧ (∀ j, j ≠ i → t.slotOf j = s.slotOf j) ∧
      (∀ e ∈ t.pe.due, e.slot ≠ i) ∧ q <+: t.peWaiting c ∧
      ∀ p, c = .port p → t.on (R.PORT_RESULT_DONE p) = true ∧ t.get (R.PORT_RESULT_STATUS p) = 0) ∧
  (∀ (s : State) (p : Fin 8) (r : PReq) (q : List PReq), s.peWaiting (.port p) = r :: q → r.insert = false → s.peTurn = some (8 + p.val) →
    s.findHandle r.handle = none → Answers (.entryRemoveActive (.port p)) s fun t =>
      t.pe.slots = s.pe.slots ∧ t.peWaiting (.port p) = q ∧ t.on (R.PORT_RESULT_DONE p) = true ∧ t.get (R.PORT_RESULT_STATUS p) = 6) ∧
  (∀ (s : State) (d : Due) (c : Instr), s.nextDue = some d → c = (if d.deferred then .entryDeferredFire else .entryCrossed) →
    (s.slotOf d.slot).entry ≠ 0 → Answers c s fun t =>
      (∀ e ∈ t.pe.due, e.slot ≠ d.slot) ∧ t.get R.FIRE_CNT_CNT = (s.get R.FIRE_CNT_CNT + 1) % 2 ^ 32 ∧ t.firedNow = s.firedNow + 1 ∧
      (ePeriodic (s.slotOf d.slot).entry = false → t.slotOf d.slot = { entry := 0, gen := ((s.slotOf d.slot).gen + 1) % 256, client := 0 }) ∧
      (ePeriodic (s.slotOf d.slot).entry = true → d.forward = true →
        0 ≤ posDiff (s.tlPos (eTl (s.slotOf d.slot).entry)) (ePos (s.slotOf d.slot).entry) →
        posDiff (s.tlPos (eTl (s.slotOf d.slot).entry)) (ePos (s.slotOf d.slot).entry) < eParam (s.slotOf d.slot).entry →
        (t.slotOf d.slot).gen = (s.slotOf d.slot).gen ∧
        ePos (t.slotOf d.slot).entry = (ePos (s.slotOf d.slot).entry + eParam (s.slotOf d.slot).entry) % 2 ^ 56) ∧
      (d.deferred = true → t.on R.PE_STATUS_FIRE_DEFER = true ∧ t.get R.FIRE_DEFER_CNT_CNT = min (s.get R.FIRE_DEFER_CNT_CNT + 1) (2 ^ 32 - 1)) ∧
      (s.on (R.SWD_CH_CFG_EN (eChannel (s.slotOf d.slot).entry)) = true → (s.fifoOf (eChannel (s.slotOf d.slot).entry)).length < 64 →
        (t.fifoOf (eChannel (s.slotOf d.slot).entry)).length = (s.fifoOf (eChannel (s.slotOf d.slot).entry)).length + 1 ∧
        ∃ r ∈ t.fifoOf (eChannel (s.slotOf d.slot).entry), r.action = eAction (s.slotOf d.slot).entry ∧
          r.width = eWidth (s.slotOf d.slot).entry ∧ r.handle = s.handleOf d.slot ∧ r.late = d.late ∧ r.clk = s.clk ∧
          r.param = (if ePeriodic (s.slotOf d.slot).entry then 0 else eParam (s.slotOf d.slot).entry))) ∧
  (∀ (s : State) (c : Nat) (r : Req), s.nextGrant = some (c, r) → Answers .eventGrant s fun t =>
    t.get R.SWD_GSEQ_GSEQ = (s.get R.SWD_GSEQ_GSEQ + 1) % 2 ^ 32 ∧ t.swd.lastCh = c ∧ t.swd.grantClk = s.clk + 1 ∧
    (if s.get (R.CH_GUARD_MAX c) < (if Tbl.get false s.swd.noWindow c then 0 else Tbl.get 0 s.swd.window c + 1)
      then t.fifoOf c = [] ∧ t.on (R.SWD_CH_CFG_EN c) = false ∧ t.on (R.SWD_CH_STATUS_RUNAWAY c) = true ∧ t.on R.SWD_STATUS_RUNAWAY = true
      else t.fifoOf c = (s.fifoOf c).drop 1) ∧
    ∃ e : Event, t.swd.delivering = s.swd.delivering ++ [e] ∧ e.req = r ∧ e.gseq = (s.get R.SWD_GSEQ_GSEQ + 1) % 2 ^ 32 ∧ e.time = s.timeNs ∧
      e.clk = s.clk + 1 ∧ e.age = min 255 (s.clk - r.clk) ∧ (∀ n, r.src = some n → e.stampSrc = n ∧ e.position = s.srcPos n))

/-- R127 to R129, R753: the event outputs and the supplies of the pins. -/
def Obligations.OutputCommands : Prop :=
  (∀ (s : State) (k : Fin 64), s.on (R.OUT_STATUS_LEVEL k) = true → Answers (.outPulseEnd k) s fun t =>
    t.on (R.OUT_STATUS_LEVEL k) = false ∧ (∀ a, a ≠ R.OUT_STATUS k → t.reg a = s.reg a) ∧
    t.outs = s.outs ++ [.pin (s.get (R.OUT_CTRL_GPIO k))
      (if Tbl.get false s.swd.bankDown (s.get (R.OUT_CTRL_GPIO k) / 16) then none else some (s.on (R.OUT_CTRL_POL k)))]) ∧
  (∀ (s : State) (k : Fin 64), s.on (R.OUT_STATUS_LEVEL k) = false → Answers (.outPulseEnd k) s fun t => t = s) ∧
  (∀ (s : State) (who : Who) (k : Fin 64) (v : Word), s.hears who = true → s.on (R.OUT_CTRL_EN k) = false → bitAt v.toNat 0 = true →
    s.pinWatched (bitsOf v.toNat 1 6) = false → Answers (.outCtrlWrite who k v) s fun t =>
      t.on (R.OUT_CTRL_EN k) = true ∧ t.get (R.OUT_CTRL_GPIO k) = bitsOf v.toNat 1 6 ∧ t.on (R.OUT_CTRL_POL k) = bitAt v.toNat 7 ∧
      t.on (R.OUT_CTRL_WIDTH_SRC k) = bitAt v.toNat 8 ∧ t.on (R.OUT_CTRL_BUSY_POLICY k) = bitAt v.toNat 9 ∧
      (∀ a, a ≠ R.OUT_CTRL k → t.reg a = s.reg a) ∧
      t.outs = s.outs ++ [.pin (bitsOf v.toNat 1 6) (if Tbl.get false s.swd.bankDown (bitsOf v.toNat 1 6 / 16) then none
        else some (s.on (R.OUT_STATUS_LEVEL k) != bitAt v.toNat 7))]) ∧
  (∀ (s : State) (who : Who) (k : Fin 64) (v : Word), s.hears who = true → s.on (R.OUT_CTRL_EN k) = false → bitAt v.toNat 0 = true →
    s.pinWatched (bitsOf v.toNat 1 6) = true → Answers (.outCtrlWrite who k v) s fun t =>
      t.on (R.OUT_CTRL_EN k) = false ∧ t.on (R.OUT_STATUS_PIN_CONFLICT k) = true ∧ t.on (R.OUT_STATUS_LEVEL k) = false ∧
      t.outs = s.outs ∧ OnlyRegs s t [R.OUT_CTRL k, R.OUT_STATUS k]) ∧
  (∀ (s : State) (who : Who) (k : Fin 64) (v : Word), s.hears who = true → s.on (R.OUT_CTRL_EN k) = true → bitAt v.toNat 0 = false →
    Answers (.outCtrlWrite who k v) s fun t => t.on (R.OUT_CTRL_EN k) = false ∧ t.on (R.OUT_STATUS_LEVEL k) = false ∧
      t.outs = s.outs ++ [.pin (s.get (R.OUT_CTRL_GPIO k)) none] ∧ ∀ a, a ≠ R.OUT_CTRL k → a ≠ R.OUT_STATUS k → t.reg a = s.reg a) ∧
  (∀ (s : State) (bank : Fin 4) (up : Bool), Answers (.vddioGpioChange bank up) s fun t => Tbl.get false t.swd.bankDown bank = !up) ∧
  (∀ (s : State) (bank : Fin 4), Tbl.get false s.swd.bankDown bank = false → Answers (.vddioGpioChange bank false) s fun t =>
    ∀ k : Fin 64, s.on (R.OUT_CTRL_EN k) = true → s.get (R.OUT_CTRL_GPIO k) / 16 = bank.val →
      Out.pin (s.get (R.OUT_CTRL_GPIO k)) none ∈ t.outs.drop s.outs.length)

/-- R7, R737, R738: the aggregated interrupts. -/
def Obligations.InterruptCommands : Prop :=
  (∀ (s : State) (who : Who) (v : Word), s.hears who = true → Answers (.girqStatusWrite who false v) s fun t =>
    (∀ i, 1 ≤ i → i < 8 → bitAt (t.reg (R.GIRQ_STATUS (girqFn who))).toNat i =
      (bitAt (s.reg (R.GIRQ_STATUS (girqFn who))).toNat i &&
        !(bitAt v.toNat i && !bitAt (s.risenOf (R.GIRQ_STATUS (girqFn who))) i))) ∧
    bitAt (t.reg (R.GIRQ_STATUS (girqFn who))).toNat 0 = bitAt (s.reg (R.GIRQ_STATUS (girqFn who))).toNat 0 ∧
    t.reg (R.GIRQ_ENABLE (girqFn who)) = s.reg (R.GIRQ_ENABLE (girqFn who)) ∧
    t.reg (R.GIRQ_STATUS (1 - girqFn who)) = s.reg (R.GIRQ_STATUS (1 - girqFn who))) ∧
  (∀ (s : State) (who : Who) (v : Word), s.hears who = true → Answers (.girqStatusWrite who true v) s fun t =>
    (∀ i, i < 8 → bitAt (t.reg (R.GIRQ_ENABLE (girqFn who))).toNat i = bitAt v.toNat i) ∧
    t.reg (R.GIRQ_STATUS (girqFn who)) = s.reg (R.GIRQ_STATUS (girqFn who)) ∧
    t.reg (R.GIRQ_ENABLE (1 - girqFn who)) = s.reg (R.GIRQ_ENABLE (1 - girqFn who))) ∧
  (∀ (s : State) (who : Who), s.hears who = true → Answers (.girqSoft who) s fun t =>
    t.on (R.GIRQ_STATUS_SOFT (girqFn who)) = true ∧
    (∀ i, i < 7 → bitAt (t.reg (R.GIRQ_STATUS (girqFn who))).toNat i = bitAt (s.reg (R.GIRQ_STATUS (girqFn who))).toNat i) ∧
    t.reg (R.GIRQ_ENABLE (girqFn who)) = s.reg (R.GIRQ_ENABLE (girqFn who)) ∧
    t.reg (R.GIRQ_STATUS (1 - girqFn who)) = s.reg (R.GIRQ_STATUS (1 - girqFn who)))

/-- R5 to R7, R102, R117, R121, R143, R596, R597, R621, R717, R744: accesses by address, and the accesses of a register that have a row of their
own. -/
def Obligations.AccessCommands : Prop :=
  (∀ (s : State) (c : Instr) (who : Who), sender c = some who →
    (s.boot.down = true → exec c s = .next s) ∧
    ∀ f, fnOf who = some f → s.boot.down = false →
      (s.memAccess f = false → exec c s = .next (s.l1Exit.unsupported f true)) ∧ (s.memAccess f = true → exec c s = exec c s.l1Exit)) ∧
  (∀ (s : State) (a : Nat) (v : Word) (r : RegRow), s.boot.down = false → placeOf .skep a = .reg a → canon .skep a = a → hidden .skep a = false →
    s.linkShadow a = false → s.writeSpecial .skep a v = none → isSelector a = false → regRow? a = some r →
    Answers (.registerWrite .skep a v []) s fun t => OnlyRegs s t [a] ∧
      ∀ i, i < 32 → bitAt (t.reg a).toNat i = if bitAt r.rw i then (bitAt v.toNat i && !(bitAt r.w1c i && bitAt (s.risenOf a) i))
        else (bitAt (s.reg a).toNat i && !(bitAt r.w1c i && bitAt v.toNat i && !bitAt (s.risenOf a) i))) ∧
  (∀ (s : State) (who : Who) (a : Nat) (v : Word) (ws : List Word), s.hears who = true → ws ≠ [] → who = .skep ∨ inBlock a (ws.length + 1) = true →
    Answers (.registerWrite who a v []) s fun t => exec (.registerWrite who a v ws) s = .next (t.wordsWrite who (a + 4) ws)) ∧
  (∀ (s : State) (who : Who) (a f : Nat) (v : Word) (ws : List Word), s.hears who = true → fnOf who = some f → ws ≠ [] →
    inBlock a (ws.length + 1) = false → Answers (.registerWrite who a v ws) s fun t => t = s.unsupported f true) ∧
  (∀ (s : State) (a : Nat) (c : Bool), s.boot.down = false → placeOf .skep a = .reg a → canon .skep a = a → hidden .skep a = false →
    blockAt 32 0x100000 0x8000 a = none → rcBits a ≠ 0 → Answers (.rcCounterRead .skep a c) s fun t =>
      t.reg a = BitVec.ofNat 32 ((s.rcWas a).2 + c.toNat) ∧
      t.outs = s.outs ++ [.readData .skep a (if s.risenOf a = 0 then s.regValue a else BitVec.ofNat 32 (s.rcWas a).1)] ∧
      ∀ b, b ≠ a → t.reg b = s.reg b) ∧
  (∀ (s : State), s.boot.down = false → Answers (.loCaptureRead .skep R.TIME_NS_LO 1) s fun t =>
    t.reg R.TIME_NS_HI = BitVec.ofNat 32 (s.timeNs / 2 ^ 32) ∧ t.reg R.TIME_FRAC = BitVec.ofNat 32 (s.timeFrac / 2 ^ 16) ∧
    t.outs = s.outs ++ [.readData .skep R.TIME_NS_LO (BitVec.ofNat 32 s.timeNs)] ∧
    ∀ b, b ≠ R.TIME_NS_HI → b ≠ R.TIME_FRAC → t.reg b = s.reg b) ∧
  (∀ (s : State) (a n : Nat), s.boot.down = false → n ≠ 1 → ¬ (0xC00000 ≤ a ∧ a < 0x1000000 ∧ a % 16 = 0 ∧ n = 4) →
    Answers (.loCaptureRead .skep a n) s fun t => (∀ b, t.reg b = (s.wordsRead .skep n a).2.reg b) ∧
      t.outs = (s.wordsRead .skep n a).2.outs ++ [.readWords .skep a (s.wordsRead .skep n a).1]) ∧
  (∀ (s : State) (i : Nat), s.boot.down = false → i < 262144 → Answers (.loCaptureRead .skep (0xC00000 + 16 * i) 4) s fun t =>
    t = { s with outs := s.outs ++ [.readEntry .skep (0xC00000 + 16 * i) (s.slotOf i).entry] }) ∧
  (∀ (s : State) (who : Who) (k : Fin 64) (v : Word), s.hears who = true → who ≠ .fn1 →
    Answers (.selectorWrite who (R.OUT_SUB_A k) v) s fun t =>
      Tbl.get false t.swd.byFn0 (R.OUT_SUB_A k) = (who == .fn0) ∧ t.selGet (R.OUT_SUB_A_SEL_0 k) = s.selGet (R.OUT_SUB_A_SEL_0 k) ∧
      t.get (R.OUT_SUB_A_SEL_0 k) = bitsOf v.toNat (R.OUT_SUB_A_SEL_0 k).lo (R.OUT_SUB_A_SEL_0 k).w ∧
      ∀ b, b ≠ R.OUT_SUB_A k → t.reg b = s.reg b) ∧
  (∀ (s : State), s.hears .fn1 = true → s.on R.IND_STATUS_DONE = true → 0x30000 ≤ s.get R.IND_OFFSET_OFFSET * 4 →
    s.get R.IND_OFFSET_OFFSET * 4 < 0x1600000 →
    (Answers .indRead s fun t => t.ind = some (s.indAccess (s.get R.IND_OFFSET_OFFSET * 4) false).1 ∧ t.on R.IND_STATUS_DONE = false ∧
      ∀ b, b ≠ R.IND_STATUS → t.reg b = (s.indAccess (s.get R.IND_OFFSET_OFFSET * 4) false).2.reg b) ∧
    Answers .indWrite s fun t => t.ind = some none ∧ t.on R.IND_STATUS_DONE = false ∧
      ∀ b, b ≠ R.IND_STATUS → t.reg b = (s.indAccess (s.get R.IND_OFFSET_OFFSET * 4) true).2.reg b) ∧
  (∀ (s : State), s.hears .fn1 = true → s.on R.IND_STATUS_DONE = false →
    (Answers .indRead s fun t => t.on R.IND_STATUS_CMD_IGN = true ∧ OnlyRegs s t [R.IND_STATUS]) ∧
    Answers .indWrite s fun t => t.on R.IND_STATUS_CMD_IGN = true ∧ OnlyRegs s t [R.IND_STATUS]) ∧
  (∀ (s : State) (d : Option Word), s.ind = some d → Answers .indAccessDone s fun t => t.ind = none ∧ t.on R.IND_STATUS_DONE = true ∧
    t.reg R.IND_DATA = d.getD (s.reg R.IND_DATA) ∧ OnlyRegs { s with ind := none } t [R.IND_DATA, R.IND_STATUS]) ∧
  (∀ (s : State), s.ind = none → Answers .indAccessDone s fun t => t = s)

/-- R141, R142, R146 to R148: station time. -/
def Obligations.TimeCommands : Prop :=
  (∀ (s : State) (who : Who) (v : Word), s.hears who = true → who ≠ .fn0 → (s.ptpMode = false ∨ who = .skep) → Answers (.rateAdjWrite who v) s fun t =>
    t.net.rateAdj = signed 40 (s.get R.RATE_ADJ_LO_ADJ + v.toNat % 256 * 2 ^ 32) ∧ t.get R.RATE_ADJ_HI_ADJ = v.toNat % 256 ∧
    t.get R.RATE_ADJ_LO_ADJ = s.get R.RATE_ADJ_LO_ADJ ∧ t.timeNs = s.timeNs ∧
    ∀ a, a ≠ R.RATE_ADJ_LO → a ≠ R.RATE_ADJ_HI → t.reg a = s.reg a) ∧
  (∀ (s : State) (who : Who) (v : Word), s.hears who = true → who ≠ .fn0 → s.ptpMode = false → Answers (.timeStepWrite who v) s fun t =>
    t.timeNs = unsigned 64 (s.timeNs + signed 64 (s.net.stepLo + v.toNat * 2 ^ 32)) ∧
    t.get R.STEP_GSEQ_GSEQ = s.get R.SWD_GSEQ_GSEQ ∧ t.on R.TIME_STATUS_STEPPED = true ∧
    ∀ d ∈ t.net.deferred, 0 ≤ timeDiff d.deadline t.timeNs) ∧
  (∀ (s : State) (who : Who), s.hears who = true → who ≠ .fn0 → Answers (.restep who) s fun t =>
    t.timeState = 0 ∧ t.on R.TIME_STATUS_STEPPED = false ∧ t.net.samples = [] ∧ t.timeNs = s.timeNs) ∧
  (∀ (s : State) (who : Who) (v : Word), s.hears who = true → who ≠ .fn0 → Answers (.timeModeWrite who v) s fun t =>
    t.timeState = 0 ∧ t.on R.TIME_CTRL_MODE = bitAt v.toNat 0 ∧ t.on R.TIME_CTRL_SLAVE_ONLY = bitAt v.toNat 2 ∧
    t.get R.TIME_CTRL_DOMAIN = bitsOf v.toNat 8 8 ∧ t.net.master = none ∧
    t.on R.TIME_STATUS_STEPPED = (s.on R.TIME_STATUS_STEPPED && !bitAt v.toNat 1)) ∧
  (∀ (s : State) (v : Word), s.hears .fn0 = true →
    (Answers (.rateAdjWrite .fn0 v) s fun t => t.on R.TIME_STATUS_WR_DENIED = true ∧ OnlyRegs s t [R.TIME_STATUS]) ∧
    (Answers (.timeStepWrite .fn0 v) s fun t => t.on R.TIME_STATUS_WR_DENIED = true ∧ OnlyRegs s t [R.TIME_STATUS]) ∧
    (Answers (.timeModeWrite .fn0 v) s fun t => t.on R.TIME_STATUS_WR_DENIED = true ∧ OnlyRegs s t [R.TIME_STATUS]) ∧
    (Answers (.restep .fn0) s fun t => t.on R.TIME_STATUS_WR_DENIED = true ∧ OnlyRegs s t [R.TIME_STATUS]))

/-- R136 to R140, R152, R153, R156, R174: the Ethernet ports. -/
def Obligations.EthernetCommands : Prop :=
  (∀ (s : State) (who : Who) (p : Fin 4) (v : Word), s.hears who = true → who ≠ .fn0 → bitAt v.toNat 0 = true → s.ethMayEnable p (bitsOf v.toNat 1 1) = true →
    Answers (.ethCtrlWrite who p v) s fun t => t.on (R.ETH_CTRL_EN p) = true ∧ t.get (R.ETH_CTRL_SPEED p) = bitsOf v.toNat 1 1 ∧
      t.on (R.ETH_CTRL_RS_FEC p) = bitAt v.toNat 2 ∧
      (bitAt v.toNat 1 = false → t.get (R.TX_LAT_PS p) = 38400 ∧ t.get (R.RX_LAT_PS p) = 52800) ∧
      (bitAt v.toNat 1 = true → bitAt v.toNat 2 = false → t.get (R.TX_LAT_PS p) = 24600 ∧ t.get (R.RX_LAT_PS p) = 33100) ∧
      (bitAt v.toNat 1 = true → bitAt v.toNat 2 = true → t.get (R.TX_LAT_PS p) = 61200 ∧ t.get (R.RX_LAT_PS p) = 148700) ∧
      OnlyRegs s t [R.ETH_CTRL p, R.TX_LAT p, R.RX_LAT p]) ∧
  (∀ (s : State) (who : Who) (p : Fin 4) (v : Word), s.hears who = true → who ≠ .fn0 → bitAt v.toNat 0 = true → s.ethMayEnable p (bitsOf v.toNat 1 1) = false →
    s.on (R.ETH_CTRL_EN p) = false → Answers (.ethCtrlWrite who p v) s fun t =>
      t.on (R.ETH_CTRL_EN p) = false ∧ t.on (R.ETH_STATUS_ETH_REJ p) = true) ∧
  (∀ (s : State) (who : Who) (p : Fin 4) (v : Word), s.hears who = true → who ≠ .fn0 → bitAt v.toNat 0 = false → Answers (.ethCtrlWrite who p v) s fun t =>
    t.on (R.ETH_CTRL_EN p) = false ∧ t.on (R.ETH_STATUS_LINK p) = false) ∧
  (∀ (s : State) (p : Fin 4) (up : Bool), s.on (R.ETH_CTRL_EN p) = true → Answers (.ethLinkChange p up) s fun t =>
    t.on (R.ETH_STATUS_LINK p) = up ∧
    t.on (R.ETH_STATUS_LINK_CHG p) = (s.on (R.ETH_STATUS_LINK_CHG p) || (s.on (R.ETH_STATUS_LINK p) != up)) ∧
    ∀ q : Fin 4, q ≠ p → t.on (R.ETH_STATUS_LINK q) = s.on (R.ETH_STATUS_LINK q)) ∧
  (∀ (s : State) (p : Fin 4) (f : EthFrame), s.portUp p = true → s.get (R.LANE_CTRL_LOOP (28 + p)) = 0 → f.fcsOk = false →
    Answers (.ethFrameRx p f) s fun t => t.get (R.RX_FCS_ERR_CNT p) = min (s.get (R.RX_FCS_ERR_CNT p) + 1) (2 ^ 32 - 1) ∧
      t.get (R.STA_FEC_UNCORR_CNT p) = min (s.get (R.STA_FEC_UNCORR_CNT p) + if s.rsFec p then f.uncorr else 0) (2 ^ 32 - 1) ∧
      OnlyRegs s t [R.RX_FCS_ERR p, R.STA_FEC_UNCORR p]) ∧
  (∀ (s : State) (p : Fin 4) (f : EthFrame), s.portUp p = true → s.get (R.LANE_CTRL_LOOP (28 + p)) = 0 → f.fcsOk = true →
    f.length < 64 ∨ 1 < f.tags ∨ (f.etherType ≠ 0x88F7 ∧ f.etherType ≠ 0x88B5) →
    Answers (.ethFrameRx p f) s fun t => t.get (R.RX_DISCARD_CNT p) = min (s.get (R.RX_DISCARD_CNT p) + 1) (2 ^ 32 - 1) ∧
      OnlyRegs s t [R.RX_DISCARD p, R.STA_FEC_UNCORR p]) ∧
  (∀ (s : State) (p : Fin 4) (f : EthFrame), s.portUp p = true → s.get (R.LANE_CTRL_LOOP (28 + p)) = 0 → s.on R.STA_CTRL_EN = true →
    f.fcsOk = true → 64 ≤ f.length → f.length ≤ 1518 → f.tags = 0 → f.da = s.staGroup → f.etherType = 0x88B5 →
    leAt f.body 0 1 / 16 = 1 → staStation f.body = s.get R.STA_CTRL_STATION_ID → staLengthOk f.body = true →
    staSender f.body ≠ s.get R.STA_CTRL_SENDER → 1 ≤ staType f.body → staType f.body ≤ 5 →
    Answers (.ethFrameRx p f) s fun t => t.get (R.RX_OK_CNT p) = (s.get (R.RX_OK_CNT p) + 1) % 2 ^ 32 ∧
      t.net.inbox = s.net.inbox ++ [⟨p, f.sa, f.body⟩] ∧ ∀ a, a ≠ R.RX_OK p → a ≠ R.STA_FEC_UNCORR p → t.reg a = s.reg a) ∧
  (∀ (s : State) (p : Fin 4) (f : EthFrame), s.laneLooped (28 + p) = true → Answers (.ethFrameRx p f) s fun t => t = s)

/-- R139, R155, R158, R159, R161, R163, R164, R167 to R169, R175: what the station sends and what falls due (assumption 106). -/
def Obligations.StationSendCommands : Prop :=
  (∀ (s : State) (m : BitVec 8), s.txOpen 2 = true → s.net.posWait = [] →
    ((List.range 8).filter fun n => bitAt m.toNat n && s.on (R.TXPOS_EN n)) ≠ [] → Answers (.txposSample m) s fun t =>
      t.net.posWait = [] ∧ Tbl.get 0 t.net.txSeq 1 = (Tbl.get 0 s.net.txSeq 1 + 1) % 2 ^ 32 ∧
      ∀ p : Fin 4, bitAt (s.get R.STA_PORTS_TX_PORTS) p = true → s.portUp p = true → s.ethOutward p = true → (s.ethTx p).busyTo ≤ s.clk →
        (s.ethTx p).queue = [] → ∃ hdr, hdr.length = 24 ∧ Out.staFrame p (s.staBytes p s.staGroup
          (hdr ++ ((List.range 8).filter fun n => bitAt m.toNat n && s.on (R.TXPOS_EN n)).flatMap s.posEntry)) ∈ t.outs.drop s.outs.length) ∧
  (∀ (s : State) (m : BitVec 8) (n : Fin 8), s.on R.STA_CTRL_EN = true → s.txOpen 2 = false → bitAt m.toNat n = true →
    s.on (R.TXPOS_EN n) = true → Answers (.txposSample m) s fun t => t.outs = s.outs ∧ t.regs = s.regs ∧
      (⟨s.clk, s.get (R.TXPOS_STREAM n), s.posEntry n⟩ : PosWait) ∈ t.net.posWait ∧
      ∀ x ∈ t.net.posWait, x.stream = s.get (R.TXPOS_STREAM n) → x.clk = s.clk) ∧
  (∀ (s : State), s.net.txEvents ≠ [] → s.txOpen 3 = true → Answers .staEventFrameSend s fun t =>
    t.net.txEvents = s.net.txEvents.drop 16 ∧ Tbl.get 0 t.net.txSeq 2 = (Tbl.get 0 s.net.txSeq 2 + 1) % 2 ^ 32 ∧
    ∀ p : Fin 4, bitAt (s.get R.STA_PORTS_TX_PORTS) p = true → s.portUp p = true → s.ethOutward p = true → (s.ethTx p).busyTo ≤ s.clk →
      (s.ethTx p).queue = [] → ∃ hdr, hdr.length = 24 ∧
        Out.staFrame p (s.staBytes p s.staGroup (hdr ++ (s.net.txEvents.take 16).flatMap eventEntry)) ∈ t.outs.drop s.outs.length) ∧
  (∀ (s : State), s.on R.STA_CTRL_EN = true → Answers .beaconSend s fun t =>
    Tbl.get 0 t.net.txSeq 5 = (Tbl.get 0 s.net.txSeq 5 + 1) % 2 ^ 32 ∧
    (∀ i : Fin 32, t.get (R.PEER_INFO_AGE i) = if s.peerUsed i then min (s.get (R.PEER_INFO_AGE i) + 1) 65535 else s.get (R.PEER_INFO_AGE i)) ∧
    ∀ i : Fin 32, t.on (R.PEER_INFO_PRESENT i) = s.on (R.PEER_INFO_PRESENT i)) ∧
  (∀ (s : State) (d : Deferred), s.net.deferred.find? (fun d => decide (timeDiff d.deadline s.timeNs ≤ 0)) = some d →
    Answers .deferredEventDue s fun t => t.net.deferred = s.net.deferred.erase d ∧
      ∀ c, s.selCh? (R.RXEVT_DST_SEL d.map) = some c → s.byFn0 (R.RXEVT_DST_SEL d.map) = false → s.on (R.SWD_CH_CFG_EN c) = true →
        (s.fifoOf c).length < 64 → (t.fifoOf c).length = (s.fifoOf c).length + 1 ∧
        ∃ r ∈ t.fifoOf c, r.param = d.param ∧ r.producer = 0x30 ∧ r.clk = s.clk) ∧
  (∀ (s : State) (i : Fin 32), s.on (R.PEER_INFO_PRESENT i) = true → Answers (.peerTimeout i) s fun t =>
    t.on (R.PEER_INFO_PRESENT i) = false ∧ t.get (R.PEER_INFO_SENDER i) = s.get (R.PEER_INFO_SENDER i)) ∧
  (∀ (s : State) (n : Fin 8), s.on (R.RXPOS_CTRL_EN n) = true → Answers (.rxStreamPeriod n) s fun t =>
    t.regs = s.regs ∧ ∀ m, (t.srcOf m).miss = (s.srcOf m).miss + (if m ∈ s.fedBy 2 n then 1 else 0))

/-- R157, R158, R160 to R162, R164 to R166, R168: what the station receives. -/
def Obligations.StationReceiveCommands : Prop :=
  (∀ (s : State) (f : StaFrame) (n : Fin 8), s.inboxOf 1 = some f → staLength f.bytes = 24 → isSync s.timeState (s.on R.TIME_STATUS_STEPPED) = false →
    s.on (R.RXPOS_CTRL_EN n) = true → s.get (R.RXPOS_CTRL_SENDER n) = staSender f.bytes → s.get (R.RXPOS_CTRL_STREAM n) = leAt (staBody f.bytes) 0 1 →
    bitAt (leAt (staBody f.bytes) 1 1) 0 = true → Answers .staPosRx s fun t =>
      t.on (R.RXPOS_STATUS_NOT_SYNC n) = true ∧ t.rxLast = s.rxLast ∧ t.pe = s.pe ∧
      t.net.inbox = s.net.inbox.eraseP fun f => staType f.bytes == 1) ∧
  (∀ (s : State) (f : StaFrame) (n : Fin 8), s.inboxOf 1 = some f → staLength f.bytes = 24 → 48 ≤ f.bytes.length →
    isSync s.timeState (s.on R.TIME_STATUS_STEPPED) = true → isSync (staTFlags f.bytes % 8) (bitAt (staTFlags f.bytes) 3) = true →
    s.on (R.RXPOS_CTRL_EN n) = true → s.get (R.RXPOS_CTRL_SENDER n) = staSender f.bytes → s.get (R.RXPOS_CTRL_STREAM n) = leAt (staBody f.bytes) 0 1 →
    bitAt (leAt (staBody f.bytes) 1 1) 0 = true → Tbl.find s.rxLast n = none → leAt (staBody f.bytes) 12 8 = s.timeNs →
    Answers .staPosRx s fun t =>
      t.get (R.RXPOS_ACC_CNT_CNT n) = (s.get (R.RXPOS_ACC_CNT_CNT n) + 1) % 2 ^ 32 ∧ Tbl.find t.rxLast n = some s.timeNs ∧
      (Tbl.get {} t.net.rx n).last = some (leAt (staBody f.bytes) 4 8 % 2 ^ 56, s.timeNs)) ∧
  (∀ (s : State) (f : StaFrame) (i : Fin 32), s.inboxOf 2 = some f → staLength f.bytes = 32 → s.on (R.RXEVT_SRC_EN i) = true →
    s.get (R.RXEVT_SRC_SENDER i) = staSender f.bytes → s.get (R.RXEVT_SRC_CHANNEL i) = leAt (staBody f.bytes) 0 1 →
    (∀ j : Fin 32, j ≠ i → s.on (R.RXEVT_SRC_EN j) = false) → s.get (R.RXEVT_DELAY_NS i) ≠ 0 → s.net.deferred.length < 256 →
    0 < timeDiff ((leAt (staBody f.bytes) 24 8 + s.get (R.RXEVT_DELAY_NS i)) % 2 ^ 64) s.timeNs →
    Answers .staEventRx s fun t => t.regs = s.regs ∧ t.net.deferred = s.net.deferred ++
      [⟨i, leAt (staBody f.bytes) 0 1 + staSender f.bytes * 256, (leAt (staBody f.bytes) 24 8 + s.get (R.RXEVT_DELAY_NS i)) % 2 ^ 64⟩]) ∧
  (∀ (s : State) (f : StaFrame), s.skepRuns = true → s.inboxOf 3 = some f → leAt (staBody f.bytes) 0 1 = s.get R.STA_CTRL_SENDER →
    s.allowOf (staSender f.bytes) = none → Answers .staCmdRx s fun t => t.on R.STA_STATUS_CMD_DENIED = true ∧ t.skep = s.skep) ∧
  (∀ (s : State) (f : StaFrame) (i : Nat), s.skepRuns = true → s.inboxOf 3 = some f → leAt (staBody f.bytes) 0 1 = s.get R.STA_CTRL_SENDER →
    s.allowOf (staSender f.bytes) = some i → (s.remoteOf (staSender f.bytes)).lastSeq = none →
    (Tbl.get {} s.skep.cmds (32 + staSender f.bytes)).req = [] → 8 ≤ (staBody f.bytes).length → (staBody f.bytes).length ≤ 1028 →
    Answers .staCmdRx s fun t => t.regs = s.regs ∧ Tbl.get {} t.skep.cmds (32 + staSender f.bytes) =
      { req := (staBody f.bytes).drop 4, priv := s.on (R.ALLOW_PRIV i), rung := (s.clk, 32 + staSender f.bytes) }) ∧
  (∀ (s : State) (f : StaFrame) (i : Nat), s.inboxOf 5 = some f → staSender f.bytes ≠ s.get R.STA_CTRL_SENDER →
    (List.range 32).find? (fun i => s.peerUsed i && s.get (R.PEER_INFO_SENDER i) == staSender f.bytes) = some i →
    Answers .staBeaconRx s fun t => t.on (R.PEER_INFO_PRESENT i) = true ∧ t.get (R.PEER_INFO_AGE i) = 0 ∧
      t.get (R.PEER_INFO_STATE i) = staTFlags f.bytes % 8 ∧
      OnlyRegs { s with net := t.net } t [R.PEER_INFO i, R.PEER_SERIAL_LO i, R.PEER_SERIAL_HI i]) ∧
  (∀ (s : State) (f : StaFrame) (i : Nat), s.inboxOf 5 = some f → staSender f.bytes ≠ s.get R.STA_CTRL_SENDER →
    (List.range 32).find? (fun i => s.peerUsed i && s.get (R.PEER_INFO_SENDER i) == staSender f.bytes) = none →
    (List.range 32).find? (fun i => !s.peerUsed i) = some i → staSender f.bytes < 256 →
    Answers .staBeaconRx s fun t => t.on (R.PEER_INFO_PRESENT i) = true ∧ t.get (R.PEER_INFO_AGE i) = 0 ∧
      t.get (R.PEER_INFO_SENDER i) = staSender f.bytes) ∧
  (∀ (s : State) (f : StaFrame), s.inboxOf 5 = some f → staSender f.bytes = s.get R.STA_CTRL_SENDER →
    leAt (staBody f.bytes) 0 8 ≠ Config.serial.toNat → Answers .staBeaconRx s fun t => t.on R.STA_STATUS_ID_CONFLICT = true)

/-- R146, R147, R149, R151 to R154, R169: IEEE 1588 (the ranking of clocks and the fields of a message: assumption 9;
the pace of Sync and Announce: assumption 122). -/
def Obligations.PtpCommands : Prop :=
  (∀ (s : State) (p : Fin 4) (a : Announce), s.ptpMode = true → s.skepRuns = true → s.ptpPort? = some p.val →
    a.domain = s.get R.TIME_CTRL_DOMAIN → announceUsable a = true → s.net.master = none →
    Answers (.ptpAnnounceRx p a) s fun t =>
      if !s.on R.TIME_CTRL_SLAVE_ONLY && lexLt s.ownClock.rank (announceMaster a).rank then t.timeState = 4 ∧ t.net.master = none
      else t.net.master = some (announceMaster a) ∧ t.timeState = (if s.timeState = 4 then 3 else s.timeState)) ∧
  (∀ (s : State) (p : Fin 4) (parent : Nat) (t1 t2 t3 t4 x mean : Int) (m : Master), s.ptpMode = true → s.skepRuns = true →
    s.ptpPort? = some p.val → s.net.master = some m → m.parent = parent → s.net.delayMeas = some (t3, t4) → s.net.syncsSince < 16 →
    s.net.delays = [] → x = t2 / 250 * 250 - s.get (R.RX_LAT_PS p) → mean = (x - t1 + (t4 - t3)) / 2 →
    Answers (.ptpSyncRx p parent t1 t2) s fun t =>
      t.getInt R.PATH_DELAY_NS = clampInt (-2 ^ 31) (2 ^ 31 - 1) (divRound mean 1000) ∧
      t.getInt R.OFFSET_NS = clampInt (-2 ^ 31) (2 ^ 31 - 1) (divRound (x - t1 - mean - s.getInt (R.ASYM_PS p)) 1000) ∧
      t.net.delays = [mean] ∧ t.net.syncsSince = s.net.syncsSince + 1 ∧ (s.timeState = 0 ∨ s.timeState = 3 → t.timeState = 1 ∨ t.timeState = 2)) ∧
  (∀ (s : State) (p : Fin 4) (m : Master), s.ptpMode = true → s.skepRuns = true → s.ptpPort? = some p.val → s.net.master = some m →
    s.portUp p = true → s.ethOutward p = true → s.ethLooped p = false → (s.ethTx p).busyTo ≤ s.clk → (s.ethTx p).queue = [] →
      Answers .ptpDelayReqTx s fun t =>
      t.net.reqTx = some (s.stampPs + s.get (R.TX_LAT_PS p)) ∧ t.net.reqSyncs = 0 ∧ s.clk < (t.ethTx p).busyTo ∧
      t.get (R.TX_OK_CNT p) = (s.get (R.TX_OK_CNT p) + 1) % 2 ^ 32 ∧ (∀ a, a ≠ R.TX_OK p → t.reg a = s.reg a) ∧
      ∃ q : PtpMsg, t.outs = s.outs ++ [.ptp p (s.vlanTag p) q] ∧ q.kind = 1 ∧ q.domain = s.get R.TIME_CTRL_DOMAIN) ∧
  (∀ (s : State) (p : Fin 4) (m : Master), s.ptpMode = true → s.skepRuns = true → s.ptpPort? = some p.val → s.net.master = some m →
    s.portUp p = true → s.clk < (s.ethTx p).busyTo → Answers .ptpDelayReqTx s fun t => t.regs = s.regs ∧ t.outs = s.outs ∧
      ∃ q : PtpMsg, q.kind = 1 ∧ (t.ethTx p).queue = (s.ethTx p).queue ++ [.ptp q]) ∧
  (∀ (s : State) (p : Fin 4) (parent : Nat) (t3 t4 : Int) (m : Master), s.ptpMode = true → s.skepRuns = true → s.ptpPort? = some p.val →
    s.net.master = some m → m.parent = parent → s.net.reqTx = some t3 → Answers (.ptpDelayRespRx p parent t4) s fun t =>
      t.net.delayMeas = some (t3, t4) ∧ t.net.syncsSince = s.net.reqSyncs ∧ t.net.reqTx = none ∧ t.regs = s.regs) ∧
  (∀ (s : State) (p : Fin 4), s.ptpMode = true → s.skepRuns = true → s.ptpPort? = some p.val → s.timeState = 4 → s.net.annAt < s.net.syncAt →
    s.portUp p = true → s.ethOutward p = true → s.ethLooped p = false → (s.ethTx p).busyTo ≤ s.clk → (s.ethTx p).queue = [] →
      Answers .ptpSyncTx s fun t =>
      t.get (R.TX_OK_CNT p) = (s.get (R.TX_OK_CNT p) + 1) % 2 ^ 32 ∧ (∀ a, a ≠ R.TX_OK p → t.reg a = s.reg a) ∧ (t.ethTx p).queue = [] ∧
      t.net.annAt = ptpInterval (s.getInt R.PTP_CFG_LOG_ANNOUNCE) ∧ t.net.syncAt = s.net.syncAt - s.net.annAt ∧
      ∃ q : PtpMsg, t.outs = s.outs ++ [.ptp p (s.vlanTag p) q] ∧ q.kind = 11 ∧ q.master = some s.ownClock) ∧
  (∀ (s : State) (p : Fin 4), s.ptpMode = true → s.skepRuns = true → s.ptpPort? = some p.val → s.timeState = 4 → s.net.syncAt ≤ s.net.annAt →
    s.portUp p = true → s.ethOutward p = true → s.ethLooped p = false → (s.ethTx p).busyTo ≤ s.clk → (s.ethTx p).queue = [] →
      Answers .ptpSyncTx s fun t =>
      t.get (R.TX_OK_CNT p) = (s.get (R.TX_OK_CNT p) + 1) % 2 ^ 32 ∧ (∀ a, a ≠ R.TX_OK p → t.reg a = s.reg a) ∧
      t.net.syncAt = ptpInterval (s.getInt R.PTP_CFG_LOG_SYNC) ∧
      ∃ (q : PtpMsg) (after an : List TxItem), t.outs = s.outs ++ [.ptp p (s.vlanTag p) q] ∧ q.kind = 0 ∧ (t.ethTx p).queue = after ++ an ∧
        (s.on R.TIME_CTRL_ONE_STEP = true → after = [] ∧ q.stamp = (s.stampPs + s.get (R.TX_LAT_PS p)) / 1000) ∧
        (s.on R.TIME_CTRL_ONE_STEP = false → ∃ r : PtpMsg, after = [.ptp r] ∧ r.kind = 8 ∧ r.seq = q.seq ∧
          r.stamp = (s.stampPs + s.get (R.TX_LAT_PS p)) / 1000) ∧
        (s.net.syncAt < s.net.annAt → an = [] ∧ t.net.annAt = s.net.annAt - s.net.syncAt) ∧
        (s.net.syncAt = s.net.annAt → ∃ r : PtpMsg, an = [.ptp r] ∧ r.kind = 11 ∧ r.master = some s.ownClock)) ∧
  (∀ (s : State), s.ptpMode = true → s.skepRuns = true → s.net.master.isSome = true → s.on R.TIME_CTRL_SLAVE_ONLY = true → s.timeState = 2 →
    Answers .masterLost s fun t => t.net.master = none ∧ t.net.delayMeas = none ∧ t.timeState = 3 ∧ t.on R.TIME_STATUS_STATE_CHG = true) ∧
  (∀ (s : State) (p : Fin 4), s.ptpMode = true → s.skepRuns = true → s.ptpPort? = some p.val → s.on R.TIME_CTRL_SLAVE_ONLY = false →
    Answers .masterLost s fun t => t.net.master = none ∧ t.timeState = 4)

/-- R218: the writes of a lane register that function 0 may not make, and one that function 1 and Skep may. -/
def Obligations.LaneDenied : Prop :=
  (∀ (s : State) (l : Fin 32) (v : Word) (c : Instr), s.hears .fn0 = true → s.ethLane l = true →
    c ∈ [.restart .fn0 l v, .loopWrite .fn0 l v, .pwrStateWrite l (.write .fn0 v), .txCoefWrite .fn0 l v, .marginStart .fn0 l v, .inject .fn0 l v] →
    Answers c s fun t => t.on (R.LANE_STATUS_LANE_WR_DENIED l) = true ∧ OnlyRegs s t [R.LANE_STATUS l]) ∧
  (∀ (s : State) (l : Fin 32) (v : Word) (k : Fin 64), s.ethLane l = true → s.hears .fn0 = true →
    Answers (.registerWrite .fn0 (R.LANE_CTRL l + 4 * k) v []) s fun t => t.on (R.LANE_STATUS_LANE_WR_DENIED l) = true ∧ OnlyRegs s t [R.LANE_STATUS l]) ∧
  (∀ (s : State) (l : Fin 32) (v : Word) (who : Who), s.hears who = true → s.ethLane l = true → who ≠ .fn0 → coefValid v.toNat = true →
    Answers (.txCoefWrite who l v) s fun t => (t.reg (R.TX_COEF l)).toNat % 2 ^ 23 = v.toNat % 2 ^ 23 ∧
      t.on (R.LANE_STATUS_LANE_WR_DENIED l) = s.on (R.LANE_STATUS_LANE_WR_DENIED l))

/-- R178, R189, R201, R203, R209 to R211: RESTART, loopbacks and power states. -/
def Obligations.LanePowerCommands : Prop :=
  (∀ (s : State) (who : Who) (l : Fin 32) (v : Word), s.hears who = true → ¬ (who = .fn0 ∧ s.ethLane l = true) → bitAt v.toNat 1 = true → s.laneRateOk l = true →
    s.on (R.LANE_CTRL_EN l) = true → Answers (.restart who l v) s fun t =>
      t.get (R.LANE_CTRL_TX_PWR l) = 0 ∧ t.get (R.LANE_CTRL_RX_PWR l) = 0 ∧ (t.laneOf l).idle = true ∧
      (t.laneOf l).rate = s.startRate l) ∧
  (∀ (s : State) (who : Who) (l : Fin 32) (v : Word), s.hears who = true → ¬ (who = .fn0 ∧ s.ethLane l = true) → bitAt v.toNat 1 = true → s.laneRateOk l = false →
    Answers (.restart who l v) s fun t => t.on (R.LANE_STATUS_RATE_REJ l) = true ∧ (t.laneOf l).rate = (s.laneOf l).rate) ∧
  (∀ (s : State) (l : Fin 32), (s.laneOf l).idle = true → Answers (.restartIdleEnd l) s fun t =>
    (t.laneOf l).idle = false ∧ (t.laneOf l).precoder = 0 ∧ t.get (R.TX_COEF_ACT_V l) = s.startCoef l ∧ OnlyRegs { s with lanes := t.lanes, outs := t.outs } t [R.TX_COEF_ACT l]) ∧
  (∀ (s : State) (who : Who) (l : Fin 32) (v : Word), s.hears who = true → ¬ (who = .fn0 ∧ s.ethLane l = true) → bitAt v.toNat 1 = false →
    bitsOf v.toNat 2 2 = 0 → bitsOf v.toNat 4 2 = 0 → Answers (.loopWrite who l v) s fun t => t.get (R.LANE_CTRL_LOOP l) = bitsOf v.toNat 9 2) ∧
  (∀ (s : State) (who : Who) (l : Fin 32) (v : Word), s.hears who = true → ¬ (who = .fn0 ∧ s.ethLane l = true) → bitAt v.toNat 1 = false →
    s.get (R.LANE_CTRL_LOOP l) = 0 → bitsOf v.toNat 2 2 ≠ 0 → bitsOf v.toNat 9 2 ≠ 0 → Answers (.loopWrite who l v) s fun t =>
      t.get (R.LANE_CTRL_LOOP l) = 0 ∧ t.on (R.LANE_STATUS_LOOP_REJ l) = true) ∧
  (∀ (s : State) (who : Who) (l : Fin 32) (v : Word), s.hears who = true → ¬ (who = .fn0 ∧ s.ethLane l = true) → bitAt v.toNat 1 = false →
    s.get (R.LANE_CTRL_LOOP l) = 0 → bitsOf v.toNat 9 2 = 0 → Answers (.pwrStateWrite l (.write who v)) s fun t =>
      t.get (R.LANE_CTRL_TX_PWR l) = bitsOf v.toNat 2 2 ∧ t.get (R.LANE_CTRL_RX_PWR l) = bitsOf v.toNat 4 2 ∧
      (s.on (R.LANE_CTRL_EN l) = true → (s.laneOf l).tx.target = none → (s.laneOf l).tx.linkClk ≠ s.clk + 1 →
        s.get (R.LANE_STATUS_TX_PWR_ACT l) ≠ pwrCode (bitsOf v.toNat 2 2) → (t.laneOf l).tx.target = some (pwrCode (bitsOf v.toNat 2 2)))) ∧
  (∀ (s : State) (l : Fin 32) (x : Fin 3), s.on (R.LANE_CTRL_EN l) = true → (s.laneOf l).tx.target ≠ none →
    Answers (.pwrStateWrite l (.link true x)) s fun t => (t.laneOf l).tx = { (s.laneOf l).tx with held := some (x, true), linkClk := s.clk + 1 } ∧
      t.regs = s.regs) ∧
  (∀ (s : State) (l : Fin 32) (tx : Bool) (dest : Nat), (s.side l tx).target = some dest → (s.side l tx).held = none → dest < 3 →
    Answers (.pwrTransitionDone l tx) s fun t => t.get (pwrAct l tx) = dest ∧ (t.side l tx).target = none)

/-- R177, R179, R188, R190, R194: groups, PLLs and coefficients. -/
def Obligations.LaneGroupCommands : Prop :=
  (∀ (s : State) (who : Who) (g : Fin 7) (v : Word), s.hears who = true → (∀ l ∈ groupLanes g, s.unitOff (laneUnit l) = true) → bitsOf v.toNat 1 2 ≠ 2 →
    Answers (.grpCfgWrite who ⟨g, by omega⟩ v) s fun t => t.get (R.GRP_CFG_FAMILY g) = bitsOf v.toNat 1 2 ∧
      t.get (R.GRP_CFG_REFSEL g) = bitsOf v.toNat 0 1 ∧ OnlyRegs s t [R.GRP_CFG g]) ∧
  (∀ (s : State) (who : Who) (g : Fin 8) (v : Word) (l : Nat), s.hears who = true → l ∈ groupLanes g → s.unitOff (laneUnit l) = false →
    Answers (.grpCfgWrite who g v) s fun t => t.on (R.GRP_STATUS_GRP_REJ g) = true ∧ OnlyRegs s t [R.GRP_STATUS g]) ∧
  (∀ (s : State) (g : Fin 8), Answers (.refMeasure g none) s fun t => t.on (R.GRP_STATUS_REF_LOSS g) = true ∧ OnlyRegs s t [R.GRP_STATUS g]) ∧
  (∀ (s : State) (g : Fin 8) (x : BitVec 16), Answers (.refMeasure g (some x)) s fun t => t.get (R.GRP_STATUS_REF_PPM g) = x.toNat ∧
    t.on (R.GRP_STATUS_REF_LOSS g) = (s.on (R.GRP_STATUS_REF_LOSS g) || decide (10000 < x.toInt.natAbs)) ∧ OnlyRegs s t [R.GRP_STATUS g]) ∧
  (∀ (s : State) (g : Fin 8), s.on (R.GRP_STATUS_PLL_LOCK g) = true → Answers (.pllUnlock g) s fun t =>
    t.on (R.GRP_STATUS_PLL_LOCK g) = false ∧ t.on (R.GRP_STATUS_PLL_UNLOCK g) = true ∧
    t.get (R.PLL_UNLOCK_CNT_CNT g) = min (s.get (R.PLL_UNLOCK_CNT_CNT g) + 1) 65535 ∧
    ∀ l ∈ groupLanes g, t.on (R.LANE_STATUS_PLL_LOCK l) = false ∧ t.on (R.LANE_STATUS_READY l) = false ∧ (t.laneOf l).sending = false) ∧
  (∀ (s : State) (g : Fin 8), Tbl.get false s.pllLost g = true → Answers (.pllRelock g) s fun t =>
    t.on (R.GRP_STATUS_PLL_LOCK g) = true ∧ Tbl.get false t.pllLost g = false ∧ ∀ l ∈ groupLanes g, t.on (R.LANE_STATUS_PLL_LOCK l) = true) ∧
  (∀ (s : State) (who : Who) (l : Fin 32) (v : Word), s.hears who = true → ¬ (who = .fn0 ∧ s.ethLane l = true) → coefValid v.toNat = true →
    Answers (.txCoefWrite who l v) s fun t => (t.reg (R.TX_COEF l)).toNat % 2 ^ 23 = v.toNat % 2 ^ 23 ∧
      OnlyRegs s t [R.TX_COEF l, R.TX_COEF_ACT l] ∧
      (s.get (R.LANE_CFG_TX_PRESET l) = 15 → s.get (R.LANE_STATUS_TX_PWR_ACT l) = 0 → t.get (R.TX_COEF_ACT_V l) = v.toNat % 2 ^ 23)) ∧
  (∀ (s : State) (who : Who) (l : Fin 32) (v : Word), s.hears who = true → ¬ (who = .fn0 ∧ s.ethLane l = true) → coefValid v.toNat = false →
    Answers (.txCoefWrite who l v) s fun t => t.on (R.LANE_STATUS_FIR_REJ l) = true ∧ OnlyRegs s t [R.LANE_STATUS l])

/-- R191, R192, R194 to R197, R204, R212: acquisition. -/
def Obligations.AcquisitionCommands : Prop :=
  (∀ (s : State) (l : Fin 32), s.on (R.LANE_STATUS_SIG_DET l) = false → s.get (R.LANE_STATUS_RX_PWR_ACT l) ≠ 0 → Answers (.sigDetRise l) s fun t =>
    t.on (R.LANE_STATUS_SIG_DET l) = true ∧ t.on (R.LANE_STATUS_SIG_WAKE l) = true ∧
    (s.on (R.LANE_CTRL_RX_AUTOWAKE l) = true → t.get (R.LANE_CTRL_RX_PWR l) = 0)) ∧
  (∀ (s : State) (l : Fin 32), s.get (R.LANE_STATUS_RX_PWR_ACT l) = 0 → Answers (.sigDetRise l) s fun t =>
    t.on (R.LANE_STATUS_SIG_DET l) = true ∧ OnlyRegs s t [R.LANE_STATUS l]) ∧
  (∀ (s : State) (l : Fin 32), s.rxState l = 1 → (if s.get (R.LANE_CTRL_LOOP l) = 1 then s.txRuns l else s.on (R.LANE_STATUS_SIG_DET l)) = true →
    Answers (.sigDetHold l) s fun t =>
    t.rxState l = 2 ∧ (t.laneOf l).acqClk = s.clk ∧ t.on (R.LANE_STATUS_CDR_LOCK l) = false) ∧
  (∀ (s : State) (l : Fin 32), s.rxState l = 5 → s.get (R.LANE_CTRL_LOOP l) = 0 → Answers (.sigDetFall l) s fun t =>
    t.on (R.LANE_STATUS_SIG_DET l) = false ∧ t.rxState l = 1 ∧ t.on (R.LANE_STATUS_READY l) = false ∧ t.on (R.LANE_STATUS_LOCK_LOST l) = true ∧
    (t.laneOf l).warm = true ∧ t.get (R.LOCK_LOST_CNT_CNT l) = min (s.get (R.LOCK_LOST_CNT_CNT l) + 1) 65535) ∧
  (∀ (s : State) (l : Fin 32), s.rxState l = 2 → Answers (.cdrLock l) s fun t =>
    t.rxState l = 3 ∧ t.on (R.LANE_STATUS_CDR_LOCK l) = true ∧ t.on (R.LANE_STATUS_ADAPT_DONE l) = false) ∧
  (∀ (s : State) (l : Fin 32) (ctle : BitVec 4) (taps : List (BitVec 8)), s.rxState l = 3 → s.on (R.LANE_CFG_ADAPT_FREEZE l) = false →
    Answers (.adaptSettled l ctle taps) s fun t => t.rxState l = 4 ∧ t.on (R.LANE_STATUS_ADAPT_DONE l) = true ∧
      t.get (R.CTLE_CFG_CTLE_SET l) = clampNat (s.get (R.CTLE_CFG_CTLE_MIN l)) (s.get (R.CTLE_CFG_CTLE_MAX l)) ctle.toNat ∧
      ∀ k, k < 12 → t.get (R.DFE_TAP_TAP l k) = (taps.getD k 0).toNat) ∧
  (∀ (s : State) (l : Fin 32) (h : BitVec 8), s.rxState l = 4 → s.get (R.ACQ_CFG_LOCK_EYE l) ≤ h.toNat → Answers (.eyeCheckDone l h) s fun t =>
    t.rxState l = 5 ∧ t.on (R.LANE_STATUS_READY l) = true ∧ (t.laneOf l).attempt = 0 ∧
    t.get (R.ACQ_TIME_US l) = (s.clk - (s.laneOf l).acqClk) / 250 % 2 ^ 20) ∧
  (∀ (s : State) (l : Fin 32) (h : BitVec 8), s.rxState l = 4 → h.toNat < s.get (R.ACQ_CFG_LOCK_EYE l) → Answers (.eyeCheckDone l h) s fun t =>
    t.rxState l = 3 ∧ t.on (R.LANE_STATUS_READY l) = false) ∧
  (∀ (s : State) (l : Fin 32), s.rxState l = 5 → s.get (R.LANE_CTRL_LOOP l) = 0 → Answers (.cdrLockLost l) s fun t =>
    t.rxState l = 1 ∧ t.on (R.LANE_STATUS_READY l) = false ∧ t.on (R.LANE_STATUS_LOCK_LOST l) = true ∧ (t.laneOf l).warm = true ∧
    t.get (R.LOCK_LOST_CNT_CNT l) = min (s.get (R.LOCK_LOST_CNT_CNT l) + 1) 65535) ∧
  (∀ (s : State) (l : Fin 32), 2 ≤ s.rxState l → s.rxState l ≤ 4 → s.get (R.LANE_CTRL_LOOP l) = 0 → Answers (.acqTimeout l) s fun t =>
    t.rxState l = 1 ∧ t.on (R.LANE_STATUS_ACQ_TIMEOUT l) = true ∧ (t.laneOf l).attempt = (s.laneOf l).attempt + 1 ∧
    (t.laneOf l).warm = false ∧ t.get (R.ACQ_RETRY_CNT_CNT l) = min (s.get (R.ACQ_RETRY_CNT_CNT l) + 1) 65535) ∧
  (∀ (s : State) (l : Fin 32), (s.laneOf l).warm = true → 1 ≤ s.rxState l → s.rxState l ≤ 4 → Answers (.warmAcqTimeout l) s fun t =>
    t.laneOf l = { s.laneOf l with warm := false } ∧ t.rxState l = s.rxState l ∧
    (s.on (R.LANE_CFG_ADAPT_FREEZE l) = true → t.regs = s.regs))

/-- R207, R208, R214 to R216: measurements of a lane. -/
def Obligations.LaneMeasureCommands : Prop :=
  (∀ (s : State) (l : Fin 32) (x : BitVec 16), s.on (R.LANE_STATUS_CDR_LOCK l) = true → Answers (.freqOffsetUpdate l x) s fun t =>
    t.get (R.FREQ_OFFSET_PPM l) = x.toNat ∧
    t.on (R.LANE_STATUS_PPM_WARN l) = (s.on (R.LANE_STATUS_PPM_WARN l) || decide (2200 < x.toInt.natAbs)) ∧
    OnlyRegs s t [R.FREQ_OFFSET l, R.LANE_STATUS l]) ∧
  (∀ (s : State) (l : Fin 32) (h w : BitVec 24), s.laneReady l = true → (s.laneOf l).margin = false → (s.laneOf l).rate ≠ 2 →
    Answers (.eyeSummaryRefresh l h w) s fun t => t.reg (R.EYE_SUM_0 l) = BitVec.ofNat 32 h.toNat ∧
      t.reg (R.EYE_SUM_1 l) = BitVec.ofNat 32 (w.toNat + 2 ^ 31) ∧ OnlyRegs s t [R.EYE_SUM_0 l, R.EYE_SUM_1 l]) ∧
  (∀ (s : State) (who : Who) (l : Fin 32) (v : Word), s.hears who = true → ¬ (who = .fn0 ∧ s.ethLane l = true) → bitAt v.toNat 0 = true → (s.laneOf l).margin = false →
    Answers (.marginStart who l v) s fun t =>
      t.laneOf l = { s.laneOf l with margin := s.laneReady l } ∧ t.on (R.MARGIN_STATUS_DONE l) = !s.laneReady l ∧
      t.on (R.MARGIN_STATUS_ABORTED l) = !s.laneReady l ∧ t.get (R.MARGIN_CTRL_EYE l) = bitsOf v.toNat 1 2 ∧
      t.get (R.MARGIN_CTRL_PHASE l) = bitsOf v.toNat 3 7 ∧ ∀ a, a ≠ R.MARGIN_CTRL l → a ≠ R.MARGIN_STATUS l → t.reg a = s.reg a) ∧
  (∀ (s : State) (l : Fin 32) (n : Nat), (s.laneOf l).margin = true → Answers (.marginDone l n) s fun t =>
    t.laneOf l = { s.laneOf l with margin := false } ∧ t.get (R.MARGIN_ERR_CNT l) = min n (2 ^ 32 - 1) ∧ t.on (R.MARGIN_STATUS_DONE l) = true ∧
    ∀ a, a ≠ R.MARGIN_ERR l → a ≠ R.MARGIN_STATUS l → t.reg a = s.reg a) ∧
  (∀ (s : State) (who : Who) (l : Fin 32) (v : Word), s.hears who = true → ¬ (who = .fn0 ∧ s.ethLane l = true) →
    Answers (.inject who l v) s fun t => t.on (R.PRBS_CTRL_TX_EN l) = bitAt v.toNat 0 ∧ t.on (R.PRBS_CTRL_RX_EN l) = bitAt v.toNat 1 ∧
      t.get (R.PRBS_CTRL_PATTERN l) = bitsOf v.toNat 2 2 ∧
      (t.laneOf l).injected = (if bitAt v.toNat 0 then (s.laneOf l).injected + (bitAt v.toNat 4).toNat else 0) ∧
      t.on (R.PRBS_STATUS_LOCK l) =
        (s.on (R.PRBS_STATUS_LOCK l) && bitAt v.toNat 1 && bitsOf v.toNat 2 2 == s.get (R.PRBS_CTRL_PATTERN l)) ∧
      ∀ a, a ≠ R.PRBS_CTRL l → a ≠ R.PRBS_STATUS l → t.reg a = s.reg a) ∧
  (∀ (s : State) (l : Fin 32) (errs bits : Nat), s.boot.down = false → s.risenOf (R.PRBS_ERR l) = 0 → Answers (.prbsErrRead .skep l errs bits) s fun t =>
    t.get2 (R.PRBS_BITS_LO_BITS l) (R.PRBS_BITS_HI_BITS l) = ((s.laneOf l).prbsBits + bits) % 2 ^ 48 ∧
    t.outs = s.outs ++ [.readData .skep (R.PRBS_ERR l) (BitVec.ofNat 32 (min (s.get (R.PRBS_ERR_CNT l) + errs) (2 ^ 32 - 1)))] ∧
    t.get (R.PRBS_ERR_CNT l) = 0 ∧ (t.laneOf l).prbsBits = 0 ∧
    ∀ a, a ≠ R.PRBS_BITS_LO l → a ≠ R.PRBS_BITS_HI l → a ≠ R.PRBS_ERR l → t.reg a = s.reg a) ∧
  (∀ (s : State) (l : Fin 32), s.on (R.PRBS_CTRL_RX_EN l) = true → Answers (.prbsLock l) s fun t =>
    t.on (R.PRBS_STATUS_LOCK l) = true ∧ OnlyRegs s t [R.PRBS_STATUS l]) ∧
  (∀ (s : State) (l : Fin 32), s.on (R.PRBS_STATUS_LOCK l) = true → Answers (.prbsLockLost l) s fun t =>
    t.on (R.PRBS_STATUS_LOCK l) = false ∧ t.on (R.PRBS_STATUS_PRBS_LOCK_LOST l) = true ∧ OnlyRegs s t [R.PRBS_STATUS l])

/-- R222, R229 to R233, R236, R272: markers and codewords (the code itself is taken from IEEE 802.3: assumption 111). -/
def Obligations.MarkerAndCodeCommands : Prop :=
  (∀ (s : State) (l : Fin 32) (sym : BitVec 130) (t : Nat) (bip : BitVec 8), s.laneReady l = true → s.laneLooped l = false →
    markerValid (s.markerBits l sym.toNat) = true → (∀ f, s.linkAt l = some f → s.linkState f < 2) →
    Answers (.amReceived l sym t bip) s fun u => u.links = s.links ∧ u.on (R.LL_STATUS_AM_LOCK l) = true ∧
      u.get (R.LL_STATUS_LOGICAL l) = bitsOf (markerByte (s.markerBits l sym.toNat) 4) 0 3 ∧ (u.laneOf l).amMiss = 0 ∧
      u.get (R.BIP_ERR_CNT l) =
        (if s.on (R.LL_STATUS_AM_LOCK l) = true ∧ markerByte (s.markerBits l sym.toNat) 8 ≠ bip.toNat ^^^ (s.laneOf l).rxBip then
           min (s.get (R.BIP_ERR_CNT l) + 1) 65535 else s.get (R.BIP_ERR_CNT l))) ∧
  (∀ (s : State) (l : Fin 32) (sym : BitVec 130) (t : Nat) (bip : BitVec 8),
    markerValid (s.markerBits l sym.toNat) = false → s.on (R.LL_STATUS_AM_LOCK l) = false →
    Answers (.amReceived l sym t bip) s fun u => u.regs = s.regs ∧ u.links = s.links) ∧
  (∀ (s : State) (l : Fin 32) (sym : BitVec 130) (t : Nat) (bip : BitVec 8), s.laneReady l = false ∨ s.laneLooped l = true →
    Answers (.amReceived l sym t bip) s fun u => u = s) ∧
  (∀ (s : State) (l : Fin 32) (sym : BitVec 130) (t : Nat) (bip : BitVec 8), s.laneReady l = true → s.laneLooped l = false →
    markerValid (s.markerBits l sym.toNat) = false → s.on (R.LL_STATUS_AM_LOCK l) = true → (s.laneOf l).amMiss < 2 →
    Answers (.amReceived l sym t bip) s fun u => u.get (R.AM_MISS_CNT_CNT l) = min (s.get (R.AM_MISS_CNT_CNT l) + 1) 65535 ∧
      (u.laneOf l).amMiss = (s.laneOf l).amMiss + 1 ∧ u.links = s.links ∧ ∀ a, a ≠ R.AM_MISS_CNT l → u.reg a = s.reg a) ∧
  (∀ (s : State) (l f : Fin 32) (sym : BitVec 130) (t : Nat) (bip : BitVec 8), s.laneReady l = true → s.laneLooped l = false →
    markerValid (s.markerBits l sym.toNat) = true → s.linkAt l = some f.val → 2 ≤ s.linkState f → (s.linkOf f).marks = [] → s.linkWidth f ≠ 1 →
    Answers (.amReceived l sym t bip) s fun u => u.on (R.LL_STATUS_AM_LOCK l) = true ∧ (u.linkOf f).marks =
      [((l : Nat), bitsOf (markerByte (s.markerBits l sym.toNat) 4) 0 3, bitsOf (markerByte (s.markerBits l sym.toNat) 6) 0 2, t)]) ∧
  (∀ (s : State) (l f : Fin 32) (sym : BitVec 130) (t : Nat) (bip : BitVec 8), s.laneReady l = true → s.laneLooped l = false →
    markerValid (s.markerBits l sym.toNat) = true → s.linkAt l = some f.val → s.linkState f = 2 → (s.linkOf f).marks = [] → s.linkWidth f = 1 →
    bitsOf (markerByte (s.markerBits l sym.toNat) 4) 0 3 = 0 → bitsOf (markerByte (s.markerBits l sym.toNat) 6) 0 2 = s.get (R.LINK_CTRL_WIDTH f) →
    Answers (.amReceived l sym t bip) s fun u => u.on (R.LL_STATUS_AM_LOCK l) = true ∧ (u.linkOf f).aligned = true ∧ (u.linkOf f).since = 0) ∧
  (∀ (s : State) (l : Fin 32), s.on (R.LL_STATUS_AM_LOCK l) = true → (s.laneOf l).amMiss < 3 →
    (∀ f, s.linkAt l = some f → s.linkState f ≠ 4) → Answers (.amLost l) s fun t =>
    t.on (R.LL_STATUS_AM_LOCK l) = false ∧ (t.laneOf l).amMiss = 0 ∧
    t.get (R.AM_MISS_CNT_CNT l) = min (s.get (R.AM_MISS_CNT_CNT l) + (3 - (s.laneOf l).amMiss)) 65535 ∧
    ∀ f, s.linkAt l = some f → t.on (R.LINK_STATUS_AM_LOST f) = true) ∧
  (∀ (s : State) (l f : Fin 32), s.on (R.LL_STATUS_AM_LOCK l) = true → (s.laneOf l).amMiss < 3 → s.linkAt l = some f.val → 3 ≤ s.linkState f →
    Answers (.amLost l) s fun t => t.linkState f = 2) ∧
  (∀ (s : State) (l : Fin 32), s.on (R.LL_STATUS_AM_LOCK l) = false → Answers (.amLost l) s fun t => t = s) ∧
  (∀ (s : State) (f : Fin 32) (prev : BitVec 16) (rx : BitVec 5440) (ins del : Nat) (slip : Bool), 3 ≤ s.linkState f →
    (s.linkOf f).uncorr < 63 ∨ s.linkState f ≠ 4 → (s.linkLanes f).all s.laneLooped = false → rsDecode (s.mergeLanes f (s.linkBits f (s.rxLanes f prev.toNat rx.toNat))) = none →
    Answers (.codewordDecode f prev rx ins del slip) s fun t =>
      t.get (R.LINK_FEC_UNCORR_CNT f) = min (s.get (R.LINK_FEC_UNCORR_CNT f) + 1) (2 ^ 32 - 1) ∧
      t.get (R.BAD_BLOCK_CNT f) = min (s.get (R.BAD_BLOCK_CNT f) + 80) (2 ^ 32 - 1) ∧
      t.get (R.FILL_INS_CNT f) = (s.get (R.FILL_INS_CNT f) + ins) % 2 ^ 32 ∧ t.get (R.FILL_DEL_CNT f) = (s.get (R.FILL_DEL_CNT f) + del) % 2 ^ 32) ∧
  (∀ (s : State) (f : Fin 32) (prev : BitVec 16) (rx : BitVec 5440) (ins del : Nat) (slip : Bool), 3 ≤ s.linkState f → 63 ≤ (s.linkOf f).uncorr →
    (s.linkLanes f).all s.laneLooped = false → rsDecode (s.mergeLanes f (s.linkBits f (s.rxLanes f prev.toNat rx.toNat))) = none →
    Answers (.codewordDecode f prev rx ins del slip) s fun t => t.linkState f = 2) ∧
  (∀ (s : State) (f : Fin 32) (prev : BitVec 16) (rx : BitVec 5440) (ins del k : Nat) (cw : List Nat) (slip : Bool), 3 ≤ s.linkState f →
    (s.linkLanes f).all s.laneLooped = false → rsDecode (s.mergeLanes f (s.linkBits f (s.rxLanes f prev.toNat rx.toNat))) = some (k, cw) →
    Answers (.codewordDecode f prev rx ins del slip) s fun t => t.linkState f = s.linkState f ∧ (t.linkOf f).uncorr = 0 ∧
      (t.linkOf f).since = (s.linkOf f).since + 1 ∧ t.get (R.LINK_FEC_UNCORR_CNT f) = s.get (R.LINK_FEC_UNCORR_CNT f) ∧
      t.get (R.FILL_INS_CNT f) = (s.get (R.FILL_INS_CNT f) + ins) % 2 ^ 32 ∧ t.get (R.FILL_DEL_CNT f) = (s.get (R.FILL_DEL_CNT f) + del) % 2 ^ 32) ∧
  (∀ (s : State) (f : Fin 32) (prev : BitVec 16) (rx : BitVec 5440) (ins del k : Nat) (cw : List Nat), s.linkState f = 2 → (s.linkOf f).aligned = true →
    (s.linkOf f).since = 7 → k ≠ 0 → (s.linkLanes f).all s.laneLooped = false →
    rsDecode (s.mergeLanes f (s.linkBits f (s.rxLanes f prev.toNat rx.toNat))) = some (k, cw) → Answers (.codewordDecode f prev rx ins del false) s fun t =>
      t.get (R.FEC_CORR_CW_CNT f) = min (s.get (R.FEC_CORR_CW_CNT f) + 1) (2 ^ 32 - 1) ∧
      t.get (R.FEC_CORR_SYM_CNT f) = min (s.get (R.FEC_CORR_SYM_CNT f) + k) (2 ^ 32 - 1) ∧ t.linkState f = 3 ∧
      ∃ p ∈ (t.linkOf f).tx.queue, p.ptype = 6 ∧ p.payload.length = 16)

/-- R246 to R249, R307, R310: CTRL, messages and credits. -/
def Obligations.CtrlCommands : Prop :=
  (∀ (s : State) (f : Fin 32) (p : Packet) (e : Fin 2048) (q : Fin 16) (r : CtrlReq), (s.linkOf f).inbox.find? (isCtrl 2) = some p →
    s.sourceEp f p = some e.val → bitAt p.tspec 11 = (s.epOf e).epoch → (s.epOf e).resetting = false →
    (s.epOf e).out.find? (fun r => r.tag == p.tspec % 256) = some r → r.purpose = .port q → s.epPasses e = true →
    Answers (.rdata f) s fun t => (t.epOf e).out = (s.epOf e).out.erase r ∧ t.on (R.CP_RESULT_DONE q) = true ∧
      t.get (R.CP_RESULT_RSTATUS q) = bitsOf p.tspec 12 4 ∧ t.get (R.CP_RESULT_TAG q) = p.tspec % 256 ∧
      (t.linkOf f).inbox = (s.linkOf f).inbox.erase p) ∧
  (∀ (s : State) (f : Fin 32) (p : Packet) (e : Fin 2048) (q : Fin 16) (r : CtrlReq), (s.linkOf f).inbox.find? (isCtrl 3) = some p →
    s.sourceEp f p = some e.val → bitAt p.tspec 11 = (s.epOf e).epoch → (s.epOf e).resetting = false →
    (s.epOf e).out.find? (fun r => r.tag == p.tspec % 256) = some r → r.purpose = .port q → s.epPasses e = true →
    Answers (.wack f) s fun t => (t.epOf e).out = (s.epOf e).out.erase r ∧ t.on (R.CP_RESULT_DONE q) = true ∧
      t.get (R.CP_RESULT_RSTATUS q) = bitsOf p.tspec 12 4 ∧ t.get (R.CP_RESULT_TAG q) = p.tspec % 256 ∧
      (t.linkOf f).inbox = (s.linkOf f).inbox.erase p) ∧
  (∀ (s : State) (f : Fin 32) (p : Packet) (e : Fin 2048), (s.linkOf f).inbox.find? (isCtrl 2) = some p → s.sourceEp f p = some e.val →
    bitAt p.tspec 11 ≠ (s.epOf e).epoch → Answers (.rdata f) s fun t =>
      t.get (R.STALE_RSP_CNT_CNT f) = min (s.get (R.STALE_RSP_CNT_CNT f) + 1) 65535 ∧ t.eps = s.eps ∧
      ∀ a, a ≠ R.STALE_RSP_CNT f → t.reg a = s.reg a) ∧
  (∀ (s : State) (f : Fin 32) (p : Packet) (e : Fin 2048), (s.linkOf f).inbox.find? (isCtrl 4) = some p → s.sourceEp f p = some e.val →
    s.epPasses e = true → (s.epOf e).cutting = false → s.on (R.MF_CFG_EN e) = true →
    s.mfLevel e + (2 + (wordsOf p.payload).length + 7) / 8 ≤ s.get (R.MF_CFG_DEPTH e) → Answers (.msg f) s fun t =>
      ∃ w, (t.epOf e).items = (s.epOf e).items ++ [⟨w :: bitsOf (p.hdr.headD 0) 0 32 :: wordsOf p.payload⟩] ∧ w % 16 = 3 ∧
        w / 2 ^ 20 = p.payload.length ∧ ∀ a, a ≠ R.MF_STATUS e → t.reg a = s.reg a) ∧
  (∀ (s : State) (f : Fin 32) (p : Packet) (e : Fin 2048), (s.linkOf f).inbox.find? (·.ptype == 3) = some p → s.sourceEp f p = some e.val →
    s.epPasses e = true → (s.epOf e).cutting = false → s.on (R.MF_CFG_EN e) = true →
    s.mfLevel e + (4 + (wordsOf p.payload).length + 7) / 8 ≤ s.get (R.MF_CFG_DEPTH e) → Answers (.headEvent f) s fun t =>
      ∃ w, (t.epOf e).items = (s.epOf e).items ++
        [⟨w :: p.tspec % 256 :: bitsOf (p.hdr.headD 0) 0 32 :: bitsOf (p.hdr.headD 0) 32 32 :: wordsOf p.payload⟩] ∧ w % 16 = 4) ∧
  (∀ (s : State) (f : Fin 32) (p : Packet) (e : Fin 2048), (s.linkOf f).inbox.find? (·.ptype == 5) = some p → s.sourceEp f p = some e.val →
    bitAt p.tspec 8 = (s.epOf e).epoch → bitAt p.tspec 9 = false → (s.epOf e).resetting = false → (s.epOf e).wait = [] →
    Answers (.credit f) s fun t => t.regs = s.regs ∧
      t.epOf e = { s.epOf e with credits := min (s.get (R.EP_INFO_CREDITS e) + 1) ((s.epOf e).credits + p.tspec % 256) }) ∧
  (∀ (s : State) (e : Fin 2048) (tag : BitVec 8) (q : Fin 16) (r : CtrlReq), ((s.epOf e).out ++ (s.epOf e).wait).find? (fun r => r.tag == tag.toNat) = some r →
    r.purpose = .port q → Answers (.ctrlTimeout e tag) s fun t =>
      (t.epOf e).out = (s.epOf e).out.erase r ∧ (t.epOf e).resetting = true ∧ t.on (R.CP_RESULT_DONE q) = true ∧
      t.get (R.CP_RESULT_RSTATUS q) = 8 ∧ t.get (R.CP_RESULT_TAG q) = tag.toNat ∧
      t.get (R.CTRL_TIMEOUT_CNT_CNT (s.epLink e)) = min (s.get (R.CTRL_TIMEOUT_CNT_CNT (s.epLink e)) + 1) 65535) ∧
  (∀ (s : State) (who : Who) (f : Fin 32) (v : Word), s.hears who = true → bitAt v.toNat 4 = true → Answers (.creditReset who f v) s fun t =>
    t.on (R.LINK_CTRL_ECHO_EN f) = bitAt v.toNat 3 ∧ ∀ e ∈ s.epsOn f, (t.epOf e).resetting = true ∧ (t.epOf e).credits = 0)

/-- R250 to R254, R267, R272: link delay, positions, HELLO and rate agreement; and where the arrival of markers and codewords completes
in the plainest case (R230 to R232, R236), of which `Obligations.MarkerAndCodeCommands` says the rest. -/
def Obligations.LinkTimingCommands : Prop :=
  (∀ (s : State) (f : Fin 32) (p : Packet) (id t1 t4 : Nat), (s.linkOf f).inbox.find? (fun p => p.ptype == 4 && bitsOf p.tspec 0 4 == 3) = some p →
    (s.linkOf f).echoSent.find? (fun x => x.1 == bitsOf (p.hdr.headD 0) 0 16) = some (id, t1) → (s.linkOf f).delays = [] →
    Answers (.echoRsp f t4) s fun t => t.on (R.LINK_DELAY_VALID f) = true ∧
      t.get (R.LINK_DELAY_DELAY f) = (divRound (2 * (t4 - t1 - bitsOf (p.hdr.headD 0) 16 32 : Nat)) 4).toNat % 65536 ∧
      (t.linkOf f).delays = [t4 - t1 - bitsOf (p.hdr.headD 0) 16 32] ∧ (t.linkOf f).echoSent = (s.linkOf f).echoSent.erase (id, t1)) ∧
  (∀ (s : State) (f : Fin 32) (t1 : Nat), s.linkState f = 4 → s.on (R.LINK_CTRL_ECHO_EN f) = true → Answers (.echoReqTimer f t1) s fun t =>
    (t.linkOf f).echoes = (s.linkOf f).echoes + 1 ∧ t.regs = s.regs ∧ t.outs = s.outs ∧
    (t.linkOf f).echoSent = ((s.linkOf f).echoSent ++ [((s.linkOf f).echoes % 65536, t1)]).drop ((s.linkOf f).echoSent.length - 255) ∧
    (t.linkOf f).tx.queue = (s.linkOf f).tx.queue ++ [{ ptype := 4, loc := true, tspec := 2, hdr := [(s.linkOf f).echoes % 65536, 0] }]) ∧
  (∀ (s : State) (f : Fin 32), s.linkState f = 4 → s.on (R.TIME_POS_CFG_PERIOD f) = true → s.on (R.PARTNER_CAP_TIME_POS f) = true →
    Answers (.timePosTimer f) s fun t => t.regs = s.regs ∧ t.outs = s.outs ∧
      t.linkOf f = { s.linkOf f with tx := { (s.linkOf f).tx with queue := (s.linkOf f).tx.queue ++
        [{ ptype := 4, bcast := true, hdr := [s.viewPos (s.get (R.TIME_POS_CFG_VIEW f)) + s.get (R.TIME_POS_CFG_VIEW f) * 2 ^ 56, s.timeNs] }] } }) ∧
  (∀ (s : State) (f : Fin 32) (vendor : BitVec 32) (serial : BitVec 64) (p : Packet), (s.linkOf f).inbox.find? (·.ptype == 6) = some p →
    s.linkState f = 3 → bitAt (leAt p.payload 0 1) 1 = true → bitAt p.tspec 0 = false → (s.linkOf f).ackIn = false →
    Answers (.hello f vendor serial) s fun t => (t.linkOf f).heard = true ∧ (t.linkOf f).common = leAt p.payload 0 1 % 4 ∧ (t.linkOf f).vendor = vendor.toNat ∧
      (t.linkOf f).serial = serial.toNat ∧ t.get (R.LINK_STATUS_VER_MAJOR f) = 2 ∧ t.get (R.LINK_STATUS_VER_MINOR f) = 0 ∧ t.linkState f = 3 ∧
      t.get (R.PARTNER_CAP_ROLE f) = leAt p.payload 3 1 % 4 ∧ t.get (R.PARTNER_LAT_MIN_LAUNCH f) = leAt p.payload 8 2) ∧
  (∀ (s : State) (f : Fin 32) (vendor : BitVec 32) (serial : BitVec 64) (p : Packet), (s.linkOf f).inbox.find? (·.ptype == 6) = some p →
    s.linkState f = 3 → leAt p.payload 0 1 % 4 = 0 → Answers (.hello f vendor serial) s fun t =>
      t.on (R.LINK_STATUS_VER_ERR f) = true ∧ t.linkState f = 3) ∧
  (∀ (s : State) (f : Fin 32) (vendor : BitVec 32) (serial : BitVec 64) (p : Packet), (s.linkOf f).inbox.find? (·.ptype == 6) = some p →
    s.linkState f = 3 → leAt p.payload 0 1 % 4 ≠ 0 → bitAt p.tspec 0 = true → (s.linkOf f).ackOut = true → Answers (.hello f vendor serial) s fun t => t.linkState f = 4) ∧
  (∀ (s : State) (f : Fin 32), s.linkState f = 3 → (s.linkOf f).ackIn = true → (s.linkOf f).ackOut = true → Answers (.helloTimer f) s fun t => t = s) ∧
  (∀ (s : State) (f : Fin 32), s.linkState f = 3 → ((s.linkOf f).ackIn && (s.linkOf f).ackOut) = false → Answers (.helloTimer f) s fun t =>
    ∃ p ∈ (t.linkOf f).tx.queue, p.ptype = 6 ∧ p.loc = true ∧ p.tspec = (s.linkOf f).heard.toNat ∧ p.payload.length = 16) ∧
  (∀ (s : State) (who : Who) (f : Fin 32) (v : Word), s.hears who = true → bitAt v.toNat 2 = true → s.linkState f = 4 → Answers (.propose who f v) s fun t =>
    t.on (R.RATE_AGREE_ACCEPTED f) = false ∧ t.on (R.RATE_AGREE_REFUSED f) = false ∧ t.get (R.RATE_AGREE_RATE f) = bitsOf v.toNat 0 2 ∧
    ∃ p : Packet, p.ptype = 6 ∧ leAt p.payload 14 1 = bitsOf v.toNat 0 2 + 4 ∧ (t.linkOf f).tx.queue = (s.linkOf f).tx.queue ++ [p]) ∧
  (∀ (s : State) (l : Fin 32) (sym : BitVec 130) (t : Nat) (bip : BitVec 8), s.laneReady l = true → s.laneLooped l = false →
    markerValid (s.markerBits l sym.toNat) = true → s.linkAt l = none → ∃ u, exec (.amReceived l sym t bip) s = .next u ∧
      u.on (R.LL_STATUS_AM_LOCK l) = true ∧ (u.laneOf l).amMiss = 0 ∧ u.links = s.links) ∧
  (∀ (s : State) (l : Fin 32), s.on (R.LL_STATUS_AM_LOCK l) = true → (s.laneOf l).amMiss < 3 → s.linkAt l = none →
    ∃ t, exec (.amLost l) s = .next t ∧ t.on (R.LL_STATUS_AM_LOCK l) = false ∧ (t.laneOf l).amMiss = 0 ∧ t.links = s.links) ∧
  (∀ (s : State) (f : Fin 32) (prev : BitVec 16) (rx : BitVec 5440) (ins del : Nat) (cw : List Nat), s.linkState f = 2 → (s.linkOf f).aligned = true →
    (s.linkOf f).since ≠ 7 → (s.linkLanes f).all s.laneLooped = false →
    rsDecode (s.mergeLanes f (s.linkBits f (s.rxLanes f prev.toNat rx.toNat))) = some (0, cw) →
    ∃ t, exec (.codewordDecode f prev rx ins del false) s = .next t ∧ t.linkState f = 2 ∧ (t.linkOf f).since = (s.linkOf f).since + 1 ∧
      t.get (R.FILL_INS_CNT f) = (s.get (R.FILL_INS_CNT f) + ins) % 2 ^ 32 ∧ t.get (R.FILL_DEL_CNT f) = (s.get (R.FILL_DEL_CNT f) + del) % 2 ^ 32)

/-- R242, R243, R255, R256, R259 to R264, R269, R302: hubs, triggers and segments (the lane clock of a launch: assumption 112). -/
def Obligations.TriggerAndStreamCommands : Prop :=
  (∀ (s : State) (f : Fin 32) (vendor : BitVec 32) (serial : BitVec 64) (p : Packet) (e : Fin 2048),
    (s.linkOf f).inbox.find? (fun p => p.ptype == 7 && p.tspec % 16 == 0) = some p → bitsOf (p.hdr.headD 0) 0 6 ≠ 0 → bitAt (p.hdr.headD 0) 6 = true →
    (s.epsOn f).find? (fun e => s.get (R.EP_INFO_SLOT e) == bitsOf (p.hdr.headD 0) 0 6 && s.on (R.EP_INFO_BEHIND_HUB e) && s.epState e != 3) = some e.val →
    Answers (.portStatus f vendor serial) s fun t => t.get (R.EP_PATH_BUDGET e) = bitsOf (p.hdr.headD 0) 16 16 ∧
      t.on (R.EP_INFO_DET_TRIG e) = bitAt (p.hdr.headD 0) 7 ∧ t.get (R.EP_INFO_CREDITS e) = bitsOf (p.hdr.headD 0) 9 4 ∧
      t.on (R.EP_INFO_IS_HUB e) = bitAt (p.hdr.headD 0) 8 ∧ t.epState e = s.epState e) ∧
  (∀ (s : State) (f : Fin 32) (vendor : BitVec 32) (serial : BitVec 64) (p : Packet),
    (s.linkOf f).inbox.find? (fun p => p.ptype == 7 && p.tspec % 16 == 0) = some p → bitsOf (p.hdr.headD 0) 0 6 ≠ 0 → bitAt (p.hdr.headD 0) 6 = false →
    (s.epsOn f).find? (fun e => s.get (R.EP_INFO_SLOT e) == bitsOf (p.hdr.headD 0) 0 6 && s.on (R.EP_INFO_BEHIND_HUB e) && s.epState e != 3) = none →
    Answers (.portStatus f vendor serial) s fun t => t.regs = s.regs ∧ t.eps = s.eps ∧
      t.enrolQ = s.enrolQ.filter fun n => !(n.link == f.val && n.slot == bitsOf (p.hdr.headD 0) 0 6)) ∧
  (∀ (s : State) (f : Fin 32) (p : Packet) (d : Fin 4096), (s.linkOf f).inbox.find? (fun p => p.ptype == 7 && p.tspec % 16 == 3) = some p →
    s.descs.find? (fun d => s.running d && s.get (R.SD_BIND_EP d) == bitsOf (p.hdr.getD 0 0) 0 11 &&
      s.get (R.SD_BIND_STREAM d) == bitsOf (p.hdr.getD 0 0) 12 4) = some d.val → (s.streamOf d).expect = some (bitsOf (p.hdr.getD 0 0) 16 32) →
    Answers (.drop f) s fun t => t.streamOf d = { s.streamOf d with expect := some ((bitsOf (p.hdr.getD 1 0) 0 32 + 1) % 2 ^ 32) } ∧
      t.get (R.SD_LOSS_CNT_CNT d) = min (s.get (R.SD_LOSS_CNT_CNT d) +
        (unsigned 32 ((bitsOf (p.hdr.getD 1 0) 0 32 : Int) - bitsOf (p.hdr.getD 0 0) 16 32) + 1)) (2 ^ 32 - 1)) ∧
  (∀ (s : State) (f : Fin 32) (i : Fin 8) (tx bnd : Nat) (q : TrigReq), (s.trigOf f i).wait = some q → s.detTrig f = true →
    s.trigBehind f i q = false →
    (s.launchFloor f (s.get (R.TRIG_CTRL_GROUP f i)) : Int) ≤ 4 * s.get (R.TRIG_LAT_NS f i) - tx - s.get (R.LINK_DELAY_DELAY f) →
    Answers (.trigLaunch f i tx bnd) s fun t => t.regs = s.regs ∧
      t.trigOf f i = { wait := none, recs := (⟨q.seq, q.pos, 0, q.pset⟩ :: (s.trigOf f i).recs).take 4096 } ∧
      .trig f (trigPayload (s.get (R.TRIG_CTRL_GROUP f i)) q.pset q.seq
        (4 * s.get (R.TRIG_LAT_NS f i) - tx - s.get (R.LINK_DELAY_DELAY f))) tx ∈ t.outs.drop s.outs.length ∧
      (t.linkOf f).tx.trigs = (s.linkOf f).tx.trigs ++ [trigPayload (s.get (R.TRIG_CTRL_GROUP f i)) q.pset q.seq
        (4 * s.get (R.TRIG_LAT_NS f i) - tx - s.get (R.LINK_DELAY_DELAY f))] ∧
      { ptype := 4, tspec := 1, hdr := [q.pos + s.get (R.TRIG_CTRL_GROUP f i) * 2 ^ 56, q.seq] } ∈ (t.linkOf f).tx.queue) ∧
  (∀ (s : State) (f : Fin 32) (i : Fin 8) (tx bnd : Nat) (q : TrigReq), (s.trigOf f i).wait = some q →
    (s.detTrig f = false ∧ (tx : Int) < s.trigTarget f i) ∨ s.trigBehind f i q = true → Answers (.trigLaunch f i tx bnd) s fun t => t = s) ∧
  (∀ (s : State) (f : Fin 32) (i : Fin 8) (tx bnd : Nat) (q : TrigReq), (s.trigOf f i).wait = some q → s.detTrig f = false →
    s.trigBehind f i q = false → s.trigTarget f i + ((bnd : Int) - s.trigTarget f i) % s.blockTime f < tx →
    Answers (.trigLaunch f i tx bnd) s fun t => t.on (R.TRIG_STATUS_LATE f i) = true ∧
      t.get (R.TRIG_LATE_CNT_CNT f i) = min (s.get (R.TRIG_LATE_CNT_CNT f i) + 1) (2 ^ 32 - 1) ∧
      t.trigOf f i = { wait := none, recs := (⟨q.seq, q.pos,
        min ((tx : Int) - (s.trigTarget f i + ((bnd : Int) - s.trigTarget f i) % s.blockTime f)).toNat 65535, q.pset⟩ :: (s.trigOf f i).recs).take 4096 }) ∧
  (∀ (s : State) (who : Who) (f : Fin 32) (i : Fin 8) (v : Word), s.hears who = true → s.on (R.TRIG_CTRL_EN f i) = false → bitAt v.toNat 0 = true → s.linkState f = 4 →
    s.on (R.LINK_DELAY_VALID f) = true → s.detTrig f = false → s.minLat f i ≤ s.get (R.TRIG_LAT_NS f i) →
    Answers (.trigCtrlWrite who f i v) s fun t => t.on (R.TRIG_CTRL_EN f i) = true ∧ t.get (R.TRIG_CTRL_GROUP f i) = bitsOf v.toNat 8 8 ∧
      t.get (R.TRIG_CTRL_DEF_PSET f i) = bitsOf v.toNat 16 8 ∧ t.get (R.TRIG_CTRL_VIEW f i) = bitsOf v.toNat 24 3 ∧
      t.on (R.TRIG_STATUS_RUNNING f i) = true) ∧
  (∀ (s : State) (who : Who) (f : Fin 32) (i : Fin 8) (v : Word), s.hears who = true → s.on (R.TRIG_CTRL_EN f i) = false → bitAt v.toNat 0 = true → s.linkState f ≠ 4 →
    Answers (.trigCtrlWrite who f i v) s fun t => t.on (R.TRIG_CTRL_EN f i) = false ∧ t.on (R.TRIG_STATUS_BUDGET_ERR f i) = true) ∧
  (∀ (s : State) (f : Fin 32) (p : Packet), (s.linkOf f).inbox.find? (·.ptype == 1) = some p → s.sourceEp f p = none →
    Answers (.streamRx f) s fun t => t.get (R.NO_EP_CNT_CNT f) = min (s.get (R.NO_EP_CNT_CNT f) + 1) (2 ^ 32 - 1) ∧
      (t.linkOf f).asm = (s.linkOf f).asm) ∧
  (∀ (s : State) (f : Fin 32) (p : Packet) (e : Fin 2048) (d : Fin 4096), (s.linkOf f).inbox.find? (·.ptype == 1) = some p →
    s.sourceEp f p = some e.val → s.epState e = 2 → s.epPasses e = true →
    (s.descsOfEp e).find? (fun d => s.running d && s.get (R.SD_BIND_STREAM d) == p.tspec % 16) = some d.val →
    s.on (R.SD_CTRL_TILE d) = false → bitAt p.tspec 4 = false → bitAt p.tspec 7 = false → bitsOf (p.hdr.getD 2 0) 0 16 = 0 →
    bitsOf (p.hdr.getD 2 0) 16 16 ≠ 0 → bitsOf (p.hdr.getD 2 0) 16 16 ≤ 32768 → bitsOf (p.hdr.getD 2 0) 16 16 ≤ s.get (R.SD_GEOM_WIDTH d) →
    bitsOf (p.hdr.getD 2 0) 32 16 = 0 → bitsOf (p.hdr.getD 2 0) 48 16 = 1 → p.payload.length = s.rowBytes d (bitsOf (p.hdr.getD 2 0) 16 16) →
    (s.linkOf f).asm.all (fun y => !(y.desc == d && y.line == bitsOf (p.hdr.getD 1 0) 0 32)) = true →
    Answers (.streamRx f) s fun t => t.regs = s.regs ∧ ∃ y : Line, (t.linkOf f).asm = (s.linkOf f).asm ++ [y] ∧ y.desc = d.val ∧
      y.line = bitsOf (p.hdr.getD 1 0) 0 32 ∧ y.trigPos = bitsOf (p.hdr.getD 0 0) 0 56 ∧ y.size = p.payload.length ∧ y.rows.length = 1)

/-- R246, R279, R288, R292 to R294: the endpoint table and the CTRL ports. -/
def Obligations.EndpointCommands : Prop :=
  (∀ (s : State) (who : Who) (e : Fin 2048) (v : Word), s.hears who = true → bitAt v.toNat 1 = true → s.epState e = 3 → Answers (.forget who e v) s fun t =>
    t.epState e = 0 ∧ t.epOf e = (s.epOf e).freed ∧ t.on (R.EP_STATUS_DUP_SERIAL e) = false ∧ t.get R.EPT_COUNT_LOST = s.get R.EPT_COUNT_LOST - 1 ∧
    t.on (R.EP_CTRL_AUTO_RESTART e) = bitAt v.toNat 0) ∧
  (∀ (s : State), s.skepRuns = true → s.on R.HEALTH_CFG_PERIOD = true → Answers .healthPoll s fun t => t.regs = s.regs ∧
    ∀ e ∈ s.eps.keys, s.epState e = 2 → ∃ r ∈ (t.epOf e).out ++ (t.epOf e).wait,
      r.purpose = .health ∧ r.write = false ∧ r.addr = 0x40 ∧ r.words = 1) ∧
  (∀ (s : State) (who : Who) (e : Fin 2048) (k : Fin 16) (v : Word), s.hears who = true → (s.descsOfEp e).any s.running = false →
    (Answers (.psetWrite who e k false v) s fun t => t.get (R.PSET_EXP_NS e k) = v.toNat ∧ (t.epOf e).psetDirty = true ∧
      ∀ a, a ≠ R.PSET_EXP e k → t.reg a = s.reg a) ∧
    Answers (.psetWrite who e k true v) s fun t => t.get (R.PSET_CFG_GAIN e k) = v.toNat % 65536 ∧ (t.epOf e).psetDirty = true ∧
      ∀ a, a ≠ R.PSET_CFG e k → t.reg a = s.reg a) ∧
  (∀ (s : State) (who : Who) (e : Fin 2048) (k : Fin 16) (cfg : Bool) (v : Word), s.hears who = true → (s.descsOfEp e).any s.running = true →
    Answers (.psetWrite who e k cfg v) s fun t => t.on (R.EP_STATUS_PSET_REJ e) = true ∧ OnlyRegs s t [R.EP_STATUS e]) ∧
  (∀ (s : State) (who : Who) (p : Fin 16) (v : Word), s.hears who = true → bitAt v.toNat 0 = true → s.on (R.CP_RESULT_DONE p) = false →
    Answers (.cpGo who p v) s fun t => t.on (R.CP_RESULT_CMD_IGN p) = true ∧ OnlyRegs s t [R.CP_RESULT p]) ∧
  (∀ (s : State) (who : Who) (p : Fin 16) (v : Word) (st : Nat), s.hears who = true → bitAt v.toNat 0 = true → s.on (R.CP_RESULT_DONE p) = true →
    s.cpRefusal (s.get (R.CP_EP_EP p)) (s.get (R.CP_ADDR_ADDR p)) (s.get (R.CP_REQ_WORDS p)) = some st →
    Answers (.cpGo who p v) s fun t => t.get (R.CP_RESULT_RSTATUS p) = st ∧ t.on (R.CP_RESULT_DONE p) = true ∧
      t.get (R.CP_RESULT_TAG p) = (s.epOf (s.get (R.CP_EP_EP p))).nextTag % 256 ∧
      t.epOf (s.get (R.CP_EP_EP p)) = { s.epOf (s.get (R.CP_EP_EP p)) with nextTag := ((s.epOf (s.get (R.CP_EP_EP p))).nextTag + 1) % 256 } ∧
      ∀ a, a ≠ R.CP_RESULT p → t.reg a = s.reg a) ∧
  (∀ (s : State) (who : Who) (p : Fin 16) (v : Word), s.hears who = true → bitAt v.toNat 0 = true → s.on (R.CP_RESULT_DONE p) = true →
    s.cpRefusal (s.get (R.CP_EP_EP p)) (s.get (R.CP_ADDR_ADDR p)) (s.get (R.CP_REQ_WORDS p)) = none →
    Answers (.cpGo who p v) s fun t => t.on (R.CP_RESULT_DONE p) = false ∧ (∀ a, a ≠ R.CP_RESULT p → t.reg a = s.reg a) ∧
      ∃ r ∈ (t.epOf (s.get (R.CP_EP_EP p))).out ++ (t.epOf (s.get (R.CP_EP_EP p))).wait, r.purpose = .port p ∧
        r.write = s.on (R.CP_REQ_OP p) ∧ r.addr = s.get (R.CP_ADDR_ADDR p) ∧ r.words = s.get (R.CP_REQ_WORDS p) ∧
        r.tag = (s.epOf (s.get (R.CP_EP_EP p))).nextTag)

/-- R300, R301, R305, R308, R309, R311, R312, R551, R556: descriptors and message FIFOs. -/
def Obligations.DescriptorAndFifoCommands : Prop :=
  (∀ (s : State) (who : Who) (d : Fin 4096) (v : Word), s.hears who = true → s.on (R.SD_CTRL_EN d) = true → Answers (.descEnable who d v) s fun t =>
    t.on (R.SD_STATUS_DESC_REJ d) = true ∧ OnlyRegs s t [R.SD_STATUS d]) ∧
  (∀ (s : State) (who : Who) (d : Fin 4096) (v : Word), s.hears who = true → s.on (R.SD_CTRL_EN d) = false → s.epState (s.get (R.SD_BIND_EP d)) ≠ 2 →
    Answers (.descEnable who d v) s fun t => t.get (R.SD_STATUS_ADMIT_ERR d) = 4 ∧ t.on (R.SD_CTRL_EN d) = false ∧
      OnlyRegs s t [R.SD_CTRL d, R.SD_STATUS d, R.SD_LOAD d]) ∧
  (∀ (s : State) (who : Who) (d : Fin 4096) (v : Word), s.hears who = true → s.skepRuns = true → s.on (R.SD_CTRL_EN d) = false → bitAt v.toNat 0 = true →
    ((s.writeReg (R.SD_CTRL d) v).clear (R.SD_CTRL_EN d)).admitErr d = 0 → Answers (.descEnable who d v) s fun t =>
      t.on (R.SD_CTRL_EN d) = true ∧ t.get (R.SD_STATUS_ADMIT_ERR d) = 0 ∧ t.on (R.SD_CTRL_TILE d) = bitAt v.toNat 2 ∧
      ∃ r ∈ (t.epOf (s.get (R.SD_BIND_EP d))).out ++ (t.epOf (s.get (R.SD_BIND_EP d))).wait, r.purpose = .stream d true true ((s.streamOf d).starts + 1) ∧ r.write = true ∧
        r.addr = 0x100 + s.get (R.SD_BIND_STREAM d) * 16) ∧
  (∀ (s : State) (who : Who) (d : Fin 4096) (v : Word), s.hears who = true → s.on (R.SD_CTRL_EN d) = true → Answers (.descDisable who d v) s fun t =>
    t.on (R.SD_CTRL_EN d) = false ∧ t.on (R.SD_STATUS_RUNNING d) = false ∧ t.streamOf d = { starts := (t.streamOf d).starts }) ∧
  (∀ (s : State) (who : Who) (d : Fin 4096) (v : Word), s.hears who = true → s.on (R.SD_CTRL_EN d) = false → Answers (.descDisable who d v) s fun t =>
    t.on (R.SD_CTRL_EN d) = false ∧ t.on (R.SD_CTRL_RAW_RING d) = bitAt v.toNat 1 ∧ t.on (R.SD_CTRL_TILE d) = bitAt v.toNat 2 ∧
    OnlyRegs s t [R.SD_CTRL d]) ∧
  (∀ (s : State) (who : Who) (e : Fin 2048) (v : Word), s.hears who = true → s.on (R.MF_CFG_EN e) = false → 9 ≤ bitsOf v.toNat 16 11 → bitsOf v.toNat 16 11 ≤ 1024 →
    bitsOf v.toNat 16 11 ≤ s.get R.MF_POOL_FREE_WORDS + s.get (R.MF_CFG_DEPTH e) → bitsOf v.toNat 16 11 ≠ s.get (R.MF_CFG_DEPTH e) →
    Answers (.mfCfgWrite who e v) s fun t => t.get (R.MF_CFG_DEPTH e) = bitsOf v.toNat 16 11 ∧ t.on (R.MF_CFG_EN e) = bitAt v.toNat 0 ∧
      t.get (R.MF_CFG_RING e) = bitsOf v.toNat 8 8 ∧
      t.get R.MF_POOL_FREE_WORDS = (s.get R.MF_POOL_FREE_WORDS + s.get (R.MF_CFG_DEPTH e) - bitsOf v.toNat 16 11) % 2 ^ 17 ∧
      OnlyRegs s t [R.MF_CFG e, R.MF_POOL_FREE]) ∧
  (∀ (s : State) (who : Who) (e : Fin 2048) (v : Word), s.hears who = true → s.on (R.MF_CFG_EN e) = true → bitsOf v.toNat 16 11 ≠ s.get (R.MF_CFG_DEPTH e) →
    Answers (.mfCfgWrite who e v) s fun t => t.on (R.MF_STATUS_DEPTH_REJ e) = true ∧ t.get (R.MF_CFG_DEPTH e) = s.get (R.MF_CFG_DEPTH e) ∧
      OnlyRegs s t [R.MF_CFG e, R.MF_STATUS e]) ∧
  (∀ (s : State) (who : Who) (e : Fin 2048) (cut : Bool) (v : Word), s.hears who = true → bitAt v.toNat 0 = true → Answers (.flush who e cut v) s fun t =>
    (t.epOf e).items = [] ∧ t.get (R.MF_STATUS_LEVEL e) = 0 ∧ (cut = true → (t.epOf e).cutting = true ∧ t.on (R.MF_STATUS_FLUSH_CUT e) = true ∧
      t.get (R.MF_CUT_CNT_CNT e) = min (s.get (R.MF_CUT_CNT_CNT e) + 1) 65535) ∧
    ∀ a, a ≠ R.MF_STATUS e → a ≠ R.MF_CUT_CNT e → t.reg a = s.reg a) ∧
  (∀ (s : State) (e : Fin 2048) (m : MsgItem) (rest : List MsgItem), (s.epOf e).items = m :: rest → s.on (R.RING_CTRL_EN (s.get (R.MF_CFG_RING e))) = true →
    s.queued < 65536 → (s.ringQueue (s.get (R.MF_CFG_RING e))).length + 3 ≤ s.ringFree (s.get (R.MF_CFG_RING e)) →
    Answers (.msgRecordTake e 0) s fun t => (t.epOf e).items = rest ∧
      ∃ x : WRec, t.ringQueue (s.get (R.MF_CFG_RING e)) = s.ringQueue (s.get (R.MF_CFG_RING e)) ++ [x] ∧ x.type = 6 ∧ x.hflags = 0 ∧
        x.body = .bytes (m.words.flatMap (leBytes 4)) ∧ x.clk = s.clk)

/-- R320, R322 to R324, R327, R331, R334, R339: frames and edges. -/
def Obligations.ChainFrameCommands : Prop :=
  (∀ (s : State) (n : Fin 8) (resps : List (BitVec 32)) (marker : _) (rest : List LFrame), (s.chainOf n).queue = .nop :: rest →
    (s.chainOf n).held = none → (s.chainOf n).prev = none → s.unitState (chainUnit n) ≠ .stopping →
    Answers (.chainFrameDone n resps marker) s fun t => t.regs = s.regs ∧
      t.chainOf n = { s.chainOf n with queue := rest, prev := some .nop, latchDue := false } ∧
      t.outs = s.outs ++ [.chainFrame n (s.slotsOf n .nop marker), .chainLatch n]) ∧
  (∀ (s : State) (n : Fin 8) (resps : List (BitVec 32)) (rest : List LFrame), (s.chainOf n).queue = .length :: rest → (s.chainOf n).held = none →
    s.unitState (chainUnit n) ≠ .stopping →
    (Answers (.chainFrameDone n resps none) s fun t => t.get (R.LING_CH_STATE_CAUSE n) = 1 ∧ (t.chainOf n).queue = [] ∧
      t.unitState (chainUnit n) = .fault) ∧
    (∀ k : Fin 33, Answers (.chainFrameDone n resps (some (k, false))) s fun t => t.get (R.LING_CH_STATE_CAUSE n) = 2 ∧
      (t.chainOf n).queue = [] ∧ t.unitState (chainUnit n) = .fault) ∧
    (∀ k : Fin 33, k.val ≠ 0 → Answers (.chainFrameDone n resps (some (k, true))) s fun t => t.get (R.LING_CH_STATE_DRIVERS n) = k ∧
      (t.chainOf n).queue = (List.range 1024).map .rdId ++ [.nop] ∧ ∀ a, a ≠ R.LING_CH_STATE n → t.reg a = s.reg a)) ∧
  (∀ (s : State) (n : Fin 8) (resps : List (BitVec 32)) (marker : _) (rest : List LFrame) (m : LCommit), (s.chainOf n).queue = .commit :: rest →
    (s.chainOf n).held = none → (s.chainOf n).prev = none → (s.chainOf n).commit = some m → m.now = true → m.steps ≤ m.step →
    s.unitState (chainUnit n) ≠ .stopping →
    Answers (.chainFrameDone n resps marker) s fun t => (t.chainOf n).active = (s.chainOf n).shadow ∧ (t.chainOf n).commit = none ∧
      (t.chainOf n).row = 0 ∧ t.get (R.LING_CH_STATE_ACTIVE_SET n) = m.set % 2 ∧ t.on (R.LING_CH_STATE_COMMIT_PEND n) = false) ∧
  (∀ (s : State) (n : Fin 8) (at' r w : Nat) (rest : List (Nat × LEdge)), (s.chainOf n).edges = (at', .rowUp r w) :: rest →
    Answers (.burstRowEdge n) s fun t => (t.chainOf n).edges = rest ∧ (t.chainOf n).enable = true ∧ t.regs = s.regs ∧
      t.outs = s.outs ++ (if (s.chainOf n).enable then [] else [.chainEnable n true])) ∧
  (∀ (s : State) (n : Fin 8) (at' : Nat) (rest : List (Nat × LEdge)), (s.chainOf n).edges = (at', .stepDown) :: rest → (s.chainOf n).latchDue = false →
    Answers (.burstRowEdge n) s fun t => (t.chainOf n).edges = rest ∧ (t.chainOf n).enable = false ∧ t.regs = s.regs ∧
      (t.chainOf n).row = (s.chainOf n).row + 1)

/-- R24, R318, R334, R337 to R340, R342, R343, R346, R348: lighting. -/
def Obligations.LightingCommands : Prop :=
  (∀ (s : State) (who : Who) (n : Fin 8) (v : Word), s.hears who = true → bitAt v.toNat 0 = true → s.on (R.LING_CH_STATE_COMMIT_PEND n) = true →
    Answers (.commitCtrlGo who n v) s fun t => t.on (R.LING_CH_STATUS_COMMIT_BUSY n) = true ∧ OnlyRegs s t [R.COMMIT_CTRL n, R.LING_CH_STATUS n]) ∧
  (∀ (s : State) (who : Who) (n : Fin 8) (v : Word), s.hears who = true → bitAt v.toNat 0 = true → s.on (R.LING_CH_STATE_COMMIT_PEND n) = false →
    s.unitOn (chainUnit n) = false →
    Answers (.commitCtrlGo who n v) s fun t => t.on (R.LING_CH_STATUS_CFG_REJ n) = true ∧ OnlyRegs s t [R.COMMIT_CTRL n, R.LING_CH_STATUS n]) ∧
  (∀ (s : State) (who : Who) (n : Fin 8) (v : Word), s.hears who = true → bitAt v.toNat 0 = true → bitAt v.toNat 2 = true → bitsOf v.toNat 8 8 = 0 →
    s.on (R.LING_CH_STATE_COMMIT_PEND n) = false → s.unitOn (chainUnit n) = true → (s.place n (s.codeOf n (bitsOf v.toNat 1 1))).fits = true →
    (s.place n (s.codeOf n (bitsOf v.toNat 1 1))).maxPulses = [] →
    s.burstSpan n (if s.on (R.LING_CH_CTRL_BURST n) then (s.place n (s.codeOf n (bitsOf v.toNat 1 1))).rowsUsed else 1) (s.get (R.GEN_CTRL_WIDTH n)) ≤
      s.get (R.CH_BURST_BURST_MAX n) →
    Answers (.commitCtrlGo who n v) s fun t => t.on (R.LING_CH_STATE_COMMIT_PEND n) = true ∧
      (t.chainOf n).shadow = (s.place n (s.codeOf n (bitsOf v.toNat 1 1))).drive ∧
      (∃ fs, (t.chainOf n).queue = (s.chainOf n).queue ++ fs ++ [.commit]) ∧ (t.chainOf n).commit.isSome = true) ∧
  (∀ (s : State) (n : Fin 8), s.on (R.GEN_CTRL_GEN_EN n) = true → (s.chainOf n).genStall = true → Answers (.genRetry n) s fun t =>
    (t.chainOf n).genStall = false ∧ (t.chainOf n).genAsked = true ∧
    ∃ r : PReq, t.peWaiting .ling = s.peWaiting .ling ++ [r] ∧ r.insert = true ∧ r.tag = lingTag 1 n) ∧
  (∀ (s : State) (n : Fin 8), Answers (.dutyWindowEnd n) s fun t => t.chainOf n = { s.chainOf n with duty := [] } ∧ t.regs = s.regs ∧
    ∀ k, k ≠ n.val → t.chainOf k = s.chainOf k) ∧
  (∀ (s : State) (n : Fin 8), s.unitOn (chainUnit n) = true → (∀ f ∈ (s.chainOf n).queue, ∀ k, f ≠ .status k) → Answers (.diagStatusPoll n) s fun t =>
    t.chainOf n = { s.chainOf n with queue := (s.chainOf n).queue ++ [.status 0, .status 1, .status 2, .nop] } ∧ t.regs = s.regs) ∧
  (∀ (s : State) (n : Fin 8) (d : Fin 32) (c : Fin 16), s.carries n d c = true → bitAt (s.get (R.UNVER_UNVERIFIED n d)) c = false →
    Answers (.unverified n d c) s fun t => t.get (R.UNVER_UNVERIFIED n d) = s.get (R.UNVER_UNVERIFIED n d) ||| 2 ^ c.val ∧
      t.on (R.LING_CH_STATUS_UNVERIFIED n) = true) ∧
  (∀ (s : State) (who : Who) (n : Fin 8) (v : Word), s.hears who = true → who ≠ .fn0 → bitAt v.toNat 0 = true → Answers (.cutClr who n v) s fun t =>
    t.on (R.LING_CH_STATE_CUT n) = false ∧ OnlyRegs s t [R.LING_CH_STATE n]) ∧
  (∀ (s : State) (n : Fin 8) (v : Word), s.hears .fn0 = true → Answers (.cutClr .fn0 n v) s fun t =>
    t.on (R.LING_CH_STATUS_CFG_REJ n) = true ∧ OnlyRegs s t [R.LING_CH_STATUS n]) ∧
  (∀ (s : State) (n : Fin 8) (h : LHead), s.skepRuns = true → s.on (R.LING_CH_STATE_LATCHED n) = false → s.unitOn (chainUnit n) = true →
    (s.chainOf n).heads = [h] → h.mode = 0 → s.doseInhibited n 0 h = false →
    Answers (.doseWriteback n) s fun t => t.regs = s.regs ∧ (t.chainOf n).heads = [{ h with deferred := false }] ∧
      ∃ fs, (t.chainOf n).queue = (s.chainOf n).queue ++ fs ++ [.nop] ∧ fs.length = (bankWords ((s.chainOf n).settled h) (s.chainOf n).dose).2.length) ∧
  (∀ (s : State) (n : Fin 8) (h : LHead), s.skepRuns = true → s.on (R.LING_CH_STATE_LATCHED n) = false → s.unitOn (chainUnit n) = true →
    (s.chainOf n).heads = [h] → h.mode = 0 → s.doseInhibited n 0 h = true →
    Answers (.doseWriteback n) s fun t => (t.chainOf n).heads = [{ h with deferred := true }] ∧ (t.chainOf n).queue = (s.chainOf n).queue ∧
      t.on (R.LING_CH_STATUS_DOSE_DEFER n) = true ∧ ∀ a, a ≠ R.LING_CH_STATUS n → t.reg a = s.reg a) ∧
  (∀ (s : State) (n : Fin 8) (h : LHead), s.skepRuns = true → s.on (R.LING_CH_STATE_LATCHED n) = false → s.unitOn (chainUnit n) = true →
    (s.chainOf n).heads = [h] → h.mode = 0 → h.deferred = true →
    s.doseInhibited n 0 h = false → Answers (.doseRetry n) s fun t => t.regs = s.regs ∧ (t.chainOf n).heads = [{ h with deferred := false }] ∧
      ∃ fs, (t.chainOf n).queue = (s.chainOf n).queue ++ fs ++ [.nop] ∧ fs.length = (bankWords ((s.chainOf n).settled h) (s.chainOf n).dose).2.length) ∧
  (∀ (s : State) (n : Fin 8), s.skepRuns = true → s.on (R.LING_CH_STATE_LATCHED n) = true →
    (Answers (.doseWriteback n) s fun t => t = s) ∧ Answers (.doseRetry n) s fun t => t = s) ∧
  (∀ (s : State) (n : Fin 8), s.skepRuns = false → s.unitOn (chainUnit n) = true →
    (Answers (.doseWriteback n) s fun t => .dose n false false ∈ t.skep.todo ∧
      t = { s with skep := { s.skep with todo := if s.skep.todo.contains (.dose n false false) then s.skep.todo else s.skep.todo ++ [.dose n false false] } }) ∧
    Answers (.doseRetry n) s fun t => .dose n true false ∈ t.skep.todo ∧
      t = { s with skep := { s.skep with todo := if s.skep.todo.contains (.dose n true false) then s.skep.todo else s.skep.todo ++ [.dose n true false] } }) ∧
  (∀ (s : State) (who : Who) (n : Fin 8) (v : Word), s.hears who = true → s.unitOff (chainUnit n) = true → Answers (.chainCfgWrite who n v) s fun t =>
    t.get (R.LING_CH_CTRL_CLK_DIV n) = bitsOf v.toNat 8 8 ∧ t.get (R.LING_CH_CTRL_RET_DELAY n) = bitsOf v.toNat 16 8 ∧
    t.get (R.LING_CH_CTRL_CURVE n) = bitsOf v.toNat 1 2 ∧ t.on (R.LING_CH_CTRL_BURST n) = bitAt v.toNat 4 ∧ OnlyRegs s t [R.LING_CH_CTRL n]) ∧
  (∀ (s : State) (who : Who) (n : Fin 8) (v : Word), s.hears who = true → s.unitOff (chainUnit n) = false →
    Answers (.chainCfgWrite who n v) s fun t => t.on (R.LING_CH_STATUS_CFG_REJ n) = true ∧
      t.get (R.LING_CH_CTRL_CLK_DIV n) = s.get (R.LING_CH_CTRL_CLK_DIV n) ∧
      t.get (R.LING_CH_CTRL_RET_DELAY n) = s.get (R.LING_CH_CTRL_RET_DELAY n) ∧ OnlyRegs s t [R.LING_CH_CTRL n, R.LING_CH_STATUS n])

/-- R358 to R361, R363, R370, R377: layout and rings. -/
def Obligations.CreelRingCommands : Prop :=
  (∀ (s : State) (who : Who) (k : Fin 3) (v : Word), s.hears who = true → s.allocated.isEmpty = true → (∀ i, i < 16 → s.on (R.ACT_WIN_CFG_EN i) = false) →
    (k.val = 0 → bitsOf v.toNat 0 20 ≤ 262144) → 0 ≤ (s.set (layoutFld k) (bitsOf v.toNat 0 20)).histQuota →
    Answers (.layoutWrite who k v) s fun t => t.get (layoutFld k) = bitsOf v.toNat 0 20 ∧
      (t.get R.HIST_QUOTA_SEGS : Int) = 786432 - 2048 - t.get R.HOSTWIN_SEGS_SEGS - t.get R.REF_QUOTA_SEGS - t.get R.WORK_QUOTA_SEGS ∧
      t.get R.FREE_HIST_SEGS = t.get R.HIST_QUOTA_SEGS ∧ t.get R.FREE_REF_SEGS = t.get R.REF_QUOTA_SEGS ∧
      t.get R.FREE_WORK_SEGS = t.get R.WORK_QUOTA_SEGS) ∧
  (∀ (s : State) (who : Who) (k : Fin 3) (v : Word), s.hears who = true → s.allocated.isEmpty = false → Answers (.layoutWrite who k v) s fun t =>
    t.on R.MEM_STATUS_LAYOUT_REJ = true ∧ OnlyRegs s t [R.MEM_STATUS]) ∧
  (∀ (s : State) (who : Who) (v : Word), s.hears who = true → bitsOf v.toNat 0 20 ≤ 786431 → Answers (.segQuery who v) s fun t =>
    t.get R.SEG_INFO_REGION = (s.segInfo (bitsOf v.toNat 0 20)).1 % 16 ∧ t.get R.SEG_INFO_OWNER = (s.segInfo (bitsOf v.toNat 0 20)).2 % 4096 ∧
    t.on R.SEG_INFO_NO_SEG = false ∧ OnlyRegs s t [R.SEG_INFO]) ∧
  (∀ (s : State) (who : Who) (v : Word), s.hears who = true → 786431 < bitsOf v.toNat 0 20 → Answers (.segQuery who v) s fun t =>
    t.on R.SEG_INFO_NO_SEG = true ∧ OnlyRegs s t [R.SEG_INFO]) ∧
  (∀ (s : State) (who : Who) (w : Fin 8) (x : Word), s.hears who = true → s.unitOff (viewUnit w) = true → bitAt x.toNat 21 = false → s.on (R.HIST_STATUS_HOLDING w) = false →
    (Answers (.histCfgWrite who w false x) s fun t => t.get (R.HIST_CFG_SEGS w) = bitsOf x.toNat 0 20 ∧
      t.on (R.HIST_CFG_POLICY w) = bitAt x.toNat 20 ∧ OnlyRegs s t [R.HIST_CFG w]) ∧
    Answers (.histCfgWrite who w true x) s fun t => t.get (R.STAGE_CFG_SEGS w) = bitsOf x.toNat 0 20 ∧ OnlyRegs s t [R.STAGE_CFG w]) ∧
  (∀ (s : State) (who : Who) (w : Fin 8) (x : Word), s.hears who = true → s.unitOff (viewUnit w) = false →
    (bitsOf x.toNat 0 20 ≠ s.get (R.HIST_CFG_SEGS w) → Answers (.histCfgWrite who w false x) s fun t =>
      t.on (R.HIST_STATUS_SIZE_REJ w) = true ∧ t.get (R.HIST_CFG_SEGS w) = s.get (R.HIST_CFG_SEGS w)) ∧
    Answers (.histCfgWrite who w true x) s fun t => t.on (R.HIST_STATUS_SIZE_REJ w) = true ∧ OnlyRegs s t [R.HIST_STATUS w]) ∧
  (∀ (s : State) (who : Who) (w : Fin 8) (x : Word), s.hears who = true → s.unitOff (viewUnit w) = true → bitAt x.toNat 21 = true → s.on (R.HIST_STATUS_HOLDING w) = false →
    (s.histOf w).held = 0 → Answers (.release who w x) s fun t => t.on (R.HIST_STATUS_ALLOCATED w) = false ∧ t.get (R.HIST_ROW_CAP_ROWS w) = 0 ∧
      t.get (R.STAGE_ROW_CAP_ROWS w) = 0 ∧ t.histOf w = { work := (s.histOf w).work } ∧
      t.get R.FREE_HIST_SEGS = (s.get R.FREE_HIST_SEGS + runLen (s.histOf w).ring) % 2 ^ 20 ∧
      ∀ m ∈ s.setMarks w, t.get (R.MARK_STATUS_STATE m) = 1) ∧
  (∀ (s : State) (who : Who) (d : Fin 4096) (v : Word), s.hears who = true → s.on (R.SD_CTRL_EN d) = false → Answers (.rawSegsWrite who d v) s fun t =>
    t.get (R.RAW_SEGS_SEGS d) = bitsOf v.toNat 0 20 ∧ t.rawOf d = {} ∧
    t.get R.FREE_HIST_SEGS = (s.get R.FREE_HIST_SEGS + runLen (s.rawOf d).segs) % 2 ^ 20 ∧
    ∀ a, a ≠ R.RAW_SEGS d → a ≠ R.FREE_HIST → t.reg a = s.reg a) ∧
  (∀ (s : State) (who : Who) (d : Fin 4096) (v : Word), s.hears who = true → s.on (R.SD_CTRL_EN d) = true → Answers (.rawSegsWrite who d v) s fun t => t = s)

/-- R372 to R374: rewind marks. -/
def Obligations.MarkCommands : Prop :=
  (∀ (s : State) (who : Who) (m : Fin 64) (v : Word), s.hears who = true → s.get (R.MARK_STATUS_STATE m) ≠ 2 → Answers (.markCfgWrite who m v) s fun t =>
    t.get (R.MARK_STATUS_STATE m) = bitsOf v.toNat 0 1 ∧ t.on (R.MARK_CFG_EN m) = bitAt v.toNat 0 ∧ t.get (R.MARK_CFG_VIEW m) = bitsOf v.toNat 1 3 ∧
    t.get (R.MARK_CFG_BACK m) = bitsOf v.toNat 16 16 ∧ OnlyRegs s t [R.MARK_CFG m, R.MARK_STATUS m]) ∧
  (∀ (s : State) (who : Who) (m : Fin 64) (v : Word), s.hears who = true → s.get (R.MARK_STATUS_STATE m) = 2 → bitAt v.toNat 0 = true →
    Answers (.markCfgWrite who m v) s fun t => t.on (R.MARK_STATUS_CMD_REJ m) = true ∧ OnlyRegs s t [R.MARK_STATUS m]) ∧
  (∀ (s : State) (who : Who) (m : Fin 64) (v : Word), s.hears who = true → s.get (R.MARK_STATUS_STATE m) = 2 → bitAt v.toNat 0 = false →
    Answers (.markCfgWrite who m v) s fun t => t.get (R.MARK_STATUS_STATE m) = 0 ∧ t.on (R.MARK_CFG_EN m) = false) ∧
  (∀ (s : State) (who : Who) (m : Fin 64) (c : Instr), s.hears who = true → s.on (R.MARK_STATUS_BUSY m) = true → c ∈ [.markClear who m, .setAt who m, .setAhead who m] →
    Answers c s fun t => t.on (R.MARK_STATUS_CMD_REJ m) = true ∧ OnlyRegs s t [R.MARK_STATUS m]) ∧
  (∀ (s : State) (who : Who) (m : Fin 64), s.hears who = true → s.on (R.MARK_STATUS_BUSY m) = false → s.get (R.MARK_STATUS_STATE m) = 2 →
    Answers (.markClear who m) s fun t => t.get (R.MARK_STATUS_STATE m) = 1 ∧ t.on (R.MARK_STATUS_BLOCKING m) = false) ∧
  (∀ (s : State) (who : Who) (m : Fin 64), s.hears who = true → s.on (R.MARK_STATUS_BUSY m) = false → s.get (R.MARK_STATUS_STATE m) ≠ 0 →
    Answers (.setAt who m) s fun t => t.on (R.MARK_STATUS_BUSY m) = true ∧ t.markOf m = { s.markOf m with setAt := true } ∧
      ∀ a, a ≠ R.MARK_STATUS m → t.reg a = s.reg a) ∧
  (∀ (s : State) (m : Fin 64), (s.markOf m).setAt = true → s.get (R.MARK_STATUS_STATE m) ≠ 0 → s.retainedSeqs (s.get (R.MARK_CFG_VIEW m)) = [] →
    Answers (.setAtDone m) s fun t => t.on (R.MARK_STATUS_BUSY m) = false ∧ t.on (R.MARK_STATUS_CMD_REJ m) = true ∧
      t.markOf m = { s.markOf m with setAt := false } ∧ ∀ a, a ≠ R.MARK_STATUS m → t.reg a = s.reg a) ∧
  (∀ (s : State) (m : Fin 64) (q r : Nat) (qs : List Nat), (s.markOf m).setAt = true → s.get (R.MARK_STATUS_STATE m) ≠ 0 →
    s.retainedSeqs (s.get (R.MARK_CFG_VIEW m)) = q :: qs →
    posAfter (s.rowPosAt (s.get (R.MARK_CFG_VIEW m)) false q) (s.get2 (R.MARK_POS_LO_POS m) (R.MARK_POS_HI_POS m)) = false →
    (q :: qs).find? (fun r => !posBefore (s.rowPosAt (s.get (R.MARK_CFG_VIEW m)) false r) (s.get2 (R.MARK_POS_LO_POS m) (R.MARK_POS_HI_POS m))) = some r →
    Answers (.setAtDone m) s fun t => t.on (R.MARK_STATUS_BUSY m) = false ∧ t.get (R.MARK_STATUS_STATE m) = 2 ∧
      t.markOf m = { row := r, moved := false, setAt := false } ∧
      t.get2 (R.MARK_ROW_POS_LO_POS m) (R.MARK_ROW_POS_HI_POS m) = s.rowPosAt (s.get (R.MARK_CFG_VIEW m)) false r % 2 ^ 56) ∧
  (∀ (s : State) (m : Fin 64) (q : Nat) (qs : List Nat), (s.markOf m).setAt = true → s.get (R.MARK_STATUS_STATE m) ≠ 0 →
    s.retainedSeqs (s.get (R.MARK_CFG_VIEW m)) = q :: qs →
    posAfter (s.rowPosAt (s.get (R.MARK_CFG_VIEW m)) false q) (s.get2 (R.MARK_POS_LO_POS m) (R.MARK_POS_HI_POS m)) = true →
    Answers (.setAtDone m) s fun t => t.on (R.MARK_STATUS_GONE m) = true ∧ t.get (R.MARK_STATUS_STATE m) = s.get (R.MARK_STATUS_STATE m)) ∧
  (∀ (s : State) (who : Who) (m : Fin 64) (c : Nat), s.hears who = true → s.on (R.MARK_STATUS_BUSY m) = false → s.get (R.MARK_STATUS_STATE m) = 1 →
    s.selCh? R.MARK_SUB_A_SEL_0 = some c → Answers (.setAhead who m) s fun t => t.regs = s.regs ∧
      t.peWaiting .creel = s.peWaiting .creel ++ [⟨true, mkEntry (s.get2 (R.MARK_POS_LO_POS m) (R.MARK_POS_HI_POS m)) 8 c 0 m
        (8 + s.get (R.MARK_CFG_VIEW m)) true 1 false (s.guarded c), 0, m⟩])

/-- R384, R388, R390, R723: scrubbing, the peek and training. -/
def Obligations.MemoryUnitCommands : Prop :=
  (∀ (s : State), s.on R.SCRUB_CFG_EN = true → s.on R.MEM_STATUS_MEM_READY = true → s.creel.scrub + 1 < memUnits →
    (∀ e ∈ s.creel.flaws, e.unit ≠ s.creel.scrub) →
    Answers (.scrubStep none) s fun t => t.creel.scrub = s.creel.scrub + 1 ∧ t.get R.SCRUB_STATUS_PROGRESS = (s.creel.scrub + 1) / 2048 % 2 ^ 20 ∧
      t.mem = s.mem ∧ ∀ a, a ≠ R.SCRUB_STATUS → t.reg a = s.reg a) ∧
  (∀ (s : State), s.on R.SCRUB_CFG_EN = true → s.on R.MEM_STATUS_MEM_READY = true → s.creel.scrub + 1 = memUnits →
    Answers (.scrubStep none) s fun t => t.creel.scrub = 0 ∧ t.get R.SCRUB_PASS_CNT_CNT = (s.get R.SCRUB_PASS_CNT_CNT + 1) % 2 ^ 32) ∧
  (∀ (s : State) (who : Who) (v : Word), s.hears who = true → s.on R.CTX_PEEK_STATUS_DONE = true → Answers (.ctxPeek who v) s fun t =>
    (∀ i, i < 32 → t.get (R.CTX_PEEK_DATA i) = leAt (s.ctxOf (bitsOf v.toNat 0 20)).image (4 * i) 4) ∧ t.on R.CTX_PEEK_STATUS_DONE = true) ∧
  (∀ (s : State) (who : Who) (v : Word), s.hears who = true → s.on R.CTX_PEEK_STATUS_DONE = true →
    Tbl.get false s.creel.cached (bitsOf v.toNat 0 20) = true ∨ s.creel.flaws = [] → Answers (.ctxPeek who v) s fun t =>
    t.on R.CTX_PEEK_STATUS_POISON = s.ctxPoison (bitsOf v.toNat 0 20)) ∧
  (∀ (s : State), s.boot.training = true → Answers (.hbmTrainDone 3) s fun t => t.creel.trained = true ∧ t.boot.training = false ∧
    t.get R.MEM_STATUS_STACK_FAIL = 0 ∧ t.get R.BOOT_STATUS_STAGE = 5) ∧
  (∀ (s : State) (ok : BitVec 2), s.boot.training = true → ok.toNat ≠ 3 → Answers (.hbmTrainDone ok) s fun t => t.creel.trained = false ∧
    t.boot.training = false ∧ t.get R.MEM_STATUS_STACK_FAIL = 3 - ok.toNat ∧ t.get R.BOOT_STATUS_STAGE = s.get R.BOOT_STATUS_STAGE) ∧
  (∀ (s : State), s.creel.trained = true → s.on R.MEM_STATUS_MEM_READY = false → Answers .memReady s fun t => t.mem = [] ∧
    (∀ a, t.byte a = 0) ∧ t.creel.poison = [] ∧ t.on R.MEM_STATUS_MEM_READY = true ∧ t.get R.BOOT_STATUS_STAGE = 6 ∧
    OnlyRegs { s with mem := t.mem, creel := t.creel } t [R.MEM_STATUS, R.BOOT_STATUS, R.BOOT_TIME])

/-- R397, R401, R404, R410: LINE_CONDITION and COND_CFG_WRITE. -/
def Obligations.ConditioningCommands : Prop :=
  (∀ (s : State) (f : Fin 32) (perr : Nat) (x : Line) (l : List Line), (s.linkOf f).lines = x :: l → x.desc < 4096 →
    s.on (R.SD_STATUS_RUNNING x.desc) = true → Answers (.lineCondition f perr) s fun t =>
      t.linkOf f = { s.linkOf f with lines := l } ∧ (t.condOf x.desc).last = some x.trigPos ∧ (t.condOf x.desc).lastLine = x.line ∧
      (perr ≠ 0 → (s.condOf x.desc).on = true → t.on R.COND_GSTATUS_PERR = true ∧
        t.get R.CAL_PERR_CNT_CNT = min (s.get R.CAL_PERR_CNT_CNT + perr) (2 ^ R.CAL_PERR_CNT_CNT.w - 1))) ∧
  (∀ (s : State) (who : Who) (d : Fin 4096) (off : Fin 16) (v : Word), s.hears who = true → s.on (R.SD_CTRL_EN d) = true →
    Answers (.condCfgWrite who d off v) s fun t => t.on (R.COND_STATUS_CFG_REJ d) = true ∧ OnlyRegs s t [R.COND_STATUS d]) ∧
  (∀ (s : State) (who : Who) (d : Fin 4096) (off : Fin 16) (v : Word), s.hears who = true → s.on (R.SD_CTRL_EN d) = false →
    Answers (.condCfgWrite who d off v) s fun t => OnlyRegs s t [R.COND_CTRL d + 4 * off.val] ∧
      (off.val = 0 → t.on (R.COND_CTRL_COND_EN d) = bitAt v.toNat 0 ∧ t.get (R.COND_CTRL_LD_DEPTH d) = bitsOf v.toNat 8 6) ∧
      (off.val = 1 → t.get (R.CAL_BASE_SLOT d) = bitsOf v.toNat 0 22))

/-- R400, R412, R413, R416: CAL_CMD and its ends. -/
def Obligations.CalibrationCommands : Prop :=
  (∀ (s : State) (who : Who) (v : Word) (c : Instr), s.hears who = true → s.on R.CAL_RESULT_DONE = false →
    c ∈ [.load who v, .save who, .liveReset who, .lutLoad who, .lutSave who, .accum who] →
    Answers c s fun t => t.on R.COND_GSTATUS_CMD_IGN = true ∧ OnlyRegs s t [R.COND_GSTATUS]) ∧
  (∀ (s : State) (who : Who) (v : Word) (c : Instr) (op n : Nat), s.hears who = true → s.on R.CAL_RESULT_DONE = true →
    (c, op, n) ∈ [(.load who v, 1, 8), (.save who, 2, 8), (.liveReset who, 3, 0), (.lutLoad who, 4, 8192), (.lutSave who, 5, 8192)] →
    s.get R.CAL_FIRST_FIRST + s.get R.CAL_COUNT_COUNT ≤ (if op < 4 then 2097152 else 512) →
    s.inHostWin (s.get2 R.CAL_MEM_LO_D R.CAL_MEM_HI_D) (n * s.get R.CAL_COUNT_COUNT) = true →
    Answers c s fun t => t.on R.CAL_RESULT_DONE = false ∧ t.get R.CAL_RESULT_LINES = 0 ∧ t.mem = s.mem ∧
      (∀ a, a ≠ R.CAL_RESULT → (∀ d, a ≠ R.COND_STATUS d) → t.reg a = s.reg a) ∧
      ∃ r, t.cond.run = some r ∧ r.op = op ∧ r.mem = s.get2 R.CAL_MEM_LO_D R.CAL_MEM_HI_D ∧ r.first = s.get R.CAL_FIRST_FIRST ∧
        r.count = s.get R.CAL_COUNT_COUNT ∧ r.err = 0 ∧ r.moved = 0) ∧
  (∀ (s : State) (who : Who) (v : Word) (c : Instr), s.hears who = true → s.on R.CAL_RESULT_DONE = true → c ∈ [.load who v, .save who, .liveReset who] →
    2097152 < s.get R.CAL_FIRST_FIRST + s.get R.CAL_COUNT_COUNT → Answers c s fun t => ∃ r, t.cond.run = some r ∧ r.err = 1) ∧
  (∀ (s : State) (who : Who), s.hears who = true → s.on R.CAL_RESULT_DONE = true → s.get R.CAL_FIRST_FIRST < 4096 → s.get R.CAL_COUNT_COUNT ≤ 16 →
    s.inHostWin (s.get2 R.CAL_MEM_LO_D R.CAL_MEM_HI_D)
      (4 * s.get (R.SD_GEOM_WIDTH (s.get R.CAL_FIRST_FIRST)) * s.descComps (s.get R.CAL_FIRST_FIRST)) = true →
    Answers (.accum who) s fun t => ∃ r, t.cond.run = some r ∧ r.op = 6 ∧ r.first = s.get R.CAL_FIRST_FIRST ∧ r.lines = 0 ∧ r.sums = [] ∧
      (r.err = 0 ↔ s.on (R.SD_STATUS_RUNNING (s.get R.CAL_FIRST_FIRST)) = true)) ∧
  (∀ (s : State) (who : Who) (r : CalRun), s.hears who = true → s.cond.run = some r → Answers (.calAbort who) s fun t =>
    t.cond.run = none ∧ t.get R.CAL_RESULT_ERR = 5 ∧ t.on R.CAL_RESULT_DONE = true) ∧
  (∀ (s : State) (r : CalRun), s.cond.run = some r → r.err = 1 ∨ r.err = 2 → Answers .calCmdDone s fun t =>
    t.cond = { s.cond with run := none } ∧ t.get R.CAL_RESULT_ERR = r.err ∧ t.on R.CAL_RESULT_DONE = true ∧ t.mem = s.mem) ∧
  (∀ (s : State) (r : CalRun), s.cond.run = some r → r.op = 3 → r.err = 0 → Answers .calCmdDone s fun t =>
    t.cond.run = none ∧ t.get R.CAL_RESULT_ERR = 0 ∧ t.on R.CAL_RESULT_DONE = true ∧
    ∀ i, slotLive (t.calSlot i) = (if r.first ≤ i ∧ i < r.first + r.count then 0x400000 else slotLive (s.calSlot i)) ∧
      slotDark (t.calSlot i) = slotDark (s.calSlot i) ∧ slotGain (t.calSlot i) = slotGain (s.calSlot i) ∧
      slotDefect (t.calSlot i) = slotDefect (s.calSlot i))

/-- R421, R422, R424, R425, R428: ZONE_CLOSE and LC_CFG_WRITE. -/
def Obligations.LiveCalibrationCommands : Prop :=
  (∀ (s : State) (v : Fin 8) (w : ZoneWin), s.zoneNext v = some w →
    (∀ h ∈ w.heads, h.desc < 4096) → Answers (.zoneClose v) s fun t =>
      t.cond.wins = s.cond.wins.erase w ∧ t.get R.LOG_HEAD_NEXT = (s.get R.LOG_HEAD_NEXT + 1) % 256 ∧
      t.get2 (R.LOG_POS_LO_POS (s.get R.LOG_HEAD_NEXT)) (R.LOG_POS_HI_POS (s.get R.LOG_HEAD_NEXT)) =
        w.stop % 2 ^ (32 + (R.LOG_POS_HI_POS 0).w) ∧
      (w.bad = true → t.get (R.REJ_INCOMPLETE_CNT_CNT v) =
          min (s.get (R.REJ_INCOMPLETE_CNT_CNT v) + 1) (2 ^ (R.REJ_INCOMPLETE_CNT_CNT v).w - 1) ∧
        t.get (R.LC_STATE_GOOD_RUN v) = 0 ∧ ∀ i, t.calSlot i = s.calSlot i)) ∧
  (∀ (s : State) (who : Who) (v : Fin 8) (x : Word), s.hears who = true → s.on (R.LC_CFG_LC_EN v) = false → bitAt x.toNat 0 = true →
    Answers (.lcCfgWrite who v x) s fun t => t.on (R.LC_CFG_LC_EN v) = true ∧ t.get (R.LC_STATE_STATE v) = 2 ∧
      t.get (R.LC_STATE_FREEZE_CAUSE v) = (if bitAt x.toNat 1 then 1 else 6) ∧ t.get (R.LC_STATE_REPEATS v) = 0) ∧
  (∀ (s : State) (who : Who) (v : Fin 8) (x : Word), s.hears who = true → bitAt x.toNat 0 = false → Answers (.lcCfgWrite who v x) s fun t =>
    t.on (R.LC_CFG_LC_EN v) = false ∧ t.get (R.LC_STATE_STATE v) = 0)

/-- R438, R444, R445, R448, R450 to R453: the view window, rows and tracking windows. -/
def Obligations.PlaitCommands : Prop :=
  (∀ (s : State) (who : Who) (v : Fin 8) (x : Word), s.hears who = true → s.unitOff (viewUnit v) = true →
    (Answers (.vwCtrlWrite who v 2 x) s fun t => t.get (R.VW_WIDTH_WIDTH v) = x.toNat % 2 ^ 17 ∧ OnlyRegs s t [R.VW_WIDTH v]) ∧
    (Answers (.vwCtrlWrite who v 1 x) s fun t => t.get (R.VW_PITCH_PITCH v) = x.toNat % 2 ^ 24 ∧ OnlyRegs s t [R.VW_PITCH v])) ∧
  (∀ (s : State) (who : Who) (v : Fin 8) (off : Fin 2048) (x : Word), s.hears who = true → s.unitOff (viewUnit v) = false →
    off.val ∈ [1, 2, 3, 6, 7] ∨ (1024 ≤ off.val ∧ off.val % 4 < 2) → Answers (.vwCtrlWrite who v off x) s fun t =>
      t.on (R.VW_STATUS_CFG_REJ v) = true ∧ OnlyRegs s t [R.VW_STATUS v]) ∧
  (∀ (s : State) (who : Who) (v : Fin 8) (x : Word), s.hears who = true → s.unitOff (viewUnit v) = false → bitsOf x.toNat 0 2 ≠ 3 → bitsOf x.toNat 2 2 ≠ 3 →
    Answers (.vwCtrlWrite who v 0 x) s fun t => t.on (R.VW_CTRL_TRK_EN v) = bitAt x.toNat 4 ∧ t.on (R.VW_CTRL_TRK_HOLD v) = bitAt x.toNat 5 ∧
      t.get (R.VW_CTRL_KERN_AW v) = s.get (R.VW_CTRL_KERN_AW v) ∧ t.get (R.VW_CTRL_KERN_XW v) = s.get (R.VW_CTRL_KERN_XW v) ∧
      t.get (R.VW_CTRL_ANCHOR v) = s.get (R.VW_CTRL_ANCHOR v) ∧ OnlyRegs s t [R.VW_CTRL v, R.VW_STATUS v]) ∧
  (∀ (s : State) (who : Who) (v : Fin 8) (x : Word), s.hears who = true → bitsOf x.toNat 0 2 = 3 ∨ bitsOf x.toNat 2 2 = 3 →
    Answers (.vwCtrlWrite who v 0 x) s fun t => t.on (R.VW_STATUS_CFG_REJ v) = true ∧ OnlyRegs s t [R.VW_STATUS v]) ∧
  (∀ (s : State) (who : Who) (v : Fin 8) (x : Word), s.hears who = true → s.unitOff (viewUnit v) = true →
    (∀ w : Fin 8, w ≠ v → s.get (R.VW_JOIN_JOIN_KIB w) = 0) → x.toNat % 2 ^ 16 ≤ 32768 → Answers (.vwCtrlWrite who v 7 x) s fun t =>
      t.get (R.VW_JOIN_JOIN_KIB v) = x.toNat % 2 ^ 16 ∧ t.get R.JOIN_FREE_KIB = 32768 - x.toNat % 2 ^ 16 ∧
      OnlyRegs s t [R.VW_JOIN v, R.JOIN_FREE]) ∧
  (∀ (s : State) (v : Fin 8) (perr : Nat) (stall : Bool) (r : PRow), (s.plaitRow v perr).2 = some r →
    Answers (.plaitRowEmit v perr stall) s fun t =>
      r.view = v ∧ r.cols.length = s.get (R.VW_WIDTH_WIDTH v) ∧ (t.plaitOf v).grid = some r.pos ∧ (t.plaitOf v).first = false ∧
      (t.plaitOf v).next = some (gridPos r.pos (s.get (R.VW_PITCH_PITCH v)) (s.plaitOf v).dir) ∧
      ((s.jview v).sets = [] → (s.jview v).opened = [] → t.get (R.VW_ROW_CNT_CNT v) = (s.get (R.VW_ROW_CNT_CNT v) + 1) % 2 ^ 32)) ∧
  (∀ (s : State) (v : Fin 8) (h : Fin 256) (q : Nat) (y : PHead) (px : List MapPx) (c : Instr) (margin : Nat),
    (c, margin) ∈ [(.headTimeout v h, 0), (.lateMarginPass v h, subParts * s.get (R.VW_LATE_LATE_MARGIN v) + 1)] →
    s.nextRow v (s.plaitOf v) (s.runHeads v (s.plaitOf v)) = some q →
    (s.runHeads v (s.plaitOf v)).find? (fun y => y.1.head == h.val) = some (y, px) → s.headStat v (s.plaitOf v) y px q = .pending →
    (margin : Int) ≤ s.pastHead v h q →
    Answers c s fun t => t = { s with plait := t.plait } ∧ (t.plaitOf v).next = some q ∧
      (∀ z ∈ (t.plaitOf v).heads, z.head = h.val → z.late.head? = some (q, !y.lines.any fun l => l.beyond (s.plaitOf v).dir (s.headA v h) px q)) ∧
      ((y.lines.any fun l => l.beyond (s.plaitOf v).dir (s.headA v h) px q) = false →
        ∀ z ∈ (t.plaitOf v).heads, z.head = h.val → ∀ px', t.headStat v (t.plaitOf v) z px' q = .missing) ∧
      ((y.lines.any fun l => l.beyond (s.plaitOf v).dir (s.headA v h) px q) = true →
        t.headStat v (t.plaitOf v) { y with late := (q, false) :: y.late } px q ≠ .pending)) ∧
  (∀ (s : State) (v : Fin 8), s.on (R.VW_CTRL_TRK_EN v) = true →
    max 1 (s.get (R.TRK_CFG_TRK_ROWS v)) ≤ (s.plaitOf v).win.length → Answers (.trkWindowEnd v) s fun t =>
      (t.plaitOf v).win = (s.plaitOf v).win.drop (max 1 (s.get (R.TRK_CFG_TRK_ROWS v))) ∧
      ((∃ r ∈ (s.plaitOf v).win.take (max 1 (s.get (R.TRK_CFG_TRK_ROWS v))), r.bad = true) →
        OnlyRegs { s with plait := t.plait } t [R.TRK_REJ_CNT v]) ∧
      (s.on (R.VW_CTRL_TRK_HOLD v) = true → (∀ h ∈ (s.plaitOf v).heads, h.head < 256) →
        t.get (R.TRK_EPS_EPS v) = s.get (R.TRK_EPS_EPS v) ∧ t.get (R.VW_GEOM_GEN_GEN v) = s.get (R.VW_GEOM_GEN_GEN v) ∧
        ∀ h : Fin 256, t.get (R.HD_TRK_X_DX v h) = s.get (R.HD_TRK_X_DX v h) ∧ t.get (R.HD_TRK_A_DA v h) = s.get (R.HD_TRK_A_DA v h)))

/-- R455 to R458, R700: GEOM_CMD and its ends. -/
def Obligations.GeometryCommands : Prop :=
  (∀ (s : State) (who : Who) (c : Instr), s.hears who = true → s.on R.GEOM_RESULT_DONE = false →
    c ∈ [.loadMap who, .saveMap who, .saveGeom who, .loadGeom who, .trkReset who] →
    Answers c s fun t => t.on R.PLAIT_STATUS_CMD_IGN = true ∧ OnlyRegs s t [R.PLAIT_STATUS]) ∧
  (∀ (s : State) (who : Who) (c : Instr) (op : Nat), s.hears who = true → s.on R.GEOM_RESULT_DONE = true → (c, op) ∈ [(.loadMap who, 1), (.saveMap who, 2)] →
    s.get R.GEOM_COUNT_COUNT ≠ 0 → s.get R.GEOM_FIRST_FIRST + s.get R.GEOM_COUNT_COUNT ≤ 1048576 →
    s.inHostWin (s.get2 R.GEOM_MEM_LO_D R.GEOM_MEM_HI_D) (8 * s.get R.GEOM_COUNT_COUNT) = true →
    Answers c s fun t => t.on R.GEOM_RESULT_DONE = false ∧ OnlyRegs { s with plait := t.plait } t [R.GEOM_RESULT] ∧
      ∃ r, t.plait.run = some r ∧ r.op = op ∧ r.mem = s.get2 R.GEOM_MEM_LO_D R.GEOM_MEM_HI_D ∧ r.first = s.get R.GEOM_FIRST_FIRST ∧
        r.count = s.get R.GEOM_COUNT_COUNT ∧
        r.err = if op = 1 ∧ s.mapInUse (s.get R.GEOM_FIRST_FIRST) (s.get R.GEOM_COUNT_COUNT) = true then 4 else 0) ∧
  (∀ (s : State) (who : Who) (c : Instr) (op : Nat), s.hears who = true → s.on R.GEOM_RESULT_DONE = true →
    (c, op) ∈ [(.saveGeom who, 3), (.loadGeom who, 4)] → Answers c s fun t =>
      t.on R.GEOM_RESULT_DONE = false ∧ OnlyRegs { s with plait := t.plait } t [R.GEOM_RESULT] ∧
      ∃ r, t.plait.run = some r ∧ r.op = op ∧ r.first = s.get R.GEOM_FIRST_FIRST ∧
        r.err = if 7 < s.get R.GEOM_FIRST_FIRST then 1
          else if op = 4 ∧ s.unitOff (viewUnit (s.get R.GEOM_FIRST_FIRST)) = false then 4 else 0) ∧
  (∀ (s : State) (who : Who), s.hears who = true → s.on R.GEOM_RESULT_DONE = true → 7 < s.get R.GEOM_FIRST_FIRST → Answers (.trkReset who) s fun t =>
    t.on R.GEOM_RESULT_DONE = false ∧ OnlyRegs { s with plait := t.plait } t [R.GEOM_RESULT] ∧ ∃ r, t.plait.run = some r ∧ r.op = 5 ∧ r.err = 1) ∧
  (∀ (s : State) (who : Who) (v : Fin 8), s.hears who = true → s.on R.GEOM_RESULT_DONE = true → s.get R.GEOM_FIRST_FIRST = v → Answers (.trkReset who) s fun t =>
    t.on R.GEOM_RESULT_DONE = false ∧ t.get (R.TRK_EPS_EPS v) = 0 ∧ t.get (R.VW_GEOM_GEN_GEN v) = (s.get (R.VW_GEOM_GEN_GEN v) + 1) % 2 ^ 32 ∧
    (∀ h : Fin 256, t.get (R.HD_TRK_X_DX v h) = 0 ∧ t.get (R.HD_TRK_A_DA v h) = 0) ∧
    OnlyRegs { s with plait := t.plait } t
      (R.GEOM_RESULT :: R.TRK_EPS v :: R.VW_GEOM_GEN v :: (List.range 256).flatMap fun h => [R.HD_TRK_X v h, R.HD_TRK_A v h]) ∧
    ∃ r, t.plait.run = some r ∧ r.op = 5 ∧ r.first = v ∧ r.err = 0) ∧
  (∀ (s : State) (who : Who) (r : CalRun), s.hears who = true → s.plait.run = some r → Answers (.geomAbort who) s fun t =>
    t.plait.run = none ∧ t.get R.GEOM_RESULT_ERR = 7 ∧ t.on R.GEOM_RESULT_DONE = true ∧ t.plait.view = s.plait.view) ∧
  (∀ (s : State) (bad : Option Nat) (r : CalRun), s.plait.run = some r → r.err ≠ 0 → Answers (.geomCmdDone bad) s fun t =>
    t.plait = { s.plait with run := none } ∧ t.get R.GEOM_RESULT_ERR = r.err % 16 ∧ t.on R.GEOM_RESULT_DONE = true ∧
    t.mem = s.mem ∧ t.mram = s.mram) ∧
  (∀ (s : State) (bad : Option Nat) (r : CalRun), s.plait.run = some r → r.err = 0 → r.op = 5 → r.first < 8 →
    Answers (.geomCmdDone bad) s fun t =>
      t.plait.run = none ∧ t.get R.GEOM_RESULT_ERR = 0 ∧ t.on R.GEOM_RESULT_DONE = true ∧ t.get (R.TRK_EPS_EPS r.first) = s.get (R.TRK_EPS_EPS r.first) ∧
      t.get (R.VW_GEOM_GEN_GEN r.first) = s.get (R.VW_GEOM_GEN_GEN r.first) ∧
      ∀ h : Fin 256, t.reg (R.HD_TRK_X r.first h) = s.reg (R.HD_TRK_X r.first h) ∧ t.reg (R.HD_TRK_A r.first h) = s.reg (R.HD_TRK_A r.first h)) ∧
  (∀ (s : State) (bad : Option Nat) (r : CalRun), s.plait.run = some r → r.err = 0 → r.op = 3 → s.skepRuns = true → s.nvm.writing = none →
    s.calWriteBefore r.since = false → s.writeWindow = false → Answers (.geomCmdDone bad) s fun t =>
      t.plait.run = none ∧ t.get R.GEOM_RESULT_ERR = 5 ∧ t.on R.GEOM_RESULT_DONE = true ∧ t.on R.NVM_STATUS_WRITE_WINDOW = true ∧ t.mram = s.mram)

/-- R390, R473 to R477, R489, R663: job slots, arming and roll epochs. That a load without device memory ends with NO_MEMORY is the
model's choice (assumption 55). -/
def Obligations.JobCommands : Prop :=
  (∀ (s : State) (m : Fin 1024) (j addr len : Nat), s.CanRun m 0x0020 → m.val < 16 → leAt (s.params m) 0 1 = j → leAt (s.params m) 8 8 = addr →
    leAt (s.params m) 16 8 = len → j < 64 → s.slotSt j = 0 → len ≠ 0 → (∀ e ∈ s.jobs.load, e.2 = none) →
    (len + 65535) / 65536 ≤ s.get R.FREE_REF_SEGS → s.on R.MEM_STATUS_MEM_READY = true → Answers (.jobLoad m) s fun t =>
      t.slotSt j = 1 ∧ Tbl.get none t.jobs.load j = some { who := m, len := len, addr := addr, id := s.skep.reads + 1 } ∧ t.get R.FREE_REF_SEGS = s.get R.FREE_REF_SEGS - (len + 65535) / 65536 ∧
      t.unitState (slotUnit j) = .starting ∧
      (s.port.wait = [] → s.portRun 0 = true → s.strict 0 = false →
        (s.freeTag ⟨0, .image j (s.skep.reads + 1), addr, min (min (s.mrrs 0) len) (4096 - addr % 4096), 0⟩).isSome = true →
        t.outs = s.outs ++ [.hostRead 0 addr (min (min (s.mrrs 0) len) (4096 - addr % 4096))])) ∧
  (∀ (s : State) (m : Fin 1024) (j : Nat), s.CanRun m 0x0020 → m.val < 16 → leAt (s.params m) 0 1 = j → leAt (s.params m) 16 8 ≠ 0 → j < 64 →
    s.slotSt j = 0 → (∀ e ∈ s.jobs.load, e.2 = none) → s.on R.MEM_STATUS_MEM_READY = false → Answers (.jobLoad m) s fun t =>
      t.slotSt j = 0 ∧ t.get (R.SLOT_LOAD_STATUS j) = Isaow.noMemory ∧ t.unitState (slotUnit j) = .fault ∧ ∀ e ∈ t.jobs.load, e.2 = none) ∧
  (∀ (s : State) (m : Fin 1024) (j : Nat), s.CanRun m 0x0020 → leAt (s.params m) 0 1 = j → leAt (s.params m) 8 8 = 0 → leAt (s.params m) 16 8 = 0 →
    j < 64 → s.slotSt j = 0 ∨ s.slotSt j = 2 → Answers (.jobLoad m) s fun t =>
      t.slotSt j = 0 ∧ t.AnswerIs m Isaow.ok (t.loadResp j 0xFFFFFFFF)) ∧
  (∀ (s : State) (m : Fin 1024) (j : Nat), s.CanRun m 0x0020 → leAt (s.params m) 0 1 = j → (leAt (s.params m) 8 8 = 0 ∧ leAt (s.params m) 16 8 = 0) ∨ (m.val < 16 ∧ leAt (s.params m) 16 8 ≠ 0) →
    j < 64 → s.slotSt j ≠ 0 → s.slotSt j ≠ 2 → Answers (.jobLoad m) s fun t =>
      t.AnswerIs m Isaow.busy (s.loadResp j 0xFFFFFFFF) ∧ t.regs = s.regs) ∧
  (∀ (s : State) (j : Fin 64) (ld : JLoad), Tbl.get none s.jobs.load j = some ld → ld.bad = false → ld.got < ld.len → Answers (.jobLoadDone j) s fun t => t = s) ∧
  (∀ (s : State) (j : Fin 64) (ld : JLoad), Tbl.get none s.jobs.load j = some ld → ld.bad = true → s.unitState (slotUnit j) ≠ .stopping →
    Answers (.jobLoadDone j) s fun t =>
    t.slotSt j = 0 ∧ Tbl.get none t.jobs.load j = none ∧ t.get (R.SLOT_LOAD_STATUS j) = Isaow.copyErr ∧ t.unitState (slotUnit j) = .fault) ∧
  (∀ (s : State) (j : Fin 64) (bs : List Byte) (ld : JLoad), Tbl.get none s.jobs.load j = some ld → ld.bad = false → ld.len ≤ ld.got →
    bs = s.slotImg j 0 ld.len → s.recipeBad j bs ld.len = none → (s.gateChecks (listImg bs)).2 = true →
    Answers (.jobLoadDone j) s fun t => t.slotSt j = 2 ∧ Tbl.get none t.jobs.load j = none ∧
      t.get (R.SLOT_LOAD_STATUS j) = 0 ∧ t.get (R.SLOT_STATE_VIEW_MASK j) = (listImg bs).viewMask) ∧
  (∀ (s : State) (m : Fin 1024) (j : Nat) (c : Instr) (l : List (Nat × Nat)),
    (c, l) ∈ [(.jobArm m, (maskViews (leAt (s.params m) 1 1)).map fun v => (v, bitsOf (leAt (s.params m) (8 + 8 * v) 8) 0 56)),
      (.jobSwitch m, (maskViews (leAt (s.params m) 1 1)).map fun v => (v, posMod (s.viewPos v + s.get R.ARM_LEAD_LEAD)))] →
    (c = .jobArm m → s.CanRun m 0x0021 ∧ bitAt (leAt (s.params m) 2 1) 0 = false) → (c = .jobSwitch m → s.CanRun m 0x0022) →
    leAt (s.params m) 0 1 = j → s.armBad j (leAt (s.params m) 1 1) = none → l ≠ [] → Answers c s fun t =>
      Tbl.get {} t.jobs.arms m = { slot := j, views := l.map fun x => { view := x.1, pos := x.2 } } ∧
      (t.peWaiting .skep).map (fun r => (r.insert, r.tag, ePos r.entry, eAction r.entry)) =
        (s.peWaiting .skep).map (fun r => (r.insert, r.tag, ePos r.entry, eAction r.entry)) ++ l.map fun x => (true, armTag m x.1, x.2, 6)) ∧
  (∀ (s : State) (m : Fin 1024) (c : Instr) (st : Nat), c ∈ [.jobArm m, .jobSwitch m] →
    (c = .jobArm m → s.CanRun m 0x0021 ∧ bitAt (leAt (s.params m) 2 1) 0 = false) → (c = .jobSwitch m → s.CanRun m 0x0022) →
    s.armBad (leAt (s.params m) 0 1) (leAt (s.params m) 1 1) = some st → Answers c s fun t =>
      t.AnswerIs m st [] ∧ t.regs = s.regs ∧ t.pe = s.pe ∧ t.jobs = s.jobs) ∧
  (∀ (s : State) (m : Fin 1024) (v j pos h : Nat), s.CanRun m 0x0021 → bitAt (leAt (s.params m) 2 1) 0 = true →
    maskViews (leAt (s.params m) 1 1) = [v] → (s.jview v).pend = some (j, pos, h) → Answers (.jobArmCancel m) s fun t =>
      Tbl.get {} t.jobs.arms m = { cancel := true, slot := leAt (s.params m) 0 1, views := [{ view := v, pos := pos }] } ∧
      t.peWaiting .skep = s.peWaiting .skep ++ [{ insert := false, handle := h, tag := armTag m v, entry := 0 }]) ∧
  (∀ (s : State) (who : Who) (v : Fin 8) (x : Word), s.hears who = true → bitAt x.toNat 0 = true → (s.jview v).roll = none → Answers (.rollCmd who v x) s fun t =>
    (t.jview v).roll = some (posMod (s.viewPos v + s.getInt (R.ROLL_DIST_DIST v))) ∧ t.on (R.ROLL_STATUS_PENDING v) = true ∧
    OnlyRegs { s with jobs := t.jobs } t [R.ROLL_STATUS v]) ∧
  (∀ (s : State) (who : Who) (v : Fin 8) (x : Word), s.hears who = true → bitAt x.toNat 0 = true → (s.jview v).roll ≠ none → Answers (.rollCmd who v x) s fun t =>
    t.on (R.ROLL_STATUS_ROLL_OVR v) = true ∧ OnlyRegs s t [R.ROLL_STATUS v])

/-- R509 to R511, R521, R523, R527: BAND_COMPARE, VERDICT_READY and GATE_INSERT_RESULT. -/
def Obligations.CompareCommands : Prop :=
  (∀ (s : State) (i : Fin 8) (k : Nat), s.nextBand i = some k → (s.repOf k).band ≠ 0 → (s.repOf k).cfg ≠ none →
    Answers (.bandCompare i []) s fun t =>
    (t.repOf k).band = (s.repOf k).band + 1 ∧ (∀ j, j ≠ k → t.repOf j = s.repOf j) ∧ t.ctxs = s.ctxs) ∧
  (∀ (s : State) (i : Fin 8) (k : Nat), s.nextBand i = some k → (s.repOf k).band = 0 → Answers (.bandCompare i []) s fun t =>
    ((t.repOf k).band = 1 ∧ (t.repOf k).noRef = false ∨ (t.repOf k).band = 0 ∧ (t.repOf k).noRef = true) ∧
    (∀ j, j ≠ k → t.repOf j = s.repOf j) ∧ t.ctxs = s.ctxs) ∧
  (∀ (s : State) (k : Nat), k < 1048576 → s.judgeable k = true → Answers (.verdictReady k) s fun t =>
    (t.ctxOf k).judgedTime = s.timeNs ∧ 2 ≤ (t.ctxOf k).state ∧ (t.ctxOf k).tag = (s.ctxOf k).tag ∧
    (bitAt (s.ctxOf k).cflags 3 = true → (t.ctxOf k).verdict = 3 - ((s.ctxTouch k).slotImg (s.repOf k).slot).nomarkPolicy ∧ (t.ctxOf k).rule = 0xFF01)) ∧
  (∀ (s : State) (k status handle : Nat) (off : Bool) (l : List GateAns), s.compare.answers = ⟨k, status, handle, false, off⟩ :: l →
    Answers .gateInsertResult s fun t => t.compare.answers = l ∧
      (status = 4 → k < 1048576 → (s.ctxOf k).actDone = false → (t.ctxOf k).actDone = true ∧ (t.ctxOf k).actResult = 4) ∧
      (status = 4 ∨ status = 5 → (s.ctxOf k).view < 8 → t.get (R.LATE_GATE_CNT_CNT (s.ctxOf k).view) =
        min (s.get (R.LATE_GATE_CNT_CNT (s.ctxOf k).view) + 1) (2 ^ (R.LATE_GATE_CNT_CNT 0).w - 1)))

/-- R534, R536, R537: learning sessions. -/
def Obligations.LearningCommands : Prop :=
  (∀ (s : State) (m : Fin 1024) (j i n : Nat) (v : Fin 8) (r : Sec), s.CanRun m 0x0023 → bitAt (leAt (s.params m) 4 1) 0 = false →
    leAt (s.params m) 0 1 = j → leAt (s.params m) 1 1 = v.val → leAt (s.params m) 2 1 = i → leAt (s.params m) 3 1 = n → j < 64 → 2 ≤ s.slotSt j →
    (s.slotImg j).sec 0x10 v i = some r → (s.slotImg j).refLearn r = true → 5 ≤ n → n ≤ 63 →
    s.on (R.VJ_ACTIVE_VALID v) = true → s.get (R.VJ_ACTIVE_SLOT v) = j →
    ((s.get (R.LEARN_STATE_STATE v) ≠ 1 → s.get (R.LEARN_STATE_STATE v) ≠ 2 →
        (n * (s.slotImg j).refSize r + 65535) / 65536 ≤ s.get R.FREE_WORK_SEGS →
        Answers (.refLearn m) s fun t => t.get (R.LEARN_STATE_STATE v) = 1 ∧ t.get (R.LEARN_STATE_SLOT v) = j ∧
          t.get (R.LEARN_COUNT_COLLECTED v) = 0 ∧ (t.learnOf v).n = n ∧ (t.cmdOf m).resp = none ∧
          t.get R.FREE_WORK_SEGS = s.get R.FREE_WORK_SEGS - (n * (s.slotImg j).refSize r + 65535) / 65536) ∧
      (s.get (R.LEARN_STATE_STATE v) = 1 ∨ s.get (R.LEARN_STATE_STATE v) = 2 →
        Answers (.refLearn m) s fun t => t.AnswerIs m Isaow.busy [] ∧ t.regs = s.regs))) ∧
  (∀ (s : State) (m : Fin 1024) (v : Fin 8), s.CanRun m 0x0023 → bitAt (leAt (s.params m) 4 1) 0 = true → leAt (s.params m) 1 1 = v.val →
    s.get (R.LEARN_STATE_STATE v) = 1 ∨ s.get (R.LEARN_STATE_STATE v) = 2 → Answers (.refLearnAbort m) s fun t =>
      t.get (R.LEARN_STATE_STATE v) = 4 ∧ t.get (R.LEARN_STATE_CAUSE v) = 2 ∧ t.AnswerIs m Isaow.ok (t.learnResp v)) ∧
  (∀ (s : State) (v : Fin 8), s.get (R.LEARN_STATE_STATE v) = 2 →
    s.runPoison (Tbl.get [] s.creel.learn v) 0 ((s.learnOf v).n * (s.learnOf v).size) = true → Answers (.learnComputeDone v) s fun t =>
      t.get (R.LEARN_STATE_STATE v) = 4 ∧ t.get (R.LEARN_STATE_CAUSE v) = 3 ∧ Tbl.get [] t.creel.learn v = []) ∧
  (∀ (s : State) (v : Fin 8) (r : Sec), s.get (R.LEARN_STATE_STATE v) = 2 →
    s.runPoison (Tbl.get [] s.creel.learn v) 0 ((s.learnOf v).n * (s.learnOf v).size) = false →
    (s.slotImg (s.learnOf v).slot).sec 0x10 v (s.learnOf v).index = some r → (∀ e ∈ s.creel.flaws, e.ue = false) → Answers (.learnComputeDone v) s fun t =>
      t.get (R.LEARN_STATE_STATE v) = 3 ∧ t.get R.REF_GEN_GEN = (s.get R.REF_GEN_GEN + 1) % 2 ^ R.REF_GEN_GEN.w ∧
      t.bankOf (s.learnOf v).slot v (s.learnOf v).index =
        { cur := 1 - (s.bankOf (s.learnOf v).slot v (s.learnOf v).index).cur, valid := true, gen := t.get R.REF_GEN_GEN } ∧
      Tbl.get [] t.creel.learn v = [])

/-- R553 to R555, R565, R566, R574, R575, R579, R737: delivery rings; and where FB_GO and FB_ABORT complete in the plainest case (R571), of which
`Obligations.FetchCommands` says the rest. -/
def Obligations.RingCommands : Prop :=
  (∀ (s : State) (who : Who) (r : Fin 256) (v : Word), s.hears who = true → s.on (R.RING_CTRL_EN r) = false → bitAt v.toNat 0 = true →
    s.unitOff (ringUnit r) = true → Answers (.ringEnable who r v) s fun t =>
      t.on (R.RING_CTRL_EN r) = true ∧ t.get (R.RING_CTRL_SIZE_LOG2 r) = bitsOf v.toNat 1 5 ∧ t.get (R.RING_PTR_TAIL r) = 0 ∧
      t.get (R.RING_HEAD_HEAD r) = 0 ∧ t.get (R.RING_RSEQ_RSEQ r) = 0 ∧ t.unitOn (ringUnit r) = true) ∧
  (∀ (s : State) (who : Who) (r : Fin 256) (v : Word), s.hears who = true → s.on (R.RING_CTRL_EN r) = true → bitAt v.toNat 0 = false →
    Answers (.ringEnable who r v) s fun t => t.on (R.RING_CTRL_EN r) = false ∧ t.ringQueue r = []) ∧
  (∀ (s : State) (who : Who) (r : Fin 256) (v : Word), s.hears who = true → s.on (R.RING_CTRL_EN r) = false → bitAt v.toNat 0 = false →
    s.unitState (ringUnit r) = .on ∨ s.unitState (ringUnit r) = .fault → (s.unitOf (ringUnit r)).deferred = false →
    Answers (.ringEnable who r v) s fun t => t.on (R.RING_CTRL_EN r) = false ∧ t.unitState (ringUnit r) = .off ∧
      (t.unitOf (ringUnit r)).gen = ((s.unitOf (ringUnit r)).gen + 2) % 2 ^ 32) ∧
  (∀ (s : State) (r : Fin 256) (x : WRec) (q : List WRec), s.on (R.RING_CTRL_EN r) = true → s.on R.WITHY_STATUS_SUSPENDED = false →
    (s.ringSt r).back = none → (Tbl.get (0, 0) s.ringLost r).1 = 0 → s.ringQueue r = x :: q → 3 ≤ s.ringFree r → x.body = .none → x.fetch = none →
    s.ringTurn r = true → (∀ f : Fin 8, (s.fetchOf f).busy = false) → Answers (.recordIssue r) s fun t =>
      t.ringQueue r = q ∧ t.get (R.RING_PTR_TAIL r) = (s.get (R.RING_PTR_TAIL r) + 1) % s.ringSize r ∧
      t.get (R.RING_RSEQ_RSEQ r) = (s.get (R.RING_RSEQ_RSEQ r) + 1) % 2 ^ 32 ∧
      t.get (R.RING_REC_CNT_CNT r) = (s.get (R.RING_REC_CNT_CNT r) + 1) % 2 ^ (R.RING_REC_CNT_CNT r).w ∧
      (s.portRun 0 = true → s.strict 0 = false → s.port.wait = [] →
        ∃ l, t.outs = s.outs ++ [.hostWrite 0 (s.ringEntry r (s.get (R.RING_PTR_TAIL r))) (s.headerOf r x 0 0 0) false] ++ l)) ∧
  (∀ (s : State) (r : Fin 256), s.ringTurn r = false → (∀ x ∈ (s.ringQueue r).head?, x.body = .none) → (∀ f : Fin 8, (s.fetchOf f).busy = false) →
    Answers (.recordIssue r) s fun t => t = s) ∧
  (∀ (s : State) (who : Who) (r : Fin 256) (v : Word), s.hears who = true → bitsOf v.toNat 0 16 < s.ringSize r →
    (bitsOf v.toNat 0 16 + s.ringSize r - s.get (R.RING_HEAD_HEAD r)) % s.ringSize r ≤ s.ringUsed r → Tbl.get (0, 0) s.ringLost r = (0, 0) →
    s.on (R.RING_IRQ_IRQ_EN r) = false → Answers (.ringHeadDb who r v) s fun t =>
      t.get (R.RING_HEAD_HEAD r) = bitsOf v.toNat 0 16 ∧ t.on (R.RING_HEAD_ARMED r) = (bitAt v.toNat 31 || s.on (R.RING_HEAD_ARMED r)) ∧
      OnlyRegs { s with withy := t.withy } t [R.RING_HEAD r]) ∧
  (∀ (s : State) (who : Who) (r : Fin 256) (v : Word), s.hears who = true → s.ringSize r ≤ bitsOf v.toNat 0 16 → Answers (.ringHeadDb who r v) s fun t =>
    t.on (R.RING_STATUS_HEAD_ERR r) = true ∧ t.on R.WITHY_STATUS_HEAD_ERR = true ∧ t.get R.ERR_INFO_NUM = r ∧
    t.on R.ERR_INFO_IS_POOL = false ∧ OnlyRegs s t [R.RING_STATUS r, R.WITHY_STATUS, R.ERR_INFO]) ∧
  (∀ (s : State) (r : Fin 256), s.on (R.RING_CTRL_EN r) = true → s.on (R.RING_IRQ_IRQ_EN r) = true → s.on (R.RING_HEAD_ARMED r) = true →
    s.on (R.RING_IRQ_TIME_US r) = true → 0 < s.ringUsed r → (s.ringSt r).armedAt ≠ none → s.on (R.RING_CTRL_PEER r) = false →
    s.on R.WITHY_STATUS_SUSPENDED = false → s.on (Cfg.MSIX_EN 0) = false → Answers (.ringIrqTimer r) s fun t =>
      t.on (R.RING_HEAD_ARMED r) = false ∧ t.on (R.GIRQ_STATUS_RING 0) = true ∧ (t.ringSt r).armedAt = none) ∧
  (∀ (s : State) (r : Fin 256) (b : WBack) (x : WRec) (q : List WRec), (s.ringSt r).back = some b → b.arrived = true → (s.ringSt r).irqBack = none →
    s.ringHeld r = false → s.ringQueue r = x :: q → x.fetch = none → (∀ f : Fin 8, (s.fetchOf f).busy = false) →
    Answers (.peerReadBack r) s fun t => t.ringQueue r = q ∧ (t.ringSt r).back = none ∧
      t.get (R.RING_RSEQ_RSEQ r) = (s.get (R.RING_RSEQ_RSEQ r) + 1) % 2 ^ 32) ∧
  (∀ (s : State) (r : Fin 256), (s.ringSt r).back = none → (s.ringSt r).irqBack = some true → s.on R.WITHY_STATUS_SUSPENDED = false →
    s.on (Cfg.MSIX_EN 0) = false → Answers (.peerReadBack r) s fun t => (t.ringSt r).irqBack = none ∧ t.on (R.GIRQ_STATUS_RING 0) = true) ∧
  (∀ (s : State) (r : Fin 256), s.on R.WITHY_STATUS_SUSPENDED = true → Answers (.peerReadBack r) s fun t => t = s) ∧
  (∀ (s : State) (who : Who) (f : Fin 8), s.hears who = true → s.on (R.FB_RESULT_DONE f) = true → s.get (R.FB_CTRL_MODE f) = 1 → 1 ≤ s.get (R.FB_COUNT_TAGS f) →
    s.get (R.FB_COUNT_TAGS f) ≤ 4096 → s.on (R.RING_CTRL_EN (s.get (R.FB_CTRL_RING f))) = true → s.port.wait = [] →
    ∃ t, exec (.fbGo who f) s = .next t ∧ t.on (R.FB_RESULT_DONE f) = false ∧ (t.fetchOf f).busy = true ∧ (t.fetchOf f).count = s.get (R.FB_COUNT_TAGS f)) ∧
  (∀ (s : State) (who : Who) (f : Fin 8), s.hears who = true → (s.fetchOf f).busy = true →
    ∃ t, exec (.fbAbort who f) s = .next t ∧ (t.fetchOf f).busy = false ∧ t.on (R.FB_RESULT_DONE f) = true ∧ t.get (R.FB_RESULT_STATUS f) = 3)

/-- R558, R559, R561 to R564, R581: page pools. -/
def Obligations.PoolCommands : Prop :=
  (∀ (s : State) (who : Who) (p : Fin 64) (v : Word), s.hears who = true → s.poolSt p = 0 → bitAt v.toNat 0 = true → bitsOf v.toNat 1 2 ≠ 3 →
    1 ≤ s.get (R.POOL_PAGES_PAGES p) → s.get (R.POOL_PAGES_PAGES p) ≤ 262144 → s.get R.PAGES_TOTAL_PAGES + s.get (R.POOL_PAGES_PAGES p) ≤ 1048576 →
    Answers (.poolEnable who p v) s fun t => t.poolSt p = 1 ∧ t.get (R.POOL_FREE_PAGES p) = s.get (R.POOL_PAGES_PAGES p) ∧
      t.get R.PAGES_TOTAL_PAGES = s.get R.PAGES_TOTAL_PAGES + s.get (R.POOL_PAGES_PAGES p) ∧ t.on (R.POOL_CTRL_EN p) = true ∧
      t.poolOf p = (s.poolOf p).anew) ∧
  (∀ (s : State) (who : Who) (p : Fin 64) (v : Word), s.hears who = true → 2 ≤ s.poolSt p → bitAt v.toNat 0 = true → Answers (.poolEnable who p v) s fun t =>
    t.on (R.POOL_STATE_POOL_REJ p) = true ∧ OnlyRegs s t [R.POOL_STATE p]) ∧
  (∀ (s : State) (who : Who) (p : Fin 64) (v : Word), s.hears who = true → s.poolSt p = 0 → bitAt v.toNat 0 = true → s.get (R.POOL_PAGES_PAGES p) = 0 →
    Answers (.poolEnable who p v) s fun t => t.poolSt p = 0 ∧ t.on (R.POOL_CTRL_EN p) = false ∧ t.on (R.POOL_STATE_POOL_REJ p) = true) ∧
  (∀ (s : State) (who : Who) (p : Fin 64) (v : Word), s.hears who = true → s.poolSt p ≠ 0 → bitsOf v.toNat 18 8 = 0 →
    Tbl.get none (s.poolOf p).pages (bitsOf v.toNat 0 18) = some .posted → Answers (.poolFreeDb who p v) s fun t =>
      Tbl.get none (t.poolOf p).pages (bitsOf v.toNat 0 18) = none ∧
      t.get (R.POOL_POSTED_PAGES p) = s.get (R.POOL_POSTED_PAGES p) - 1 ∧
      t.get (R.POOL_FREE_PAGES p) = (s.get (R.POOL_FREE_PAGES p) + 1) % 2 ^ (R.POOL_FREE_PAGES p).w ∧
      (bitAt v.toNat 31 = true → t.tlbFind p (bitsOf v.toNat 0 18) = none) ∧
      ∀ i, i ≠ bitsOf v.toNat 0 18 → Tbl.get none (t.poolOf p).pages i = Tbl.get none (s.poolOf p).pages i) ∧
  (∀ (s : State) (who : Who) (p : Fin 64) (v : Word), s.hears who = true → s.poolSt p = 0 → Answers (.poolFreeDb who p v) s fun t =>
    t.on R.WITHY_STATUS_FREE_ERR = true ∧ t.get R.ERR_INFO_NUM = p ∧ t.on R.ERR_INFO_IS_POOL = true ∧
    OnlyRegs s t [R.WITHY_STATUS, R.FREE_ERR_CNT, R.ERR_INFO]) ∧
  (∀ (s : State) (r : Fin 256) (x : WRec) (q : List WRec), s.ringQueue r = x :: q → x.body ≠ .none → x.type ≠ 3 → (s.ringSt r).back = none →
    s.poolSt (s.get (R.RING_CTRL_POOL r)) ≠ 4 → s.get (R.POOL_FREE_PAGES (s.get (R.RING_CTRL_POOL r))) + (s.ringSt r).got.length + (s.ringSt r).walk.toList.length <
      s.pagesFor (s.get (R.RING_CTRL_POOL r)) (s.bodyLen x) → (∀ f : Fin 8, (s.fetchOf f).busy = false) →
    Answers (.poolWaitExpire r) s fun t => t.ringQueue r = lossFor x 11 :: q ∧ (t.ringSt r).got = [] ∧
      t.get (R.NOBUF_CNT_CNT (s.get (R.RING_CTRL_POOL r))) =
        min (s.get (R.NOBUF_CNT_CNT (s.get (R.RING_CTRL_POOL r))) + 1) (2 ^ (R.NOBUF_CNT_CNT 0).w - 1)) ∧
  (∀ (s : State) (who : Who) (p : Fin 64), s.hears who = true → s.poolSt p = 3 → Answers (.disable who p) s fun t =>
    t.poolSt p = 0 ∧ t.poolOf p = (s.poolOf p).anew ∧ t.get (R.POOL_FREE_PAGES p) = 0 ∧ ∀ i, t.tlbFind p i = none) ∧
  (∀ (s : State) (who : Who) (p : Fin 64), s.hears who = true → s.poolSt p = 1 ∨ s.poolSt p = 4 → Answers (.disable who p) s fun t =>
    (t.poolSt p = 2 ∨ t.poolSt p = 0) ∧ ∀ i, t.tlbFind p i = none) ∧
  (∀ (s : State) (who : Who) (p : Fin 64) (named : List Nat) (r : Fin 256), s.hears who = true → s.poolSt p = 1 → s.on (R.RING_CTRL_EN r) = true → 0 < s.ringUsed r →
    Answers (.reclaim who p named) s fun t => t.poolSt p = 4 ∧ (t.poolOf p).pages = (s.poolOf p).pages ∧ (t.poolOf p).keep = [] ∧
      (∀ i, t.tlbFind p i = none) ∧ ∀ q, s.get (R.RING_CTRL_POOL q) = p → t.ringHeld q = true) ∧
  (∀ (s : State) (who : Who) (p : Fin 64) (named : List Nat), s.hears who = true → s.poolSt p = 1 → (∀ r : Fin 256, s.on (R.RING_CTRL_EN r) = true → s.ringUsed r = 0) →
    Answers (.reclaim who p named) s fun t => t.poolSt p = 1 ∧ (∀ i, t.tlbFind p i = none) ∧
      ∀ i, Tbl.get none (s.poolOf p).pages i = some .posted → Tbl.get none (t.poolOf p).pages i = none) ∧
  (∀ (s : State) (tag : Fin 1024) (p : Fin 64) (q : HostReq) (data : List Byte), Tbl.get none s.port.out tag = some q →
    q.kind = .reclaim p (s.poolOf p).gen .header → q.len = 64 → s.poolSt p = 4 → (s.poolOf p).await = 1 → leAt (padTo 64 data) 3 1 = p.val →
    leAt (padTo 64 data) 32 4 ≠ 0 → bitAt (leAt (padTo 64 data) 1 1) 4 = false → Answers (.completionRx tag true data false) s fun t =>
      t.poolSt p = 1 ∧ (∀ i, i ∉ (s.poolOf p).keep → i ≠ leAt (padTo 64 data) 36 4 % 2 ^ 18 →
        Tbl.get none (s.poolOf p).pages i = some .posted → Tbl.get none (t.poolOf p).pages i = none) ∧
      ∀ i, i ∈ (s.poolOf p).keep ∨ i = leAt (padTo 64 data) 36 4 % 2 ^ 18 →
        Tbl.get none (t.poolOf p).pages i = Tbl.get none (s.poolOf p).pages i)

/-- R571, R572: FB_GO and FB_ABORT. -/
def Obligations.FetchCommands : Prop :=
  (∀ (s : State) (who : Who) (f : Fin 8), s.hears who = true → s.on (R.FB_RESULT_DONE f) = false → Answers (.fbGo who f) s fun t =>
    t.on (R.FB_RESULT_CMD_IGN f) = true ∧ OnlyRegs s t [R.FB_RESULT f]) ∧
  (∀ (s : State) (who : Who) (f : Fin 8), s.hears who = true → s.on (R.FB_RESULT_DONE f) = true →
    (s.get (R.FB_CTRL_MODE f) ≠ 1 ∧ s.get (R.FB_CTRL_MODE f) ≠ 2) ∨ s.get (R.FB_COUNT_TAGS f) = 0 ∨ 4096 < s.get (R.FB_COUNT_TAGS f) ∨
      s.on (R.RING_CTRL_EN (s.get (R.FB_CTRL_RING f))) = false → Answers (.fbGo who f) s fun t =>
      t.get (R.FB_RESULT_STATUS f) = 2 ∧ t.on (R.FB_RESULT_DONE f) = true ∧ (t.fetchOf f).busy = false) ∧
  (∀ (s : State) (who : Who) (f : Fin 8), s.hears who = true → s.on (R.FB_RESULT_DONE f) = true → s.get (R.FB_CTRL_MODE f) = 1 → 1 ≤ s.get (R.FB_COUNT_TAGS f) →
    s.get (R.FB_COUNT_TAGS f) ≤ 4096 → s.on (R.RING_CTRL_EN (s.get (R.FB_CTRL_RING f))) = true → Answers (.fbGo who f) s fun t =>
      t.on (R.FB_RESULT_DONE f) = false ∧ t.get (R.FB_FULL_CNT_CNT f) = 0 ∧ t.get (R.FB_LOSS_CNT_CNT f) = 0 ∧
      (t.fetchOf f).busy = true ∧ (t.fetchOf f).ring = s.get (R.FB_CTRL_RING f) ∧ (t.fetchOf f).view = s.get (R.FB_CTRL_VIEW f) ∧
      (t.fetchOf f).count = s.get (R.FB_COUNT_TAGS f)) ∧
  (∀ (s : State) (who : Who) (f : Fin 8), s.hears who = true → (s.fetchOf f).busy = true → Answers (.fbAbort who f) s fun t =>
    t.get (R.FB_RESULT_STATUS f) = 3 ∧ t.on (R.FB_RESULT_DONE f) = true ∧ (t.fetchOf f).busy = false ∧
    ∀ y ∈ t.ringQueue (s.fetchOf f).ring, y.fetch ≠ some f.val) ∧
  (∀ (s : State) (who : Who) (f : Fin 8), s.hears who = true → (s.fetchOf f).busy = false → Answers (.fbAbort who f) s fun t => t = s)

/-- R591, R597 to R602, R725: requests that reach the device. -/
def Obligations.PeerWindowCommands : Prop :=
  (∀ (s : State) (off d : Nat) (bs : List Byte), s.winReached off bs.length = true → s.winCheck off bs.length true = .ok [(d, bs.length)] →
    (∀ u, s.poisoned u = false) → (∀ e ∈ s.creel.flaws, unitIn d bs.length e.unit = false) → s.on R.PCIE_LINK_L1 = false → Answers (.peerWindowWrite off bs false) s fun t =>
      t.regs = s.regs ∧ (∀ a, a < d ∨ d + bs.length ≤ a → t.byte a = s.byte a) ∧ ∀ i, i < bs.length → t.byte (d + i) = bs.getD i 0) ∧
  (∀ (s : State) (off i cause : Nat) (bs : List Byte), s.winReached off bs.length = true → s.winCheck off bs.length true = .error (i, cause) →
    Answers (.peerWindowWrite off bs false) s fun t => t.mem = s.mem ∧ t.get R.WIN_ERR_INFO_DESC = i % 16 ∧
      t.get R.WIN_ERR_INFO_CAUSE = cause % 8 ∧ t.on R.WIN_ERR_INFO_WRITE = true ∧ t.on R.WIN_ERR_INFO_VALID = true ∧
      t.get2 R.WIN_ERR_ADDR_LO_OFFSET R.WIN_ERR_ADDR_HI_OFFSET = off % 2 ^ 36 ∧
      t.get R.WIN_DROP_CNT_CNT = min (s.get R.WIN_DROP_CNT_CNT + 1) (2 ^ 32 - 1) ∧
      (cause = 3 → t.on R.MEM_STATUS_DENIED = true)) ∧
  (∀ (s : State) (off len : Nat) (l : List (Nat × Nat)), s.winReached off len = true → s.winCheck off len false = .ok l → s.strict 0 = false → s.port.wait = [] →
    (∀ e ∈ s.creel.flaws, ∀ x ∈ l, unitIn x.1 x.2 e.unit = false) → Answers (.peerWindowRead off len []) s fun t => t.mem = s.mem ∧ t.outs = s.outs ++
      [.cplData 0 (some (l.flatMap fun x => s.bytes x.1 x.2)) (l.any fun x => s.readPoison x.1 x.2)]) ∧
  (∀ (s : State) (off len i cause : Nat), s.winReached off len = true → s.winCheck off len false = .error (i, cause) → s.strict 0 = false → s.port.wait = [] →
    Answers (.peerWindowRead off len []) s fun t => t.outs.getLast? = some (.cplData 0 none) ∧ t.on R.WIN_ERR_INFO_WRITE = false ∧
      t.get R.WIN_ERR_INFO_CAUSE = cause % 8 ∧ t.get R.UR_CNT_CNT = min (s.get R.UR_CNT_CNT + 1) (2 ^ 32 - 1)) ∧
  (∀ (s : State) (off len : Nat), s.winReached off len = false → s.strict 0 = false → s.port.wait = [] →
    Answers (.peerWindowRead off len []) s fun t => t.mem = s.mem ∧ t.outs.getLast? = some (.cplData 0 none) ∧
      t.get R.UR_CNT_CNT = min (s.get R.UR_CNT_CNT + 1) (2 ^ 32 - 1) ∧ t.get R.WIN_DROP_CNT_CNT = s.get R.WIN_DROP_CNT_CNT) ∧
  (∀ (s : State) (who : Who), s.hears who = true → (∀ i : Fin 16, s.winBad i = false) → Answers (.windowCommit who) s fun t =>
    (∀ i : Fin 16, t.reg (R.ACT_WIN_CFG i) = s.reg (R.WIN_CFG i) ∧ t.reg (R.ACT_WIN_BAR i) = s.reg (R.WIN_BAR i) ∧
      t.reg (R.ACT_WIN_TGT i) = s.reg (R.WIN_TGT i) ∧ bitAt (t.get R.WIN_STATUS_ACTIVE) i = s.on (R.WIN_CFG_EN i)) ∧
    t = { s with regs := t.regs }) ∧
  (∀ (s : State) (who : Who) (i : Fin 16), s.hears who = true → s.winBad i = true → (∀ j : Fin 16, j < i → s.winBad j = false) → Answers (.windowCommit who) s fun t =>
    t.on R.WIN_STATUS_WINDOW_REJ = true ∧ t.get R.WIN_STATUS_REJ_DESC = i ∧ OnlyRegs s t [R.WIN_STATUS]) ∧
  (∀ (s : State) (f : Fin 2) (write poison : Bool) (off len part : Nat), 64 < len → Answers (.bar0BadRequest f .memory write off len part poison) s fun t =>
    t.get R.UR_CNT_CNT = min (s.get R.UR_CNT_CNT + 1) (2 ^ 32 - 1) ∧
      (write = false → s.strict f = false → s.port.wait = [] → t.outs.getLast? = some (.cplData f none))) ∧
  (∀ (s : State) (f : Fin 2) (off len part : Nat), s.memAccess f = true → 1 ≤ len → off % 64 + len ≤ 64 →
    Answers (.bar0BadRequest f .memory true off len part false) s fun t =>
      t.get R.PARTIAL_WR_CNT_CNT = min (s.get R.PARTIAL_WR_CNT_CNT + part) (2 ^ R.PARTIAL_WR_CNT_CNT.w - 1) ∧ OnlyRegs s t [R.PARTIAL_WR_CNT, R.PCIE_LINK]) ∧
  (∀ (s : State) (f : Fin 2) (kind : BadTlp) (write poison : Bool) (off len part : Nat), kind ∈ [.vendor0, .message, .atomicOp, .io] →
    Answers (.bar0BadRequest f kind write off len part poison) s fun t => t.get R.UR_CNT_CNT = min (s.get R.UR_CNT_CNT + 1) (2 ^ 32 - 1) ∧
      t.mem = s.mem ∧ (kind ∈ [.atomicOp, .io] → s.strict f = false → s.port.wait = [] → t.outs.getLast? = some (.cplData f none))) ∧
  (∀ (s : State) (f : Fin 2) (write poison : Bool) (off len part : Nat), s.on R.PCIE_LINK_L1 = false →
    Answers (.bar0BadRequest f .vendor1 write off len part poison) s fun t => t = s) ∧
  (∀ (s : State) (f : Fin 2) (write : Bool) (off : Fin 4096) (be : Fin 16) (v : Word), s.skep.released = false → s.strict f = false → s.port.wait = [] →
    Answers (.configRequest f write off be v) s fun t => t.outs = s.outs ++ [.cplConfig f 2 0] ∧ OnlyRegs { s with outs := t.outs } t [R.PCIE_LINK]) ∧
  (∀ (s : State) (f : Fin 2) (off : Fin 4096) (be : Fin 16) (v : Word), s.skep.released = true → Tbl.get false s.port.flr f = false →
    s.strict f = false → s.port.wait = [] → Answers (.configRequest f false off be v) s fun t =>
      t.outs = s.outs ++ [.cplConfig f 0 (s.reg (Cfg.base f + off.val / 4 * 4))]) ∧
  (∀ (s : State) (f : Fin 2) (v : Word), s.skep.released = true → Tbl.get false s.port.flr f = false → s.strict f = false → s.port.wait = [] →
    Answers (.configRequest f true 4 15 v) s fun t => t.on (Cfg.BME f) = bitAt v.toNat 2 ∧ t.on (Cfg.INT_DIS f) = bitAt v.toNat 10 ∧
      t.outs.getLast? = some (.cplConfig f 0 0))

/-- R605, R607 to R609, R629, R636: COMPLETION_RX, COMPLETION_TIMEOUT and TAG_QUARANTINE_END. -/
def Obligations.RequestCommands : Prop :=
  (∀ (s : State) (tag : Fin 1024) (ok poison : Bool) (data : List Byte), Tbl.get none s.port.out tag = none →
    Answers (.completionRx tag ok data poison) s fun t => t.get R.LATE_CPL_CNT_CNT = min (s.get R.LATE_CPL_CNT_CNT + 1) (2 ^ 32 - 1) ∧
      t.dma = s.dma ∧ t.withy = s.withy) ∧
  (∀ (s : State) (tag : Fin 1024) (n : Fin 16) (q : HostReq) (gen : Nat) (again : Bool) (data : List Byte), Tbl.get none s.port.out tag = some q →
    q.kind = .dmaDesc n gen again → (s.dmaOf n).gen = gen → s.dmaSt n = 1 ∨ s.dmaSt n = 2 → s.port.wait = [] →
    (Answers (.completionRx tag true data false) s fun t =>
      (t.dmaOf n).raw = some (padTo q.len data, false) ∧ (∀ q', Tbl.get none t.port.out tag = some q' → q'.kind ≠ .dmaDesc n gen again) ∧ t.dmaSt n = s.dmaSt n) ∧
    (Answers (.completionRx tag false data false) s fun t =>
      t.dmaSt n = 3 ∧ t.get (R.DMA_CH_STATE_CAUSE n) = 2 ∧ ∀ q', Tbl.get none t.port.out tag = some q' → q'.kind ≠ .dmaDesc n gen again) ∧
    (Answers (.completionTimeout tag) s fun t =>
      t.dmaSt n = 3 ∧ t.get (R.DMA_CH_STATE_CAUSE n) = 1 ∧ tag.val ∈ t.port.quar ∧
      t.get R.CPL_TO_CNT_CNT = min (s.get R.CPL_TO_CNT_CNT + 1) (2 ^ 32 - 1))) ∧
  (∀ (s : State) (tag : Fin 1024), Answers (.tagQuarantineEnd tag) s fun t => tag.val ∉ t.port.quar ∧
    ∀ x, x ≠ tag.val → (x ∈ t.port.quar ↔ x ∈ s.port.quar))

/-- R580, R605, R613, R615, R617 to R622, R727, R728: resets, link, errors and power management of the port. -/
def Obligations.PortResetCommands : Prop :=
  (∀ (s : State) (c : Instr) (x : Fld), (c, x) ∈ [(.perst, R.RESET_CAUSE_PERST), (.hotReset, R.RESET_CAUSE_HOT_RESET)] → Answers c s fun t =>
    t.on x = true ∧ t.on R.PCIE_LINK_UP = false ∧ t.on (Cfg.BME 0) = false ∧ t.on (Cfg.BME 1) = false ∧
    t.reg R.TAG_LIMIT = regReset R.TAG_LIMIT ∧ t.on R.WITHY_STATUS_SUSPENDED = true ∧ (c = .perst → t.port.perst = true)) ∧
  (∀ (s : State) (f : Fin 2), Answers (.functionLevelReset f) s fun t => t.on (Cfg.BME f) = false ∧ Tbl.get false t.port.flr f = false ∧
    t.on (if f.val = 0 then R.RESET_CAUSE_FLR_0 else R.RESET_CAUSE_FLR_1) = true ∧
    t.on (Cfg.BME (1 - f.val)) = s.on (Cfg.BME (1 - f.val)) ∧ t.on R.PCIE_LINK_UP = s.on R.PCIE_LINK_UP) ∧
  (∀ (s : State) (rate width : Nat) (flit : Bool), s.port.perst = false → s.boot.down = false → Answers (.pcieLinkChange (.up rate width flit)) s fun t =>
    t.on R.PCIE_LINK_UP = true ∧ t.get R.PCIE_LINK_RATE = rate % 8 ∧ t.get R.PCIE_LINK_WIDTH = width % 32 ∧ t.on R.PCIE_LINK_FLIT = flit ∧
    t.on R.WITHY_STATUS_SUSPENDED = !(s.on (Cfg.BME 0) && s.get (Cfg.PM_STATE 0) == 0 && !s.port.stopped)) ∧
  (∀ (s : State) (rate width : Nat) (flit : Bool), s.port.perst = true ∨ s.boot.down = true → Answers (.pcieLinkChange (.up rate width flit)) s fun t => t = s) ∧
  (∀ (s : State), Answers (.pcieLinkChange .down) s fun t => t.reg R.PCIE_LINK = 0 ∧ t.on R.WITHY_STATUS_SUSPENDED = true) ∧
  (∀ (s : State) (f : Fin 2), Answers (.pcieLinkChange (.error f .internal)) s fun t => t.port.stopped = true ∧
    t.on R.WITHY_STATUS_SUSPENDED = true ∧ bitAt (t.get (Cfg.UNCOR f)) 22 = true) ∧
  (∀ (s : State) (f : Fin 2), Answers (.pcieLinkChange (.error f .badTlp)) s fun t => t.port.stopped = s.port.stopped ∧ bitAt (t.get (Cfg.COR f)) 6 = true) ∧
  (∀ (s : State) (f : Fin 2), bitAt (s.reg (Cfg.base f + 0x118)).toNat 8 = false → Answers (.pcieLinkChange (.error f .ecrc)) s fun t => t = s) ∧
  (∀ (s : State) (f : Fin 2) (d3 : Bool), Answers (.pmStateChange f d3) s fun t => t.get (Cfg.PM_STATE f) = (if d3 then 3 else 0) ∧
    (f.val = 0 → d3 = true → t.on R.WITHY_STATUS_SUSPENDED = true)) ∧
  (∀ (s : State) (f : Fin 2), s.get (Cfg.PM_STATE f) = 3 → s.on (Cfg.PME_STATUS f) = true → s.strict f = false → s.port.wait = [] → Answers (.pmeResend f) s fun t =>
    t.outs = s.outs ++ [.pmPme f] ∧ t.on (Cfg.PME_STATUS f) = true) ∧
  (∀ (s : State), s.on R.PCIE_LINK_UP = true → bitAt (s.get (Cfg.ASPM 0)) 1 = true → s.on R.PCIE_LINK_L1 = false → s.port.out = [] →
    s.port.wait = [] → Answers .l1Entry s fun t => t.on R.PCIE_LINK_L1 = true ∧ t.outs = s.outs ++ [.enterL1] ∧
      OnlyRegs { s with outs := t.outs } t [R.PCIE_LINK]) ∧
  (∀ (s : State) (k : Fin 8) (level : Bool), s.boot.down = true → s.port.pmeArmed = true → bitAt (s.get R.WAKE_CFG_MASK) k = true →
    bitAt (s.get R.WAKE_CFG_POL) k = level → s.port.wake = false → Answers (.wakePin k level) s fun t =>
      t.port.wake = true ∧ t.outs = s.outs ++ [.wake true] ∧ t.regs = s.regs) ∧
  (∀ (s : State), Answers .perstDeassert s fun t => t.port.perst = false ∧ t.port.wake = false ∧ t.regs = s.regs ∧
    t.outs = s.outs ++ (if s.port.wake then [.wake false] else []))

/-- R626 to R630, R632, R634 to R636, R639: the DMA channels. -/
def Obligations.DmaCommands : Prop :=
  (∀ (s : State) (who : Who) (n : Fin 16), s.hears who = true → s.dmaSt n = 0 → s.get2 (R.DESC_PTR_LO_ADDR n) (R.DESC_PTR_HI_ADDR n) % 32 = 0 →
    Answers (.dmaStart who n) s fun t => t.dmaSt n = 1 ∧ t.on (R.DMA_CH_CTRL_EN n) = true ∧ t.get (R.DESC_CNT_CNT n) = 0 ∧
      t.get2 (R.BYTE_CNT_LO_BYTES n) (R.BYTE_CNT_HI_BYTES n) = 0 ∧ t.get (R.SEEN_CNT_CNT n) = s.get (R.APPEND_CNT_CNT n) ∧
      t.dmaCur n = s.get2 (R.DESC_PTR_LO_ADDR n) (R.DESC_PTR_HI_ADDR n) ∧ (t.dmaOf n).chain = 1) ∧
  (∀ (s : State) (who : Who) (n : Fin 16), s.hears who = true → s.dmaSt n ≠ 0 ∨ s.get2 (R.DESC_PTR_LO_ADDR n) (R.DESC_PTR_HI_ADDR n) % 32 ≠ 0 →
    Answers (.dmaStart who n) s fun t => t.on (R.DMA_CH_STATE_START_REJ n) = true ∧ OnlyRegs s t [R.DMA_CH_STATE n]) ∧
  (∀ (s : State) (who : Who) (n : Fin 16), s.hears who = true → 1 ≤ s.dmaSt n → s.dmaSt n ≤ 3 → Answers (.dmaDisable who n) s fun t =>
    t.dmaSt n = 4 ∧ t.on (R.DMA_CH_CTRL_EN n) = false ∧ t.outs = s.outs ∧ (t.dmaOf n).desc = none) ∧
  (∀ (s : State) (who : Who) (n : Fin 16), s.hears who = true → s.dmaSt n = 0 → Answers (.dmaDisable who n) s fun t =>
    t.dmaSt n = 0 ∧ t.on (R.DMA_CH_CTRL_EN n) = false ∧ t.dma = s.dma ∧ t.port = s.port) ∧
  (∀ (s : State) (n : Fin 16), s.dmaSt n = 4 → (∀ e ∈ s.port.out, ∀ q, e.2 = some q → q.kind.dma n = false) → Answers (.dmaDrainDone n) s fun t =>
    t.dmaSt n = 0 ∧ t.dma = s.dma ∧ t.port = s.port) ∧
  (∀ (s : State) (n : Fin 16) (bs : List Byte) (poison : Bool), (s.dmaOf n).raw = some (bs, poison) → s.dmaMay = true → s.dmaSt n = 1 →
    (dmaParse bs).bad = true → Answers (.dmaDescFetched n) s fun t => t.dmaSt n = 3 ∧ t.get (R.DMA_CH_STATE_CAUSE n) = 4 ∧
      t.get2 (R.ERR_ADDR_LO_ADDR n) (R.ERR_ADDR_HI_ADDR n) = s.dmaCur n) ∧
  (∀ (s : State) (n : Fin 16) (bs : List Byte) (poison : Bool), (s.dmaOf n).raw = some (bs, poison) → s.dmaMay = true → s.dmaSt n = 1 →
    (dmaParse bs).bad = false → bitAt (dmaParse bs).flags 3 = false → Answers (.dmaDescFetched n) s fun t =>
      t.dmaSt n = 1 ∧ (t.dmaOf n).desc = some (dmaParse bs) ∧ (t.dmaOf n).raw = none) ∧
  (∀ (s : State) (n : Fin 16), s.dmaMay = false → (Answers (.dmaDescFetched n) s fun t => t = s) ∧ Answers (.dmaDescComplete n) s fun t => t = s) ∧
  (∀ (s : State) (n : Fin 16) (bs : List Byte) (poison : Bool), (s.dmaOf n).raw = some (bs, poison) → s.dmaMay = true → s.dmaSt n = 2 →
    (dmaParse bs).bad = false → bitAt (dmaParse bs).flags 0 = false → (s.dmaOf n).chain < max 1 (s.get (R.CHAIN_MAX_MAX n)) →
    Answers (.dmaDescFetched n) s fun t => t.dmaSt n = 1 ∧ t.dmaCur n = (dmaParse bs).next ∧ (t.dmaOf n).chain = (s.dmaOf n).chain + 1) ∧
  (∀ (s : State) (n : Fin 16) (d : DmaDesc), (s.dmaOf n).desc = some d → s.dmaMay = true → s.port.wait = [] → s.dmaSt n = 1 →
    d.len ≤ (s.dmaOf n).written →
    bitAt d.flags 4 = true ∨ (s.dmaOf n).back = some true → Answers (.dmaDescComplete n) s fun t =>
      t.get (R.DESC_CNT_CNT n) = (s.get (R.DESC_CNT_CNT n) + 1) % 2 ^ 32 ∧
      t.get2 (R.BYTE_CNT_LO_BYTES n) (R.BYTE_CNT_HI_BYTES n) =
        (s.get2 (R.BYTE_CNT_LO_BYTES n) (R.BYTE_CNT_HI_BYTES n) + d.len) % 2 ^ 64 ∧ (t.dmaOf n).desc = none ∧
      (bitAt d.flags 0 = true → t.dmaSt n = 2) ∧
      (bitAt d.flags 0 = false → (s.dmaOf n).chain < max 1 (s.get (R.CHAIN_MAX_MAX n)) → t.dmaSt n = 1 ∧ t.dmaCur n = d.next % 2 ^ 64) ∧
      (bitAt d.flags 0 = false → max 1 (s.get (R.CHAIN_MAX_MAX n)) ≤ (s.dmaOf n).chain → t.dmaSt n = 3 ∧ t.get (R.DMA_CH_STATE_CAUSE n) = 5)) ∧
  (∀ (s : State) (who : Who) (n : Fin 16), s.hears who = true → s.dmaSt n ≠ 2 → Answers (.appendDb who n) s fun t =>
    t.get (R.APPEND_CNT_CNT n) = (s.get (R.APPEND_CNT_CNT n) + 1) % 2 ^ 32 ∧ OnlyRegs s t [R.APPEND_CNT n]) ∧
  (∀ (s : State) (who : Who) (n : Fin 16), s.hears who = true → s.dmaSt n = 2 → s.get (R.APPEND_CNT_CNT n) = s.get (R.SEEN_CNT_CNT n) → s.port.out = [] →
    s.port.wait = [] → (s.dmaOf n).raw = none → s.portRun 0 = true → s.strict 0 = false → Answers (.appendDb who n) s fun t =>
      t.dmaSt n = 2 ∧ (t.port.wait = [] → t.get (R.SEEN_CNT_CNT n) = (s.get (R.APPEND_CNT_CNT n) + 1) % 2 ^ 32 ∧
        t.outs = s.outs ++ [.hostRead 0 (s.dmaCur n) 32]))

/-- R653, R662: the refusals of the rows whose opcode alone selects them, and the answer of a request that no row runs. -/
def Obligations.IsaowRefusals : Prop :=
  (∀ (s : State) (m : Fin 1024) (st a b : Nat) (c : Instr) (op : Nat),
    (c, op) ∈ [(.helloCmd m, 0x0001), (.summary m, 0x0002), (.unitGet m, 0x0010), (.jobSwitch m, 0x0022), (.calRead m, 0x0030),
      (.logRead m, 0x0032), (.headInfo m, 0x0040), (.lightInfo m, 0x0041), (.selfTest m a b, 0x0060),
      (.patchInfo m, 0x0061)] →
    s.Waits m op → (s.cmdOf m).refusal = some st → Answers c s fun t => t.AnswerIs m st [] ∧ t = { s with skep := t.skep } ∧
      ∀ k, k ≠ m.val → t.cmdOf k = s.cmdOf k) ∧
  (∀ (s : State) (m : Fin 1024) (st : Nat) (bad : Option Nat), s.nvm.writing = none → (s.cmdOf m).fetch = none → s.saveBefore (s.cmdOf m).rung.1 = false →
    s.Waits m 0x0031 → (s.cmdOf m).refusal = some st → Answers (.calWrite m bad) s fun t => t.AnswerIs m st [] ∧ t = { s with skep := t.skep } ∧
      ∀ k, k ≠ m.val → t.cmdOf k = s.cmdOf k) ∧
  (∀ (s : State) (m : Fin 1024) (st : Nat), s.Waits m (reqOp (s.cmdOf m).req) → (s.cmdOf m).refusal = some st → m.val ≤ 20 →
    Answers (.mbCommandDone m) s fun t => t.on (R.MB_STATUS_BUSY m) = false ∧ t.on (R.MB_STATUS_DONE m) = true ∧
      t.get (R.MB_STATUS_LAST_STATUS m) = st ∧ t.boxBytes m 0 8 = respBytes st (reqToken (s.cmdOf m).req) [] ∧ t.cmdOf m = {}) ∧
  (∀ c : SkCmd, isaowRow (reqOp c.req) (reqParams c.req) = none → c.refusal = some Isaow.unsupported) ∧
  (∀ (c : SkCmd) (r : IsaowRow), isaowRow (reqOp c.req) (reqParams c.req) = some r → reqLen c.req < r.lo ∨ r.hi < reqLen c.req →
    c.refusal = some Isaow.badLength) ∧
  (∀ (c : SkCmd) (r : IsaowRow), isaowRow (reqOp c.req) (reqParams c.req) = some r → r.lo ≤ reqLen c.req → reqLen c.req ≤ r.hi →
    8 + reqLen c.req ≤ c.req.length → r.priv = true → c.priv = false → c.refusal = some Isaow.denied)

/-- R655, R656, R658 to R660: commands on units. -/
def Obligations.UnitCommands : Prop :=
  (∀ (s : State) (m : Fin 1024) (u : Nat), s.CanRun m 0x0010 → leAt (s.params m) 0 4 = u → unitExists u = true → Answers (.unitGet m) s fun t =>
    t.AnswerIs m Isaow.ok (s.unitResponse u (s.unitOf u) (s.unitOf u).cause) ∧ t.regs = s.regs ∧ t.units = s.units) ∧
  (∀ (s : State) (m : Fin 1024) (u : Nat), s.CanRun m 0x0010 → leAt (s.params m) 0 4 = u → unitExists u = false → Answers (.unitGet m) s fun t =>
    t.AnswerIs m Isaow.badArg [] ∧ t.units = s.units) ∧
  (∀ (s : State) (m : Fin 1024) (u : Nat), s.CanRun m 0x0011 → leAt (s.params m) 0 4 = u → leAt (s.params m) 4 1 = 1 →
    s.unitSetBad u 1 (s.cmdOf m).priv = none → bitAt (leAt (s.params m) 5 1) 2 = false → s.onRefusal u = none →
    s.unitState u = .off ∨ s.unitState u = .fault → 21000 + s.schedCost (.unit u) ≤ s.get R.PWR_BUDGET_MW →
    Answers (.unitSetOn m) s fun t => t.unitState u = .starting ∧ (t.unitOf u).gen = ((s.unitOf u).gen + 1) % 2 ^ 32 ∧
      t.skep.waiting = s.skep.waiting ++ [(.unit u, s.clk)] ∧ (∀ w, w ≠ u → t.unitOf w = s.unitOf w) ∧ (u / 2 ^ 24 ≠ 2 → t.regs = s.regs) ∧
      ∀ f : Fin 32, u = linkUnit f → t.linkState f ≠ 0 ∧ t.on (R.LINK_CTRL_EN f) = true) ∧
  (∀ (s : State) (m : Fin 1024) (u : Nat), s.CanRun m 0x0011 → leAt (s.params m) 0 4 = u → leAt (s.params m) 4 1 = 1 →
    s.unitSetBad u 1 (s.cmdOf m).priv = none → bitAt (leAt (s.params m) 5 1) 2 = false → s.onRefusal u = none →
    s.unitState u = .starting ∨ s.unitState u = .on → Answers (.unitSetOn m) s fun t =>
      t.AnswerIs m Isaow.ok (s.unitResponse u (s.unitOf u) (s.unitOf u).cause) ∧ t.units = s.units ∧ t.regs = s.regs) ∧
  (∀ (s : State) (m : Fin 1024) (u op : Nat) (c : Instr), (c, op) ∈ [(.unitSetOff m, 0), (.unitSetOn m, 1), (.unitSetRestart m, 2)] →
    s.CanRun m 0x0011 → leAt (s.params m) 0 4 = u → leAt (s.params m) 4 1 = op → s.unitSetBad u op (s.cmdOf m).priv = none →
    bitAt (leAt (s.params m) 5 1) 2 = true → leAt (s.params m) 8 4 ≠ (s.unitOf u).gen → Answers c s fun t =>
      t.AnswerIs m Isaow.staleGen (s.unitResponse u (s.unitOf u) (s.unitOf u).cause) ∧ t.units = s.units ∧ t.regs = s.regs) ∧
  (∀ (s : State) (m : Fin 1024) (u : Nat), s.CanRun m 0x0011 → leAt (s.params m) 0 4 = u → leAt (s.params m) 4 1 = 0 →
    s.unitSetBad u 0 (s.cmdOf m).priv = none → bitAt (leAt (s.params m) 5 1) 2 = false → s.offDeps u = false →
    bitAt (leAt (s.params m) 5 1) 1 = false → s.unitState u = .off → u / 2 ^ 24 ≠ 1 → u / 2 ^ 24 ≠ 2 → Answers (.unitSetOff m) s fun t =>
      t.AnswerIs m Isaow.ok (s.unitResponse u (s.unitOf u) (s.unitOf u).cause) ∧ t.units = s.units ∧ t.regs = s.regs) ∧
  (∀ (s : State) (m : Fin 1024) (u : Nat), s.CanRun m 0x0011 → leAt (s.params m) 0 4 = u → leAt (s.params m) 4 1 = 0 →
    s.unitSetBad u 0 (s.cmdOf m).priv = none → bitAt (leAt (s.params m) 5 1) 2 = false → s.offDeps u = true →
    bitAt (leAt (s.params m) 5 1) 1 = false → Answers (.unitSetOff m) s fun t =>
      t.AnswerIs m Isaow.dependency (s.unitResponse u (s.unitOf u) (s.unitOf u).cause) ∧ t.units = s.units ∧ t.regs = s.regs) ∧
  (∀ (s : State) (m : Fin 1024) (n : Fin 8), s.CanRun m 0x0011 → leAt (s.params m) 0 4 = encUnit n → leAt (s.params m) 4 1 = 0 →
    s.unitSetBad (encUnit n) 0 (s.cmdOf m).priv = none → bitAt (leAt (s.params m) 5 1) 2 = false → s.unitState (encUnit n) = .on →
    (s.unitOf (encUnit n)).deferred = false → Answers (.unitSetOff m) s fun t => t.unitState (encUnit n) = .off ∧ t.on (R.ENC_CTRL_EN n) = false) ∧
  (∀ (s : State) (m : Fin 1024) (l : Fin 32), s.CanRun m 0x0011 → leAt (s.params m) 0 4 = laneUnit l → leAt (s.params m) 4 1 = 2 →
    s.unitSetBad (laneUnit l) 2 (s.cmdOf m).priv = none → bitAt (leAt (s.params m) 5 1) 2 = false → s.stopRefuses (laneUnit l) = false →
    s.laneRateOk l = true → s.on (R.LANE_CTRL_EN l) = true → s.unitState (laneUnit l) = .on → (s.unitOf (laneUnit l)).deferred = false →
    s.laneReady l = false → Answers (.unitSetRestart m) s fun t => t.on (R.LANE_CTRL_EN l) = false ∧
      ((t.unitState (laneUnit l) = .stopping ∧ (t.unitOf (laneUnit l)).deferred = true) ∨
        (t.unitState (laneUnit l) = .starting ∧ (.unit (laneUnit l), s.clk) ∈ t.skep.waiting)) ∧
      t.get (R.LANE_CTRL_TX_PWR l) = 0 ∧ t.get (R.LANE_CTRL_RX_PWR l) = 0) ∧
  (∀ (s : State) (r : Fin 256) (e : UnitEntry), s.skepRuns = true → s.units = [(ringUnit r, e)] → e.state = .on → e.deferred = false →
    s.on (R.RING_CTRL_EN r) = false → 10 ≤ e.downMs → Answers (.unitPathCheck []) s fun t =>
      t.unitState (ringUnit r) = .fault ∧ (t.unitOf (ringUnit r)).cause = 7 ∧ (t.unitOf (ringUnit r)).gen = (e.gen + 1) % 2 ^ 32) ∧
  (∀ (s : State) (l : List Nat), s.skepRuns = false → Answers (.unitPathCheck l) s fun t => t = s)

/-- R652, R663, R664, R668, R693: what the device tells, self-test, and the scheduler. -/
def Obligations.ReportCommands : Prop :=
  (∀ (s : State) (m : Fin 1024), s.CanRun m 0x0001 → Answers (.helloCmd m) s fun t =>
    t.AnswerIs m (if leAt (s.params m) 0 1 = s.get R.ISAOW_VER_MAJOR then Isaow.ok else Isaow.unsupported)
      (leBytes 1 (s.get R.ISAOW_VER_MAJOR) ++ leBytes 1 (min (leAt (s.params m) 1 1) (s.get R.ISAOW_VER_MINOR)) ++ [4, 0] ++
        leBytes 4 (s.get R.FW_VERSION_VERSION)) ∧ t = { s with skep := t.skep }) ∧
  (∀ (s : State) (m : Fin 1024), s.CanRun m 0x0002 → leAt (s.params m) 0 4 = 0 → leAt (s.params m) 8 8 = 0 →
    Answers (.summary m) s fun t => t = { s with skep := t.skep } ∧ t.skep.snapId = (s.skep.snapId + 1) % 2 ^ 32 ∧
      Tbl.get (0, []) t.skep.snaps (reqKey m) = (t.skep.snapId, s.summary t.skep.snapId) ∧
      ∃ p, t.AnswerIs m Isaow.ok p ∧ leAt p 0 4 = 28704 ∧ leAt p 8 4 = t.skep.snapId) ∧
  (∀ (s : State) (m : Fin 1024), s.CanRun m 0x0002 → leAt (s.params m) 0 4 ≠ 0 → (Tbl.get (0, []) s.skep.snaps (reqKey m)).2 = [] →
    Answers (.summary m) s fun t => t.AnswerIs m Isaow.badArg [] ∧ t.skep.snaps = s.skep.snaps) ∧
  (∀ (s : State) (m : Fin 1024) (e : Nat), s.CanRun m 0x0040 → leAt (s.params m) 0 2 = e → e < 2048 → Answers (.headInfo m) s fun t =>
    t.AnswerIs m Isaow.ok (s.regBytes (R.EP_INFO e) 64) ∧ t = { s with skep := t.skep }) ∧
  (∀ (s : State) (m : Fin 1024) (n h : Nat) (x : LHead), s.CanRun m 0x0041 → leAt (s.params m) 0 1 = n → leAt (s.params m) 1 1 = h → n < 8 → h < 32 →
    (s.chainOf n).heads[h]? = some x → Answers (.lightInfo m) s fun t =>
      t.AnswerIs m Isaow.ok ((s.regBytes (R.HEAD_INFO n h) 4 ++ padTo 2048 x.image).take (inlineMax m)) ∧ t = { s with skep := t.skep }) ∧
  (∀ (s : State) (m : Fin 1024), s.CanRun m 0x0061 → Answers (.patchInfo m) s fun t => t = { s with skep := t.skep } ∧
    ∃ p, t.AnswerIs m Isaow.ok p ∧ p.length = 56 ∧ leAt p 0 1 = s.skep.patchStatus % 256 ∧ leAt p 4 4 = s.skep.patchSeq % 2 ^ 32 ∧
      leAt p 12 4 = s.get R.FW_VERSION_VERSION) ∧
  (∀ (s : State) (m : Fin 1024) (a b : Nat), s.CanRun m 0x0060 → leAt (s.params m) 0 4 = 1 → s.skep.cmds = [(m.val, s.cmdOf m)] →
    (s.cmdOf m).test = none → 31000 ≤ s.get R.PWR_BUDGET_MW → Answers (.selfTest m a b) s fun t =>
      t.skep.waiting = s.skep.waiting ++ [(.test m 0, s.clk)] ∧ (t.cmdOf m).test = some { want := 1, failed := a, first := b }) ∧
  (∀ (s : State) (m : Fin 1024) (a b k : Nat), s.CanRun m 0x0060 → k ≠ m.val → (s.cmdOf k).test ≠ none →
    Answers (.selfTest m a b) s fun t => t.AnswerIs m Isaow.busy [] ∧ t.skep.waiting = s.skep.waiting) ∧
  (∀ (s : State) (c : Nat), s.skepRuns = true → s.skep.waiting = [(.hbm, c)] → (∀ e ∈ s.skep.cmds, e.2.test = none) →
    max s.forecast (s.get R.PWR_MEASURED_MW) + 25000 ≤ s.get R.PWR_BUDGET_MW → Answers .schedulerTick s fun t =>
      t.boot.training = true ∧ t.get R.BOOT_STATUS_STAGE = 4 ∧ t.skep.waiting = [] ∧
      OnlyRegs { s with boot := t.boot, skep := t.skep } t [R.BOOT_STATUS]) ∧
  (∀ (s : State) (c : Nat), s.skepRuns = true → s.skep.waiting = [(.hbm, c)] → (∀ e ∈ s.skep.cmds, e.2.test = none) →
    s.get R.PWR_BUDGET_MW < max s.forecast (s.get R.PWR_MEASURED_MW) + 25000 → Answers .schedulerTick s fun t => t = s) ∧
  (∀ s : State, s.skepRuns = true → s.skep.waiting = [] → Answers .schedulerTick s fun t => t = { s with skep := t.skep } ∧
    ∀ m, (t.cmdOf m).test = (s.cmdOf m).test.map fun (x : SelfTest) => { x with ended := x.begun })

/-- R24, R698, R700, R701, R705, R708, R709, R711 to R714: the MRAM. -/
def Obligations.StorageCommands : Prop :=
  (∀ (s : State) (m : Fin 1024) (a n k : Nat), s.CanRun m 0x0030 → leAt (s.params m) 0 4 = a → leAt (s.params m) 4 4 = n →
    leAt (s.params m) 8 8 = 0 → calReadable a n = true → k = min n (inlineMax m - 16) →
    (s.writeMeets a k = false → Answers (.calRead m) s fun t =>
      t.AnswerIs m Isaow.ok (padTo 16 (leBytes 4 k) ++ s.nvBytes a k) ∧ t = { s with skep := t.skep }) ∧
    (s.writeMeets a k = true → Answers (.calRead m) s fun t => t.cmdOf m = s.cmdOf m ∧ t = { s with skep := t.skep })) ∧
  (∀ (s : State) (m : Fin 1024), s.CanRun m 0x0030 → calReadable (leAt (s.params m) 0 4) (leAt (s.params m) 4 4) = false →
    Answers (.calRead m) s fun t => t.AnswerIs m Isaow.badArg [] ∧ t = { s with skep := t.skep }) ∧
  (∀ (s : State) (m : Fin 1024) (a n : Nat), s.CanRun m 0x0031 → s.nvm.writing = none → (s.cmdOf m).fetch = none →
    s.saveBefore (s.cmdOf m).rung.1 = false → leAt (s.params m) 0 4 = a →
    leAt (s.params m) 4 4 = n → leAt (s.params m) 8 8 = 0 → 0x200000 ≤ a → a + n ≤ 0x300000 → a < 0x300000 → 16 + n ≤ (s.params m).length →
    s.writeWindow = true → Answers (.calWrite m none) s fun t => t.AnswerIs m Isaow.ok (leBytes 4 n) ∧
      t.nvBytes a n = ((s.params m).drop 16).take n ∧ (∀ x, x < a ∨ a + n ≤ x → t.nvBytes x 1 = s.nvBytes x 1) ∧ t.nvm.logQ = s.nvm.logQ) ∧
  (∀ (s : State) (m : Fin 1024) (a n g at' size : Nat), s.CanRun m 0x0031 → s.nvm.writing = none → (s.cmdOf m).fetch = none →
    s.saveBefore (s.cmdOf m).rung.1 = false → leAt (s.params m) 0 4 = a → leAt (s.params m) 4 4 = n → leAt (s.params m) 8 8 = 0 →
    calGroupAt a n = some (g, at', size) → 16 + n ≤ (s.params m).length → s.writeWindow = true → Answers (.calWrite m none) s fun t =>
      (t.cmdOf m).resp = none ∧ t.nvm.writing = some ⟨m, g, at', a, n, false, s.calOrigin at'⟩ ∧ t.on R.NVM_STATUS_WRITE_BUSY = true ∧
      t.nvBytes a n = ((s.params m).drop 16).take n ∧ (∀ x, x < a ∨ a + n ≤ x → t.nvBytes x 1 = s.nvBytes x 1) ∧ t.nvm.logQ = s.nvm.logQ) ∧
  (∀ (s : State) (m : Fin 1024) (w : GroupWrite), s.nvm.writing = some w → w.who = m → s.skepRuns = true → (s.cmdOf m).req ≠ [] →
    w.at_ + 16 ≤ w.off → Answers (.calWrite m none) s fun t => t.AnswerIs m Isaow.ok (leBytes 4 w.len) ∧ t.nvm.writing = none ∧
      t.on R.NVM_STATUS_WRITE_BUSY = false ∧ t.calOrigin w.at_ = 2 ∧ (∀ x, x < w.at_ ∨ w.at_ + 16 ≤ x → t.nvBytes x 1 = s.nvBytes x 1)) ∧
  (∀ (s : State) (m : Fin 1024) (bad : Option Nat) (a n : Nat), s.CanRun m 0x0031 → s.nvm.writing = none → (s.cmdOf m).fetch = none →
    s.saveBefore (s.cmdOf m).rung.1 = false → leAt (s.params m) 0 4 = a →
    leAt (s.params m) 4 4 = n → leAt (s.params m) 8 8 = 0 → (0x200000 ≤ a ∧ a + n ≤ 0x300000 ∧ a < 0x300000) ∨ (calGroupAt a n).isSome = true →
    16 + n ≤ (s.params m).length → s.writeWindow = false → Answers (.calWrite m bad) s fun t => t.AnswerIs m Isaow.writeWindow [] ∧ t.mram = s.mram ∧
      t.on R.NVM_STATUS_WRITE_WINDOW = true ∧ t.get R.WRITE_REJ_CNT_CNT = min (s.get R.WRITE_REJ_CNT_CNT + 1) (2 ^ 32 - 1)) ∧
  (∀ (s : State) (m : Fin 1024), s.CanRun m 0x0032 → leAt (s.params m) 4 4 = 0 → Answers (.logRead m) s fun t =>
    t.AnswerIs m Isaow.badArg [] ∧ t = { s with skep := t.skep }) ∧
  (∀ (s : State) (m : Fin 1024) (k : Nat), s.CanRun m 0x0032 → leAt (s.params m) 4 4 = k → 0 < k → k ≤ 63 → leAt (s.params m) 8 8 = 0 →
    s.get R.LOG_OLDEST_SEQ ≤ leAt (s.params m) 0 4 → leAt (s.params m) 0 4 + k ≤ s.get R.LOG_NEXT_SEQ → Answers (.logRead m) s fun t =>
      t = { s with skep := t.skep } ∧ ∃ p, t.AnswerIs m Isaow.ok p ∧ leAt p 0 4 = k ∧ leAt p 4 4 = s.get R.LOG_OLDEST_SEQ ∧
        leAt p 8 4 = s.get R.LOG_NEXT_SEQ ∧ p.length = min (16 + 64 * k) (inlineMax m) ∧ (p.drop 16).take 64 = s.nvBytes (logAddr (leAt (s.params m) 0 4)) 64) ∧
  (∀ (s : State) (r : LogRec) (q : List LogRec) (n : Nat), s.writeWindow = true → s.skepRuns = true → s.nvm.heldStop = none → 0 < s.nvm.lost →
    s.nvm.logQ = r :: q → s.nvm.ctr = [] → s.nvm.writing = none → s.logRoom [r.cause] = true → s.get R.LOG_NEXT_SEQ = n → n + 2 < 2 ^ 32 → (n + 1) % 64 ≠ 0 → (n + 2) % 64 ≠ 0 → r.cause < 65536 →
    Answers (.logRecordWrite none) s fun t => t.nvm.logQ = q ∧ t.nvm.lost = 0 ∧ t.get R.LOG_NEXT_SEQ = n + 2 ∧
      leNat (t.nvBytes (logAddr n + 4) 2) = 16 ∧ leNat (t.nvBytes (logAddr n + 16) 4) = s.nvm.lost % 2 ^ 32 ∧
      leNat (t.nvBytes (logAddr (n + 1) + 4) 2) = r.cause) ∧
  (∀ (s : State) (r : LogRec) (q : List LogRec) (n : Nat), s.writeWindow = true → s.skepRuns = true → s.nvm.heldStop = none → s.nvm.lost = 0 →
    s.nvm.logQ = r :: q → s.nvm.ctr = [] → s.nvm.writing = none → s.logRoom [r.cause] = true → s.get R.LOG_NEXT_SEQ = n → n + 1 < 2 ^ 32 → (n + 1) % 64 ≠ 0 → r.cause < 65536 →
    Answers (.logRecordWrite none) s fun t => t.nvm.logQ = q ∧ t.get R.LOG_NEXT_SEQ = n + 1 ∧ t.get R.LOG_OLDEST_SEQ = n + 1 - 16384 ∧
      leNat (t.nvBytes (logAddr n) 4) = n ∧ leNat (t.nvBytes (logAddr n + 4) 2) = r.cause ∧
      leNat (t.nvBytes (logAddr n + 60) 4) = crc32 (t.nvBytes (logAddr n) 60)) ∧
  (∀ (s : State) (r : LogRec) (q : List LogRec) (bad : Option Nat), s.nvm.heldStop = none → s.nvm.logQ = r :: q → s.nvm.ctr = [] →
    s.logRoom [r.cause] = false → Answers (.logRecordWrite bad) s fun t => t = s) ∧
  (∀ (s : State) (bad : Option Nat), s.writeWindow = false ∨ s.nvm.writing ≠ none → Answers (.logRecordWrite bad) s fun t => t = s) ∧
  (∀ s : State, s.skepRuns = true → s.writeWindow = true → s.nvm.writing = none → Tbl.get none s.nvm.ctr ctrOnHours = none →
    s.ctrValue ctrOnHours + 1 < 2 ^ 32 → Answers (.onHoursTick none) s fun t =>
    t.ctrValue ctrOnHours = s.ctrValue ctrOnHours + 1 ∧ t.get R.ON_HOURS_HOURS = s.ctrValue ctrOnHours + 1) ∧
  (∀ (s : State) (bad : Option Nat), s.skepRuns = false → Answers (.onHoursTick bad) s fun t =>
    t.skep.todo = s.skep.todo ++ [.hour bad] ∧ t = { s with skep := t.skep })

/-- R676 to R679, R683, R685, R688, R690, R692, R694: the thermal and power unit. -/
def Obligations.ThermalCommands : Prop :=
  (∀ (s : State) (x : Int), -600 ≤ x → x < s.getInt R.TH_LIMIT_A_WARN → x < s.getInt R.TH_LIMIT_A_THROTTLE → x < s.getInt R.TH_LIMIT_B_DATA_STOP →
    x < s.getInt R.TH_LIMIT_B_LIGHT_LATCH → x ≤ 1500 → s.on R.TH_STATUS_WARN = false → s.on R.TH_STATUS_THROTTLE = false →
    Answers (.sensorSample (List.replicate 16 x)) s fun t =>
      (∀ i : Fin 16, t.on (R.SENSOR_VALID i) = true ∧ t.getInt (R.SENSOR_TEMP i) = x) ∧ t.getInt R.TH_MAX_TEMP = x ∧ t.get R.TH_MAX_SENSOR = 0 ∧
      t.on R.NVM_STATUS_WIN_OK = t.writeWindow ∧
      OnlyRegs { s with therm := t.therm } t (R.TH_MAX :: R.TH_STATUS :: R.NVM_STATUS :: (List.range 16).map R.SENSOR)) ∧
  (∀ (s : State) (a b : Int), -128 ≤ a → a ≤ 127 → -128 ≤ b → b ≤ 127 → max a b < s.get R.STACK_TEMP_STACK_STOP → Answers (.stackTempRead a b) s fun t =>
    t.getInt R.STACK_TEMP_STACK_0 = a ∧ t.getInt R.STACK_TEMP_STACK_1 = b ∧ t.on R.TH_STATUS_HBM_HOT = decide (85 < max a b) ∧
      OnlyRegs { s with therm := t.therm } t [R.STACK_TEMP, R.TH_STATUS]) ∧
  (∀ (s : State) (a b : Int), -128 ≤ a → a ≤ 127 → -128 ≤ b → b ≤ 127 → (s.get R.STACK_TEMP_STACK_STOP : Int) ≤ max a b → s.stopLinks = [] → s.stopLanes = [] →
    Answers (.stackTempRead a b) s fun t => t.on R.TH_STATUS_DATA_STOP = true ∧ t.therm.stackHot = true) ∧
  (∀ s : State, Answers .thermTrip s fun t => t.therm.tripFlag = true ∧ t.therm.tripping = true ∧
    t.outs = (if s.therm.tripping = true then s.outs else s.outs ++ [.thermTrip]) ∧ t.regs = s.regs) ∧
  (∀ (s : State) (replies : List RailReply) (l : List Nat), s.skepRuns = true → s.therm.avs = [] → s.therm.rails.length = replies.length →
    (∀ r ∈ s.therm.rails, r.code ≠ 0) → (s.therm.rails.zip replies).map (fun x => x.1.power x.2) = l.map some → l.sum < 2 ^ 18 →
    Answers (.pmbusPoll replies) s fun t => t.get R.PWR_MEASURED_MW = l.sum ∧ t.therm.rails.map (·.last) = l ∧ (∀ r ∈ t.therm.rails, r.fails = 0) ∧
      OnlyRegs { s with therm := t.therm, outs := t.outs } t [R.PWR_MEASURED]) ∧
  (∀ (s : State) (r : Rail) (x : RailReply) (mw mv : Nat), s.skepRuns = true → s.therm.avs = [] → s.therm.rails = [r] → r.code = 0 →
    r.power x = some mw → mw < 2 ^ 18 → r.volts x = some mv → Answers (.pmbusPoll [x]) s fun t =>
      t.get R.PWR_MEASURED_MW = mw ∧ t.get R.VCORE_MV = mv % 2 ^ R.VCORE_MV.w ∧ t.therm.rails = [{ r with last := mw, fails := 0 }]) ∧
  (∀ (s : State) (r : Rail) (x : RailReply), s.skepRuns = true → s.therm.avs = [] → s.therm.rails = [r] → r.fails = 2 → r.power x = none →
    Answers (.pmbusPoll [x]) s fun t => t.on R.TH_STATUS_PMBUS_ERR = true ∧ t.therm.rails = [{ r with fails := 3 }]) ∧
  (∀ s : State, s.get R.PWR_BUDGET_MW < s.get R.PWR_MEASURED_MW → Answers .overBudget s fun t => t.on R.TH_STATUS_OVER_BUDGET = true ∧
    t.chains = s.chains ∧ t.units = s.units) ∧
  (∀ s : State, s.get R.PWR_MEASURED_MW ≤ s.get R.PWR_BUDGET_MW → Answers .overBudget s fun t => t = s) ∧
  (∀ (s : State) (m : Fin 1024), s.CanRun m 0x0050 → leAt (s.params m) 0 1 = 0 → Answers (.thermalRead m) s fun t =>
    t.AnswerIs m Isaow.ok s.thermResp ∧ t = { s with skep := t.skep }) ∧
  (∀ (s : State) (m : Fin 1024) (l : List Int), s.CanRun m 0x0050 → leAt (s.params m) 0 1 = 1 → thresholdsAt (s.params m) 2 = l → thresholdsOk l = true →
    Answers (.thermalSet m) s fun t => t.thresholds = l ∧ t.AnswerIs m Isaow.ok t.thermResp ∧
      OnlyRegs { s with skep := t.skep } t [R.TH_LIMIT_A, R.TH_LIMIT_B, R.TH_LIMIT_C]) ∧
  (∀ (s : State) (m : Fin 1024), s.CanRun m 0x0050 → leAt (s.params m) 0 1 = 1 → thresholdsOk (thresholdsAt (s.params m) 2) = false →
    Answers (.thermalSet m) s fun t => t.AnswerIs m Isaow.badArg [] ∧ t.regs = s.regs) ∧
  (∀ (s : State) (m : Fin 1024) (i : Fin 16), s.CanRun m 0x0050 → leAt (s.params m) 0 1 = 2 → s.on (R.SENSOR_VALID i) = true →
    950 < s.getInt (R.SENSOR_TEMP i) → Answers (.thermalRestart m) s fun t => t.AnswerIs m Isaow.badArg [] ∧ t.regs = s.regs) ∧
  (∀ (s : State) (m : Fin 1024), s.CanRun m 0x0050 → leAt (s.params m) 0 1 = 2 → (∀ i ∈ s.sensors, s.getInt (R.SENSOR_TEMP i) ≤ 950) →
    s.therm.stackHot = false → s.therm.held = false → s.on R.TH_STATUS_DATA_STOP = true → s.therm.stopped = [] → Answers (.thermalRestart m) s fun t =>
      t.on R.TH_STATUS_DATA_STOP = false ∧ t.AnswerIs m Isaow.ok t.thermResp) ∧
  (∀ (s : State) (m : Fin 1024), s.CanRun m 0x0050 → leAt (s.params m) 0 1 = 2 → s.therm.stackHot = true ∨ s.therm.held = true →
    Answers (.thermalRestart m) s fun t => t.AnswerIs m Isaow.badArg [] ∧ t.regs = s.regs) ∧
  (∀ (s : State) (m : Fin 1024), s.CanRun m 0x0051 → leAt (s.params m) 0 1 = 0 → Answers (.powerBudgetRead m) s fun t =>
    t.AnswerIs m Isaow.ok t.powerResp ∧ t = { s with skep := t.skep }) ∧
  (∀ (s : State) (m : Fin 1024) (b : Nat), s.CanRun m 0x0051 → leAt (s.params m) 0 1 = 1 → leAt (s.params m) 4 4 = b → 50000 ≤ b → b ≤ 140000 →
    Answers (.powerBudgetSet m) s fun t => t.get R.PWR_BUDGET_MW = b ∧ t.AnswerIs m Isaow.ok t.powerResp ∧
      OnlyRegs { s with skep := t.skep } t [R.PWR_BUDGET]) ∧
  (∀ (s : State) (m : Fin 1024) (b : Nat), s.CanRun m 0x0051 → leAt (s.params m) 0 1 = 1 → leAt (s.params m) 4 4 = b → b < 50000 ∨ 140000 < b →
    Answers (.powerBudgetSet m) s fun t => t.AnswerIs m Isaow.badArg [] ∧ t.regs = s.regs)

/-- R646, R647, R650: completions and the SMBus sideband. -/
def Obligations.MailboxCommands : Prop :=
  (∀ (s : State) (m : Fin 21) (st : Nat) (p : List Byte), (s.cmdOf m).resp = some (st, p) → 8 + p.length ≤ 4096 →
    Answers (.mbCommandDone ⟨m, by omega⟩) s fun t => t.on (R.MB_STATUS_BUSY m) = false ∧ t.on (R.MB_STATUS_DONE m) = true ∧
      t.get (R.MB_STATUS_LAST_STATUS m) = st % 2 ^ 16 ∧ t.boxBytes m 0 (8 + p.length) = respBytes st (reqToken (s.cmdOf m).req) p ∧ t.cmdOf m = {} ∧
      ∀ k, k ≠ m.val → t.cmdOf k = s.cmdOf k) ∧
  (∀ (s : State) (m : Fin 1024), s.cmdAnswer (s.cmdOf m) = none → Answers (.mbCommandDone m) s fun t => t = s) ∧
  (∀ (s : State) (v : BitVec 16), s.skepRuns = true → Answers (.smbSetOffset (.offset v) true) s fun t =>
    t = { s with skep := { s.skep with smbOffset := v.toNat } }) ∧
  (∀ s : State, s.skepRuns = true → s.skep.released = true → s.on (R.MB_STATUS_BUSY 20) = false → Answers (.smbSetOffset .ring true) s fun t =>
    t.on (R.MB_STATUS_BUSY 20) = true ∧ t.on (R.MB_STATUS_DONE 20) = false ∧
    t.cmdOf 20 = { req := s.boxBytes 20 0 (min 4096 (8 + leNat (s.boxBytes 20 2 2))), priv := true, rung := (s.clk, 20) } ∧
    OnlyRegs { s with skep := t.skep } t [R.MB_STATUS 20]) ∧
  (∀ s : State, s.skepRuns = true → s.skep.released = true → s.on (R.MB_STATUS_BUSY 20) = true → Answers (.smbSetOffset .ring true) s fun t =>
    t.on (R.MB_STATUS_DB_IGN 20) = true ∧ OnlyRegs s t [R.MB_STATUS 20]) ∧
  (∀ (s : State) (bs : List Byte), s.skepRuns = true → s.on (R.MB_STATUS_BUSY 20) = false → bs ≠ [] → bs.length ≤ 32 →
    s.skep.smbOffset + bs.length ≤ 4096 → Answers (.smbBlockWrite bs true) s fun t =>
      t.boxBytes 20 s.skep.smbOffset bs.length = bs ∧ t.skep.smbOffset = s.skep.smbOffset + bs.length ∧ t.regs = s.regs) ∧
  (∀ (s : State) (bs : List Byte), s.skepRuns = true → s.on (R.MB_STATUS_BUSY 20) = true → bs ≠ [] → bs.length ≤ 32 →
    Answers (.smbBlockWrite bs true) s fun t => t.skep.box = s.skep.box ∧ t.on (R.MB_STATUS_WR_BUSY 20) = true ∧
      OnlyRegs { s with skep := t.skep } t [R.MB_STATUS 20]) ∧
  (∀ (s : State) (n : Fin 33), s.skepRuns = true → n.val ≠ 0 → Answers (.smbBlockRead n) s fun t =>
    t.outs = s.outs ++ [.smb (s.boxBytes 20 s.skep.smbOffset n)] ∧ t.skep.smbOffset = (s.skep.smbOffset + n) % 65536 ∧ t.regs = s.regs) ∧
  (∀ s : State, s.skepRuns = true → Answers .smbReadStatus s fun t => t = { s with outs := t.outs } ∧
    t.outs = s.outs ++ [.smb [BitVec.ofNat 8 (s.get (R.MB_STATUS_BUSY 20) + 2 * s.get (R.MB_STATUS_DONE 20))]]) ∧
  (∀ (s : State) (v : SmbCmd) (bs : List Byte) (c : Instr), s.skepRuns = true → c ∈ [.smbSetOffset v false, .smbBlockWrite bs false] →
    Answers c s fun t => t.get R.SMB_PEC_ERR_CNT = min (s.get R.SMB_PEC_ERR_CNT + 1) (2 ^ (R.SMB_PEC_ERR_CNT).w - 1) ∧ OnlyRegs s t [R.SMB_PEC_ERR]) ∧
  (∀ (s : State) (v : SmbCmd) (bs : List Byte) (ok : Bool) (n : Fin 33) (c : Instr), s.skepRuns = false →
    c ∈ [.smbSetOffset v ok, .smbBlockWrite bs ok, .smbBlockRead n, .smbReadStatus] → Answers c s fun t => t = s)

/-- R669 to R672, R725, R729: resets of Skep. What STAGE shows after a restart is the model's choice (assumption 149). -/
def Obligations.SkepResetCommands : Prop :=
  (∀ (s : State) (cause pc : Word) (bad : Option Nat), s.get R.SKEP_STATUS_STATE ≠ 2 → s.boot.down = false →
    (s.skep.resets.filter fun x => decide (s.clk < x + 2500000000)).length < 3 →
    Answers (.skepWatchdog cause pc bad) s fun t => t.get R.SKEP_STATUS_STATE = 1 ∧ t.get R.SKEP_RESET_CNT_CNT = (s.get R.SKEP_RESET_CNT_CNT + 1) % 2 ^ (R.SKEP_RESET_CNT_CNT).w ∧
      t.on R.RESET_CAUSE_SKEP = true ∧ t.skep.cmds = [] ∧ t.skep.waiting = [] ∧ t.mem = s.mem ∧ t.pe = s.pe ∧
      ∀ m : Fin 21, t.on (R.MB_STATUS_BUSY m) = false) ∧
  (∀ (s : State) (cause pc : Word) (bad : Option Nat), s.get R.SKEP_STATUS_STATE ≠ 2 → s.boot.down = false →
    3 ≤ (s.skep.resets.filter fun x => decide (s.clk < x + 2500000000)).length → Answers (.skepWatchdog cause pc bad) s fun t => t.get R.SKEP_STATUS_STATE = 2 ∧ t.skep.cmds = [] ∧ t.skep.released = true ∧ t.mem = s.mem ∧ t.pe = s.pe) ∧
  (∀ (s : State) (cause pc : Word) (bad : Option Nat), s.get R.SKEP_STATUS_STATE = 2 ∨ s.boot.down = true →
    Answers (.skepWatchdog cause pc bad) s fun t => t = s) ∧
  (∀ s : State, s.hears .fn1 = true → s.get R.SKEP_STATUS_STATE = 2 → Answers (.skepRestart .fn1) s fun t => t.get R.SKEP_STATUS_STATE = 1 ∧ t.skep.resets = [] ∧
    OnlyRegs { s with skep := t.skep } t [R.SKEP_STATUS]) ∧
  (∀ (s : State) (who : Who), s.hears who = true → who ≠ .fn1 ∨ s.get R.SKEP_STATUS_STATE ≠ 2 → Answers (.skepRestart who) s fun t => t = s) ∧
  (∀ (s : State) (bad : Option Nat), s.get R.SKEP_STATUS_STATE = 1 → s.boot.down = false → s.skep.todo = [] → s.skep.moved = [] → s.enrolQ = [] →
    s.groups = [] → (∀ u, s.unitState u ≠ .starting) → s.skep.released = false → Answers (.skepRestartDone true none bad) s fun t =>
    t.skepRuns = true ∧ t.pe = s.pe ∧ t.plait = s.plait ∧ t.jobs = s.jobs ∧ t.enc = s.enc ∧ t.units = s.units ∧
    t.get R.BOOT_STATUS_STAGE = s.get R.BOOT_STATUS_STAGE) ∧
  (∀ (s : State) (ok : Bool) (f : Option Flash) (bad : Option Nat), s.get R.SKEP_STATUS_STATE = 1 → s.skep.released = true →
    Answers (.skepRestartDone ok f bad) s fun t => t.get R.BOOT_STATUS_STAGE = 3) ∧
  (∀ (s : State) (bad : Option Nat), s.get R.SKEP_STATUS_STATE = 1 → s.boot.down = false → s.skep.todo = [] → s.skep.moved = [] → s.enrolQ = [] →
    s.groups = [] → (∀ u, s.unitState u = .off) → Answers (.skepRestartDone false none bad) s fun t => t.on R.SKEP_STATUS_TABLE_REBUILT = true) ∧
  (∀ (s : State) (ok : Bool) (f : Option Flash) (bad : Option Nat), s.get R.SKEP_STATUS_STATE ≠ 1 → Answers (.skepRestartDone ok f bad) s fun t => t = s)

/-- R688, R689, R717, R720, R722 to R726: resets of the device, and boot; and where the resets of Skep complete (R669, R672, R729), of which
`Obligations.SkepResetCommands` says the rest. -/
def Obligations.BootCommands : Prop :=
  (∀ (s : State) (bad : Option Nat) (c : Instr), c = .corePor bad ∨ (c = .sysReset bad ∧ s.boot.down = false) → Answers c s fun t =>
    t.mem = State.reset.mem ∧ t.units = State.reset.units ∧ t.pe = State.reset.pe ∧ t.lanes = State.reset.lanes ∧ t.ringQ = State.reset.ringQ ∧
    t.skepRuns = true ∧ t.get R.BOOT_STATUS_STAGE = 2 ∧ t.boot.identDone = true ∧ t.skep.released = false) ∧
  (∀ s : State, Answers .aonReset s fun t => t.boot.down = true ∧ t.skepRuns = false ∧ t.mram = s.mram ∧ t.mem = State.reset.mem ∧
    t.units = State.reset.units ∧ t.pe = State.reset.pe ∧ t.therm.tripFlag = false ∧ t.reg R.RESET_CAUSE = State.reset.reg R.RESET_CAUSE) ∧
  (∀ (s : State) (bad : Option Nat), Answers (.corePor bad) s fun t => t.on R.RESET_CAUSE_CORE_POR = true ∧ t.boot.down = false) ∧
  (∀ (s : State) (bad : Option Nat), s.boot.down = false → Answers (.sysReset bad) s fun t => t.on R.RESET_CAUSE_SYS_RESET = true ∧
    t.therm.tripping = s.therm.tripping ∧ t.on R.TH_STATUS_TRIP_SEEN = (s.on R.TH_STATUS_TRIP_SEEN || s.therm.tripFlag) ∧ t.therm.tripFlag = false) ∧
  (∀ (s : State) (bad : Option Nat), s.boot.down = true → Answers (.sysReset bad) s fun t => t.on R.RESET_CAUSE_SYS_RESET = true ∧
    OnlyRegs s t [R.RESET_CAUSE]) ∧
  (∀ (s : State) (core : Bool), Answers (.supplyDrop core) s fun t => t.boot.down = true ∧ t.mram = s.mram ∧ t.mem = State.reset.mem ∧
    t.units = State.reset.units ∧ t.port.pmeArmed = (if s.boot.down then s.port.pmeArmed else s.on (Cfg.PME_EN 0) || s.on (Cfg.PME_EN 1)) ∧
    t.therm.tripping = (s.therm.tripping && !core) ∧ t.therm.tripFlag = s.therm.tripFlag) ∧
  (∀ (s : State) (f : Flash) (bad : Option Nat), s.boot.patchDone = false → s.skepRuns = true → s.boot.identDone = true → f.slow = false → f.id = 0 →
    Answers (.patchStageEnd f bad) s fun t => t.outs = s.outs ++ [.spiRead 0x9F 0 3] ∧ t.boot.patchDone = true ∧ t.skep.patchStatus = 0 ∧ t.skep.patchSlots = 0 ∧
      t.on R.SKEP_STATUS_PATCHED = false ∧ t.get R.FW_VERSION_VERSION = Config.romVersion.toNat) ∧
  (∀ (s : State) (f : Flash) (bad : Option Nat), s.boot.patchDone = true → Answers (.patchStageEnd f bad) s fun t => t = s) ∧
  (∀ s : State, s.skepRuns = true → s.boot.identDone = true → s.boot.patchDone = true → s.skep.released = false →
    46000 ≤ s.get R.PWR_BUDGET_MW → Answers .configRelease s fun t => t.skep.released = true ∧ t.get R.BOOT_STATUS_STAGE = 3 ∧
      t.skep.waiting = s.skep.waiting ++ [(.hbm, s.clk)] ∧ t.get R.BOOT_TIME_RELEASE_MS = min 65535 (s.clk / 250000)) ∧
  (∀ s : State, s.boot.identDone = false ∨ s.boot.patchDone = false ∨ s.skep.released = true → Answers .configRelease s fun t => t = s) ∧
  (∀ (s : State) (cause pc : Word) (bad : Option Nat), s.get R.SKEP_STATUS_STATE ≠ 2 → s.boot.down = false →
    ∃ t, exec (.skepWatchdog cause pc bad) s = .next t ∧ t.on R.RESET_CAUSE_SKEP = true ∧ t.skep.cmds = []) ∧
  (∀ (s : State) (bad : Option Nat), s.get R.SKEP_STATUS_STATE = 1 → s.skep.todo = [] → s.skep.moved = [] → s.enrolQ = [] → s.groups = [] →
    (∀ u, s.unitState u ≠ .starting) → ∃ t, exec (.skepRestartDone true none bad) s = .next t ∧ t.get R.SKEP_STATUS_STATE = 0 ∧ t.units = s.units) ∧
  (∀ s : State, s.hears .fn1 = true → s.get R.SKEP_STATUS_STATE = 2 →
    ∃ t, exec (.skepRestart .fn1) s = .next t ∧ t.get R.SKEP_STATUS_STATE = 1 ∧ t.skep.resets = [])

end
end

