-- ==== Sys2Proof/Laws/Tbl.lean ====
section
/-!
SUPPORT. The laws of sparse tables: a key reads back what was put there, every other key reads as before, and the canonical
form is kept.
-/
set_option Elab.async false
namespace Sys2Proof.Machine

variable {α : Type}

theorem Tbl.find_drop_self (t : Tbl α) (a : Nat) : Tbl.find (Tbl.drop t a) a = none := by
  induction t with
  | nil => rfl
  | cons e t ih =>
    obtain ⟨k, v⟩ := e
    by_cases h : k = a <;> simp [Tbl.drop, Tbl.find, h, ih]

theorem Tbl.find_drop_of_ne {a b : Nat} (t : Tbl α) (h : b ≠ a) : Tbl.find (Tbl.drop t a) b = Tbl.find t b := by
  induction t with
  | nil => rfl
  | cons e t ih =>
    obtain ⟨k, v⟩ := e
    by_cases h1 : k = a
    · have : k ≠ b := fun h2 => h (h2 ▸ h1)
      simp [Tbl.drop, Tbl.find, h1, ih, Ne.symm h]
    · simp only [Tbl.drop, if_neg h1, Tbl.find, ih]

theorem Tbl.find_enter_self (t : Tbl α) (a : Nat) (x : α) (h : Tbl.find t a = none) :
    Tbl.find (Tbl.enter t a x) a = some x := by
  induction t with
  | nil => simp [Tbl.enter, Tbl.find]
  | cons e t ih =>
    obtain ⟨k, v⟩ := e
    by_cases h1 : k = a
    · simp [Tbl.find, h1] at h
    · have h2 : Tbl.find t a = none := by simpa [Tbl.find, h1] using h
      by_cases h3 : a < k <;> simp [Tbl.enter, Tbl.find, h1, h3, ih h2]

theorem Tbl.find_enter_of_ne (t : Tbl α) {a b : Nat} (x : α) (h : b ≠ a) :
    Tbl.find (Tbl.enter t a x) b = Tbl.find t b := by
  induction t with
  | nil => simp [Tbl.enter, Tbl.find, Ne.symm h]
  | cons e t ih =>
    obtain ⟨k, v⟩ := e
    by_cases h3 : a < k
    · simp [Tbl.enter, Tbl.find, h3, Ne.symm h]
    · simp only [Tbl.enter, if_neg h3, Tbl.find, ih]

/-- A key reads back what was put there. -/
@[simp] theorem Tbl.get_put_self [DecidableEq α] (d : α) (t : Tbl α) (a : Nat) (x : α) : Tbl.get d (Tbl.put d t a x) a = x := by
  unfold Tbl.get Tbl.put
  split
  · next h => simp [Tbl.find_drop_self, h]
  · simp [Tbl.find_enter_self _ _ _ (Tbl.find_drop_self t a)]

/-- Every other key reads as before, whatever an unlisted key reads as there. -/
theorem Tbl.get_put_of_ne [DecidableEq α] (d d' : α) (t : Tbl α) {a b : Nat} (x : α) (h : b ≠ a) :
    Tbl.get d' (Tbl.put d t a x) b = Tbl.get d' t b := by
  unfold Tbl.get Tbl.put
  split
  · rw [Tbl.find_drop_of_ne t h]
  · rw [Tbl.find_enter_of_ne _ x h, Tbl.find_drop_of_ne t h]

/-- The two laws of a put together, for a table whose unlisted keys all read as one value. -/
theorem Tbl.get_put [DecidableEq α] (d : α) (t : Tbl α) (a b : Nat) (x : α) :
    Tbl.get d (Tbl.put d t a x) b = if b = a then x else Tbl.get d t b := by
  split
  · next h => rw [h, Tbl.get_put_self]
  · next h => exact Tbl.get_put_of_ne d d t x h

theorem Tbl.wfFrom_mono [DecidableEq α] {d : Nat → α} {t : Tbl α} {m n : Nat} (h : Tbl.wfFrom d n t = true) (hm : m ≤ n) :
    Tbl.wfFrom d m t = true := by
  cases t with
  | nil => rfl
  | cons e t =>
    obtain ⟨k, v⟩ := e
    simp only [Tbl.wfFrom, Bool.and_eq_true, decide_eq_true_eq] at h ⊢
    exact ⟨⟨Nat.le_trans hm h.1.1, h.1.2⟩, h.2⟩

theorem Tbl.wfFrom_drop [DecidableEq α] {d : Nat → α} {t : Tbl α} {n : Nat} (a : Nat) (h : Tbl.wfFrom d n t = true) :
    Tbl.wfFrom d n (Tbl.drop t a) = true := by
  induction t generalizing n with
  | nil => rfl
  | cons e t ih =>
    obtain ⟨k, v⟩ := e
    simp only [Tbl.wfFrom, Bool.and_eq_true, decide_eq_true_eq] at h
    unfold Tbl.drop
    split
    · exact Tbl.wfFrom_mono (ih h.2) (by omega)
    · simp only [Tbl.wfFrom, Bool.and_eq_true, decide_eq_true_eq]
      exact ⟨h.1, ih h.2⟩

theorem Tbl.wfFrom_enter [DecidableEq α] {d : Nat → α} {t : Tbl α} {n a : Nat} {x : α} (h : Tbl.wfFrom d n t = true)
    (hf : Tbl.find t a = none) (hx : x ≠ d a) (hn : n ≤ a) : Tbl.wfFrom d n (Tbl.enter t a x) = true := by
  induction t generalizing n with
  | nil => simp [Tbl.enter, Tbl.wfFrom, hx, hn]
  | cons e t ih =>
    obtain ⟨k, v⟩ := e
    simp only [Tbl.wfFrom, Bool.and_eq_true, decide_eq_true_eq] at h
    unfold Tbl.enter
    split
    · next hlt =>
      simp only [Tbl.wfFrom, Bool.and_eq_true, decide_eq_true_eq]
      exact ⟨⟨hn, hx⟩, ⟨by omega, h.1.2⟩, h.2⟩
    · next hge =>
      have hk : k ≠ a := by
        intro e
        simp [Tbl.find, e] at hf
      simp only [Tbl.wfFrom, Bool.and_eq_true, decide_eq_true_eq]
      refine ⟨h.1, ih h.2 ?_ (by omega)⟩
      simpa [Tbl.find, hk] using hf

/-- A put keeps the canonical form. -/
theorem Tbl.wf_put [DecidableEq α] {d : Nat → α} {t : Tbl α} (a : Nat) (x : α) (h : Tbl.wf d t = true) :
    Tbl.wf d (Tbl.put (d a) t a x) = true := by
  unfold Tbl.put Tbl.wf at *
  split
  · exact Tbl.wfFrom_drop a h
  · next hx => exact Tbl.wfFrom_enter (Tbl.wfFrom_drop a h) (Tbl.find_drop_self t a) hx (Nat.zero_le a)

theorem Tbl.wfFrom_filter [DecidableEq α] {d : Nat → α} {t : Tbl α} {n : Nat} (p : Nat × α → Bool)
    (h : Tbl.wfFrom d n t = true) : Tbl.wfFrom d n (t.filter p) = true := by
  induction t generalizing n with
  | nil => rfl
  | cons e t ih =>
    obtain ⟨k, v⟩ := e
    simp only [Tbl.wfFrom, Bool.and_eq_true, decide_eq_true_eq] at h
    rw [List.filter_cons]
    split
    · simp only [Tbl.wfFrom, Bool.and_eq_true, decide_eq_true_eq]
      exact ⟨h.1, ih h.2⟩
    · exact Tbl.wfFrom_mono (ih h.2) (by omega)

/-- Leaving out entries keeps the canonical form. -/
theorem Tbl.wf_filter [DecidableEq α] {d : Nat → α} {t : Tbl α} (p : Nat × α → Bool) (h : Tbl.wf d t = true) :
    Tbl.wf d (t.filter p) = true := Tbl.wfFrom_filter p h

end Sys2Proof.Machine
end

