-- ==== Sys2Proof/Laws/Keeps.lean ====
section
/-!
SUPPORT. `Within`, the relation that the files Laws/Keeps*.lean prove of every operation of the machine: what every command keeps, and
which parts of the machine the operation leaves as they are. A proof about a command cites these lemmas and unfolds none of the operations.
-/
set_option Elab.async false
namespace Sys2Proof.Machine

variable {s0 s t u : State} {m k : Nat}

/-- Two sets of parts, as masks, that share no part. -/
def Avoids (m k : Nat) : Prop := m &&& k = 0

theorem Avoids.mono {a : Nat} (h : Avoids m a) (e : k &&& a = k) : Avoids m k := by
  unfold Avoids at *
  rw [← e, Nat.and_comm k a, ← Nat.and_assoc, h, Nat.zero_and]

/-- A part of a mask is in no mask that avoids it. -/
theorem Avoids.off {a i : Nat} {P : Prop} (h : Avoids m a) (e : a.testBit i = true) (b : m.testBit i = true) : P := by
  have := congrArg (fun x : Nat => x.testBit i) (show m &&& a = 0 from h)
  simp [Nat.testBit_and, b, e] at this

/-- A state reached from another by what every command may do, with the parts of a mask left as they are. -/
structure Within (m : Nat) (s t : State) : Prop where
  keeps : Keeps s t
  same : ∀ p : Part, m.testBit p.no = true → p.Same s t

theorem Part.Same.refl (p : Part) (s : State) : p.Same s s := by cases p <;> simp [Part.Same]

theorem Part.Same.trans {p : Part} (h : p.Same s t) (k : p.Same t u) : p.Same s u := by
  cases p <;> simp only [Part.Same] at * <;> simp only [k, h, and_self]

theorem Keeps.refl (s : State) : Keeps s s := ⟨rfl, List.prefix_rfl, Nat.le_refl _, id⟩

theorem Keeps.trans (h : Keeps s t) (k : Keeps t u) : Keeps s u :=
  ⟨k.pending.trans h.pending, h.outs.trans k.outs, Nat.le_trans h.free k.free, fun c => k.canon (h.canon c)⟩

theorem Within.refl (s : State) : Within m s s := ⟨.refl s, fun p _ => .refl p s⟩

theorem Within.trans (h : Within m s t) (k : Within m t u) : Within m s u :=
  ⟨h.keeps.trans k.keeps, fun p e => (h.same p e).trans (k.same p e)⟩

/-! ## Updates of named fields -/

theorem Within.upd_clk {clk : Nat} (h : Within m s0 s)
    (hm : Avoids m 1 := by exact ‹Avoids _ _›.mono (by decide)) :
    Within m s0 { s with clk := clk } :=
  h.trans ⟨⟨rfl, List.prefix_rfl, Nat.le_refl _, fun c => ⟨c.regs, c.mem, c.mram, c.logQ, c.fifo⟩⟩,
    fun p e => by cases p <;> first | exact Avoids.off hm (by decide) e | simp only [Part.Same, and_self]⟩

theorem Within.upd_timeNs {timeNs : Nat} (h : Within m s0 s)
    (hm : Avoids m 2 := by exact ‹Avoids _ _›.mono (by decide)) :
    Within m s0 { s with timeNs := timeNs } :=
  h.trans ⟨⟨rfl, List.prefix_rfl, Nat.le_refl _, fun c => ⟨c.regs, c.mem, c.mram, c.logQ, c.fifo⟩⟩,
    fun p e => by cases p <;> first | exact Avoids.off hm (by decide) e | simp only [Part.Same, and_self]⟩

theorem Within.upd_timeFrac {timeFrac : Nat} (h : Within m s0 s)
    (hm : Avoids m 2 := by exact ‹Avoids _ _›.mono (by decide)) :
    Within m s0 { s with timeFrac := timeFrac } :=
  h.trans ⟨⟨rfl, List.prefix_rfl, Nat.le_refl _, fun c => ⟨c.regs, c.mem, c.mram, c.logQ, c.fifo⟩⟩,
    fun p e => by cases p <;> first | exact Avoids.off hm (by decide) e | simp only [Part.Same, and_self]⟩

theorem Within.upd_units {units : Tbl UnitEntry} (h : Within m s0 s)
    (hm : Avoids m 64 := by exact ‹Avoids _ _›.mono (by decide)) :
    Within m s0 { s with units := units } :=
  h.trans ⟨⟨rfl, List.prefix_rfl, Nat.le_refl _, fun c => ⟨c.regs, c.mem, c.mram, c.logQ, c.fifo⟩⟩,
    fun p e => by cases p <;> first | exact Avoids.off hm (by decide) e | simp only [Part.Same, and_self]⟩

theorem Within.upd_swd {swd : Sward} (h : Within m s0 s) (fifo : swd.fifo = s.swd.fifo)
    (hm : Avoids m 128 := by exact ‹Avoids _ _›.mono (by decide)) :
    Within m s0 { s with swd := swd } :=
  h.trans ⟨⟨rfl, List.prefix_rfl, Nat.le_refl _, fun c => ⟨c.regs, c.mem, c.mram, c.logQ, fun i => by have := c.fifo i; unfold State.fifoOf at this ⊢; rw [fifo]; exact this⟩⟩,
    fun p e => by cases p <;> first | exact Avoids.off hm (by decide) e | simp only [Part.Same, and_self]⟩

theorem Within.upd_swd_risen {swd : Sward} {risen : Tbl Nat} (h : Within m s0 s) (fifo : swd.fifo = s.swd.fifo)
    (hm : Avoids m 136 := by exact ‹Avoids _ _›.mono (by decide)) :
    Within m s0 { s with swd := swd, risen := risen } :=
  h.trans ⟨⟨rfl, List.prefix_rfl, Nat.le_refl _, fun c => ⟨c.regs, c.mem, c.mram, c.logQ, fun i => by have := c.fifo i; unfold State.fifoOf at this ⊢; rw [fifo]; exact this⟩⟩,
    fun p e => by cases p <;> first | exact Avoids.off hm (by decide) e | simp only [Part.Same, and_self]⟩

theorem Within.upd_enc {enc : Tbl EncChan} (h : Within m s0 s)
    (hm : Avoids m 256 := by exact ‹Avoids _ _›.mono (by decide)) :
    Within m s0 { s with enc := enc } :=
  h.trans ⟨⟨rfl, List.prefix_rfl, Nat.le_refl _, fun c => ⟨c.regs, c.mem, c.mram, c.logQ, c.fifo⟩⟩,
    fun p e => by cases p <;> first | exact Avoids.off hm (by decide) e | simp only [Part.Same, and_self]⟩

theorem Within.upd_ssi {ssi : Tbl SsiChan} (h : Within m s0 s)
    (hm : Avoids m 256 := by exact ‹Avoids _ _›.mono (by decide)) :
    Within m s0 { s with ssi := ssi } :=
  h.trans ⟨⟨rfl, List.prefix_rfl, Nat.le_refl _, fun c => ⟨c.regs, c.mem, c.mram, c.logQ, c.fifo⟩⟩,
    fun p e => by cases p <;> first | exact Avoids.off hm (by decide) e | simp only [Part.Same, and_self]⟩

theorem Within.upd_sw {sw : Tbl SwIn} (h : Within m s0 s)
    (hm : Avoids m 256 := by exact ‹Avoids _ _›.mono (by decide)) :
    Within m s0 { s with sw := sw } :=
  h.trans ⟨⟨rfl, List.prefix_rfl, Nat.le_refl _, fun c => ⟨c.regs, c.mem, c.mram, c.logQ, c.fifo⟩⟩,
    fun p e => by cases p <;> first | exact Avoids.off hm (by decide) e | simp only [Part.Same, and_self]⟩

theorem Within.upd_pe {pe : PosEngine} (h : Within m s0 s)
    (hm : Avoids m 512 := by exact ‹Avoids _ _›.mono (by decide)) :
    Within m s0 { s with pe := pe } :=
  h.trans ⟨⟨rfl, List.prefix_rfl, Nat.le_refl _, fun c => ⟨c.regs, c.mem, c.mram, c.logQ, c.fifo⟩⟩,
    fun p e => by cases p <;> first | exact Avoids.off hm (by decide) e | simp only [Part.Same, and_self]⟩

theorem Within.upd_net {net : Station} (h : Within m s0 s)
    (hm : Avoids m 1024 := by exact ‹Avoids _ _›.mono (by decide)) :
    Within m s0 { s with net := net } :=
  h.trans ⟨⟨rfl, List.prefix_rfl, Nat.le_refl _, fun c => ⟨c.regs, c.mem, c.mram, c.logQ, c.fifo⟩⟩,
    fun p e => by cases p <;> first | exact Avoids.off hm (by decide) e | simp only [Part.Same, and_self]⟩

theorem Within.upd_rxLast {rxLast : Tbl Nat} (h : Within m s0 s)
    (hm : Avoids m 1024 := by exact ‹Avoids _ _›.mono (by decide)) :
    Within m s0 { s with rxLast := rxLast } :=
  h.trans ⟨⟨rfl, List.prefix_rfl, Nat.le_refl _, fun c => ⟨c.regs, c.mem, c.mram, c.logQ, c.fifo⟩⟩,
    fun p e => by cases p <;> first | exact Avoids.off hm (by decide) e | simp only [Part.Same, and_self]⟩

theorem Within.upd_lanes {lanes : Tbl LaneSt} (h : Within m s0 s)
    (hm : Avoids m 2048 := by exact ‹Avoids _ _›.mono (by decide)) :
    Within m s0 { s with lanes := lanes } :=
  h.trans ⟨⟨rfl, List.prefix_rfl, Nat.le_refl _, fun c => ⟨c.regs, c.mem, c.mram, c.logQ, c.fifo⟩⟩,
    fun p e => by cases p <;> first | exact Avoids.off hm (by decide) e | simp only [Part.Same, and_self]⟩

theorem Within.upd_pllUp {pllUp : Tbl Bool} (h : Within m s0 s)
    (hm : Avoids m 2048 := by exact ‹Avoids _ _›.mono (by decide)) :
    Within m s0 { s with pllUp := pllUp } :=
  h.trans ⟨⟨rfl, List.prefix_rfl, Nat.le_refl _, fun c => ⟨c.regs, c.mem, c.mram, c.logQ, c.fifo⟩⟩,
    fun p e => by cases p <;> first | exact Avoids.off hm (by decide) e | simp only [Part.Same, and_self]⟩

theorem Within.upd_pllLost {pllLost : Tbl Bool} (h : Within m s0 s)
    (hm : Avoids m 2048 := by exact ‹Avoids _ _›.mono (by decide)) :
    Within m s0 { s with pllLost := pllLost } :=
  h.trans ⟨⟨rfl, List.prefix_rfl, Nat.le_refl _, fun c => ⟨c.regs, c.mem, c.mram, c.logQ, c.fifo⟩⟩,
    fun p e => by cases p <;> first | exact Avoids.off hm (by decide) e | simp only [Part.Same, and_self]⟩

theorem Within.upd_links {links : Tbl Link} (h : Within m s0 s)
    (hm : Avoids m 4096 := by exact ‹Avoids _ _›.mono (by decide)) :
    Within m s0 { s with links := links } :=
  h.trans ⟨⟨rfl, List.prefix_rfl, Nat.le_refl _, fun c => ⟨c.regs, c.mem, c.mram, c.logQ, c.fifo⟩⟩,
    fun p e => by cases p <;> first | exact Avoids.off hm (by decide) e | simp only [Part.Same, and_self]⟩

theorem Within.upd_eps {eps : Tbl Endpoint} (h : Within m s0 s)
    (hm : Avoids m 8192 := by exact ‹Avoids _ _›.mono (by decide)) :
    Within m s0 { s with eps := eps } :=
  h.trans ⟨⟨rfl, List.prefix_rfl, Nat.le_refl _, fun c => ⟨c.regs, c.mem, c.mram, c.logQ, c.fifo⟩⟩,
    fun p e => by cases p <;> first | exact Avoids.off hm (by decide) e | simp only [Part.Same, and_self]⟩

theorem Within.upd_streams {streams : Tbl Stream} (h : Within m s0 s)
    (hm : Avoids m 16384 := by exact ‹Avoids _ _›.mono (by decide)) :
    Within m s0 { s with streams := streams } :=
  h.trans ⟨⟨rfl, List.prefix_rfl, Nat.le_refl _, fun c => ⟨c.regs, c.mem, c.mram, c.logQ, c.fifo⟩⟩,
    fun p e => by cases p <;> first | exact Avoids.off hm (by decide) e | simp only [Part.Same, and_self]⟩

theorem Within.upd_enrolQ {enrolQ : List Enrol} (h : Within m s0 s)
    (hm : Avoids m 8192 := by exact ‹Avoids _ _›.mono (by decide)) :
    Within m s0 { s with enrolQ := enrolQ } :=
  h.trans ⟨⟨rfl, List.prefix_rfl, Nat.le_refl _, fun c => ⟨c.regs, c.mem, c.mram, c.logQ, c.fifo⟩⟩,
    fun p e => by cases p <;> first | exact Avoids.off hm (by decide) e | simp only [Part.Same, and_self]⟩

theorem Within.upd_enrolling {enrolling : Option Nat} (h : Within m s0 s)
    (hm : Avoids m 8192 := by exact ‹Avoids _ _›.mono (by decide)) :
    Within m s0 { s with enrolling := enrolling } :=
  h.trans ⟨⟨rfl, List.prefix_rfl, Nat.le_refl _, fun c => ⟨c.regs, c.mem, c.mram, c.logQ, c.fifo⟩⟩,
    fun p e => by cases p <;> first | exact Avoids.off hm (by decide) e | simp only [Part.Same, and_self]⟩

theorem Within.upd_upCount {upCount : Nat} (h : Within m s0 s)
    (hm : Avoids m 8192 := by exact ‹Avoids _ _›.mono (by decide)) :
    Within m s0 { s with upCount := upCount } :=
  h.trans ⟨⟨rfl, List.prefix_rfl, Nat.le_refl _, fun c => ⟨c.regs, c.mem, c.mram, c.logQ, c.fifo⟩⟩,
    fun p e => by cases p <;> first | exact Avoids.off hm (by decide) e | simp only [Part.Same, and_self]⟩

theorem Within.upd_groups {groups : List Member} (h : Within m s0 s)
    (hm : Avoids m 8192 := by exact ‹Avoids _ _›.mono (by decide)) :
    Within m s0 { s with groups := groups } :=
  h.trans ⟨⟨rfl, List.prefix_rfl, Nat.le_refl _, fun c => ⟨c.regs, c.mem, c.mram, c.logQ, c.fifo⟩⟩,
    fun p e => by cases p <;> first | exact Avoids.off hm (by decide) e | simp only [Part.Same, and_self]⟩

theorem Within.upd_chains {chains : Tbl Chain} (h : Within m s0 s)
    (hm : Avoids m 32768 := by exact ‹Avoids _ _›.mono (by decide)) :
    Within m s0 { s with chains := chains } :=
  h.trans ⟨⟨rfl, List.prefix_rfl, Nat.le_refl _, fun c => ⟨c.regs, c.mem, c.mram, c.logQ, c.fifo⟩⟩,
    fun p e => by cases p <;> first | exact Avoids.off hm (by decide) e | simp only [Part.Same, and_self]⟩

theorem Within.upd_creel {creel : Creel} (h : Within m s0 s)
    (hm : Avoids m 65536 := by exact ‹Avoids _ _›.mono (by decide)) :
    Within m s0 { s with creel := creel } :=
  h.trans ⟨⟨rfl, List.prefix_rfl, Nat.le_refl _, fun c => ⟨c.regs, c.mem, c.mram, c.logQ, c.fifo⟩⟩,
    fun p e => by cases p <;> first | exact Avoids.off hm (by decide) e | simp only [Part.Same, and_self]⟩

theorem Within.upd_cond {cond : Cond} (h : Within m s0 s)
    (hm : Avoids m 131072 := by exact ‹Avoids _ _›.mono (by decide)) :
    Within m s0 { s with cond := cond } :=
  h.trans ⟨⟨rfl, List.prefix_rfl, Nat.le_refl _, fun c => ⟨c.regs, c.mem, c.mram, c.logQ, c.fifo⟩⟩,
    fun p e => by cases p <;> first | exact Avoids.off hm (by decide) e | simp only [Part.Same, and_self]⟩

theorem Within.upd_plait {plait : Plait} (h : Within m s0 s)
    (hm : Avoids m 262144 := by exact ‹Avoids _ _›.mono (by decide)) :
    Within m s0 { s with plait := plait } :=
  h.trans ⟨⟨rfl, List.prefix_rfl, Nat.le_refl _, fun c => ⟨c.regs, c.mem, c.mram, c.logQ, c.fifo⟩⟩,
    fun p e => by cases p <;> first | exact Avoids.off hm (by decide) e | simp only [Part.Same, and_self]⟩

theorem Within.upd_ctxs {ctxs : Tbl Ctx} (h : Within m s0 s)
    (hm : Avoids m 524288 := by exact ‹Avoids _ _›.mono (by decide)) :
    Within m s0 { s with ctxs := ctxs } :=
  h.trans ⟨⟨rfl, List.prefix_rfl, Nat.le_refl _, fun c => ⟨c.regs, c.mem, c.mram, c.logQ, c.fifo⟩⟩,
    fun p e => by cases p <;> first | exact Avoids.off hm (by decide) e | simp only [Part.Same, and_self]⟩

theorem Within.upd_ctxFresh {ctxFresh : Nat} (h : Within m s0 s)
    (hm : Avoids m 524288 := by exact ‹Avoids _ _›.mono (by decide)) :
    Within m s0 { s with ctxFresh := ctxFresh } :=
  h.trans ⟨⟨rfl, List.prefix_rfl, Nat.le_refl _, fun c => ⟨c.regs, c.mem, c.mram, c.logQ, c.fifo⟩⟩,
    fun p e => by cases p <;> first | exact Avoids.off hm (by decide) e | simp only [Part.Same, and_self]⟩

theorem Within.upd_ctxQueue {ctxQueue : List (Nat × Nat)} (h : Within m s0 s)
    (hm : Avoids m 524288 := by exact ‹Avoids _ _›.mono (by decide)) :
    Within m s0 { s with ctxQueue := ctxQueue } :=
  h.trans ⟨⟨rfl, List.prefix_rfl, Nat.le_refl _, fun c => ⟨c.regs, c.mem, c.mram, c.logQ, c.fifo⟩⟩,
    fun p e => by cases p <;> first | exact Avoids.off hm (by decide) e | simp only [Part.Same, and_self]⟩

theorem Within.upd_noCtxKey {noCtxKey : Nat} (h : Within m s0 s)
    (hm : Avoids m 524288 := by exact ‹Avoids _ _›.mono (by decide)) :
    Within m s0 { s with noCtxKey := noCtxKey } :=
  h.trans ⟨⟨rfl, List.prefix_rfl, Nat.le_refl _, fun c => ⟨c.regs, c.mem, c.mram, c.logQ, c.fifo⟩⟩,
    fun p e => by cases p <;> first | exact Avoids.off hm (by decide) e | simp only [Part.Same, and_self]⟩

theorem Within.upd_jobs {jobs : Jobs} (h : Within m s0 s)
    (hm : Avoids m 1048576 := by exact ‹Avoids _ _›.mono (by decide)) :
    Within m s0 { s with jobs := jobs } :=
  h.trans ⟨⟨rfl, List.prefix_rfl, Nat.le_refl _, fun c => ⟨c.regs, c.mem, c.mram, c.logQ, c.fifo⟩⟩,
    fun p e => by cases p <;> first | exact Avoids.off hm (by decide) e | simp only [Part.Same, and_self]⟩

theorem Within.upd_candFree {candFree : Tbl (List Nat)} (h : Within m s0 s)
    (hm : Avoids m 2097152 := by exact ‹Avoids _ _›.mono (by decide)) :
    Within m s0 { s with candFree := candFree } :=
  h.trans ⟨⟨rfl, List.prefix_rfl, Nat.le_refl _, fun c => ⟨c.regs, c.mem, c.mram, c.logQ, c.fifo⟩⟩,
    fun p e => by cases p <;> first | exact Avoids.off hm (by decide) e | simp only [Part.Same, and_self]⟩

theorem Within.upd_candOf {candOf : Tbl (Option (Nat × Nat))} (h : Within m s0 s)
    (hm : Avoids m 2097152 := by exact ‹Avoids _ _›.mono (by decide)) :
    Within m s0 { s with candOf := candOf } :=
  h.trans ⟨⟨rfl, List.prefix_rfl, Nat.le_refl _, fun c => ⟨c.regs, c.mem, c.mram, c.logQ, c.fifo⟩⟩,
    fun p e => by cases p <;> first | exact Avoids.off hm (by decide) e | simp only [Part.Same, and_self]⟩

theorem Within.upd_compare {compare : Compare} (h : Within m s0 s)
    (hm : Avoids m 2097152 := by exact ‹Avoids _ _›.mono (by decide)) :
    Within m s0 { s with compare := compare } :=
  h.trans ⟨⟨rfl, List.prefix_rfl, Nat.le_refl _, fun c => ⟨c.regs, c.mem, c.mram, c.logQ, c.fifo⟩⟩,
    fun p e => by cases p <;> first | exact Avoids.off hm (by decide) e | simp only [Part.Same, and_self]⟩

theorem Within.upd_ringQ {ringQ : Tbl (List WRec)} (h : Within m s0 s)
    (hm : Avoids m 4194304 := by exact ‹Avoids _ _›.mono (by decide)) :
    Within m s0 { s with ringQ := ringQ } :=
  h.trans ⟨⟨rfl, List.prefix_rfl, Nat.le_refl _, fun c => ⟨c.regs, c.mem, c.mram, c.logQ, c.fifo⟩⟩,
    fun p e => by cases p <;> first | exact Avoids.off hm (by decide) e | simp only [Part.Same, and_self]⟩

theorem Within.upd_ringLost {ringLost : Tbl (Nat × Nat)} (h : Within m s0 s)
    (hm : Avoids m 4194304 := by exact ‹Avoids _ _›.mono (by decide)) :
    Within m s0 { s with ringLost := ringLost } :=
  h.trans ⟨⟨rfl, List.prefix_rfl, Nat.le_refl _, fun c => ⟨c.regs, c.mem, c.mram, c.logQ, c.fifo⟩⟩,
    fun p e => by cases p <;> first | exact Avoids.off hm (by decide) e | simp only [Part.Same, and_self]⟩

theorem Within.upd_repeatsOut {repeatsOut : Tbl Nat} (h : Within m s0 s)
    (hm : Avoids m 4194304 := by exact ‹Avoids _ _›.mono (by decide)) :
    Within m s0 { s with repeatsOut := repeatsOut } :=
  h.trans ⟨⟨rfl, List.prefix_rfl, Nat.le_refl _, fun c => ⟨c.regs, c.mem, c.mram, c.logQ, c.fifo⟩⟩,
    fun p e => by cases p <;> first | exact Avoids.off hm (by decide) e | simp only [Part.Same, and_self]⟩

theorem Within.upd_withy {withy : Withy} (h : Within m s0 s)
    (hm : Avoids m 4194304 := by exact ‹Avoids _ _›.mono (by decide)) :
    Within m s0 { s with withy := withy } :=
  h.trans ⟨⟨rfl, List.prefix_rfl, Nat.le_refl _, fun c => ⟨c.regs, c.mem, c.mram, c.logQ, c.fifo⟩⟩,
    fun p e => by cases p <;> first | exact Avoids.off hm (by decide) e | simp only [Part.Same, and_self]⟩

theorem Within.upd_port {port : Port} (h : Within m s0 s)
    (hm : Avoids m 8388608 := by exact ‹Avoids _ _›.mono (by decide)) :
    Within m s0 { s with port := port } :=
  h.trans ⟨⟨rfl, List.prefix_rfl, Nat.le_refl _, fun c => ⟨c.regs, c.mem, c.mram, c.logQ, c.fifo⟩⟩,
    fun p e => by cases p <;> first | exact Avoids.off hm (by decide) e | simp only [Part.Same, and_self]⟩

theorem Within.upd_dma {dma : Tbl DmaChan} (h : Within m s0 s)
    (hm : Avoids m 16777216 := by exact ‹Avoids _ _›.mono (by decide)) :
    Within m s0 { s with dma := dma } :=
  h.trans ⟨⟨rfl, List.prefix_rfl, Nat.le_refl _, fun c => ⟨c.regs, c.mem, c.mram, c.logQ, c.fifo⟩⟩,
    fun p e => by cases p <;> first | exact Avoids.off hm (by decide) e | simp only [Part.Same, and_self]⟩

theorem Within.upd_skep {skep : Skep} (h : Within m s0 s)
    (hm : Avoids m 33554432 := by exact ‹Avoids _ _›.mono (by decide)) :
    Within m s0 { s with skep := skep } :=
  h.trans ⟨⟨rfl, List.prefix_rfl, Nat.le_refl _, fun c => ⟨c.regs, c.mem, c.mram, c.logQ, c.fifo⟩⟩,
    fun p e => by cases p <;> first | exact Avoids.off hm (by decide) e | simp only [Part.Same, and_self]⟩

theorem Within.upd_nvm {nvm : Nvm} (h : Within m s0 s) (logQ : nvm.logQ = s.nvm.logQ)
    (hm : Avoids m 67108864 := by exact ‹Avoids _ _›.mono (by decide)) :
    Within m s0 { s with nvm := nvm } :=
  h.trans ⟨⟨rfl, List.prefix_rfl, Nat.le_refl _, fun c => ⟨c.regs, c.mem, c.mram, (logQ ▸ c.logQ), c.fifo⟩⟩,
    fun p e => by cases p <;> first | exact Avoids.off hm (by decide) e | simp only [Part.Same, and_self]⟩

theorem Within.upd_therm {therm : Therm} (h : Within m s0 s)
    (hm : Avoids m 134217728 := by exact ‹Avoids _ _›.mono (by decide)) :
    Within m s0 { s with therm := therm } :=
  h.trans ⟨⟨rfl, List.prefix_rfl, Nat.le_refl _, fun c => ⟨c.regs, c.mem, c.mram, c.logQ, c.fifo⟩⟩,
    fun p e => by cases p <;> first | exact Avoids.off hm (by decide) e | simp only [Part.Same, and_self]⟩

theorem Within.upd_boot {boot : Boot} (h : Within m s0 s)
    (hm : Avoids m 268435456 := by exact ‹Avoids _ _›.mono (by decide)) :
    Within m s0 { s with boot := boot } :=
  h.trans ⟨⟨rfl, List.prefix_rfl, Nat.le_refl _, fun c => ⟨c.regs, c.mem, c.mram, c.logQ, c.fifo⟩⟩,
    fun p e => by cases p <;> first | exact Avoids.off hm (by decide) e | simp only [Part.Same, and_self]⟩

theorem Within.upd_ind {ind : Option (Option Word)} (h : Within m s0 s)
    (hm : Avoids m 536870912 := by exact ‹Avoids _ _›.mono (by decide)) :
    Within m s0 { s with ind := ind } :=
  h.trans ⟨⟨rfl, List.prefix_rfl, Nat.le_refl _, fun c => ⟨c.regs, c.mem, c.mram, c.logQ, c.fifo⟩⟩,
    fun p e => by cases p <;> first | exact Avoids.off hm (by decide) e | simp only [Part.Same, and_self]⟩

theorem Within.upd_ctxFresh_ctxQueue {ctxFresh : Nat} {ctxQueue : List (Nat × Nat)} (h : Within m s0 s)
    (hm : Avoids m 524288 := by exact ‹Avoids _ _›.mono (by decide)) :
    Within m s0 { s with ctxFresh := ctxFresh, ctxQueue := ctxQueue } :=
  h.trans ⟨⟨rfl, List.prefix_rfl, Nat.le_refl _, fun c => ⟨c.regs, c.mem, c.mram, c.logQ, c.fifo⟩⟩,
    fun p e => by cases p <;> first | exact Avoids.off hm (by decide) e | simp only [Part.Same, and_self]⟩

theorem Within.upd_candFree_candOf {candFree : Tbl (List Nat)} {candOf : Tbl (Option (Nat × Nat))} (h : Within m s0 s)
    (hm : Avoids m 2097152 := by exact ‹Avoids _ _›.mono (by decide)) :
    Within m s0 { s with candFree := candFree, candOf := candOf } :=
  h.trans ⟨⟨rfl, List.prefix_rfl, Nat.le_refl _, fun c => ⟨c.regs, c.mem, c.mram, c.logQ, c.fifo⟩⟩,
    fun p e => by cases p <;> first | exact Avoids.off hm (by decide) e | simp only [Part.Same, and_self]⟩

theorem Within.upd_ringLost_withy {ringLost : Tbl (Nat × Nat)} {withy : Withy} (h : Within m s0 s)
    (hm : Avoids m 4194304 := by exact ‹Avoids _ _›.mono (by decide)) :
    Within m s0 { s with ringLost := ringLost, withy := withy } :=
  h.trans ⟨⟨rfl, List.prefix_rfl, Nat.le_refl _, fun c => ⟨c.regs, c.mem, c.mram, c.logQ, c.fifo⟩⟩,
    fun p e => by cases p <;> first | exact Avoids.off hm (by decide) e | simp only [Part.Same, and_self]⟩

theorem Within.upd_timeNs_timeFrac {timeNs : Nat} {timeFrac : Nat} (h : Within m s0 s)
    (hm : Avoids m 2 := by exact ‹Avoids _ _›.mono (by decide)) :
    Within m s0 { s with timeNs := timeNs, timeFrac := timeFrac } :=
  h.trans ⟨⟨rfl, List.prefix_rfl, Nat.le_refl _, fun c => ⟨c.regs, c.mem, c.mram, c.logQ, c.fifo⟩⟩,
    fun p e => by cases p <;> first | exact Avoids.off hm (by decide) e | simp only [Part.Same, and_self]⟩

theorem Within.upd_pllUp_pllLost {pllUp : Tbl Bool} {pllLost : Tbl Bool} (h : Within m s0 s)
    (hm : Avoids m 2048 := by exact ‹Avoids _ _›.mono (by decide)) :
    Within m s0 { s with pllUp := pllUp, pllLost := pllLost } :=
  h.trans ⟨⟨rfl, List.prefix_rfl, Nat.le_refl _, fun c => ⟨c.regs, c.mem, c.mram, c.logQ, c.fifo⟩⟩,
    fun p e => by cases p <;> first | exact Avoids.off hm (by decide) e | simp only [Part.Same, and_self]⟩

theorem Within.upd_creel_boot {creel : Creel} {boot : Boot} (h : Within m s0 s)
    (hm : Avoids m 268500992 := by exact ‹Avoids _ _›.mono (by decide)) :
    Within m s0 { s with creel := creel, boot := boot } :=
  h.trans ⟨⟨rfl, List.prefix_rfl, Nat.le_refl _, fun c => ⟨c.regs, c.mem, c.mram, c.logQ, c.fifo⟩⟩,
    fun p e => by cases p <;> first | exact Avoids.off hm (by decide) e | simp only [Part.Same, and_self]⟩

theorem Within.upd_skep_boot {skep : Skep} {boot : Boot} (h : Within m s0 s)
    (hm : Avoids m 301989888 := by exact ‹Avoids _ _›.mono (by decide)) :
    Within m s0 { s with skep := skep, boot := boot } :=
  h.trans ⟨⟨rfl, List.prefix_rfl, Nat.le_refl _, fun c => ⟨c.regs, c.mem, c.mram, c.logQ, c.fifo⟩⟩,
    fun p e => by cases p <;> first | exact Avoids.off hm (by decide) e | simp only [Part.Same, and_self]⟩

theorem Within.upd_creel_compare {creel : Creel} {compare : Compare} (h : Within m s0 s)
    (hm : Avoids m 2162688 := by exact ‹Avoids _ _›.mono (by decide)) :
    Within m s0 { s with creel := creel, compare := compare } :=
  h.trans ⟨⟨rfl, List.prefix_rfl, Nat.le_refl _, fun c => ⟨c.regs, c.mem, c.mram, c.logQ, c.fifo⟩⟩,
    fun p e => by cases p <;> first | exact Avoids.off hm (by decide) e | simp only [Part.Same, and_self]⟩

theorem Within.upd_creel_jobs {creel : Creel} {jobs : Jobs} (h : Within m s0 s)
    (hm : Avoids m 1114112 := by exact ‹Avoids _ _›.mono (by decide)) :
    Within m s0 { s with creel := creel, jobs := jobs } :=
  h.trans ⟨⟨rfl, List.prefix_rfl, Nat.le_refl _, fun c => ⟨c.regs, c.mem, c.mram, c.logQ, c.fifo⟩⟩,
    fun p e => by cases p <;> first | exact Avoids.off hm (by decide) e | simp only [Part.Same, and_self]⟩

theorem Within.upd_nvm_therm {nvm : Nvm} {therm : Therm} (h : Within m s0 s) (logQ : nvm.logQ = s.nvm.logQ)
    (hm : Avoids m 201326592 := by exact ‹Avoids _ _›.mono (by decide)) :
    Within m s0 { s with nvm := nvm, therm := therm } :=
  h.trans ⟨⟨rfl, List.prefix_rfl, Nat.le_refl _, fun c => ⟨c.regs, c.mem, c.mram, (logQ ▸ c.logQ), c.fifo⟩⟩,
    fun p e => by cases p <;> first | exact Avoids.off hm (by decide) e | simp only [Part.Same, and_self]⟩

theorem Within.upd_skep_ind {skep : Skep} {ind : Option (Option Word)} (h : Within m s0 s)
    (hm : Avoids m 570425344 := by exact ‹Avoids _ _›.mono (by decide)) :
    Within m s0 { s with skep := skep, ind := ind } :=
  h.trans ⟨⟨rfl, List.prefix_rfl, Nat.le_refl _, fun c => ⟨c.regs, c.mem, c.mram, c.logQ, c.fifo⟩⟩,
    fun p e => by cases p <;> first | exact Avoids.off hm (by decide) e | simp only [Part.Same, and_self]⟩

theorem Within.upd_port_boot {port : Port} {boot : Boot} (h : Within m s0 s)
    (hm : Avoids m 276824064 := by exact ‹Avoids _ _›.mono (by decide)) :
    Within m s0 { s with port := port, boot := boot } :=
  h.trans ⟨⟨rfl, List.prefix_rfl, Nat.le_refl _, fun c => ⟨c.regs, c.mem, c.mram, c.logQ, c.fifo⟩⟩,
    fun p e => by cases p <;> first | exact Avoids.off hm (by decide) e | simp only [Part.Same, and_self]⟩

theorem Within.upd_net_jobs_skep_nvm {net : Station} {jobs : Jobs} {skep : Skep} {nvm : Nvm} (h : Within m s0 s) (logQ : s.nvm.logQ.length ≤ 64 → nvm.logQ.length ≤ 64)
    (hm : Avoids m 101712896 := by exact ‹Avoids _ _›.mono (by decide)) :
    Within m s0 { s with net := net, jobs := jobs, skep := skep, nvm := nvm } :=
  h.trans ⟨⟨rfl, List.prefix_rfl, Nat.le_refl _, fun c => ⟨c.regs, c.mem, c.mram, (logQ c.logQ), c.fifo⟩⟩,
    fun p e => by cases p <;> first | exact Avoids.off hm (by decide) e | simp only [Part.Same, and_self]⟩

theorem Within.upd_port_nvm_therm {port : Port} {nvm : Nvm} {therm : Therm} (h : Within m s0 s) (logQ : nvm.logQ = s.nvm.logQ)
    (hm : Avoids m 209715200 := by exact ‹Avoids _ _›.mono (by decide)) :
    Within m s0 { s with port := port, nvm := nvm, therm := therm } :=
  h.trans ⟨⟨rfl, List.prefix_rfl, Nat.le_refl _, fun c => ⟨c.regs, c.mem, c.mram, (logQ ▸ c.logQ), c.fifo⟩⟩,
    fun p e => by cases p <;> first | exact Avoids.off hm (by decide) e | simp only [Part.Same, and_self]⟩

theorem Within.ite {c : Prop} [Decidable c] {a b : State} (h1 : Within m s0 a) (h2 : Within m s0 b) : Within m s0 (if c then a else b) := by
  split <;> assumption

theorem Within.dite {c : Prop} [Decidable c] {a : c → State} {b : ¬c → State} (h1 : ∀ h, Within m s0 (a h)) (h2 : ∀ h, Within m s0 (b h)) :
    Within m s0 (if h : c then a h else b h) := by
  split <;> simp [*]

/-- A state that is named once and used in what follows. -/
theorem Within.cut {P : Prop} {v : State} (hv : Within m s0 v) (hb : Within m s0 v → P) : P := hb hv

/-- An operation that may answer no state. -/
structure OKeeps (m : Nat) (s0 : State) (o : Option State) : Prop where
  out : ∀ t, o = some t → Within m s0 t

theorem OKeeps.none : OKeeps m s0 none := ⟨fun _ e => nomatch e⟩
theorem OKeeps.some (h : Within m s0 s) : OKeeps m s0 (some s) := ⟨fun _ e => Option.some.inj e ▸ h⟩
theorem OKeeps.map {o : Option State} {f : State → State} (h : OKeeps m s0 o) (k : ∀ t, Within m s0 t → Within m s0 (f t)) :
    OKeeps m s0 (o.map f) := by
  cases o with
  | none => exact .none
  | some t => exact .some (k t (h.out t rfl))
theorem OKeeps.bind {o : Option State} {f : State → Option State} (h : OKeeps m s0 o) (k : ∀ t, Within m s0 t → OKeeps m s0 (f t)) :
    OKeeps m s0 (o.bind f) := by
  cases o with
  | none => exact .none
  | some t => exact k t (h.out t rfl)
theorem OKeeps.ite {c : Prop} [Decidable c] {a b : Option State} (h1 : OKeeps m s0 a) (h2 : OKeeps m s0 b) :
    OKeeps m s0 (if c then a else b) := by
  split <;> assumption

/-- An operation that answers a value beside the state. -/
def PKeeps {α : Type} (m : Nat) (s0 : State) (p : State × α) : Prop := Within m s0 p.1

theorem PKeeps.mk {α : Type} {x : α} (h : Within m s0 s) : PKeeps m s0 (s, x) := h
theorem PKeeps.ite {α : Type} {c : Prop} [Decidable c] {a b : State × α} (h1 : PKeeps m s0 a) (h2 : PKeeps m s0 b) :
    PKeeps m s0 (if c then a else b) := by
  split <;> assumption

theorem PKeeps.cut {P : Prop} {α : Type} {p : State × α} (hv : PKeeps m s0 p) (hb : PKeeps m s0 p → P) : P := hb hv
theorem PKeeps.fst {α : Type} {p : State × α} (h : PKeeps m s0 p) : Within m s0 p.1 := h
theorem PKeeps.mk1 {α : Type} {x : α} (h : PKeeps m s0 (s, x)) : Within m s0 s := h
theorem PKeeps.of_eq {α : Type} {p : State × α} {x : α} (e : p = (s, x)) (h : PKeeps m s0 p) : Within m s0 s := by
  rw [e] at h; exact h
theorem PKeeps.foldl {α β : Type} {p : State × α} (h : PKeeps m s0 p) {l : List β} {f : State × α → β → State × α}
    (hf : ∀ x q, PKeeps m s0 q → PKeeps m s0 (f q x)) : PKeeps m s0 (l.foldl f p) := by
  induction l generalizing p with
  | nil => exact h
  | cons x l ih => exact ih (hf x p h)

/-- A meaning that answers a next state and does no more than the relation allows. -/
def EKeeps (m : Nat) (s : State) (o : Host.Outcome State Fault Refusal) : Prop := ∃ t, o = .next t ∧ Within m s t

theorem EKeeps.next (h : Within m s0 s) : EKeeps m s0 (.next s) := ⟨s, rfl, h⟩
theorem EKeeps.ite {c : Prop} [Decidable c] {a b : Host.Outcome State Fault Refusal} (h1 : EKeeps m s0 a) (h2 : EKeeps m s0 b) :
    EKeeps m s0 (if c then a else b) := by
  split <;> assumption

theorem State.forEach_keeps (h : Within m s0 s) {n : Nat} {f : Nat → State → State} (hf : ∀ i t, Within m s0 t → Within m s0 (f i t)) :
    Within m s0 (s.forEach n f) := by
  unfold State.forEach
  generalize List.range n = l
  induction l generalizing s with
  | nil => exact h
  | cons x l ih => exact ih (hf x s h)

theorem State.forList_keeps {α : Type} (h : Within m s0 s) {l : List α} {f : α → State → State} (hf : ∀ x t, Within m s0 t → Within m s0 (f x t)) :
    Within m s0 (s.forList l f) := by
  unfold State.forList
  induction l generalizing s with
  | nil => exact h
  | cons x l ih => exact ih (hf x s h)

theorem State.foldl_keeps {α : Type} (h : Within m s0 s) {l : List α} {f : State → α → State} (hf : ∀ x t, Within m s0 t → Within m s0 (f t x)) :
    Within m s0 (l.foldl f s) := by
  induction l generalizing s with
  | nil => exact h
  | cons x l ih => exact ih (hf x s h)

theorem State.when_keeps (h : Within m s0 s) {b : Bool} {f : State → State} (hf : ∀ t, Within m s0 t → Within m s0 (f t)) :
    Within m s0 (s.when b f) := by
  unfold State.when
  split
  · exact hf s h
  · exact h

/-! ## The primitive operations -/

/-- An operation that changes one part. -/
theorem Within.one (j : Nat) (k : Keeps s t) (same : ∀ p : Part, p.no ≠ j → p.Same s t) (hm : Avoids m (2 ^ j)) : Within m s t := by
  refine ⟨k, fun p e => ?_⟩
  by_cases h : p.no = j
  · exact Avoids.off hm (by rw [h, Nat.testBit_two_pow_self]) e
  · exact same p h

theorem State.note_keeps (h : Within m s0 s) {a v : Nat}
    (hm : Avoids m 8 := by exact ‹Avoids _ _›.mono (by decide)) :
    Within m s0 (s.note a v) :=
  h.trans (.one 3 ⟨rfl, List.prefix_rfl, Nat.le_refl _, fun c => ⟨c.regs, c.mem, c.mram, c.logQ, c.fifo⟩⟩ (fun p e => by cases p <;> first | exact absurd rfl e | simp only [State.note, Part.Same, and_self]) (hm.mono (by decide)))

theorem State.rcNote_keeps (h : Within m s0 s) {a v n : Nat}
    (hm : Avoids m 8 := by exact ‹Avoids _ _›.mono (by decide)) :
    Within m s0 (s.rcNote a v n) :=
  h.trans (.one 3 ⟨rfl, List.prefix_rfl, Nat.le_refl _, fun c => ⟨c.regs, c.mem, c.mram, c.logQ, c.fifo⟩⟩ (fun p e => by cases p <;> first | exact absurd rfl e | simp only [State.rcNote, Part.Same, and_self]) (hm.mono (by decide)))

theorem State.setReg_keeps (h : Within m s0 s) {a : Nat} {v : Word}
    (hm : Avoids m 8 := by exact ‹Avoids _ _›.mono (by decide)) :
    Within m s0 (s.setReg a v) :=
  h.trans (.one 3 ⟨rfl, List.prefix_rfl, Nat.le_refl _, fun c => ⟨Tbl.wf_put a v c.regs, c.mem, c.mram, c.logQ, c.fifo⟩⟩ (fun p e => by cases p <;> first | exact absurd rfl e | simp only [State.setReg, Part.Same, and_self]) (hm.mono (by decide)))

theorem State.resetRegs_keeps (h : Within m s0 s) {lo hi : Nat}
    (hm : Avoids m 8 := by exact ‹Avoids _ _›.mono (by decide)) :
    Within m s0 (s.resetRegs lo hi) :=
  h.trans (.one 3 ⟨rfl, List.prefix_rfl, Nat.le_refl _, fun c => ⟨Tbl.wf_filter _ c.regs, c.mem, c.mram, c.logQ, c.fifo⟩⟩ (fun p e => by cases p <;> first | exact absurd rfl e | simp only [State.resetRegs, Part.Same, and_self]) (hm.mono (by decide)))

theorem State.setByte_keeps (h : Within m s0 s) {a : Nat} {b : Byte}
    (hm : Avoids m 16 := by exact ‹Avoids _ _›.mono (by decide)) :
    Within m s0 (s.setByte a b) :=
  h.trans (.one 4 ⟨rfl, List.prefix_rfl, Nat.le_refl _, fun c => ⟨c.regs, Tbl.wf_put a b c.mem, c.mram, c.logQ, c.fifo⟩⟩ (fun p e => by cases p <;> first | exact absurd rfl e | simp only [State.setByte, Part.Same, and_self]) (hm.mono (by decide)))

theorem State.setNvByte_keeps (h : Within m s0 s) {a : Nat} {b : Byte}
    (hm : Avoids m 32 := by exact ‹Avoids _ _›.mono (by decide)) :
    Within m s0 (s.setNvByte a b) :=
  h.trans (.one 5 ⟨rfl, List.prefix_rfl, Nat.le_refl _, fun c => ⟨c.regs, c.mem, Tbl.wf_put a b c.mram, c.logQ, c.fifo⟩⟩ (fun p e => by cases p <;> first | exact absurd rfl e | simp only [State.setNvByte, Part.Same, and_self]) (hm.mono (by decide)))

theorem State.emit_keeps (h : Within m s0 s) {o : Out}
    (hm : Avoids m 1073741824 := by exact ‹Avoids _ _›.mono (by decide)) :
    Within m s0 (s.emit o) :=
  h.trans (.one 30 ⟨rfl, List.prefix_append _ _, Nat.le_refl _, fun c => ⟨c.regs, c.mem, c.mram, c.logQ, c.fifo⟩⟩ (fun p e => by cases p <;> first | exact absurd rfl e | simp only [State.emit, Part.Same, and_self]) (hm.mono (by decide)))

theorem State.useFree_keeps (h : Within m s0 s)
    (hm : Avoids m 4 := by exact ‹Avoids _ _›.mono (by decide)) :
    Within m s0 s.useFree :=
  h.trans (.one 2 ⟨rfl, List.prefix_rfl, Nat.le_succ _, fun c => ⟨c.regs, c.mem, c.mram, c.logQ, c.fifo⟩⟩ (fun p e => by cases p <;> first | exact absurd rfl e | simp only [State.useFree, Part.Same, and_self]) (hm.mono (by decide)))

theorem State.setBytes_keeps (h : Within m s0 s) {a : Nat} {bs : List Byte}
    (hm : Avoids m 16 := by exact ‹Avoids _ _›.mono (by decide)) :
    Within m s0 (s.setBytes a bs) := by
  induction bs generalizing s a with
  | nil => exact h
  | cons b bs ih => exact ih (State.setByte_keeps h)

theorem State.setNvBytes_keeps (h : Within m s0 s) {a : Nat} {bs : List Byte}
    (hm : Avoids m 32 := by exact ‹Avoids _ _›.mono (by decide)) :
    Within m s0 (s.setNvBytes a bs) := by
  induction bs generalizing s a with
  | nil => exact h
  | cons b bs ih => exact ih (State.setNvByte_keeps h)

theorem State.set_keeps (h : Within m s0 s) {f : Fld} {v : Nat}
    (hm : Avoids m 8 := by exact ‹Avoids _ _›.mono (by decide)) :
    Within m s0 (s.set f v) := State.setReg_keeps h

/-- A FIFO of at most 64 requests. -/
theorem State.setFifo_keeps (h : Within m s0 s) {c : Nat} {q : List Req} (hq : (s.fifoOf c).length ≤ 64 → q.length ≤ 64)
    (hm : Avoids m 136 := by exact ‹Avoids _ _›.mono (by decide)) :
    Within m s0 (s.setFifo c q) := by
  unfold State.setFifo
  refine State.set_keeps ?_
  refine h.trans (.one 7 ⟨rfl, List.prefix_rfl, Nat.le_refl _, fun k => ⟨k.regs, k.mem, k.mram, k.logQ, fun i => ?_⟩⟩
    (fun p e => by cases p <;> first | exact absurd rfl e | simp only [Part.Same, and_self]) (hm.mono (by decide)))
  show (Tbl.get [] (Tbl.put [] s.swd.fifo c q) i).length ≤ 64
  rw [Tbl.get_put]
  split
  · exact hq (k.fifo c)
  · exact k.fifo i

/-- The log queue with one more record (R711). -/
theorem State.logQ_keeps (h : Within m s0 s) {n : Nvm} (hn : s.nvm.logQ.length ≤ 64 → n.logQ.length ≤ 64)
    (hm : Avoids m 67108864 := by exact ‹Avoids _ _›.mono (by decide)) :
    Within m s0 { s with nvm := n } :=
  h.trans (.one 26 ⟨rfl, List.prefix_rfl, Nat.le_refl _, fun k => ⟨k.regs, k.mem, k.mram, hn k.logQ, k.fifo⟩⟩ (fun p e => by cases p <;> first | exact absurd rfl e | simp only [Part.Same, and_self]) (hm.mono (by decide)))

/-- The log queue without its first record. -/
theorem State.logTail_keeps (h : Within m s0 s) {r : LogRec} {t : List LogRec} {n : Nvm} (e : s.nvm.logQ = r :: t) (hn : n.logQ = t)
    (hm : Avoids m 67108864 := by exact ‹Avoids _ _›.mono (by decide)) :
    Within m s0 { s with nvm := n } := by
  refine State.logQ_keeps h fun k => ?_
  rw [e, List.length_cons] at k
  rw [hn]; omega

end Sys2Proof.Machine
end

