-- ==== Sys2Proof/Laws/KeepsOps.lean ====
section
/-!
SUPPORT. The operations of Machine/Ops.lean keep what every step keeps.
-/
set_option Elab.async false
namespace Sys2Proof.Machine

set_option linter.tactic.unusedName false

variable {parts : Nat}

theorem State.setInt_keeps {s0 s : State} (h : Within parts s0 s) {f : Fld} {v : Int}
    (hm : Avoids parts 8 := by exact ‹Avoids _ _›.mono (by decide)) :
    Within parts s0 (State.setInt s f v) := by
  unfold State.setInt
  with_reducible repeat' first | assumption | exact Within.refl _ | exact ‹Avoids _ _›.mono (by decide) | apply State.set_keeps

theorem State.raiseBits_keeps {s0 s : State} (h : Within parts s0 s) {f : Fld} {m : Nat}
    (hm : Avoids parts 8 := by exact ‹Avoids _ _›.mono (by decide)) :
    Within parts s0 (State.raiseBits s f m) := by
  unfold State.raiseBits
  with_reducible repeat' first | assumption | exact Within.refl _ | exact ‹Avoids _ _›.mono (by decide) | apply State.note_keeps | apply State.set_keeps

theorem State.raise_keeps {s0 s : State} (h : Within parts s0 s) {f : Fld}
    (hm : Avoids parts 8 := by exact ‹Avoids _ _›.mono (by decide)) :
    Within parts s0 (State.raise s f) := by
  unfold State.raise
  with_reducible repeat' first | assumption | exact Within.refl _ | exact ‹Avoids _ _›.mono (by decide) | apply State.note_keeps | apply State.set_keeps

theorem State.clear_keeps {s0 s : State} (h : Within parts s0 s) {f : Fld}
    (hm : Avoids parts 8 := by exact ‹Avoids _ _›.mono (by decide)) :
    Within parts s0 (State.clear s f) := by
  unfold State.clear
  with_reducible repeat' first | assumption | exact Within.refl _ | exact ‹Avoids _ _›.mono (by decide) | apply State.set_keeps

theorem State.setFlag_keeps {s0 s : State} (h : Within parts s0 s) {f : Fld} {b : Bool}
    (hm : Avoids parts 8 := by exact ‹Avoids _ _›.mono (by decide)) :
    Within parts s0 (State.setFlag s f b) := by
  unfold State.setFlag
  with_reducible repeat' first | assumption | exact Within.refl _ | exact ‹Avoids _ _›.mono (by decide) | apply State.set_keeps

theorem State.bump_keeps {s0 s : State} (h : Within parts s0 s) {f : Fld} {n : Nat}
    (hm : Avoids parts 8 := by exact ‹Avoids _ _›.mono (by decide)) :
    Within parts s0 (State.bump s f n) := by
  unfold State.bump
  with_reducible repeat' first | assumption | exact Within.refl _ | exact ‹Avoids _ _›.mono (by decide) | apply State.set_keeps

theorem State.bumpSat_keeps {s0 s : State} (h : Within parts s0 s) {f : Fld} {n : Nat}
    (hm : Avoids parts 8 := by exact ‹Avoids _ _›.mono (by decide)) :
    Within parts s0 (State.bumpSat s f n) := by
  unfold State.bumpSat
  with_reducible repeat' first | assumption | exact Within.refl _ | exact ‹Avoids _ _›.mono (by decide) | apply State.rcNote_keeps | apply State.set_keeps

theorem State.setMax_keeps {s0 s : State} (h : Within parts s0 s) {f : Fld} {v : Nat}
    (hm : Avoids parts 8 := by exact ‹Avoids _ _›.mono (by decide)) :
    Within parts s0 (State.setMax s f v) := by
  unfold State.setMax
  with_reducible repeat' first | assumption | exact Within.refl _ | exact ‹Avoids _ _›.mono (by decide) | apply State.set_keeps | apply Within.ite

theorem State.set2_keeps {s0 s : State} (h : Within parts s0 s) {lo : Fld} {hi : Fld} {v : Nat}
    (hm : Avoids parts 8 := by exact ‹Avoids _ _›.mono (by decide)) :
    Within parts s0 (State.set2 s lo hi v) := by
  unfold State.set2
  with_reducible repeat' first | assumption | exact Within.refl _ | exact ‹Avoids _ _›.mono (by decide) | apply State.set_keeps

theorem State.writeReg_keeps {s0 s : State} (h : Within parts s0 s) {a : Nat} {v : Word}
    (hm : Avoids parts 8 := by exact ‹Avoids _ _›.mono (by decide)) :
    Within parts s0 (State.writeReg s a v) := by
  unfold State.writeReg
  with_reducible repeat' first | assumption | exact Within.refl _ | exact ‹Avoids _ _›.mono (by decide) | apply State.setReg_keeps | split

theorem State.setFree_keeps {s0 s : State} (h : Within parts s0 s) {f : Fld}
    (hm : Avoids parts 12 := by exact ‹Avoids _ _›.mono (by decide)) :
    Within parts s0 (State.setFree s f) := by
  unfold State.setFree
  with_reducible repeat' first | assumption | exact Within.refl _ | exact ‹Avoids _ _›.mono (by decide) | apply State.set_keeps | apply State.useFree_keeps

end Sys2Proof.Machine
end

