-- ==== Sys2Proof/Laws/KeepsOperands.lean ====
section
/-!
SUPPORT. The operations of Machine/Operands.lean keep what every step keeps.
-/
set_option Elab.async false
namespace Sys2Proof.Machine

set_option linter.tactic.unusedName false

variable {parts : Nat}

theorem State.setEnc_keeps {s0 s : State} (h : Within parts s0 s) {n : Nat} {c : EncChan}
    (hm : Avoids parts 256 := by exact ‹Avoids _ _›.mono (by decide)) :
    Within parts s0 (State.setEnc s n c) := by
  unfold State.setEnc
  with_reducible repeat' first | assumption | exact Within.refl _ | exact ‹Avoids _ _›.mono (by decide) | exact rfl | apply Within.upd_enc

theorem State.setSsi_keeps {s0 s : State} (h : Within parts s0 s) {m : Nat} {c : SsiChan}
    (hm : Avoids parts 256 := by exact ‹Avoids _ _›.mono (by decide)) :
    Within parts s0 (State.setSsi s m c) := by
  unfold State.setSsi
  with_reducible repeat' first | assumption | exact Within.refl _ | exact ‹Avoids _ _›.mono (by decide) | exact rfl | apply Within.upd_ssi

theorem State.setSw_keeps {s0 s : State} (h : Within parts s0 s) {k : Nat} {c : SwIn}
    (hm : Avoids parts 256 := by exact ‹Avoids _ _›.mono (by decide)) :
    Within parts s0 (State.setSw s k c) := by
  unfold State.setSw
  with_reducible repeat' first | assumption | exact Within.refl _ | exact ‹Avoids _ _›.mono (by decide) | exact rfl | apply Within.upd_sw

theorem State.setSrc_keeps {s0 s : State} (h : Within parts s0 s) {n : Nat} {c : PosSrc}
    (hm : Avoids parts 512 := by exact ‹Avoids _ _›.mono (by decide)) :
    Within parts s0 (State.setSrc s n c) := by
  unfold State.setSrc
  with_reducible repeat' first | assumption | exact Within.refl _ | exact ‹Avoids _ _›.mono (by decide) | exact rfl | apply Within.upd_pe

theorem State.setViewPos_keeps {s0 s : State} (h : Within parts s0 s) {v : Nat} {c : PosView}
    (hm : Avoids parts 512 := by exact ‹Avoids _ _›.mono (by decide)) :
    Within parts s0 (State.setViewPos s v c) := by
  unfold State.setViewPos
  with_reducible repeat' first | assumption | exact Within.refl _ | exact ‹Avoids _ _›.mono (by decide) | exact rfl | apply Within.upd_pe

theorem State.setSlot_keeps {s0 s : State} (h : Within parts s0 s) {i : Nat} {c : Slot}
    (hm : Avoids parts 512 := by exact ‹Avoids _ _›.mono (by decide)) :
    Within parts s0 (State.setSlot s i c) := by
  unfold State.setSlot
  with_reducible repeat' first | assumption | exact Within.refl _ | exact ‹Avoids _ _›.mono (by decide) | exact rfl | apply Within.upd_pe

theorem State.setLane_keeps {s0 s : State} (h : Within parts s0 s) {l : Nat} {x : LaneSt}
    (hm : Avoids parts 2048 := by exact ‹Avoids _ _›.mono (by decide)) :
    Within parts s0 (State.setLane s l x) := by
  unfold State.setLane
  with_reducible repeat' first | assumption | exact Within.refl _ | exact ‹Avoids _ _›.mono (by decide) | exact rfl | apply Within.upd_lanes

theorem State.setUnit_keeps {s0 s : State} (h : Within parts s0 s) {u : Nat} {e : UnitEntry}
    (hm : Avoids parts 64 := by exact ‹Avoids _ _›.mono (by decide)) :
    Within parts s0 (State.setUnit s u e) := by
  unfold State.setUnit
  with_reducible repeat' first | assumption | exact Within.refl _ | exact ‹Avoids _ _›.mono (by decide) | exact rfl | apply Within.upd_units

end Sys2Proof.Machine
end

