-- ==== Sys2Proof/Laws/KeepsPort.lean ====
section
/-!
SUPPORT. The operations of Machine/Port.lean keep what every step keeps.
-/
set_option Elab.async false
namespace Sys2Proof.Machine

set_option linter.tactic.unusedName false

variable {parts : Nat}

theorem State.setPort_keeps {s0 s : State} (h : Within parts s0 s) {p : Port}
    (hm : Avoids parts 8388616 := by exact ‹Avoids _ _›.mono (by decide)) :
    Within parts s0 (State.setPort s p) := by
  unfold State.setPort
  with_reducible repeat' first | assumption | exact Within.refl _ | exact ‹Avoids _ _›.mono (by decide) | apply State.set_keeps | exact rfl | apply Within.upd_port

theorem State.l1Exit_keeps {s0 s : State} (h : Within parts s0 s)
    (hm : Avoids parts 8 := by exact ‹Avoids _ _›.mono (by decide)) :
    Within parts s0 (State.l1Exit s) := by
  unfold State.l1Exit
  with_reducible repeat' first | assumption | exact Within.refl _ | exact ‹Avoids _ _›.mono (by decide) | apply State.clear_keeps | apply Within.ite

theorem State.portMsg_keeps {s0 s : State} (h : Within parts s0 s) {f : Nat} {o : Out}
    (hm : Avoids parts 1082130568 := by exact ‹Avoids _ _›.mono (by decide)) :
    Within parts s0 (State.portMsg s f o) := by
  unfold State.portMsg
  with_reducible repeat' first | intro _ | (extract_lets +onlyGivenNames x1; first | (refine Within.cut (m := parts) (s0 := s0) (v := x1) ?_ ?_; rotate_left; intro hx; clear_value x1; rotate_left; unfold x1; clear x1) | clear_value x1) | assumption | exact Within.refl _ | exact ‹Avoids _ _›.mono (by decide) | apply State.emit_keeps | apply State.l1Exit_keeps | apply State.request_keeps | apply State.setPort_keeps | apply Within.ite

theorem State.seenCopy_keeps {s0 s : State} (h : Within parts s0 s) {k : ReqKind}
    (hm : Avoids parts 8 := by exact ‹Avoids _ _›.mono (by decide)) :
    Within parts s0 (State.seenCopy s k) := by
  unfold State.seenCopy
  with_reducible repeat' first | assumption | exact Within.refl _ | exact ‹Avoids _ _›.mono (by decide) | apply State.set_keeps | split

theorem State.issue_keeps {s0 s : State} (h : Within parts s0 s) {tag : Nat} {q : HostReq}
    (hm : Avoids parts 1082130441 := by exact ‹Avoids _ _›.mono (by decide)) :
    Within parts s0 (State.issue s tag q) := by
  unfold State.issue
  with_reducible repeat' first | (extract_lets +onlyGivenNames x1; first | (refine Within.cut (m := parts) (s0 := s0) (v := x1) ?_ ?_; rotate_left; intro hx; clear_value x1; rotate_left; unfold x1; clear x1) | clear_value x1) | assumption | exact Within.refl _ | exact ‹Avoids _ _›.mono (by decide) | apply State.emit_keeps | apply State.seenCopy_keeps | apply State.setPort_keeps | exact rfl | apply Within.upd_clk

theorem portGo_keeps {s0 s : State} (h : Within parts s0 s) {l kept : List PortItem}
    (hm : Avoids parts 1082130441 := by exact ‹Avoids _ _›.mono (by decide)) : Within parts s0 (portGo l kept s) := by
  induction l generalizing s kept with
  | nil => exact State.setPort_keeps h
  | cons i l ih =>
    unfold portGo
    cases i with
    | write b f o =>
      dsimp only
      split
      · exact ih h
      · exact ih (State.emit_keeps h)
    | read b q =>
      dsimp only
      split
      next => exact ih (State.issue_keeps h)
      next => exact ih h

theorem State.portPump_keeps {s0 s : State} (h : Within parts s0 s) 
    (hm : Avoids parts 1082130441 := by exact ‹Avoids _ _›.mono (by decide)) :
    Within parts s0 (State.portPump s) := by
  unfold State.portPump
  with_reducible repeat' first | assumption | exact Within.refl _ | exact ‹Avoids _ _›.mono (by decide) | apply portGo_keeps

theorem State.portWrite_keeps {s0 s : State} (h : Within parts s0 s) {f : Nat} {addr : Nat} {bs : List Byte} {poison : Bool} {own : Nat}
    (hm : Avoids parts 1082130441 := by exact ‹Avoids _ _›.mono (by decide)) :
    Within parts s0 (State.portWrite s f addr bs poison own) := by
  unfold State.portWrite
  with_reducible repeat' first | assumption | exact Within.refl _ | exact ‹Avoids _ _›.mono (by decide) | apply State.l1Exit_keeps | apply State.portPump_keeps | apply State.setPort_keeps

theorem State.portRead_keeps {s0 s : State} (h : Within parts s0 s) {f : Nat} {kind : ReqKind} {addr : Nat} {len : Nat}
    (hm : Avoids parts 1082130441 := by exact ‹Avoids _ _›.mono (by decide)) :
    Within parts s0 (State.portRead s f kind addr len) := by
  unfold State.portRead
  with_reducible repeat' first | assumption | exact Within.refl _ | exact ‹Avoids _ _›.mono (by decide) | apply State.l1Exit_keeps | apply State.portPump_keeps | apply State.setPort_keeps

theorem State.portEnd_keeps {s0 s : State} (h : Within parts s0 s) {tag : Nat} {quarantine : Bool}
    (hm : Avoids parts 8388616 := by exact ‹Avoids _ _›.mono (by decide)) :
    Within parts s0 (State.portEnd s tag quarantine) := by
  unfold State.portEnd
  with_reducible repeat' first | assumption | exact Within.refl _ | exact ‹Avoids _ _›.mono (by decide) | apply State.setPort_keeps | apply Within.ite

theorem State.orIn_keeps {s0 s : State} (h : Within parts s0 s) {x : Fld} {m : Nat}
    (hm : Avoids parts 8 := by exact ‹Avoids _ _›.mono (by decide)) :
    Within parts s0 (State.orIn s x m) := by
  unfold State.orIn
  with_reducible repeat' first | assumption | exact Within.refl _ | exact ‹Avoids _ _›.mono (by decide) | apply State.set_keeps

theorem State.aer_keeps {s0 s : State} (h : Within parts s0 s) {f : Nat} {bit : Nat} {advisory : Bool}
    (hm : Avoids parts 1082130568 := by exact ‹Avoids _ _›.mono (by decide)) :
    Within parts s0 (State.aer s f bit advisory) := by
  unfold State.aer
  with_reducible repeat' first | (extract_lets +onlyGivenNames x1; first | (refine Within.cut (m := parts) (s0 := s0) (v := x1) ?_ ?_; rotate_left; intro hx; clear_value x1; rotate_left; unfold x1; clear x1) | clear_value x1) | assumption | exact Within.refl _ | exact ‹Avoids _ _›.mono (by decide) | apply State.orIn_keeps | apply State.portMsg_keeps | apply Within.ite

theorem State.aerCor_keeps {s0 s : State} (h : Within parts s0 s) {f : Nat} {bit : Nat}
    (hm : Avoids parts 1082130568 := by exact ‹Avoids _ _›.mono (by decide)) :
    Within parts s0 (State.aerCor s f bit) := by
  unfold State.aerCor
  with_reducible repeat' first | (extract_lets +onlyGivenNames x1; first | (refine Within.cut (m := parts) (s0 := s0) (v := x1) ?_ ?_; rotate_left; intro hx; clear_value x1; rotate_left; unfold x1; clear x1) | clear_value x1) | assumption | exact Within.refl _ | exact ‹Avoids _ _›.mono (by decide) | apply State.orIn_keeps | apply State.portMsg_keeps | apply Within.ite

theorem State.unsupported_keeps {s0 s : State} (h : Within parts s0 s) {f : Nat} {write : Bool}
    (hm : Avoids parts 1082130568 := by exact ‹Avoids _ _›.mono (by decide)) :
    Within parts s0 (State.unsupported s f write) := by
  unfold State.unsupported
  with_reducible repeat' first | (extract_lets +onlyGivenNames x1; first | (refine Within.cut (m := parts) (s0 := s0) (v := x1) ?_ ?_; rotate_left; intro hx; clear_value x1; rotate_left; unfold x1; clear x1) | clear_value x1) | assumption | exact Within.refl _ | exact ‹Avoids _ _›.mono (by decide) | apply State.aer_keeps | apply State.bumpSat_keeps | apply State.portMsg_keeps | apply Within.ite

theorem State.viaBus_keeps {s0 s : State} (h : Within parts s0 s) {who : Who} {f : State → State} (h_f : ∀ t, Within parts s0 t → Within parts s0 (f t)) {write : Bool}
    (hm : Avoids parts 1082130568 := by exact ‹Avoids _ _›.mono (by decide)) :
    Within parts s0 (State.viaBus s who f write) := by
  unfold State.viaBus
  with_reducible repeat' first | assumption | exact Within.refl _ | exact ‹Avoids _ _›.mono (by decide) | apply State.l1Exit_keeps | apply State.unsupported_keeps | apply h_f | apply Within.ite | split

theorem State.readAnswer_keeps {s0 s : State} (h : Within parts s0 s) {who : Who} {o : Out}
    (hm : Avoids parts 1082130568 := by exact ‹Avoids _ _›.mono (by decide)) :
    Within parts s0 (State.readAnswer s who o) := by
  unfold State.readAnswer
  with_reducible repeat' first | assumption | exact Within.refl _ | exact ‹Avoids _ _›.mono (by decide) | apply State.emit_keeps | apply State.portMsg_keeps | split

end Sys2Proof.Machine
end

