-- ==== Sys2Proof/Laws/KeepsFlags.lean ====
section
/-!
SUPPORT. The operations of Machine/Flags.lean keep what every step keeps.
-/
set_option Elab.async false
namespace Sys2Proof.Machine

set_option linter.tactic.unusedName false

variable {parts : Nat}

theorem State.msix_keeps {s0 s : State} (h : Within parts s0 s) {f : Nat} {v : Nat}
    (hm : Avoids parts 1082130568 := by exact ‹Avoids _ _›.mono (by decide)) :
    Within parts s0 (State.msix s f v) := by
  unfold State.msix
  with_reducible repeat' first | assumption | exact Within.refl _ | exact ‹Avoids _ _›.mono (by decide) | apply State.portMsg_keeps | apply State.raise_keeps | apply Within.ite

theorem State.inta_keeps {s0 s : State} (h : Within parts s0 s) {f : Nat} {wasOn : Bool}
    (hm : Avoids parts 1082130568 := by exact ‹Avoids _ _›.mono (by decide)) :
    Within parts s0 (State.inta s f wasOn) := by
  unfold State.inta
  with_reducible repeat' first | (extract_lets +onlyGivenNames x1; first | (refine Within.cut (m := parts) (s0 := s0) (v := x1) ?_ ?_; rotate_left; intro hx; clear_value x1; rotate_left; unfold x1; clear x1) | clear_value x1) | assumption | exact Within.refl _ | exact ‹Avoids _ _›.mono (by decide) | apply State.portMsg_keeps | apply State.setFlag_keeps | apply Within.ite

theorem State.aggSend_keeps {s0 s : State} (h : Within parts s0 s) {f : Nat}
    (hm : Avoids parts 1082130568 := by exact ‹Avoids _ _›.mono (by decide)) :
    Within parts s0 (State.aggSend s f) := by
  unfold State.aggSend
  with_reducible repeat' first | (extract_lets +onlyGivenNames x1; first | (refine Within.cut (m := parts) (s0 := s0) (v := x1) ?_ ?_; rotate_left; intro hx; clear_value x1; rotate_left; unfold x1; clear x1) | clear_value x1) | assumption | exact Within.refl _ | exact ‹Avoids _ _›.mono (by decide) | apply State.msix_keeps | apply State.portMsg_keeps | apply State.raise_keeps | apply Within.ite

theorem State.aggUpdate_keeps {s0 t : State} (h : Within parts s0 t) {f : Nat} {s : State}
    (hm : Avoids parts 1082130568 := by exact ‹Avoids _ _›.mono (by decide)) :
    Within parts s0 (State.aggUpdate t f s) := by
  unfold State.aggUpdate
  with_reducible repeat' first | (extract_lets +onlyGivenNames x1; first | (refine Within.cut (m := parts) (s0 := s0) (v := x1) ?_ ?_; rotate_left; intro hx; clear_value x1; rotate_left; unfold x1; clear x1) | clear_value x1) | assumption | exact Within.refl _ | exact ‹Avoids _ _›.mono (by decide) | apply State.aggSend_keeps | apply State.inta_keeps | apply Within.ite

theorem State.girq_keeps {s0 s : State} (h : Within parts s0 s) {f : Nat} {b : Fld}
    (hm : Avoids parts 1082130568 := by exact ‹Avoids _ _›.mono (by decide)) :
    Within parts s0 (State.girq s f b) := by
  unfold State.girq
  with_reducible repeat' first | assumption | exact Within.refl _ | exact ‹Avoids _ _›.mono (by decide) | apply State.aggUpdate_keeps | apply State.raise_keeps

theorem State.girqBoth_keeps {s0 s : State} (h : Within parts s0 s) {b : Nat → Fld}
    (hm : Avoids parts 1082130568 := by exact ‹Avoids _ _›.mono (by decide)) :
    Within parts s0 (State.girqBoth s b) := by
  unfold State.girqBoth
  with_reducible repeat' first | assumption | exact Within.refl _ | exact ‹Avoids _ _›.mono (by decide) | apply State.girq_keeps

theorem State.girqSward_keeps {s0 s : State} (h : Within parts s0 s) 
    (hm : Avoids parts 1082130568 := by exact ‹Avoids _ _›.mono (by decide)) :
    Within parts s0 (State.girqSward s) := by
  unfold State.girqSward
  with_reducible repeat' first | intro _ | (extract_lets +onlyGivenNames x1; first | (refine Within.cut (m := parts) (s0 := s0) (v := x1) ?_ ?_; rotate_left; intro hx; clear_value x1; rotate_left; unfold x1; clear x1) | clear_value x1) | assumption | exact Within.refl _ | exact ‹Avoids _ _›.mono (by decide) | apply State.aggUpdate_keeps | apply State.setFlag_keeps

end Sys2Proof.Machine
end

