-- ==== Sys2Proof/Laws/KeepsLog.lean ====
section
/-!
SUPPORT. The operations of Machine/Log.lean keep what every step keeps.
-/
set_option Elab.async false
namespace Sys2Proof.Machine

set_option linter.tactic.unusedName false

variable {parts : Nat}

theorem State.logLevel_keeps {s0 s : State} (h : Within parts s0 s) 
    (hm : Avoids parts 8 := by exact ‹Avoids _ _›.mono (by decide)) :
    Within parts s0 (State.logLevel s) := by
  unfold State.logLevel
  with_reducible repeat' first | assumption | exact Within.refl _ | exact ‹Avoids _ _›.mono (by decide) | apply State.set_keeps

theorem State.logPush_keeps {s0 s : State} (h : Within parts s0 s) {r : LogRec}
    (hm : Avoids parts 67108872 := by exact ‹Avoids _ _›.mono (by decide)) : Within parts s0 (State.logPush s r) := by
  unfold State.logPush
  dsimp only
  split
  · refine State.logLevel_keeps ?_
    refine State.logQ_keeps h fun _ => ?_
    simp only [List.length_append, List.length_cons, List.length_nil]
    omega
  · refine State.bumpSat_keeps ?_
    exact State.logQ_keeps h id

theorem State.logAt_keeps {s0 s : State} (h : Within parts s0 s) {time cause flags : Nat} {data : List Byte}
    (hm : Avoids parts 67108872 := by exact ‹Avoids _ _›.mono (by decide)) :
    Within parts s0 (State.logAt s time cause flags data) := by
  unfold State.logAt
  extract_lets n l supp
  split
  · exact State.logQ_keeps h id
  · refine State.logPush_keeps ?_
    exact State.logQ_keeps h id

theorem State.log_keeps {s0 s : State} (h : Within parts s0 s) {cause : Nat} {data : List Byte}
    (hm : Avoids parts 67108872 := by exact ‹Avoids _ _›.mono (by decide)) :
    Within parts s0 (State.log s cause data) := by
  unfold State.log
  with_reducible repeat' first | assumption | exact Within.refl _ | exact ‹Avoids _ _›.mono (by decide) | apply State.logAt_keeps

end Sys2Proof.Machine
end

