-- ==== Sys2Proof/Laws/KeepsSward.lean ====
section
/-!
SUPPORT. The operations of Machine/Sward.lean keep what every step keeps.
-/
set_option Elab.async false
namespace Sys2Proof.Machine

set_option linter.tactic.unusedName false

variable {parts : Nat}

theorem State.guardViol_keeps {s0 s : State} (h : Within parts s0 s) {c : Nat} {who : Nat}
    (hm : Avoids parts 67108872 := by exact ‹Avoids _ _›.mono (by decide)) :
    Within parts s0 (State.guardViol s c who) := by
  unfold State.guardViol
  with_reducible repeat' first | (extract_lets +onlyGivenNames x1; first | (refine Within.cut (m := parts) (s0 := s0) (v := x1) ?_ ?_; rotate_left; intro hx; clear_value x1; rotate_left; unfold x1; clear x1) | clear_value x1) | assumption | exact Within.refl _ | exact ‹Avoids _ _›.mono (by decide) | apply State.log_keeps | apply State.raise_keeps | apply State.set_keeps

theorem State.holdSelector_keeps {s0 s : State} (h : Within parts s0 s) {a : Nat}
    (hm : Avoids parts 128 := by exact ‹Avoids _ _›.mono (by decide)) :
    Within parts s0 (State.holdSelector s a) := by
  unfold State.holdSelector
  with_reducible repeat' first | assumption | exact Within.refl _ | exact ‹Avoids _ _›.mono (by decide) | exact rfl | split | apply Within.upd_swd

theorem State.noteSelector_keeps {s0 s : State} (h : Within parts s0 s) {who : Who} {a : Nat}
    (hm : Avoids parts 128 := by exact ‹Avoids _ _›.mono (by decide)) :
    Within parts s0 (State.noteSelector s who a) := by
  unfold State.noteSelector
  with_reducible repeat' first | assumption | exact Within.refl _ | exact ‹Avoids _ _›.mono (by decide) | exact rfl | apply Within.upd_swd

theorem State.dropReqs_keeps {s0 s : State} (h : Within parts s0 s) {c : Nat} {n : Nat}
    (hm : Avoids parts 8 := by exact ‹Avoids _ _›.mono (by decide)) :
    Within parts s0 (State.dropReqs s c n) := by
  unfold State.dropReqs
  with_reducible repeat' first | assumption | exact Within.refl _ | exact ‹Avoids _ _›.mono (by decide) | apply State.bumpSat_keeps | apply State.raise_keeps | apply Within.ite

theorem State.request_keeps {s0 s : State} (h : Within parts s0 s) {r : Req}
    (hm : Avoids parts 136 := by exact ‹Avoids _ _›.mono (by decide)) : Within parts s0 (State.request s r) := by
  unfold State.request
  dsimp only
  split
  · refine State.dropReqs_keeps (State.setFifo_keeps (Within.upd_swd h ?_) fun _ => List.length_take_le _ _)
    exact rfl
  · exact State.dropReqs_keeps h

theorem State.requestPlain_keeps {s0 s : State} (h : Within parts s0 s) {c : Nat} {p : Nat} {param : Nat}
    (hm : Avoids parts 140 := by exact ‹Avoids _ _›.mono (by decide)) :
    Within parts s0 (State.requestPlain s c p param) := by
  unfold State.requestPlain
  with_reducible repeat' first | assumption | exact Within.refl _ | exact ‹Avoids _ _›.mono (by decide) | apply State.request_keeps | apply State.useFree_keeps | exact rfl | apply Within.ite | apply Within.upd_swd

theorem State.arriveAsync_keeps {s0 s : State} (h : Within parts s0 s)
    (hm : Avoids parts 136 := by exact ‹Avoids _ _›.mono (by decide)) :
    Within parts s0 (State.arriveAsync s) := by
  unfold State.arriveAsync
  with_reducible repeat' first | intro _ | (extract_lets +onlyGivenNames x1; first | (refine Within.cut (m := parts) (s0 := s0) (v := x1) ?_ ?_; rotate_left; intro hx; clear_value x1; rotate_left; unfold x1; clear x1) | (have g : Sward := x1; clear g) | clear_value x1) | assumption | exact Within.refl _ | exact ‹Avoids _ _›.mono (by decide) | apply State.forList_keeps | apply State.request_keeps | exact rfl | apply Within.upd_swd

theorem State.closeClock_keeps {s0 s : State} (h : Within parts s0 s)
    (hm : Avoids parts 136 := by exact ‹Avoids _ _›.mono (by decide)) :
    Within parts s0 (State.closeClock s) := by
  unfold State.closeClock
  with_reducible repeat' first | intro _ | (extract_lets +onlyGivenNames x1; first | (refine Within.cut (m := parts) (s0 := s0) (v := x1) ?_ ?_; rotate_left; intro hx; clear_value x1; rotate_left; unfold x1; clear x1) | (have g : Sward := x1; clear g) | clear_value x1) | assumption | exact Within.refl _ | exact ‹Avoids _ _›.mono (by decide) | apply State.foldl_keeps | exact rfl | split | apply Within.upd_swd_risen | apply Within.upd_swd

theorem State.publishOn_keeps {s0 s : State} (h : Within parts s0 s) {f : Sel} {ch : Option Nat} {p : Nat} {param : Nat}
    (hm : Avoids parts 67109004 := by exact ‹Avoids _ _›.mono (by decide)) :
    Within parts s0 (State.publishOn s f ch p param) := by
  unfold State.publishOn
  with_reducible repeat' first | assumption | exact Within.refl _ | exact ‹Avoids _ _›.mono (by decide) | apply State.guardViol_keeps | apply State.requestPlain_keeps | apply Within.ite | split

theorem State.publish_keeps {s0 s : State} (h : Within parts s0 s) {f : Sel} {p : Nat} {param : Nat}
    (hm : Avoids parts 67109004 := by exact ‹Avoids _ _›.mono (by decide)) :
    Within parts s0 (State.publish s f p param) := by
  unfold State.publish
  with_reducible repeat' first | assumption | exact Within.refl _ | exact ‹Avoids _ _›.mono (by decide) | apply State.publishOn_keeps

theorem State.emptyFifo_keeps {s0 s : State} (h : Within parts s0 s) {c : Nat}
    (hm : Avoids parts 136 := by exact ‹Avoids _ _›.mono (by decide)) : Within parts s0 (State.emptyFifo s c) :=
  State.dropReqs_keeps (State.setFifo_keeps h fun _ => Nat.zero_le _)

theorem State.newWindow_keeps {s0 s : State} (h : Within parts s0 s) {c : Nat}
    (hm : Avoids parts 128 := by exact ‹Avoids _ _›.mono (by decide)) :
    Within parts s0 (State.newWindow s c) := by
  unfold State.newWindow
  with_reducible repeat' first | assumption | exact Within.refl _ | exact ‹Avoids _ _›.mono (by decide) | exact rfl | apply Within.upd_swd

theorem State.deliver_keeps {s0 s : State} (h : Within parts s0 s) {e : Event} {fs : List Sel} {act : State → State} {coincidence : State → State} (h_act : ∀  t, Within parts s0 t → Within parts s0 (act  t)) (h_coincidence : ∀  t, Within parts s0 t → Within parts s0 (coincidence  t))
    (hm : Avoids parts 67109000 := by exact ‹Avoids _ _›.mono (by decide)) :
    Within parts s0 (State.deliver s e fs act coincidence) := by
  unfold State.deliver
  with_reducible repeat' first | intro _ | (extract_lets +onlyGivenNames x1; first | (refine Within.cut (m := parts) (s0 := s0) (v := x1) ?_ ?_; rotate_left; intro hx; clear_value x1; rotate_left; unfold x1; clear x1) | (have g : Sward := x1; clear g) | clear_value x1) | assumption | exact Within.refl _ | exact ‹Avoids _ _›.mono (by decide) | apply State.guardViol_keeps | apply h_act | apply h_coincidence | apply Within.ite | exact rfl | apply Within.upd_swd

theorem State.drive_keeps {s0 s : State} (h : Within parts s0 s) {k : Nat} {level : Option Bool}
    (hm : Avoids parts 1073741824 := by exact ‹Avoids _ _›.mono (by decide)) :
    Within parts s0 (State.drive s k level) := by
  unfold State.drive
  with_reducible repeat' first | assumption | exact Within.refl _ | exact ‹Avoids _ _›.mono (by decide) | apply State.emit_keeps | apply Within.ite

theorem State.driveOut_keeps {s0 s : State} (h : Within parts s0 s) {k : Nat} {active : Bool}
    (hm : Avoids parts 1073741824 := by exact ‹Avoids _ _›.mono (by decide)) :
    Within parts s0 (State.driveOut s k active) := by
  unfold State.driveOut
  with_reducible repeat' first | assumption | exact Within.refl _ | exact ‹Avoids _ _›.mono (by decide) | apply State.drive_keeps

theorem State.outAct_keeps {s0 s : State} (h : Within parts s0 s) {k : Nat} {e : Event}
    (hm : Avoids parts 1073741960 := by exact ‹Avoids _ _›.mono (by decide)) :
    Within parts s0 (State.outAct s k e) := by
  unfold State.outAct
  with_reducible repeat' first | (extract_lets +onlyGivenNames x1; first | (refine Within.cut (m := parts) (s0 := s0) (v := x1) ?_ ?_; rotate_left; intro hx; clear_value x1; rotate_left; unfold x1; clear x1) | (have g : Sward := x1; clear g) | clear_value x1) | assumption | exact Within.refl _ | exact ‹Avoids _ _›.mono (by decide) | apply State.bumpSat_keeps | apply State.driveOut_keeps | apply State.pulseEnd_keeps | apply State.raise_keeps | apply Within.ite | exact rfl | apply Within.upd_swd

theorem State.ecntAct_keeps {s0 s : State} (h : Within parts s0 s) {k : Nat}
    (hm : Avoids parts 8 := by exact ‹Avoids _ _›.mono (by decide)) :
    Within parts s0 (State.ecntAct s k) := by
  unfold State.ecntAct
  with_reducible repeat' first | assumption | exact Within.refl _ | exact ‹Avoids _ _›.mono (by decide) | apply State.bump_keeps | apply Within.ite

theorem State.deliverSward_keeps {s0 s : State} (h : Within parts s0 s) {e : Event}
    (hm : Avoids parts 1140850824 := by exact ‹Avoids _ _›.mono (by decide)) :
    Within parts s0 (State.deliverSward s e) := by
  unfold State.deliverSward
  with_reducible repeat' first | intro _ | (extract_lets +onlyGivenNames x1; first | (refine Within.cut (m := parts) (s0 := s0) (v := x1) ?_ ?_; rotate_left; intro hx; clear_value x1; rotate_left; unfold x1; clear x1) | clear_value x1) | assumption | exact Within.refl _ | exact ‹Avoids _ _›.mono (by decide) | apply State.bumpSat_keeps | apply State.deliver_keeps | apply State.ecntAct_keeps | apply State.forEach_keeps | apply State.outAct_keeps

theorem State.outRelease_keeps {s0 s : State} (h : Within parts s0 s) {k : Nat}
    (hm : Avoids parts 1073741832 := by exact ‹Avoids _ _›.mono (by decide)) :
    Within parts s0 (State.outRelease s k) := by
  unfold State.outRelease
  with_reducible repeat' first | assumption | exact Within.refl _ | exact ‹Avoids _ _›.mono (by decide) | apply State.clear_keeps | apply State.drive_keeps

theorem State.dropWindow_keeps {s0 s : State} (h : Within parts s0 s) {c : Nat}
    (hm : Avoids parts 128 := by exact ‹Avoids _ _›.mono (by decide)) :
    Within parts s0 (State.dropWindow s c) := by
  unfold State.dropWindow
  with_reducible repeat' first | (extract_lets +onlyGivenNames x1; first | (refine Within.cut (m := parts) (s0 := s0) (v := x1) ?_ ?_; rotate_left; intro hx; clear_value x1; rotate_left; unfold x1; clear x1) | (have g : Sward := x1; clear g) | clear_value x1) | assumption | exact Within.refl _ | exact ‹Avoids _ _›.mono (by decide) | apply State.newWindow_keeps | exact rfl | apply Within.upd_swd

theorem execGuardWindowEnd_keeps {s : State} {c : Fin 256}
    (hm : Avoids parts 128 := by exact ‹Avoids _ _›.mono (by decide)) : EKeeps parts s (execGuardWindowEnd c s) := by
  have h : Within parts s s := .refl s
  unfold execGuardWindowEnd
  with_reducible repeat' first | assumption | exact Within.refl _ | exact ‹Avoids _ _›.mono (by decide) | apply State.newWindow_keeps | apply EKeeps.next | apply EKeeps.ite

theorem State.applyChCfg_keeps {s0 s : State} (h : Within parts s0 s) {c : Nat} {v : Word}
    (hm : Avoids parts 136 := by exact ‹Avoids _ _›.mono (by decide)) :
    Within parts s0 (State.applyChCfg s c v) := by
  unfold State.applyChCfg
  with_reducible repeat' first | (extract_lets +onlyGivenNames x1; first | (refine Within.cut (m := parts) (s0 := s0) (v := x1) ?_ ?_; rotate_left; intro hx; clear_value x1; rotate_left; unfold x1; clear x1) | (have g : Sward := x1; clear g) | clear_value x1) | assumption | exact Within.refl _ | exact ‹Avoids _ _›.mono (by decide) | apply State.emptyFifo_keeps | apply State.newWindow_keeps | apply State.writeReg_keeps | exact rfl | apply Within.ite | apply Within.upd_swd

theorem execChCfgWrite_keeps {s : State} {who : Who} {c : Fin 256} {r : ChReg} {v : Word}
    (hm : Avoids parts 1149239432 := by exact ‹Avoids _ _›.mono (by decide)) : EKeeps parts s (execChCfgWrite who c r v s) := by
  have h : Within parts s s := .refl s
  unfold execChCfgWrite
  with_reducible repeat' first | intro _ | assumption | exact Within.refl _ | exact ‹Avoids _ _›.mono (by decide) | apply State.applyChCfg_keeps | apply State.dropWindow_keeps | apply State.guardViol_keeps | apply State.set_keeps | apply State.viaBus_keeps | apply Within.ite | split | apply EKeeps.next | apply EKeeps.ite

theorem execSwdPub_keeps {s : State} {who : Who} {v : Word}
    (hm : Avoids parts 1149239436 := by exact ‹Avoids _ _›.mono (by decide)) : EKeeps parts s (execSwdPub who v s) := by
  have h : Within parts s s := .refl s
  unfold execSwdPub
  with_reducible repeat' first | intro _ | (extract_lets +onlyGivenNames x1; first | (refine Within.cut (m := parts) (s0 := s) (v := x1) ?_ ?_; rotate_left; intro hx; clear_value x1; rotate_left; unfold x1; clear x1) | clear_value x1) | assumption | exact Within.refl _ | exact ‹Avoids _ _›.mono (by decide) | apply State.guardViol_keeps | apply State.requestPlain_keeps | apply State.viaBus_keeps | apply Within.ite | apply EKeeps.next | apply EKeeps.ite

theorem execOutPulseEnd_keeps {s : State} {k : Fin 64}
    (hm : Avoids parts 1073741832 := by exact ‹Avoids _ _›.mono (by decide)) : EKeeps parts s (execOutPulseEnd k s) := by
  have h : Within parts s s := .refl s
  unfold execOutPulseEnd
  with_reducible repeat' first | assumption | exact Within.refl _ | exact ‹Avoids _ _›.mono (by decide) | apply State.clear_keeps | apply State.driveOut_keeps | apply Within.ite | apply EKeeps.next | apply EKeeps.ite

theorem execOutCtrlWrite_keeps {s : State} {who : Who} {k : Fin 64} {v : Word}
    (hm : Avoids parts 1082130568 := by exact ‹Avoids _ _›.mono (by decide)) : EKeeps parts s (execOutCtrlWrite who k v s) := by
  have h : Within parts s s := .refl s
  unfold execOutCtrlWrite
  with_reducible repeat' first | intro _ | (extract_lets +onlyGivenNames x1; first | (refine Within.cut (m := parts) (s0 := s) (v := x1) ?_ ?_; rotate_left; intro hx; clear_value x1; rotate_left; unfold x1; clear x1) | clear_value x1) | assumption | exact Within.refl _ | exact ‹Avoids _ _›.mono (by decide) | apply State.clear_keeps | apply State.driveOut_keeps | apply State.drive_keeps | apply State.raise_keeps | apply State.viaBus_keeps | apply State.writeReg_keeps | apply Within.ite | apply EKeeps.next | apply EKeeps.ite

end Sys2Proof.Machine
end

