-- ==== Sys2Proof/Laws/KeepsUnits.lean ====
section
/-!
SUPPORT. The operations of Machine/Units.lean keep what every step keeps.
-/
set_option Elab.async false
namespace Sys2Proof.Machine

set_option linter.tactic.unusedName false

variable {parts : Nat}

theorem State.skepDo_keeps {s0 s : State} (h : Within parts s0 s) {j : SkepJob} {f : State → State} (h_f : ∀ t, Within parts s0 t → Within parts s0 (f t))
    (hm : Avoids parts 33554432 := by exact ‹Avoids _ _›.mono (by decide)) :
    Within parts s0 (State.skepDo s j f) := by
  unfold State.skepDo
  with_reducible repeat' first | assumption | exact Within.refl _ | exact ‹Avoids _ _›.mono (by decide) | apply h_f | exact rfl | apply Within.ite | apply Within.upd_skep

theorem State.skepOnce_keeps {s0 s : State} (h : Within parts s0 s) {j : SkepJob} {f : State → State} (h_f : ∀ t, Within parts s0 t → Within parts s0 (f t))
    (hm : Avoids parts 33554432 := by exact ‹Avoids _ _›.mono (by decide)) :
    Within parts s0 (State.skepOnce s j f) := by
  unfold State.skepOnce
  with_reducible repeat' first | assumption | exact Within.refl _ | exact ‹Avoids _ _›.mono (by decide) | apply State.skepDo_keeps | apply h_f | apply Within.ite

theorem State.skepSays_keeps {s0 s : State} (h : Within parts s0 s) {sel : Nat} {param : Nat}
    (hm : Avoids parts 1149239436 := by exact ‹Avoids _ _›.mono (by decide)) :
    Within parts s0 (State.skepSays s sel param) := by
  unfold State.skepSays
  with_reducible repeat' first | (extract_lets +onlyGivenNames x1; first | (refine Within.cut (m := parts) (s0 := s0) (v := x1) ?_ ?_; rotate_left; intro hx; clear_value x1; rotate_left; unfold x1; clear x1) | clear_value x1) | assumption | exact Within.refl _ | exact ‹Avoids _ _›.mono (by decide) | apply State.girqBoth_keeps | apply State.publish_keeps | apply Within.ite

theorem State.skepPublish_keeps {s0 s : State} (h : Within parts s0 s) {sel : Nat} {param : Nat}
    (hm : Avoids parts 1182793868 := by exact ‹Avoids _ _›.mono (by decide)) :
    Within parts s0 (State.skepPublish s sel param) := by
  unfold State.skepPublish
  with_reducible repeat' first | intro _ | assumption | exact Within.refl _ | exact ‹Avoids _ _›.mono (by decide) | apply State.skepDo_keeps | apply State.skepSays_keeps

theorem State.publishSkep_keeps {s0 s : State} (h : Within parts s0 s) {u : Nat} {kind : Nat}
    (hm : Avoids parts 1182793868 := by exact ‹Avoids _ _›.mono (by decide)) :
    Within parts s0 (State.publishSkep s u kind) := by
  unfold State.publishSkep
  with_reducible repeat' first | assumption | exact Within.refl _ | exact ‹Avoids _ _›.mono (by decide) | apply State.skepPublish_keeps

theorem State.unitTo_keeps {s0 s : State} (h : Within parts s0 s) {u : Nat} {st : UnitState} {cause : Nat}
    (hm : Avoids parts 1182793932 := by exact ‹Avoids _ _›.mono (by decide)) :
    Within parts s0 (State.unitTo s u st cause) := by
  unfold State.unitTo
  with_reducible repeat' first | intro _ | (extract_lets +onlyGivenNames x1; first | (refine Within.cut (m := parts) (s0 := s0) (v := x1) ?_ ?_; rotate_left; intro hx; clear_value x1; rotate_left; unfold x1; clear x1) | clear_value x1) | assumption | exact Within.refl _ | exact ‹Avoids _ _›.mono (by decide) | apply State.log_keeps | apply State.publishSkep_keeps | apply State.setUnit_keeps | exact rfl | apply Within.ite | apply Within.upd_skep

theorem State.unitClear_keeps {s0 s : State} (h : Within parts s0 s) {u : Nat}
    (hm : Avoids parts 1182793932 := by exact ‹Avoids _ _›.mono (by decide)) :
    Within parts s0 (State.unitClear s u) := by
  unfold State.unitClear
  with_reducible repeat' first | (extract_lets +onlyGivenNames x1; first | (refine Within.cut (m := parts) (s0 := s0) (v := x1) ?_ ?_; rotate_left; intro hx; clear_value x1; rotate_left; unfold x1; clear x1) | clear_value x1) | assumption | exact Within.refl _ | exact ‹Avoids _ _›.mono (by decide) | apply State.setUnit_keeps | apply State.unitTo_keeps | apply Within.ite

theorem State.unitFault_keeps {s0 s : State} (h : Within parts s0 s) {u : Nat} {cause : Nat}
    (hm : Avoids parts 1182793932 := by exact ‹Avoids _ _›.mono (by decide)) :
    Within parts s0 (State.unitFault s u cause) := by
  unfold State.unitFault
  with_reducible repeat' first | (extract_lets +onlyGivenNames x1; first | (refine Within.cut (m := parts) (s0 := s0) (v := x1) ?_ ?_; rotate_left; intro hx; clear_value x1; rotate_left; unfold x1; clear x1) | clear_value x1) | assumption | exact Within.refl _ | exact ‹Avoids _ _›.mono (by decide) | apply State.setUnit_keeps | apply State.unitClear_keeps | apply State.unitTo_keeps | apply Within.ite

theorem State.unitStartNow_keeps {s0 s : State} (h : Within parts s0 s) {u : Nat}
    (hm : Avoids parts 1182793932 := by exact ‹Avoids _ _›.mono (by decide)) :
    Within parts s0 (State.unitStartNow s u) := by
  unfold State.unitStartNow
  with_reducible repeat' first | assumption | exact Within.refl _ | exact ‹Avoids _ _›.mono (by decide) | apply State.unitTo_keeps | split

theorem State.unitStopNow_keeps {s0 s : State} (h : Within parts s0 s) {u : Nat}
    (hm : Avoids parts 1182793932 := by exact ‹Avoids _ _›.mono (by decide)) :
    Within parts s0 (State.unitStopNow s u) := by
  unfold State.unitStopNow
  with_reducible repeat' first | assumption | exact Within.refl _ | exact ‹Avoids _ _›.mono (by decide) | apply State.unitTo_keeps | split

end Sys2Proof.Machine
end

