-- ==== Sys2Proof/Laws/KeepsPosition.lean ====
section
/-!
SUPPORT. The operations of Machine/Position.lean keep what every step keeps.
-/
set_option Elab.async false
namespace Sys2Proof.Machine

set_option linter.tactic.unusedName false

variable {parts : Nat}

theorem State.slotCounts_keeps {s0 s : State} (h : Within parts s0 s) {t : Nat} {d : Int}
    (hm : Avoids parts 8 := by exact ‹Avoids _ _›.mono (by decide)) :
    Within parts s0 (State.slotCounts s t d) := by
  unfold State.slotCounts
  with_reducible repeat' first | (extract_lets +onlyGivenNames x1; first | (refine Within.cut (m := parts) (s0 := s0) (v := x1) ?_ ?_; rotate_left; intro hx; clear_value x1; rotate_left; unfold x1; clear x1) | clear_value x1) | assumption | exact Within.refl _ | exact ‹Avoids _ _›.mono (by decide) | apply State.set_keeps | apply State.setMax_keeps | apply Within.ite

theorem State.freeSlot_keeps {s0 s : State} (h : Within parts s0 s) {i : Nat}
    (hm : Avoids parts 520 := by exact ‹Avoids _ _›.mono (by decide)) :
    Within parts s0 (State.freeSlot s i) := by
  unfold State.freeSlot
  with_reducible repeat' first | intro _ | (extract_lets +onlyGivenNames x1; first | (refine Within.cut (m := parts) (s0 := s0) (v := x1) ?_ ?_; rotate_left; intro hx; clear_value x1; rotate_left; unfold x1; clear x1) | clear_value x1) | assumption | exact Within.refl _ | exact ‹Avoids _ _›.mono (by decide) | apply State.setSlot_keeps | apply State.slotCounts_keeps | apply Within.ite | exact rfl | apply Within.upd_pe

theorem State.fireEvent_keeps {s0 s : State} (h : Within parts s0 s) {i : Nat} {late : Bool}
    (hm : Avoids parts 136 := by exact ‹Avoids _ _›.mono (by decide)) :
    Within parts s0 (State.fireEvent s i late) := by
  unfold State.fireEvent
  with_reducible repeat' first | (extract_lets +onlyGivenNames x1; first | (refine Within.cut (m := parts) (s0 := s0) (v := x1) ?_ ?_; rotate_left; intro hx; clear_value x1; rotate_left; unfold x1; clear x1) | clear_value x1) | assumption | exact Within.refl _ | exact ‹Avoids _ _›.mono (by decide) | apply State.bump_keeps | apply State.request_keeps | apply Within.ite

theorem State.advance_keeps {s0 s : State} (h : Within parts s0 s) {i : Nat} {forward : Bool}
    (hm : Avoids parts 520 := by exact ‹Avoids _ _›.mono (by decide)) :
    Within parts s0 (State.advance s i forward) := by
  unfold State.advance
  with_reducible repeat' first | (extract_lets +onlyGivenNames x1; first | (refine Within.cut (m := parts) (s0 := s0) (v := x1) ?_ ?_; rotate_left; intro hx; clear_value x1; rotate_left; unfold x1; clear x1) | clear_value x1) | assumption | exact Within.refl _ | exact ‹Avoids _ _›.mono (by decide) | apply State.bumpSat_keeps | apply State.raise_keeps | apply State.setSlot_keeps | apply Within.ite

theorem State.fireSlot_keeps {s0 s : State} (h : Within parts s0 s) {i : Nat} {late : Bool} {forward : Bool}
    (hm : Avoids parts 648 := by exact ‹Avoids _ _›.mono (by decide)) :
    Within parts s0 (State.fireSlot s i late forward) := by
  unfold State.fireSlot
  with_reducible repeat' first | intro _ | (extract_lets +onlyGivenNames x1; first | (refine Within.cut (m := parts) (s0 := s0) (v := x1) ?_ ?_; rotate_left; intro hx; clear_value x1; rotate_left; unfold x1; clear x1) | clear_value x1) | assumption | exact Within.refl _ | exact ‹Avoids _ _›.mono (by decide) | apply State.advance_keeps | apply State.fireEvent_keeps | apply State.freeSlot_keeps | apply Within.ite | exact rfl | apply Within.upd_pe

theorem State.countFire_keeps {s0 s : State} (h : Within parts s0 s) 
    (hm : Avoids parts 512 := by exact ‹Avoids _ _›.mono (by decide)) :
    Within parts s0 (State.countFire s) := by
  unfold State.countFire
  with_reducible repeat' first | assumption | exact Within.refl _ | exact ‹Avoids _ _›.mono (by decide) | exact rfl | apply Within.upd_pe

theorem State.noteDefer_keeps {s0 s : State} (h : Within parts s0 s) 
    (hm : Avoids parts 8 := by exact ‹Avoids _ _›.mono (by decide)) :
    Within parts s0 (State.noteDefer s) := by
  unfold State.noteDefer
  with_reducible repeat' first | assumption | exact Within.refl _ | exact ‹Avoids _ _›.mono (by decide) | apply State.bumpSat_keeps | apply State.raise_keeps

theorem State.addDue_keeps {s0 s : State} (h : Within parts s0 s) {l : List Due}
    (hm : Avoids parts 512 := by exact ‹Avoids _ _›.mono (by decide)) :
    Within parts s0 (State.addDue s l) := by
  unfold State.addDue
  with_reducible repeat' first | intro _ | assumption | exact Within.refl _ | exact ‹Avoids _ _›.mono (by decide) | apply State.foldl_keeps | exact rfl | apply Within.upd_pe

theorem State.recross_keeps {s0 s : State} (h : Within parts s0 s) {moves : List (Nat × Nat × Nat)}
    (hm : Avoids parts 512 := by exact ‹Avoids _ _›.mono (by decide)) :
    Within parts s0 (State.recross s moves) := by
  unfold State.recross
  with_reducible repeat' first | intro _ | (extract_lets +onlyGivenNames x1; first | (refine Within.cut (m := parts) (s0 := s0) (v := x1) ?_ ?_; rotate_left; intro hx; clear_value x1; rotate_left; unfold x1; clear x1) | clear_value x1) | assumption | exact Within.refl _ | exact ‹Avoids _ _›.mono (by decide) | apply State.addDue_keeps | exact rfl | apply Within.upd_pe

theorem State.deferRest_keeps {s0 s : State} (h : Within parts s0 s)
    (hm : Avoids parts 512 := by exact ‹Avoids _ _›.mono (by decide)) :
    Within parts s0 (State.deferRest s) := by
  unfold State.deferRest
  with_reducible repeat' first | assumption | exact Within.refl _ | exact ‹Avoids _ _›.mono (by decide) | exact rfl | apply Within.upd_pe

theorem State.moveView_keeps {s0 s : State} (h : Within parts s0 s) {v : Nat} {delta : Int}
    (hm : Avoids parts 520 := by exact ‹Avoids _ _›.mono (by decide)) :
    Within parts s0 (State.moveView s v delta) := by
  unfold State.moveView
  with_reducible repeat' first | (extract_lets +onlyGivenNames x1; first | (refine Within.cut (m := parts) (s0 := s0) (v := x1) ?_ ?_; rotate_left; intro hx; clear_value x1; rotate_left; unfold x1; clear x1) | clear_value x1) | assumption | exact Within.refl _ | exact ‹Avoids _ _›.mono (by decide) | apply State.set_keeps | apply State.setViewPos_keeps

theorem State.placeSource_keeps {s0 s : State} (h : Within parts s0 s) {n : Nat} {p : Nat}
    (hm : Avoids parts 520 := by exact ‹Avoids _ _›.mono (by decide)) :
    Within parts s0 (State.placeSource s n p) := by
  unfold State.placeSource
  with_reducible repeat' first | intro _ | (extract_lets +onlyGivenNames x1; first | (refine Within.cut (m := parts) (s0 := s0) (v := x1) ?_ ?_; rotate_left; intro hx; clear_value x1; rotate_left; unfold x1; clear x1) | clear_value x1) | assumption | exact Within.refl _ | exact ‹Avoids _ _›.mono (by decide) | apply State.forList_keeps | apply State.moveView_keeps | apply State.set_keeps | apply State.setSrc_keeps

theorem State.stepSource_keeps {s0 s : State} (h : Within parts s0 s) {n : Nat} {p : Nat}
    (hm : Avoids parts 520 := by exact ‹Avoids _ _›.mono (by decide)) :
    Within parts s0 (State.stepSource s n p) := by
  unfold State.stepSource
  with_reducible repeat' first | intro _ | (extract_lets +onlyGivenNames x1; first | (refine Within.cut (m := parts) (s0 := s0) (v := x1) ?_ ?_; rotate_left; intro hx; clear_value x1; rotate_left; unfold x1; clear x1) | clear_value x1) | assumption | exact Within.refl _ | exact ‹Avoids _ _›.mono (by decide) | apply State.placeSource_keeps | apply State.recross_keeps | apply Within.ite

theorem State.startSource_keeps {s0 s : State} (h : Within parts s0 s) {n : Nat}
    (hm : Avoids parts 512 := by exact ‹Avoids _ _›.mono (by decide)) :
    Within parts s0 (State.startSource s n) := by
  unfold State.startSource
  with_reducible repeat' first | intro _ | (extract_lets +onlyGivenNames x1; first | (refine Within.cut (m := parts) (s0 := s0) (v := x1) ?_ ?_; rotate_left; intro hx; clear_value x1; rotate_left; unfold x1; clear x1) | clear_value x1) | assumption | exact Within.refl _ | exact ‹Avoids _ _›.mono (by decide) | apply State.forList_keeps | apply State.setSrc_keeps | apply State.setViewPos_keeps

theorem State.srcShow_keeps {s0 s : State} (h : Within parts s0 s) {n : Nat}
    (hm : Avoids parts 8 := by exact ‹Avoids _ _›.mono (by decide)) :
    Within parts s0 (State.srcShow s n) := by
  unfold State.srcShow
  with_reducible repeat' first | (extract_lets +onlyGivenNames x1; first | (refine Within.cut (m := parts) (s0 := s0) (v := x1) ?_ ?_; rotate_left; intro hx; clear_value x1; rotate_left; unfold x1; clear x1) | clear_value x1) | assumption | exact Within.refl _ | exact ‹Avoids _ _›.mono (by decide) | apply State.setFlag_keeps | apply State.setInt_keeps | apply Within.ite

theorem State.refreshSource_keeps {s0 s : State} (h : Within parts s0 s) {n : Nat}
    (hm : Avoids parts 520 := by exact ‹Avoids _ _›.mono (by decide)) :
    Within parts s0 (State.refreshSource s n) := by
  unfold State.refreshSource
  with_reducible repeat' first | assumption | exact Within.refl _ | exact ‹Avoids _ _›.mono (by decide) | apply State.srcShow_keeps | apply State.stepSource_keeps | apply Within.ite

theorem State.encEdge_keeps {s0 s : State} (h : Within parts s0 s) {c : Nat}
    (hm : Avoids parts 520 := by exact ‹Avoids _ _›.mono (by decide)) :
    Within parts s0 (State.encEdge s c) := by
  unfold State.encEdge
  with_reducible repeat' first | intro _ | assumption | exact Within.refl _ | exact ‹Avoids _ _›.mono (by decide) | apply State.forList_keeps | apply State.refreshSource_keeps | apply State.setSrc_keeps

theorem State.encEstimate_keeps {s0 s : State} (h : Within parts s0 s) {c : Nat} {old : State}
    (hm : Avoids parts 520 := by exact ‹Avoids _ _›.mono (by decide)) :
    Within parts s0 (State.encEstimate s c old) := by
  unfold State.encEstimate
  with_reducible repeat' first | intro _ | (extract_lets +onlyGivenNames x1; first | (refine Within.cut (m := parts) (s0 := s0) (v := x1) ?_ ?_; rotate_left; intro hx; clear_value x1; rotate_left; unfold x1; clear x1) | clear_value x1) | assumption | exact Within.refl _ | exact ‹Avoids _ _›.mono (by decide) | apply State.forList_keeps | apply State.refreshSource_keeps | apply State.setSrc_keeps | apply Within.ite

theorem State.streamEvent_keeps {s0 s : State} (h : Within parts s0 s) {n : Nat} {stale : Bool}
    (hm : Avoids parts 67109004 := by exact ‹Avoids _ _›.mono (by decide)) :
    Within parts s0 (State.streamEvent s n stale) := by
  unfold State.streamEvent
  with_reducible repeat' first | assumption | exact Within.refl _ | exact ‹Avoids _ _›.mono (by decide) | apply State.publish_keeps | apply Within.ite

theorem State.takeValue_keeps {s0 s : State} (h : Within parts s0 s) {n : Nat} {turned : Bool}
    (hm : Avoids parts 67109516 := by exact ‹Avoids _ _›.mono (by decide)) :
    Within parts s0 (State.takeValue s n turned) := by
  unfold State.takeValue
  with_reducible repeat' first | (extract_lets +onlyGivenNames x1; first | (refine Within.cut (m := parts) (s0 := s0) (v := x1) ?_ ?_; rotate_left; intro hx; clear_value x1; rotate_left; unfold x1; clear x1) | clear_value x1) | assumption | exact Within.refl _ | exact ‹Avoids _ _›.mono (by decide) | apply State.clear_keeps | apply State.refreshSource_keeps | apply State.srcShow_keeps | apply State.stepSource_keeps | apply State.streamEvent_keeps | apply Within.ite | split

theorem State.inputValue_keeps {s0 s : State} (h : Within parts s0 s) {kind : Nat} {c : Nat} {turned : Bool}
    (hm : Avoids parts 67109516 := by exact ‹Avoids _ _›.mono (by decide)) :
    Within parts s0 (State.inputValue s kind c turned) := by
  unfold State.inputValue
  with_reducible repeat' first | intro _ | assumption | exact Within.refl _ | exact ‹Avoids _ _›.mono (by decide) | apply State.forList_keeps | apply State.setSrc_keeps | apply State.takeValue_keeps

theorem State.ssiInput_keeps {s0 s : State} (h : Within parts s0 s) {c : Nat} {v : Nat} {t : Nat}
    (hm : Avoids parts 67109772 := by exact ‹Avoids _ _›.mono (by decide)) :
    Within parts s0 (State.ssiInput s c v t) := by
  unfold State.ssiInput
  with_reducible repeat' first | (extract_lets +onlyGivenNames x1; first | (refine Within.cut (m := parts) (s0 := s0) (v := x1) ?_ ?_; rotate_left; intro hx; clear_value x1; rotate_left; unfold x1; clear x1) | clear_value x1) | assumption | exact Within.refl _ | exact ‹Avoids _ _›.mono (by decide) | apply State.inputValue_keeps | apply State.setSsi_keeps | apply Within.ite | split

theorem State.stationInput_keeps {s0 s : State} (h : Within parts s0 s) {c : Nat} {p : Nat} {t : Nat} {rate : Int}
    (hm : Avoids parts 67110540 := by exact ‹Avoids _ _›.mono (by decide)) :
    Within parts s0 (State.stationInput s c p t rate) := by
  unfold State.stationInput
  with_reducible repeat' first | (extract_lets +onlyGivenNames x1; first | (refine Within.cut (m := parts) (s0 := s0) (v := x1) ?_ ?_; rotate_left; intro hx; clear_value x1; rotate_left; unfold x1; clear x1) | clear_value x1) | assumption | exact Within.refl _ | exact ‹Avoids _ _›.mono (by decide) | apply State.inputValue_keeps | exact rfl | apply Within.ite | split | apply Within.upd_net

theorem State.inputMiss_keeps {s0 s : State} (h : Within parts s0 s) {kind : Nat} {c : Nat}
    (hm : Avoids parts 512 := by exact ‹Avoids _ _›.mono (by decide)) :
    Within parts s0 (State.inputMiss s kind c) := by
  unfold State.inputMiss
  with_reducible repeat' first | intro _ | assumption | exact Within.refl _ | exact ‹Avoids _ _›.mono (by decide) | apply State.forList_keeps | apply State.setSrc_keeps

theorem State.tickSources_keeps {s0 s : State} (h : Within parts s0 s)
    (hm : Avoids parts 520 := by exact ‹Avoids _ _›.mono (by decide)) :
    Within parts s0 (State.tickSources s) := by
  unfold State.tickSources
  with_reducible repeat' first | intro _ | assumption | exact Within.refl _ | exact ‹Avoids _ _›.mono (by decide) | apply State.forEach_keeps | apply State.refreshSource_keeps | apply State.startSource_keeps

theorem State.peEvent_keeps {s0 s : State} (h : Within parts s0 s) {f : Sel} {c : Nat} {e : BitVec 128} {kind : Nat} {handle : Nat}
    (hm : Avoids parts 67109000 := by exact ‹Avoids _ _›.mono (by decide)) :
    Within parts s0 (State.peEvent s f c e kind handle) := by
  unfold State.peEvent
  with_reducible repeat' first | assumption | exact Within.refl _ | exact ‹Avoids _ _›.mono (by decide) | apply State.guardViol_keeps | apply State.request_keeps | apply Within.ite | split

theorem State.noteLate_keeps {s0 s : State} (h : Within parts s0 s) {c : Nat} {e : BitVec 128} {fired : Bool} {handle : Nat}
    (hm : Avoids parts 67109000 := by exact ‹Avoids _ _›.mono (by decide)) :
    Within parts s0 (State.noteLate s c e fired handle) := by
  unfold State.noteLate
  with_reducible repeat' first | (extract_lets +onlyGivenNames x1; first | (refine Within.cut (m := parts) (s0 := s0) (v := x1) ?_ ?_; rotate_left; intro hx; clear_value x1; rotate_left; unfold x1; clear x1) | clear_value x1) | assumption | exact Within.refl _ | exact ‹Avoids _ _›.mono (by decide) | apply State.bumpSat_keeps | apply State.peEvent_keeps | apply State.raise_keeps | apply Within.ite

theorem State.storeEntry_keeps {s0 s : State} (h : Within parts s0 s) {i : Nat} {c : Nat} {e : BitVec 128}
    (hm : Avoids parts 520 := by exact ‹Avoids _ _›.mono (by decide)) :
    Within parts s0 (State.storeEntry s i c e) := by
  unfold State.storeEntry
  with_reducible repeat' first | assumption | exact Within.refl _ | exact ‹Avoids _ _›.mono (by decide) | apply State.bump_keeps | apply State.setSlot_keeps | apply State.slotCounts_keeps

theorem State.fireLate_keeps {s0 s : State} (h : Within parts s0 s) {i : Nat}
    (hm : Avoids parts 513 := by exact ‹Avoids _ _›.mono (by decide)) :
    Within parts s0 (State.fireLate s i) := by
  unfold State.fireLate
  with_reducible repeat' first | assumption | exact Within.refl _ | exact ‹Avoids _ _›.mono (by decide) | apply State.addDue_keeps | exact rfl | apply Within.upd_clk

theorem State.peInsert_keeps {s0 s : State} (h : Within parts s0 s) {c : Nat} {e : BitVec 128} {hint : Nat}
    (hm : Avoids parts 67109513 := by exact ‹Avoids _ _›.mono (by decide)) :
    Within parts s0 (State.peInsert s c e hint).state := by
  unfold State.peInsert
  split
  · exact h
  split
  · exact h
  extract_lets late short
  split
  · exact State.noteLate_keeps h
  generalize (if short = true then (none : Option Nat) else s.pickSlot hint) = o
  cases o with
  | none =>
    dsimp only
    refine State.peEvent_keeps ?_
    refine State.bumpSat_keeps ?_
    exact State.raise_keeps h
  | some i =>
    dsimp only
    split
    · refine State.fireLate_keeps ?_
      refine State.noteLate_keeps ?_
      exact State.storeEntry_keeps h
    · exact State.storeEntry_keeps h

theorem State.peRemove_keeps {s0 s : State} (h : Within parts s0 s) {c hd : Nat}
    (hm : Avoids parts 520 := by exact ‹Avoids _ _›.mono (by decide)) : Within parts s0 (State.peRemove s c hd).state := by
  unfold State.peRemove
  generalize s.findHandle hd = o
  cases o with
  | none => exact h
  | some i =>
    dsimp only
    split
    · exact h
    · exact State.freeSlot_keeps h

theorem State.peQueue_keeps {s0 s : State} (h : Within parts s0 s) {c : Client} {r : PReq}
    (hm : Avoids parts 512 := by exact ‹Avoids _ _›.mono (by decide)) :
    Within parts s0 (State.peQueue s c r) := by
  unfold State.peQueue
  with_reducible repeat' first | assumption | exact Within.refl _ | exact ‹Avoids _ _›.mono (by decide) | exact rfl | apply Within.upd_pe

theorem State.peTake_keeps {s0 s : State} (h : Within parts s0 s) {c : Client}
    (hm : Avoids parts 512 := by exact ‹Avoids _ _›.mono (by decide)) :
    Within parts s0 (State.peTake s c) := by
  unfold State.peTake
  with_reducible repeat' first | assumption | exact Within.refl _ | exact ‹Avoids _ _›.mono (by decide) | exact rfl | apply Within.upd_pe

theorem State.startViewPos_keeps {s0 s : State} (h : Within parts s0 s) {v : Nat}
    (hm : Avoids parts 520 := by exact ‹Avoids _ _›.mono (by decide)) :
    Within parts s0 (State.startViewPos s v) := by
  unfold State.startViewPos
  with_reducible repeat' first | (extract_lets +onlyGivenNames x1; first | (refine Within.cut (m := parts) (s0 := s0) (v := x1) ?_ ?_; rotate_left; intro hx; clear_value x1; rotate_left; unfold x1; clear x1) | clear_value x1) | assumption | exact Within.refl _ | exact ‹Avoids _ _›.mono (by decide) | apply State.raise_keeps | apply State.setViewPos_keeps | apply State.set_keeps

theorem State.stopViewPos_keeps {s0 s : State} (h : Within parts s0 s) {v : Nat}
    (hm : Avoids parts 520 := by exact ‹Avoids _ _›.mono (by decide)) :
    Within parts s0 (State.stopViewPos s v) := by
  unfold State.stopViewPos
  with_reducible repeat' first | intro _ | (extract_lets +onlyGivenNames x1; first | (refine Within.cut (m := parts) (s0 := s0) (v := x1) ?_ ?_; rotate_left; intro hx; clear_value x1; rotate_left; unfold x1; clear x1) | clear_value x1) | assumption | exact Within.refl _ | exact ‹Avoids _ _›.mono (by decide) | apply State.bumpSat_keeps | apply State.clear_keeps | apply State.forList_keeps | apply State.freeSlot_keeps | apply State.raise_keeps | apply State.setViewPos_keeps

theorem State.srcSelect_keeps {s0 s : State} (h : Within parts s0 s) {n : Nat} {old : State}
    (hm : Avoids parts 512 := by exact ‹Avoids _ _›.mono (by decide)) :
    Within parts s0 (State.srcSelect s n old) := by
  unfold State.srcSelect
  with_reducible repeat' first | (extract_lets +onlyGivenNames x1; first | (refine Within.cut (m := parts) (s0 := s0) (v := x1) ?_ ?_; rotate_left; intro hx; clear_value x1; rotate_left; unfold x1; clear x1) | clear_value x1) | assumption | exact Within.refl _ | exact ‹Avoids _ _›.mono (by decide) | apply State.setSrc_keeps | apply Within.ite

theorem execSrcCtrlWrite_keeps {s : State} {who : Who} {n : Fin 8} {v : Word}
    (hm : Avoids parts 1082131080 := by exact ‹Avoids _ _›.mono (by decide)) : EKeeps parts s (execSrcCtrlWrite who n v s) := by
  have h : Within parts s s := .refl s
  unfold execSrcCtrlWrite
  with_reducible repeat' first | intro _ | (extract_lets +onlyGivenNames x1; first | (refine Within.cut (m := parts) (s0 := s) (v := x1) ?_ ?_; rotate_left; intro hx; clear_value x1; rotate_left; unfold x1; clear x1) | clear_value x1) | assumption | exact Within.refl _ | exact ‹Avoids _ _›.mono (by decide) | apply State.raise_keeps | apply State.setSrc_keeps | apply State.set_keeps | apply State.srcSelect_keeps | apply State.srcShow_keeps | apply State.viaBus_keeps | apply State.writeReg_keeps | apply Within.ite | apply EKeeps.next | apply EKeeps.ite

theorem execSourceStale_keeps {s : State} {n : Fin 8}
    (hm : Avoids parts 67109004 := by exact ‹Avoids _ _›.mono (by decide)) : EKeeps parts s (execSourceStale n s) := by
  have h : Within parts s s := .refl s
  unfold execSourceStale
  with_reducible repeat' first | (extract_lets +onlyGivenNames x1; first | (refine Within.cut (m := parts) (s0 := s) (v := x1) ?_ ?_; rotate_left; intro hx; clear_value x1; rotate_left; unfold x1; clear x1) | clear_value x1) | assumption | exact Within.refl _ | exact ‹Avoids _ _›.mono (by decide) | apply State.raise_keeps | apply State.srcShow_keeps | apply State.streamEvent_keeps | apply Within.ite | apply EKeeps.next | apply EKeeps.ite

theorem execViewCfgWrite_keeps {s : State} {who : Who} {n : Fin 8} {r : ViewReg} {v : Word}
    (hm : Avoids parts 1082130568 := by exact ‹Avoids _ _›.mono (by decide)) : EKeeps parts s (execViewCfgWrite who n r v s) := by
  have h : Within parts s s := .refl s
  unfold execViewCfgWrite
  with_reducible repeat' first | intro _ | assumption | exact Within.refl _ | exact ‹Avoids _ _›.mono (by decide) | apply State.raise_keeps | apply State.set_keeps | apply State.viaBus_keeps | apply Within.ite | split | apply EKeeps.next | apply EKeeps.ite

theorem State.portCmd_keeps {s0 s : State} (h : Within parts s0 s) {p : Fin 8} {r : PReq}
    (hm : Avoids parts 520 := by exact ‹Avoids _ _›.mono (by decide)) :
    Within parts s0 (State.portCmd s p r) := by
  unfold State.portCmd
  with_reducible repeat' first | assumption | exact Within.refl _ | exact ‹Avoids _ _›.mono (by decide) | apply State.clear_keeps | apply State.peQueue_keeps | apply State.raise_keeps | apply Within.ite

theorem execPortInsert_keeps {s : State} {who : Who} {p : Fin 8}
    (hm : Avoids parts 1082131080 := by exact ‹Avoids _ _›.mono (by decide)) : EKeeps parts s (execPortInsert who p s) := by
  have h : Within parts s s := .refl s
  unfold execPortInsert
  with_reducible repeat' first | intro _ | assumption | exact Within.refl _ | exact ‹Avoids _ _›.mono (by decide) | apply State.portCmd_keeps | apply State.viaBus_keeps | apply Within.ite | apply EKeeps.next | apply EKeeps.ite

theorem execPortRemove_keeps {s : State} {who : Who} {p : Fin 8}
    (hm : Avoids parts 1082131080 := by exact ‹Avoids _ _›.mono (by decide)) : EKeeps parts s (execPortRemove who p s) := by
  have h : Within parts s s := .refl s
  unfold execPortRemove
  with_reducible repeat' first | intro _ | assumption | exact Within.refl _ | exact ‹Avoids _ _›.mono (by decide) | apply State.portCmd_keeps | apply State.viaBus_keeps | apply Within.ite | apply EKeeps.next | apply EKeeps.ite

end Sys2Proof.Machine
end

