-- ==== Sys2Proof/Laws/KeepsEcc.lean ====
section
/-!
SUPPORT. The operations of Machine/Ecc.lean keep what every step keeps.
-/
set_option Elab.async false
namespace Sys2Proof.Machine

set_option linter.tactic.unusedName false

variable {parts : Nat}

theorem State.setHist_keeps {s0 s : State} (h : Within parts s0 s) {v : Nat} {h : Hist}
    (hm : Avoids parts 65536 := by exact ‹Avoids _ _›.mono (by decide)) :
    Within parts s0 (State.setHist s v h) := by
  unfold State.setHist
  with_reducible repeat' first | assumption | exact Within.refl _ | exact ‹Avoids _ _›.mono (by decide) | exact rfl | apply Within.upd_creel

theorem State.setRaw_keeps {s0 s : State} (h : Within parts s0 s) {d : Nat} {x : RawRing}
    (hm : Avoids parts 65536 := by exact ‹Avoids _ _›.mono (by decide)) :
    Within parts s0 (State.setRaw s d x) := by
  unfold State.setRaw
  with_reducible repeat' first | assumption | exact Within.refl _ | exact ‹Avoids _ _›.mono (by decide) | exact rfl | apply Within.upd_creel

theorem State.setMark_keeps {s0 s : State} (h : Within parts s0 s) {m : Nat} {x : Mark}
    (hm : Avoids parts 65536 := by exact ‹Avoids _ _›.mono (by decide)) :
    Within parts s0 (State.setMark s m x) := by
  unfold State.setMark
  with_reducible repeat' first | assumption | exact Within.refl _ | exact ‹Avoids _ _›.mono (by decide) | exact rfl | apply Within.upd_creel

theorem State.publishCreel_keeps {s0 s : State} (h : Within parts s0 s) {arg : Nat} {kind : Nat}
    (hm : Avoids parts 67109004 := by exact ‹Avoids _ _›.mono (by decide)) :
    Within parts s0 (State.publishCreel s arg kind) := by
  unfold State.publishCreel
  with_reducible repeat' first | assumption | exact Within.refl _ | exact ‹Avoids _ _›.mono (by decide) | apply State.publish_keeps

theorem State.alloc_keeps2 {s0 s : State} (h : Within parts s0 s) {f : Fld} {n : Nat} {t : State} {l : List (Nat × Nat)}
    (e : s.alloc f n = some (t, l))
    (hm : Avoids parts 8 := by exact ‹Avoids _ _›.mono (by decide)) : Within parts s0 t := by
  unfold State.alloc at e
  split at e
  · injection e with e
    injection e with e
    rw [← e]
    exact State.set_keeps h
  · cases e

theorem State.giveBack_keeps {s0 s : State} (h : Within parts s0 s) {f : Fld} {l : List (Nat × Nat)}
    (hm : Avoids parts 8 := by exact ‹Avoids _ _›.mono (by decide)) :
    Within parts s0 (State.giveBack s f l) := by
  unfold State.giveBack
  with_reducible repeat' first | assumption | exact Within.refl _ | exact ‹Avoids _ _›.mono (by decide) | apply State.set_keeps

theorem State.setPoison_keeps {s0 s : State} (h : Within parts s0 s) {u : Nat} {b : Bool}
    (hm : Avoids parts 65536 := by exact ‹Avoids _ _›.mono (by decide)) :
    Within parts s0 (State.setPoison s u b) := by
  unfold State.setPoison
  with_reducible repeat' first | assumption | exact Within.refl _ | exact ‹Avoids _ _›.mono (by decide) | exact rfl | apply Within.upd_creel

theorem State.ueAt_keeps {s0 s : State} (h : Within parts s0 s) {u : Nat} {scrub : Bool}
    (hm : Avoids parts 67174540 := by exact ‹Avoids _ _›.mono (by decide)) :
    Within parts s0 (State.ueAt s u scrub) := by
  unfold State.ueAt
  with_reducible repeat' first | (extract_lets +onlyGivenNames x1; first | (refine Within.cut (m := parts) (s0 := s0) (v := x1) ?_ ?_; rotate_left; intro hx; clear_value x1; rotate_left; unfold x1; clear x1) | clear_value x1) | assumption | exact Within.refl _ | exact ‹Avoids _ _›.mono (by decide) | apply State.bumpSat_keeps | apply State.bump_keeps | apply State.log_keeps | apply State.publishCreel_keeps | apply State.raise_keeps | apply State.setFlag_keeps | apply State.setPoison_keeps | apply State.set_keeps | apply Within.ite | split

theorem State.ceAt_keeps {s0 s : State} (h : Within parts s0 s) {pc : Nat}
    (hm : Avoids parts 67174540 := by exact ‹Avoids _ _›.mono (by decide)) :
    Within parts s0 (State.ceAt s pc) := by
  unfold State.ceAt
  with_reducible repeat' first | (extract_lets +onlyGivenNames x1; first | (refine Within.cut (m := parts) (s0 := s0) (v := x1) ?_ ?_; rotate_left; intro hx; clear_value x1; rotate_left; unfold x1; clear x1) | clear_value x1) | assumption | exact Within.refl _ | exact ‹Avoids _ _›.mono (by decide) | apply State.bumpSat_keeps | apply State.publishCreel_keeps | apply State.raise_keeps | apply State.set_keeps | exact rfl | apply Within.ite | apply Within.upd_creel

theorem State.memErr_keeps {s0 s : State} (h : Within parts s0 s) {e : MemErr} {scrub : Bool}
    (hm : Avoids parts 67174540 := by exact ‹Avoids _ _›.mono (by decide)) :
    Within parts s0 (State.memErr s e scrub) := by
  unfold State.memErr
  with_reducible repeat' first | assumption | exact Within.refl _ | exact ‹Avoids _ _›.mono (by decide) | apply State.ceAt_keeps | apply State.ueAt_keeps | apply Within.ite

theorem State.memErrs_keeps {s0 s : State} (h : Within parts s0 s) {l : List MemErr}
    (hm : Avoids parts 67174540 := by exact ‹Avoids _ _›.mono (by decide)) :
    Within parts s0 (State.memErrs s l) := by
  unfold State.memErrs
  with_reducible repeat' first | intro _ | assumption | exact Within.refl _ | exact ‹Avoids _ _›.mono (by decide) | apply State.forList_keeps | apply State.memErr_keeps

theorem State.flawsDrop_keeps {s0 s : State} (h : Within parts s0 s) {u : Nat}
    (hm : Avoids parts 65536 := by exact ‹Avoids _ _›.mono (by decide)) :
    Within parts s0 (State.flawsDrop s u) := by
  unfold State.flawsDrop
  with_reducible repeat' first | intro _ | assumption | exact Within.refl _ | exact ‹Avoids _ _›.mono (by decide) | exact rfl | apply Within.upd_creel

theorem State.memMeet_keeps {s0 s : State} (h : Within parts s0 s) {hit : Nat → Bool}
    (hm : Avoids parts 67174540 := by exact ‹Avoids _ _›.mono (by decide)) :
    Within parts s0 (State.memMeet s hit) := by
  unfold State.memMeet
  with_reducible repeat' first | intro _ | (extract_lets +onlyGivenNames x1; first | (refine Within.cut (m := parts) (s0 := s0) (v := x1) ?_ ?_; rotate_left; intro hx; clear_value x1; rotate_left; unfold x1; clear x1) | clear_value x1) | assumption | exact Within.refl _ | exact ‹Avoids _ _›.mono (by decide) | apply State.memErrs_keeps | exact rfl | apply Within.upd_creel

theorem State.readMeet_keeps {s0 s : State} (h : Within parts s0 s) {a : Nat} {n : Nat}
    (hm : Avoids parts 67174540 := by exact ‹Avoids _ _›.mono (by decide)) :
    Within parts s0 (State.readMeet s a n) := by
  unfold State.readMeet
  with_reducible repeat' first | assumption | exact Within.refl _ | exact ‹Avoids _ _›.mono (by decide) | apply State.memMeet_keeps

theorem State.unitWrite_keeps {s0 s : State} (h : Within parts s0 s) {a : Nat} {bs : List Byte} {tag : Bool}
    (hm : Avoids parts 67174556 := by exact ‹Avoids _ _›.mono (by decide)) :
    Within parts s0 (State.unitWrite s a bs tag) := by
  unfold State.unitWrite
  with_reducible repeat' first | intro _ | (extract_lets +onlyGivenNames x1; first | (refine Within.cut (m := parts) (s0 := s0) (v := x1) ?_ ?_; rotate_left; intro hx; clear_value x1; rotate_left; unfold x1; clear x1) | clear_value x1) | assumption | exact Within.refl _ | exact ‹Avoids _ _›.mono (by decide) | apply State.flawsDrop_keeps | apply State.memMeet_keeps | apply State.raise_keeps | apply State.setBytes_keeps | apply State.setPoison_keeps | apply Within.ite

theorem State.memWriteGo_keeps {s0 s : State} (h : Within parts s0 s) {tag : Bool} {fuel a : Nat} {bs : List Byte}
    (hm : Avoids parts 67174556 := by exact ‹Avoids _ _›.mono (by decide)) :
    Within parts s0 (State.memWriteGo tag fuel s a bs) := by
  induction fuel generalizing s a bs with
  | zero => exact h
  | succ n ih =>
    unfold State.memWriteGo
    apply Within.ite h
    exact ih (State.unitWrite_keeps h)

theorem State.memWrite_keeps {s0 s : State} (h : Within parts s0 s) {a : Nat} {bs : List Byte} {tag : Bool}
    (hm : Avoids parts 67174556 := by exact ‹Avoids _ _›.mono (by decide)) :
    Within parts s0 (State.memWrite s a bs tag) := by
  unfold State.memWrite
  with_reducible repeat' first | assumption | exact Within.refl _ | exact ‹Avoids _ _›.mono (by decide) | apply State.memWriteGo_keeps

end Sys2Proof.Machine
end

