-- ==== Sys2Proof/Laws/KeepsContexts.lean ====
section
/-!
SUPPORT. The operations of Machine/Contexts.lean keep what every step keeps.
-/
set_option Elab.async false
namespace Sys2Proof.Machine

set_option linter.tactic.unusedName false

variable {parts : Nat}

theorem State.setCtx_keeps {s0 s : State} (h : Within parts s0 s) {k : Nat} {c : Ctx}
    (hm : Avoids parts 524288 := by exact ‹Avoids _ _›.mono (by decide)) :
    Within parts s0 (State.setCtx s k c) := by
  unfold State.setCtx
  with_reducible repeat' first | assumption | exact Within.refl _ | exact ‹Avoids _ _›.mono (by decide) | exact rfl | apply Within.upd_ctxs

theorem State.ctxBack_keeps {s0 s : State} (h : Within parts s0 s) {k : Nat}
    (hm : Avoids parts 67174556 := by exact ‹Avoids _ _›.mono (by decide)) :
    Within parts s0 (State.ctxBack s k) := by
  unfold State.ctxBack
  with_reducible repeat' first | assumption | exact Within.refl _ | exact ‹Avoids _ _›.mono (by decide) | apply State.memWrite_keeps

theorem State.ctxCached_keeps {s0 s : State} (h : Within parts s0 s) {k : Nat} {held : Bool} {bad : Bool}
    (hm : Avoids parts 65536 := by exact ‹Avoids _ _›.mono (by decide)) :
    Within parts s0 (State.ctxCached s k held bad) := by
  unfold State.ctxCached
  with_reducible repeat' first | (extract_lets +onlyGivenNames x1; first | (refine Within.cut (m := parts) (s0 := s0) (v := x1) ?_ ?_; rotate_left; intro hx; clear_value x1; rotate_left; unfold x1; clear x1) | clear_value x1) | assumption | exact Within.refl _ | exact ‹Avoids _ _›.mono (by decide) | exact rfl | apply Within.upd_creel

theorem State.ctxTouch_keeps {s0 s : State} (h : Within parts s0 s) {k : Nat}
    (hm : Avoids parts 67698844 := by exact ‹Avoids _ _›.mono (by decide)) :
    Within parts s0 (State.ctxTouch s k) := by
  unfold State.ctxTouch
  with_reducible repeat' first | (extract_lets +onlyGivenNames x1; first | (refine Within.cut (m := parts) (s0 := s0) (v := x1) ?_ ?_; rotate_left; intro hx; clear_value x1; rotate_left; unfold x1; clear x1) | clear_value x1) | assumption | exact Within.refl _ | exact ‹Avoids _ _›.mono (by decide) | apply State.bump_keeps | apply State.ctxBack_keeps | apply State.ctxCached_keeps | apply State.readMeet_keeps | apply State.setCtx_keeps | apply State.useFree_keeps | apply Within.ite

theorem State.ctxFlush_keeps {s0 s : State} (h : Within parts s0 s)
    (hm : Avoids parts 67174556 := by exact ‹Avoids _ _›.mono (by decide)) :
    Within parts s0 (State.ctxFlush s) := by
  unfold State.ctxFlush
  with_reducible repeat' first | intro _ | assumption | exact Within.refl _ | exact ‹Avoids _ _›.mono (by decide) | apply State.ctxBack_keeps | apply State.forList_keeps

theorem State.ctxRetire_keeps {s0 s : State} (h : Within parts s0 s) {k : Nat}
    (hm : Avoids parts 524296 := by exact ‹Avoids _ _›.mono (by decide)) :
    Within parts s0 (State.ctxRetire s k) := by
  unfold State.ctxRetire
  with_reducible repeat' first | (extract_lets +onlyGivenNames x1; first | (refine Within.cut (m := parts) (s0 := s0) (v := x1) ?_ ?_; rotate_left; intro hx; clear_value x1; rotate_left; unfold x1; clear x1) | clear_value x1) | assumption | exact Within.refl _ | exact ‹Avoids _ _›.mono (by decide) | apply State.bump_keeps | apply State.setCtx_keeps | apply Within.ite | exact rfl | apply Within.upd_ctxQueue

theorem State.ctxActs_keeps {s0 s : State} (h : Within parts s0 s) {k : Nat} {result : Nat} {pos : Nat}
    (hm : Avoids parts 524296 := by exact ‹Avoids _ _›.mono (by decide)) :
    Within parts s0 (State.ctxActs s k result pos) := by
  unfold State.ctxActs
  with_reducible repeat' first | (extract_lets +onlyGivenNames x1; first | (refine Within.cut (m := parts) (s0 := s0) (v := x1) ?_ ?_; rotate_left; intro hx; clear_value x1; rotate_left; unfold x1; clear x1) | clear_value x1) | assumption | exact Within.refl _ | exact ‹Avoids _ _›.mono (by decide) | apply State.ctxRetire_keeps | apply State.setCtx_keeps | apply Within.ite

theorem State.ctxActed_keeps {s0 s : State} (h : Within parts s0 s) {k : Nat} {result : Nat} {pos : Nat}
    (hm : Avoids parts 67698844 := by exact ‹Avoids _ _›.mono (by decide)) :
    Within parts s0 (State.ctxActed s k result pos) := by
  unfold State.ctxActed
  with_reducible repeat' first | assumption | exact Within.refl _ | exact ‹Avoids _ _›.mono (by decide) | apply State.ctxActs_keeps | apply State.ctxTouch_keeps

theorem State.ctxDelivered_keeps {s0 s : State} (h : Within parts s0 s) {k : Nat}
    (hm : Avoids parts 67698844 := by exact ‹Avoids _ _›.mono (by decide)) :
    Within parts s0 (State.ctxDelivered s k) := by
  unfold State.ctxDelivered
  with_reducible repeat' first | (extract_lets +onlyGivenNames x1; first | (refine Within.cut (m := parts) (s0 := s0) (v := x1) ?_ ?_; rotate_left; intro hx; clear_value x1; rotate_left; unfold x1; clear x1) | clear_value x1) | assumption | exact Within.refl _ | exact ‹Avoids _ _›.mono (by decide) | apply State.ctxRetire_keeps | apply State.ctxTouch_keeps | apply State.setCtx_keeps | apply Within.ite

theorem State.ctxShift_keeps {s0 s : State} (h : Within parts s0 s)
    (hm : Avoids parts 524288 := by exact ‹Avoids _ _›.mono (by decide)) :
    Within parts s0 (State.ctxShift s) := by
  unfold State.ctxShift
  with_reducible repeat' first | assumption | exact Within.refl _ | exact ‹Avoids _ _›.mono (by decide) | exact rfl | apply Within.ite | apply Within.upd_ctxFresh_ctxQueue | apply Within.upd_ctxFresh | apply Within.upd_ctxQueue

theorem State.ctxTake_keeps {s0 s : State} (h : Within parts s0 s) {k : Nat} {c : Ctx}
    (hm : Avoids parts 67698844 := by exact ‹Avoids _ _›.mono (by decide)) :
    Within parts s0 (State.ctxTake s k c) := by
  unfold State.ctxTake
  with_reducible repeat' first | (extract_lets +onlyGivenNames x1; first | (refine Within.cut (m := parts) (s0 := s0) (v := x1) ?_ ?_; rotate_left; intro hx; clear_value x1; rotate_left; unfold x1; clear x1) | clear_value x1) | assumption | exact Within.refl _ | exact ‹Avoids _ _›.mono (by decide) | apply State.ctxCached_keeps | apply State.ctxShift_keeps | apply State.ctxTouch_keeps | apply State.setCtx_keeps | apply State.set_keeps | apply Within.ite

theorem State.ctxNone_keeps {s0 s : State} (h : Within parts s0 s) {c : Ctx}
    (hm : Avoids parts 524288 := by exact ‹Avoids _ _›.mono (by decide)) :
    Within parts s0 (State.ctxNone s c) := by
  unfold State.ctxNone
  with_reducible repeat' first | assumption | exact Within.refl _ | exact ‹Avoids _ _›.mono (by decide) | apply State.setCtx_keeps | exact rfl | apply Within.upd_noCtxKey

theorem State.gateEvent_keeps {s0 s : State} (h : Within parts s0 s) {e : Event}
    (hm : Avoids parts 67698844 := by exact ‹Avoids _ _›.mono (by decide)) :
    Within parts s0 (State.gateEvent s e) := by
  unfold State.gateEvent
  with_reducible repeat' first | (extract_lets +onlyGivenNames x1; first | (refine Within.cut (m := parts) (s0 := s0) (v := x1) ?_ ?_; rotate_left; intro hx; clear_value x1; rotate_left; unfold x1; clear x1) | clear_value x1) | assumption | exact Within.refl _ | exact ‹Avoids _ _›.mono (by decide) | apply State.bumpSat_keeps | apply State.ctxActs_keeps | apply State.ctxTouch_keeps | apply Within.ite

theorem State.gateRemoved_keeps {s0 s : State} (h : Within parts s0 s) {entry : BitVec 128} {handle : Nat} {result : Nat}
    (hm : Avoids parts 67698844 := by exact ‹Avoids _ _›.mono (by decide)) :
    Within parts s0 (State.gateRemoved s entry handle result) := by
  unfold State.gateRemoved
  with_reducible repeat' first | (extract_lets +onlyGivenNames x1; first | (refine Within.cut (m := parts) (s0 := s0) (v := x1) ?_ ?_; rotate_left; intro hx; clear_value x1; rotate_left; unfold x1; clear x1) | clear_value x1) | assumption | exact Within.refl _ | exact ‹Avoids _ _›.mono (by decide) | apply State.ctxActs_keeps | apply State.ctxTouch_keeps | apply Within.ite

end Sys2Proof.Machine
end

