-- ==== Sys2Proof/Laws/KeepsRecords.lean ====
section
/-!
SUPPORT. The operations of Machine/Records.lean keep what every step keeps.
-/
set_option Elab.async false
namespace Sys2Proof.Machine

set_option linter.tactic.unusedName false

variable {parts : Nat}

theorem State.publishWithy_keeps {s0 s : State} (h : Within parts s0 s) {n : Nat} {kind : Nat}
    (hm : Avoids parts 67109004 := by exact ‹Avoids _ _›.mono (by decide)) :
    Within parts s0 (State.publishWithy s n kind) := by
  unfold State.publishWithy
  with_reducible repeat' first | assumption | exact Within.refl _ | exact ‹Avoids _ _›.mono (by decide) | apply State.publish_keeps

theorem State.setRingQueue_keeps {s0 s : State} (h : Within parts s0 s) {r : Nat} {q : List WRec}
    (hm : Avoids parts 4194312 := by exact ‹Avoids _ _›.mono (by decide)) :
    Within parts s0 (State.setRingQueue s r q) := by
  unfold State.setRingQueue
  with_reducible repeat' first | (extract_lets +onlyGivenNames x1; first | (refine Within.cut (m := parts) (s0 := s0) (v := x1) ?_ ?_; rotate_left; intro hx; clear_value x1; rotate_left; unfold x1; clear x1) | clear_value x1) | assumption | exact Within.refl _ | exact ‹Avoids _ _›.mono (by decide) | apply State.set_keeps | exact rfl | apply Within.upd_ringQ

theorem State.repeatDelivered_keeps {s0 s : State} (h : Within parts s0 s) {k : Nat}
    (hm : Avoids parts 69795996 := by exact ‹Avoids _ _›.mono (by decide)) :
    Within parts s0 (State.repeatDelivered s k) := by
  unfold State.repeatDelivered
  with_reducible repeat' first | (extract_lets +onlyGivenNames x1; first | (refine Within.cut (m := parts) (s0 := s0) (v := x1) ?_ ?_; rotate_left; intro hx; clear_value x1; rotate_left; unfold x1; clear x1) | clear_value x1) | assumption | exact Within.refl _ | exact ‹Avoids _ _›.mono (by decide) | apply State.ctxDelivered_keeps | exact rfl | apply Within.ite | split | apply Within.upd_candFree_candOf | apply Within.upd_candFree | apply Within.upd_candOf

theorem State.repeatOut_keeps {s0 s : State} (h : Within parts s0 s) {k : Nat}
    (hm : Avoids parts 73990300 := by exact ‹Avoids _ _›.mono (by decide)) :
    Within parts s0 (State.repeatOut s k) := by
  unfold State.repeatOut
  with_reducible repeat' first | (extract_lets +onlyGivenNames x1; first | (refine Within.cut (m := parts) (s0 := s0) (v := x1) ?_ ?_; rotate_left; intro hx; clear_value x1; rotate_left; unfold x1; clear x1) | clear_value x1) | assumption | exact Within.refl _ | exact ‹Avoids _ _›.mono (by decide) | apply State.repeatDelivered_keeps | apply Within.ite | exact rfl | apply Within.upd_repeatsOut

theorem State.setFetch_keeps {s0 s : State} (h : Within parts s0 s) {f : Nat} {x : FetchSt}
    (hm : Avoids parts 4194304 := by exact ‹Avoids _ _›.mono (by decide)) :
    Within parts s0 (State.setFetch s f x) := by
  unfold State.setFetch
  with_reducible repeat' first | assumption | exact Within.refl _ | exact ‹Avoids _ _›.mono (by decide) | exact rfl | apply Within.upd_withy

theorem State.fetchEnd_keeps {s0 s : State} (h : Within parts s0 s) {f : Nat} {status : Nat}
    (hm : Avoids parts 71303308 := by exact ‹Avoids _ _›.mono (by decide)) :
    Within parts s0 (State.fetchEnd s f status) := by
  unfold State.fetchEnd
  with_reducible repeat' first | assumption | exact Within.refl _ | exact ‹Avoids _ _›.mono (by decide) | apply State.publishWithy_keeps | apply State.raise_keeps | apply State.set_keeps | apply State.setFetch_keeps

theorem State.fetchOut_keeps {s0 s : State} (h : Within parts s0 s) {f : Nat}
    (hm : Avoids parts 4194304 := by exact ‹Avoids _ _›.mono (by decide)) :
    Within parts s0 (State.fetchOut s f) := by
  unfold State.fetchOut
  with_reducible repeat' first | assumption | exact Within.refl _ | exact ‹Avoids _ _›.mono (by decide) | apply State.setFetch_keeps

theorem State.reportOut_keeps {s0 s : State} (h : Within parts s0 s) {r : WRec}
    (hm : Avoids parts 73990300 := by exact ‹Avoids _ _›.mono (by decide)) :
    Within parts s0 (State.reportOut s r) := by
  unfold State.reportOut
  with_reducible repeat' first | (extract_lets +onlyGivenNames x1; first | (refine Within.cut (m := parts) (s0 := s0) (v := x1) ?_ ?_; rotate_left; intro hx; clear_value x1; rotate_left; unfold x1; clear x1) | clear_value x1) | assumption | exact Within.refl _ | exact ‹Avoids _ _›.mono (by decide) | apply State.fetchOut_keeps | apply State.repeatOut_keeps | apply Within.ite | split

theorem State.ringDrop_keeps {s0 s : State} (h : Within parts s0 s) {r : Nat} {x : WRec}
    (hm : Avoids parts 73990300 := by exact ‹Avoids _ _›.mono (by decide)) :
    Within parts s0 (State.ringDrop s r x) := by
  unfold State.ringDrop
  with_reducible repeat' first | (extract_lets +onlyGivenNames x1; first | (refine Within.cut (m := parts) (s0 := s0) (v := x1) ?_ ?_; rotate_left; intro hx; clear_value x1; rotate_left; unfold x1; clear x1) | clear_value x1) | assumption | exact Within.refl _ | exact ‹Avoids _ _›.mono (by decide) | apply State.bumpSat_keeps | apply State.publishWithy_keeps | apply State.raise_keeps | apply State.reportOut_keeps | exact rfl | apply Within.ite | split | apply Within.upd_ringLost_withy | apply Within.upd_ringLost | apply Within.upd_withy

theorem State.queueRec_keeps {s0 s : State} (h : Within parts s0 s) {r : Nat} {x : WRec}
    (hm : Avoids parts 73990300 := by exact ‹Avoids _ _›.mono (by decide)) :
    Within parts s0 (State.queueRec s r x) := by
  unfold State.queueRec
  with_reducible repeat' first | (extract_lets +onlyGivenNames x1; first | (refine Within.cut (m := parts) (s0 := s0) (v := x1) ?_ ?_; rotate_left; intro hx; clear_value x1; rotate_left; unfold x1; clear x1) | clear_value x1) | assumption | exact Within.refl _ | exact ‹Avoids _ _›.mono (by decide) | apply State.raise_keeps | apply State.reportOut_keeps | apply State.ringDrop_keeps | apply State.setRingQueue_keeps | apply Within.ite

theorem State.lossLink_keeps {s0 s : State} (h : Within parts s0 s) {f : Nat} {d : Nat} {cause : Nat} {first : Nat} {last : Nat}
    (hm : Avoids parts 73990300 := by exact ‹Avoids _ _›.mono (by decide)) :
    Within parts s0 (State.lossLink s f d cause first last) := by
  unfold State.lossLink
  with_reducible repeat' first | intro _ | (extract_lets +onlyGivenNames x1; first | (refine Within.cut (m := parts) (s0 := s0) (v := x1) ?_ ?_; rotate_left; intro hx; clear_value x1; rotate_left; unfold x1; clear x1) | clear_value x1) | assumption | exact Within.refl _ | exact ‹Avoids _ _›.mono (by decide) | apply State.bumpSat_keeps | apply State.forList_keeps | apply State.publish_keeps | apply State.queueRec_keeps | exact rfl | apply Within.upd_creel

theorem State.lossCreel_keeps {s0 s : State} (h : Within parts s0 s) {v : Nat} {cause : Nat} {rows : Nat} {pos : Nat} {endPos : Nat}
    (hm : Avoids parts 73990300 := by exact ‹Avoids _ _›.mono (by decide)) :
    Within parts s0 (State.lossCreel s v cause rows pos endPos) := by
  unfold State.lossCreel
  with_reducible repeat' first | intro _ | (extract_lets +onlyGivenNames x1; first | (refine Within.cut (m := parts) (s0 := s0) (v := x1) ?_ ?_; rotate_left; intro hx; clear_value x1; rotate_left; unfold x1; clear x1) | clear_value x1) | assumption | exact Within.refl _ | exact ‹Avoids _ _›.mono (by decide) | apply State.forList_keeps | apply State.queueRec_keeps

end Sys2Proof.Machine
end

