-- ==== Sys2Proof/Laws/KeepsMemory.lean ====
section
/-!
SUPPORT. The operations of Machine/Memory.lean keep what every step keeps.
-/
set_option Elab.async false
namespace Sys2Proof.Machine

set_option linter.tactic.unusedName false

variable {parts : Nat}

theorem State.showWork_keeps {s0 s : State} (h : Within parts s0 s) {v : Nat}
    (hm : Avoids parts 8 := by exact ‹Avoids _ _›.mono (by decide)) :
    Within parts s0 (State.showWork s v) := by
  unfold State.showWork
  with_reducible repeat' first | assumption | exact Within.refl _ | exact ‹Avoids _ _›.mono (by decide) | apply State.set_keeps

theorem State.runWrite_keeps {s0 s : State} (h : Within parts s0 s) {l : List (Nat × Nat)} {x : Nat} {bs : List Byte}
    (hm : Avoids parts 67174556 := by exact ‹Avoids _ _›.mono (by decide)) :
    Within parts s0 (State.runWrite s l x bs) := by
  induction l generalizing s x bs with
  | nil => exact h
  | cons e l ih =>
    unfold State.runWrite
    dsimp only
    apply Within.ite (ih h)
    apply Within.ite (State.memWrite_keeps h)
    exact ih (State.memWrite_keeps h)

theorem State.runMeet_keeps {s0 s : State} (h : Within parts s0 s) {l : List (Nat × Nat)} {x : Nat} {n : Nat}
    (hm : Avoids parts 67174540 := by exact ‹Avoids _ _›.mono (by decide)) :
    Within parts s0 (State.runMeet s l x n) := by
  unfold State.runMeet
  with_reducible repeat' first | assumption | exact Within.refl _ | exact ‹Avoids _ _›.mono (by decide) | apply State.memMeet_keeps

theorem State.headMeet_keeps {s0 s : State} (h : Within parts s0 s) {v : Nat} {stage : Bool} {q : Nat} {n : Nat}
    (hm : Avoids parts 67174540 := by exact ‹Avoids _ _›.mono (by decide)) :
    Within parts s0 (State.headMeet s v stage q n) := by
  unfold State.headMeet
  with_reducible repeat' first | assumption | exact Within.refl _ | exact ‹Avoids _ _›.mono (by decide) | apply State.runMeet_keeps

theorem State.holdLoss_keeps {s0 s : State} (h : Within parts s0 s) {v : Nat}
    (hm : Avoids parts 73990300 := by exact ‹Avoids _ _›.mono (by decide)) :
    Within parts s0 (State.holdLoss s v) := by
  unfold State.holdLoss
  with_reducible repeat' first | (extract_lets +onlyGivenNames x1; first | (refine Within.cut (m := parts) (s0 := s0) (v := x1) ?_ ?_; rotate_left; intro hx; clear_value x1; rotate_left; unfold x1; clear x1) | clear_value x1) | assumption | exact Within.refl _ | exact ‹Avoids _ _›.mono (by decide) | apply State.lossCreel_keeps | apply State.setHist_keeps | apply Within.ite

theorem State.holdCheck_keeps {s0 s : State} (h : Within parts s0 s) {v : Nat}
    (hm : Avoids parts 73990300 := by exact ‹Avoids _ _›.mono (by decide)) :
    Within parts s0 (State.holdCheck s v) := by
  unfold State.holdCheck
  with_reducible repeat' first | intro _ | (extract_lets +onlyGivenNames x1; first | (refine Within.cut (m := parts) (s0 := s0) (v := x1) ?_ ?_; rotate_left; intro hx; clear_value x1; rotate_left; unfold x1; clear x1) | clear_value x1) | assumption | exact Within.refl _ | exact ‹Avoids _ _›.mono (by decide) | apply State.clear_keeps | apply State.forList_keeps | apply State.holdLoss_keeps | apply State.publishCreel_keeps | apply State.setFlag_keeps | apply State.setHist_keeps | apply Within.ite

theorem State.markSet_keeps {s0 s : State} (h : Within parts s0 s) {m : Nat} {q : Nat}
    (hm : Avoids parts 73990300 := by exact ‹Avoids _ _›.mono (by decide)) :
    Within parts s0 (State.markSet s m q) := by
  unfold State.markSet
  with_reducible repeat' first | (extract_lets +onlyGivenNames x1; first | (refine Within.cut (m := parts) (s0 := s0) (v := x1) ?_ ?_; rotate_left; intro hx; clear_value x1; rotate_left; unfold x1; clear x1) | clear_value x1) | assumption | exact Within.refl _ | exact ‹Avoids _ _›.mono (by decide) | apply State.clear_keeps | apply State.headMeet_keeps | apply State.holdCheck_keeps | apply State.publishCreel_keeps | apply State.set2_keeps | apply State.setMark_keeps | apply State.set_keeps

theorem State.markTo_keeps {s0 s : State} (h : Within parts s0 s) {m : Nat} {st : Nat}
    (hm : Avoids parts 73990300 := by exact ‹Avoids _ _›.mono (by decide)) :
    Within parts s0 (State.markTo s m st) := by
  unfold State.markTo
  with_reducible repeat' first | (extract_lets +onlyGivenNames x1; first | (refine Within.cut (m := parts) (s0 := s0) (v := x1) ?_ ?_; rotate_left; intro hx; clear_value x1; rotate_left; unfold x1; clear x1) | clear_value x1) | assumption | exact Within.refl _ | exact ‹Avoids _ _›.mono (by decide) | apply State.clear_keeps | apply State.holdCheck_keeps | apply State.set_keeps

theorem State.markEvent_keeps {s0 s : State} (h : Within parts s0 s) {m : Nat}
    (hm : Avoids parts 73990300 := by exact ‹Avoids _ _›.mono (by decide)) :
    Within parts s0 (State.markEvent s m) := by
  unfold State.markEvent
  with_reducible repeat' first | (extract_lets +onlyGivenNames x1; first | (refine Within.cut (m := parts) (s0 := s0) (v := x1) ?_ ?_; rotate_left; intro hx; clear_value x1; rotate_left; unfold x1; clear x1) | clear_value x1) | assumption | exact Within.refl _ | exact ‹Avoids _ _›.mono (by decide) | apply State.markSet_keeps | apply State.raise_keeps | apply Within.ite

theorem State.deliverMarks_keeps {s0 s : State} (h : Within parts s0 s) {e : Event}
    (hm : Avoids parts 73990300 := by exact ‹Avoids _ _›.mono (by decide)) :
    Within parts s0 (State.deliverMarks s e) := by
  unfold State.deliverMarks
  with_reducible repeat' first | intro _ | assumption | exact Within.refl _ | exact ‹Avoids _ _›.mono (by decide) | apply State.deliver_keeps | apply State.markEvent_keeps | apply Within.ite | dsimp only [id]

theorem State.marksFirst_keeps {s0 s : State} (h : Within parts s0 s)
    (hm : Avoids parts 73990300 := by exact ‹Avoids _ _›.mono (by decide)) :
    Within parts s0 (State.marksFirst s) := by
  unfold State.marksFirst
  with_reducible repeat' first | intro _ | (extract_lets +onlyGivenNames x1; first | (refine Within.cut (m := parts) (s0 := s0) (v := x1) ?_ ?_; rotate_left; intro hx; clear_value x1; rotate_left; unfold x1; clear x1) | clear_value x1) | assumption | exact Within.refl _ | exact ‹Avoids _ _›.mono (by decide) | apply State.deliverMarks_keeps | apply State.forList_keeps

theorem State.markAdvance_keeps {s0 s : State} (h : Within parts s0 s) {v : Nat} {m : Nat}
    (hm : Avoids parts 67174540 := by exact ‹Avoids _ _›.mono (by decide)) :
    Within parts s0 (State.markAdvance s v m) := by
  unfold State.markAdvance
  with_reducible repeat' first | (extract_lets +onlyGivenNames x1; first | (refine Within.cut (m := parts) (s0 := s0) (v := x1) ?_ ?_; rotate_left; intro hx; clear_value x1; rotate_left; unfold x1; clear x1) | clear_value x1) | assumption | exact Within.refl _ | exact ‹Avoids _ _›.mono (by decide) | apply State.bumpSat_keeps | apply State.headMeet_keeps | apply State.publishCreel_keeps | apply State.raise_keeps | apply State.set2_keeps | apply State.setMark_keeps | apply Within.ite

theorem State.slotWrite_keeps {s0 s : State} (h : Within parts s0 s) {v : Nat} {stage : Bool} {q : Nat} {pos : Nat} {row : List Byte}
    (hm : Avoids parts 67174556 := by exact ‹Avoids _ _›.mono (by decide)) :
    Within parts s0 (State.slotWrite s v stage q pos row) := by
  unfold State.slotWrite
  with_reducible repeat' first | (extract_lets +onlyGivenNames x1; first | (refine Within.cut (m := parts) (s0 := s0) (v := x1) ?_ ?_; rotate_left; intro hx; clear_value x1; rotate_left; unfold x1; clear x1) | clear_value x1) | assumption | exact Within.refl _ | exact ‹Avoids _ _›.mono (by decide) | apply State.runWrite_keeps | apply State.setHist_keeps | apply Within.ite

theorem State.rowWrite_keeps {s0 s : State} (h : Within parts s0 s) {v : Nat} {pos : Nat} {row : List Byte} {stall : Bool}
    (hm : Avoids parts 73990300 := by exact ‹Avoids _ _›.mono (by decide)) :
    PKeeps parts s0 (State.rowWrite s v pos row stall) := by
  unfold State.rowWrite
  with_reducible repeat' first | intro _ | (extract_lets +onlyGivenNames x1; first | ((first | refine Within.cut (m := parts) (s0 := s0) (v := x1) ?_ ?_ | refine PKeeps.cut (m := parts) (s0 := s0) (p := x1) ?_ ?_); rotate_left; intro hx; clear_value x1; rotate_left; unfold x1; clear x1) | clear_value x1) | assumption | exact Within.refl _ | exact ‹Avoids _ _›.mono (by decide) | apply State.bumpSat_keeps | apply State.bump_keeps | apply State.forList_keeps | apply State.holdLoss_keeps | apply State.lossCreel_keeps | apply State.markAdvance_keeps | apply State.publishCreel_keeps | apply State.raise_keeps | apply State.setHist_keeps | apply State.slotWrite_keeps | apply Within.ite | exact PKeeps.fst (by assumption) | exact PKeeps.mk1 (by assumption) | exact PKeeps.of_eq (by assumption) (by assumption) | apply PKeeps.ite | apply PKeeps.mk | apply PKeeps.fst

theorem State.rowWrite_keeps2 {s0 s : State} (h : Within parts s0 s) {v : Nat} {pos : Nat} {row : List Byte} {stall : Bool} {t : State} {y0 : Option RowPlace} (e : State.rowWrite s v pos row stall = (t, y0))
    (hm : Avoids parts 73990300 := by exact ‹Avoids _ _›.mono (by decide)) : Within parts s0 t := by
  have := State.rowWrite_keeps h (v := v) (pos := pos) (row := row) (stall := stall)
  rw [e] at this; exact this

theorem State.rowWrite_keeps1 {s0 s : State} (h : Within parts s0 s) {v : Nat} {pos : Nat} {row : List Byte} {stall : Bool}
    (hm : Avoids parts 73990300 := by exact ‹Avoids _ _›.mono (by decide)) : Within parts s0 (State.rowWrite s v pos row stall).1 :=
  State.rowWrite_keeps h (v := v) (pos := pos) (row := row) (stall := stall)

theorem State.rawStart_keeps {s0 s : State} (h : Within parts s0 s) {d : Nat}
    (hm : Avoids parts 67174540 := by exact ‹Avoids _ _›.mono (by decide)) : Within parts s0 (State.rawStart s d) := by
  unfold State.rawStart
  apply Within.ite _ h
  extract_lets n x
  apply Within.ite h
  refine Within.cut (m := parts) (v := (s.giveBack R.FREE_HIST_SEGS x.segs).setRaw d {}) (State.setRaw_keeps (State.giveBack_keeps h)) fun h2 => ?_
  extract_lets s2
  split
  · next e =>
    simp only [Option.ite_none_left_eq_some] at e
    exact State.setRaw_keeps (State.alloc_keeps2 h2 e.2)
  · exact State.publishCreel_keeps (State.raise_keeps h2)

theorem State.rawWrite_keeps {s0 s : State} (h : Within parts s0 s) {d : Nat} {trigPos : Nat} {line : Nat} {seq : Nat} {expLate : Nat} {payload : List Byte}
    (hm : Avoids parts 67174556 := by exact ‹Avoids _ _›.mono (by decide)) :
    Within parts s0 (State.rawWrite s d trigPos line seq expLate payload) := by
  unfold State.rawWrite
  with_reducible repeat' first | (extract_lets +onlyGivenNames x1; first | (refine Within.cut (m := parts) (s0 := s0) (v := x1) ?_ ?_; rotate_left; intro hx; clear_value x1; rotate_left; unfold x1; clear x1) | clear_value x1) | assumption | exact Within.refl _ | exact ‹Avoids _ _›.mono (by decide) | apply State.runWrite_keeps | apply State.setRaw_keeps | apply Within.ite

end Sys2Proof.Machine
end

