-- ==== Sys2Proof/Laws/KeepsLiveCal.lean ====
section
/-!
SUPPORT. The operations of Machine/LiveCal.lean keep what every step keeps.
-/
set_option Elab.async false
namespace Sys2Proof.Machine

set_option linter.tactic.unusedName false

variable {parts : Nat}

theorem State.publishCond_keeps {s0 s : State} (h : Within parts s0 s) {v : Nat} {arg : Nat} {kind : Nat}
    (hm : Avoids parts 1182793868 := by exact ‹Avoids _ _›.mono (by decide)) :
    Within parts s0 (State.publishCond s v arg kind) := by
  unfold State.publishCond
  with_reducible repeat' first | assumption | exact Within.refl _ | exact ‹Avoids _ _›.mono (by decide) | apply State.skepPublish_keeps

theorem State.lcFreeze_keeps {s0 s : State} (h : Within parts s0 s) {v : Nat} {cause : Nat}
    (hm : Avoids parts 1182924940 := by exact ‹Avoids _ _›.mono (by decide)) :
    Within parts s0 (State.lcFreeze s v cause) := by
  unfold State.lcFreeze
  with_reducible repeat' first | (extract_lets +onlyGivenNames x1; first | (refine Within.cut (m := parts) (s0 := s0) (v := x1) ?_ ?_; rotate_left; intro hx; clear_value x1; rotate_left; unfold x1; clear x1) | clear_value x1) | assumption | exact Within.refl _ | exact ‹Avoids _ _›.mono (by decide) | apply State.bump_keeps | apply State.publishCond_keeps | apply State.set_keeps | exact rfl | apply Within.ite | apply Within.upd_cond

theorem State.lightFreeze_keeps {s0 s : State} (h : Within parts s0 s) {n : Nat}
    (hm : Avoids parts 1182924940 := by exact ‹Avoids _ _›.mono (by decide)) :
    Within parts s0 (State.lightFreeze s n) := by
  unfold State.lightFreeze
  with_reducible repeat' first | intro _ | assumption | exact Within.refl _ | exact ‹Avoids _ _›.mono (by decide) | apply State.forEach_keeps | apply State.lcFreeze_keeps | apply Within.ite

theorem State.lcRepeat_keeps {s0 s : State} (h : Within parts s0 s) {v : Nat}
    (hm : Avoids parts 8 := by exact ‹Avoids _ _›.mono (by decide)) :
    Within parts s0 (State.lcRepeat s v) := by
  unfold State.lcRepeat
  with_reducible repeat' first | assumption | exact Within.refl _ | exact ‹Avoids _ _›.mono (by decide) | apply State.bumpSat_keeps

theorem execLcCfgWrite_keeps {s : State} {who : Who} {v : Fin 8} {x : Word}
    (hm : Avoids parts 1182924940 := by exact ‹Avoids _ _›.mono (by decide)) : EKeeps parts s (execLcCfgWrite who v x s) := by
  have h : Within parts s s := .refl s
  unfold execLcCfgWrite
  with_reducible repeat' first | intro _ | (extract_lets +onlyGivenNames x1; first | (refine Within.cut (m := parts) (s0 := s) (v := x1) ?_ ?_; rotate_left; intro hx; clear_value x1; rotate_left; unfold x1; clear x1) | clear_value x1) | assumption | exact Within.refl _ | exact ‹Avoids _ _›.mono (by decide) | apply State.lcFreeze_keeps | apply State.set_keeps | apply State.viaBus_keeps | apply State.writeReg_keeps | apply Within.ite | apply EKeeps.next | apply EKeeps.ite

theorem State.setCond_keeps {s0 s : State} (h : Within parts s0 s) {d : Nat} {x : CondDesc}
    (hm : Avoids parts 131072 := by exact ‹Avoids _ _›.mono (by decide)) :
    Within parts s0 (State.setCond s d x) := by
  unfold State.setCond
  with_reducible repeat' first | assumption | exact Within.refl _ | exact ‹Avoids _ _›.mono (by decide) | exact rfl | apply Within.upd_cond

theorem State.zoneOpen_keeps {s0 s : State} (h : Within parts s0 s) {k : Nat} {anchor : Nat}
    (hm : Avoids parts 131080 := by exact ‹Avoids _ _›.mono (by decide)) :
    Within parts s0 (State.zoneOpen s k anchor) := by
  unfold State.zoneOpen
  with_reducible repeat' first | intro _ | (extract_lets +onlyGivenNames x1; first | (refine Within.cut (m := parts) (s0 := s0) (v := x1) ?_ ?_; rotate_left; intro hx; clear_value x1; rotate_left; unfold x1; clear x1) | clear_value x1) | assumption | exact Within.refl _ | exact ‹Avoids _ _›.mono (by decide) | apply State.bumpSat_keeps | apply State.raise_keeps | exact rfl | apply Within.ite | split | apply Within.upd_cond

theorem State.zonesFor_keeps {s0 s : State} (h : Within parts s0 s) {slot : Nat} {v : Nat} {lane : Nat} {anchor : Nat} {splice : Bool}
    (hm : Avoids parts 131080 := by exact ‹Avoids _ _›.mono (by decide)) :
    Within parts s0 (State.zonesFor s slot v lane anchor splice) := by
  unfold State.zonesFor
  with_reducible repeat' first | intro _ | (extract_lets +onlyGivenNames x1; first | (refine Within.cut (m := parts) (s0 := s0) (v := x1) ?_ ?_; rotate_left; intro hx; clear_value x1; rotate_left; unfold x1; clear x1) | clear_value x1) | assumption | exact Within.refl _ | exact ‹Avoids _ _›.mono (by decide) | apply State.forEach_keeps | apply State.zoneOpen_keeps | apply Within.ite

theorem State.calLog_keeps {s0 s : State} (h : Within parts s0 s) {w : ZoneWin} {result : Nat} {updated : Nat} {rejected : Nat} {delta : Int} {m0 : Nat}
    (hm : Avoids parts 8 := by exact ‹Avoids _ _›.mono (by decide)) :
    Within parts s0 (State.calLog s w result updated rejected delta m0) := by
  unfold State.calLog
  with_reducible repeat' first | (extract_lets +onlyGivenNames x1; first | (refine Within.cut (m := parts) (s0 := s0) (v := x1) ?_ ?_; rotate_left; intro hx; clear_value x1; rotate_left; unfold x1; clear x1) | clear_value x1) | assumption | exact Within.refl _ | exact ‹Avoids _ _›.mono (by decide) | apply State.bump_keeps | apply State.set_keeps | apply State.set2_keeps | apply State.setInt_keeps | apply State.setReg_keeps

theorem State.zonesAbandon_keeps {s0 s : State} (h : Within parts s0 s) {v : Nat}
    (hm : Avoids parts 131080 := by exact ‹Avoids _ _›.mono (by decide)) :
    Within parts s0 (State.zonesAbandon s v) := by
  unfold State.zonesAbandon
  with_reducible repeat' first | intro _ | (extract_lets +onlyGivenNames x1; first | (refine Within.cut (m := parts) (s0 := s0) (v := x1) ?_ ?_; rotate_left; intro hx; clear_value x1; rotate_left; unfold x1; clear x1) | clear_value x1) | assumption | exact Within.refl _ | exact ‹Avoids _ _›.mono (by decide) | apply State.calLog_keeps | apply State.forList_keeps | exact rfl | apply Within.upd_cond

theorem State.ldSet_keeps {s0 s : State} (h : Within parts s0 s) {d : Nat} {x : CondDesc}
    (hm : Avoids parts 131080 := by exact ‹Avoids _ _›.mono (by decide)) :
    Within parts s0 (State.ldSet s d x) := by
  unfold State.ldSet
  with_reducible repeat' first | (extract_lets +onlyGivenNames x1; first | (refine Within.cut (m := parts) (s0 := s0) (v := x1) ?_ ?_; rotate_left; intro hx; clear_value x1; rotate_left; unfold x1; clear x1) | clear_value x1) | assumption | exact Within.refl _ | exact ‹Avoids _ _›.mono (by decide) | apply State.setCond_keeps | apply State.set_keeps

theorem State.condStop_keeps {s0 s : State} (h : Within parts s0 s) {d : Nat}
    (hm : Avoids parts 131080 := by exact ‹Avoids _ _›.mono (by decide)) :
    Within parts s0 (State.condStop s d) := by
  unfold State.condStop
  with_reducible repeat' first | (extract_lets +onlyGivenNames x1; first | (refine Within.cut (m := parts) (s0 := s0) (v := x1) ?_ ?_; rotate_left; intro hx; clear_value x1; rotate_left; unfold x1; clear x1) | clear_value x1) | assumption | exact Within.refl _ | exact ‹Avoids _ _›.mono (by decide) | apply State.ldSet_keeps | exact rfl | apply Within.ite | split | apply Within.upd_cond

theorem State.loadMeets_keeps {s0 s : State} (h : Within parts s0 s) {d : Nat}
    (hm : Avoids parts 8 := by exact ‹Avoids _ _›.mono (by decide)) :
    Within parts s0 (State.loadMeets s d) := by
  unfold State.loadMeets
  with_reducible repeat' first | assumption | exact Within.refl _ | exact ‹Avoids _ _›.mono (by decide) | apply State.raise_keeps | apply Within.ite | split

theorem State.condStart_keeps {s0 s : State} (h : Within parts s0 s) {d : Nat}
    (hm : Avoids parts 131080 := by exact ‹Avoids _ _›.mono (by decide)) :
    Within parts s0 (State.condStart s d) := by
  unfold State.condStart
  with_reducible repeat' first | (extract_lets +onlyGivenNames x1; first | (refine Within.cut (m := parts) (s0 := s0) (v := x1) ?_ ?_; rotate_left; intro hx; clear_value x1; rotate_left; unfold x1; clear x1) | clear_value x1) | assumption | exact Within.refl _ | exact ‹Avoids _ _›.mono (by decide) | apply State.clear_keeps | apply State.ldSet_keeps | apply State.loadMeets_keeps | apply State.raise_keeps | apply State.setCond_keeps | apply Within.ite

end Sys2Proof.Machine
end

