-- ==== Sys2Proof/Laws/KeepsEndpoints.lean ====
section
/-!
SUPPORT. The operations of Machine/Endpoints.lean keep what every step keeps.
-/
set_option Elab.async false
namespace Sys2Proof.Machine

set_option linter.tactic.unusedName false

variable {parts : Nat}

theorem State.setEp_keeps {s0 s : State} (h : Within parts s0 s) {e : Nat} {x : Endpoint}
    (hm : Avoids parts 8192 := by exact ‹Avoids _ _›.mono (by decide)) :
    Within parts s0 (State.setEp s e x) := by
  unfold State.setEp
  with_reducible repeat' first | assumption | exact Within.refl _ | exact ‹Avoids _ _›.mono (by decide) | exact rfl | apply Within.upd_eps

theorem State.setLink_keeps {s0 s : State} (h : Within parts s0 s) {f : Nat} {x : Link}
    (hm : Avoids parts 4096 := by exact ‹Avoids _ _›.mono (by decide)) :
    Within parts s0 (State.setLink s f x) := by
  unfold State.setLink
  with_reducible repeat' first | assumption | exact Within.refl _ | exact ‹Avoids _ _›.mono (by decide) | exact rfl | apply Within.upd_links

theorem State.setStream_keeps {s0 s : State} (h : Within parts s0 s) {d : Nat} {x : Stream}
    (hm : Avoids parts 16384 := by exact ‹Avoids _ _›.mono (by decide)) :
    Within parts s0 (State.setStream s d x) := by
  unfold State.setStream
  with_reducible repeat' first | assumption | exact Within.refl _ | exact ‹Avoids _ _›.mono (by decide) | exact rfl | apply Within.upd_streams

theorem State.setEpState_keeps {s0 s : State} (h : Within parts s0 s) {e : Nat} {st : Nat}
    (hm : Avoids parts 8 := by exact ‹Avoids _ _›.mono (by decide)) :
    Within parts s0 (State.setEpState s e st) := by
  unfold State.setEpState
  with_reducible repeat' first | (extract_lets +onlyGivenNames x1; first | (refine Within.cut (m := parts) (s0 := s0) (v := x1) ?_ ?_; rotate_left; intro hx; clear_value x1; rotate_left; unfold x1; clear x1) | clear_value x1) | assumption | exact Within.refl _ | exact ‹Avoids _ _›.mono (by decide) | apply State.set_keeps | apply Within.ite

theorem State.publishEpt_keeps {s0 s : State} (h : Within parts s0 s) {e : Nat} {kind : Nat}
    (hm : Avoids parts 1182793868 := by exact ‹Avoids _ _›.mono (by decide)) :
    Within parts s0 (State.publishEpt s e kind) := by
  unfold State.publishEpt
  with_reducible repeat' first | assumption | exact Within.refl _ | exact ‹Avoids _ _›.mono (by decide) | apply State.skepPublish_keeps

theorem State.setItems_keeps {s0 s : State} (h : Within parts s0 s) {e : Nat} {l : List MsgItem}
    (hm : Avoids parts 8200 := by exact ‹Avoids _ _›.mono (by decide)) :
    Within parts s0 (State.setItems s e l) := by
  unfold State.setItems
  with_reducible repeat' first | (extract_lets +onlyGivenNames x1; first | (refine Within.cut (m := parts) (s0 := s0) (v := x1) ?_ ?_; rotate_left; intro hx; clear_value x1; rotate_left; unfold x1; clear x1) | clear_value x1) | assumption | exact Within.refl _ | exact ‹Avoids _ _›.mono (by decide) | apply State.set_keeps | apply State.setEp_keeps

theorem State.mfPush_keeps {s0 s : State} (h : Within parts s0 s) {e : Nat} {kind : Nat} {status : Nat} {tag : Nat} {skep : Bool} {epoch : Bool} {len : Nat} {rest : List Nat}
    (hm : Avoids parts 8200 := by exact ‹Avoids _ _›.mono (by decide)) :
    Within parts s0 (State.mfPush s e kind status tag skep epoch len rest) := by
  unfold State.mfPush
  with_reducible repeat' first | (extract_lets +onlyGivenNames x1; first | (refine Within.cut (m := parts) (s0 := s0) (v := x1) ?_ ?_; rotate_left; intro hx; clear_value x1; rotate_left; unfold x1; clear x1) | clear_value x1) | assumption | exact Within.refl _ | exact ‹Avoids _ _›.mono (by decide) | apply State.bumpSat_keeps | apply State.raise_keeps | apply State.setEp_keeps | apply State.setItems_keeps | apply Within.ite

theorem State.sendLink_keeps {s0 s : State} (h : Within parts s0 s) {f : Nat} {p : Packet}
    (hm : Avoids parts 4096 := by exact ‹Avoids _ _›.mono (by decide)) :
    Within parts s0 (State.sendLink s f p) := by
  unfold State.sendLink
  with_reducible repeat' first | (extract_lets +onlyGivenNames x1; first | (refine Within.cut (m := parts) (s0 := s0) (v := x1) ?_ ?_; rotate_left; intro hx; clear_value x1; rotate_left; unfold x1; clear x1) | clear_value x1) | assumption | exact Within.refl _ | exact ‹Avoids _ _›.mono (by decide) | apply State.setLink_keeps

theorem State.sendTo_keeps {s0 s : State} (h : Within parts s0 s) {e : Nat} {p : Packet}
    (hm : Avoids parts 4096 := by exact ‹Avoids _ _›.mono (by decide)) :
    Within parts s0 (State.sendTo s e p) := by
  unfold State.sendTo
  with_reducible repeat' first | assumption | exact Within.refl _ | exact ‹Avoids _ _›.mono (by decide) | apply State.sendLink_keeps

theorem State.ctrlPump_keeps {s0 s : State} (h : Within parts s0 s) {e : Nat}
    (hm : Avoids parts 12288 := by exact ‹Avoids _ _›.mono (by decide)) :
    Within parts s0 (State.ctrlPump s e) := by
  unfold State.ctrlPump
  with_reducible repeat' first | intro _ | (extract_lets +onlyGivenNames x1; first | (refine Within.cut (m := parts) (s0 := s0) (v := x1) ?_ ?_; rotate_left; intro hx; clear_value x1; rotate_left; unfold x1; clear x1) | clear_value x1) | assumption | exact Within.refl _ | exact ‹Avoids _ _›.mono (by decide) | apply State.forList_keeps | apply State.sendTo_keeps | apply State.setEp_keeps | apply Within.ite

theorem State.ctrlRequest_keeps {s0 s : State} (h : Within parts s0 s) {e : Nat} {write : Bool} {addr : Nat} {words : Nat} {data : List Nat} {why : Purpose}
    (hm : Avoids parts 12288 := by exact ‹Avoids _ _›.mono (by decide)) :
    Within parts s0 (State.ctrlRequest s e write addr words data why) := by
  unfold State.ctrlRequest
  with_reducible repeat' first | (extract_lets +onlyGivenNames x1; first | (refine Within.cut (m := parts) (s0 := s0) (v := x1) ?_ ?_; rotate_left; intro hx; clear_value x1; rotate_left; unfold x1; clear x1) | clear_value x1) | assumption | exact Within.refl _ | exact ‹Avoids _ _›.mono (by decide) | apply State.ctrlPump_keeps | apply State.setEp_keeps

theorem State.epochReset_keeps {s0 s : State} (h : Within parts s0 s) {e : Nat}
    (hm : Avoids parts 12296 := by exact ‹Avoids _ _›.mono (by decide)) :
    Within parts s0 (State.epochReset s e) := by
  unfold State.epochReset
  with_reducible repeat' first | (extract_lets +onlyGivenNames x1; first | (refine Within.cut (m := parts) (s0 := s0) (v := x1) ?_ ?_; rotate_left; intro hx; clear_value x1; rotate_left; unfold x1; clear x1) | clear_value x1) | assumption | exact Within.refl _ | exact ‹Avoids _ _›.mono (by decide) | apply State.raise_keeps | apply State.sendTo_keeps | apply State.setEp_keeps

theorem State.writeHeadEp_keeps {s0 s : State} (h : Within parts s0 s) {e : Nat} {why : Purpose}
    (hm : Avoids parts 12288 := by exact ‹Avoids _ _›.mono (by decide)) :
    Within parts s0 (State.writeHeadEp s e why) := by
  unfold State.writeHeadEp
  with_reducible repeat' first | assumption | exact Within.refl _ | exact ‹Avoids _ _›.mono (by decide) | apply State.ctrlRequest_keeps

theorem State.readIdent_keeps {s0 s : State} (h : Within parts s0 s) {e : Nat}
    (hm : Avoids parts 12288 := by exact ‹Avoids _ _›.mono (by decide)) :
    Within parts s0 (State.readIdent s e) := by
  unfold State.readIdent
  with_reducible repeat' first | assumption | exact Within.refl _ | exact ‹Avoids _ _›.mono (by decide) | apply State.ctrlRequest_keeps

theorem State.writePsets_keeps {s0 s : State} (h : Within parts s0 s) {e : Nat}
    (hm : Avoids parts 12288 := by exact ‹Avoids _ _›.mono (by decide)) :
    Within parts s0 (State.writePsets s e) := by
  unfold State.writePsets
  with_reducible repeat' first | intro _ | (extract_lets +onlyGivenNames x1; first | (refine Within.cut (m := parts) (s0 := s0) (v := x1) ?_ ?_; rotate_left; intro hx; clear_value x1; rotate_left; unfold x1; clear x1) | clear_value x1) | assumption | exact Within.refl _ | exact ‹Avoids _ _›.mono (by decide) | apply State.ctrlRequest_keeps | apply State.setEp_keeps

theorem State.assign_keeps {s0 s : State} (h : Within parts s0 s) {e : Nat} {valid : Bool}
    (hm : Avoids parts 4096 := by exact ‹Avoids _ _›.mono (by decide)) :
    Within parts s0 (State.assign s e valid) := by
  unfold State.assign
  with_reducible repeat' first | (extract_lets +onlyGivenNames x1; first | (refine Within.cut (m := parts) (s0 := s0) (v := x1) ?_ ?_; rotate_left; intro hx; clear_value x1; rotate_left; unfold x1; clear x1) | clear_value x1) | assumption | exact Within.refl _ | exact ‹Avoids _ _›.mono (by decide) | apply State.sendTo_keeps | apply Within.ite

theorem State.withdraw_keeps {s0 s : State} (h : Within parts s0 s) {e : Nat}
    (hm : Avoids parts 33558528 := by exact ‹Avoids _ _›.mono (by decide)) :
    Within parts s0 (State.withdraw s e) := by
  unfold State.withdraw
  with_reducible repeat' first | intro _ | (extract_lets +onlyGivenNames x1; first | (refine Within.cut (m := parts) (s0 := s0) (v := x1) ?_ ?_; rotate_left; intro hx; clear_value x1; rotate_left; unfold x1; clear x1) | clear_value x1) | assumption | exact Within.refl _ | exact ‹Avoids _ _›.mono (by decide) | apply State.assign_keeps | apply State.skepDo_keeps | apply Within.ite

theorem State.trigRefresh_keeps {s0 s : State} (h : Within parts s0 s) {f : Nat}
    (hm : Avoids parts 8 := by exact ‹Avoids _ _›.mono (by decide)) :
    Within parts s0 (State.trigRefresh s f) := by
  unfold State.trigRefresh
  with_reducible repeat' first | intro _ | (extract_lets +onlyGivenNames x1; first | (refine Within.cut (m := parts) (s0 := s0) (v := x1) ?_ ?_; rotate_left; intro hx; clear_value x1; rotate_left; unfold x1; clear x1) | clear_value x1) | assumption | exact Within.refl _ | exact ‹Avoids _ _›.mono (by decide) | apply State.forEach_keeps | apply State.raise_keeps | apply State.set_keeps | apply State.setFlag_keeps | apply Within.ite

theorem State.sendGroup_keeps {s0 s : State} (h : Within parts s0 s) {m : Member} {join : Bool}
    (hm : Avoids parts 4096 := by exact ‹Avoids _ _›.mono (by decide)) :
    Within parts s0 (State.sendGroup s m join) := by
  unfold State.sendGroup
  with_reducible repeat' first | assumption | exact Within.refl _ | exact ‹Avoids _ _›.mono (by decide) | apply State.sendTo_keeps | apply Within.ite

theorem State.groupUpdate_keeps {s0 s : State} (h : Within parts s0 s)
    (hm : Avoids parts 12296 := by exact ‹Avoids _ _›.mono (by decide)) :
    Within parts s0 (State.groupUpdate s) := by
  unfold State.groupUpdate
  with_reducible repeat' first | intro _ | (extract_lets +onlyGivenNames x1; first | (refine Within.cut (m := parts) (s0 := s0) (v := x1) ?_ ?_; rotate_left; intro hx; clear_value x1; rotate_left; unfold x1; clear x1) | clear_value x1) | assumption | exact Within.refl _ | exact ‹Avoids _ _›.mono (by decide) | apply State.forList_keeps | apply State.sendGroup_keeps | apply State.trigRefresh_keeps | exact rfl | apply Within.ite | apply Within.upd_groups

theorem State.groupsRejoin_keeps {s0 s : State} (h : Within parts s0 s) {hub : Nat}
    (hm : Avoids parts 12296 := by exact ‹Avoids _ _›.mono (by decide)) :
    Within parts s0 (State.groupsRejoin s hub) := by
  unfold State.groupsRejoin
  with_reducible repeat' first | assumption | exact Within.refl _ | exact ‹Avoids _ _›.mono (by decide) | apply State.groupUpdate_keeps | exact rfl | apply Within.upd_groups

theorem State.streamCount_keeps {s0 s : State} (h : Within parts s0 s) {d : Nat}
    (hm : Avoids parts 16384 := by exact ‹Avoids _ _›.mono (by decide)) :
    Within parts s0 (State.streamCount s d) := by
  unfold State.streamCount
  with_reducible repeat' first | assumption | exact Within.refl _ | exact ‹Avoids _ _›.mono (by decide) | apply State.setStream_keeps

theorem State.streamWrites_keeps {s0 s : State} (h : Within parts s0 s) {d : Nat}
    (hm : Avoids parts 28672 := by exact ‹Avoids _ _›.mono (by decide)) :
    Within parts s0 (State.streamWrites s d) := by
  unfold State.streamWrites
  with_reducible repeat' first | (extract_lets +onlyGivenNames x1; first | (refine Within.cut (m := parts) (s0 := s0) (v := x1) ?_ ?_; rotate_left; intro hx; clear_value x1; rotate_left; unfold x1; clear x1) | clear_value x1) | assumption | exact Within.refl _ | exact ‹Avoids _ _›.mono (by decide) | apply State.ctrlRequest_keeps | apply State.streamCount_keeps | apply State.writePsets_keeps | apply Within.ite

theorem State.streamStart_keeps {s0 s : State} (h : Within parts s0 s) {d : Nat}
    (hm : Avoids parts 33583104 := by exact ‹Avoids _ _›.mono (by decide)) :
    Within parts s0 (State.streamStart s d) := by
  unfold State.streamStart
  with_reducible repeat' first | intro _ | assumption | exact Within.refl _ | exact ‹Avoids _ _›.mono (by decide) | apply State.skepDo_keeps | apply State.streamWrites_keeps

theorem State.streamEnd_keeps {s0 s : State} (h : Within parts s0 s) {d : Nat} {e : Nat} {stream : Nat}
    (hm : Avoids parts 33566720 := by exact ‹Avoids _ _›.mono (by decide)) :
    Within parts s0 (State.streamEnd s d e stream) := by
  unfold State.streamEnd
  with_reducible repeat' first | intro _ | (extract_lets +onlyGivenNames x1; first | (refine Within.cut (m := parts) (s0 := s0) (v := x1) ?_ ?_; rotate_left; intro hx; clear_value x1; rotate_left; unfold x1; clear x1) | clear_value x1) | assumption | exact Within.refl _ | exact ‹Avoids _ _›.mono (by decide) | apply State.ctrlRequest_keeps | apply State.skepDo_keeps | exact rfl | apply Within.upd_skep

theorem State.streamForget_keeps {s0 s : State} (h : Within parts s0 s) {d : Nat}
    (hm : Avoids parts 151560 := by exact ‹Avoids _ _›.mono (by decide)) :
    Within parts s0 (State.streamForget s d) := by
  unfold State.streamForget
  with_reducible repeat' first | intro _ | (extract_lets +onlyGivenNames x1; first | (refine Within.cut (m := parts) (s0 := s0) (v := x1) ?_ ?_; rotate_left; intro hx; clear_value x1; rotate_left; unfold x1; clear x1) | clear_value x1) | assumption | exact Within.refl _ | exact ‹Avoids _ _›.mono (by decide) | apply State.clear_keeps | apply State.condStop_keeps | apply State.setLink_keeps | apply State.setStream_keeps

theorem State.streamStop_keeps {s0 s : State} (h : Within parts s0 s) {d : Nat} {down : Bool}
    (hm : Avoids parts 74141852 := by exact ‹Avoids _ _›.mono (by decide)) :
    Within parts s0 (State.streamStop s d down) := by
  unfold State.streamStop
  with_reducible repeat' first | intro _ | (extract_lets +onlyGivenNames x1; first | (refine Within.cut (m := parts) (s0 := s0) (v := x1) ?_ ?_; rotate_left; intro hx; clear_value x1; rotate_left; unfold x1; clear x1) | clear_value x1) | assumption | exact Within.refl _ | exact ‹Avoids _ _›.mono (by decide) | apply State.lossLink_keeps | apply State.streamForget_keeps | apply Within.ite | split

theorem State.forecasts_keeps {s0 s : State} (h : Within parts s0 s)
    (hm : Avoids parts 8 := by exact ‹Avoids _ _›.mono (by decide)) :
    Within parts s0 (State.forecasts s) := by
  unfold State.forecasts
  with_reducible repeat' first | intro _ | (extract_lets +onlyGivenNames x1; first | (refine Within.cut (m := parts) (s0 := s0) (v := x1) ?_ ?_; rotate_left; intro hx; clear_value x1; rotate_left; unfold x1; clear x1) | clear_value x1) | assumption | exact Within.refl _ | exact ‹Avoids _ _›.mono (by decide) | apply State.forEach_keeps | apply State.raise_keeps | apply State.set_keeps | apply Within.ite

theorem State.dupUpdate_keeps {s0 s : State} (h : Within parts s0 s) 
    (hm : Avoids parts 8 := by exact ‹Avoids _ _›.mono (by decide)) :
    Within parts s0 (State.dupUpdate s) := by
  unfold State.dupUpdate
  with_reducible repeat' first | intro _ | (extract_lets +onlyGivenNames x1; first | (refine Within.cut (m := parts) (s0 := s0) (v := x1) ?_ ?_; rotate_left; intro hx; clear_value x1; rotate_left; unfold x1; clear x1) | clear_value x1) | assumption | exact Within.refl _ | exact ‹Avoids _ _›.mono (by decide) | apply State.forList_keeps | apply State.raise_keeps | apply State.setFlag_keeps | apply Within.ite

theorem State.ctrlFailAll_keeps {s0 s : State} (h : Within parts s0 s) {e : Nat}
    (hm : Avoids parts 8200 := by exact ‹Avoids _ _›.mono (by decide)) :
    Within parts s0 (State.ctrlFailAll s e) := by
  unfold State.ctrlFailAll
  with_reducible repeat' first | intro _ | (extract_lets +onlyGivenNames x1; first | (refine Within.cut (m := parts) (s0 := s0) (v := x1) ?_ ?_; rotate_left; intro hx; clear_value x1; rotate_left; unfold x1; clear x1) | clear_value x1) | assumption | exact Within.refl _ | exact ‹Avoids _ _›.mono (by decide) | apply State.forList_keeps | apply State.mfPush_keeps | apply State.raise_keeps | apply State.set_keeps | apply State.setEp_keeps | split

theorem State.epToLost_keeps {s0 s : State} (h : Within parts s0 s) {e : Nat} {cause : Nat}
    (hm : Avoids parts 1182802060 := by exact ‹Avoids _ _›.mono (by decide)) :
    Within parts s0 (State.epToLost s e cause) := by
  unfold State.epToLost
  with_reducible repeat' first | (extract_lets +onlyGivenNames x1; first | (refine Within.cut (m := parts) (s0 := s0) (v := x1) ?_ ?_; rotate_left; intro hx; clear_value x1; rotate_left; unfold x1; clear x1) | clear_value x1) | assumption | exact Within.refl _ | exact ‹Avoids _ _›.mono (by decide) | apply State.dupUpdate_keeps | apply State.publishEpt_keeps | apply State.raise_keeps | apply State.setEpState_keeps | apply State.setEp_keeps | apply State.set_keeps

theorem State.jobsDrop_keeps {s0 s : State} (h : Within parts s0 s) {e : Nat}
    (hm : Avoids parts 33554432 := by exact ‹Avoids _ _›.mono (by decide)) :
    Within parts s0 (State.jobsDrop s e) := by
  unfold State.jobsDrop
  with_reducible repeat' first | intro _ | assumption | exact Within.refl _ | exact ‹Avoids _ _›.mono (by decide) | exact rfl | split | apply Within.upd_skep

theorem State.epLost_keeps {s0 s : State} (h : Within parts s0 s) {e : Nat} {cause : Nat}
    (hm : Avoids parts 1189834908 := by exact ‹Avoids _ _›.mono (by decide)) :
    Within parts s0 (State.epLost s e cause) := by
  unfold State.epLost
  with_reducible repeat' first | intro _ | (extract_lets +onlyGivenNames x1; first | (refine Within.cut (m := parts) (s0 := s0) (v := x1) ?_ ?_; rotate_left; intro hx; clear_value x1; rotate_left; unfold x1; clear x1) | clear_value x1) | assumption | exact Within.refl _ | exact ‹Avoids _ _›.mono (by decide) | apply State.ctrlFailAll_keeps | apply State.epToLost_keeps | apply State.forList_keeps | apply State.forecasts_keeps | apply State.jobsDrop_keeps | apply State.setEpState_keeps | apply State.setEp_keeps | apply State.set_keeps | apply State.streamStop_keeps | apply State.trigRefresh_keeps | apply State.withdraw_keeps | apply Within.ite | split

theorem State.reuseId_keeps {s0 s : State} (h : Within parts s0 s) {e : Nat}
    (hm : Avoids parts 1182953612 := by exact ‹Avoids _ _›.mono (by decide)) :
    Within parts s0 (State.reuseId s e) := by
  unfold State.reuseId
  with_reducible repeat' first | intro _ | (extract_lets +onlyGivenNames x1; first | (refine Within.cut (m := parts) (s0 := s0) (v := x1) ?_ ?_; rotate_left; intro hx; clear_value x1; rotate_left; unfold x1; clear x1) | clear_value x1) | assumption | exact Within.refl _ | exact ‹Avoids _ _›.mono (by decide) | apply State.clear_keeps | apply State.dupUpdate_keeps | apply State.forList_keeps | apply State.forecasts_keeps | apply State.groupUpdate_keeps | apply State.publishEpt_keeps | apply State.raise_keeps | apply State.resetRegs_keeps | apply State.setEp_keeps | apply State.streamForget_keeps

theorem State.present_keeps {s0 s : State} (h : Within parts s0 s) {e : Nat} {n : Enrol}
    (hm : Avoids parts 12296 := by exact ‹Avoids _ _›.mono (by decide)) :
    Within parts s0 (State.present s e n) := by
  unfold State.present
  with_reducible repeat' first | (extract_lets +onlyGivenNames x1; first | (refine Within.cut (m := parts) (s0 := s0) (v := x1) ?_ ?_; rotate_left; intro hx; clear_value x1; rotate_left; unfold x1; clear x1) | clear_value x1) | assumption | exact Within.refl _ | exact ‹Avoids _ _›.mono (by decide) | apply State.forecasts_keeps | apply State.setEpState_keeps | apply State.setEp_keeps | apply State.setFlag_keeps | apply State.setLink_keeps | apply State.set_keeps | apply State.trigRefresh_keeps | apply Within.ite

theorem State.enrol_keeps {s0 s : State} (h : Within parts s0 s) {n : Enrol}
    (hm : Avoids parts 1182953612 := by exact ‹Avoids _ _›.mono (by decide)) :
    Within parts s0 (State.enrol s n) := by
  unfold State.enrol
  with_reducible repeat' first | (extract_lets +onlyGivenNames x1; first | (refine Within.cut (m := parts) (s0 := s0) (v := x1) ?_ ?_; rotate_left; intro hx; clear_value x1; rotate_left; unfold x1; clear x1) | clear_value x1) | assumption | exact Within.refl _ | exact ‹Avoids _ _›.mono (by decide) | apply State.assign_keeps | apply State.present_keeps | apply State.raise_keeps | apply State.readIdent_keeps | apply State.reuseId_keeps | apply State.writeHeadEp_keeps | apply Within.ite | split | exact rfl | apply Within.upd_enrolling

theorem State.enrolGo_keeps {k : Nat} {s0 s : State} (h : Within parts s0 s)
    (hm : Avoids parts 1182953612 := by exact ‹Avoids _ _›.mono (by decide)) :
    Within parts s0 (State.enrolGo k s) := by
  induction k generalizing s with
  | zero => exact h
  | succ k ih =>
    unfold State.enrolGo
    with_reducible repeat' first | assumption | exact Within.refl _ | exact ‹Avoids _ _›.mono (by decide) | apply ih | apply State.enrol_keeps | apply Within.ite | split | exact rfl | apply Within.upd_enrolQ

theorem State.enrolNext_keeps {s0 s : State} (h : Within parts s0 s)
    (hm : Avoids parts 1182953612 := by exact ‹Avoids _ _›.mono (by decide)) :
    Within parts s0 (State.enrolNext s) := by
  unfold State.enrolNext
  exact Within.ite (State.enrolGo_keeps h) h

theorem State.enrolAdd_keeps {s0 s : State} (h : Within parts s0 s) {n : Enrol}
    (hm : Avoids parts 1182953612 := by exact ‹Avoids _ _›.mono (by decide)) :
    Within parts s0 (State.enrolAdd s n) := by
  unfold State.enrolAdd
  with_reducible repeat' first | assumption | exact Within.refl _ | exact ‹Avoids _ _›.mono (by decide) | apply State.enrolNext_keeps | exact rfl | apply Within.upd_enrolQ

theorem State.enrolEnd_keeps {s0 s : State} (h : Within parts s0 s) {e : Nat}
    (hm : Avoids parts 1182953612 := by exact ‹Avoids _ _›.mono (by decide)) :
    Within parts s0 (State.enrolEnd s e) := by
  unfold State.enrolEnd
  with_reducible repeat' first | assumption | exact Within.refl _ | exact ‹Avoids _ _›.mono (by decide) | apply State.enrolNext_keeps | apply Within.ite | exact rfl | apply Within.upd_enrolling

theorem State.epUnitStart_keeps {s0 s : State} (h : Within parts s0 s) {e : Nat}
    (hm : Avoids parts 1182806220 := by exact ‹Avoids _ _›.mono (by decide)) :
    Within parts s0 (State.epUnitStart s e) := by
  unfold State.epUnitStart
  with_reducible repeat' first | (extract_lets +onlyGivenNames x1; first | (refine Within.cut (m := parts) (s0 := s0) (v := x1) ?_ ?_; rotate_left; intro hx; clear_value x1; rotate_left; unfold x1; clear x1) | clear_value x1) | assumption | exact Within.refl _ | exact ‹Avoids _ _›.mono (by decide) | apply State.unitTo_keeps | apply State.writeHeadEp_keeps | apply State.writePsets_keeps

theorem State.epUnitFault_keeps {s0 s : State} (h : Within parts s0 s) {e : Nat} {cause : Nat}
    (hm : Avoids parts 1182793932 := by exact ‹Avoids _ _›.mono (by decide)) :
    Within parts s0 (State.epUnitFault s e cause) := by
  unfold State.epUnitFault
  with_reducible repeat' first | assumption | exact Within.refl _ | exact ‹Avoids _ _›.mono (by decide) | apply State.publishEpt_keeps | apply State.set_keeps | apply State.unitTo_keeps

theorem State.epUnitStop_keeps {s0 s : State} (h : Within parts s0 s) {e : Nat}
    (hm : Avoids parts 1189834972 := by exact ‹Avoids _ _›.mono (by decide)) :
    Within parts s0 (State.epUnitStop s e) := by
  unfold State.epUnitStop
  with_reducible repeat' first | intro _ | (extract_lets +onlyGivenNames x1; first | (refine Within.cut (m := parts) (s0 := s0) (v := x1) ?_ ?_; rotate_left; intro hx; clear_value x1; rotate_left; unfold x1; clear x1) | clear_value x1) | assumption | exact Within.refl _ | exact ‹Avoids _ _›.mono (by decide) | apply State.forList_keeps | apply State.streamEnd_keeps | apply State.streamStop_keeps | apply State.unitTo_keeps | apply Within.ite

theorem State.identified_keeps {s0 s : State} (h : Within parts s0 s) {e : Nat} {words : List Nat}
    (hm : Avoids parts 1182953676 := by exact ‹Avoids _ _›.mono (by decide)) :
    Within parts s0 (State.identified s e words) := by
  unfold State.identified
  with_reducible repeat' first | intro _ | (extract_lets +onlyGivenNames x1; first | (refine Within.cut (m := parts) (s0 := s0) (v := x1) ?_ ?_; rotate_left; intro hx; clear_value x1; rotate_left; unfold x1; clear x1) | clear_value x1) | assumption | exact Within.refl _ | exact ‹Avoids _ _›.mono (by decide) | apply State.ctrlRequest_keeps | apply State.dupUpdate_keeps | apply State.enrolEnd_keeps | apply State.epUnitStart_keeps | apply State.forEach_keeps | apply State.groupsRejoin_keeps | apply State.publishEpt_keeps | apply State.raise_keeps | apply State.setEpState_keeps | apply State.setEp_keeps | apply State.setReg_keeps | apply Within.ite

theorem State.enrolFail_keeps {s0 s : State} (h : Within parts s0 s) {e : Nat} {again : State → State} (h_again : ∀  t, Within parts s0 t → Within parts s0 (again  t))
    (hm : Avoids parts 1189834908 := by exact ‹Avoids _ _›.mono (by decide)) :
    Within parts s0 (State.enrolFail s e again) := by
  unfold State.enrolFail
  with_reducible repeat' first | intro _ | (extract_lets +onlyGivenNames x1; first | (refine Within.cut (m := parts) (s0 := s0) (v := x1) ?_ ?_; rotate_left; intro hx; clear_value x1; rotate_left; unfold x1; clear x1) | clear_value x1) | assumption | exact Within.refl _ | exact ‹Avoids _ _›.mono (by decide) | apply State.enrolEnd_keeps | apply State.epLost_keeps | apply State.setEp_keeps | apply h_again | apply Within.ite

theorem State.streamsResume_keeps {s0 s : State} (h : Within parts s0 s) {e : Nat}
    (hm : Avoids parts 33583112 := by exact ‹Avoids _ _›.mono (by decide)) :
    Within parts s0 (State.streamsResume s e) := by
  unfold State.streamsResume
  with_reducible repeat' first | intro _ | assumption | exact Within.refl _ | exact ‹Avoids _ _›.mono (by decide) | apply State.forList_keeps | apply State.groupUpdate_keeps | apply State.streamStart_keeps

theorem State.headReset_keeps {s0 s : State} (h : Within parts s0 s) {e : Nat}
    (hm : Avoids parts 1189834972 := by exact ‹Avoids _ _›.mono (by decide)) :
    Within parts s0 (State.headReset s e) := by
  unfold State.headReset
  with_reducible repeat' first | intro _ | (extract_lets +onlyGivenNames x1; first | (refine Within.cut (m := parts) (s0 := s0) (v := x1) ?_ ?_; rotate_left; intro hx; clear_value x1; rotate_left; unfold x1; clear x1) | clear_value x1) | assumption | exact Within.refl _ | exact ‹Avoids _ _›.mono (by decide) | apply State.epUnitFault_keeps | apply State.forList_keeps | apply State.publishEpt_keeps | apply State.raise_keeps | apply State.streamStop_keeps | apply State.writeHeadEp_keeps | apply Within.ite

theorem State.ctrlEnds_keeps {s0 s : State} (h : Within parts s0 s) {e : Nat} {r : CtrlReq} {st : Nat} {data : List Nat}
    (hm : Avoids parts 1189834972 := by exact ‹Avoids _ _›.mono (by decide)) :
    Within parts s0 (State.ctrlEnds s e r st data) := by
  unfold State.ctrlEnds
  with_reducible repeat' first | intro _ | (extract_lets +onlyGivenNames x1; first | (refine Within.cut (m := parts) (s0 := s0) (v := x1) ?_ ?_; rotate_left; intro hx; clear_value x1; rotate_left; unfold x1; clear x1) | clear_value x1) | assumption | exact Within.refl _ | exact ‹Avoids _ _›.mono (by decide) | apply State.bumpSat_keeps | apply State.clear_keeps | apply State.condStart_keeps | apply State.ctrlRequest_keeps | apply State.enrolEnd_keeps | apply State.enrolFail_keeps | apply State.epLost_keeps | apply State.epUnitFault_keeps | apply State.forecasts_keeps | apply State.groupUpdate_keeps | apply State.headReset_keeps | apply State.identified_keeps | apply State.raise_keeps | apply State.rawStart_keeps | apply State.readIdent_keeps | apply State.setEp_keeps | apply State.set_keeps | apply State.streamForget_keeps | apply State.streamsResume_keeps | apply State.unitTo_keeps | apply State.writeHeadEp_keeps | apply State.writePsets_keeps | apply Within.ite | split

theorem State.ctrlDone_keeps {s0 s : State} (h : Within parts s0 s) {e : Nat} {r : CtrlReq} {st : Nat} {data : List Nat}
    (hm : Avoids parts 1189834972 := by exact ‹Avoids _ _›.mono (by decide)) :
    Within parts s0 (State.ctrlDone s e r st data) := by
  unfold State.ctrlDone
  with_reducible repeat' first | intro _ | assumption | exact Within.refl _ | exact ‹Avoids _ _›.mono (by decide) | apply State.ctrlEnds_keeps | apply State.skepDo_keeps | apply Within.ite

end Sys2Proof.Machine
end

