-- ==== Sys2Proof/Laws/KeepsEncoders.lean ====
section
/-!
SUPPORT. The operations of Machine/Encoders.lean keep what every step keeps.
-/
set_option Elab.async false
namespace Sys2Proof.Machine

set_option linter.tactic.unusedName false

variable {parts : Nat}

theorem State.passThrough_keeps {s0 s : State} (h : Within parts s0 s) {n : Nat} {mode : Nat} {p : EncPin}
    (hm : Avoids parts 1073741824 := by exact ‹Avoids _ _›.mono (by decide)) :
    Within parts s0 (State.passThrough s n mode p) := by
  unfold State.passThrough
  with_reducible repeat' first | intro _ | assumption | exact Within.refl _ | exact ‹Avoids _ _›.mono (by decide) | apply State.emit_keeps | apply State.forEach_keeps | apply Within.ite

theorem State.encEvent_keeps {s0 s : State} (h : Within parts s0 s) {n : Nat} {f : Sel} {kind : Nat}
    (hm : Avoids parts 67109004 := by exact ‹Avoids _ _›.mono (by decide)) :
    Within parts s0 (State.encEvent s n f kind) := by
  unfold State.encEvent
  with_reducible repeat' first | assumption | exact Within.refl _ | exact ‹Avoids _ _›.mono (by decide) | apply State.publish_keeps

theorem State.setCount_keeps {s0 s : State} (h : Within parts s0 s) {n : Nat} {x : Nat}
    (hm : Avoids parts 264 := by exact ‹Avoids _ _›.mono (by decide)) :
    Within parts s0 (State.setCount s n x) := by
  unfold State.setCount
  with_reducible repeat' first | assumption | exact Within.refl _ | exact ‹Avoids _ _›.mono (by decide) | apply State.set_keeps | apply State.setEnc_keeps

theorem State.dirRun_keeps {s0 s : State} (h : Within parts s0 s) {n : Nat} {sign : Int}
    (hm : Avoids parts 67109260 := by exact ‹Avoids _ _›.mono (by decide)) :
    Within parts s0 (State.dirRun s n sign) := by
  unfold State.dirRun
  with_reducible repeat' first | (extract_lets +onlyGivenNames x1; first | (refine Within.cut (m := parts) (s0 := s0) (v := x1) ?_ ?_; rotate_left; intro hx; clear_value x1; rotate_left; unfold x1; clear x1) | clear_value x1) | assumption | exact Within.refl _ | exact ‹Avoids _ _›.mono (by decide) | apply State.bumpSat_keeps | apply State.encEvent_keeps | apply State.raise_keeps | apply State.setEnc_keeps | apply State.setFlag_keeps | apply Within.ite

theorem State.countedEdge_keeps {s0 s : State} (h : Within parts s0 s) {n : Nat} {sign : Int}
    (hm : Avoids parts 67109772 := by exact ‹Avoids _ _›.mono (by decide)) :
    Within parts s0 (State.countedEdge s n sign) := by
  unfold State.countedEdge
  with_reducible repeat' first | (extract_lets +onlyGivenNames x1; first | (refine Within.cut (m := parts) (s0 := s0) (v := x1) ?_ ?_; rotate_left; intro hx; clear_value x1; rotate_left; unfold x1; clear x1) | clear_value x1) | assumption | exact Within.refl _ | exact ‹Avoids _ _›.mono (by decide) | apply State.dirRun_keeps | apply State.encEdge_keeps | apply State.encEvent_keeps | apply State.raise_keeps | apply State.set_keeps | apply State.setCount_keeps | apply State.setEnc_keeps | apply Within.ite | split

theorem State.illegalEdge_keeps {s0 s : State} (h : Within parts s0 s) {n : Nat}
    (hm : Avoids parts 67109004 := by exact ‹Avoids _ _›.mono (by decide)) :
    Within parts s0 (State.illegalEdge s n) := by
  unfold State.illegalEdge
  with_reducible repeat' first | assumption | exact Within.refl _ | exact ‹Avoids _ _›.mono (by decide) | apply State.bumpSat_keeps | apply State.encEvent_keeps | apply State.raise_keeps

theorem State.lineCount_keeps {s0 s : State} (h : Within parts s0 s) {n : Nat}
    (hm : Avoids parts 67109260 := by exact ‹Avoids _ _›.mono (by decide)) :
    Within parts s0 (State.lineCount s n) := by
  unfold State.lineCount
  with_reducible repeat' first | (extract_lets +onlyGivenNames x1; first | (refine Within.cut (m := parts) (s0 := s0) (v := x1) ?_ ?_; rotate_left; intro hx; clear_value x1; rotate_left; unfold x1; clear x1) | clear_value x1) | assumption | exact Within.refl _ | exact ‹Avoids _ _›.mono (by decide) | apply State.bumpSat_keeps | apply State.encEvent_keeps | apply State.raise_keeps | apply State.setEnc_keeps | apply State.setInt_keeps | apply Within.ite

theorem State.indexLatch_keeps {s0 s : State} (h : Within parts s0 s) {n : Nat}
    (hm : Avoids parts 67109260 := by exact ‹Avoids _ _›.mono (by decide)) :
    Within parts s0 (State.indexLatch s n) := by
  unfold State.indexLatch
  with_reducible repeat' first | (extract_lets +onlyGivenNames x1; first | (refine Within.cut (m := parts) (s0 := s0) (v := x1) ?_ ?_; rotate_left; intro hx; clear_value x1; rotate_left; unfold x1; clear x1) | clear_value x1) | assumption | exact Within.refl _ | exact ‹Avoids _ _›.mono (by decide) | apply State.encEvent_keeps | apply State.raise_keeps | apply State.set_keeps | apply State.setEnc_keeps

theorem State.indexPulse_keeps {s0 s : State} (h : Within parts s0 s) {n : Nat}
    (hm : Avoids parts 67109260 := by exact ‹Avoids _ _›.mono (by decide)) :
    Within parts s0 (State.indexPulse s n) := by
  unfold State.indexPulse
  with_reducible repeat' first | assumption | exact Within.refl _ | exact ‹Avoids _ _›.mono (by decide) | apply State.clear_keeps | apply State.indexLatch_keeps | apply State.lineCount_keeps | apply Within.ite | split

theorem State.encCount_keeps {s0 s : State} (h : Within parts s0 s) {n : Nat} {old : EncChan}
    (hm : Avoids parts 67109772 := by exact ‹Avoids _ _›.mono (by decide)) :
    Within parts s0 (State.encCount s n old) := by
  unfold State.encCount
  with_reducible repeat' first | (extract_lets +onlyGivenNames x1; first | (refine Within.cut (m := parts) (s0 := s0) (v := x1) ?_ ?_; rotate_left; intro hx; clear_value x1; rotate_left; unfold x1; clear x1) | clear_value x1) | assumption | exact Within.refl _ | exact ‹Avoids _ _›.mono (by decide) | apply State.countedEdge_keeps | apply State.illegalEdge_keeps | apply State.setEnc_keeps | apply Within.ite | split

theorem State.encSample_keeps {s0 s : State} (h : Within parts s0 s) {n : Nat} {old : EncChan}
    (hm : Avoids parts 67109772 := by exact ‹Avoids _ _›.mono (by decide)) :
    Within parts s0 (State.encSample s n old) := by
  unfold State.encSample
  with_reducible repeat' first | (extract_lets +onlyGivenNames x1; first | (refine Within.cut (m := parts) (s0 := s0) (v := x1) ?_ ?_; rotate_left; intro hx; clear_value x1; rotate_left; unfold x1; clear x1) | clear_value x1) | assumption | exact Within.refl _ | exact ‹Avoids _ _›.mono (by decide) | apply State.encCount_keeps | apply State.indexPulse_keeps | apply Within.ite

theorem State.encReference_keeps {s0 s : State} (h : Within parts s0 s)
    (hm : Avoids parts 256 := by exact ‹Avoids _ _›.mono (by decide)) :
    Within parts s0 (State.encReference s) := by
  unfold State.encReference
  with_reducible repeat' first | intro _ | assumption | exact Within.refl _ | exact ‹Avoids _ _›.mono (by decide) | apply State.forEach_keeps | apply State.setEnc_keeps | apply Within.ite

theorem execEncInputChange_keeps {s : State} {n : Fin 8} {pin : EncPin} {level : Bool}
    (hm : Avoids parts 1073742080 := by exact ‹Avoids _ _›.mono (by decide)) : EKeeps parts s (execEncInputChange n pin level s) := by
  have h : Within parts s s := .refl s
  unfold execEncInputChange
  with_reducible repeat' first | (extract_lets +onlyGivenNames x1; first | (refine Within.cut (m := parts) (s0 := s) (v := x1) ?_ ?_; rotate_left; intro hx; clear_value x1; rotate_left; unfold x1; clear x1) | (have g : Sward := x1; clear g) | clear_value x1) | assumption | exact Within.refl _ | exact ‹Avoids _ _›.mono (by decide) | apply State.passThrough_keeps | apply State.setEnc_keeps | split | apply EKeeps.next | apply EKeeps.ite

theorem execFilterAccept_keeps {s : State} {n : Fin 8} {a : Bool} {b : Bool} {z : Bool}
    (hm : Avoids parts 1140851596 := by exact ‹Avoids _ _›.mono (by decide)) : EKeeps parts s (execFilterAccept n a b z s) := by
  have h : Within parts s s := .refl s
  unfold execFilterAccept
  with_reducible repeat' first | (extract_lets +onlyGivenNames x1; first | (refine Within.cut (m := parts) (s0 := s) (v := x1) ?_ ?_; rotate_left; intro hx; clear_value x1; rotate_left; unfold x1; clear x1) | clear_value x1) | assumption | exact Within.refl _ | exact ‹Avoids _ _›.mono (by decide) | apply State.encSample_keeps | apply State.passThrough_keeps | apply State.setEnc_keeps | apply Within.ite | apply EKeeps.next | apply EKeeps.ite

theorem State.newSpeedWindow_keeps {s0 s : State} (h : Within parts s0 s) {n : Nat} {old : State}
    (hm : Avoids parts 776 := by exact ‹Avoids _ _›.mono (by decide)) :
    Within parts s0 (State.newSpeedWindow s n old) := by
  unfold State.newSpeedWindow
  with_reducible repeat' first | (extract_lets +onlyGivenNames x1; first | (refine Within.cut (m := parts) (s0 := s0) (v := x1) ?_ ?_; rotate_left; intro hx; clear_value x1; rotate_left; unfold x1; clear x1) | clear_value x1) | assumption | exact Within.refl _ | exact ‹Avoids _ _›.mono (by decide) | apply State.encEstimate_keeps | apply State.clear_keeps | apply State.setEnc_keeps

theorem State.indexArm_keeps {s0 s : State} (h : Within parts s0 s) {n : Nat}
    (hm : Avoids parts 8 := by exact ‹Avoids _ _›.mono (by decide)) :
    Within parts s0 (State.indexArm s n) := by
  unfold State.indexArm
  with_reducible repeat' first | assumption | exact Within.refl _ | exact ‹Avoids _ _›.mono (by decide) | apply State.raise_keeps | apply Within.ite

theorem State.encEnable_keeps {s0 s : State} (h : Within parts s0 s) {n : Nat} {en : Bool}
    (hm : Avoids parts 1182794700 := by exact ‹Avoids _ _›.mono (by decide)) :
    Within parts s0 (State.encEnable s n en) := by
  unfold State.encEnable
  with_reducible repeat' first | (extract_lets +onlyGivenNames x1; first | (refine Within.cut (m := parts) (s0 := s0) (v := x1) ?_ ?_; rotate_left; intro hx; clear_value x1; rotate_left; unfold x1; clear x1) | clear_value x1) | assumption | exact Within.refl _ | exact ‹Avoids _ _›.mono (by decide) | apply State.newSpeedWindow_keeps | apply State.setEnc_keeps | apply State.unitStartNow_keeps | apply State.unitStopNow_keeps | apply Within.ite

theorem execEncCtrlWrite_keeps {s : State} {who : Who} {n : Fin 8} {v : Word}
    (hm : Avoids parts 1182794700 := by exact ‹Avoids _ _›.mono (by decide)) : EKeeps parts s (execEncCtrlWrite who n v s) := by
  have h : Within parts s s := .refl s
  unfold execEncCtrlWrite
  with_reducible repeat' first | intro _ | (extract_lets +onlyGivenNames x1; first | (refine Within.cut (m := parts) (s0 := s) (v := x1) ?_ ?_; rotate_left; intro hx; clear_value x1; rotate_left; unfold x1; clear x1) | clear_value x1) | assumption | exact Within.refl _ | exact ‹Avoids _ _›.mono (by decide) | apply State.encEnable_keeps | apply State.indexArm_keeps | apply State.raise_keeps | apply State.setEnc_keeps | apply State.set_keeps | apply State.viaBus_keeps | apply State.writeReg_keeps | apply Within.ite | apply EKeeps.next | apply EKeeps.ite

theorem execIndexArm_keeps {s : State} {who : Who} {n : Fin 8}
    (hm : Avoids parts 1082130568 := by exact ‹Avoids _ _›.mono (by decide)) : EKeeps parts s (execIndexArm who n s) := by
  have h : Within parts s s := .refl s
  unfold execIndexArm
  with_reducible repeat' first | intro _ | assumption | exact Within.refl _ | exact ‹Avoids _ _›.mono (by decide) | apply State.indexArm_keeps | apply State.viaBus_keeps | apply EKeeps.next | apply EKeeps.ite

theorem execSpeedWindowWrite_keeps {s : State} {who : Who} {n : Fin 8} {v : Word}
    (hm : Avoids parts 1082131336 := by exact ‹Avoids _ _›.mono (by decide)) : EKeeps parts s (execSpeedWindowWrite who n v s) := by
  have h : Within parts s s := .refl s
  unfold execSpeedWindowWrite
  with_reducible repeat' first | intro _ | assumption | exact Within.refl _ | exact ‹Avoids _ _›.mono (by decide) | apply State.newSpeedWindow_keeps | apply State.set_keeps | apply State.viaBus_keeps | apply EKeeps.next | apply EKeeps.ite

theorem execSpeedWindowEnd_keeps {s : State} {n : Fin 8}
    (hm : Avoids parts 776 := by exact ‹Avoids _ _›.mono (by decide)) : EKeeps parts s (execSpeedWindowEnd n s) := by
  have h : Within parts s s := .refl s
  unfold execSpeedWindowEnd
  with_reducible repeat' first | (extract_lets +onlyGivenNames x1; first | (refine Within.cut (m := parts) (s0 := s) (v := x1) ?_ ?_; rotate_left; intro hx; clear_value x1; rotate_left; unfold x1; clear x1) | clear_value x1) | assumption | exact Within.refl _ | exact ‹Avoids _ _›.mono (by decide) | apply State.encEstimate_keeps | apply State.raise_keeps | apply State.set_keeps | apply State.setEnc_keeps | apply State.setInt_keeps | apply Within.ite | apply EKeeps.next | apply EKeeps.ite

theorem execLastIntervalSaturate_keeps {s : State} {n : Fin 8}
    (hm : Avoids parts 520 := by exact ‹Avoids _ _›.mono (by decide)) : EKeeps parts s (execLastIntervalSaturate n s) := by
  have h : Within parts s s := .refl s
  unfold execLastIntervalSaturate
  with_reducible repeat' first | assumption | exact Within.refl _ | exact ‹Avoids _ _›.mono (by decide) | apply State.encEstimate_keeps | apply State.set_keeps | apply Within.ite | apply EKeeps.next | apply EKeeps.ite

theorem State.ssiDiscard_keeps {s0 s : State} (h : Within parts s0 s) {m : Nat} {f : Fld} {bit : Nat}
    (hm : Avoids parts 67109516 := by exact ‹Avoids _ _›.mono (by decide)) :
    Within parts s0 (State.ssiDiscard s m f bit) := by
  unfold State.ssiDiscard
  with_reducible repeat' first | assumption | exact Within.refl _ | exact ‹Avoids _ _›.mono (by decide) | apply State.bumpSat_keeps | apply State.inputMiss_keeps | apply State.publish_keeps | apply State.raise_keeps

theorem State.ssiDue_keeps {s0 s : State} (h : Within parts s0 s) {m : Nat}
    (hm : Avoids parts 264 := by exact ‹Avoids _ _›.mono (by decide)) :
    Within parts s0 (State.ssiDue s m) := by
  unfold State.ssiDue
  with_reducible repeat' first | (extract_lets +onlyGivenNames x1; first | (refine Within.cut (m := parts) (s0 := s0) (v := x1) ?_ ?_; rotate_left; intro hx; clear_value x1; rotate_left; unfold x1; clear x1) | clear_value x1) | assumption | exact Within.refl _ | exact ‹Avoids _ _›.mono (by decide) | apply State.raise_keeps | apply State.setSsi_keeps | apply Within.ite

theorem execSsiReadDue_keeps {s : State} {m : Fin 4}
    (hm : Avoids parts 264 := by exact ‹Avoids _ _›.mono (by decide)) : EKeeps parts s (execSsiReadDue m s) := by
  have h : Within parts s s := .refl s
  unfold execSsiReadDue
  with_reducible repeat' first | assumption | exact Within.refl _ | exact ‹Avoids _ _›.mono (by decide) | apply State.ssiDue_keeps | apply Within.ite | apply EKeeps.next | apply EKeeps.ite

theorem execSsiReadStart_keeps {s : State} {m : Fin 4} {dataHigh : Bool}
    (hm : Avoids parts 1140851596 := by exact ‹Avoids _ _›.mono (by decide)) : EKeeps parts s (execSsiReadStart m dataHigh s) := by
  have h : Within parts s s := .refl s
  unfold execSsiReadStart
  with_reducible repeat' first | (extract_lets +onlyGivenNames x1; first | (refine Within.cut (m := parts) (s0 := s) (v := x1) ?_ ?_; rotate_left; intro hx; clear_value x1; rotate_left; unfold x1; clear x1) | clear_value x1) | assumption | exact Within.refl _ | exact ‹Avoids _ _›.mono (by decide) | apply State.emit_keeps | apply State.setSsi_keeps | apply State.ssiDiscard_keeps | apply Within.ite | apply EKeeps.next | apply EKeeps.ite

theorem State.ssiShow_keeps {s0 s : State} (h : Within parts s0 s) {m : Nat} {value : Nat} {count : Nat}
    (hm : Avoids parts 264 := by exact ‹Avoids _ _›.mono (by decide)) :
    Within parts s0 (State.ssiShow s m value count) := by
  unfold State.ssiShow
  with_reducible repeat' first | assumption | exact Within.refl _ | exact ‹Avoids _ _›.mono (by decide) | apply State.set_keeps | apply State.setSsi_keeps

theorem State.ssiValue_keeps {s0 s : State} (h : Within parts s0 s) {m : Nat} {v : Nat}
    (hm : Avoids parts 67109772 := by exact ‹Avoids _ _›.mono (by decide)) :
    Within parts s0 (State.ssiValue s m v) := by
  unfold State.ssiValue
  with_reducible repeat' first | (extract_lets +onlyGivenNames x1; first | (refine Within.cut (m := parts) (s0 := s0) (v := x1) ?_ ?_; rotate_left; intro hx; clear_value x1; rotate_left; unfold x1; clear x1) | clear_value x1) | assumption | exact Within.refl _ | exact ‹Avoids _ _›.mono (by decide) | apply State.raise_keeps | apply State.setSsi_keeps | apply State.ssiDiscard_keeps | apply State.ssiInput_keeps | apply State.ssiShow_keeps | apply Within.ite | split

theorem execSsiReadDone_keeps {s : State} {m : Fin 4} {bits : Nat}
    (hm : Avoids parts 67109772 := by exact ‹Avoids _ _›.mono (by decide)) : EKeeps parts s (execSsiReadDone m bits s) := by
  have h : Within parts s s := .refl s
  unfold execSsiReadDone
  with_reducible repeat' first | (extract_lets +onlyGivenNames x1; first | (refine Within.cut (m := parts) (s0 := s) (v := x1) ?_ ?_; rotate_left; intro hx; clear_value x1; rotate_left; unfold x1; clear x1) | clear_value x1) | assumption | exact Within.refl _ | exact ‹Avoids _ _›.mono (by decide) | apply State.setSsi_keeps | apply State.ssiDiscard_keeps | apply State.ssiValue_keeps | apply Within.ite | apply EKeeps.next | apply EKeeps.ite

theorem execSsiCtrlWrite_keeps {s : State} {who : Who} {m : Fin 4} {v : Word}
    (hm : Avoids parts 1082130824 := by exact ‹Avoids _ _›.mono (by decide)) : EKeeps parts s (execSsiCtrlWrite who m v s) := by
  have h : Within parts s s := .refl s
  unfold execSsiCtrlWrite
  with_reducible repeat' first | intro _ | (extract_lets +onlyGivenNames x1; first | (refine Within.cut (m := parts) (s0 := s) (v := x1) ?_ ?_; rotate_left; intro hx; clear_value x1; rotate_left; unfold x1; clear x1) | clear_value x1) | assumption | exact Within.refl _ | exact ‹Avoids _ _›.mono (by decide) | apply State.clear_keeps | apply State.holdSelector_keeps | apply State.noteSelector_keeps | apply State.raise_keeps | apply State.setSsi_keeps | apply State.viaBus_keeps | apply State.writeReg_keeps | apply Within.ite | apply EKeeps.next | apply EKeeps.ite

theorem State.ssiClkWrite_keeps {s0 s : State} (h : Within parts s0 s) {m : Nat} {v : Word}
    (hm : Avoids parts 8 := by exact ‹Avoids _ _›.mono (by decide)) :
    Within parts s0 (State.ssiClkWrite s m v) := by
  unfold State.ssiClkWrite
  with_reducible repeat' first | assumption | exact Within.refl _ | exact ‹Avoids _ _›.mono (by decide) | apply State.set_keeps

theorem State.deliverSsi_keeps {s0 s : State} (h : Within parts s0 s) {e : Event}
    (hm : Avoids parts 67109128 := by exact ‹Avoids _ _›.mono (by decide)) :
    Within parts s0 (State.deliverSsi s e) := by
  unfold State.deliverSsi
  with_reducible repeat' first | intro _ | assumption | exact Within.refl _ | exact ‹Avoids _ _›.mono (by decide) | apply State.forEach_keeps | apply State.guardViol_keeps | apply State.ssiDue_keeps | apply Within.ite

theorem State.swAccept_keeps {s0 s : State} (h : Within parts s0 s) {k : Nat} {level : Bool}
    (hm : Avoids parts 67109004 := by exact ‹Avoids _ _›.mono (by decide)) :
    Within parts s0 (State.swAccept s k level) := by
  unfold State.swAccept
  with_reducible repeat' first | (extract_lets +onlyGivenNames x1; first | (refine Within.cut (m := parts) (s0 := s0) (v := x1) ?_ ?_; rotate_left; intro hx; clear_value x1; rotate_left; unfold x1; clear x1) | clear_value x1) | assumption | exact Within.refl _ | exact ‹Avoids _ _›.mono (by decide) | apply State.bumpSat_keeps | apply State.publish_keeps | apply State.raise_keeps | apply State.setFlag_keeps | apply Within.ite

theorem State.swChange_keeps {s0 s : State} (h : Within parts s0 s) {k : Nat} {level : Bool}
    (hm : Avoids parts 67109260 := by exact ‹Avoids _ _›.mono (by decide)) :
    Within parts s0 (State.swChange s k level) := by
  unfold State.swChange
  with_reducible repeat' first | (extract_lets +onlyGivenNames x1; first | (refine Within.cut (m := parts) (s0 := s0) (v := x1) ?_ ?_; rotate_left; intro hx; clear_value x1; rotate_left; unfold x1; clear x1) | clear_value x1) | assumption | exact Within.refl _ | exact ‹Avoids _ _›.mono (by decide) | apply State.setSw_keeps | apply State.swAccept_keeps | apply Within.ite

theorem execSwInputChange_keeps {s : State} {k : Fin 32} {level : Bool}
    (hm : Avoids parts 67109260 := by exact ‹Avoids _ _›.mono (by decide)) : EKeeps parts s (execSwInputChange k level s) := by
  have h : Within parts s s := .refl s
  unfold execSwInputChange
  with_reducible repeat' first | (extract_lets +onlyGivenNames x1; first | (refine Within.cut (m := parts) (s0 := s) (v := x1) ?_ ?_; rotate_left; intro hx; clear_value x1; rotate_left; unfold x1; clear x1) | (have g : Sward := x1; clear g) | clear_value x1) | assumption | exact Within.refl _ | exact ‹Avoids _ _›.mono (by decide) | apply State.swChange_keeps | exact rfl | apply Within.upd_swd | apply EKeeps.next | apply EKeeps.ite

theorem execDebounceExpire_keeps {s : State} {k : Fin 32}
    (hm : Avoids parts 67109260 := by exact ‹Avoids _ _›.mono (by decide)) : EKeeps parts s (execDebounceExpire k s) := by
  have h : Within parts s s := .refl s
  unfold execDebounceExpire
  with_reducible repeat' first | (extract_lets +onlyGivenNames x1; first | (refine Within.cut (m := parts) (s0 := s) (v := x1) ?_ ?_; rotate_left; intro hx; clear_value x1; rotate_left; unfold x1; clear x1) | clear_value x1) | assumption | exact Within.refl _ | exact ‹Avoids _ _›.mono (by decide) | apply State.setSw_keeps | apply State.swAccept_keeps | apply Within.ite | apply EKeeps.next | apply EKeeps.ite

theorem State.swSample_keeps {s0 s : State} (h : Within parts s0 s) {k : Nat}
    (hm : Avoids parts 67109260 := by exact ‹Avoids _ _›.mono (by decide)) :
    Within parts s0 (State.swSample s k) := by
  unfold State.swSample
  with_reducible repeat' first | assumption | exact Within.refl _ | exact ‹Avoids _ _›.mono (by decide) | apply State.swChange_keeps

theorem execSwCtrlWrite_keeps {s : State} {who : Who} {k : Fin 32} {v : Word}
    (hm : Avoids parts 1149239692 := by exact ‹Avoids _ _›.mono (by decide)) : EKeeps parts s (execSwCtrlWrite who k v s) := by
  have h : Within parts s s := .refl s
  unfold execSwCtrlWrite
  with_reducible repeat' first | intro _ | (extract_lets +onlyGivenNames x1; first | (refine Within.cut (m := parts) (s0 := s) (v := x1) ?_ ?_; rotate_left; intro hx; clear_value x1; rotate_left; unfold x1; clear x1) | clear_value x1) | assumption | exact Within.refl _ | exact ‹Avoids _ _›.mono (by decide) | apply State.forEach_keeps | apply State.outRelease_keeps | apply State.raise_keeps | apply State.setSw_keeps | apply State.swSample_keeps | apply State.viaBus_keeps | apply State.writeReg_keeps | apply Within.ite | apply EKeeps.next | apply EKeeps.ite

end Sys2Proof.Machine
end

