-- ==== Sys2Proof/Laws/KeepsStation.lean ====
section
/-!
SUPPORT. The operations of Machine/Station.lean keep what every step keeps.
-/
set_option Elab.async false
namespace Sys2Proof.Machine

set_option linter.tactic.unusedName false

variable {parts : Nat}

theorem State.stationWrite_keeps {s0 s : State} (h : Within parts s0 s) {who : Who} {f : State → State} (h_f : ∀  t, Within parts s0 t → Within parts s0 (f  t))
    (hm : Avoids parts 8 := by exact ‹Avoids _ _›.mono (by decide)) :
    Within parts s0 (State.stationWrite s who f) := by
  unfold State.stationWrite
  with_reducible repeat' first | intro _ | assumption | exact Within.refl _ | exact ‹Avoids _ _›.mono (by decide) | apply State.raise_keeps | apply h_f | apply Within.ite

theorem State.timeTick_keeps {s0 s : State} (h : Within parts s0 s) 
    (hm : Avoids parts 2 := by exact ‹Avoids _ _›.mono (by decide)) :
    Within parts s0 (State.timeTick s) := by
  unfold State.timeTick
  with_reducible repeat' first | (extract_lets +onlyGivenNames x1; first | (refine Within.cut (m := parts) (s0 := s0) (v := x1) ?_ ?_; rotate_left; intro hx; clear_value x1; rotate_left; unfold x1; clear x1) | clear_value x1) | assumption | exact Within.refl _ | exact ‹Avoids _ _›.mono (by decide) | exact rfl | apply Within.upd_timeNs_timeFrac | apply Within.upd_timeNs | apply Within.upd_timeFrac

theorem State.timeChange_keeps {s0 s : State} (h : Within parts s0 s) {st : Nat} {step : Bool}
    (hm : Avoids parts 67109004 := by exact ‹Avoids _ _›.mono (by decide)) :
    Within parts s0 (State.timeChange s st step) := by
  unfold State.timeChange
  with_reducible repeat' first | assumption | exact Within.refl _ | exact ‹Avoids _ _›.mono (by decide) | apply State.publish_keeps | apply State.raise_keeps | apply State.set_keeps

theorem State.setRate_keeps {s0 s : State} (h : Within parts s0 s) {r : Int}
    (hm : Avoids parts 1032 := by exact ‹Avoids _ _›.mono (by decide)) :
    Within parts s0 (State.setRate s r) := by
  unfold State.setRate
  with_reducible repeat' first | (extract_lets +onlyGivenNames x1; first | (refine Within.cut (m := parts) (s0 := s0) (v := x1) ?_ ?_; rotate_left; intro hx; clear_value x1; rotate_left; unfold x1; clear x1) | clear_value x1) | assumption | exact Within.refl _ | exact ‹Avoids _ _›.mono (by decide) | apply State.set2_keeps | exact rfl | apply Within.upd_net

theorem State.publishMap_keeps {s0 s : State} (h : Within parts s0 s) {i : Nat} {param : Nat}
    (hm : Avoids parts 67109004 := by exact ‹Avoids _ _›.mono (by decide)) :
    Within parts s0 (State.publishMap s i param) := by
  unfold State.publishMap
  with_reducible repeat' first | assumption | exact Within.refl _ | exact ‹Avoids _ _›.mono (by decide) | apply State.publish_keeps

theorem State.lateEvent_keeps {s0 s : State} (h : Within parts s0 s) {i : Nat} {param : Nat}
    (hm : Avoids parts 67109004 := by exact ‹Avoids _ _›.mono (by decide)) :
    Within parts s0 (State.lateEvent s i param) := by
  unfold State.lateEvent
  with_reducible repeat' first | assumption | exact Within.refl _ | exact ‹Avoids _ _›.mono (by decide) | apply State.bumpSat_keeps | apply State.publishMap_keeps | apply Within.ite

theorem State.dropCrossed_keeps {s0 s : State} (h : Within parts s0 s) 
    (hm : Avoids parts 67110028 := by exact ‹Avoids _ _›.mono (by decide)) :
    Within parts s0 (State.dropCrossed s) := by
  unfold State.dropCrossed
  with_reducible repeat' first | intro _ | (extract_lets +onlyGivenNames x1; first | (refine Within.cut (m := parts) (s0 := s0) (v := x1) ?_ ?_; rotate_left; intro hx; clear_value x1; rotate_left; unfold x1; clear x1) | clear_value x1) | assumption | exact Within.refl _ | exact ‹Avoids _ _›.mono (by decide) | apply State.forList_keeps | apply State.lateEvent_keeps | exact rfl | apply Within.upd_net

theorem State.timeStep_keeps {s0 s : State} (h : Within parts s0 s) {ns : Int}
    (hm : Avoids parts 67110030 := by exact ‹Avoids _ _›.mono (by decide)) :
    Within parts s0 (State.timeStep s ns) := by
  unfold State.timeStep
  with_reducible repeat' first | (extract_lets +onlyGivenNames x1; first | (refine Within.cut (m := parts) (s0 := s0) (v := x1) ?_ ?_; rotate_left; intro hx; clear_value x1; rotate_left; unfold x1; clear x1) | clear_value x1) | assumption | exact Within.refl _ | exact ‹Avoids _ _›.mono (by decide) | apply State.dropCrossed_keeps | apply State.raise_keeps | apply State.set_keeps | exact rfl | apply Within.upd_timeNs

theorem State.freshSteering_keeps {s0 s : State} (h : Within parts s0 s) 
    (hm : Avoids parts 1024 := by exact ‹Avoids _ _›.mono (by decide)) :
    Within parts s0 (State.freshSteering s) := by
  unfold State.freshSteering
  with_reducible repeat' first | assumption | exact Within.refl _ | exact ‹Avoids _ _›.mono (by decide) | exact rfl | apply Within.upd_net

theorem State.timeFree_keeps {s0 s : State} (h : Within parts s0 s) {restep : Bool}
    (hm : Avoids parts 67110028 := by exact ‹Avoids _ _›.mono (by decide)) :
    Within parts s0 (State.timeFree s restep) := by
  unfold State.timeFree
  with_reducible repeat' first | (extract_lets +onlyGivenNames x1; first | (refine Within.cut (m := parts) (s0 := s0) (v := x1) ?_ ?_; rotate_left; intro hx; clear_value x1; rotate_left; unfold x1; clear x1) | clear_value x1) | assumption | exact Within.refl _ | exact ‹Avoids _ _›.mono (by decide) | apply State.clear_keeps | apply State.freshSteering_keeps | apply State.timeChange_keeps | apply Within.ite

theorem State.timeLoss_keeps {s0 s : State} (h : Within parts s0 s) {gone : Bool}
    (hm : Avoids parts 67110028 := by exact ‹Avoids _ _›.mono (by decide)) :
    Within parts s0 (State.timeLoss s gone) := by
  unfold State.timeLoss
  with_reducible repeat' first | (extract_lets +onlyGivenNames x1; first | (refine Within.cut (m := parts) (s0 := s0) (v := x1) ?_ ?_; rotate_left; intro hx; clear_value x1; rotate_left; unfold x1; clear x1) | clear_value x1) | assumption | exact Within.refl _ | exact ‹Avoids _ _›.mono (by decide) | apply State.freshSteering_keeps | apply State.timeChange_keeps | apply Within.ite | split

theorem State.timeSkepHalt_keeps {s0 s : State} (h : Within parts s0 s) 
    (hm : Avoids parts 67110028 := by exact ‹Avoids _ _›.mono (by decide)) :
    Within parts s0 (State.timeSkepHalt s) := by
  unfold State.timeSkepHalt
  with_reducible repeat' first | assumption | exact Within.refl _ | exact ‹Avoids _ _›.mono (by decide) | apply State.timeChange_keeps | apply State.timeLoss_keeps | apply Within.ite

theorem execRateAdjWrite_keeps {s : State} {who : Who} {v : Word}
    (hm : Avoids parts 1082131592 := by exact ‹Avoids _ _›.mono (by decide)) : EKeeps parts s (execRateAdjWrite who v s) := by
  have h : Within parts s s := .refl s
  unfold execRateAdjWrite
  with_reducible repeat' first | intro _ | assumption | exact Within.refl _ | exact ‹Avoids _ _›.mono (by decide) | apply State.setRate_keeps | apply State.stationWrite_keeps | apply State.viaBus_keeps | apply Within.ite | apply EKeeps.next | apply EKeeps.ite

theorem execTimeStepWrite_keeps {s : State} {who : Who} {v : Word}
    (hm : Avoids parts 1149240462 := by exact ‹Avoids _ _›.mono (by decide)) : EKeeps parts s (execTimeStepWrite who v s) := by
  have h : Within parts s s := .refl s
  unfold execTimeStepWrite
  with_reducible repeat' first | intro _ | assumption | exact Within.refl _ | exact ‹Avoids _ _›.mono (by decide) | apply State.stationWrite_keeps | apply State.timeStep_keeps | apply State.viaBus_keeps | apply Within.ite | apply EKeeps.next | apply EKeeps.ite

theorem execRestep_keeps {s : State} {who : Who}
    (hm : Avoids parts 1149240460 := by exact ‹Avoids _ _›.mono (by decide)) : EKeeps parts s (execRestep who s) := by
  have h : Within parts s s := .refl s
  unfold execRestep
  with_reducible repeat' first | intro _ | assumption | exact Within.refl _ | exact ‹Avoids _ _›.mono (by decide) | apply State.stationWrite_keeps | apply State.timeFree_keeps | apply State.viaBus_keeps | apply EKeeps.next | apply EKeeps.ite

theorem State.ethLatency_keeps {s0 s : State} (h : Within parts s0 s) {p : Nat}
    (hm : Avoids parts 8 := by exact ‹Avoids _ _›.mono (by decide)) :
    Within parts s0 (State.ethLatency s p) := by
  unfold State.ethLatency
  with_reducible repeat' first | assumption | exact Within.refl _ | exact ‹Avoids _ _›.mono (by decide) | apply State.set_keeps | apply Within.ite

theorem State.dropMaster_keeps {s0 s : State} (h : Within parts s0 s)
    (hm : Avoids parts 1024 := by exact ‹Avoids _ _›.mono (by decide)) :
    Within parts s0 (State.dropMaster s) := by
  unfold State.dropMaster
  with_reducible repeat' first | assumption | exact Within.refl _ | exact ‹Avoids _ _›.mono (by decide) | exact rfl | apply Within.upd_net

theorem State.setPtpPort_keeps {s0 s : State} (h : Within parts s0 s)
    (hm : Avoids parts 1032 := by exact ‹Avoids _ _›.mono (by decide)) :
    Within parts s0 (State.setPtpPort s) := by
  unfold State.setPtpPort
  with_reducible repeat' first | assumption | exact Within.refl _ | exact ‹Avoids _ _›.mono (by decide) | apply State.dropMaster_keeps | apply State.set_keeps | apply Within.ite | split

theorem State.ptpPortUpdate_keeps {s0 s : State} (h : Within parts s0 s)
    (hm : Avoids parts 67110028 := by exact ‹Avoids _ _›.mono (by decide)) :
    Within parts s0 (State.ptpPortUpdate s) := by
  unfold State.ptpPortUpdate
  with_reducible repeat' first | (extract_lets +onlyGivenNames x1; first | (refine Within.cut (m := parts) (s0 := s0) (v := x1) ?_ ?_; rotate_left; intro hx; clear_value x1; rotate_left; unfold x1; clear x1) | clear_value x1) | assumption | exact Within.refl _ | exact ‹Avoids _ _›.mono (by decide) | apply State.setPtpPort_keeps | apply State.timeLoss_keeps | apply Within.ite

theorem execTimeModeWrite_keeps {s : State} {who : Who} {v : Word}
    (hm : Avoids parts 1149240460 := by exact ‹Avoids _ _›.mono (by decide)) : EKeeps parts s (execTimeModeWrite who v s) := by
  have h : Within parts s s := .refl s
  unfold execTimeModeWrite
  with_reducible repeat' first | intro _ | assumption | exact Within.refl _ | exact ‹Avoids _ _›.mono (by decide) | apply State.dropMaster_keeps | apply State.setPtpPort_keeps | apply State.stationWrite_keeps | apply State.timeFree_keeps | apply State.viaBus_keeps | apply State.writeReg_keeps | apply EKeeps.next | apply EKeeps.ite

theorem State.ethLink_keeps {s0 s : State} (h : Within parts s0 s) {p : Nat} {up : Bool}
    (hm : Avoids parts 67110028 := by exact ‹Avoids _ _›.mono (by decide)) :
    Within parts s0 (State.ethLink s p up) := by
  unfold State.ethLink
  with_reducible repeat' first | (extract_lets +onlyGivenNames x1; first | (refine Within.cut (m := parts) (s0 := s0) (v := x1) ?_ ?_; rotate_left; intro hx; clear_value x1; rotate_left; unfold x1; clear x1) | clear_value x1) | assumption | exact Within.refl _ | exact ‹Avoids _ _›.mono (by decide) | apply State.ptpPortUpdate_keeps | apply State.publish_keeps | apply State.raise_keeps | apply State.setFlag_keeps | exact rfl | apply Within.ite | apply Within.upd_net

theorem execEthCtrlWrite_keeps {s : State} {who : Who} {p : Fin 4} {v : Word}
    (hm : Avoids parts 1149240460 := by exact ‹Avoids _ _›.mono (by decide)) : EKeeps parts s (execEthCtrlWrite who p v s) := by
  have h : Within parts s s := .refl s
  unfold execEthCtrlWrite
  with_reducible repeat' first | intro _ | (extract_lets +onlyGivenNames x1; first | (refine Within.cut (m := parts) (s0 := s) (v := x1) ?_ ?_; rotate_left; intro hx; clear_value x1; rotate_left; unfold x1; clear x1) | clear_value x1) | assumption | exact Within.refl _ | exact ‹Avoids _ _›.mono (by decide) | apply State.clear_keeps | apply State.ethLatency_keeps | apply State.ethLink_keeps | apply State.raise_keeps | apply State.set_keeps | apply State.stationWrite_keeps | apply State.viaBus_keeps | apply State.writeReg_keeps | apply Within.ite | apply EKeeps.next | apply EKeeps.ite

theorem execEthLinkChange_keeps {s : State} {p : Fin 4} {up : Bool}
    (hm : Avoids parts 67110028 := by exact ‹Avoids _ _›.mono (by decide)) : EKeeps parts s (execEthLinkChange p up s) := by
  have h : Within parts s s := .refl s
  unfold execEthLinkChange
  with_reducible repeat' first | assumption | exact Within.refl _ | exact ‹Avoids _ _›.mono (by decide) | apply State.ethLink_keeps | apply Within.ite | apply EKeeps.next | apply EKeeps.ite

theorem State.staFrame_keeps {s0 s : State} (h : Within parts s0 s) {p : Nat} {f : EthFrame}
    (hm : Avoids parts 1032 := by exact ‹Avoids _ _›.mono (by decide)) :
    Within parts s0 (State.staFrame s p f) := by
  unfold State.staFrame
  with_reducible repeat' first | (extract_lets +onlyGivenNames x1; first | (refine Within.cut (m := parts) (s0 := s0) (v := x1) ?_ ?_; rotate_left; intro hx; clear_value x1; rotate_left; unfold x1; clear x1) | clear_value x1) | assumption | exact Within.refl _ | exact ‹Avoids _ _›.mono (by decide) | apply State.bumpSat_keeps | apply State.raise_keeps | apply Within.ite | exact rfl | apply Within.upd_net

theorem State.ethOwn_keeps {s0 s : State} (h : Within parts s0 s) {p : Nat} {f : EthFrame}
    (hm : Avoids parts 1032 := by exact ‹Avoids _ _›.mono (by decide)) :
    Within parts s0 (State.ethOwn s p f) := by
  unfold State.ethOwn
  with_reducible repeat' first | (extract_lets +onlyGivenNames x1; first | (refine Within.cut (m := parts) (s0 := s0) (v := x1) ?_ ?_; rotate_left; intro hx; clear_value x1; rotate_left; unfold x1; clear x1) | clear_value x1) | assumption | exact Within.refl _ | exact ‹Avoids _ _›.mono (by decide) | apply State.bumpSat_keeps | apply State.bump_keeps | apply State.staFrame_keeps | apply Within.ite

theorem State.ethSend_keeps {s0 s : State} (h : Within parts s0 s) {p : Nat} {o : Out} {f : EthFrame}
    (hm : Avoids parts 1073742856 := by exact ‹Avoids _ _›.mono (by decide)) :
    Within parts s0 (State.ethSend s p o f) := by
  unfold State.ethSend
  with_reducible repeat' first | (extract_lets +onlyGivenNames x1; first | (refine Within.cut (m := parts) (s0 := s0) (v := x1) ?_ ?_; rotate_left; intro hx; clear_value x1; rotate_left; unfold x1; clear x1) | clear_value x1) | assumption | exact Within.refl _ | exact ‹Avoids _ _›.mono (by decide) | apply State.emit_keeps | apply State.ethOwn_keeps | apply Within.ite

theorem State.setEthTx_keeps {s0 s : State} (h : Within parts s0 s) {p : Nat} {x : EthTx}
    (hm : Avoids parts 1024 := by exact ‹Avoids _ _›.mono (by decide)) :
    Within parts s0 (State.setEthTx s p x) := by
  unfold State.setEthTx
  with_reducible repeat' first | assumption | exact Within.refl _ | exact ‹Avoids _ _›.mono (by decide) | exact rfl | apply Within.upd_net

theorem State.ptpEmit_keeps {s0 s : State} (h : Within parts s0 s) {p : Nat} {m : PtpMsg}
    (hm : Avoids parts 1073742856 := by exact ‹Avoids _ _›.mono (by decide)) :
    Within parts s0 (State.ptpEmit s p m) := by
  unfold State.ptpEmit
  with_reducible repeat' first | assumption | exact Within.refl _ | exact ‹Avoids _ _›.mono (by decide) | apply State.ethSend_keeps

theorem State.ptpLeaves_keeps {s0 s : State} (h : Within parts s0 s) {p : Nat} {m : PtpMsg}
    (hm : Avoids parts 1073742856 := by exact ‹Avoids _ _›.mono (by decide)) :
    Within parts s0 (State.ptpLeaves s p m) := by
  unfold State.ptpLeaves
  with_reducible repeat' first | (extract_lets +onlyGivenNames x1; first | (refine Within.cut (m := parts) (s0 := s0) (v := x1) ?_ ?_; rotate_left; intro hx; clear_value x1; rotate_left; unfold x1; clear x1) | clear_value x1) | assumption | exact Within.refl _ | exact ‹Avoids _ _›.mono (by decide) | apply State.ptpEmit_keeps | apply State.setEthTx_keeps | exact rfl | apply Within.ite | split | apply Within.upd_net

theorem State.portServe_keeps {s0 s : State} (h : Within parts s0 s) {p : Nat}
    (hm : Avoids parts 1073742856 := by exact ‹Avoids _ _›.mono (by decide)) :
    Within parts s0 (State.portServe s p) := by
  unfold State.portServe
  with_reducible repeat' first | (extract_lets +onlyGivenNames x1; first | (refine Within.cut (m := parts) (s0 := s0) (v := x1) ?_ ?_; rotate_left; intro hx; clear_value x1; rotate_left; unfold x1; clear x1) | clear_value x1) | assumption | exact Within.refl _ | exact ‹Avoids _ _›.mono (by decide) | apply State.bump_keeps | apply State.ethSend_keeps | apply State.ptpLeaves_keeps | apply State.setEthTx_keeps | apply State.staFrame_keeps | apply Within.ite | split

theorem State.portQueue_keeps {s0 s : State} (h : Within parts s0 s) {p : Nat} {i : TxItem}
    (hm : Avoids parts 1073742856 := by exact ‹Avoids _ _›.mono (by decide)) :
    Within parts s0 (State.portQueue s p i) := by
  unfold State.portQueue
  with_reducible repeat' first | assumption | exact Within.refl _ | exact ‹Avoids _ _›.mono (by decide) | apply State.portServe_keeps | apply State.setEthTx_keeps | apply Within.ite

theorem State.staSendOn_keeps {s0 s : State} (h : Within parts s0 s) {p : Nat} {type : Nat} {da : Nat} {seq : Nat} {body : List Byte}
    (hm : Avoids parts 1073742856 := by exact ‹Avoids _ _›.mono (by decide)) :
    Within parts s0 (State.staSendOn s p type da seq body) := by
  unfold State.staSendOn
  with_reducible repeat' first | assumption | exact Within.refl _ | exact ‹Avoids _ _›.mono (by decide) | apply State.portQueue_keeps

theorem State.staNextSeq_keeps {s0 s : State} (h : Within parts s0 s) {type : Nat}
    (hm : Avoids parts 1024 := by exact ‹Avoids _ _›.mono (by decide)) :
    Within parts s0 (State.staNextSeq s type) := by
  unfold State.staNextSeq
  with_reducible repeat' first | assumption | exact Within.refl _ | exact ‹Avoids _ _›.mono (by decide) | exact rfl | apply Within.upd_net

theorem State.staBroadcast_keeps {s0 s : State} (h : Within parts s0 s) {type : Nat} {body : List Byte}
    (hm : Avoids parts 1073742856 := by exact ‹Avoids _ _›.mono (by decide)) :
    Within parts s0 (State.staBroadcast s type body) := by
  unfold State.staBroadcast
  with_reducible repeat' first | intro _ | (extract_lets +onlyGivenNames x1; first | (refine Within.cut (m := parts) (s0 := s0) (v := x1) ?_ ?_; rotate_left; intro hx; clear_value x1; rotate_left; unfold x1; clear x1) | clear_value x1) | assumption | exact Within.refl _ | exact ‹Avoids _ _›.mono (by decide) | apply State.forEach_keeps | apply State.staNextSeq_keeps | apply State.staSendOn_keeps | apply Within.ite

theorem State.buildPos_keeps {s0 s : State} (h : Within parts s0 s)
    (hm : Avoids parts 1073742856 := by exact ‹Avoids _ _›.mono (by decide)) :
    Within parts s0 (State.buildPos s) := by
  unfold State.buildPos
  with_reducible repeat' first | intro _ | (extract_lets +onlyGivenNames x1; first | (refine Within.cut (m := parts) (s0 := s0) (v := x1) ?_ ?_; rotate_left; intro hx; clear_value x1; rotate_left; unfold x1; clear x1) | clear_value x1) | assumption | exact Within.refl _ | exact ‹Avoids _ _›.mono (by decide) | apply State.staBroadcast_keeps | exact rfl | apply Within.ite | split | apply Within.upd_net

theorem State.ptpSend_keeps {s0 s : State} (h : Within parts s0 s) {p : Nat} {m : PtpMsg}
    (hm : Avoids parts 1073742856 := by exact ‹Avoids _ _›.mono (by decide)) :
    Within parts s0 (State.ptpSend s p m) := by
  unfold State.ptpSend
  with_reducible repeat' first | assumption | exact Within.refl _ | exact ‹Avoids _ _›.mono (by decide) | apply State.portQueue_keeps | exact rfl | apply Within.upd_net

theorem State.delayReqRx_keeps {s0 s : State} (h : Within parts s0 s) {p : Nat} {f : EthFrame}
    (hm : Avoids parts 1073742860 := by exact ‹Avoids _ _›.mono (by decide)) :
    Within parts s0 (State.delayReqRx s p f) := by
  unfold State.delayReqRx
  with_reducible repeat' first | (extract_lets +onlyGivenNames x1; first | (refine Within.cut (m := parts) (s0 := s0) (v := x1) ?_ ?_; rotate_left; intro hx; clear_value x1; rotate_left; unfold x1; clear x1) | clear_value x1) | assumption | exact Within.refl _ | exact ‹Avoids _ _›.mono (by decide) | apply State.portQueue_keeps | apply State.useFree_keeps | apply Within.ite

theorem execEthFrameRx_keeps {s : State} {p : Fin 4} {f : EthFrame}
    (hm : Avoids parts 1073742860 := by exact ‹Avoids _ _›.mono (by decide)) : EKeeps parts s (execEthFrameRx p f s) := by
  have h : Within parts s s := .refl s
  unfold execEthFrameRx
  with_reducible repeat' first | (extract_lets +onlyGivenNames x1; first | (refine Within.cut (m := parts) (s0 := s) (v := x1) ?_ ?_; rotate_left; intro hx; clear_value x1; rotate_left; unfold x1; clear x1) | clear_value x1) | assumption | exact Within.refl _ | exact ‹Avoids _ _›.mono (by decide) | apply State.bumpSat_keeps | apply State.bump_keeps | apply State.delayReqRx_keeps | apply State.emit_keeps | apply State.staFrame_keeps | apply Within.ite | apply EKeeps.next | apply EKeeps.ite

theorem State.inboxTake_keeps {s0 s : State} (h : Within parts s0 s) {type : Nat}
    (hm : Avoids parts 1024 := by exact ‹Avoids _ _›.mono (by decide)) :
    Within parts s0 (State.inboxTake s type) := by
  unfold State.inboxTake
  with_reducible repeat' first | intro _ | assumption | exact Within.refl _ | exact ‹Avoids _ _›.mono (by decide) | exact rfl | apply Within.upd_net

theorem execTxposSample_keeps {s : State} {sources : BitVec 8}
    (hm : Avoids parts 1073742856 := by exact ‹Avoids _ _›.mono (by decide)) : EKeeps parts s (execTxposSample sources s) := by
  have h : Within parts s s := .refl s
  unfold execTxposSample
  with_reducible repeat' first | intro _ | (extract_lets +onlyGivenNames x1; first | (refine Within.cut (m := parts) (s0 := s) (v := x1) ?_ ?_; rotate_left; intro hx; clear_value x1; rotate_left; unfold x1; clear x1) | clear_value x1) | assumption | exact Within.refl _ | exact ‹Avoids _ _›.mono (by decide) | apply State.buildPos_keeps | exact rfl | apply Within.ite | apply Within.upd_net | apply EKeeps.next | apply EKeeps.ite

theorem State.posAccept_keeps {s0 s : State} (h : Within parts s0 s) {n : Nat} {sender : Nat} {sync : Bool} {e : List Byte}
    (hm : Avoids parts 67110540 := by exact ‹Avoids _ _›.mono (by decide)) :
    Within parts s0 (State.posAccept s n sender sync e) := by
  unfold State.posAccept
  with_reducible repeat' first | (extract_lets +onlyGivenNames x1; first | (refine Within.cut (m := parts) (s0 := s0) (v := x1) ?_ ?_; rotate_left; intro hx; clear_value x1; rotate_left; unfold x1; clear x1) | clear_value x1) | assumption | exact Within.refl _ | exact ‹Avoids _ _›.mono (by decide) | apply State.bump_keeps | apply State.raise_keeps | apply State.stationInput_keeps | apply Within.ite | split | exact rfl | apply Within.upd_rxLast

theorem execStaPosRx_keeps {s : State} 
    (hm : Avoids parts 67110540 := by exact ‹Avoids _ _›.mono (by decide)) : EKeeps parts s (execStaPosRx s) := by
  have h : Within parts s s := .refl s
  unfold execStaPosRx
  with_reducible repeat' first | intro _ | (extract_lets +onlyGivenNames x1; first | (refine Within.cut (m := parts) (s0 := s) (v := x1) ?_ ?_; rotate_left; intro hx; clear_value x1; rotate_left; unfold x1; clear x1) | clear_value x1) | assumption | exact Within.refl _ | exact ‹Avoids _ _›.mono (by decide) | apply State.forEach_keeps | apply State.forList_keeps | apply State.inboxTake_keeps | apply State.posAccept_keeps | split | apply EKeeps.next | apply EKeeps.ite

theorem execRxStreamPeriod_keeps {s : State} {n : Fin 8}
    (hm : Avoids parts 512 := by exact ‹Avoids _ _›.mono (by decide)) : EKeeps parts s (execRxStreamPeriod n s) := by
  have h : Within parts s s := .refl s
  unfold execRxStreamPeriod
  with_reducible repeat' first | assumption | exact Within.refl _ | exact ‹Avoids _ _›.mono (by decide) | apply State.inputMiss_keeps | apply Within.ite | apply EKeeps.next | apply EKeeps.ite

theorem State.deliverStation_keeps {s0 s : State} (h : Within parts s0 s) {e : Event}
    (hm : Avoids parts 67109896 := by exact ‹Avoids _ _›.mono (by decide)) :
    Within parts s0 (State.deliverStation s e) := by
  unfold State.deliverStation
  with_reducible repeat' first | intro _ | (extract_lets +onlyGivenNames x1; first | (refine Within.cut (m := parts) (s0 := s0) (v := x1) ?_ ?_; rotate_left; intro hx; clear_value x1; rotate_left; unfold x1; clear x1) | clear_value x1) | assumption | exact Within.refl _ | exact ‹Avoids _ _›.mono (by decide) | apply State.guardViol_keeps | apply Within.ite | exact rfl | apply Within.upd_net

theorem State.buildEvents_keeps {s0 s : State} (h : Within parts s0 s)
    (hm : Avoids parts 1073742856 := by exact ‹Avoids _ _›.mono (by decide)) :
    Within parts s0 (State.buildEvents s) := by
  unfold State.buildEvents
  with_reducible repeat' first | (extract_lets +onlyGivenNames x1; first | (refine Within.cut (m := parts) (s0 := s0) (v := x1) ?_ ?_; rotate_left; intro hx; clear_value x1; rotate_left; unfold x1; clear x1) | clear_value x1) | assumption | exact Within.refl _ | exact ‹Avoids _ _›.mono (by decide) | apply State.staBroadcast_keeps | exact rfl | apply Within.ite | apply Within.upd_net

theorem execStaEventFrameSend_keeps {s : State}
    (hm : Avoids parts 1073742856 := by exact ‹Avoids _ _›.mono (by decide)) : EKeeps parts s (execStaEventFrameSend s) := by
  have h : Within parts s s := .refl s
  unfold execStaEventFrameSend
  with_reducible repeat' first | assumption | exact Within.refl _ | exact ‹Avoids _ _›.mono (by decide) | apply State.buildEvents_keeps | apply EKeeps.next | apply EKeeps.ite

theorem State.serveStation_keeps {s0 s : State} (h : Within parts s0 s)
    (hm : Avoids parts 1073742856 := by exact ‹Avoids _ _›.mono (by decide)) :
    Within parts s0 (State.serveStation s) := by
  unfold State.serveStation
  with_reducible repeat' first | intro _ | assumption | exact Within.refl _ | exact ‹Avoids _ _›.mono (by decide) | apply State.buildEvents_keeps | apply State.buildPos_keeps | apply State.forEach_keeps | apply State.portServe_keeps

theorem State.mapEvent_keeps {s0 s : State} (h : Within parts s0 s) {i : Nat} {sender : Nat} {e : List Byte}
    (hm : Avoids parts 67110028 := by exact ‹Avoids _ _›.mono (by decide)) :
    Within parts s0 (State.mapEvent s i sender e) := by
  unfold State.mapEvent
  with_reducible repeat' first | (extract_lets +onlyGivenNames x1; first | (refine Within.cut (m := parts) (s0 := s0) (v := x1) ?_ ?_; rotate_left; intro hx; clear_value x1; rotate_left; unfold x1; clear x1) | clear_value x1) | assumption | exact Within.refl _ | exact ‹Avoids _ _›.mono (by decide) | apply State.bumpSat_keeps | apply State.lateEvent_keeps | apply State.publishMap_keeps | apply State.raise_keeps | apply Within.ite | exact rfl | apply Within.upd_net

theorem execStaEventRx_keeps {s : State} 
    (hm : Avoids parts 67110028 := by exact ‹Avoids _ _›.mono (by decide)) : EKeeps parts s (execStaEventRx s) := by
  have h : Within parts s s := .refl s
  unfold execStaEventRx
  with_reducible repeat' first | intro _ | assumption | exact Within.refl _ | exact ‹Avoids _ _›.mono (by decide) | apply State.forEach_keeps | apply State.forList_keeps | apply State.inboxTake_keeps | apply State.mapEvent_keeps | split | apply EKeeps.next | apply EKeeps.ite

theorem execDeferredEventDue_keeps {s : State} 
    (hm : Avoids parts 67110028 := by exact ‹Avoids _ _›.mono (by decide)) : EKeeps parts s (execDeferredEventDue s) := by
  have h : Within parts s s := .refl s
  unfold execDeferredEventDue
  with_reducible repeat' first | intro _ | assumption | exact Within.refl _ | exact ‹Avoids _ _›.mono (by decide) | apply State.publishMap_keeps | split | exact rfl | apply Within.upd_net | apply EKeeps.next | apply EKeeps.ite

theorem State.setRemote_keeps {s0 s : State} (h : Within parts s0 s) {sender : Nat} {r : RemotePeer}
    (hm : Avoids parts 1024 := by exact ‹Avoids _ _›.mono (by decide)) :
    Within parts s0 (State.setRemote s sender r) := by
  unfold State.setRemote
  with_reducible repeat' first | assumption | exact Within.refl _ | exact ‹Avoids _ _›.mono (by decide) | exact rfl | apply Within.upd_net

theorem State.sendResp_keeps {s0 s : State} (h : Within parts s0 s) {port : Nat} {da : Nat} {body : List Byte}
    (hm : Avoids parts 1073742856 := by exact ‹Avoids _ _›.mono (by decide)) :
    Within parts s0 (State.sendResp s port da body) := by
  unfold State.sendResp
  with_reducible repeat' first | assumption | exact Within.refl _ | exact ‹Avoids _ _›.mono (by decide) | apply State.staNextSeq_keeps | apply State.staSendOn_keeps

theorem execStaCmdRx_keeps {s : State}
    (hm : Avoids parts 1115685896 := by exact ‹Avoids _ _›.mono (by decide)) : EKeeps parts s (execStaCmdRx s) := by
  have h : Within parts s s := .refl s
  unfold execStaCmdRx
  with_reducible repeat' first | (extract_lets +onlyGivenNames x1; first | (refine Within.cut (m := parts) (s0 := s) (v := x1) ?_ ?_; rotate_left; intro hx; clear_value x1; rotate_left; unfold x1; clear x1) | clear_value x1) | assumption | exact Within.refl _ | exact ‹Avoids _ _›.mono (by decide) | apply State.inboxTake_keeps | apply State.raise_keeps | apply State.sendResp_keeps | apply State.setRemote_keeps | exact rfl | apply Within.ite | split | apply Within.upd_port | apply Within.upd_skep | apply EKeeps.next | apply EKeeps.ite

theorem execBeaconSend_keeps {s : State}
    (hm : Avoids parts 1073742856 := by exact ‹Avoids _ _›.mono (by decide)) : EKeeps parts s (execBeaconSend s) := by
  have h : Within parts s s := .refl s
  unfold execBeaconSend
  with_reducible repeat' first | intro _ | (extract_lets +onlyGivenNames x1; first | (refine Within.cut (m := parts) (s0 := s) (v := x1) ?_ ?_; rotate_left; intro hx; clear_value x1; rotate_left; unfold x1; clear x1) | clear_value x1) | assumption | exact Within.refl _ | exact ‹Avoids _ _›.mono (by decide) | apply State.bumpSat_keeps | apply State.foldl_keeps | apply State.forEach_keeps | apply State.staBroadcast_keeps | apply Within.ite | apply EKeeps.next | apply EKeeps.ite

theorem State.peerEvent_keeps {s0 s : State} (h : Within parts s0 s) {i : Nat} {found : Bool} {conflict : Bool}
    (hm : Avoids parts 67109004 := by exact ‹Avoids _ _›.mono (by decide)) :
    Within parts s0 (State.peerEvent s i found conflict) := by
  unfold State.peerEvent
  with_reducible repeat' first | assumption | exact Within.refl _ | exact ‹Avoids _ _›.mono (by decide) | apply State.publish_keeps

theorem State.peerSet_keeps {s0 s : State} (h : Within parts s0 s) {i : Nat} {sender : Nat} {serial : Nat} {st : Nat}
    (hm : Avoids parts 1032 := by exact ‹Avoids _ _›.mono (by decide)) :
    Within parts s0 (State.peerSet s i sender serial st) := by
  unfold State.peerSet
  with_reducible repeat' first | (extract_lets +onlyGivenNames x1; first | (refine Within.cut (m := parts) (s0 := s0) (v := x1) ?_ ?_; rotate_left; intro hx; clear_value x1; rotate_left; unfold x1; clear x1) | clear_value x1) | assumption | exact Within.refl _ | exact ‹Avoids _ _›.mono (by decide) | apply State.clear_keeps | apply State.raise_keeps | apply State.set2_keeps | apply State.set_keeps | exact rfl | apply Within.upd_net

theorem execStaBeaconRx_keeps {s : State} 
    (hm : Avoids parts 67110028 := by exact ‹Avoids _ _›.mono (by decide)) : EKeeps parts s (execStaBeaconRx s) := by
  have h : Within parts s s := .refl s
  unfold execStaBeaconRx
  with_reducible repeat' first | intro _ | (extract_lets +onlyGivenNames x1; first | (refine Within.cut (m := parts) (s0 := s) (v := x1) ?_ ?_; rotate_left; intro hx; clear_value x1; rotate_left; unfold x1; clear x1) | clear_value x1) | assumption | exact Within.refl _ | exact ‹Avoids _ _›.mono (by decide) | apply State.inboxTake_keeps | apply State.peerEvent_keeps | apply State.peerSet_keeps | apply State.raise_keeps | apply Within.ite | split | apply EKeeps.next | apply EKeeps.ite

theorem execPeerTimeout_keeps {s : State} {i : Fin 32}
    (hm : Avoids parts 67109004 := by exact ‹Avoids _ _›.mono (by decide)) : EKeeps parts s (execPeerTimeout i s) := by
  have h : Within parts s s := .refl s
  unfold execPeerTimeout
  with_reducible repeat' first | assumption | exact Within.refl _ | exact ‹Avoids _ _›.mono (by decide) | apply State.clear_keeps | apply State.peerEvent_keeps | apply Within.ite | apply EKeeps.next | apply EKeeps.ite

theorem State.newMaster_keeps {s0 s : State} (h : Within parts s0 s) {m : Master}
    (hm : Avoids parts 67110028 := by exact ‹Avoids _ _›.mono (by decide)) :
    Within parts s0 (State.newMaster s m) := by
  unfold State.newMaster
  dsimp only
  with_reducible repeat' first | (extract_lets +onlyGivenNames x1; first | (refine Within.cut (m := parts) (s0 := s0) (v := x1) ?_ ?_; rotate_left; intro hx; clear_value x1; rotate_left; unfold x1; clear x1) | clear_value x1) | assumption | exact Within.refl _ | exact ‹Avoids _ _›.mono (by decide) | apply State.freshSteering_keeps | apply State.timeChange_keeps | apply State.timeLoss_keeps | apply Within.ite | split | exact rfl | apply Within.upd_net

theorem State.freshSync_keeps {s0 s : State} (h : Within parts s0 s)
    (hm : Avoids parts 1024 := by exact ‹Avoids _ _›.mono (by decide)) :
    Within parts s0 (State.freshSync s) := by
  unfold State.freshSync
  with_reducible repeat' first | assumption | exact Within.refl _ | exact ‹Avoids _ _›.mono (by decide) | exact rfl | apply Within.upd_net

theorem State.becomeGrandmaster_keeps {s0 s : State} (h : Within parts s0 s)
    (hm : Avoids parts 67110028 := by exact ‹Avoids _ _›.mono (by decide)) :
    Within parts s0 (State.becomeGrandmaster s) := by
  unfold State.becomeGrandmaster
  dsimp only
  with_reducible repeat' first | (extract_lets +onlyGivenNames x1; first | (refine Within.cut (m := parts) (s0 := s0) (v := x1) ?_ ?_; rotate_left; intro hx; clear_value x1; rotate_left; unfold x1; clear x1) | clear_value x1) | assumption | exact Within.refl _ | exact ‹Avoids _ _›.mono (by decide) | apply State.freshSteering_keeps | apply State.freshSync_keeps | apply State.timeChange_keeps | apply Within.ite | exact rfl | apply Within.upd_net

theorem execPtpAnnounceRx_keeps {s : State} {p : Fin 4} {a : Announce}
    (hm : Avoids parts 67110028 := by exact ‹Avoids _ _›.mono (by decide)) : EKeeps parts s (execPtpAnnounceRx p a s) := by
  have h : Within parts s s := .refl s
  unfold execPtpAnnounceRx
  with_reducible repeat' first | (extract_lets +onlyGivenNames x1; first | (refine Within.cut (m := parts) (s0 := s) (v := x1) ?_ ?_; rotate_left; intro hx; clear_value x1; rotate_left; unfold x1; clear x1) | clear_value x1) | assumption | exact Within.refl _ | exact ‹Avoids _ _›.mono (by decide) | apply State.becomeGrandmaster_keeps | apply State.newMaster_keeps | apply Within.ite | split | apply EKeeps.next | apply EKeeps.ite

theorem State.steer_keeps {s0 s : State} (h : Within parts s0 s)
    (hm : Avoids parts 1036 := by exact ‹Avoids _ _›.mono (by decide)) :
    Within parts s0 (State.steer s) := by
  unfold State.steer
  with_reducible repeat' first | (extract_lets +onlyGivenNames x1; first | (refine Within.cut (m := parts) (s0 := s0) (v := x1) ?_ ?_; rotate_left; intro hx; clear_value x1; rotate_left; unfold x1; clear x1) | clear_value x1) | assumption | exact Within.refl _ | exact ‹Avoids _ _›.mono (by decide) | apply State.setRate_keeps | apply State.useFree_keeps | exact rfl | apply Within.upd_net

theorem State.ptpStep_keeps {s0 s : State} (h : Within parts s0 s) 
    (hm : Avoids parts 67110030 := by exact ‹Avoids _ _›.mono (by decide)) :
    Within parts s0 (State.ptpStep s) := by
  unfold State.ptpStep
  with_reducible repeat' first | (extract_lets +onlyGivenNames x1; first | (refine Within.cut (m := parts) (s0 := s0) (v := x1) ?_ ?_; rotate_left; intro hx; clear_value x1; rotate_left; unfold x1; clear x1) | clear_value x1) | assumption | exact Within.refl _ | exact ‹Avoids _ _›.mono (by decide) | apply State.setRate_keeps | apply State.timeStep_keeps | apply State.useFree_keeps | exact rfl | apply Within.upd_net

theorem State.offsetSample_keeps {s0 s : State} (h : Within parts s0 s) {off : Int}
    (hm : Avoids parts 67110030 := by exact ‹Avoids _ _›.mono (by decide)) :
    Within parts s0 (State.offsetSample s off) := by
  unfold State.offsetSample
  with_reducible repeat' first | (extract_lets +onlyGivenNames x1; first | (refine Within.cut (m := parts) (s0 := s0) (v := x1) ?_ ?_; rotate_left; intro hx; clear_value x1; rotate_left; unfold x1; clear x1) | clear_value x1) | assumption | exact Within.refl _ | exact ‹Avoids _ _›.mono (by decide) | apply State.freshSteering_keeps | apply State.ptpStep_keeps | apply State.steer_keeps | apply State.timeChange_keeps | apply Within.ite | exact rfl | apply Within.upd_net

theorem execPtpSyncRx_keeps {s : State} {p : Fin 4} {parent : Nat} {t1 : Int} {t2 : Int}
    (hm : Avoids parts 67110030 := by exact ‹Avoids _ _›.mono (by decide)) : EKeeps parts s (execPtpSyncRx p parent t1 t2 s) := by
  have h : Within parts s s := .refl s
  unfold execPtpSyncRx
  with_reducible repeat' first | (extract_lets +onlyGivenNames x1; first | (refine Within.cut (m := parts) (s0 := s) (v := x1) ?_ ?_; rotate_left; intro hx; clear_value x1; rotate_left; unfold x1; clear x1) | clear_value x1) | assumption | exact Within.refl _ | exact ‹Avoids _ _›.mono (by decide) | apply State.offsetSample_keeps | apply State.setInt_keeps | exact rfl | apply Within.ite | split | apply Within.upd_net | apply EKeeps.next | apply EKeeps.ite

theorem execPtpDelayReqTx_keeps {s : State}
    (hm : Avoids parts 1073742856 := by exact ‹Avoids _ _›.mono (by decide)) : EKeeps parts s (execPtpDelayReqTx s) := by
  have h : Within parts s s := .refl s
  unfold execPtpDelayReqTx
  with_reducible repeat' first | assumption | exact Within.refl _ | exact ‹Avoids _ _›.mono (by decide) | apply State.ptpSend_keeps | apply Within.ite | split | apply EKeeps.next | apply EKeeps.ite

theorem execPtpDelayRespRx_keeps {s : State} {p : Fin 4} {parent : Nat} {t4 : Int}
    (hm : Avoids parts 1024 := by exact ‹Avoids _ _›.mono (by decide)) : EKeeps parts s (execPtpDelayRespRx p parent t4 s) := by
  have h : Within parts s s := .refl s
  unfold execPtpDelayRespRx
  with_reducible repeat' first | assumption | exact Within.refl _ | exact ‹Avoids _ _›.mono (by decide) | exact rfl | apply Within.ite | split | apply Within.upd_net | apply EKeeps.next | apply EKeeps.ite

theorem State.sendSync_keeps {s0 s : State} (h : Within parts s0 s) {p : Nat}
    (hm : Avoids parts 1073742856 := by exact ‹Avoids _ _›.mono (by decide)) :
    Within parts s0 (State.sendSync s p) := by
  unfold State.sendSync
  with_reducible repeat' first | assumption | exact Within.refl _ | exact ‹Avoids _ _›.mono (by decide) | apply State.ptpSend_keeps

theorem State.sendAnnounce_keeps {s0 s : State} (h : Within parts s0 s) {p : Nat}
    (hm : Avoids parts 1073742856 := by exact ‹Avoids _ _›.mono (by decide)) :
    Within parts s0 (State.sendAnnounce s p) := by
  unfold State.sendAnnounce
  with_reducible repeat' first | assumption | exact Within.refl _ | exact ‹Avoids _ _›.mono (by decide) | apply State.ptpSend_keeps

theorem State.sendDue_keeps {s0 s : State} (h : Within parts s0 s) {p : Nat} {a : Nat} {b : Nat}
    (hm : Avoids parts 1073742856 := by exact ‹Avoids _ _›.mono (by decide)) :
    Within parts s0 (State.sendDue s p a b) := by
  unfold State.sendDue
  with_reducible repeat' first | (extract_lets +onlyGivenNames x1; first | (refine Within.cut (m := parts) (s0 := s0) (v := x1) ?_ ?_; rotate_left; intro hx; clear_value x1; rotate_left; unfold x1; clear x1) | clear_value x1) | assumption | exact Within.refl _ | exact ‹Avoids _ _›.mono (by decide) | apply State.sendAnnounce_keeps | apply State.sendSync_keeps | exact rfl | apply Within.ite | apply Within.upd_net

theorem execPtpSyncTx_keeps {s : State}
    (hm : Avoids parts 1073742856 := by exact ‹Avoids _ _›.mono (by decide)) : EKeeps parts s (execPtpSyncTx s) := by
  have h : Within parts s s := .refl s
  unfold execPtpSyncTx
  with_reducible repeat' first | assumption | exact Within.refl _ | exact ‹Avoids _ _›.mono (by decide) | apply State.sendDue_keeps | apply Within.ite | split | apply EKeeps.next | apply EKeeps.ite

theorem execMasterLost_keeps {s : State}
    (hm : Avoids parts 67110028 := by exact ‹Avoids _ _›.mono (by decide)) : EKeeps parts s (execMasterLost s) := by
  have h : Within parts s s := .refl s
  unfold execMasterLost
  with_reducible repeat' first | (extract_lets +onlyGivenNames x1; first | (refine Within.cut (m := parts) (s0 := s) (v := x1) ?_ ?_; rotate_left; intro hx; clear_value x1; rotate_left; unfold x1; clear x1) | clear_value x1) | assumption | exact Within.refl _ | exact ‹Avoids _ _›.mono (by decide) | apply State.becomeGrandmaster_keeps | apply State.dropMaster_keeps | apply State.timeLoss_keeps | apply Within.ite | apply EKeeps.next | apply EKeeps.ite

end Sys2Proof.Machine
end

