-- ==== Sys2Proof/Laws/KeepsLinks.lean ====
section
/-!
SUPPORT. The operations of Machine/Links.lean keep what every step keeps.
-/
set_option Elab.async false
namespace Sys2Proof.Machine

set_option linter.tactic.unusedName false

variable {parts : Nat}

theorem State.publishLink_keeps {s0 s : State} (h : Within parts s0 s) {f : Nat} {kind : Nat}
    (hm : Avoids parts 67109004 := by exact ‹Avoids _ _›.mono (by decide)) :
    Within parts s0 (State.publishLink s f kind) := by
  unfold State.publishLink
  with_reducible repeat' first | assumption | exact Within.refl _ | exact ‹Avoids _ _›.mono (by decide) | apply State.publish_keeps

theorem State.linkTo_keeps {s0 s : State} (h : Within parts s0 s) {f : Nat} {st : Nat}
    (hm : Avoids parts 67109004 := by exact ‹Avoids _ _›.mono (by decide)) :
    Within parts s0 (State.linkTo s f st) := by
  unfold State.linkTo
  with_reducible repeat' first | (extract_lets +onlyGivenNames x1; first | (refine Within.cut (m := parts) (s0 := s0) (v := x1) ?_ ?_; rotate_left; intro hx; clear_value x1; rotate_left; unfold x1; clear x1) | clear_value x1) | assumption | exact Within.refl _ | exact ‹Avoids _ _›.mono (by decide) | apply State.publishLink_keeps | apply State.set_keeps | apply State.useFree_keeps | apply Within.ite

theorem State.laneLevels_keeps {s0 s : State} (h : Within parts s0 s) {l : Nat} {syms : List Nat}
    (hm : Avoids parts 1073743872 := by exact ‹Avoids _ _›.mono (by decide)) :
    Within parts s0 (State.laneLevels s l syms) := by
  unfold State.laneLevels
  with_reducible repeat' first | (extract_lets +onlyGivenNames x1; first | (refine Within.cut (m := parts) (s0 := s0) (v := x1) ?_ ?_; rotate_left; intro hx; clear_value x1; rotate_left; unfold x1; clear x1) | clear_value x1) | assumption | exact Within.refl _ | exact ‹Avoids _ _›.mono (by decide) | apply State.emit_keeps | apply State.setLane_keeps | apply Within.ite

theorem State.laneTook_keeps {s0 s : State} (h : Within parts s0 s) {l : Nat} {syms : List Nat}
    (hm : Avoids parts 1073743872 := by exact ‹Avoids _ _›.mono (by decide)) :
    Within parts s0 (State.laneTook s l syms) := by
  unfold State.laneTook
  with_reducible repeat' first | (extract_lets +onlyGivenNames x1; first | (refine Within.cut (m := parts) (s0 := s0) (v := x1) ?_ ?_; rotate_left; intro hx; clear_value x1; rotate_left; unfold x1; clear x1) | clear_value x1) | assumption | exact Within.refl _ | exact ‹Avoids _ _›.mono (by decide) | apply State.laneLevels_keeps | apply State.setLane_keeps | apply Within.ite

theorem State.linkLeaveUp_keeps {s0 s : State} (h : Within parts s0 s) {f : Nat}
    (hm : Avoids parts 1189834908 := by exact ‹Avoids _ _›.mono (by decide)) :
    Within parts s0 (State.linkLeaveUp s f) := by
  unfold State.linkLeaveUp
  with_reducible repeat' first | intro _ | (extract_lets +onlyGivenNames x1; first | (refine Within.cut (m := parts) (s0 := s0) (v := x1) ?_ ?_; rotate_left; intro hx; clear_value x1; rotate_left; unfold x1; clear x1) | clear_value x1) | assumption | exact Within.refl _ | exact ‹Avoids _ _›.mono (by decide) | apply State.clear_keeps | apply State.enrolEnd_keeps | apply State.epLost_keeps | apply State.forList_keeps | apply State.setLink_keeps | apply State.streamStop_keeps | apply State.trigRefresh_keeps | exact rfl | apply Within.upd_enrolQ

theorem State.linkFall_keeps {s0 s : State} (h : Within parts s0 s) {f : Nat} {st : Nat}
    (hm : Avoids parts 1189834908 := by exact ‹Avoids _ _›.mono (by decide)) :
    Within parts s0 (State.linkFall s f st) := by
  unfold State.linkFall
  with_reducible repeat' first | (extract_lets +onlyGivenNames x1; first | (refine Within.cut (m := parts) (s0 := s0) (v := x1) ?_ ?_; rotate_left; intro hx; clear_value x1; rotate_left; unfold x1; clear x1) | clear_value x1) | assumption | exact Within.refl _ | exact ‹Avoids _ _›.mono (by decide) | apply State.linkLeaveUp_keeps | apply State.linkTo_keeps | apply State.setLink_keeps | apply Within.ite

theorem State.linkLaneDown_keeps {s0 s : State} (h : Within parts s0 s) {l : Nat}
    (hm : Avoids parts 1189834908 := by exact ‹Avoids _ _›.mono (by decide)) :
    Within parts s0 (State.linkLaneDown s l) := by
  unfold State.linkLaneDown
  with_reducible repeat' first | assumption | exact Within.refl _ | exact ‹Avoids _ _›.mono (by decide) | apply State.linkFall_keeps | apply Within.ite | split

theorem State.linkLaneUp_keeps {s0 s : State} (h : Within parts s0 s) {l : Nat}
    (hm : Avoids parts 1189834908 := by exact ‹Avoids _ _›.mono (by decide)) :
    Within parts s0 (State.linkLaneUp s l) := by
  unfold State.linkLaneUp
  with_reducible repeat' first | assumption | exact Within.refl _ | exact ‹Avoids _ _›.mono (by decide) | apply State.linkFall_keeps | apply Within.ite | split

theorem State.linkStart_keeps {s0 s : State} (h : Within parts s0 s) {f : Nat}
    (hm : Avoids parts 1189834972 := by exact ‹Avoids _ _›.mono (by decide)) :
    Within parts s0 (State.linkStart s f) := by
  unfold State.linkStart
  with_reducible repeat' first | (extract_lets +onlyGivenNames x1; first | (refine Within.cut (m := parts) (s0 := s0) (v := x1) ?_ ?_; rotate_left; intro hx; clear_value x1; rotate_left; unfold x1; clear x1) | clear_value x1) | assumption | exact Within.refl _ | exact ‹Avoids _ _›.mono (by decide) | apply State.linkLaneUp_keeps | apply State.linkTo_keeps | apply State.raise_keeps | apply State.setLink_keeps | apply State.unitTo_keeps

theorem State.linkDown_keeps {s0 s : State} (h : Within parts s0 s) {f : Nat}
    (hm : Avoids parts 1189834908 := by exact ‹Avoids _ _›.mono (by decide)) :
    Within parts s0 (State.linkDown s f) := by
  unfold State.linkDown
  with_reducible repeat' first | assumption | exact Within.refl _ | exact ‹Avoids _ _›.mono (by decide) | apply State.clear_keeps | apply State.linkFall_keeps | apply Within.ite

theorem State.linkStop_keeps {s0 s : State} (h : Within parts s0 s) {f : Nat}
    (hm : Avoids parts 1189834972 := by exact ‹Avoids _ _›.mono (by decide)) :
    Within parts s0 (State.linkStop s f) := by
  unfold State.linkStop
  with_reducible repeat' first | (extract_lets +onlyGivenNames x1; first | (refine Within.cut (m := parts) (s0 := s0) (v := x1) ?_ ?_; rotate_left; intro hx; clear_value x1; rotate_left; unfold x1; clear x1) | clear_value x1) | assumption | exact Within.refl _ | exact ‹Avoids _ _›.mono (by decide) | apply State.linkDown_keeps | apply State.linkStart_keeps | apply State.unitTo_keeps | apply Within.ite

theorem State.sendHello_keeps {s0 s : State} (h : Within parts s0 s) {f : Nat} {rate : Nat}
    (hm : Avoids parts 4100 := by exact ‹Avoids _ _›.mono (by decide)) :
    Within parts s0 (State.sendHello s f rate) := by
  unfold State.sendHello
  with_reducible repeat' first | (extract_lets +onlyGivenNames x1; first | (refine Within.cut (m := parts) (s0 := s0) (v := x1) ?_ ?_; rotate_left; intro hx; clear_value x1; rotate_left; unfold x1; clear x1) | clear_value x1) | assumption | exact Within.refl _ | exact ‹Avoids _ _›.mono (by decide) | apply State.sendLink_keeps | apply State.setLink_keeps | apply State.useFree_keeps

theorem State.linkHello_keeps {s0 s : State} (h : Within parts s0 s) {f : Nat}
    (hm : Avoids parts 67113100 := by exact ‹Avoids _ _›.mono (by decide)) :
    Within parts s0 (State.linkHello s f) := by
  unfold State.linkHello
  with_reducible repeat' first | (extract_lets +onlyGivenNames x1; first | (refine Within.cut (m := parts) (s0 := s0) (v := x1) ?_ ?_; rotate_left; intro hx; clear_value x1; rotate_left; unfold x1; clear x1) | clear_value x1) | assumption | exact Within.refl _ | exact ‹Avoids _ _›.mono (by decide) | apply State.linkTo_keeps | apply State.sendHello_keeps | apply State.setLink_keeps

theorem State.sendEcho_keeps {s0 s : State} (h : Within parts s0 s) {f : Nat} {t1 : Nat}
    (hm : Avoids parts 4096 := by exact ‹Avoids _ _›.mono (by decide)) :
    Within parts s0 (State.sendEcho s f t1) := by
  unfold State.sendEcho
  with_reducible repeat' first | (extract_lets +onlyGivenNames x1; first | (refine Within.cut (m := parts) (s0 := s0) (v := x1) ?_ ?_; rotate_left; intro hx; clear_value x1; rotate_left; unfold x1; clear x1) | clear_value x1) | assumption | exact Within.refl _ | exact ‹Avoids _ _›.mono (by decide) | apply State.sendLink_keeps | apply State.setLink_keeps

theorem State.linkUp_keeps {s0 s : State} (h : Within parts s0 s) {f : Nat}
    (hm : Avoids parts 1182953676 := by exact ‹Avoids _ _›.mono (by decide)) :
    Within parts s0 (State.linkUp s f) := by
  unfold State.linkUp
  with_reducible repeat' first | intro _ | (extract_lets +onlyGivenNames x1; first | (refine Within.cut (m := parts) (s0 := s0) (v := x1) ?_ ?_; rotate_left; intro hx; clear_value x1; rotate_left; unfold x1; clear x1) | clear_value x1) | assumption | exact Within.refl _ | exact ‹Avoids _ _›.mono (by decide) | apply State.enrolAdd_keeps | apply State.epochReset_keeps | apply State.forList_keeps | apply State.forecasts_keeps | apply State.linkTo_keeps | apply State.sendEcho_keeps | apply State.setLink_keeps | apply State.trigRefresh_keeps | apply State.unitTo_keeps | apply Within.ite | exact rfl | apply Within.upd_upCount

theorem State.amLose_keeps {s0 s : State} (h : Within parts s0 s) {l : Nat}
    (hm : Avoids parts 1189836956 := by exact ‹Avoids _ _›.mono (by decide)) :
    Within parts s0 (State.amLose s l) := by
  unfold State.amLose
  with_reducible repeat' first | (extract_lets +onlyGivenNames x1; first | (refine Within.cut (m := parts) (s0 := s0) (v := x1) ?_ ?_; rotate_left; intro hx; clear_value x1; rotate_left; unfold x1; clear x1) | clear_value x1) | assumption | exact Within.refl _ | exact ‹Avoids _ _›.mono (by decide) | apply State.clear_keeps | apply State.linkFall_keeps | apply State.raise_keeps | apply State.setLane_keeps | apply Within.ite | split

theorem State.amMissed_keeps {s0 s : State} (h : Within parts s0 s) {l : Nat} {n : Nat}
    (hm : Avoids parts 1189836956 := by exact ‹Avoids _ _›.mono (by decide)) :
    Within parts s0 (State.amMissed s l n) := by
  unfold State.amMissed
  with_reducible repeat' first | (extract_lets +onlyGivenNames x1; first | (refine Within.cut (m := parts) (s0 := s0) (v := x1) ?_ ?_; rotate_left; intro hx; clear_value x1; rotate_left; unfold x1; clear x1) | clear_value x1) | assumption | exact Within.refl _ | exact ‹Avoids _ _›.mono (by decide) | apply State.amLose_keeps | apply State.bumpSat_keeps | apply State.setLane_keeps | apply Within.ite

theorem State.deskew_keeps {s0 s : State} (h : Within parts s0 s) {f : Nat} {marks : List (Nat × Nat × Nat × Nat)}
    (hm : Avoids parts 4104 := by exact ‹Avoids _ _›.mono (by decide)) :
    Within parts s0 (State.deskew s f marks) := by
  unfold State.deskew
  with_reducible repeat' first | intro _ | (extract_lets +onlyGivenNames x1; first | (refine Within.cut (m := parts) (s0 := s0) (v := x1) ?_ ?_; rotate_left; intro hx; clear_value x1; rotate_left; unfold x1; clear x1) | clear_value x1) | assumption | exact Within.refl _ | exact ‹Avoids _ _›.mono (by decide) | apply State.forList_keeps | apply State.raise_keeps | apply State.setInt_keeps | apply State.setLink_keeps | apply Within.ite | apply State.foldl_keeps

theorem State.markerIn_keeps {s0 s : State} (h : Within parts s0 s) {l : Nat} {m : Nat} {t : Nat} {bip : Nat}
    (hm : Avoids parts 1189836956 := by exact ‹Avoids _ _›.mono (by decide)) :
    Within parts s0 (State.markerIn s l m t bip) := by
  unfold State.markerIn
  with_reducible repeat' first | intro _ | (extract_lets +onlyGivenNames x1; first | (refine Within.cut (m := parts) (s0 := s0) (v := x1) ?_ ?_; rotate_left; intro hx; clear_value x1; rotate_left; unfold x1; clear x1) | clear_value x1) | assumption | exact Within.refl _ | exact ‹Avoids _ _›.mono (by decide) | apply State.amMissed_keeps | apply State.bumpSat_keeps | apply State.deskew_keeps | apply State.raise_keeps | apply State.setLane_keeps | apply State.setLink_keeps | apply State.set_keeps | apply Within.ite | split

theorem execAmReceived_keeps {s : State} {l : Fin 32} {sym : BitVec 130} {t : Nat} {bip : BitVec 8}
    (hm : Avoids parts 1189836956 := by exact ‹Avoids _ _›.mono (by decide)) : EKeeps parts s (execAmReceived l sym t bip s) := by
  have h : Within parts s s := .refl s
  unfold execAmReceived
  with_reducible repeat' first | assumption | exact Within.refl _ | exact ‹Avoids _ _›.mono (by decide) | apply State.laneTook_keeps | apply State.markerIn_keeps | apply Within.ite | apply EKeeps.next | apply EKeeps.ite

theorem execAmLost_keeps {s : State} {l : Fin 32}
    (hm : Avoids parts 1189836956 := by exact ‹Avoids _ _›.mono (by decide)) : EKeeps parts s (execAmLost l s) := by
  have h : Within parts s s := .refl s
  unfold execAmLost
  with_reducible repeat' first | assumption | exact Within.refl _ | exact ‹Avoids _ _›.mono (by decide) | apply State.amMissed_keeps | apply EKeeps.next | apply EKeeps.ite

theorem State.discard_keeps {s0 s : State} (h : Within parts s0 s) {f : Nat} {cause : Nat}
    (hm : Avoids parts 4096 := by exact ‹Avoids _ _›.mono (by decide)) :
    Within parts s0 (State.discard s f cause) := by
  unfold State.discard
  with_reducible repeat' first | (extract_lets +onlyGivenNames x1; first | (refine Within.cut (m := parts) (s0 := s0) (v := x1) ?_ ?_; rotate_left; intro hx; clear_value x1; rotate_left; unfold x1; clear x1) | clear_value x1) | assumption | exact Within.refl _ | exact ‹Avoids _ _›.mono (by decide) | apply State.setLink_keeps

theorem State.damaged_keeps {s0 s : State} (h : Within parts s0 s) {f : Nat} {cause : Nat}
    (hm : Avoids parts 4104 := by exact ‹Avoids _ _›.mono (by decide)) :
    Within parts s0 (State.damaged s f cause) := by
  unfold State.damaged
  with_reducible repeat' first | assumption | exact Within.refl _ | exact ‹Avoids _ _›.mono (by decide) | apply State.bumpSat_keeps | apply State.discard_keeps

theorem State.packetIn_keeps {s0 s : State} (h : Within parts s0 s) {f : Nat} {p : Packet}
    (hm : Avoids parts 4104 := by exact ‹Avoids _ _›.mono (by decide)) :
    Within parts s0 (State.packetIn s f p) := by
  unfold State.packetIn
  with_reducible repeat' first | (extract_lets +onlyGivenNames x1; first | (refine Within.cut (m := parts) (s0 := s0) (v := x1) ?_ ?_; rotate_left; intro hx; clear_value x1; rotate_left; unfold x1; clear x1) | clear_value x1) | assumption | exact Within.refl _ | exact ‹Avoids _ _›.mono (by decide) | apply State.damaged_keeps | apply State.discard_keeps | apply State.raise_keeps | apply State.setLink_keeps | apply State.setMax_keeps | apply Within.ite

theorem State.dropPart_keeps {s0 s : State} (h : Within parts s0 s) {f : Nat}
    (hm : Avoids parts 4104 := by exact ‹Avoids _ _›.mono (by decide)) :
    Within parts s0 (State.dropPart s f) := by
  unfold State.dropPart
  with_reducible repeat' first | (extract_lets +onlyGivenNames x1; first | (refine Within.cut (m := parts) (s0 := s0) (v := x1) ?_ ?_; rotate_left; intro hx; clear_value x1; rotate_left; unfold x1; clear x1) | clear_value x1) | assumption | exact Within.refl _ | exact ‹Avoids _ _›.mono (by decide) | apply State.damaged_keeps | apply State.setLink_keeps | split

theorem State.blockIn_keeps {s0 s : State} (h : Within parts s0 s) {f : Nat} {cause : Nat} {b : Blk}
    (hm : Avoids parts 4104 := by exact ‹Avoids _ _›.mono (by decide)) :
    Within parts s0 (State.blockIn s f cause b) := by
  unfold State.blockIn
  with_reducible repeat' first | (extract_lets +onlyGivenNames x1; first | (refine Within.cut (m := parts) (s0 := s0) (v := x1) ?_ ?_; rotate_left; intro hx; clear_value x1; rotate_left; unfold x1; clear x1) | clear_value x1) | assumption | exact Within.refl _ | exact ‹Avoids _ _›.mono (by decide) | apply State.bumpSat_keeps | apply State.dropPart_keeps | apply State.packetIn_keeps | apply State.setLink_keeps | apply Within.ite | split

theorem State.codeword_keeps {s0 s : State} (h : Within parts s0 s) {f : Nat} {blocks : List Blk} {cause : Nat}
    (hm : Avoids parts 4104 := by exact ‹Avoids _ _›.mono (by decide)) :
    Within parts s0 (State.codeword s f blocks cause) := by
  unfold State.codeword
  with_reducible repeat' first | intro _ | assumption | exact Within.refl _ | exact ‹Avoids _ _›.mono (by decide) | apply State.blockIn_keeps | apply State.forList_keeps

theorem State.fecCount_keeps {s0 s : State} (h : Within parts s0 s) {f : Nat} {dec : Option (Nat × List Nat)}
    (hm : Avoids parts 8 := by exact ‹Avoids _ _›.mono (by decide)) :
    Within parts s0 (State.fecCount s f dec) := by
  unfold State.fecCount
  with_reducible repeat' first | assumption | exact Within.refl _ | exact ‹Avoids _ _›.mono (by decide) | apply State.bumpSat_keeps | apply Within.ite | split

theorem State.elastic_keeps {s0 s : State} (h : Within parts s0 s) {f : Nat} {ins : Nat} {del : Nat} {slip : Bool}
    (hm : Avoids parts 4104 := by exact ‹Avoids _ _›.mono (by decide)) :
    Within parts s0 (State.elastic s f ins del slip) := by
  unfold State.elastic
  with_reducible repeat' first | (extract_lets +onlyGivenNames x1; first | (refine Within.cut (m := parts) (s0 := s0) (v := x1) ?_ ?_; rotate_left; intro hx; clear_value x1; rotate_left; unfold x1; clear x1) | clear_value x1) | assumption | exact Within.refl _ | exact ‹Avoids _ _›.mono (by decide) | apply State.bump_keeps | apply State.raise_keeps | apply State.setLink_keeps | apply Within.ite

theorem State.codewordTo_keeps {s0 s : State} (h : Within parts s0 s) {f : Nat} {n : Nat} {seq : Nat} {dec : Option (Nat × List Nat)}
    (hm : Avoids parts 1189834908 := by exact ‹Avoids _ _›.mono (by decide)) :
    Within parts s0 (State.codewordTo s f n seq dec) := by
  unfold State.codewordTo
  with_reducible repeat' first | intro _ | (extract_lets +onlyGivenNames x1; first | (refine Within.cut (m := parts) (s0 := s0) (v := x1) ?_ ?_; rotate_left; intro hx; clear_value x1; rotate_left; unfold x1; clear x1) | clear_value x1) | assumption | exact Within.refl _ | exact ‹Avoids _ _›.mono (by decide) | apply State.codeword_keeps | apply State.linkFall_keeps | apply State.linkHello_keeps | apply State.setLink_keeps | apply Within.ite | split

theorem State.codewordIn_keeps {s0 s : State} (h : Within parts s0 s) {f : Nat} {dec : Option (Nat × List Nat)} {ins : Nat} {del : Nat} {slip : Bool}
    (hm : Avoids parts 1189834908 := by exact ‹Avoids _ _›.mono (by decide)) :
    Within parts s0 (State.codewordIn s f dec ins del slip) := by
  unfold State.codewordIn
  with_reducible repeat' first | (extract_lets +onlyGivenNames x1; first | (refine Within.cut (m := parts) (s0 := s0) (v := x1) ?_ ?_; rotate_left; intro hx; clear_value x1; rotate_left; unfold x1; clear x1) | clear_value x1) | assumption | exact Within.refl _ | exact ‹Avoids _ _›.mono (by decide) | apply State.codewordTo_keeps | apply State.elastic_keeps | apply State.fecCount_keeps | apply State.setLink_keeps | apply Within.ite

theorem State.laneBip_keeps {s0 s : State} (h : Within parts s0 s) {l : Nat} {bits : List Bool}
    (hm : Avoids parts 2048 := by exact ‹Avoids _ _›.mono (by decide)) :
    Within parts s0 (State.laneBip s l bits) := by
  unfold State.laneBip
  with_reducible repeat' first | assumption | exact Within.refl _ | exact ‹Avoids _ _›.mono (by decide) | apply State.setLane_keeps

theorem State.lanesIn_keeps {s0 s : State} (h : Within parts s0 s) {f : Nat} {bits : List (List Bool)} {ins : Nat} {del : Nat} {slip : Bool}
    (hm : Avoids parts 1189836956 := by exact ‹Avoids _ _›.mono (by decide)) :
    Within parts s0 (State.lanesIn s f bits ins del slip) := by
  unfold State.lanesIn
  with_reducible repeat' first | intro _ | (extract_lets +onlyGivenNames x1; first | (refine Within.cut (m := parts) (s0 := s0) (v := x1) ?_ ?_; rotate_left; intro hx; clear_value x1; rotate_left; unfold x1; clear x1) | clear_value x1) | assumption | exact Within.refl _ | exact ‹Avoids _ _›.mono (by decide) | apply State.codewordIn_keeps | apply State.forList_keeps | apply State.laneBip_keeps | apply Within.ite

theorem execCodewordDecode_keeps {s : State} {f : Fin 32} {prev : BitVec 16} {rx : BitVec 5440} {ins : Nat} {del : Nat} {slip : Bool}
    (hm : Avoids parts 1189836956 := by exact ‹Avoids _ _›.mono (by decide)) : EKeeps parts s (execCodewordDecode f prev rx ins del slip s) := by
  have h : Within parts s s := .refl s
  unfold execCodewordDecode
  with_reducible repeat' first | intro _ | assumption | exact Within.refl _ | exact ‹Avoids _ _›.mono (by decide) | apply State.forList_keeps | apply State.laneTook_keeps | apply State.lanesIn_keeps | apply Within.ite | apply EKeeps.next | apply EKeeps.ite

theorem State.takePacket_keeps2 {s0 s : State} (h : Within parts s0 s) {f : Nat} {q : Packet → Bool} {t : State} {p : Packet}
    (e : s.takePacket f q = some (p, t))
    (hm : Avoids parts 4096 := by exact ‹Avoids _ _›.mono (by decide)) : Within parts s0 t := by
  unfold State.takePacket at e
  dsimp only at e
  split at e
  · injection e with e
    injection e with e1 e2
    rw [← e2]
    exact State.setLink_keeps h
  · cases e

theorem State.response_keeps {s0 s : State} (h : Within parts s0 s) {f : Nat} {p : Packet} {kind : Nat}
    (hm : Avoids parts 1189834972 := by exact ‹Avoids _ _›.mono (by decide)) :
    Within parts s0 (State.response s f p kind) := by
  unfold State.response
  with_reducible repeat' first | intro _ | (extract_lets +onlyGivenNames x1; first | (refine Within.cut (m := parts) (s0 := s0) (v := x1) ?_ ?_; rotate_left; intro hx; clear_value x1; rotate_left; unfold x1; clear x1) | clear_value x1) | assumption | exact Within.refl _ | exact ‹Avoids _ _›.mono (by decide) | apply State.bumpSat_keeps | apply State.ctrlDone_keeps | apply State.mfPush_keeps | apply State.setEp_keeps | apply Within.ite | split

theorem execRdata_keeps {s : State} {f : Fin 32}
    (hm : Avoids parts 1189834972 := by exact ‹Avoids _ _›.mono (by decide)) : EKeeps parts s (execRdata f s) := by
  have h : Within parts s s := .refl s
  unfold execRdata
  with_reducible repeat' first | assumption | exact Within.refl _ | exact ‹Avoids _ _›.mono (by decide) | apply State.response_keeps | (refine State.takePacket_keeps2 ?_ ‹_›) | split | apply EKeeps.next | apply EKeeps.ite

theorem execWack_keeps {s : State} {f : Fin 32}
    (hm : Avoids parts 1189834972 := by exact ‹Avoids _ _›.mono (by decide)) : EKeeps parts s (execWack f s) := by
  have h : Within parts s s := .refl s
  unfold execWack
  with_reducible repeat' first | assumption | exact Within.refl _ | exact ‹Avoids _ _›.mono (by decide) | apply State.response_keeps | (refine State.takePacket_keeps2 ?_ ‹_›) | split | apply EKeeps.next | apply EKeeps.ite

theorem execMsg_keeps {s : State} {f : Fin 32}
    (hm : Avoids parts 12296 := by exact ‹Avoids _ _›.mono (by decide)) : EKeeps parts s (execMsg f s) := by
  have h : Within parts s s := .refl s
  unfold execMsg
  with_reducible repeat' first | assumption | exact Within.refl _ | exact ‹Avoids _ _›.mono (by decide) | apply State.mfPush_keeps | (refine State.takePacket_keeps2 ?_ ‹_›) | apply Within.ite | split | apply EKeeps.next | apply EKeeps.ite

theorem execHeadEvent_keeps {s : State} {f : Fin 32}
    (hm : Avoids parts 67121292 := by exact ‹Avoids _ _›.mono (by decide)) : EKeeps parts s (execHeadEvent f s) := by
  have h : Within parts s s := .refl s
  unfold execHeadEvent
  with_reducible repeat' first | intro _ | (extract_lets +onlyGivenNames x1; first | (refine Within.cut (m := parts) (s0 := s) (v := x1) ?_ ?_; rotate_left; intro hx; clear_value x1; rotate_left; unfold x1; clear x1) | clear_value x1) | assumption | exact Within.refl _ | exact ‹Avoids _ _›.mono (by decide) | apply State.mfPush_keeps | apply State.publish_keeps | (refine State.takePacket_keeps2 ?_ ‹_›) | apply Within.ite | split | apply EKeeps.next | apply EKeeps.ite

theorem execCredit_keeps {s : State} {f : Fin 32}
    (hm : Avoids parts 12296 := by exact ‹Avoids _ _›.mono (by decide)) : EKeeps parts s (execCredit f s) := by
  have h : Within parts s s := .refl s
  unfold execCredit
  with_reducible repeat' first | intro _ | (extract_lets +onlyGivenNames x1; first | (refine Within.cut (m := parts) (s0 := s) (v := x1) ?_ ?_; rotate_left; intro hx; clear_value x1; rotate_left; unfold x1; clear x1) | clear_value x1) | assumption | exact Within.refl _ | exact ‹Avoids _ _›.mono (by decide) | apply State.bumpSat_keeps | apply State.ctrlPump_keeps | apply State.setEp_keeps | (refine State.takePacket_keeps2 ?_ ‹_›) | apply Within.ite | split | apply EKeeps.next | apply EKeeps.ite

theorem execCtrlTimeout_keeps {s : State} {e : Fin 2048} {tag : BitVec 8}
    (hm : Avoids parts 1189834972 := by exact ‹Avoids _ _›.mono (by decide)) : EKeeps parts s (execCtrlTimeout e tag s) := by
  have h : Within parts s s := .refl s
  unfold execCtrlTimeout
  with_reducible repeat' first | intro _ | (extract_lets +onlyGivenNames x1; first | (refine Within.cut (m := parts) (s0 := s) (v := x1) ?_ ?_; rotate_left; intro hx; clear_value x1; rotate_left; unfold x1; clear x1) | clear_value x1) | assumption | exact Within.refl _ | exact ‹Avoids _ _›.mono (by decide) | apply State.bumpSat_keeps | apply State.ctrlDone_keeps | apply State.epochReset_keeps | apply State.mfPush_keeps | apply State.setEp_keeps | apply Within.ite | split | apply EKeeps.next | apply EKeeps.ite

theorem State.creditReset_keeps {s0 s : State} (h : Within parts s0 s) {f : Nat}
    (hm : Avoids parts 12296 := by exact ‹Avoids _ _›.mono (by decide)) :
    Within parts s0 (State.creditReset s f) := by
  unfold State.creditReset
  with_reducible repeat' first | intro _ | assumption | exact Within.refl _ | exact ‹Avoids _ _›.mono (by decide) | apply State.epochReset_keeps | apply State.forList_keeps

theorem execCreditReset_keeps {s : State} {who : Who} {f : Fin 32} {v : Word}
    (hm : Avoids parts 1082142856 := by exact ‹Avoids _ _›.mono (by decide)) : EKeeps parts s (execCreditReset who f v s) := by
  have h : Within parts s s := .refl s
  unfold execCreditReset
  with_reducible repeat' first | intro _ | (extract_lets +onlyGivenNames x1; first | (refine Within.cut (m := parts) (s0 := s) (v := x1) ?_ ?_; rotate_left; intro hx; clear_value x1; rotate_left; unfold x1; clear x1) | clear_value x1) | assumption | exact Within.refl _ | exact ‹Avoids _ _›.mono (by decide) | apply State.creditReset_keeps | apply State.set_keeps | apply State.viaBus_keeps | apply State.writeReg_keeps | apply Within.ite | apply EKeeps.next | apply EKeeps.ite

theorem execEchoRsp_keeps {s : State} {f : Fin 32} {t4 : Nat}
    (hm : Avoids parts 4104 := by exact ‹Avoids _ _›.mono (by decide)) : EKeeps parts s (execEchoRsp f t4 s) := by
  have h : Within parts s s := .refl s
  unfold execEchoRsp
  with_reducible repeat' first | intro _ | (extract_lets +onlyGivenNames x1; first | (refine Within.cut (m := parts) (s0 := s) (v := x1) ?_ ?_; rotate_left; intro hx; clear_value x1; rotate_left; unfold x1; clear x1) | clear_value x1) | assumption | exact Within.refl _ | exact ‹Avoids _ _›.mono (by decide) | (refine State.takePacket_keeps2 ?_ ‹_›) | apply State.raise_keeps | apply State.setLink_keeps | apply State.set_keeps | apply State.trigRefresh_keeps | split | apply EKeeps.next | apply EKeeps.ite

theorem execEchoReqTimer_keeps {s : State} {f : Fin 32} {t1 : Nat}
    (hm : Avoids parts 4096 := by exact ‹Avoids _ _›.mono (by decide)) : EKeeps parts s (execEchoReqTimer f t1 s) := by
  have h : Within parts s s := .refl s
  unfold execEchoReqTimer
  with_reducible repeat' first | assumption | exact Within.refl _ | exact ‹Avoids _ _›.mono (by decide) | apply State.sendEcho_keeps | apply Within.ite | apply EKeeps.next | apply EKeeps.ite

theorem execTimePosTimer_keeps {s : State} {f : Fin 32}
    (hm : Avoids parts 4096 := by exact ‹Avoids _ _›.mono (by decide)) : EKeeps parts s (execTimePosTimer f s) := by
  have h : Within parts s s := .refl s
  unfold execTimePosTimer
  with_reducible repeat' first | (extract_lets +onlyGivenNames x1; first | (refine Within.cut (m := parts) (s0 := s) (v := x1) ?_ ?_; rotate_left; intro hx; clear_value x1; rotate_left; unfold x1; clear x1) | clear_value x1) | assumption | exact Within.refl _ | exact ‹Avoids _ _›.mono (by decide) | apply State.sendLink_keeps | apply Within.ite | apply EKeeps.next | apply EKeeps.ite

theorem State.helloDone_keeps {s0 s : State} (h : Within parts s0 s) {f : Nat}
    (hm : Avoids parts 1182953676 := by exact ‹Avoids _ _›.mono (by decide)) :
    Within parts s0 (State.helloDone s f) := by
  unfold State.helloDone
  with_reducible repeat' first | (extract_lets +onlyGivenNames x1; first | (refine Within.cut (m := parts) (s0 := s0) (v := x1) ?_ ?_; rotate_left; intro hx; clear_value x1; rotate_left; unfold x1; clear x1) | clear_value x1) | assumption | exact Within.refl _ | exact ‹Avoids _ _›.mono (by decide) | apply State.linkUp_keeps | apply Within.ite

theorem execHello_keeps {s : State} {f : Fin 32} {vendor : BitVec 32} {serial : BitVec 64}
    (hm : Avoids parts 1182953676 := by exact ‹Avoids _ _›.mono (by decide)) : EKeeps parts s (execHello f vendor serial s) := by
  have h : Within parts s s := .refl s
  unfold execHello
  with_reducible repeat' first | intro _ | (extract_lets +onlyGivenNames x1; first | (refine Within.cut (m := parts) (s0 := s) (v := x1) ?_ ?_; rotate_left; intro hx; clear_value x1; rotate_left; unfold x1; clear x1) | clear_value x1) | assumption | exact Within.refl _ | exact ‹Avoids _ _›.mono (by decide) | apply State.helloDone_keeps | apply State.publishLink_keeps | apply State.raise_keeps | apply State.setLink_keeps | apply State.setReg_keeps | apply State.set_keeps | apply State.trigRefresh_keeps | (refine State.takePacket_keeps2 ?_ ‹_›) | apply Within.ite | split | apply EKeeps.next | apply EKeeps.ite

theorem execHelloTimer_keeps {s : State} {f : Fin 32}
    (hm : Avoids parts 1182953676 := by exact ‹Avoids _ _›.mono (by decide)) : EKeeps parts s (execHelloTimer f s) := by
  have h : Within parts s s := .refl s
  unfold execHelloTimer
  with_reducible repeat' first | assumption | exact Within.refl _ | exact ‹Avoids _ _›.mono (by decide) | apply State.helloDone_keeps | apply State.sendHello_keeps | apply Within.ite | apply EKeeps.next | apply EKeeps.ite

theorem execPropose_keeps {s : State} {who : Who} {f : Fin 32} {v : Word}
    (hm : Avoids parts 1082134668 := by exact ‹Avoids _ _›.mono (by decide)) : EKeeps parts s (execPropose who f v s) := by
  have h : Within parts s s := .refl s
  unfold execPropose
  with_reducible repeat' first | intro _ | (extract_lets +onlyGivenNames x1; first | (refine Within.cut (m := parts) (s0 := s) (v := x1) ?_ ?_; rotate_left; intro hx; clear_value x1; rotate_left; unfold x1; clear x1) | clear_value x1) | assumption | exact Within.refl _ | exact ‹Avoids _ _›.mono (by decide) | apply State.clear_keeps | apply State.sendHello_keeps | apply State.viaBus_keeps | apply State.writeReg_keeps | apply Within.ite | apply EKeeps.next | apply EKeeps.ite

theorem execPortStatus_keeps {s : State} {f : Fin 32} {vendor : BitVec 32} {serial : BitVec 64}
    (hm : Avoids parts 1189834908 := by exact ‹Avoids _ _›.mono (by decide)) : EKeeps parts s (execPortStatus f vendor serial s) := by
  have h : Within parts s s := .refl s
  unfold execPortStatus
  with_reducible repeat' first | intro _ | (extract_lets +onlyGivenNames x1; first | (refine Within.cut (m := parts) (s0 := s) (v := x1) ?_ ?_; rotate_left; intro hx; clear_value x1; rotate_left; unfold x1; clear x1) | clear_value x1) | assumption | exact Within.refl _ | exact ‹Avoids _ _›.mono (by decide) | (refine State.takePacket_keeps2 ?_ ‹_›) | apply State.enrolAdd_keeps | apply State.enrolEnd_keeps | apply State.epLost_keeps | apply State.setFlag_keeps | apply State.set_keeps | apply State.trigRefresh_keeps | exact rfl | apply Within.ite | split | apply Within.upd_enrolQ | apply EKeeps.next | apply EKeeps.ite

theorem execDrop_keeps {s : State} {f : Fin 32}
    (hm : Avoids parts 74010780 := by exact ‹Avoids _ _›.mono (by decide)) : EKeeps parts s (execDrop f s) := by
  have h : Within parts s s := .refl s
  unfold execDrop
  with_reducible repeat' first | intro _ | (extract_lets +onlyGivenNames x1; first | (refine Within.cut (m := parts) (s0 := s) (v := x1) ?_ ?_; rotate_left; intro hx; clear_value x1; rotate_left; unfold x1; clear x1) | clear_value x1) | assumption | exact Within.refl _ | exact ‹Avoids _ _›.mono (by decide) | apply State.lossLink_keeps | apply State.setStream_keeps | (refine State.takePacket_keeps2 ?_ ‹_›) | apply Within.ite | split | apply EKeeps.next | apply EKeeps.ite

theorem State.setTrig_keeps {s0 s : State} (h : Within parts s0 s) {f : Nat} {i : Nat} {t : TrigIn}
    (hm : Avoids parts 4096 := by exact ‹Avoids _ _›.mono (by decide)) :
    Within parts s0 (State.setTrig s f i t) := by
  unfold State.setTrig
  with_reducible repeat' first | assumption | exact Within.refl _ | exact ‹Avoids _ _›.mono (by decide) | apply State.setLink_keeps

theorem State.trigAct_keeps {s0 s : State} (h : Within parts s0 s) {f : Nat} {i : Nat} {e : Event}
    (hm : Avoids parts 4105 := by exact ‹Avoids _ _›.mono (by decide)) :
    Within parts s0 (State.trigAct s f i e) := by
  unfold State.trigAct
  with_reducible repeat' first | (extract_lets +onlyGivenNames x1; first | (refine Within.cut (m := parts) (s0 := s0) (v := x1) ?_ ?_; rotate_left; intro hx; clear_value x1; rotate_left; unfold x1; clear x1) | clear_value x1) | assumption | exact Within.refl _ | exact ‹Avoids _ _›.mono (by decide) | apply State.bumpSat_keeps | apply State.bump_keeps | apply State.raise_keeps | apply State.setTrig_keeps | exact rfl | apply Within.ite | apply Within.upd_clk

theorem State.deliverTriggers_keeps {s0 s : State} (h : Within parts s0 s) {e : Event}
    (hm : Avoids parts 67113097 := by exact ‹Avoids _ _›.mono (by decide)) :
    Within parts s0 (State.deliverTriggers s e) := by
  unfold State.deliverTriggers
  with_reducible repeat' first | intro _ | assumption | exact Within.refl _ | exact ‹Avoids _ _›.mono (by decide) | apply State.bumpSat_keeps | apply State.deliver_keeps | apply State.forEach_keeps | apply State.trigAct_keeps | apply Within.ite

theorem execTrigLaunch_keeps {s : State} {f : Fin 32} {i : Fin 8} {tx : Nat} {bnd : Nat}
    (hm : Avoids parts 1073745928 := by exact ‹Avoids _ _›.mono (by decide)) : EKeeps parts s (execTrigLaunch f i tx bnd s) := by
  have h : Within parts s s := .refl s
  unfold execTrigLaunch
  with_reducible repeat' first | (extract_lets +onlyGivenNames x1; first | (refine Within.cut (m := parts) (s0 := s) (v := x1) ?_ ?_; rotate_left; intro hx; clear_value x1; rotate_left; unfold x1; clear x1) | clear_value x1) | assumption | exact Within.refl _ | exact ‹Avoids _ _›.mono (by decide) | apply State.bumpSat_keeps | apply State.emit_keeps | apply State.raise_keeps | apply State.sendLink_keeps | apply State.setLink_keeps | apply State.setTrig_keeps | apply Within.ite | split | apply EKeeps.next | apply EKeeps.ite

theorem execTrigCtrlWrite_keeps {s : State} {who : Who} {f : Fin 32} {i : Fin 8} {v : Word}
    (hm : Avoids parts 1082142856 := by exact ‹Avoids _ _›.mono (by decide)) : EKeeps parts s (execTrigCtrlWrite who f i v s) := by
  have h : Within parts s s := .refl s
  unfold execTrigCtrlWrite
  with_reducible repeat' first | intro _ | (extract_lets +onlyGivenNames x1; first | (refine Within.cut (m := parts) (s0 := s) (v := x1) ?_ ?_; rotate_left; intro hx; clear_value x1; rotate_left; unfold x1; clear x1) | clear_value x1) | assumption | exact Within.refl _ | exact ‹Avoids _ _›.mono (by decide) | apply State.clear_keeps | apply State.groupUpdate_keeps | apply State.raise_keeps | apply State.set_keeps | apply State.trigRefresh_keeps | apply State.viaBus_keeps | apply State.writeReg_keeps | exact rfl | apply Within.ite | apply Within.upd_groups | apply EKeeps.next | apply EKeeps.ite

theorem State.lineArrives_keeps {s0 s : State} (h : Within parts s0 s) {d : Nat} {line : Nat}
    (hm : Avoids parts 74010780 := by exact ‹Avoids _ _›.mono (by decide)) :
    Within parts s0 (State.lineArrives s d line) := by
  unfold State.lineArrives
  with_reducible repeat' first | intro _ | (extract_lets +onlyGivenNames x1; first | (refine Within.cut (m := parts) (s0 := s0) (v := x1) ?_ ?_; rotate_left; intro hx; clear_value x1; rotate_left; unfold x1; clear x1) | clear_value x1) | assumption | exact Within.refl _ | exact ‹Avoids _ _›.mono (by decide) | apply State.lossLink_keeps | apply State.setLink_keeps | apply State.setStream_keeps | apply State.set_keeps | apply Within.ite | split

theorem State.lineDone_keeps {s0 s : State} (h : Within parts s0 s) {d : Nat} {l : Line} {payload : List Byte}
    (hm : Avoids parts 74010780 := by exact ‹Avoids _ _›.mono (by decide)) :
    Within parts s0 (State.lineDone s d l payload) := by
  unfold State.lineDone
  with_reducible repeat' first | (extract_lets +onlyGivenNames x1; first | (refine Within.cut (m := parts) (s0 := s0) (v := x1) ?_ ?_; rotate_left; intro hx; clear_value x1; rotate_left; unfold x1; clear x1) | clear_value x1) | assumption | exact Within.refl _ | exact ‹Avoids _ _›.mono (by decide) | apply State.bumpSat_keeps | apply State.lineArrives_keeps | apply State.lossLink_keeps | apply State.rawWrite_keeps | apply State.setLink_keeps | apply Within.ite | split

theorem State.geomBad_keeps {s0 s : State} (h : Within parts s0 s) {f : Nat} {d : Nat} {line : Nat}
    (hm : Avoids parts 4104 := by exact ‹Avoids _ _›.mono (by decide)) :
    Within parts s0 (State.geomBad s f d line) := by
  unfold State.geomBad
  with_reducible repeat' first | intro _ | (extract_lets +onlyGivenNames x1; first | (refine Within.cut (m := parts) (s0 := s0) (v := x1) ?_ ?_; rotate_left; intro hx; clear_value x1; rotate_left; unfold x1; clear x1) | clear_value x1) | assumption | exact Within.refl _ | exact ‹Avoids _ _›.mono (by decide) | apply State.bumpSat_keeps | apply State.damaged_keeps | apply State.setLink_keeps

theorem State.segment_keeps {s0 s : State} (h : Within parts s0 s) {f : Nat} {d : Nat} {p : Packet}
    (hm : Avoids parts 74010780 := by exact ‹Avoids _ _›.mono (by decide)) :
    Within parts s0 (State.segment s f d p) := by
  unfold State.segment
  with_reducible repeat' first | intro _ | (extract_lets +onlyGivenNames x1; first | (refine Within.cut (m := parts) (s0 := s0) (v := x1) ?_ ?_; rotate_left; intro hx; clear_value x1; rotate_left; unfold x1; clear x1) | clear_value x1) | assumption | exact Within.refl _ | exact ‹Avoids _ _›.mono (by decide) | apply State.geomBad_keeps | apply State.lineDone_keeps | apply State.setLink_keeps | apply State.setStream_keeps | apply Within.ite | split

theorem execStreamRx_keeps {s : State} {f : Fin 32}
    (hm : Avoids parts 74010780 := by exact ‹Avoids _ _›.mono (by decide)) : EKeeps parts s (execStreamRx f s) := by
  have h : Within parts s s := .refl s
  unfold execStreamRx
  with_reducible repeat' first | intro _ | (extract_lets +onlyGivenNames x1; first | (refine Within.cut (m := parts) (s0 := s) (v := x1) ?_ ?_; rotate_left; intro hx; clear_value x1; rotate_left; unfold x1; clear x1) | clear_value x1) | assumption | exact Within.refl _ | exact ‹Avoids _ _›.mono (by decide) | (refine State.takePacket_keeps2 ?_ ‹_›) | apply State.bumpSat_keeps | apply State.segment_keeps | apply Within.ite | split | apply EKeeps.next | apply EKeeps.ite

end Sys2Proof.Machine
end

