-- ==== Sys2Proof/Laws/KeepsLanes.lean ====
section
/-!
SUPPORT. The operations of Machine/Lanes.lean keep what every step keeps.
-/
set_option Elab.async false
namespace Sys2Proof.Machine

set_option linter.tactic.unusedName false

variable {parts : Nat}

theorem State.laneWrite_keeps {s0 s : State} (h : Within parts s0 s) {who : Who} {l : Nat} {f : State → State} (h_f : ∀  t, Within parts s0 t → Within parts s0 (f  t))
    (hm : Avoids parts 8 := by exact ‹Avoids _ _›.mono (by decide)) :
    Within parts s0 (State.laneWrite s who l f) := by
  unfold State.laneWrite
  with_reducible repeat' first | intro _ | assumption | exact Within.refl _ | exact ‹Avoids _ _›.mono (by decide) | apply State.raise_keeps | apply h_f | apply Within.ite

theorem State.publishLane_keeps {s0 s : State} (h : Within parts s0 s) {l : Nat} {kind : Nat}
    (hm : Avoids parts 67109004 := by exact ‹Avoids _ _›.mono (by decide)) :
    Within parts s0 (State.publishLane s l kind) := by
  unfold State.publishLane
  with_reducible repeat' first | assumption | exact Within.refl _ | exact ‹Avoids _ _›.mono (by decide) | apply State.publish_keeps

theorem State.laneSends_keeps {s0 s : State} (h : Within parts s0 s) {l : Nat} {on : Bool}
    (hm : Avoids parts 1073743872 := by exact ‹Avoids _ _›.mono (by decide)) :
    Within parts s0 (State.laneSends s l on) := by
  unfold State.laneSends
  with_reducible repeat' first | (extract_lets +onlyGivenNames x1; first | (refine Within.cut (m := parts) (s0 := s0) (v := x1) ?_ ?_; rotate_left; intro hx; clear_value x1; rotate_left; unfold x1; clear x1) | clear_value x1) | assumption | exact Within.refl _ | exact ‹Avoids _ _›.mono (by decide) | apply State.emit_keeps | apply State.setLane_keeps | apply Within.ite

theorem State.txDrive_keeps {s0 s : State} (h : Within parts s0 s) {l : Nat}
    (hm : Avoids parts 1073743872 := by exact ‹Avoids _ _›.mono (by decide)) :
    Within parts s0 (State.txDrive s l) := by
  unfold State.txDrive
  with_reducible repeat' first | assumption | exact Within.refl _ | exact ‹Avoids _ _›.mono (by decide) | apply State.laneSends_keeps | split

theorem State.readyFall_keeps {s0 s : State} (h : Within parts s0 s) {l : Nat}
    (hm : Avoids parts 1189836956 := by exact ‹Avoids _ _›.mono (by decide)) :
    Within parts s0 (State.readyFall s l) := by
  unfold State.readyFall
  with_reducible repeat' first | (extract_lets +onlyGivenNames x1; first | (refine Within.cut (m := parts) (s0 := s0) (v := x1) ?_ ?_; rotate_left; intro hx; clear_value x1; rotate_left; unfold x1; clear x1) | clear_value x1) | assumption | exact Within.refl _ | exact ‹Avoids _ _›.mono (by decide) | apply State.clear_keeps | apply State.linkLaneDown_keeps | apply State.publishLane_keeps | apply State.raise_keeps | apply State.setLane_keeps | apply State.txDrive_keeps | apply Within.ite

theorem State.readyRise_keeps {s0 s : State} (h : Within parts s0 s) {l : Nat}
    (hm : Avoids parts 1189837020 := by exact ‹Avoids _ _›.mono (by decide)) :
    Within parts s0 (State.readyRise s l) := by
  unfold State.readyRise
  with_reducible repeat' first | (extract_lets +onlyGivenNames x1; first | (refine Within.cut (m := parts) (s0 := s0) (v := x1) ?_ ?_; rotate_left; intro hx; clear_value x1; rotate_left; unfold x1; clear x1) | clear_value x1) | assumption | exact Within.refl _ | exact ‹Avoids _ _›.mono (by decide) | apply State.linkLaneUp_keeps | apply State.publishLane_keeps | apply State.raise_keeps | apply State.set_keeps | apply State.setLane_keeps | apply State.txDrive_keeps | apply State.unitTo_keeps | apply Within.ite

theorem State.rxTo_keeps {s0 s : State} (h : Within parts s0 s) {l : Nat} {st : Nat}
    (hm : Avoids parts 1189836956 := by exact ‹Avoids _ _›.mono (by decide)) :
    Within parts s0 (State.rxTo s l st) := by
  unfold State.rxTo
  with_reducible repeat' first | (extract_lets +onlyGivenNames x1; first | (refine Within.cut (m := parts) (s0 := s0) (v := x1) ?_ ?_; rotate_left; intro hx; clear_value x1; rotate_left; unfold x1; clear x1) | clear_value x1) | assumption | exact Within.refl _ | exact ‹Avoids _ _›.mono (by decide) | apply State.readyFall_keeps | apply State.setFlag_keeps | apply State.setLane_keeps | apply State.set_keeps

theorem State.coldEq_keeps {s0 s : State} (h : Within parts s0 s) {l : Nat}
    (hm : Avoids parts 2056 := by exact ‹Avoids _ _›.mono (by decide)) :
    Within parts s0 (State.coldEq s l) := by
  unfold State.coldEq
  with_reducible repeat' first | intro _ | (extract_lets +onlyGivenNames x1; first | (refine Within.cut (m := parts) (s0 := s0) (v := x1) ?_ ?_; rotate_left; intro hx; clear_value x1; rotate_left; unfold x1; clear x1) | clear_value x1) | assumption | exact Within.refl _ | exact ‹Avoids _ _›.mono (by decide) | apply State.clear_keeps | apply State.forEach_keeps | apply State.set_keeps | apply State.setLane_keeps | apply Within.ite

theorem State.noSignal_keeps {s0 s : State} (h : Within parts s0 s) {l : Nat} {warm : Bool}
    (hm : Avoids parts 1189837020 := by exact ‹Avoids _ _›.mono (by decide)) :
    Within parts s0 (State.noSignal s l warm) := by
  unfold State.noSignal
  with_reducible repeat' first | (extract_lets +onlyGivenNames x1; first | (refine Within.cut (m := parts) (s0 := s0) (v := x1) ?_ ?_; rotate_left; intro hx; clear_value x1; rotate_left; unfold x1; clear x1) | clear_value x1) | assumption | exact Within.refl _ | exact ‹Avoids _ _›.mono (by decide) | apply State.coldEq_keeps | apply State.readyRise_keeps | apply State.rxTo_keeps | apply State.setLane_keeps | apply Within.ite

theorem State.rxOff_keeps {s0 s : State} (h : Within parts s0 s) {l : Nat}
    (hm : Avoids parts 1189836956 := by exact ‹Avoids _ _›.mono (by decide)) :
    Within parts s0 (State.rxOff s l) := by
  unfold State.rxOff
  with_reducible repeat' first | assumption | exact Within.refl _ | exact ‹Avoids _ _›.mono (by decide) | apply State.rxTo_keeps

theorem State.rxStart_keeps {s0 s : State} (h : Within parts s0 s) {l : Nat} {warm : Bool}
    (hm : Avoids parts 1189837020 := by exact ‹Avoids _ _›.mono (by decide)) :
    Within parts s0 (State.rxStart s l warm) := by
  unfold State.rxStart
  with_reducible repeat' first | (extract_lets +onlyGivenNames x1; first | (refine Within.cut (m := parts) (s0 := s0) (v := x1) ?_ ?_; rotate_left; intro hx; clear_value x1; rotate_left; unfold x1; clear x1) | clear_value x1) | assumption | exact Within.refl _ | exact ‹Avoids _ _›.mono (by decide) | apply State.noSignal_keeps | apply State.setLane_keeps | apply Within.ite

theorem State.rxCold_keeps {s0 s : State} (h : Within parts s0 s) {l : Nat}
    (hm : Avoids parts 1189837020 := by exact ‹Avoids _ _›.mono (by decide)) :
    Within parts s0 (State.rxCold s l) := by
  unfold State.rxCold
  with_reducible repeat' first | assumption | exact Within.refl _ | exact ‹Avoids _ _›.mono (by decide) | apply State.rxStart_keeps | apply State.setLane_keeps

theorem State.setPllLock_keeps {s0 s : State} (h : Within parts s0 s) {g : Nat} {b : Bool}
    (hm : Avoids parts 8 := by exact ‹Avoids _ _›.mono (by decide)) :
    Within parts s0 (State.setPllLock s g b) := by
  unfold State.setPllLock
  with_reducible repeat' first | intro _ | assumption | exact Within.refl _ | exact ‹Avoids _ _›.mono (by decide) | apply State.forList_keeps | apply State.setFlag_keeps

theorem State.pllRest_keeps {s0 s : State} (h : Within parts s0 s) {g : Nat}
    (hm : Avoids parts 2056 := by exact ‹Avoids _ _›.mono (by decide)) :
    Within parts s0 (State.pllRest s g) := by
  unfold State.pllRest
  with_reducible repeat' first | assumption | exact Within.refl _ | exact ‹Avoids _ _›.mono (by decide) | apply State.setPllLock_keeps | apply Within.ite | exact rfl | apply Within.upd_pllUp_pllLost | apply Within.upd_pllUp | apply Within.upd_pllLost

theorem State.setSide_keeps {s0 s : State} (h : Within parts s0 s) {l : Nat} {tx : Bool} {p : PwrSide}
    (hm : Avoids parts 2048 := by exact ‹Avoids _ _›.mono (by decide)) :
    Within parts s0 (State.setSide s l tx p) := by
  unfold State.setSide
  with_reducible repeat' first | (extract_lets +onlyGivenNames x1; first | (refine Within.cut (m := parts) (s0 := s0) (v := x1) ?_ ?_; rotate_left; intro hx; clear_value x1; rotate_left; unfold x1; clear x1) | clear_value x1) | assumption | exact Within.refl _ | exact ‹Avoids _ _›.mono (by decide) | apply State.setLane_keeps | apply Within.ite

theorem State.pwrRequest_keeps {s0 s : State} (h : Within parts s0 s) {l : Nat} {tx : Bool} {dest : Nat} {warm : Bool}
    (hm : Avoids parts 1189836956 := by exact ‹Avoids _ _›.mono (by decide)) :
    Within parts s0 (State.pwrRequest s l tx dest warm) := by
  unfold State.pwrRequest
  with_reducible repeat' first | (extract_lets +onlyGivenNames x1; first | (refine Within.cut (m := parts) (s0 := s0) (v := x1) ?_ ?_; rotate_left; intro hx; clear_value x1; rotate_left; unfold x1; clear x1) | clear_value x1) | assumption | exact Within.refl _ | exact ‹Avoids _ _›.mono (by decide) | apply State.rxOff_keeps | apply State.setLane_keeps | apply State.setSide_keeps | apply State.txDrive_keeps | exact rfl | apply Within.ite | apply Within.upd_pllUp

theorem State.pwrWritten_keeps {s0 s : State} (h : Within parts s0 s) {l : Nat} {tx : Bool} {dest : Nat}
    (hm : Avoids parts 1189836956 := by exact ‹Avoids _ _›.mono (by decide)) :
    Within parts s0 (State.pwrWritten s l tx dest) := by
  unfold State.pwrWritten
  with_reducible repeat' first | assumption | exact Within.refl _ | exact ‹Avoids _ _›.mono (by decide) | apply State.pwrRequest_keeps | apply Within.ite

theorem State.pwrLinkAsk_keeps {s0 s : State} (h : Within parts s0 s) {l : Nat} {tx : Bool} {dest : Nat}
    (hm : Avoids parts 1189836956 := by exact ‹Avoids _ _›.mono (by decide)) :
    Within parts s0 (State.pwrLinkAsk s l tx dest) := by
  unfold State.pwrLinkAsk
  with_reducible repeat' first | (extract_lets +onlyGivenNames x1; first | (refine Within.cut (m := parts) (s0 := s0) (v := x1) ?_ ?_; rotate_left; intro hx; clear_value x1; rotate_left; unfold x1; clear x1) | clear_value x1) | assumption | exact Within.refl _ | exact ‹Avoids _ _›.mono (by decide) | apply State.pwrRequest_keeps | apply State.setSide_keeps | apply Within.ite

theorem State.laneSettle_keeps {s0 s : State} (h : Within parts s0 s) {l : Nat}
    (hm : Avoids parts 1182793932 := by exact ‹Avoids _ _›.mono (by decide)) :
    Within parts s0 (State.laneSettle s l) := by
  unfold State.laneSettle
  with_reducible repeat' first | assumption | exact Within.refl _ | exact ‹Avoids _ _›.mono (by decide) | apply State.unitTo_keeps | apply Within.ite | split

theorem State.pwrReached_keeps {s0 s : State} (h : Within parts s0 s) {l : Nat} {tx : Bool} {dest : Nat}
    (hm : Avoids parts 1189837020 := by exact ‹Avoids _ _›.mono (by decide)) :
    Within parts s0 (State.pwrReached s l tx dest) := by
  unfold State.pwrReached
  with_reducible repeat' first | (extract_lets +onlyGivenNames x1; first | (refine Within.cut (m := parts) (s0 := s0) (v := x1) ?_ ?_; rotate_left; intro hx; clear_value x1; rotate_left; unfold x1; clear x1) | clear_value x1) | assumption | exact Within.refl _ | exact ‹Avoids _ _›.mono (by decide) | apply State.laneSettle_keeps | apply State.pllRest_keeps | apply State.rxStart_keeps | apply State.set_keeps | apply State.setPllLock_keeps | apply State.txDrive_keeps | apply Within.ite

theorem execPwrTransitionDone_keeps {s : State} {l : Fin 32} {tx : Bool}
    (hm : Avoids parts 1189837020 := by exact ‹Avoids _ _›.mono (by decide)) : EKeeps parts s (execPwrTransitionDone l tx s) := by
  have h : Within parts s s := .refl s
  unfold execPwrTransitionDone
  with_reducible repeat' first | (extract_lets +onlyGivenNames x1; first | (refine Within.cut (m := parts) (s0 := s) (v := x1) ?_ ?_; rotate_left; intro hx; clear_value x1; rotate_left; unfold x1; clear x1) | clear_value x1) | assumption | exact Within.refl _ | exact ‹Avoids _ _›.mono (by decide) | apply State.pwrReached_keeps | apply State.pwrRequest_keeps | apply State.setSide_keeps | split | apply EKeeps.next | apply EKeeps.ite

theorem State.laneEnable_keeps {s0 s : State} (h : Within parts s0 s) {l : Nat}
    (hm : Avoids parts 1189837020 := by exact ‹Avoids _ _›.mono (by decide)) :
    Within parts s0 (State.laneEnable s l) := by
  unfold State.laneEnable
  with_reducible repeat' first | (extract_lets +onlyGivenNames x1; first | (refine Within.cut (m := parts) (s0 := s0) (v := x1) ?_ ?_; rotate_left; intro hx; clear_value x1; rotate_left; unfold x1; clear x1) | clear_value x1) | assumption | exact Within.refl _ | exact ‹Avoids _ _›.mono (by decide) | apply State.laneSettle_keeps | apply State.pwrRequest_keeps | apply State.raise_keeps | apply State.setLane_keeps | apply State.set_keeps | apply State.trigRefresh_keeps

theorem State.laneGate_keeps {s0 s : State} (h : Within parts s0 s) {l : Nat}
    (hm : Avoids parts 1189836956 := by exact ‹Avoids _ _›.mono (by decide)) :
    Within parts s0 (State.laneGate s l) := by
  unfold State.laneGate
  with_reducible repeat' first | (extract_lets +onlyGivenNames x1; first | (refine Within.cut (m := parts) (s0 := s0) (v := x1) ?_ ?_; rotate_left; intro hx; clear_value x1; rotate_left; unfold x1; clear x1) | clear_value x1) | assumption | exact Within.refl _ | exact ‹Avoids _ _›.mono (by decide) | apply State.clear_keeps | apply State.pwrRequest_keeps | apply State.rxOff_keeps | apply State.setLane_keeps

theorem State.laneStart_keeps {s0 s : State} (h : Within parts s0 s) {l : Nat}
    (hm : Avoids parts 1189837020 := by exact ‹Avoids _ _›.mono (by decide)) :
    Within parts s0 (State.laneStart s l) := by
  unfold State.laneStart
  with_reducible repeat' first | (extract_lets +onlyGivenNames x1; first | (refine Within.cut (m := parts) (s0 := s0) (v := x1) ?_ ?_; rotate_left; intro hx; clear_value x1; rotate_left; unfold x1; clear x1) | clear_value x1) | assumption | exact Within.refl _ | exact ‹Avoids _ _›.mono (by decide) | apply State.laneEnable_keeps | apply State.raise_keeps | apply State.unitTo_keeps | apply State.useFree_keeps | apply Within.ite

theorem State.laneStop_keeps {s0 s : State} (h : Within parts s0 s) {l : Nat}
    (hm : Avoids parts 1189837020 := by exact ‹Avoids _ _›.mono (by decide)) :
    Within parts s0 (State.laneStop s l) := by
  unfold State.laneStop
  with_reducible repeat' first | assumption | exact Within.refl _ | exact ‹Avoids _ _›.mono (by decide) | apply State.laneGate_keeps | apply State.laneSettle_keeps | apply State.unitTo_keeps

theorem State.laneAgain_keeps {s0 s : State} (h : Within parts s0 s) {l : Nat}
    (hm : Avoids parts 1189837020 := by exact ‹Avoids _ _›.mono (by decide)) :
    Within parts s0 (State.laneAgain s l) := by
  unfold State.laneAgain
  with_reducible repeat' first | (extract_lets +onlyGivenNames x1; first | (refine Within.cut (m := parts) (s0 := s0) (v := x1) ?_ ?_; rotate_left; intro hx; clear_value x1; rotate_left; unfold x1; clear x1) | clear_value x1) | assumption | exact Within.refl _ | exact ‹Avoids _ _›.mono (by decide) | apply State.laneStop_keeps | apply State.setUnit_keeps | apply Within.ite

theorem State.laneRestart_keeps {s0 s : State} (h : Within parts s0 s) {l : Nat} {bySkep : Bool}
    (hm : Avoids parts 1189837020 := by exact ‹Avoids _ _›.mono (by decide)) :
    Within parts s0 (State.laneRestart s l bySkep) := by
  unfold State.laneRestart
  with_reducible repeat' first | (extract_lets +onlyGivenNames x1; first | (refine Within.cut (m := parts) (s0 := s0) (v := x1) ?_ ?_; rotate_left; intro hx; clear_value x1; rotate_left; unfold x1; clear x1) | clear_value x1) | assumption | exact Within.refl _ | exact ‹Avoids _ _›.mono (by decide) | apply State.laneAgain_keeps | apply State.pwrRequest_keeps | apply State.raise_keeps | apply State.rxCold_keeps | apply State.setLane_keeps | apply State.set_keeps | apply State.trigRefresh_keeps | apply State.txDrive_keeps | apply State.unitTo_keeps | apply Within.ite

theorem State.loopChange_keeps {s0 s : State} (h : Within parts s0 s) {l : Nat} {old : Nat} {new : Nat}
    (hm : Avoids parts 1189837020 := by exact ‹Avoids _ _›.mono (by decide)) :
    Within parts s0 (State.loopChange s l old new) := by
  unfold State.loopChange
  with_reducible repeat' first | (extract_lets +onlyGivenNames x1; first | (refine Within.cut (m := parts) (s0 := s0) (v := x1) ?_ ?_; rotate_left; intro hx; clear_value x1; rotate_left; unfold x1; clear x1) | clear_value x1) | assumption | exact Within.refl _ | exact ‹Avoids _ _›.mono (by decide) | apply State.rxCold_keeps | apply State.setLane_keeps | apply State.set_keeps | apply State.txDrive_keeps | apply Within.ite

theorem State.laneCtrlWrite_keeps {s0 s : State} (h : Within parts s0 s) {who : Who} {l : Nat} {v : Word}
    (hm : Avoids parts 1189837020 := by exact ‹Avoids _ _›.mono (by decide)) :
    Within parts s0 (State.laneCtrlWrite s who l v) := by
  unfold State.laneCtrlWrite
  with_reducible repeat' first | intro _ | (extract_lets +onlyGivenNames x1; first | (refine Within.cut (m := parts) (s0 := s0) (v := x1) ?_ ?_; rotate_left; intro hx; clear_value x1; rotate_left; unfold x1; clear x1) | clear_value x1) | assumption | exact Within.refl _ | exact ‹Avoids _ _›.mono (by decide) | apply State.laneRestart_keeps | apply State.laneSettle_keeps | apply State.laneWrite_keeps | apply State.loopChange_keeps | apply State.pwrWritten_keeps | apply State.raise_keeps | apply State.set_keeps | apply State.txDrive_keeps | apply State.writeReg_keeps | apply Within.ite

theorem execRestart_keeps {s : State} {who : Who} {l : Fin 32} {v : Word}
    (hm : Avoids parts 1189837020 := by exact ‹Avoids _ _›.mono (by decide)) : EKeeps parts s (execRestart who l v s) := by
  have h : Within parts s s := .refl s
  unfold execRestart
  with_reducible repeat' first | intro _ | assumption | exact Within.refl _ | exact ‹Avoids _ _›.mono (by decide) | apply State.laneCtrlWrite_keeps | apply State.viaBus_keeps | apply EKeeps.next | apply EKeeps.ite

theorem execRestartIdleEnd_keeps {s : State} {l : Fin 32}
    (hm : Avoids parts 1073743880 := by exact ‹Avoids _ _›.mono (by decide)) : EKeeps parts s (execRestartIdleEnd l s) := by
  have h : Within parts s s := .refl s
  unfold execRestartIdleEnd
  with_reducible repeat' first | (extract_lets +onlyGivenNames x1; first | (refine Within.cut (m := parts) (s0 := s) (v := x1) ?_ ?_; rotate_left; intro hx; clear_value x1; rotate_left; unfold x1; clear x1) | clear_value x1) | assumption | exact Within.refl _ | exact ‹Avoids _ _›.mono (by decide) | apply State.set_keeps | apply State.setLane_keeps | apply State.txDrive_keeps | apply Within.ite | apply EKeeps.next | apply EKeeps.ite

theorem execLoopWrite_keeps {s : State} {who : Who} {l : Fin 32} {v : Word}
    (hm : Avoids parts 1189837020 := by exact ‹Avoids _ _›.mono (by decide)) : EKeeps parts s (execLoopWrite who l v s) := by
  have h : Within parts s s := .refl s
  unfold execLoopWrite
  with_reducible repeat' first | intro _ | assumption | exact Within.refl _ | exact ‹Avoids _ _›.mono (by decide) | apply State.laneCtrlWrite_keeps | apply State.viaBus_keeps | apply EKeeps.next | apply EKeeps.ite

theorem execPwrStateWrite_keeps {s : State} {l : Fin 32} {a : PwrAsk}
    (hm : Avoids parts 1189837020 := by exact ‹Avoids _ _›.mono (by decide)) : EKeeps parts s (execPwrStateWrite l a s) := by
  have h : Within parts s s := .refl s
  unfold execPwrStateWrite
  with_reducible repeat' first | intro _ | assumption | exact Within.refl _ | exact ‹Avoids _ _›.mono (by decide) | apply State.laneCtrlWrite_keeps | apply State.pwrLinkAsk_keeps | apply State.viaBus_keeps | split | apply EKeeps.next | apply EKeeps.ite

theorem execTxCoefWrite_keeps {s : State} {who : Who} {l : Fin 32} {v : Word}
    (hm : Avoids parts 1082130568 := by exact ‹Avoids _ _›.mono (by decide)) : EKeeps parts s (execTxCoefWrite who l v s) := by
  have h : Within parts s s := .refl s
  unfold execTxCoefWrite
  with_reducible repeat' first | intro _ | (extract_lets +onlyGivenNames x1; first | (refine Within.cut (m := parts) (s0 := s) (v := x1) ?_ ?_; rotate_left; intro hx; clear_value x1; rotate_left; unfold x1; clear x1) | clear_value x1) | assumption | exact Within.refl _ | exact ‹Avoids _ _›.mono (by decide) | apply State.laneWrite_keeps | apply State.raise_keeps | apply State.set_keeps | apply State.viaBus_keeps | apply State.writeReg_keeps | apply Within.ite | apply EKeeps.next | apply EKeeps.ite

theorem execGrpCfgWrite_keeps {s : State} {who : Who} {g : Fin 8} {v : Word}
    (hm : Avoids parts 1082130568 := by exact ‹Avoids _ _›.mono (by decide)) : EKeeps parts s (execGrpCfgWrite who g v s) := by
  have h : Within parts s s := .refl s
  unfold execGrpCfgWrite
  with_reducible repeat' first | intro _ | (extract_lets +onlyGivenNames x1; first | (refine Within.cut (m := parts) (s0 := s) (v := x1) ?_ ?_; rotate_left; intro hx; clear_value x1; rotate_left; unfold x1; clear x1) | clear_value x1) | assumption | exact Within.refl _ | exact ‹Avoids _ _›.mono (by decide) | apply State.raise_keeps | apply State.viaBus_keeps | apply State.writeReg_keeps | apply Within.ite | apply EKeeps.next | apply EKeeps.ite

theorem execRefMeasure_keeps {s : State} {g : Fin 8} {ppm : Option (BitVec 16)}
    (hm : Avoids parts 8 := by exact ‹Avoids _ _›.mono (by decide)) : EKeeps parts s (execRefMeasure g ppm s) := by
  have h : Within parts s s := .refl s
  unfold execRefMeasure
  with_reducible repeat' first | (extract_lets +onlyGivenNames x1; first | (refine Within.cut (m := parts) (s0 := s) (v := x1) ?_ ?_; rotate_left; intro hx; clear_value x1; rotate_left; unfold x1; clear x1) | clear_value x1) | assumption | exact Within.refl _ | exact ‹Avoids _ _›.mono (by decide) | apply State.raise_keeps | apply State.set_keeps | apply Within.ite | split | apply EKeeps.next | apply EKeeps.ite

theorem execPllUnlock_keeps {s : State} {g : Fin 8}
    (hm : Avoids parts 1189836956 := by exact ‹Avoids _ _›.mono (by decide)) : EKeeps parts s (execPllUnlock g s) := by
  have h : Within parts s s := .refl s
  unfold execPllUnlock
  with_reducible repeat' first | intro _ | (extract_lets +onlyGivenNames x1; first | (refine Within.cut (m := parts) (s0 := s) (v := x1) ?_ ?_; rotate_left; intro hx; clear_value x1; rotate_left; unfold x1; clear x1) | clear_value x1) | assumption | exact Within.refl _ | exact ‹Avoids _ _›.mono (by decide) | apply State.bumpSat_keeps | apply State.forList_keeps | apply State.publishLane_keeps | apply State.raise_keeps | apply State.rxOff_keeps | apply State.setPllLock_keeps | apply State.txDrive_keeps | apply Within.ite | exact rfl | apply Within.upd_pllLost | apply EKeeps.next | apply EKeeps.ite

theorem execPllRelock_keeps {s : State} {g : Fin 8}
    (hm : Avoids parts 1189837020 := by exact ‹Avoids _ _›.mono (by decide)) : EKeeps parts s (execPllRelock g s) := by
  have h : Within parts s s := .refl s
  unfold execPllRelock
  with_reducible repeat' first | intro _ | assumption | exact Within.refl _ | exact ‹Avoids _ _›.mono (by decide) | apply State.forList_keeps | apply State.rxStart_keeps | apply State.setPllLock_keeps | apply State.txDrive_keeps | apply Within.ite | exact rfl | apply Within.upd_pllLost | apply EKeeps.next | apply EKeeps.ite

theorem execSigDetRise_keeps {s : State} {l : Fin 32}
    (hm : Avoids parts 1189836956 := by exact ‹Avoids _ _›.mono (by decide)) : EKeeps parts s (execSigDetRise l s) := by
  have h : Within parts s s := .refl s
  unfold execSigDetRise
  with_reducible repeat' first | (extract_lets +onlyGivenNames x1; first | (refine Within.cut (m := parts) (s0 := s) (v := x1) ?_ ?_; rotate_left; intro hx; clear_value x1; rotate_left; unfold x1; clear x1) | clear_value x1) | assumption | exact Within.refl _ | exact ‹Avoids _ _›.mono (by decide) | apply State.publishLane_keeps | apply State.pwrRequest_keeps | apply State.raise_keeps | apply State.set_keeps | apply Within.ite | apply EKeeps.next | apply EKeeps.ite

theorem execSigDetHold_keeps {s : State} {l : Fin 32}
    (hm : Avoids parts 1189836956 := by exact ‹Avoids _ _›.mono (by decide)) : EKeeps parts s (execSigDetHold l s) := by
  have h : Within parts s s := .refl s
  unfold execSigDetHold
  with_reducible repeat' first | (extract_lets +onlyGivenNames x1; first | (refine Within.cut (m := parts) (s0 := s) (v := x1) ?_ ?_; rotate_left; intro hx; clear_value x1; rotate_left; unfold x1; clear x1) | clear_value x1) | assumption | exact Within.refl _ | exact ‹Avoids _ _›.mono (by decide) | apply State.rxTo_keeps | apply State.setLane_keeps | apply Within.ite | apply EKeeps.next | apply EKeeps.ite

theorem State.lockLost_keeps {s0 s : State} (h : Within parts s0 s) {l : Nat}
    (hm : Avoids parts 1189837020 := by exact ‹Avoids _ _›.mono (by decide)) :
    Within parts s0 (State.lockLost s l) := by
  unfold State.lockLost
  with_reducible repeat' first | assumption | exact Within.refl _ | exact ‹Avoids _ _›.mono (by decide) | apply State.bumpSat_keeps | apply State.noSignal_keeps | apply State.raise_keeps

theorem execSigDetFall_keeps {s : State} {l : Fin 32}
    (hm : Avoids parts 1189837020 := by exact ‹Avoids _ _›.mono (by decide)) : EKeeps parts s (execSigDetFall l s) := by
  have h : Within parts s s := .refl s
  unfold execSigDetFall
  with_reducible repeat' first | (extract_lets +onlyGivenNames x1; first | (refine Within.cut (m := parts) (s0 := s) (v := x1) ?_ ?_; rotate_left; intro hx; clear_value x1; rotate_left; unfold x1; clear x1) | clear_value x1) | assumption | exact Within.refl _ | exact ‹Avoids _ _›.mono (by decide) | apply State.clear_keeps | apply State.lockLost_keeps | apply State.noSignal_keeps | apply Within.ite | apply EKeeps.next | apply EKeeps.ite

theorem execCdrLock_keeps {s : State} {l : Fin 32}
    (hm : Avoids parts 1189836956 := by exact ‹Avoids _ _›.mono (by decide)) : EKeeps parts s (execCdrLock l s) := by
  have h : Within parts s s := .refl s
  unfold execCdrLock
  with_reducible repeat' first | assumption | exact Within.refl _ | exact ‹Avoids _ _›.mono (by decide) | apply State.rxTo_keeps | apply Within.ite | apply EKeeps.next | apply EKeeps.ite

theorem execAdaptSettled_keeps {s : State} {l : Fin 32} {ctle : BitVec 4} {taps : List (BitVec 8)}
    (hm : Avoids parts 1189836956 := by exact ‹Avoids _ _›.mono (by decide)) : EKeeps parts s (execAdaptSettled l ctle taps s) := by
  have h : Within parts s s := .refl s
  unfold execAdaptSettled
  with_reducible repeat' first | intro _ | (extract_lets +onlyGivenNames x1; first | (refine Within.cut (m := parts) (s0 := s) (v := x1) ?_ ?_; rotate_left; intro hx; clear_value x1; rotate_left; unfold x1; clear x1) | clear_value x1) | assumption | exact Within.refl _ | exact ‹Avoids _ _›.mono (by decide) | apply State.forEach_keeps | apply State.rxTo_keeps | apply State.set_keeps | apply Within.ite | apply EKeeps.next | apply EKeeps.ite

theorem execEyeCheckDone_keeps {s : State} {l : Fin 32} {height : BitVec 8}
    (hm : Avoids parts 1189837020 := by exact ‹Avoids _ _›.mono (by decide)) : EKeeps parts s (execEyeCheckDone l height s) := by
  have h : Within parts s s := .refl s
  unfold execEyeCheckDone
  with_reducible repeat' first | assumption | exact Within.refl _ | exact ‹Avoids _ _›.mono (by decide) | apply State.readyRise_keeps | apply State.rxTo_keeps | apply Within.ite | apply EKeeps.next | apply EKeeps.ite

theorem execCdrLockLost_keeps {s : State} {l : Fin 32}
    (hm : Avoids parts 1189837020 := by exact ‹Avoids _ _›.mono (by decide)) : EKeeps parts s (execCdrLockLost l s) := by
  have h : Within parts s s := .refl s
  unfold execCdrLockLost
  with_reducible repeat' first | assumption | exact Within.refl _ | exact ‹Avoids _ _›.mono (by decide) | apply State.lockLost_keeps | apply Within.ite | apply EKeeps.next | apply EKeeps.ite

theorem execAcqTimeout_keeps {s : State} {l : Fin 32}
    (hm : Avoids parts 1189837020 := by exact ‹Avoids _ _›.mono (by decide)) : EKeeps parts s (execAcqTimeout l s) := by
  have h : Within parts s s := .refl s
  unfold execAcqTimeout
  with_reducible repeat' first | (extract_lets +onlyGivenNames x1; first | (refine Within.cut (m := parts) (s0 := s) (v := x1) ?_ ?_; rotate_left; intro hx; clear_value x1; rotate_left; unfold x1; clear x1) | clear_value x1) | assumption | exact Within.refl _ | exact ‹Avoids _ _›.mono (by decide) | apply State.bumpSat_keeps | apply State.noSignal_keeps | apply State.publishLane_keeps | apply State.raise_keeps | apply State.setLane_keeps | apply Within.ite | apply EKeeps.next | apply EKeeps.ite

theorem execWarmAcqTimeout_keeps {s : State} {l : Fin 32}
    (hm : Avoids parts 2056 := by exact ‹Avoids _ _›.mono (by decide)) : EKeeps parts s (execWarmAcqTimeout l s) := by
  have h : Within parts s s := .refl s
  unfold execWarmAcqTimeout
  with_reducible repeat' first | assumption | exact Within.refl _ | exact ‹Avoids _ _›.mono (by decide) | apply State.coldEq_keeps | apply Within.ite | apply EKeeps.next | apply EKeeps.ite

theorem execFreqOffsetUpdate_keeps {s : State} {l : Fin 32} {ppm : BitVec 16}
    (hm : Avoids parts 8 := by exact ‹Avoids _ _›.mono (by decide)) : EKeeps parts s (execFreqOffsetUpdate l ppm s) := by
  have h : Within parts s s := .refl s
  unfold execFreqOffsetUpdate
  with_reducible repeat' first | (extract_lets +onlyGivenNames x1; first | (refine Within.cut (m := parts) (s0 := s) (v := x1) ?_ ?_; rotate_left; intro hx; clear_value x1; rotate_left; unfold x1; clear x1) | clear_value x1) | assumption | exact Within.refl _ | exact ‹Avoids _ _›.mono (by decide) | apply State.raise_keeps | apply State.set_keeps | apply Within.ite | apply EKeeps.next | apply EKeeps.ite

theorem execEyeSummaryRefresh_keeps {s : State} {l : Fin 32} {heights : BitVec 24} {widths : BitVec 24}
    (hm : Avoids parts 8 := by exact ‹Avoids _ _›.mono (by decide)) : EKeeps parts s (execEyeSummaryRefresh l heights widths s) := by
  have h : Within parts s s := .refl s
  unfold execEyeSummaryRefresh
  with_reducible repeat' first | (extract_lets +onlyGivenNames x1; first | (refine Within.cut (m := parts) (s0 := s) (v := x1) ?_ ?_; rotate_left; intro hx; clear_value x1; rotate_left; unfold x1; clear x1) | clear_value x1) | assumption | exact Within.refl _ | exact ‹Avoids _ _›.mono (by decide) | apply State.setReg_keeps | apply Within.ite | apply EKeeps.next | apply EKeeps.ite

theorem execMarginStart_keeps {s : State} {who : Who} {l : Fin 32} {v : Word}
    (hm : Avoids parts 1082132616 := by exact ‹Avoids _ _›.mono (by decide)) : EKeeps parts s (execMarginStart who l v s) := by
  have h : Within parts s s := .refl s
  unfold execMarginStart
  with_reducible repeat' first | intro _ | (extract_lets +onlyGivenNames x1; first | (refine Within.cut (m := parts) (s0 := s) (v := x1) ?_ ?_; rotate_left; intro hx; clear_value x1; rotate_left; unfold x1; clear x1) | clear_value x1) | assumption | exact Within.refl _ | exact ‹Avoids _ _›.mono (by decide) | apply State.clear_keeps | apply State.laneWrite_keeps | apply State.raise_keeps | apply State.setLane_keeps | apply State.viaBus_keeps | apply State.writeReg_keeps | apply Within.ite | apply EKeeps.next | apply EKeeps.ite

theorem execMarginDone_keeps {s : State} {l : Fin 32} {count : Nat}
    (hm : Avoids parts 2056 := by exact ‹Avoids _ _›.mono (by decide)) : EKeeps parts s (execMarginDone l count s) := by
  have h : Within parts s s := .refl s
  unfold execMarginDone
  with_reducible repeat' first | (extract_lets +onlyGivenNames x1; first | (refine Within.cut (m := parts) (s0 := s) (v := x1) ?_ ?_; rotate_left; intro hx; clear_value x1; rotate_left; unfold x1; clear x1) | clear_value x1) | assumption | exact Within.refl _ | exact ‹Avoids _ _›.mono (by decide) | apply State.raise_keeps | apply State.set_keeps | apply State.setLane_keeps | apply Within.ite | apply EKeeps.next | apply EKeeps.ite

theorem execInject_keeps {s : State} {who : Who} {l : Fin 32} {v : Word}
    (hm : Avoids parts 1082132616 := by exact ‹Avoids _ _›.mono (by decide)) : EKeeps parts s (execInject who l v s) := by
  have h : Within parts s s := .refl s
  unfold execInject
  with_reducible repeat' first | intro _ | (extract_lets +onlyGivenNames x1; first | (refine Within.cut (m := parts) (s0 := s) (v := x1) ?_ ?_; rotate_left; intro hx; clear_value x1; rotate_left; unfold x1; clear x1) | clear_value x1) | assumption | exact Within.refl _ | exact ‹Avoids _ _›.mono (by decide) | apply State.clear_keeps | apply State.laneWrite_keeps | apply State.setLane_keeps | apply State.viaBus_keeps | apply State.writeReg_keeps | apply Within.ite | apply EKeeps.next | apply EKeeps.ite

theorem State.prbsCount_keeps {s0 s : State} (h : Within parts s0 s) {l : Nat} {errs : Nat} {bits : Nat}
    (hm : Avoids parts 2056 := by exact ‹Avoids _ _›.mono (by decide)) :
    Within parts s0 (State.prbsCount s l errs bits) := by
  unfold State.prbsCount
  with_reducible repeat' first | assumption | exact Within.refl _ | exact ‹Avoids _ _›.mono (by decide) | apply State.bumpSat_keeps | apply State.setLane_keeps

theorem State.prbsCapture_keeps {s0 s : State} (h : Within parts s0 s) {l : Nat}
    (hm : Avoids parts 2056 := by exact ‹Avoids _ _›.mono (by decide)) :
    Within parts s0 (State.prbsCapture s l) := by
  unfold State.prbsCapture
  with_reducible repeat' first | assumption | exact Within.refl _ | exact ‹Avoids _ _›.mono (by decide) | apply State.set2_keeps | apply State.setLane_keeps

theorem execPrbsErrRead_keeps {s : State} {who : Who} {l : Fin 32} {errs : Nat} {bits : Nat}
    (hm : Avoids parts 1082132616 := by exact ‹Avoids _ _›.mono (by decide)) : EKeeps parts s (execPrbsErrRead who l errs bits s) := by
  have h : Within parts s s := .refl s
  unfold execPrbsErrRead
  with_reducible repeat' first | intro _ | (extract_lets +onlyGivenNames x1; first | (refine Within.cut (m := parts) (s0 := s) (v := x1) ?_ ?_; rotate_left; intro hx; clear_value x1; rotate_left; unfold x1; clear x1) | clear_value x1) | assumption | exact Within.refl _ | exact ‹Avoids _ _›.mono (by decide) | apply State.prbsCapture_keeps | apply State.prbsCount_keeps | apply State.rcNote_keeps | apply State.readAnswer_keeps | apply State.setReg_keeps | apply State.viaBus_keeps | apply EKeeps.next | apply EKeeps.ite

theorem execPrbsLock_keeps {s : State} {l : Fin 32}
    (hm : Avoids parts 8 := by exact ‹Avoids _ _›.mono (by decide)) : EKeeps parts s (execPrbsLock l s) := by
  have h : Within parts s s := .refl s
  unfold execPrbsLock
  with_reducible repeat' first | assumption | exact Within.refl _ | exact ‹Avoids _ _›.mono (by decide) | apply State.raise_keeps | apply Within.ite | apply EKeeps.next | apply EKeeps.ite

theorem State.prbsLost_keeps {s0 s : State} (h : Within parts s0 s) {l : Nat}
    (hm : Avoids parts 8 := by exact ‹Avoids _ _›.mono (by decide)) :
    Within parts s0 (State.prbsLost s l) := by
  unfold State.prbsLost
  with_reducible repeat' first | assumption | exact Within.refl _ | exact ‹Avoids _ _›.mono (by decide) | apply State.clear_keeps | apply State.raise_keeps | apply Within.ite

theorem execPrbsLockLost_keeps {s : State} {l : Fin 32}
    (hm : Avoids parts 8 := by exact ‹Avoids _ _›.mono (by decide)) : EKeeps parts s (execPrbsLockLost l s) := by
  have h : Within parts s s := .refl s
  unfold execPrbsLockLost
  with_reducible repeat' first | assumption | exact Within.refl _ | exact ‹Avoids _ _›.mono (by decide) | apply State.prbsLost_keeps | apply EKeeps.next | apply EKeeps.ite

end Sys2Proof.Machine
end

