-- ==== Sys2Proof/Laws/KeepsHeads.lean ====
section
/-!
SUPPORT. The operations of Machine/Heads.lean keep what every step keeps.
-/
set_option Elab.async false
namespace Sys2Proof.Machine

set_option linter.tactic.unusedName false

variable {parts : Nat}

theorem execForget_keeps {s : State} {who : Who} {e : Fin 2048} {v : Word}
    (hm : Avoids parts 1082138760 := by exact ‹Avoids _ _›.mono (by decide)) : EKeeps parts s (execForget who e v s) := by
  have h : Within parts s s := .refl s
  unfold execForget
  with_reducible repeat' first | intro _ | (extract_lets +onlyGivenNames x1; first | (refine Within.cut (m := parts) (s0 := s) (v := x1) ?_ ?_; rotate_left; intro hx; clear_value x1; rotate_left; unfold x1; clear x1) | clear_value x1) | assumption | exact Within.refl _ | exact ‹Avoids _ _›.mono (by decide) | apply State.clear_keeps | apply State.dupUpdate_keeps | apply State.setEpState_keeps | apply State.setEp_keeps | apply State.viaBus_keeps | apply State.writeReg_keeps | apply Within.ite | apply EKeeps.next | apply EKeeps.ite

theorem execHealthPoll_keeps {s : State}
    (hm : Avoids parts 12288 := by exact ‹Avoids _ _›.mono (by decide)) : EKeeps parts s (execHealthPoll s) := by
  have h : Within parts s s := .refl s
  unfold execHealthPoll
  with_reducible repeat' first | intro _ | assumption | exact Within.refl _ | exact ‹Avoids _ _›.mono (by decide) | apply State.ctrlRequest_keeps | apply State.forList_keeps | apply Within.ite | apply EKeeps.next | apply EKeeps.ite

theorem execPsetWrite_keeps {s : State} {who : Who} {e : Fin 2048} {k : Fin 16} {cfg : Bool} {v : Word}
    (hm : Avoids parts 1082138760 := by exact ‹Avoids _ _›.mono (by decide)) : EKeeps parts s (execPsetWrite who e k cfg v s) := by
  have h : Within parts s s := .refl s
  unfold execPsetWrite
  with_reducible repeat' first | intro _ | (extract_lets +onlyGivenNames x1; first | (refine Within.cut (m := parts) (s0 := s) (v := x1) ?_ ?_; rotate_left; intro hx; clear_value x1; rotate_left; unfold x1; clear x1) | clear_value x1) | assumption | exact Within.refl _ | exact ‹Avoids _ _›.mono (by decide) | apply State.raise_keeps | apply State.setEp_keeps | apply State.viaBus_keeps | apply State.writeReg_keeps | apply Within.ite | apply EKeeps.next | apply EKeeps.ite

theorem execCpGo_keeps {s : State} {who : Who} {p : Fin 16} {v : Word}
    (hm : Avoids parts 1082142856 := by exact ‹Avoids _ _›.mono (by decide)) : EKeeps parts s (execCpGo who p v s) := by
  have h : Within parts s s := .refl s
  unfold execCpGo
  with_reducible repeat' first | intro _ | (extract_lets +onlyGivenNames x1; first | (refine Within.cut (m := parts) (s0 := s) (v := x1) ?_ ?_; rotate_left; intro hx; clear_value x1; rotate_left; unfold x1; clear x1) | clear_value x1) | assumption | exact Within.refl _ | exact ‹Avoids _ _›.mono (by decide) | apply State.clear_keeps | apply State.ctrlRequest_keeps | apply State.raise_keeps | apply State.setEp_keeps | apply State.set_keeps | apply State.viaBus_keeps | apply Within.ite | split | apply EKeeps.next | apply EKeeps.ite

theorem State.showLoad_keeps {s0 s : State} (h : Within parts s0 s) {d : Nat}
    (hm : Avoids parts 8 := by exact ‹Avoids _ _›.mono (by decide)) :
    Within parts s0 (State.showLoad s d) := by
  unfold State.showLoad
  with_reducible repeat' first | assumption | exact Within.refl _ | exact ‹Avoids _ _›.mono (by decide) | apply State.set_keeps

theorem execDescEnable_keeps {s : State} {who : Who} {d : Fin 4096} {v : Word}
    (hm : Avoids parts 1115713672 := by exact ‹Avoids _ _›.mono (by decide)) : EKeeps parts s (execDescEnable who d v s) := by
  have h : Within parts s s := .refl s
  unfold execDescEnable
  with_reducible repeat' first | intro _ | (extract_lets +onlyGivenNames x1; first | (refine Within.cut (m := parts) (s0 := s) (v := x1) ?_ ?_; rotate_left; intro hx; clear_value x1; rotate_left; unfold x1; clear x1) | clear_value x1) | assumption | exact Within.refl _ | exact ‹Avoids _ _›.mono (by decide) | apply State.clear_keeps | apply State.forecasts_keeps | apply State.groupUpdate_keeps | apply State.raise_keeps | apply State.set_keeps | apply State.showLoad_keeps | apply State.streamStart_keeps | apply State.viaBus_keeps | apply State.writeReg_keeps | apply Within.ite | apply EKeeps.next | apply EKeeps.ite

theorem State.descOff_keeps {s0 s : State} (h : Within parts s0 s) {d : Nat}
    (hm : Avoids parts 107704476 := by exact ‹Avoids _ _›.mono (by decide)) :
    Within parts s0 (State.descOff s d) := by
  unfold State.descOff
  with_reducible repeat' first | (extract_lets +onlyGivenNames x1; first | (refine Within.cut (m := parts) (s0 := s0) (v := x1) ?_ ?_; rotate_left; intro hx; clear_value x1; rotate_left; unfold x1; clear x1) | clear_value x1) | assumption | exact Within.refl _ | exact ‹Avoids _ _›.mono (by decide) | apply State.clear_keeps | apply State.forecasts_keeps | apply State.groupUpdate_keeps | apply State.streamEnd_keeps | apply State.streamForget_keeps | apply State.streamStop_keeps | apply Within.ite

theorem execDescDisable_keeps {s : State} {who : Who} {d : Fin 4096} {v : Word}
    (hm : Avoids parts 1189834908 := by exact ‹Avoids _ _›.mono (by decide)) : EKeeps parts s (execDescDisable who d v s) := by
  have h : Within parts s s := .refl s
  unfold execDescDisable
  with_reducible repeat' first | intro _ | (extract_lets +onlyGivenNames x1; first | (refine Within.cut (m := parts) (s0 := s) (v := x1) ?_ ?_; rotate_left; intro hx; clear_value x1; rotate_left; unfold x1; clear x1) | clear_value x1) | assumption | exact Within.refl _ | exact ‹Avoids _ _›.mono (by decide) | apply State.clear_keeps | apply State.descOff_keeps | apply State.raise_keeps | apply State.viaBus_keeps | apply State.writeReg_keeps | apply Within.ite | apply EKeeps.next | apply EKeeps.ite

theorem execMfCfgWrite_keeps {s : State} {who : Who} {e : Fin 2048} {v : Word}
    (hm : Avoids parts 1082130568 := by exact ‹Avoids _ _›.mono (by decide)) : EKeeps parts s (execMfCfgWrite who e v s) := by
  have h : Within parts s s := .refl s
  unfold execMfCfgWrite
  with_reducible repeat' first | intro _ | (extract_lets +onlyGivenNames x1; first | (refine Within.cut (m := parts) (s0 := s) (v := x1) ?_ ?_; rotate_left; intro hx; clear_value x1; rotate_left; unfold x1; clear x1) | clear_value x1) | assumption | exact Within.refl _ | exact ‹Avoids _ _›.mono (by decide) | apply State.raise_keeps | apply State.set_keeps | apply State.viaBus_keeps | apply State.writeReg_keeps | apply Within.ite | apply EKeeps.next | apply EKeeps.ite

theorem execFlush_keeps {s : State} {who : Who} {e : Fin 2048} {cut : Bool} {v : Word}
    (hm : Avoids parts 1082138760 := by exact ‹Avoids _ _›.mono (by decide)) : EKeeps parts s (execFlush who e cut v s) := by
  have h : Within parts s s := .refl s
  unfold execFlush
  with_reducible repeat' first | intro _ | (extract_lets +onlyGivenNames x1; first | (refine Within.cut (m := parts) (s0 := s) (v := x1) ?_ ?_; rotate_left; intro hx; clear_value x1; rotate_left; unfold x1; clear x1) | clear_value x1) | assumption | exact Within.refl _ | exact ‹Avoids _ _›.mono (by decide) | apply State.bumpSat_keeps | apply State.raise_keeps | apply State.setEp_keeps | apply State.setItems_keeps | apply State.viaBus_keeps | apply Within.ite | apply EKeeps.next | apply EKeeps.ite

theorem execMsgRecordTake_keeps {s : State} {e : Fin 2048} {parity : BitVec 64}
    (hm : Avoids parts 73998492 := by exact ‹Avoids _ _›.mono (by decide)) : EKeeps parts s (execMsgRecordTake e parity s) := by
  have h : Within parts s s := .refl s
  unfold execMsgRecordTake
  with_reducible repeat' first | (extract_lets +onlyGivenNames x1; first | (refine Within.cut (m := parts) (s0 := s) (v := x1) ?_ ?_; rotate_left; intro hx; clear_value x1; rotate_left; unfold x1; clear x1) | clear_value x1) | assumption | exact Within.refl _ | exact ‹Avoids _ _›.mono (by decide) | apply State.bumpSat_keeps | apply State.queueRec_keeps | apply State.raise_keeps | apply State.setItems_keeps | apply Within.ite | split | apply EKeeps.next | apply EKeeps.ite

end Sys2Proof.Machine
end

