-- ==== Sys2Proof/Laws/KeepsCreel.lean ====
section
/-!
SUPPORT. The operations of Machine/Creel.lean keep what every step keeps.
-/
set_option Elab.async false
namespace Sys2Proof.Machine

set_option linter.tactic.unusedName false

variable {parts : Nat}

theorem execLayoutWrite_keeps {s : State} {who : Who} {k : Fin 3} {v : Word}
    (hm : Avoids parts 1082130568 := by exact ‹Avoids _ _›.mono (by decide)) : EKeeps parts s (execLayoutWrite who k v s) := by
  have h : Within parts s s := .refl s
  unfold execLayoutWrite
  with_reducible repeat' first | intro _ | (extract_lets +onlyGivenNames x1; first | (refine Within.cut (m := parts) (s0 := s) (v := x1) ?_ ?_; rotate_left; intro hx; clear_value x1; rotate_left; unfold x1; clear x1) | clear_value x1) | assumption | exact Within.refl _ | exact ‹Avoids _ _›.mono (by decide) | apply State.raise_keeps | apply State.set_keeps | apply State.viaBus_keeps | apply Within.ite | apply EKeeps.next | apply EKeeps.ite

theorem execSegQuery_keeps {s : State} {who : Who} {v : Word}
    (hm : Avoids parts 1082130568 := by exact ‹Avoids _ _›.mono (by decide)) : EKeeps parts s (execSegQuery who v s) := by
  have h : Within parts s s := .refl s
  unfold execSegQuery
  with_reducible repeat' first | intro _ | (extract_lets +onlyGivenNames x1; first | (refine Within.cut (m := parts) (s0 := s) (v := x1) ?_ ?_; rotate_left; intro hx; clear_value x1; rotate_left; unfold x1; clear x1) | clear_value x1) | assumption | exact Within.refl _ | exact ‹Avoids _ _›.mono (by decide) | apply State.clear_keeps | apply State.raise_keeps | apply State.set_keeps | apply State.viaBus_keeps | apply Within.ite | split | apply EKeeps.next | apply EKeeps.ite

theorem State.marksArm_keeps {s0 s : State} (h : Within parts s0 s) {v : Nat}
    (hm : Avoids parts 73990300 := by exact ‹Avoids _ _›.mono (by decide)) :
    Within parts s0 (State.marksArm s v) := by
  unfold State.marksArm
  with_reducible repeat' first | intro _ | assumption | exact Within.refl _ | exact ‹Avoids _ _›.mono (by decide) | apply State.clear_keeps | apply State.forList_keeps | apply State.holdCheck_keeps | apply State.set_keeps

theorem State.histFree_keeps {s0 s : State} (h : Within parts s0 s) {v : Nat}
    (hm : Avoids parts 73990300 := by exact ‹Avoids _ _›.mono (by decide)) :
    Within parts s0 (State.histFree s v) := by
  unfold State.histFree
  with_reducible repeat' first | (extract_lets +onlyGivenNames x1; first | (refine Within.cut (m := parts) (s0 := s0) (v := x1) ?_ ?_; rotate_left; intro hx; clear_value x1; rotate_left; unfold x1; clear x1) | clear_value x1) | assumption | exact Within.refl _ | exact ‹Avoids _ _›.mono (by decide) | apply State.clear_keeps | apply State.giveBack_keeps | apply State.marksArm_keeps | apply State.setHist_keeps | apply State.set_keeps | apply State.showWork_keeps

theorem State.histShape_keeps {s0 s : State} (h : Within parts s0 s) {v : Nat} {stride : Nat}
    (hm : Avoids parts 8 := by exact ‹Avoids _ _›.mono (by decide)) :
    Within parts s0 (State.histShape s v stride) := by
  unfold State.histShape
  with_reducible repeat' first | (extract_lets +onlyGivenNames x1; first | (refine Within.cut (m := parts) (s0 := s0) (v := x1) ?_ ?_; rotate_left; intro hx; clear_value x1; rotate_left; unfold x1; clear x1) | clear_value x1) | assumption | exact Within.refl _ | exact ‹Avoids _ _›.mono (by decide) | apply State.set_keeps

theorem State.histTake_keeps {s0 s : State} (h : Within parts s0 s) {v : Nat}
    (hm : Avoids parts 65544 := by exact ‹Avoids _ _›.mono (by decide)) :
    OKeeps parts s0 (State.histTake s v) := by
  unfold State.histTake
  with_reducible repeat' first | assumption | exact Within.refl _ | exact ‹Avoids _ _›.mono (by decide) | apply State.setHist_keeps | (refine State.alloc_keeps2 ?_ ‹_›) | split | apply OKeeps.map | apply OKeeps.bind | exact OKeeps.none | apply OKeeps.some | apply OKeeps.ite

theorem State.histTake_keeps2 {s0 s : State} (h : Within parts s0 s) {v : Nat} {t : State} (e : State.histTake s v = some t)
    (hm : Avoids parts 65544 := by exact ‹Avoids _ _›.mono (by decide)) : Within parts s0 t :=
  (State.histTake_keeps h (v := v)).out t e

theorem State.histAlloc_keeps {s0 s : State} (h : Within parts s0 s) {v : Nat} {bytes : Nat}
    (hm : Avoids parts 73990300 := by exact ‹Avoids _ _›.mono (by decide)) :
    OKeeps parts s0 (State.histAlloc s v bytes) := by
  unfold State.histAlloc
  with_reducible repeat' first | intro _ | (extract_lets +onlyGivenNames x1; first | (refine Within.cut (m := parts) (s0 := s0) (v := x1) ?_ ?_; rotate_left; intro hx; clear_value x1; rotate_left; unfold x1; clear x1) | clear_value x1) | assumption | exact Within.refl _ | exact ‹Avoids _ _›.mono (by decide) | apply State.histFree_keeps | apply State.histShape_keeps | (refine State.histTake_keeps2 ?_ ‹_›) | apply State.histTake_keeps | apply State.marksArm_keeps | apply State.raise_keeps | apply State.setHist_keeps | apply State.set_keeps | apply State.showWork_keeps | apply Within.ite | apply OKeeps.map | apply OKeeps.bind | exact OKeeps.none | apply OKeeps.some | apply OKeeps.ite

theorem State.histAlloc_keeps2 {s0 s : State} (h : Within parts s0 s) {v : Nat} {bytes : Nat} {t : State} (e : State.histAlloc s v bytes = some t)
    (hm : Avoids parts 73990300 := by exact ‹Avoids _ _›.mono (by decide)) : Within parts s0 t :=
  (State.histAlloc_keeps h (v := v) (bytes := bytes)).out t e

theorem State.histCfgWrite_keeps {s0 s : State} (h : Within parts s0 s) {v : Nat} {stage : Bool} {x : Word}
    (hm : Avoids parts 73990300 := by exact ‹Avoids _ _›.mono (by decide)) :
    Within parts s0 (State.histCfgWrite s v stage x) := by
  unfold State.histCfgWrite
  with_reducible repeat' first | (extract_lets +onlyGivenNames x1; first | (refine Within.cut (m := parts) (s0 := s0) (v := x1) ?_ ?_; rotate_left; intro hx; clear_value x1; rotate_left; unfold x1; clear x1) | clear_value x1) | assumption | exact Within.refl _ | exact ‹Avoids _ _›.mono (by decide) | apply State.histFree_keeps | apply State.holdCheck_keeps | apply State.raise_keeps | apply State.set_keeps | apply State.setFlag_keeps | apply State.writeReg_keeps | apply Within.ite

theorem execHistCfgWrite_keeps {s : State} {who : Who} {v : Fin 8} {stage : Bool} {x : Word}
    (hm : Avoids parts 1156120732 := by exact ‹Avoids _ _›.mono (by decide)) : EKeeps parts s (execHistCfgWrite who v stage x s) := by
  have h : Within parts s s := .refl s
  unfold execHistCfgWrite
  with_reducible repeat' first | intro _ | assumption | exact Within.refl _ | exact ‹Avoids _ _›.mono (by decide) | apply State.histCfgWrite_keeps | apply State.viaBus_keeps | apply EKeeps.next | apply EKeeps.ite

theorem execRelease_keeps {s : State} {who : Who} {v : Fin 8} {x : Word}
    (hm : Avoids parts 1156120732 := by exact ‹Avoids _ _›.mono (by decide)) : EKeeps parts s (execRelease who v x s) := by
  have h : Within parts s s := .refl s
  unfold execRelease
  with_reducible repeat' first | intro _ | assumption | exact Within.refl _ | exact ‹Avoids _ _›.mono (by decide) | apply State.histCfgWrite_keeps | apply State.viaBus_keeps | apply EKeeps.next | apply EKeeps.ite

theorem execRawSegsWrite_keeps {s : State} {who : Who} {d : Fin 4096} {v : Word}
    (hm : Avoids parts 1082196104 := by exact ‹Avoids _ _›.mono (by decide)) : EKeeps parts s (execRawSegsWrite who d v s) := by
  have h : Within parts s s := .refl s
  unfold execRawSegsWrite
  with_reducible repeat' first | intro _ | (extract_lets +onlyGivenNames x1; first | (refine Within.cut (m := parts) (s0 := s) (v := x1) ?_ ?_; rotate_left; intro hx; clear_value x1; rotate_left; unfold x1; clear x1) | clear_value x1) | assumption | exact Within.refl _ | exact ‹Avoids _ _›.mono (by decide) | apply State.giveBack_keeps | apply State.setRaw_keeps | apply State.viaBus_keeps | apply State.writeReg_keeps | apply Within.ite | apply EKeeps.next | apply EKeeps.ite

theorem execMarkCfgWrite_keeps {s : State} {who : Who} {m : Fin 64} {v : Word}
    (hm : Avoids parts 1156120732 := by exact ‹Avoids _ _›.mono (by decide)) : EKeeps parts s (execMarkCfgWrite who m v s) := by
  have h : Within parts s s := .refl s
  unfold execMarkCfgWrite
  with_reducible repeat' first | intro _ | (extract_lets +onlyGivenNames x1; first | (refine Within.cut (m := parts) (s0 := s) (v := x1) ?_ ?_; rotate_left; intro hx; clear_value x1; rotate_left; unfold x1; clear x1) | clear_value x1) | assumption | exact Within.refl _ | exact ‹Avoids _ _›.mono (by decide) | apply State.clear_keeps | apply State.markTo_keeps | apply State.raise_keeps | apply State.set_keeps | apply State.viaBus_keeps | apply State.writeReg_keeps | apply Within.ite | apply EKeeps.next | apply EKeeps.ite

theorem State.markCmd_keeps {s0 s : State} (h : Within parts s0 s) {m : Nat} {f : State → State} (h_f : ∀  t, Within parts s0 t → Within parts s0 (f  t))
    (hm : Avoids parts 8 := by exact ‹Avoids _ _›.mono (by decide)) :
    Within parts s0 (State.markCmd s m f) := by
  unfold State.markCmd
  with_reducible repeat' first | intro _ | assumption | exact Within.refl _ | exact ‹Avoids _ _›.mono (by decide) | apply State.raise_keeps | apply h_f | apply Within.ite

theorem execMarkClear_keeps {s : State} {who : Who} {m : Fin 64}
    (hm : Avoids parts 1156120732 := by exact ‹Avoids _ _›.mono (by decide)) : EKeeps parts s (execMarkClear who m s) := by
  have h : Within parts s s := .refl s
  unfold execMarkClear
  with_reducible repeat' first | intro _ | assumption | exact Within.refl _ | exact ‹Avoids _ _›.mono (by decide) | apply State.markCmd_keeps | apply State.markTo_keeps | apply State.viaBus_keeps | apply Within.ite | apply EKeeps.next | apply EKeeps.ite

theorem execSetAt_keeps {s : State} {who : Who} {m : Fin 64}
    (hm : Avoids parts 1082196104 := by exact ‹Avoids _ _›.mono (by decide)) : EKeeps parts s (execSetAt who m s) := by
  have h : Within parts s s := .refl s
  unfold execSetAt
  with_reducible repeat' first | intro _ | assumption | exact Within.refl _ | exact ‹Avoids _ _›.mono (by decide) | apply State.markCmd_keeps | apply State.raise_keeps | apply State.setMark_keeps | apply State.viaBus_keeps | apply Within.ite | apply EKeeps.next | apply EKeeps.ite

theorem execSetAtDone_keeps {s : State} {m : Fin 64}
    (hm : Avoids parts 73990300 := by exact ‹Avoids _ _›.mono (by decide)) : EKeeps parts s (execSetAtDone m s) := by
  have h : Within parts s s := .refl s
  unfold execSetAtDone
  with_reducible repeat' first | intro _ | (extract_lets +onlyGivenNames x1; first | (refine Within.cut (m := parts) (s0 := s) (v := x1) ?_ ?_; rotate_left; intro hx; clear_value x1; rotate_left; unfold x1; clear x1) | clear_value x1) | assumption | exact Within.refl _ | exact ‹Avoids _ _›.mono (by decide) | apply State.clear_keeps | apply State.forList_keeps | apply State.headMeet_keeps | apply State.markSet_keeps | apply State.raise_keeps | apply State.setMark_keeps | apply Within.ite | split | apply EKeeps.next | apply EKeeps.ite

theorem execSetAhead_keeps {s : State} {who : Who} {m : Fin 64}
    (hm : Avoids parts 1082131080 := by exact ‹Avoids _ _›.mono (by decide)) : EKeeps parts s (execSetAhead who m s) := by
  have h : Within parts s s := .refl s
  unfold execSetAhead
  with_reducible repeat' first | intro _ | (extract_lets +onlyGivenNames x1; first | (refine Within.cut (m := parts) (s0 := s) (v := x1) ?_ ?_; rotate_left; intro hx; clear_value x1; rotate_left; unfold x1; clear x1) | clear_value x1) | assumption | exact Within.refl _ | exact ‹Avoids _ _›.mono (by decide) | apply State.markCmd_keeps | apply State.peQueue_keeps | apply State.raise_keeps | apply State.viaBus_keeps | apply Within.ite | split | apply EKeeps.next | apply EKeeps.ite

theorem State.markInserted_keeps {s0 s : State} (h : Within parts s0 s) {m : Nat} {status : Nat}
    (hm : Avoids parts 8 := by exact ‹Avoids _ _›.mono (by decide)) :
    Within parts s0 (State.markInserted s m status) := by
  unfold State.markInserted
  with_reducible repeat' first | assumption | exact Within.refl _ | exact ‹Avoids _ _›.mono (by decide) | apply State.raise_keeps | apply Within.ite

theorem execScrubStep_keeps {s : State} {err : Option MemErr}
    (hm : Avoids parts 67174540 := by exact ‹Avoids _ _›.mono (by decide)) : EKeeps parts s (execScrubStep err s) := by
  have h : Within parts s s := .refl s
  unfold execScrubStep
  with_reducible repeat' first | intro _ | (extract_lets +onlyGivenNames x1; first | (refine Within.cut (m := parts) (s0 := s) (v := x1) ?_ ?_; rotate_left; intro hx; clear_value x1; rotate_left; unfold x1; clear x1) | clear_value x1) | assumption | exact Within.refl _ | exact ‹Avoids _ _›.mono (by decide) | apply State.bump_keeps | apply State.flawsDrop_keeps | apply State.forList_keeps | apply State.memErr_keeps | apply State.set_keeps | exact rfl | apply Within.ite | split | apply Within.upd_creel | apply EKeeps.next | apply EKeeps.ite

theorem execCtxPeek_keeps {s : State} {who : Who} {v : Word}
    (hm : Avoids parts 1149304972 := by exact ‹Avoids _ _›.mono (by decide)) : EKeeps parts s (execCtxPeek who v s) := by
  have h : Within parts s s := .refl s
  unfold execCtxPeek
  with_reducible repeat' first | intro _ | (extract_lets +onlyGivenNames x1; first | (refine Within.cut (m := parts) (s0 := s) (v := x1) ?_ ?_; rotate_left; intro hx; clear_value x1; rotate_left; unfold x1; clear x1) | clear_value x1) | assumption | exact Within.refl _ | exact ‹Avoids _ _›.mono (by decide) | apply State.forEach_keeps | apply State.raise_keeps | apply State.readMeet_keeps | apply State.setFlag_keeps | apply State.set_keeps | apply State.viaBus_keeps | apply Within.ite | apply EKeeps.next | apply EKeeps.ite

theorem execHbmTrainDone_keeps {s : State} {ok : BitVec 2}
    (hm : Avoids parts 268501000 := by exact ‹Avoids _ _›.mono (by decide)) : EKeeps parts s (execHbmTrainDone ok s) := by
  have h : Within parts s s := .refl s
  unfold execHbmTrainDone
  with_reducible repeat' first | (extract_lets +onlyGivenNames x1; first | (refine Within.cut (m := parts) (s0 := s) (v := x1) ?_ ?_; rotate_left; intro hx; clear_value x1; rotate_left; unfold x1; clear x1) | clear_value x1) | assumption | exact Within.refl _ | exact ‹Avoids _ _›.mono (by decide) | apply State.set_keeps | apply Within.ite | exact rfl | apply Within.upd_creel_boot | apply Within.upd_creel | apply Within.upd_boot | apply EKeeps.next | apply EKeeps.ite

theorem execMemReady_keeps {s : State}
    (hm : Avoids parts 65560 := by exact ‹Avoids _ _›.mono (by decide)) : EKeeps parts s (execMemReady s) := by
  refine ⟨_, rfl, ?_⟩
  apply Within.ite _ (Within.refl s)
  refine State.set_keeps ?_
  refine State.set_keeps ?_
  refine State.raise_keeps ?_
  exact ⟨⟨rfl, List.prefix_rfl, Nat.le_refl _, fun c => ⟨c.regs, rfl, c.mram, c.logQ, c.fifo⟩⟩,
    fun p e => by cases p <;> first | exact Avoids.off hm (by decide) e | simp only [Part.Same, and_self]⟩

end Sys2Proof.Machine
end

