-- ==== Sys2Proof/Laws/KeepsLing.lean ====
section
/-!
SUPPORT. The operations of Machine/Ling.lean keep what every step keeps.
-/
set_option Elab.async false
namespace Sys2Proof.Machine

set_option linter.tactic.unusedName false

variable {parts : Nat}

theorem State.setChain_keeps {s0 s : State} (h : Within parts s0 s) {n : Nat} {c : Chain}
    (hm : Avoids parts 32768 := by exact ‹Avoids _ _›.mono (by decide)) :
    Within parts s0 (State.setChain s n c) := by
  unfold State.setChain
  with_reducible repeat' first | assumption | exact Within.refl _ | exact ‹Avoids _ _›.mono (by decide) | exact rfl | apply Within.upd_chains

theorem State.publishLing_keeps {s0 s : State} (h : Within parts s0 s) {n : Nat} {driver : Nat} {channel : Nat} {kind : Nat}
    (hm : Avoids parts 67109004 := by exact ‹Avoids _ _›.mono (by decide)) :
    Within parts s0 (State.publishLing s n driver channel kind) := by
  unfold State.publishLing
  with_reducible repeat' first | assumption | exact Within.refl _ | exact ‹Avoids _ _›.mono (by decide) | apply State.publish_keeps

theorem State.commitEnd_keeps {s0 s : State} (h : Within parts s0 s) {n : Nat}
    (hm : Avoids parts 32776 := by exact ‹Avoids _ _›.mono (by decide)) :
    Within parts s0 (State.commitEnd s n) := by
  unfold State.commitEnd
  with_reducible repeat' first | assumption | exact Within.refl _ | exact ‹Avoids _ _›.mono (by decide) | apply State.clear_keeps | apply State.setChain_keeps

theorem State.commitLoad_keeps {s0 s : State} (h : Within parts s0 s) {n : Nat} {m : LCommit}
    (hm : Avoids parts 1073774600 := by exact ‹Avoids _ _›.mono (by decide)) :
    PKeeps parts s0 (State.commitLoad s n m) := by
  unfold State.commitLoad
  with_reducible repeat' first | intro _ | (extract_lets +onlyGivenNames x1; first | ((first | refine Within.cut (m := parts) (s0 := s0) (v := x1) ?_ ?_ | refine PKeeps.cut (m := parts) (s0 := s0) (p := x1) ?_ ?_); rotate_left; intro hx; clear_value x1; rotate_left; unfold x1; clear x1) | clear_value x1) | assumption | exact Within.refl _ | exact ‹Avoids _ _›.mono (by decide) | apply State.drive_keeps | apply State.raise_keeps | apply State.setChain_keeps | apply Within.ite | exact PKeeps.fst (by assumption) | exact PKeeps.mk1 (by assumption) | exact PKeeps.of_eq (by assumption) (by assumption) | apply PKeeps.ite | apply PKeeps.mk | apply PKeeps.fst

theorem State.commitLoad_keeps2 {s0 s : State} (h : Within parts s0 s) {n : Nat} {m : LCommit} {t : State} {y0 : Bool} (e : State.commitLoad s n m = (t, y0))
    (hm : Avoids parts 1073774600 := by exact ‹Avoids _ _›.mono (by decide)) : Within parts s0 t := by
  have := State.commitLoad_keeps h (n := n) (m := m)
  rw [e] at this; exact this

theorem State.commitLoad_keeps1 {s0 s : State} (h : Within parts s0 s) {n : Nat} {m : LCommit}
    (hm : Avoids parts 1073774600 := by exact ‹Avoids _ _›.mono (by decide)) : Within parts s0 (State.commitLoad s n m).1 :=
  State.commitLoad_keeps h (n := n) (m := m)

theorem State.commitAsk_keeps {s0 s : State} (h : Within parts s0 s) {n : Nat} {m : LCommit}
    (hm : Avoids parts 1073774600 := by exact ‹Avoids _ _›.mono (by decide)) :
    PKeeps parts s0 (State.commitAsk s n m) := by
  unfold State.commitAsk
  with_reducible repeat' first | assumption | exact Within.refl _ | exact ‹Avoids _ _›.mono (by decide) | (refine State.commitLoad_keeps2 ?_ ‹_›) | apply State.commitLoad_keeps1 | apply State.commitLoad_keeps | apply State.raise_keeps | apply Within.ite | exact PKeeps.fst (by assumption) | exact PKeeps.mk1 (by assumption) | exact PKeeps.of_eq (by assumption) (by assumption) | apply PKeeps.ite | apply PKeeps.mk | apply PKeeps.fst

theorem State.commitAsk_keeps2 {s0 s : State} (h : Within parts s0 s) {n : Nat} {m : LCommit} {t : State} {y0 : Bool} (e : State.commitAsk s n m = (t, y0))
    (hm : Avoids parts 1073774600 := by exact ‹Avoids _ _›.mono (by decide)) : Within parts s0 t := by
  have := State.commitAsk_keeps h (n := n) (m := m)
  rw [e] at this; exact this

theorem State.commitAsk_keeps1 {s0 s : State} (h : Within parts s0 s) {n : Nat} {m : LCommit}
    (hm : Avoids parts 1073774600 := by exact ‹Avoids _ _›.mono (by decide)) : Within parts s0 (State.commitAsk s n m).1 :=
  State.commitAsk_keeps h (n := n) (m := m)

theorem State.chainLife_keeps {s0 s : State} (h : Within parts s0 s) {n : Nat}
    (hm : Avoids parts 67109004 := by exact ‹Avoids _ _›.mono (by decide)) :
    Within parts s0 (State.chainLife s n) := by
  unfold State.chainLife
  with_reducible repeat' first | intro _ | (extract_lets +onlyGivenNames x1; first | (refine Within.cut (m := parts) (s0 := s0) (v := x1) ?_ ?_; rotate_left; intro hx; clear_value x1; rotate_left; unfold x1; clear x1) | clear_value x1) | assumption | exact Within.refl _ | exact ‹Avoids _ _›.mono (by decide) | apply State.forEach_keeps | apply State.publishLing_keeps | apply State.raise_keeps | apply State.set_keeps | apply Within.ite | split

theorem State.addLight_keeps {s0 s : State} (h : Within parts s0 s) {n : Nat} {l : List Light}
    (hm : Avoids parts 67141772 := by exact ‹Avoids _ _›.mono (by decide)) :
    Within parts s0 (State.addLight s n l) := by
  unfold State.addLight
  with_reducible repeat' first | assumption | exact Within.refl _ | exact ‹Avoids _ _›.mono (by decide) | apply State.chainLife_keeps | apply State.foldl_keeps | apply State.setChain_keeps

theorem State.enableTo_keeps {s0 s : State} (h : Within parts s0 s) {n : Nat} {b : Bool}
    (hm : Avoids parts 1073774592 := by exact ‹Avoids _ _›.mono (by decide)) :
    Within parts s0 (State.enableTo s n b) := by
  unfold State.enableTo
  with_reducible repeat' first | (extract_lets +onlyGivenNames x1; first | (refine Within.cut (m := parts) (s0 := s0) (v := x1) ?_ ?_; rotate_left; intro hx; clear_value x1; rotate_left; unfold x1; clear x1) | clear_value x1) | assumption | exact Within.refl _ | exact ‹Avoids _ _›.mono (by decide) | apply State.emit_keeps | apply State.setChain_keeps | apply Within.ite

theorem State.pulseLight_keeps {s0 s : State} (h : Within parts s0 s) {n : Nat} {w : Nat} {high : Nat}
    (hm : Avoids parts 67141772 := by exact ‹Avoids _ _›.mono (by decide)) :
    Within parts s0 (State.pulseLight s n w high) := by
  unfold State.pulseLight
  with_reducible repeat' first | intro _ | (extract_lets +onlyGivenNames x1; first | (refine Within.cut (m := parts) (s0 := s0) (v := x1) ?_ ?_; rotate_left; intro hx; clear_value x1; rotate_left; unfold x1; clear x1) | clear_value x1) | assumption | exact Within.refl _ | exact ‹Avoids _ _›.mono (by decide) | apply State.addLight_keeps | apply State.bump_keeps | apply State.setChain_keeps | apply Within.ite | split

theorem State.cutLight_keeps {s0 s : State} (h : Within parts s0 s) {n : Nat}
    (hm : Avoids parts 1140883596 := by exact ‹Avoids _ _›.mono (by decide)) :
    Within parts s0 (State.cutLight s n) := by
  unfold State.cutLight
  with_reducible repeat' first | (extract_lets +onlyGivenNames x1; first | (refine Within.cut (m := parts) (s0 := s0) (v := x1) ?_ ?_; rotate_left; intro hx; clear_value x1; rotate_left; unfold x1; clear x1) | clear_value x1) | assumption | exact Within.refl _ | exact ‹Avoids _ _›.mono (by decide) | apply State.enableTo_keeps | apply State.pulseLight_keeps | apply State.setChain_keeps | apply Within.ite

theorem State.setHeld_keeps {s0 s : State} (h : Within parts s0 s) {n : Nat} {f : Option LFrame}
    (hm : Avoids parts 32776 := by exact ‹Avoids _ _›.mono (by decide)) :
    Within parts s0 (State.setHeld s n f) := by
  unfold State.setHeld
  with_reducible repeat' first | assumption | exact Within.refl _ | exact ‹Avoids _ _›.mono (by decide) | apply State.setChain_keeps | apply State.setFlag_keeps

theorem State.chainLatchFault_keeps {s0 s : State} (h : Within parts s0 s) {n : Nat} {cause : Nat}
    (hm : Avoids parts 1182957772 := by exact ‹Avoids _ _›.mono (by decide)) :
    Within parts s0 (State.chainLatchFault s n cause) := by
  unfold State.chainLatchFault
  with_reducible repeat' first | (extract_lets +onlyGivenNames x1; first | (refine Within.cut (m := parts) (s0 := s0) (v := x1) ?_ ?_; rotate_left; intro hx; clear_value x1; rotate_left; unfold x1; clear x1) | clear_value x1) | assumption | exact Within.refl _ | exact ‹Avoids _ _›.mono (by decide) | apply State.clear_keeps | apply State.commitEnd_keeps | apply State.cutLight_keeps | apply State.lightFreeze_keeps | apply State.publishLing_keeps | apply State.raise_keeps | apply State.setChain_keeps | apply State.setHeld_keeps | apply State.set_keeps | apply State.unitTo_keeps | apply Within.ite

theorem State.chainStartFault_keeps {s0 s : State} (h : Within parts s0 s) {n : Nat} {cause : Nat} {code : Nat}
    (hm : Avoids parts 1182826700 := by exact ‹Avoids _ _›.mono (by decide)) :
    Within parts s0 (State.chainStartFault s n cause code) := by
  unfold State.chainStartFault
  with_reducible repeat' first | (extract_lets +onlyGivenNames x1; first | (refine Within.cut (m := parts) (s0 := s0) (v := x1) ?_ ?_; rotate_left; intro hx; clear_value x1; rotate_left; unfold x1; clear x1) | clear_value x1) | assumption | exact Within.refl _ | exact ‹Avoids _ _›.mono (by decide) | apply State.set_keeps | apply State.setChain_keeps | apply State.unitTo_keeps

theorem State.commitLatched_keeps {s0 s : State} (h : Within parts s0 s) {n : Nat}
    (hm : Avoids parts 1182957772 := by exact ‹Avoids _ _›.mono (by decide)) :
    Within parts s0 (State.commitLatched s n) := by
  unfold State.commitLatched
  with_reducible repeat' first | (extract_lets +onlyGivenNames x1; first | ((first | refine Within.cut (m := parts) (s0 := s0) (v := x1) ?_ ?_ | refine PKeeps.cut (m := parts) (s0 := s0) (p := x1) ?_ ?_); rotate_left; intro hx; clear_value x1; rotate_left; unfold x1; clear x1) | clear_value x1) | assumption | exact Within.refl _ | exact ‹Avoids _ _›.mono (by decide) | apply State.commitEnd_keeps | (refine State.commitLoad_keeps2 ?_ ‹_›) | apply State.commitLoad_keeps1 | apply State.commitLoad_keeps | apply State.lightFreeze_keeps | apply State.publishLing_keeps | apply State.setChain_keeps | apply State.set_keeps | apply State.unitTo_keeps | apply Within.ite | split | exact PKeeps.fst (by assumption) | exact PKeeps.mk1 (by assumption) | exact PKeeps.of_eq (by assumption) (by assumption) | apply PKeeps.ite | apply PKeeps.mk | apply PKeeps.fst

theorem State.latchFrame_keeps {s0 s : State} (h : Within parts s0 s) {n : Nat} {f : LFrame}
    (hm : Avoids parts 1182957772 := by exact ‹Avoids _ _›.mono (by decide)) :
    Within parts s0 (State.latchFrame s n f) := by
  unfold State.latchFrame
  with_reducible repeat' first | intro _ | (extract_lets +onlyGivenNames x1; first | (refine Within.cut (m := parts) (s0 := s0) (v := x1) ?_ ?_; rotate_left; intro hx; clear_value x1; rotate_left; unfold x1; clear x1) | clear_value x1) | assumption | exact Within.refl _ | exact ‹Avoids _ _›.mono (by decide) | apply State.commitLatched_keeps | apply State.emit_keeps | apply State.setChain_keeps | apply State.set_keeps | split

theorem State.latchHeld_keeps {s0 s : State} (h : Within parts s0 s) {n : Nat}
    (hm : Avoids parts 1182957772 := by exact ‹Avoids _ _›.mono (by decide)) :
    Within parts s0 (State.latchHeld s n) := by
  unfold State.latchHeld
  with_reducible repeat' first | assumption | exact Within.refl _ | exact ‹Avoids _ _›.mono (by decide) | apply State.latchFrame_keeps | apply State.setChain_keeps | apply State.setHeld_keeps | split

theorem State.showHead_keeps {s0 s : State} (h : Within parts s0 s) {n : Nat} {i : Nat} {h : LHead}
    (hm : Avoids parts 8 := by exact ‹Avoids _ _›.mono (by decide)) :
    Within parts s0 (State.showHead s n i h) := by
  unfold State.showHead
  with_reducible repeat' first | (extract_lets +onlyGivenNames x1; first | (refine Within.cut (m := parts) (s0 := s0) (v := x1) ?_ ?_; rotate_left; intro hx; clear_value x1; rotate_left; unfold x1; clear x1) | clear_value x1) | assumption | exact Within.refl _ | exact ‹Avoids _ _›.mono (by decide) | apply State.set_keeps | split

theorem State.chainClassify_keeps {s0 s : State} (h : Within parts s0 s) {n : Nat}
    (hm : Avoids parts 1182826700 := by exact ‹Avoids _ _›.mono (by decide)) :
    Within parts s0 (State.chainClassify s n) := by
  unfold State.chainClassify
  with_reducible repeat' first | intro _ | (extract_lets +onlyGivenNames x1; first | ((first | refine Within.cut (m := parts) (s0 := s0) (v := x1) ?_ ?_ | refine PKeeps.cut (m := parts) (s0 := s0) (p := x1) ?_ ?_); rotate_left; intro hx; clear_value x1; rotate_left; unfold x1; clear x1) | clear_value x1) | assumption | exact Within.refl _ | exact ‹Avoids _ _›.mono (by decide) | apply State.chainLife_keeps | (refine State.commitLoad_keeps2 ?_ ‹_›) | apply State.commitLoad_keeps1 | apply State.commitLoad_keeps | apply State.foldl_keeps | apply State.forEach_keeps | apply State.publishLing_keeps | apply State.raise_keeps | apply State.setChain_keeps | apply State.set_keeps | apply State.showHead_keeps | apply State.unitTo_keeps | apply Within.ite | exact PKeeps.fst (by assumption) | exact PKeeps.mk1 (by assumption) | exact PKeeps.of_eq (by assumption) (by assumption) | apply PKeeps.ite | apply PKeeps.mk | apply PKeeps.fst

theorem State.chainStart_keeps {s0 s : State} (h : Within parts s0 s) {n : Nat}
    (hm : Avoids parts 32776 := by exact ‹Avoids _ _›.mono (by decide)) :
    Within parts s0 (State.chainStart s n) := by
  unfold State.chainStart
  with_reducible repeat' first | (extract_lets +onlyGivenNames x1; first | (refine Within.cut (m := parts) (s0 := s0) (v := x1) ?_ ?_; rotate_left; intro hx; clear_value x1; rotate_left; unfold x1; clear x1) | clear_value x1) | assumption | exact Within.refl _ | exact ‹Avoids _ _›.mono (by decide) | apply State.raise_keeps | apply State.resetRegs_keeps | apply State.setChain_keeps | apply State.setReg_keeps

theorem State.chainLength_keeps {s0 s : State} (h : Within parts s0 s) {n : Nat} {marker : Option (Fin 33 × Bool)}
    (hm : Avoids parts 1182826700 := by exact ‹Avoids _ _›.mono (by decide)) :
    Within parts s0 (State.chainLength s n marker) := by
  unfold State.chainLength
  with_reducible repeat' first | (extract_lets +onlyGivenNames x1; first | (refine Within.cut (m := parts) (s0 := s0) (v := x1) ?_ ?_; rotate_left; intro hx; clear_value x1; rotate_left; unfold x1; clear x1) | clear_value x1) | assumption | exact Within.refl _ | exact ‹Avoids _ _›.mono (by decide) | apply State.chainClassify_keeps | apply State.chainStartFault_keeps | apply State.set_keeps | apply State.setChain_keeps | apply Within.ite | split

theorem State.chainTemps_keeps {s0 s : State} (h : Within parts s0 s) {n : Nat} {resps : List (BitVec 32)}
    (hm : Avoids parts 67141772 := by exact ‹Avoids _ _›.mono (by decide)) :
    PKeeps parts s0 (State.chainTemps s n resps) := by
  unfold State.chainTemps
  with_reducible repeat' first | intro _ | (extract_lets +onlyGivenNames x1; first | ((first | refine Within.cut (m := parts) (s0 := s0) (v := x1) ?_ ?_ | refine PKeeps.cut (m := parts) (s0 := s0) (p := x1) ?_ ?_); rotate_left; intro hx; clear_value x1; rotate_left; unfold x1; clear x1) | clear_value x1) | assumption | exact Within.refl _ | exact ‹Avoids _ _›.mono (by decide) | apply State.publishLing_keeps | apply State.raise_keeps | apply State.set_keeps | apply State.setChain_keeps | apply State.setInt_keeps | apply Within.ite | split | apply PKeeps.foldl | exact PKeeps.fst (by assumption) | exact PKeeps.mk1 (by assumption) | exact PKeeps.of_eq (by assumption) (by assumption) | apply PKeeps.ite | apply PKeeps.mk | apply PKeeps.fst | apply State.foldl_keeps

theorem State.chainTemps_keeps2 {s0 s : State} (h : Within parts s0 s) {n : Nat} {resps : List (BitVec 32)} {t : State} {y0 : Bool} (e : State.chainTemps s n resps = (t, y0))
    (hm : Avoids parts 67141772 := by exact ‹Avoids _ _›.mono (by decide)) : Within parts s0 t := by
  have := State.chainTemps_keeps h (n := n) (resps := resps)
  rw [e] at this; exact this

theorem State.chainTemps_keeps1 {s0 s : State} (h : Within parts s0 s) {n : Nat} {resps : List (BitVec 32)}
    (hm : Avoids parts 67141772 := by exact ‹Avoids _ _›.mono (by decide)) : Within parts s0 (State.chainTemps s n resps).1 :=
  State.chainTemps_keeps h (n := n) (resps := resps)

theorem State.eachChan_keeps {s0 s : State} (h : Within parts s0 s) {mask : Nat} {f : Nat → State → State} (h_f : ∀ x0 t, Within parts s0 t → Within parts s0 (f x0 t)) :
    Within parts s0 (State.eachChan s mask f) := by
  unfold State.eachChan
  with_reducible repeat' first | intro _ | assumption | exact Within.refl _ | exact ‹Avoids _ _›.mono (by decide) | apply State.forEach_keeps | apply h_f | apply Within.ite

theorem State.chainStatus_keeps {s0 s : State} (h : Within parts s0 s) {n : Nat} {tested : List Nat}
    (hm : Avoids parts 67141772 := by exact ‹Avoids _ _›.mono (by decide)) :
    PKeeps parts s0 (State.chainStatus s n tested) := by
  unfold State.chainStatus
  with_reducible repeat' first | intro _ | (extract_lets +onlyGivenNames x1; first | ((first | refine Within.cut (m := parts) (s0 := s0) (v := x1) ?_ ?_ | refine PKeeps.cut (m := parts) (s0 := s0) (p := x1) ?_ ?_); rotate_left; intro hx; clear_value x1; rotate_left; unfold x1; clear x1) | clear_value x1) | assumption | exact Within.refl _ | exact ‹Avoids _ _›.mono (by decide) | apply State.eachChan_keeps | apply State.forEach_keeps | apply State.publishLing_keeps | apply State.raise_keeps | apply State.set_keeps | apply State.setChain_keeps | apply Within.ite | split | apply PKeeps.foldl | exact PKeeps.fst (by assumption) | exact PKeeps.mk1 (by assumption) | exact PKeeps.of_eq (by assumption) (by assumption) | apply PKeeps.ite | apply PKeeps.mk | apply PKeeps.fst | apply State.foldl_keeps

theorem State.chainStatus_keeps2 {s0 s : State} (h : Within parts s0 s) {n : Nat} {tested : List Nat} {t : State} {y0 : Bool} (e : State.chainStatus s n tested = (t, y0))
    (hm : Avoids parts 67141772 := by exact ‹Avoids _ _›.mono (by decide)) : Within parts s0 t := by
  have := State.chainStatus_keeps h (n := n) (tested := tested)
  rw [e] at this; exact this

theorem State.chainStatus_keeps1 {s0 s : State} (h : Within parts s0 s) {n : Nat} {tested : List Nat}
    (hm : Avoids parts 67141772 := by exact ‹Avoids _ _›.mono (by decide)) : Within parts s0 (State.chainStatus s n tested).1 :=
  State.chainStatus_keeps h (n := n) (tested := tested)

theorem State.chainResponses_keeps {s0 s : State} (h : Within parts s0 s) {n : Nat} {f : LFrame} {resps : List (BitVec 32)}
    (hm : Avoids parts 1182826700 := by exact ‹Avoids _ _›.mono (by decide)) :
    PKeeps parts s0 (State.chainResponses s n f resps) := by
  unfold State.chainResponses
  with_reducible repeat' first | intro _ | (extract_lets +onlyGivenNames x1; first | ((first | refine Within.cut (m := parts) (s0 := s0) (v := x1) ?_ ?_ | refine PKeeps.cut (m := parts) (s0 := s0) (p := x1) ?_ ?_); rotate_left; intro hx; clear_value x1; rotate_left; unfold x1; clear x1) | clear_value x1) | assumption | exact Within.refl _ | exact ‹Avoids _ _›.mono (by decide) | apply State.bumpSat_keeps | apply State.chainClassify_keeps | (refine State.chainStatus_keeps2 ?_ ‹_›) | apply State.chainStatus_keeps1 | apply State.chainStatus_keeps | (refine State.chainTemps_keeps2 ?_ ‹_›) | apply State.chainTemps_keeps1 | apply State.chainTemps_keeps | apply State.forList_keeps | apply State.publishLing_keeps | apply State.raise_keeps | apply State.setChain_keeps | apply Within.ite | split | apply PKeeps.foldl | exact PKeeps.fst (by assumption) | exact PKeeps.mk1 (by assumption) | exact PKeeps.of_eq (by assumption) (by assumption) | apply PKeeps.ite | apply PKeeps.mk | apply PKeeps.fst | apply State.foldl_keeps

theorem State.chainResponses_keeps2 {s0 s : State} (h : Within parts s0 s) {n : Nat} {f : LFrame} {resps : List (BitVec 32)} {t : State} {y0 : Option Nat} (e : State.chainResponses s n f resps = (t, y0))
    (hm : Avoids parts 1182826700 := by exact ‹Avoids _ _›.mono (by decide)) : Within parts s0 t := by
  have := State.chainResponses_keeps h (n := n) (f := f) (resps := resps)
  rw [e] at this; exact this

theorem State.chainResponses_keeps1 {s0 s : State} (h : Within parts s0 s) {n : Nat} {f : LFrame} {resps : List (BitVec 32)}
    (hm : Avoids parts 1182826700 := by exact ‹Avoids _ _›.mono (by decide)) : Within parts s0 (State.chainResponses s n f resps).1 :=
  State.chainResponses_keeps h (n := n) (f := f) (resps := resps)

theorem State.commitEntry_keeps {s0 s : State} (h : Within parts s0 s) {n : Nat} {m : LCommit}
    (hm : Avoids parts 512 := by exact ‹Avoids _ _›.mono (by decide)) :
    Within parts s0 (State.commitEntry s n m) := by
  unfold State.commitEntry
  with_reducible repeat' first | (extract_lets +onlyGivenNames x1; first | (refine Within.cut (m := parts) (s0 := s0) (v := x1) ?_ ?_; rotate_left; intro hx; clear_value x1; rotate_left; unfold x1; clear x1) | clear_value x1) | assumption | exact Within.refl _ | exact ‹Avoids _ _›.mono (by decide) | apply State.peQueue_keeps

theorem State.frameShifted_keeps {s0 s : State} (h : Within parts s0 s) {n : Nat} {f : LFrame}
    (hm : Avoids parts 1182958284 := by exact ‹Avoids _ _›.mono (by decide)) :
    Within parts s0 (State.frameShifted s n f) := by
  unfold State.frameShifted
  with_reducible repeat' first | assumption | exact Within.refl _ | exact ‹Avoids _ _›.mono (by decide) | apply State.commitEntry_keeps | apply State.latchFrame_keeps | apply State.setHeld_keeps | apply Within.ite | split

theorem State.chainStopCheck_keeps {s0 s : State} (h : Within parts s0 s) {n : Nat}
    (hm : Avoids parts 1182826700 := by exact ‹Avoids _ _›.mono (by decide)) :
    Within parts s0 (State.chainStopCheck s n) := by
  unfold State.chainStopCheck
  with_reducible repeat' first | (extract_lets +onlyGivenNames x1; first | (refine Within.cut (m := parts) (s0 := s0) (v := x1) ?_ ?_; rotate_left; intro hx; clear_value x1; rotate_left; unfold x1; clear x1) | clear_value x1) | assumption | exact Within.refl _ | exact ‹Avoids _ _›.mono (by decide) | apply State.clear_keeps | apply State.setChain_keeps | apply State.unitTo_keeps | apply Within.ite

theorem execChainFrameDone_keeps {s : State} {n : Fin 8} {resps : List (BitVec 32)} {marker : Option (Fin 33 × Bool)}
    (hm : Avoids parts 1182958284 := by exact ‹Avoids _ _›.mono (by decide)) : EKeeps parts s (execChainFrameDone n resps marker s) := by
  have h : Within parts s s := .refl s
  unfold execChainFrameDone
  with_reducible repeat' first | (extract_lets +onlyGivenNames x1; first | ((first | refine Within.cut (m := parts) (s0 := s) (v := x1) ?_ ?_ | refine PKeeps.cut (m := parts) (s0 := s) (p := x1) ?_ ?_); rotate_left; intro hx; clear_value x1; rotate_left; unfold x1; clear x1) | clear_value x1) | assumption | exact Within.refl _ | exact ‹Avoids _ _›.mono (by decide) | apply State.chainLatchFault_keeps | apply State.chainLength_keeps | (refine State.chainResponses_keeps2 ?_ ‹_›) | apply State.chainResponses_keeps1 | apply State.chainResponses_keeps | apply State.chainStopCheck_keeps | apply State.emit_keeps | apply State.frameShifted_keeps | apply State.setChain_keeps | apply after_keeps | apply Within.ite | split | exact PKeeps.fst (by assumption) | exact PKeeps.mk1 (by assumption) | exact PKeeps.of_eq (by assumption) (by assumption) | apply PKeeps.ite | apply PKeeps.mk | apply PKeeps.fst | apply EKeeps.next | apply EKeeps.ite

theorem execCommitCtrlGo_keeps {s : State} {who : Who} {n : Fin 8} {v : Word}
    (hm : Avoids parts 1082163336 := by exact ‹Avoids _ _›.mono (by decide)) : EKeeps parts s (execCommitCtrlGo who n v s) := by
  have h : Within parts s s := .refl s
  unfold execCommitCtrlGo
  with_reducible repeat' first | intro _ | (extract_lets +onlyGivenNames x1; first | ((first | refine Within.cut (m := parts) (s0 := s) (v := x1) ?_ ?_ | refine PKeeps.cut (m := parts) (s0 := s) (p := x1) ?_ ?_); rotate_left; intro hx; clear_value x1; rotate_left; unfold x1; clear x1) | clear_value x1) | assumption | exact Within.refl _ | exact ‹Avoids _ _›.mono (by decide) | (refine State.commitAsk_keeps2 ?_ ‹_›) | apply State.commitAsk_keeps1 | apply State.commitAsk_keeps | apply State.viaBus_keeps | apply State.writeReg_keeps | apply Within.ite | exact PKeeps.fst (by assumption) | exact PKeeps.mk1 (by assumption) | exact PKeeps.of_eq (by assumption) (by assumption) | apply PKeeps.ite | apply PKeeps.mk | apply PKeeps.fst | apply EKeeps.next | apply EKeeps.ite

theorem State.burst_keeps {s0 s : State} (h : Within parts s0 s) {n : Nat} {w : Nat} {r : Nat} {req : Nat} {now : Nat}
    (hm : Avoids parts 1182957708 := by exact ‹Avoids _ _›.mono (by decide)) :
    Within parts s0 (State.burst s n w r req now) := by
  unfold State.burst
  with_reducible repeat' first | intro _ | (extract_lets +onlyGivenNames x1; first | (refine Within.cut (m := parts) (s0 := s0) (v := x1) ?_ ?_; rotate_left; intro hx; clear_value x1; rotate_left; unfold x1; clear x1) | clear_value x1) | assumption | exact Within.refl _ | exact ‹Avoids _ _›.mono (by decide) | apply State.bumpSat_keeps | apply State.foldl_keeps | apply State.lightFreeze_keeps | apply State.raise_keeps | apply State.setChain_keeps | apply Within.ite | split

theorem State.latchDeferred_keeps {s0 s : State} (h : Within parts s0 s) {n : Nat}
    (hm : Avoids parts 1182957772 := by exact ‹Avoids _ _›.mono (by decide)) :
    Within parts s0 (State.latchDeferred s n) := by
  unfold State.latchDeferred
  with_reducible repeat' first | assumption | exact Within.refl _ | exact ‹Avoids _ _›.mono (by decide) | apply State.latchHeld_keeps | apply Within.ite

theorem State.pulseEnd_keeps {s0 s : State} (h : Within parts s0 s) {n : Nat} {w : Nat} {high : Nat}
    (hm : Avoids parts 1182957772 := by exact ‹Avoids _ _›.mono (by decide)) :
    Within parts s0 (State.pulseEnd s n w high) := by
  unfold State.pulseEnd
  with_reducible repeat' first | assumption | exact Within.refl _ | exact ‹Avoids _ _›.mono (by decide) | apply State.enableTo_keeps | apply State.latchDeferred_keeps | apply State.pulseLight_keeps

theorem execBurstRowEdge_keeps {s : State} {n : Fin 8}
    (hm : Avoids parts 1182957772 := by exact ‹Avoids _ _›.mono (by decide)) : EKeeps parts s (execBurstRowEdge n s) := by
  have h : Within parts s s := .refl s
  unfold execBurstRowEdge
  with_reducible repeat' first | (extract_lets +onlyGivenNames x1; first | (refine Within.cut (m := parts) (s0 := s) (v := x1) ?_ ?_; rotate_left; intro hx; clear_value x1; rotate_left; unfold x1; clear x1) | clear_value x1) | assumption | exact Within.refl _ | exact ‹Avoids _ _›.mono (by decide) | apply State.enableTo_keeps | apply State.pulseEnd_keeps | apply State.setChain_keeps | split | apply EKeeps.next | apply EKeeps.ite

theorem State.diagDrop_keeps {s0 s : State} (h : Within parts s0 s) {n : Nat}
    (hm : Avoids parts 32776 := by exact ‹Avoids _ _›.mono (by decide)) :
    Within parts s0 (State.diagDrop s n) := by
  unfold State.diagDrop
  with_reducible repeat' first | intro _ | (extract_lets +onlyGivenNames x1; first | (refine Within.cut (m := parts) (s0 := s0) (v := x1) ?_ ?_; rotate_left; intro hx; clear_value x1; rotate_left; unfold x1; clear x1) | clear_value x1) | assumption | exact Within.refl _ | exact ‹Avoids _ _›.mono (by decide) | apply State.setChain_keeps | apply State.setHeld_keeps | split

theorem State.strobeOverrun_keeps {s0 s : State} (h : Within parts s0 s) {n : Nat}
    (hm : Avoids parts 8 := by exact ‹Avoids _ _›.mono (by decide)) :
    Within parts s0 (State.strobeOverrun s n) := by
  unfold State.strobeOverrun
  with_reducible repeat' first | assumption | exact Within.refl _ | exact ‹Avoids _ _›.mono (by decide) | apply State.bumpSat_keeps | apply State.raise_keeps

theorem State.strobeAct_keeps {s0 s : State} (h : Within parts s0 s) {n : Nat} {e : Event}
    (hm : Avoids parts 1182957772 := by exact ‹Avoids _ _›.mono (by decide)) :
    Within parts s0 (State.strobeAct s n e) := by
  unfold State.strobeAct
  with_reducible repeat' first | (extract_lets +onlyGivenNames x1; first | (refine Within.cut (m := parts) (s0 := s0) (v := x1) ?_ ?_; rotate_left; intro hx; clear_value x1; rotate_left; unfold x1; clear x1) | clear_value x1) | assumption | exact Within.refl _ | exact ‹Avoids _ _›.mono (by decide) | apply State.burst_keeps | apply State.diagDrop_keeps | apply State.latchHeld_keeps | apply State.raise_keeps | apply State.setChain_keeps | apply State.strobeOverrun_keeps | apply Within.ite | split

theorem State.cutAct_keeps {s0 s : State} (h : Within parts s0 s) {n : Nat}
    (hm : Avoids parts 1182957772 := by exact ‹Avoids _ _›.mono (by decide)) :
    Within parts s0 (State.cutAct s n) := by
  unfold State.cutAct
  with_reducible repeat' first | assumption | exact Within.refl _ | exact ‹Avoids _ _›.mono (by decide) | apply State.cutLight_keeps | apply State.latchDeferred_keeps | apply State.lightFreeze_keeps | apply State.publishLing_keeps | apply State.raise_keeps

theorem State.darkAct_keeps {s0 s : State} (h : Within parts s0 s) {n : Nat} {e : Event}
    (hm : Avoids parts 33288 := by exact ‹Avoids _ _›.mono (by decide)) :
    Within parts s0 (State.darkAct s n e) := by
  unfold State.darkAct
  with_reducible repeat' first | (extract_lets +onlyGivenNames x1; first | (refine Within.cut (m := parts) (s0 := s0) (v := x1) ?_ ?_; rotate_left; intro hx; clear_value x1; rotate_left; unfold x1; clear x1) | clear_value x1) | assumption | exact Within.refl _ | exact ‹Avoids _ _›.mono (by decide) | apply State.peQueue_keeps | apply State.raise_keeps | apply State.setChain_keeps | apply Within.ite | split

theorem State.deliverLing_keeps {s0 s : State} (h : Within parts s0 s) {e : Event}
    (hm : Avoids parts 1182958284 := by exact ‹Avoids _ _›.mono (by decide)) :
    Within parts s0 (State.deliverLing s e) := by
  unfold State.deliverLing
  with_reducible repeat' first | intro _ | (extract_lets +onlyGivenNames x1; first | (refine Within.cut (m := parts) (s0 := s0) (v := x1) ?_ ?_; rotate_left; intro hx; clear_value x1; rotate_left; unfold x1; clear x1) | clear_value x1) | assumption | exact Within.refl _ | exact ‹Avoids _ _›.mono (by decide) | apply State.bumpSat_keeps | apply State.cutAct_keeps | apply State.darkAct_keeps | apply State.deliver_keeps | apply State.forEach_keeps | apply State.raise_keeps | apply State.strobeAct_keeps | apply Within.ite | dsimp only [id]

theorem State.genInsert_keeps {s0 s : State} (h : Within parts s0 s) {n : Nat}
    (hm : Avoids parts 33288 := by exact ‹Avoids _ _›.mono (by decide)) :
    Within parts s0 (State.genInsert s n) := by
  unfold State.genInsert
  with_reducible repeat' first | (extract_lets +onlyGivenNames x1; first | (refine Within.cut (m := parts) (s0 := s0) (v := x1) ?_ ?_; rotate_left; intro hx; clear_value x1; rotate_left; unfold x1; clear x1) | clear_value x1) | assumption | exact Within.refl _ | exact ‹Avoids _ _›.mono (by decide) | apply State.bumpSat_keeps | apply State.peQueue_keeps | apply State.setChain_keeps | apply Within.ite

theorem State.genKeep_keeps {s0 s : State} (h : Within parts s0 s) {fired : Bool}
    (hm : Avoids parts 33288 := by exact ‹Avoids _ _›.mono (by decide)) :
    Within parts s0 (State.genKeep s fired) := by
  unfold State.genKeep
  with_reducible repeat' first | intro _ | (extract_lets +onlyGivenNames x1; first | (refine Within.cut (m := parts) (s0 := s0) (v := x1) ?_ ?_; rotate_left; intro hx; clear_value x1; rotate_left; unfold x1; clear x1) | clear_value x1) | assumption | exact Within.refl _ | exact ‹Avoids _ _›.mono (by decide) | apply State.forEach_keeps | apply State.genInsert_keeps | apply State.setChain_keeps | apply Within.ite | split

theorem State.genWrite_keeps {s0 s : State} (h : Within parts s0 s) {n : Nat} {v : Word}
    (hm : Avoids parts 33288 := by exact ‹Avoids _ _›.mono (by decide)) :
    Within parts s0 (State.genWrite s n v) := by
  unfold State.genWrite
  with_reducible repeat' first | (extract_lets +onlyGivenNames x1; first | (refine Within.cut (m := parts) (s0 := s0) (v := x1) ?_ ?_; rotate_left; intro hx; clear_value x1; rotate_left; unfold x1; clear x1) | clear_value x1) | assumption | exact Within.refl _ | exact ‹Avoids _ _›.mono (by decide) | apply State.genInsert_keeps | apply State.raise_keeps | apply State.setChain_keeps | apply State.set_keeps | apply State.writeReg_keeps | apply Within.ite

theorem State.lingAnswer_keeps {s0 s : State} (h : Within parts s0 s) {tag : Nat} {status : Nat} {handle : Nat}
    (hm : Avoids parts 33288 := by exact ‹Avoids _ _›.mono (by decide)) :
    Within parts s0 (State.lingAnswer s tag status handle) := by
  unfold State.lingAnswer
  with_reducible repeat' first | (extract_lets +onlyGivenNames x1; first | (refine Within.cut (m := parts) (s0 := s0) (v := x1) ?_ ?_; rotate_left; intro hx; clear_value x1; rotate_left; unfold x1; clear x1) | clear_value x1) | assumption | exact Within.refl _ | exact ‹Avoids _ _›.mono (by decide) | apply State.commitEnd_keeps | apply State.diagDrop_keeps | apply State.genInsert_keeps | apply State.raise_keeps | apply State.setChain_keeps | apply State.setHeld_keeps | apply Within.ite | split

theorem execGenRetry_keeps {s : State} {n : Fin 8}
    (hm : Avoids parts 33288 := by exact ‹Avoids _ _›.mono (by decide)) : EKeeps parts s (execGenRetry n s) := by
  have h : Within parts s s := .refl s
  unfold execGenRetry
  with_reducible repeat' first | assumption | exact Within.refl _ | exact ‹Avoids _ _›.mono (by decide) | apply State.genInsert_keeps | apply Within.ite | apply EKeeps.next | apply EKeeps.ite

theorem execDutyWindowEnd_keeps {s : State} {n : Fin 8}
    (hm : Avoids parts 32768 := by exact ‹Avoids _ _›.mono (by decide)) : EKeeps parts s (execDutyWindowEnd n s) := by
  have h : Within parts s s := .refl s
  unfold execDutyWindowEnd
  with_reducible repeat' first | assumption | exact Within.refl _ | exact ‹Avoids _ _›.mono (by decide) | apply State.setChain_keeps | apply EKeeps.next | apply EKeeps.ite

theorem execDiagStatusPoll_keeps {s : State} {n : Fin 8}
    (hm : Avoids parts 32768 := by exact ‹Avoids _ _›.mono (by decide)) : EKeeps parts s (execDiagStatusPoll n s) := by
  have h : Within parts s s := .refl s
  unfold execDiagStatusPoll
  with_reducible repeat' first | intro _ | (extract_lets +onlyGivenNames x1; first | (refine Within.cut (m := parts) (s0 := s) (v := x1) ?_ ?_; rotate_left; intro hx; clear_value x1; rotate_left; unfold x1; clear x1) | clear_value x1) | assumption | exact Within.refl _ | exact ‹Avoids _ _›.mono (by decide) | apply State.setChain_keeps | apply Within.ite | split | apply EKeeps.next | apply EKeeps.ite

theorem execUnverified_keeps {s : State} {n : Fin 8} {d : Fin 32} {c : Fin 16}
    (hm : Avoids parts 67109004 := by exact ‹Avoids _ _›.mono (by decide)) : EKeeps parts s (execUnverified n d c s) := by
  have h : Within parts s s := .refl s
  unfold execUnverified
  with_reducible repeat' first | assumption | exact Within.refl _ | exact ‹Avoids _ _›.mono (by decide) | apply State.publishLing_keeps | apply State.raise_keeps | apply State.set_keeps | apply Within.ite | apply EKeeps.next | apply EKeeps.ite

theorem execCutClr_keeps {s : State} {who : Who} {n : Fin 8} {v : Word}
    (hm : Avoids parts 1082130568 := by exact ‹Avoids _ _›.mono (by decide)) : EKeeps parts s (execCutClr who n v s) := by
  have h : Within parts s s := .refl s
  unfold execCutClr
  with_reducible repeat' first | intro _ | assumption | exact Within.refl _ | exact ‹Avoids _ _›.mono (by decide) | apply State.clear_keeps | apply State.raise_keeps | apply State.viaBus_keeps | apply Within.ite | apply EKeeps.next | apply EKeeps.ite

theorem State.doseNow_keeps {s0 s : State} (h : Within parts s0 s) {n : Nat} {deferred : Bool} {stop : Bool}
    (hm : Avoids parts 32776 := by exact ‹Avoids _ _›.mono (by decide)) :
    Within parts s0 (State.doseNow s n deferred stop) := by
  unfold State.doseNow
  with_reducible repeat' first | intro _ | (extract_lets +onlyGivenNames x1; first | (refine Within.cut (m := parts) (s0 := s0) (v := x1) ?_ ?_; rotate_left; intro hx; clear_value x1; rotate_left; unfold x1; clear x1) | clear_value x1) | assumption | exact Within.refl _ | exact ‹Avoids _ _›.mono (by decide) | apply State.forEach_keeps | apply State.raise_keeps | apply State.setChain_keeps | apply State.set_keeps | apply Within.ite | split

theorem State.doseWrite_keeps {s0 s : State} (h : Within parts s0 s) {n : Nat} {deferred : Bool} {stop : Bool}
    (hm : Avoids parts 33587208 := by exact ‹Avoids _ _›.mono (by decide)) :
    Within parts s0 (State.doseWrite s n deferred stop) := by
  unfold State.doseWrite
  with_reducible repeat' first | intro _ | assumption | exact Within.refl _ | exact ‹Avoids _ _›.mono (by decide) | apply State.doseNow_keeps | apply State.skepOnce_keeps

theorem execDoseWriteback_keeps {s : State} {n : Fin 8}
    (hm : Avoids parts 33587208 := by exact ‹Avoids _ _›.mono (by decide)) : EKeeps parts s (execDoseWriteback n s) := by
  have h : Within parts s s := .refl s
  unfold execDoseWriteback
  with_reducible repeat' first | assumption | exact Within.refl _ | exact ‹Avoids _ _›.mono (by decide) | apply State.doseWrite_keeps | apply Within.ite | apply EKeeps.next | apply EKeeps.ite

theorem execDoseRetry_keeps {s : State} {n : Fin 8}
    (hm : Avoids parts 33587208 := by exact ‹Avoids _ _›.mono (by decide)) : EKeeps parts s (execDoseRetry n s) := by
  have h : Within parts s s := .refl s
  unfold execDoseRetry
  with_reducible repeat' first | assumption | exact Within.refl _ | exact ‹Avoids _ _›.mono (by decide) | apply State.doseWrite_keeps | apply Within.ite | apply EKeeps.next | apply EKeeps.ite

theorem State.chainStop_keeps {s0 s : State} (h : Within parts s0 s) {n : Nat}
    (hm : Avoids parts 1182826700 := by exact ‹Avoids _ _›.mono (by decide)) :
    Within parts s0 (State.chainStop s n) := by
  unfold State.chainStop
  with_reducible repeat' first | (extract_lets +onlyGivenNames x1; first | (refine Within.cut (m := parts) (s0 := s0) (v := x1) ?_ ?_; rotate_left; intro hx; clear_value x1; rotate_left; unfold x1; clear x1) | clear_value x1) | assumption | exact Within.refl _ | exact ‹Avoids _ _›.mono (by decide) | apply State.chainStopCheck_keeps | apply State.commitEnd_keeps | apply State.cutLight_keeps | apply State.doseWrite_keeps | apply State.setChain_keeps | apply State.setHeld_keeps

theorem execChainCfgWrite_keeps {s : State} {who : Who} {n : Fin 8} {v : Word}
    (hm : Avoids parts 1082130568 := by exact ‹Avoids _ _›.mono (by decide)) : EKeeps parts s (execChainCfgWrite who n v s) := by
  have h : Within parts s s := .refl s
  unfold execChainCfgWrite
  with_reducible repeat' first | intro _ | (extract_lets +onlyGivenNames x1; first | (refine Within.cut (m := parts) (s0 := s) (v := x1) ?_ ?_; rotate_left; intro hx; clear_value x1; rotate_left; unfold x1; clear x1) | clear_value x1) | assumption | exact Within.refl _ | exact ‹Avoids _ _›.mono (by decide) | apply State.raise_keeps | apply State.set_keeps | apply State.viaBus_keeps | apply State.writeReg_keeps | apply Within.ite | apply EKeeps.next | apply EKeeps.ite

end Sys2Proof.Machine
end

