-- ==== Sys2Proof/Laws/KeepsCond.lean ====
section
/-!
SUPPORT. The operations of Machine/Cond.lean keep what every step keeps.
-/
set_option Elab.async false
namespace Sys2Proof.Machine

set_option linter.tactic.unusedName false

variable {parts : Nat}

theorem State.setCalSlot_keeps {s0 s : State} (h : Within parts s0 s) {i : Nat} {x : Nat}
    (hm : Avoids parts 131072 := by exact ‹Avoids _ _›.mono (by decide)) :
    Within parts s0 (State.setCalSlot s i x) := by
  unfold State.setCalSlot
  with_reducible repeat' first | assumption | exact Within.refl _ | exact ‹Avoids _ _›.mono (by decide) | exact rfl | apply Within.upd_cond

theorem State.setLut_keeps {s0 s : State} (h : Within parts s0 s) {i : Nat} {x : Nat}
    (hm : Avoids parts 131072 := by exact ‹Avoids _ _›.mono (by decide)) :
    Within parts s0 (State.setLut s i x) := by
  unfold State.setLut
  with_reducible repeat' first | assumption | exact Within.refl _ | exact ‹Avoids _ _›.mono (by decide) | exact rfl | apply Within.upd_cond

theorem State.calLoad_keeps {s0 s : State} (h : Within parts s0 s) {r : CalRun} {upto : Nat}
    (hm : Avoids parts 67305612 := by exact ‹Avoids _ _›.mono (by decide)) :
    Within parts s0 (State.calLoad s r upto) := by
  unfold State.calLoad
  with_reducible repeat' first | intro _ | (extract_lets +onlyGivenNames x1; first | (refine Within.cut (m := parts) (s0 := s0) (v := x1) ?_ ?_; rotate_left; intro hx; clear_value x1; rotate_left; unfold x1; clear x1) | clear_value x1) | assumption | exact Within.refl _ | exact ‹Avoids _ _›.mono (by decide) | apply State.forEach_keeps | apply State.readMeet_keeps | apply State.setCalSlot_keeps | apply State.setLut_keeps | exact rfl | apply Within.ite | apply Within.upd_cond

theorem State.calAccum_keeps {s0 s : State} (h : Within parts s0 s) {d : Nat} {rows : List (List (List Nat))}
    (hm : Avoids parts 131080 := by exact ‹Avoids _ _›.mono (by decide)) :
    Within parts s0 (State.calAccum s d rows) := by
  unfold State.calAccum
  with_reducible repeat' first | intro _ | (extract_lets +onlyGivenNames x1; first | (refine Within.cut (m := parts) (s0 := s0) (v := x1) ?_ ?_; rotate_left; intro hx; clear_value x1; rotate_left; unfold x1; clear x1) | clear_value x1) | assumption | exact Within.refl _ | exact ‹Avoids _ _›.mono (by decide) | apply State.foldl_keeps | apply State.set_keeps | exact rfl | apply Within.ite | split | apply Within.upd_cond

theorem State.zonesTake_keeps {s0 s : State} (h : Within parts s0 s) {d : Nat} {pos : Nat} {from? : Option Nat} {on : Bool} {miss : Bool} {poison : Bool} {rows : List (List (List Nat))}
    (hm : Avoids parts 131072 := by exact ‹Avoids _ _›.mono (by decide)) :
    Within parts s0 (State.zonesTake s d pos from? on miss poison rows) := by
  unfold State.zonesTake
  with_reducible repeat' first | intro _ | assumption | exact Within.refl _ | exact ‹Avoids _ _›.mono (by decide) | exact rfl | apply Within.upd_cond

theorem State.loadLive_keeps {s0 s : State} (h : Within parts s0 s) {d : Nat}
    (hm : Avoids parts 67305612 := by exact ‹Avoids _ _›.mono (by decide)) :
    PKeeps parts s0 (State.loadLive s d) := by
  unfold State.loadLive
  with_reducible repeat' first | assumption | exact Within.refl _ | exact ‹Avoids _ _›.mono (by decide) | apply State.calLoad_keeps | apply State.raise_keeps | apply State.useFree_keeps | apply Within.ite | split | exact PKeeps.fst (by assumption) | exact PKeeps.mk1 (by assumption) | exact PKeeps.of_eq (by assumption) (by assumption) | apply PKeeps.ite | apply PKeeps.mk | apply PKeeps.fst

theorem State.loadLive_keeps2 {s0 s : State} (h : Within parts s0 s) {d : Nat} {t : State} {y0 : Bool} (e : State.loadLive s d = (t, y0))
    (hm : Avoids parts 67305612 := by exact ‹Avoids _ _›.mono (by decide)) : Within parts s0 t := by
  have := State.loadLive_keeps h (d := d)
  rw [e] at this; exact this

theorem State.loadLive_keeps1 {s0 s : State} (h : Within parts s0 s) {d : Nat}
    (hm : Avoids parts 67305612 := by exact ‹Avoids _ _›.mono (by decide)) : Within parts s0 (State.loadLive s d).1 :=
  State.loadLive_keeps h (d := d)

theorem State.condition_keeps {s0 s : State} (h : Within parts s0 s) {l : Line} {perr : Nat}
    (hm : Avoids parts 67305612 := by exact ‹Avoids _ _›.mono (by decide)) :
    PKeeps parts s0 (State.condition s l perr) := by
  unfold State.condition
  with_reducible repeat' first | intro _ | (extract_lets +onlyGivenNames x1; first | ((first | refine Within.cut (m := parts) (s0 := s0) (v := x1) ?_ ?_ | refine PKeeps.cut (m := parts) (s0 := s0) (p := x1) ?_ ?_); rotate_left; intro hx; clear_value x1; rotate_left; unfold x1; clear x1) | clear_value x1) | assumption | exact Within.refl _ | exact ‹Avoids _ _›.mono (by decide) | apply State.bumpSat_keeps | apply State.calAccum_keeps | (refine State.loadLive_keeps2 ?_ ‹_›) | apply State.loadLive_keeps1 | apply State.loadLive_keeps | apply State.raise_keeps | apply State.setCond_keeps | apply State.zonesTake_keeps | apply Within.ite | split | exact PKeeps.fst (by assumption) | exact PKeeps.mk1 (by assumption) | exact PKeeps.of_eq (by assumption) (by assumption) | apply PKeeps.ite | apply PKeeps.mk | apply PKeeps.fst

theorem State.condition_keeps2 {s0 s : State} (h : Within parts s0 s) {l : Line} {perr : Nat} {t : State} {y0 : CLine} (e : State.condition s l perr = (t, y0))
    (hm : Avoids parts 67305612 := by exact ‹Avoids _ _›.mono (by decide)) : Within parts s0 t := by
  have := State.condition_keeps h (l := l) (perr := perr)
  rw [e] at this; exact this

theorem State.condition_keeps1 {s0 s : State} (h : Within parts s0 s) {l : Line} {perr : Nat}
    (hm : Avoids parts 67305612 := by exact ‹Avoids _ _›.mono (by decide)) : Within parts s0 (State.condition s l perr).1 :=
  State.condition_keeps h (l := l) (perr := perr)

theorem execCondCfgWrite_keeps {s : State} {who : Who} {d : Fin 4096} {off : Fin 16} {v : Word}
    (hm : Avoids parts 1082130568 := by exact ‹Avoids _ _›.mono (by decide)) : EKeeps parts s (execCondCfgWrite who d off v s) := by
  have h : Within parts s s := .refl s
  unfold execCondCfgWrite
  with_reducible repeat' first | intro _ | assumption | exact Within.refl _ | exact ‹Avoids _ _›.mono (by decide) | apply State.raise_keeps | apply State.viaBus_keeps | apply State.writeReg_keeps | apply Within.ite | apply EKeeps.next | apply EKeeps.ite

theorem State.calEnd_keeps {s0 s : State} (h : Within parts s0 s) {err : Nat}
    (hm : Avoids parts 1182924940 := by exact ‹Avoids _ _›.mono (by decide)) :
    Within parts s0 (State.calEnd s err) := by
  unfold State.calEnd
  with_reducible repeat' first | (extract_lets +onlyGivenNames x1; first | (refine Within.cut (m := parts) (s0 := s0) (v := x1) ?_ ?_; rotate_left; intro hx; clear_value x1; rotate_left; unfold x1; clear x1) | clear_value x1) | assumption | exact Within.refl _ | exact ‹Avoids _ _›.mono (by decide) | apply State.publishCond_keeps | apply State.raise_keeps | apply State.set_keeps | exact rfl | apply Within.upd_cond

theorem State.calStart_keeps {s0 s : State} (h : Within parts s0 s) {op : Nat} {fields : Nat}
    (hm : Avoids parts 131080 := by exact ‹Avoids _ _›.mono (by decide)) :
    Within parts s0 (State.calStart s op fields) := by
  unfold State.calStart
  with_reducible repeat' first | intro _ | (extract_lets +onlyGivenNames x1; first | (refine Within.cut (m := parts) (s0 := s0) (v := x1) ?_ ?_; rotate_left; intro hx; clear_value x1; rotate_left; unfold x1; clear x1) | clear_value x1) | assumption | exact Within.refl _ | exact ‹Avoids _ _›.mono (by decide) | apply State.clear_keeps | apply State.forList_keeps | apply State.raise_keeps | apply State.set_keeps | exact rfl | apply Within.ite | apply Within.upd_cond

theorem State.calMove_keeps {s0 s : State} (h : Within parts s0 s) {r : CalRun} {upto : Nat}
    (hm : Avoids parts 67305628 := by exact ‹Avoids _ _›.mono (by decide)) :
    Within parts s0 (State.calMove s r upto) := by
  unfold State.calMove
  with_reducible repeat' first | intro _ | assumption | exact Within.refl _ | exact ‹Avoids _ _›.mono (by decide) | apply State.calLoad_keeps | apply State.forEach_keeps | apply State.memWrite_keeps | apply State.setCalSlot_keeps | apply Within.ite | split

theorem execLoad_keeps {s : State} {who : Who} {v : Word}
    (hm : Avoids parts 1082261640 := by exact ‹Avoids _ _›.mono (by decide)) : EKeeps parts s (execLoad who v s) := by
  have h : Within parts s s := .refl s
  unfold execLoad
  with_reducible repeat' first | intro _ | assumption | exact Within.refl _ | exact ‹Avoids _ _›.mono (by decide) | apply State.calStart_keeps | apply State.viaBus_keeps | apply EKeeps.next | apply EKeeps.ite

theorem execSave_keeps {s : State} {who : Who}
    (hm : Avoids parts 1082261640 := by exact ‹Avoids _ _›.mono (by decide)) : EKeeps parts s (execSave who s) := by
  have h : Within parts s s := .refl s
  unfold execSave
  with_reducible repeat' first | intro _ | assumption | exact Within.refl _ | exact ‹Avoids _ _›.mono (by decide) | apply State.calStart_keeps | apply State.viaBus_keeps | apply EKeeps.next | apply EKeeps.ite

theorem execLiveReset_keeps {s : State} {who : Who}
    (hm : Avoids parts 1082261640 := by exact ‹Avoids _ _›.mono (by decide)) : EKeeps parts s (execLiveReset who s) := by
  have h : Within parts s s := .refl s
  unfold execLiveReset
  with_reducible repeat' first | intro _ | assumption | exact Within.refl _ | exact ‹Avoids _ _›.mono (by decide) | apply State.calStart_keeps | apply State.viaBus_keeps | apply EKeeps.next | apply EKeeps.ite

theorem execLutLoad_keeps {s : State} {who : Who}
    (hm : Avoids parts 1082261640 := by exact ‹Avoids _ _›.mono (by decide)) : EKeeps parts s (execLutLoad who s) := by
  have h : Within parts s s := .refl s
  unfold execLutLoad
  with_reducible repeat' first | intro _ | assumption | exact Within.refl _ | exact ‹Avoids _ _›.mono (by decide) | apply State.calStart_keeps | apply State.viaBus_keeps | apply EKeeps.next | apply EKeeps.ite

theorem execLutSave_keeps {s : State} {who : Who}
    (hm : Avoids parts 1082261640 := by exact ‹Avoids _ _›.mono (by decide)) : EKeeps parts s (execLutSave who s) := by
  have h : Within parts s s := .refl s
  unfold execLutSave
  with_reducible repeat' first | intro _ | assumption | exact Within.refl _ | exact ‹Avoids _ _›.mono (by decide) | apply State.calStart_keeps | apply State.viaBus_keeps | apply EKeeps.next | apply EKeeps.ite

theorem execAccum_keeps {s : State} {who : Who}
    (hm : Avoids parts 1082261640 := by exact ‹Avoids _ _›.mono (by decide)) : EKeeps parts s (execAccum who s) := by
  have h : Within parts s s := .refl s
  unfold execAccum
  with_reducible repeat' first | intro _ | assumption | exact Within.refl _ | exact ‹Avoids _ _›.mono (by decide) | apply State.calStart_keeps | apply State.viaBus_keeps | apply EKeeps.next | apply EKeeps.ite

theorem execCalAbort_keeps {s : State} {who : Who}
    (hm : Avoids parts 1182990492 := by exact ‹Avoids _ _›.mono (by decide)) : EKeeps parts s (execCalAbort who s) := by
  have h : Within parts s s := .refl s
  unfold execCalAbort
  with_reducible repeat' first | intro _ | (extract_lets +onlyGivenNames x1; first | (refine Within.cut (m := parts) (s0 := s) (v := x1) ?_ ?_; rotate_left; intro hx; clear_value x1; rotate_left; unfold x1; clear x1) | clear_value x1) | assumption | exact Within.refl _ | exact ‹Avoids _ _›.mono (by decide) | apply State.calEnd_keeps | apply State.calMove_keeps | apply State.useFree_keeps | apply State.viaBus_keeps | apply Within.ite | split | apply EKeeps.next | apply EKeeps.ite

theorem execCalCmdDone_keeps {s : State} 
    (hm : Avoids parts 1182990492 := by exact ‹Avoids _ _›.mono (by decide)) : EKeeps parts s (execCalCmdDone s) := by
  have h : Within parts s s := .refl s
  unfold execCalCmdDone
  with_reducible repeat' first | (extract_lets +onlyGivenNames x1; first | (refine Within.cut (m := parts) (s0 := s) (v := x1) ?_ ?_; rotate_left; intro hx; clear_value x1; rotate_left; unfold x1; clear x1) | clear_value x1) | assumption | exact Within.refl _ | exact ‹Avoids _ _›.mono (by decide) | apply State.calEnd_keeps | apply State.calMove_keeps | apply Within.ite | split | apply EKeeps.next | apply EKeeps.ite

theorem State.zoneUpdate_keeps {s0 s : State} (h : Within parts s0 s) {w : ZoneWin} {l : List ZPix}
    (hm : Avoids parts 131080 := by exact ‹Avoids _ _›.mono (by decide)) :
    PKeeps parts s0 (State.zoneUpdate s w l) := by
  unfold State.zoneUpdate
  with_reducible repeat' first | intro _ | (extract_lets +onlyGivenNames x1; first | ((first | refine Within.cut (m := parts) (s0 := s0) (v := x1) ?_ ?_ | refine PKeeps.cut (m := parts) (s0 := s0) (p := x1) ?_ ?_); rotate_left; intro hx; clear_value x1; rotate_left; unfold x1; clear x1) | clear_value x1) | assumption | exact Within.refl _ | exact ‹Avoids _ _›.mono (by decide) | apply State.bumpSat_keeps | apply State.bump_keeps | apply State.forList_keeps | apply State.raise_keeps | apply State.setCalSlot_keeps | apply Within.ite | split | apply PKeeps.foldl | exact PKeeps.fst (by assumption) | exact PKeeps.mk1 (by assumption) | exact PKeeps.of_eq (by assumption) (by assumption) | apply PKeeps.ite | apply PKeeps.mk | apply PKeeps.fst | apply State.foldl_keeps

theorem State.zoneUpdate_keeps2 {s0 s : State} (h : Within parts s0 s) {w : ZoneWin} {l : List ZPix} {t : State} {y0 : Nat × Int} (e : State.zoneUpdate s w l = (t, y0))
    (hm : Avoids parts 131080 := by exact ‹Avoids _ _›.mono (by decide)) : Within parts s0 t := by
  have := State.zoneUpdate_keeps h (w := w) (l := l)
  rw [e] at this; exact this

theorem State.zoneUpdate_keeps1 {s0 s : State} (h : Within parts s0 s) {w : ZoneWin} {l : List ZPix}
    (hm : Avoids parts 131080 := by exact ‹Avoids _ _›.mono (by decide)) : Within parts s0 (State.zoneUpdate s w l).1 :=
  State.zoneUpdate_keeps h (w := w) (l := l)

theorem State.zoneRefuse_keeps {s0 s : State} (h : Within parts s0 s) {w : ZoneWin} {result : Nat} {rej : Nat} {m0 : Nat}
    (hm : Avoids parts 1182924940 := by exact ‹Avoids _ _›.mono (by decide)) :
    Within parts s0 (State.zoneRefuse s w result rej m0) := by
  unfold State.zoneRefuse
  dsimp only
  with_reducible repeat' first | (extract_lets +onlyGivenNames x1; first | (refine Within.cut (m := parts) (s0 := s0) (v := x1) ?_ ?_; rotate_left; intro hx; clear_value x1; rotate_left; unfold x1; clear x1) | clear_value x1) | assumption | exact Within.refl _ | exact ‹Avoids _ _›.mono (by decide) | apply State.calLog_keeps | apply State.lcFreeze_keeps | apply State.set_keeps | apply Within.ite | exact rfl | apply Within.upd_cond

theorem State.zoneClose_keeps {s0 s : State} (h : Within parts s0 s) {w : ZoneWin}
    (hm : Avoids parts 1182924940 := by exact ‹Avoids _ _›.mono (by decide)) :
    Within parts s0 (State.zoneClose s w) := by
  unfold State.zoneClose
  with_reducible repeat' first | intro _ | (extract_lets +onlyGivenNames x1; first | (refine Within.cut (m := parts) (s0 := s0) (v := x1) ?_ ?_; rotate_left; intro hx; clear_value x1; rotate_left; unfold x1; clear x1) | clear_value x1) | assumption | exact Within.refl _ | exact ‹Avoids _ _›.mono (by decide) | apply State.bumpSat_keeps | apply State.bump_keeps | apply State.calLog_keeps | apply State.foldl_keeps | apply State.zoneRefuse_keeps | exact rfl | apply Within.ite | apply Within.upd_cond

theorem State.zoneApply_keeps {s0 s : State} (h : Within parts s0 s) {e : ZonePend}
    (hm : Avoids parts 1182924940 := by exact ‹Avoids _ _›.mono (by decide)) :
    Within parts s0 (State.zoneApply s e) := by
  unfold State.zoneApply
  with_reducible repeat' first | intro _ | (extract_lets +onlyGivenNames x1; first | ((first | refine Within.cut (m := parts) (s0 := s0) (v := x1) ?_ ?_ | refine PKeeps.cut (m := parts) (s0 := s0) (p := x1) ?_ ?_); rotate_left; intro hx; clear_value x1; rotate_left; unfold x1; clear x1) | clear_value x1) | assumption | exact Within.refl _ | exact ‹Avoids _ _›.mono (by decide) | apply State.log_keeps | apply State.publishCond_keeps | apply State.setInt_keeps | apply State.setReg_keeps | apply State.set_keeps | (refine State.zoneUpdate_keeps2 ?_ ‹_›) | apply State.zoneUpdate_keeps1 | apply State.zoneUpdate_keeps | apply Within.ite | split | exact PKeeps.fst (by assumption) | exact PKeeps.mk1 (by assumption) | exact PKeeps.of_eq (by assumption) (by assumption) | apply PKeeps.ite | apply PKeeps.mk | apply PKeeps.fst

theorem State.zonesApply_keeps {s0 s : State} (h : Within parts s0 s)
    (hm : Avoids parts 1182924940 := by exact ‹Avoids _ _›.mono (by decide)) :
    Within parts s0 (State.zonesApply s) := by
  unfold State.zonesApply
  with_reducible repeat' first | intro _ | assumption | exact Within.refl _ | exact ‹Avoids _ _›.mono (by decide) | apply State.foldl_keeps | apply State.forList_keeps | apply State.zoneApply_keeps | exact rfl | apply Within.upd_cond

theorem execZoneClose_keeps {s : State} {v : Fin 8}
    (hm : Avoids parts 1182924940 := by exact ‹Avoids _ _›.mono (by decide)) : EKeeps parts s (execZoneClose v s) := by
  have h : Within parts s s := .refl s
  unfold execZoneClose
  with_reducible repeat' first | assumption | exact Within.refl _ | exact ‹Avoids _ _›.mono (by decide) | apply State.zoneClose_keeps | exact rfl | split | apply Within.upd_cond | apply EKeeps.next | apply EKeeps.ite

end Sys2Proof.Machine
end

