-- ==== Sys2Proof/Laws/KeepsPlait.lean ====
section
/-!
SUPPORT. The operations of Machine/Plait.lean keep what every step keeps.
-/
set_option Elab.async false
namespace Sys2Proof.Machine

set_option linter.tactic.unusedName false

variable {parts : Nat}

theorem State.setPlait_keeps {s0 s : State} (h : Within parts s0 s) {v : Nat} {x : PView}
    (hm : Avoids parts 262144 := by exact ‹Avoids _ _›.mono (by decide)) :
    Within parts s0 (State.setPlait s v x) := by
  unfold State.setPlait
  with_reducible repeat' first | assumption | exact Within.refl _ | exact ‹Avoids _ _›.mono (by decide) | exact rfl | apply Within.upd_plait

theorem State.publishPlait_keeps {s0 s : State} (h : Within parts s0 s) {v : Nat} {arg : Nat} {kind : Nat}
    (hm : Avoids parts 1182793868 := by exact ‹Avoids _ _›.mono (by decide)) :
    Within parts s0 (State.publishPlait s v arg kind) := by
  unfold State.publishPlait
  with_reducible repeat' first | assumption | exact Within.refl _ | exact ‹Avoids _ _›.mono (by decide) | apply State.skepPublish_keeps

theorem State.viewRej_keeps {s0 s : State} (h : Within parts s0 s) {v : Nat}
    (hm : Avoids parts 8 := by exact ‹Avoids _ _›.mono (by decide)) :
    Within parts s0 (State.viewRej s v) := by
  unfold State.viewRej
  with_reducible repeat' first | assumption | exact Within.refl _ | exact ‹Avoids _ _›.mono (by decide) | apply State.raise_keeps

theorem execVwCtrlWrite_keeps {s : State} {who : Who} {v : Fin 8} {off : Fin 2048} {x : Word}
    (hm : Avoids parts 1082130568 := by exact ‹Avoids _ _›.mono (by decide)) : EKeeps parts s (execVwCtrlWrite who v off x s) := by
  have h : Within parts s s := .refl s
  unfold execVwCtrlWrite
  with_reducible repeat' first | intro _ | (extract_lets +onlyGivenNames x1; first | (refine Within.cut (m := parts) (s0 := s) (v := x1) ?_ ?_; rotate_left; intro hx; clear_value x1; rotate_left; unfold x1; clear x1) | clear_value x1) | assumption | exact Within.refl _ | exact ‹Avoids _ _›.mono (by decide) | apply State.foldl_keeps | apply State.set_keeps | apply State.viaBus_keeps | apply State.viewRej_keeps | apply State.writeReg_keeps | apply Within.ite | apply EKeeps.next | apply EKeeps.ite

theorem State.plaitBegin_keeps {s0 s : State} (h : Within parts s0 s) {v : Nat}
    (hm : Avoids parts 1183056012 := by exact ‹Avoids _ _›.mono (by decide)) :
    Within parts s0 (State.plaitBegin s v) := by
  unfold State.plaitBegin
  with_reducible repeat' first | (extract_lets +onlyGivenNames x1; first | (refine Within.cut (m := parts) (s0 := s0) (v := x1) ?_ ?_; rotate_left; intro hx; clear_value x1; rotate_left; unfold x1; clear x1) | clear_value x1) | assumption | exact Within.refl _ | exact ‹Avoids _ _›.mono (by decide) | apply State.bump_keeps | apply State.publishPlait_keeps | apply State.setPlait_keeps | apply Within.ite

theorem State.plaitPut_keeps {s0 s : State} (h : Within parts s0 s) {v : Nat} {head : Nat} {l : PLine} {h : PHead}
    (hm : Avoids parts 262144 := by exact ‹Avoids _ _›.mono (by decide)) :
    Within parts s0 (State.plaitPut s v head l h) := by
  unfold State.plaitPut
  with_reducible repeat' first | intro _ | (extract_lets +onlyGivenNames x1; first | (refine Within.cut (m := parts) (s0 := s0) (v := x1) ?_ ?_; rotate_left; intro hx; clear_value x1; rotate_left; unfold x1; clear x1) | clear_value x1) | assumption | exact Within.refl _ | exact ‹Avoids _ _›.mono (by decide) | apply State.setPlait_keeps | apply Within.ite

theorem State.plaitTake_keeps {s0 s : State} (h : Within parts s0 s) {v : Nat} {head : Nat} {l : PLine}
    (hm : Avoids parts 1183056012 := by exact ‹Avoids _ _›.mono (by decide)) :
    Within parts s0 (State.plaitTake s v head l) := by
  unfold State.plaitTake
  with_reducible repeat' first | intro _ | (extract_lets +onlyGivenNames x1; first | (refine Within.cut (m := parts) (s0 := s0) (v := x1) ?_ ?_; rotate_left; intro hx; clear_value x1; rotate_left; unfold x1; clear x1) | clear_value x1) | assumption | exact Within.refl _ | exact ‹Avoids _ _›.mono (by decide) | apply State.plaitBegin_keeps | apply State.plaitPut_keeps | apply State.setPlait_keeps | apply Within.ite | split

theorem State.plaitLine_keeps {s0 s : State} (h : Within parts s0 s) {cl : CLine}
    (hm : Avoids parts 1183056012 := by exact ‹Avoids _ _›.mono (by decide)) :
    Within parts s0 (State.plaitLine s cl) := by
  unfold State.plaitLine
  with_reducible repeat' first | intro _ | (extract_lets +onlyGivenNames x1; first | (refine Within.cut (m := parts) (s0 := s0) (v := x1) ?_ ?_; rotate_left; intro hx; clear_value x1; rotate_left; unfold x1; clear x1) | clear_value x1) | assumption | exact Within.refl _ | exact ‹Avoids _ _›.mono (by decide) | apply State.bumpSat_keeps | apply State.forList_keeps | apply State.plaitTake_keeps | apply Within.ite | split

theorem execLineCondition_keeps {s : State} {f : Fin 32} {perr : Nat}
    (hm : Avoids parts 1183256716 := by exact ‹Avoids _ _›.mono (by decide)) : EKeeps parts s (execLineCondition f perr s) := by
  have h : Within parts s s := .refl s
  unfold execLineCondition
  with_reducible repeat' first | (extract_lets +onlyGivenNames x1; first | ((first | refine Within.cut (m := parts) (s0 := s) (v := x1) ?_ ?_ | refine PKeeps.cut (m := parts) (s0 := s) (p := x1) ?_ ?_); rotate_left; intro hx; clear_value x1; rotate_left; unfold x1; clear x1) | clear_value x1) | assumption | exact Within.refl _ | exact ‹Avoids _ _›.mono (by decide) | (refine State.condition_keeps2 ?_ ‹_›) | apply State.condition_keeps1 | apply State.condition_keeps | apply State.plaitLine_keeps | apply State.setLink_keeps | apply Within.ite | split | exact PKeeps.fst (by assumption) | exact PKeeps.mk1 (by assumption) | exact PKeeps.of_eq (by assumption) (by assumption) | apply PKeeps.ite | apply PKeeps.mk | apply PKeeps.fst | apply EKeeps.next | apply EKeeps.ite

theorem State.plaitOff_keeps {s0 s : State} (h : Within parts s0 s) {v : Nat}
    (hm : Avoids parts 1183056076 := by exact ‹Avoids _ _›.mono (by decide)) :
    Within parts s0 (State.plaitOff s v) := by
  unfold State.plaitOff
  with_reducible repeat' first | assumption | exact Within.refl _ | exact ‹Avoids _ _›.mono (by decide) | apply State.clear_keeps | apply State.setPlait_keeps | apply State.unitTo_keeps

theorem State.trkReject_keeps {s0 s : State} (h : Within parts s0 s) {v : Nat} {n : Nat}
    (hm : Avoids parts 8 := by exact ‹Avoids _ _›.mono (by decide)) :
    Within parts s0 (State.trkReject s v n) := by
  unfold State.trkReject
  with_reducible repeat' first | assumption | exact Within.refl _ | exact ‹Avoids _ _›.mono (by decide) | apply State.bumpSat_keeps

theorem State.plaitTurn_keeps {s0 s : State} (h : Within parts s0 s) {v : Nat}
    (hm : Avoids parts 1183056076 := by exact ‹Avoids _ _›.mono (by decide)) :
    Within parts s0 (State.plaitTurn s v) := by
  unfold State.plaitTurn
  with_reducible repeat' first | intro _ | (extract_lets +onlyGivenNames x1; first | (refine Within.cut (m := parts) (s0 := s0) (v := x1) ?_ ?_; rotate_left; intro hx; clear_value x1; rotate_left; unfold x1; clear x1) | clear_value x1) | assumption | exact Within.refl _ | exact ‹Avoids _ _›.mono (by decide) | apply State.forList_keeps | apply State.plaitOff_keeps | apply State.plaitTake_keeps | apply State.setPlait_keeps | apply State.trkReject_keeps | apply Within.ite

theorem State.headsMiss_keeps {s0 s : State} (h : Within parts s0 s) {v : Nat} {hs : List (PHead × Bool)}
    (hm : Avoids parts 1183056012 := by exact ‹Avoids _ _›.mono (by decide)) :
    Within parts s0 (State.headsMiss s v hs) := by
  unfold State.headsMiss
  with_reducible repeat' first | intro _ | (extract_lets +onlyGivenNames x1; first | (refine Within.cut (m := parts) (s0 := s0) (v := x1) ?_ ?_; rotate_left; intro hx; clear_value x1; rotate_left; unfold x1; clear x1) | clear_value x1) | assumption | exact Within.refl _ | exact ‹Avoids _ _›.mono (by decide) | apply State.forList_keeps | apply State.publishPlait_keeps | apply State.setFlag_keeps | apply State.setPlait_keeps | apply Within.ite

theorem State.makeRow_keeps {s0 s : State} (h : Within parts s0 s) {v : Nat} {x : PView} {hs : List (PHead × List MapPx)} {q : Nat} {perr : Nat}
    (hm : Avoids parts 1183068300 := by exact ‹Avoids _ _›.mono (by decide)) :
    PKeeps parts s0 (State.makeRow s v x hs q perr) := by
  unfold State.makeRow
  with_reducible repeat' first | intro _ | (extract_lets +onlyGivenNames x1; first | ((first | refine Within.cut (m := parts) (s0 := s0) (v := x1) ?_ ?_ | refine PKeeps.cut (m := parts) (s0 := s0) (p := x1) ?_ ?_); rotate_left; intro hx; clear_value x1; rotate_left; unfold x1; clear x1) | clear_value x1) | assumption | exact Within.refl _ | exact ‹Avoids _ _›.mono (by decide) | apply State.bumpSat_keeps | apply State.bump_keeps | apply State.headsMiss_keeps | apply State.present_keeps | apply State.raise_keeps | apply State.setPlait_keeps | apply Within.ite | split | apply PKeeps.foldl | exact PKeeps.fst (by assumption) | exact PKeeps.mk1 (by assumption) | exact PKeeps.of_eq (by assumption) (by assumption) | apply PKeeps.ite | apply PKeeps.mk | apply PKeeps.fst | apply State.foldl_keeps

theorem State.makeRow_keeps2 {s0 s : State} (h : Within parts s0 s) {v : Nat} {x : PView} {hs : List (PHead × List MapPx)} {q : Nat} {perr : Nat} {t : State} {y0 : PRow} (e : State.makeRow s v x hs q perr = (t, y0))
    (hm : Avoids parts 1183068300 := by exact ‹Avoids _ _›.mono (by decide)) : Within parts s0 t := by
  have := State.makeRow_keeps h (v := v) (x := x) (hs := hs) (q := q) (perr := perr)
  rw [e] at this; exact this

theorem State.makeRow_keeps1 {s0 s : State} (h : Within parts s0 s) {v : Nat} {x : PView} {hs : List (PHead × List MapPx)} {q : Nat} {perr : Nat}
    (hm : Avoids parts 1183068300 := by exact ‹Avoids _ _›.mono (by decide)) : Within parts s0 (State.makeRow s v x hs q perr).1 :=
  State.makeRow_keeps h (v := v) (x := x) (hs := hs) (q := q) (perr := perr)

theorem State.plaitRow_keeps {s0 s : State} (h : Within parts s0 s) {v : Nat} {perr : Nat}
    (hm : Avoids parts 1183068364 := by exact ‹Avoids _ _›.mono (by decide)) :
    PKeeps parts s0 (State.plaitRow s v perr) := by
  unfold State.plaitRow
  with_reducible repeat' first | intro _ | (extract_lets +onlyGivenNames x1; first | ((first | refine Within.cut (m := parts) (s0 := s0) (v := x1) ?_ ?_ | refine PKeeps.cut (m := parts) (s0 := s0) (p := x1) ?_ ?_); rotate_left; intro hx; clear_value x1; rotate_left; unfold x1; clear x1) | clear_value x1) | assumption | exact Within.refl _ | exact ‹Avoids _ _›.mono (by decide) | apply State.headsMiss_keeps | (refine State.makeRow_keeps2 ?_ ‹_›) | apply State.makeRow_keeps1 | apply State.makeRow_keeps | apply State.plaitTurn_keeps | apply State.present_keeps | apply State.setPlait_keeps | apply Within.ite | split | apply PKeeps.foldl | exact PKeeps.fst (by assumption) | exact PKeeps.mk1 (by assumption) | exact PKeeps.of_eq (by assumption) (by assumption) | apply PKeeps.ite | apply PKeeps.mk | apply PKeeps.fst | apply State.foldl_keeps

theorem State.plaitRow_keeps2 {s0 s : State} (h : Within parts s0 s) {v : Nat} {perr : Nat} {t : State} {y0 : Option PRow} (e : State.plaitRow s v perr = (t, y0))
    (hm : Avoids parts 1183068364 := by exact ‹Avoids _ _›.mono (by decide)) : Within parts s0 t := by
  have := State.plaitRow_keeps h (v := v) (perr := perr)
  rw [e] at this; exact this

theorem State.plaitRow_keeps1 {s0 s : State} (h : Within parts s0 s) {v : Nat} {perr : Nat}
    (hm : Avoids parts 1183068364 := by exact ‹Avoids _ _›.mono (by decide)) : Within parts s0 (State.plaitRow s v perr).1 :=
  State.plaitRow_keeps h (v := v) (perr := perr)

theorem State.headLate_keeps {s0 s : State} (h : Within parts s0 s) {v : Nat} {h : Nat} {margin : Nat}
    (hm : Avoids parts 262144 := by exact ‹Avoids _ _›.mono (by decide)) :
    Within parts s0 (State.headLate s v h margin) := by
  unfold State.headLate
  with_reducible repeat' first | intro _ | (extract_lets +onlyGivenNames x1; first | (refine Within.cut (m := parts) (s0 := s0) (v := x1) ?_ ?_; rotate_left; intro hx; clear_value x1; rotate_left; unfold x1; clear x1) | clear_value x1) | assumption | exact Within.refl _ | exact ‹Avoids _ _›.mono (by decide) | apply State.setPlait_keeps | apply Within.ite | split

theorem execHeadTimeout_keeps {s : State} {v : Fin 8} {h : Fin 256}
    (hm : Avoids parts 262144 := by exact ‹Avoids _ _›.mono (by decide)) : EKeeps parts s (execHeadTimeout v h s) := by
  have h : Within parts s s := .refl s
  unfold execHeadTimeout
  with_reducible repeat' first | assumption | exact Within.refl _ | exact ‹Avoids _ _›.mono (by decide) | apply State.headLate_keeps | apply EKeeps.next | apply EKeeps.ite

theorem execLateMarginPass_keeps {s : State} {v : Fin 8} {h : Fin 256}
    (hm : Avoids parts 262144 := by exact ‹Avoids _ _›.mono (by decide)) : EKeeps parts s (execLateMarginPass v h s) := by
  have h : Within parts s s := .refl s
  unfold execLateMarginPass
  with_reducible repeat' first | assumption | exact Within.refl _ | exact ‹Avoids _ _›.mono (by decide) | apply State.headLate_keeps | apply EKeeps.next | apply EKeeps.ite

theorem State.trkShow_keeps {s0 s : State} (h : Within parts s0 s) {v : Nat} {meas : List Meas}
    (hm : Avoids parts 8 := by exact ‹Avoids _ _›.mono (by decide)) :
    Within parts s0 (State.trkShow s v meas) := by
  unfold State.trkShow
  with_reducible repeat' first | intro _ | assumption | exact Within.refl _ | exact ‹Avoids _ _›.mono (by decide) | apply State.bumpSat_keeps | apply State.bump_keeps | apply State.forList_keeps | apply State.setInt_keeps | split

theorem State.trkHeld_keeps {s0 s : State} (h : Within parts s0 s) {v : Nat} {h : Nat} {held : Bool}
    (hm : Avoids parts 1182793868 := by exact ‹Avoids _ _›.mono (by decide)) :
    Within parts s0 (State.trkHeld s v h held) := by
  unfold State.trkHeld
  with_reducible repeat' first | assumption | exact Within.refl _ | exact ‹Avoids _ _›.mono (by decide) | apply State.publishPlait_keeps | apply State.raise_keeps | apply Within.ite

theorem State.trkUpdate_keeps {s0 s : State} (h : Within parts s0 s) {v : Nat} {hs : List PHead} {meas : List Meas}
    (hm : Avoids parts 1182793868 := by exact ‹Avoids _ _›.mono (by decide)) :
    Within parts s0 (State.trkUpdate s v hs meas) := by
  unfold State.trkUpdate
  with_reducible repeat' first | intro _ | (extract_lets +onlyGivenNames x1; first | (refine Within.cut (m := parts) (s0 := s0) (v := x1) ?_ ?_; rotate_left; intro hx; clear_value x1; rotate_left; unfold x1; clear x1) | clear_value x1) | assumption | exact Within.refl _ | exact ‹Avoids _ _›.mono (by decide) | apply State.bump_keeps | apply State.foldl_keeps | apply State.forList_keeps | apply State.setInt_keeps | apply State.trkHeld_keeps | apply Within.ite | split

theorem execTrkWindowEnd_keeps {s : State} {v : Fin 8}
    (hm : Avoids parts 1183056012 := by exact ‹Avoids _ _›.mono (by decide)) : EKeeps parts s (execTrkWindowEnd v s) := by
  have h : Within parts s s := .refl s
  unfold execTrkWindowEnd
  with_reducible repeat' first | intro _ | (extract_lets +onlyGivenNames x1; first | (refine Within.cut (m := parts) (s0 := s) (v := x1) ?_ ?_; rotate_left; intro hx; clear_value x1; rotate_left; unfold x1; clear x1) | clear_value x1) | assumption | exact Within.refl _ | exact ‹Avoids _ _›.mono (by decide) | apply State.setPlait_keeps | apply State.trkShow_keeps | apply State.trkUpdate_keeps | apply Within.ite | apply EKeeps.next | apply EKeeps.ite

end Sys2Proof.Machine
end

