-- ==== Sys2Proof/Laws/KeepsSkepBase.lean ====
section
/-!
SUPPORT. The operations of Machine/SkepBase.lean keep what every step keeps.
-/
set_option Elab.async false
namespace Sys2Proof.Machine

set_option linter.tactic.unusedName false

variable {parts : Nat}

theorem State.setCmd_keeps {s0 s : State} (h : Within parts s0 s) {m : Nat} {c : SkCmd}
    (hm : Avoids parts 33554432 := by exact ‹Avoids _ _›.mono (by decide)) :
    Within parts s0 (State.setCmd s m c) := by
  unfold State.setCmd
  with_reducible repeat' first | assumption | exact Within.refl _ | exact ‹Avoids _ _›.mono (by decide) | exact rfl | apply Within.upd_skep

theorem State.skepAnswer_keeps {s0 s : State} (h : Within parts s0 s) {m : Nat} {status : Nat} {p : List Byte}
    (hm : Avoids parts 33554432 := by exact ‹Avoids _ _›.mono (by decide)) :
    Within parts s0 (State.skepAnswer s m status p) := by
  unfold State.skepAnswer
  with_reducible repeat' first | (extract_lets +onlyGivenNames x1; first | (refine Within.cut (m := parts) (s0 := s0) (v := x1) ?_ ?_; rotate_left; intro hx; clear_value x1; rotate_left; unfold x1; clear x1) | clear_value x1) | assumption | exact Within.refl _ | exact ‹Avoids _ _›.mono (by decide) | apply State.setCmd_keeps | apply Within.ite

theorem State.skepRun_keeps {s0 s : State} (h : Within parts s0 s) {m : Nat} {op : Nat} {sel : List Byte → Bool} {f : List Byte → State → State} (h_f : ∀ x0 t, Within parts s0 t → Within parts s0 (f x0 t))
    (hm : Avoids parts 33554432 := by exact ‹Avoids _ _›.mono (by decide)) :
    Within parts s0 (State.skepRun s m op sel f) := by
  unfold State.skepRun
  with_reducible repeat' first | (extract_lets +onlyGivenNames x1; first | (refine Within.cut (m := parts) (s0 := s0) (v := x1) ?_ ?_; rotate_left; intro hx; clear_value x1; rotate_left; unfold x1; clear x1) | clear_value x1) | assumption | exact Within.refl _ | exact ‹Avoids _ _›.mono (by decide) | apply State.setCmd_keeps | apply State.skepAnswer_keeps | apply h_f | apply Within.ite | split

theorem State.skepRead_keeps {s0 s : State} (h : Within parts s0 s) {f : Nat} {kind : Nat → ReqKind} {addr : Nat} {len : Nat}
    (hm : Avoids parts 1115684873 := by exact ‹Avoids _ _›.mono (by decide)) :
    Within parts s0 (State.skepRead s f kind addr len) := by
  unfold State.skepRead
  with_reducible repeat' first | (extract_lets +onlyGivenNames x1; first | (refine Within.cut (m := parts) (s0 := s0) (v := x1) ?_ ?_; rotate_left; intro hx; clear_value x1; rotate_left; unfold x1; clear x1) | clear_value x1) | assumption | exact Within.refl _ | exact ‹Avoids _ _›.mono (by decide) | apply State.portRead_keeps | exact rfl | apply Within.upd_skep

theorem State.skepData_keeps {s0 s : State} (h : Within parts s0 s) {m : Nat} {buf : Nat} {p : List Byte} {at_ : Nat} {data : List Byte}
    (hm : Avoids parts 1115684873 := by exact ‹Avoids _ _›.mono (by decide)) :
    Within parts s0 (State.skepData s m buf p at_ data) := by
  unfold State.skepData
  with_reducible repeat' first | (extract_lets +onlyGivenNames x1; first | (refine Within.cut (m := parts) (s0 := s0) (v := x1) ?_ ?_; rotate_left; intro hx; clear_value x1; rotate_left; unfold x1; clear x1) | clear_value x1) | assumption | exact Within.refl _ | exact ‹Avoids _ _›.mono (by decide) | apply State.portWrite_keeps | apply State.setCmd_keeps | apply State.skepAnswer_keeps | apply State.skepRead_keeps | apply Within.ite

theorem State.skepBackIn_keeps {s0 s : State} (h : Within parts s0 s) {m : Nat} {id : Nat} {ok : Bool}
    (hm : Avoids parts 33554432 := by exact ‹Avoids _ _›.mono (by decide)) :
    Within parts s0 (State.skepBackIn s m id ok) := by
  unfold State.skepBackIn
  with_reducible repeat' first | (extract_lets +onlyGivenNames x1; first | (refine Within.cut (m := parts) (s0 := s0) (v := x1) ?_ ?_; rotate_left; intro hx; clear_value x1; rotate_left; unfold x1; clear x1) | clear_value x1) | assumption | exact Within.refl _ | exact ‹Avoids _ _›.mono (by decide) | apply State.setCmd_keeps | apply State.skepAnswer_keeps | apply Within.ite | split

theorem State.skepFetch_keeps {s0 s : State} (h : Within parts s0 s) {m : Nat} {x : SkFetch}
    (hm : Avoids parts 1115684873 := by exact ‹Avoids _ _›.mono (by decide)) :
    Within parts s0 (State.skepFetch s m x) := by
  unfold State.skepFetch
  with_reducible repeat' first | (extract_lets +onlyGivenNames x1; first | (refine Within.cut (m := parts) (s0 := s0) (v := x1) ?_ ?_; rotate_left; intro hx; clear_value x1; rotate_left; unfold x1; clear x1) | clear_value x1) | assumption | exact Within.refl _ | exact ‹Avoids _ _›.mono (by decide) | apply State.setCmd_keeps | apply State.skepRead_keeps | apply Within.ite

theorem State.skepFetchIn_keeps {s0 s : State} (h : Within parts s0 s) {m : Nat} {id : Nat} {r : Option (List Byte)}
    (hm : Avoids parts 1115684873 := by exact ‹Avoids _ _›.mono (by decide)) :
    Within parts s0 (State.skepFetchIn s m id r) := by
  unfold State.skepFetchIn
  with_reducible repeat' first | (extract_lets +onlyGivenNames x1; first | (refine Within.cut (m := parts) (s0 := s0) (v := x1) ?_ ?_; rotate_left; intro hx; clear_value x1; rotate_left; unfold x1; clear x1) | clear_value x1) | assumption | exact Within.refl _ | exact ‹Avoids _ _›.mono (by decide) | apply State.setCmd_keeps | apply State.skepFetch_keeps | apply Within.ite | split

theorem State.setBox_keeps {s0 s : State} (h : Within parts s0 s) {m off : Nat} {bs : List Byte}
    (hm : Avoids parts 33554432 := by exact ‹Avoids _ _›.mono (by decide)) : Within parts s0 (State.setBox s m off bs) := by
  induction bs generalizing s off with
  | nil => exact h
  | cons b bs ih =>
    unfold State.setBox
    repeat' first | (extract_lets +onlyGivenNames x1; first | (refine Within.cut (m := parts) (s0 := s0) (v := x1) ?_ ?_; rotate_left; intro hx; clear_value x1; rotate_left; unfold x1; clear x1) | clear_value x1) | with_reducible assumption | with_reducible apply ih | exact ‹Avoids _ _›.mono (by decide) | with_reducible apply Within.ite | split | exact rfl | with_reducible apply Within.upd_skep

theorem State.boxDone_keeps {s0 s : State} (h : Within parts s0 s) {m : Nat} {status : Nat} {token : Nat} {p : List Byte}
    (hm : Avoids parts 1115685000 := by exact ‹Avoids _ _›.mono (by decide)) :
    Within parts s0 (State.boxDone s m status token p) := by
  unfold State.boxDone
  with_reducible repeat' first | (extract_lets +onlyGivenNames x1; first | (refine Within.cut (m := parts) (s0 := s0) (v := x1) ?_ ?_; rotate_left; intro hx; clear_value x1; rotate_left; unfold x1; clear x1) | clear_value x1) | assumption | exact Within.refl _ | exact ‹Avoids _ _›.mono (by decide) | apply State.bump_keeps | apply State.clear_keeps | apply State.girq_keeps | apply State.msix_keeps | apply State.raise_keeps | apply State.set_keeps | apply State.setBox_keeps | apply Within.ite

theorem State.remoteDone_keeps {s0 s : State} (h : Within parts s0 s) {m : Nat} {status : Nat} {token : Nat} {p : List Byte}
    (hm : Avoids parts 1073742856 := by exact ‹Avoids _ _›.mono (by decide)) :
    Within parts s0 (State.remoteDone s m status token p) := by
  unfold State.remoteDone
  with_reducible repeat' first | (extract_lets +onlyGivenNames x1; first | (refine Within.cut (m := parts) (s0 := s0) (v := x1) ?_ ?_; rotate_left; intro hx; clear_value x1; rotate_left; unfold x1; clear x1) | clear_value x1) | assumption | exact Within.refl _ | exact ‹Avoids _ _›.mono (by decide) | apply State.sendResp_keeps | apply State.setRemote_keeps

theorem execMbCommandDone_keeps {s : State} {m : Fin 1024}
    (hm : Avoids parts 1115686024 := by exact ‹Avoids _ _›.mono (by decide)) : EKeeps parts s (execMbCommandDone m s) := by
  have h : Within parts s s := .refl s
  unfold execMbCommandDone
  with_reducible repeat' first | (extract_lets +onlyGivenNames x1; first | (refine Within.cut (m := parts) (s0 := s) (v := x1) ?_ ?_; rotate_left; intro hx; clear_value x1; rotate_left; unfold x1; clear x1) | clear_value x1) | assumption | exact Within.refl _ | exact ‹Avoids _ _›.mono (by decide) | apply State.boxDone_keeps | apply State.remoteDone_keeps | apply State.setCmd_keeps | apply Within.ite | split | apply EKeeps.next | apply EKeeps.ite

theorem State.boxRing_keeps {s0 s : State} (h : Within parts s0 s) {m : Nat}
    (hm : Avoids parts 1115685000 := by exact ‹Avoids _ _›.mono (by decide)) :
    Within parts s0 (State.boxRing s m) := by
  unfold State.boxRing
  with_reducible repeat' first | (extract_lets +onlyGivenNames x1; first | (refine Within.cut (m := parts) (s0 := s0) (v := x1) ?_ ?_; rotate_left; intro hx; clear_value x1; rotate_left; unfold x1; clear x1) | clear_value x1) | assumption | exact Within.refl _ | exact ‹Avoids _ _›.mono (by decide) | apply State.boxDone_keeps | apply State.clear_keeps | apply State.girqBoth_keeps | apply State.raise_keeps | apply State.setCmd_keeps | apply Within.ite

theorem State.rekeyWrite_keeps {s0 s : State} (h : Within parts s0 s) {m : Nat} {key : Nat}
    (hm : Avoids parts 67108864 := by exact ‹Avoids _ _›.mono (by decide)) :
    Within parts s0 (State.rekeyWrite s m key) := by
  unfold State.rekeyWrite
  with_reducible repeat' first | intro _ | assumption | exact Within.refl _ | exact ‹Avoids _ _›.mono (by decide) | exact rfl | apply Within.ite | apply Within.upd_nvm

theorem State.rekey_keeps {s0 s : State} (h : Within parts s0 s) {m : Nat} {key : Nat}
    (hm : Avoids parts 101712384 := by exact ‹Avoids _ _›.mono (by decide)) :
    Within parts s0 (State.rekey s m key) := by
  unfold State.rekey
  with_reducible repeat' first | intro _ | (extract_lets +onlyGivenNames x1; first | (refine Within.cut (m := parts) (s0 := s0) (v := x1) ?_ ?_; rotate_left; intro hx; clear_value x1; rotate_left; unfold x1; clear x1) | clear_value x1) | assumption | exact Within.refl _ | exact ‹Avoids _ _›.mono (by decide) | apply State.rekeyWrite_keeps | exact rfl | apply Within.ite | split | apply Within.upd_pe | apply Within.upd_jobs | apply Within.upd_skep

theorem State.boxReset_keeps {s0 s : State} (h : Within parts s0 s) {m : Nat}
    (hm : Avoids parts 101712392 := by exact ‹Avoids _ _›.mono (by decide)) :
    Within parts s0 (State.boxReset s m) := by
  unfold State.boxReset
  with_reducible repeat' first | intro _ | (extract_lets +onlyGivenNames x1; first | (refine Within.cut (m := parts) (s0 := s0) (v := x1) ?_ ?_; rotate_left; intro hx; clear_value x1; rotate_left; unfold x1; clear x1) | clear_value x1) | assumption | exact Within.refl _ | exact ‹Avoids _ _›.mono (by decide) | apply State.clear_keeps | apply State.rekey_keeps | apply State.setCmd_keeps | apply Within.ite | split

end Sys2Proof.Machine
end

