-- ==== Sys2Proof/Laws/KeepsNvm.lean ====
section
/-!
SUPPORT. The operations of Machine/Nvm.lean keep what every step keeps.
-/
set_option Elab.async false
namespace Sys2Proof.Machine

set_option linter.tactic.unusedName false

variable {parts : Nat}

theorem State.windowRefused_keeps {s0 s : State} (h : Within parts s0 s) 
    (hm : Avoids parts 8 := by exact ‹Avoids _ _›.mono (by decide)) :
    Within parts s0 (State.windowRefused s) := by
  unfold State.windowRefused
  with_reducible repeat' first | assumption | exact Within.refl _ | exact ‹Avoids _ _›.mono (by decide) | apply State.bumpSat_keeps | apply State.raise_keeps

theorem State.nvWrite_keeps {s0 s : State} (h : Within parts s0 s) {a : Nat} {bs : List Byte} {bad : Option Nat}
    (hm : Avoids parts 44 := by exact ‹Avoids _ _›.mono (by decide)) :
    PKeeps parts s0 (State.nvWrite s a bs bad) := by
  unfold State.nvWrite
  with_reducible repeat' first | (extract_lets +onlyGivenNames x1; first | ((first | refine Within.cut (m := parts) (s0 := s0) (v := x1) ?_ ?_ | refine PKeeps.cut (m := parts) (s0 := s0) (p := x1) ?_ ?_); rotate_left; intro hx; clear_value x1; rotate_left; unfold x1; clear x1) | clear_value x1) | assumption | exact Within.refl _ | exact ‹Avoids _ _›.mono (by decide) | apply State.raise_keeps | apply State.setNvBytes_keeps | apply State.useFree_keeps | apply Within.ite | split | exact PKeeps.fst (by assumption) | exact PKeeps.mk1 (by assumption) | exact PKeeps.of_eq (by assumption) (by assumption) | apply PKeeps.ite | apply PKeeps.mk | apply PKeeps.fst

theorem State.nvWrite_keeps2 {s0 s : State} (h : Within parts s0 s) {a : Nat} {bs : List Byte} {bad : Option Nat} {t : State} {y0 : Bool} (e : State.nvWrite s a bs bad = (t, y0))
    (hm : Avoids parts 44 := by exact ‹Avoids _ _›.mono (by decide)) : Within parts s0 t := by
  have := State.nvWrite_keeps h (a := a) (bs := bs) (bad := bad)
  rw [e] at this; exact this

theorem State.nvWrite_keeps1 {s0 s : State} (h : Within parts s0 s) {a : Nat} {bs : List Byte} {bad : Option Nat}
    (hm : Avoids parts 44 := by exact ‹Avoids _ _›.mono (by decide)) : Within parts s0 (State.nvWrite s a bs bad).1 :=
  State.nvWrite_keeps h (a := a) (bs := bs) (bad := bad)

theorem State.calCheck_keeps {s0 s : State} (h : Within parts s0 s) 
    (hm : Avoids parts 8 := by exact ‹Avoids _ _›.mono (by decide)) :
    Within parts s0 (State.calCheck s) := by
  unfold State.calCheck
  with_reducible repeat' first | intro _ | (extract_lets +onlyGivenNames x1; first | (refine Within.cut (m := parts) (s0 := s0) (v := x1) ?_ ?_; rotate_left; intro hx; clear_value x1; rotate_left; unfold x1; clear x1) | clear_value x1) | assumption | exact Within.refl _ | exact ‹Avoids _ _›.mono (by decide) | apply State.raise_keeps | apply State.set_keeps

theorem State.applySubsystem_keeps {s0 s : State} (h : Within parts s0 s)
    (hm : Avoids parts 8 := by exact ‹Avoids _ _›.mono (by decide)) :
    Within parts s0 (State.applySubsystem s) := by
  unfold State.applySubsystem
  with_reducible repeat' first | intro _ | (extract_lets +onlyGivenNames x1; first | (refine Within.cut (m := parts) (s0 := s0) (v := x1) ?_ ?_; rotate_left; intro hx; clear_value x1; rotate_left; unfold x1; clear x1) | clear_value x1) | assumption | exact Within.refl _ | exact ‹Avoids _ _›.mono (by decide) | apply State.forEach_keeps | apply State.set_keeps | apply Within.ite

theorem State.applyIdent_keeps {s0 s : State} (h : Within parts s0 s)
    (hm : Avoids parts 301989896 := by exact ‹Avoids _ _›.mono (by decide)) :
    Within parts s0 (State.applyIdent s) := by
  unfold State.applyIdent
  with_reducible repeat' first | intro _ | (extract_lets +onlyGivenNames x1; first | (refine Within.cut (m := parts) (s0 := s0) (v := x1) ?_ ?_; rotate_left; intro hx; clear_value x1; rotate_left; unfold x1; clear x1) | clear_value x1) | assumption | exact Within.refl _ | exact ‹Avoids _ _›.mono (by decide) | apply State.applySubsystem_keeps | apply State.forEach_keeps | apply State.setFlag_keeps | apply State.set_keeps | exact rfl | apply Within.ite | apply Within.upd_skep_boot | apply Within.upd_skep | apply Within.upd_boot

theorem State.setThresholds_keeps {s0 s : State} (h : Within parts s0 s) {l : List Int}
    (hm : Avoids parts 8 := by exact ‹Avoids _ _›.mono (by decide)) :
    Within parts s0 (State.setThresholds s l) := by
  unfold State.setThresholds
  with_reducible repeat' first | intro _ | (extract_lets +onlyGivenNames x1; first | (refine Within.cut (m := parts) (s0 := s0) (v := x1) ?_ ?_; rotate_left; intro hx; clear_value x1; rotate_left; unfold x1; clear x1) | clear_value x1) | assumption | exact Within.refl _ | exact ‹Avoids _ _›.mono (by decide) | apply State.setInt_keeps

theorem State.applyThermal_keeps {s0 s : State} (h : Within parts s0 s) 
    (hm : Avoids parts 8 := by exact ‹Avoids _ _›.mono (by decide)) :
    Within parts s0 (State.applyThermal s) := by
  unfold State.applyThermal
  with_reducible repeat' first | assumption | exact Within.refl _ | exact ‹Avoids _ _›.mono (by decide) | apply State.setThresholds_keeps | apply Within.ite

theorem State.applyPower_keeps {s0 s : State} (h : Within parts s0 s) 
    (hm : Avoids parts 134217736 := by exact ‹Avoids _ _›.mono (by decide)) :
    Within parts s0 (State.applyPower s) := by
  unfold State.applyPower
  with_reducible repeat' first | intro _ | (extract_lets +onlyGivenNames x1; first | (refine Within.cut (m := parts) (s0 := s0) (v := x1) ?_ ?_; rotate_left; intro hx; clear_value x1; rotate_left; unfold x1; clear x1) | clear_value x1) | assumption | exact Within.refl _ | exact ‹Avoids _ _›.mono (by decide) | apply State.set_keeps | apply Within.ite | exact rfl | apply Within.upd_therm

theorem State.setWriting_keeps {s0 s : State} (h : Within parts s0 s) {w : Option GroupWrite}
    (hm : Avoids parts 67108872 := by exact ‹Avoids _ _›.mono (by decide)) :
    Within parts s0 (State.setWriting s w) := by
  unfold State.setWriting
  with_reducible repeat' first | assumption | exact Within.refl _ | exact ‹Avoids _ _›.mono (by decide) | apply State.setFlag_keeps | exact rfl | apply Within.upd_nvm

theorem State.groupData_keeps {s0 s : State} (h : Within parts s0 s) {w : GroupWrite} {data : List Byte} {bad : Option Nat}
    (hm : Avoids parts 67108908 := by exact ‹Avoids _ _›.mono (by decide)) :
    PKeeps parts s0 (State.groupData s w data bad) := by
  unfold State.groupData
  with_reducible repeat' first | assumption | exact Within.refl _ | exact ‹Avoids _ _›.mono (by decide) | (refine State.nvWrite_keeps2 ?_ ‹_›) | apply State.nvWrite_keeps1 | apply State.nvWrite_keeps | apply State.setWriting_keeps | split | exact PKeeps.fst (by assumption) | exact PKeeps.mk1 (by assumption) | exact PKeeps.of_eq (by assumption) (by assumption) | apply PKeeps.ite | apply PKeeps.mk | apply PKeeps.fst

theorem State.groupData_keeps2 {s0 s : State} (h : Within parts s0 s) {w : GroupWrite} {data : List Byte} {bad : Option Nat} {t : State} {y0 : Bool} (e : State.groupData s w data bad = (t, y0))
    (hm : Avoids parts 67108908 := by exact ‹Avoids _ _›.mono (by decide)) : Within parts s0 t := by
  have := State.groupData_keeps h (w := w) (data := data) (bad := bad)
  rw [e] at this; exact this

theorem State.groupData_keeps1 {s0 s : State} (h : Within parts s0 s) {w : GroupWrite} {data : List Byte} {bad : Option Nat}
    (hm : Avoids parts 67108908 := by exact ‹Avoids _ _›.mono (by decide)) : Within parts s0 (State.groupData s w data bad).1 :=
  State.groupData_keeps h (w := w) (data := data) (bad := bad)

theorem State.groupHeader_keeps {s0 s : State} (h : Within parts s0 s) {w : GroupWrite} {bad : Option Nat}
    (hm : Avoids parts 67108908 := by exact ‹Avoids _ _›.mono (by decide)) :
    PKeeps parts s0 (State.groupHeader s w bad) := by
  unfold State.groupHeader
  with_reducible repeat' first | (extract_lets +onlyGivenNames x1; first | ((first | refine Within.cut (m := parts) (s0 := s0) (v := x1) ?_ ?_ | refine PKeeps.cut (m := parts) (s0 := s0) (p := x1) ?_ ?_); rotate_left; intro hx; clear_value x1; rotate_left; unfold x1; clear x1) | clear_value x1) | assumption | exact Within.refl _ | exact ‹Avoids _ _›.mono (by decide) | apply State.calCheck_keeps | apply State.log_keeps | (refine State.nvWrite_keeps2 ?_ ‹_›) | apply State.nvWrite_keeps1 | apply State.nvWrite_keeps | apply State.setWriting_keeps | apply Within.ite | split | exact PKeeps.fst (by assumption) | exact PKeeps.mk1 (by assumption) | exact PKeeps.of_eq (by assumption) (by assumption) | apply PKeeps.ite | apply PKeeps.mk | apply PKeeps.fst

theorem State.groupHeader_keeps2 {s0 s : State} (h : Within parts s0 s) {w : GroupWrite} {bad : Option Nat} {t : State} {y0 : Bool} (e : State.groupHeader s w bad = (t, y0))
    (hm : Avoids parts 67108908 := by exact ‹Avoids _ _›.mono (by decide)) : Within parts s0 t := by
  have := State.groupHeader_keeps h (w := w) (bad := bad)
  rw [e] at this; exact this

theorem State.groupHeader_keeps1 {s0 s : State} (h : Within parts s0 s) {w : GroupWrite} {bad : Option Nat}
    (hm : Avoids parts 67108908 := by exact ‹Avoids _ _›.mono (by decide)) : Within parts s0 (State.groupHeader s w bad).1 :=
  State.groupHeader_keeps h (w := w) (bad := bad)

theorem State.ctrPut_keeps {s0 s : State} (h : Within parts s0 s) {k : Nat} {v : Nat} {bad : Option Nat}
    (hm : Avoids parts 44 := by exact ‹Avoids _ _›.mono (by decide)) :
    Within parts s0 (State.ctrPut s k v bad) := by
  unfold State.ctrPut
  with_reducible repeat' first | (extract_lets +onlyGivenNames x1; first | ((first | refine Within.cut (m := parts) (s0 := s0) (v := x1) ?_ ?_ | refine PKeeps.cut (m := parts) (s0 := s0) (p := x1) ?_ ?_); rotate_left; intro hx; clear_value x1; rotate_left; unfold x1; clear x1) | clear_value x1) | assumption | exact Within.refl _ | exact ‹Avoids _ _›.mono (by decide) | (refine State.nvWrite_keeps2 ?_ ‹_›) | apply State.nvWrite_keeps1 | apply State.nvWrite_keeps | apply Within.ite | split | exact PKeeps.fst (by assumption) | exact PKeeps.mk1 (by assumption) | exact PKeeps.of_eq (by assumption) (by assumption) | apply PKeeps.ite | apply PKeeps.mk | apply PKeeps.fst

theorem State.ctrWrite_keeps {s0 s : State} (h : Within parts s0 s) {k : Nat} {v : Nat} {bad : Option Nat}
    (hm : Avoids parts 67108908 := by exact ‹Avoids _ _›.mono (by decide)) :
    Within parts s0 (State.ctrWrite s k v bad) := by
  unfold State.ctrWrite
  with_reducible repeat' first | assumption | exact Within.refl _ | exact ‹Avoids _ _›.mono (by decide) | apply State.ctrPut_keeps | exact rfl | apply Within.ite | apply Within.upd_nvm

theorem State.ctrBump_keeps {s0 s : State} (h : Within parts s0 s) {k : Nat} {bad : Option Nat}
    (hm : Avoids parts 67108908 := by exact ‹Avoids _ _›.mono (by decide)) :
    Within parts s0 (State.ctrBump s k bad) := by
  unfold State.ctrBump
  with_reducible repeat' first | assumption | exact Within.refl _ | exact ‹Avoids _ _›.mono (by decide) | apply State.ctrWrite_keeps

theorem State.ctrFlush_keeps {s0 s : State} (h : Within parts s0 s) {bad : Option Nat}
    (hm : Avoids parts 67108908 := by exact ‹Avoids _ _›.mono (by decide)) :
    Within parts s0 (State.ctrFlush s bad) := by
  unfold State.ctrFlush
  with_reducible repeat' first | intro _ | assumption | exact Within.refl _ | exact ‹Avoids _ _›.mono (by decide) | apply State.ctrWrite_keeps | apply State.forList_keeps | split

theorem State.ctrShow_keeps {s0 s : State} (h : Within parts s0 s) 
    (hm : Avoids parts 8 := by exact ‹Avoids _ _›.mono (by decide)) :
    Within parts s0 (State.ctrShow s) := by
  unfold State.ctrShow
  with_reducible repeat' first | assumption | exact Within.refl _ | exact ‹Avoids _ _›.mono (by decide) | apply State.set_keeps

theorem State.logNextTo_keeps {s0 s : State} (h : Within parts s0 s) {n : Nat}
    (hm : Avoids parts 8 := by exact ‹Avoids _ _›.mono (by decide)) :
    Within parts s0 (State.logNextTo s n) := by
  unfold State.logNextTo
  with_reducible repeat' first | assumption | exact Within.refl _ | exact ‹Avoids _ _›.mono (by decide) | apply State.set_keeps

theorem State.logStart_keeps {s0 s : State} (h : Within parts s0 s) 
    (hm : Avoids parts 8 := by exact ‹Avoids _ _›.mono (by decide)) :
    Within parts s0 (State.logStart s) := by
  unfold State.logStart
  with_reducible repeat' first | assumption | exact Within.refl _ | exact ‹Avoids _ _›.mono (by decide) | apply State.logNextTo_keeps

theorem State.logWrite_keeps {s0 s : State} (h : Within parts s0 s) {r : LogRec} {bad : Option Nat}
    (hm : Avoids parts 67108908 := by exact ‹Avoids _ _›.mono (by decide)) :
    Within parts s0 (State.logWrite s r bad) := by
  unfold State.logWrite
  with_reducible repeat' first | (extract_lets +onlyGivenNames x1; first | ((first | refine Within.cut (m := parts) (s0 := s0) (v := x1) ?_ ?_ | refine PKeeps.cut (m := parts) (s0 := s0) (p := x1) ?_ ?_); rotate_left; intro hx; clear_value x1; rotate_left; unfold x1; clear x1) | (have g : Nvm := x1; clear g) | clear_value x1) | assumption | exact Within.refl _ | exact ‹Avoids _ _›.mono (by decide) | apply State.ctrWrite_keeps | apply State.logNextTo_keeps | (refine State.nvWrite_keeps2 ?_ ‹_›) | apply State.nvWrite_keeps1 | apply State.nvWrite_keeps | exact rfl | apply Within.ite | apply Within.upd_nvm | exact PKeeps.fst (by assumption) | exact PKeeps.mk1 (by assumption) | exact PKeeps.of_eq (by assumption) (by assumption) | apply PKeeps.ite | apply PKeeps.mk | apply PKeeps.fst

theorem State.logCounts_keeps {s0 s : State} (h : Within parts s0 s) {cause : Nat}
    (hm : Avoids parts 67108864 := by exact ‹Avoids _ _›.mono (by decide)) :
    Within parts s0 (State.logCounts s cause) := by
  unfold State.logCounts
  with_reducible repeat' first | assumption | exact Within.refl _ | exact ‹Avoids _ _›.mono (by decide) | exact rfl | apply Within.upd_nvm

theorem State.lostWrite_keeps {s0 s : State} (h : Within parts s0 s) {bad : Option Nat}
    (hm : Avoids parts 67108908 := by exact ‹Avoids _ _›.mono (by decide)) :
    Within parts s0 (State.lostWrite s bad) := by
  unfold State.lostWrite
  with_reducible repeat' first | assumption | exact Within.refl _ | exact ‹Avoids _ _›.mono (by decide) | apply State.logCounts_keeps | apply State.logWrite_keeps | exact rfl | apply Within.ite | apply Within.upd_nvm

theorem State.stopWrite_keeps {s0 s : State} (h : Within parts s0 s) {time flags : Nat} {pos : List Nat} {cnt : Nat} {bad : Option Nat}
    (hm : Avoids parts 67108908 := by exact ‹Avoids _ _›.mono (by decide)) :
    Within parts s0 (State.stopWrite s time flags pos cnt bad) := by
  unfold State.stopWrite
  extract_lets a b
  have ha : Within parts s0 a := State.logWrite_keeps (State.logCounts_keeps (State.logCounts_keeps (State.lostWrite_keeps h)))
  clear_value a
  have hb : Within parts s0 b := State.logWrite_keeps ha
  clear_value b
  refine State.clear_keeps ?_
  refine State.ctrBump_keeps ?_
  exact State.logQ_keeps hb id

theorem State.queueWrite_keeps {s0 s : State} (h : Within parts s0 s) {r : LogRec} {t : List LogRec} {bad : Option Nat} (e : s.nvm.logQ = r :: t)
    (hm : Avoids parts 67108908 := by exact ‹Avoids _ _›.mono (by decide)) :
    Within parts s0 (State.queueWrite s r t bad) := by
  unfold State.queueWrite
  exact State.logWrite_keeps (State.lostWrite_keeps (State.logLevel_keeps (State.logTail_keeps h e rfl)))

theorem execLogRecordWrite_keeps {s : State} {bad : Option Nat}
    (hm : Avoids parts 67108908 := by exact ‹Avoids _ _›.mono (by decide)) : EKeeps parts s (execLogRecordWrite bad s) := by
  have h : Within parts s s := .refl s
  unfold execLogRecordWrite
  refine EKeeps.next (Within.ite h ?_)
  have hf : Within parts s (s.ctrFlush bad) := State.ctrFlush_keeps h
  dsimp only
  split
  · exact Within.ite (State.stopWrite_keeps hf) hf
  · split
    · exact hf
    · next e => exact Within.ite (State.queueWrite_keeps hf e) hf

theorem State.onHour_keeps {s0 s : State} (h : Within parts s0 s) {bad : Option Nat}
    (hm : Avoids parts 67108908 := by exact ‹Avoids _ _›.mono (by decide)) :
    Within parts s0 (State.onHour s bad) := by
  unfold State.onHour
  with_reducible repeat' first | assumption | exact Within.refl _ | exact ‹Avoids _ _›.mono (by decide) | apply State.ctrBump_keeps | apply State.ctrShow_keeps

theorem execOnHoursTick_keeps {s : State} {bad : Option Nat}
    (hm : Avoids parts 100663340 := by exact ‹Avoids _ _›.mono (by decide)) : EKeeps parts s (execOnHoursTick bad s) := by
  have h : Within parts s s := .refl s
  unfold execOnHoursTick
  with_reducible repeat' first | intro _ | assumption | exact Within.refl _ | exact ‹Avoids _ _›.mono (by decide) | apply State.onHour_keeps | apply State.skepDo_keeps | apply EKeeps.next | apply EKeeps.ite

theorem execCalRead_keeps {s : State} {m : Fin 1024}
    (hm : Avoids parts 1115684873 := by exact ‹Avoids _ _›.mono (by decide)) : EKeeps parts s (execCalRead m s) := by
  have h : Within parts s s := .refl s
  unfold execCalRead
  with_reducible repeat' first | intro _ | (extract_lets +onlyGivenNames x1; first | (refine Within.cut (m := parts) (s0 := s) (v := x1) ?_ ?_; rotate_left; intro hx; clear_value x1; rotate_left; unfold x1; clear x1) | clear_value x1) | assumption | exact Within.refl _ | exact ‹Avoids _ _›.mono (by decide) | apply State.setCmd_keeps | apply State.skepAnswer_keeps | apply State.skepData_keeps | apply State.skepRun_keeps | apply Within.ite | apply EKeeps.next | apply EKeeps.ite

theorem State.calStore_keeps {s0 s : State} (h : Within parts s0 s) {m : Nat} {a : Nat} {bytes : List Byte} {bad : Option Nat}
    (hm : Avoids parts 100663340 := by exact ‹Avoids _ _›.mono (by decide)) :
    Within parts s0 (State.calStore s m a bytes bad) := by
  unfold State.calStore
  with_reducible repeat' first | assumption | exact Within.refl _ | exact ‹Avoids _ _›.mono (by decide) | (refine State.groupData_keeps2 ?_ ‹_›) | apply State.groupData_keeps1 | apply State.groupData_keeps | (refine State.nvWrite_keeps2 ?_ ‹_›) | apply State.nvWrite_keeps1 | apply State.nvWrite_keeps | apply State.skepAnswer_keeps | apply State.windowRefused_keeps | apply Within.ite | split | exact PKeeps.fst (by assumption) | exact PKeeps.mk1 (by assumption) | exact PKeeps.of_eq (by assumption) (by assumption) | apply PKeeps.ite | apply PKeeps.mk | apply PKeeps.fst

theorem State.calTake_keeps {s0 s : State} (h : Within parts s0 s) {m : Nat} {bad : Option Nat}
    (hm : Avoids parts 1182793773 := by exact ‹Avoids _ _›.mono (by decide)) :
    Within parts s0 (State.calTake s m bad) := by
  unfold State.calTake
  with_reducible repeat' first | intro _ | (extract_lets +onlyGivenNames x1; first | (refine Within.cut (m := parts) (s0 := s0) (v := x1) ?_ ?_; rotate_left; intro hx; clear_value x1; rotate_left; unfold x1; clear x1) | clear_value x1) | assumption | exact Within.refl _ | exact ‹Avoids _ _›.mono (by decide) | apply State.calStore_keeps | apply State.setCmd_keeps | apply State.skepAnswer_keeps | apply State.skepFetch_keeps | apply State.skepRun_keeps | apply State.windowRefused_keeps | apply Within.ite

theorem execCalWrite_keeps {s : State} {m : Fin 1024} {bad : Option Nat}
    (hm : Avoids parts 1182793773 := by exact ‹Avoids _ _›.mono (by decide)) : EKeeps parts s (execCalWrite m bad s) := by
  have h : Within parts s s := .refl s
  unfold execCalWrite
  with_reducible repeat' first | (extract_lets +onlyGivenNames x1; first | ((first | refine Within.cut (m := parts) (s0 := s) (v := x1) ?_ ?_ | refine PKeeps.cut (m := parts) (s0 := s) (p := x1) ?_ ?_); rotate_left; intro hx; clear_value x1; rotate_left; unfold x1; clear x1) | clear_value x1) | assumption | exact Within.refl _ | exact ‹Avoids _ _›.mono (by decide) | apply State.calStore_keeps | apply State.calTake_keeps | (refine State.groupHeader_keeps2 ?_ ‹_›) | apply State.groupHeader_keeps1 | apply State.groupHeader_keeps | apply State.skepAnswer_keeps | apply Within.ite | split | exact PKeeps.fst (by assumption) | exact PKeeps.mk1 (by assumption) | exact PKeeps.of_eq (by assumption) (by assumption) | apply PKeeps.ite | apply PKeeps.mk | apply PKeeps.fst | apply EKeeps.next | apply EKeeps.ite

theorem execLogRead_keeps {s : State} {m : Fin 1024}
    (hm : Avoids parts 1115684873 := by exact ‹Avoids _ _›.mono (by decide)) : EKeeps parts s (execLogRead m s) := by
  have h : Within parts s s := .refl s
  unfold execLogRead
  with_reducible repeat' first | intro _ | (extract_lets +onlyGivenNames x1; first | (refine Within.cut (m := parts) (s0 := s) (v := x1) ?_ ?_; rotate_left; intro hx; clear_value x1; rotate_left; unfold x1; clear x1) | clear_value x1) | assumption | exact Within.refl _ | exact ‹Avoids _ _›.mono (by decide) | apply State.skepAnswer_keeps | apply State.skepData_keeps | apply State.skepRun_keeps | apply Within.ite | apply EKeeps.next | apply EKeeps.ite

end Sys2Proof.Machine
end

