-- ==== Sys2Proof/Laws/KeepsRecipe.lean ====
section
/-!
SUPPORT. The operations of Machine/Recipe.lean keep what every step keeps.
-/
set_option Elab.async false
namespace Sys2Proof.Machine

set_option linter.tactic.unusedName false

variable {parts : Nat}

theorem State.gateChecks_keeps {s0 s : State} (h : Within parts s0 s) {g : Img}
    (hm : Avoids parts 8 := by exact ‹Avoids _ _›.mono (by decide)) :
    PKeeps parts s0 (State.gateChecks s g) := by
  unfold State.gateChecks
  with_reducible repeat' first | intro _ | assumption | exact Within.refl _ | exact ‹Avoids _ _›.mono (by decide) | apply State.setInt_keeps | split | apply PKeeps.foldl | exact PKeeps.fst (by assumption) | exact PKeeps.mk1 (by assumption) | exact PKeeps.of_eq (by assumption) (by assumption) | apply PKeeps.ite | apply PKeeps.mk | apply PKeeps.fst | apply State.foldl_keeps

theorem State.gateChecks_keeps2 {s0 s : State} (h : Within parts s0 s) {g : Img} {t : State} {y0 : Bool} (e : State.gateChecks s g = (t, y0))
    (hm : Avoids parts 8 := by exact ‹Avoids _ _›.mono (by decide)) : Within parts s0 t := by
  have := State.gateChecks_keeps h (g := g)
  rw [e] at this; exact this

theorem State.gateChecks_keeps1 {s0 s : State} (h : Within parts s0 s) {g : Img}
    (hm : Avoids parts 8 := by exact ‹Avoids _ _›.mono (by decide)) : Within parts s0 (State.gateChecks s g).1 :=
  State.gateChecks_keeps h (g := g)

end Sys2Proof.Machine
end

