-- ==== Sys2Proof/Laws/KeepsJobs.lean ====
section
/-!
SUPPORT. The operations of Machine/Jobs.lean keep what every step keeps.
-/
set_option Elab.async false
namespace Sys2Proof.Machine

set_option linter.tactic.unusedName false

variable {parts : Nat}

theorem State.setJview_keeps {s0 s : State} (h : Within parts s0 s) {v : Nat} {x : JView}
    (hm : Avoids parts 1048576 := by exact ‹Avoids _ _›.mono (by decide)) :
    Within parts s0 (State.setJview s v x) := by
  unfold State.setJview
  with_reducible repeat' first | assumption | exact Within.refl _ | exact ‹Avoids _ _›.mono (by decide) | exact rfl | apply Within.upd_jobs

theorem State.setRep_keeps {s0 s : State} (h : Within parts s0 s) {k : Nat} {x : Rep}
    (hm : Avoids parts 2097152 := by exact ‹Avoids _ _›.mono (by decide)) :
    Within parts s0 (State.setRep s k x) := by
  unfold State.setRep
  with_reducible repeat' first | assumption | exact Within.refl _ | exact ‹Avoids _ _›.mono (by decide) | exact rfl | apply Within.upd_compare

theorem State.publishJob_keeps {s0 s : State} (h : Within parts s0 s) {arg : Nat} {v : Nat} {kind : Nat}
    (hm : Avoids parts 67109004 := by exact ‹Avoids _ _›.mono (by decide)) :
    Within parts s0 (State.publishJob s arg v kind) := by
  unfold State.publishJob
  with_reducible repeat' first | assumption | exact Within.refl _ | exact ‹Avoids _ _›.mono (by decide) | apply State.publish_keeps

theorem State.slotUpdate_keeps {s0 s : State} (h : Within parts s0 s) {j : Nat} {v : Nat}
    (hm : Avoids parts 67109004 := by exact ‹Avoids _ _›.mono (by decide)) :
    Within parts s0 (State.slotUpdate s j v) := by
  unfold State.slotUpdate
  with_reducible repeat' first | (extract_lets +onlyGivenNames x1; first | (refine Within.cut (m := parts) (s0 := s0) (v := x1) ?_ ?_; rotate_left; intro hx; clear_value x1; rotate_left; unfold x1; clear x1) | clear_value x1) | assumption | exact Within.refl _ | exact ‹Avoids _ _›.mono (by decide) | apply State.publishJob_keeps | apply State.set_keeps | apply Within.ite

theorem State.slotView_keeps {s0 s : State} (h : Within parts s0 s) {f : Nat → Fld} {j : Nat} {v : Nat} {b : Bool}
    (hm : Avoids parts 8 := by exact ‹Avoids _ _›.mono (by decide)) :
    Within parts s0 (State.slotView s f j v b) := by
  unfold State.slotView
  with_reducible repeat' first | (extract_lets +onlyGivenNames x1; first | (refine Within.cut (m := parts) (s0 := s0) (v := x1) ?_ ?_; rotate_left; intro hx; clear_value x1; rotate_left; unfold x1; clear x1) | clear_value x1) | assumption | exact Within.refl _ | exact ‹Avoids _ _›.mono (by decide) | apply State.set_keeps | apply Within.ite

theorem State.flightOut_keeps {s0 s : State} (h : Within parts s0 s) {j : Nat} {v : Nat}
    (hm : Avoids parts 67109004 := by exact ‹Avoids _ _›.mono (by decide)) :
    Within parts s0 (State.flightOut s j v) := by
  unfold State.flightOut
  with_reducible repeat' first | assumption | exact Within.refl _ | exact ‹Avoids _ _›.mono (by decide) | apply State.set_keeps | apply State.slotUpdate_keeps

theorem State.zoneClear_keeps {s0 s : State} (h : Within parts s0 s) {j : Nat}
    (hm : Avoids parts 131080 := by exact ‹Avoids _ _›.mono (by decide)) :
    Within parts s0 (State.zoneClear s j) := by
  unfold State.zoneClear
  with_reducible repeat' first | intro _ | (extract_lets +onlyGivenNames x1; first | (refine Within.cut (m := parts) (s0 := s0) (v := x1) ?_ ?_; rotate_left; intro hx; clear_value x1; rotate_left; unfold x1; clear x1) | clear_value x1) | assumption | exact Within.refl _ | exact ‹Avoids _ _›.mono (by decide) | apply State.forEach_keeps | apply State.setReg_keeps | exact rfl | apply Within.upd_cond

theorem State.zoneFill_keeps {s0 s : State} (h : Within parts s0 s) {j : Nat} {g : Img}
    (hm : Avoids parts 8 := by exact ‹Avoids _ _›.mono (by decide)) :
    Within parts s0 (State.zoneFill s j g) := by
  unfold State.zoneFill
  with_reducible repeat' first | intro _ | (extract_lets +onlyGivenNames x1; first | (refine Within.cut (m := parts) (s0 := s0) (v := x1) ?_ ?_; rotate_left; intro hx; clear_value x1; rotate_left; unfold x1; clear x1) | clear_value x1) | assumption | exact Within.refl _ | exact ‹Avoids _ _›.mono (by decide) | apply State.forEach_keeps | apply State.forList_keeps | apply State.setReg_keeps | apply Within.ite

theorem State.zoneRanges_keeps {s0 s : State} (h : Within parts s0 s) {j : Nat}
    (hm : Avoids parts 131072 := by exact ‹Avoids _ _›.mono (by decide)) :
    Within parts s0 (State.zoneRanges s j) := by
  unfold State.zoneRanges
  with_reducible repeat' first | intro _ | (extract_lets +onlyGivenNames x1; first | (refine Within.cut (m := parts) (s0 := s0) (v := x1) ?_ ?_; rotate_left; intro hx; clear_value x1; rotate_left; unfold x1; clear x1) | clear_value x1) | assumption | exact Within.refl _ | exact ‹Avoids _ _›.mono (by decide) | apply State.foldl_keeps | apply State.forEach_keeps | exact rfl | apply Within.ite | split | apply Within.upd_cond

theorem State.slotFree_keeps {s0 s : State} (h : Within parts s0 s) {j : Nat}
    (hm : Avoids parts 2293768 := by exact ‹Avoids _ _›.mono (by decide)) :
    Within parts s0 (State.slotFree s j) := by
  unfold State.slotFree
  with_reducible repeat' first | intro _ | (extract_lets +onlyGivenNames x1; first | (refine Within.cut (m := parts) (s0 := s0) (v := x1) ?_ ?_; rotate_left; intro hx; clear_value x1; rotate_left; unfold x1; clear x1) | clear_value x1) | assumption | exact Within.refl _ | exact ‹Avoids _ _›.mono (by decide) | apply State.forList_keeps | apply State.giveBack_keeps | apply State.setReg_keeps | apply State.set_keeps | apply State.zoneClear_keeps | exact rfl | apply Within.upd_creel_compare | apply Within.upd_creel | apply Within.upd_compare

theorem State.loadFail_keeps {s0 s : State} (h : Within parts s0 s) {j : Nat} {m : Nat} {status : Nat} {bad : Nat}
    (hm : Avoids parts 1186136268 := by exact ‹Avoids _ _›.mono (by decide)) :
    Within parts s0 (State.loadFail s j m status bad) := by
  unfold State.loadFail
  with_reducible repeat' first | (extract_lets +onlyGivenNames x1; first | (refine Within.cut (m := parts) (s0 := s0) (v := x1) ?_ ?_; rotate_left; intro hx; clear_value x1; rotate_left; unfold x1; clear x1) | clear_value x1) | assumption | exact Within.refl _ | exact ‹Avoids _ _›.mono (by decide) | apply State.set_keeps | apply State.skepAnswer_keeps | apply State.slotFree_keeps | apply State.unitTo_keeps | exact rfl | apply Within.upd_jobs

theorem State.loadNext_keeps {s0 s : State} (h : Within parts s0 s) {j : Nat}
    (hm : Avoids parts 1116733449 := by exact ‹Avoids _ _›.mono (by decide)) :
    Within parts s0 (State.loadNext s j) := by
  unfold State.loadNext
  with_reducible repeat' first | (extract_lets +onlyGivenNames x1; first | (refine Within.cut (m := parts) (s0 := s0) (v := x1) ?_ ?_; rotate_left; intro hx; clear_value x1; rotate_left; unfold x1; clear x1) | clear_value x1) | assumption | exact Within.refl _ | exact ‹Avoids _ _›.mono (by decide) | apply State.skepRead_keeps | exact rfl | apply Within.ite | split | apply Within.upd_jobs

theorem State.loadIn_keeps {s0 s : State} (h : Within parts s0 s) {j : Nat} {id : Nat} {r : Option (List Byte)}
    (hm : Avoids parts 1183907997 := by exact ‹Avoids _ _›.mono (by decide)) :
    Within parts s0 (State.loadIn s j id r) := by
  unfold State.loadIn
  with_reducible repeat' first | (extract_lets +onlyGivenNames x1; first | (refine Within.cut (m := parts) (s0 := s0) (v := x1) ?_ ?_; rotate_left; intro hx; clear_value x1; rotate_left; unfold x1; clear x1) | clear_value x1) | assumption | exact Within.refl _ | exact ‹Avoids _ _›.mono (by decide) | apply State.loadNext_keeps | apply State.runWrite_keeps | exact rfl | apply Within.ite | split | apply Within.upd_jobs

theorem execJobLoad_keeps {s : State} {m : Fin 1024}
    (hm : Avoids parts 1186136269 := by exact ‹Avoids _ _›.mono (by decide)) : EKeeps parts s (execJobLoad m s) := by
  have h : Within parts s s := .refl s
  unfold execJobLoad
  with_reducible repeat' first | intro _ | (extract_lets +onlyGivenNames x1; first | (refine Within.cut (m := parts) (s0 := s) (v := x1) ?_ ?_; rotate_left; intro hx; clear_value x1; rotate_left; unfold x1; clear x1) | clear_value x1) | assumption | exact Within.refl _ | exact ‹Avoids _ _›.mono (by decide) | apply State.loadFail_keeps | apply State.loadNext_keeps | apply State.set_keeps | apply State.skepAnswer_keeps | apply State.skepRun_keeps | apply State.slotFree_keeps | apply State.unitStopNow_keeps | apply State.unitTo_keeps | (refine State.alloc_keeps2 ?_ ‹_›) | exact rfl | apply Within.ite | split | apply Within.upd_creel_jobs | apply Within.upd_creel | apply Within.upd_jobs | apply EKeeps.next | apply EKeeps.ite

theorem State.setBank_keeps {s0 s : State} (h : Within parts s0 s) {j : Nat} {v : Nat} {i : Nat} {b : Bank}
    (hm : Avoids parts 2097152 := by exact ‹Avoids _ _›.mono (by decide)) :
    Within parts s0 (State.setBank s j v i b) := by
  unfold State.setBank
  with_reducible repeat' first | assumption | exact Within.refl _ | exact ‹Avoids _ _›.mono (by decide) | exact rfl | apply Within.upd_compare

theorem State.bankLoad_keeps {s0 s : State} (h : Within parts s0 s) {j : Nat} {g : Img}
    (hm : Avoids parts 2097160 := by exact ‹Avoids _ _›.mono (by decide)) :
    Within parts s0 (State.bankLoad s j g) := by
  unfold State.bankLoad
  with_reducible repeat' first | intro _ | (extract_lets +onlyGivenNames x1; first | (refine Within.cut (m := parts) (s0 := s0) (v := x1) ?_ ?_; rotate_left; intro hx; clear_value x1; rotate_left; unfold x1; clear x1) | clear_value x1) | assumption | exact Within.refl _ | exact ‹Avoids _ _›.mono (by decide) | apply State.bump_keeps | apply State.forList_keeps | apply State.setBank_keeps | apply Within.ite

theorem State.slotLoaded_keeps {s0 s : State} (h : Within parts s0 s) {j : Nat} {who : Nat} {g : Img}
    (hm : Avoids parts 1186070732 := by exact ‹Avoids _ _›.mono (by decide)) :
    Within parts s0 (State.slotLoaded s j who g) := by
  unfold State.slotLoaded
  with_reducible repeat' first | intro _ | (extract_lets +onlyGivenNames x1; first | (refine Within.cut (m := parts) (s0 := s0) (v := x1) ?_ ?_; rotate_left; intro hx; clear_value x1; rotate_left; unfold x1; clear x1) | clear_value x1) | assumption | exact Within.refl _ | exact ‹Avoids _ _›.mono (by decide) | apply State.bankLoad_keeps | apply State.forList_keeps | apply State.set_keeps | apply State.skepAnswer_keeps | apply State.unitTo_keeps | apply State.zoneClear_keeps | apply State.zoneFill_keeps | exact rfl | split | apply Within.upd_jobs

theorem execJobLoadDone_keeps {s : State} {j : Fin 64}
    (hm : Avoids parts 1186136268 := by exact ‹Avoids _ _›.mono (by decide)) : EKeeps parts s (execJobLoadDone j s) := by
  have h : Within parts s s := .refl s
  unfold execJobLoadDone
  with_reducible repeat' first | (extract_lets +onlyGivenNames x1; first | ((first | refine Within.cut (m := parts) (s0 := s) (v := x1) ?_ ?_ | refine PKeeps.cut (m := parts) (s0 := s) (p := x1) ?_ ?_); rotate_left; intro hx; clear_value x1; rotate_left; unfold x1; clear x1) | clear_value x1) | assumption | exact Within.refl _ | exact ‹Avoids _ _›.mono (by decide) | (refine State.gateChecks_keeps2 ?_ ‹_›) | apply State.gateChecks_keeps1 | apply State.gateChecks_keeps | apply State.loadFail_keeps | apply State.slotLoaded_keeps | apply Within.ite | split | exact PKeeps.fst (by assumption) | exact PKeeps.mk1 (by assumption) | exact PKeeps.of_eq (by assumption) (by assumption) | apply PKeeps.ite | apply PKeeps.mk | apply PKeeps.fst | apply EKeeps.next | apply EKeeps.ite

theorem State.loadsLost_keeps {s0 s : State} (h : Within parts s0 s) {f : Nat}
    (hm : Avoids parts 1048576 := by exact ‹Avoids _ _›.mono (by decide)) :
    Within parts s0 (State.loadsLost s f) := by
  unfold State.loadsLost
  with_reducible repeat' first | intro _ | assumption | exact Within.refl _ | exact ‹Avoids _ _›.mono (by decide) | exact rfl | apply Within.ite | apply Within.upd_jobs

theorem State.loadAbort_keeps {s0 s : State} (h : Within parts s0 s) 
    (hm : Avoids parts 1186136268 := by exact ‹Avoids _ _›.mono (by decide)) :
    Within parts s0 (State.loadAbort s) := by
  unfold State.loadAbort
  with_reducible repeat' first | intro _ | assumption | exact Within.refl _ | exact ‹Avoids _ _›.mono (by decide) | apply State.forEach_keeps | apply State.loadFail_keeps | split

theorem State.publishCmp_keeps {s0 s : State} (h : Within parts s0 s) {v : Nat} {rest : Nat} {kind : Nat}
    (hm : Avoids parts 1182793868 := by exact ‹Avoids _ _›.mono (by decide)) :
    Within parts s0 (State.publishCmp s v rest kind) := by
  unfold State.publishCmp
  with_reducible repeat' first | assumption | exact Within.refl _ | exact ‹Avoids _ _›.mono (by decide) | apply State.skepPublish_keeps

theorem State.tellNow_keeps {s0 s : State} (h : Within parts s0 s) {v : Nat} {kind : Nat}
    (hm : Avoids parts 1184891020 := by exact ‹Avoids _ _›.mono (by decide)) :
    Within parts s0 (State.tellNow s v kind) := by
  unfold State.tellNow
  with_reducible repeat' first | (extract_lets +onlyGivenNames x1; first | (refine Within.cut (m := parts) (s0 := s0) (v := x1) ?_ ?_; rotate_left; intro hx; clear_value x1; rotate_left; unfold x1; clear x1) | clear_value x1) | assumption | exact Within.refl _ | exact ‹Avoids _ _›.mono (by decide) | apply State.publishCmp_keeps | exact rfl | apply Within.ite | apply Within.upd_compare

theorem State.tellCmp_keeps {s0 s : State} (h : Within parts s0 s) {v : Nat} {kind : Nat}
    (hm : Avoids parts 1184891020 := by exact ‹Avoids _ _›.mono (by decide)) :
    Within parts s0 (State.tellCmp s v kind) := by
  unfold State.tellCmp
  with_reducible repeat' first | intro _ | assumption | exact Within.refl _ | exact ‹Avoids _ _›.mono (by decide) | apply State.skepDo_keeps | apply State.tellNow_keeps

theorem State.learnFree_keeps {s0 s : State} (h : Within parts s0 s) {v : Nat}
    (hm : Avoids parts 2162696 := by exact ‹Avoids _ _›.mono (by decide)) :
    Within parts s0 (State.learnFree s v) := by
  unfold State.learnFree
  with_reducible repeat' first | (extract_lets +onlyGivenNames x1; first | (refine Within.cut (m := parts) (s0 := s0) (v := x1) ?_ ?_; rotate_left; intro hx; clear_value x1; rotate_left; unfold x1; clear x1) | clear_value x1) | assumption | exact Within.refl _ | exact ‹Avoids _ _›.mono (by decide) | apply State.giveBack_keeps | apply State.showWork_keeps | exact rfl | apply Within.upd_creel_compare | apply Within.upd_creel | apply Within.upd_compare

theorem State.learnStop_keeps {s0 s : State} (h : Within parts s0 s) {v : Nat} {cause : Nat}
    (hm : Avoids parts 1184956556 := by exact ‹Avoids _ _›.mono (by decide)) :
    Within parts s0 (State.learnStop s v cause) := by
  unfold State.learnStop
  with_reducible repeat' first | (extract_lets +onlyGivenNames x1; first | (refine Within.cut (m := parts) (s0 := s0) (v := x1) ?_ ?_; rotate_left; intro hx; clear_value x1; rotate_left; unfold x1; clear x1) | clear_value x1) | assumption | exact Within.refl _ | exact ‹Avoids _ _›.mono (by decide) | apply State.learnFree_keeps | apply State.publishCmp_keeps | apply State.set_keeps | apply State.skepAnswer_keeps | apply Within.ite | split

theorem State.showPend_keeps {s0 s : State} (h : Within parts s0 s) {v : Nat}
    (hm : Avoids parts 67109004 := by exact ‹Avoids _ _›.mono (by decide)) :
    Within parts s0 (State.showPend s v) := by
  unfold State.showPend
  with_reducible repeat' first | (extract_lets +onlyGivenNames x1; first | (refine Within.cut (m := parts) (s0 := s0) (v := x1) ?_ ?_; rotate_left; intro hx; clear_value x1; rotate_left; unfold x1; clear x1) | clear_value x1) | assumption | exact Within.refl _ | exact ‹Avoids _ _›.mono (by decide) | apply State.clear_keeps | apply State.raise_keeps | apply State.set_keeps | apply State.set2_keeps | apply State.slotUpdate_keeps | apply State.slotView_keeps | split

theorem State.armStart_keeps {s0 s : State} (h : Within parts s0 s) {m : Nat} {j : Nat} {views : List (Nat × Nat)}
    (hm : Avoids parts 34734592 := by exact ‹Avoids _ _›.mono (by decide)) :
    Within parts s0 (State.armStart s m j views) := by
  unfold State.armStart
  with_reducible repeat' first | intro _ | (extract_lets +onlyGivenNames x1; first | (refine Within.cut (m := parts) (s0 := s0) (v := x1) ?_ ?_; rotate_left; intro hx; clear_value x1; rotate_left; unfold x1; clear x1) | clear_value x1) | assumption | exact Within.refl _ | exact ‹Avoids _ _›.mono (by decide) | apply State.forList_keeps | apply State.peQueue_keeps | apply State.skepAnswer_keeps | apply State.zoneRanges_keeps | apply Within.ite | exact rfl | apply Within.upd_jobs

theorem execJobArm_keeps {s : State} {m : Fin 1024}
    (hm : Avoids parts 34734592 := by exact ‹Avoids _ _›.mono (by decide)) : EKeeps parts s (execJobArm m s) := by
  have h : Within parts s s := .refl s
  unfold execJobArm
  with_reducible repeat' first | intro _ | (extract_lets +onlyGivenNames x1; first | (refine Within.cut (m := parts) (s0 := s) (v := x1) ?_ ?_; rotate_left; intro hx; clear_value x1; rotate_left; unfold x1; clear x1) | clear_value x1) | assumption | exact Within.refl _ | exact ‹Avoids _ _›.mono (by decide) | apply State.armStart_keeps | apply State.skepAnswer_keeps | apply State.skepRun_keeps | split | apply EKeeps.next | apply EKeeps.ite

theorem execJobSwitch_keeps {s : State} {m : Fin 1024}
    (hm : Avoids parts 34734592 := by exact ‹Avoids _ _›.mono (by decide)) : EKeeps parts s (execJobSwitch m s) := by
  have h : Within parts s s := .refl s
  unfold execJobSwitch
  with_reducible repeat' first | intro _ | (extract_lets +onlyGivenNames x1; first | (refine Within.cut (m := parts) (s0 := s) (v := x1) ?_ ?_; rotate_left; intro hx; clear_value x1; rotate_left; unfold x1; clear x1) | clear_value x1) | assumption | exact Within.refl _ | exact ‹Avoids _ _›.mono (by decide) | apply State.armStart_keeps | apply State.skepAnswer_keeps | apply State.skepRun_keeps | split | apply EKeeps.next | apply EKeeps.ite

theorem execJobArmCancel_keeps {s : State} {m : Fin 1024}
    (hm : Avoids parts 34603520 := by exact ‹Avoids _ _›.mono (by decide)) : EKeeps parts s (execJobArmCancel m s) := by
  have h : Within parts s s := .refl s
  unfold execJobArmCancel
  with_reducible repeat' first | intro _ | (extract_lets +onlyGivenNames x1; first | (refine Within.cut (m := parts) (s0 := s) (v := x1) ?_ ?_; rotate_left; intro hx; clear_value x1; rotate_left; unfold x1; clear x1) | clear_value x1) | assumption | exact Within.refl _ | exact ‹Avoids _ _›.mono (by decide) | apply State.forList_keeps | apply State.peQueue_keeps | apply State.skepAnswer_keeps | apply State.skepRun_keeps | apply Within.ite | exact rfl | apply Within.upd_jobs | apply EKeeps.next | apply EKeeps.ite

end Sys2Proof.Machine
end

