-- ==== Sys2Proof/Laws/KeepsGeometry.lean ====
section
/-!
SUPPORT. The operations of Machine/Geometry.lean keep what every step keeps.
-/
set_option Elab.async false
namespace Sys2Proof.Machine

set_option linter.tactic.unusedName false

variable {parts : Nat}

theorem State.geomState_keeps {s0 s : State} (h : Within parts s0 s) {v : Nat} {eps : Nat} {f : Nat → Nat × Nat}
    (hm : Avoids parts 8 := by exact ‹Avoids _ _›.mono (by decide)) :
    Within parts s0 (State.geomState s v eps f) := by
  unfold State.geomState
  with_reducible repeat' first | intro _ | (extract_lets +onlyGivenNames x1; first | (refine Within.cut (m := parts) (s0 := s0) (v := x1) ?_ ?_; rotate_left; intro hx; clear_value x1; rotate_left; unfold x1; clear x1) | clear_value x1) | assumption | exact Within.refl _ | exact ‹Avoids _ _›.mono (by decide) | apply State.bump_keeps | apply State.forEach_keeps | apply State.set_keeps

theorem State.geomLoad_keeps {s0 s : State} (h : Within parts s0 s) {v : Nat}
    (hm : Avoids parts 8 := by exact ‹Avoids _ _›.mono (by decide)) :
    Within parts s0 (State.geomLoad s v) := by
  unfold State.geomLoad
  with_reducible repeat' first | intro _ | (extract_lets +onlyGivenNames x1; first | (refine Within.cut (m := parts) (s0 := s0) (v := x1) ?_ ?_; rotate_left; intro hx; clear_value x1; rotate_left; unfold x1; clear x1) | clear_value x1) | assumption | exact Within.refl _ | exact ‹Avoids _ _›.mono (by decide) | apply State.geomState_keeps

theorem State.geomZero_keeps {s0 s : State} (h : Within parts s0 s) {v : Nat}
    (hm : Avoids parts 8 := by exact ‹Avoids _ _›.mono (by decide)) :
    Within parts s0 (State.geomZero s v) := by
  unfold State.geomZero
  with_reducible repeat' first | intro _ | assumption | exact Within.refl _ | exact ‹Avoids _ _›.mono (by decide) | apply State.bump_keeps | apply State.forEach_keeps | apply State.set_keeps

theorem State.geomMove_keeps {s0 s : State} (h : Within parts s0 s) {r : CalRun} {upto : Nat}
    (hm : Avoids parts 67436700 := by exact ‹Avoids _ _›.mono (by decide)) :
    Within parts s0 (State.geomMove s r upto) := by
  unfold State.geomMove
  with_reducible repeat' first | intro _ | (extract_lets +onlyGivenNames x1; first | (refine Within.cut (m := parts) (s0 := s0) (v := x1) ?_ ?_; rotate_left; intro hx; clear_value x1; rotate_left; unfold x1; clear x1) | clear_value x1) | assumption | exact Within.refl _ | exact ‹Avoids _ _›.mono (by decide) | apply State.forEach_keeps | apply State.memWrite_keeps | apply State.readMeet_keeps | exact rfl | apply Within.ite | split | apply Within.upd_plait

theorem State.geomEnd_keeps {s0 s : State} (h : Within parts s0 s) {err : Nat}
    (hm : Avoids parts 1183056012 := by exact ‹Avoids _ _›.mono (by decide)) :
    Within parts s0 (State.geomEnd s err) := by
  unfold State.geomEnd
  with_reducible repeat' first | (extract_lets +onlyGivenNames x1; first | (refine Within.cut (m := parts) (s0 := s0) (v := x1) ?_ ?_; rotate_left; intro hx; clear_value x1; rotate_left; unfold x1; clear x1) | clear_value x1) | assumption | exact Within.refl _ | exact ‹Avoids _ _›.mono (by decide) | apply State.publishPlait_keeps | apply State.raise_keeps | apply State.set_keeps | exact rfl | apply Within.upd_plait

theorem State.geomStart_keeps {s0 s : State} (h : Within parts s0 s) {op : Nat}
    (hm : Avoids parts 262152 := by exact ‹Avoids _ _›.mono (by decide)) :
    Within parts s0 (State.geomStart s op) := by
  unfold State.geomStart
  with_reducible repeat' first | (extract_lets +onlyGivenNames x1; first | (refine Within.cut (m := parts) (s0 := s0) (v := x1) ?_ ?_; rotate_left; intro hx; clear_value x1; rotate_left; unfold x1; clear x1) | clear_value x1) | assumption | exact Within.refl _ | exact ‹Avoids _ _›.mono (by decide) | apply State.clear_keeps | apply State.geomZero_keeps | apply State.raise_keeps | exact rfl | apply Within.ite | apply Within.upd_plait

theorem execLoadMap_keeps {s : State} {who : Who}
    (hm : Avoids parts 1082392712 := by exact ‹Avoids _ _›.mono (by decide)) : EKeeps parts s (execLoadMap who s) := by
  have h : Within parts s s := .refl s
  unfold execLoadMap
  with_reducible repeat' first | intro _ | assumption | exact Within.refl _ | exact ‹Avoids _ _›.mono (by decide) | apply State.geomStart_keeps | apply State.viaBus_keeps | apply EKeeps.next | apply EKeeps.ite

theorem execSaveMap_keeps {s : State} {who : Who}
    (hm : Avoids parts 1082392712 := by exact ‹Avoids _ _›.mono (by decide)) : EKeeps parts s (execSaveMap who s) := by
  have h : Within parts s s := .refl s
  unfold execSaveMap
  with_reducible repeat' first | intro _ | assumption | exact Within.refl _ | exact ‹Avoids _ _›.mono (by decide) | apply State.geomStart_keeps | apply State.viaBus_keeps | apply EKeeps.next | apply EKeeps.ite

theorem execSaveGeom_keeps {s : State} {who : Who}
    (hm : Avoids parts 1082392712 := by exact ‹Avoids _ _›.mono (by decide)) : EKeeps parts s (execSaveGeom who s) := by
  have h : Within parts s s := .refl s
  unfold execSaveGeom
  with_reducible repeat' first | intro _ | assumption | exact Within.refl _ | exact ‹Avoids _ _›.mono (by decide) | apply State.geomStart_keeps | apply State.viaBus_keeps | apply EKeeps.next | apply EKeeps.ite

theorem execLoadGeom_keeps {s : State} {who : Who}
    (hm : Avoids parts 1082392712 := by exact ‹Avoids _ _›.mono (by decide)) : EKeeps parts s (execLoadGeom who s) := by
  have h : Within parts s s := .refl s
  unfold execLoadGeom
  with_reducible repeat' first | intro _ | assumption | exact Within.refl _ | exact ‹Avoids _ _›.mono (by decide) | apply State.geomStart_keeps | apply State.viaBus_keeps | apply EKeeps.next | apply EKeeps.ite

theorem execTrkReset_keeps {s : State} {who : Who}
    (hm : Avoids parts 1082392712 := by exact ‹Avoids _ _›.mono (by decide)) : EKeeps parts s (execTrkReset who s) := by
  have h : Within parts s s := .refl s
  unfold execTrkReset
  with_reducible repeat' first | intro _ | assumption | exact Within.refl _ | exact ‹Avoids _ _›.mono (by decide) | apply State.geomStart_keeps | apply State.viaBus_keeps | apply EKeeps.next | apply EKeeps.ite

theorem State.geomHeader_keeps {s0 s : State} (h : Within parts s0 s) {w : GroupWrite} {bad : Option Nat}
    (hm : Avoids parts 67239980 := by exact ‹Avoids _ _›.mono (by decide)) :
    PKeeps parts s0 (State.geomHeader s w bad) := by
  unfold State.geomHeader
  with_reducible repeat' first | intro _ | assumption | exact Within.refl _ | exact ‹Avoids _ _›.mono (by decide) | apply State.forEach_keeps | (refine State.groupHeader_keeps2 ?_ ‹_›) | apply State.groupHeader_keeps1 | apply State.groupHeader_keeps | apply State.zoneRanges_keeps | split | exact PKeeps.fst (by assumption) | exact PKeeps.mk1 (by assumption) | exact PKeeps.of_eq (by assumption) (by assumption) | apply PKeeps.ite | apply PKeeps.mk | apply PKeeps.fst

theorem State.geomHeader_keeps2 {s0 s : State} (h : Within parts s0 s) {w : GroupWrite} {bad : Option Nat} {t : State} {y0 : Bool} (e : State.geomHeader s w bad = (t, y0))
    (hm : Avoids parts 67239980 := by exact ‹Avoids _ _›.mono (by decide)) : Within parts s0 t := by
  have := State.geomHeader_keeps h (w := w) (bad := bad)
  rw [e] at this; exact this

theorem State.geomHeader_keeps1 {s0 s : State} (h : Within parts s0 s) {w : GroupWrite} {bad : Option Nat}
    (hm : Avoids parts 67239980 := by exact ‹Avoids _ _›.mono (by decide)) : Within parts s0 (State.geomHeader s w bad).1 :=
  State.geomHeader_keeps h (w := w) (bad := bad)

theorem execGeomAbort_keeps {s : State} {who : Who}
    (hm : Avoids parts 1183252668 := by exact ‹Avoids _ _›.mono (by decide)) : EKeeps parts s (execGeomAbort who s) := by
  have h : Within parts s s := .refl s
  unfold execGeomAbort
  with_reducible repeat' first | intro _ | assumption | exact Within.refl _ | exact ‹Avoids _ _›.mono (by decide) | apply State.geomEnd_keeps | (refine State.geomHeader_keeps2 ?_ ‹_›) | apply State.geomHeader_keeps1 | apply State.geomHeader_keeps | apply State.geomMove_keeps | apply State.useFree_keeps | apply State.viaBus_keeps | apply Within.ite | split | exact PKeeps.fst (by assumption) | exact PKeeps.mk1 (by assumption) | exact PKeeps.of_eq (by assumption) (by assumption) | apply PKeeps.ite | apply PKeeps.mk | apply PKeeps.fst | apply EKeeps.next | apply EKeeps.ite

theorem State.geomSave_keeps {s0 s : State} (h : Within parts s0 s) {r : CalRun} {bad : Option Nat}
    (hm : Avoids parts 1183187116 := by exact ‹Avoids _ _›.mono (by decide)) :
    Within parts s0 (State.geomSave s r bad) := by
  unfold State.geomSave
  with_reducible repeat' first | (extract_lets +onlyGivenNames x1; first | ((first | refine Within.cut (m := parts) (s0 := s0) (v := x1) ?_ ?_ | refine PKeeps.cut (m := parts) (s0 := s0) (p := x1) ?_ ?_); rotate_left; intro hx; clear_value x1; rotate_left; unfold x1; clear x1) | clear_value x1) | assumption | exact Within.refl _ | exact ‹Avoids _ _›.mono (by decide) | apply State.geomEnd_keeps | (refine State.geomHeader_keeps2 ?_ ‹_›) | apply State.geomHeader_keeps1 | apply State.geomHeader_keeps | (refine State.groupData_keeps2 ?_ ‹_›) | apply State.groupData_keeps1 | apply State.groupData_keeps | apply State.useFree_keeps | apply State.windowRefused_keeps | apply Within.ite | split | exact PKeeps.fst (by assumption) | exact PKeeps.mk1 (by assumption) | exact PKeeps.of_eq (by assumption) (by assumption) | apply PKeeps.ite | apply PKeeps.mk | apply PKeeps.fst

theorem execGeomCmdDone_keeps {s : State} {bad : Option Nat}
    (hm : Avoids parts 1183252668 := by exact ‹Avoids _ _›.mono (by decide)) : EKeeps parts s (execGeomCmdDone bad s) := by
  have h : Within parts s s := .refl s
  unfold execGeomCmdDone
  with_reducible repeat' first | (extract_lets +onlyGivenNames x1; first | (refine Within.cut (m := parts) (s0 := s) (v := x1) ?_ ?_; rotate_left; intro hx; clear_value x1; rotate_left; unfold x1; clear x1) | clear_value x1) | assumption | exact Within.refl _ | exact ‹Avoids _ _›.mono (by decide) | apply State.geomEnd_keeps | apply State.geomLoad_keeps | apply State.geomMove_keeps | apply State.geomSave_keeps | apply Within.ite | split | apply EKeeps.next | apply EKeeps.ite

end Sys2Proof.Machine
end

