-- ==== Sys2Proof/Laws/KeepsSegment.lean ====
section
/-!
SUPPORT. The operations of Machine/Segment.lean keep what every step keeps.
-/
set_option Elab.async false
namespace Sys2Proof.Machine

set_option linter.tactic.unusedName false

variable {parts : Nat}

theorem State.imaged_keeps {s0 s : State} (h : Within parts s0 s) {k : Nat} {cut : Bool}
    (hm : Avoids parts 68747420 := by exact ‹Avoids _ _›.mono (by decide)) :
    Within parts s0 (State.imaged s k cut) := by
  unfold State.imaged
  with_reducible repeat' first | intro _ | (extract_lets +onlyGivenNames x1; first | (refine Within.cut (m := parts) (s0 := s0) (v := x1) ?_ ?_; rotate_left; intro hx; clear_value x1; rotate_left; unfold x1; clear x1) | clear_value x1) | assumption | exact Within.refl _ | exact ‹Avoids _ _›.mono (by decide) | apply State.bumpSat_keeps | apply State.ctxTouch_keeps | apply State.setCtx_keeps | apply State.setJview_keeps | apply Within.ite

theorem State.repRow_keeps {s0 s : State} (h : Within parts s0 s) {k : Nat} {r : SRow}
    (hm : Avoids parts 70844572 := by exact ‹Avoids _ _›.mono (by decide)) :
    Within parts s0 (State.repRow s k r) := by
  unfold State.repRow
  with_reducible repeat' first | (extract_lets +onlyGivenNames x1; first | (refine Within.cut (m := parts) (s0 := s0) (v := x1) ?_ ?_; rotate_left; intro hx; clear_value x1; rotate_left; unfold x1; clear x1) | clear_value x1) | assumption | exact Within.refl _ | exact ‹Avoids _ _›.mono (by decide) | apply State.ctxTouch_keeps | apply State.imaged_keeps | apply State.setCtx_keeps | apply State.setRep_keeps | apply Within.ite

theorem State.newEpoch_keeps {s0 s : State} (h : Within parts s0 s) {v : Nat} {b : Nat}
    (hm : Avoids parts 1183973516 := by exact ‹Avoids _ _›.mono (by decide)) :
    Within parts s0 (State.newEpoch s v b) := by
  unfold State.newEpoch
  with_reducible repeat' first | (extract_lets +onlyGivenNames x1; first | (refine Within.cut (m := parts) (s0 := s0) (v := x1) ?_ ?_; rotate_left; intro hx; clear_value x1; rotate_left; unfold x1; clear x1) | clear_value x1) | assumption | exact Within.refl _ | exact ‹Avoids _ _›.mono (by decide) | apply State.bump_keeps | apply State.clear_keeps | apply State.lcFreeze_keeps | apply State.publishJob_keeps | apply State.setJview_keeps

theorem State.nextSeq_keeps {s0 s : State} (h : Within parts s0 s) {v : Nat} {l : Nat} {a : Nat}
    (hm : Avoids parts 1048576 := by exact ‹Avoids _ _›.mono (by decide)) :
    PKeeps parts s0 (State.nextSeq s v l a) := by
  unfold State.nextSeq
  with_reducible repeat' first | (extract_lets +onlyGivenNames x1; first | ((first | refine Within.cut (m := parts) (s0 := s0) (v := x1) ?_ ?_ | refine PKeeps.cut (m := parts) (s0 := s0) (p := x1) ?_ ?_); rotate_left; intro hx; clear_value x1; rotate_left; unfold x1; clear x1) | clear_value x1) | assumption | exact Within.refl _ | exact ‹Avoids _ _›.mono (by decide) | apply State.setJview_keeps | apply Within.ite | split | exact PKeeps.fst (by assumption) | exact PKeeps.mk1 (by assumption) | exact PKeeps.of_eq (by assumption) (by assumption) | apply PKeeps.ite | apply PKeeps.mk | apply PKeeps.fst

theorem State.nextSeq_keeps2 {s0 s : State} (h : Within parts s0 s) {v : Nat} {l : Nat} {a : Nat} {t : State} {y0 : Nat × Nat} (e : State.nextSeq s v l a = (t, y0))
    (hm : Avoids parts 1048576 := by exact ‹Avoids _ _›.mono (by decide)) : Within parts s0 t := by
  have := State.nextSeq_keeps h (v := v) (l := l) (a := a)
  rw [e] at this; exact this

theorem State.nextSeq_keeps1 {s0 s : State} (h : Within parts s0 s) {v : Nat} {l : Nat} {a : Nat}
    (hm : Avoids parts 1048576 := by exact ‹Avoids _ _›.mono (by decide)) : Within parts s0 (State.nextSeq s v l a).1 :=
  State.nextSeq_keeps h (v := v) (l := l) (a := a)

theorem State.cutTake_keeps {s0 s : State} (h : Within parts s0 s) {v : Nat} {head : Option Nat} {c : Ctx}
    (hm : Avoids parts 68747420 := by exact ‹Avoids _ _›.mono (by decide)) :
    Within parts s0 (State.cutTake s v head c) := by
  unfold State.cutTake
  with_reducible repeat' first | (extract_lets +onlyGivenNames x1; first | (refine Within.cut (m := parts) (s0 := s0) (v := x1) ?_ ?_; rotate_left; intro hx; clear_value x1; rotate_left; unfold x1; clear x1) | clear_value x1) | assumption | exact Within.refl _ | exact ‹Avoids _ _›.mono (by decide) | apply State.bumpSat_keeps | apply State.ctxNone_keeps | apply State.ctxTake_keeps | apply State.publishJob_keeps | apply State.raise_keeps | exact rfl | apply Within.ite | split | apply Within.upd_jobs

theorem State.cutCount_keeps {s0 s : State} (h : Within parts s0 s) {v : Nat} {q : Cut}
    (hm : Avoids parts 67109004 := by exact ‹Avoids _ _›.mono (by decide)) :
    Within parts s0 (State.cutCount s v q) := by
  unfold State.cutCount
  with_reducible repeat' first | (extract_lets +onlyGivenNames x1; first | (refine Within.cut (m := parts) (s0 := s0) (v := x1) ?_ ?_; rotate_left; intro hx; clear_value x1; rotate_left; unfold x1; clear x1) | clear_value x1) | assumption | exact Within.refl _ | exact ‹Avoids _ _›.mono (by decide) | apply State.bumpSat_keeps | apply State.bump_keeps | apply State.set_keeps | apply State.slotUpdate_keeps | apply Within.ite

theorem State.repOpen_keeps {s0 s : State} (h : Within parts s0 s) {v : Nat} {q : Cut} {k : Nat}
    (hm : Avoids parts 2097152 := by exact ‹Avoids _ _›.mono (by decide)) :
    Within parts s0 (State.repOpen s v q k) := by
  unfold State.repOpen
  with_reducible repeat' first | (extract_lets +onlyGivenNames x1; first | (refine Within.cut (m := parts) (s0 := s0) (v := x1) ?_ ?_; rotate_left; intro hx; clear_value x1; rotate_left; unfold x1; clear x1) | clear_value x1) | assumption | exact Within.refl _ | exact ‹Avoids _ _›.mono (by decide) | apply State.setRep_keeps | exact rfl | apply Within.upd_compare

theorem State.cut_keeps {s0 s : State} (h : Within parts s0 s) {v : Nat} {q : Cut}
    (hm : Avoids parts 1186660508 := by exact ‹Avoids _ _›.mono (by decide)) :
    Within parts s0 (State.cut s v q) := by
  unfold State.cut
  with_reducible repeat' first | intro _ | (extract_lets +onlyGivenNames x1; first | ((first | refine Within.cut (m := parts) (s0 := s0) (v := x1) ?_ ?_ | refine PKeeps.cut (m := parts) (s0 := s0) (p := x1) ?_ ?_); rotate_left; intro hx; clear_value x1; rotate_left; unfold x1; clear x1) | clear_value x1) | assumption | exact Within.refl _ | exact ‹Avoids _ _›.mono (by decide) | apply State.cutCount_keeps | apply State.cutTake_keeps | apply State.forList_keeps | apply State.imaged_keeps | apply State.lcRepeat_keeps | apply State.newEpoch_keeps | (refine State.nextSeq_keeps2 ?_ ‹_›) | apply State.nextSeq_keeps1 | apply State.nextSeq_keeps | apply State.publish_keeps | apply State.repOpen_keeps | apply State.repRow_keeps | apply State.setJview_keeps | apply State.zonesFor_keeps | apply Within.ite | split | exact PKeeps.fst (by assumption) | exact PKeeps.mk1 (by assumption) | exact PKeeps.of_eq (by assumption) (by assumption) | apply PKeeps.ite | apply PKeeps.mk | apply PKeeps.fst

theorem State.setWebLane_keeps {s0 s : State} (h : Within parts s0 s) {v : Nat} {i : Nat} {l : Nat} {x : JLane}
    (hm : Avoids parts 1048584 := by exact ‹Avoids _ _›.mono (by decide)) :
    Within parts s0 (State.setWebLane s v i l x) := by
  unfold State.setWebLane
  with_reducible repeat' first | intro _ | (extract_lets +onlyGivenNames x1; first | (refine Within.cut (m := parts) (s0 := s0) (v := x1) ?_ ?_; rotate_left; intro hx; clear_value x1; rotate_left; unfold x1; clear x1) | clear_value x1) | assumption | exact Within.refl _ | exact ‹Avoids _ _›.mono (by decide) | apply State.set_keeps | apply State.setFlag_keeps | apply State.setJview_keeps | apply Within.ite

theorem State.laneCut_keeps {s0 s : State} (h : Within parts s0 s) {v : Nat} {i : Nat} {l : Nat} {x : JLane} {q : Nat} {m : Nat} {flags : Nat} {score : Nat} {dx : Int} {dy : Int}
    (hm : Avoids parts 1186660508 := by exact ‹Avoids _ _›.mono (by decide)) :
    Within parts s0 (State.laneCut s v i l x q m flags score dx dy) := by
  unfold State.laneCut
  with_reducible repeat' first | (extract_lets +onlyGivenNames x1; first | (refine Within.cut (m := parts) (s0 := s0) (v := x1) ?_ ?_; rotate_left; intro hx; clear_value x1; rotate_left; unfold x1; clear x1) | clear_value x1) | assumption | exact Within.refl _ | exact ‹Avoids _ _›.mono (by decide) | apply State.cut_keeps | apply State.setWebLane_keeps | apply after_keeps | apply Within.ite | split

theorem State.laneFound_keeps {s0 s : State} (h : Within parts s0 s) {v : Nat} {i : Nat} {l : Nat} {x : JLane} {f : JFind}
    (hm : Avoids parts 1186660508 := by exact ‹Avoids _ _›.mono (by decide)) :
    Within parts s0 (State.laneFound s v i l x f) := by
  unfold State.laneFound
  with_reducible repeat' first | (extract_lets +onlyGivenNames x1; first | (refine Within.cut (m := parts) (s0 := s0) (v := x1) ?_ ?_; rotate_left; intro hx; clear_value x1; rotate_left; unfold x1; clear x1) | clear_value x1) | assumption | exact Within.refl _ | exact ‹Avoids _ _›.mono (by decide) | apply State.laneCut_keeps | apply State.publishJob_keeps | apply Within.ite | split

theorem State.laneMissed_keeps {s0 s : State} (h : Within parts s0 s) {v : Nat} {i : Nat} {l : Nat} {x : JLane} {last : Nat} {q : Nat} {score : Nat}
    (hm : Avoids parts 1186660508 := by exact ‹Avoids _ _›.mono (by decide)) :
    Within parts s0 (State.laneMissed s v i l x last q score) := by
  unfold State.laneMissed
  with_reducible repeat' first | (extract_lets +onlyGivenNames x1; first | (refine Within.cut (m := parts) (s0 := s0) (v := x1) ?_ ?_; rotate_left; intro hx; clear_value x1; rotate_left; unfold x1; clear x1) | clear_value x1) | assumption | exact Within.refl _ | exact ‹Avoids _ _›.mono (by decide) | apply State.laneCut_keeps | apply State.publishJob_keeps | apply Within.ite | split

theorem State.laneStep_keeps {s0 s : State} (h : Within parts s0 s) {v : Nat} {i : Nat} {l : Nat} {top : Nat} {ending : Bool}
    (hm : Avoids parts 1186660508 := by exact ‹Avoids _ _›.mono (by decide)) :
    Within parts s0 (State.laneStep s v i l top ending) := by
  unfold State.laneStep
  with_reducible repeat' first | intro _ | (extract_lets +onlyGivenNames x1; first | (refine Within.cut (m := parts) (s0 := s0) (v := x1) ?_ ?_; rotate_left; intro hx; clear_value x1; rotate_left; unfold x1; clear x1) | clear_value x1) | assumption | exact Within.refl _ | exact ‹Avoids _ _›.mono (by decide) | apply State.foldl_keeps | apply State.laneFound_keeps | apply State.laneMissed_keeps | apply State.setWebLane_keeps | apply Within.ite | split

theorem State.searchRow_keeps {s0 s : State} (h : Within parts s0 s) {v : Nat} {r : SRow} {ending : Bool}
    (hm : Avoids parts 1186660508 := by exact ‹Avoids _ _›.mono (by decide)) :
    Within parts s0 (State.searchRow s v r ending) := by
  unfold State.searchRow
  with_reducible repeat' first | intro _ | (extract_lets +onlyGivenNames x1; first | (refine Within.cut (m := parts) (s0 := s0) (v := x1) ?_ ?_; rotate_left; intro hx; clear_value x1; rotate_left; unfold x1; clear x1) | clear_value x1) | assumption | exact Within.refl _ | exact ‹Avoids _ _›.mono (by decide) | apply State.forEach_keeps | apply State.laneStep_keeps | apply State.setJview_keeps | apply Within.ite | split

theorem State.segRunStart_keeps {s0 s : State} (h : Within parts s0 s) {v : Nat} {forward : Bool}
    (hm : Avoids parts 1050632 := by exact ‹Avoids _ _›.mono (by decide)) :
    Within parts s0 (State.segRunStart s v forward) := by
  unfold State.segRunStart
  with_reducible repeat' first | intro _ | (extract_lets +onlyGivenNames x1; first | (refine Within.cut (m := parts) (s0 := s0) (v := x1) ?_ ?_; rotate_left; intro hx; clear_value x1; rotate_left; unfold x1; clear x1) | clear_value x1) | assumption | exact Within.refl _ | exact ‹Avoids _ _›.mono (by decide) | apply State.forEach_keeps | apply State.setJview_keeps | apply State.setReg_keeps | exact rfl | apply Within.upd_lanes

theorem State.segConclude_keeps {s0 s : State} (h : Within parts s0 s) {v : Nat}
    (hm : Avoids parts 1186660508 := by exact ‹Avoids _ _›.mono (by decide)) :
    Within parts s0 (State.segConclude s v) := by
  unfold State.segConclude
  with_reducible repeat' first | (extract_lets +onlyGivenNames x1; first | (refine Within.cut (m := parts) (s0 := s0) (v := x1) ?_ ?_; rotate_left; intro hx; clear_value x1; rotate_left; unfold x1; clear x1) | clear_value x1) | assumption | exact Within.refl _ | exact ‹Avoids _ _›.mono (by decide) | apply State.searchRow_keeps | apply State.setJview_keeps | apply Within.ite | split

theorem State.resumeSearch_keeps {s0 s : State} (h : Within parts s0 s) {v fuel : Nat}
    (hm : Avoids parts 1186662556 := by exact ‹Avoids _ _›.mono (by decide)) : Within parts s0 (State.resumeSearch s v fuel) := by
  induction fuel generalizing s with
  | zero => exact h
  | succ n ih =>
    unfold State.resumeSearch
    repeat' first | (extract_lets +onlyGivenNames x1; first | (refine Within.cut (m := parts) (s0 := s0) (v := x1) ?_ ?_; rotate_left; intro hx; clear_value x1; rotate_left; unfold x1; clear x1) | clear_value x1) | with_reducible assumption | with_reducible apply State.clear_keeps | with_reducible apply State.raise_keeps | with_reducible apply State.setJview_keeps | with_reducible apply State.searchRow_keeps | with_reducible apply State.segConclude_keeps | with_reducible apply State.segRunStart_keeps | with_reducible apply ih | exact ‹Avoids _ _›.mono (by decide) | with_reducible apply Within.ite | split | exact rfl

theorem State.segRunEnd_keeps {s0 s : State} (h : Within parts s0 s) {v : Nat}
    (hm : Avoids parts 1186660508 := by exact ‹Avoids _ _›.mono (by decide)) :
    Within parts s0 (State.segRunEnd s v) := by
  unfold State.segRunEnd
  with_reducible repeat' first | intro _ | (extract_lets +onlyGivenNames x1; first | (refine Within.cut (m := parts) (s0 := s0) (v := x1) ?_ ?_; rotate_left; intro hx; clear_value x1; rotate_left; unfold x1; clear x1) | clear_value x1) | assumption | exact Within.refl _ | exact ‹Avoids _ _›.mono (by decide) | apply State.forList_keeps | apply State.imaged_keeps | apply State.segConclude_keeps | apply State.setJview_keeps | apply Within.ite

theorem State.segRow_keeps {s0 s : State} (h : Within parts s0 s) {v : Nat} {row : PRow} {place : Option RowPlace} {gap : Bool}
    (hm : Avoids parts 1186662556 := by exact ‹Avoids _ _›.mono (by decide)) :
    Within parts s0 (State.segRow s v row place gap) := by
  unfold State.segRow
  with_reducible repeat' first | intro _ | (extract_lets +onlyGivenNames x1; first | (refine Within.cut (m := parts) (s0 := s0) (v := x1) ?_ ?_; rotate_left; intro hx; clear_value x1; rotate_left; unfold x1; clear x1) | clear_value x1) | assumption | exact Within.refl _ | exact ‹Avoids _ _›.mono (by decide) | apply State.forList_keeps | apply State.repRow_keeps | apply State.resumeSearch_keeps | apply State.setJview_keeps | apply Within.ite | split

theorem State.lightMiss_keeps {s0 s : State} (h : Within parts s0 s) {v : Nat} {j : Nat}
    (hm : Avoids parts 67109004 := by exact ‹Avoids _ _›.mono (by decide)) :
    Within parts s0 (State.lightMiss s v j) := by
  unfold State.lightMiss
  with_reducible repeat' first | assumption | exact Within.refl _ | exact ‹Avoids _ _›.mono (by decide) | apply State.publishJob_keeps | apply State.raise_keeps

theorem State.lightCommits_keeps {s0 s : State} (h : Within parts s0 s) {v : Nat} {j : Nat} {pos : Nat}
    (hm : Avoids parts 1140883596 := by exact ‹Avoids _ _›.mono (by decide)) :
    Within parts s0 (State.lightCommits s v j pos) := by
  unfold State.lightCommits
  with_reducible repeat' first | intro _ | (extract_lets +onlyGivenNames x1; first | ((first | refine Within.cut (m := parts) (s0 := s0) (v := x1) ?_ ?_ | refine PKeeps.cut (m := parts) (s0 := s0) (p := x1) ?_ ?_); rotate_left; intro hx; clear_value x1; rotate_left; unfold x1; clear x1) | clear_value x1) | assumption | exact Within.refl _ | exact ‹Avoids _ _›.mono (by decide) | (refine State.commitAsk_keeps2 ?_ ‹_›) | apply State.commitAsk_keeps1 | apply State.commitAsk_keeps | apply State.foldl_keeps | apply State.forList_keeps | apply State.lightMiss_keeps | apply State.raise_keeps | apply State.setChain_keeps | apply Within.ite | exact PKeeps.fst (by assumption) | exact PKeeps.mk1 (by assumption) | exact PKeeps.of_eq (by assumption) (by assumption) | apply PKeeps.ite | apply PKeeps.mk | apply PKeeps.fst

theorem State.switchTakes_keeps {s0 s : State} (h : Within parts s0 s) {v : Nat}
    (hm : Avoids parts 1186695324 := by exact ‹Avoids _ _›.mono (by decide)) :
    Within parts s0 (State.switchTakes s v) := by
  unfold State.switchTakes
  with_reducible repeat' first | intro _ | (extract_lets +onlyGivenNames x1; first | (refine Within.cut (m := parts) (s0 := s0) (v := x1) ?_ ?_; rotate_left; intro hx; clear_value x1; rotate_left; unfold x1; clear x1) | clear_value x1) | assumption | exact Within.refl _ | exact ‹Avoids _ _›.mono (by decide) | apply State.bump_keeps | apply State.clear_keeps | apply State.forEach_keeps | apply State.lcFreeze_keeps | apply State.learnStop_keeps | apply State.lightCommits_keeps | apply State.publishJob_keeps | apply State.raise_keeps | apply State.resumeSearch_keeps | apply State.setJview_keeps | apply State.setReg_keeps | apply State.set_keeps | apply State.slotUpdate_keeps | apply State.slotView_keeps | exact rfl | apply Within.ite | split | apply Within.upd_lanes

theorem State.switchDrop_keeps {s0 s : State} (h : Within parts s0 s) {v : Nat} {lost : Bool}
    (hm : Avoids parts 1186662556 := by exact ‹Avoids _ _›.mono (by decide)) :
    Within parts s0 (State.switchDrop s v lost) := by
  unfold State.switchDrop
  with_reducible repeat' first | (extract_lets +onlyGivenNames x1; first | (refine Within.cut (m := parts) (s0 := s0) (v := x1) ?_ ?_; rotate_left; intro hx; clear_value x1; rotate_left; unfold x1; clear x1) | clear_value x1) | assumption | exact Within.refl _ | exact ‹Avoids _ _›.mono (by decide) | apply State.clear_keeps | apply State.publishJob_keeps | apply State.resumeSearch_keeps | apply State.setJview_keeps | apply State.slotUpdate_keeps | apply State.slotView_keeps | apply Within.ite | split

theorem State.switchGone_keeps {s0 s : State} (h : Within parts s0 s) {entry : BitVec 128} {handle : Nat}
    (hm : Avoids parts 1186662556 := by exact ‹Avoids _ _›.mono (by decide)) :
    Within parts s0 (State.switchGone s entry handle) := by
  unfold State.switchGone
  with_reducible repeat' first | intro _ | assumption | exact Within.refl _ | exact ‹Avoids _ _›.mono (by decide) | apply State.switchDrop_keeps | apply Within.ite | split

theorem State.switchEvent_keeps {s0 s : State} (h : Within parts s0 s) {e : Event}
    (hm : Avoids parts 1186695324 := by exact ‹Avoids _ _›.mono (by decide)) :
    Within parts s0 (State.switchEvent s e) := by
  unfold State.switchEvent
  with_reducible repeat' first | intro _ | assumption | exact Within.refl _ | exact ‹Avoids _ _›.mono (by decide) | apply State.bumpSat_keeps | apply State.switchTakes_keeps | apply Within.ite | split

theorem State.spliceOpen_keeps {s0 s : State} (h : Within parts s0 s) {v : Nat} {p : Nat}
    (hm : Avoids parts 67698844 := by exact ‹Avoids _ _›.mono (by decide)) :
    Within parts s0 (State.spliceOpen s v p) := by
  unfold State.spliceOpen
  with_reducible repeat' first | intro _ | (extract_lets +onlyGivenNames x1; first | (refine Within.cut (m := parts) (s0 := s0) (v := x1) ?_ ?_; rotate_left; intro hx; clear_value x1; rotate_left; unfold x1; clear x1) | clear_value x1) | assumption | exact Within.refl _ | exact ‹Avoids _ _›.mono (by decide) | apply State.bumpSat_keeps | apply State.ctxTouch_keeps | apply State.forList_keeps | apply State.setCtx_keeps | apply Within.ite

theorem State.armAnswer_keeps {s0 s : State} (h : Within parts s0 s) {tag : Nat} {status : Nat} {handle : Nat}
    (hm : Avoids parts 1186663068 := by exact ‹Avoids _ _›.mono (by decide)) :
    Within parts s0 (State.armAnswer s tag status handle) := by
  unfold State.armAnswer
  with_reducible repeat' first | intro _ | (extract_lets +onlyGivenNames x1; first | (refine Within.cut (m := parts) (s0 := s0) (v := x1) ?_ ?_; rotate_left; intro hx; clear_value x1; rotate_left; unfold x1; clear x1) | clear_value x1) | assumption | exact Within.refl _ | exact ‹Avoids _ _›.mono (by decide) | apply State.forList_keeps | apply State.peQueue_keeps | apply State.setJview_keeps | apply State.showPend_keeps | apply State.skepAnswer_keeps | apply State.spliceOpen_keeps | apply State.switchDrop_keeps | exact rfl | apply Within.ite | split | apply Within.upd_jobs

theorem State.rollSet_keeps {s0 s : State} (h : Within parts s0 s) {v : Nat}
    (hm : Avoids parts 1048584 := by exact ‹Avoids _ _›.mono (by decide)) :
    Within parts s0 (State.rollSet s v) := by
  unfold State.rollSet
  with_reducible repeat' first | (extract_lets +onlyGivenNames x1; first | (refine Within.cut (m := parts) (s0 := s0) (v := x1) ?_ ?_; rotate_left; intro hx; clear_value x1; rotate_left; unfold x1; clear x1) | clear_value x1) | assumption | exact Within.refl _ | exact ‹Avoids _ _›.mono (by decide) | apply State.raise_keeps | apply State.setJview_keeps | apply Within.ite

theorem execRollCmd_keeps {s : State} {who : Who} {v : Fin 8} {x : Word}
    (hm : Avoids parts 1083179144 := by exact ‹Avoids _ _›.mono (by decide)) : EKeeps parts s (execRollCmd who v x s) := by
  have h : Within parts s s := .refl s
  unfold execRollCmd
  with_reducible repeat' first | intro _ | assumption | exact Within.refl _ | exact ‹Avoids _ _›.mono (by decide) | apply State.rollSet_keeps | apply State.viaBus_keeps | apply Within.ite | apply EKeeps.next | apply EKeeps.ite

theorem State.deliverJobs_keeps {s0 s : State} (h : Within parts s0 s) {e : Event}
    (hm : Avoids parts 1186695324 := by exact ‹Avoids _ _›.mono (by decide)) :
    Within parts s0 (State.deliverJobs s e) := by
  unfold State.deliverJobs
  with_reducible repeat' first | intro _ | (extract_lets +onlyGivenNames x1; first | (refine Within.cut (m := parts) (s0 := s0) (v := x1) ?_ ?_; rotate_left; intro hx; clear_value x1; rotate_left; unfold x1; clear x1) | clear_value x1) | assumption | exact Within.refl _ | exact ‹Avoids _ _›.mono (by decide) | apply State.deliver_keeps | apply State.forEach_keeps | apply State.gateEvent_keeps | apply State.rollSet_keeps | apply State.switchEvent_keeps | dsimp only [id]

end Sys2Proof.Machine
end

