-- ==== Sys2Proof/Laws/KeepsDeliver.lean ====
section
/-!
SUPPORT. The operations of Machine/Deliver.lean keep what every step keeps.
-/
set_option Elab.async false
namespace Sys2Proof.Machine

set_option linter.tactic.unusedName false

variable {parts : Nat}

theorem State.withyRepeat_keeps {s0 s : State} (h : Within parts s0 s) {k : Nat}
    (hm : Avoids parts 73990300 := by exact ‹Avoids _ _›.mono (by decide)) :
    Within parts s0 (State.withyRepeat s k) := by
  unfold State.withyRepeat
  with_reducible repeat' first | intro _ | (extract_lets +onlyGivenNames x1; first | (refine Within.cut (m := parts) (s0 := s0) (v := x1) ?_ ?_; rotate_left; intro hx; clear_value x1; rotate_left; unfold x1; clear x1) | clear_value x1) | assumption | exact Within.refl _ | exact ‹Avoids _ _›.mono (by decide) | apply State.ctxTouch_keeps | apply State.forList_keeps | apply State.queueRec_keeps | apply State.repeatDelivered_keeps | apply State.runMeet_keeps | apply State.setRep_keeps | exact rfl | apply Within.ite | apply Within.upd_repeatsOut

theorem State.handOver_keeps {s0 s : State} (h : Within parts s0 s) {v : Nat}
    (hm : Avoids parts 73990300 := by exact ‹Avoids _ _›.mono (by decide)) :
    Within parts s0 (State.handOver s v) := by
  unfold State.handOver
  with_reducible repeat' first | intro _ | (extract_lets +onlyGivenNames x1; first | (refine Within.cut (m := parts) (s0 := s0) (v := x1) ?_ ?_; rotate_left; intro hx; clear_value x1; rotate_left; unfold x1; clear x1) | clear_value x1) | assumption | exact Within.refl _ | exact ‹Avoids _ _›.mono (by decide) | apply State.forList_keeps | apply State.withyRepeat_keeps | exact rfl | apply Within.upd_compare

theorem State.setStripe_keeps {s0 s : State} (h : Within parts s0 s) {v : Nat} {x : Stripe}
    (hm : Avoids parts 4194304 := by exact ‹Avoids _ _›.mono (by decide)) :
    Within parts s0 (State.setStripe s v x) := by
  unfold State.setStripe
  with_reducible repeat' first | assumption | exact Within.refl _ | exact ‹Avoids _ _›.mono (by decide) | exact rfl | apply Within.upd_withy

theorem State.previewMakeRoom_keeps {s0 s : State} (h : Within parts s0 s) {r : Nat} {v : Nat}
    (hm : Avoids parts 4194312 := by exact ‹Avoids _ _›.mono (by decide)) :
    Within parts s0 (State.previewMakeRoom s r v) := by
  unfold State.previewMakeRoom
  with_reducible repeat' first | intro _ | (extract_lets +onlyGivenNames x1; first | (refine Within.cut (m := parts) (s0 := s0) (v := x1) ?_ ?_; rotate_left; intro hx; clear_value x1; rotate_left; unfold x1; clear x1) | clear_value x1) | assumption | exact Within.refl _ | exact ‹Avoids _ _›.mono (by decide) | apply State.bumpSat_keeps | apply State.setRingQueue_keeps | apply Within.ite

theorem State.stripeClose_keeps {s0 s : State} (h : Within parts s0 s) {v : Nat}
    (hm : Avoids parts 73990300 := by exact ‹Avoids _ _›.mono (by decide)) :
    Within parts s0 (State.stripeClose s v) := by
  unfold State.stripeClose
  with_reducible repeat' first | intro _ | (extract_lets +onlyGivenNames x1; first | (refine Within.cut (m := parts) (s0 := s0) (v := x1) ?_ ?_; rotate_left; intro hx; clear_value x1; rotate_left; unfold x1; clear x1) | clear_value x1) | assumption | exact Within.refl _ | exact ‹Avoids _ _›.mono (by decide) | apply State.bumpSat_keeps | apply State.forList_keeps | apply State.previewMakeRoom_keeps | apply State.queueRec_keeps | apply State.setStripe_keeps | apply Within.ite

theorem State.stripeRow_keeps {s0 s : State} (h : Within parts s0 s) {v : Nat} {pos : Nat} {place : Option (Bool × Nat)}
    (hm : Avoids parts 73990300 := by exact ‹Avoids _ _›.mono (by decide)) :
    Within parts s0 (State.stripeRow s v pos place) := by
  unfold State.stripeRow
  with_reducible repeat' first | (extract_lets +onlyGivenNames x1; first | (refine Within.cut (m := parts) (s0 := s0) (v := x1) ?_ ?_; rotate_left; intro hx; clear_value x1; rotate_left; unfold x1; clear x1) | clear_value x1) | assumption | exact Within.refl _ | exact ‹Avoids _ _›.mono (by decide) | apply State.setStripe_keeps | apply State.stripeClose_keeps | apply Within.ite

end Sys2Proof.Machine
end

