-- ==== Sys2Proof/Laws/KeepsCompare.lean ====
section
/-!
SUPPORT. The operations of Machine/Compare.lean keep what every step keeps.
-/
set_option Elab.async false
namespace Sys2Proof.Machine

set_option linter.tactic.unusedName false

variable {parts : Nat}

theorem State.rowsMeet_keeps {s0 s : State} (h : Within parts s0 s) {x : Rep} {rows : List RepRow}
    (hm : Avoids parts 67174540 := by exact ‹Avoids _ _›.mono (by decide)) :
    Within parts s0 (State.rowsMeet s x rows) := by
  unfold State.rowsMeet
  with_reducible repeat' first | intro _ | (extract_lets +onlyGivenNames x1; first | (refine Within.cut (m := parts) (s0 := s0) (v := x1) ?_ ?_; rotate_left; intro hx; clear_value x1; rotate_left; unfold x1; clear x1) | clear_value x1) | assumption | exact Within.refl _ | exact ‹Avoids _ _›.mono (by decide) | apply State.forList_keeps | apply State.runMeet_keeps | apply Within.ite | split

theorem execBandCompare_keeps {s : State} {i : Fin 8} {errs : List MemErr}
    (hm : Avoids parts 69271692 := by exact ‹Avoids _ _›.mono (by decide)) : EKeeps parts s (execBandCompare i errs s) := by
  have h : Within parts s s := .refl s
  unfold execBandCompare
  with_reducible repeat' first | intro _ | (extract_lets +onlyGivenNames x1; first | (refine Within.cut (m := parts) (s0 := s) (v := x1) ?_ ?_; rotate_left; intro hx; clear_value x1; rotate_left; unfold x1; clear x1) | clear_value x1) | assumption | exact Within.refl _ | exact ‹Avoids _ _›.mono (by decide) | apply State.memErrs_keeps | apply State.rowsMeet_keeps | apply State.setRep_keeps | apply Within.ite | split | apply EKeeps.next | apply EKeeps.ite

theorem State.sectionsMeet_keeps {s0 s : State} (h : Within parts s0 s) {x : Rep}
    (hm : Avoids parts 67174540 := by exact ‹Avoids _ _›.mono (by decide)) :
    Within parts s0 (State.sectionsMeet s x) := by
  unfold State.sectionsMeet
  with_reducible repeat' first | (extract_lets +onlyGivenNames x1; first | (refine Within.cut (m := parts) (s0 := s0) (v := x1) ?_ ?_; rotate_left; intro hx; clear_value x1; rotate_left; unfold x1; clear x1) | clear_value x1) | assumption | exact Within.refl _ | exact ‹Avoids _ _›.mono (by decide) | apply State.runMeet_keeps | split

theorem State.takeBlock_keeps {s0 s : State} (h : Within parts s0 s) {k : Nat} {v : Nat} {need : Bool}
    (hm : Avoids parts 1184891020 := by exact ‹Avoids _ _›.mono (by decide)) :
    PKeeps parts s0 (State.takeBlock s k v need) := by
  unfold State.takeBlock
  with_reducible repeat' first | (extract_lets +onlyGivenNames x1; first | ((first | refine Within.cut (m := parts) (s0 := s0) (v := x1) ?_ ?_ | refine PKeeps.cut (m := parts) (s0 := s0) (p := x1) ?_ ?_); rotate_left; intro hx; clear_value x1; rotate_left; unfold x1; clear x1) | clear_value x1) | assumption | exact Within.refl _ | exact ‹Avoids _ _›.mono (by decide) | apply State.bumpSat_keeps | apply State.raise_keeps | apply State.tellCmp_keeps | apply Within.ite | split | exact PKeeps.fst (by assumption) | exact PKeeps.mk1 (by assumption) | exact PKeeps.of_eq (by assumption) (by assumption) | apply PKeeps.ite | apply PKeeps.mk | apply PKeeps.fst | exact rfl | apply Within.upd_candFree_candOf | apply Within.upd_candFree | apply Within.upd_candOf

theorem State.takeBlock_keeps2 {s0 s : State} (h : Within parts s0 s) {k : Nat} {v : Nat} {need : Bool} {t : State} {y0 : Option Nat × Bool} (e : State.takeBlock s k v need = (t, y0))
    (hm : Avoids parts 1184891020 := by exact ‹Avoids _ _›.mono (by decide)) : Within parts s0 t := by
  have := State.takeBlock_keeps h (k := k) (v := v) (need := need)
  rw [e] at this; exact this

theorem State.takeBlock_keeps1 {s0 s : State} (h : Within parts s0 s) {k : Nat} {v : Nat} {need : Bool}
    (hm : Avoids parts 1184891020 := by exact ‹Avoids _ _›.mono (by decide)) : Within parts s0 (State.takeBlock s k v need).1 :=
  State.takeBlock_keeps h (k := k) (v := v) (need := need)

theorem State.setLearn_keeps {s0 s : State} (h : Within parts s0 s) {v : Nat} {x : Learn}
    (hm : Avoids parts 2097152 := by exact ‹Avoids _ _›.mono (by decide)) :
    Within parts s0 (State.setLearn s v x) := by
  unfold State.setLearn
  with_reducible repeat' first | assumption | exact Within.refl _ | exact ‹Avoids _ _›.mono (by decide) | exact rfl | apply Within.upd_compare

theorem State.learnStore_keeps {s0 s : State} (h : Within parts s0 s) {v : Nat} {n : Nat} {bad : Bool} {bs : List Byte}
    (hm : Avoids parts 67174556 := by exact ‹Avoids _ _›.mono (by decide)) :
    Within parts s0 (State.learnStore s v n bad bs) := by
  unfold State.learnStore
  with_reducible repeat' first | (extract_lets +onlyGivenNames x1; first | (refine Within.cut (m := parts) (s0 := s0) (v := x1) ?_ ?_; rotate_left; intro hx; clear_value x1; rotate_left; unfold x1; clear x1) | clear_value x1) | assumption | exact Within.refl _ | exact ‹Avoids _ _›.mono (by decide) | apply State.bump_keeps | apply State.runWrite_keeps | apply State.set_keeps | apply State.setPoison_keeps | apply Within.ite

theorem State.learnTake_keeps {s0 s : State} (h : Within parts s0 s) {k : Nat}
    (hm : Avoids parts 69271708 := by exact ‹Avoids _ _›.mono (by decide)) :
    Within parts s0 (State.learnTake s k) := by
  unfold State.learnTake
  with_reducible repeat' first | intro _ | (extract_lets +onlyGivenNames x1; first | (refine Within.cut (m := parts) (s0 := s0) (v := x1) ?_ ?_; rotate_left; intro hx; clear_value x1; rotate_left; unfold x1; clear x1) | clear_value x1) | assumption | exact Within.refl _ | exact ‹Avoids _ _›.mono (by decide) | apply State.bumpSat_keeps | apply State.learnStore_keeps | apply State.rowsMeet_keeps | apply State.runMeet_keeps | apply State.setLearn_keeps | apply Within.ite | split

theorem execRefLearn_keeps {s : State} {m : Fin 1024}
    (hm : Avoids parts 35717128 := by exact ‹Avoids _ _›.mono (by decide)) : EKeeps parts s (execRefLearn m s) := by
  have h : Within parts s s := .refl s
  unfold execRefLearn
  with_reducible repeat' first | intro _ | (extract_lets +onlyGivenNames x1; first | (refine Within.cut (m := parts) (s0 := s) (v := x1) ?_ ?_; rotate_left; intro hx; clear_value x1; rotate_left; unfold x1; clear x1) | clear_value x1) | assumption | exact Within.refl _ | exact ‹Avoids _ _›.mono (by decide) | apply State.setLearn_keeps | apply State.setReg_keeps | apply State.set_keeps | apply State.showWork_keeps | apply State.skepAnswer_keeps | apply State.skepRun_keeps | (refine State.alloc_keeps2 ?_ ‹_›) | exact rfl | apply Within.ite | split | apply Within.upd_creel | apply EKeeps.next | apply EKeeps.ite

theorem execRefLearnAbort_keeps {s : State} {m : Fin 1024}
    (hm : Avoids parts 1184956556 := by exact ‹Avoids _ _›.mono (by decide)) : EKeeps parts s (execRefLearnAbort m s) := by
  have h : Within parts s s := .refl s
  unfold execRefLearnAbort
  with_reducible repeat' first | intro _ | (extract_lets +onlyGivenNames x1; first | (refine Within.cut (m := parts) (s0 := s) (v := x1) ?_ ?_; rotate_left; intro hx; clear_value x1; rotate_left; unfold x1; clear x1) | clear_value x1) | assumption | exact Within.refl _ | exact ‹Avoids _ _›.mono (by decide) | apply State.learnStop_keeps | apply State.skepAnswer_keeps | apply State.skepRun_keeps | apply Within.ite | apply EKeeps.next | apply EKeeps.ite

theorem execLearnComputeDone_keeps {s : State} {v : Fin 8}
    (hm : Avoids parts 1184956572 := by exact ‹Avoids _ _›.mono (by decide)) : EKeeps parts s (execLearnComputeDone v s) := by
  have h : Within parts s s := .refl s
  unfold execLearnComputeDone
  with_reducible repeat' first | intro _ | (extract_lets +onlyGivenNames x1; first | (refine Within.cut (m := parts) (s0 := s) (v := x1) ?_ ?_; rotate_left; intro hx; clear_value x1; rotate_left; unfold x1; clear x1) | clear_value x1) | assumption | exact Within.refl _ | exact ‹Avoids _ _›.mono (by decide) | apply State.bump_keeps | apply State.learnFree_keeps | apply State.learnStop_keeps | apply State.publishCmp_keeps | apply State.runMeet_keeps | apply State.runWrite_keeps | apply State.setBank_keeps | apply State.set_keeps | apply State.skepAnswer_keeps | apply Within.ite | split | apply EKeeps.next | apply EKeeps.ite

theorem State.verdictEvent_keeps {s0 s : State} (h : Within parts s0 s) {k : Nat}
    (hm : Avoids parts 67109004 := by exact ‹Avoids _ _›.mono (by decide)) :
    Within parts s0 (State.verdictEvent s k) := by
  unfold State.verdictEvent
  with_reducible repeat' first | (extract_lets +onlyGivenNames x1; first | (refine Within.cut (m := parts) (s0 := s0) (v := x1) ?_ ?_; rotate_left; intro hx; clear_value x1; rotate_left; unfold x1; clear x1) | clear_value x1) | assumption | exact Within.refl _ | exact ‹Avoids _ _›.mono (by decide) | apply State.publishOn_keeps | apply Within.ite

theorem State.boundCheck_keeps {s0 s : State} (h : Within parts s0 s) {v : Nat} {c : Ctx}
    (hm : Avoids parts 1184891020 := by exact ‹Avoids _ _›.mono (by decide)) :
    Within parts s0 (State.boundCheck s v c) := by
  unfold State.boundCheck
  with_reducible repeat' first | (extract_lets +onlyGivenNames x1; first | (refine Within.cut (m := parts) (s0 := s0) (v := x1) ?_ ?_; rotate_left; intro hx; clear_value x1; rotate_left; unfold x1; clear x1) | clear_value x1) | assumption | exact Within.refl _ | exact ‹Avoids _ _›.mono (by decide) | apply State.bumpSat_keeps | apply State.raise_keeps | apply State.setMax_keeps | apply State.tellCmp_keeps | apply Within.ite

theorem State.storeCands_keeps {s0 s : State} (h : Within parts s0 s) {v : Nat} {block : Option Nat} {recs : List Byte}
    (hm : Avoids parts 67174556 := by exact ‹Avoids _ _›.mono (by decide)) :
    Within parts s0 (State.storeCands s v block recs) := by
  unfold State.storeCands
  with_reducible repeat' first | assumption | exact Within.refl _ | exact ‹Avoids _ _›.mono (by decide) | apply State.runWrite_keeps | split

theorem State.countVerdict_keeps {s0 s : State} (h : Within parts s0 s) {v : Nat} {vd : Nat} {bits : Nat}
    (hm : Avoids parts 8 := by exact ‹Avoids _ _›.mono (by decide)) :
    Within parts s0 (State.countVerdict s v vd bits) := by
  unfold State.countVerdict
  with_reducible repeat' first | intro _ | (extract_lets +onlyGivenNames x1; first | (refine Within.cut (m := parts) (s0 := s0) (v := x1) ?_ ?_; rotate_left; intro hx; clear_value x1; rotate_left; unfold x1; clear x1) | clear_value x1) | assumption | exact Within.refl _ | exact ‹Avoids _ _›.mono (by decide) | apply State.bumpSat_keeps | apply State.bump_keeps | apply State.forEach_keeps | apply Within.ite

theorem State.judgedNext_keeps {s0 s : State} (h : Within parts s0 s) {k : Nat}
    (hm : Avoids parts 2097152 := by exact ‹Avoids _ _›.mono (by decide)) :
    Within parts s0 (State.judgedNext s k) := by
  unfold State.judgedNext
  with_reducible repeat' first | assumption | exact Within.refl _ | exact ‹Avoids _ _›.mono (by decide) | exact rfl | apply Within.upd_compare

theorem State.gateAsk_keeps {s0 s : State} (h : Within parts s0 s) {k : Nat} {v : Nat}
    (hm : Avoids parts 73990812 := by exact ‹Avoids _ _›.mono (by decide)) :
    Within parts s0 (State.gateAsk s k v) := by
  unfold State.gateAsk
  with_reducible repeat' first | assumption | exact Within.refl _ | exact ‹Avoids _ _›.mono (by decide) | apply State.ctxActs_keeps | apply State.handOver_keeps | apply State.peQueue_keeps | apply State.setRep_keeps | split

theorem execVerdictReady_keeps {s : State} {k : Nat}
    (hm : Avoids parts 1189675676 := by exact ‹Avoids _ _›.mono (by decide)) : EKeeps parts s (execVerdictReady k s) := by
  have h : Within parts s s := .refl s
  unfold execVerdictReady
  with_reducible repeat' first | intro _ | (extract_lets +onlyGivenNames x1; first | ((first | refine Within.cut (m := parts) (s0 := s) (v := x1) ?_ ?_ | refine PKeeps.cut (m := parts) (s0 := s) (p := x1) ?_ ?_); rotate_left; intro hx; clear_value x1; rotate_left; unfold x1; clear x1) | clear_value x1) | assumption | exact Within.refl _ | exact ‹Avoids _ _›.mono (by decide) | apply State.boundCheck_keeps | apply State.countVerdict_keeps | apply State.ctxTouch_keeps | apply State.flightOut_keeps | apply State.gateAsk_keeps | apply State.judgedNext_keeps | apply State.learnTake_keeps | apply State.sectionsMeet_keeps | apply State.setCtx_keeps | apply State.setRep_keeps | apply State.storeCands_keeps | (refine State.takeBlock_keeps2 ?_ ‹_›) | apply State.takeBlock_keeps1 | apply State.takeBlock_keeps | apply State.verdictEvent_keeps | apply Within.ite | split | exact PKeeps.fst (by assumption) | exact PKeeps.mk1 (by assumption) | exact PKeeps.of_eq (by assumption) (by assumption) | apply PKeeps.ite | apply PKeeps.mk | apply PKeeps.fst | apply EKeeps.next | apply EKeeps.ite

theorem State.gateAnswer_keeps {s0 s : State} (h : Within parts s0 s) {k : Nat} {e : BitVec 128} {status : Nat} {handle : Nat}
    (hm : Avoids parts 69795996 := by exact ‹Avoids _ _›.mono (by decide)) :
    Within parts s0 (State.gateAnswer s k e status handle) := by
  unfold State.gateAnswer
  with_reducible repeat' first | (extract_lets +onlyGivenNames x1; first | (refine Within.cut (m := parts) (s0 := s0) (v := x1) ?_ ?_; rotate_left; intro hx; clear_value x1; rotate_left; unfold x1; clear x1) | clear_value x1) | assumption | exact Within.refl _ | exact ‹Avoids _ _›.mono (by decide) | apply State.ctxTouch_keeps | apply State.setCtx_keeps | exact rfl | apply Within.ite | split | apply Within.upd_compare

theorem execGateInsertResult_keeps {s : State}
    (hm : Avoids parts 73990300 := by exact ‹Avoids _ _›.mono (by decide)) : EKeeps parts s (execGateInsertResult s) := by
  have h : Within parts s s := .refl s
  unfold execGateInsertResult
  with_reducible repeat' first | (extract_lets +onlyGivenNames x1; first | (refine Within.cut (m := parts) (s0 := s) (v := x1) ?_ ?_; rotate_left; intro hx; clear_value x1; rotate_left; unfold x1; clear x1) | clear_value x1) | assumption | exact Within.refl _ | exact ‹Avoids _ _›.mono (by decide) | apply State.bumpSat_keeps | apply State.ctxActed_keeps | apply State.ctxTouch_keeps | apply State.handOver_keeps | apply State.setCtx_keeps | apply State.setRep_keeps | apply State.set_keeps | exact rfl | apply Within.ite | split | apply Within.upd_compare | apply EKeeps.next | apply EKeeps.ite

end Sys2Proof.Machine
end

