-- ==== Sys2Proof/Laws/KeepsRows.lean ====
section
/-!
SUPPORT. The operations of Machine/Rows.lean keep what every step keeps.
-/
set_option Elab.async false
namespace Sys2Proof.Machine

set_option linter.tactic.unusedName false

variable {parts : Nat}

theorem State.runOver_keeps {s0 s : State} (h : Within parts s0 s) {v : Nat}
    (hm : Avoids parts 1190854812 := by exact ‹Avoids _ _›.mono (by decide)) :
    Within parts s0 (State.runOver s v) := by
  unfold State.runOver
  with_reducible repeat' first | assumption | exact Within.refl _ | exact ‹Avoids _ _›.mono (by decide) | apply State.segRunEnd_keeps | apply State.stripeClose_keeps

theorem execPlaitRowEmit_keeps {s : State} {v : Fin 8} {perr : Nat} {stall : Bool}
    (hm : Avoids parts 1191131356 := by exact ‹Avoids _ _›.mono (by decide)) : EKeeps parts s (execPlaitRowEmit v perr stall s) := by
  have h : Within parts s s := .refl s
  unfold execPlaitRowEmit
  with_reducible repeat' first | intro _ | (extract_lets +onlyGivenNames x1; first | ((first | refine Within.cut (m := parts) (s0 := s) (v := x1) ?_ ?_ | refine PKeeps.cut (m := parts) (s0 := s) (p := x1) ?_ ?_); rotate_left; intro hx; clear_value x1; rotate_left; unfold x1; clear x1) | clear_value x1) | assumption | exact Within.refl _ | exact ‹Avoids _ _›.mono (by decide) | apply State.marksFirst_keeps | (refine State.plaitRow_keeps2 ?_ ‹_›) | apply State.plaitRow_keeps1 | apply State.plaitRow_keeps | (refine State.rowWrite_keeps2 ?_ ‹_›) | apply State.rowWrite_keeps1 | apply State.rowWrite_keeps | apply State.runOver_keeps | apply State.segRow_keeps | apply State.stripeRow_keeps | apply Within.ite | split | exact PKeeps.fst (by assumption) | exact PKeeps.mk1 (by assumption) | exact PKeeps.of_eq (by assumption) (by assumption) | apply PKeeps.ite | apply PKeeps.mk | apply PKeeps.fst | apply EKeeps.next | apply EKeeps.ite

end Sys2Proof.Machine
end

