-- ==== Sys2Proof/Laws/KeepsPools.lean ====
section
/-!
SUPPORT. The operations of Machine/Pools.lean keep what every step keeps.
-/
set_option Elab.async false
namespace Sys2Proof.Machine

set_option linter.tactic.unusedName false

variable {parts : Nat}

theorem State.setRingSt_keeps {s0 s : State} (h : Within parts s0 s) {r : Nat} {x : RingSt}
    (hm : Avoids parts 4194304 := by exact ‹Avoids _ _›.mono (by decide)) :
    Within parts s0 (State.setRingSt s r x) := by
  unfold State.setRingSt
  with_reducible repeat' first | assumption | exact Within.refl _ | exact ‹Avoids _ _›.mono (by decide) | exact rfl | apply Within.upd_withy

theorem State.setPool_keeps {s0 s : State} (h : Within parts s0 s) {p : Nat} {x : Pool}
    (hm : Avoids parts 4194304 := by exact ‹Avoids _ _›.mono (by decide)) :
    Within parts s0 (State.setPool s p x) := by
  unfold State.setPool
  with_reducible repeat' first | assumption | exact Within.refl _ | exact ‹Avoids _ _›.mono (by decide) | exact rfl | apply Within.upd_withy

theorem State.pageTo_keeps {s0 s : State} (h : Within parts s0 s) {p : Nat} {page : Nat} {st : Option PageState}
    (hm : Avoids parts 71303308 := by exact ‹Avoids _ _›.mono (by decide)) :
    Within parts s0 (State.pageTo s p page st) := by
  unfold State.pageTo
  with_reducible repeat' first | (extract_lets +onlyGivenNames x1; first | (refine Within.cut (m := parts) (s0 := s0) (v := x1) ?_ ?_; rotate_left; intro hx; clear_value x1; rotate_left; unfold x1; clear x1) | clear_value x1) | assumption | exact Within.refl _ | exact ‹Avoids _ _›.mono (by decide) | apply State.publishWithy_keeps | apply State.set_keeps | apply State.setPool_keeps | apply Within.ite | split

theorem State.takePage_keeps {s0 s : State} (h : Within parts s0 s) {p : Nat} {page : Nat}
    (hm : Avoids parts 71303308 := by exact ‹Avoids _ _›.mono (by decide)) :
    Within parts s0 (State.takePage s p page) := by
  unfold State.takePage
  with_reducible repeat' first | (extract_lets +onlyGivenNames x1; first | (refine Within.cut (m := parts) (s0 := s0) (v := x1) ?_ ?_; rotate_left; intro hx; clear_value x1; rotate_left; unfold x1; clear x1) | clear_value x1) | assumption | exact Within.refl _ | exact ‹Avoids _ _›.mono (by decide) | apply State.pageTo_keeps | apply State.setPool_keeps | apply Within.ite

theorem State.tlbUse_keeps {s0 s : State} (h : Within parts s0 s) {t : Tlb}
    (hm : Avoids parts 4194304 := by exact ‹Avoids _ _›.mono (by decide)) :
    Within parts s0 (State.tlbUse s t) := by
  unfold State.tlbUse
  with_reducible repeat' first | intro _ | (extract_lets +onlyGivenNames x1; first | (refine Within.cut (m := parts) (s0 := s0) (v := x1) ?_ ?_; rotate_left; intro hx; clear_value x1; rotate_left; unfold x1; clear x1) | clear_value x1) | assumption | exact Within.refl _ | exact ‹Avoids _ _›.mono (by decide) | exact rfl | apply Within.upd_withy

theorem State.tlbDrop_keeps {s0 s : State} (h : Within parts s0 s) {p : Nat} {page : Option Nat}
    (hm : Avoids parts 4194304 := by exact ‹Avoids _ _›.mono (by decide)) :
    Within parts s0 (State.tlbDrop s p page) := by
  unfold State.tlbDrop
  with_reducible repeat' first | intro _ | assumption | exact Within.refl _ | exact ‹Avoids _ _›.mono (by decide) | split | exact rfl | apply Within.upd_withy

theorem State.dropPages_keeps {s0 s : State} (h : Within parts s0 s) {r : Nat}
    (hm : Avoids parts 71303308 := by exact ‹Avoids _ _›.mono (by decide)) :
    Within parts s0 (State.dropPages s r) := by
  unfold State.dropPages
  with_reducible repeat' first | intro _ | (extract_lets +onlyGivenNames x1; first | (refine Within.cut (m := parts) (s0 := s0) (v := x1) ?_ ?_; rotate_left; intro hx; clear_value x1; rotate_left; unfold x1; clear x1) | clear_value x1) | assumption | exact Within.refl _ | exact ‹Avoids _ _›.mono (by decide) | apply State.forList_keeps | apply State.pageTo_keeps | apply State.setRingSt_keeps | apply Within.ite

theorem State.frontLoss_keeps {s0 s : State} (h : Within parts s0 s) {r : Nat} {cause : Nat}
    (hm : Avoids parts 73990300 := by exact ‹Avoids _ _›.mono (by decide)) :
    Within parts s0 (State.frontLoss s r cause) := by
  unfold State.frontLoss
  with_reducible repeat' first | (extract_lets +onlyGivenNames x1; first | (refine Within.cut (m := parts) (s0 := s0) (v := x1) ?_ ?_; rotate_left; intro hx; clear_value x1; rotate_left; unfold x1; clear x1) | clear_value x1) | assumption | exact Within.refl _ | exact ‹Avoids _ _›.mono (by decide) | apply State.bumpSat_keeps | apply State.dropPages_keeps | apply State.repeatOut_keeps | apply State.setRingQueue_keeps | apply Within.ite | split

theorem State.poolLosses_keeps {s0 s : State} (h : Within parts s0 s) {p : Nat} {cause : Nat}
    (hm : Avoids parts 73990300 := by exact ‹Avoids _ _›.mono (by decide)) :
    Within parts s0 (State.poolLosses s p cause) := by
  unfold State.poolLosses
  with_reducible repeat' first | intro _ | assumption | exact Within.refl _ | exact ‹Avoids _ _›.mono (by decide) | apply State.forList_keeps | apply State.frontLoss_keeps | apply Within.ite | split

theorem State.poolToOff_keeps {s0 s : State} (h : Within parts s0 s) {p : Nat}
    (hm : Avoids parts 4194312 := by exact ‹Avoids _ _›.mono (by decide)) :
    Within parts s0 (State.poolToOff s p) := by
  unfold State.poolToOff
  with_reducible repeat' first | (extract_lets +onlyGivenNames x1; first | (refine Within.cut (m := parts) (s0 := s0) (v := x1) ?_ ?_; rotate_left; intro hx; clear_value x1; rotate_left; unfold x1; clear x1) | clear_value x1) | assumption | exact Within.refl _ | exact ‹Avoids _ _›.mono (by decide) | apply State.clear_keeps | apply State.setPool_keeps | apply State.set_keeps | apply State.tlbDrop_keeps | apply Within.ite

theorem State.poolStopCheck_keeps {s0 s : State} (h : Within parts s0 s) {p : Nat}
    (hm : Avoids parts 4194312 := by exact ‹Avoids _ _›.mono (by decide)) :
    Within parts s0 (State.poolStopCheck s p) := by
  unfold State.poolStopCheck
  with_reducible repeat' first | intro _ | assumption | exact Within.refl _ | exact ‹Avoids _ _›.mono (by decide) | apply State.poolToOff_keeps | apply Within.ite

theorem State.poolToFault_keeps {s0 s : State} (h : Within parts s0 s) {p : Nat} {addr : Nat}
    (hm : Avoids parts 73990300 := by exact ‹Avoids _ _›.mono (by decide)) :
    Within parts s0 (State.poolToFault s p addr) := by
  unfold State.poolToFault
  with_reducible repeat' first | (extract_lets +onlyGivenNames x1; first | (refine Within.cut (m := parts) (s0 := s0) (v := x1) ?_ ?_; rotate_left; intro hx; clear_value x1; rotate_left; unfold x1; clear x1) | clear_value x1) | assumption | exact Within.refl _ | exact ‹Avoids _ _›.mono (by decide) | apply State.poolLosses_keeps | apply State.publishWithy_keeps | apply State.set2_keeps | apply State.set_keeps | apply State.tlbDrop_keeps | apply Within.ite

theorem State.allocPages_keeps {s0 s : State} (h : Within parts s0 s) {r p need fuel : Nat}
    (hm : Avoids parts 1153433741 := by exact ‹Avoids _ _›.mono (by decide)) : Within parts s0 (State.allocPages s r p need fuel) := by
  induction fuel generalizing s with
  | zero => exact h
  | succ n ih =>
    unfold State.allocPages
    repeat' first | (extract_lets +onlyGivenNames x1; first | (refine Within.cut (m := parts) (s0 := s0) (v := x1) ?_ ?_; rotate_left; intro hx; clear_value x1; rotate_left; unfold x1; clear x1) | clear_value x1) | with_reducible assumption | with_reducible apply State.takePage_keeps | with_reducible apply State.tlbUse_keeps | with_reducible apply State.bump_keeps | with_reducible apply State.setRingSt_keeps | with_reducible apply State.portRead_keeps | with_reducible apply ih | exact ‹Avoids _ _›.mono (by decide) | with_reducible apply Within.ite | split | exact rfl

theorem State.allocMore_keeps {s0 s : State} (h : Within parts s0 s) {r : Nat}
    (hm : Avoids parts 1153433741 := by exact ‹Avoids _ _›.mono (by decide)) :
    Within parts s0 (State.allocMore s r) := by
  unfold State.allocMore
  with_reducible repeat' first | (extract_lets +onlyGivenNames x1; first | (refine Within.cut (m := parts) (s0 := s0) (v := x1) ?_ ?_; rotate_left; intro hx; clear_value x1; rotate_left; unfold x1; clear x1) | clear_value x1) | assumption | exact Within.refl _ | exact ‹Avoids _ _›.mono (by decide) | apply State.allocPages_keeps | split

theorem State.pageFaulted_keeps {s0 s : State} (h : Within parts s0 s) {r : Nat} {p : Nat} {page : Nat}
    (hm : Avoids parts 1153433741 := by exact ‹Avoids _ _›.mono (by decide)) :
    Within parts s0 (State.pageFaulted s r p page) := by
  unfold State.pageFaulted
  with_reducible repeat' first | (extract_lets +onlyGivenNames x1; first | (refine Within.cut (m := parts) (s0 := s0) (v := x1) ?_ ?_; rotate_left; intro hx; clear_value x1; rotate_left; unfold x1; clear x1) | clear_value x1) | assumption | exact Within.refl _ | exact ‹Avoids _ _›.mono (by decide) | apply State.allocMore_keeps | apply State.pageTo_keeps | apply State.publishWithy_keeps | apply State.setPool_keeps | apply State.setRingSt_keeps | apply Within.ite

theorem State.walked_keeps {s0 s : State} (h : Within parts s0 s) {r : Nat} {page : Nat} {addr : Nat} {level2 : Bool} {entry : Option Nat}
    (hm : Avoids parts 1156120733 := by exact ‹Avoids _ _›.mono (by decide)) :
    Within parts s0 (State.walked s r page addr level2 entry) := by
  unfold State.walked
  with_reducible repeat' first | (extract_lets +onlyGivenNames x1; first | (refine Within.cut (m := parts) (s0 := s0) (v := x1) ?_ ?_; rotate_left; intro hx; clear_value x1; rotate_left; unfold x1; clear x1) | clear_value x1) | assumption | exact Within.refl _ | exact ‹Avoids _ _›.mono (by decide) | apply State.allocMore_keeps | apply State.pageFaulted_keeps | apply State.poolToFault_keeps | apply State.portRead_keeps | apply State.setRingSt_keeps | apply State.tlbUse_keeps | apply Within.ite | split

theorem execPoolEnable_keeps {s : State} {who : Who} {p : Fin 64} {v : Word}
    (hm : Avoids parts 1086324872 := by exact ‹Avoids _ _›.mono (by decide)) : EKeeps parts s (execPoolEnable who p v s) := by
  have h : Within parts s s := .refl s
  unfold execPoolEnable
  with_reducible repeat' first | intro _ | (extract_lets +onlyGivenNames x1; first | (refine Within.cut (m := parts) (s0 := s) (v := x1) ?_ ?_; rotate_left; intro hx; clear_value x1; rotate_left; unfold x1; clear x1) | clear_value x1) | assumption | exact Within.refl _ | exact ‹Avoids _ _›.mono (by decide) | apply State.clear_keeps | apply State.raise_keeps | apply State.setPool_keeps | apply State.set_keeps | apply State.viaBus_keeps | apply State.writeReg_keeps | apply Within.ite | apply EKeeps.next | apply EKeeps.ite

theorem State.freeErr_keeps {s0 s : State} (h : Within parts s0 s) {p : Nat}
    (hm : Avoids parts 8 := by exact ‹Avoids _ _›.mono (by decide)) :
    Within parts s0 (State.freeErr s p) := by
  unfold State.freeErr
  with_reducible repeat' first | assumption | exact Within.refl _ | exact ‹Avoids _ _›.mono (by decide) | apply State.bumpSat_keeps | apply State.raise_keeps | apply State.set_keeps

theorem execPoolFreeDb_keeps {s : State} {who : Who} {p : Fin 64} {v : Word}
    (hm : Avoids parts 1153433740 := by exact ‹Avoids _ _›.mono (by decide)) : EKeeps parts s (execPoolFreeDb who p v s) := by
  have h : Within parts s s := .refl s
  unfold execPoolFreeDb
  with_reducible repeat' first | intro _ | (extract_lets +onlyGivenNames x1; first | (refine Within.cut (m := parts) (s0 := s) (v := x1) ?_ ?_; rotate_left; intro hx; clear_value x1; rotate_left; unfold x1; clear x1) | clear_value x1) | assumption | exact Within.refl _ | exact ‹Avoids _ _›.mono (by decide) | apply State.forEach_keeps | apply State.freeErr_keeps | apply State.pageTo_keeps | apply State.tlbDrop_keeps | apply State.viaBus_keeps | apply Within.ite | split | apply EKeeps.next | apply EKeeps.ite

theorem execDisable_keeps {s : State} {who : Who} {p : Fin 64}
    (hm : Avoids parts 1156120732 := by exact ‹Avoids _ _›.mono (by decide)) : EKeeps parts s (execDisable who p s) := by
  have h : Within parts s s := .refl s
  unfold execDisable
  with_reducible repeat' first | intro _ | (extract_lets +onlyGivenNames x1; first | (refine Within.cut (m := parts) (s0 := s) (v := x1) ?_ ?_; rotate_left; intro hx; clear_value x1; rotate_left; unfold x1; clear x1) | clear_value x1) | assumption | exact Within.refl _ | exact ‹Avoids _ _›.mono (by decide) | apply State.forList_keeps | apply State.frontLoss_keeps | apply State.poolLosses_keeps | apply State.poolStopCheck_keeps | apply State.poolToOff_keeps | apply State.set_keeps | apply State.tlbDrop_keeps | apply State.viaBus_keeps | apply Within.ite | apply EKeeps.next | apply EKeeps.ite

theorem State.reclaimEnd_keeps {s0 s : State} (h : Within parts s0 s) {p : Nat}
    (hm : Avoids parts 71303308 := by exact ‹Avoids _ _›.mono (by decide)) :
    Within parts s0 (State.reclaimEnd s p) := by
  unfold State.reclaimEnd
  with_reducible repeat' first | intro _ | (extract_lets +onlyGivenNames x1; first | (refine Within.cut (m := parts) (s0 := s0) (v := x1) ?_ ?_; rotate_left; intro hx; clear_value x1; rotate_left; unfold x1; clear x1) | clear_value x1) | assumption | exact Within.refl _ | exact ‹Avoids _ _›.mono (by decide) | apply State.forList_keeps | apply State.pageTo_keeps | apply State.set_keeps

theorem State.reclaimReads_keeps {s0 s : State} (h : Within parts s0 s) {p : Nat} {ended : Nat} {l : List (RcStep × Nat × Nat)}
    (hm : Avoids parts 1153433741 := by exact ‹Avoids _ _›.mono (by decide)) :
    Within parts s0 (State.reclaimReads s p ended l) := by
  unfold State.reclaimReads
  with_reducible repeat' first | intro _ | (extract_lets +onlyGivenNames x1; first | (refine Within.cut (m := parts) (s0 := s0) (v := x1) ?_ ?_; rotate_left; intro hx; clear_value x1; rotate_left; unfold x1; clear x1) | clear_value x1) | assumption | exact Within.refl _ | exact ‹Avoids _ _›.mono (by decide) | apply State.forList_keeps | apply State.portRead_keeps | apply State.reclaimEnd_keeps | apply State.setPool_keeps | apply Within.ite

theorem State.reclaimIn_keeps {s0 s : State} (h : Within parts s0 s) {p : Nat} {gen : Nat} {step : RcStep} {addr : Nat} {data : Option (List Byte)}
    (hm : Avoids parts 1156120733 := by exact ‹Avoids _ _›.mono (by decide)) :
    Within parts s0 (State.reclaimIn s p gen step addr data) := by
  unfold State.reclaimIn
  with_reducible repeat' first | intro _ | (extract_lets +onlyGivenNames x1; first | (refine Within.cut (m := parts) (s0 := s0) (v := x1) ?_ ?_; rotate_left; intro hx; clear_value x1; rotate_left; unfold x1; clear x1) | clear_value x1) | assumption | exact Within.refl _ | exact ‹Avoids _ _›.mono (by decide) | apply State.poolToFault_keeps | apply State.reclaimReads_keeps | apply State.setPool_keeps | apply Within.ite | split

theorem execReclaim_keeps {s : State} {who : Who} {p : Fin 64} {_named : List Nat}
    (hm : Avoids parts 1153433741 := by exact ‹Avoids _ _›.mono (by decide)) : EKeeps parts s (execReclaim who p _named s) := by
  have h : Within parts s s := .refl s
  unfold execReclaim
  with_reducible repeat' first | intro _ | (extract_lets +onlyGivenNames x1; first | (refine Within.cut (m := parts) (s0 := s) (v := x1) ?_ ?_; rotate_left; intro hx; clear_value x1; rotate_left; unfold x1; clear x1) | clear_value x1) | assumption | exact Within.refl _ | exact ‹Avoids _ _›.mono (by decide) | apply State.reclaimReads_keeps | apply State.setPool_keeps | apply State.set_keeps | apply State.tlbDrop_keeps | apply State.viaBus_keeps | apply Within.ite | apply EKeeps.next | apply EKeeps.ite

end Sys2Proof.Machine
end

