-- ==== Sys2Proof/Laws/KeepsWithy.lean ====
section
/-!
SUPPORT. The operations of Machine/Withy.lean keep what every step keeps.
-/
set_option Elab.async false
namespace Sys2Proof.Machine

set_option linter.tactic.unusedName false

variable {parts : Nat}

theorem State.bodyMeet_keeps {s0 s : State} (h : Within parts s0 s) {x : WRec}
    (hm : Avoids parts 67698844 := by exact ‹Avoids _ _›.mono (by decide)) :
    Within parts s0 (State.bodyMeet s x) := by
  unfold State.bodyMeet
  with_reducible repeat' first | intro _ | (extract_lets +onlyGivenNames x1; first | (refine Within.cut (m := parts) (s0 := s0) (v := x1) ?_ ?_; rotate_left; intro hx; clear_value x1; rotate_left; unfold x1; clear x1) | clear_value x1) | assumption | exact Within.refl _ | exact ‹Avoids _ _›.mono (by decide) | apply State.ctxTouch_keeps | apply State.forList_keeps | apply State.runMeet_keeps | split

theorem State.ringIrqSend_keeps {s0 s : State} (h : Within parts s0 s) {r : Nat}
    (hm : Avoids parts 1082130568 := by exact ‹Avoids _ _›.mono (by decide)) :
    Within parts s0 (State.ringIrqSend s r) := by
  unfold State.ringIrqSend
  with_reducible repeat' first | assumption | exact Within.refl _ | exact ‹Avoids _ _›.mono (by decide) | apply State.girq_keeps | apply State.msix_keeps | apply Within.ite

theorem State.ringIrqDue_keeps {s0 s : State} (h : Within parts s0 s) {r : Nat}
    (hm : Avoids parts 1086324873 := by exact ‹Avoids _ _›.mono (by decide)) :
    Within parts s0 (State.ringIrqDue s r) := by
  unfold State.ringIrqDue
  with_reducible repeat' first | (extract_lets +onlyGivenNames x1; first | (refine Within.cut (m := parts) (s0 := s0) (v := x1) ?_ ?_; rotate_left; intro hx; clear_value x1; rotate_left; unfold x1; clear x1) | clear_value x1) | assumption | exact Within.refl _ | exact ‹Avoids _ _›.mono (by decide) | apply State.clear_keeps | apply State.portRead_keeps | apply State.ringIrqSend_keeps | apply State.setRingSt_keeps | apply Within.ite

theorem State.ringIrqCheck_keeps {s0 s : State} (h : Within parts s0 s) {r : Nat}
    (hm : Avoids parts 1086324873 := by exact ‹Avoids _ _›.mono (by decide)) :
    Within parts s0 (State.ringIrqCheck s r) := by
  unfold State.ringIrqCheck
  with_reducible repeat' first | (extract_lets +onlyGivenNames x1; first | (refine Within.cut (m := parts) (s0 := s0) (v := x1) ?_ ?_; rotate_left; intro hx; clear_value x1; rotate_left; unfold x1; clear x1) | clear_value x1) | assumption | exact Within.refl _ | exact ‹Avoids _ _›.mono (by decide) | apply State.ringIrqDue_keeps | apply Within.ite

theorem State.putHeader_keeps {s0 s : State} (h : Within parts s0 s) {r : Nat} {x : WRec} {flags : Nat} {len : Nat} {page : Nat}
    (hm : Avoids parts 1153433741 := by exact ‹Avoids _ _›.mono (by decide)) :
    Within parts s0 (State.putHeader s r x flags len page) := by
  unfold State.putHeader
  with_reducible repeat' first | (extract_lets +onlyGivenNames x1; first | (refine Within.cut (m := parts) (s0 := s0) (v := x1) ?_ ?_; rotate_left; intro hx; clear_value x1; rotate_left; unfold x1; clear x1) | clear_value x1) | assumption | exact Within.refl _ | exact ‹Avoids _ _›.mono (by decide) | apply State.bump_keeps | apply State.portWrite_keeps | apply State.publishWithy_keeps | apply State.ringIrqCheck_keeps | apply State.set_keeps | apply State.setRingSt_keeps | apply Within.ite | split

theorem State.frontHeader_keeps {s0 s : State} (h : Within parts s0 s) {r : Nat} {flags : Nat} {len : Nat} {page : Nat}
    (hm : Avoids parts 1156120733 := by exact ‹Avoids _ _›.mono (by decide)) :
    Within parts s0 (State.frontHeader s r flags len page) := by
  unfold State.frontHeader
  with_reducible repeat' first | intro _ | (extract_lets +onlyGivenNames x1; first | (refine Within.cut (m := parts) (s0 := s0) (v := x1) ?_ ?_; rotate_left; intro hx; clear_value x1; rotate_left; unfold x1; clear x1) | clear_value x1) | assumption | exact Within.refl _ | exact ‹Avoids _ _›.mono (by decide) | apply State.forList_keeps | apply State.pageTo_keeps | apply State.poolStopCheck_keeps | apply State.putHeader_keeps | apply State.reportOut_keeps | apply State.setRingQueue_keeps | apply State.setRingSt_keeps | split

theorem State.ringFullRecord_keeps {s0 s : State} (h : Within parts s0 s) {r : Nat}
    (hm : Avoids parts 1153433741 := by exact ‹Avoids _ _›.mono (by decide)) :
    Within parts s0 (State.ringFullRecord s r) := by
  unfold State.ringFullRecord
  with_reducible repeat' first | (extract_lets +onlyGivenNames x1; first | (refine Within.cut (m := parts) (s0 := s0) (v := x1) ?_ ?_; rotate_left; intro hx; clear_value x1; rotate_left; unfold x1; clear x1) | clear_value x1) | assumption | exact Within.refl _ | exact ‹Avoids _ _›.mono (by decide) | apply State.putHeader_keeps | apply State.setRingSt_keeps | exact rfl | apply Within.ite | split | apply Within.upd_ringLost

theorem State.fetchFeedGo_keeps {s0 s : State} (h : Within parts s0 s) {f fuel : Nat}
    (hm : Avoids parts 73990300 := by exact ‹Avoids _ _›.mono (by decide)) : Within parts s0 (State.fetchFeedGo f fuel s) := by
  induction fuel generalizing s with
  | zero => exact h
  | succ n ih =>
    unfold State.fetchFeedGo
    repeat' first | (extract_lets +onlyGivenNames x1; first | (refine Within.cut (m := parts) (s0 := s0) (v := x1) ?_ ?_; rotate_left; intro hx; clear_value x1; rotate_left; unfold x1; clear x1) | clear_value x1) | with_reducible assumption | with_reducible apply State.fetchEnd_keeps | with_reducible apply State.queueRec_keeps | with_reducible apply State.setFetch_keeps | with_reducible apply ih | exact ‹Avoids _ _›.mono (by decide) | with_reducible apply Within.ite | split | exact rfl

theorem State.fetchFeed_keeps {s0 s : State} (h : Within parts s0 s) 
    (hm : Avoids parts 73990300 := by exact ‹Avoids _ _›.mono (by decide)) :
    Within parts s0 (State.fetchFeed s) := by
  unfold State.fetchFeed
  with_reducible repeat' first | intro _ | assumption | exact Within.refl _ | exact ‹Avoids _ _›.mono (by decide) | apply State.fetchFeedGo_keeps | apply State.forEach_keeps

theorem State.issuePlain_keeps {s0 s : State} (h : Within parts s0 s) {r : Nat}
    (hm : Avoids parts 1156120733 := by exact ‹Avoids _ _›.mono (by decide)) :
    Within parts s0 (State.issuePlain s r) := by
  unfold State.issuePlain
  with_reducible repeat' first | assumption | exact Within.refl _ | exact ‹Avoids _ _›.mono (by decide) | apply State.frontHeader_keeps

theorem State.issueBody_keeps {s0 s : State} (h : Within parts s0 s) {r : Nat} {b : Body}
    (hm : Avoids parts 1156120733 := by exact ‹Avoids _ _›.mono (by decide)) :
    Within parts s0 (State.issueBody s r b) := by
  unfold State.issueBody
  with_reducible repeat' first | intro _ | (extract_lets +onlyGivenNames x1; first | (refine Within.cut (m := parts) (s0 := s0) (v := x1) ?_ ?_; rotate_left; intro hx; clear_value x1; rotate_left; unfold x1; clear x1) | clear_value x1) | assumption | exact Within.refl _ | exact ‹Avoids _ _›.mono (by decide) | apply State.forList_keeps | apply State.frontHeader_keeps | apply State.portRead_keeps | apply State.portWrite_keeps | apply State.setRingSt_keeps | apply Within.ite

theorem State.served_keeps {s0 s : State} (h : Within parts s0 s) {r : Nat} {c : Nat} {n : Nat}
    (hm : Avoids parts 4194304 := by exact ‹Avoids _ _›.mono (by decide)) :
    Within parts s0 (State.served s r c n) := by
  unfold State.served
  with_reducible repeat' first | (extract_lets +onlyGivenNames x1; first | (refine Within.cut (m := parts) (s0 := s0) (v := x1) ?_ ?_; rotate_left; intro hx; clear_value x1; rotate_left; unfold x1; clear x1) | clear_value x1) | assumption | exact Within.refl _ | exact ‹Avoids _ _›.mono (by decide) | exact rfl | apply Within.ite | apply Within.upd_withy

theorem State.prepareFront_keeps {s0 s : State} (h : Within parts s0 s) {r : Nat}
    (hm : Avoids parts 1156120733 := by exact ‹Avoids _ _›.mono (by decide)) :
    Within parts s0 (State.prepareFront s r) := by
  unfold State.prepareFront
  with_reducible repeat' first | (extract_lets +onlyGivenNames x1; first | (refine Within.cut (m := parts) (s0 := s0) (v := x1) ?_ ?_; rotate_left; intro hx; clear_value x1; rotate_left; unfold x1; clear x1) | clear_value x1) | assumption | exact Within.refl _ | exact ‹Avoids _ _›.mono (by decide) | apply State.allocMore_keeps | apply State.bumpSat_keeps | apply State.dropPages_keeps | apply State.frontLoss_keeps | apply State.poolStopCheck_keeps | apply State.setRingQueue_keeps | apply Within.ite | split

theorem State.writeFront_keeps {s0 s : State} (h : Within parts s0 s) {r : Nat}
    (hm : Avoids parts 1156120733 := by exact ‹Avoids _ _›.mono (by decide)) :
    Within parts s0 (State.writeFront s r) := by
  unfold State.writeFront
  with_reducible repeat' first | (extract_lets +onlyGivenNames x1; first | (refine Within.cut (m := parts) (s0 := s0) (v := x1) ?_ ?_; rotate_left; intro hx; clear_value x1; rotate_left; unfold x1; clear x1) | clear_value x1) | assumption | exact Within.refl _ | exact ‹Avoids _ _›.mono (by decide) | apply State.bodyMeet_keeps | apply State.issueBody_keeps | apply State.issuePlain_keeps | apply State.ringFullRecord_keeps | apply State.served_keeps | apply Within.ite | split

theorem State.issueFront_keeps {s0 s : State} (h : Within parts s0 s) {r : Nat}
    (hm : Avoids parts 1156120733 := by exact ‹Avoids _ _›.mono (by decide)) :
    Within parts s0 (State.issueFront s r) := by
  unfold State.issueFront
  with_reducible repeat' first | (extract_lets +onlyGivenNames x1; first | (refine Within.cut (m := parts) (s0 := s0) (v := x1) ?_ ?_; rotate_left; intro hx; clear_value x1; rotate_left; unfold x1; clear x1) | clear_value x1) | assumption | exact Within.refl _ | exact ‹Avoids _ _›.mono (by decide) | apply State.prepareFront_keeps | apply State.writeFront_keeps | apply Within.ite

theorem execRecordIssue_keeps {s : State} {r : Fin 256}
    (hm : Avoids parts 1156120733 := by exact ‹Avoids _ _›.mono (by decide)) : EKeeps parts s (execRecordIssue r s) := by
  have h : Within parts s s := .refl s
  unfold execRecordIssue
  with_reducible repeat' first | assumption | exact Within.refl _ | exact ‹Avoids _ _›.mono (by decide) | apply State.fetchFeed_keeps | apply State.issueFront_keeps | apply EKeeps.next | apply EKeeps.ite

theorem execPoolWaitExpire_keeps {s : State} {r : Fin 256}
    (hm : Avoids parts 73990300 := by exact ‹Avoids _ _›.mono (by decide)) : EKeeps parts s (execPoolWaitExpire r s) := by
  have h : Within parts s s := .refl s
  unfold execPoolWaitExpire
  with_reducible repeat' first | (extract_lets +onlyGivenNames x1; first | (refine Within.cut (m := parts) (s0 := s) (v := x1) ?_ ?_; rotate_left; intro hx; clear_value x1; rotate_left; unfold x1; clear x1) | clear_value x1) | assumption | exact Within.refl _ | exact ‹Avoids _ _›.mono (by decide) | apply State.fetchFeed_keeps | apply State.frontLoss_keeps | apply Within.ite | split | apply EKeeps.next | apply EKeeps.ite

theorem State.ringOff_keeps {s0 s : State} (h : Within parts s0 s) {r : Nat}
    (hm : Avoids parts 73990300 := by exact ‹Avoids _ _›.mono (by decide)) :
    Within parts s0 (State.ringOff s r) := by
  unfold State.ringOff
  with_reducible repeat' first | intro _ | (extract_lets +onlyGivenNames x1; first | (refine Within.cut (m := parts) (s0 := s0) (v := x1) ?_ ?_; rotate_left; intro hx; clear_value x1; rotate_left; unfold x1; clear x1) | clear_value x1) | assumption | exact Within.refl _ | exact ‹Avoids _ _›.mono (by decide) | apply State.clear_keeps | apply State.dropPages_keeps | apply State.fetchFeed_keeps | apply State.forList_keeps | apply State.poolStopCheck_keeps | apply State.reportOut_keeps | apply State.setRingQueue_keeps | apply State.setRingSt_keeps | exact rfl | apply Within.upd_ringLost

theorem State.ringDisable_keeps {s0 s : State} (h : Within parts s0 s) {r : Nat}
    (hm : Avoids parts 1189675228 := by exact ‹Avoids _ _›.mono (by decide)) :
    Within parts s0 (State.ringDisable s r) := by
  unfold State.ringDisable
  with_reducible repeat' first | assumption | exact Within.refl _ | exact ‹Avoids _ _›.mono (by decide) | apply State.ringOff_keeps | apply State.unitStopNow_keeps

theorem State.ringStart_keeps {s0 s : State} (h : Within parts s0 s) {r : Nat}
    (hm : Avoids parts 1182793932 := by exact ‹Avoids _ _›.mono (by decide)) :
    Within parts s0 (State.ringStart s r) := by
  unfold State.ringStart
  with_reducible repeat' first | (extract_lets +onlyGivenNames x1; first | (refine Within.cut (m := parts) (s0 := s0) (v := x1) ?_ ?_; rotate_left; intro hx; clear_value x1; rotate_left; unfold x1; clear x1) | clear_value x1) | assumption | exact Within.refl _ | exact ‹Avoids _ _›.mono (by decide) | apply State.raise_keeps | apply State.set_keeps | apply State.unitStartNow_keeps

theorem execRingEnable_keeps {s : State} {who : Who} {r : Fin 256} {v : Word}
    (hm : Avoids parts 1189675228 := by exact ‹Avoids _ _›.mono (by decide)) : EKeeps parts s (execRingEnable who r v s) := by
  have h : Within parts s s := .refl s
  unfold execRingEnable
  with_reducible repeat' first | intro _ | (extract_lets +onlyGivenNames x1; first | (refine Within.cut (m := parts) (s0 := s) (v := x1) ?_ ?_; rotate_left; intro hx; clear_value x1; rotate_left; unfold x1; clear x1) | clear_value x1) | assumption | exact Within.refl _ | exact ‹Avoids _ _›.mono (by decide) | apply State.raise_keeps | apply State.ringDisable_keeps | apply State.ringStart_keeps | apply State.unitStopNow_keeps | apply State.viaBus_keeps | apply State.writeReg_keeps | apply Within.ite | apply EKeeps.next | apply EKeeps.ite

theorem execRingHeadDb_keeps {s : State} {who : Who} {r : Fin 256} {v : Word}
    (hm : Avoids parts 1153433741 := by exact ‹Avoids _ _›.mono (by decide)) : EKeeps parts s (execRingHeadDb who r v s) := by
  have h : Within parts s s := .refl s
  unfold execRingHeadDb
  with_reducible repeat' first | intro _ | (extract_lets +onlyGivenNames x1; first | (refine Within.cut (m := parts) (s0 := s) (v := x1) ?_ ?_; rotate_left; intro hx; clear_value x1; rotate_left; unfold x1; clear x1) | clear_value x1) | assumption | exact Within.refl _ | exact ‹Avoids _ _›.mono (by decide) | apply State.clear_keeps | apply State.raise_keeps | apply State.ringFullRecord_keeps | apply State.ringIrqCheck_keeps | apply State.setRingSt_keeps | apply State.set_keeps | apply State.viaBus_keeps | apply Within.ite | apply EKeeps.next | apply EKeeps.ite

theorem execRingIrqTimer_keeps {s : State} {r : Fin 256}
    (hm : Avoids parts 1086324873 := by exact ‹Avoids _ _›.mono (by decide)) : EKeeps parts s (execRingIrqTimer r s) := by
  have h : Within parts s s := .refl s
  unfold execRingIrqTimer
  with_reducible repeat' first | (extract_lets +onlyGivenNames x1; first | (refine Within.cut (m := parts) (s0 := s) (v := x1) ?_ ?_; rotate_left; intro hx; clear_value x1; rotate_left; unfold x1; clear x1) | clear_value x1) | assumption | exact Within.refl _ | exact ‹Avoids _ _›.mono (by decide) | apply State.ringIrqCheck_keeps | apply State.setRingSt_keeps | apply Within.ite | apply EKeeps.next | apply EKeeps.ite

theorem State.bodyBackFail_keeps {s0 s : State} (h : Within parts s0 s) {r : Nat} {addr : Nat}
    (hm : Avoids parts 73990300 := by exact ‹Avoids _ _›.mono (by decide)) :
    Within parts s0 (State.bodyBackFail s r addr) := by
  unfold State.bodyBackFail
  with_reducible repeat' first | assumption | exact Within.refl _ | exact ‹Avoids _ _›.mono (by decide) | apply State.poolToFault_keeps

theorem State.headBackFail_keeps {s0 s : State} (h : Within parts s0 s) {r : Nat}
    (hm : Avoids parts 73990300 := by exact ‹Avoids _ _›.mono (by decide)) :
    Within parts s0 (State.headBackFail s r) := by
  unfold State.headBackFail
  with_reducible repeat' first | assumption | exact Within.refl _ | exact ‹Avoids _ _›.mono (by decide) | apply State.raise_keeps | apply State.ringOff_keeps

theorem State.bodyBackIn_keeps {s0 s : State} (h : Within parts s0 s) {r : Nat}
    (hm : Avoids parts 4194304 := by exact ‹Avoids _ _›.mono (by decide)) :
    Within parts s0 (State.bodyBackIn s r) := by
  unfold State.bodyBackIn
  with_reducible repeat' first | intro _ | (extract_lets +onlyGivenNames x1; first | (refine Within.cut (m := parts) (s0 := s0) (v := x1) ?_ ?_; rotate_left; intro hx; clear_value x1; rotate_left; unfold x1; clear x1) | clear_value x1) | assumption | exact Within.refl _ | exact ‹Avoids _ _›.mono (by decide) | apply State.setRingSt_keeps

theorem State.headBackIn_keeps {s0 s : State} (h : Within parts s0 s) {r : Nat}
    (hm : Avoids parts 4194304 := by exact ‹Avoids _ _›.mono (by decide)) :
    Within parts s0 (State.headBackIn s r) := by
  unfold State.headBackIn
  with_reducible repeat' first | intro _ | (extract_lets +onlyGivenNames x1; first | (refine Within.cut (m := parts) (s0 := s0) (v := x1) ?_ ?_; rotate_left; intro hx; clear_value x1; rotate_left; unfold x1; clear x1) | clear_value x1) | assumption | exact Within.refl _ | exact ‹Avoids _ _›.mono (by decide) | apply State.setRingSt_keeps

theorem execPeerReadBack_keeps {s : State} {r : Fin 256}
    (hm : Avoids parts 1156120733 := by exact ‹Avoids _ _›.mono (by decide)) : EKeeps parts s (execPeerReadBack r s) := by
  have h : Within parts s s := .refl s
  unfold execPeerReadBack
  with_reducible repeat' first | (extract_lets +onlyGivenNames x1; first | (refine Within.cut (m := parts) (s0 := s) (v := x1) ?_ ?_; rotate_left; intro hx; clear_value x1; rotate_left; unfold x1; clear x1) | clear_value x1) | assumption | exact Within.refl _ | exact ‹Avoids _ _›.mono (by decide) | apply State.fetchFeed_keeps | apply State.frontHeader_keeps | apply State.ringIrqSend_keeps | apply State.setRingSt_keeps | apply Within.ite | split | apply EKeeps.next | apply EKeeps.ite

theorem State.ringMeet_keeps {s0 s : State} (h : Within parts s0 s) {v : Nat}
    (hm : Avoids parts 67174540 := by exact ‹Avoids _ _›.mono (by decide)) :
    Within parts s0 (State.ringMeet s v) := by
  unfold State.ringMeet
  with_reducible repeat' first | intro _ | assumption | exact Within.refl _ | exact ‹Avoids _ _›.mono (by decide) | apply State.forList_keeps | apply State.headMeet_keeps

theorem State.fetchList_keeps {s0 s : State} (h : Within parts s0 s) {f : Nat}
    (hm : Avoids parts 73990300 := by exact ‹Avoids _ _›.mono (by decide)) :
    Within parts s0 (State.fetchList s f) := by
  unfold State.fetchList
  with_reducible repeat' first | intro _ | (extract_lets +onlyGivenNames x1; first | (refine Within.cut (m := parts) (s0 := s0) (v := x1) ?_ ?_; rotate_left; intro hx; clear_value x1; rotate_left; unfold x1; clear x1) | clear_value x1) | assumption | exact Within.refl _ | exact ‹Avoids _ _›.mono (by decide) | apply State.ctxTouch_keeps | apply State.fetchFeed_keeps | apply State.forList_keeps | apply State.ringMeet_keeps | apply State.setFetch_keeps

theorem State.fetchPart_keeps {s0 s : State} (h : Within parts s0 s) {f : Nat} {gen : Nat} {off : Nat} {data : Option (List Byte)}
    (hm : Avoids parts 73990300 := by exact ‹Avoids _ _›.mono (by decide)) :
    Within parts s0 (State.fetchPart s f gen off data) := by
  unfold State.fetchPart
  with_reducible repeat' first | (extract_lets +onlyGivenNames x1; first | (refine Within.cut (m := parts) (s0 := s0) (v := x1) ?_ ?_; rotate_left; intro hx; clear_value x1; rotate_left; unfold x1; clear x1) | clear_value x1) | assumption | exact Within.refl _ | exact ‹Avoids _ _›.mono (by decide) | apply State.fetchEnd_keeps | apply State.fetchList_keeps | apply State.setFetch_keeps | apply Within.ite | split

theorem execFbGo_keeps {s : State} {who : Who} {f : Fin 8}
    (hm : Avoids parts 1156120733 := by exact ‹Avoids _ _›.mono (by decide)) : EKeeps parts s (execFbGo who f s) := by
  have h : Within parts s s := .refl s
  unfold execFbGo
  with_reducible repeat' first | intro _ | (extract_lets +onlyGivenNames x1; first | (refine Within.cut (m := parts) (s0 := s) (v := x1) ?_ ?_; rotate_left; intro hx; clear_value x1; rotate_left; unfold x1; clear x1) | clear_value x1) | assumption | exact Within.refl _ | exact ‹Avoids _ _›.mono (by decide) | apply State.clear_keeps | apply State.fetchEnd_keeps | apply State.fetchFeed_keeps | apply State.forList_keeps | apply State.portRead_keeps | apply State.raise_keeps | apply State.ringMeet_keeps | apply State.setFetch_keeps | apply State.set_keeps | apply State.viaBus_keeps | apply Within.ite | apply EKeeps.next | apply EKeeps.ite

theorem execFbAbort_keeps {s : State} {who : Who} {f : Fin 8}
    (hm : Avoids parts 1153433740 := by exact ‹Avoids _ _›.mono (by decide)) : EKeeps parts s (execFbAbort who f s) := by
  have h : Within parts s s := .refl s
  unfold execFbAbort
  with_reducible repeat' first | intro _ | (extract_lets +onlyGivenNames x1; first | (refine Within.cut (m := parts) (s0 := s) (v := x1) ?_ ?_; rotate_left; intro hx; clear_value x1; rotate_left; unfold x1; clear x1) | clear_value x1) | assumption | exact Within.refl _ | exact ‹Avoids _ _›.mono (by decide) | apply State.dropPages_keeps | apply State.fetchEnd_keeps | apply State.poolStopCheck_keeps | apply State.setRingQueue_keeps | apply State.viaBus_keeps | apply Within.ite | split | apply EKeeps.next | apply EKeeps.ite

theorem State.tapEvent_keeps {s0 s : State} (h : Within parts s0 s) {i : Nat} {e : Event}
    (hm : Avoids parts 73990300 := by exact ‹Avoids _ _›.mono (by decide)) :
    Within parts s0 (State.tapEvent s i e) := by
  unfold State.tapEvent
  with_reducible repeat' first | (extract_lets +onlyGivenNames x1; first | (refine Within.cut (m := parts) (s0 := s0) (v := x1) ?_ ?_; rotate_left; intro hx; clear_value x1; rotate_left; unfold x1; clear x1) | clear_value x1) | assumption | exact Within.refl _ | exact ‹Avoids _ _›.mono (by decide) | apply State.bumpSat_keeps | apply State.queueRec_keeps | apply State.ringDrop_keeps | apply Within.ite

theorem State.deliverTaps_keeps {s0 s : State} (h : Within parts s0 s) {e : Event}
    (hm : Avoids parts 73990300 := by exact ‹Avoids _ _›.mono (by decide)) :
    Within parts s0 (State.deliverTaps s e) := by
  unfold State.deliverTaps
  with_reducible repeat' first | intro _ | assumption | exact Within.refl _ | exact ‹Avoids _ _›.mono (by decide) | apply State.deliver_keeps | apply State.forEach_keeps | apply State.tapEvent_keeps | dsimp only [id]

theorem State.withyLink_keeps {s0 s : State} (h : Within parts s0 s)
    (hm : Avoids parts 1086324873 := by exact ‹Avoids _ _›.mono (by decide)) :
    Within parts s0 (State.withyLink s) := by
  unfold State.withyLink
  with_reducible repeat' first | intro _ | (extract_lets +onlyGivenNames x1; first | (refine Within.cut (m := parts) (s0 := s0) (v := x1) ?_ ?_; rotate_left; intro hx; clear_value x1; rotate_left; unfold x1; clear x1) | clear_value x1) | assumption | exact Within.refl _ | exact ‹Avoids _ _›.mono (by decide) | apply State.forEach_keeps | apply State.portPump_keeps | apply State.ringIrqCheck_keeps | apply State.setFlag_keeps | apply Within.ite

theorem State.withyReset_keeps {s0 s : State} (h : Within parts s0 s)
    (hm : Avoids parts 1189675228 := by exact ‹Avoids _ _›.mono (by decide)) :
    Within parts s0 (State.withyReset s) := by
  unfold State.withyReset
  with_reducible repeat' first | intro _ | (extract_lets +onlyGivenNames x1; first | (refine Within.cut (m := parts) (s0 := s0) (v := x1) ?_ ?_; rotate_left; intro hx; clear_value x1; rotate_left; unfold x1; clear x1) | clear_value x1) | assumption | exact Within.refl _ | exact ‹Avoids _ _›.mono (by decide) | apply State.forEach_keeps | apply State.poolToOff_keeps | apply State.raise_keeps | apply State.ringOff_keeps | apply State.setFetch_keeps | apply State.unitClear_keeps | exact rfl | apply Within.ite | apply Within.upd_withy

end Sys2Proof.Machine
end

