-- ==== Sys2Proof/Laws/KeepsDma.lean ====
section
/-!
SUPPORT. The operations of Machine/Dma.lean keep what every step keeps.
-/
set_option Elab.async false
namespace Sys2Proof.Machine

set_option linter.tactic.unusedName false

variable {parts : Nat}

theorem State.setDma_keeps {s0 s : State} (h : Within parts s0 s) {n : Nat} {x : DmaChan}
    (hm : Avoids parts 16777216 := by exact ‹Avoids _ _›.mono (by decide)) :
    Within parts s0 (State.setDma s n x) := by
  unfold State.setDma
  with_reducible repeat' first | assumption | exact Within.refl _ | exact ‹Avoids _ _›.mono (by decide) | exact rfl | apply Within.upd_dma

theorem State.dmaTo_keeps {s0 s : State} (h : Within parts s0 s) {n : Nat} {st : Nat}
    (hm : Avoids parts 1182793932 := by exact ‹Avoids _ _›.mono (by decide)) :
    Within parts s0 (State.dmaTo s n st) := by
  unfold State.dmaTo
  with_reducible repeat' first | (extract_lets +onlyGivenNames x1; first | (refine Within.cut (m := parts) (s0 := s0) (v := x1) ?_ ?_; rotate_left; intro hx; clear_value x1; rotate_left; unfold x1; clear x1) | clear_value x1) | assumption | exact Within.refl _ | exact ‹Avoids _ _›.mono (by decide) | apply State.set_keeps | apply State.unitTo_keeps | apply Within.ite | split

theorem State.publishDma_keeps {s0 s : State} (h : Within parts s0 s) {n : Nat} {cause : Nat} {kind : Nat}
    (hm : Avoids parts 67109004 := by exact ‹Avoids _ _›.mono (by decide)) :
    Within parts s0 (State.publishDma s n cause kind) := by
  unfold State.publishDma
  with_reducible repeat' first | assumption | exact Within.refl _ | exact ‹Avoids _ _›.mono (by decide) | apply State.publish_keeps

theorem State.dmaIrq_keeps {s0 s : State} (h : Within parts s0 s) {n : Nat}
    (hm : Avoids parts 1082130568 := by exact ‹Avoids _ _›.mono (by decide)) :
    Within parts s0 (State.dmaIrq s n) := by
  unfold State.dmaIrq
  with_reducible repeat' first | assumption | exact Within.refl _ | exact ‹Avoids _ _›.mono (by decide) | apply State.girq_keeps | apply State.msix_keeps | apply Within.ite

theorem State.dmaForget_keeps {s0 s : State} (h : Within parts s0 s) {n : Nat}
    (hm : Avoids parts 8388616 := by exact ‹Avoids _ _›.mono (by decide)) :
    Within parts s0 (State.dmaForget s n) := by
  unfold State.dmaForget
  with_reducible repeat' first | intro _ | assumption | exact Within.refl _ | exact ‹Avoids _ _›.mono (by decide) | apply State.setPort_keeps | split

theorem State.dmaStop_keeps {s0 s : State} (h : Within parts s0 s) {n : Nat} {cause : Nat} {addr : Nat}
    (hm : Avoids parts 1182793932 := by exact ‹Avoids _ _›.mono (by decide)) :
    Within parts s0 (State.dmaStop s n cause addr) := by
  unfold State.dmaStop
  with_reducible repeat' first | (extract_lets +onlyGivenNames x1; first | (refine Within.cut (m := parts) (s0 := s0) (v := x1) ?_ ?_; rotate_left; intro hx; clear_value x1; rotate_left; unfold x1; clear x1) | clear_value x1) | assumption | exact Within.refl _ | exact ‹Avoids _ _›.mono (by decide) | apply State.dmaForget_keeps | apply State.dmaIrq_keeps | apply State.dmaTo_keeps | apply State.publishDma_keeps | apply State.set_keeps | apply State.set2_keeps

theorem State.dmaFetch_keeps {s0 s : State} (h : Within parts s0 s) {n : Nat} {addr : Nat} {again : Bool}
    (hm : Avoids parts 1199571149 := by exact ‹Avoids _ _›.mono (by decide)) :
    Within parts s0 (State.dmaFetch s n addr again) := by
  unfold State.dmaFetch
  with_reducible repeat' first | (extract_lets +onlyGivenNames x1; first | (refine Within.cut (m := parts) (s0 := s0) (v := x1) ?_ ?_; rotate_left; intro hx; clear_value x1; rotate_left; unfold x1; clear x1) | clear_value x1) | assumption | exact Within.refl _ | exact ‹Avoids _ _›.mono (by decide) | apply State.dmaStop_keeps | apply State.portRead_keeps | apply State.set2_keeps | apply State.setDma_keeps | apply Within.ite

theorem State.dmaAgain_keeps {s0 s : State} (h : Within parts s0 s) {n : Nat}
    (hm : Avoids parts 1199571149 := by exact ‹Avoids _ _›.mono (by decide)) :
    Within parts s0 (State.dmaAgain s n) := by
  unfold State.dmaAgain
  with_reducible repeat' first | intro _ | (extract_lets +onlyGivenNames x1; first | (refine Within.cut (m := parts) (s0 := s0) (v := x1) ?_ ?_; rotate_left; intro hx; clear_value x1; rotate_left; unfold x1; clear x1) | clear_value x1) | assumption | exact Within.refl _ | exact ‹Avoids _ _›.mono (by decide) | apply State.dmaFetch_keeps | apply Within.ite | split

theorem State.dmaStart_keeps {s0 s : State} (h : Within parts s0 s) {n : Nat}
    (hm : Avoids parts 1199571149 := by exact ‹Avoids _ _›.mono (by decide)) :
    Within parts s0 (State.dmaStart s n) := by
  unfold State.dmaStart
  with_reducible repeat' first | (extract_lets +onlyGivenNames x1; first | (refine Within.cut (m := parts) (s0 := s0) (v := x1) ?_ ?_; rotate_left; intro hx; clear_value x1; rotate_left; unfold x1; clear x1) | clear_value x1) | assumption | exact Within.refl _ | exact ‹Avoids _ _›.mono (by decide) | apply State.dmaFetch_keeps | apply State.dmaTo_keeps | apply State.raise_keeps | apply State.set2_keeps | apply State.setDma_keeps | apply State.set_keeps | apply Within.ite

theorem execDmaStart_keeps {s : State} {who : Who} {n : Fin 16}
    (hm : Avoids parts 1199571149 := by exact ‹Avoids _ _›.mono (by decide)) : EKeeps parts s (execDmaStart who n s) := by
  have h : Within parts s s := .refl s
  unfold execDmaStart
  with_reducible repeat' first | intro _ | assumption | exact Within.refl _ | exact ‹Avoids _ _›.mono (by decide) | apply State.dmaStart_keeps | apply State.viaBus_keeps | apply EKeeps.next | apply EKeeps.ite

theorem State.dmaOff_keeps {s0 s : State} (h : Within parts s0 s) {n : Nat}
    (hm : Avoids parts 1199571148 := by exact ‹Avoids _ _›.mono (by decide)) :
    Within parts s0 (State.dmaOff s n) := by
  unfold State.dmaOff
  with_reducible repeat' first | (extract_lets +onlyGivenNames x1; first | (refine Within.cut (m := parts) (s0 := s0) (v := x1) ?_ ?_; rotate_left; intro hx; clear_value x1; rotate_left; unfold x1; clear x1) | clear_value x1) | assumption | exact Within.refl _ | exact ‹Avoids _ _›.mono (by decide) | apply State.clear_keeps | apply State.dmaForget_keeps | apply State.dmaTo_keeps | apply State.setDma_keeps | apply State.setFree_keeps | apply State.unitStopNow_keeps | apply Within.ite

theorem execDmaDisable_keeps {s : State} {who : Who} {n : Fin 16}
    (hm : Avoids parts 1199571148 := by exact ‹Avoids _ _›.mono (by decide)) : EKeeps parts s (execDmaDisable who n s) := by
  have h : Within parts s s := .refl s
  unfold execDmaDisable
  with_reducible repeat' first | intro _ | assumption | exact Within.refl _ | exact ‹Avoids _ _›.mono (by decide) | apply State.dmaOff_keeps | apply State.viaBus_keeps | apply EKeeps.next | apply EKeeps.ite

theorem execDmaDrainDone_keeps {s : State} {n : Fin 16}
    (hm : Avoids parts 1182793932 := by exact ‹Avoids _ _›.mono (by decide)) : EKeeps parts s (execDmaDrainDone n s) := by
  have h : Within parts s s := .refl s
  unfold execDmaDrainDone
  with_reducible repeat' first | intro _ | assumption | exact Within.refl _ | exact ‹Avoids _ _›.mono (by decide) | apply State.dmaTo_keeps | apply Within.ite | split | apply EKeeps.next | apply EKeeps.ite

theorem State.extDenied_keeps {s0 s : State} (h : Within parts s0 s) 
    (hm : Avoids parts 8 := by exact ‹Avoids _ _›.mono (by decide)) :
    Within parts s0 (State.extDenied s) := by
  unfold State.extDenied
  with_reducible repeat' first | assumption | exact Within.refl _ | exact ‹Avoids _ _›.mono (by decide) | apply State.bumpSat_keeps | apply State.raise_keeps

theorem State.dmaWrite_keeps {s0 s : State} (h : Within parts s0 s) {n : Nat} {d : DmaDesc} {off : Nat} {bs : List Byte} {poison : Bool}
    (hm : Avoids parts 1199636701 := by exact ‹Avoids _ _›.mono (by decide)) :
    Within parts s0 (State.dmaWrite s n d off bs poison) := by
  unfold State.dmaWrite
  with_reducible repeat' first | (extract_lets +onlyGivenNames x1; first | (refine Within.cut (m := parts) (s0 := s0) (v := x1) ?_ ?_; rotate_left; intro hx; clear_value x1; rotate_left; unfold x1; clear x1) | clear_value x1) | assumption | exact Within.refl _ | exact ‹Avoids _ _›.mono (by decide) | apply State.bumpSat_keeps | apply State.dmaStop_keeps | apply State.extDenied_keeps | apply State.memWrite_keeps | apply State.portRead_keeps | apply State.portWrite_keeps | apply State.raise_keeps | apply State.setDma_keeps | apply Within.ite

theorem State.dmaFlow_keeps {s0 s : State} (h : Within parts s0 s) {n gen fuel : Nat}
    (hm : Avoids parts 1199636701 := by exact ‹Avoids _ _›.mono (by decide)) : Within parts s0 (State.dmaFlow s n gen fuel) := by
  induction fuel generalizing s with
  | zero => exact h
  | succ k ih =>
    unfold State.dmaFlow
    dsimp only
    split
    · exact Within.ite h (ih (State.dmaWrite_keeps (State.setDma_keeps h)))
    · exact h

theorem State.dmaTurn_keeps {s0 s : State} (h : Within parts s0 s) {n fuel : Nat}
    (hm : Avoids parts 1199636701 := by exact ‹Avoids _ _›.mono (by decide)) : Within parts s0 (State.dmaTurn s n fuel) := by
  induction fuel generalizing s with
  | zero => exact h
  | succ k ih =>
    unfold State.dmaTurn
    repeat' first | (extract_lets +onlyGivenNames x1; first | (refine Within.cut (m := parts) (s0 := s0) (v := x1) ?_ ?_; rotate_left; intro hx; clear_value x1; rotate_left; unfold x1; clear x1) | clear_value x1) | with_reducible assumption | with_reducible apply State.readMeet_keeps | with_reducible apply State.setDma_keeps | with_reducible apply State.dmaWrite_keeps | with_reducible apply State.portRead_keeps | with_reducible apply ih | exact ‹Avoids _ _›.mono (by decide) | with_reducible apply Within.ite | split | exact rfl

theorem State.dmaServeGo_keeps {s0 s : State} (h : Within parts s0 s) {fuel : Nat}
    (hm : Avoids parts 1199636701 := by exact ‹Avoids _ _›.mono (by decide)) : Within parts s0 (State.dmaServeGo s fuel) := by
  induction fuel generalizing s with
  | zero => exact h
  | succ k ih =>
    unfold State.dmaServeGo
    split
    · exact h
    · exact ih (Within.upd_port (State.dmaTurn_keeps h))

theorem State.dmaServe_keeps {s0 s : State} (h : Within parts s0 s)
    (hm : Avoids parts 1199636701 := by exact ‹Avoids _ _›.mono (by decide)) :
    Within parts s0 (State.dmaServe s) := by
  unfold State.dmaServe
  exact State.dmaServeGo_keeps h

theorem execDmaDescFetched_keeps {s : State} {n : Fin 16}
    (hm : Avoids parts 1199636701 := by exact ‹Avoids _ _›.mono (by decide)) : EKeeps parts s (execDmaDescFetched n s) := by
  have h : Within parts s s := .refl s
  unfold execDmaDescFetched
  with_reducible repeat' first | (extract_lets +onlyGivenNames x1; first | (refine Within.cut (m := parts) (s0 := s) (v := x1) ?_ ?_; rotate_left; intro hx; clear_value x1; rotate_left; unfold x1; clear x1) | clear_value x1) | assumption | exact Within.refl _ | exact ‹Avoids _ _›.mono (by decide) | apply State.dmaAgain_keeps | apply State.dmaFetch_keeps | apply State.dmaServe_keeps | apply State.dmaStop_keeps | apply State.dmaTo_keeps | apply State.setDma_keeps | apply Within.ite | split | apply EKeeps.next | apply EKeeps.ite

theorem execDmaDescComplete_keeps {s : State} {n : Fin 16}
    (hm : Avoids parts 1199571149 := by exact ‹Avoids _ _›.mono (by decide)) : EKeeps parts s (execDmaDescComplete n s) := by
  have h : Within parts s s := .refl s
  unfold execDmaDescComplete
  with_reducible repeat' first | intro _ | (extract_lets +onlyGivenNames x1; first | (refine Within.cut (m := parts) (s0 := s) (v := x1) ?_ ?_; rotate_left; intro hx; clear_value x1; rotate_left; unfold x1; clear x1) | clear_value x1) | assumption | exact Within.refl _ | exact ‹Avoids _ _›.mono (by decide) | apply State.bump_keeps | apply State.dmaAgain_keeps | apply State.dmaFetch_keeps | apply State.dmaIrq_keeps | apply State.dmaTo_keeps | apply State.publishDma_keeps | apply State.set2_keeps | apply State.setDma_keeps | apply Within.ite | split | apply EKeeps.next | apply EKeeps.ite

theorem execAppendDb_keeps {s : State} {who : Who} {n : Fin 16}
    (hm : Avoids parts 1199571149 := by exact ‹Avoids _ _›.mono (by decide)) : EKeeps parts s (execAppendDb who n s) := by
  have h : Within parts s s := .refl s
  unfold execAppendDb
  with_reducible repeat' first | intro _ | assumption | exact Within.refl _ | exact ‹Avoids _ _›.mono (by decide) | apply State.bump_keeps | apply State.dmaAgain_keeps | apply State.viaBus_keeps | apply EKeeps.next | apply EKeeps.ite

theorem State.dmaIn_keeps {s0 s : State} (h : Within parts s0 s) {kind : ReqKind} {addr : Nat} {r : Except Nat (List Byte × Bool)}
    (hm : Avoids parts 1199636701 := by exact ‹Avoids _ _›.mono (by decide)) :
    Within parts s0 (State.dmaIn s kind addr r) := by
  unfold State.dmaIn
  with_reducible repeat' first | (extract_lets +onlyGivenNames x1; first | (refine Within.cut (m := parts) (s0 := s0) (v := x1) ?_ ?_; rotate_left; intro hx; clear_value x1; rotate_left; unfold x1; clear x1) | clear_value x1) | assumption | exact Within.refl _ | exact ‹Avoids _ _›.mono (by decide) | apply State.dmaFlow_keeps | apply State.dmaServe_keeps | apply State.dmaStop_keeps | apply State.setDma_keeps | apply Within.ite | split

theorem State.dmaReset_keeps {s0 s : State} (h : Within parts s0 s)
    (hm : Avoids parts 1199571148 := by exact ‹Avoids _ _›.mono (by decide)) :
    Within parts s0 (State.dmaReset s) := by
  unfold State.dmaReset
  with_reducible repeat' first | intro _ | (extract_lets +onlyGivenNames x1; first | (refine Within.cut (m := parts) (s0 := s0) (v := x1) ?_ ?_; rotate_left; intro hx; clear_value x1; rotate_left; unfold x1; clear x1) | clear_value x1) | assumption | exact Within.refl _ | exact ‹Avoids _ _›.mono (by decide) | apply State.dmaForget_keeps | apply State.dmaTo_keeps | apply State.forEach_keeps | apply State.resetRegs_keeps | apply State.setDma_keeps | apply State.unitClear_keeps

end Sys2Proof.Machine
end

