-- ==== Sys2Proof/Laws/KeepsPower.lean ====
section
/-!
SUPPORT. The operations of Machine/Power.lean keep what every step keeps.
-/
set_option Elab.async false
namespace Sys2Proof.Machine

set_option linter.tactic.unusedName false

variable {parts : Nat}

theorem State.startRefused_keeps {s0 s : State} (h : Within parts s0 s) {u : Nat} {cause : Nat}
    (hm : Avoids parts 1182793932 := by exact ‹Avoids _ _›.mono (by decide)) :
    Within parts s0 (State.startRefused s u cause) := by
  unfold State.startRefused
  with_reducible repeat' first | assumption | exact Within.refl _ | exact ‹Avoids _ _›.mono (by decide) | apply State.unitTo_keeps

theorem State.workAlloc_keeps {s0 s : State} (h : Within parts s0 s) {v : Nat}
    (hm : Avoids parts 65544 := by exact ‹Avoids _ _›.mono (by decide)) :
    OKeeps parts s0 (State.workAlloc s v) := by
  unfold State.workAlloc
  with_reducible repeat' first | (extract_lets +onlyGivenNames x1; first | (refine Within.cut (m := parts) (s0 := s0) (v := x1) ?_ ?_; rotate_left; intro hx; clear_value x1; rotate_left; unfold x1; clear x1) | clear_value x1) | assumption | exact Within.refl _ | exact ‹Avoids _ _›.mono (by decide) | (refine State.alloc_keeps2 ?_ ‹_›) | apply State.giveBack_keeps | apply State.setHist_keeps | apply State.showWork_keeps | apply Within.ite | split | exact OKeeps.none | apply OKeeps.some | apply OKeeps.ite

theorem State.workAlloc_keeps2 {s0 s : State} (h : Within parts s0 s) {v : Nat} {t : State} (e : State.workAlloc s v = some t)
    (hm : Avoids parts 65544 := by exact ‹Avoids _ _›.mono (by decide)) : Within parts s0 t :=
  (State.workAlloc_keeps h).out t e

theorem State.viewRings_keeps {s0 s : State} (h : Within parts s0 s) {v : Nat}
    (hm : Avoids parts 73990300 := by exact ‹Avoids _ _›.mono (by decide)) :
    OKeeps parts s0 (State.viewRings s v) := by
  unfold State.viewRings
  with_reducible repeat' first | intro _ | assumption | exact Within.refl _ | exact ‹Avoids _ _›.mono (by decide) | (refine State.histAlloc_keeps2 ?_ ‹_›) | apply State.histAlloc_keeps | (refine State.workAlloc_keeps2 ?_ ‹_›) | apply State.workAlloc_keeps | apply OKeeps.map | apply OKeeps.bind | exact OKeeps.none | apply OKeeps.some | apply OKeeps.ite

theorem State.viewRings_keeps2 {s0 s : State} (h : Within parts s0 s) {v : Nat} {t : State} (e : State.viewRings s v = some t)
    (hm : Avoids parts 73990300 := by exact ‹Avoids _ _›.mono (by decide)) : Within parts s0 t :=
  (State.viewRings_keeps h (v := v)).out t e

theorem State.viewAlloc_keeps {s0 s : State} (h : Within parts s0 s) {v : Nat}
    (hm : Avoids parts 73990300 := by exact ‹Avoids _ _›.mono (by decide)) :
    PKeeps parts s0 (State.viewAlloc s v) := by
  unfold State.viewAlloc
  with_reducible repeat' first | (extract_lets +onlyGivenNames x1; first | ((first | refine Within.cut (m := parts) (s0 := s0) (v := x1) ?_ ?_ | refine PKeeps.cut (m := parts) (s0 := s0) (p := x1) ?_ ?_); rotate_left; intro hx; clear_value x1; rotate_left; unfold x1; clear x1) | clear_value x1) | assumption | exact Within.refl _ | exact ‹Avoids _ _›.mono (by decide) | apply State.histFree_keeps | (refine State.viewRings_keeps2 ?_ ‹_›) | apply State.viewRings_keeps | apply Within.ite | split | exact PKeeps.fst (by assumption) | exact PKeeps.mk1 (by assumption) | exact PKeeps.of_eq (by assumption) (by assumption) | apply PKeeps.ite | apply PKeeps.mk | apply PKeeps.fst

theorem State.viewAlloc_keeps2 {s0 s : State} (h : Within parts s0 s) {v : Nat} {t : State} {y0 : Bool} (e : State.viewAlloc s v = (t, y0))
    (hm : Avoids parts 73990300 := by exact ‹Avoids _ _›.mono (by decide)) : Within parts s0 t := by
  have := State.viewAlloc_keeps h (v := v)
  rw [e] at this; exact this

theorem State.viewAlloc_keeps1 {s0 s : State} (h : Within parts s0 s) {v : Nat}
    (hm : Avoids parts 73990300 := by exact ‹Avoids _ _›.mono (by decide)) : Within parts s0 (State.viewAlloc s v).1 :=
  State.viewAlloc_keeps h (v := v)

theorem State.viewOn_keeps {s0 s : State} (h : Within parts s0 s) {v : Nat}
    (hm : Avoids parts 1186204364 := by exact ‹Avoids _ _›.mono (by decide)) :
    Within parts s0 (State.viewOn s v) := by
  unfold State.viewOn
  with_reducible repeat' first | intro _ | (extract_lets +onlyGivenNames x1; first | (refine Within.cut (m := parts) (s0 := s0) (v := x1) ?_ ?_; rotate_left; intro hx; clear_value x1; rotate_left; unfold x1; clear x1) | clear_value x1) | assumption | exact Within.refl _ | exact ‹Avoids _ _›.mono (by decide) | apply State.forEach_keeps | apply State.setJview_keeps | apply State.setPlait_keeps | apply State.setReg_keeps | apply State.startViewPos_keeps | apply State.unitTo_keeps | exact rfl | apply Within.ite | split | apply Within.upd_lanes | apply Within.upd_candFree

theorem State.viewStart_keeps {s0 s : State} (h : Within parts s0 s) {v : Nat}
    (hm : Avoids parts 1190988508 := by exact ‹Avoids _ _›.mono (by decide)) :
    Within parts s0 (State.viewStart s v) := by
  unfold State.viewStart
  with_reducible repeat' first | (extract_lets +onlyGivenNames x1; first | ((first | refine Within.cut (m := parts) (s0 := s0) (v := x1) ?_ ?_ | refine PKeeps.cut (m := parts) (s0 := s0) (p := x1) ?_ ?_); rotate_left; intro hx; clear_value x1; rotate_left; unfold x1; clear x1) | clear_value x1) | assumption | exact Within.refl _ | exact ‹Avoids _ _›.mono (by decide) | apply State.geomLoad_keeps | apply State.raise_keeps | apply State.set_keeps | apply State.startRefused_keeps | apply State.unitTo_keeps | apply State.useFree_keeps | (refine State.viewAlloc_keeps2 ?_ ‹_›) | apply State.viewAlloc_keeps1 | apply State.viewAlloc_keeps | apply State.viewOn_keeps | apply Within.ite | split | exact PKeeps.fst (by assumption) | exact PKeeps.mk1 (by assumption) | exact PKeeps.of_eq (by assumption) (by assumption) | apply PKeeps.ite | apply PKeeps.mk | apply PKeeps.fst

theorem State.viewStop_keeps {s0 s : State} (h : Within parts s0 s) {v : Nat}
    (hm : Avoids parts 1191152348 := by exact ‹Avoids _ _›.mono (by decide)) :
    Within parts s0 (State.viewStop s v) := by
  unfold State.viewStop
  with_reducible repeat' first | intro _ | (extract_lets +onlyGivenNames x1; first | (refine Within.cut (m := parts) (s0 := s0) (v := x1) ?_ ?_; rotate_left; intro hx; clear_value x1; rotate_left; unfold x1; clear x1) | clear_value x1) | assumption | exact Within.refl _ | exact ‹Avoids _ _›.mono (by decide) | apply State.forList_keeps | apply State.gateRemoved_keeps | apply State.genKeep_keeps | apply State.learnStop_keeps | apply State.plaitOff_keeps | apply State.segRunEnd_keeps | apply State.setJview_keeps | apply State.setPlait_keeps | apply State.stopViewPos_keeps | apply State.stripeClose_keeps | apply State.switchDrop_keeps | apply State.unitTo_keeps | apply State.zonesAbandon_keeps | apply Within.ite | split

theorem State.classStart_keeps {s0 s : State} (h : Within parts s0 s) {u : Nat}
    (hm : Avoids parts 1207958493 := by exact ‹Avoids _ _›.mono (by decide)) :
    Within parts s0 (State.classStart s u) := by
  unfold State.classStart
  with_reducible repeat' first | (extract_lets +onlyGivenNames x1; first | (refine Within.cut (m := parts) (s0 := s0) (v := x1) ?_ ?_; rotate_left; intro hx; clear_value x1; rotate_left; unfold x1; clear x1) | clear_value x1) | assumption | exact Within.refl _ | exact ‹Avoids _ _›.mono (by decide) | apply State.chainStart_keeps | apply State.dmaStart_keeps | apply State.encEnable_keeps | apply State.epUnitStart_keeps | apply State.laneStart_keeps | apply State.linkStart_keeps | apply State.raise_keeps | apply State.ringStart_keeps | apply State.startRefused_keeps | apply State.viewStart_keeps | apply Within.ite | split

theorem State.classStop_keeps {s0 s : State} (h : Within parts s0 s) {u : Nat}
    (hm : Avoids parts 1207958492 := by exact ‹Avoids _ _›.mono (by decide)) :
    Within parts s0 (State.classStop s u) := by
  unfold State.classStop
  with_reducible repeat' first | (extract_lets +onlyGivenNames x1; first | (refine Within.cut (m := parts) (s0 := s0) (v := x1) ?_ ?_; rotate_left; intro hx; clear_value x1; rotate_left; unfold x1; clear x1) | clear_value x1) | assumption | exact Within.refl _ | exact ‹Avoids _ _›.mono (by decide) | apply State.chainStop_keeps | apply State.clear_keeps | apply State.dmaOff_keeps | apply State.encEnable_keeps | apply State.epUnitStop_keeps | apply State.laneStop_keeps | apply State.linkStop_keeps | apply State.ringDisable_keeps | apply State.unitTo_keeps | apply State.viewStop_keeps | apply Within.ite | split

theorem State.classGate_keeps {s0 s : State} (h : Within parts s0 s) {u : Nat}
    (hm : Avoids parts 1189836956 := by exact ‹Avoids _ _›.mono (by decide)) :
    Within parts s0 (State.classGate s u) := by
  unfold State.classGate
  with_reducible repeat' first | (extract_lets +onlyGivenNames x1; first | (refine Within.cut (m := parts) (s0 := s0) (v := x1) ?_ ?_; rotate_left; intro hx; clear_value x1; rotate_left; unfold x1; clear x1) | clear_value x1) | assumption | exact Within.refl _ | exact ‹Avoids _ _›.mono (by decide) | apply State.clear_keeps | apply State.laneGate_keeps | apply State.linkDown_keeps | split

theorem State.testItem_keeps {s0 s : State} (h : Within parts s0 s) {m : Nat} {i : Nat} {run : Bool}
    (hm : Avoids parts 33554432 := by exact ‹Avoids _ _›.mono (by decide)) :
    Within parts s0 (State.testItem s m i run) := by
  unfold State.testItem
  with_reducible repeat' first | (extract_lets +onlyGivenNames x1; first | (refine Within.cut (m := parts) (s0 := s0) (v := x1) ?_ ?_; rotate_left; intro hx; clear_value x1; rotate_left; unfold x1; clear x1) | clear_value x1) | assumption | exact Within.refl _ | exact ‹Avoids _ _›.mono (by decide) | apply State.setCmd_keeps | apply Within.ite | split

theorem State.schedRefused_keeps {s0 s : State} (h : Within parts s0 s) {x : SchedItem}
    (hm : Avoids parts 1189837020 := by exact ‹Avoids _ _›.mono (by decide)) :
    Within parts s0 (State.schedRefused s x) := by
  unfold State.schedRefused
  with_reducible repeat' first | assumption | exact Within.refl _ | exact ‹Avoids _ _›.mono (by decide) | apply State.classGate_keeps | apply State.testItem_keeps | apply State.unitTo_keeps | split

theorem State.schedule_keeps {s0 s : State} (h : Within parts s0 s) {x : SchedItem}
    (hm : Avoids parts 1189837020 := by exact ‹Avoids _ _›.mono (by decide)) :
    Within parts s0 (State.schedule s x) := by
  unfold State.schedule
  with_reducible repeat' first | assumption | exact Within.refl _ | exact ‹Avoids _ _›.mono (by decide) | apply State.schedRefused_keeps | apply Within.ite | exact rfl | apply Within.upd_skep

theorem State.unitBegin_keeps {s0 s : State} (h : Within parts s0 s) {u : Nat}
    (hm : Avoids parts 1189837020 := by exact ‹Avoids _ _›.mono (by decide)) :
    Within parts s0 (State.unitBegin s u) := by
  unfold State.unitBegin
  with_reducible repeat' first | assumption | exact Within.refl _ | exact ‹Avoids _ _›.mono (by decide) | apply State.linkStart_keeps | apply State.schedule_keeps | apply State.unitTo_keeps | apply Within.ite

theorem State.schedRun_keeps {s0 s : State} (h : Within parts s0 s) {x : SchedItem}
    (hm : Avoids parts 1610611677 := by exact ‹Avoids _ _›.mono (by decide)) :
    Within parts s0 (State.schedRun s x) := by
  unfold State.schedRun
  with_reducible repeat' first | assumption | exact Within.refl _ | exact ‹Avoids _ _›.mono (by decide) | apply State.classGate_keeps | apply State.classStart_keeps | apply State.set_keeps | apply State.testItem_keeps | apply State.unitTo_keeps | exact rfl | apply Within.ite | split | apply Within.upd_therm | apply Within.upd_boot

theorem State.testsEnd_keeps {s0 s : State} (h : Within parts s0 s)
    (hm : Avoids parts 33554432 := by exact ‹Avoids _ _›.mono (by decide)) :
    Within parts s0 (State.testsEnd s) := by
  unfold State.testsEnd
  with_reducible repeat' first | intro _ | assumption | exact Within.refl _ | exact ‹Avoids _ _›.mono (by decide) | exact rfl | apply Within.upd_skep

theorem execSchedulerTick_keeps {s : State}
    (hm : Avoids parts 1610611677 := by exact ‹Avoids _ _›.mono (by decide)) : EKeeps parts s (execSchedulerTick s) := by
  have h : Within parts s s := .refl s
  unfold execSchedulerTick
  with_reducible repeat' first | intro _ | (extract_lets +onlyGivenNames x1; first | (refine Within.cut (m := parts) (s0 := s) (v := x1) ?_ ?_; rotate_left; intro hx; clear_value x1; rotate_left; unfold x1; clear x1) | clear_value x1) | assumption | exact Within.refl _ | exact ‹Avoids _ _›.mono (by decide) | apply State.schedRun_keeps | apply State.testsEnd_keeps | exact rfl | apply Within.ite | split | apply Within.upd_skep | apply EKeeps.next | apply EKeeps.ite

end Sys2Proof.Machine
end

