-- ==== Sys2Proof/Laws/KeepsUnitCmds.lean ====
section
/-!
SUPPORT. The operations of Machine/UnitCmds.lean keep what every step keeps.
-/
set_option Elab.async false
namespace Sys2Proof.Machine

set_option linter.tactic.unusedName false

variable {parts : Nat}

theorem execHelloCmd_keeps {s : State} {m : Fin 1024}
    (hm : Avoids parts 33554432 := by exact ‹Avoids _ _›.mono (by decide)) : EKeeps parts s (execHelloCmd m s) := by
  have h : Within parts s s := .refl s
  unfold execHelloCmd
  with_reducible repeat' first | intro _ | (extract_lets +onlyGivenNames x1; first | (refine Within.cut (m := parts) (s0 := s) (v := x1) ?_ ?_; rotate_left; intro hx; clear_value x1; rotate_left; unfold x1; clear x1) | clear_value x1) | assumption | exact Within.refl _ | exact ‹Avoids _ _›.mono (by decide) | apply State.skepAnswer_keeps | apply State.skepRun_keeps | apply State.unsupported_keeps | apply Within.ite | exact rfl | apply Within.upd_skep | apply EKeeps.next | apply EKeeps.ite

theorem State.unitAnswer_keeps {s0 s : State} (h : Within parts s0 s) {m : Nat} {status : Nat} {u : Nat}
    (hm : Avoids parts 33554432 := by exact ‹Avoids _ _›.mono (by decide)) :
    Within parts s0 (State.unitAnswer s m status u) := by
  unfold State.unitAnswer
  with_reducible repeat' first | assumption | exact Within.refl _ | exact ‹Avoids _ _›.mono (by decide) | apply State.skepAnswer_keeps

theorem execUnitGet_keeps {s : State} {m : Fin 1024}
    (hm : Avoids parts 33554432 := by exact ‹Avoids _ _›.mono (by decide)) : EKeeps parts s (execUnitGet m s) := by
  have h : Within parts s s := .refl s
  unfold execUnitGet
  with_reducible repeat' first | intro _ | (extract_lets +onlyGivenNames x1; first | (refine Within.cut (m := parts) (s0 := s) (v := x1) ?_ ?_; rotate_left; intro hx; clear_value x1; rotate_left; unfold x1; clear x1) | clear_value x1) | assumption | exact Within.refl _ | exact ‹Avoids _ _›.mono (by decide) | apply State.skepAnswer_keeps | apply State.skepRun_keeps | apply State.unitAnswer_keeps | apply Within.ite | apply EKeeps.next | apply EKeeps.ite

theorem State.epsStop_keeps {s0 s : State} (h : Within parts s0 s) {f : Nat}
    (hm : Avoids parts 1189834972 := by exact ‹Avoids _ _›.mono (by decide)) :
    Within parts s0 (State.epsStop s f) := by
  unfold State.epsStop
  with_reducible repeat' first | intro _ | assumption | exact Within.refl _ | exact ‹Avoids _ _›.mono (by decide) | apply State.epUnitStop_keeps | apply State.forList_keeps

theorem State.cascade_keeps {s0 s : State} (h : Within parts s0 s) {u : Nat}
    (hm : Avoids parts 1189834972 := by exact ‹Avoids _ _›.mono (by decide)) :
    Within parts s0 (State.cascade s u) := by
  unfold State.cascade
  with_reducible repeat' first | (extract_lets +onlyGivenNames x1; first | (refine Within.cut (m := parts) (s0 := s0) (v := x1) ?_ ?_; rotate_left; intro hx; clear_value x1; rotate_left; unfold x1; clear x1) | clear_value x1) | assumption | exact Within.refl _ | exact ‹Avoids _ _›.mono (by decide) | apply State.epsStop_keeps | apply State.linkStop_keeps | apply Within.ite | split

theorem State.unitWait_keeps {s0 s : State} (h : Within parts s0 s) {m : Nat} {u : Nat} {full : Bool}
    (hm : Avoids parts 33554432 := by exact ‹Avoids _ _›.mono (by decide)) :
    Within parts s0 (State.unitWait s m u full) := by
  unfold State.unitWait
  with_reducible repeat' first | assumption | exact Within.refl _ | exact ‹Avoids _ _›.mono (by decide) | apply State.setCmd_keeps

theorem State.unitSet_keeps {s0 s : State} (h : Within parts s0 s) {m : Nat} {op : Nat} {f : Nat → Bool → State → State} (h_f : ∀ x0 x1 t, Within parts s0 t → Within parts s0 (f x0 x1 t))
    (hm : Avoids parts 33554432 := by exact ‹Avoids _ _›.mono (by decide)) :
    Within parts s0 (State.unitSet s m op f) := by
  unfold State.unitSet
  with_reducible repeat' first | intro _ | (extract_lets +onlyGivenNames x1; first | (refine Within.cut (m := parts) (s0 := s0) (v := x1) ?_ ?_; rotate_left; intro hx; clear_value x1; rotate_left; unfold x1; clear x1) | clear_value x1) | assumption | exact Within.refl _ | exact ‹Avoids _ _›.mono (by decide) | apply State.skepAnswer_keeps | apply State.skepRun_keeps | apply State.unitAnswer_keeps | apply h_f | apply Within.ite | split

theorem execUnitSetOn_keeps {s : State} {m : Fin 1024}
    (hm : Avoids parts 1189837020 := by exact ‹Avoids _ _›.mono (by decide)) : EKeeps parts s (execUnitSetOn m s) := by
  have h : Within parts s s := .refl s
  unfold execUnitSetOn
  with_reducible repeat' first | intro _ | (extract_lets +onlyGivenNames x1; first | (refine Within.cut (m := parts) (s0 := s) (v := x1) ?_ ?_; rotate_left; intro hx; clear_value x1; rotate_left; unfold x1; clear x1) | clear_value x1) | assumption | exact Within.refl _ | exact ‹Avoids _ _›.mono (by decide) | apply State.setUnit_keeps | apply State.skepAnswer_keeps | apply State.unitAnswer_keeps | apply State.unitBegin_keeps | apply State.unitSet_keeps | apply State.unitWait_keeps | split | apply EKeeps.next | apply EKeeps.ite

theorem State.deferEnd_keeps {s0 s : State} (h : Within parts s0 s) {u : Nat}
    (hm : Avoids parts 33554496 := by exact ‹Avoids _ _›.mono (by decide)) :
    Within parts s0 (State.deferEnd s u) := by
  unfold State.deferEnd
  with_reducible repeat' first | intro _ | (extract_lets +onlyGivenNames x1; first | (refine Within.cut (m := parts) (s0 := s0) (v := x1) ?_ ?_; rotate_left; intro hx; clear_value x1; rotate_left; unfold x1; clear x1) | clear_value x1) | assumption | exact Within.refl _ | exact ‹Avoids _ _›.mono (by decide) | apply State.setUnit_keeps | exact rfl | apply Within.upd_skep

theorem execUnitSetOff_keeps {s : State} {m : Fin 1024}
    (hm : Avoids parts 1207958492 := by exact ‹Avoids _ _›.mono (by decide)) : EKeeps parts s (execUnitSetOff m s) := by
  have h : Within parts s s := .refl s
  unfold execUnitSetOff
  with_reducible repeat' first | intro _ | (extract_lets +onlyGivenNames x1; first | (refine Within.cut (m := parts) (s0 := s) (v := x1) ?_ ?_; rotate_left; intro hx; clear_value x1; rotate_left; unfold x1; clear x1) | clear_value x1) | assumption | exact Within.refl _ | exact ‹Avoids _ _›.mono (by decide) | apply State.cascade_keeps | apply State.classStop_keeps | apply State.deferEnd_keeps | apply State.unitAnswer_keeps | apply State.unitSet_keeps | apply State.unitWait_keeps | apply Within.ite | split | apply EKeeps.next | apply EKeeps.ite

theorem execUnitSetRestart_keeps {s : State} {m : Fin 1024}
    (hm : Avoids parts 1189837020 := by exact ‹Avoids _ _›.mono (by decide)) : EKeeps parts s (execUnitSetRestart m s) := by
  have h : Within parts s s := .refl s
  unfold execUnitSetRestart
  with_reducible repeat' first | intro _ | (extract_lets +onlyGivenNames x1; first | (refine Within.cut (m := parts) (s0 := s) (v := x1) ?_ ?_; rotate_left; intro hx; clear_value x1; rotate_left; unfold x1; clear x1) | clear_value x1) | assumption | exact Within.refl _ | exact ‹Avoids _ _›.mono (by decide) | apply State.laneRestart_keeps | apply State.skepAnswer_keeps | apply State.unitAnswer_keeps | apply State.unitSet_keeps | apply State.unitWait_keeps | apply Within.ite | apply EKeeps.next | apply EKeeps.ite

theorem execSummary_keeps {s : State} {m : Fin 1024}
    (hm : Avoids parts 1115684873 := by exact ‹Avoids _ _›.mono (by decide)) : EKeeps parts s (execSummary m s) := by
  have h : Within parts s s := .refl s
  unfold execSummary
  with_reducible repeat' first | intro _ | (extract_lets +onlyGivenNames x1; first | (refine Within.cut (m := parts) (s0 := s) (v := x1) ?_ ?_; rotate_left; intro hx; clear_value x1; rotate_left; unfold x1; clear x1) | clear_value x1) | assumption | exact Within.refl _ | exact ‹Avoids _ _›.mono (by decide) | apply State.skepAnswer_keeps | apply State.skepData_keeps | apply State.skepRun_keeps | exact rfl | apply Within.ite | split | apply Within.upd_skep | apply EKeeps.next | apply EKeeps.ite

theorem execHeadInfo_keeps {s : State} {m : Fin 1024}
    (hm : Avoids parts 33554432 := by exact ‹Avoids _ _›.mono (by decide)) : EKeeps parts s (execHeadInfo m s) := by
  have h : Within parts s s := .refl s
  unfold execHeadInfo
  with_reducible repeat' first | intro _ | (extract_lets +onlyGivenNames x1; first | (refine Within.cut (m := parts) (s0 := s) (v := x1) ?_ ?_; rotate_left; intro hx; clear_value x1; rotate_left; unfold x1; clear x1) | clear_value x1) | assumption | exact Within.refl _ | exact ‹Avoids _ _›.mono (by decide) | apply State.skepAnswer_keeps | apply State.skepRun_keeps | apply Within.ite | apply EKeeps.next | apply EKeeps.ite

theorem execLightInfo_keeps {s : State} {m : Fin 1024}
    (hm : Avoids parts 33554432 := by exact ‹Avoids _ _›.mono (by decide)) : EKeeps parts s (execLightInfo m s) := by
  have h : Within parts s s := .refl s
  unfold execLightInfo
  with_reducible repeat' first | intro _ | (extract_lets +onlyGivenNames x1; first | (refine Within.cut (m := parts) (s0 := s) (v := x1) ?_ ?_; rotate_left; intro hx; clear_value x1; rotate_left; unfold x1; clear x1) | clear_value x1) | assumption | exact Within.refl _ | exact ‹Avoids _ _›.mono (by decide) | apply State.skepAnswer_keeps | apply State.skepRun_keeps | apply Within.ite | split | apply EKeeps.next | apply EKeeps.ite

theorem execPatchInfo_keeps {s : State} {m : Fin 1024}
    (hm : Avoids parts 33554432 := by exact ‹Avoids _ _›.mono (by decide)) : EKeeps parts s (execPatchInfo m s) := by
  have h : Within parts s s := .refl s
  unfold execPatchInfo
  with_reducible repeat' first | intro _ | (extract_lets +onlyGivenNames x1; first | (refine Within.cut (m := parts) (s0 := s) (v := x1) ?_ ?_; rotate_left; intro hx; clear_value x1; rotate_left; unfold x1; clear x1) | clear_value x1) | assumption | exact Within.refl _ | exact ‹Avoids _ _›.mono (by decide) | apply State.skepAnswer_keeps | apply State.skepRun_keeps | apply EKeeps.next | apply EKeeps.ite

theorem execSelfTest_keeps {s : State} {m : Fin 1024} {failed : Nat} {first : Nat}
    (hm : Avoids parts 1189837020 := by exact ‹Avoids _ _›.mono (by decide)) : EKeeps parts s (execSelfTest m failed first s) := by
  have h : Within parts s s := .refl s
  unfold execSelfTest
  with_reducible repeat' first | intro _ | (extract_lets +onlyGivenNames x1; first | (refine Within.cut (m := parts) (s0 := s) (v := x1) ?_ ?_; rotate_left; intro hx; clear_value x1; rotate_left; unfold x1; clear x1) | clear_value x1) | assumption | exact Within.refl _ | exact ‹Avoids _ _›.mono (by decide) | apply State.forEach_keeps | apply State.schedule_keeps | apply State.setCmd_keeps | apply State.skepAnswer_keeps | apply State.skepRun_keeps | apply State.testItem_keeps | apply Within.ite | apply EKeeps.next | apply EKeeps.ite

theorem State.smbWrite_keeps {s0 s : State} (h : Within parts s0 s) {pecOk : Bool} {f : State → State} (h_f : ∀  t, Within parts s0 t → Within parts s0 (f  t))
    (hm : Avoids parts 8 := by exact ‹Avoids _ _›.mono (by decide)) :
    Within parts s0 (State.smbWrite s pecOk f) := by
  unfold State.smbWrite
  with_reducible repeat' first | intro _ | assumption | exact Within.refl _ | exact ‹Avoids _ _›.mono (by decide) | apply State.bumpSat_keeps | apply h_f | apply Within.ite

theorem State.smbTo_keeps {s0 s : State} (h : Within parts s0 s) {off : Nat}
    (hm : Avoids parts 33554432 := by exact ‹Avoids _ _›.mono (by decide)) :
    Within parts s0 (State.smbTo s off) := by
  unfold State.smbTo
  with_reducible repeat' first | assumption | exact Within.refl _ | exact ‹Avoids _ _›.mono (by decide) | exact rfl | apply Within.upd_skep

theorem execSmbSetOffset_keeps {s : State} {c : SmbCmd} {pecOk : Bool}
    (hm : Avoids parts 1115685000 := by exact ‹Avoids _ _›.mono (by decide)) : EKeeps parts s (execSmbSetOffset c pecOk s) := by
  have h : Within parts s s := .refl s
  unfold execSmbSetOffset
  with_reducible repeat' first | intro _ | assumption | exact Within.refl _ | exact ‹Avoids _ _›.mono (by decide) | apply State.boxRing_keeps | apply State.smbTo_keeps | apply State.smbWrite_keeps | split | apply EKeeps.next | apply EKeeps.ite

theorem execSmbBlockWrite_keeps {s : State} {bytes : List Byte} {pecOk : Bool}
    (hm : Avoids parts 33554440 := by exact ‹Avoids _ _›.mono (by decide)) : EKeeps parts s (execSmbBlockWrite bytes pecOk s) := by
  have h : Within parts s s := .refl s
  unfold execSmbBlockWrite
  with_reducible repeat' first | intro _ | (extract_lets +onlyGivenNames x1; first | (refine Within.cut (m := parts) (s0 := s) (v := x1) ?_ ?_; rotate_left; intro hx; clear_value x1; rotate_left; unfold x1; clear x1) | clear_value x1) | assumption | exact Within.refl _ | exact ‹Avoids _ _›.mono (by decide) | apply State.raise_keeps | apply State.setBox_keeps | apply State.smbTo_keeps | apply State.smbWrite_keeps | apply Within.ite | apply EKeeps.next | apply EKeeps.ite

theorem execSmbBlockRead_keeps {s : State} {n : Fin 33}
    (hm : Avoids parts 1107296256 := by exact ‹Avoids _ _›.mono (by decide)) : EKeeps parts s (execSmbBlockRead n s) := by
  have h : Within parts s s := .refl s
  unfold execSmbBlockRead
  with_reducible repeat' first | (extract_lets +onlyGivenNames x1; first | (refine Within.cut (m := parts) (s0 := s) (v := x1) ?_ ?_; rotate_left; intro hx; clear_value x1; rotate_left; unfold x1; clear x1) | clear_value x1) | assumption | exact Within.refl _ | exact ‹Avoids _ _›.mono (by decide) | apply State.emit_keeps | apply State.smbTo_keeps | apply Within.ite | apply EKeeps.next | apply EKeeps.ite

theorem execSmbReadStatus_keeps {s : State} 
    (hm : Avoids parts 1073741824 := by exact ‹Avoids _ _›.mono (by decide)) : EKeeps parts s (execSmbReadStatus s) := by
  have h : Within parts s s := .refl s
  unfold execSmbReadStatus
  with_reducible repeat' first | assumption | exact Within.refl _ | exact ‹Avoids _ _›.mono (by decide) | apply State.emit_keeps | apply Within.ite | apply EKeeps.next | apply EKeeps.ite

theorem State.pathCheck_keeps {s0 s : State} (h : Within parts s0 s) {u : Nat}
    (hm : Avoids parts 1189837020 := by exact ‹Avoids _ _›.mono (by decide)) :
    Within parts s0 (State.pathCheck s u) := by
  unfold State.pathCheck
  with_reducible repeat' first | (extract_lets +onlyGivenNames x1; first | (refine Within.cut (m := parts) (s0 := s0) (v := x1) ?_ ?_; rotate_left; intro hx; clear_value x1; rotate_left; unfold x1; clear x1) | clear_value x1) | assumption | exact Within.refl _ | exact ‹Avoids _ _›.mono (by decide) | apply State.classGate_keeps | apply State.epUnitFault_keeps | apply State.setUnit_keeps | apply State.unitTo_keeps | apply Within.ite

theorem execUnitPathCheck_keeps {s : State} {moving : List Nat}
    (hm : Avoids parts 1189837020 := by exact ‹Avoids _ _›.mono (by decide)) : EKeeps parts s (execUnitPathCheck moving s) := by
  have h : Within parts s s := .refl s
  unfold execUnitPathCheck
  with_reducible repeat' first | intro _ | (extract_lets +onlyGivenNames x1; first | (refine Within.cut (m := parts) (s0 := s) (v := x1) ?_ ?_; rotate_left; intro hx; clear_value x1; rotate_left; unfold x1; clear x1) | clear_value x1) | assumption | exact Within.refl _ | exact ‹Avoids _ _›.mono (by decide) | apply State.classGate_keeps | apply State.forList_keeps | apply State.pathCheck_keeps | apply State.unitFault_keeps | apply Within.ite | apply EKeeps.next | apply EKeeps.ite

end Sys2Proof.Machine
end

