-- ==== Sys2Proof/Laws/KeepsThermal.lean ====
section
/-!
SUPPORT. The operations of Machine/Thermal.lean keep what every step keeps.
-/
set_option Elab.async false
namespace Sys2Proof.Machine

set_option linter.tactic.unusedName false

variable {parts : Nat}

theorem State.publishTherm_keeps {s0 s : State} (h : Within parts s0 s) {sensor : Nat} {kind : Nat}
    (hm : Avoids parts 1149239436 := by exact ‹Avoids _ _›.mono (by decide)) :
    Within parts s0 (State.publishTherm s sensor kind) := by
  unfold State.publishTherm
  with_reducible repeat' first | (extract_lets +onlyGivenNames x1; first | (refine Within.cut (m := parts) (s0 := s0) (v := x1) ?_ ?_; rotate_left; intro hx; clear_value x1; rotate_left; unfold x1; clear x1) | clear_value x1) | assumption | exact Within.refl _ | exact ‹Avoids _ _›.mono (by decide) | apply State.girqBoth_keeps | apply State.publish_keeps | apply State.sensor_keeps | apply Within.ite

theorem State.stopHold_keeps {s0 s : State} (h : Within parts s0 s) {units : List Nat}
    (hm : Avoids parts 201326592 := by exact ‹Avoids _ _›.mono (by decide)) :
    Within parts s0 (State.stopHold s units) := by
  unfold State.stopHold
  with_reducible repeat' first | assumption | exact Within.refl _ | exact ‹Avoids _ _›.mono (by decide) | exact rfl | apply Within.upd_nvm_therm | apply Within.upd_nvm | apply Within.upd_therm

theorem State.dataStop_keeps {s0 s : State} (h : Within parts s0 s)
    (hm : Avoids parts 1325365468 := by exact ‹Avoids _ _›.mono (by decide)) :
    Within parts s0 (State.dataStop s) := by
  unfold State.dataStop
  with_reducible repeat' first | intro _ | (extract_lets +onlyGivenNames x1; first | (refine Within.cut (m := parts) (s0 := s0) (v := x1) ?_ ?_; rotate_left; intro hx; clear_value x1; rotate_left; unfold x1; clear x1) | clear_value x1) | assumption | exact Within.refl _ | exact ‹Avoids _ _›.mono (by decide) | apply State.bump_keeps | apply State.ctxFlush_keeps | apply State.forEach_keeps | apply State.forList_keeps | apply State.laneGate_keeps | apply State.laneSettle_keeps | apply State.linkDown_keeps | apply State.publishTherm_keeps | apply State.raise_keeps | apply State.segRunEnd_keeps | apply State.set2_keeps | apply State.setPlait_keeps | apply State.stopHold_keeps | apply State.unitTo_keeps | apply Within.ite

theorem State.lightLatch_keeps {s0 s : State} (h : Within parts s0 s)
    (hm : Avoids parts 1182957772 := by exact ‹Avoids _ _›.mono (by decide)) :
    Within parts s0 (State.lightLatch s) := by
  unfold State.lightLatch
  with_reducible repeat' first | intro _ | (extract_lets +onlyGivenNames x1; first | (refine Within.cut (m := parts) (s0 := s0) (v := x1) ?_ ?_; rotate_left; intro hx; clear_value x1; rotate_left; unfold x1; clear x1) | clear_value x1) | assumption | exact Within.refl _ | exact ‹Avoids _ _›.mono (by decide) | apply State.chainLatchFault_keeps | apply State.forEach_keeps | apply State.log_keeps | apply State.publishTherm_keeps | apply State.raise_keeps | apply State.requestPlain_keeps | apply State.unitFault_keeps | apply Within.ite

theorem State.sensor_keeps {s0 s : State} (h : Within parts s0 s) {i : Nat} {t : Int}
    (hm : Avoids parts 1283457164 := by exact ‹Avoids _ _›.mono (by decide)) :
    Within parts s0 (State.sensor s i t) := by
  unfold State.sensor
  with_reducible repeat' first | (extract_lets +onlyGivenNames x1; first | (refine Within.cut (m := parts) (s0 := s0) (v := x1) ?_ ?_; rotate_left; intro hx; clear_value x1; rotate_left; unfold x1; clear x1) | clear_value x1) | assumption | exact Within.refl _ | exact ‹Avoids _ _›.mono (by decide) | apply State.publishTherm_keeps | apply State.raise_keeps | apply State.setFlag_keeps | apply State.setInt_keeps | apply Within.ite | exact rfl | apply Within.upd_therm

theorem State.throttle_keeps {s0 s : State} (h : Within parts s0 s) {on : Bool}
    (hm : Avoids parts 1182793868 := by exact ‹Avoids _ _›.mono (by decide)) :
    Within parts s0 (State.throttle s on) := by
  unfold State.throttle
  with_reducible repeat' first | (extract_lets +onlyGivenNames x1; first | (refine Within.cut (m := parts) (s0 := s0) (v := x1) ?_ ?_; rotate_left; intro hx; clear_value x1; rotate_left; unfold x1; clear x1) | clear_value x1) | assumption | exact Within.refl _ | exact ‹Avoids _ _›.mono (by decide) | apply State.bump_keeps | apply State.publishCmp_keeps | apply State.publishTherm_keeps | apply State.set_keeps | apply State.setFlag_keeps | apply Within.ite

theorem State.thermAct_keeps {s0 s : State} (h : Within parts s0 s) 
    (hm : Avoids parts 1325398236 := by exact ‹Avoids _ _›.mono (by decide)) :
    Within parts s0 (State.thermAct s) := by
  unfold State.thermAct
  with_reducible repeat' first | (extract_lets +onlyGivenNames x1; first | (refine Within.cut (m := parts) (s0 := s0) (v := x1) ?_ ?_; rotate_left; intro hx; clear_value x1; rotate_left; unfold x1; clear x1) | clear_value x1) | assumption | exact Within.refl _ | exact ‹Avoids _ _›.mono (by decide) | apply State.clear_keeps | apply State.dataStop_keeps | apply State.lightLatch_keeps | apply State.publishTherm_keeps | apply State.raise_keeps | apply State.throttle_keeps | apply Within.ite

theorem execSensorSample_keeps {s : State} {temps : List Int}
    (hm : Avoids parts 1325398236 := by exact ‹Avoids _ _›.mono (by decide)) : EKeeps parts s (execSensorSample temps s) := by
  have h : Within parts s s := .refl s
  unfold execSensorSample
  with_reducible repeat' first | intro _ | (extract_lets +onlyGivenNames x1; first | (refine Within.cut (m := parts) (s0 := s) (v := x1) ?_ ?_; rotate_left; intro hx; clear_value x1; rotate_left; unfold x1; clear x1) | clear_value x1) | assumption | exact Within.refl _ | exact ‹Avoids _ _›.mono (by decide) | apply State.forEach_keeps | apply State.sensor_keeps | apply State.set_keeps | apply State.setFlag_keeps | apply State.setInt_keeps | apply State.thermAct_keeps | split | exact rfl | apply Within.upd_therm | apply EKeeps.next | apply EKeeps.ite

theorem execStackTempRead_keeps {s : State} {t0 : Int} {t1 : Int}
    (hm : Avoids parts 1325365468 := by exact ‹Avoids _ _›.mono (by decide)) : EKeeps parts s (execStackTempRead t0 t1 s) := by
  have h : Within parts s s := .refl s
  unfold execStackTempRead
  with_reducible repeat' first | (extract_lets +onlyGivenNames x1; first | (refine Within.cut (m := parts) (s0 := s) (v := x1) ?_ ?_; rotate_left; intro hx; clear_value x1; rotate_left; unfold x1; clear x1) | clear_value x1) | assumption | exact Within.refl _ | exact ‹Avoids _ _›.mono (by decide) | apply State.dataStop_keeps | apply State.setFlag_keeps | apply State.setInt_keeps | apply Within.ite | exact rfl | apply Within.upd_therm | apply EKeeps.next | apply EKeeps.ite

theorem execThermTrip_keeps {s : State} 
    (hm : Avoids parts 1207959552 := by exact ‹Avoids _ _›.mono (by decide)) : EKeeps parts s (execThermTrip s) := by
  have h : Within parts s s := .refl s
  unfold execThermTrip
  with_reducible repeat' first | (extract_lets +onlyGivenNames x1; first | (refine Within.cut (m := parts) (s0 := s) (v := x1) ?_ ?_; rotate_left; intro hx; clear_value x1; rotate_left; unfold x1; clear x1) | clear_value x1) | assumption | exact Within.refl _ | exact ‹Avoids _ _›.mono (by decide) | apply State.emit_keeps | apply Within.ite | exact rfl | apply Within.upd_therm | apply EKeeps.next | apply EKeeps.ite

theorem State.avsStep_keeps {s0 s : State} (h : Within parts s0 s) {l : List Rail} {replies : List RailReply}
    (hm : Avoids parts 1073741832 := by exact ‹Avoids _ _›.mono (by decide)) :
    Within parts s0 (State.avsStep s l replies) := by
  unfold State.avsStep
  with_reducible repeat' first | intro _ | (extract_lets +onlyGivenNames x1; first | (refine Within.cut (m := parts) (s0 := s0) (v := x1) ?_ ?_; rotate_left; intro hx; clear_value x1; rotate_left; unfold x1; clear x1) | clear_value x1) | assumption | exact Within.refl _ | exact ‹Avoids _ _›.mono (by decide) | apply State.emit_keeps | apply State.set_keeps | apply Within.ite | split

theorem execPmbusPoll_keeps {s : State} {replies : List RailReply}
    (hm : Avoids parts 1275068424 := by exact ‹Avoids _ _›.mono (by decide)) : EKeeps parts s (execPmbusPoll replies s) := by
  have h : Within parts s s := .refl s
  unfold execPmbusPoll
  with_reducible repeat' first | intro _ | (extract_lets +onlyGivenNames x1; first | (refine Within.cut (m := parts) (s0 := s) (v := x1) ?_ ?_; rotate_left; intro hx; clear_value x1; rotate_left; unfold x1; clear x1) | clear_value x1) | assumption | exact Within.refl _ | exact ‹Avoids _ _›.mono (by decide) | apply State.avsStep_keeps | apply State.emit_keeps | apply State.forList_keeps | apply State.log_keeps | apply State.raise_keeps | apply State.set_keeps | exact rfl | apply Within.ite | split | apply Within.upd_therm | apply EKeeps.next | apply EKeeps.ite

theorem execOverBudget_keeps {s : State} 
    (hm : Avoids parts 1149239436 := by exact ‹Avoids _ _›.mono (by decide)) : EKeeps parts s (execOverBudget s) := by
  have h : Within parts s s := .refl s
  unfold execOverBudget
  with_reducible repeat' first | assumption | exact Within.refl _ | exact ‹Avoids _ _›.mono (by decide) | apply State.log_keeps | apply State.publishTherm_keeps | apply State.raise_keeps | apply Within.ite | apply EKeeps.next | apply EKeeps.ite

theorem execThermalRead_keeps {s : State} {m : Fin 1024}
    (hm : Avoids parts 33554432 := by exact ‹Avoids _ _›.mono (by decide)) : EKeeps parts s (execThermalRead m s) := by
  have h : Within parts s s := .refl s
  unfold execThermalRead
  with_reducible repeat' first | intro _ | assumption | exact Within.refl _ | exact ‹Avoids _ _›.mono (by decide) | apply State.skepAnswer_keeps | apply State.skepRun_keeps | apply EKeeps.next | apply EKeeps.ite

theorem execThermalSet_keeps {s : State} {m : Fin 1024}
    (hm : Avoids parts 33554440 := by exact ‹Avoids _ _›.mono (by decide)) : EKeeps parts s (execThermalSet m s) := by
  have h : Within parts s s := .refl s
  unfold execThermalSet
  with_reducible repeat' first | intro _ | (extract_lets +onlyGivenNames x1; first | (refine Within.cut (m := parts) (s0 := s) (v := x1) ?_ ?_; rotate_left; intro hx; clear_value x1; rotate_left; unfold x1; clear x1) | clear_value x1) | assumption | exact Within.refl _ | exact ‹Avoids _ _›.mono (by decide) | apply State.setThresholds_keeps | apply State.skepAnswer_keeps | apply State.skepRun_keeps | apply Within.ite | apply EKeeps.next | apply EKeeps.ite

theorem State.stopRestart_keeps {s0 s : State} (h : Within parts s0 s) {u : Nat}
    (hm : Avoids parts 1189837020 := by exact ‹Avoids _ _›.mono (by decide)) :
    Within parts s0 (State.stopRestart s u) := by
  unfold State.stopRestart
  with_reducible repeat' first | (extract_lets +onlyGivenNames x1; first | (refine Within.cut (m := parts) (s0 := s0) (v := x1) ?_ ?_; rotate_left; intro hx; clear_value x1; rotate_left; unfold x1; clear x1) | clear_value x1) | assumption | exact Within.refl _ | exact ‹Avoids _ _›.mono (by decide) | apply State.unitBegin_keeps | apply Within.ite

theorem execThermalRestart_keeps {s : State} {m : Fin 1024}
    (hm : Avoids parts 1324054748 := by exact ‹Avoids _ _›.mono (by decide)) : EKeeps parts s (execThermalRestart m s) := by
  have h : Within parts s s := .refl s
  unfold execThermalRestart
  with_reducible repeat' first | intro _ | (extract_lets +onlyGivenNames x1; first | (refine Within.cut (m := parts) (s0 := s) (v := x1) ?_ ?_; rotate_left; intro hx; clear_value x1; rotate_left; unfold x1; clear x1) | clear_value x1) | assumption | exact Within.refl _ | exact ‹Avoids _ _›.mono (by decide) | apply State.clear_keeps | apply State.forList_keeps | apply State.publishTherm_keeps | apply State.skepAnswer_keeps | apply State.skepRun_keeps | apply State.stopRestart_keeps | exact rfl | apply Within.ite | apply Within.upd_therm | apply EKeeps.next | apply EKeeps.ite

theorem execPowerBudgetRead_keeps {s : State} {m : Fin 1024}
    (hm : Avoids parts 33554432 := by exact ‹Avoids _ _›.mono (by decide)) : EKeeps parts s (execPowerBudgetRead m s) := by
  have h : Within parts s s := .refl s
  unfold execPowerBudgetRead
  with_reducible repeat' first | intro _ | assumption | exact Within.refl _ | exact ‹Avoids _ _›.mono (by decide) | apply State.skepAnswer_keeps | apply State.skepRun_keeps | apply EKeeps.next | apply EKeeps.ite

theorem execPowerBudgetSet_keeps {s : State} {m : Fin 1024}
    (hm : Avoids parts 33554440 := by exact ‹Avoids _ _›.mono (by decide)) : EKeeps parts s (execPowerBudgetSet m s) := by
  have h : Within parts s s := .refl s
  unfold execPowerBudgetSet
  with_reducible repeat' first | intro _ | (extract_lets +onlyGivenNames x1; first | (refine Within.cut (m := parts) (s0 := s) (v := x1) ?_ ?_; rotate_left; intro hx; clear_value x1; rotate_left; unfold x1; clear x1) | clear_value x1) | assumption | exact Within.refl _ | exact ‹Avoids _ _›.mono (by decide) | apply State.set_keeps | apply State.skepAnswer_keeps | apply State.skepRun_keeps | apply Within.ite | apply EKeeps.next | apply EKeeps.ite

end Sys2Proof.Machine
end

