-- ==== Sys2Proof/Laws/KeepsPatch.lean ====
section
/-!
SUPPORT. The operations of Machine/Patch.lean keep what every step keeps.
-/
set_option Elab.async false
namespace Sys2Proof.Machine

set_option linter.tactic.unusedName false

variable {parts : Nat}

theorem State.patchNone_keeps {s0 s : State} (h : Within parts s0 s) {status : Nat}
    (hm : Avoids parts 33554440 := by exact ‹Avoids _ _›.mono (by decide)) :
    Within parts s0 (State.patchNone s status) := by
  unfold State.patchNone
  with_reducible repeat' first | (extract_lets +onlyGivenNames x1; first | (refine Within.cut (m := parts) (s0 := s0) (v := x1) ?_ ?_; rotate_left; intro hx; clear_value x1; rotate_left; unfold x1; clear x1) | clear_value x1) | assumption | exact Within.refl _ | exact ‹Avoids _ _›.mono (by decide) | apply State.clear_keeps | apply State.set_keeps | exact rfl | apply Within.upd_skep

theorem State.patchLoad_keeps {s0 s : State} (h : Within parts s0 s) {copy : Nat} {c : List Byte} {bad : Option Nat}
    (hm : Avoids parts 100663340 := by exact ‹Avoids _ _›.mono (by decide)) :
    Within parts s0 (State.patchLoad s copy c bad) := by
  unfold State.patchLoad
  with_reducible repeat' first | intro _ | (extract_lets +onlyGivenNames x1; first | (refine Within.cut (m := parts) (s0 := s0) (v := x1) ?_ ?_; rotate_left; intro hx; clear_value x1; rotate_left; unfold x1; clear x1) | clear_value x1) | assumption | exact Within.refl _ | exact ‹Avoids _ _›.mono (by decide) | apply State.ctrShow_keeps | apply State.ctrWrite_keeps | apply State.raise_keeps | apply State.setFree_keeps | apply State.set_keeps | exact rfl | apply Within.ite | apply Within.upd_skep

theorem State.patchFind_keeps {s0 s : State} (h : Within parts s0 s) {f : Flash} {bad : Option Nat}
    (hm : Avoids parts 1174405164 := by exact ‹Avoids _ _›.mono (by decide)) :
    Within parts s0 (State.patchFind s f bad) := by
  unfold State.patchFind
  with_reducible repeat' first | intro _ | (extract_lets +onlyGivenNames x1; first | (refine Within.cut (m := parts) (s0 := s0) (v := x1) ?_ ?_; rotate_left; intro hx; clear_value x1; rotate_left; unfold x1; clear x1) | clear_value x1) | assumption | exact Within.refl _ | exact ‹Avoids _ _›.mono (by decide) | apply State.emit_keeps | apply State.forList_keeps | apply State.patchLoad_keeps | apply State.patchNone_keeps | apply State.set_keeps | apply Within.ite

end Sys2Proof.Machine
end

