-- ==== Sys2Proof/Laws/KeepsPcie.lean ====
section
/-!
SUPPORT. The operations of Machine/Pcie.lean keep what every step keeps.
-/
set_option Elab.async false
namespace Sys2Proof.Machine

set_option linter.tactic.unusedName false

variable {parts : Nat}

theorem State.winCase_keeps {s0 s : State} (h : Within parts s0 s) {off : Nat} {desc : Nat} {cause : Nat} {write : Bool}
    (hm : Avoids parts 1149239432 := by exact ‹Avoids _ _›.mono (by decide)) :
    Within parts s0 (State.winCase s off desc cause write) := by
  unfold State.winCase
  with_reducible repeat' first | (extract_lets +onlyGivenNames x1; first | (refine Within.cut (m := parts) (s0 := s0) (v := x1) ?_ ?_; rotate_left; intro hx; clear_value x1; rotate_left; unfold x1; clear x1) | clear_value x1) | assumption | exact Within.refl _ | exact ‹Avoids _ _›.mono (by decide) | apply State.bumpSat_keeps | apply State.girqBoth_keeps | apply State.log_keeps | apply State.raise_keeps | apply State.set_keeps | apply State.set2_keeps | apply State.setFlag_keeps

theorem State.winPut_keeps {s0 s : State} (h : Within parts s0 s) {poison : Bool} {l : List (Nat × Nat)} {bs : List Byte}
    (hm : Avoids parts 67174556 := by exact ‹Avoids _ _›.mono (by decide)) : Within parts s0 (State.winPut s poison l bs) := by
  induction l generalizing s bs with
  | nil => exact h
  | cons e l ih =>
    unfold State.winPut
    repeat' first | (extract_lets +onlyGivenNames x1; first | (refine Within.cut (m := parts) (s0 := s0) (v := x1) ?_ ?_; rotate_left; intro hx; clear_value x1; rotate_left; unfold x1; clear x1) | clear_value x1) | with_reducible assumption | with_reducible apply State.memWrite_keeps | with_reducible apply ih | exact ‹Avoids _ _›.mono (by decide) | with_reducible apply Within.ite | split | exact rfl

theorem execPeerWindowWrite_keeps {s : State} {off : Nat} {bytes : List Byte} {poison : Bool}
    (hm : Avoids parts 1149304988 := by exact ‹Avoids _ _›.mono (by decide)) : EKeeps parts s (execPeerWindowWrite off bytes poison s) := by
  have h : Within parts s s := .refl s
  unfold execPeerWindowWrite
  with_reducible repeat' first | (extract_lets +onlyGivenNames x1; first | (refine Within.cut (m := parts) (s0 := s) (v := x1) ?_ ?_; rotate_left; intro hx; clear_value x1; rotate_left; unfold x1; clear x1) | clear_value x1) | assumption | exact Within.refl _ | exact ‹Avoids _ _›.mono (by decide) | apply State.aer_keeps | apply State.extDenied_keeps | apply State.l1Exit_keeps | apply State.unsupported_keeps | apply State.winCase_keeps | apply State.winPut_keeps | apply Within.ite | split | apply EKeeps.next | apply EKeeps.ite

theorem State.winMeet_keeps {s0 s : State} (h : Within parts s0 s) {l : List (Nat × Nat)} {errs : List MemErr}
    (hm : Avoids parts 67174540 := by exact ‹Avoids _ _›.mono (by decide)) :
    Within parts s0 (State.winMeet s l errs) := by
  unfold State.winMeet
  with_reducible repeat' first | intro _ | assumption | exact Within.refl _ | exact ‹Avoids _ _›.mono (by decide) | apply State.forList_keeps | apply State.memErrs_keeps | apply State.readMeet_keeps

theorem execPeerWindowRead_keeps {s : State} {off len : Nat} {errs : List MemErr}
    (hm : Avoids parts 1149304972 := by exact ‹Avoids _ _›.mono (by decide)) : EKeeps parts s (execPeerWindowRead off len errs s) := by
  have h : Within parts s s := .refl s
  unfold execPeerWindowRead
  apply EKeeps.next
  apply Within.ite (State.unsupported_keeps h)
  generalize s.winCheck off len false = w
  cases w with
  | ok l => exact State.portMsg_keeps (State.winMeet_keeps h)
  | error e => exact State.unsupported_keeps (State.winCase_keeps h)

theorem execWindowCommit_keeps {s : State} {who : Who}
    (hm : Avoids parts 1082130568 := by exact ‹Avoids _ _›.mono (by decide)) : EKeeps parts s (execWindowCommit who s) := by
  have h : Within parts s s := .refl s
  unfold execWindowCommit
  with_reducible repeat' first | intro _ | (extract_lets +onlyGivenNames x1; first | (refine Within.cut (m := parts) (s0 := s) (v := x1) ?_ ?_; rotate_left; intro hx; clear_value x1; rotate_left; unfold x1; clear x1) | clear_value x1) | assumption | exact Within.refl _ | exact ‹Avoids _ _›.mono (by decide) | apply State.forEach_keeps | apply State.raise_keeps | apply State.setReg_keeps | apply State.set_keeps | apply State.viaBus_keeps | split | apply EKeeps.next | apply EKeeps.ite

theorem execBar0BadRequest_keeps {s : State} {f : Fin 2} {kind : BadTlp} {write : Bool} {off : Nat} {len : Nat} {part : Nat} {poison : Bool}
    (hm : Avoids parts 1082130568 := by exact ‹Avoids _ _›.mono (by decide)) : EKeeps parts s (execBar0BadRequest f kind write off len part poison s) := by
  have h : Within parts s s := .refl s
  unfold execBar0BadRequest
  with_reducible repeat' first | (extract_lets +onlyGivenNames x1; first | (refine Within.cut (m := parts) (s0 := s) (v := x1) ?_ ?_; rotate_left; intro hx; clear_value x1; rotate_left; unfold x1; clear x1) | clear_value x1) | assumption | exact Within.refl _ | exact ‹Avoids _ _›.mono (by decide) | apply State.aer_keeps | apply State.bumpSat_keeps | apply State.l1Exit_keeps | apply State.unsupported_keeps | apply Within.ite | split | apply EKeeps.next | apply EKeeps.ite

theorem State.msixFlush_keeps {s0 s : State} (h : Within parts s0 s) {f : Nat}
    (hm : Avoids parts 1082130568 := by exact ‹Avoids _ _›.mono (by decide)) :
    Within parts s0 (State.msixFlush s f) := by
  unfold State.msixFlush
  with_reducible repeat' first | intro _ | (extract_lets +onlyGivenNames x1; first | (refine Within.cut (m := parts) (s0 := s0) (v := x1) ?_ ?_; rotate_left; intro hx; clear_value x1; rotate_left; unfold x1; clear x1) | clear_value x1) | assumption | exact Within.refl _ | exact ‹Avoids _ _›.mono (by decide) | apply State.clear_keeps | apply State.forList_keeps | apply State.msix_keeps | apply Within.ite

theorem State.pmeCheck_keeps {s0 s : State} (h : Within parts s0 s) {f : Nat}
    (hm : Avoids parts 1082130568 := by exact ‹Avoids _ _›.mono (by decide)) :
    Within parts s0 (State.pmeCheck s f) := by
  unfold State.pmeCheck
  with_reducible repeat' first | assumption | exact Within.refl _ | exact ‹Avoids _ _›.mono (by decide) | apply State.portMsg_keeps | apply State.raise_keeps | apply Within.ite

theorem State.hostResume_keeps {s0 s : State} (h : Within parts s0 s)
    (hm : Avoids parts 1203831005 := by exact ‹Avoids _ _›.mono (by decide)) :
    Within parts s0 (State.hostResume s) := by
  unfold State.hostResume
  with_reducible repeat' first | assumption | exact Within.refl _ | exact ‹Avoids _ _›.mono (by decide) | apply State.dmaServe_keeps | apply State.withyLink_keeps

theorem State.pmTo_keeps {s0 s : State} (h : Within parts s0 s) {f : Nat} {d3 : Bool}
    (hm : Avoids parts 1203863773 := by exact ‹Avoids _ _›.mono (by decide)) :
    Within parts s0 (State.pmTo s f d3) := by
  unfold State.pmTo
  with_reducible repeat' first | intro _ | (extract_lets +onlyGivenNames x1; first | (refine Within.cut (m := parts) (s0 := s0) (v := x1) ?_ ?_; rotate_left; intro hx; clear_value x1; rotate_left; unfold x1; clear x1) | clear_value x1) | assumption | exact Within.refl _ | exact ‹Avoids _ _›.mono (by decide) | apply State.doseWrite_keeps | apply State.forEach_keeps | apply State.hostResume_keeps | apply State.pmeCheck_keeps | apply State.set_keeps | apply Within.ite

theorem State.cfgWrite_keeps {s0 s : State} (h : Within parts s0 s) {f : Nat} {off : Nat} {be : Nat} {v : Nat}
    (hm : Avoids parts 1203863773 := by exact ‹Avoids _ _›.mono (by decide)) :
    Within parts s0 (State.cfgWrite s f off be v) := by
  unfold State.cfgWrite
  with_reducible repeat' first | intro _ | (extract_lets +onlyGivenNames x1; first | (refine Within.cut (m := parts) (s0 := s0) (v := x1) ?_ ?_; rotate_left; intro hx; clear_value x1; rotate_left; unfold x1; clear x1) | clear_value x1) | assumption | exact Within.refl _ | exact ‹Avoids _ _›.mono (by decide) | apply State.foldl_keeps | apply State.hostResume_keeps | apply State.inta_keeps | apply State.msixFlush_keeps | apply State.pmTo_keeps | apply State.pmeCheck_keeps | apply State.setReg_keeps | exact rfl | apply Within.ite | split | apply Within.upd_port

theorem execConfigRequest_keeps {s : State} {f : Nat} {write : Bool} {off : Fin 4096} {be : Fin 16} {v : Word}
    (hm : Avoids parts 1203863773 := by exact ‹Avoids _ _›.mono (by decide)) : EKeeps parts s (execConfigRequest f write off be v s) := by
  have h : Within parts s s := .refl s
  unfold execConfigRequest
  with_reducible repeat' first | (extract_lets +onlyGivenNames x1; first | (refine Within.cut (m := parts) (s0 := s) (v := x1) ?_ ?_; rotate_left; intro hx; clear_value x1; rotate_left; unfold x1; clear x1) | clear_value x1) | assumption | exact Within.refl _ | exact ‹Avoids _ _›.mono (by decide) | apply State.aer_keeps | apply State.bumpSat_keeps | apply State.cfgWrite_keeps | apply State.portMsg_keeps | apply Within.ite | apply EKeeps.next | apply EKeeps.ite

theorem State.requestEnds_keeps {s0 s : State} (h : Within parts s0 s) {q : HostReq} {r : Except Nat (List Byte × Bool)}
    (hm : Avoids parts 1207501021 := by exact ‹Avoids _ _›.mono (by decide)) :
    Within parts s0 (State.requestEnds s q r) := by
  unfold State.requestEnds
  with_reducible repeat' first | (extract_lets +onlyGivenNames x1; first | (refine Within.cut (m := parts) (s0 := s0) (v := x1) ?_ ?_; rotate_left; intro hx; clear_value x1; rotate_left; unfold x1; clear x1) | clear_value x1) | assumption | exact Within.refl _ | exact ‹Avoids _ _›.mono (by decide) | apply State.bodyBackFail_keeps | apply State.bodyBackIn_keeps | apply State.dmaIn_keeps | apply State.dmaServe_keeps | apply State.fetchPart_keeps | apply State.headBackFail_keeps | apply State.headBackIn_keeps | apply State.loadIn_keeps | apply State.reclaimIn_keeps | apply State.skepBackIn_keeps | apply State.skepFetchIn_keeps | apply State.walked_keeps | apply Within.ite | split

theorem execCompletionRx_keeps {s : State} {tag : Fin 1024} {ok : Bool} {data : List Byte} {poison : Bool}
    (hm : Avoids parts 1207501021 := by exact ‹Avoids _ _›.mono (by decide)) : EKeeps parts s (execCompletionRx tag ok data poison s) := by
  have h : Within parts s s := .refl s
  unfold execCompletionRx
  with_reducible repeat' first | (extract_lets +onlyGivenNames x1; first | (refine Within.cut (m := parts) (s0 := s) (v := x1) ?_ ?_; rotate_left; intro hx; clear_value x1; rotate_left; unfold x1; clear x1) | clear_value x1) | assumption | exact Within.refl _ | exact ‹Avoids _ _›.mono (by decide) | apply State.aer_keeps | apply State.bumpSat_keeps | apply State.dmaServe_keeps | apply State.portEnd_keeps | apply State.portPump_keeps | apply State.requestEnds_keeps | apply Within.ite | split | apply EKeeps.next | apply EKeeps.ite

theorem execCompletionTimeout_keeps {s : State} {tag : Fin 1024}
    (hm : Avoids parts 1207501021 := by exact ‹Avoids _ _›.mono (by decide)) : EKeeps parts s (execCompletionTimeout tag s) := by
  have h : Within parts s s := .refl s
  unfold execCompletionTimeout
  with_reducible repeat' first | (extract_lets +onlyGivenNames x1; first | (refine Within.cut (m := parts) (s0 := s) (v := x1) ?_ ?_; rotate_left; intro hx; clear_value x1; rotate_left; unfold x1; clear x1) | clear_value x1) | assumption | exact Within.refl _ | exact ‹Avoids _ _›.mono (by decide) | apply State.aer_keeps | apply State.bumpSat_keeps | apply State.dmaServe_keeps | apply State.girqBoth_keeps | apply State.portEnd_keeps | apply State.portPump_keeps | apply State.requestEnds_keeps | split | apply EKeeps.next | apply EKeeps.ite

theorem execTagQuarantineEnd_keeps {s : State} {tag : Fin 1024}
    (hm : Avoids parts 1199636701 := by exact ‹Avoids _ _›.mono (by decide)) : EKeeps parts s (execTagQuarantineEnd tag s) := by
  have h : Within parts s s := .refl s
  unfold execTagQuarantineEnd
  with_reducible repeat' first | assumption | exact Within.refl _ | exact ‹Avoids _ _›.mono (by decide) | apply State.dmaServe_keeps | apply State.portPump_keeps | apply State.setPort_keeps | apply EKeeps.next | apply EKeeps.ite

theorem State.portAbandon_keeps {s0 s : State} (h : Within parts s0 s) {f : Nat}
    (hm : Avoids parts 8388616 := by exact ‹Avoids _ _›.mono (by decide)) :
    Within parts s0 (State.portAbandon s f) := by
  unfold State.portAbandon
  with_reducible repeat' first | intro _ | (extract_lets +onlyGivenNames x1; first | (refine Within.cut (m := parts) (s0 := s0) (v := x1) ?_ ?_; rotate_left; intro hx; clear_value x1; rotate_left; unfold x1; clear x1) | clear_value x1) | assumption | exact Within.refl _ | exact ‹Avoids _ _›.mono (by decide) | apply State.setPort_keeps | apply Within.ite | split

theorem State.functionReset_keeps {s0 s : State} (h : Within parts s0 s) {f : Nat}
    (hm : Avoids parts 1744372445 := by exact ‹Avoids _ _›.mono (by decide)) :
    Within parts s0 (State.functionReset s f) := by
  unfold State.functionReset
  with_reducible repeat' first | intro _ | (extract_lets +onlyGivenNames x1; first | (refine Within.cut (m := parts) (s0 := s0) (v := x1) ?_ ?_; rotate_left; intro hx; clear_value x1; rotate_left; unfold x1; clear x1) | clear_value x1) | assumption | exact Within.refl _ | exact ‹Avoids _ _›.mono (by decide) | apply State.boxReset_keeps | apply State.clear_keeps | apply State.dmaReset_keeps | apply State.forEach_keeps | apply State.forList_keeps | apply State.girqSward_keeps | apply State.loadsLost_keeps | apply State.portAbandon_keeps | apply State.portMsg_keeps | apply State.resetRegs_keeps | apply State.withyLink_keeps | apply State.withyReset_keeps | exact rfl | apply Within.ite | apply Within.upd_skep_ind | apply Within.upd_port | apply Within.upd_skep | apply Within.upd_ind

theorem State.hostReset_keeps {s0 s : State} (h : Within parts s0 s) 
    (hm : Avoids parts 1744372445 := by exact ‹Avoids _ _›.mono (by decide)) :
    Within parts s0 (State.hostReset s) := by
  unfold State.hostReset
  with_reducible repeat' first | (extract_lets +onlyGivenNames x1; first | (refine Within.cut (m := parts) (s0 := s0) (v := x1) ?_ ?_; rotate_left; intro hx; clear_value x1; rotate_left; unfold x1; clear x1) | clear_value x1) | assumption | exact Within.refl _ | exact ‹Avoids _ _›.mono (by decide) | apply State.functionReset_keeps | apply State.resetRegs_keeps | apply State.setReg_keeps | apply State.withyLink_keeps

theorem execPerst_keeps {s : State} 
    (hm : Avoids parts 1744372445 := by exact ‹Avoids _ _›.mono (by decide)) : EKeeps parts s (execPerst s) := by
  have h : Within parts s s := .refl s
  unfold execPerst
  with_reducible repeat' first | assumption | exact Within.refl _ | exact ‹Avoids _ _›.mono (by decide) | apply State.hostReset_keeps | apply State.raise_keeps | exact rfl | apply Within.upd_port | apply EKeeps.next | apply EKeeps.ite

theorem execPerstDeassert_keeps {s : State} 
    (hm : Avoids parts 1082130432 := by exact ‹Avoids _ _›.mono (by decide)) : EKeeps parts s (execPerstDeassert s) := by
  have h : Within parts s s := .refl s
  unfold execPerstDeassert
  with_reducible repeat' first | (extract_lets +onlyGivenNames x1; first | (refine Within.cut (m := parts) (s0 := s) (v := x1) ?_ ?_; rotate_left; intro hx; clear_value x1; rotate_left; unfold x1; clear x1) | clear_value x1) | assumption | exact Within.refl _ | exact ‹Avoids _ _›.mono (by decide) | apply State.emit_keeps | apply Within.ite | exact rfl | apply Within.upd_port | apply EKeeps.next | apply EKeeps.ite

theorem execHotReset_keeps {s : State} 
    (hm : Avoids parts 1744372445 := by exact ‹Avoids _ _›.mono (by decide)) : EKeeps parts s (execHotReset s) := by
  have h : Within parts s s := .refl s
  unfold execHotReset
  with_reducible repeat' first | assumption | exact Within.refl _ | exact ‹Avoids _ _›.mono (by decide) | apply State.hostReset_keeps | apply State.raise_keeps | apply EKeeps.next | apply EKeeps.ite

theorem execFunctionLevelReset_keeps {s : State} {f : Fin 2}
    (hm : Avoids parts 1744372445 := by exact ‹Avoids _ _›.mono (by decide)) : EKeeps parts s (execFunctionLevelReset f s) := by
  have h : Within parts s s := .refl s
  unfold execFunctionLevelReset
  with_reducible repeat' first | (extract_lets +onlyGivenNames x1; first | (refine Within.cut (m := parts) (s0 := s) (v := x1) ?_ ?_; rotate_left; intro hx; clear_value x1; rotate_left; unfold x1; clear x1) | clear_value x1) | assumption | exact Within.refl _ | exact ‹Avoids _ _›.mono (by decide) | apply State.applySubsystem_keeps | apply State.functionReset_keeps | apply State.raise_keeps | apply State.set_keeps | exact rfl | apply Within.ite | apply Within.upd_port | apply EKeeps.next | apply EKeeps.ite

theorem State.pcieError_keeps {s0 s : State} (h : Within parts s0 s) {f : Nat} {e : PcieError}
    (hm : Avoids parts 1203831005 := by exact ‹Avoids _ _›.mono (by decide)) :
    Within parts s0 (State.pcieError s f e) := by
  unfold State.pcieError
  with_reducible repeat' first | (extract_lets +onlyGivenNames x1; first | (refine Within.cut (m := parts) (s0 := s0) (v := x1) ?_ ?_; rotate_left; intro hx; clear_value x1; rotate_left; unfold x1; clear x1) | clear_value x1) | assumption | exact Within.refl _ | exact ‹Avoids _ _›.mono (by decide) | apply State.aerCor_keeps | apply State.aer_keeps | apply State.hostResume_keeps | exact rfl | apply Within.ite | split | apply Within.upd_port

theorem State.pcieLink_keeps {s0 s : State} (h : Within parts s0 s) {up : Bool} {rate : Nat} {width : Nat} {flit : Bool}
    (hm : Avoids parts 1203831005 := by exact ‹Avoids _ _›.mono (by decide)) :
    Within parts s0 (State.pcieLink s up rate width flit) := by
  unfold State.pcieLink
  with_reducible repeat' first | intro _ | (extract_lets +onlyGivenNames x1; first | (refine Within.cut (m := parts) (s0 := s0) (v := x1) ?_ ?_; rotate_left; intro hx; clear_value x1; rotate_left; unfold x1; clear x1) | clear_value x1) | assumption | exact Within.refl _ | exact ‹Avoids _ _›.mono (by decide) | apply State.applySubsystem_keeps | apply State.forEach_keeps | apply State.hostResume_keeps | apply State.raise_keeps | apply State.setFlag_keeps | apply State.setReg_keeps | apply State.set_keeps | apply Within.ite

theorem execPcieLinkChange_keeps {s : State} {ev : PcieEvent}
    (hm : Avoids parts 1203831005 := by exact ‹Avoids _ _›.mono (by decide)) : EKeeps parts s (execPcieLinkChange ev s) := by
  have h : Within parts s s := .refl s
  unfold execPcieLinkChange
  with_reducible repeat' first | assumption | exact Within.refl _ | exact ‹Avoids _ _›.mono (by decide) | apply State.pcieError_keeps | apply State.pcieLink_keeps | apply Within.ite | split | apply EKeeps.next | apply EKeeps.ite

theorem execPmStateChange_keeps {s : State} {f : Fin 2} {d3 : Bool}
    (hm : Avoids parts 1203863773 := by exact ‹Avoids _ _›.mono (by decide)) : EKeeps parts s (execPmStateChange f d3 s) := by
  have h : Within parts s s := .refl s
  unfold execPmStateChange
  with_reducible repeat' first | assumption | exact Within.refl _ | exact ‹Avoids _ _›.mono (by decide) | apply State.pmTo_keeps | apply EKeeps.next | apply EKeeps.ite

theorem execPmeResend_keeps {s : State} {f : Fin 2}
    (hm : Avoids parts 1082130568 := by exact ‹Avoids _ _›.mono (by decide)) : EKeeps parts s (execPmeResend f s) := by
  have h : Within parts s s := .refl s
  unfold execPmeResend
  with_reducible repeat' first | assumption | exact Within.refl _ | exact ‹Avoids _ _›.mono (by decide) | apply State.portMsg_keeps | apply Within.ite | apply EKeeps.next | apply EKeeps.ite

theorem execL1Entry_keeps {s : State} 
    (hm : Avoids parts 1073741832 := by exact ‹Avoids _ _›.mono (by decide)) : EKeeps parts s (execL1Entry s) := by
  have h : Within parts s s := .refl s
  unfold execL1Entry
  with_reducible repeat' first | assumption | exact Within.refl _ | exact ‹Avoids _ _›.mono (by decide) | apply State.emit_keeps | apply State.raise_keeps | apply Within.ite | apply EKeeps.next | apply EKeeps.ite

theorem execWakePin_keeps {s : State} {k : Fin 8} {level : Bool}
    (hm : Avoids parts 1082130432 := by exact ‹Avoids _ _›.mono (by decide)) : EKeeps parts s (execWakePin k level s) := by
  have h : Within parts s s := .refl s
  unfold execWakePin
  with_reducible repeat' first | assumption | exact Within.refl _ | exact ‹Avoids _ _›.mono (by decide) | apply State.emit_keeps | apply Within.ite | exact rfl | apply Within.upd_port | apply EKeeps.next | apply EKeeps.ite

end Sys2Proof.Machine
end

