-- ==== Sys2Proof/Laws/KeepsBoot.lean ====
section
/-!
SUPPORT. The operations of Machine/Boot.lean keep what every step keeps.
-/
set_option Elab.async false
namespace Sys2Proof.Machine

set_option linter.tactic.unusedName false

variable {parts : Nat}

theorem State.pinsReleased_keeps {s0 s : State} (h : Within parts s0 s)
    (hm : Avoids parts 1073741824 := by exact ‹Avoids _ _›.mono (by decide)) :
    Within parts s0 (State.pinsReleased s) := by
  unfold State.pinsReleased
  with_reducible repeat' first | intro _ | (extract_lets +onlyGivenNames x1; first | (refine Within.cut (m := parts) (s0 := s0) (v := x1) ?_ ?_; rotate_left; intro hx; clear_value x1; rotate_left; unfold x1; clear x1) | clear_value x1) | assumption | exact Within.refl _ | exact ‹Avoids _ _›.mono (by decide) | apply State.emit_keeps | apply State.forEach_keeps

theorem State.keepAon_keeps {s0 s t : State} (h : Within parts s0 t)
    (hm : Avoids parts 209715208 := by exact ‹Avoids _ _›.mono (by decide)) : Within parts s0 (State.keepAon s t) := by
  unfold State.keepAon
  refine Within.upd_port_nvm_therm ?_ ?_
  · refine State.setFlag_keeps ?_
    refine State.setFlag_keeps ?_
    refine State.set_keeps ?_
    refine State.forEach_keeps ?_ ?_
    · exact State.setReg_keeps (State.setReg_keeps h)
    · intro _ _ h
      exact State.setFlag_keeps h
  · rfl

theorem State.coldReset_keeps {s0 s : State} (h : Within parts s0 s) {aon : Bool}
    (hm : Avoids parts 2147483611 := by exact ‹Avoids _ _›.mono (by decide)) : Within parts s0 (State.coldReset s aon) := by
  unfold State.coldReset
  refine Within.trans h ?_
  extract_lets src t
  have ht : Within parts s t := ⟨⟨rfl, List.prefix_rfl, Nat.le_refl _, fun c => ⟨rfl, rfl, c.mram, Nat.zero_le _, fun _ => Nat.zero_le _⟩⟩,
    fun p e => by cases p <;> first | exact Avoids.off hm (by decide) e | exact rfl⟩
  clear_value t
  have h2 := State.forEach_keeps ht (n := 8)
    (f := fun n t => let c := s.encOf n; t.setEnc n
      { pinA := c.pinA, pinB := c.pinB, pinZ := c.pinZ, holdA := s.encPin n .a, holdB := s.encPin n .b, holdZ := s.encPin n .z })
    fun _ _ h => State.setEnc_keeps h
  refine State.pinsReleased_keeps ?_
  exact Within.ite h2 (State.keepAon_keeps h2)

theorem State.readTrip_keeps {s0 s : State} (h : Within parts s0 s) {bad : Option Nat}
    (hm : Avoids parts 201326636 := by exact ‹Avoids _ _›.mono (by decide)) :
    Within parts s0 (State.readTrip s bad) := by
  unfold State.readTrip
  with_reducible repeat' first | (extract_lets +onlyGivenNames x1; first | (refine Within.cut (m := parts) (s0 := s0) (v := x1) ?_ ?_; rotate_left; intro hx; clear_value x1; rotate_left; unfold x1; clear x1) | clear_value x1) | assumption | exact Within.refl _ | exact ‹Avoids _ _›.mono (by decide) | apply State.ctrBump_keeps | apply State.log_keeps | apply State.raise_keeps | exact rfl | apply Within.ite | apply Within.upd_therm

theorem State.logBoot_keeps {s0 s : State} (h : Within parts s0 s) 
    (hm : Avoids parts 67108872 := by exact ‹Avoids _ _›.mono (by decide)) :
    Within parts s0 (State.logBoot s) := by
  unfold State.logBoot
  with_reducible repeat' first | assumption | exact Within.refl _ | exact ‹Avoids _ _›.mono (by decide) | apply State.log_keeps

theorem State.bootStart_keeps {s0 s : State} (h : Within parts s0 s) {bad : Option Nat}
    (hm : Avoids parts 503316524 := by exact ‹Avoids _ _›.mono (by decide)) :
    Within parts s0 (State.bootStart s bad) := by
  unfold State.bootStart
  with_reducible repeat' first | (extract_lets +onlyGivenNames x1; first | (refine Within.cut (m := parts) (s0 := s0) (v := x1) ?_ ?_; rotate_left; intro hx; clear_value x1; rotate_left; unfold x1; clear x1) | clear_value x1) | assumption | exact Within.refl _ | exact ‹Avoids _ _›.mono (by decide) | apply State.applyIdent_keeps | apply State.applyPower_keeps | apply State.applyThermal_keeps | apply State.calCheck_keeps | apply State.ctrBump_keeps | apply State.ctrShow_keeps | apply State.logStart_keeps | apply State.patchNone_keeps | apply State.readTrip_keeps | apply State.set_keeps | exact rfl | apply Within.upd_boot

theorem execAonReset_keeps {s : State}
    (hm : Avoids parts 2147483611 := by exact ‹Avoids _ _›.mono (by decide)) : EKeeps parts s (execAonReset s) := by
  have h : Within parts s s := .refl s
  unfold execAonReset
  with_reducible repeat' first | (extract_lets +onlyGivenNames x1; first | (refine Within.cut (m := parts) (s0 := s) (v := x1) ?_ ?_; rotate_left; intro hx; clear_value x1; rotate_left; unfold x1; clear x1) | clear_value x1) | assumption | exact Within.refl _ | exact ‹Avoids _ _›.mono (by decide) | apply State.coldReset_keeps | exact rfl | apply Within.upd_boot | apply EKeeps.next | apply EKeeps.ite

theorem execCorePor_keeps {s : State} {bad : Option Nat}
    (hm : Avoids parts 2147483647 := by exact ‹Avoids _ _›.mono (by decide)) : EKeeps parts s (execCorePor bad s) := by
  have h : Within parts s s := .refl s
  unfold execCorePor
  with_reducible repeat' first | (extract_lets +onlyGivenNames x1; first | (refine Within.cut (m := parts) (s0 := s) (v := x1) ?_ ?_; rotate_left; intro hx; clear_value x1; rotate_left; unfold x1; clear x1) | clear_value x1) | assumption | exact Within.refl _ | exact ‹Avoids _ _›.mono (by decide) | apply State.bootStart_keeps | apply State.coldReset_keeps | apply State.raise_keeps | exact rfl | apply Within.upd_boot | apply EKeeps.next | apply EKeeps.ite

theorem execSupplyDrop_keeps {s : State} {core : Bool}
    (hm : Avoids parts 2147483611 := by exact ‹Avoids _ _›.mono (by decide)) : EKeeps parts s (execSupplyDrop core s) := by
  have h : Within parts s s := .refl s
  unfold execSupplyDrop
  with_reducible repeat' first | (extract_lets +onlyGivenNames x1; first | (refine Within.cut (m := parts) (s0 := s) (v := x1) ?_ ?_; rotate_left; intro hx; clear_value x1; rotate_left; unfold x1; clear x1) | clear_value x1) | assumption | exact Within.refl _ | exact ‹Avoids _ _›.mono (by decide) | apply State.coldReset_keeps | exact rfl | apply Within.ite | apply Within.upd_port_boot | apply Within.upd_port | apply Within.upd_therm | apply Within.upd_boot | apply EKeeps.next | apply EKeeps.ite

theorem execSysReset_keeps {s : State} {bad : Option Nat}
    (hm : Avoids parts 2147483647 := by exact ‹Avoids _ _›.mono (by decide)) : EKeeps parts s (execSysReset bad s) := by
  have h : Within parts s s := .refl s
  unfold execSysReset
  with_reducible repeat' first | (extract_lets +onlyGivenNames x1; first | (refine Within.cut (m := parts) (s0 := s) (v := x1) ?_ ?_; rotate_left; intro hx; clear_value x1; rotate_left; unfold x1; clear x1) | clear_value x1) | assumption | exact Within.refl _ | exact ‹Avoids _ _›.mono (by decide) | apply State.bootStart_keeps | apply State.coldReset_keeps | apply State.raise_keeps | apply State.setFlag_keeps | apply Within.ite | apply EKeeps.next | apply EKeeps.ite

theorem execPatchStageEnd_keeps {s : State} {flash : Flash} {bad : Option Nat}
    (hm : Avoids parts 1577058348 := by exact ‹Avoids _ _›.mono (by decide)) : EKeeps parts s (execPatchStageEnd flash bad s) := by
  have h : Within parts s s := .refl s
  unfold execPatchStageEnd
  with_reducible repeat' first | (extract_lets +onlyGivenNames x1; first | (refine Within.cut (m := parts) (s0 := s) (v := x1) ?_ ?_; rotate_left; intro hx; clear_value x1; rotate_left; unfold x1; clear x1) | clear_value x1) | assumption | exact Within.refl _ | exact ‹Avoids _ _›.mono (by decide) | apply State.bootStart_keeps | apply State.patchFind_keeps | exact rfl | apply Within.ite | apply Within.upd_boot | apply EKeeps.next | apply EKeeps.ite

theorem State.release_keeps {s0 s : State} (h : Within parts s0 s) 
    (hm : Avoids parts 33554440 := by exact ‹Avoids _ _›.mono (by decide)) :
    Within parts s0 (State.release s) := by
  unfold State.release
  with_reducible repeat' first | (extract_lets +onlyGivenNames x1; first | (refine Within.cut (m := parts) (s0 := s0) (v := x1) ?_ ?_; rotate_left; intro hx; clear_value x1; rotate_left; unfold x1; clear x1) | clear_value x1) | assumption | exact Within.refl _ | exact ‹Avoids _ _›.mono (by decide) | apply State.set_keeps | exact rfl | apply Within.upd_skep

theorem execConfigRelease_keeps {s : State} 
    (hm : Avoids parts 1189837020 := by exact ‹Avoids _ _›.mono (by decide)) : EKeeps parts s (execConfigRelease s) := by
  have h : Within parts s s := .refl s
  unfold execConfigRelease
  with_reducible repeat' first | (extract_lets +onlyGivenNames x1; first | (refine Within.cut (m := parts) (s0 := s) (v := x1) ?_ ?_; rotate_left; intro hx; clear_value x1; rotate_left; unfold x1; clear x1) | clear_value x1) | assumption | exact Within.refl _ | exact ‹Avoids _ _›.mono (by decide) | apply State.logBoot_keeps | apply State.release_keeps | apply State.schedule_keeps | apply State.set_keeps | apply Within.ite | apply EKeeps.next | apply EKeeps.ite

theorem State.skepRamClear_keeps {s0 s : State} (h : Within parts s0 s)
    (hm : Avoids parts 1186137292 := by exact ‹Avoids _ _›.mono (by decide)) :
    Within parts s0 (State.skepRamClear s) := by
  unfold State.skepRamClear
  with_reducible repeat' first | intro _ | (extract_lets +onlyGivenNames x1; first | (refine Within.cut (m := parts) (s0 := s0) (v := x1) ?_ ?_; rotate_left; intro hx; clear_value x1; rotate_left; unfold x1; clear x1) | (have g : Nvm := x1; clear g) | clear_value x1) | assumption | exact Within.refl _ | exact ‹Avoids _ _›.mono (by decide) | apply State.boxDone_keeps | apply State.forList_keeps | apply State.loadAbort_keeps | apply State.logLevel_keeps | apply State.setWriting_keeps | apply State.timeSkepHalt_keeps | with_unfolding_all exact Nat.zero_le _ | exact rfl | apply Within.upd_net_jobs_skep_nvm | apply Within.upd_net | apply Within.upd_jobs | apply Within.upd_skep | apply Within.upd_nvm

theorem State.releaseFailed_keeps {s0 s : State} (h : Within parts s0 s)
    (hm : Avoids parts 301989896 := by exact ‹Avoids _ _›.mono (by decide)) :
    Within parts s0 (State.releaseFailed s) := by
  unfold State.releaseFailed
  with_reducible repeat' first | intro _ | (extract_lets +onlyGivenNames x1; first | (refine Within.cut (m := parts) (s0 := s0) (v := x1) ?_ ?_; rotate_left; intro hx; clear_value x1; rotate_left; unfold x1; clear x1) | clear_value x1) | assumption | exact Within.refl _ | exact ‹Avoids _ _›.mono (by decide) | apply State.forEach_keeps | apply State.raise_keeps | apply State.release_keeps | apply State.set_keeps | exact rfl | apply Within.upd_skep_boot | apply Within.upd_skep | apply Within.upd_boot

theorem execSkepWatchdog_keeps {s : State} {cause : Word} {pc : Word} {bad : Option Nat}
    (hm : Avoids parts 1454572780 := by exact ‹Avoids _ _›.mono (by decide)) : EKeeps parts s (execSkepWatchdog cause pc bad s) := by
  have h : Within parts s s := .refl s
  unfold execSkepWatchdog
  with_reducible repeat' first | intro _ | (extract_lets +onlyGivenNames x1; first | (refine Within.cut (m := parts) (s0 := s) (v := x1) ?_ ?_; rotate_left; intro hx; clear_value x1; rotate_left; unfold x1; clear x1) | clear_value x1) | assumption | exact Within.refl _ | exact ‹Avoids _ _›.mono (by decide) | apply State.bump_keeps | apply State.ctrBump_keeps | apply State.log_keeps | apply State.raise_keeps | apply State.releaseFailed_keeps | apply State.set_keeps | apply State.skepRamClear_keeps | apply State.skepSays_keeps | exact rfl | apply Within.ite | apply Within.upd_skep | apply EKeeps.next | apply EKeeps.ite

theorem execSkepRestart_keeps {s : State} {who : Who}
    (hm : Avoids parts 1115685000 := by exact ‹Avoids _ _›.mono (by decide)) : EKeeps parts s (execSkepRestart who s) := by
  have h : Within parts s s := .refl s
  unfold execSkepRestart
  with_reducible repeat' first | intro _ | assumption | exact Within.refl _ | exact ‹Avoids _ _›.mono (by decide) | apply State.set_keeps | apply State.viaBus_keeps | exact rfl | apply Within.ite | apply Within.upd_skep | apply EKeeps.next | apply EKeeps.ite

theorem State.rebuild_keeps {s0 s : State} (h : Within parts s0 s) {u : Nat}
    (hm : Avoids parts 1191181020 := by exact ‹Avoids _ _›.mono (by decide)) :
    Within parts s0 (State.rebuild s u) := by
  unfold State.rebuild
  with_reducible repeat' first | (extract_lets +onlyGivenNames x1; first | (refine Within.cut (m := parts) (s0 := s0) (v := x1) ?_ ?_; rotate_left; intro hx; clear_value x1; rotate_left; unfold x1; clear x1) | clear_value x1) | assumption | exact Within.refl _ | exact ‹Avoids _ _›.mono (by decide) | apply State.classGate_keeps | apply State.log_keeps | apply State.publishSkep_keeps | apply State.setUnit_keeps | apply State.viewStop_keeps | apply Within.ite | split

theorem State.tableRebuild_keeps {s0 s : State} (h : Within parts s0 s) 
    (hm : Avoids parts 1191181020 := by exact ‹Avoids _ _›.mono (by decide)) :
    Within parts s0 (State.tableRebuild s) := by
  unfold State.tableRebuild
  with_reducible repeat' first | intro _ | (extract_lets +onlyGivenNames x1; first | (refine Within.cut (m := parts) (s0 := s0) (v := x1) ?_ ?_; rotate_left; intro hx; clear_value x1; rotate_left; unfold x1; clear x1) | clear_value x1) | assumption | exact Within.refl _ | exact ‹Avoids _ _›.mono (by decide) | apply State.forList_keeps | apply State.log_keeps | apply State.publishSkep_keeps | apply State.raise_keeps | apply State.rebuild_keeps

theorem State.skepJob_keeps {s0 s : State} (h : Within parts s0 s) {j : SkepJob}
    (hm : Avoids parts 1189867772 := by exact ‹Avoids _ _›.mono (by decide)) :
    Within parts s0 (State.skepJob s j) := by
  unfold State.skepJob
  with_reducible repeat' first | assumption | exact Within.refl _ | exact ‹Avoids _ _›.mono (by decide) | apply State.ctrlEnds_keeps | apply State.ctrlRequest_keeps | apply State.doseNow_keeps | apply State.groupUpdate_keeps | apply State.onHour_keeps | apply State.sendTo_keeps | apply State.skepSays_keeps | apply State.streamWrites_keeps | apply State.tellNow_keeps | apply Within.ite | split

theorem State.skepResume_keeps {s0 s : State} (h : Within parts s0 s)
    (hm : Avoids parts 1189867772 := by exact ‹Avoids _ _›.mono (by decide)) :
    Within parts s0 (State.skepResume s) := by
  unfold State.skepResume
  with_reducible repeat' first | intro _ | (extract_lets +onlyGivenNames x1; first | (refine Within.cut (m := parts) (s0 := s0) (v := x1) ?_ ?_; rotate_left; intro hx; clear_value x1; rotate_left; unfold x1; clear x1) | clear_value x1) | assumption | exact Within.refl _ | exact ‹Avoids _ _›.mono (by decide) | apply State.enrolNext_keeps | apply State.forList_keeps | apply State.groupUpdate_keeps | apply State.setUnit_keeps | apply State.skepJob_keeps | exact rfl | apply Within.upd_skep

theorem State.skepReread_keeps {s0 s : State} (h : Within parts s0 s) {reload : Option Flash} {bad : Option Nat}
    (hm : Avoids parts 1577058348 := by exact ‹Avoids _ _›.mono (by decide)) :
    Within parts s0 (State.skepReread s reload bad) := by
  unfold State.skepReread
  with_reducible repeat' first | (extract_lets +onlyGivenNames x1; first | (refine Within.cut (m := parts) (s0 := s0) (v := x1) ?_ ?_; rotate_left; intro hx; clear_value x1; rotate_left; unfold x1; clear x1) | clear_value x1) | assumption | exact Within.refl _ | exact ‹Avoids _ _›.mono (by decide) | apply State.applyIdent_keeps | apply State.calCheck_keeps | apply State.ctrShow_keeps | apply State.logStart_keeps | apply State.patchFind_keeps | apply State.readTrip_keeps | split

theorem State.startsAgain_keeps {s0 s : State} (h : Within parts s0 s)
    (hm : Avoids parts 1189837020 := by exact ‹Avoids _ _›.mono (by decide)) :
    Within parts s0 (State.startsAgain s) := by
  unfold State.startsAgain
  with_reducible repeat' first | intro _ | (extract_lets +onlyGivenNames x1; first | (refine Within.cut (m := parts) (s0 := s0) (v := x1) ?_ ?_; rotate_left; intro hx; clear_value x1; rotate_left; unfold x1; clear x1) | clear_value x1) | assumption | exact Within.refl _ | exact ‹Avoids _ _›.mono (by decide) | apply State.forList_keeps | apply State.schedule_keeps | apply Within.ite

theorem execSkepRestartDone_keeps {s : State} {parityOk : Bool} {reload : Option Flash} {bad : Option Nat}
    (hm : Avoids parts 1593834236 := by exact ‹Avoids _ _›.mono (by decide)) : EKeeps parts s (execSkepRestartDone parityOk reload bad s) := by
  have h : Within parts s s := .refl s
  unfold execSkepRestartDone
  with_reducible repeat' first | (extract_lets +onlyGivenNames x1; first | (refine Within.cut (m := parts) (s0 := s) (v := x1) ?_ ?_; rotate_left; intro hx; clear_value x1; rotate_left; unfold x1; clear x1) | clear_value x1) | assumption | exact Within.refl _ | exact ‹Avoids _ _›.mono (by decide) | apply State.logBoot_keeps | apply State.set_keeps | apply State.skepReread_keeps | apply State.skepResume_keeps | apply State.startsAgain_keeps | apply State.tableRebuild_keeps | apply Within.ite | apply EKeeps.next | apply EKeeps.ite

end Sys2Proof.Machine
end

