-- ==== Sys2Proof/Laws/KeepsIrq.lean ====
section
/-!
SUPPORT. The operations of Machine/Irq.lean keep what every step keeps.
-/
set_option Elab.async false
namespace Sys2Proof.Machine

set_option linter.tactic.unusedName false

variable {parts : Nat}

theorem execGirqStatusWrite_keeps {s : State} {who : Who} {enable : Bool} {v : Word}
    (hm : Avoids parts 1082130568 := by exact ‹Avoids _ _›.mono (by decide)) : EKeeps parts s (execGirqStatusWrite who enable v s) := by
  have h : Within parts s s := .refl s
  unfold execGirqStatusWrite
  with_reducible repeat' first | intro _ | (extract_lets +onlyGivenNames x1; first | (refine Within.cut (m := parts) (s0 := s) (v := x1) ?_ ?_; rotate_left; intro hx; clear_value x1; rotate_left; unfold x1; clear x1) | clear_value x1) | assumption | exact Within.refl _ | exact ‹Avoids _ _›.mono (by decide) | apply State.aggSend_keeps | apply State.inta_keeps | apply State.setReg_keeps | apply State.viaBus_keeps | apply Within.ite | apply EKeeps.next | apply EKeeps.ite

theorem execGirqSoft_keeps {s : State} {who : Who}
    (hm : Avoids parts 1082130568 := by exact ‹Avoids _ _›.mono (by decide)) : EKeeps parts s (execGirqSoft who s) := by
  have h : Within parts s s := .refl s
  unfold execGirqSoft
  with_reducible repeat' first | intro _ | assumption | exact Within.refl _ | exact ‹Avoids _ _›.mono (by decide) | apply State.girq_keeps | apply State.viaBus_keeps | apply EKeeps.next | apply EKeeps.ite

theorem State.encBank_keeps {s0 s : State} (h : Within parts s0 s) 
    (hm : Avoids parts 1073742080 := by exact ‹Avoids _ _›.mono (by decide)) :
    Within parts s0 (State.encBank s) := by
  unfold State.encBank
  with_reducible repeat' first | intro _ | (extract_lets +onlyGivenNames x1; first | (refine Within.cut (m := parts) (s0 := s0) (v := x1) ?_ ?_; rotate_left; intro hx; clear_value x1; rotate_left; unfold x1; clear x1) | clear_value x1) | assumption | exact Within.refl _ | exact ‹Avoids _ _›.mono (by decide) | apply State.emit_keeps | apply State.forEach_keeps | apply State.setEnc_keeps | apply Within.ite

theorem execVddioGpioChange_keeps {s : State} {bank : Fin 4} {up : Bool}
    (hm : Avoids parts 1140851084 := by exact ‹Avoids _ _›.mono (by decide)) : EKeeps parts s (execVddioGpioChange bank up s) := by
  have h : Within parts s s := .refl s
  unfold execVddioGpioChange
  with_reducible repeat' first | intro _ | (extract_lets +onlyGivenNames x1; first | (refine Within.cut (m := parts) (s0 := s) (v := x1) ?_ ?_; rotate_left; intro hx; clear_value x1; rotate_left; unfold x1; clear x1) | (have g : Sward := x1; clear g) | clear_value x1) | assumption | exact Within.refl _ | exact ‹Avoids _ _›.mono (by decide) | apply State.driveOut_keeps | apply State.encBank_keeps | apply State.forEach_keeps | apply State.swChange_keeps | apply Within.ite | exact rfl | apply Within.upd_swd | apply EKeeps.next | apply EKeeps.ite

end Sys2Proof.Machine
end

