-- ==== Sys2Proof/Laws/KeepsFabric.lean ====
section
/-!
SUPPORT. The operations of Machine/Fabric.lean keep what every step keeps.
-/
set_option Elab.async false
namespace Sys2Proof.Machine

set_option linter.tactic.unusedName false

variable {parts : Nat}

theorem State.portAnswer_keeps {s0 s : State} (h : Within parts s0 s) {p : Nat} {status : Nat} {handle : Nat}
    (hm : Avoids parts 8 := by exact ‹Avoids _ _›.mono (by decide)) :
    Within parts s0 (State.portAnswer s p status handle) := by
  unfold State.portAnswer
  with_reducible repeat' first | (extract_lets +onlyGivenNames x1; first | (refine Within.cut (m := parts) (s0 := s0) (v := x1) ?_ ?_; rotate_left; intro hx; clear_value x1; rotate_left; unfold x1; clear x1) | clear_value x1) | assumption | exact Within.refl _ | exact ‹Avoids _ _›.mono (by decide) | apply State.raise_keeps | apply State.set_keeps | apply Within.ite

theorem State.peResult_keeps {s0 s : State} (h : Within parts s0 s) {c : Client} {r : PReq} {a : PAnswer}
    (hm : Avoids parts 1186695836 := by exact ‹Avoids _ _›.mono (by decide)) :
    Within parts s0 (State.peResult s c r a) := by
  unfold State.peResult
  with_reducible repeat' first | assumption | exact Within.refl _ | exact ‹Avoids _ _›.mono (by decide) | apply State.armAnswer_keeps | apply State.gateAnswer_keeps | apply State.lingAnswer_keeps | apply State.markInserted_keeps | apply State.portAnswer_keeps | apply State.raise_keeps | apply State.set_keeps | apply Within.ite | split

theorem execEntryInsertActive_keeps {s : State} {c : Client} {slot : Nat}
    (hm : Avoids parts 1186695837 := by exact ‹Avoids _ _›.mono (by decide)) : EKeeps parts s (execEntryInsertActive c slot s) := by
  have h : Within parts s s := .refl s
  unfold execEntryInsertActive
  apply EKeeps.next
  generalize s.peWaiting c = l
  cases l with
  | nil => exact h
  | cons r l => exact Within.ite (State.peResult_keeps (State.peInsert_keeps (State.peTake_keeps h))) h

theorem State.portRemoved_keeps {s0 s : State} (h : Within parts s0 s) {status : Nat} {client : Nat} {e : BitVec 128} {handle : Nat}
    (hm : Avoids parts 1186662556 := by exact ‹Avoids _ _›.mono (by decide)) :
    Within parts s0 (State.portRemoved s status client e handle) := by
  unfold State.portRemoved
  with_reducible repeat' first | assumption | exact Within.refl _ | exact ‹Avoids _ _›.mono (by decide) | apply State.gateRemoved_keeps | apply State.switchGone_keeps | apply Within.ite

theorem execEntryRemoveActive_keeps {s : State} {c : Client}
    (hm : Avoids parts 1186695836 := by exact ‹Avoids _ _›.mono (by decide)) : EKeeps parts s (execEntryRemoveActive c s) := by
  have h : Within parts s s := .refl s
  unfold execEntryRemoveActive
  apply EKeeps.next
  generalize s.peWaiting c = l
  cases l with
  | nil => exact h
  | cons r l =>
    have k := State.peRemove_keeps (c := clientCode c) (hd := r.handle) (State.peTake_keeps h (c := c))
    exact Within.ite h (State.peResult_keeps (State.genKeep_keeps (State.portRemoved_keeps k)))

theorem execEntryCrossed_keeps {s : State}
    (hm : Avoids parts 33416 := by exact ‹Avoids _ _›.mono (by decide)) : EKeeps parts s (execEntryCrossed s) := by
  have h : Within parts s s := .refl s
  unfold execEntryCrossed
  with_reducible repeat' first | assumption | exact Within.refl _ | exact ‹Avoids _ _›.mono (by decide) | apply State.countFire_keeps | apply State.fireSlot_keeps | apply State.genKeep_keeps | apply Within.ite | split | apply EKeeps.next | apply EKeeps.ite

theorem execEntryDeferredFire_keeps {s : State}
    (hm : Avoids parts 33416 := by exact ‹Avoids _ _›.mono (by decide)) : EKeeps parts s (execEntryDeferredFire s) := by
  have h : Within parts s s := .refl s
  unfold execEntryDeferredFire
  with_reducible repeat' first | assumption | exact Within.refl _ | exact ‹Avoids _ _›.mono (by decide) | apply State.countFire_keeps | apply State.fireSlot_keeps | apply State.genKeep_keeps | apply State.noteDefer_keeps | apply Within.ite | split | apply EKeeps.next | apply EKeeps.ite

theorem State.fireLates_keeps {s0 s : State} (h : Within parts s0 s) {fuel : Nat}
    (hm : Avoids parts 33416 := by exact ‹Avoids _ _›.mono (by decide)) : Within parts s0 (State.fireLates s fuel) := by
  induction fuel generalizing s with
  | zero => exact h
  | succ k ih =>
    unfold State.fireLates
    split
    · exact Within.ite (ih (State.genKeep_keeps (State.fireSlot_keeps (State.countFire_keeps h)))) h
    · exact h

theorem State.jumpLate_keeps {s0 s : State} (h : Within parts s0 s) {d : Due}
    (hm : Avoids parts 1186663069 := by exact ‹Avoids _ _›.mono (by decide)) :
    Within parts s0 (State.jumpLate s d) := by
  unfold State.jumpLate
  with_reducible repeat' first | (extract_lets +onlyGivenNames x1; first | (refine Within.cut (m := parts) (s0 := s0) (v := x1) ?_ ?_; rotate_left; intro hx; clear_value x1; rotate_left; unfold x1; clear x1) | clear_value x1) | assumption | exact Within.refl _ | exact ‹Avoids _ _›.mono (by decide) | apply State.fireLate_keeps | apply State.freeSlot_keeps | apply State.gateRemoved_keeps | apply State.noteLate_keeps | apply State.switchGone_keeps | apply Within.ite

theorem execSourceEnable_keeps {s : State} {n : Fin 8}
    (hm : Avoids parts 1186695837 := by exact ‹Avoids _ _›.mono (by decide)) : EKeeps parts s (execSourceEnable n s) := by
  have h : Within parts s s := .refl s
  unfold execSourceEnable
  with_reducible repeat' first | intro _ | (extract_lets +onlyGivenNames x1; first | (refine Within.cut (m := parts) (s0 := s) (v := x1) ?_ ?_; rotate_left; intro hx; clear_value x1; rotate_left; unfold x1; clear x1) | clear_value x1) | assumption | exact Within.refl _ | exact ‹Avoids _ _›.mono (by decide) | apply State.forList_keeps | apply State.genKeep_keeps | apply State.jumpLate_keeps | apply State.placeSource_keeps | apply State.setSrc_keeps | apply State.srcShow_keeps | apply State.startSource_keeps | apply Within.ite | split | apply EKeeps.next | apply EKeeps.ite

theorem State.runaway_keeps {s0 s : State} (h : Within parts s0 s) {c : Nat} {e : Event}
    (hm : Avoids parts 67109000 := by exact ‹Avoids _ _›.mono (by decide)) :
    Within parts s0 (State.runaway s c e) := by
  unfold State.runaway
  with_reducible repeat' first | (extract_lets +onlyGivenNames x1; first | (refine Within.cut (m := parts) (s0 := s0) (v := x1) ?_ ?_; rotate_left; intro hx; clear_value x1; rotate_left; unfold x1; clear x1) | (have g : Sward := x1; clear g) | clear_value x1) | assumption | exact Within.refl _ | exact ‹Avoids _ _›.mono (by decide) | apply State.clear_keeps | apply State.emptyFifo_keeps | apply State.log_keeps | apply State.raise_keeps | exact rfl | apply Within.upd_swd

theorem State.grant_keeps {s0 s : State} (h : Within parts s0 s) {c : Nat} {e : Event}
    (hm : Avoids parts 1149239432 := by exact ‹Avoids _ _›.mono (by decide)) : Within parts s0 (State.grant s c e) := by
  unfold State.grant
  extract_lets l s1 k g s2 s3 s4 s5
  have h1 : Within parts s0 s1 := State.setFifo_keeps h fun k => by rw [List.length_drop]; omega
  have h2 : Within parts s0 s2 := Within.upd_swd h1 rfl
  have h5 : Within parts s0 s5 := State.bump_keeps (State.girqSward_keeps (State.raiseBits_keeps (State.set_keeps h2)))
  clear_value s5
  exact Within.ite (State.runaway_keeps h5) h5

theorem State.deliverAll_keeps {s0 s : State} (h : Within parts s0 s) {e : Event}
    (hm : Avoids parts 1190895581 := by exact ‹Avoids _ _›.mono (by decide)) :
    Within parts s0 (State.deliverAll s e) := by
  unfold State.deliverAll
  with_reducible repeat' first | (extract_lets +onlyGivenNames x1; first | (refine Within.cut (m := parts) (s0 := s0) (v := x1) ?_ ?_; rotate_left; intro hx; clear_value x1; rotate_left; unfold x1; clear x1) | clear_value x1) | assumption | exact Within.refl _ | exact ‹Avoids _ _›.mono (by decide) | apply State.deliverJobs_keeps | apply State.deliverLing_keeps | apply State.deliverMarks_keeps | apply State.deliverSsi_keeps | apply State.deliverStation_keeps | apply State.deliverSward_keeps | apply State.deliverTaps_keeps | apply State.deliverTriggers_keeps

theorem execEventGrant_keeps {s : State}
    (hm : Avoids parts 1149239432 := by exact ‹Avoids _ _›.mono (by decide)) : EKeeps parts s (execEventGrant s) := by
  have h : Within parts s s := .refl s
  unfold execEventGrant
  with_reducible repeat' first | (extract_lets +onlyGivenNames x1; first | (refine Within.cut (m := parts) (s0 := s) (v := x1) ?_ ?_; rotate_left; intro hx; clear_value x1; rotate_left; unfold x1; clear x1) | (have g : Sward := x1; clear g) | clear_value x1) | assumption | exact Within.refl _ | exact ‹Avoids _ _›.mono (by decide) | apply State.grant_keeps | exact rfl | split | apply Within.upd_swd | apply EKeeps.next | apply EKeeps.ite

theorem State.deliverDue_keeps {s0 s : State} (h : Within parts s0 s)
    (hm : Avoids parts 1190895581 := by exact ‹Avoids _ _›.mono (by decide)) :
    Within parts s0 (State.deliverDue s) := by
  unfold State.deliverDue
  with_reducible repeat' first | intro _ | (extract_lets +onlyGivenNames x1; first | (refine Within.cut (m := parts) (s0 := s0) (v := x1) ?_ ?_; rotate_left; intro hx; clear_value x1; rotate_left; unfold x1; clear x1) | (have g : Sward := x1; clear g) | clear_value x1) | assumption | exact Within.refl _ | exact ‹Avoids _ _›.mono (by decide) | apply State.deliverAll_keeps | apply State.forList_keeps | exact rfl | apply Within.upd_swd

end Sys2Proof.Machine
end

