-- ==== Sys2Proof/Laws/KeepsAccess.lean ====
section
/-!
SUPPORT. The operations of Machine/Access.lean keep what every step keeps.
-/
set_option Elab.async false
namespace Sys2Proof.Machine

set_option linter.tactic.unusedName false

variable {parts : Nat}

theorem after_keeps {s0 s : State} (h : Within parts s0 s) {f : State → Host.Outcome State Fault Refusal} (hf : EKeeps parts s (f s)) :
    Within parts s0 (after s f) := by
  obtain ⟨t, e, k⟩ := hf
  unfold after
  rw [e]
  exact h.trans k

theorem State.writeGlobal_keeps {s0 s : State} (h : Within parts s0 s) {who : Who} {a : Nat} {v : Word}
    (hm : Avoids parts 1115685001 := by exact ‹Avoids _ _›.mono (by decide)) :
    OKeeps parts s0 (State.writeGlobal s who a v) := by
  unfold State.writeGlobal
  with_reducible repeat' first | assumption | exact Within.refl _ | exact ‹Avoids _ _›.mono (by decide) | apply State.boxRing_keeps | apply State.portPump_keeps | apply State.writeReg_keeps | apply after_keeps | apply execGirqSoft_keeps | apply execGirqStatusWrite_keeps | apply execSkepRestart_keeps | apply execWindowCommit_keeps | apply Within.ite | split | exact OKeeps.none | apply OKeeps.some | apply OKeeps.ite

theorem State.writeGlobal_keeps2 {s0 s : State} (h : Within parts s0 s) {who : Who} {a : Nat} {v : Word} {t : State} (e : State.writeGlobal s who a v = some t)
    (hm : Avoids parts 1115685001 := by exact ‹Avoids _ _›.mono (by decide)) : Within parts s0 t :=
  (State.writeGlobal_keeps h).out t e

theorem State.writeDoorbell_keeps {s0 s : State} (h : Within parts s0 s) {who : Who} {a : Nat} {v : Word}
    (hm : Avoids parts 1203765453 := by exact ‹Avoids _ _›.mono (by decide)) :
    OKeeps parts s0 (State.writeDoorbell s who a v) := by
  unfold State.writeDoorbell
  with_reducible repeat' first | assumption | exact Within.refl _ | exact ‹Avoids _ _›.mono (by decide) | apply after_keeps | apply execAppendDb_keeps | apply execPoolFreeDb_keeps | apply execRingHeadDb_keeps | split | exact OKeeps.none | apply OKeeps.some | apply OKeeps.ite

theorem State.writeDoorbell_keeps2 {s0 s : State} (h : Within parts s0 s) {who : Who} {a : Nat} {v : Word} {t : State} (e : State.writeDoorbell s who a v = some t)
    (hm : Avoids parts 1203765453 := by exact ‹Avoids _ _›.mono (by decide)) : Within parts s0 t :=
  (State.writeDoorbell_keeps h).out t e

theorem State.writeTrig_keeps {s0 s : State} (h : Within parts s0 s) {who : Who} {f : Fin 32} {i : Fin 8} {off : Nat} {v : Word}
    (hm : Avoids parts 1082142856 := by exact ‹Avoids _ _›.mono (by decide)) :
    OKeeps parts s0 (State.writeTrig s who f i off v) := by
  unfold State.writeTrig
  with_reducible repeat' first | assumption | exact Within.refl _ | exact ‹Avoids _ _›.mono (by decide) | apply State.set_keeps | apply State.trigRefresh_keeps | apply after_keeps | apply execTrigCtrlWrite_keeps | apply Within.ite | split | exact OKeeps.none | apply OKeeps.some | apply OKeeps.ite

theorem State.writeTrig_keeps2 {s0 s : State} (h : Within parts s0 s) {who : Who} {f : Fin 32} {i : Fin 8} {off : Nat} {v : Word} {t : State} (e : State.writeTrig s who f i off v = some t)
    (hm : Avoids parts 1082142856 := by exact ‹Avoids _ _›.mono (by decide)) : Within parts s0 t :=
  (State.writeTrig_keeps h).out t e

theorem State.writeLane_keeps {s0 s : State} (h : Within parts s0 s) {who : Who} {l : Fin 32} {off : Nat} {v : Word}
    (hm : Avoids parts 1189837020 := by exact ‹Avoids _ _›.mono (by decide)) :
    OKeeps parts s0 (State.writeLane s who l off v) := by
  unfold State.writeLane
  with_reducible repeat' first | intro _ | (extract_lets +onlyGivenNames x1; first | (refine Within.cut (m := parts) (s0 := s0) (v := x1) ?_ ?_; rotate_left; intro hx; clear_value x1; rotate_left; unfold x1; clear x1) | clear_value x1) | assumption | exact Within.refl _ | exact ‹Avoids _ _›.mono (by decide) | apply State.laneCtrlWrite_keeps | apply State.laneWrite_keeps | apply State.set_keeps | apply State.writeReg_keeps | (refine State.writeTrig_keeps2 ?_ ‹_›) | apply State.writeTrig_keeps | apply after_keeps | apply execCreditReset_keeps | apply execGrpCfgWrite_keeps | apply execInject_keeps | apply execMarginStart_keeps | apply execPropose_keeps | apply execTxCoefWrite_keeps | apply Within.ite | split | apply OKeeps.map | apply OKeeps.bind | exact OKeeps.none | apply OKeeps.some | apply OKeeps.ite

theorem State.writeLane_keeps2 {s0 s : State} (h : Within parts s0 s) {who : Who} {l : Fin 32} {off : Nat} {v : Word} {t : State} (e : State.writeLane s who l off v = some t)
    (hm : Avoids parts 1189837020 := by exact ‹Avoids _ _›.mono (by decide)) : Within parts s0 t :=
  (State.writeLane_keeps h (who := who) (l := l) (off := off) (v := v)).out t e

theorem State.writeHeads_keeps {s0 s : State} (h : Within parts s0 s) {who : Who} {a : Nat} {v : Word}
    (hm : Avoids parts 1189834908 := by exact ‹Avoids _ _›.mono (by decide)) :
    OKeeps parts s0 (State.writeHeads s who a v) := by
  unfold State.writeHeads
  with_reducible repeat' first | assumption | exact Within.refl _ | exact ‹Avoids _ _›.mono (by decide) | apply State.raise_keeps | apply after_keeps | apply execCpGo_keeps | apply execDescDisable_keeps | apply execDescEnable_keeps | apply execForget_keeps | apply execPsetWrite_keeps | apply Within.ite | split | exact OKeeps.none | apply OKeeps.some | apply OKeeps.ite

theorem State.writeHeads_keeps2 {s0 s : State} (h : Within parts s0 s) {who : Who} {a : Nat} {v : Word} {t : State} (e : State.writeHeads s who a v = some t)
    (hm : Avoids parts 1189834908 := by exact ‹Avoids _ _›.mono (by decide)) : Within parts s0 t :=
  (State.writeHeads_keeps h).out t e

theorem State.writeCreel_keeps {s0 s : State} (h : Within parts s0 s) {who : Who} {a : Nat} {v : Word}
    (hm : Avoids parts 1156121244 := by exact ‹Avoids _ _›.mono (by decide)) :
    OKeeps parts s0 (State.writeCreel s who a v) := by
  unfold State.writeCreel
  with_reducible repeat' first | assumption | exact Within.refl _ | exact ‹Avoids _ _›.mono (by decide) | apply State.histCfgWrite_keeps | apply after_keeps | apply execCtxPeek_keeps | apply execLayoutWrite_keeps | apply execMarkCfgWrite_keeps | apply execMarkClear_keeps | apply execRawSegsWrite_keeps | apply execSegQuery_keeps | apply execSetAhead_keeps | apply execSetAt_keeps | apply Within.ite | split | exact OKeeps.none | apply OKeeps.some | apply OKeeps.ite

theorem State.writeCreel_keeps2 {s0 s : State} (h : Within parts s0 s) {who : Who} {a : Nat} {v : Word} {t : State} (e : State.writeCreel s who a v = some t)
    (hm : Avoids parts 1156121244 := by exact ‹Avoids _ _›.mono (by decide)) : Within parts s0 t :=
  (State.writeCreel_keeps h).out t e

theorem State.writeCond_keeps {s0 s : State} (h : Within parts s0 s) {who : Who} {a : Nat} {v : Word}
    (hm : Avoids parts 1182990492 := by exact ‹Avoids _ _›.mono (by decide)) :
    OKeeps parts s0 (State.writeCond s who a v) := by
  unfold State.writeCond
  with_reducible repeat' first | assumption | exact Within.refl _ | exact ‹Avoids _ _›.mono (by decide) | apply State.raise_keeps | apply after_keeps | apply execAccum_keeps | apply execCalAbort_keeps | apply execCondCfgWrite_keeps | apply execLcCfgWrite_keeps | apply execLiveReset_keeps | apply execLoad_keeps | apply execLutLoad_keeps | apply execLutSave_keeps | apply execSave_keeps | apply Within.ite | split | apply OKeeps.map | apply OKeeps.bind | exact OKeeps.none | apply OKeeps.some | apply OKeeps.ite

theorem State.writeCond_keeps2 {s0 s : State} (h : Within parts s0 s) {who : Who} {a : Nat} {v : Word} {t : State} (e : State.writeCond s who a v = some t)
    (hm : Avoids parts 1182990492 := by exact ‹Avoids _ _›.mono (by decide)) : Within parts s0 t :=
  (State.writeCond_keeps h (who := who) (a := a) (v := v)).out t e

theorem State.writePlait_keeps {s0 s : State} (h : Within parts s0 s) {who : Who} {a : Nat} {v : Word}
    (hm : Avoids parts 1183252668 := by exact ‹Avoids _ _›.mono (by decide)) :
    OKeeps parts s0 (State.writePlait s who a v) := by
  unfold State.writePlait
  with_reducible repeat' first | assumption | exact Within.refl _ | exact ‹Avoids _ _›.mono (by decide) | apply State.raise_keeps | apply after_keeps | apply execGeomAbort_keeps | apply execLoadGeom_keeps | apply execLoadMap_keeps | apply execSaveGeom_keeps | apply execSaveMap_keeps | apply execTrkReset_keeps | apply execVwCtrlWrite_keeps | apply Within.ite | split | exact OKeeps.none | apply OKeeps.some | apply OKeeps.ite

theorem State.writePlait_keeps2 {s0 s : State} (h : Within parts s0 s) {who : Who} {a : Nat} {v : Word} {t : State} (e : State.writePlait s who a v = some t)
    (hm : Avoids parts 1183252668 := by exact ‹Avoids _ _›.mono (by decide)) : Within parts s0 t :=
  (State.writePlait_keeps h).out t e

theorem State.writeJobs_keeps {s0 s : State} (h : Within parts s0 s) {who : Who} {a : Nat} {v : Word}
    (hm : Avoids parts 1083179144 := by exact ‹Avoids _ _›.mono (by decide)) :
    OKeeps parts s0 (State.writeJobs s who a v) := by
  unfold State.writeJobs
  with_reducible repeat' first | (extract_lets +onlyGivenNames x1; first | (refine Within.cut (m := parts) (s0 := s0) (v := x1) ?_ ?_; rotate_left; intro hx; clear_value x1; rotate_left; unfold x1; clear x1) | clear_value x1) | assumption | exact Within.refl _ | exact ‹Avoids _ _›.mono (by decide) | apply State.raise_keeps | apply State.set_keeps | apply State.writeReg_keeps | apply after_keeps | apply execRollCmd_keeps | apply Within.ite | split | exact OKeeps.none | apply OKeeps.some | apply OKeeps.ite

theorem State.writeJobs_keeps2 {s0 s : State} (h : Within parts s0 s) {who : Who} {a : Nat} {v : Word} {t : State} (e : State.writeJobs s who a v = some t)
    (hm : Avoids parts 1083179144 := by exact ‹Avoids _ _›.mono (by decide)) : Within parts s0 t :=
  (State.writeJobs_keeps h).out t e

theorem State.writePosition_keeps {s0 s : State} (h : Within parts s0 s) {who : Who} {a : Nat} {v : Word}
    (hm : Avoids parts 1082131080 := by exact ‹Avoids _ _›.mono (by decide)) :
    OKeeps parts s0 (State.writePosition s who a v) := by
  unfold State.writePosition
  with_reducible repeat' first | (extract_lets +onlyGivenNames x1; first | (refine Within.cut (m := parts) (s0 := s0) (v := x1) ?_ ?_; rotate_left; intro hx; clear_value x1; rotate_left; unfold x1; clear x1) | clear_value x1) | assumption | exact Within.refl _ | exact ‹Avoids _ _›.mono (by decide) | apply State.raise_keeps | apply State.setMax_keeps | apply State.writeReg_keeps | apply after_keeps | apply execPortInsert_keeps | apply execPortRemove_keeps | apply execSrcCtrlWrite_keeps | apply execViewCfgWrite_keeps | apply Within.ite | split | exact OKeeps.none | apply OKeeps.some | apply OKeeps.ite

theorem State.writePosition_keeps2 {s0 s : State} (h : Within parts s0 s) {who : Who} {a : Nat} {v : Word} {t : State} (e : State.writePosition s who a v = some t)
    (hm : Avoids parts 1082131080 := by exact ‹Avoids _ _›.mono (by decide)) : Within parts s0 t :=
  (State.writePosition_keeps h).out t e

theorem State.writeInputs_keeps {s0 s : State} (h : Within parts s0 s) {who : Who} {a : Nat} {v : Word}
    (hm : Avoids parts 1182794700 := by exact ‹Avoids _ _›.mono (by decide)) :
    OKeeps parts s0 (State.writeInputs s who a v) := by
  unfold State.writeInputs
  with_reducible repeat' first | intro _ | (extract_lets +onlyGivenNames x1; first | (refine Within.cut (m := parts) (s0 := s0) (v := x1) ?_ ?_; rotate_left; intro hx; clear_value x1; rotate_left; unfold x1; clear x1) | clear_value x1) | assumption | exact Within.refl _ | exact ‹Avoids _ _›.mono (by decide) | apply State.emit_keeps | apply State.forList_keeps | apply State.setEnc_keeps | apply State.ssiClkWrite_keeps | apply State.writeReg_keeps | apply after_keeps | apply execEncCtrlWrite_keeps | apply execSpeedWindowWrite_keeps | apply execSsiCtrlWrite_keeps | apply execSwCtrlWrite_keeps | split | exact OKeeps.none | apply OKeeps.some | apply OKeeps.ite

theorem State.writeSward_keeps {s0 s : State} (h : Within parts s0 s) {who : Who} {a : Nat} {v : Word}
    (hm : Avoids parts 1149239436 := by exact ‹Avoids _ _›.mono (by decide)) :
    OKeeps parts s0 (State.writeSward s who a v) := by
  unfold State.writeSward
  with_reducible repeat' first | assumption | exact Within.refl _ | exact ‹Avoids _ _›.mono (by decide) | apply State.girqSward_keeps | apply State.writeReg_keeps | apply after_keeps | apply execChCfgWrite_keeps | apply execOutCtrlWrite_keeps | apply execSwdPub_keeps | apply Within.ite | split | exact OKeeps.none | apply OKeeps.some | apply OKeeps.ite

theorem State.writeSward_keeps2 {s0 s : State} (h : Within parts s0 s) {who : Who} {a : Nat} {v : Word} {t : State} (e : State.writeSward s who a v = some t)
    (hm : Avoids parts 1149239436 := by exact ‹Avoids _ _›.mono (by decide)) : Within parts s0 t :=
  (State.writeSward_keeps h).out t e

theorem State.writeLing_keeps {s0 s : State} (h : Within parts s0 s) {who : Who} {a : Nat} {v : Word}
    (hm : Avoids parts 1082163848 := by exact ‹Avoids _ _›.mono (by decide)) :
    OKeeps parts s0 (State.writeLing s who a v) := by
  unfold State.writeLing
  with_reducible repeat' first | (extract_lets +onlyGivenNames x1; first | (refine Within.cut (m := parts) (s0 := s0) (v := x1) ?_ ?_; rotate_left; intro hx; clear_value x1; rotate_left; unfold x1; clear x1) | clear_value x1) | assumption | exact Within.refl _ | exact ‹Avoids _ _›.mono (by decide) | apply State.genWrite_keeps | apply State.raise_keeps | apply State.set_keeps | apply State.setChain_keeps | apply after_keeps | apply execChainCfgWrite_keeps | apply execCommitCtrlGo_keeps | apply execCutClr_keeps | apply Within.ite | split | exact OKeeps.none | apply OKeeps.some | apply OKeeps.ite

theorem State.writeLing_keeps2 {s0 s : State} (h : Within parts s0 s) {who : Who} {a : Nat} {v : Word} {t : State} (e : State.writeLing s who a v = some t)
    (hm : Avoids parts 1082163848 := by exact ‹Avoids _ _›.mono (by decide)) : Within parts s0 t :=
  (State.writeLing_keeps h).out t e

theorem State.writeWithy_keeps {s0 s : State} (h : Within parts s0 s) {who : Who} {a : Nat} {v : Word}
    (hm : Avoids parts 1189675229 := by exact ‹Avoids _ _›.mono (by decide)) :
    OKeeps parts s0 (State.writeWithy s who a v) := by
  unfold State.writeWithy
  with_reducible repeat' first | assumption | exact Within.refl _ | exact ‹Avoids _ _›.mono (by decide) | apply State.raise_keeps | apply State.ringIrqCheck_keeps | apply State.writeReg_keeps | apply after_keeps | apply execDisable_keeps | apply execFbAbort_keeps | apply execFbGo_keeps | apply execPoolEnable_keeps | apply execReclaim_keeps | apply execRingEnable_keeps | apply Within.ite | split | apply OKeeps.map | apply OKeeps.bind | exact OKeeps.none | apply OKeeps.some | apply OKeeps.ite

theorem State.writeWithy_keeps2 {s0 s : State} (h : Within parts s0 s) {who : Who} {a : Nat} {v : Word} {t : State} (e : State.writeWithy s who a v = some t)
    (hm : Avoids parts 1189675229 := by exact ‹Avoids _ _›.mono (by decide)) : Within parts s0 t :=
  (State.writeWithy_keeps h (who := who) (a := a) (v := v)).out t e

theorem State.writeDma_keeps {s0 s : State} (h : Within parts s0 s) {who : Who} {a : Nat} {v : Word}
    (hm : Avoids parts 1199571149 := by exact ‹Avoids _ _›.mono (by decide)) :
    OKeeps parts s0 (State.writeDma s who a v) := by
  unfold State.writeDma
  with_reducible repeat' first | assumption | exact Within.refl _ | exact ‹Avoids _ _›.mono (by decide) | apply State.set_keeps | apply after_keeps | apply execDmaDisable_keeps | apply execDmaStart_keeps | apply Within.ite | split | exact OKeeps.none | apply OKeeps.some | apply OKeeps.ite

theorem State.writeDma_keeps2 {s0 s : State} (h : Within parts s0 s) {who : Who} {a : Nat} {v : Word} {t : State} (e : State.writeDma s who a v = some t)
    (hm : Avoids parts 1199571149 := by exact ‹Avoids _ _›.mono (by decide)) : Within parts s0 t :=
  (State.writeDma_keeps h).out t e

theorem State.writeStation_keeps {s0 s : State} (h : Within parts s0 s) {who : Who} {a : Nat} {v : Word}
    (hm : Avoids parts 1149240462 := by exact ‹Avoids _ _›.mono (by decide)) :
    OKeeps parts s0 (State.writeStation s who a v) := by
  unfold State.writeStation
  with_reducible repeat' first | intro _ | assumption | exact Within.refl _ | exact ‹Avoids _ _›.mono (by decide) | apply State.stationWrite_keeps | apply State.writeReg_keeps | apply after_keeps | apply execEthCtrlWrite_keeps | apply execRateAdjWrite_keeps | apply execTimeModeWrite_keeps | apply execTimeStepWrite_keeps | exact rfl | apply Within.ite | split | apply Within.upd_net | apply OKeeps.map | apply OKeeps.bind | exact OKeeps.none | apply OKeeps.some | apply OKeeps.ite

theorem State.writeStation_keeps2 {s0 s : State} (h : Within parts s0 s) {who : Who} {a : Nat} {v : Word} {t : State} (e : State.writeStation s who a v = some t)
    (hm : Avoids parts 1149240462 := by exact ‹Avoids _ _›.mono (by decide)) : Within parts s0 t :=
  (State.writeStation_keeps h (who := who) (a := a) (v := v)).out t e

theorem State.writeFifo_keeps {s0 s : State} (h : Within parts s0 s) {who : Who} {a : Nat} {v : Word}
    (hm : Avoids parts 1082138760 := by exact ‹Avoids _ _›.mono (by decide)) :
    OKeeps parts s0 (State.writeFifo s who a v) := by
  unfold State.writeFifo
  with_reducible repeat' first | assumption | exact Within.refl _ | exact ‹Avoids _ _›.mono (by decide) | apply after_keeps | apply execFlush_keeps | apply execMfCfgWrite_keeps | split | exact OKeeps.none | apply OKeeps.some | apply OKeeps.ite

theorem State.writeFifo_keeps2 {s0 s : State} (h : Within parts s0 s) {who : Who} {a : Nat} {v : Word} {t : State} (e : State.writeFifo s who a v = some t)
    (hm : Avoids parts 1082138760 := by exact ‹Avoids _ _›.mono (by decide)) : Within parts s0 t :=
  (State.writeFifo_keeps h).out t e

theorem State.writeSpecial_keeps {s0 s : State} (h : Within parts s0 s) {who : Who} {a : Nat} {v : Word}
    (hm : Avoids parts 1207959551 := by exact ‹Avoids _ _›.mono (by decide)) :
    OKeeps parts s0 (State.writeSpecial s who a v) := by
  unfold State.writeSpecial
  with_reducible repeat' first | assumption | exact Within.refl _ | exact ‹Avoids _ _›.mono (by decide) | (refine State.writeCond_keeps2 ?_ ‹_›) | apply State.writeCond_keeps | (refine State.writeCreel_keeps2 ?_ ‹_›) | apply State.writeCreel_keeps | (refine State.writeDma_keeps2 ?_ ‹_›) | apply State.writeDma_keeps | (refine State.writeDoorbell_keeps2 ?_ ‹_›) | apply State.writeDoorbell_keeps | (refine State.writeFifo_keeps2 ?_ ‹_›) | apply State.writeFifo_keeps | (refine State.writeGlobal_keeps2 ?_ ‹_›) | apply State.writeGlobal_keeps | (refine State.writeHeads_keeps2 ?_ ‹_›) | apply State.writeHeads_keeps | (refine State.writeInputs_keeps2 ?_ ‹_›) | apply State.writeInputs_keeps | (refine State.writeJobs_keeps2 ?_ ‹_›) | apply State.writeJobs_keeps | (refine State.writeLane_keeps2 ?_ ‹_›) | apply State.writeLane_keeps | (refine State.writeLing_keeps2 ?_ ‹_›) | apply State.writeLing_keeps | (refine State.writePlait_keeps2 ?_ ‹_›) | apply State.writePlait_keeps | (refine State.writePosition_keeps2 ?_ ‹_›) | apply State.writePosition_keeps | (refine State.writeStation_keeps2 ?_ ‹_›) | apply State.writeStation_keeps | (refine State.writeSward_keeps2 ?_ ‹_›) | apply State.writeSward_keeps | (refine State.writeWithy_keeps2 ?_ ‹_›) | apply State.writeWithy_keeps | apply Within.ite | split | exact OKeeps.none | apply OKeeps.some | apply OKeeps.ite

theorem State.writeSpecial_keeps2 {s0 s : State} (h : Within parts s0 s) {who : Who} {a : Nat} {v : Word} {t : State} (e : State.writeSpecial s who a v = some t)
    (hm : Avoids parts 1207959551 := by exact ‹Avoids _ _›.mono (by decide)) : Within parts s0 t :=
  (State.writeSpecial_keeps h).out t e

theorem State.regWrite_keeps {s0 s : State} (h : Within parts s0 s) {who : Who} {a : Nat} {v : Word}
    (hm : Avoids parts 1207959551 := by exact ‹Avoids _ _›.mono (by decide)) :
    Within parts s0 (State.regWrite s who a v) := by
  unfold State.regWrite
  with_reducible repeat' first | (extract_lets +onlyGivenNames x1; first | (refine Within.cut (m := parts) (s0 := s0) (v := x1) ?_ ?_; rotate_left; intro hx; clear_value x1; rotate_left; unfold x1; clear x1) | clear_value x1) | assumption | exact Within.refl _ | exact ‹Avoids _ _›.mono (by decide) | apply State.holdSelector_keeps | apply State.noteSelector_keeps | apply State.writeReg_keeps | (refine State.writeSpecial_keeps2 ?_ ‹_›) | apply State.writeSpecial_keeps | apply Within.ite | split

theorem State.capture_keeps {s0 s : State} (h : Within parts s0 s) {a : Nat}
    (hm : Avoids parts 8 := by exact ‹Avoids _ _›.mono (by decide)) :
    Within parts s0 (State.capture s a) := by
  unfold State.capture
  with_reducible repeat' first | (extract_lets +onlyGivenNames x1; first | (refine Within.cut (m := parts) (s0 := s0) (v := x1) ?_ ?_; rotate_left; intro hx; clear_value x1; rotate_left; unfold x1; clear x1) | clear_value x1) | assumption | exact Within.refl _ | exact ‹Avoids _ _›.mono (by decide) | apply State.set_keeps | apply State.set2_keeps | apply State.setReg_keeps | apply Within.ite | split

theorem State.rcCapture_keeps {s0 s : State} (h : Within parts s0 s) {a : Nat}
    (hm : Avoids parts 2056 := by exact ‹Avoids _ _›.mono (by decide)) :
    Within parts s0 (State.rcCapture s a) := by
  unfold State.rcCapture
  with_reducible repeat' first | assumption | exact Within.refl _ | exact ‹Avoids _ _›.mono (by decide) | apply State.prbsCapture_keeps | apply Within.ite | split

theorem State.regRead_keeps {s0 s : State} (h : Within parts s0 s) {who : Who} {a : Nat} {coincident : Bool}
    (hm : Avoids parts 2056 := by exact ‹Avoids _ _›.mono (by decide)) :
    Within parts s0 (State.regRead s who a coincident).2 := by
  unfold State.regRead
  extract_lets b
  split
  · exact h
  split
  · exact h
  split
  · exact State.capture_keeps h
  · exact State.rcNote_keeps (State.setReg_keeps (State.rcCapture_keeps h))

theorem State.placeRead_keeps {s0 s : State} (h : Within parts s0 s) {who : Who} {p : Place} {coincident : Bool}
    (hm : Avoids parts 2056 := by exact ‹Avoids _ _›.mono (by decide)) :
    Within parts s0 (State.placeRead s who p coincident).2 := by
  cases p with
  | reg a => exact State.regRead_keeps h
  | box m off => exact h
  | msix f a => exact h
  | nothing => exact h

theorem State.busRead_keeps {s0 s : State} (h : Within parts s0 s) {who : Who} {a : Nat} {coincident : Bool}
    (hm : Avoids parts 1082132616 := by exact ‹Avoids _ _›.mono (by decide)) :
    Within parts s0 (State.busRead s who a coincident) := by
  unfold State.busRead
  with_reducible repeat' first | intro _ | (extract_lets +onlyGivenNames x1; first | (refine Within.cut (m := parts) (s0 := s0) (v := x1) ?_ ?_; rotate_left; intro hx; clear_value x1; rotate_left; unfold x1; clear x1) | clear_value x1) | assumption | exact Within.refl _ | exact ‹Avoids _ _›.mono (by decide) | apply State.placeRead_keeps | apply State.readAnswer_keeps | apply State.viaBus_keeps | split

theorem State.indAccess_keeps {s0 s : State} (h : Within parts s0 s) {a : Nat} {write : Bool}
    (hm : Avoids parts 1207959551 := by exact ‹Avoids _ _›.mono (by decide)) :
    Within parts s0 (State.indAccess s a write).2 := by
  unfold State.indAccess
  split
  · exact State.regWrite_keeps h
  · exact State.regRead_keeps h
  · exact h
  · exact h

theorem State.indGo_keeps {s0 s : State} (h : Within parts s0 s) {write : Bool}
    (hm : Avoids parts 1744830463 := by exact ‹Avoids _ _›.mono (by decide)) :
    Within parts s0 (State.indGo s write) := by
  unfold State.indGo
  exact Within.ite (State.raise_keeps h) (Within.ite (State.raise_keeps h)
    (Within.upd_ind (State.clear_keeps (State.indAccess_keeps h))))

theorem State.placeWrite_keeps {s0 s : State} (h : Within parts s0 s) {who : Who} {p : Place} {v : Word}
    (hm : Avoids parts 1744830463 := by exact ‹Avoids _ _›.mono (by decide)) :
    Within parts s0 (State.placeWrite s who p v) := by
  unfold State.placeWrite
  with_reducible repeat' first | (extract_lets +onlyGivenNames x1; first | (refine Within.cut (m := parts) (s0 := s0) (v := x1) ?_ ?_; rotate_left; intro hx; clear_value x1; rotate_left; unfold x1; clear x1) | clear_value x1) | assumption | exact Within.refl _ | exact ‹Avoids _ _›.mono (by decide) | apply State.indGo_keeps | apply State.msix_keeps | apply State.msixFlush_keeps | apply State.raise_keeps | apply State.regWrite_keeps | apply State.setBox_keeps | apply State.setReg_keeps | apply Within.ite | split

theorem State.busWrite_keeps {s0 s : State} (h : Within parts s0 s) {who : Who} {a : Nat} {v : Word}
    (hm : Avoids parts 1744830463 := by exact ‹Avoids _ _›.mono (by decide)) :
    Within parts s0 (State.busWrite s who a v) := by
  unfold State.busWrite
  with_reducible repeat' first | intro _ | assumption | exact Within.refl _ | exact ‹Avoids _ _›.mono (by decide) | apply State.placeWrite_keeps | apply State.viaBus_keeps

theorem State.wordsWrite_keeps {s0 s : State} (h : Within parts s0 s) {who : Who} {a : Nat} {l : List Word}
    (hm : Avoids parts 1744830463 := by exact ‹Avoids _ _›.mono (by decide)) :
    Within parts s0 (State.wordsWrite s who a l) := by
  induction l generalizing s a with
  | nil => exact h
  | cons v vs ih => exact ih (State.placeWrite_keeps h)

theorem State.wordsRead_keeps {s0 s : State} (h : Within parts s0 s) {who : Who} {n a : Nat}
    (hm : Avoids parts 2056 := by exact ‹Avoids _ _›.mono (by decide)) :
    Within parts s0 (State.wordsRead s who n a).2 := by
  induction n generalizing s a with
  | zero => exact h
  | succ k ih => exact ih (State.placeRead_keeps h)

theorem State.blockOnly_keeps {s0 s : State} (h : Within parts s0 s) {who : Who} {a : Nat} {n : Nat} {write : Bool} {f : State → State} (h_f : ∀ t, Within parts s0 t → Within parts s0 (f t))
    (hm : Avoids parts 1082130568 := by exact ‹Avoids _ _›.mono (by decide)) :
    Within parts s0 (State.blockOnly s who a n write f) := by
  unfold State.blockOnly
  with_reducible repeat' first | intro _ | assumption | exact Within.refl _ | exact ‹Avoids _ _›.mono (by decide) | apply State.unsupported_keeps | apply State.viaBus_keeps | apply h_f | apply Within.ite | split

theorem execRegisterWrite_keeps {s : State} {who : Who} {addr : Nat} {v : Word} {more : List Word}
    (hm : Avoids parts 1744830463 := by exact ‹Avoids _ _›.mono (by decide)) : EKeeps parts s (execRegisterWrite who addr v more s) := by
  have h : Within parts s s := .refl s
  unfold execRegisterWrite
  with_reducible repeat' first | intro _ | assumption | exact Within.refl _ | exact ‹Avoids _ _›.mono (by decide) | apply State.blockOnly_keeps | apply State.busWrite_keeps | apply State.wordsWrite_keeps | split | apply EKeeps.next | apply EKeeps.ite

theorem execRcCounterRead_keeps {s : State} {who : Who} {addr : Nat} {coincident : Bool}
    (hm : Avoids parts 1082132616 := by exact ‹Avoids _ _›.mono (by decide)) : EKeeps parts s (execRcCounterRead who addr coincident s) := by
  have h : Within parts s s := .refl s
  unfold execRcCounterRead
  with_reducible repeat' first | assumption | exact Within.refl _ | exact ‹Avoids _ _›.mono (by decide) | apply State.busRead_keeps | apply EKeeps.next | apply EKeeps.ite

theorem execLoCaptureRead_keeps {s : State} {who : Who} {addr : Nat} {words : Nat}
    (hm : Avoids parts 1082132616 := by exact ‹Avoids _ _›.mono (by decide)) : EKeeps parts s (execLoCaptureRead who addr words s) := by
  have h : Within parts s s := .refl s
  unfold execLoCaptureRead
  exact EKeeps.next (Within.ite (State.busRead_keeps h) (State.blockOnly_keeps h fun _ ht =>
    Within.ite (State.readAnswer_keeps ht) (State.readAnswer_keeps (State.wordsRead_keeps ht))))

theorem execSelectorWrite_keeps {s : State} {who : Who} {addr : Nat} {v : Word}
    (hm : Avoids parts 1744830463 := by exact ‹Avoids _ _›.mono (by decide)) : EKeeps parts s (execSelectorWrite who addr v s) := by
  have h : Within parts s s := .refl s
  unfold execSelectorWrite
  with_reducible repeat' first | assumption | exact Within.refl _ | exact ‹Avoids _ _›.mono (by decide) | apply State.busWrite_keeps | apply Within.ite | apply EKeeps.next | apply EKeeps.ite

theorem execIndRead_keeps {s : State} 
    (hm : Avoids parts 1744830463 := by exact ‹Avoids _ _›.mono (by decide)) : EKeeps parts s (execIndRead s) := by
  have h : Within parts s s := .refl s
  unfold execIndRead
  with_reducible repeat' first | assumption | exact Within.refl _ | exact ‹Avoids _ _›.mono (by decide) | apply State.busWrite_keeps | apply EKeeps.next | apply EKeeps.ite

theorem execIndWrite_keeps {s : State} 
    (hm : Avoids parts 1744830463 := by exact ‹Avoids _ _›.mono (by decide)) : EKeeps parts s (execIndWrite s) := by
  have h : Within parts s s := .refl s
  unfold execIndWrite
  with_reducible repeat' first | assumption | exact Within.refl _ | exact ‹Avoids _ _›.mono (by decide) | apply State.busWrite_keeps | apply EKeeps.next | apply EKeeps.ite

theorem execIndAccessDone_keeps {s : State}
    (hm : Avoids parts 536870920 := by exact ‹Avoids _ _›.mono (by decide)) : EKeeps parts s (execIndAccessDone s) := by
  have h : Within parts s s := .refl s
  unfold execIndAccessDone
  with_reducible repeat' first | (extract_lets +onlyGivenNames x1; first | (refine Within.cut (m := parts) (s0 := s) (v := x1) ?_ ?_; rotate_left; intro hx; clear_value x1; rotate_left; unfold x1; clear x1) | clear_value x1) | assumption | exact Within.refl _ | exact ‹Avoids _ _›.mono (by decide) | apply State.raise_keeps | apply State.setReg_keeps | exact rfl | split | apply Within.upd_ind | apply EKeeps.next | apply EKeeps.ite

end Sys2Proof.Machine
end

