-- ==== Sys2Proof/Laws/KeepsWire.lean ====
section
/-!
SUPPORT. The operations of Machine/Wire.lean keep what every step keeps.
-/
set_option Elab.async false
namespace Sys2Proof.Machine

set_option linter.tactic.unusedName false

variable {parts : Nat}

theorem State.laneSend_keeps {s0 s : State} (h : Within parts s0 s) {l : Nat} {bits : List Bool}
    (hm : Avoids parts 1073743872 := by exact ‹Avoids _ _›.mono (by decide)) :
    Within parts s0 (State.laneSend s l bits) := by
  unfold State.laneSend
  with_reducible repeat' first | (extract_lets +onlyGivenNames x1; first | (refine Within.cut (m := parts) (s0 := s0) (v := x1) ?_ ?_; rotate_left; intro hx; clear_value x1; rotate_left; unfold x1; clear x1) | clear_value x1) | assumption | exact Within.refl _ | exact ‹Avoids _ _›.mono (by decide) | apply State.laneLevels_keeps | apply State.setLane_keeps

theorem State.laneCheck_keeps {s0 s : State} (h : Within parts s0 s) {l : Nat} {bits : List Bool}
    (hm : Avoids parts 2056 := by exact ‹Avoids _ _›.mono (by decide)) :
    Within parts s0 (State.laneCheck s l bits) := by
  unfold State.laneCheck
  with_reducible repeat' first | (extract_lets +onlyGivenNames x1; first | (refine Within.cut (m := parts) (s0 := s0) (v := x1) ?_ ?_; rotate_left; intro hx; clear_value x1; rotate_left; unfold x1; clear x1) | clear_value x1) | assumption | exact Within.refl _ | exact ‹Avoids _ _›.mono (by decide) | apply State.foldl_keeps | apply State.prbsCount_keeps | apply State.prbsLost_keeps | apply State.raise_keeps | apply State.setLane_keeps | apply Within.ite

theorem State.laneOut_keeps {s0 s : State} (h : Within parts s0 s) {l : Nat} {bits : List Bool}
    (hm : Avoids parts 1073743880 := by exact ‹Avoids _ _›.mono (by decide)) :
    Within parts s0 (State.laneOut s l bits) := by
  unfold State.laneOut
  with_reducible repeat' first | (extract_lets +onlyGivenNames x1; first | (refine Within.cut (m := parts) (s0 := s0) (v := x1) ?_ ?_; rotate_left; intro hx; clear_value x1; rotate_left; unfold x1; clear x1) | clear_value x1) | assumption | exact Within.refl _ | exact ‹Avoids _ _›.mono (by decide) | apply State.laneCheck_keeps | apply State.laneSend_keeps | apply State.laneTook_keeps | apply Within.ite

theorem State.servePattern_keeps {s0 s : State} (h : Within parts s0 s) {l : Nat}
    (hm : Avoids parts 1073743884 := by exact ‹Avoids _ _›.mono (by decide)) :
    Within parts s0 (State.servePattern s l) := by
  unfold State.servePattern
  with_reducible repeat' first | (extract_lets +onlyGivenNames x1; first | (refine Within.cut (m := parts) (s0 := s0) (v := x1) ?_ ?_; rotate_left; intro hx; clear_value x1; rotate_left; unfold x1; clear x1) | clear_value x1) | assumption | exact Within.refl _ | exact ‹Avoids _ _›.mono (by decide) | apply State.laneOut_keeps | apply State.setLane_keeps | apply State.useFree_keeps | apply Within.ite | split

theorem State.laneWord_keeps {s0 s : State} (h : Within parts s0 s) {l : Nat} {mark : List Bool} {bits : List Bool}
    (hm : Avoids parts 1073743880 := by exact ‹Avoids _ _›.mono (by decide)) :
    Within parts s0 (State.laneWord s l mark bits) := by
  unfold State.laneWord
  with_reducible repeat' first | (extract_lets +onlyGivenNames x1; first | (refine Within.cut (m := parts) (s0 := s0) (v := x1) ?_ ?_; rotate_left; intro hx; clear_value x1; rotate_left; unfold x1; clear x1) | clear_value x1) | assumption | exact Within.refl _ | exact ‹Avoids _ _›.mono (by decide) | apply State.laneOut_keeps | apply State.setLane_keeps | apply Within.ite

theorem State.laneHeard_keeps {s0 s : State} (h : Within parts s0 s) {l : Nat} {first : Bool} {b : List Bool}
    (hm : Avoids parts 1189836956 := by exact ‹Avoids _ _›.mono (by decide)) :
    Within parts s0 (State.laneHeard s l first b) := by
  unfold State.laneHeard
  with_reducible repeat' first | (extract_lets +onlyGivenNames x1; first | (refine Within.cut (m := parts) (s0 := s0) (v := x1) ?_ ?_; rotate_left; intro hx; clear_value x1; rotate_left; unfold x1; clear x1) | clear_value x1) | assumption | exact Within.refl _ | exact ‹Avoids _ _›.mono (by decide) | apply State.laneBip_keeps | apply State.markerIn_keeps | apply State.setLane_keeps | apply Within.ite

theorem State.linkBack_keeps {s0 s : State} (h : Within parts s0 s) {f : Nat}
    (hm : Avoids parts 1189834908 := by exact ‹Avoids _ _›.mono (by decide)) :
    Within parts s0 (State.linkBack s f) := by
  unfold State.linkBack
  with_reducible repeat' first | intro _ | (extract_lets +onlyGivenNames x1; first | (refine Within.cut (m := parts) (s0 := s0) (v := x1) ?_ ?_; rotate_left; intro hx; clear_value x1; rotate_left; unfold x1; clear x1) | clear_value x1) | assumption | exact Within.refl _ | exact ‹Avoids _ _›.mono (by decide) | apply State.codewordIn_keeps | apply Within.ite

theorem State.sendCodeword_keeps {s0 s : State} (h : Within parts s0 s) {f : Nat} {left : Nat}
    (hm : Avoids parts 1189836956 := by exact ‹Avoids _ _›.mono (by decide)) :
    Within parts s0 (State.sendCodeword s f left) := by
  unfold State.sendCodeword
  with_reducible repeat' first | intro _ | (extract_lets +onlyGivenNames x1; first | (refine Within.cut (m := parts) (s0 := s0) (v := x1) ?_ ?_; rotate_left; intro hx; clear_value x1; rotate_left; unfold x1; clear x1) | clear_value x1) | assumption | exact Within.refl _ | exact ‹Avoids _ _›.mono (by decide) | apply State.emit_keeps | apply State.forList_keeps | apply State.laneHeard_keeps | apply State.laneWord_keeps | apply State.linkBack_keeps | apply State.setLink_keeps | apply Within.ite

theorem State.serveLink_keeps {s0 s : State} (h : Within parts s0 s) {f : Nat}
    (hm : Avoids parts 1189836956 := by exact ‹Avoids _ _›.mono (by decide)) :
    Within parts s0 (State.serveLink s f) := by
  unfold State.serveLink
  with_reducible repeat' first | (extract_lets +onlyGivenNames x1; first | (refine Within.cut (m := parts) (s0 := s0) (v := x1) ?_ ?_; rotate_left; intro hx; clear_value x1; rotate_left; unfold x1; clear x1) | clear_value x1) | assumption | exact Within.refl _ | exact ‹Avoids _ _›.mono (by decide) | apply State.sendCodeword_keeps | apply State.setLink_keeps | apply Within.ite

theorem State.serveLanes_keeps {s0 s : State} (h : Within parts s0 s)
    (hm : Avoids parts 1189836956 := by exact ‹Avoids _ _›.mono (by decide)) :
    Within parts s0 (State.serveLanes s) := by
  unfold State.serveLanes
  with_reducible repeat' first | intro _ | assumption | exact Within.refl _ | exact ‹Avoids _ _›.mono (by decide) | apply State.forEach_keeps | apply State.serveLink_keeps | apply State.servePattern_keeps

end Sys2Proof.Machine
end

