-- ==== Sys2Proof/Laws/KeepsTick.lean ====
section
/-!
SUPPORT. The operations of Machine/Tick.lean keep what every step keeps.
-/
set_option Elab.async false
namespace Sys2Proof.Machine

set_option linter.tactic.unusedName false

variable {parts : Nat}

theorem State.endClock_keeps {s0 s : State} (h : Within parts s0 s)
    (hm : Avoids parts 1190895581 := by exact ‹Avoids _ _›.mono (by decide)) :
    Within parts s0 (State.endClock s) := by
  unfold State.endClock
  with_reducible repeat' first | assumption | exact Within.refl _ | exact ‹Avoids _ _›.mono (by decide) | apply State.closeClock_keeps | apply State.deferRest_keeps | apply State.deliverDue_keeps | apply State.encReference_keeps | apply State.fireLates_keeps | apply State.zonesApply_keeps

theorem State.startClock_keeps {s0 s : State} (h : Within parts s0 s)
    (hm : Avoids parts 1189838495 := by exact ‹Avoids _ _›.mono (by decide)) :
    Within parts s0 (State.startClock s) := by
  unfold State.startClock
  with_reducible repeat' first | assumption | exact Within.refl _ | exact ‹Avoids _ _›.mono (by decide) | apply State.arriveAsync_keeps | apply State.serveLanes_keeps | apply State.serveStation_keeps | apply State.tickSources_keeps | apply State.timeTick_keeps | exact rfl | apply Within.upd_clk

theorem State.tick_keeps {s0 s : State} (h : Within parts s0 s)
    (hm : Avoids parts 1190920159 := by exact ‹Avoids _ _›.mono (by decide)) :
    Within parts s0 (State.tick s) := by
  unfold State.tick
  with_reducible repeat' first | assumption | exact Within.refl _ | exact ‹Avoids _ _›.mono (by decide) | apply State.endClock_keeps | apply State.startClock_keeps

end Sys2Proof.Machine
end

