-- ==== Sys2Proof/Laws/Ops.lean ====
section
/-!
SUPPORT. The laws of the named operations: a register or field reads back what was written, every other one reads as before;
the same of bytes of the memories; the two readings of a number of bits undo each other.
-/
set_option Elab.async false
namespace Sys2Proof.Machine

/-! ## Bits -/

theorem two_pow_pos (n : Nat) : 0 < 2 ^ n := Nat.pos_of_ne_zero (by simp)

/-- The three parts of a number around a field. -/
theorem bits_split (x lo w : Nat) : x = x / 2 ^ (lo + w) * 2 ^ (lo + w) + bitsOf x lo w * 2 ^ lo + x % 2 ^ lo := by
  unfold bitsOf
  have h1 := Nat.div_add_mod x (2 ^ lo)
  have h2 := Nat.div_add_mod (x / 2 ^ lo) (2 ^ w)
  rw [Nat.div_div_eq_div_mul, ← Nat.pow_add] at h2
  have h3 : x / 2 ^ lo * 2 ^ lo = x / 2 ^ (lo + w) * 2 ^ (lo + w) + x / 2 ^ lo % 2 ^ w * 2 ^ lo := by
    conv => lhs; rw [← h2]
    rw [Nat.add_mul, Nat.mul_comm (2 ^ w), Nat.mul_assoc, ← Nat.pow_add, Nat.add_comm w]
  rw [← h3, Nat.mul_comm]
  exact h1.symm

theorem bitsOf_lt (x lo w : Nat) : bitsOf x lo w < 2 ^ w := Nat.mod_lt _ (two_pow_pos w)

/-- A number whose field has been replaced, by its three parts. -/
theorem putBits_eq (x lo w v : Nat) :
    putBits x lo w v = x / 2 ^ (lo + w) * 2 ^ (lo + w) + v % 2 ^ w * 2 ^ lo + x % 2 ^ lo := by
  unfold putBits
  have h := bits_split x lo w
  omega

theorem part_lt {m l lo w : Nat} (hm : m < 2 ^ w) (hl : l < 2 ^ lo) : m * 2 ^ lo + l < 2 ^ (lo + w) := by
  rw [Nat.add_comm lo w, Nat.pow_add]
  calc m * 2 ^ lo + l < m * 2 ^ lo + 2 ^ lo := by omega
    _ = (m + 1) * 2 ^ lo := by rw [Nat.add_mul, Nat.one_mul]
    _ ≤ 2 ^ w * 2 ^ lo := Nat.mul_le_mul_right _ hm

theorem bitsOf_parts {h m l lo w : Nat} (hm : m < 2 ^ w) (hl : l < 2 ^ lo) :
    bitsOf (h * 2 ^ (lo + w) + m * 2 ^ lo + l) lo w = m := by
  unfold bitsOf
  have e : h * 2 ^ (lo + w) + m * 2 ^ lo + l = l + 2 ^ lo * (h * 2 ^ w + m) := by
    rw [Nat.pow_add, Nat.mul_add, Nat.mul_left_comm, Nat.mul_comm (2 ^ lo) m, ← Nat.mul_assoc]
    rw [Nat.mul_assoc, Nat.mul_left_comm]
    omega
  rw [e, Nat.add_mul_div_left _ _ (two_pow_pos lo), Nat.div_eq_of_lt hl, Nat.zero_add, Nat.add_comm,
    Nat.add_mul_mod_self_right, Nat.mod_eq_of_lt hm]

/-- The field replaced reads what was put. -/
theorem bitsOf_putBits_self (x lo w v : Nat) : bitsOf (putBits x lo w v) lo w = v % 2 ^ w := by
  rw [putBits_eq]
  exact bitsOf_parts (Nat.mod_lt _ (two_pow_pos w)) (Nat.mod_lt _ (two_pow_pos lo))

theorem bitAt_eq_testBit (x i : Nat) : bitAt x i = x.testBit i := by
  unfold bitAt
  rw [Nat.testBit_eq_decide_div_mod_eq]
  simp [BEq.beq]

theorem testBit_bitsOf (x lo w i : Nat) : (bitsOf x lo w).testBit i = (decide (i < w) && x.testBit (lo + i)) := by
  unfold bitsOf
  rw [Nat.testBit_mod_two_pow, Nat.testBit_div_two_pow, Nat.add_comm i lo]

theorem testBit_putBits (x lo w v i : Nat) :
    (putBits x lo w v).testBit i = if lo ≤ i ∧ i < lo + w then v.testBit (i - lo) else x.testBit i := by
  rw [putBits_eq]
  have hv : v % 2 ^ w < 2 ^ w := Nat.mod_lt _ (two_pow_pos w)
  have hx : x % 2 ^ lo < 2 ^ lo := Nat.mod_lt _ (two_pow_pos lo)
  have e : x / 2 ^ (lo + w) * 2 ^ (lo + w) + v % 2 ^ w * 2 ^ lo + x % 2 ^ lo =
      2 ^ (lo + w) * (x / 2 ^ (lo + w)) + (2 ^ lo * (v % 2 ^ w) + x % 2 ^ lo) := by
    rw [Nat.mul_comm, Nat.mul_comm (v % 2 ^ w)]; omega
  have hs : 2 ^ lo * (v % 2 ^ w) + x % 2 ^ lo < 2 ^ (lo + w) := by
    rw [Nat.mul_comm]; exact part_lt hv hx
  rw [e, Nat.testBit_two_pow_mul_add _ hs, Nat.testBit_two_pow_mul_add _ hx]
  by_cases h1 : i < lo + w
  · by_cases h2 : i < lo
    · rw [if_neg (by omega : ¬ (lo ≤ i ∧ i < lo + w))]
      simp [h1, h2, Nat.testBit_mod_two_pow]
    · have h3 : lo ≤ i ∧ i < lo + w := by omega
      have h4 : i - lo < w := by omega
      simp [h1, h2, h3, h4, Nat.testBit_mod_two_pow]
  · have : ¬ (lo ≤ i ∧ i < lo + w) := by omega
    have e2 : i - (lo + w) + (lo + w) = i := by omega
    simp [h1, Nat.testBit_div_two_pow, e2]

/-- A field that shares no bit with the field replaced reads as before. -/
theorem bitsOf_putBits_of_apart {lo w lo' w' : Nat} (x v : Nat) (h : lo + w ≤ lo' ∨ lo' + w' ≤ lo) :
    bitsOf (putBits x lo w v) lo' w' = bitsOf x lo' w' := by
  apply Nat.eq_of_testBit_eq
  intro i
  rw [testBit_bitsOf, testBit_bitsOf, testBit_putBits]
  by_cases hi : i < w'
  · have : ¬ (lo ≤ lo' + i ∧ lo' + i < lo + w) := by omega
    simp [hi, this]
  · simp [hi]

theorem putBits_lt {x lo w v n : Nat} (hx : x < 2 ^ n) (hn : lo + w ≤ n) : putBits x lo w v < 2 ^ n := by
  apply Nat.lt_pow_two_of_testBit
  intro i hi
  rw [testBit_putBits]
  have : ¬ (lo ≤ i ∧ i < lo + w) := by omega
  rw [if_neg this]
  exact Nat.testBit_lt_two_pow (Nat.lt_of_lt_of_le hx (Nat.pow_le_pow_right (by decide) hi))

/-! ## Registers and fields -/

@[simp] theorem State.reg_setReg_self (s : State) (a : Nat) (v : Word) : (s.setReg a v).reg a = v := Tbl.get_put_self _ _ _ _

theorem State.reg_setReg_of_ne (s : State) {a b : Nat} (v : Word) (h : b ≠ a) : (s.setReg a v).reg b = s.reg b :=
  Tbl.get_put_of_ne _ _ _ _ h

theorem State.reg_setReg (s : State) (a b : Nat) (v : Word) : (s.setReg a v).reg b = if b = a then v else s.reg b := by
  split
  · next h => rw [h, State.reg_setReg_self]
  · next h => exact State.reg_setReg_of_ne s v h

/-- A write of a field leaves every other register as it was. -/
theorem State.reg_set_of_ne (s : State) {f : Fld} {b : Nat} (v : Nat) (h : b ≠ f.addr) : (s.set f v).reg b = s.reg b :=
  State.reg_setReg_of_ne s _ h

theorem State.reg_bumpSat_of_ne (s : State) {f : Fld} {b : Nat} (n : Nat) (h : b ≠ f.addr) : (s.bumpSat f n).reg b = s.reg b := by
  unfold State.bumpSat State.rcNote
  exact State.reg_set_of_ne s _ h

/-- A field reads back the low bits of what was written. -/
theorem State.get_set_self (s : State) {f : Fld} (v : Nat) (hf : f.lo + f.w ≤ 32) : (s.set f v).get f = v % 2 ^ f.w := by
  unfold State.get State.set
  rw [State.reg_setReg_self, BitVec.toNat_ofNat, Nat.mod_eq_of_lt (putBits_lt (s.reg f.addr).isLt hf), bitsOf_putBits_self]

/-- A field in another register reads as before. -/
theorem State.get_set_of_ne (s : State) {f g : Fld} (v : Nat) (h : g.addr ≠ f.addr) : (s.set f v).get g = s.get g := by
  unfold State.get
  rw [State.reg_set_of_ne s v h]

/-- Fields of one register that share no bit, or fields of different registers. -/
abbrev Fld.Apart (f g : Fld) : Prop := g.addr ≠ f.addr ∨ f.lo + f.w ≤ g.lo ∨ g.lo + g.w ≤ f.lo

/-- A field that shares no bit with the field written reads as before. -/
theorem State.get_set_of_apart (s : State) {f g : Fld} (v : Nat) (hf : f.lo + f.w ≤ 32) (h : f.Apart g) :
    (s.set f v).get g = s.get g := by
  by_cases ha : g.addr = f.addr
  · unfold State.get State.set
    rw [ha, State.reg_setReg_self, BitVec.toNat_ofNat, Nat.mod_eq_of_lt (putBits_lt (s.reg f.addr).isLt hf)]
    exact bitsOf_putBits_of_apart _ _ (h.resolve_left fun k => k ha)
  · exact State.get_set_of_ne s v ha

theorem State.get_lt (s : State) (f : Fld) : s.get f < 2 ^ f.w := bitsOf_lt _ _ _

/-- A register whose last entry has been dropped reads its reset value, every other one as before. -/
theorem State.reg_resetRegs (s : State) (lo hi b : Nat) :
    (s.resetRegs lo hi).reg b = if lo ≤ b ∧ b < hi then regReset b else s.reg b := by
  unfold State.reg State.resetRegs Tbl.get
  dsimp only
  generalize s.regs = l
  induction l with
  | nil => simp [Tbl.find]
  | cons e l ih =>
    obtain ⟨k, v⟩ := e
    rw [List.filter_cons]
    by_cases hk : k < lo ∨ hi ≤ k
    · simp only [hk, decide_true, if_true, Tbl.find]
      by_cases hb : k = b
      · have : ¬ (lo ≤ b ∧ b < hi) := by omega
        simp [hb, this]
      · simpa only [if_neg hb] using ih
    · simp only [hk, decide_false, Bool.false_eq_true, if_false, Tbl.find]
      by_cases hb : k = b
      · have h2 : lo ≤ b ∧ b < hi := by omega
        simpa [hb, h2] using ih
      · simpa only [if_neg hb] using ih

/-! ## Memories -/

@[simp] theorem State.byte_setByte_self (s : State) (a : Nat) (b : Byte) : (s.setByte a b).byte a = b := Tbl.get_put_self _ _ _ _

theorem State.byte_setByte_of_ne (s : State) {a c : Nat} (b : Byte) (h : c ≠ a) : (s.setByte a b).byte c = s.byte c :=
  Tbl.get_put_of_ne _ _ _ _ h

@[simp] theorem State.nvByte_setNvByte_self (s : State) (a : Nat) (b : Byte) : (s.setNvByte a b).nvByte a = b := Tbl.get_put_self _ _ _ _

theorem State.nvByte_setNvByte_of_ne (s : State) {a c : Nat} (b : Byte) (h : c ≠ a) : (s.setNvByte a b).nvByte c = s.nvByte c :=
  Tbl.get_put_of_ne _ _ _ _ h

/-- Bytes stored one after the other: an address among them reads its byte, every other address reads as before. -/
theorem State.byte_setBytes (s : State) (a c : Nat) (bs : List Byte) :
    (s.setBytes a bs).byte c = if a ≤ c then (bs[c - a]?).getD (s.byte c) else s.byte c := by
  induction bs generalizing s a with
  | nil => simp [State.setBytes]
  | cons b bs ih =>
    unfold State.setBytes
    rw [ih]
    by_cases h1 : a + 1 ≤ c
    · have h2 : a ≤ c := by omega
      have h3 : c - a = (c - (a + 1)) + 1 := by omega
      rw [if_pos h1, if_pos h2, h3, List.getElem?_cons_succ, State.byte_setByte_of_ne s b (by omega)]
    · rw [if_neg h1]
      by_cases h2 : c = a
      · subst h2; simp
      · have : ¬ a ≤ c := by omega
        rw [if_neg this, State.byte_setByte_of_ne s b h2]

theorem State.nvByte_setNvBytes (s : State) (a c : Nat) (bs : List Byte) :
    (s.setNvBytes a bs).nvByte c = if a ≤ c then (bs[c - a]?).getD (s.nvByte c) else s.nvByte c := by
  induction bs generalizing s a with
  | nil => simp [State.setNvBytes]
  | cons b bs ih =>
    unfold State.setNvBytes
    rw [ih]
    by_cases h1 : a + 1 ≤ c
    · have h2 : a ≤ c := by omega
      have h3 : c - a = (c - (a + 1)) + 1 := by omega
      rw [if_pos h1, if_pos h2, h3, List.getElem?_cons_succ, State.nvByte_setNvByte_of_ne s b (by omega)]
    · rw [if_neg h1]
      by_cases h2 : c = a
      · subst h2; simp
      · have : ¬ a ≤ c := by omega
        rw [if_neg this, State.nvByte_setNvByte_of_ne s b h2]

/-! ## Little-endian numbers -/

theorem leBytes_length (n x : Nat) : (leBytes n x).length = n := by
  induction n generalizing x with
  | zero => rfl
  | succ n ih => simp [leBytes, ih]

/-- The `n` bytes of a number read back its value modulo 256ⁿ. -/
theorem leNat_leBytes (n x : Nat) : leNat (leBytes n x) = x % 256 ^ n := by
  induction n generalizing x with
  | zero => simp [leBytes, leNat, Nat.mod_one]
  | succ n ih =>
    simp only [leBytes, leNat, ih, BitVec.toNat_ofNat]
    rw [show 256 ^ (n + 1) = 256 * 256 ^ n by rw [Nat.pow_succ, Nat.mul_comm], Nat.mod_mul]

/-! ## Position words -/

theorem signed_unsigned (w : Nat) (hw : 0 < w) (x : Int) (h1 : -(2 ^ (w - 1) : Nat) ≤ x) (h2 : x < (2 ^ (w - 1) : Nat)) :
    signed w (unsigned w x) = x := by
  obtain ⟨n, rfl⟩ : ∃ n, w = n + 1 := ⟨w - 1, by omega⟩
  simp only [Nat.add_sub_cancel] at h1 h2
  have hp : 2 ^ (n + 1) = 2 * 2 ^ n := by rw [Nat.pow_succ, Nat.mul_comm]
  unfold signed unsigned
  rw [hp] at *
  generalize 2 ^ n = p at *
  have hpos : 0 < p := by omega
  by_cases hx : 0 ≤ x
  · have e : x % ((2 * p : Nat) : Int) = x := Int.emod_eq_of_lt hx (by omega)
    rw [e, Nat.mod_eq_of_lt (by omega)]
    rw [if_pos (by omega)]; omega
  · have e : x % ((2 * p : Nat) : Int) = x + (2 * p : Nat) := by
      rw [← Int.add_emod_right]
      exact Int.emod_eq_of_lt (by omega) (by omega)
    rw [e, Nat.mod_eq_of_lt (by omega)]
    rw [if_neg (by omega)]; omega

end Sys2Proof.Machine
end

