-- ==== Sys2Proof/Laws/State.lean ====
section
/-!
SUPPORT. What each update of the state leaves as it was, one lemma per field and update, and what the field it writes then holds. No proof
needs to unfold an update.
-/
set_option Elab.async false
namespace Sys2Proof.Machine

variable (s : State)

/-! ## Names for writes of a field -/

@[simp] theorem State.raise_eq (f : Fld) : s.raise f = (s.set f 1).note f.addr (2 ^ f.lo) := rfl
@[simp] theorem State.raiseBits_eq (f : Fld) (m : Nat) : s.raiseBits f m = (s.set f (s.get f ||| m)).note f.addr (m * 2 ^ f.lo) := rfl
@[simp] theorem State.clear_eq (f : Fld) : s.clear f = s.set f 0 := rfl
@[simp] theorem State.setFlag_eq (f : Fld) (b : Bool) : s.setFlag f b = s.set f b.toNat := rfl
@[simp] theorem State.bump_eq (f : Fld) (n : Nat) : s.bump f n = s.set f (s.get f + n) := rfl
@[simp] theorem State.bumpSat_eq (f : Fld) (n : Nat) : 
    s.bumpSat f n = (s.set f (min (s.get f + n) (2 ^ f.w - 1))).rcNote f.addr (s.rcWas f.addr).1 ((s.rcWas f.addr).2 + n) := rfl
@[simp] theorem State.setInt_eq (f : Fld) (v : Int) : s.setInt f v = s.set f (unsigned f.w v) := rfl
@[simp] theorem State.set2_eq (lo hi : Fld) (v : Nat) : s.set2 lo hi v = (s.set lo v).set hi (v / 2 ^ lo.w) := rfl

/-! ## setReg -/

@[simp] theorem State.setReg_clk (a : Nat) (v : Word) : (s.setReg a v).clk = s.clk := rfl
@[simp] theorem State.setReg_free (a : Nat) (v : Word) : (s.setReg a v).free = s.free := rfl
@[simp] theorem State.setReg_timeNs (a : Nat) (v : Word) : (s.setReg a v).timeNs = s.timeNs := rfl
@[simp] theorem State.setReg_timeFrac (a : Nat) (v : Word) : (s.setReg a v).timeFrac = s.timeFrac := rfl
@[simp] theorem State.setReg_mem (a : Nat) (v : Word) : (s.setReg a v).mem = s.mem := rfl
@[simp] theorem State.setReg_mram (a : Nat) (v : Word) : (s.setReg a v).mram = s.mram := rfl
@[simp] theorem State.setReg_units (a : Nat) (v : Word) : (s.setReg a v).units = s.units := rfl
@[simp] theorem State.setReg_swd (a : Nat) (v : Word) : (s.setReg a v).swd = s.swd := rfl
@[simp] theorem State.setReg_risen (a : Nat) (v : Word) : (s.setReg a v).risen = s.risen := rfl
@[simp] theorem State.setReg_enc (a : Nat) (v : Word) : (s.setReg a v).enc = s.enc := rfl
@[simp] theorem State.setReg_ssi (a : Nat) (v : Word) : (s.setReg a v).ssi = s.ssi := rfl
@[simp] theorem State.setReg_sw (a : Nat) (v : Word) : (s.setReg a v).sw = s.sw := rfl
@[simp] theorem State.setReg_pe (a : Nat) (v : Word) : (s.setReg a v).pe = s.pe := rfl
@[simp] theorem State.setReg_net (a : Nat) (v : Word) : (s.setReg a v).net = s.net := rfl
@[simp] theorem State.setReg_rxLast (a : Nat) (v : Word) : (s.setReg a v).rxLast = s.rxLast := rfl
@[simp] theorem State.setReg_lanes (a : Nat) (v : Word) : (s.setReg a v).lanes = s.lanes := rfl
@[simp] theorem State.setReg_pllUp (a : Nat) (v : Word) : (s.setReg a v).pllUp = s.pllUp := rfl
@[simp] theorem State.setReg_pllLost (a : Nat) (v : Word) : (s.setReg a v).pllLost = s.pllLost := rfl
@[simp] theorem State.setReg_links (a : Nat) (v : Word) : (s.setReg a v).links = s.links := rfl
@[simp] theorem State.setReg_eps (a : Nat) (v : Word) : (s.setReg a v).eps = s.eps := rfl
@[simp] theorem State.setReg_streams (a : Nat) (v : Word) : (s.setReg a v).streams = s.streams := rfl
@[simp] theorem State.setReg_enrolQ (a : Nat) (v : Word) : (s.setReg a v).enrolQ = s.enrolQ := rfl
@[simp] theorem State.setReg_enrolling (a : Nat) (v : Word) : (s.setReg a v).enrolling = s.enrolling := rfl
@[simp] theorem State.setReg_upCount (a : Nat) (v : Word) : (s.setReg a v).upCount = s.upCount := rfl
@[simp] theorem State.setReg_groups (a : Nat) (v : Word) : (s.setReg a v).groups = s.groups := rfl
@[simp] theorem State.setReg_chains (a : Nat) (v : Word) : (s.setReg a v).chains = s.chains := rfl
@[simp] theorem State.setReg_creel (a : Nat) (v : Word) : (s.setReg a v).creel = s.creel := rfl
@[simp] theorem State.setReg_cond (a : Nat) (v : Word) : (s.setReg a v).cond = s.cond := rfl
@[simp] theorem State.setReg_plait (a : Nat) (v : Word) : (s.setReg a v).plait = s.plait := rfl
@[simp] theorem State.setReg_ctxs (a : Nat) (v : Word) : (s.setReg a v).ctxs = s.ctxs := rfl
@[simp] theorem State.setReg_ctxFresh (a : Nat) (v : Word) : (s.setReg a v).ctxFresh = s.ctxFresh := rfl
@[simp] theorem State.setReg_ctxQueue (a : Nat) (v : Word) : (s.setReg a v).ctxQueue = s.ctxQueue := rfl
@[simp] theorem State.setReg_noCtxKey (a : Nat) (v : Word) : (s.setReg a v).noCtxKey = s.noCtxKey := rfl
@[simp] theorem State.setReg_jobs (a : Nat) (v : Word) : (s.setReg a v).jobs = s.jobs := rfl
@[simp] theorem State.setReg_candFree (a : Nat) (v : Word) : (s.setReg a v).candFree = s.candFree := rfl
@[simp] theorem State.setReg_candOf (a : Nat) (v : Word) : (s.setReg a v).candOf = s.candOf := rfl
@[simp] theorem State.setReg_compare (a : Nat) (v : Word) : (s.setReg a v).compare = s.compare := rfl
@[simp] theorem State.setReg_ringQ (a : Nat) (v : Word) : (s.setReg a v).ringQ = s.ringQ := rfl
@[simp] theorem State.setReg_ringLost (a : Nat) (v : Word) : (s.setReg a v).ringLost = s.ringLost := rfl
@[simp] theorem State.setReg_repeatsOut (a : Nat) (v : Word) : (s.setReg a v).repeatsOut = s.repeatsOut := rfl
@[simp] theorem State.setReg_withy (a : Nat) (v : Word) : (s.setReg a v).withy = s.withy := rfl
@[simp] theorem State.setReg_port (a : Nat) (v : Word) : (s.setReg a v).port = s.port := rfl
@[simp] theorem State.setReg_dma (a : Nat) (v : Word) : (s.setReg a v).dma = s.dma := rfl
@[simp] theorem State.setReg_skep (a : Nat) (v : Word) : (s.setReg a v).skep = s.skep := rfl
@[simp] theorem State.setReg_nvm (a : Nat) (v : Word) : (s.setReg a v).nvm = s.nvm := rfl
@[simp] theorem State.setReg_therm (a : Nat) (v : Word) : (s.setReg a v).therm = s.therm := rfl
@[simp] theorem State.setReg_boot (a : Nat) (v : Word) : (s.setReg a v).boot = s.boot := rfl
@[simp] theorem State.setReg_ind (a : Nat) (v : Word) : (s.setReg a v).ind = s.ind := rfl
@[simp] theorem State.setReg_outs (a : Nat) (v : Word) : (s.setReg a v).outs = s.outs := rfl
@[simp] theorem State.setReg_pending (a : Nat) (v : Word) : (s.setReg a v).pending = s.pending := rfl

/-! ## note -/

@[simp] theorem State.note_regs (a m : Nat) : (s.note a m).regs = s.regs := rfl
@[simp] theorem State.note_clk (a m : Nat) : (s.note a m).clk = s.clk := rfl
@[simp] theorem State.note_free (a m : Nat) : (s.note a m).free = s.free := rfl
@[simp] theorem State.note_timeNs (a m : Nat) : (s.note a m).timeNs = s.timeNs := rfl
@[simp] theorem State.note_timeFrac (a m : Nat) : (s.note a m).timeFrac = s.timeFrac := rfl
@[simp] theorem State.note_mem (a m : Nat) : (s.note a m).mem = s.mem := rfl
@[simp] theorem State.note_mram (a m : Nat) : (s.note a m).mram = s.mram := rfl
@[simp] theorem State.note_units (a m : Nat) : (s.note a m).units = s.units := rfl
@[simp] theorem State.note_swd (a m : Nat) : (s.note a m).swd = s.swd := rfl
@[simp] theorem State.note_enc (a m : Nat) : (s.note a m).enc = s.enc := rfl
@[simp] theorem State.note_ssi (a m : Nat) : (s.note a m).ssi = s.ssi := rfl
@[simp] theorem State.note_sw (a m : Nat) : (s.note a m).sw = s.sw := rfl
@[simp] theorem State.note_pe (a m : Nat) : (s.note a m).pe = s.pe := rfl
@[simp] theorem State.note_net (a m : Nat) : (s.note a m).net = s.net := rfl
@[simp] theorem State.note_rxLast (a m : Nat) : (s.note a m).rxLast = s.rxLast := rfl
@[simp] theorem State.note_lanes (a m : Nat) : (s.note a m).lanes = s.lanes := rfl
@[simp] theorem State.note_pllUp (a m : Nat) : (s.note a m).pllUp = s.pllUp := rfl
@[simp] theorem State.note_pllLost (a m : Nat) : (s.note a m).pllLost = s.pllLost := rfl
@[simp] theorem State.note_links (a m : Nat) : (s.note a m).links = s.links := rfl
@[simp] theorem State.note_eps (a m : Nat) : (s.note a m).eps = s.eps := rfl
@[simp] theorem State.note_streams (a m : Nat) : (s.note a m).streams = s.streams := rfl
@[simp] theorem State.note_enrolQ (a m : Nat) : (s.note a m).enrolQ = s.enrolQ := rfl
@[simp] theorem State.note_enrolling (a m : Nat) : (s.note a m).enrolling = s.enrolling := rfl
@[simp] theorem State.note_upCount (a m : Nat) : (s.note a m).upCount = s.upCount := rfl
@[simp] theorem State.note_groups (a m : Nat) : (s.note a m).groups = s.groups := rfl
@[simp] theorem State.note_chains (a m : Nat) : (s.note a m).chains = s.chains := rfl
@[simp] theorem State.note_creel (a m : Nat) : (s.note a m).creel = s.creel := rfl
@[simp] theorem State.note_cond (a m : Nat) : (s.note a m).cond = s.cond := rfl
@[simp] theorem State.note_plait (a m : Nat) : (s.note a m).plait = s.plait := rfl
@[simp] theorem State.note_ctxs (a m : Nat) : (s.note a m).ctxs = s.ctxs := rfl
@[simp] theorem State.note_ctxFresh (a m : Nat) : (s.note a m).ctxFresh = s.ctxFresh := rfl
@[simp] theorem State.note_ctxQueue (a m : Nat) : (s.note a m).ctxQueue = s.ctxQueue := rfl
@[simp] theorem State.note_noCtxKey (a m : Nat) : (s.note a m).noCtxKey = s.noCtxKey := rfl
@[simp] theorem State.note_jobs (a m : Nat) : (s.note a m).jobs = s.jobs := rfl
@[simp] theorem State.note_candFree (a m : Nat) : (s.note a m).candFree = s.candFree := rfl
@[simp] theorem State.note_candOf (a m : Nat) : (s.note a m).candOf = s.candOf := rfl
@[simp] theorem State.note_compare (a m : Nat) : (s.note a m).compare = s.compare := rfl
@[simp] theorem State.note_ringQ (a m : Nat) : (s.note a m).ringQ = s.ringQ := rfl
@[simp] theorem State.note_ringLost (a m : Nat) : (s.note a m).ringLost = s.ringLost := rfl
@[simp] theorem State.note_repeatsOut (a m : Nat) : (s.note a m).repeatsOut = s.repeatsOut := rfl
@[simp] theorem State.note_withy (a m : Nat) : (s.note a m).withy = s.withy := rfl
@[simp] theorem State.note_port (a m : Nat) : (s.note a m).port = s.port := rfl
@[simp] theorem State.note_dma (a m : Nat) : (s.note a m).dma = s.dma := rfl
@[simp] theorem State.note_skep (a m : Nat) : (s.note a m).skep = s.skep := rfl
@[simp] theorem State.note_nvm (a m : Nat) : (s.note a m).nvm = s.nvm := rfl
@[simp] theorem State.note_therm (a m : Nat) : (s.note a m).therm = s.therm := rfl
@[simp] theorem State.note_boot (a m : Nat) : (s.note a m).boot = s.boot := rfl
@[simp] theorem State.note_ind (a m : Nat) : (s.note a m).ind = s.ind := rfl
@[simp] theorem State.note_outs (a m : Nat) : (s.note a m).outs = s.outs := rfl
@[simp] theorem State.note_pending (a m : Nat) : (s.note a m).pending = s.pending := rfl

/-! ## rcNote -/

@[simp] theorem State.rcNote_regs (a v n : Nat) : (s.rcNote a v n).regs = s.regs := rfl
@[simp] theorem State.rcNote_clk (a v n : Nat) : (s.rcNote a v n).clk = s.clk := rfl
@[simp] theorem State.rcNote_free (a v n : Nat) : (s.rcNote a v n).free = s.free := rfl
@[simp] theorem State.rcNote_timeNs (a v n : Nat) : (s.rcNote a v n).timeNs = s.timeNs := rfl
@[simp] theorem State.rcNote_timeFrac (a v n : Nat) : (s.rcNote a v n).timeFrac = s.timeFrac := rfl
@[simp] theorem State.rcNote_mem (a v n : Nat) : (s.rcNote a v n).mem = s.mem := rfl
@[simp] theorem State.rcNote_mram (a v n : Nat) : (s.rcNote a v n).mram = s.mram := rfl
@[simp] theorem State.rcNote_units (a v n : Nat) : (s.rcNote a v n).units = s.units := rfl
@[simp] theorem State.rcNote_swd (a v n : Nat) : (s.rcNote a v n).swd = s.swd := rfl
@[simp] theorem State.rcNote_enc (a v n : Nat) : (s.rcNote a v n).enc = s.enc := rfl
@[simp] theorem State.rcNote_ssi (a v n : Nat) : (s.rcNote a v n).ssi = s.ssi := rfl
@[simp] theorem State.rcNote_sw (a v n : Nat) : (s.rcNote a v n).sw = s.sw := rfl
@[simp] theorem State.rcNote_pe (a v n : Nat) : (s.rcNote a v n).pe = s.pe := rfl
@[simp] theorem State.rcNote_net (a v n : Nat) : (s.rcNote a v n).net = s.net := rfl
@[simp] theorem State.rcNote_rxLast (a v n : Nat) : (s.rcNote a v n).rxLast = s.rxLast := rfl
@[simp] theorem State.rcNote_lanes (a v n : Nat) : (s.rcNote a v n).lanes = s.lanes := rfl
@[simp] theorem State.rcNote_pllUp (a v n : Nat) : (s.rcNote a v n).pllUp = s.pllUp := rfl
@[simp] theorem State.rcNote_pllLost (a v n : Nat) : (s.rcNote a v n).pllLost = s.pllLost := rfl
@[simp] theorem State.rcNote_links (a v n : Nat) : (s.rcNote a v n).links = s.links := rfl
@[simp] theorem State.rcNote_eps (a v n : Nat) : (s.rcNote a v n).eps = s.eps := rfl
@[simp] theorem State.rcNote_streams (a v n : Nat) : (s.rcNote a v n).streams = s.streams := rfl
@[simp] theorem State.rcNote_enrolQ (a v n : Nat) : (s.rcNote a v n).enrolQ = s.enrolQ := rfl
@[simp] theorem State.rcNote_enrolling (a v n : Nat) : (s.rcNote a v n).enrolling = s.enrolling := rfl
@[simp] theorem State.rcNote_upCount (a v n : Nat) : (s.rcNote a v n).upCount = s.upCount := rfl
@[simp] theorem State.rcNote_groups (a v n : Nat) : (s.rcNote a v n).groups = s.groups := rfl
@[simp] theorem State.rcNote_chains (a v n : Nat) : (s.rcNote a v n).chains = s.chains := rfl
@[simp] theorem State.rcNote_creel (a v n : Nat) : (s.rcNote a v n).creel = s.creel := rfl
@[simp] theorem State.rcNote_cond (a v n : Nat) : (s.rcNote a v n).cond = s.cond := rfl
@[simp] theorem State.rcNote_plait (a v n : Nat) : (s.rcNote a v n).plait = s.plait := rfl
@[simp] theorem State.rcNote_ctxs (a v n : Nat) : (s.rcNote a v n).ctxs = s.ctxs := rfl
@[simp] theorem State.rcNote_ctxFresh (a v n : Nat) : (s.rcNote a v n).ctxFresh = s.ctxFresh := rfl
@[simp] theorem State.rcNote_ctxQueue (a v n : Nat) : (s.rcNote a v n).ctxQueue = s.ctxQueue := rfl
@[simp] theorem State.rcNote_noCtxKey (a v n : Nat) : (s.rcNote a v n).noCtxKey = s.noCtxKey := rfl
@[simp] theorem State.rcNote_jobs (a v n : Nat) : (s.rcNote a v n).jobs = s.jobs := rfl
@[simp] theorem State.rcNote_candFree (a v n : Nat) : (s.rcNote a v n).candFree = s.candFree := rfl
@[simp] theorem State.rcNote_candOf (a v n : Nat) : (s.rcNote a v n).candOf = s.candOf := rfl
@[simp] theorem State.rcNote_compare (a v n : Nat) : (s.rcNote a v n).compare = s.compare := rfl
@[simp] theorem State.rcNote_ringQ (a v n : Nat) : (s.rcNote a v n).ringQ = s.ringQ := rfl
@[simp] theorem State.rcNote_ringLost (a v n : Nat) : (s.rcNote a v n).ringLost = s.ringLost := rfl
@[simp] theorem State.rcNote_repeatsOut (a v n : Nat) : (s.rcNote a v n).repeatsOut = s.repeatsOut := rfl
@[simp] theorem State.rcNote_withy (a v n : Nat) : (s.rcNote a v n).withy = s.withy := rfl
@[simp] theorem State.rcNote_port (a v n : Nat) : (s.rcNote a v n).port = s.port := rfl
@[simp] theorem State.rcNote_dma (a v n : Nat) : (s.rcNote a v n).dma = s.dma := rfl
@[simp] theorem State.rcNote_skep (a v n : Nat) : (s.rcNote a v n).skep = s.skep := rfl
@[simp] theorem State.rcNote_nvm (a v n : Nat) : (s.rcNote a v n).nvm = s.nvm := rfl
@[simp] theorem State.rcNote_therm (a v n : Nat) : (s.rcNote a v n).therm = s.therm := rfl
@[simp] theorem State.rcNote_boot (a v n : Nat) : (s.rcNote a v n).boot = s.boot := rfl
@[simp] theorem State.rcNote_ind (a v n : Nat) : (s.rcNote a v n).ind = s.ind := rfl
@[simp] theorem State.rcNote_outs (a v n : Nat) : (s.rcNote a v n).outs = s.outs := rfl
@[simp] theorem State.rcNote_pending (a v n : Nat) : (s.rcNote a v n).pending = s.pending := rfl

/-! ## set -/

@[simp] theorem State.set_clk (f : Fld) (v : Nat) : (s.set f v).clk = s.clk := rfl
@[simp] theorem State.set_free (f : Fld) (v : Nat) : (s.set f v).free = s.free := rfl
@[simp] theorem State.set_timeNs (f : Fld) (v : Nat) : (s.set f v).timeNs = s.timeNs := rfl
@[simp] theorem State.set_timeFrac (f : Fld) (v : Nat) : (s.set f v).timeFrac = s.timeFrac := rfl
@[simp] theorem State.set_mem (f : Fld) (v : Nat) : (s.set f v).mem = s.mem := rfl
@[simp] theorem State.set_mram (f : Fld) (v : Nat) : (s.set f v).mram = s.mram := rfl
@[simp] theorem State.set_units (f : Fld) (v : Nat) : (s.set f v).units = s.units := rfl
@[simp] theorem State.set_swd (f : Fld) (v : Nat) : (s.set f v).swd = s.swd := rfl
@[simp] theorem State.set_risen (f : Fld) (v : Nat) : (s.set f v).risen = s.risen := rfl
@[simp] theorem State.set_enc (f : Fld) (v : Nat) : (s.set f v).enc = s.enc := rfl
@[simp] theorem State.set_ssi (f : Fld) (v : Nat) : (s.set f v).ssi = s.ssi := rfl
@[simp] theorem State.set_sw (f : Fld) (v : Nat) : (s.set f v).sw = s.sw := rfl
@[simp] theorem State.set_pe (f : Fld) (v : Nat) : (s.set f v).pe = s.pe := rfl
@[simp] theorem State.set_net (f : Fld) (v : Nat) : (s.set f v).net = s.net := rfl
@[simp] theorem State.set_rxLast (f : Fld) (v : Nat) : (s.set f v).rxLast = s.rxLast := rfl
@[simp] theorem State.set_lanes (f : Fld) (v : Nat) : (s.set f v).lanes = s.lanes := rfl
@[simp] theorem State.set_pllUp (f : Fld) (v : Nat) : (s.set f v).pllUp = s.pllUp := rfl
@[simp] theorem State.set_pllLost (f : Fld) (v : Nat) : (s.set f v).pllLost = s.pllLost := rfl
@[simp] theorem State.set_links (f : Fld) (v : Nat) : (s.set f v).links = s.links := rfl
@[simp] theorem State.set_eps (f : Fld) (v : Nat) : (s.set f v).eps = s.eps := rfl
@[simp] theorem State.set_streams (f : Fld) (v : Nat) : (s.set f v).streams = s.streams := rfl
@[simp] theorem State.set_enrolQ (f : Fld) (v : Nat) : (s.set f v).enrolQ = s.enrolQ := rfl
@[simp] theorem State.set_enrolling (f : Fld) (v : Nat) : (s.set f v).enrolling = s.enrolling := rfl
@[simp] theorem State.set_upCount (f : Fld) (v : Nat) : (s.set f v).upCount = s.upCount := rfl
@[simp] theorem State.set_groups (f : Fld) (v : Nat) : (s.set f v).groups = s.groups := rfl
@[simp] theorem State.set_chains (f : Fld) (v : Nat) : (s.set f v).chains = s.chains := rfl
@[simp] theorem State.set_creel (f : Fld) (v : Nat) : (s.set f v).creel = s.creel := rfl
@[simp] theorem State.set_cond (f : Fld) (v : Nat) : (s.set f v).cond = s.cond := rfl
@[simp] theorem State.set_plait (f : Fld) (v : Nat) : (s.set f v).plait = s.plait := rfl
@[simp] theorem State.set_ctxs (f : Fld) (v : Nat) : (s.set f v).ctxs = s.ctxs := rfl
@[simp] theorem State.set_ctxFresh (f : Fld) (v : Nat) : (s.set f v).ctxFresh = s.ctxFresh := rfl
@[simp] theorem State.set_ctxQueue (f : Fld) (v : Nat) : (s.set f v).ctxQueue = s.ctxQueue := rfl
@[simp] theorem State.set_noCtxKey (f : Fld) (v : Nat) : (s.set f v).noCtxKey = s.noCtxKey := rfl
@[simp] theorem State.set_jobs (f : Fld) (v : Nat) : (s.set f v).jobs = s.jobs := rfl
@[simp] theorem State.set_candFree (f : Fld) (v : Nat) : (s.set f v).candFree = s.candFree := rfl
@[simp] theorem State.set_candOf (f : Fld) (v : Nat) : (s.set f v).candOf = s.candOf := rfl
@[simp] theorem State.set_compare (f : Fld) (v : Nat) : (s.set f v).compare = s.compare := rfl
@[simp] theorem State.set_ringQ (f : Fld) (v : Nat) : (s.set f v).ringQ = s.ringQ := rfl
@[simp] theorem State.set_ringLost (f : Fld) (v : Nat) : (s.set f v).ringLost = s.ringLost := rfl
@[simp] theorem State.set_repeatsOut (f : Fld) (v : Nat) : (s.set f v).repeatsOut = s.repeatsOut := rfl
@[simp] theorem State.set_withy (f : Fld) (v : Nat) : (s.set f v).withy = s.withy := rfl
@[simp] theorem State.set_port (f : Fld) (v : Nat) : (s.set f v).port = s.port := rfl
@[simp] theorem State.set_dma (f : Fld) (v : Nat) : (s.set f v).dma = s.dma := rfl
@[simp] theorem State.set_skep (f : Fld) (v : Nat) : (s.set f v).skep = s.skep := rfl
@[simp] theorem State.set_nvm (f : Fld) (v : Nat) : (s.set f v).nvm = s.nvm := rfl
@[simp] theorem State.set_therm (f : Fld) (v : Nat) : (s.set f v).therm = s.therm := rfl
@[simp] theorem State.set_boot (f : Fld) (v : Nat) : (s.set f v).boot = s.boot := rfl
@[simp] theorem State.set_ind (f : Fld) (v : Nat) : (s.set f v).ind = s.ind := rfl
@[simp] theorem State.set_outs (f : Fld) (v : Nat) : (s.set f v).outs = s.outs := rfl
@[simp] theorem State.set_pending (f : Fld) (v : Nat) : (s.set f v).pending = s.pending := rfl

/-! ## resetRegs -/

@[simp] theorem State.resetRegs_clk (lo hi : Nat) : (s.resetRegs lo hi).clk = s.clk := rfl
@[simp] theorem State.resetRegs_free (lo hi : Nat) : (s.resetRegs lo hi).free = s.free := rfl
@[simp] theorem State.resetRegs_timeNs (lo hi : Nat) : (s.resetRegs lo hi).timeNs = s.timeNs := rfl
@[simp] theorem State.resetRegs_timeFrac (lo hi : Nat) : (s.resetRegs lo hi).timeFrac = s.timeFrac := rfl
@[simp] theorem State.resetRegs_mem (lo hi : Nat) : (s.resetRegs lo hi).mem = s.mem := rfl
@[simp] theorem State.resetRegs_mram (lo hi : Nat) : (s.resetRegs lo hi).mram = s.mram := rfl
@[simp] theorem State.resetRegs_units (lo hi : Nat) : (s.resetRegs lo hi).units = s.units := rfl
@[simp] theorem State.resetRegs_swd (lo hi : Nat) : (s.resetRegs lo hi).swd = s.swd := rfl
@[simp] theorem State.resetRegs_enc (lo hi : Nat) : (s.resetRegs lo hi).enc = s.enc := rfl
@[simp] theorem State.resetRegs_ssi (lo hi : Nat) : (s.resetRegs lo hi).ssi = s.ssi := rfl
@[simp] theorem State.resetRegs_sw (lo hi : Nat) : (s.resetRegs lo hi).sw = s.sw := rfl
@[simp] theorem State.resetRegs_pe (lo hi : Nat) : (s.resetRegs lo hi).pe = s.pe := rfl
@[simp] theorem State.resetRegs_net (lo hi : Nat) : (s.resetRegs lo hi).net = s.net := rfl
@[simp] theorem State.resetRegs_rxLast (lo hi : Nat) : (s.resetRegs lo hi).rxLast = s.rxLast := rfl
@[simp] theorem State.resetRegs_lanes (lo hi : Nat) : (s.resetRegs lo hi).lanes = s.lanes := rfl
@[simp] theorem State.resetRegs_pllUp (lo hi : Nat) : (s.resetRegs lo hi).pllUp = s.pllUp := rfl
@[simp] theorem State.resetRegs_pllLost (lo hi : Nat) : (s.resetRegs lo hi).pllLost = s.pllLost := rfl
@[simp] theorem State.resetRegs_links (lo hi : Nat) : (s.resetRegs lo hi).links = s.links := rfl
@[simp] theorem State.resetRegs_eps (lo hi : Nat) : (s.resetRegs lo hi).eps = s.eps := rfl
@[simp] theorem State.resetRegs_streams (lo hi : Nat) : (s.resetRegs lo hi).streams = s.streams := rfl
@[simp] theorem State.resetRegs_enrolQ (lo hi : Nat) : (s.resetRegs lo hi).enrolQ = s.enrolQ := rfl
@[simp] theorem State.resetRegs_enrolling (lo hi : Nat) : (s.resetRegs lo hi).enrolling = s.enrolling := rfl
@[simp] theorem State.resetRegs_upCount (lo hi : Nat) : (s.resetRegs lo hi).upCount = s.upCount := rfl
@[simp] theorem State.resetRegs_groups (lo hi : Nat) : (s.resetRegs lo hi).groups = s.groups := rfl
@[simp] theorem State.resetRegs_chains (lo hi : Nat) : (s.resetRegs lo hi).chains = s.chains := rfl
@[simp] theorem State.resetRegs_creel (lo hi : Nat) : (s.resetRegs lo hi).creel = s.creel := rfl
@[simp] theorem State.resetRegs_cond (lo hi : Nat) : (s.resetRegs lo hi).cond = s.cond := rfl
@[simp] theorem State.resetRegs_plait (lo hi : Nat) : (s.resetRegs lo hi).plait = s.plait := rfl
@[simp] theorem State.resetRegs_ctxs (lo hi : Nat) : (s.resetRegs lo hi).ctxs = s.ctxs := rfl
@[simp] theorem State.resetRegs_ctxFresh (lo hi : Nat) : (s.resetRegs lo hi).ctxFresh = s.ctxFresh := rfl
@[simp] theorem State.resetRegs_ctxQueue (lo hi : Nat) : (s.resetRegs lo hi).ctxQueue = s.ctxQueue := rfl
@[simp] theorem State.resetRegs_noCtxKey (lo hi : Nat) : (s.resetRegs lo hi).noCtxKey = s.noCtxKey := rfl
@[simp] theorem State.resetRegs_jobs (lo hi : Nat) : (s.resetRegs lo hi).jobs = s.jobs := rfl
@[simp] theorem State.resetRegs_candFree (lo hi : Nat) : (s.resetRegs lo hi).candFree = s.candFree := rfl
@[simp] theorem State.resetRegs_candOf (lo hi : Nat) : (s.resetRegs lo hi).candOf = s.candOf := rfl
@[simp] theorem State.resetRegs_compare (lo hi : Nat) : (s.resetRegs lo hi).compare = s.compare := rfl
@[simp] theorem State.resetRegs_ringQ (lo hi : Nat) : (s.resetRegs lo hi).ringQ = s.ringQ := rfl
@[simp] theorem State.resetRegs_ringLost (lo hi : Nat) : (s.resetRegs lo hi).ringLost = s.ringLost := rfl
@[simp] theorem State.resetRegs_repeatsOut (lo hi : Nat) : (s.resetRegs lo hi).repeatsOut = s.repeatsOut := rfl
@[simp] theorem State.resetRegs_withy (lo hi : Nat) : (s.resetRegs lo hi).withy = s.withy := rfl
@[simp] theorem State.resetRegs_port (lo hi : Nat) : (s.resetRegs lo hi).port = s.port := rfl
@[simp] theorem State.resetRegs_dma (lo hi : Nat) : (s.resetRegs lo hi).dma = s.dma := rfl
@[simp] theorem State.resetRegs_skep (lo hi : Nat) : (s.resetRegs lo hi).skep = s.skep := rfl
@[simp] theorem State.resetRegs_nvm (lo hi : Nat) : (s.resetRegs lo hi).nvm = s.nvm := rfl
@[simp] theorem State.resetRegs_therm (lo hi : Nat) : (s.resetRegs lo hi).therm = s.therm := rfl
@[simp] theorem State.resetRegs_boot (lo hi : Nat) : (s.resetRegs lo hi).boot = s.boot := rfl
@[simp] theorem State.resetRegs_ind (lo hi : Nat) : (s.resetRegs lo hi).ind = s.ind := rfl
@[simp] theorem State.resetRegs_outs (lo hi : Nat) : (s.resetRegs lo hi).outs = s.outs := rfl
@[simp] theorem State.resetRegs_pending (lo hi : Nat) : (s.resetRegs lo hi).pending = s.pending := rfl

/-! ## setByte -/

@[simp] theorem State.setByte_clk (a : Nat) (b : Byte) : (s.setByte a b).clk = s.clk := rfl
@[simp] theorem State.setByte_free (a : Nat) (b : Byte) : (s.setByte a b).free = s.free := rfl
@[simp] theorem State.setByte_timeNs (a : Nat) (b : Byte) : (s.setByte a b).timeNs = s.timeNs := rfl
@[simp] theorem State.setByte_timeFrac (a : Nat) (b : Byte) : (s.setByte a b).timeFrac = s.timeFrac := rfl
@[simp] theorem State.setByte_regs (a : Nat) (b : Byte) : (s.setByte a b).regs = s.regs := rfl
@[simp] theorem State.setByte_mram (a : Nat) (b : Byte) : (s.setByte a b).mram = s.mram := rfl
@[simp] theorem State.setByte_units (a : Nat) (b : Byte) : (s.setByte a b).units = s.units := rfl
@[simp] theorem State.setByte_swd (a : Nat) (b : Byte) : (s.setByte a b).swd = s.swd := rfl
@[simp] theorem State.setByte_risen (a : Nat) (b : Byte) : (s.setByte a b).risen = s.risen := rfl
@[simp] theorem State.setByte_enc (a : Nat) (b : Byte) : (s.setByte a b).enc = s.enc := rfl
@[simp] theorem State.setByte_ssi (a : Nat) (b : Byte) : (s.setByte a b).ssi = s.ssi := rfl
@[simp] theorem State.setByte_sw (a : Nat) (b : Byte) : (s.setByte a b).sw = s.sw := rfl
@[simp] theorem State.setByte_pe (a : Nat) (b : Byte) : (s.setByte a b).pe = s.pe := rfl
@[simp] theorem State.setByte_net (a : Nat) (b : Byte) : (s.setByte a b).net = s.net := rfl
@[simp] theorem State.setByte_rxLast (a : Nat) (b : Byte) : (s.setByte a b).rxLast = s.rxLast := rfl
@[simp] theorem State.setByte_lanes (a : Nat) (b : Byte) : (s.setByte a b).lanes = s.lanes := rfl
@[simp] theorem State.setByte_pllUp (a : Nat) (b : Byte) : (s.setByte a b).pllUp = s.pllUp := rfl
@[simp] theorem State.setByte_pllLost (a : Nat) (b : Byte) : (s.setByte a b).pllLost = s.pllLost := rfl
@[simp] theorem State.setByte_links (a : Nat) (b : Byte) : (s.setByte a b).links = s.links := rfl
@[simp] theorem State.setByte_eps (a : Nat) (b : Byte) : (s.setByte a b).eps = s.eps := rfl
@[simp] theorem State.setByte_streams (a : Nat) (b : Byte) : (s.setByte a b).streams = s.streams := rfl
@[simp] theorem State.setByte_enrolQ (a : Nat) (b : Byte) : (s.setByte a b).enrolQ = s.enrolQ := rfl
@[simp] theorem State.setByte_enrolling (a : Nat) (b : Byte) : (s.setByte a b).enrolling = s.enrolling := rfl
@[simp] theorem State.setByte_upCount (a : Nat) (b : Byte) : (s.setByte a b).upCount = s.upCount := rfl
@[simp] theorem State.setByte_groups (a : Nat) (b : Byte) : (s.setByte a b).groups = s.groups := rfl
@[simp] theorem State.setByte_chains (a : Nat) (b : Byte) : (s.setByte a b).chains = s.chains := rfl
@[simp] theorem State.setByte_creel (a : Nat) (b : Byte) : (s.setByte a b).creel = s.creel := rfl
@[simp] theorem State.setByte_cond (a : Nat) (b : Byte) : (s.setByte a b).cond = s.cond := rfl
@[simp] theorem State.setByte_plait (a : Nat) (b : Byte) : (s.setByte a b).plait = s.plait := rfl
@[simp] theorem State.setByte_ctxs (a : Nat) (b : Byte) : (s.setByte a b).ctxs = s.ctxs := rfl
@[simp] theorem State.setByte_ctxFresh (a : Nat) (b : Byte) : (s.setByte a b).ctxFresh = s.ctxFresh := rfl
@[simp] theorem State.setByte_ctxQueue (a : Nat) (b : Byte) : (s.setByte a b).ctxQueue = s.ctxQueue := rfl
@[simp] theorem State.setByte_noCtxKey (a : Nat) (b : Byte) : (s.setByte a b).noCtxKey = s.noCtxKey := rfl
@[simp] theorem State.setByte_jobs (a : Nat) (b : Byte) : (s.setByte a b).jobs = s.jobs := rfl
@[simp] theorem State.setByte_candFree (a : Nat) (b : Byte) : (s.setByte a b).candFree = s.candFree := rfl
@[simp] theorem State.setByte_candOf (a : Nat) (b : Byte) : (s.setByte a b).candOf = s.candOf := rfl
@[simp] theorem State.setByte_compare (a : Nat) (b : Byte) : (s.setByte a b).compare = s.compare := rfl
@[simp] theorem State.setByte_ringQ (a : Nat) (b : Byte) : (s.setByte a b).ringQ = s.ringQ := rfl
@[simp] theorem State.setByte_ringLost (a : Nat) (b : Byte) : (s.setByte a b).ringLost = s.ringLost := rfl
@[simp] theorem State.setByte_repeatsOut (a : Nat) (b : Byte) : (s.setByte a b).repeatsOut = s.repeatsOut := rfl
@[simp] theorem State.setByte_withy (a : Nat) (b : Byte) : (s.setByte a b).withy = s.withy := rfl
@[simp] theorem State.setByte_port (a : Nat) (b : Byte) : (s.setByte a b).port = s.port := rfl
@[simp] theorem State.setByte_dma (a : Nat) (b : Byte) : (s.setByte a b).dma = s.dma := rfl
@[simp] theorem State.setByte_skep (a : Nat) (b : Byte) : (s.setByte a b).skep = s.skep := rfl
@[simp] theorem State.setByte_nvm (a : Nat) (b : Byte) : (s.setByte a b).nvm = s.nvm := rfl
@[simp] theorem State.setByte_therm (a : Nat) (b : Byte) : (s.setByte a b).therm = s.therm := rfl
@[simp] theorem State.setByte_boot (a : Nat) (b : Byte) : (s.setByte a b).boot = s.boot := rfl
@[simp] theorem State.setByte_ind (a : Nat) (b : Byte) : (s.setByte a b).ind = s.ind := rfl
@[simp] theorem State.setByte_outs (a : Nat) (b : Byte) : (s.setByte a b).outs = s.outs := rfl
@[simp] theorem State.setByte_pending (a : Nat) (b : Byte) : (s.setByte a b).pending = s.pending := rfl
@[simp] theorem State.setByte_reg (a : Nat) (b : Byte) {x : Nat} : (s.setByte a b).reg x = s.reg x := rfl
@[simp] theorem State.setByte_get (a : Nat) (b : Byte) {x : Fld} : (s.setByte a b).get x = s.get x := rfl
@[simp] theorem State.setByte_on (a : Nat) (b : Byte) {x : Fld} : (s.setByte a b).on x = s.on x := rfl

/-! ## setNvByte -/

@[simp] theorem State.setNvByte_clk (a : Nat) (b : Byte) : (s.setNvByte a b).clk = s.clk := rfl
@[simp] theorem State.setNvByte_free (a : Nat) (b : Byte) : (s.setNvByte a b).free = s.free := rfl
@[simp] theorem State.setNvByte_timeNs (a : Nat) (b : Byte) : (s.setNvByte a b).timeNs = s.timeNs := rfl
@[simp] theorem State.setNvByte_timeFrac (a : Nat) (b : Byte) : (s.setNvByte a b).timeFrac = s.timeFrac := rfl
@[simp] theorem State.setNvByte_regs (a : Nat) (b : Byte) : (s.setNvByte a b).regs = s.regs := rfl
@[simp] theorem State.setNvByte_mem (a : Nat) (b : Byte) : (s.setNvByte a b).mem = s.mem := rfl
@[simp] theorem State.setNvByte_units (a : Nat) (b : Byte) : (s.setNvByte a b).units = s.units := rfl
@[simp] theorem State.setNvByte_swd (a : Nat) (b : Byte) : (s.setNvByte a b).swd = s.swd := rfl
@[simp] theorem State.setNvByte_risen (a : Nat) (b : Byte) : (s.setNvByte a b).risen = s.risen := rfl
@[simp] theorem State.setNvByte_enc (a : Nat) (b : Byte) : (s.setNvByte a b).enc = s.enc := rfl
@[simp] theorem State.setNvByte_ssi (a : Nat) (b : Byte) : (s.setNvByte a b).ssi = s.ssi := rfl
@[simp] theorem State.setNvByte_sw (a : Nat) (b : Byte) : (s.setNvByte a b).sw = s.sw := rfl
@[simp] theorem State.setNvByte_pe (a : Nat) (b : Byte) : (s.setNvByte a b).pe = s.pe := rfl
@[simp] theorem State.setNvByte_net (a : Nat) (b : Byte) : (s.setNvByte a b).net = s.net := rfl
@[simp] theorem State.setNvByte_rxLast (a : Nat) (b : Byte) : (s.setNvByte a b).rxLast = s.rxLast := rfl
@[simp] theorem State.setNvByte_lanes (a : Nat) (b : Byte) : (s.setNvByte a b).lanes = s.lanes := rfl
@[simp] theorem State.setNvByte_pllUp (a : Nat) (b : Byte) : (s.setNvByte a b).pllUp = s.pllUp := rfl
@[simp] theorem State.setNvByte_pllLost (a : Nat) (b : Byte) : (s.setNvByte a b).pllLost = s.pllLost := rfl
@[simp] theorem State.setNvByte_links (a : Nat) (b : Byte) : (s.setNvByte a b).links = s.links := rfl
@[simp] theorem State.setNvByte_eps (a : Nat) (b : Byte) : (s.setNvByte a b).eps = s.eps := rfl
@[simp] theorem State.setNvByte_streams (a : Nat) (b : Byte) : (s.setNvByte a b).streams = s.streams := rfl
@[simp] theorem State.setNvByte_enrolQ (a : Nat) (b : Byte) : (s.setNvByte a b).enrolQ = s.enrolQ := rfl
@[simp] theorem State.setNvByte_enrolling (a : Nat) (b : Byte) : (s.setNvByte a b).enrolling = s.enrolling := rfl
@[simp] theorem State.setNvByte_upCount (a : Nat) (b : Byte) : (s.setNvByte a b).upCount = s.upCount := rfl
@[simp] theorem State.setNvByte_groups (a : Nat) (b : Byte) : (s.setNvByte a b).groups = s.groups := rfl
@[simp] theorem State.setNvByte_chains (a : Nat) (b : Byte) : (s.setNvByte a b).chains = s.chains := rfl
@[simp] theorem State.setNvByte_creel (a : Nat) (b : Byte) : (s.setNvByte a b).creel = s.creel := rfl
@[simp] theorem State.setNvByte_cond (a : Nat) (b : Byte) : (s.setNvByte a b).cond = s.cond := rfl
@[simp] theorem State.setNvByte_plait (a : Nat) (b : Byte) : (s.setNvByte a b).plait = s.plait := rfl
@[simp] theorem State.setNvByte_ctxs (a : Nat) (b : Byte) : (s.setNvByte a b).ctxs = s.ctxs := rfl
@[simp] theorem State.setNvByte_ctxFresh (a : Nat) (b : Byte) : (s.setNvByte a b).ctxFresh = s.ctxFresh := rfl
@[simp] theorem State.setNvByte_ctxQueue (a : Nat) (b : Byte) : (s.setNvByte a b).ctxQueue = s.ctxQueue := rfl
@[simp] theorem State.setNvByte_noCtxKey (a : Nat) (b : Byte) : (s.setNvByte a b).noCtxKey = s.noCtxKey := rfl
@[simp] theorem State.setNvByte_jobs (a : Nat) (b : Byte) : (s.setNvByte a b).jobs = s.jobs := rfl
@[simp] theorem State.setNvByte_candFree (a : Nat) (b : Byte) : (s.setNvByte a b).candFree = s.candFree := rfl
@[simp] theorem State.setNvByte_candOf (a : Nat) (b : Byte) : (s.setNvByte a b).candOf = s.candOf := rfl
@[simp] theorem State.setNvByte_compare (a : Nat) (b : Byte) : (s.setNvByte a b).compare = s.compare := rfl
@[simp] theorem State.setNvByte_ringQ (a : Nat) (b : Byte) : (s.setNvByte a b).ringQ = s.ringQ := rfl
@[simp] theorem State.setNvByte_ringLost (a : Nat) (b : Byte) : (s.setNvByte a b).ringLost = s.ringLost := rfl
@[simp] theorem State.setNvByte_repeatsOut (a : Nat) (b : Byte) : (s.setNvByte a b).repeatsOut = s.repeatsOut := rfl
@[simp] theorem State.setNvByte_withy (a : Nat) (b : Byte) : (s.setNvByte a b).withy = s.withy := rfl
@[simp] theorem State.setNvByte_port (a : Nat) (b : Byte) : (s.setNvByte a b).port = s.port := rfl
@[simp] theorem State.setNvByte_dma (a : Nat) (b : Byte) : (s.setNvByte a b).dma = s.dma := rfl
@[simp] theorem State.setNvByte_skep (a : Nat) (b : Byte) : (s.setNvByte a b).skep = s.skep := rfl
@[simp] theorem State.setNvByte_nvm (a : Nat) (b : Byte) : (s.setNvByte a b).nvm = s.nvm := rfl
@[simp] theorem State.setNvByte_therm (a : Nat) (b : Byte) : (s.setNvByte a b).therm = s.therm := rfl
@[simp] theorem State.setNvByte_boot (a : Nat) (b : Byte) : (s.setNvByte a b).boot = s.boot := rfl
@[simp] theorem State.setNvByte_ind (a : Nat) (b : Byte) : (s.setNvByte a b).ind = s.ind := rfl
@[simp] theorem State.setNvByte_outs (a : Nat) (b : Byte) : (s.setNvByte a b).outs = s.outs := rfl
@[simp] theorem State.setNvByte_pending (a : Nat) (b : Byte) : (s.setNvByte a b).pending = s.pending := rfl
@[simp] theorem State.setNvByte_reg (a : Nat) (b : Byte) {x : Nat} : (s.setNvByte a b).reg x = s.reg x := rfl
@[simp] theorem State.setNvByte_get (a : Nat) (b : Byte) {x : Fld} : (s.setNvByte a b).get x = s.get x := rfl
@[simp] theorem State.setNvByte_on (a : Nat) (b : Byte) {x : Fld} : (s.setNvByte a b).on x = s.on x := rfl

/-! ## emit -/

@[simp] theorem State.emit_clk (o : Out) : (s.emit o).clk = s.clk := rfl
@[simp] theorem State.emit_free (o : Out) : (s.emit o).free = s.free := rfl
@[simp] theorem State.emit_timeNs (o : Out) : (s.emit o).timeNs = s.timeNs := rfl
@[simp] theorem State.emit_timeFrac (o : Out) : (s.emit o).timeFrac = s.timeFrac := rfl
@[simp] theorem State.emit_regs (o : Out) : (s.emit o).regs = s.regs := rfl
@[simp] theorem State.emit_mem (o : Out) : (s.emit o).mem = s.mem := rfl
@[simp] theorem State.emit_mram (o : Out) : (s.emit o).mram = s.mram := rfl
@[simp] theorem State.emit_units (o : Out) : (s.emit o).units = s.units := rfl
@[simp] theorem State.emit_swd (o : Out) : (s.emit o).swd = s.swd := rfl
@[simp] theorem State.emit_risen (o : Out) : (s.emit o).risen = s.risen := rfl
@[simp] theorem State.emit_enc (o : Out) : (s.emit o).enc = s.enc := rfl
@[simp] theorem State.emit_ssi (o : Out) : (s.emit o).ssi = s.ssi := rfl
@[simp] theorem State.emit_sw (o : Out) : (s.emit o).sw = s.sw := rfl
@[simp] theorem State.emit_pe (o : Out) : (s.emit o).pe = s.pe := rfl
@[simp] theorem State.emit_net (o : Out) : (s.emit o).net = s.net := rfl
@[simp] theorem State.emit_rxLast (o : Out) : (s.emit o).rxLast = s.rxLast := rfl
@[simp] theorem State.emit_lanes (o : Out) : (s.emit o).lanes = s.lanes := rfl
@[simp] theorem State.emit_pllUp (o : Out) : (s.emit o).pllUp = s.pllUp := rfl
@[simp] theorem State.emit_pllLost (o : Out) : (s.emit o).pllLost = s.pllLost := rfl
@[simp] theorem State.emit_links (o : Out) : (s.emit o).links = s.links := rfl
@[simp] theorem State.emit_eps (o : Out) : (s.emit o).eps = s.eps := rfl
@[simp] theorem State.emit_streams (o : Out) : (s.emit o).streams = s.streams := rfl
@[simp] theorem State.emit_enrolQ (o : Out) : (s.emit o).enrolQ = s.enrolQ := rfl
@[simp] theorem State.emit_enrolling (o : Out) : (s.emit o).enrolling = s.enrolling := rfl
@[simp] theorem State.emit_upCount (o : Out) : (s.emit o).upCount = s.upCount := rfl
@[simp] theorem State.emit_groups (o : Out) : (s.emit o).groups = s.groups := rfl
@[simp] theorem State.emit_chains (o : Out) : (s.emit o).chains = s.chains := rfl
@[simp] theorem State.emit_creel (o : Out) : (s.emit o).creel = s.creel := rfl
@[simp] theorem State.emit_cond (o : Out) : (s.emit o).cond = s.cond := rfl
@[simp] theorem State.emit_plait (o : Out) : (s.emit o).plait = s.plait := rfl
@[simp] theorem State.emit_ctxs (o : Out) : (s.emit o).ctxs = s.ctxs := rfl
@[simp] theorem State.emit_ctxFresh (o : Out) : (s.emit o).ctxFresh = s.ctxFresh := rfl
@[simp] theorem State.emit_ctxQueue (o : Out) : (s.emit o).ctxQueue = s.ctxQueue := rfl
@[simp] theorem State.emit_noCtxKey (o : Out) : (s.emit o).noCtxKey = s.noCtxKey := rfl
@[simp] theorem State.emit_jobs (o : Out) : (s.emit o).jobs = s.jobs := rfl
@[simp] theorem State.emit_candFree (o : Out) : (s.emit o).candFree = s.candFree := rfl
@[simp] theorem State.emit_candOf (o : Out) : (s.emit o).candOf = s.candOf := rfl
@[simp] theorem State.emit_compare (o : Out) : (s.emit o).compare = s.compare := rfl
@[simp] theorem State.emit_ringQ (o : Out) : (s.emit o).ringQ = s.ringQ := rfl
@[simp] theorem State.emit_ringLost (o : Out) : (s.emit o).ringLost = s.ringLost := rfl
@[simp] theorem State.emit_repeatsOut (o : Out) : (s.emit o).repeatsOut = s.repeatsOut := rfl
@[simp] theorem State.emit_withy (o : Out) : (s.emit o).withy = s.withy := rfl
@[simp] theorem State.emit_port (o : Out) : (s.emit o).port = s.port := rfl
@[simp] theorem State.emit_dma (o : Out) : (s.emit o).dma = s.dma := rfl
@[simp] theorem State.emit_skep (o : Out) : (s.emit o).skep = s.skep := rfl
@[simp] theorem State.emit_nvm (o : Out) : (s.emit o).nvm = s.nvm := rfl
@[simp] theorem State.emit_therm (o : Out) : (s.emit o).therm = s.therm := rfl
@[simp] theorem State.emit_boot (o : Out) : (s.emit o).boot = s.boot := rfl
@[simp] theorem State.emit_ind (o : Out) : (s.emit o).ind = s.ind := rfl
@[simp] theorem State.emit_pending (o : Out) : (s.emit o).pending = s.pending := rfl
@[simp] theorem State.emit_reg (o : Out) {x : Nat} : (s.emit o).reg x = s.reg x := rfl
@[simp] theorem State.emit_get (o : Out) {x : Fld} : (s.emit o).get x = s.get x := rfl
@[simp] theorem State.emit_on (o : Out) {x : Fld} : (s.emit o).on x = s.on x := rfl

/-! ## useFree -/

@[simp] theorem State.useFree_clk : (s.useFree).clk = s.clk := rfl
@[simp] theorem State.useFree_timeNs : (s.useFree).timeNs = s.timeNs := rfl
@[simp] theorem State.useFree_timeFrac : (s.useFree).timeFrac = s.timeFrac := rfl
@[simp] theorem State.useFree_regs : (s.useFree).regs = s.regs := rfl
@[simp] theorem State.useFree_mem : (s.useFree).mem = s.mem := rfl
@[simp] theorem State.useFree_mram : (s.useFree).mram = s.mram := rfl
@[simp] theorem State.useFree_units : (s.useFree).units = s.units := rfl
@[simp] theorem State.useFree_swd : (s.useFree).swd = s.swd := rfl
@[simp] theorem State.useFree_risen : (s.useFree).risen = s.risen := rfl
@[simp] theorem State.useFree_enc : (s.useFree).enc = s.enc := rfl
@[simp] theorem State.useFree_ssi : (s.useFree).ssi = s.ssi := rfl
@[simp] theorem State.useFree_sw : (s.useFree).sw = s.sw := rfl
@[simp] theorem State.useFree_pe : (s.useFree).pe = s.pe := rfl
@[simp] theorem State.useFree_net : (s.useFree).net = s.net := rfl
@[simp] theorem State.useFree_rxLast : (s.useFree).rxLast = s.rxLast := rfl
@[simp] theorem State.useFree_lanes : (s.useFree).lanes = s.lanes := rfl
@[simp] theorem State.useFree_pllUp : (s.useFree).pllUp = s.pllUp := rfl
@[simp] theorem State.useFree_pllLost : (s.useFree).pllLost = s.pllLost := rfl
@[simp] theorem State.useFree_links : (s.useFree).links = s.links := rfl
@[simp] theorem State.useFree_eps : (s.useFree).eps = s.eps := rfl
@[simp] theorem State.useFree_streams : (s.useFree).streams = s.streams := rfl
@[simp] theorem State.useFree_enrolQ : (s.useFree).enrolQ = s.enrolQ := rfl
@[simp] theorem State.useFree_enrolling : (s.useFree).enrolling = s.enrolling := rfl
@[simp] theorem State.useFree_upCount : (s.useFree).upCount = s.upCount := rfl
@[simp] theorem State.useFree_groups : (s.useFree).groups = s.groups := rfl
@[simp] theorem State.useFree_chains : (s.useFree).chains = s.chains := rfl
@[simp] theorem State.useFree_creel : (s.useFree).creel = s.creel := rfl
@[simp] theorem State.useFree_cond : (s.useFree).cond = s.cond := rfl
@[simp] theorem State.useFree_plait : (s.useFree).plait = s.plait := rfl
@[simp] theorem State.useFree_ctxs : (s.useFree).ctxs = s.ctxs := rfl
@[simp] theorem State.useFree_ctxFresh : (s.useFree).ctxFresh = s.ctxFresh := rfl
@[simp] theorem State.useFree_ctxQueue : (s.useFree).ctxQueue = s.ctxQueue := rfl
@[simp] theorem State.useFree_noCtxKey : (s.useFree).noCtxKey = s.noCtxKey := rfl
@[simp] theorem State.useFree_jobs : (s.useFree).jobs = s.jobs := rfl
@[simp] theorem State.useFree_candFree : (s.useFree).candFree = s.candFree := rfl
@[simp] theorem State.useFree_candOf : (s.useFree).candOf = s.candOf := rfl
@[simp] theorem State.useFree_compare : (s.useFree).compare = s.compare := rfl
@[simp] theorem State.useFree_ringQ : (s.useFree).ringQ = s.ringQ := rfl
@[simp] theorem State.useFree_ringLost : (s.useFree).ringLost = s.ringLost := rfl
@[simp] theorem State.useFree_repeatsOut : (s.useFree).repeatsOut = s.repeatsOut := rfl
@[simp] theorem State.useFree_withy : (s.useFree).withy = s.withy := rfl
@[simp] theorem State.useFree_port : (s.useFree).port = s.port := rfl
@[simp] theorem State.useFree_dma : (s.useFree).dma = s.dma := rfl
@[simp] theorem State.useFree_skep : (s.useFree).skep = s.skep := rfl
@[simp] theorem State.useFree_nvm : (s.useFree).nvm = s.nvm := rfl
@[simp] theorem State.useFree_therm : (s.useFree).therm = s.therm := rfl
@[simp] theorem State.useFree_boot : (s.useFree).boot = s.boot := rfl
@[simp] theorem State.useFree_ind : (s.useFree).ind = s.ind := rfl
@[simp] theorem State.useFree_outs : (s.useFree).outs = s.outs := rfl
@[simp] theorem State.useFree_pending : (s.useFree).pending = s.pending := rfl
@[simp] theorem State.useFree_reg {x : Nat} : (s.useFree).reg x = s.reg x := rfl
@[simp] theorem State.useFree_get {x : Fld} : (s.useFree).get x = s.get x := rfl
@[simp] theorem State.useFree_on {x : Fld} : (s.useFree).on x = s.on x := rfl

/-! ## setUnit -/

@[simp] theorem State.setUnit_clk (u : Nat) (e : UnitEntry) : (s.setUnit u e).clk = s.clk := rfl
@[simp] theorem State.setUnit_free (u : Nat) (e : UnitEntry) : (s.setUnit u e).free = s.free := rfl
@[simp] theorem State.setUnit_timeNs (u : Nat) (e : UnitEntry) : (s.setUnit u e).timeNs = s.timeNs := rfl
@[simp] theorem State.setUnit_timeFrac (u : Nat) (e : UnitEntry) : (s.setUnit u e).timeFrac = s.timeFrac := rfl
@[simp] theorem State.setUnit_regs (u : Nat) (e : UnitEntry) : (s.setUnit u e).regs = s.regs := rfl
@[simp] theorem State.setUnit_mem (u : Nat) (e : UnitEntry) : (s.setUnit u e).mem = s.mem := rfl
@[simp] theorem State.setUnit_mram (u : Nat) (e : UnitEntry) : (s.setUnit u e).mram = s.mram := rfl
@[simp] theorem State.setUnit_swd (u : Nat) (e : UnitEntry) : (s.setUnit u e).swd = s.swd := rfl
@[simp] theorem State.setUnit_risen (u : Nat) (e : UnitEntry) : (s.setUnit u e).risen = s.risen := rfl
@[simp] theorem State.setUnit_enc (u : Nat) (e : UnitEntry) : (s.setUnit u e).enc = s.enc := rfl
@[simp] theorem State.setUnit_ssi (u : Nat) (e : UnitEntry) : (s.setUnit u e).ssi = s.ssi := rfl
@[simp] theorem State.setUnit_sw (u : Nat) (e : UnitEntry) : (s.setUnit u e).sw = s.sw := rfl
@[simp] theorem State.setUnit_pe (u : Nat) (e : UnitEntry) : (s.setUnit u e).pe = s.pe := rfl
@[simp] theorem State.setUnit_net (u : Nat) (e : UnitEntry) : (s.setUnit u e).net = s.net := rfl
@[simp] theorem State.setUnit_rxLast (u : Nat) (e : UnitEntry) : (s.setUnit u e).rxLast = s.rxLast := rfl
@[simp] theorem State.setUnit_lanes (u : Nat) (e : UnitEntry) : (s.setUnit u e).lanes = s.lanes := rfl
@[simp] theorem State.setUnit_pllUp (u : Nat) (e : UnitEntry) : (s.setUnit u e).pllUp = s.pllUp := rfl
@[simp] theorem State.setUnit_pllLost (u : Nat) (e : UnitEntry) : (s.setUnit u e).pllLost = s.pllLost := rfl
@[simp] theorem State.setUnit_links (u : Nat) (e : UnitEntry) : (s.setUnit u e).links = s.links := rfl
@[simp] theorem State.setUnit_eps (u : Nat) (e : UnitEntry) : (s.setUnit u e).eps = s.eps := rfl
@[simp] theorem State.setUnit_streams (u : Nat) (e : UnitEntry) : (s.setUnit u e).streams = s.streams := rfl
@[simp] theorem State.setUnit_enrolQ (u : Nat) (e : UnitEntry) : (s.setUnit u e).enrolQ = s.enrolQ := rfl
@[simp] theorem State.setUnit_enrolling (u : Nat) (e : UnitEntry) : (s.setUnit u e).enrolling = s.enrolling := rfl
@[simp] theorem State.setUnit_upCount (u : Nat) (e : UnitEntry) : (s.setUnit u e).upCount = s.upCount := rfl
@[simp] theorem State.setUnit_groups (u : Nat) (e : UnitEntry) : (s.setUnit u e).groups = s.groups := rfl
@[simp] theorem State.setUnit_chains (u : Nat) (e : UnitEntry) : (s.setUnit u e).chains = s.chains := rfl
@[simp] theorem State.setUnit_creel (u : Nat) (e : UnitEntry) : (s.setUnit u e).creel = s.creel := rfl
@[simp] theorem State.setUnit_cond (u : Nat) (e : UnitEntry) : (s.setUnit u e).cond = s.cond := rfl
@[simp] theorem State.setUnit_plait (u : Nat) (e : UnitEntry) : (s.setUnit u e).plait = s.plait := rfl
@[simp] theorem State.setUnit_ctxs (u : Nat) (e : UnitEntry) : (s.setUnit u e).ctxs = s.ctxs := rfl
@[simp] theorem State.setUnit_ctxFresh (u : Nat) (e : UnitEntry) : (s.setUnit u e).ctxFresh = s.ctxFresh := rfl
@[simp] theorem State.setUnit_ctxQueue (u : Nat) (e : UnitEntry) : (s.setUnit u e).ctxQueue = s.ctxQueue := rfl
@[simp] theorem State.setUnit_noCtxKey (u : Nat) (e : UnitEntry) : (s.setUnit u e).noCtxKey = s.noCtxKey := rfl
@[simp] theorem State.setUnit_jobs (u : Nat) (e : UnitEntry) : (s.setUnit u e).jobs = s.jobs := rfl
@[simp] theorem State.setUnit_candFree (u : Nat) (e : UnitEntry) : (s.setUnit u e).candFree = s.candFree := rfl
@[simp] theorem State.setUnit_candOf (u : Nat) (e : UnitEntry) : (s.setUnit u e).candOf = s.candOf := rfl
@[simp] theorem State.setUnit_compare (u : Nat) (e : UnitEntry) : (s.setUnit u e).compare = s.compare := rfl
@[simp] theorem State.setUnit_ringQ (u : Nat) (e : UnitEntry) : (s.setUnit u e).ringQ = s.ringQ := rfl
@[simp] theorem State.setUnit_ringLost (u : Nat) (e : UnitEntry) : (s.setUnit u e).ringLost = s.ringLost := rfl
@[simp] theorem State.setUnit_repeatsOut (u : Nat) (e : UnitEntry) : (s.setUnit u e).repeatsOut = s.repeatsOut := rfl
@[simp] theorem State.setUnit_withy (u : Nat) (e : UnitEntry) : (s.setUnit u e).withy = s.withy := rfl
@[simp] theorem State.setUnit_port (u : Nat) (e : UnitEntry) : (s.setUnit u e).port = s.port := rfl
@[simp] theorem State.setUnit_dma (u : Nat) (e : UnitEntry) : (s.setUnit u e).dma = s.dma := rfl
@[simp] theorem State.setUnit_skep (u : Nat) (e : UnitEntry) : (s.setUnit u e).skep = s.skep := rfl
@[simp] theorem State.setUnit_nvm (u : Nat) (e : UnitEntry) : (s.setUnit u e).nvm = s.nvm := rfl
@[simp] theorem State.setUnit_therm (u : Nat) (e : UnitEntry) : (s.setUnit u e).therm = s.therm := rfl
@[simp] theorem State.setUnit_boot (u : Nat) (e : UnitEntry) : (s.setUnit u e).boot = s.boot := rfl
@[simp] theorem State.setUnit_ind (u : Nat) (e : UnitEntry) : (s.setUnit u e).ind = s.ind := rfl
@[simp] theorem State.setUnit_outs (u : Nat) (e : UnitEntry) : (s.setUnit u e).outs = s.outs := rfl
@[simp] theorem State.setUnit_pending (u : Nat) (e : UnitEntry) : (s.setUnit u e).pending = s.pending := rfl
@[simp] theorem State.setUnit_reg (u : Nat) (e : UnitEntry) {x : Nat} : (s.setUnit u e).reg x = s.reg x := rfl
@[simp] theorem State.setUnit_get (u : Nat) (e : UnitEntry) {x : Fld} : (s.setUnit u e).get x = s.get x := rfl
@[simp] theorem State.setUnit_on (u : Nat) (e : UnitEntry) {x : Fld} : (s.setUnit u e).on x = s.on x := rfl

/-! ## setEnc -/

@[simp] theorem State.setEnc_clk (n : Nat) (c : EncChan) : (s.setEnc n c).clk = s.clk := rfl
@[simp] theorem State.setEnc_free (n : Nat) (c : EncChan) : (s.setEnc n c).free = s.free := rfl
@[simp] theorem State.setEnc_timeNs (n : Nat) (c : EncChan) : (s.setEnc n c).timeNs = s.timeNs := rfl
@[simp] theorem State.setEnc_timeFrac (n : Nat) (c : EncChan) : (s.setEnc n c).timeFrac = s.timeFrac := rfl
@[simp] theorem State.setEnc_regs (n : Nat) (c : EncChan) : (s.setEnc n c).regs = s.regs := rfl
@[simp] theorem State.setEnc_mem (n : Nat) (c : EncChan) : (s.setEnc n c).mem = s.mem := rfl
@[simp] theorem State.setEnc_mram (n : Nat) (c : EncChan) : (s.setEnc n c).mram = s.mram := rfl
@[simp] theorem State.setEnc_units (n : Nat) (c : EncChan) : (s.setEnc n c).units = s.units := rfl
@[simp] theorem State.setEnc_swd (n : Nat) (c : EncChan) : (s.setEnc n c).swd = s.swd := rfl
@[simp] theorem State.setEnc_risen (n : Nat) (c : EncChan) : (s.setEnc n c).risen = s.risen := rfl
@[simp] theorem State.setEnc_ssi (n : Nat) (c : EncChan) : (s.setEnc n c).ssi = s.ssi := rfl
@[simp] theorem State.setEnc_sw (n : Nat) (c : EncChan) : (s.setEnc n c).sw = s.sw := rfl
@[simp] theorem State.setEnc_pe (n : Nat) (c : EncChan) : (s.setEnc n c).pe = s.pe := rfl
@[simp] theorem State.setEnc_net (n : Nat) (c : EncChan) : (s.setEnc n c).net = s.net := rfl
@[simp] theorem State.setEnc_rxLast (n : Nat) (c : EncChan) : (s.setEnc n c).rxLast = s.rxLast := rfl
@[simp] theorem State.setEnc_lanes (n : Nat) (c : EncChan) : (s.setEnc n c).lanes = s.lanes := rfl
@[simp] theorem State.setEnc_pllUp (n : Nat) (c : EncChan) : (s.setEnc n c).pllUp = s.pllUp := rfl
@[simp] theorem State.setEnc_pllLost (n : Nat) (c : EncChan) : (s.setEnc n c).pllLost = s.pllLost := rfl
@[simp] theorem State.setEnc_links (n : Nat) (c : EncChan) : (s.setEnc n c).links = s.links := rfl
@[simp] theorem State.setEnc_eps (n : Nat) (c : EncChan) : (s.setEnc n c).eps = s.eps := rfl
@[simp] theorem State.setEnc_streams (n : Nat) (c : EncChan) : (s.setEnc n c).streams = s.streams := rfl
@[simp] theorem State.setEnc_enrolQ (n : Nat) (c : EncChan) : (s.setEnc n c).enrolQ = s.enrolQ := rfl
@[simp] theorem State.setEnc_enrolling (n : Nat) (c : EncChan) : (s.setEnc n c).enrolling = s.enrolling := rfl
@[simp] theorem State.setEnc_upCount (n : Nat) (c : EncChan) : (s.setEnc n c).upCount = s.upCount := rfl
@[simp] theorem State.setEnc_groups (n : Nat) (c : EncChan) : (s.setEnc n c).groups = s.groups := rfl
@[simp] theorem State.setEnc_chains (n : Nat) (c : EncChan) : (s.setEnc n c).chains = s.chains := rfl
@[simp] theorem State.setEnc_creel (n : Nat) (c : EncChan) : (s.setEnc n c).creel = s.creel := rfl
@[simp] theorem State.setEnc_cond (n : Nat) (c : EncChan) : (s.setEnc n c).cond = s.cond := rfl
@[simp] theorem State.setEnc_plait (n : Nat) (c : EncChan) : (s.setEnc n c).plait = s.plait := rfl
@[simp] theorem State.setEnc_ctxs (n : Nat) (c : EncChan) : (s.setEnc n c).ctxs = s.ctxs := rfl
@[simp] theorem State.setEnc_ctxFresh (n : Nat) (c : EncChan) : (s.setEnc n c).ctxFresh = s.ctxFresh := rfl
@[simp] theorem State.setEnc_ctxQueue (n : Nat) (c : EncChan) : (s.setEnc n c).ctxQueue = s.ctxQueue := rfl
@[simp] theorem State.setEnc_noCtxKey (n : Nat) (c : EncChan) : (s.setEnc n c).noCtxKey = s.noCtxKey := rfl
@[simp] theorem State.setEnc_jobs (n : Nat) (c : EncChan) : (s.setEnc n c).jobs = s.jobs := rfl
@[simp] theorem State.setEnc_candFree (n : Nat) (c : EncChan) : (s.setEnc n c).candFree = s.candFree := rfl
@[simp] theorem State.setEnc_candOf (n : Nat) (c : EncChan) : (s.setEnc n c).candOf = s.candOf := rfl
@[simp] theorem State.setEnc_compare (n : Nat) (c : EncChan) : (s.setEnc n c).compare = s.compare := rfl
@[simp] theorem State.setEnc_ringQ (n : Nat) (c : EncChan) : (s.setEnc n c).ringQ = s.ringQ := rfl
@[simp] theorem State.setEnc_ringLost (n : Nat) (c : EncChan) : (s.setEnc n c).ringLost = s.ringLost := rfl
@[simp] theorem State.setEnc_repeatsOut (n : Nat) (c : EncChan) : (s.setEnc n c).repeatsOut = s.repeatsOut := rfl
@[simp] theorem State.setEnc_withy (n : Nat) (c : EncChan) : (s.setEnc n c).withy = s.withy := rfl
@[simp] theorem State.setEnc_port (n : Nat) (c : EncChan) : (s.setEnc n c).port = s.port := rfl
@[simp] theorem State.setEnc_dma (n : Nat) (c : EncChan) : (s.setEnc n c).dma = s.dma := rfl
@[simp] theorem State.setEnc_skep (n : Nat) (c : EncChan) : (s.setEnc n c).skep = s.skep := rfl
@[simp] theorem State.setEnc_nvm (n : Nat) (c : EncChan) : (s.setEnc n c).nvm = s.nvm := rfl
@[simp] theorem State.setEnc_therm (n : Nat) (c : EncChan) : (s.setEnc n c).therm = s.therm := rfl
@[simp] theorem State.setEnc_boot (n : Nat) (c : EncChan) : (s.setEnc n c).boot = s.boot := rfl
@[simp] theorem State.setEnc_ind (n : Nat) (c : EncChan) : (s.setEnc n c).ind = s.ind := rfl
@[simp] theorem State.setEnc_outs (n : Nat) (c : EncChan) : (s.setEnc n c).outs = s.outs := rfl
@[simp] theorem State.setEnc_pending (n : Nat) (c : EncChan) : (s.setEnc n c).pending = s.pending := rfl
@[simp] theorem State.setEnc_reg (n : Nat) (c : EncChan) {x : Nat} : (s.setEnc n c).reg x = s.reg x := rfl
@[simp] theorem State.setEnc_get (n : Nat) (c : EncChan) {x : Fld} : (s.setEnc n c).get x = s.get x := rfl
@[simp] theorem State.setEnc_on (n : Nat) (c : EncChan) {x : Fld} : (s.setEnc n c).on x = s.on x := rfl

/-! ## setSsi -/

@[simp] theorem State.setSsi_clk (n : Nat) (c : SsiChan) : (s.setSsi n c).clk = s.clk := rfl
@[simp] theorem State.setSsi_free (n : Nat) (c : SsiChan) : (s.setSsi n c).free = s.free := rfl
@[simp] theorem State.setSsi_timeNs (n : Nat) (c : SsiChan) : (s.setSsi n c).timeNs = s.timeNs := rfl
@[simp] theorem State.setSsi_timeFrac (n : Nat) (c : SsiChan) : (s.setSsi n c).timeFrac = s.timeFrac := rfl
@[simp] theorem State.setSsi_regs (n : Nat) (c : SsiChan) : (s.setSsi n c).regs = s.regs := rfl
@[simp] theorem State.setSsi_mem (n : Nat) (c : SsiChan) : (s.setSsi n c).mem = s.mem := rfl
@[simp] theorem State.setSsi_mram (n : Nat) (c : SsiChan) : (s.setSsi n c).mram = s.mram := rfl
@[simp] theorem State.setSsi_units (n : Nat) (c : SsiChan) : (s.setSsi n c).units = s.units := rfl
@[simp] theorem State.setSsi_swd (n : Nat) (c : SsiChan) : (s.setSsi n c).swd = s.swd := rfl
@[simp] theorem State.setSsi_risen (n : Nat) (c : SsiChan) : (s.setSsi n c).risen = s.risen := rfl
@[simp] theorem State.setSsi_enc (n : Nat) (c : SsiChan) : (s.setSsi n c).enc = s.enc := rfl
@[simp] theorem State.setSsi_sw (n : Nat) (c : SsiChan) : (s.setSsi n c).sw = s.sw := rfl
@[simp] theorem State.setSsi_pe (n : Nat) (c : SsiChan) : (s.setSsi n c).pe = s.pe := rfl
@[simp] theorem State.setSsi_net (n : Nat) (c : SsiChan) : (s.setSsi n c).net = s.net := rfl
@[simp] theorem State.setSsi_rxLast (n : Nat) (c : SsiChan) : (s.setSsi n c).rxLast = s.rxLast := rfl
@[simp] theorem State.setSsi_lanes (n : Nat) (c : SsiChan) : (s.setSsi n c).lanes = s.lanes := rfl
@[simp] theorem State.setSsi_pllUp (n : Nat) (c : SsiChan) : (s.setSsi n c).pllUp = s.pllUp := rfl
@[simp] theorem State.setSsi_pllLost (n : Nat) (c : SsiChan) : (s.setSsi n c).pllLost = s.pllLost := rfl
@[simp] theorem State.setSsi_links (n : Nat) (c : SsiChan) : (s.setSsi n c).links = s.links := rfl
@[simp] theorem State.setSsi_eps (n : Nat) (c : SsiChan) : (s.setSsi n c).eps = s.eps := rfl
@[simp] theorem State.setSsi_streams (n : Nat) (c : SsiChan) : (s.setSsi n c).streams = s.streams := rfl
@[simp] theorem State.setSsi_enrolQ (n : Nat) (c : SsiChan) : (s.setSsi n c).enrolQ = s.enrolQ := rfl
@[simp] theorem State.setSsi_enrolling (n : Nat) (c : SsiChan) : (s.setSsi n c).enrolling = s.enrolling := rfl
@[simp] theorem State.setSsi_upCount (n : Nat) (c : SsiChan) : (s.setSsi n c).upCount = s.upCount := rfl
@[simp] theorem State.setSsi_groups (n : Nat) (c : SsiChan) : (s.setSsi n c).groups = s.groups := rfl
@[simp] theorem State.setSsi_chains (n : Nat) (c : SsiChan) : (s.setSsi n c).chains = s.chains := rfl
@[simp] theorem State.setSsi_creel (n : Nat) (c : SsiChan) : (s.setSsi n c).creel = s.creel := rfl
@[simp] theorem State.setSsi_cond (n : Nat) (c : SsiChan) : (s.setSsi n c).cond = s.cond := rfl
@[simp] theorem State.setSsi_plait (n : Nat) (c : SsiChan) : (s.setSsi n c).plait = s.plait := rfl
@[simp] theorem State.setSsi_ctxs (n : Nat) (c : SsiChan) : (s.setSsi n c).ctxs = s.ctxs := rfl
@[simp] theorem State.setSsi_ctxFresh (n : Nat) (c : SsiChan) : (s.setSsi n c).ctxFresh = s.ctxFresh := rfl
@[simp] theorem State.setSsi_ctxQueue (n : Nat) (c : SsiChan) : (s.setSsi n c).ctxQueue = s.ctxQueue := rfl
@[simp] theorem State.setSsi_noCtxKey (n : Nat) (c : SsiChan) : (s.setSsi n c).noCtxKey = s.noCtxKey := rfl
@[simp] theorem State.setSsi_jobs (n : Nat) (c : SsiChan) : (s.setSsi n c).jobs = s.jobs := rfl
@[simp] theorem State.setSsi_candFree (n : Nat) (c : SsiChan) : (s.setSsi n c).candFree = s.candFree := rfl
@[simp] theorem State.setSsi_candOf (n : Nat) (c : SsiChan) : (s.setSsi n c).candOf = s.candOf := rfl
@[simp] theorem State.setSsi_compare (n : Nat) (c : SsiChan) : (s.setSsi n c).compare = s.compare := rfl
@[simp] theorem State.setSsi_ringQ (n : Nat) (c : SsiChan) : (s.setSsi n c).ringQ = s.ringQ := rfl
@[simp] theorem State.setSsi_ringLost (n : Nat) (c : SsiChan) : (s.setSsi n c).ringLost = s.ringLost := rfl
@[simp] theorem State.setSsi_repeatsOut (n : Nat) (c : SsiChan) : (s.setSsi n c).repeatsOut = s.repeatsOut := rfl
@[simp] theorem State.setSsi_withy (n : Nat) (c : SsiChan) : (s.setSsi n c).withy = s.withy := rfl
@[simp] theorem State.setSsi_port (n : Nat) (c : SsiChan) : (s.setSsi n c).port = s.port := rfl
@[simp] theorem State.setSsi_dma (n : Nat) (c : SsiChan) : (s.setSsi n c).dma = s.dma := rfl
@[simp] theorem State.setSsi_skep (n : Nat) (c : SsiChan) : (s.setSsi n c).skep = s.skep := rfl
@[simp] theorem State.setSsi_nvm (n : Nat) (c : SsiChan) : (s.setSsi n c).nvm = s.nvm := rfl
@[simp] theorem State.setSsi_therm (n : Nat) (c : SsiChan) : (s.setSsi n c).therm = s.therm := rfl
@[simp] theorem State.setSsi_boot (n : Nat) (c : SsiChan) : (s.setSsi n c).boot = s.boot := rfl
@[simp] theorem State.setSsi_ind (n : Nat) (c : SsiChan) : (s.setSsi n c).ind = s.ind := rfl
@[simp] theorem State.setSsi_outs (n : Nat) (c : SsiChan) : (s.setSsi n c).outs = s.outs := rfl
@[simp] theorem State.setSsi_pending (n : Nat) (c : SsiChan) : (s.setSsi n c).pending = s.pending := rfl
@[simp] theorem State.setSsi_reg (n : Nat) (c : SsiChan) {x : Nat} : (s.setSsi n c).reg x = s.reg x := rfl
@[simp] theorem State.setSsi_get (n : Nat) (c : SsiChan) {x : Fld} : (s.setSsi n c).get x = s.get x := rfl
@[simp] theorem State.setSsi_on (n : Nat) (c : SsiChan) {x : Fld} : (s.setSsi n c).on x = s.on x := rfl

/-! ## setSw -/

@[simp] theorem State.setSw_clk (n : Nat) (c : SwIn) : (s.setSw n c).clk = s.clk := rfl
@[simp] theorem State.setSw_free (n : Nat) (c : SwIn) : (s.setSw n c).free = s.free := rfl
@[simp] theorem State.setSw_timeNs (n : Nat) (c : SwIn) : (s.setSw n c).timeNs = s.timeNs := rfl
@[simp] theorem State.setSw_timeFrac (n : Nat) (c : SwIn) : (s.setSw n c).timeFrac = s.timeFrac := rfl
@[simp] theorem State.setSw_regs (n : Nat) (c : SwIn) : (s.setSw n c).regs = s.regs := rfl
@[simp] theorem State.setSw_mem (n : Nat) (c : SwIn) : (s.setSw n c).mem = s.mem := rfl
@[simp] theorem State.setSw_mram (n : Nat) (c : SwIn) : (s.setSw n c).mram = s.mram := rfl
@[simp] theorem State.setSw_units (n : Nat) (c : SwIn) : (s.setSw n c).units = s.units := rfl
@[simp] theorem State.setSw_swd (n : Nat) (c : SwIn) : (s.setSw n c).swd = s.swd := rfl
@[simp] theorem State.setSw_risen (n : Nat) (c : SwIn) : (s.setSw n c).risen = s.risen := rfl
@[simp] theorem State.setSw_enc (n : Nat) (c : SwIn) : (s.setSw n c).enc = s.enc := rfl
@[simp] theorem State.setSw_ssi (n : Nat) (c : SwIn) : (s.setSw n c).ssi = s.ssi := rfl
@[simp] theorem State.setSw_pe (n : Nat) (c : SwIn) : (s.setSw n c).pe = s.pe := rfl
@[simp] theorem State.setSw_net (n : Nat) (c : SwIn) : (s.setSw n c).net = s.net := rfl
@[simp] theorem State.setSw_rxLast (n : Nat) (c : SwIn) : (s.setSw n c).rxLast = s.rxLast := rfl
@[simp] theorem State.setSw_lanes (n : Nat) (c : SwIn) : (s.setSw n c).lanes = s.lanes := rfl
@[simp] theorem State.setSw_pllUp (n : Nat) (c : SwIn) : (s.setSw n c).pllUp = s.pllUp := rfl
@[simp] theorem State.setSw_pllLost (n : Nat) (c : SwIn) : (s.setSw n c).pllLost = s.pllLost := rfl
@[simp] theorem State.setSw_links (n : Nat) (c : SwIn) : (s.setSw n c).links = s.links := rfl
@[simp] theorem State.setSw_eps (n : Nat) (c : SwIn) : (s.setSw n c).eps = s.eps := rfl
@[simp] theorem State.setSw_streams (n : Nat) (c : SwIn) : (s.setSw n c).streams = s.streams := rfl
@[simp] theorem State.setSw_enrolQ (n : Nat) (c : SwIn) : (s.setSw n c).enrolQ = s.enrolQ := rfl
@[simp] theorem State.setSw_enrolling (n : Nat) (c : SwIn) : (s.setSw n c).enrolling = s.enrolling := rfl
@[simp] theorem State.setSw_upCount (n : Nat) (c : SwIn) : (s.setSw n c).upCount = s.upCount := rfl
@[simp] theorem State.setSw_groups (n : Nat) (c : SwIn) : (s.setSw n c).groups = s.groups := rfl
@[simp] theorem State.setSw_chains (n : Nat) (c : SwIn) : (s.setSw n c).chains = s.chains := rfl
@[simp] theorem State.setSw_creel (n : Nat) (c : SwIn) : (s.setSw n c).creel = s.creel := rfl
@[simp] theorem State.setSw_cond (n : Nat) (c : SwIn) : (s.setSw n c).cond = s.cond := rfl
@[simp] theorem State.setSw_plait (n : Nat) (c : SwIn) : (s.setSw n c).plait = s.plait := rfl
@[simp] theorem State.setSw_ctxs (n : Nat) (c : SwIn) : (s.setSw n c).ctxs = s.ctxs := rfl
@[simp] theorem State.setSw_ctxFresh (n : Nat) (c : SwIn) : (s.setSw n c).ctxFresh = s.ctxFresh := rfl
@[simp] theorem State.setSw_ctxQueue (n : Nat) (c : SwIn) : (s.setSw n c).ctxQueue = s.ctxQueue := rfl
@[simp] theorem State.setSw_noCtxKey (n : Nat) (c : SwIn) : (s.setSw n c).noCtxKey = s.noCtxKey := rfl
@[simp] theorem State.setSw_jobs (n : Nat) (c : SwIn) : (s.setSw n c).jobs = s.jobs := rfl
@[simp] theorem State.setSw_candFree (n : Nat) (c : SwIn) : (s.setSw n c).candFree = s.candFree := rfl
@[simp] theorem State.setSw_candOf (n : Nat) (c : SwIn) : (s.setSw n c).candOf = s.candOf := rfl
@[simp] theorem State.setSw_compare (n : Nat) (c : SwIn) : (s.setSw n c).compare = s.compare := rfl
@[simp] theorem State.setSw_ringQ (n : Nat) (c : SwIn) : (s.setSw n c).ringQ = s.ringQ := rfl
@[simp] theorem State.setSw_ringLost (n : Nat) (c : SwIn) : (s.setSw n c).ringLost = s.ringLost := rfl
@[simp] theorem State.setSw_repeatsOut (n : Nat) (c : SwIn) : (s.setSw n c).repeatsOut = s.repeatsOut := rfl
@[simp] theorem State.setSw_withy (n : Nat) (c : SwIn) : (s.setSw n c).withy = s.withy := rfl
@[simp] theorem State.setSw_port (n : Nat) (c : SwIn) : (s.setSw n c).port = s.port := rfl
@[simp] theorem State.setSw_dma (n : Nat) (c : SwIn) : (s.setSw n c).dma = s.dma := rfl
@[simp] theorem State.setSw_skep (n : Nat) (c : SwIn) : (s.setSw n c).skep = s.skep := rfl
@[simp] theorem State.setSw_nvm (n : Nat) (c : SwIn) : (s.setSw n c).nvm = s.nvm := rfl
@[simp] theorem State.setSw_therm (n : Nat) (c : SwIn) : (s.setSw n c).therm = s.therm := rfl
@[simp] theorem State.setSw_boot (n : Nat) (c : SwIn) : (s.setSw n c).boot = s.boot := rfl
@[simp] theorem State.setSw_ind (n : Nat) (c : SwIn) : (s.setSw n c).ind = s.ind := rfl
@[simp] theorem State.setSw_outs (n : Nat) (c : SwIn) : (s.setSw n c).outs = s.outs := rfl
@[simp] theorem State.setSw_pending (n : Nat) (c : SwIn) : (s.setSw n c).pending = s.pending := rfl
@[simp] theorem State.setSw_reg (n : Nat) (c : SwIn) {x : Nat} : (s.setSw n c).reg x = s.reg x := rfl
@[simp] theorem State.setSw_get (n : Nat) (c : SwIn) {x : Fld} : (s.setSw n c).get x = s.get x := rfl
@[simp] theorem State.setSw_on (n : Nat) (c : SwIn) {x : Fld} : (s.setSw n c).on x = s.on x := rfl

/-! ## setSrc -/

@[simp] theorem State.setSrc_clk (n : Nat) (c : PosSrc) : (s.setSrc n c).clk = s.clk := rfl
@[simp] theorem State.setSrc_free (n : Nat) (c : PosSrc) : (s.setSrc n c).free = s.free := rfl
@[simp] theorem State.setSrc_timeNs (n : Nat) (c : PosSrc) : (s.setSrc n c).timeNs = s.timeNs := rfl
@[simp] theorem State.setSrc_timeFrac (n : Nat) (c : PosSrc) : (s.setSrc n c).timeFrac = s.timeFrac := rfl
@[simp] theorem State.setSrc_regs (n : Nat) (c : PosSrc) : (s.setSrc n c).regs = s.regs := rfl
@[simp] theorem State.setSrc_mem (n : Nat) (c : PosSrc) : (s.setSrc n c).mem = s.mem := rfl
@[simp] theorem State.setSrc_mram (n : Nat) (c : PosSrc) : (s.setSrc n c).mram = s.mram := rfl
@[simp] theorem State.setSrc_units (n : Nat) (c : PosSrc) : (s.setSrc n c).units = s.units := rfl
@[simp] theorem State.setSrc_swd (n : Nat) (c : PosSrc) : (s.setSrc n c).swd = s.swd := rfl
@[simp] theorem State.setSrc_risen (n : Nat) (c : PosSrc) : (s.setSrc n c).risen = s.risen := rfl
@[simp] theorem State.setSrc_enc (n : Nat) (c : PosSrc) : (s.setSrc n c).enc = s.enc := rfl
@[simp] theorem State.setSrc_ssi (n : Nat) (c : PosSrc) : (s.setSrc n c).ssi = s.ssi := rfl
@[simp] theorem State.setSrc_sw (n : Nat) (c : PosSrc) : (s.setSrc n c).sw = s.sw := rfl
@[simp] theorem State.setSrc_net (n : Nat) (c : PosSrc) : (s.setSrc n c).net = s.net := rfl
@[simp] theorem State.setSrc_rxLast (n : Nat) (c : PosSrc) : (s.setSrc n c).rxLast = s.rxLast := rfl
@[simp] theorem State.setSrc_lanes (n : Nat) (c : PosSrc) : (s.setSrc n c).lanes = s.lanes := rfl
@[simp] theorem State.setSrc_pllUp (n : Nat) (c : PosSrc) : (s.setSrc n c).pllUp = s.pllUp := rfl
@[simp] theorem State.setSrc_pllLost (n : Nat) (c : PosSrc) : (s.setSrc n c).pllLost = s.pllLost := rfl
@[simp] theorem State.setSrc_links (n : Nat) (c : PosSrc) : (s.setSrc n c).links = s.links := rfl
@[simp] theorem State.setSrc_eps (n : Nat) (c : PosSrc) : (s.setSrc n c).eps = s.eps := rfl
@[simp] theorem State.setSrc_streams (n : Nat) (c : PosSrc) : (s.setSrc n c).streams = s.streams := rfl
@[simp] theorem State.setSrc_enrolQ (n : Nat) (c : PosSrc) : (s.setSrc n c).enrolQ = s.enrolQ := rfl
@[simp] theorem State.setSrc_enrolling (n : Nat) (c : PosSrc) : (s.setSrc n c).enrolling = s.enrolling := rfl
@[simp] theorem State.setSrc_upCount (n : Nat) (c : PosSrc) : (s.setSrc n c).upCount = s.upCount := rfl
@[simp] theorem State.setSrc_groups (n : Nat) (c : PosSrc) : (s.setSrc n c).groups = s.groups := rfl
@[simp] theorem State.setSrc_chains (n : Nat) (c : PosSrc) : (s.setSrc n c).chains = s.chains := rfl
@[simp] theorem State.setSrc_creel (n : Nat) (c : PosSrc) : (s.setSrc n c).creel = s.creel := rfl
@[simp] theorem State.setSrc_cond (n : Nat) (c : PosSrc) : (s.setSrc n c).cond = s.cond := rfl
@[simp] theorem State.setSrc_plait (n : Nat) (c : PosSrc) : (s.setSrc n c).plait = s.plait := rfl
@[simp] theorem State.setSrc_ctxs (n : Nat) (c : PosSrc) : (s.setSrc n c).ctxs = s.ctxs := rfl
@[simp] theorem State.setSrc_ctxFresh (n : Nat) (c : PosSrc) : (s.setSrc n c).ctxFresh = s.ctxFresh := rfl
@[simp] theorem State.setSrc_ctxQueue (n : Nat) (c : PosSrc) : (s.setSrc n c).ctxQueue = s.ctxQueue := rfl
@[simp] theorem State.setSrc_noCtxKey (n : Nat) (c : PosSrc) : (s.setSrc n c).noCtxKey = s.noCtxKey := rfl
@[simp] theorem State.setSrc_jobs (n : Nat) (c : PosSrc) : (s.setSrc n c).jobs = s.jobs := rfl
@[simp] theorem State.setSrc_candFree (n : Nat) (c : PosSrc) : (s.setSrc n c).candFree = s.candFree := rfl
@[simp] theorem State.setSrc_candOf (n : Nat) (c : PosSrc) : (s.setSrc n c).candOf = s.candOf := rfl
@[simp] theorem State.setSrc_compare (n : Nat) (c : PosSrc) : (s.setSrc n c).compare = s.compare := rfl
@[simp] theorem State.setSrc_ringQ (n : Nat) (c : PosSrc) : (s.setSrc n c).ringQ = s.ringQ := rfl
@[simp] theorem State.setSrc_ringLost (n : Nat) (c : PosSrc) : (s.setSrc n c).ringLost = s.ringLost := rfl
@[simp] theorem State.setSrc_repeatsOut (n : Nat) (c : PosSrc) : (s.setSrc n c).repeatsOut = s.repeatsOut := rfl
@[simp] theorem State.setSrc_withy (n : Nat) (c : PosSrc) : (s.setSrc n c).withy = s.withy := rfl
@[simp] theorem State.setSrc_port (n : Nat) (c : PosSrc) : (s.setSrc n c).port = s.port := rfl
@[simp] theorem State.setSrc_dma (n : Nat) (c : PosSrc) : (s.setSrc n c).dma = s.dma := rfl
@[simp] theorem State.setSrc_skep (n : Nat) (c : PosSrc) : (s.setSrc n c).skep = s.skep := rfl
@[simp] theorem State.setSrc_nvm (n : Nat) (c : PosSrc) : (s.setSrc n c).nvm = s.nvm := rfl
@[simp] theorem State.setSrc_therm (n : Nat) (c : PosSrc) : (s.setSrc n c).therm = s.therm := rfl
@[simp] theorem State.setSrc_boot (n : Nat) (c : PosSrc) : (s.setSrc n c).boot = s.boot := rfl
@[simp] theorem State.setSrc_ind (n : Nat) (c : PosSrc) : (s.setSrc n c).ind = s.ind := rfl
@[simp] theorem State.setSrc_outs (n : Nat) (c : PosSrc) : (s.setSrc n c).outs = s.outs := rfl
@[simp] theorem State.setSrc_pending (n : Nat) (c : PosSrc) : (s.setSrc n c).pending = s.pending := rfl
@[simp] theorem State.setSrc_reg (n : Nat) (c : PosSrc) {x : Nat} : (s.setSrc n c).reg x = s.reg x := rfl
@[simp] theorem State.setSrc_get (n : Nat) (c : PosSrc) {x : Fld} : (s.setSrc n c).get x = s.get x := rfl
@[simp] theorem State.setSrc_on (n : Nat) (c : PosSrc) {x : Fld} : (s.setSrc n c).on x = s.on x := rfl

/-! ## setViewPos -/

@[simp] theorem State.setViewPos_clk (n : Nat) (c : PosView) : (s.setViewPos n c).clk = s.clk := rfl
@[simp] theorem State.setViewPos_free (n : Nat) (c : PosView) : (s.setViewPos n c).free = s.free := rfl
@[simp] theorem State.setViewPos_timeNs (n : Nat) (c : PosView) : (s.setViewPos n c).timeNs = s.timeNs := rfl
@[simp] theorem State.setViewPos_timeFrac (n : Nat) (c : PosView) : (s.setViewPos n c).timeFrac = s.timeFrac := rfl
@[simp] theorem State.setViewPos_regs (n : Nat) (c : PosView) : (s.setViewPos n c).regs = s.regs := rfl
@[simp] theorem State.setViewPos_mem (n : Nat) (c : PosView) : (s.setViewPos n c).mem = s.mem := rfl
@[simp] theorem State.setViewPos_mram (n : Nat) (c : PosView) : (s.setViewPos n c).mram = s.mram := rfl
@[simp] theorem State.setViewPos_units (n : Nat) (c : PosView) : (s.setViewPos n c).units = s.units := rfl
@[simp] theorem State.setViewPos_swd (n : Nat) (c : PosView) : (s.setViewPos n c).swd = s.swd := rfl
@[simp] theorem State.setViewPos_risen (n : Nat) (c : PosView) : (s.setViewPos n c).risen = s.risen := rfl
@[simp] theorem State.setViewPos_enc (n : Nat) (c : PosView) : (s.setViewPos n c).enc = s.enc := rfl
@[simp] theorem State.setViewPos_ssi (n : Nat) (c : PosView) : (s.setViewPos n c).ssi = s.ssi := rfl
@[simp] theorem State.setViewPos_sw (n : Nat) (c : PosView) : (s.setViewPos n c).sw = s.sw := rfl
@[simp] theorem State.setViewPos_net (n : Nat) (c : PosView) : (s.setViewPos n c).net = s.net := rfl
@[simp] theorem State.setViewPos_rxLast (n : Nat) (c : PosView) : (s.setViewPos n c).rxLast = s.rxLast := rfl
@[simp] theorem State.setViewPos_lanes (n : Nat) (c : PosView) : (s.setViewPos n c).lanes = s.lanes := rfl
@[simp] theorem State.setViewPos_pllUp (n : Nat) (c : PosView) : (s.setViewPos n c).pllUp = s.pllUp := rfl
@[simp] theorem State.setViewPos_pllLost (n : Nat) (c : PosView) : (s.setViewPos n c).pllLost = s.pllLost := rfl
@[simp] theorem State.setViewPos_links (n : Nat) (c : PosView) : (s.setViewPos n c).links = s.links := rfl
@[simp] theorem State.setViewPos_eps (n : Nat) (c : PosView) : (s.setViewPos n c).eps = s.eps := rfl
@[simp] theorem State.setViewPos_streams (n : Nat) (c : PosView) : (s.setViewPos n c).streams = s.streams := rfl
@[simp] theorem State.setViewPos_enrolQ (n : Nat) (c : PosView) : (s.setViewPos n c).enrolQ = s.enrolQ := rfl
@[simp] theorem State.setViewPos_enrolling (n : Nat) (c : PosView) : (s.setViewPos n c).enrolling = s.enrolling := rfl
@[simp] theorem State.setViewPos_upCount (n : Nat) (c : PosView) : (s.setViewPos n c).upCount = s.upCount := rfl
@[simp] theorem State.setViewPos_groups (n : Nat) (c : PosView) : (s.setViewPos n c).groups = s.groups := rfl
@[simp] theorem State.setViewPos_chains (n : Nat) (c : PosView) : (s.setViewPos n c).chains = s.chains := rfl
@[simp] theorem State.setViewPos_creel (n : Nat) (c : PosView) : (s.setViewPos n c).creel = s.creel := rfl
@[simp] theorem State.setViewPos_cond (n : Nat) (c : PosView) : (s.setViewPos n c).cond = s.cond := rfl
@[simp] theorem State.setViewPos_plait (n : Nat) (c : PosView) : (s.setViewPos n c).plait = s.plait := rfl
@[simp] theorem State.setViewPos_ctxs (n : Nat) (c : PosView) : (s.setViewPos n c).ctxs = s.ctxs := rfl
@[simp] theorem State.setViewPos_ctxFresh (n : Nat) (c : PosView) : (s.setViewPos n c).ctxFresh = s.ctxFresh := rfl
@[simp] theorem State.setViewPos_ctxQueue (n : Nat) (c : PosView) : (s.setViewPos n c).ctxQueue = s.ctxQueue := rfl
@[simp] theorem State.setViewPos_noCtxKey (n : Nat) (c : PosView) : (s.setViewPos n c).noCtxKey = s.noCtxKey := rfl
@[simp] theorem State.setViewPos_jobs (n : Nat) (c : PosView) : (s.setViewPos n c).jobs = s.jobs := rfl
@[simp] theorem State.setViewPos_candFree (n : Nat) (c : PosView) : (s.setViewPos n c).candFree = s.candFree := rfl
@[simp] theorem State.setViewPos_candOf (n : Nat) (c : PosView) : (s.setViewPos n c).candOf = s.candOf := rfl
@[simp] theorem State.setViewPos_compare (n : Nat) (c : PosView) : (s.setViewPos n c).compare = s.compare := rfl
@[simp] theorem State.setViewPos_ringQ (n : Nat) (c : PosView) : (s.setViewPos n c).ringQ = s.ringQ := rfl
@[simp] theorem State.setViewPos_ringLost (n : Nat) (c : PosView) : (s.setViewPos n c).ringLost = s.ringLost := rfl
@[simp] theorem State.setViewPos_repeatsOut (n : Nat) (c : PosView) : (s.setViewPos n c).repeatsOut = s.repeatsOut := rfl
@[simp] theorem State.setViewPos_withy (n : Nat) (c : PosView) : (s.setViewPos n c).withy = s.withy := rfl
@[simp] theorem State.setViewPos_port (n : Nat) (c : PosView) : (s.setViewPos n c).port = s.port := rfl
@[simp] theorem State.setViewPos_dma (n : Nat) (c : PosView) : (s.setViewPos n c).dma = s.dma := rfl
@[simp] theorem State.setViewPos_skep (n : Nat) (c : PosView) : (s.setViewPos n c).skep = s.skep := rfl
@[simp] theorem State.setViewPos_nvm (n : Nat) (c : PosView) : (s.setViewPos n c).nvm = s.nvm := rfl
@[simp] theorem State.setViewPos_therm (n : Nat) (c : PosView) : (s.setViewPos n c).therm = s.therm := rfl
@[simp] theorem State.setViewPos_boot (n : Nat) (c : PosView) : (s.setViewPos n c).boot = s.boot := rfl
@[simp] theorem State.setViewPos_ind (n : Nat) (c : PosView) : (s.setViewPos n c).ind = s.ind := rfl
@[simp] theorem State.setViewPos_outs (n : Nat) (c : PosView) : (s.setViewPos n c).outs = s.outs := rfl
@[simp] theorem State.setViewPos_pending (n : Nat) (c : PosView) : (s.setViewPos n c).pending = s.pending := rfl
@[simp] theorem State.setViewPos_reg (n : Nat) (c : PosView) {x : Nat} : (s.setViewPos n c).reg x = s.reg x := rfl
@[simp] theorem State.setViewPos_get (n : Nat) (c : PosView) {x : Fld} : (s.setViewPos n c).get x = s.get x := rfl
@[simp] theorem State.setViewPos_on (n : Nat) (c : PosView) {x : Fld} : (s.setViewPos n c).on x = s.on x := rfl

/-! ## setSlot -/

@[simp] theorem State.setSlot_clk (n : Nat) (c : Slot) : (s.setSlot n c).clk = s.clk := rfl
@[simp] theorem State.setSlot_free (n : Nat) (c : Slot) : (s.setSlot n c).free = s.free := rfl
@[simp] theorem State.setSlot_timeNs (n : Nat) (c : Slot) : (s.setSlot n c).timeNs = s.timeNs := rfl
@[simp] theorem State.setSlot_timeFrac (n : Nat) (c : Slot) : (s.setSlot n c).timeFrac = s.timeFrac := rfl
@[simp] theorem State.setSlot_regs (n : Nat) (c : Slot) : (s.setSlot n c).regs = s.regs := rfl
@[simp] theorem State.setSlot_mem (n : Nat) (c : Slot) : (s.setSlot n c).mem = s.mem := rfl
@[simp] theorem State.setSlot_mram (n : Nat) (c : Slot) : (s.setSlot n c).mram = s.mram := rfl
@[simp] theorem State.setSlot_units (n : Nat) (c : Slot) : (s.setSlot n c).units = s.units := rfl
@[simp] theorem State.setSlot_swd (n : Nat) (c : Slot) : (s.setSlot n c).swd = s.swd := rfl
@[simp] theorem State.setSlot_risen (n : Nat) (c : Slot) : (s.setSlot n c).risen = s.risen := rfl
@[simp] theorem State.setSlot_enc (n : Nat) (c : Slot) : (s.setSlot n c).enc = s.enc := rfl
@[simp] theorem State.setSlot_ssi (n : Nat) (c : Slot) : (s.setSlot n c).ssi = s.ssi := rfl
@[simp] theorem State.setSlot_sw (n : Nat) (c : Slot) : (s.setSlot n c).sw = s.sw := rfl
@[simp] theorem State.setSlot_net (n : Nat) (c : Slot) : (s.setSlot n c).net = s.net := rfl
@[simp] theorem State.setSlot_rxLast (n : Nat) (c : Slot) : (s.setSlot n c).rxLast = s.rxLast := rfl
@[simp] theorem State.setSlot_lanes (n : Nat) (c : Slot) : (s.setSlot n c).lanes = s.lanes := rfl
@[simp] theorem State.setSlot_pllUp (n : Nat) (c : Slot) : (s.setSlot n c).pllUp = s.pllUp := rfl
@[simp] theorem State.setSlot_pllLost (n : Nat) (c : Slot) : (s.setSlot n c).pllLost = s.pllLost := rfl
@[simp] theorem State.setSlot_links (n : Nat) (c : Slot) : (s.setSlot n c).links = s.links := rfl
@[simp] theorem State.setSlot_eps (n : Nat) (c : Slot) : (s.setSlot n c).eps = s.eps := rfl
@[simp] theorem State.setSlot_streams (n : Nat) (c : Slot) : (s.setSlot n c).streams = s.streams := rfl
@[simp] theorem State.setSlot_enrolQ (n : Nat) (c : Slot) : (s.setSlot n c).enrolQ = s.enrolQ := rfl
@[simp] theorem State.setSlot_enrolling (n : Nat) (c : Slot) : (s.setSlot n c).enrolling = s.enrolling := rfl
@[simp] theorem State.setSlot_upCount (n : Nat) (c : Slot) : (s.setSlot n c).upCount = s.upCount := rfl
@[simp] theorem State.setSlot_groups (n : Nat) (c : Slot) : (s.setSlot n c).groups = s.groups := rfl
@[simp] theorem State.setSlot_chains (n : Nat) (c : Slot) : (s.setSlot n c).chains = s.chains := rfl
@[simp] theorem State.setSlot_creel (n : Nat) (c : Slot) : (s.setSlot n c).creel = s.creel := rfl
@[simp] theorem State.setSlot_cond (n : Nat) (c : Slot) : (s.setSlot n c).cond = s.cond := rfl
@[simp] theorem State.setSlot_plait (n : Nat) (c : Slot) : (s.setSlot n c).plait = s.plait := rfl
@[simp] theorem State.setSlot_ctxs (n : Nat) (c : Slot) : (s.setSlot n c).ctxs = s.ctxs := rfl
@[simp] theorem State.setSlot_ctxFresh (n : Nat) (c : Slot) : (s.setSlot n c).ctxFresh = s.ctxFresh := rfl
@[simp] theorem State.setSlot_ctxQueue (n : Nat) (c : Slot) : (s.setSlot n c).ctxQueue = s.ctxQueue := rfl
@[simp] theorem State.setSlot_noCtxKey (n : Nat) (c : Slot) : (s.setSlot n c).noCtxKey = s.noCtxKey := rfl
@[simp] theorem State.setSlot_jobs (n : Nat) (c : Slot) : (s.setSlot n c).jobs = s.jobs := rfl
@[simp] theorem State.setSlot_candFree (n : Nat) (c : Slot) : (s.setSlot n c).candFree = s.candFree := rfl
@[simp] theorem State.setSlot_candOf (n : Nat) (c : Slot) : (s.setSlot n c).candOf = s.candOf := rfl
@[simp] theorem State.setSlot_compare (n : Nat) (c : Slot) : (s.setSlot n c).compare = s.compare := rfl
@[simp] theorem State.setSlot_ringQ (n : Nat) (c : Slot) : (s.setSlot n c).ringQ = s.ringQ := rfl
@[simp] theorem State.setSlot_ringLost (n : Nat) (c : Slot) : (s.setSlot n c).ringLost = s.ringLost := rfl
@[simp] theorem State.setSlot_repeatsOut (n : Nat) (c : Slot) : (s.setSlot n c).repeatsOut = s.repeatsOut := rfl
@[simp] theorem State.setSlot_withy (n : Nat) (c : Slot) : (s.setSlot n c).withy = s.withy := rfl
@[simp] theorem State.setSlot_port (n : Nat) (c : Slot) : (s.setSlot n c).port = s.port := rfl
@[simp] theorem State.setSlot_dma (n : Nat) (c : Slot) : (s.setSlot n c).dma = s.dma := rfl
@[simp] theorem State.setSlot_skep (n : Nat) (c : Slot) : (s.setSlot n c).skep = s.skep := rfl
@[simp] theorem State.setSlot_nvm (n : Nat) (c : Slot) : (s.setSlot n c).nvm = s.nvm := rfl
@[simp] theorem State.setSlot_therm (n : Nat) (c : Slot) : (s.setSlot n c).therm = s.therm := rfl
@[simp] theorem State.setSlot_boot (n : Nat) (c : Slot) : (s.setSlot n c).boot = s.boot := rfl
@[simp] theorem State.setSlot_ind (n : Nat) (c : Slot) : (s.setSlot n c).ind = s.ind := rfl
@[simp] theorem State.setSlot_outs (n : Nat) (c : Slot) : (s.setSlot n c).outs = s.outs := rfl
@[simp] theorem State.setSlot_pending (n : Nat) (c : Slot) : (s.setSlot n c).pending = s.pending := rfl
@[simp] theorem State.setSlot_reg (n : Nat) (c : Slot) {x : Nat} : (s.setSlot n c).reg x = s.reg x := rfl
@[simp] theorem State.setSlot_get (n : Nat) (c : Slot) {x : Fld} : (s.setSlot n c).get x = s.get x := rfl
@[simp] theorem State.setSlot_on (n : Nat) (c : Slot) {x : Fld} : (s.setSlot n c).on x = s.on x := rfl

/-! ## The records that an update writes -/

@[simp] theorem State.setUnit_self (u : Nat) (e : UnitEntry) : (s.setUnit u e).unitOf u = e := Tbl.get_put_self _ _ _ _
@[simp] theorem State.setEnc_self (n : Nat) (c : EncChan) : (s.setEnc n c).encOf n = c := Tbl.get_put_self _ _ _ _
@[simp] theorem State.setSsi_self (n : Nat) (c : SsiChan) : (s.setSsi n c).ssiOf n = c := Tbl.get_put_self _ _ _ _
@[simp] theorem State.setSw_self (n : Nat) (c : SwIn) : (s.setSw n c).swOf n = c := Tbl.get_put_self _ _ _ _
@[simp] theorem State.setSrc_self (n : Nat) (c : PosSrc) : (s.setSrc n c).srcOf n = c := Tbl.get_put_self _ _ _ _
@[simp] theorem State.setViewPos_self (n : Nat) (c : PosView) : (s.setViewPos n c).viewPosOf n = c := Tbl.get_put_self _ _ _ _
@[simp] theorem State.setSlot_self (n : Nat) (c : Slot) : (s.setSlot n c).slotOf n = c := Tbl.get_put_self _ _ _ _
@[simp] theorem State.setFifo_self (c : Nat) (q : List Req) : (s.setFifo c q).fifoOf c = q := Tbl.get_put_self _ _ _ _
theorem State.setFifo_of_ne {c d : Nat} (q : List Req) (h : d ≠ c) : (s.setFifo c q).fifoOf d = s.fifoOf d := Tbl.get_put_of_ne _ _ _ _ h
theorem State.setUnit_of_ne {u v : Nat} (e : UnitEntry) (h : v ≠ u) : (s.setUnit u e).unitOf v = s.unitOf v := Tbl.get_put_of_ne _ _ _ _ h

/-! ## Records that an update leaves -/

@[simp] theorem State.note_reg (a m : Nat) {x : Nat} : (s.note a m).reg x = s.reg x := rfl
@[simp] theorem State.note_get (a m : Nat) {x : Fld} : (s.note a m).get x = s.get x := rfl
@[simp] theorem State.note_on (a m : Nat) {x : Fld} : (s.note a m).on x = s.on x := rfl
@[simp] theorem State.note_getInt (a m : Nat) {x : Fld} : (s.note a m).getInt x = s.getInt x := rfl
@[simp] theorem State.note_byte (a m : Nat) {x : Nat} : (s.note a m).byte x = s.byte x := rfl
@[simp] theorem State.note_nvByte (a m : Nat) {x : Nat} : (s.note a m).nvByte x = s.nvByte x := rfl
@[simp] theorem State.note_unitOf (a m : Nat) {x : Nat} : (s.note a m).unitOf x = s.unitOf x := rfl
@[simp] theorem State.note_encOf (a m : Nat) {x : Nat} : (s.note a m).encOf x = s.encOf x := rfl
@[simp] theorem State.note_ssiOf (a m : Nat) {x : Nat} : (s.note a m).ssiOf x = s.ssiOf x := rfl
@[simp] theorem State.note_swOf (a m : Nat) {x : Nat} : (s.note a m).swOf x = s.swOf x := rfl
@[simp] theorem State.note_srcOf (a m : Nat) {x : Nat} : (s.note a m).srcOf x = s.srcOf x := rfl
@[simp] theorem State.note_viewPosOf (a m : Nat) {x : Nat} : (s.note a m).viewPosOf x = s.viewPosOf x := rfl
@[simp] theorem State.note_slotOf (a m : Nat) {x : Nat} : (s.note a m).slotOf x = s.slotOf x := rfl
@[simp] theorem State.note_fifoOf (a m : Nat) {x : Nat} : (s.note a m).fifoOf x = s.fifoOf x := rfl
@[simp] theorem State.setReg_byte (a : Nat) (v : Word) {x : Nat} : (s.setReg a v).byte x = s.byte x := rfl
@[simp] theorem State.setReg_nvByte (a : Nat) (v : Word) {x : Nat} : (s.setReg a v).nvByte x = s.nvByte x := rfl
@[simp] theorem State.setReg_unitOf (a : Nat) (v : Word) {x : Nat} : (s.setReg a v).unitOf x = s.unitOf x := rfl
@[simp] theorem State.setReg_encOf (a : Nat) (v : Word) {x : Nat} : (s.setReg a v).encOf x = s.encOf x := rfl
@[simp] theorem State.setReg_ssiOf (a : Nat) (v : Word) {x : Nat} : (s.setReg a v).ssiOf x = s.ssiOf x := rfl
@[simp] theorem State.setReg_swOf (a : Nat) (v : Word) {x : Nat} : (s.setReg a v).swOf x = s.swOf x := rfl
@[simp] theorem State.setReg_srcOf (a : Nat) (v : Word) {x : Nat} : (s.setReg a v).srcOf x = s.srcOf x := rfl
@[simp] theorem State.setReg_viewPosOf (a : Nat) (v : Word) {x : Nat} : (s.setReg a v).viewPosOf x = s.viewPosOf x := rfl
@[simp] theorem State.setReg_slotOf (a : Nat) (v : Word) {x : Nat} : (s.setReg a v).slotOf x = s.slotOf x := rfl
@[simp] theorem State.setReg_fifoOf (a : Nat) (v : Word) {x : Nat} : (s.setReg a v).fifoOf x = s.fifoOf x := rfl
@[simp] theorem State.set_byte (f : Fld) (v : Nat) {x : Nat} : (s.set f v).byte x = s.byte x := rfl
@[simp] theorem State.set_nvByte (f : Fld) (v : Nat) {x : Nat} : (s.set f v).nvByte x = s.nvByte x := rfl
@[simp] theorem State.set_unitOf (f : Fld) (v : Nat) {x : Nat} : (s.set f v).unitOf x = s.unitOf x := rfl
@[simp] theorem State.set_encOf (f : Fld) (v : Nat) {x : Nat} : (s.set f v).encOf x = s.encOf x := rfl
@[simp] theorem State.set_ssiOf (f : Fld) (v : Nat) {x : Nat} : (s.set f v).ssiOf x = s.ssiOf x := rfl
@[simp] theorem State.set_swOf (f : Fld) (v : Nat) {x : Nat} : (s.set f v).swOf x = s.swOf x := rfl
@[simp] theorem State.set_srcOf (f : Fld) (v : Nat) {x : Nat} : (s.set f v).srcOf x = s.srcOf x := rfl
@[simp] theorem State.set_viewPosOf (f : Fld) (v : Nat) {x : Nat} : (s.set f v).viewPosOf x = s.viewPosOf x := rfl
@[simp] theorem State.set_slotOf (f : Fld) (v : Nat) {x : Nat} : (s.set f v).slotOf x = s.slotOf x := rfl
@[simp] theorem State.set_fifoOf (f : Fld) (v : Nat) {x : Nat} : (s.set f v).fifoOf x = s.fifoOf x := rfl
@[simp] theorem State.setByte_nvByte (a : Nat) (b : Byte) {x : Nat} : (s.setByte a b).nvByte x = s.nvByte x := rfl
@[simp] theorem State.setByte_unitOf (a : Nat) (b : Byte) {x : Nat} : (s.setByte a b).unitOf x = s.unitOf x := rfl
@[simp] theorem State.setByte_encOf (a : Nat) (b : Byte) {x : Nat} : (s.setByte a b).encOf x = s.encOf x := rfl
@[simp] theorem State.setByte_ssiOf (a : Nat) (b : Byte) {x : Nat} : (s.setByte a b).ssiOf x = s.ssiOf x := rfl
@[simp] theorem State.setByte_swOf (a : Nat) (b : Byte) {x : Nat} : (s.setByte a b).swOf x = s.swOf x := rfl
@[simp] theorem State.setByte_srcOf (a : Nat) (b : Byte) {x : Nat} : (s.setByte a b).srcOf x = s.srcOf x := rfl
@[simp] theorem State.setByte_viewPosOf (a : Nat) (b : Byte) {x : Nat} : (s.setByte a b).viewPosOf x = s.viewPosOf x := rfl
@[simp] theorem State.setByte_slotOf (a : Nat) (b : Byte) {x : Nat} : (s.setByte a b).slotOf x = s.slotOf x := rfl
@[simp] theorem State.setByte_fifoOf (a : Nat) (b : Byte) {x : Nat} : (s.setByte a b).fifoOf x = s.fifoOf x := rfl
@[simp] theorem State.setNvByte_byte (a : Nat) (b : Byte) {x : Nat} : (s.setNvByte a b).byte x = s.byte x := rfl
@[simp] theorem State.setNvByte_unitOf (a : Nat) (b : Byte) {x : Nat} : (s.setNvByte a b).unitOf x = s.unitOf x := rfl
@[simp] theorem State.setNvByte_encOf (a : Nat) (b : Byte) {x : Nat} : (s.setNvByte a b).encOf x = s.encOf x := rfl
@[simp] theorem State.setNvByte_ssiOf (a : Nat) (b : Byte) {x : Nat} : (s.setNvByte a b).ssiOf x = s.ssiOf x := rfl
@[simp] theorem State.setNvByte_swOf (a : Nat) (b : Byte) {x : Nat} : (s.setNvByte a b).swOf x = s.swOf x := rfl
@[simp] theorem State.setNvByte_srcOf (a : Nat) (b : Byte) {x : Nat} : (s.setNvByte a b).srcOf x = s.srcOf x := rfl
@[simp] theorem State.setNvByte_viewPosOf (a : Nat) (b : Byte) {x : Nat} : (s.setNvByte a b).viewPosOf x = s.viewPosOf x := rfl
@[simp] theorem State.setNvByte_slotOf (a : Nat) (b : Byte) {x : Nat} : (s.setNvByte a b).slotOf x = s.slotOf x := rfl
@[simp] theorem State.setNvByte_fifoOf (a : Nat) (b : Byte) {x : Nat} : (s.setNvByte a b).fifoOf x = s.fifoOf x := rfl
@[simp] theorem State.emit_byte (o : Out) {x : Nat} : (s.emit o).byte x = s.byte x := rfl
@[simp] theorem State.emit_nvByte (o : Out) {x : Nat} : (s.emit o).nvByte x = s.nvByte x := rfl
@[simp] theorem State.emit_unitOf (o : Out) {x : Nat} : (s.emit o).unitOf x = s.unitOf x := rfl
@[simp] theorem State.emit_encOf (o : Out) {x : Nat} : (s.emit o).encOf x = s.encOf x := rfl
@[simp] theorem State.emit_ssiOf (o : Out) {x : Nat} : (s.emit o).ssiOf x = s.ssiOf x := rfl
@[simp] theorem State.emit_swOf (o : Out) {x : Nat} : (s.emit o).swOf x = s.swOf x := rfl
@[simp] theorem State.emit_srcOf (o : Out) {x : Nat} : (s.emit o).srcOf x = s.srcOf x := rfl
@[simp] theorem State.emit_viewPosOf (o : Out) {x : Nat} : (s.emit o).viewPosOf x = s.viewPosOf x := rfl
@[simp] theorem State.emit_slotOf (o : Out) {x : Nat} : (s.emit o).slotOf x = s.slotOf x := rfl
@[simp] theorem State.emit_fifoOf (o : Out) {x : Nat} : (s.emit o).fifoOf x = s.fifoOf x := rfl
@[simp] theorem State.useFree_byte {x : Nat} : (s.useFree).byte x = s.byte x := rfl
@[simp] theorem State.useFree_nvByte {x : Nat} : (s.useFree).nvByte x = s.nvByte x := rfl
@[simp] theorem State.useFree_unitOf {x : Nat} : (s.useFree).unitOf x = s.unitOf x := rfl
@[simp] theorem State.useFree_encOf {x : Nat} : (s.useFree).encOf x = s.encOf x := rfl
@[simp] theorem State.useFree_ssiOf {x : Nat} : (s.useFree).ssiOf x = s.ssiOf x := rfl
@[simp] theorem State.useFree_swOf {x : Nat} : (s.useFree).swOf x = s.swOf x := rfl
@[simp] theorem State.useFree_srcOf {x : Nat} : (s.useFree).srcOf x = s.srcOf x := rfl
@[simp] theorem State.useFree_viewPosOf {x : Nat} : (s.useFree).viewPosOf x = s.viewPosOf x := rfl
@[simp] theorem State.useFree_slotOf {x : Nat} : (s.useFree).slotOf x = s.slotOf x := rfl
@[simp] theorem State.useFree_fifoOf {x : Nat} : (s.useFree).fifoOf x = s.fifoOf x := rfl
@[simp] theorem State.setUnit_byte (u : Nat) (e : UnitEntry) {x : Nat} : (s.setUnit u e).byte x = s.byte x := rfl
@[simp] theorem State.setUnit_nvByte (u : Nat) (e : UnitEntry) {x : Nat} : (s.setUnit u e).nvByte x = s.nvByte x := rfl
@[simp] theorem State.setUnit_encOf (u : Nat) (e : UnitEntry) {x : Nat} : (s.setUnit u e).encOf x = s.encOf x := rfl
@[simp] theorem State.setUnit_ssiOf (u : Nat) (e : UnitEntry) {x : Nat} : (s.setUnit u e).ssiOf x = s.ssiOf x := rfl
@[simp] theorem State.setUnit_swOf (u : Nat) (e : UnitEntry) {x : Nat} : (s.setUnit u e).swOf x = s.swOf x := rfl
@[simp] theorem State.setUnit_srcOf (u : Nat) (e : UnitEntry) {x : Nat} : (s.setUnit u e).srcOf x = s.srcOf x := rfl
@[simp] theorem State.setUnit_viewPosOf (u : Nat) (e : UnitEntry) {x : Nat} : (s.setUnit u e).viewPosOf x = s.viewPosOf x := rfl
@[simp] theorem State.setUnit_slotOf (u : Nat) (e : UnitEntry) {x : Nat} : (s.setUnit u e).slotOf x = s.slotOf x := rfl
@[simp] theorem State.setUnit_fifoOf (u : Nat) (e : UnitEntry) {x : Nat} : (s.setUnit u e).fifoOf x = s.fifoOf x := rfl
@[simp] theorem State.setEnc_byte (n : Nat) (c : EncChan) {x : Nat} : (s.setEnc n c).byte x = s.byte x := rfl
@[simp] theorem State.setEnc_nvByte (n : Nat) (c : EncChan) {x : Nat} : (s.setEnc n c).nvByte x = s.nvByte x := rfl
@[simp] theorem State.setEnc_unitOf (n : Nat) (c : EncChan) {x : Nat} : (s.setEnc n c).unitOf x = s.unitOf x := rfl
@[simp] theorem State.setEnc_ssiOf (n : Nat) (c : EncChan) {x : Nat} : (s.setEnc n c).ssiOf x = s.ssiOf x := rfl
@[simp] theorem State.setEnc_swOf (n : Nat) (c : EncChan) {x : Nat} : (s.setEnc n c).swOf x = s.swOf x := rfl
@[simp] theorem State.setEnc_srcOf (n : Nat) (c : EncChan) {x : Nat} : (s.setEnc n c).srcOf x = s.srcOf x := rfl
@[simp] theorem State.setEnc_viewPosOf (n : Nat) (c : EncChan) {x : Nat} : (s.setEnc n c).viewPosOf x = s.viewPosOf x := rfl
@[simp] theorem State.setEnc_slotOf (n : Nat) (c : EncChan) {x : Nat} : (s.setEnc n c).slotOf x = s.slotOf x := rfl
@[simp] theorem State.setEnc_fifoOf (n : Nat) (c : EncChan) {x : Nat} : (s.setEnc n c).fifoOf x = s.fifoOf x := rfl
@[simp] theorem State.setSsi_byte (n : Nat) (c : SsiChan) {x : Nat} : (s.setSsi n c).byte x = s.byte x := rfl
@[simp] theorem State.setSsi_nvByte (n : Nat) (c : SsiChan) {x : Nat} : (s.setSsi n c).nvByte x = s.nvByte x := rfl
@[simp] theorem State.setSsi_unitOf (n : Nat) (c : SsiChan) {x : Nat} : (s.setSsi n c).unitOf x = s.unitOf x := rfl
@[simp] theorem State.setSsi_encOf (n : Nat) (c : SsiChan) {x : Nat} : (s.setSsi n c).encOf x = s.encOf x := rfl
@[simp] theorem State.setSsi_swOf (n : Nat) (c : SsiChan) {x : Nat} : (s.setSsi n c).swOf x = s.swOf x := rfl
@[simp] theorem State.setSsi_srcOf (n : Nat) (c : SsiChan) {x : Nat} : (s.setSsi n c).srcOf x = s.srcOf x := rfl
@[simp] theorem State.setSsi_viewPosOf (n : Nat) (c : SsiChan) {x : Nat} : (s.setSsi n c).viewPosOf x = s.viewPosOf x := rfl
@[simp] theorem State.setSsi_slotOf (n : Nat) (c : SsiChan) {x : Nat} : (s.setSsi n c).slotOf x = s.slotOf x := rfl
@[simp] theorem State.setSsi_fifoOf (n : Nat) (c : SsiChan) {x : Nat} : (s.setSsi n c).fifoOf x = s.fifoOf x := rfl
@[simp] theorem State.setSw_byte (n : Nat) (c : SwIn) {x : Nat} : (s.setSw n c).byte x = s.byte x := rfl
@[simp] theorem State.setSw_nvByte (n : Nat) (c : SwIn) {x : Nat} : (s.setSw n c).nvByte x = s.nvByte x := rfl
@[simp] theorem State.setSw_unitOf (n : Nat) (c : SwIn) {x : Nat} : (s.setSw n c).unitOf x = s.unitOf x := rfl
@[simp] theorem State.setSw_encOf (n : Nat) (c : SwIn) {x : Nat} : (s.setSw n c).encOf x = s.encOf x := rfl
@[simp] theorem State.setSw_ssiOf (n : Nat) (c : SwIn) {x : Nat} : (s.setSw n c).ssiOf x = s.ssiOf x := rfl
@[simp] theorem State.setSw_srcOf (n : Nat) (c : SwIn) {x : Nat} : (s.setSw n c).srcOf x = s.srcOf x := rfl
@[simp] theorem State.setSw_viewPosOf (n : Nat) (c : SwIn) {x : Nat} : (s.setSw n c).viewPosOf x = s.viewPosOf x := rfl
@[simp] theorem State.setSw_slotOf (n : Nat) (c : SwIn) {x : Nat} : (s.setSw n c).slotOf x = s.slotOf x := rfl
@[simp] theorem State.setSw_fifoOf (n : Nat) (c : SwIn) {x : Nat} : (s.setSw n c).fifoOf x = s.fifoOf x := rfl
@[simp] theorem State.setSrc_byte (n : Nat) (c : PosSrc) {x : Nat} : (s.setSrc n c).byte x = s.byte x := rfl
@[simp] theorem State.setSrc_nvByte (n : Nat) (c : PosSrc) {x : Nat} : (s.setSrc n c).nvByte x = s.nvByte x := rfl
@[simp] theorem State.setSrc_unitOf (n : Nat) (c : PosSrc) {x : Nat} : (s.setSrc n c).unitOf x = s.unitOf x := rfl
@[simp] theorem State.setSrc_encOf (n : Nat) (c : PosSrc) {x : Nat} : (s.setSrc n c).encOf x = s.encOf x := rfl
@[simp] theorem State.setSrc_ssiOf (n : Nat) (c : PosSrc) {x : Nat} : (s.setSrc n c).ssiOf x = s.ssiOf x := rfl
@[simp] theorem State.setSrc_swOf (n : Nat) (c : PosSrc) {x : Nat} : (s.setSrc n c).swOf x = s.swOf x := rfl
@[simp] theorem State.setSrc_fifoOf (n : Nat) (c : PosSrc) {x : Nat} : (s.setSrc n c).fifoOf x = s.fifoOf x := rfl
@[simp] theorem State.setViewPos_byte (n : Nat) (c : PosView) {x : Nat} : (s.setViewPos n c).byte x = s.byte x := rfl
@[simp] theorem State.setViewPos_nvByte (n : Nat) (c : PosView) {x : Nat} : (s.setViewPos n c).nvByte x = s.nvByte x := rfl
@[simp] theorem State.setViewPos_unitOf (n : Nat) (c : PosView) {x : Nat} : (s.setViewPos n c).unitOf x = s.unitOf x := rfl
@[simp] theorem State.setViewPos_encOf (n : Nat) (c : PosView) {x : Nat} : (s.setViewPos n c).encOf x = s.encOf x := rfl
@[simp] theorem State.setViewPos_ssiOf (n : Nat) (c : PosView) {x : Nat} : (s.setViewPos n c).ssiOf x = s.ssiOf x := rfl
@[simp] theorem State.setViewPos_swOf (n : Nat) (c : PosView) {x : Nat} : (s.setViewPos n c).swOf x = s.swOf x := rfl
@[simp] theorem State.setViewPos_fifoOf (n : Nat) (c : PosView) {x : Nat} : (s.setViewPos n c).fifoOf x = s.fifoOf x := rfl
@[simp] theorem State.setSlot_byte (n : Nat) (c : Slot) {x : Nat} : (s.setSlot n c).byte x = s.byte x := rfl
@[simp] theorem State.setSlot_nvByte (n : Nat) (c : Slot) {x : Nat} : (s.setSlot n c).nvByte x = s.nvByte x := rfl
@[simp] theorem State.setSlot_unitOf (n : Nat) (c : Slot) {x : Nat} : (s.setSlot n c).unitOf x = s.unitOf x := rfl
@[simp] theorem State.setSlot_encOf (n : Nat) (c : Slot) {x : Nat} : (s.setSlot n c).encOf x = s.encOf x := rfl
@[simp] theorem State.setSlot_ssiOf (n : Nat) (c : Slot) {x : Nat} : (s.setSlot n c).ssiOf x = s.ssiOf x := rfl
@[simp] theorem State.setSlot_swOf (n : Nat) (c : Slot) {x : Nat} : (s.setSlot n c).swOf x = s.swOf x := rfl
@[simp] theorem State.setSlot_fifoOf (n : Nat) (c : Slot) {x : Nat} : (s.setSlot n c).fifoOf x = s.fifoOf x := rfl

/-! ## A state written field by field: what is read of it is read of the state that the field came from -/

section

variable {clk free timeNs timeFrac upCount ctxFresh noCtxKey : Nat} {regs : Tbl Word} {mem mram : Tbl Byte} {units : Tbl UnitEntry} {swd : Sward} {enc : Tbl EncChan} {ssi : Tbl SsiChan} {sw : Tbl SwIn} {pe : PosEngine} {net : Station} {risen rxLast repeatsOut : Tbl Nat} {lanes : Tbl LaneSt} {pllUp pllLost : Tbl Bool} {links : Tbl Link} {eps : Tbl Endpoint} {streams : Tbl Stream} {enrolQ : List Enrol} {enrolling : Option Nat} {groups : List Member} {chains : Tbl Chain} {creel : Creel} {cond : Cond} {plait : Plait} {ctxs : Tbl Ctx} {ctxQueue : List (Nat × Nat)} {jobs : Jobs} {candFree : Tbl (List Nat)} {candOf : Tbl (Option (Nat × Nat))} {compare : Compare} {ringQ : Tbl (List WRec)} {ringLost : Tbl (Nat × Nat)} {withy : Withy} {port : Port} {dma : Tbl DmaChan} {skep : Skep} {nvm : Nvm} {therm : Therm} {boot : Boot} {ind : Option (Option Word)} {outs : List Out} {pending : List Instr}

@[simp] theorem State.mk_reg (a : Nat) :
    ((⟨clk, free, timeNs, timeFrac, s.regs, risen, mem, mram, units, swd, enc, ssi, sw, pe, net, rxLast, lanes, pllUp, pllLost, links, eps, streams, enrolQ, enrolling, upCount, groups, chains, creel, cond, plait, ctxs, ctxFresh, ctxQueue, noCtxKey, jobs, candFree, candOf, compare, ringQ, ringLost, repeatsOut, withy, port, dma, skep, nvm, therm, boot, ind, outs, pending⟩ : State).reg a) = s.reg a := rfl
@[simp] theorem State.mk_get (x : Fld) :
    ((⟨clk, free, timeNs, timeFrac, s.regs, risen, mem, mram, units, swd, enc, ssi, sw, pe, net, rxLast, lanes, pllUp, pllLost, links, eps, streams, enrolQ, enrolling, upCount, groups, chains, creel, cond, plait, ctxs, ctxFresh, ctxQueue, noCtxKey, jobs, candFree, candOf, compare, ringQ, ringLost, repeatsOut, withy, port, dma, skep, nvm, therm, boot, ind, outs, pending⟩ : State).get x) = s.get x := rfl
@[simp] theorem State.mk_on (x : Fld) :
    ((⟨clk, free, timeNs, timeFrac, s.regs, risen, mem, mram, units, swd, enc, ssi, sw, pe, net, rxLast, lanes, pllUp, pllLost, links, eps, streams, enrolQ, enrolling, upCount, groups, chains, creel, cond, plait, ctxs, ctxFresh, ctxQueue, noCtxKey, jobs, candFree, candOf, compare, ringQ, ringLost, repeatsOut, withy, port, dma, skep, nvm, therm, boot, ind, outs, pending⟩ : State).on x) = s.on x := rfl
@[simp] theorem State.mk_byte (a : Nat) :
    ((⟨clk, free, timeNs, timeFrac, regs, risen, s.mem, mram, units, swd, enc, ssi, sw, pe, net, rxLast, lanes, pllUp, pllLost, links, eps, streams, enrolQ, enrolling, upCount, groups, chains, creel, cond, plait, ctxs, ctxFresh, ctxQueue, noCtxKey, jobs, candFree, candOf, compare, ringQ, ringLost, repeatsOut, withy, port, dma, skep, nvm, therm, boot, ind, outs, pending⟩ : State).byte a) = s.byte a := rfl
@[simp] theorem State.mk_nvByte (a : Nat) :
    ((⟨clk, free, timeNs, timeFrac, regs, risen, mem, s.mram, units, swd, enc, ssi, sw, pe, net, rxLast, lanes, pllUp, pllLost, links, eps, streams, enrolQ, enrolling, upCount, groups, chains, creel, cond, plait, ctxs, ctxFresh, ctxQueue, noCtxKey, jobs, candFree, candOf, compare, ringQ, ringLost, repeatsOut, withy, port, dma, skep, nvm, therm, boot, ind, outs, pending⟩ : State).nvByte a) = s.nvByte a := rfl
@[simp] theorem State.mk_unitOf (u : Nat) :
    ((⟨clk, free, timeNs, timeFrac, regs, risen, mem, mram, s.units, swd, enc, ssi, sw, pe, net, rxLast, lanes, pllUp, pllLost, links, eps, streams, enrolQ, enrolling, upCount, groups, chains, creel, cond, plait, ctxs, ctxFresh, ctxQueue, noCtxKey, jobs, candFree, candOf, compare, ringQ, ringLost, repeatsOut, withy, port, dma, skep, nvm, therm, boot, ind, outs, pending⟩ : State).unitOf u) = s.unitOf u := rfl
@[simp] theorem State.mk_encOf (n : Nat) :
    ((⟨clk, free, timeNs, timeFrac, regs, risen, mem, mram, units, swd, s.enc, ssi, sw, pe, net, rxLast, lanes, pllUp, pllLost, links, eps, streams, enrolQ, enrolling, upCount, groups, chains, creel, cond, plait, ctxs, ctxFresh, ctxQueue, noCtxKey, jobs, candFree, candOf, compare, ringQ, ringLost, repeatsOut, withy, port, dma, skep, nvm, therm, boot, ind, outs, pending⟩ : State).encOf n) = s.encOf n := rfl
@[simp] theorem State.mk_ssiOf (n : Nat) :
    ((⟨clk, free, timeNs, timeFrac, regs, risen, mem, mram, units, swd, enc, s.ssi, sw, pe, net, rxLast, lanes, pllUp, pllLost, links, eps, streams, enrolQ, enrolling, upCount, groups, chains, creel, cond, plait, ctxs, ctxFresh, ctxQueue, noCtxKey, jobs, candFree, candOf, compare, ringQ, ringLost, repeatsOut, withy, port, dma, skep, nvm, therm, boot, ind, outs, pending⟩ : State).ssiOf n) = s.ssiOf n := rfl
@[simp] theorem State.mk_swOf (n : Nat) :
    ((⟨clk, free, timeNs, timeFrac, regs, risen, mem, mram, units, swd, enc, ssi, s.sw, pe, net, rxLast, lanes, pllUp, pllLost, links, eps, streams, enrolQ, enrolling, upCount, groups, chains, creel, cond, plait, ctxs, ctxFresh, ctxQueue, noCtxKey, jobs, candFree, candOf, compare, ringQ, ringLost, repeatsOut, withy, port, dma, skep, nvm, therm, boot, ind, outs, pending⟩ : State).swOf n) = s.swOf n := rfl
@[simp] theorem State.mk_srcOf (n : Nat) :
    ((⟨clk, free, timeNs, timeFrac, regs, risen, mem, mram, units, swd, enc, ssi, sw, s.pe, net, rxLast, lanes, pllUp, pllLost, links, eps, streams, enrolQ, enrolling, upCount, groups, chains, creel, cond, plait, ctxs, ctxFresh, ctxQueue, noCtxKey, jobs, candFree, candOf, compare, ringQ, ringLost, repeatsOut, withy, port, dma, skep, nvm, therm, boot, ind, outs, pending⟩ : State).srcOf n) = s.srcOf n := rfl
@[simp] theorem State.mk_viewPosOf (n : Nat) :
    ((⟨clk, free, timeNs, timeFrac, regs, risen, mem, mram, units, swd, enc, ssi, sw, s.pe, net, rxLast, lanes, pllUp, pllLost, links, eps, streams, enrolQ, enrolling, upCount, groups, chains, creel, cond, plait, ctxs, ctxFresh, ctxQueue, noCtxKey, jobs, candFree, candOf, compare, ringQ, ringLost, repeatsOut, withy, port, dma, skep, nvm, therm, boot, ind, outs, pending⟩ : State).viewPosOf n) = s.viewPosOf n := rfl
@[simp] theorem State.mk_slotOf (n : Nat) :
    ((⟨clk, free, timeNs, timeFrac, regs, risen, mem, mram, units, swd, enc, ssi, sw, s.pe, net, rxLast, lanes, pllUp, pllLost, links, eps, streams, enrolQ, enrolling, upCount, groups, chains, creel, cond, plait, ctxs, ctxFresh, ctxQueue, noCtxKey, jobs, candFree, candOf, compare, ringQ, ringLost, repeatsOut, withy, port, dma, skep, nvm, therm, boot, ind, outs, pending⟩ : State).slotOf n) = s.slotOf n := rfl
@[simp] theorem State.mk_fifoOf (c : Nat) :
    ((⟨clk, free, timeNs, timeFrac, regs, risen, mem, mram, units, s.swd, enc, ssi, sw, pe, net, rxLast, lanes, pllUp, pllLost, links, eps, streams, enrolQ, enrolling, upCount, groups, chains, creel, cond, plait, ctxs, ctxFresh, ctxQueue, noCtxKey, jobs, candFree, candOf, compare, ringQ, ringLost, repeatsOut, withy, port, dma, skep, nvm, therm, boot, ind, outs, pending⟩ : State).fifoOf c) = s.fifoOf c := rfl

end

end Sys2Proof.Machine
end

