-- ==== Sys2Proof/Laws/Log.lean ====
section
/-!
SUPPORT. What logging, publishing and setting an interrupt source leave as they were: the registers outside their own, and the parts of
the state that they do not name.
-/
set_option Elab.async false
namespace Sys2Proof.Machine

theorem State.on_eq (s : State) (f : Fld) : s.on f = (s.get f != 0) := rfl

/-! ## The event log -/

/-- What a record that enters the log may change: the log queue, and one of two registers with the note of its increments. -/
structure LogChange (s t : State) : Prop where
  rest : ∃ n r z, t = { s with nvm := n, regs := r, risen := z }
  reg : ∀ a, a ≠ R.LOG_PENDING_CNT → a ≠ R.LOG_LOST_CNT → t.reg a = s.reg a

theorem State.logPush_change (s : State) (r : LogRec) : LogChange s (s.logPush r) := by
  unfold State.logPush State.logLevel
  dsimp only
  split
  · exact ⟨⟨_, _, _, rfl⟩, fun a h _ => State.reg_set_of_ne _ _ h⟩
  · exact ⟨⟨_, _, _, rfl⟩, fun a _ h => State.reg_bumpSat_of_ne _ _ h⟩

theorem State.log_change (s : State) (cause : Nat) (data : List Byte) : LogChange s (s.log cause data) := by
  unfold State.log State.logAt
  extract_lets n l supp
  split
  · exact ⟨⟨_, _, _, rfl⟩, fun _ _ _ => rfl⟩
  · exact s.logPush_change _

theorem State.log_reg (s : State) {cause : Nat} {data : List Byte} {a : Nat} (h : a ≠ R.LOG_PENDING_CNT) (h2 : a ≠ R.LOG_LOST_CNT) :
    (s.log cause data).reg a = s.reg a := (s.log_change cause data).reg a h h2

theorem State.log_get (s : State) {cause : Nat} {data : List Byte} {f : Fld} (h : f.addr ≠ R.LOG_PENDING_CNT)
    (h2 : f.addr ≠ R.LOG_LOST_CNT) : (s.log cause data).get f = s.get f := by
  unfold State.get; rw [State.log_reg s h h2]

@[simp] theorem State.log_swd (s : State) (cause : Nat) (data : List Byte) : (s.log cause data).swd = s.swd := by
  obtain ⟨_, _, _, e⟩ := (s.log_change cause data).rest
  rw [e]

@[simp] theorem State.log_fifoOf (s : State) (cause : Nat) (data : List Byte) (c : Nat) : (s.log cause data).fifoOf c = s.fifoOf c := by
  unfold State.fifoOf; rw [State.log_swd]

/-! ## Publishing -/

/-- What a publication may change: the fabric, the log queue and the count of free values; and registers of the fabric and the log. -/
structure PubChange (s t : State) : Prop where
  rest : ∃ n r z w k, t = { s with nvm := n, regs := r, risen := z, swd := w, free := k }
  reg : ∀ a, a / 0x100000 ≠ 10 → a ≠ R.LOG_PENDING_CNT → a ≠ R.LOG_LOST_CNT → t.reg a = s.reg a

theorem PubChange.refl (s : State) : PubChange s s := ⟨⟨_, _, _, _, _, rfl⟩, fun _ _ _ _ => rfl⟩

theorem PubChange.trans {s t u : State} (h : PubChange s t) (k : PubChange t u) : PubChange s u := by
  obtain ⟨⟨_, _, _, _, _, e⟩, f⟩ := h
  obtain ⟨⟨_, _, _, _, _, e'⟩, f'⟩ := k
  exact ⟨⟨_, _, _, _, _, by rw [e', e]⟩, fun a h1 h2 h3 => (f' a h1 h2 h3).trans (f a h1 h2 h3)⟩

theorem PubChange.set {s t : State} (h : PubChange s t) {f : Fld} (v : Nat) (hf : f.addr / 0x100000 = 10) : PubChange s (t.set f v) :=
  h.trans ⟨⟨_, _, _, _, _, rfl⟩, fun _ h1 _ _ => State.reg_set_of_ne _ _ fun e => h1 (e ▸ hf)⟩

theorem PubChange.note {s t : State} (h : PubChange s t) (a m : Nat) : PubChange s (t.note a m) :=
  h.trans ⟨⟨_, _, _, _, _, rfl⟩, fun _ _ _ _ => rfl⟩

theorem PubChange.bumpSat {s t : State} (h : PubChange s t) {f : Fld} (n : Nat) (hf : f.addr / 0x100000 = 10) : PubChange s (t.bumpSat f n) :=
  (h.set _ hf).trans ⟨⟨_, _, _, _, _, rfl⟩, fun _ _ _ _ => rfl⟩

theorem PubChange.raise {s t : State} (h : PubChange s t) {f : Fld} (hf : f.addr / 0x100000 = 10) : PubChange s (t.raise f) :=
  (h.set 1 hf).note _ _

theorem PubChange.log {s t : State} (h : PubChange s t) (c : Nat) (d : List Byte) : PubChange s (t.log c d) := by
  obtain ⟨⟨_, _, _, e⟩, f⟩ := t.log_change c d
  exact h.trans ⟨⟨_, _, _, _, _, e⟩, fun a _ h2 h3 => f a h2 h3⟩

theorem State.guardViol_pub (s : State) (c who : Nat) : PubChange s (s.guardViol c who) :=
  ((((PubChange.refl s).set _ (by decide)).set _ (by decide)).raise (by decide)).log _ _

theorem State.dropReqs_pub (s : State) (c n : Nat) (h : c < 256) : PubChange s (s.dropReqs c n) := by
  unfold State.dropReqs
  split
  · exact .refl s
  · exact (((PubChange.refl s).raise (by show (0xA0100C + c * 0x20) / _ = 10; omega)).raise (by decide)).bumpSat _
      (by show (R.CH_DROP_CNT c) / _ = 10; unfold R.CH_DROP_CNT; omega)

theorem State.request_pub (s : State) (r : Req) (h : r.channel < 256) : PubChange s (s.request r) := by
  unfold State.request
  dsimp only
  split
  · refine PubChange.trans ?_ (State.dropReqs_pub _ _ _ h)
    unfold State.setFifo
    refine PubChange.set ⟨⟨_, _, _, _, _, rfl⟩, fun _ _ _ _ => rfl⟩ _ ?_
    show (0xA0100C + r.channel * 0x20) / _ = 10
    omega
  · exact s.dropReqs_pub _ _ h

theorem State.requestPlain_pub (s : State) (c p x : Nat) (h : c < 256) : PubChange s (s.requestPlain c p x) := by
  unfold State.requestPlain
  split
  · exact s.request_pub _ h
  · exact ⟨⟨_, _, _, _, _, rfl⟩, fun _ _ _ _ => rfl⟩

theorem State.publish_pub (s : State) (f : Sel) (p x : Nat) : PubChange s (s.publish f p x) := by
  unfold State.publish State.publishOn
  split
  · exact .refl s
  · next c e =>
    have hc : c < 256 := by
      unfold State.selCh? at e
      dsimp only at e
      split at e
      · rw [← Option.some.inj e]; exact Nat.mod_lt _ (by decide)
      · cases e
    split
    · exact s.guardViol_pub _ _
    · exact s.requestPlain_pub _ _ _ hc

theorem State.publish_reg (s : State) {f : Sel} {p x a : Nat} (h : a / 0x100000 ≠ 10) (h1 : a ≠ R.LOG_PENDING_CNT)
    (h2 : a ≠ R.LOG_LOST_CNT) : (s.publish f p x).reg a = s.reg a := (s.publish_pub f p x).reg a h h1 h2

theorem State.publish_get (s : State) {f : Sel} {p x : Nat} {g : Fld} (h : g.addr / 0x100000 ≠ 10) (h1 : g.addr ≠ R.LOG_PENDING_CNT)
    (h2 : g.addr ≠ R.LOG_LOST_CNT) : (s.publish f p x).get g = s.get g := by
  unfold State.get; rw [State.publish_reg s h h1 h2]

/-! ## Interrupts of the port -/

/-- A register that no interrupt of the port touches: not the status and vector of an aggregated interrupt, the link state and the tags, nor
the model's configuration spaces. -/
abbrev quietReg (a : Nat) : Prop := a < 0x5000000 ∧ a % 0x4000000 ≠ 0x200 ∧ a % 0x4000000 ≠ 0x208 ∧ a ≠ R.PCIE_LINK ∧ a ≠ R.TAG_STATUS

/-- What an interrupt may change: the port, what is driven outward, and registers of the interrupt. -/
structure IrqChange (s t : State) : Prop where
  rest : ∃ p r z o, t = { s with port := p, regs := r, risen := z, outs := o }
  reg : ∀ a, quietReg a → t.reg a = s.reg a

theorem IrqChange.refl (s : State) : IrqChange s s := ⟨⟨_, _, _, _, rfl⟩, fun _ _ => rfl⟩

theorem IrqChange.trans {s t u : State} (h : IrqChange s t) (k : IrqChange t u) : IrqChange s u := by
  obtain ⟨⟨_, _, _, _, e⟩, f⟩ := h
  obtain ⟨⟨_, _, _, _, e'⟩, f'⟩ := k
  exact ⟨⟨_, _, _, _, by rw [e', e]⟩, fun a h1 => (f' a h1).trans (f a h1)⟩

theorem IrqChange.set {s t : State} (h : IrqChange s t) {f : Fld} (v : Nat) (hf : ¬ quietReg f.addr) : IrqChange s (t.set f v) :=
  h.trans ⟨⟨_, _, _, _, rfl⟩, fun _ h1 => State.reg_set_of_ne _ _ fun e => hf (e ▸ h1)⟩

theorem IrqChange.raise {s t : State} (h : IrqChange s t) {f : Fld} (hf : ¬ quietReg f.addr) : IrqChange s (t.raise f) :=
  (h.set 1 hf).trans ⟨⟨_, _, _, _, rfl⟩, fun _ _ => rfl⟩

theorem State.l1Exit_irq (s : State) : IrqChange s s.l1Exit := by
  unfold State.l1Exit
  split
  · exact (IrqChange.refl s).set _ (by decide)
  · exact .refl s

theorem State.portMsg_irq (s : State) (f : Nat) (o : Out) : IrqChange s (s.portMsg f o) := by
  have h := s.l1Exit_irq
  unfold State.portMsg
  dsimp only
  split
  · refine h.trans ?_
    unfold State.setPort
    exact IrqChange.set (IrqChange.set ⟨⟨_, _, _, _, rfl⟩, fun _ _ => rfl⟩ _ (by decide)) _ (by decide)
  · exact h.trans ⟨⟨_, _, _, _, rfl⟩, fun _ _ => rfl⟩

theorem State.msix_irq (s : State) (f v : Nat) : IrqChange s (s.msix f v) := by
  unfold State.msix
  split
  · split
    · refine (IrqChange.refl s).raise fun h => ?_
      have : 0x5200000 + f * 0x1000 + v / 32 * 4 < 0x5000000 := h.1
      omega
    · exact s.portMsg_irq _ _
  · exact .refl s

theorem cfg_loud (f o : Nat) : ¬ quietReg (Cfg.base f + o) := fun h => by
  have := h.1
  unfold Cfg.base at this
  omega

theorem State.inta_irq (s : State) (f : Nat) (b : Bool) : IrqChange s (s.inta f b) := by
  have h : IrqChange s (s.setFlag (Cfg.INT_STATUS f) (s.aggPending f)) := (IrqChange.refl s).set _ (cfg_loud f _)
  unfold State.inta
  dsimp only
  split
  · exact h.trans (State.portMsg_irq _ _ _)
  · split
    · exact h.trans (State.portMsg_irq _ _ _)
    · exact h

theorem State.aggSend_irq (s : State) (f : Nat) : IrqChange s (s.aggSend f) := by
  have h : IrqChange s (if s.on (Cfg.MSIX_EN f) then
      if s.get (R.GIRQ_VECTOR_AGG_VECTOR f) < msixSize f then s.msix f (s.get (R.GIRQ_VECTOR_AGG_VECTOR f))
      else s.raise (R.GIRQ_VECTOR_VEC_REJ f)
    else s) := by
    split
    · split
      · exact s.msix_irq _ _
      · refine (IrqChange.refl s).raise fun h => ?_
        have := h.2.2.1
        simp only [R.GIRQ_VECTOR] at this
        omega
    · exact .refl s
  unfold State.aggSend
  extract_lets s1
  have h1 : IrqChange s s1 := h
  by_cases hc : (s1.get (Cfg.PM_STATE f) = 3 && s1.on (Cfg.PME_EN f) && !s1.on (Cfg.PME_STATUS f)) = true
  · rw [if_pos hc]
    exact (h1.raise (cfg_loud f _)).trans (State.portMsg_irq _ _ _)
  · rw [if_neg hc]
    exact h1

theorem State.aggUpdate_irq {s t : State} (u : State) (f : Nat) (h : IrqChange s t) : IrqChange s (t.aggUpdate f u) := by
  unfold State.aggUpdate
  dsimp only
  split
  · exact (h.trans (State.aggSend_irq _ _)).trans (State.inta_irq _ _ _)
  · exact h.trans (State.inta_irq _ _ _)

theorem State.girq_irq (s : State) (f : Nat) {b : Fld} (hb : ¬ quietReg b.addr) : IrqChange s (s.girq f b) :=
  State.aggUpdate_irq _ _ ((IrqChange.refl s).raise hb)

theorem girq_loud (f : Nat) : ¬ quietReg (R.GIRQ_STATUS f) := fun h => by
  have := h.2.1
  unfold R.GIRQ_STATUS at this
  omega

theorem State.girqBoth_irq (s : State) {b : Nat → Fld} (hb : ∀ f, (b f).addr = R.GIRQ_STATUS f) : IrqChange s (s.girqBoth b) :=
  (s.girq_irq 0 (hb 0 ▸ girq_loud 0)).trans (State.girq_irq _ 1 (hb 1 ▸ girq_loud 1))

theorem State.girqSward_irq (s : State) : IrqChange s s.girqSward := by
  unfold State.girqSward
  extract_lets lvl s1 s2 s3
  have h1 : IrqChange s s1 := (IrqChange.refl s).set _ (girq_loud 0)
  have h2 : IrqChange s s2 := State.aggUpdate_irq _ _ h1
  exact State.aggUpdate_irq _ _ (h2.set _ (girq_loud 1))

/-! ## Skep's publications -/

/-- What a publication of Skep may change: what a publication of the fabric and an interrupt may, or, while Skep does not run, the work that
waits for it. -/
structure SkepPubChange (s t : State) : Prop where
  rest : ∃ n r z w k p o q, t = { s with nvm := n, regs := r, risen := z, swd := w, free := k, port := p, outs := o, skep := q }
  reg : ∀ a, quietReg a → a / 0x100000 ≠ 10 → a ≠ R.LOG_PENDING_CNT → a ≠ R.LOG_LOST_CNT → t.reg a = s.reg a

theorem State.skepSays_change (s : State) (sel x : Nat) : SkepPubChange s (s.skepSays sel x) := by
  obtain ⟨⟨_, _, _, _, _, e⟩, f⟩ := s.publish_pub ⟨sel, 0, 9⟩ 0x82 x
  obtain ⟨⟨_, _, _, _, e'⟩, f'⟩ := State.girqBoth_irq (s.publish ⟨sel, 0, 9⟩ 0x82 x) (b := R.GIRQ_STATUS_SKEP) fun _ => rfl
  unfold State.skepSays
  dsimp only
  split
  · exact ⟨⟨_, _, _, _, _, _, _, _, by rw [e', e]⟩, fun a h h1 h2 h3 => (f' a h).trans (f a h1 h2 h3)⟩
  · exact ⟨⟨_, _, _, _, _, _, _, _, by rw [e]⟩, fun a _ h1 h2 h3 => f a h1 h2 h3⟩

theorem State.skepPublish_change (s : State) (sel x : Nat) : SkepPubChange s (s.skepPublish sel x) := by
  unfold State.skepPublish State.skepDo
  split
  · exact s.skepSays_change sel x
  · exact ⟨⟨_, _, _, _, _, _, _, _, rfl⟩, fun _ _ _ _ _ => rfl⟩

end Sys2Proof.Machine
end

