-- ==== Sys2Proof/Laws/PerInstr.lean ====
section
/-!
SUPPORT. What holds of every command as syntax, one lemma per constructor.
-/
set_option Elab.async false
namespace Sys2Proof.Laws.Family

open Sys2Proof.Machine

/-- A list of numbers rises. -/
def rises : Nat → List Nat → Bool
  | _, [] => true
  | a, b :: t => decide (a < b) && rises b t

/-- No word spells the command, since the table gives no row bits; and its footprint names its parts in their order, each once. -/
def Statement (i : Instr) : Prop :=
  (∀ nbits w, decodeTableWord nbits w ≠ some i) ∧ rises 0 ((footprint i).map fun p => p.no + 1) = true

theorem of_footprint {i : Instr} (h : rises 0 ((footprint i).map fun p => p.no + 1) = true) : Statement i := ⟨fun _ _ => by simp [decodeTableWord], h⟩

theorem registerWrite (who : Who) (addr : Nat) (v : Word) (more : List Word) : Statement (.registerWrite who addr v more) := of_footprint rfl
theorem rcCounterRead (who : Who) (addr : Nat) (coincident : Bool) : Statement (.rcCounterRead who addr coincident) := of_footprint rfl
theorem loCaptureRead (who : Who) (addr : Nat) (words : Nat) : Statement (.loCaptureRead who addr words) := of_footprint rfl
theorem encCtrlWrite (who : Who) (n : Fin 8) (v : Word) : Statement (.encCtrlWrite who n v) := of_footprint rfl
theorem indexArm (who : Who) (n : Fin 8) : Statement (.indexArm who n) := of_footprint rfl
theorem speedWindowWrite (who : Who) (n : Fin 8) (v : Word) : Statement (.speedWindowWrite who n v) := of_footprint rfl
theorem encInputChange (n : Fin 8) (pin : EncPin) (level : Bool) : Statement (.encInputChange n pin level) := of_footprint rfl
theorem filterAccept (n : Fin 8) (a : Bool) (b : Bool) (z : Bool) : Statement (.filterAccept n a b z) := of_footprint rfl
theorem speedWindowEnd (n : Fin 8) : Statement (.speedWindowEnd n) := of_footprint rfl
theorem lastIntervalSaturate (n : Fin 8) : Statement (.lastIntervalSaturate n) := of_footprint rfl
theorem ssiCtrlWrite (who : Who) (m : Fin 4) (v : Word) : Statement (.ssiCtrlWrite who m v) := of_footprint rfl
theorem ssiReadDue (m : Fin 4) : Statement (.ssiReadDue m) := of_footprint rfl
theorem ssiReadStart (m : Fin 4) (dataHigh : Bool) : Statement (.ssiReadStart m dataHigh) := of_footprint rfl
theorem ssiReadDone (m : Fin 4) (bits : Nat) : Statement (.ssiReadDone m bits) := of_footprint rfl
theorem swInputChange (k : Fin 32) (level : Bool) : Statement (.swInputChange k level) := of_footprint rfl
theorem debounceExpire (k : Fin 32) : Statement (.debounceExpire k) := of_footprint rfl
theorem swCtrlWrite (who : Who) (k : Fin 32) (v : Word) : Statement (.swCtrlWrite who k v) := of_footprint rfl
theorem srcCtrlWrite (who : Who) (n : Fin 8) (v : Word) : Statement (.srcCtrlWrite who n v) := of_footprint rfl
theorem sourceEnable (n : Fin 8) : Statement (.sourceEnable n) := of_footprint rfl
theorem sourceStale (n : Fin 8) : Statement (.sourceStale n) := of_footprint rfl
theorem viewCfgWrite (who : Who) (n : Fin 8) (r : ViewReg) (v : Word) : Statement (.viewCfgWrite who n r v) := of_footprint rfl
theorem portInsert (who : Who) (p : Fin 8) : Statement (.portInsert who p) := of_footprint rfl
theorem portRemove (who : Who) (p : Fin 8) : Statement (.portRemove who p) := of_footprint rfl
theorem entryInsertActive (c : Client) (slot : Nat) : Statement (.entryInsertActive c slot) := of_footprint rfl
theorem entryRemoveActive (c : Client) : Statement (.entryRemoveActive c) := of_footprint rfl
theorem entryCrossed : Statement (.entryCrossed) := of_footprint rfl
theorem entryDeferredFire : Statement (.entryDeferredFire) := of_footprint rfl
theorem eventGrant : Statement (.eventGrant) := of_footprint rfl
theorem guardWindowEnd (c : Fin 256) : Statement (.guardWindowEnd c) := of_footprint rfl
theorem chCfgWrite (who : Who) (c : Fin 256) (r : ChReg) (v : Word) : Statement (.chCfgWrite who c r v) := of_footprint rfl
theorem swdPub (who : Who) (v : Word) : Statement (.swdPub who v) := of_footprint rfl
theorem selectorWrite (who : Who) (addr : Nat) (v : Word) : Statement (.selectorWrite who addr v) := of_footprint rfl
theorem outPulseEnd (k : Fin 64) : Statement (.outPulseEnd k) := of_footprint rfl
theorem outCtrlWrite (who : Who) (k : Fin 64) (v : Word) : Statement (.outCtrlWrite who k v) := of_footprint rfl
theorem ethCtrlWrite (who : Who) (p : Fin 4) (v : Word) : Statement (.ethCtrlWrite who p v) := of_footprint rfl
theorem ethLinkChange (p : Fin 4) (up : Bool) : Statement (.ethLinkChange p up) := of_footprint rfl
theorem ethFrameRx (p : Fin 4) (f : EthFrame) : Statement (.ethFrameRx p f) := of_footprint rfl
theorem rateAdjWrite (who : Who) (v : Word) : Statement (.rateAdjWrite who v) := of_footprint rfl
theorem timeStepWrite (who : Who) (v : Word) : Statement (.timeStepWrite who v) := of_footprint rfl
theorem restep (who : Who) : Statement (.restep who) := of_footprint rfl
theorem timeModeWrite (who : Who) (v : Word) : Statement (.timeModeWrite who v) := of_footprint rfl
theorem ptpAnnounceRx (p : Fin 4) (a : Announce) : Statement (.ptpAnnounceRx p a) := of_footprint rfl
theorem ptpSyncRx (p : Fin 4) (parent : Nat) (t1 : Int) (t2 : Int) : Statement (.ptpSyncRx p parent t1 t2) := of_footprint rfl
theorem ptpDelayRespRx (p : Fin 4) (parent : Nat) (t4 : Int) : Statement (.ptpDelayRespRx p parent t4) := of_footprint rfl
theorem ptpDelayReqTx : Statement (.ptpDelayReqTx) := of_footprint rfl
theorem ptpSyncTx : Statement (.ptpSyncTx) := of_footprint rfl
theorem masterLost : Statement (.masterLost) := of_footprint rfl
theorem txposSample (sources : BitVec 8) : Statement (.txposSample sources) := of_footprint rfl
theorem staPosRx : Statement (.staPosRx) := of_footprint rfl
theorem rxStreamPeriod (n : Fin 8) : Statement (.rxStreamPeriod n) := of_footprint rfl
theorem staEventFrameSend : Statement (.staEventFrameSend) := of_footprint rfl
theorem staEventRx : Statement (.staEventRx) := of_footprint rfl
theorem deferredEventDue : Statement (.deferredEventDue) := of_footprint rfl
theorem staCmdRx : Statement (.staCmdRx) := of_footprint rfl
theorem beaconSend : Statement (.beaconSend) := of_footprint rfl
theorem staBeaconRx : Statement (.staBeaconRx) := of_footprint rfl
theorem peerTimeout (j : Fin 32) : Statement (.peerTimeout j) := of_footprint rfl
theorem grpCfgWrite (who : Who) (g : Fin 8) (v : Word) : Statement (.grpCfgWrite who g v) := of_footprint rfl
theorem refMeasure (g : Fin 8) (ppm : Option (BitVec 16)) : Statement (.refMeasure g ppm) := of_footprint rfl
theorem pllUnlock (g : Fin 8) : Statement (.pllUnlock g) := of_footprint rfl
theorem pllRelock (g : Fin 8) : Statement (.pllRelock g) := of_footprint rfl
theorem restart (who : Who) (l : Fin 32) (v : Word) : Statement (.restart who l v) := of_footprint rfl
theorem restartIdleEnd (l : Fin 32) : Statement (.restartIdleEnd l) := of_footprint rfl
theorem loopWrite (who : Who) (l : Fin 32) (v : Word) : Statement (.loopWrite who l v) := of_footprint rfl
theorem pwrStateWrite (l : Fin 32) (a : PwrAsk) : Statement (.pwrStateWrite l a) := of_footprint rfl
theorem pwrTransitionDone (l : Fin 32) (tx : Bool) : Statement (.pwrTransitionDone l tx) := of_footprint rfl
theorem txCoefWrite (who : Who) (l : Fin 32) (v : Word) : Statement (.txCoefWrite who l v) := of_footprint rfl
theorem sigDetRise (l : Fin 32) : Statement (.sigDetRise l) := of_footprint rfl
theorem sigDetHold (l : Fin 32) : Statement (.sigDetHold l) := of_footprint rfl
theorem sigDetFall (l : Fin 32) : Statement (.sigDetFall l) := of_footprint rfl
theorem cdrLock (l : Fin 32) : Statement (.cdrLock l) := of_footprint rfl
theorem adaptSettled (l : Fin 32) (ctle : BitVec 4) (taps : List (BitVec 8)) : Statement (.adaptSettled l ctle taps) := of_footprint rfl
theorem eyeCheckDone (l : Fin 32) (height : BitVec 8) : Statement (.eyeCheckDone l height) := of_footprint rfl
theorem cdrLockLost (l : Fin 32) : Statement (.cdrLockLost l) := of_footprint rfl
theorem acqTimeout (l : Fin 32) : Statement (.acqTimeout l) := of_footprint rfl
theorem warmAcqTimeout (l : Fin 32) : Statement (.warmAcqTimeout l) := of_footprint rfl
theorem freqOffsetUpdate (l : Fin 32) (ppm : BitVec 16) : Statement (.freqOffsetUpdate l ppm) := of_footprint rfl
theorem eyeSummaryRefresh (l : Fin 32) (heights : BitVec 24) (widths : BitVec 24) : Statement (.eyeSummaryRefresh l heights widths) := of_footprint rfl
theorem marginStart (who : Who) (l : Fin 32) (v : Word) : Statement (.marginStart who l v) := of_footprint rfl
theorem marginDone (l : Fin 32) (count : Nat) : Statement (.marginDone l count) := of_footprint rfl
theorem inject (who : Who) (l : Fin 32) (v : Word) : Statement (.inject who l v) := of_footprint rfl
theorem prbsErrRead (who : Who) (l : Fin 32) (errs : Nat) (bits : Nat) : Statement (.prbsErrRead who l errs bits) := of_footprint rfl
theorem prbsLock (l : Fin 32) : Statement (.prbsLock l) := of_footprint rfl
theorem prbsLockLost (l : Fin 32) : Statement (.prbsLockLost l) := of_footprint rfl
theorem amReceived (l : Fin 32) (sym : BitVec 130) (t : Nat) (bip : BitVec 8) : Statement (.amReceived l sym t bip) := of_footprint rfl
theorem amLost (l : Fin 32) : Statement (.amLost l) := of_footprint rfl
theorem codewordDecode (f : Fin 32) (prev : BitVec 16) (rx : BitVec 5440) (ins : Nat) (del : Nat) (slip : Bool) : Statement (.codewordDecode f prev rx ins del slip) := of_footprint rfl
theorem streamRx (f : Fin 32) : Statement (.streamRx f) := of_footprint rfl
theorem rdata (f : Fin 32) : Statement (.rdata f) := of_footprint rfl
theorem wack (f : Fin 32) : Statement (.wack f) := of_footprint rfl
theorem msg (f : Fin 32) : Statement (.msg f) := of_footprint rfl
theorem headEvent (f : Fin 32) : Statement (.headEvent f) := of_footprint rfl
theorem credit (f : Fin 32) : Statement (.credit f) := of_footprint rfl
theorem ctrlTimeout (e : Fin 2048) (tag : BitVec 8) : Statement (.ctrlTimeout e tag) := of_footprint rfl
theorem creditReset (who : Who) (f : Fin 32) (v : Word) : Statement (.creditReset who f v) := of_footprint rfl
theorem echoRsp (f : Fin 32) (t4 : Nat) : Statement (.echoRsp f t4) := of_footprint rfl
theorem echoReqTimer (f : Fin 32) (t1 : Nat) : Statement (.echoReqTimer f t1) := of_footprint rfl
theorem timePosTimer (f : Fin 32) : Statement (.timePosTimer f) := of_footprint rfl
theorem hello (f : Fin 32) (vendor : BitVec 32) (serial : BitVec 64) : Statement (.hello f vendor serial) := of_footprint rfl
theorem helloTimer (f : Fin 32) : Statement (.helloTimer f) := of_footprint rfl
theorem propose (who : Who) (f : Fin 32) (v : Word) : Statement (.propose who f v) := of_footprint rfl
theorem portStatus (f : Fin 32) (vendor : BitVec 32) (serial : BitVec 64) : Statement (.portStatus f vendor serial) := of_footprint rfl
theorem drop (f : Fin 32) : Statement (.drop f) := of_footprint rfl
theorem trigCtrlWrite (who : Who) (f : Fin 32) (j : Fin 8) (v : Word) : Statement (.trigCtrlWrite who f j v) := of_footprint rfl
theorem trigLaunch (f : Fin 32) (j : Fin 8) (tx : Nat) (bnd : Nat) : Statement (.trigLaunch f j tx bnd) := of_footprint rfl
theorem forget (who : Who) (e : Fin 2048) (v : Word) : Statement (.forget who e v) := of_footprint rfl
theorem healthPoll : Statement (.healthPoll) := of_footprint rfl
theorem psetWrite (who : Who) (e : Fin 2048) (k : Fin 16) (cfg : Bool) (v : Word) : Statement (.psetWrite who e k cfg v) := of_footprint rfl
theorem cpGo (who : Who) (p : Fin 16) (v : Word) : Statement (.cpGo who p v) := of_footprint rfl
theorem descEnable (who : Who) (d : Fin 4096) (v : Word) : Statement (.descEnable who d v) := of_footprint rfl
theorem descDisable (who : Who) (d : Fin 4096) (v : Word) : Statement (.descDisable who d v) := of_footprint rfl
theorem mfCfgWrite (who : Who) (e : Fin 2048) (v : Word) : Statement (.mfCfgWrite who e v) := of_footprint rfl
theorem flush (who : Who) (e : Fin 2048) (cut : Bool) (v : Word) : Statement (.flush who e cut v) := of_footprint rfl
theorem msgRecordTake (e : Fin 2048) (parity : BitVec 64) : Statement (.msgRecordTake e parity) := of_footprint rfl
theorem chainFrameDone (n : Fin 8) (resps : List (BitVec 32)) (marker : Option (Fin 33 × Bool)) : Statement (.chainFrameDone n resps marker) := of_footprint rfl
theorem commitCtrlGo (who : Who) (n : Fin 8) (v : Word) : Statement (.commitCtrlGo who n v) := of_footprint rfl
theorem burstRowEdge (n : Fin 8) : Statement (.burstRowEdge n) := of_footprint rfl
theorem genRetry (n : Fin 8) : Statement (.genRetry n) := of_footprint rfl
theorem dutyWindowEnd (n : Fin 8) : Statement (.dutyWindowEnd n) := of_footprint rfl
theorem diagStatusPoll (n : Fin 8) : Statement (.diagStatusPoll n) := of_footprint rfl
theorem unverified (n : Fin 8) (d : Fin 32) (c : Fin 16) : Statement (.unverified n d c) := of_footprint rfl
theorem cutClr (who : Who) (n : Fin 8) (v : Word) : Statement (.cutClr who n v) := of_footprint rfl
theorem doseWriteback (n : Fin 8) : Statement (.doseWriteback n) := of_footprint rfl
theorem doseRetry (n : Fin 8) : Statement (.doseRetry n) := of_footprint rfl
theorem chainCfgWrite (who : Who) (n : Fin 8) (v : Word) : Statement (.chainCfgWrite who n v) := of_footprint rfl
theorem layoutWrite (who : Who) (k : Fin 3) (v : Word) : Statement (.layoutWrite who k v) := of_footprint rfl
theorem segQuery (who : Who) (v : Word) : Statement (.segQuery who v) := of_footprint rfl
theorem histCfgWrite (who : Who) (v : Fin 8) (stage : Bool) (x : Word) : Statement (.histCfgWrite who v stage x) := of_footprint rfl
theorem release (who : Who) (v : Fin 8) (x : Word) : Statement (.release who v x) := of_footprint rfl
theorem rawSegsWrite (who : Who) (d : Fin 4096) (v : Word) : Statement (.rawSegsWrite who d v) := of_footprint rfl
theorem markCfgWrite (who : Who) (m : Fin 64) (v : Word) : Statement (.markCfgWrite who m v) := of_footprint rfl
theorem markClear (who : Who) (m : Fin 64) : Statement (.markClear who m) := of_footprint rfl
theorem setAt (who : Who) (m : Fin 64) : Statement (.setAt who m) := of_footprint rfl
theorem setAtDone (m : Fin 64) : Statement (.setAtDone m) := of_footprint rfl
theorem setAhead (who : Who) (m : Fin 64) : Statement (.setAhead who m) := of_footprint rfl
theorem scrubStep (err : Option MemErr) : Statement (.scrubStep err) := of_footprint rfl
theorem ctxPeek (who : Who) (v : Word) : Statement (.ctxPeek who v) := of_footprint rfl
theorem hbmTrainDone (ok : BitVec 2) : Statement (.hbmTrainDone ok) := of_footprint rfl
theorem memReady : Statement (.memReady) := of_footprint rfl
theorem lineCondition (f : Fin 32) (perr : Nat) : Statement (.lineCondition f perr) := of_footprint rfl
theorem condCfgWrite (who : Who) (d : Fin 4096) (off : Fin 16) (v : Word) : Statement (.condCfgWrite who d off v) := of_footprint rfl
theorem load (who : Who) (v : Word) : Statement (.load who v) := of_footprint rfl
theorem save (who : Who) : Statement (.save who) := of_footprint rfl
theorem liveReset (who : Who) : Statement (.liveReset who) := of_footprint rfl
theorem lutLoad (who : Who) : Statement (.lutLoad who) := of_footprint rfl
theorem lutSave (who : Who) : Statement (.lutSave who) := of_footprint rfl
theorem accum (who : Who) : Statement (.accum who) := of_footprint rfl
theorem calAbort (who : Who) : Statement (.calAbort who) := of_footprint rfl
theorem calCmdDone : Statement (.calCmdDone) := of_footprint rfl
theorem zoneClose (v : Fin 8) : Statement (.zoneClose v) := of_footprint rfl
theorem lcCfgWrite (who : Who) (v : Fin 8) (x : Word) : Statement (.lcCfgWrite who v x) := of_footprint rfl
theorem vwCtrlWrite (who : Who) (v : Fin 8) (off : Fin 2048) (x : Word) : Statement (.vwCtrlWrite who v off x) := of_footprint rfl
theorem plaitRowEmit (v : Fin 8) (perr : Nat) (stall : Bool) : Statement (.plaitRowEmit v perr stall) := of_footprint rfl
theorem headTimeout (v : Fin 8) (h : Fin 256) : Statement (.headTimeout v h) := of_footprint rfl
theorem lateMarginPass (v : Fin 8) (h : Fin 256) : Statement (.lateMarginPass v h) := of_footprint rfl
theorem trkWindowEnd (v : Fin 8) : Statement (.trkWindowEnd v) := of_footprint rfl
theorem loadMap (who : Who) : Statement (.loadMap who) := of_footprint rfl
theorem saveMap (who : Who) : Statement (.saveMap who) := of_footprint rfl
theorem saveGeom (who : Who) : Statement (.saveGeom who) := of_footprint rfl
theorem loadGeom (who : Who) : Statement (.loadGeom who) := of_footprint rfl
theorem trkReset (who : Who) : Statement (.trkReset who) := of_footprint rfl
theorem geomAbort (who : Who) : Statement (.geomAbort who) := of_footprint rfl
theorem geomCmdDone (bad : Option Nat) : Statement (.geomCmdDone bad) := of_footprint rfl
theorem jobLoad (m : Fin 1024) : Statement (.jobLoad m) := of_footprint rfl
theorem jobLoadDone (j : Fin 64) : Statement (.jobLoadDone j) := of_footprint rfl
theorem jobArm (m : Fin 1024) : Statement (.jobArm m) := of_footprint rfl
theorem jobArmCancel (m : Fin 1024) : Statement (.jobArmCancel m) := of_footprint rfl
theorem jobSwitch (m : Fin 1024) : Statement (.jobSwitch m) := of_footprint rfl
theorem rollCmd (who : Who) (v : Fin 8) (x : Word) : Statement (.rollCmd who v x) := of_footprint rfl
theorem bandCompare (j : Fin 8) (errs : List MemErr) : Statement (.bandCompare j errs) := of_footprint rfl
theorem verdictReady (k : Nat) : Statement (.verdictReady k) := of_footprint rfl
theorem gateInsertResult : Statement (.gateInsertResult) := of_footprint rfl
theorem refLearn (m : Fin 1024) : Statement (.refLearn m) := of_footprint rfl
theorem refLearnAbort (m : Fin 1024) : Statement (.refLearnAbort m) := of_footprint rfl
theorem learnComputeDone (v : Fin 8) : Statement (.learnComputeDone v) := of_footprint rfl
theorem ringEnable (who : Who) (r : Fin 256) (v : Word) : Statement (.ringEnable who r v) := of_footprint rfl
theorem recordIssue (r : Fin 256) : Statement (.recordIssue r) := of_footprint rfl
theorem ringHeadDb (who : Who) (r : Fin 256) (v : Word) : Statement (.ringHeadDb who r v) := of_footprint rfl
theorem ringIrqTimer (r : Fin 256) : Statement (.ringIrqTimer r) := of_footprint rfl
theorem poolEnable (who : Who) (p : Fin 64) (v : Word) : Statement (.poolEnable who p v) := of_footprint rfl
theorem poolFreeDb (who : Who) (p : Fin 64) (v : Word) : Statement (.poolFreeDb who p v) := of_footprint rfl
theorem poolWaitExpire (r : Fin 256) : Statement (.poolWaitExpire r) := of_footprint rfl
theorem disable (who : Who) (p : Fin 64) : Statement (.disable who p) := of_footprint rfl
theorem reclaim (who : Who) (p : Fin 64) (named : List Nat) : Statement (.reclaim who p named) := of_footprint rfl
theorem fbGo (who : Who) (f : Fin 8) : Statement (.fbGo who f) := of_footprint rfl
theorem fbAbort (who : Who) (f : Fin 8) : Statement (.fbAbort who f) := of_footprint rfl
theorem peerReadBack (r : Fin 256) : Statement (.peerReadBack r) := of_footprint rfl
theorem peerWindowWrite (off : Nat) (bytes : List Byte) (poison : Bool) : Statement (.peerWindowWrite off bytes poison) := of_footprint rfl
theorem peerWindowRead (off len : Nat) (errs : List MemErr) : Statement (.peerWindowRead off len errs) := of_footprint rfl
theorem windowCommit (who : Who) : Statement (.windowCommit who) := of_footprint rfl
theorem bar0BadRequest (f : Fin 2) (kind : BadTlp) (write : Bool) (off len part : Nat) (poison : Bool) : Statement (.bar0BadRequest f kind write off len part poison) := of_footprint rfl
theorem configRequest (f : Nat) (write : Bool) (off : Fin 4096) (be : Fin 16) (v : Word) : Statement (.configRequest f write off be v) := of_footprint rfl
theorem completionRx (tag : Fin 1024) (ok : Bool) (data : List Byte) (poison : Bool) : Statement (.completionRx tag ok data poison) := of_footprint rfl
theorem completionTimeout (tag : Fin 1024) : Statement (.completionTimeout tag) := of_footprint rfl
theorem tagQuarantineEnd (tag : Fin 1024) : Statement (.tagQuarantineEnd tag) := of_footprint rfl
theorem perst : Statement (.perst) := of_footprint rfl
theorem hotReset : Statement (.hotReset) := of_footprint rfl
theorem functionLevelReset (f : Fin 2) : Statement (.functionLevelReset f) := of_footprint rfl
theorem pcieLinkChange (ev : PcieEvent) : Statement (.pcieLinkChange ev) := of_footprint rfl
theorem pmStateChange (f : Fin 2) (d3 : Bool) : Statement (.pmStateChange f d3) := of_footprint rfl
theorem l1Entry : Statement (.l1Entry) := of_footprint rfl
theorem wakePin (k : Fin 8) (level : Bool) : Statement (.wakePin k level) := of_footprint rfl
theorem dmaStart (who : Who) (n : Fin 16) : Statement (.dmaStart who n) := of_footprint rfl
theorem dmaDisable (who : Who) (n : Fin 16) : Statement (.dmaDisable who n) := of_footprint rfl
theorem dmaDrainDone (n : Fin 16) : Statement (.dmaDrainDone n) := of_footprint rfl
theorem dmaDescFetched (n : Fin 16) : Statement (.dmaDescFetched n) := of_footprint rfl
theorem dmaDescComplete (n : Fin 16) : Statement (.dmaDescComplete n) := of_footprint rfl
theorem appendDb (who : Who) (n : Fin 16) : Statement (.appendDb who n) := of_footprint rfl
theorem helloCmd (m : Fin 1024) : Statement (.helloCmd m) := of_footprint rfl
theorem summary (m : Fin 1024) : Statement (.summary m) := of_footprint rfl
theorem unitGet (m : Fin 1024) : Statement (.unitGet m) := of_footprint rfl
theorem unitSetOn (m : Fin 1024) : Statement (.unitSetOn m) := of_footprint rfl
theorem unitSetOff (m : Fin 1024) : Statement (.unitSetOff m) := of_footprint rfl
theorem unitSetRestart (m : Fin 1024) : Statement (.unitSetRestart m) := of_footprint rfl
theorem calRead (m : Fin 1024) : Statement (.calRead m) := of_footprint rfl
theorem calWrite (m : Fin 1024) (bad : Option Nat) : Statement (.calWrite m bad) := of_footprint rfl
theorem logRead (m : Fin 1024) : Statement (.logRead m) := of_footprint rfl
theorem headInfo (m : Fin 1024) : Statement (.headInfo m) := of_footprint rfl
theorem lightInfo (m : Fin 1024) : Statement (.lightInfo m) := of_footprint rfl
theorem thermalRead (m : Fin 1024) : Statement (.thermalRead m) := of_footprint rfl
theorem thermalSet (m : Fin 1024) : Statement (.thermalSet m) := of_footprint rfl
theorem thermalRestart (m : Fin 1024) : Statement (.thermalRestart m) := of_footprint rfl
theorem powerBudgetRead (m : Fin 1024) : Statement (.powerBudgetRead m) := of_footprint rfl
theorem powerBudgetSet (m : Fin 1024) : Statement (.powerBudgetSet m) := of_footprint rfl
theorem selfTest (m : Fin 1024) (failed first : Nat) : Statement (.selfTest m failed first) := of_footprint rfl
theorem patchInfo (m : Fin 1024) : Statement (.patchInfo m) := of_footprint rfl
theorem mbCommandDone (m : Fin 1024) : Statement (.mbCommandDone m) := of_footprint rfl
theorem smbSetOffset (c : SmbCmd) (pecOk : Bool) : Statement (.smbSetOffset c pecOk) := of_footprint rfl
theorem smbBlockWrite (bytes : List Byte) (pecOk : Bool) : Statement (.smbBlockWrite bytes pecOk) := of_footprint rfl
theorem smbBlockRead (n : Fin 33) : Statement (.smbBlockRead n) := of_footprint rfl
theorem smbReadStatus : Statement (.smbReadStatus) := of_footprint rfl
theorem unitPathCheck (moving : List Nat) : Statement (.unitPathCheck moving) := of_footprint rfl
theorem schedulerTick : Statement (.schedulerTick) := of_footprint rfl
theorem skepWatchdog (cause pc : Word) (bad : Option Nat) : Statement (.skepWatchdog cause pc bad) := of_footprint rfl
theorem skepRestartDone (parityOk : Bool) (reload : Option Flash) (bad : Option Nat) : Statement (.skepRestartDone parityOk reload bad) := of_footprint rfl
theorem skepRestart (who : Who) : Statement (.skepRestart who) := of_footprint rfl
theorem sensorSample (temps : List Int) : Statement (.sensorSample temps) := of_footprint rfl
theorem stackTempRead (t0 t1 : Int) : Statement (.stackTempRead t0 t1) := of_footprint rfl
theorem thermTrip : Statement (.thermTrip) := of_footprint rfl
theorem pmbusPoll (replies : List RailReply) : Statement (.pmbusPoll replies) := of_footprint rfl
theorem overBudget : Statement (.overBudget) := of_footprint rfl
theorem logRecordWrite (bad : Option Nat) : Statement (.logRecordWrite bad) := of_footprint rfl
theorem onHoursTick (bad : Option Nat) : Statement (.onHoursTick bad) := of_footprint rfl
theorem aonReset : Statement (.aonReset) := of_footprint rfl
theorem corePor (bad : Option Nat) : Statement (.corePor bad) := of_footprint rfl
theorem supplyDrop (core : Bool) : Statement (.supplyDrop core) := of_footprint rfl
theorem sysReset (bad : Option Nat) : Statement (.sysReset bad) := of_footprint rfl
theorem patchStageEnd (flash : Flash) (bad : Option Nat) : Statement (.patchStageEnd flash bad) := of_footprint rfl
theorem configRelease : Statement (.configRelease) := of_footprint rfl
theorem girqStatusWrite (who : Who) (enable : Bool) (v : Word) : Statement (.girqStatusWrite who enable v) := of_footprint rfl
theorem girqSoft (who : Who) : Statement (.girqSoft who) := of_footprint rfl
theorem indRead : Statement (.indRead) := of_footprint rfl
theorem indWrite : Statement (.indWrite) := of_footprint rfl
theorem indAccessDone : Statement (.indAccessDone) := of_footprint rfl
theorem perstDeassert : Statement (.perstDeassert) := of_footprint rfl
theorem pmeResend (f : Fin 2) : Statement (.pmeResend f) := of_footprint rfl
theorem vddioGpioChange (bank : Fin 4) (up : Bool) : Statement (.vddioGpioChange bank up) := of_footprint rfl

end Sys2Proof.Laws.Family
end

