-- ==== Sys2Proof/Laws/Position.lean ====
section
/-!
SUPPORT. A source that moves changes the position engine and its registers only; and what holds of every pass of a loop over numbered
things.
-/
set_option Elab.async false
namespace Sys2Proof.Machine

/-! ## Loops -/

/-- A property that every pass keeps holds after a loop. -/
theorem State.forList_inv {α : Type} {P : State → Prop} {l : List α} {f : α → State → State} {s : State} (h : P s)
    (hf : ∀ x ∈ l, ∀ t, P t → P (f x t)) : P (s.forList l f) := by
  unfold State.forList
  induction l generalizing s with
  | nil => exact h
  | cons x l ih =>
    exact ih (hf x List.mem_cons_self s h) fun y hy => hf y (List.mem_cons_of_mem x hy)

theorem State.forEach_inv {P : State → Prop} {n : Nat} {f : Nat → State → State} {s : State} (h : P s)
    (hf : ∀ i, i < n → ∀ t, P t → P (f i t)) : P (s.forEach n f) := by
  have := State.forList_inv (P := P) (l := List.range n) (f := f) h fun i hi => hf i (List.mem_range.mp hi)
  exact this

/-- What one pass of a loop establishes, from a property that the passes before it keep, holds after the loop if the passes after it keep it. -/
theorem State.forEach_at {P Q : State → Prop} {n k : Nat} {f : Nat → State → State} {s : State} (hk : k < n) (h : P s)
    (hP : ∀ i, i < k → ∀ t, P t → P (f i t)) (hd : ∀ t, P t → Q (f k t)) (hQ : ∀ i, k < i → i < n → ∀ t, Q t → Q (f i t)) :
    Q (s.forEach n f) := by
  have succ : ∀ (m : Nat) (s : State), s.forEach (m + 1) f = f m (s.forEach m f) := by
    intro m s
    unfold State.forEach
    rw [List.range_succ, List.foldl_append]; rfl
  have before : ∀ m, m ≤ k → P (s.forEach m f) := by
    intro m
    induction m with
    | zero => intro _; exact h
    | succ m ih => intro hm; rw [succ]; exact hP m (by omega) _ (ih (by omega))
  have after : ∀ m, k < m → m ≤ n → Q (s.forEach m f) := by
    intro m
    induction m with
    | zero => intro h; omega
    | succ m ih =>
      intro hm hn
      rw [succ]
      by_cases e : m = k
      · rw [e]; exact hd _ (before k (Nat.le_refl k))
      · exact hQ m (by omega) (by omega) _ (ih (by omega) (by omega))
  exact after n hk (Nat.le_refl n)

/-! ## Sources -/

/-- What a source that moves may change: the position engine and its registers. -/
structure SrcChange (s t : State) : Prop where
  rest : ∃ p r, t = { s with pe := p, regs := r }
  reg : ∀ a, a / 0x100000 ≠ 8 → t.reg a = s.reg a

theorem SrcChange.refl (s : State) : SrcChange s s := ⟨⟨_, _, rfl⟩, fun _ _ => rfl⟩

theorem SrcChange.trans {s t u : State} (h : SrcChange s t) (k : SrcChange t u) : SrcChange s u := by
  obtain ⟨⟨_, _, e⟩, f⟩ := h
  obtain ⟨⟨_, _, e'⟩, f'⟩ := k
  exact ⟨⟨_, _, by rw [e', e]⟩, fun a h1 => (f' a h1).trans (f a h1)⟩

theorem SrcChange.set {s t : State} (h : SrcChange s t) {f : Fld} (v : Nat) (hf : f.addr / 0x100000 = 8) : SrcChange s (t.set f v) :=
  h.trans ⟨⟨_, _, rfl⟩, fun _ h1 => State.reg_set_of_ne _ _ fun e => h1 (e ▸ hf)⟩

theorem SrcChange.setSrc {s t : State} (h : SrcChange s t) (n : Nat) (c : PosSrc) : SrcChange s (t.setSrc n c) :=
  h.trans ⟨⟨_, _, rfl⟩, fun _ _ => rfl⟩

theorem State.moveView_src (s : State) {v : Nat} (d : Int) (h : v < 8) : SrcChange s (s.moveView v d) := by
  unfold State.moveView
  refine SrcChange.set ⟨⟨_, _, rfl⟩, fun _ _ => rfl⟩ _ ?_
  show (0x802010 + v * 0x40) / _ = 8
  omega

theorem State.boundViews_lt {s : State} {n v : Nat} (h : v ∈ s.boundViews n) : v < 8 := by
  unfold State.boundViews at h
  exact List.mem_range.mp (List.mem_filter.mp h).1

theorem State.placeSource_src (s : State) {n : Nat} (p : Nat) (h : n < 8) : SrcChange s (s.placeSource n p) := by
  have e : (0x80100C + n * 0x40) / 0x100000 = 8 := by omega
  have h2 : SrcChange s ((s.setSrc n { s.srcOf n with pos := p }).set (R.SRC_POS_LO_POS n) p) := ((SrcChange.refl s).setSrc _ _).set _ e
  exact State.forList_inv (P := SrcChange s) h2 fun v hv t ht => ht.trans (t.moveView_src _ (State.boundViews_lt hv))

theorem State.addDue_src (s : State) (l : List Due) : SrcChange s (s.addDue l) :=
  ⟨⟨_, _, rfl⟩, fun _ _ => rfl⟩

theorem State.recross_src (s : State) (l : List (Nat × Nat × Nat)) : SrcChange s (s.recross l) :=
  ⟨⟨_, _, rfl⟩, fun _ _ => rfl⟩

theorem State.stepSource_src (s : State) {n : Nat} (p : Nat) (h : n < 8) : SrcChange s (s.stepSource n p) := by
  unfold State.stepSource
  split
  · exact .refl s
  · exact (s.placeSource_src p h).trans (State.recross_src _ _)

theorem State.srcShow_src (s : State) {n : Nat} (h : n < 8) : SrcChange s (s.srcShow n) := by
  have e : (0x801018 + n * 0x40) / 0x100000 = 8 := by omega
  exact (((SrcChange.refl s).set _ e).set _ e).set _ (by show (0x801014 + n * 0x40) / _ = 8; omega)

theorem State.refreshSource_src (s : State) {n : Nat} (h : n < 8) : SrcChange s (s.refreshSource n) := by
  unfold State.refreshSource
  split
  · exact (s.stepSource_src _ h).trans (State.srcShow_src _ h)
  · exact .refl s

theorem State.fedBy_lt {s : State} {k c n : Nat} (h : n ∈ s.fedBy k c) : n < 8 := by
  unfold State.fedBy at h
  exact List.mem_range.mp (List.mem_filter.mp h).1

theorem State.encEdge_src (s : State) (c : Nat) : SrcChange s (s.encEdge c) :=
  State.forList_inv (P := SrcChange s) (.refl s) fun _ hn _ ht => (ht.setSrc _ _).trans (State.refreshSource_src _ (State.fedBy_lt hn))

theorem State.encEstimate_src (s : State) (c : Nat) (old : State) : SrcChange s (s.encEstimate c old) := by
  refine State.forList_inv (P := SrcChange s) (.refl s) fun n hn t ht => ?_
  dsimp only
  split
  · exact (ht.setSrc _ _).trans (State.refreshSource_src _ (State.fedBy_lt hn))
  · exact ht.trans (State.refreshSource_src _ (State.fedBy_lt hn))

theorem State.encEstimate_get (s : State) {c : Nat} {old : State} {f : Fld} (h : f.addr / 0x100000 ≠ 8) :
    (s.encEstimate c old).get f = s.get f := by
  unfold State.get; rw [(s.encEstimate_src c old).reg _ h]

theorem State.encEdge_get (s : State) {c : Nat} {f : Fld} (h : f.addr / 0x100000 ≠ 8) : (s.encEdge c).get f = s.get f := by
  unfold State.get; rw [(s.encEdge_src c).reg _ h]

@[simp] theorem State.encEstimate_encOf (s : State) (c : Nat) (old : State) (n : Nat) : (s.encEstimate c old).encOf n = s.encOf n := by
  obtain ⟨_, _, e⟩ := (s.encEstimate_src c old).rest
  rw [e]; rfl

@[simp] theorem State.encEdge_encOf (s : State) (c n : Nat) : (s.encEdge c).encOf n = s.encOf n := by
  obtain ⟨_, _, e⟩ := (s.encEdge_src c).rest
  rw [e]; rfl

end Sys2Proof.Machine
end

