-- ==== Sys2Proof/Laws/Regs.lean ====
section
/-!
SUPPORT. What a software write of a register leaves in its fields (R5, R6), and the rows of the register map that the commands write.
-/
set_option Elab.async false
namespace Sys2Proof.Machine

theorem maskedWrite_bit (rw w1c : Nat) (old v : Word) (i : Nat) (hi : i < 32) :
    (maskedWrite rw w1c old v).toNat.testBit i =
      if rw.testBit i then v.toNat.testBit i else old.toNat.testBit i && !(v.toNat.testBit i && w1c.testBit i) := by
  unfold maskedWrite
  simp only [BitVec.testBit_toNat, BitVec.getLsbD_or, BitVec.getLsbD_and, BitVec.getLsbD_not, BitVec.getLsbD_ofNat, hi, decide_true,
    Bool.true_and]
  cases rw.testBit i <;> simp

/-- A field all of whose bits are RW takes the bits written (R5). -/
theorem bitsOf_maskedWrite_rw {rw w1c lo w : Nat} (old v : Word) (hw : lo + w ≤ 32) (h : bitsOf rw lo w = 2 ^ w - 1) :
    bitsOf (maskedWrite rw w1c old v).toNat lo w = bitsOf v.toNat lo w := by
  apply Nat.eq_of_testBit_eq
  intro i
  rw [testBit_bitsOf, testBit_bitsOf]
  by_cases hi : i < w
  · have hb : rw.testBit (lo + i) = true := by
      have := congrArg (fun x : Nat => x.testBit i) h
      simpa [testBit_bitsOf, hi, Nat.testBit_two_pow_sub_one] using this
    rw [maskedWrite_bit _ _ _ _ _ (by omega), if_pos hb]
  · simp [hi]

/-- A field none of whose bits is RW or W1C stays as it was. -/
theorem bitsOf_maskedWrite_ro {rw w1c lo w : Nat} (old v : Word) (hw : lo + w ≤ 32) (h : bitsOf rw lo w = 0) (h1 : bitsOf w1c lo w = 0) :
    bitsOf (maskedWrite rw w1c old v).toNat lo w = bitsOf old.toNat lo w := by
  apply Nat.eq_of_testBit_eq
  intro i
  rw [testBit_bitsOf, testBit_bitsOf]
  by_cases hi : i < w
  · have hb : rw.testBit (lo + i) = false := by
      have := congrArg (fun x : Nat => x.testBit i) h
      simpa [testBit_bitsOf, hi] using this
    have hb1 : w1c.testBit (lo + i) = false := by
      have := congrArg (fun x : Nat => x.testBit i) h1
      simpa [testBit_bitsOf, hi] using this
    rw [maskedWrite_bit _ _ _ _ _ (by omega), hb, hb1]
    simp
  · simp [hi]

/-- A field without a W1C bit: hardware flags of the same event clock do not mask its write (R7). -/
theorem State.bitsOf_writable (s : State) {a lo w : Nat} {r : RegRow} (v : Word) (h : regRow? a = some r) (hf : lo + w ≤ 32)
    (hw : bitsOf r.w1c lo w = 0) : bitsOf (s.writable a v).toNat lo w = bitsOf v.toNat lo w := by
  unfold State.writable
  rw [h]
  apply Nat.eq_of_testBit_eq
  intro i
  rw [testBit_bitsOf, testBit_bitsOf]
  by_cases hi : i < w
  · have hb : r.w1c.testBit (lo + i) = false := by
      have := congrArg (fun x : Nat => x.testBit i) hw
      simpa [testBit_bitsOf, hi] using this
    have hl : lo + i < 32 := by omega
    simp only [BitVec.testBit_toNat, BitVec.getLsbD_and, BitVec.getLsbD_not, BitVec.getLsbD_ofNat, hl, hb, decide_true,
      Bool.true_and, Bool.and_false, Bool.not_false, Bool.and_true]
  · simp [hi]

theorem State.reg_writeReg (s : State) {a : Nat} {r : RegRow} (v : Word) (h : regRow? a = some r) (b : Nat) :
    (s.writeReg a v).reg b = if b = a then maskedWrite r.rw r.w1c (s.reg a) (s.writable a v) else s.reg b := by
  unfold State.writeReg
  rw [h]
  exact State.reg_setReg s a b _

theorem State.reg_writeReg_of_ne (s : State) {a b : Nat} (v : Word) (h : b ≠ a) : (s.writeReg a v).reg b = s.reg b := by
  unfold State.writeReg
  split
  · exact State.reg_setReg_of_ne s _ h
  · rfl

/-- An RW field of a register written (R5). -/
theorem State.get_writeReg_rw (s : State) {f : Fld} {r : RegRow} (v : Word) (h : regRow? f.addr = some r) (hf : f.lo + f.w ≤ 32)
    (hrw : bitsOf r.rw f.lo f.w = 2 ^ f.w - 1) (hw : bitsOf r.w1c f.lo f.w = 0) :
    (s.writeReg f.addr v).get f = bitsOf v.toNat f.lo f.w := by
  unfold State.get
  rw [State.reg_writeReg s v h, if_pos rfl, bitsOf_maskedWrite_rw _ _ hf hrw, s.bitsOf_writable v h hf hw]

/-- A field of a register written that software does not write (R5). -/
theorem State.get_writeReg_ro (s : State) {f : Fld} {r : RegRow} (v : Word) (h : regRow? f.addr = some r) (hf : f.lo + f.w ≤ 32)
    (hrw : bitsOf r.rw f.lo f.w = 0) (hw : bitsOf r.w1c f.lo f.w = 0) : (s.writeReg f.addr v).get f = s.get f := by
  unfold State.get
  rw [State.reg_writeReg s v h, if_pos rfl]
  exact bitsOf_maskedWrite_ro _ _ hf hrw hw

/-- A field of another register. -/
theorem State.get_writeReg_of_ne (s : State) {f : Fld} {a : Nat} (v : Word) (h : f.addr ≠ a) : (s.writeReg a v).get f = s.get f := by
  unfold State.get
  rw [State.reg_writeReg_of_ne s v h]

/-! ## Rows of the register map -/

set_option maxRecDepth 4000
set_option linter.unusedSimpArgs false

theorem regRow_COMMIT_CTRL (k : Fin 8) : regRow? (R.COMMIT_CTRL k) = some ⟨0xB01020, 8, 0x800, 1, 0x0, 0x80000, 0xFFF00, 0x0, 0x0, 0x0⟩ := by
  have hk := k.isLt
  have h : R.COMMIT_CTRL k / 0x100000 = 11 := by unfold R.COMMIT_CTRL; omega
  unfold regRow?
  rw [h]
  generalize k.val = n at *
  simp only [R.COMMIT_CTRL, regRows, regRows11_0, regRows11_1, List.cons_append, List.nil_append, List.append_assoc]
  repeat' first
    | rw [List.find?_cons_of_neg (by simp [RegRow.holds]; omega)]
    | exact List.find?_cons_of_pos (by simp [RegRow.holds] <;> omega)

theorem regRow_ENC_CTRL (k : Fin 8) : regRow? (R.ENC_CTRL k) = some ⟨0x900000, 8, 0x100, 1, 0x0, 0x0, 0x1FFFFBF, 0x0, 0x0, 0x0⟩ := by
  have hk := k.isLt
  have h : R.ENC_CTRL k / 0x100000 = 9 := by unfold R.ENC_CTRL; omega
  unfold regRow?
  rw [h]
  generalize k.val = n at *
  simp only [R.ENC_CTRL, regRows, regRows9_0, regRows9_1, List.cons_append, List.nil_append, List.append_assoc]
  repeat' first
    | rw [List.find?_cons_of_neg (by simp [RegRow.holds]; omega)]
    | exact List.find?_cons_of_pos (by simp [RegRow.holds] <;> omega)

theorem regRow_CTLE_CFG (k : Fin 32) : regRow? (R.CTLE_CFG k) = some ⟨0x100010, 32, 0x8000, 1, 0x0, 0xF00, 0xF0F0F, 0x0, 0x0, 0x0⟩ := by
  have hk := k.isLt
  have h : R.CTLE_CFG k / 0x100000 = 1 := by unfold R.CTLE_CFG; omega
  unfold regRow?
  rw [h]
  generalize k.val = n at *
  simp only [R.CTLE_CFG, regRows, regRows1_0, regRows1_1, regRows1_2, List.cons_append, List.nil_append, List.append_assoc]
  repeat' first
    | rw [List.find?_cons_of_neg (by simp [RegRow.holds]; omega)]
    | exact List.find?_cons_of_pos (by simp [RegRow.holds] <;> omega)

theorem regRow_EP_CTRL (k : Fin 2048) : regRow? (R.EP_CTRL k) = some ⟨0x280028, 2048, 0x100, 1, 0x0, 0x0, 0x1, 0x0, 0x0, 0x0⟩ := by
  have hk := k.isLt
  have h : R.EP_CTRL k / 0x100000 = 2 := by unfold R.EP_CTRL; omega
  unfold regRow?
  rw [h]
  generalize k.val = n at *
  simp only [R.EP_CTRL, regRows, regRows2_0, regRows2_1, List.cons_append, List.nil_append, List.append_assoc]
  repeat' first
    | rw [List.find?_cons_of_neg (by simp [RegRow.holds]; omega)]
    | exact List.find?_cons_of_pos (by simp [RegRow.holds] <;> omega)

theorem regRow_ETH_CTRL (k : Fin 4) : regRow? (R.ETH_CTRL k) = some ⟨0x1201000, 4, 0x100, 1, 0x0, 0x0, 0x7FFFF, 0x0, 0x0, 0x0⟩ := by
  have hk := k.isLt
  have h : R.ETH_CTRL k / 0x100000 = 18 := by unfold R.ETH_CTRL; omega
  unfold regRow?
  rw [h]
  generalize k.val = n at *
  simp only [R.ETH_CTRL, regRows, regRows18_0, regRows18_1, List.cons_append, List.nil_append, List.append_assoc]
  repeat' first
    | rw [List.find?_cons_of_neg (by simp [RegRow.holds]; omega)]
    | exact List.find?_cons_of_pos (by simp [RegRow.holds] <;> omega)

theorem regRow_GEN_CTRL (k : Fin 8) : regRow? (R.GEN_CTRL k) = some ⟨0xB01010, 8, 0x800, 1, 0x0, 0x0, 0xFFFFFF0F, 0x0, 0x0, 0x0⟩ := by
  have hk := k.isLt
  have h : R.GEN_CTRL k / 0x100000 = 11 := by unfold R.GEN_CTRL; omega
  unfold regRow?
  rw [h]
  generalize k.val = n at *
  simp only [R.GEN_CTRL, regRows, regRows11_0, regRows11_1, List.cons_append, List.nil_append, List.append_assoc]
  repeat' first
    | rw [List.find?_cons_of_neg (by simp [RegRow.holds]; omega)]
    | exact List.find?_cons_of_pos (by simp [RegRow.holds] <;> omega)

theorem regRow_GRP_CFG (k : Fin 8) : regRow? (R.GRP_CFG k) = some ⟨0x100800, 8, 0x20000, 1, 0x0, 0x0, 0x7, 0x0, 0x0, 0x0⟩ := by
  have hk := k.isLt
  have h : R.GRP_CFG k / 0x100000 = 1 := by unfold R.GRP_CFG; omega
  unfold regRow?
  rw [h]
  generalize k.val = n at *
  simp only [R.GRP_CFG, regRows, regRows1_0, regRows1_1, regRows1_2, List.cons_append, List.nil_append, List.append_assoc]
  repeat' first
    | rw [List.find?_cons_of_neg (by simp [RegRow.holds]; omega)]
    | exact List.find?_cons_of_pos (by simp [RegRow.holds] <;> omega)

theorem regRow_LANE_CTRL (k : Fin 32) : regRow? (R.LANE_CTRL k) = some ⟨0x100000, 32, 0x8000, 1, 0x0, 0x0, 0xFFC, 0x0, 0x1, 0x0⟩ := by
  have hk := k.isLt
  have h : R.LANE_CTRL k / 0x100000 = 1 := by unfold R.LANE_CTRL; omega
  unfold regRow?
  rw [h]
  generalize k.val = n at *
  simp only [R.LANE_CTRL, regRows, regRows1_0, regRows1_1, regRows1_2, List.cons_append, List.nil_append, List.append_assoc]
  repeat' first
    | rw [List.find?_cons_of_neg (by simp [RegRow.holds]; omega)]
    | exact List.find?_cons_of_pos (by simp [RegRow.holds] <;> omega)

theorem regRow_LC_CFG (k : Fin 8) : regRow? (R.LC_CFG k) = some ⟨0x450000, 8, 0x100, 1, 0x0, 0x400060, 0xFFFFFFF3, 0x0, 0x0, 0x0⟩ := by
  have hk := k.isLt
  have h : R.LC_CFG k / 0x100000 = 4 := by unfold R.LC_CFG; omega
  unfold regRow?
  rw [h]
  generalize k.val = n at *
  simp only [R.LC_CFG, regRows, regRows4_0, regRows4_1, List.cons_append, List.nil_append, List.append_assoc]
  repeat' first
    | rw [List.find?_cons_of_neg (by simp [RegRow.holds]; omega)]
    | exact List.find?_cons_of_pos (by simp [RegRow.holds] <;> omega)

theorem regRow_LING_CH_CTRL (k : Fin 8) : regRow? (R.LING_CH_CTRL k) = some ⟨0xB01000, 8, 0x800, 1, 0x0, 0x538, 0xFFFF3E, 0x0, 0x1, 0x0⟩ := by
  have hk := k.isLt
  have h : R.LING_CH_CTRL k / 0x100000 = 11 := by unfold R.LING_CH_CTRL; omega
  unfold regRow?
  rw [h]
  generalize k.val = n at *
  simp only [R.LING_CH_CTRL, regRows, regRows11_0, regRows11_1, List.cons_append, List.nil_append, List.append_assoc]
  repeat' first
    | rw [List.find?_cons_of_neg (by simp [RegRow.holds]; omega)]
    | exact List.find?_cons_of_pos (by simp [RegRow.holds] <;> omega)

theorem regRow_LINK_CTRL (k : Fin 32) : regRow? (R.LINK_CTRL k) = some ⟨0x101000, 32, 0x8000, 1, 0x0, 0x8, 0xE, 0x0, 0x1, 0x0⟩ := by
  have hk := k.isLt
  have h : R.LINK_CTRL k / 0x100000 = 1 := by unfold R.LINK_CTRL; omega
  unfold regRow?
  rw [h]
  generalize k.val = n at *
  simp only [R.LINK_CTRL, regRows, regRows1_0, regRows1_1, regRows1_2, List.cons_append, List.nil_append, List.append_assoc]
  repeat' first
    | rw [List.find?_cons_of_neg (by simp [RegRow.holds]; omega)]
    | exact List.find?_cons_of_pos (by simp [RegRow.holds] <;> omega)

theorem regRow_MARGIN_CTRL (k : Fin 32) : regRow? (R.MARGIN_CTRL k) = some ⟨0x1000A8, 32, 0x8000, 1, 0x0, 0x500002, 0xFFFFFE, 0x0, 0x0, 0x0⟩ := by
  have hk := k.isLt
  have h : R.MARGIN_CTRL k / 0x100000 = 1 := by unfold R.MARGIN_CTRL; omega
  unfold regRow?
  rw [h]
  generalize k.val = n at *
  simp only [R.MARGIN_CTRL, regRows, regRows1_0, regRows1_1, regRows1_2, List.cons_append, List.nil_append, List.append_assoc]
  repeat' first
    | rw [List.find?_cons_of_neg (by simp [RegRow.holds]; omega)]
    | exact List.find?_cons_of_pos (by simp [RegRow.holds] <;> omega)

theorem regRow_MARK_CFG (k : Fin 64) : regRow? (R.MARK_CFG k) = some ⟨0x302000, 64, 0x20, 1, 0x0, 0x0, 0xFFFF000F, 0x0, 0x0, 0x0⟩ := by
  have hk := k.isLt
  have h : R.MARK_CFG k / 0x100000 = 3 := by unfold R.MARK_CFG; omega
  unfold regRow?
  rw [h]
  generalize k.val = n at *
  simp only [R.MARK_CFG, regRows, regRows3_0, regRows3_1, List.cons_append, List.nil_append, List.append_assoc]
  repeat' first
    | rw [List.find?_cons_of_neg (by simp [RegRow.holds]; omega)]
    | exact List.find?_cons_of_pos (by simp [RegRow.holds] <;> omega)

theorem regRow_MF_CFG (k : Fin 2048) : regRow? (R.MF_CFG k) = some ⟨0x1500000, 2048, 0x20, 1, 0x0, 0x100000, 0x7FFFF01, 0x0, 0x0, 0x0⟩ := by
  have hk := k.isLt
  have h : R.MF_CFG k / 0x100000 = 21 := by unfold R.MF_CFG; omega
  unfold regRow?
  rw [h]
  generalize k.val = n at *
  simp only [R.MF_CFG, regRows, regRows21_0, List.cons_append, List.nil_append, List.append_assoc]
  repeat' first
    | rw [List.find?_cons_of_neg (by simp [RegRow.holds]; omega)]
    | exact List.find?_cons_of_pos (by simp [RegRow.holds] <;> omega)

theorem regRow_OUT_CTRL (k : Fin 64) : regRow? (R.OUT_CTRL k) = some ⟨0xA04000, 64, 0x20, 1, 0x0, 0x0, 0x3FF, 0x0, 0x0, 0x0⟩ := by
  have hk := k.isLt
  have h : R.OUT_CTRL k / 0x100000 = 10 := by unfold R.OUT_CTRL; omega
  unfold regRow?
  rw [h]
  generalize k.val = n at *
  simp only [R.OUT_CTRL, regRows, regRows10_0, List.cons_append, List.nil_append, List.append_assoc]
  repeat' first
    | rw [List.find?_cons_of_neg (by simp [RegRow.holds]; omega)]
    | exact List.find?_cons_of_pos (by simp [RegRow.holds] <;> omega)

theorem regRow_POOL_CTRL (k : Fin 64) : regRow? (R.POOL_CTRL k) = some ⟨0x1020000, 64, 0x40, 1, 0x0, 0x0, 0x7, 0x0, 0x0, 0x0⟩ := by
  have hk := k.isLt
  have h : R.POOL_CTRL k / 0x100000 = 16 := by unfold R.POOL_CTRL; omega
  unfold regRow?
  rw [h]
  generalize k.val = n at *
  simp only [R.POOL_CTRL, regRows, regRows16_0, regRows16_1, regRows16_2, List.cons_append, List.nil_append, List.append_assoc]
  repeat' first
    | rw [List.find?_cons_of_neg (by simp [RegRow.holds]; omega)]
    | exact List.find?_cons_of_pos (by simp [RegRow.holds] <;> omega)

theorem regRow_PRBS_CTRL (k : Fin 32) : regRow? (R.PRBS_CTRL k) = some ⟨0x1000C0, 32, 0x8000, 1, 0x0, 0x8, 0xF, 0x0, 0x0, 0x0⟩ := by
  have hk := k.isLt
  have h : R.PRBS_CTRL k / 0x100000 = 1 := by unfold R.PRBS_CTRL; omega
  unfold regRow?
  rw [h]
  generalize k.val = n at *
  simp only [R.PRBS_CTRL, regRows, regRows1_0, regRows1_1, regRows1_2, List.cons_append, List.nil_append, List.append_assoc]
  repeat' first
    | rw [List.find?_cons_of_neg (by simp [RegRow.holds]; omega)]
    | exact List.find?_cons_of_pos (by simp [RegRow.holds] <;> omega)

theorem regRow_RATE_AGREE (k : Fin 32) : regRow? (R.RATE_AGREE k) = some ⟨0x10101C, 32, 0x8000, 1, 0x0, 0x0, 0x3, 0x0, 0x18, 0x0⟩ := by
  have hk := k.isLt
  have h : R.RATE_AGREE k / 0x100000 = 1 := by unfold R.RATE_AGREE; omega
  unfold regRow?
  rw [h]
  generalize k.val = n at *
  simp only [R.RATE_AGREE, regRows, regRows1_0, regRows1_1, regRows1_2, List.cons_append, List.nil_append, List.append_assoc]
  repeat' first
    | rw [List.find?_cons_of_neg (by simp [RegRow.holds]; omega)]
    | exact List.find?_cons_of_pos (by simp [RegRow.holds] <;> omega)

theorem regRow_RAW_SEGS (k : Fin 4096) : regRow? (R.RAW_SEGS k) = some ⟨0x308000, 4096, 0x4, 1, 0x0, 0x0, 0xFFFFF, 0x0, 0x0, 0x0⟩ := by
  have hk := k.isLt
  have h : R.RAW_SEGS k / 0x100000 = 3 := by unfold R.RAW_SEGS; omega
  unfold regRow?
  rw [h]
  generalize k.val = n at *
  simp only [R.RAW_SEGS, regRows, regRows3_0, regRows3_1, List.cons_append, List.nil_append, List.append_assoc]
  repeat' first
    | rw [List.find?_cons_of_neg (by simp [RegRow.holds]; omega)]
    | exact List.find?_cons_of_pos (by simp [RegRow.holds] <;> omega)

theorem regRow_RING_CTRL (k : Fin 256) : regRow? (R.RING_CTRL k) = some ⟨0x1010000, 256, 0x40, 1, 0x0, 0xC, 0x3FFF, 0x0, 0x0, 0x0⟩ := by
  have hk := k.isLt
  have h : R.RING_CTRL k / 0x100000 = 16 := by unfold R.RING_CTRL; omega
  unfold regRow?
  rw [h]
  generalize k.val = n at *
  simp only [R.RING_CTRL, regRows, regRows16_0, regRows16_1, regRows16_2, List.cons_append, List.nil_append, List.append_assoc]
  repeat' first
    | rw [List.find?_cons_of_neg (by simp [RegRow.holds]; omega)]
    | exact List.find?_cons_of_pos (by simp [RegRow.holds] <;> omega)

theorem regRow_SD_CTRL (k : Fin 4096) : regRow? (R.SD_CTRL k) = some ⟨0x240000, 4096, 0x40, 1, 0x0, 0x0, 0x7, 0x0, 0x0, 0x0⟩ := by
  have hk := k.isLt
  have h : R.SD_CTRL k / 0x100000 = 2 := by unfold R.SD_CTRL; omega
  unfold regRow?
  rw [h]
  generalize k.val = n at *
  simp only [R.SD_CTRL, regRows, regRows2_0, regRows2_1, List.cons_append, List.nil_append, List.append_assoc]
  repeat' first
    | rw [List.find?_cons_of_neg (by simp [RegRow.holds]; omega)]
    | exact List.find?_cons_of_pos (by simp [RegRow.holds] <;> omega)

theorem regRow_SRC_CTRL (k : Fin 8) : regRow? (R.SRC_CTRL k) = some ⟨0x801000, 8, 0x40, 1, 0x0, 0xC0, 0xFF, 0x0, 0x0, 0x0⟩ := by
  have hk := k.isLt
  have h : R.SRC_CTRL k / 0x100000 = 8 := by unfold R.SRC_CTRL; omega
  unfold regRow?
  rw [h]
  generalize k.val = n at *
  simp only [R.SRC_CTRL, regRows, regRows8_0, regRows8_1, List.cons_append, List.nil_append, List.append_assoc]
  repeat' first
    | rw [List.find?_cons_of_neg (by simp [RegRow.holds]; omega)]
    | exact List.find?_cons_of_pos (by simp [RegRow.holds] <;> omega)

theorem regRow_SSI_CTRL (k : Fin 4) : regRow? (R.SSI_CTRL k) = some ⟨0x901000, 4, 0x100, 1, 0x0, 0x1900, 0xFF073F3F, 0x0, 0x0, 0x0⟩ := by
  have hk := k.isLt
  have h : R.SSI_CTRL k / 0x100000 = 9 := by unfold R.SSI_CTRL; omega
  unfold regRow?
  rw [h]
  generalize k.val = n at *
  simp only [R.SSI_CTRL, regRows, regRows9_0, regRows9_1, List.cons_append, List.nil_append, List.append_assoc]
  repeat' first
    | rw [List.find?_cons_of_neg (by simp [RegRow.holds]; omega)]
    | exact List.find?_cons_of_pos (by simp [RegRow.holds] <;> omega)

theorem regRow_STAGE_CFG (k : Fin 8) : regRow? (R.STAGE_CFG k) = some ⟨0x301004, 8, 0x80, 1, 0x0, 0x0, 0xFFFFF, 0x0, 0x0, 0x0⟩ := by
  have hk := k.isLt
  have h : R.STAGE_CFG k / 0x100000 = 3 := by unfold R.STAGE_CFG; omega
  unfold regRow?
  rw [h]
  generalize k.val = n at *
  simp only [R.STAGE_CFG, regRows, regRows3_0, regRows3_1, List.cons_append, List.nil_append, List.append_assoc]
  repeat' first
    | rw [List.find?_cons_of_neg (by simp [RegRow.holds]; omega)]
    | exact List.find?_cons_of_pos (by simp [RegRow.holds] <;> omega)

theorem regRow_SWD_CH_CFG (k : Fin 256) : regRow? (R.SWD_CH_CFG k) = some ⟨0xA01000, 256, 0x20, 1, 0x0, 0x1, 0x7F, 0x0, 0x0, 0x0⟩ := by
  have hk := k.isLt
  have h : R.SWD_CH_CFG k / 0x100000 = 10 := by unfold R.SWD_CH_CFG; omega
  unfold regRow?
  rw [h]
  generalize k.val = n at *
  simp only [R.SWD_CH_CFG, regRows, regRows10_0, List.cons_append, List.nil_append, List.append_assoc]
  repeat' first
    | rw [List.find?_cons_of_neg (by simp [RegRow.holds]; omega)]
    | exact List.find?_cons_of_pos (by simp [RegRow.holds] <;> omega)

theorem regRow_SW_CTRL (k : Fin 32) : regRow? (R.SW_CTRL k) = some ⟨0x902000, 32, 0x20, 1, 0x0, 0x0, 0xFFFF07FF, 0x0, 0x0, 0x0⟩ := by
  have hk := k.isLt
  have h : R.SW_CTRL k / 0x100000 = 9 := by unfold R.SW_CTRL; omega
  unfold regRow?
  rw [h]
  generalize k.val = n at *
  simp only [R.SW_CTRL, regRows, regRows9_0, regRows9_1, List.cons_append, List.nil_append, List.append_assoc]
  repeat' first
    | rw [List.find?_cons_of_neg (by simp [RegRow.holds]; omega)]
    | exact List.find?_cons_of_pos (by simp [RegRow.holds] <;> omega)

theorem regRow_TRIG_CTRL (k : Fin 32) (j : Fin 8) : regRow? (R.TRIG_CTRL k j) = some ⟨0x101100, 32, 0x8000, 8, 0x40, 0x0, 0x7FFFF01, 0x0, 0x0, 0x0⟩ := by
  have hk := k.isLt
  have hj := j.isLt
  have h : R.TRIG_CTRL k j / 0x100000 = 1 := by unfold R.TRIG_CTRL; omega
  unfold regRow?
  rw [h]
  generalize k.val = n at *
  generalize j.val = i at *
  simp only [R.TRIG_CTRL, regRows, regRows1_0, regRows1_1, regRows1_2, List.cons_append, List.nil_append, List.append_assoc]
  repeat' first
    | rw [List.find?_cons_of_neg (by simp [RegRow.holds]; omega)]
    | exact List.find?_cons_of_pos (by simp [RegRow.holds] <;> omega)

theorem regRow_TX_COEF (k : Fin 32) : regRow? (R.TX_COEF k) = some ⟨0x100008, 32, 0x8000, 1, 0x0, 0x408000, 0x7FFFFF, 0x0, 0x0, 0x0⟩ := by
  have hk := k.isLt
  have h : R.TX_COEF k / 0x100000 = 1 := by unfold R.TX_COEF; omega
  unfold regRow?
  rw [h]
  generalize k.val = n at *
  simp only [R.TX_COEF, regRows, regRows1_0, regRows1_1, regRows1_2, List.cons_append, List.nil_append, List.append_assoc]
  repeat' first
    | rw [List.find?_cons_of_neg (by simp [RegRow.holds]; omega)]
    | exact List.find?_cons_of_pos (by simp [RegRow.holds] <;> omega)

theorem regRow_TIME_CTRL : regRow? R.TIME_CTRL = some ⟨0x1200000, 1, 0x0, 1, 0x0, 0x4, 0xFFFD, 0x0, 0x0, 0x0⟩ := by decide

theorem regRow_COND_CTRL (k : Fin 4096) : regRow? (R.COND_CTRL k) = some ⟨0x410000, 4096, 0x40, 1, 0x0, 0x1008, 0x3F3F, 0x0, 0x0, 0x0⟩ := by
  have hk := k.isLt
  have h : R.COND_CTRL k / 0x100000 = 4 := by unfold R.COND_CTRL; omega
  unfold regRow?
  rw [h]
  generalize k.val = n at *
  simp only [R.COND_CTRL, regRows, regRows4_0, regRows4_1, List.cons_append, List.nil_append, List.append_assoc]
  repeat' first
    | rw [List.find?_cons_of_neg (by simp [RegRow.holds]; omega)]
    | exact List.find?_cons_of_pos (by simp [RegRow.holds] <;> omega)

theorem regRow_HIST_CFG (k : Fin 8) : regRow? (R.HIST_CFG k) = some ⟨0x301000, 8, 0x80, 1, 0x0, 0x0, 0x1FFFFF, 0x0, 0x0, 0x0⟩ := by
  have hk := k.isLt
  have h : R.HIST_CFG k / 0x100000 = 3 := by unfold R.HIST_CFG; omega
  unfold regRow?
  rw [h]
  generalize k.val = n at *
  simp only [R.HIST_CFG, regRows, regRows3_0, regRows3_1, List.cons_append, List.nil_append, List.append_assoc]
  repeat' first
    | rw [List.find?_cons_of_neg (by simp [RegRow.holds]; omega)]
    | exact List.find?_cons_of_pos (by simp [RegRow.holds] <;> omega)

theorem regRow_PSET_EXP (k : Fin 2048) (j : Fin 16) : regRow? (R.PSET_EXP k j) = some ⟨0x280080, 2048, 0x100, 16, 0x8, 0x2710, 0xFFFFFFFF, 0x0, 0x0, 0x0⟩ := by
  have hk := k.isLt
  have hj := j.isLt
  have h : R.PSET_EXP k j / 0x100000 = 2 := by unfold R.PSET_EXP; omega
  unfold regRow?
  rw [h]
  generalize k.val = n at *
  generalize j.val = i at *
  simp only [R.PSET_EXP, regRows, regRows2_0, regRows2_1, List.cons_append, List.nil_append, List.append_assoc]
  repeat' first
    | rw [List.find?_cons_of_neg (by simp [RegRow.holds]; omega)]
    | exact List.find?_cons_of_pos (by simp [RegRow.holds] <;> omega)

theorem regRow_VW_CTRL (k : Fin 8) : regRow? (R.VW_CTRL k) = some ⟨0x510000, 8, 0x2000, 1, 0x0, 0x5, 0xFF7F, 0x0, 0x0, 0x0⟩ := by
  have hk := k.isLt
  have h : R.VW_CTRL k / 0x100000 = 5 := by unfold R.VW_CTRL; omega
  unfold regRow?
  rw [h]
  generalize k.val = n at *
  simp only [R.VW_CTRL, regRows, regRows5_0, regRows5_1, List.cons_append, List.nil_append, List.append_assoc]
  repeat' first
    | rw [List.find?_cons_of_neg (by simp [RegRow.holds]; omega)]
    | exact List.find?_cons_of_pos (by simp [RegRow.holds] <;> omega)

end Sys2Proof.Machine
end

