-- ==== Sys2Proof/Tests/Slice0.lean ====
section
/-!
SUPPORT. Tests: ill-formed commands that `wellFormed` refuses, the worked examples of the specification, and for every statement with
hypotheses a witness that meets them, clause by clause.
-/
set_option Elab.async false
namespace Sys2Proof.Machine

/-! ## Small states -/

/-- A state that differs from reset in some fields of registers. -/
def W.w (l : List (Fld × Nat)) : State := l.foldl (fun s x => s.set x.1 x.2) State.reset
/-- An entry that fires once, forward, at position 100 of source 0, on channel 5. -/
def W.entry : BitVec 128 := mkEntry 100 1 5 0 0 0 false 1 false false
/-- A station frame of a type, its body from sender 7. -/
def W.sta (type tflags : Nat) (body : List Byte) : StaFrame :=
  ⟨0, 5, leBytes 1 16 ++ leBytes 1 type ++ leBytes 2 body.length ++ leBytes 2 0 ++ leBytes 1 7 ++ leBytes 1 tflags ++ List.replicate 16 0 ++ body⟩
def W.inbox (s : State) (f : StaFrame) : State := { s with net := { s.net with inbox := [f] } }
def W.master : Master := ⟨1, 0, 0, 0, 0, 0, 0, 9⟩
/-- A link that is ON at lane `f`, and an endpoint that is ON. -/
def W.link (s : State) (f : Nat) (l : Link) : State := { s with links := [(f, l)], units := s.units ++ [(linkUnit f, { state := .on })] }
def W.ep (s : State) (e : Nat) (x : Endpoint) : State := { s with eps := [(e, x)], units := s.units ++ [(epUnit e, { state := .on })] }
/-- Endpoint 2,047 LIVE on the link at lane 31. -/
def W.live : List (Fld × Nat) := [(R.EP_INFO_EP_STATE 2047, 2), (R.EP_INFO_LINK 2047, 31), (R.LINK_STATUS_LINK_STATE 31, 4)]
/-- A CTRL request of CTRL port 15. -/
def W.creq : CtrlReq := { tag := 3, write := false, addr := 0x300, words := 1, data := [], purpose := .port 15 }
/-- A marker of logical lane 0. -/
def W.marker : BitVec 130 := BitVec.ofNat 130 (4 * leNat [0x9D, 0x62, 0x4B, 0xB8, 0, 255, 0, 255, 0, 0, 0, 0, 0x62, 0x9D, 0xB4, 0x47])
/-- Levels that no codeword of the code lies near. -/
def W.noise : BitVec 5440 := BitVec.ofNat 5440 ((List.range 16).map fun i => 2 ^ (20 * i)).sum
/-- A HELLO packet: its first payload byte, and ACK. -/
def W.hello (b : Byte) (ack : Nat) : Packet := { ptype := 6, loc := true, tspec := ack, payload := b :: List.replicate 15 0 }
/-- A unit in a state. -/
def W.u (s : State) (u : Nat) (x : UnitState) : State := { s with units := s.units ++ [(u, { state := x })] }
def W.chain (s : State) (n : Nat) (c : Chain) : State := { s with chains := [(n, c)] }
/-- A light head of one driver whose channel `c` is an emitter of class 0. -/
def W.head : LHead := ⟨31, 1, 0, List.replicate 3 0 ++ [0x20] ++ List.replicate 0x41A 0 ++ [0, 0x40, 0, 0x40], false, false⟩
def W.hist (s : State) (v : Nat) (h : Hist) : State := { s with creel := { s.creel with hist := [(v, h)] } }
def W.mark (s : State) (m : Nat) (x : Mark) : State := { s with creel := { s.creel with marks := [(m, x)] } }
/-- A view with three rows of history, ROW_POS 10, 20 and 30. -/
def W.rows (l : List (Fld × Nat)) (v : Nat) : State :=
  let s := W.hist (W.w (l ++ [(R.HIST_ROW_CAP_ROWS v, 4), (R.HIST_STRIDE_BYTES v, 64), (R.WRITE_SEQ_SEQ v, 3)])) v { ring := [(5000, 1)], stored := 3 }
  { s with mem := [(5000 * 65536, 10), (5000 * 65536 + 64, 20), (5000 * 65536 + 128, 30)] }
/-- A command of requester `m` that stands with opcode `op`, with the rights of function 1, Skep running. -/
def W.cmd (s : State) (m op : Nat) (p : List Byte) : State :=
  let s := s.set R.SKEP_STATUS_STATE 0
  { s with skep := { s.skep with cmds := [(m, { req := leBytes 2 op ++ leBytes 2 p.length ++ leBytes 4 7 ++ p, priv := true })] } }
/-- A recipe image of one section, of view 7, with its CRC. -/
def W.imageWith (crc type index : Nat) (body : List Byte) : List Byte :=
  leBytes 4 0x43525645 ++ leBytes 2 1 ++ leBytes 2 1 ++ leBytes 8 (80 + body.length) ++ leBytes 8 9 ++ leBytes 4 crc ++
    List.replicate 36 0 ++ leBytes 2 type ++ leBytes 1 7 ++ leBytes 1 index ++ leBytes 4 body.length ++ leBytes 8 80 ++ body
def W.image (type index : Nat) (body : List Byte) : List Byte := W.imageWith (imgCrc (W.imageWith 0 type index body)) type index body
/-- Slot `j` holds an image. -/
def W.slot (s : State) (j : Nat) (bs : List Byte) : State :=
  { s with
    creel := { s.creel with refs := [(j, [(5000, 1)])] }
    mem := bs.zipIdx.filterMap fun (b, i) => if b = 0 then none else some (5000 * 65536 + i, b) }
def W.cal (s : State) (r : CalRun) : State := { s with cond := { s.cond with run := some r } }
def W.geo (s : State) (r : CalRun) : State := { s with plait := { s.plait with run := some r } }
/-- A head of view 7 with two lines. -/
def W.phead : PHead := { head := 63, desc := 4095, lo := 0, hi := 3, dir := 1, lines := [{ c := 1000, px := [[1], [2], [3], [4]] }, { c := 1200, px := [[1], [2], [3], [4]] }], last := some (1200, 0) }
def W.plait (s : State) (v : Nat) (x : PView) : State := { s with plait := { s.plait with view := [(v, x)] } }
def W.repeat (s : State) (k : Nat) (x : Rep) (c : Ctx) : State := { s with compare := { s.compare with reps := [(k, x)] }, ctxs := [(k, c)] }
def W.ring (s : State) (r : Nat) (q : List WRec) : State := { s with ringQ := [(r, q)] }
def W.pool (s : State) (p : Nat) (x : Pool) : State := { s with withy := { s.withy with pools := [(p, x)] } }
/-- Active window 15 over the last 2 MiB of BAR 2, onto the last 32 segments of device memory, in the host window. -/
def W.win (s : State) (w : Nat) : State :=
  (((((s.set R.HOSTWIN_SEGS_SEGS 1000).set (R.ACT_WIN_CFG_EN 15) 1).set (R.ACT_WIN_CFG_WRITE_EN 15) w).set (R.ACT_WIN_CFG_SIZE 15) 1).set
    (R.ACT_WIN_BAR_BASE 15) 32767).set (R.ACT_WIN_TGT_SEG 15) 786400
def W.dma (s : State) (x : DmaChan) : State := { s with dma := [(15, x)] }
/-- UNIT_SET of unit `u` by requester 20. -/
def W.unitSet (s : State) (u op flags : Nat) : State := W.cmd s 20 0x11 (leBytes 4 u ++ [BitVec.ofNat 8 op, BitVec.ofNat 8 flags] ++ List.replicate 10 0)
/-- The thresholds of R679 at their least. -/
def W.limits : List Byte := leBytes 2 600 ++ leBytes 2 700 ++ leBytes 2 800 ++ leBytes 2 850 ++ leBytes 2 1000
def W.run (s : State) : State := s.set R.SKEP_STATUS_STATE 0
/-- A rail's answer to a read, with its PEC. -/
def W.reply (addr cmd : Nat) (bs : List Byte) : List Byte := bs ++ [BitVec.ofNat 8 (pec8 ([addr * 2, cmd, addr * 2 + 1] ++ bs.map BitVec.toNat))]
/-- A recipe image that slot 63 holds whole, its load at the end. -/
def W.loaded (s : State) (bs : List Byte) (ld : JLoad) : State :=
  { W.slot (W.cmd s 15 0x20 ([63, 0, 0, 0, 0, 0, 0, 0] ++ leBytes 16 80)) 63 bs with jobs := { load := [(63, some ld)] } }

/-- What `State.Waits` and `State.CanRun` say, as a test that can be evaluated. -/
def W.waitsB (s : State) (m op : Nat) : Bool :=
  decide ((s.cmdOf m).req ≠ []) && !(s.cmdOf m).started && decide ((s.cmdOf m).resp = none) && s.skepRuns && reqOp (s.cmdOf m).req == op && !s.skepBehind m
theorem W.waits {s : State} {m op : Nat} (h : W.waitsB s m op = true) : s.Waits m op := by
  simp only [W.waitsB, Bool.and_eq_true, decide_eq_true_eq, Bool.not_eq_true', beq_iff_eq] at h
  exact ⟨h.1.1.1.1.1, h.1.1.1.1.2, h.1.1.1.2, h.1.1.2, h.1.2, h.2⟩
theorem W.canRun {s : State} {m op : Nat} (h : (W.waitsB s m op && decide ((s.cmdOf m).refusal = none)) = true) : s.CanRun m op := by
  simp only [Bool.and_eq_true, decide_eq_true_eq] at h
  exact ⟨W.waits h.1, h.2⟩
theorem W.isOk {α β : Type} [DecidableEq β] {e : Except α β} {b : β} (h : (match e with | .ok x => decide (x = b) | .error _ => false) = true) :
    e = .ok b := by
  cases e with
  | ok x => simpa using h
  | error a => simp at h
theorem W.isError {α β : Type} [DecidableEq α] {e : Except α β} {a : α} (h : (match e with | .ok _ => false | .error x => decide (x = a)) = true) :
    e = .error a := by
  cases e with
  | ok x => simp at h
  | error x => simpa using h


/-! ## Ill-formed commands, one for each check of `wellFormed` -/

theorem test_illformed_register_write : wellFormed (.registerWrite .fn0 6 0 []) = false := by decide
theorem test_illformed_counter_read : wellFormed (.rcCounterRead .fn0 1 false) = false := by decide
theorem test_illformed_lo_capture : wellFormed (.loCaptureRead .fn0 0x8000000 1) = false := by decide
theorem test_illformed_selector_write : wellFormed (.selectorWrite .fn0 2 0) = false := by decide
theorem test_illformed_ssi_bits : wellFormed (.ssiReadDone 7 (2 ^ 128)) = false := by decide
theorem test_illformed_slot : wellFormed (.entryInsertActive .ling 262144) = false := by decide
theorem test_illformed_frame_length :
    wellFormed (.ethFrameRx 3 { da := 0, sa := 0, etherType := 0x88B5, tags := 1, length := 60, fcsOk := true, body := [1, 2] }) = false := by decide
theorem test_illformed_frame_address :
    wellFormed (.ethFrameRx 3 { da := 2 ^ 48, sa := 0, etherType := 0, tags := 0, length := 18, fcsOk := true, body := [] }) = false := by decide
theorem test_illformed_sync_parent : wellFormed (.ptpSyncRx 0 (2 ^ 80) 0 0) = false := by decide
theorem test_illformed_resp_parent : wellFormed (.ptpDelayRespRx 0 (2 ^ 80) 0) = false := by decide
theorem test_illformed_taps : wellFormed (.adaptSettled 31 0 [0]) = false := by decide
theorem test_illformed_margin_count : wellFormed (.marginDone 31 (2 ^ 32)) = false := by decide
theorem test_illformed_responses : wellFormed (.chainFrameDone 7 (List.replicate 33 0) none) = false := by decide
theorem test_illformed_image : wellFormed (.verdictReady (2 ^ 32)) = false := by decide
theorem test_illformed_named_page : wellFormed (.reclaim .fn0 63 [2 ^ 18]) = false := by decide
theorem test_illformed_window_write : wellFormed (.peerWindowWrite (2 ^ 36) [1] false) = false := by decide
theorem test_illformed_window_read : wellFormed (.peerWindowRead 0 1 [⟨memUnits, true⟩]) = false := by decide
theorem test_illformed_part : wellFormed (.bar0BadRequest 0 .memory true 0 4 3 false) = false := by decide
theorem test_illformed_config_offset : wellFormed (.configRequest 0 false 2 15 0) = false := by decide
theorem test_illformed_link_rate : wellFormed (.pcieLinkChange (.up 7 16 false)) = false := by decide
theorem test_illformed_link_width : wellFormed (.pcieLinkChange (.up 5 3 false)) = false := by decide
theorem test_illformed_selftest : wellFormed (.selfTest 20 (2 ^ 32) 0) = false := by decide
theorem test_illformed_block_write : wellFormed (.smbBlockWrite [] true) = false := by decide
theorem test_illformed_block_read : wellFormed (.smbBlockRead 0) = false := by decide
theorem test_illformed_moving_unit : wellFormed (.unitPathCheck [2 ^ 32]) = false := by decide
theorem test_illformed_sensors : wellFormed (.sensorSample []) = false := by decide
theorem test_illformed_scrub_unit : wellFormed (.scrubStep (some ⟨786432 * 2048, true⟩)) = false := by decide
theorem test_illformed_patch_id : wellFormed (.patchStageEnd ⟨2 ^ 24, false, [], []⟩ none) = false := by decide
theorem test_wellformed_register_write : wellFormed (.registerWrite .fn0 8 0 []) = true := by decide

/-! ## Worked examples of the specification, each against the numbers printed there -/

/-- 00, R9 and R12: E lies 5 ticks ahead of P across the wrap; the tag of the example. -/
theorem test_wrap_and_tag : posDiff 0x300 0xFFFFFFFFFFFE00 = 0x500 ∧ mkTag 5 3 2 1000 74565 = 0x143020003E812345 := by decide
/-- 13: the tags of the two repeats at the splice. -/
theorem test_splice_tags : mkTag 5 3 2 8000 133631 = 0x14302001F40209FF ∧ mkTag 6 3 2 8001 133632 = 0x18302001F4120A00 := by decide
/-- 02: one illegal transition counts in ILLEGAL_CNT and not in the position. -/
theorem test_illegal_transition :
    let s := { W.w [(R.ENC_CTRL_EN 2, 1), (R.ENC_CTRL_FILTER 2, 25)] with
      enc := [(2, { ref := true, holdA := true, holdB := true, pinA := true, pinB := true, count := 5 })] }
    (match execFilterAccept 2 true true false s with
     | .next t => decide (t.on (R.ENC_STATUS_ILLEGAL 2) = true ∧ t.get (R.ILLEGAL_CNT_CNT 2) = 1 ∧ (t.encOf 2).count = 5)
     | _ => false) = true := by decide +kernel
/-- 03: the four words of the periodic trigger. -/
theorem test_trigger_words :
    mkEntry 512 2 16 0 0x200 8 true 1 true false = BitVec.ofNat 128 (0x0B080002 * 2 ^ 96 + 0x10 * 2 ^ 64 + 0x02000000 * 2 ^ 32 + 0x200) := by decide
/-- 05: a sample 3,200 ns old with RATE 0x29F16B puts source 3 at 0x0F424083. -/
theorem test_station_extrapolation :
    let e : List Byte := leBytes 1 0 ++ leBytes 1 5 ++ leBytes 2 0 ++ leBytes 8 0xF424000 ++ leBytes 8 1000000 ++ leBytes 4 0x29F16B
    let s := { W.inbox (W.w [(R.RXPOS_CTRL_EN 0, 1), (R.RXPOS_CTRL_SENDER 0, 1), (R.RXPOS_LIMIT_MAX_AGE 0, 1000), (R.RXPOS_LIMIT_MAX_EXTRAP 0, 300),
        (R.SRC_CTRL_EN 3, 1), (R.SRC_CTRL_INPUT 3, 2), (R.SRC_CTRL_NUM 3, 0), (R.STA_CTRL_EN, 1), (R.TIME_STATUS_STATE, 2), (R.TIME_STATUS_STEPPED, 1)])
        ⟨0, 5, leBytes 1 16 ++ leBytes 1 1 ++ leBytes 2 24 ++ leBytes 2 0 ++ leBytes 1 1 ++ leBytes 1 10 ++ List.replicate 16 0 ++ e⟩ with
      timeNs := 1003200, pe := { src := [(3, { loaded := true })] } }
    (match execStaPosRx s with
     | .next t => (match step t with
       | .next u => decide ((u.srcOf 3).pos = 0xF424083)
       | _ => false)
     | _ => false) = true := by decide +kernel
/-- 06: precoding six symbols, and back. -/
theorem test_precoding : precode 0 [0, 1, 2, 3, 3, 1] = [0, 1, 1, 2, 1, 0] ∧ precodeInv 0 [0, 1, 1, 2, 1, 0] = [0, 1, 2, 3, 3, 1] := by decide
/-- The 4-lane hub link of 07, with the bar of group 3 behind it. -/
def W.hub : State := { W.link (W.w [(R.PARTNER_CAP_DET_TRIG 8, 1), (R.PARTNER_CAP_ROLE 8, 1), (R.LINK_STATUS_VER_MAJOR 8, 2), (R.LINK_STATUS_LINK_STATE 8, 4),
    (R.LINK_DELAY_VALID 8, 1), (R.LINK_DELAY_DELAY 8, 98), (R.TRIG_CTRL_GROUP 8 0, 3), (R.EP_PATH_BUDGET 1, 743), (R.EP_INFO_DET_TRIG 1, 1)]) 8
    { trig := [(0, { wait := some ⟨0x2A5, 0, 0xEF42200, 0, 0⟩ })] } with lanes := [(8, { rate := 1 })], groups := [⟨8, 0, 1, 3⟩] }
/-- 07: MIN_LAT is 255 ns; the block's bits [43:0] at 37.25 ns. -/
theorem test_trigger_block : W.hub.minLat 8 0 = 255 ∧
    (match execTrigLaunch 8 0 149 0 W.hub with
     | .next t => t.outs.any fun o => match o with | .trig 8 p 149 => bitsOf p 0 44 == 0x5492A50003 | _ => false
     | _ => false) = true := by decide +kernel
/-- 07: at 193.25 ns the launch is held at 743 quarters of a nanosecond, and DEV_LATE is 14. -/
theorem test_trigger_late :
    (match execTrigLaunch 8 0 773 0 W.hub with
     | .next t => t.on (R.TRIG_STATUS_LATE 8 0) && (t.trigOf 8 0).recs == [⟨0x2A5, 0xEF42200, 14, 0⟩] &&
         t.outs.any fun o => match o with | .trig 8 p 773 => bitsOf p 28 16 == 743 | _ => false
     | _ => false) = true := by decide +kernel
/-- 08: the forecast of one contact-image bar on the 4-lane link. -/
theorem test_bar_forecast :
    let s := { W.w [(R.SD_CTRL_EN 0, 1), (⟨R.SD_BIND 0, 0, 32⟩, 1), (⟨R.SD_FORMAT 0, 0, 32⟩, 0x00032110), (⟨R.SD_GEOM 0, 0, 32⟩, 0x400),
      (⟨R.SD_RATE 0, 0, 32⟩, 0x186A0), (R.LINK_CTRL_WIDTH 8, 2), (R.EP_INFO_LINK 1, 8)] with lanes := [(8, { rate := 1 })] }
    (s.showLoad 0).get (R.SD_LOAD_MBS 0) = 312 ∧ s.descMem 0 = 1024000000 ∧ s.linkCap 8 = 25144 := by decide +kernel
/-- The four heads of two drivers of 09. -/
def W.bar (i : Nat) : LHead := ⟨2 * i, 2, 0, List.replicate 3 0 ++ [0x20] ++ List.replicate 25 0 ++ [4, 0, 0] ++ leBytes 2 60 ++ List.replicate 222 0 ++
  leBytes 2 250 ++ leBytes 2 1000 ++ leBytes 2 100 ++ leBytes 2 2000 ++ List.replicate 760 0 ++
  (List.range 32).flatMap fun c => leBytes 2 (0x4000 + c / 8 * 0x200 + c / 8 * 16), false, false⟩
def W.light : State := W.chain (W.w [(R.LING_CH_STATE_DRIVERS 0, 8), (R.CH_BUDGET_BUDGET 0, 2500), (R.CH_TIMING_PRE 0, 50), (R.CH_BURST_ROW_GAP 0, 10)]) 0
  { heads := (List.range 4).map W.bar, codes := (List.range 8).flatMap fun d => (List.range 16).map fun c => (dKey d 0 c, 49152) }
/-- 09: T is 375 and the span of four rows 1,425 event clocks. -/
theorem test_bar_light_span : W.light.leadClks 0 + 300 + 10 = 375 ∧ W.light.burstSpan 0 4 300 = 1425 := by decide +kernel
/-- 10: the ring and stage of view 0, and the history quota. -/
theorem test_history_of_view : ((W.w [(R.HIST_CFG_SEGS 0, 342000), (R.STAGE_CFG_SEGS 0, 1819), (R.FREE_HIST_SEGS, 686080), (R.FREE_WORK_SEGS, 16384)]).histAlloc 0
      49564).any (fun t => t.get (R.HIST_STRIDE_BYTES 0) == 49664 && t.get (R.HIST_ROW_CAP_ROWS 0) == 451298 && t.get (R.STAGE_ROW_CAP_ROWS 0) == 2400) = true ∧
    (W.w [(R.REF_QUOTA_SEGS, 65536), (R.WORK_QUOTA_SEGS, 16384)]).histQuota = 686080 := by decide +kernel
/-- 11: DARK 1,024 and GAIN 1.25 take 51,200 to 62,720. -/
theorem test_dark_gain : darkGain 0x0040000050000400 51200 = (62720, false, false) := by decide
/-- 14: the gate distance check, kept and failed. -/
theorem test_gate_margin :
    let s := W.w [(R.VMAX_TICKS 7, 200000), (R.TRK_LIMIT_A_LIM 7, 2048)]
    let g : Img := listImg (W.imageWith 0 1 0 (leBytes 2 2000 ++ [10, 1] ++ leBytes 4 1024000 ++ leBytes 4 0 ++ leBytes 4 512))
    s.gateMargin g 7 ⟨180000, 32, true, false, 8000, 0⟩ = some 175672 ∧ s.gateMargin g 7 ⟨5000, 32, true, false, 8000, 5000⟩ = some (-328) := by decide +kernel
/-- 17: descriptor 511 ends at the end of device memory; descriptor 512 lies beyond it. -/
theorem test_descriptor_beyond_memory :
    let d := fun dst : Nat => (dmaParse (leBytes 8 0 ++ leBytes 8 dst ++ leBytes 4 0x200000 ++ leBytes 4 0x10 ++ leBytes 8 0x1000004000)).bad
    d 0xBFFE00000 = false ∧ d 0xC00000000 = true := by decide +kernel
/-- 19: WARN_ON at 100.0 °C on sensor 9. -/
theorem test_warn_param :
    (match execSensorSample ((List.range 16).map fun i => if i = 9 then 1000 else 500) (W.run (W.w [(R.SWD_CH_CFG_EN 5, 1), (R.EVT_THERM_SEL, 0x105)])) with
     | .next t => (t.fifoOf 5).map (fun r => r.param) == [0xE00649]
     | _ => false) = true := by decide +kernel
/-- 20: the subsystem bytes are written, ORIGIN becomes USER and CAL_WRITE answers 6. -/
theorem test_subsystem_ids :
    let p := leBytes 4 0x28 ++ leBytes 4 6 ++ leBytes 8 0 ++ [0x3C, 0x1F, 1, 1, 2, 1]
    (match execCalWrite 16 none (W.cmd (W.w [(R.TH_MAX_TEMP, 612)]) 16 0x31 p) with
     | .next t => (match execCalWrite 16 none t with
       | .next t => t.nvBytes 0x28 6 == [0x3C, 0x1F, 1, 1, 2, 1] && t.calOrigin 0 == 2 && (t.cmdOf 16).resp == some (0, [6, 0, 0, 0])
       | _ => false)
     | _ => false) = true := by decide +kernel
/-- 21: lane 0 starts at 2,000 mW under a budget of 50 W while training runs. -/
theorem test_lane_forecast :
    let s := W.run (W.w [(R.PWR_BUDGET_MW, 50000)])
    let s := { s with boot := { training := true }, skep := { s.skep with waiting := [(.unit (laneUnit 0), 0), (.unit (laneUnit 1), 0)] },
                      units := [(laneUnit 0, { state := .starting }), (laneUnit 1, { state := .starting })] }
    s.forecast = 46000 ∧ (match execSchedulerTick s with | .next t => t.forecast == 48000 && t.skep.waiting.length == 1 | _ => false) = true := by decide +kernel
/-- 12: the map entry of head 3, pixel 0. -/
theorem test_map_entry : ({ W.w [] with plait := { map := [(5, 0x02118200)] } } : State).mapPixels 0 0 6 = [⟨5, 4482 * 256, 0⟩] := by decide +kernel
/-- R321: the parity of a slot is odd. -/
theorem test_slot_parity : cmdSlot 2 0 0 = 0x20000000#32 ∧ cmdSlot 0 0 0 = 0x80000000#32 := by decide

/-! ## Hypotheses: for every statement, states and operands that meet them -/

theorem witness_StepRunsFront :
  (∃ (s : State) (c : Instr) (cs : List Instr), s.pending = c :: cs) ∧
  (∃ (s : State), s.pending = []) :=
  ⟨⟨{ W.w [] with pending := [.summary 0] }, .summary 0, [],
    by decide +kernel⟩,
  ⟨W.w [],
    by decide +kernel⟩⟩

theorem witness_FootprintOfEveryCommand :
  (∃ (c : Instr) (s : State) (t : State) (p : Part), exec c s = .next t ∧ p ∉ footprint c) :=
  ⟨.thermTrip, W.w [], { W.w [] with therm := { tripFlag := true, tripping := true }, outs := [.thermTrip] }, .memory,
    rfl, by decide +kernel⟩

theorem witness_StepKeepsInvariant :
  (∃ (s : State) (t : State), step s = .next t) :=
  ⟨{ W.w [] with pending := [.thermTrip] }, { W.w [] with therm := { tripFlag := true, tripping := true }, outs := [.thermTrip] },
    rfl⟩

theorem witness_PositionOrder :
  (∃ (a : Nat) (b : Nat), a < 2 ^ 56 ∧ b < 2 ^ 56) :=
  ⟨2 ^ 56 - 1, 0,
    by decide +kernel⟩

theorem witness_PortRequestTaken :
  (∃ (s : State) (who : Who) (p : Fin 8) (c : Instr), s.hears who = true ∧ c ∈ [.portInsert who p, .portRemove who p] ∧ (who ≠ .fn0 ∨ p.val < 6) ∧ s.on (R.PORT_RESULT_DONE p) = false) ∧
  (∃ (s : State) (p : Fin 6) (a : Nat), s.hears .fn0 = true ∧ a ∈ [R.PORT_W_0 p, R.PORT_W_1 p, R.PORT_W_2 p, R.PORT_W_3 p]) ∧
  (∃ (s : State), s.hears .fn0 = true) :=
  ⟨⟨W.w [(R.PORT_RESULT_DONE 7, 0)], .fn1, 7, .portInsert .fn1 7,
    by decide +kernel⟩,
  ⟨W.w [], 5, R.PORT_W_2 5,
    by decide +kernel⟩,
  ⟨W.w [],
    by decide +kernel⟩⟩

theorem witness_FabricCommands :
  (∃ (s : State) (who : Who) (c : Fin 256), s.hears who = true ∧ s.mayConfig who c = true) ∧
  (∃ (s : State) (who : Who) (c : Fin 256), s.hears who = true ∧ s.mayConfig who c = false) ∧
  (∃ (s : State) (who : Who) (v : Word), s.hears who = true ∧ s.mayPublish who (v.toNat % 256) = true) ∧
  (∃ (s : State) (who : Who) (v : Word), s.hears who = true ∧ s.mayPublish who (v.toNat % 256) = false) :=
  ⟨⟨W.w [], .fn1, 255,
    by decide +kernel⟩,
  ⟨W.w [], .fn0, 48,
    by decide +kernel⟩,
  ⟨W.w [], .fn0, 0x1FF,
    by decide +kernel⟩,
  ⟨W.w [], .fn0, 0x130,
    by decide +kernel⟩⟩

theorem witness_EncoderCommands :
  (∃ (s : State) (n : Fin 8), s.on (R.ENC_CTRL_EN n) = false) ∧
  (∃ (s : State) (n : Fin 8), s.on (R.ENC_CTRL_EN n) = true ∧ (s.encOf n).ref = true) ∧
  (∃ (s : State) (who : Who) (n : Fin 8), s.hears who = true ∧ s.get (R.ENC_CTRL_INDEX_MODE n) = 2) ∧
  (∃ (s : State) (who : Who) (n : Fin 8), s.hears who = true ∧ s.get (R.ENC_CTRL_INDEX_MODE n) ≠ 2) ∧
  (∃ (s : State) (who : Who), s.hears who = true) ∧
  (∃ (s : State) (n : Fin 8), s.on (R.ENC_CTRL_EN n) = true) ∧
  (∃ (s : State) (n : Fin 8), s.on (R.ENC_CTRL_EN n) = true) ∧
  (∃ (s : State) (who : Who) (n : Fin 8) (v : Word), s.hears who = true ∧ s.on (R.ENC_CTRL_EN n) = false ∧ bitAt v.toNat 0 = true ∧ bitsOf v.toNat 1 2 ≠ 3 ∧ bitsOf v.toNat 4 2 ≠ 3 ∧ s.unitState (encUnit n) = .off) ∧
  (∃ (s : State) (who : Who) (n : Fin 8) (v : Word), s.hears who = true ∧ s.on (R.ENC_CTRL_EN n) = true ∧ bitAt v.toNat 0 = true ∧ bitsOf v.toNat 4 2 = 3 ∧ bitAt v.toNat 6 = false) :=
  ⟨⟨W.w [], 7,
    by decide +kernel⟩,
  ⟨{ W.w [(R.ENC_CTRL_EN 7, 1)] with enc := [(7, { ref := true })] }, 7,
    by decide +kernel⟩,
  ⟨W.w [(R.ENC_CTRL_INDEX_MODE 7, 2)], .skep, 7,
    by decide +kernel⟩,
  ⟨W.w [], .skep, 7,
    by decide +kernel⟩,
  ⟨W.w [], .fn1,
    by decide +kernel⟩,
  ⟨{ W.w [(R.ENC_CTRL_EN 7, 1)] with enc := [(7, { ref := true, winNet := -3, winEdges := 5 })] }, 7,
    by decide +kernel⟩,
  ⟨W.w [(R.ENC_CTRL_EN 7, 1)], 7,
    by decide +kernel⟩,
  ⟨W.w [], .skep, 7, 0x25,
    by decide +kernel⟩,
  ⟨W.w [(R.ENC_CTRL_EN 7, 1)], .skep, 7, 0x31,
    by decide +kernel⟩⟩

theorem witness_SsiCommands :
  (∃ (s : State) (who : Who) (v : Word), s.hears who = true ∧ bitAt v.toNat 3 = true ∧ bitsOf v.toNat 16 3 = 0) ∧
  (∃ (s : State) (who : Who) (m : Fin 4) (v : Word), s.hears who = true ∧ bitAt v.toNat 3 = false ∧ bitAt v.toNat 0 = true ∧ s.on (R.SSI_CTRL_EN m) = false) ∧
  (∃ (s : State) (m : Fin 4), s.on (R.SSI_CTRL_EN m) = true ∧ s.on (R.SSI_CTRL_TRIGGERED m) = false) ∧
  (∃ (s : State) (m : Fin 4), s.on (R.SSI_CTRL_EN m) = true ∧ (s.ssiOf m).due = true ∧ (s.ssiOf m).reading = false ∧ (s.ssiOf m).monoEnd ≤ s.clk) ∧
  (∃ (s : State) (m : Fin 4), s.on (R.SSI_CTRL_EN m) = true ∧ (s.ssiOf m).due = true ∧ (s.ssiOf m).reading = false ∧ (s.ssiOf m).monoEnd ≤ s.clk) ∧
  (∃ (s : State) (m : Fin 4) (bits : Nat), (s.ssiOf m).reading = true ∧ s.on (R.SSI_CTRL_ERR_BIT_EN m) = true ∧ bitAt bits 0 = true) ∧
  (∃ (s : State) (m : Fin 4), (s.ssiOf m).reading = true ∧ s.on (R.SSI_CTRL_ERR_BIT_EN m) = false ∧ s.on (R.SSI_CTRL_GRAY m) = false ∧ (s.ssiOf m).ref = none) :=
  ⟨⟨W.w [], .skep, 8,
    by decide +kernel⟩,
  ⟨W.w [], .skep, 3, 0x1901,
    by decide +kernel⟩,
  ⟨W.w [(R.SSI_CTRL_EN 3, 1)], 3,
    by decide +kernel⟩,
  ⟨{ W.w [(R.SSI_CTRL_EN 3, 1)] with clk := 9, ssi := [(3, { due := true, monoEnd := 9 })] }, 3,
    by decide +kernel⟩,
  ⟨{ W.w [(R.SSI_CTRL_EN 3, 1)] with clk := 9, ssi := [(3, { due := true, monoEnd := 9 })] }, 3,
    by decide +kernel⟩,
  ⟨{ W.w [(R.SSI_CTRL_EN 3, 1), (R.SSI_CTRL_ERR_BIT_EN 3, 1)] with ssi := [(3, { reading := true })] }, 3, 1,
    by decide +kernel⟩,
  ⟨{ W.w [(R.SSI_CTRL_EN 3, 1), (R.SSI_CTRL_WORD_BITS 3, 25)] with ssi := [(3, { reading := true })] }, 3,
    by decide +kernel⟩⟩

theorem witness_SwitchCommands :
  (∃ (s : State) (k : Fin 32) (p : Bool), s.on (R.SW_CTRL_EN k) = true ∧ s.on (R.SW_CTRL_MODE k) = true ∧ (s.swOf k).timing = false ∧ s.swLevel k p ≠ s.on (R.SW_STATUS_LEVEL k)) ∧
  (∃ (s : State) (k : Fin 32), s.on (R.SW_CTRL_EN k) = true ∧ s.on (R.SW_CTRL_MODE k) = false) ∧
  (∃ (s : State) (k : Fin 32), (s.swOf k).timing = true ∧ (s.swOf k).raw ≠ s.on (R.SW_STATUS_LEVEL k)) ∧
  (∃ (s : State) (k : Fin 32), (s.swOf k).timing = true ∧ (s.swOf k).raw = s.on (R.SW_STATUS_LEVEL k)) ∧
  (∃ (s : State) (who : Who) (v : Word), s.hears who = true ∧ bitAt v.toNat 0 = true) ∧
  (∃ (s : State) (who : Who) (v : Word), s.hears who = true ∧ bitAt v.toNat 0 = false) :=
  ⟨⟨W.w [(R.SW_CTRL_EN 31, 1), (R.SW_CTRL_MODE 31, 1)], 31, true,
    by decide +kernel⟩,
  ⟨W.w [(R.SW_CTRL_EN 31, 1)], 31,
    by decide +kernel⟩,
  ⟨{ W.w [(R.SW_CTRL_EN 31, 1)] with sw := [(31, { raw := true, timing := true })] }, 31,
    by decide +kernel⟩,
  ⟨{ W.w [(R.SW_CTRL_EN 31, 1)] with sw := [(31, { timing := true })] }, 31,
    by decide +kernel⟩,
  ⟨W.w [], .skep, 0x7F,
    by decide +kernel⟩,
  ⟨W.w [], .skep, 0,
    by decide +kernel⟩⟩

theorem witness_SourceAndViewCommands :
  (∃ (s : State) (who : Who) (v : Word), s.hears who = true ∧ (bitsOf v.toNat 1 2 = 3 ∨ (bitsOf v.toNat 1 2 = 1 ∧ 4 ≤ bitsOf v.toNat 3 3))) ∧
  (∃ (s : State) (who : Who) (n : Fin 8) (v : Word), s.hears who = true ∧ (¬ (bitsOf v.toNat 1 2 = 3 ∨ (bitsOf v.toNat 1 2 = 1 ∧ 4 ≤ bitsOf v.toNat 3 3))) ∧ s.on (R.SRC_CTRL_EN n) = false) ∧
  (∃ (s : State) (who : Who) (n : Fin 8) (v : Word), s.hears who = true ∧ (¬ (bitsOf v.toNat 1 2 = 3 ∨ (bitsOf v.toNat 1 2 = 1 ∧ 4 ≤ bitsOf v.toNat 3 3))) ∧ s.on (R.SRC_CTRL_EN n) = true ∧ bitAt v.toNat 0 = true ∧ bitsOf v.toNat 1 7 ≠ bitsOf (s.reg (R.SRC_CTRL n)).toNat 1 7) ∧
  (∃ (s : State) (n : Fin 8), s.on (R.SRC_CTRL_EN n) = true ∧ s.get (R.SRC_CTRL_INPUT n) = 0 ∧ (s.srcOf n).loaded = false) ∧
  (∃ (s : State) (n : Fin 8) (p : Int), s.on (R.SRC_CTRL_EN n) = true ∧ s.get (R.SRC_CTRL_INPUT n) ≠ 0 ∧ (s.srcOf n).loaded = false ∧ s.inputPos n = some p) ∧
  (∃ (s : State) (n : Fin 8), s.on (R.SRC_CTRL_EN n) = true ∧ s.get (R.SRC_CTRL_INPUT n) ≠ 0 ∧ s.get (R.SRC_STALE_READS n) ≤ (s.srcOf n).miss) ∧
  (∃ (s : State) (who : Who) (n : Fin 8), s.hears who = true ∧ s.unitOff (viewUnit n) = true) ∧
  (∃ (s : State) (who : Who) (n : Fin 8), s.hears who = true ∧ s.unitOff (viewUnit n) = true) ∧
  (∃ (s : State) (who : Who) (n : Fin 8), s.hears who = true ∧ s.unitOff (viewUnit n) = true) ∧
  (∃ (s : State) (who : Who) (n : Fin 8), s.hears who = true ∧ s.unitOff (viewUnit n) = true) ∧
  (∃ (s : State) (who : Who) (n : Fin 8), s.hears who = true ∧ s.unitOff (viewUnit n) = false) ∧
  (∃ (s : State) (who : Who) (p : Fin 8), s.hears who = true ∧ (who ≠ .fn0 ∨ p.val < 6) ∧ s.on (R.PORT_RESULT_DONE p) = true) ∧
  (∃ (s : State) (who : Who) (p : Fin 8), s.hears who = true ∧ (who ≠ .fn0 ∨ p.val < 6) ∧ s.on (R.PORT_RESULT_DONE p) = true) ∧
  (∃ (s : State) (who : Who) (p : Fin 8), s.hears who = true ∧ (who ≠ .fn0 ∨ p.val < 6) ∧ s.on (R.PORT_RESULT_DONE p) = false) ∧
  (∃ (s : State) (who : Who) (p : Fin 8), s.hears who = true ∧ (who ≠ .fn0 ∨ p.val < 6) ∧ s.on (R.PORT_RESULT_DONE p) = false) ∧
  (∃ (s : State) (p : Fin 8), s.hears .fn0 = true ∧ 6 ≤ p.val) ∧
  (∃ (s : State) (p : Fin 8), s.hears .fn0 = true ∧ 6 ≤ p.val) :=
  ⟨⟨W.w [], .skep, 6,
    by decide +kernel⟩,
  ⟨W.w [], .skep, 7, 0x81,
    by decide +kernel⟩,
  ⟨W.w [(R.SRC_CTRL_EN 7, 1)], .skep, 7, 3,
    by decide +kernel⟩,
  ⟨W.w [(R.SRC_CTRL_EN 7, 1)], 7,
    by decide +kernel⟩,
  ⟨W.w [(R.SRC_CTRL_EN 7, 1), (R.SRC_CTRL_INPUT 7, 1)], 7, 0,
    by decide +kernel⟩,
  ⟨{ W.w [(R.SRC_CTRL_EN 3, 1), (R.SRC_CTRL_INPUT 3, 1), (R.SRC_STALE_READS 3, 2)] with pe := { src := [(3, { miss := 2, loaded := true })] } }, 3,
    by decide +kernel⟩,
  ⟨W.w [], .skep, 7,
    by decide +kernel⟩,
  ⟨W.w [], .skep, 7,
    by decide +kernel⟩,
  ⟨W.w [], .skep, 7,
    by decide +kernel⟩,
  ⟨W.w [], .skep, 7,
    by decide +kernel⟩,
  ⟨{ W.w [] with units := [(viewUnit 7, { state := .fault })] }, .skep, 7,
    by decide +kernel⟩,
  ⟨W.w [], .fn0, 5,
    by decide +kernel⟩,
  ⟨W.w [], .fn1, 7,
    by decide +kernel⟩,
  ⟨W.w [(R.PORT_RESULT_DONE 7, 0)], .fn1, 7,
    by decide +kernel⟩,
  ⟨W.w [(R.PORT_RESULT_DONE 7, 0)], .fn1, 7,
    by decide +kernel⟩,
  ⟨W.w [], 6,
    by decide +kernel⟩,
  ⟨W.w [], 6,
    by decide +kernel⟩⟩

theorem witness_TableCommands :
  (∃ (s : State) (c : Client) (slot : Nat) (i : Nat) (r : PReq) (q : List PReq), s.peWaiting c = r :: q ∧ r.insert = true ∧ s.peTurn = some (clientCode c) ∧ (c = .skep → r.tag < 2 ^ 20) ∧ s.badEntry r.entry = false ∧ s.denied (clientCode c) r.entry = false ∧ isLate r.entry (s.tlPos (eTl r.entry)) = false ∧ (8 ≤ clientCode c → s.get R.PE_CTRL_RESERVE < s.freeSlots) ∧ s.pickSlot slot = some i) ∧
  (∃ (s : State) (p : Fin 8) (slot : Nat) (i : Nat) (r : PReq) (q : List PReq), s.peWaiting (.port p) = r :: q ∧ r.insert = true ∧ s.peTurn = some (8 + p.val) ∧ s.badEntry r.entry = false ∧ s.denied (8 + p.val) r.entry = false ∧ isLate r.entry (s.tlPos (eTl r.entry)) = false ∧ s.get R.PE_CTRL_RESERVE < s.freeSlots ∧ s.pickSlot slot = some i ∧ i < 262144) ∧
  (∃ (s : State) (p : Fin 8) (r : PReq) (q : List PReq), s.peWaiting (.port p) = r :: q ∧ r.insert = true ∧ s.peTurn = some (8 + p.val) ∧ s.badEntry r.entry = true) ∧
  (∃ (s : State) (c : Client) (r : PReq) (q : List PReq) (i : Nat), s.peWaiting c = r :: q ∧ r.insert = false ∧ s.peTurn = some (clientCode c) ∧ (c = .skep → r.tag < 2 ^ 20) ∧ s.findHandle r.handle = some i ∧ (isFn0Port (clientCode c) = true → eGuarded (s.slotOf i).entry = false ∧ s.guarded (eChannel (s.slotOf i).entry) = false)) ∧
  (∃ (s : State) (p : Fin 8) (r : PReq) (q : List PReq), s.peWaiting (.port p) = r :: q ∧ r.insert = false ∧ s.peTurn = some (8 + p.val) ∧ s.findHandle r.handle = none) ∧
  (∃ (s : State) (d : Due) (c : Instr), s.nextDue = some d ∧ c = (if d.deferred then .entryDeferredFire else .entryCrossed) ∧ (s.slotOf d.slot).entry ≠ 0) ∧
  (∃ (s : State) (c : Nat) (r : Req), s.nextGrant = some (c, r)) :=
  ⟨⟨{ W.w [(R.PORT_RESULT_DONE 7, 0)] with pe := { queue := [(15, [⟨true, W.entry, 0, 0⟩])] } }, .port 7, 9, 9, ⟨true, W.entry, 0, 0⟩, [],
    by decide +kernel, by decide +kernel, by decide +kernel, (fun h => by cases h), by decide +kernel, by decide +kernel, by decide +kernel, (fun _ => by decide +kernel), by decide +kernel⟩,
  ⟨{ W.w [(R.PORT_RESULT_DONE 7, 0)] with pe := { queue := [(15, [⟨true, W.entry, 0, 0⟩])] } }, 7, 9, 9, ⟨true, W.entry, 0, 0⟩, [],
    by decide +kernel⟩,
  ⟨{ W.w [(R.PORT_RESULT_DONE 7, 0)] with pe := { queue := [(15, [⟨true, 0, 0, 0⟩])] } }, 7, ⟨true, 0, 0, 0⟩, [],
    by decide +kernel⟩,
  ⟨{ W.w [(R.PORT_RESULT_DONE 7, 0), (R.PE_USED_USED, 1)] with pe := { slots := [(9, { entry := W.entry })], queue := [(15, [⟨false, 0, 9, 0⟩])] } }, .port 7, ⟨false, 0, 9, 0⟩, [], 9,
    by decide +kernel, by decide +kernel, by decide +kernel, (fun h => by cases h), by decide +kernel, (fun h => absurd h (by decide +kernel))⟩,
  ⟨{ W.w [(R.PORT_RESULT_DONE 7, 0)] with pe := { queue := [(15, [⟨false, 0, 9, 0⟩])] } }, 7, ⟨false, 0, 9, 0⟩, [],
    by decide +kernel⟩,
  ⟨{ W.w [(R.PE_USED_USED, 1), (R.SRC_CTRL_EN 0, 1)] with pe := { slots := [(9, { entry := W.entry })], due := [⟨9, true, false, true, 0, 0⟩] } }, ⟨9, true, false, true, 0, 0⟩, .entryDeferredFire,
    by decide +kernel⟩,
  ⟨{ W.w [] with clk := 1, swd := { fifo := [(5, [⟨5, 1, 0, 0, 0, 0, false, none, 0, []⟩])] } }, 5, ⟨5, 1, 0, 0, 0, 0, false, none, 0, []⟩,
    by decide +kernel⟩⟩

theorem witness_OutputCommands :
  (∃ (s : State) (k : Fin 64), s.on (R.OUT_STATUS_LEVEL k) = true) ∧
  (∃ (s : State) (k : Fin 64), s.on (R.OUT_STATUS_LEVEL k) = false) ∧
  (∃ (s : State) (who : Who) (k : Fin 64) (v : Word), s.hears who = true ∧ s.on (R.OUT_CTRL_EN k) = false ∧ bitAt v.toNat 0 = true ∧ s.pinWatched (bitsOf v.toNat 1 6) = false) ∧
  (∃ (s : State) (who : Who) (k : Fin 64) (v : Word), s.hears who = true ∧ s.on (R.OUT_CTRL_EN k) = false ∧ bitAt v.toNat 0 = true ∧ s.pinWatched (bitsOf v.toNat 1 6) = true) ∧
  (∃ (s : State) (who : Who) (k : Fin 64) (v : Word), s.hears who = true ∧ s.on (R.OUT_CTRL_EN k) = true ∧ bitAt v.toNat 0 = false) ∧
  (∃ (s : State) (bank : Fin 4), Tbl.get false s.swd.bankDown bank = false) :=
  ⟨⟨W.w [(R.OUT_CTRL_EN 63, 1), (R.OUT_STATUS_LEVEL 63, 1)], 63,
    by decide +kernel⟩,
  ⟨W.w [], 63,
    by decide +kernel⟩,
  ⟨W.w [], .skep, 63, 0x7F,
    by decide +kernel⟩,
  ⟨W.w [(R.SW_CTRL_EN 3, 1), (R.SW_CTRL_GPIO 3, 63)], .skep, 63, 0x7F,
    by decide +kernel⟩,
  ⟨W.w [(R.OUT_CTRL_EN 63, 1), (R.OUT_CTRL_GPIO 63, 63)], .skep, 63, 0,
    by decide +kernel⟩,
  ⟨W.w [(R.OUT_CTRL_EN 63, 1), (R.OUT_CTRL_GPIO 63, 63)], 3,
    by decide +kernel⟩⟩

theorem witness_InterruptCommands :
  (∃ (s : State) (who : Who), s.hears who = true) ∧
  (∃ (s : State) (who : Who), s.hears who = true) ∧
  (∃ (s : State) (who : Who), s.hears who = true) :=
  ⟨⟨W.w [], .fn0,
    by decide +kernel⟩,
  ⟨W.w [], .fn1,
    by decide +kernel⟩,
  ⟨W.w [], .skep,
    by decide +kernel⟩⟩

theorem witness_AccessCommands :
  (∃ (s : State) (c : Instr) (who : Who), sender c = some who ∧ s.boot.down = true) ∧
  (∃ (s : State) (c : Instr) (who : Who) (f : Nat), sender c = some who ∧ fnOf who = some f ∧ s.boot.down = false ∧ s.memAccess f = false) ∧
  (∃ (s : State) (c : Instr) (who : Who) (f : Nat), sender c = some who ∧ fnOf who = some f ∧ s.boot.down = false ∧ s.memAccess f = true) ∧
  (∃ (s : State) (a : Nat) (v : Word) (r : RegRow), s.boot.down = false ∧ placeOf .skep a = .reg a ∧ canon .skep a = a ∧ hidden .skep a = false ∧ s.linkShadow a = false ∧ s.writeSpecial .skep a v = none ∧ isSelector a = false ∧ regRow? a = some r) ∧
  (∃ (s : State) (who : Who) (a : Nat) (ws : List Word), s.hears who = true ∧ ws ≠ [] ∧ (who = .skep ∨ inBlock a (ws.length + 1) = true)) ∧
  (∃ (s : State) (who : Who) (a f : Nat) (ws : List Word), s.hears who = true ∧ fnOf who = some f ∧ ws ≠ [] ∧ inBlock a (ws.length + 1) = false) ∧
  (∃ (s : State) (a : Nat), s.boot.down = false ∧ placeOf .skep a = .reg a ∧ canon .skep a = a ∧ hidden .skep a = false ∧ blockAt 32 0x100000 0x8000 a = none ∧ rcBits a ≠ 0) ∧
  (∃ (s : State), s.boot.down = false) ∧
  (∃ (s : State) (a n : Nat), s.boot.down = false ∧ n ≠ 1 ∧ ¬ (0xC00000 ≤ a ∧ a < 0x1000000 ∧ a % 16 = 0 ∧ n = 4)) ∧
  (∃ (s : State) (i : Nat), s.boot.down = false ∧ i < 262144) ∧
  (∃ (s : State) (who : Who), s.hears who = true ∧ who ≠ .fn1) ∧
  (∃ (s : State), s.hears .fn1 = true ∧ s.on R.IND_STATUS_DONE = true ∧ 0x30000 ≤ s.get R.IND_OFFSET_OFFSET * 4 ∧ s.get R.IND_OFFSET_OFFSET * 4 < 0x1600000) ∧
  (∃ (s : State), s.hears .fn1 = true ∧ s.on R.IND_STATUS_DONE = false) ∧
  (∃ (s : State) (d : Option Word), s.ind = some d) ∧
  (∃ (s : State), s.ind = none) :=
  ⟨⟨{ W.w [] with boot := { down := true } }, .swdPub .fn1 5, .fn1,
    by decide +kernel⟩,
  ⟨W.w [(Cfg.PM_STATE 1, 3)], .swdPub .fn1 5, .fn1, 1,
    by decide +kernel⟩,
  ⟨W.w [(R.PCIE_LINK_L1, 1)], .swdPub .fn1 5, .fn1, 1,
    by decide +kernel⟩,
  ⟨W.w [], 0x400, 0x12345678, ⟨0x400, 4, 0x4, 1, 0x0, 0x0, 0xFFFFFFFF, 0x0, 0x0, 0x0⟩,
    by decide +kernel⟩,
  ⟨W.w [], .fn1, 0x400, [1],
    by decide +kernel⟩,
  ⟨W.w [], .fn1, 0x43C, 1, [1],
    by decide +kernel⟩,
  ⟨W.w [], R.WRITE_REJ_CNT,
    by decide +kernel⟩,
  ⟨W.w [],
    by decide +kernel⟩,
  ⟨W.w [], 0xFFFFF0, 3,
    by decide +kernel⟩,
  ⟨W.w [], 262143,
    by decide +kernel⟩,
  ⟨W.w [], .fn0,
    by decide +kernel⟩,
  ⟨W.w [(R.IND_STATUS_DONE, 1), (R.IND_OFFSET_OFFSET, 0xC000)],
    by decide +kernel⟩,
  ⟨W.w [(R.IND_STATUS_DONE, 0)],
    by decide +kernel⟩,
  ⟨{ W.w [(R.IND_STATUS_DONE, 0)] with ind := some (some 7) }, some 7,
    by decide +kernel⟩,
  ⟨W.w [],
    by decide +kernel⟩⟩

theorem witness_TimeCommands :
  (∃ (s : State) (who : Who), s.hears who = true ∧ who ≠ .fn0 ∧ (s.ptpMode = false ∨ who = .skep)) ∧
  (∃ (s : State) (who : Who), s.hears who = true ∧ who ≠ .fn0 ∧ s.ptpMode = false) ∧
  (∃ (s : State) (who : Who), s.hears who = true ∧ who ≠ .fn0) ∧
  (∃ (s : State) (who : Who), s.hears who = true ∧ who ≠ .fn0) ∧
  (∃ (s : State), s.hears .fn0 = true) ∧
  (∃ (s : State), s.hears .fn0 = true) ∧
  (∃ (s : State), s.hears .fn0 = true) ∧
  (∃ (s : State), s.hears .fn0 = true) :=
  ⟨⟨W.w [], .fn1,
    by decide +kernel⟩,
  ⟨W.w [], .fn1,
    by decide +kernel⟩,
  ⟨W.w [], .fn1,
    by decide +kernel⟩,
  ⟨W.w [], .fn1,
    by decide +kernel⟩,
  ⟨W.w [],
    by decide +kernel⟩,
  ⟨W.w [],
    by decide +kernel⟩,
  ⟨W.w [],
    by decide +kernel⟩,
  ⟨W.w [],
    by decide +kernel⟩⟩

theorem witness_EthernetCommands :
  (∃ (s : State) (who : Who) (p : Fin 4) (v : Word), s.hears who = true ∧ who ≠ .fn0 ∧ bitAt v.toNat 0 = true ∧ s.ethMayEnable p (bitsOf v.toNat 1 1) = true) ∧
  (∃ (s : State) (who : Who) (p : Fin 4) (v : Word), s.hears who = true ∧ who ≠ .fn0 ∧ bitAt v.toNat 0 = true ∧ s.ethMayEnable p (bitsOf v.toNat 1 1) = false ∧ s.on (R.ETH_CTRL_EN p) = false) ∧
  (∃ (s : State) (who : Who) (v : Word), s.hears who = true ∧ who ≠ .fn0 ∧ bitAt v.toNat 0 = false) ∧
  (∃ (s : State) (p : Fin 4), s.on (R.ETH_CTRL_EN p) = true) ∧
  (∃ (s : State) (p : Fin 4) (f : EthFrame), s.portUp p = true ∧ s.get (R.LANE_CTRL_LOOP (28 + p)) = 0 ∧ f.fcsOk = false) ∧
  (∃ (s : State) (p : Fin 4) (f : EthFrame), s.portUp p = true ∧ s.get (R.LANE_CTRL_LOOP (28 + p)) = 0 ∧ f.fcsOk = true ∧ (f.length < 64 ∨ 1 < f.tags ∨ (f.etherType ≠ 0x88F7 ∧ f.etherType ≠ 0x88B5))) ∧
  (∃ (s : State) (p : Fin 4) (f : EthFrame), s.portUp p = true ∧ s.get (R.LANE_CTRL_LOOP (28 + p)) = 0 ∧ s.on R.STA_CTRL_EN = true ∧ f.fcsOk = true ∧ 64 ≤ f.length ∧ f.length ≤ 1518 ∧ f.tags = 0 ∧ f.da = s.staGroup ∧ f.etherType = 0x88B5 ∧ leAt f.body 0 1 / 16 = 1 ∧ staStation f.body = s.get R.STA_CTRL_STATION_ID ∧ staLengthOk f.body = true ∧ staSender f.body ≠ s.get R.STA_CTRL_SENDER ∧ 1 ≤ staType f.body ∧ staType f.body ≤ 5) ∧
  (∃ (s : State) (p : Fin 4), s.laneLooped (28 + p) = true) :=
  ⟨⟨W.w [(R.ETH_MAC_LO_MAC 3, 2), (R.GRP_CFG_FAMILY 7, 1)], .fn1, 3, 1,
    by decide +kernel⟩,
  ⟨W.w [], .fn1, 3, 1,
    by decide +kernel⟩,
  ⟨W.w [], .fn1, 0,
    by decide +kernel⟩,
  ⟨W.w [(R.ETH_CTRL_EN 3, 1)], 3,
    by decide +kernel⟩,
  ⟨W.w [(R.ETH_CTRL_EN 3, 1), (R.ETH_STATUS_LINK 3, 1)], 3, ⟨0, 0, 0, 0x88B5, 64, false, [], 0, 0⟩,
    by decide +kernel⟩,
  ⟨W.w [(R.ETH_CTRL_EN 3, 1), (R.ETH_STATUS_LINK 3, 1)], 3, ⟨0, 0, 0, 0x88B5, 63, true, [], 0, 0⟩,
    by decide +kernel⟩,
  ⟨W.w [(R.ETH_CTRL_EN 3, 1), (R.ETH_STATUS_LINK 3, 1), (R.STA_CTRL_EN, 1), (R.STA_GROUP_LO_MAC, 3)], 3, ⟨(W.w [(R.STA_GROUP_LO_MAC, 3)]).staGroup, 5, 0, 0x88B5, 64, true, (W.sta 3 0 [0, 0, 0, 0]).bytes, 0, 0⟩,
    by decide +kernel⟩,
  ⟨W.w [(R.LANE_CTRL_LOOP 31, 2)], 3,
    by decide +kernel⟩⟩

theorem witness_StationSendCommands :
  (∃ (s : State) (m : BitVec 8), s.txOpen 2 = true ∧ s.net.posWait = [] ∧ ((List.range 8).filter fun n => bitAt m.toNat n && s.on (R.TXPOS_EN n)) ≠ []) ∧
  (∃ (s : State) (m : BitVec 8) (n : Fin 8), s.on R.STA_CTRL_EN = true ∧ s.txOpen 2 = false ∧ bitAt m.toNat n = true ∧ s.on (R.TXPOS_EN n) = true) ∧
  (∃ (s : State), s.net.txEvents ≠ [] ∧ s.txOpen 3 = true) ∧
  (∃ (s : State), s.on R.STA_CTRL_EN = true) ∧
  (∃ (s : State) (d : Deferred), s.net.deferred.find? (fun d => decide (timeDiff d.deadline s.timeNs ≤ 0)) = some d) ∧
  (∃ (s : State) (i : Fin 32), s.on (R.PEER_INFO_PRESENT i) = true) ∧
  (∃ (s : State) (n : Fin 8), s.on (R.RXPOS_CTRL_EN n) = true) :=
  ⟨⟨W.w [(R.STA_CTRL_EN, 1), (R.TXPOS_EN 7, 1), (R.STA_PORTS_TX_PORTS, 1), (R.ETH_CTRL_EN 0, 1), (R.ETH_STATUS_LINK 0, 1)], 0x80,
    by decide +kernel⟩,
  ⟨W.w [(R.STA_CTRL_EN, 1), (R.TXPOS_EN 7, 1)], 0x80, 7,
    by decide +kernel⟩,
  ⟨{ W.w [(R.STA_CTRL_EN, 1), (R.TXPOS_EN 7, 1), (R.STA_PORTS_TX_PORTS, 1), (R.ETH_CTRL_EN 0, 1), (R.ETH_STATUS_LINK 0, 1)] with net := { txEvents := [⟨⟨5, 1, 0, 0, 0, 0, false, none, 0, []⟩, 0, 1, 0, 0, 0, 0⟩] } },
    by decide +kernel⟩,
  ⟨W.w [(R.STA_CTRL_EN, 1), (R.STA_PORTS_TX_PORTS, 1), (R.ETH_CTRL_EN 0, 1), (R.ETH_STATUS_LINK 0, 1)],
    by decide +kernel⟩,
  ⟨{ W.w [(R.RXEVT_DST_SEL 31, 0x105)] with net := { deferred := [⟨31, 5, 0⟩] } }, ⟨31, 5, 0⟩,
    by decide +kernel⟩,
  ⟨W.w [(R.PEER_INFO_PRESENT 31, 1), (R.PEER_INFO_SENDER 31, 9)], 31,
    by decide +kernel⟩,
  ⟨W.w [(R.RXPOS_CTRL_EN 7, 1), (R.SRC_CTRL_EN 1, 1), (R.SRC_CTRL_INPUT 1, 2), (R.SRC_CTRL_NUM 1, 7)], 7,
    by decide +kernel⟩⟩

theorem witness_StationReceiveCommands :
  (∃ (s : State) (f : StaFrame) (n : Fin 8), s.inboxOf 1 = some f ∧ staLength f.bytes = 24 ∧ isSync s.timeState (s.on R.TIME_STATUS_STEPPED) = false ∧ s.on (R.RXPOS_CTRL_EN n) = true ∧ s.get (R.RXPOS_CTRL_SENDER n) = staSender f.bytes ∧ s.get (R.RXPOS_CTRL_STREAM n) = leAt (staBody f.bytes) 0 1 ∧ bitAt (leAt (staBody f.bytes) 1 1) 0 = true) ∧
  (∃ (s : State) (f : StaFrame) (n : Fin 8), s.inboxOf 1 = some f ∧ staLength f.bytes = 24 ∧ 48 ≤ f.bytes.length ∧ isSync s.timeState (s.on R.TIME_STATUS_STEPPED) = true ∧ isSync (staTFlags f.bytes % 8) (bitAt (staTFlags f.bytes) 3) = true ∧ s.on (R.RXPOS_CTRL_EN n) = true ∧ s.get (R.RXPOS_CTRL_SENDER n) = staSender f.bytes ∧ s.get (R.RXPOS_CTRL_STREAM n) = leAt (staBody f.bytes) 0 1 ∧ bitAt (leAt (staBody f.bytes) 1 1) 0 = true ∧ Tbl.find s.rxLast n = none ∧ leAt (staBody f.bytes) 12 8 = s.timeNs) ∧
  (∃ (s : State) (f : StaFrame) (i : Fin 32), s.inboxOf 2 = some f ∧ staLength f.bytes = 32 ∧ s.on (R.RXEVT_SRC_EN i) = true ∧ s.get (R.RXEVT_SRC_SENDER i) = staSender f.bytes ∧ s.get (R.RXEVT_SRC_CHANNEL i) = leAt (staBody f.bytes) 0 1 ∧ ((∀ j : Fin 32, j ≠ i → s.on (R.RXEVT_SRC_EN j) = false)) ∧ s.get (R.RXEVT_DELAY_NS i) ≠ 0 ∧ s.net.deferred.length < 256 ∧ 0 < timeDiff ((leAt (staBody f.bytes) 24 8 + s.get (R.RXEVT_DELAY_NS i)) % 2 ^ 64) s.timeNs) ∧
  (∃ (s : State) (f : StaFrame), s.skepRuns = true ∧ s.inboxOf 3 = some f ∧ leAt (staBody f.bytes) 0 1 = s.get R.STA_CTRL_SENDER ∧ s.allowOf (staSender f.bytes) = none) ∧
  (∃ (s : State) (f : StaFrame) (i : Nat), s.skepRuns = true ∧ s.inboxOf 3 = some f ∧ leAt (staBody f.bytes) 0 1 = s.get R.STA_CTRL_SENDER ∧ s.allowOf (staSender f.bytes) = some i ∧ (s.remoteOf (staSender f.bytes)).lastSeq = none ∧ (Tbl.get {} s.skep.cmds (32 + staSender f.bytes)).req = [] ∧ 8 ≤ (staBody f.bytes).length ∧ (staBody f.bytes).length ≤ 1028) ∧
  (∃ (s : State) (f : StaFrame) (i : Nat), s.inboxOf 5 = some f ∧ staSender f.bytes ≠ s.get R.STA_CTRL_SENDER ∧ (List.range 32).find? (fun i => s.peerUsed i && s.get (R.PEER_INFO_SENDER i) == staSender f.bytes) = some i) ∧
  (∃ (s : State) (f : StaFrame) (i : Nat), s.inboxOf 5 = some f ∧ staSender f.bytes ≠ s.get R.STA_CTRL_SENDER ∧ (List.range 32).find? (fun i => s.peerUsed i && s.get (R.PEER_INFO_SENDER i) == staSender f.bytes) = none ∧ (List.range 32).find? (fun i => !s.peerUsed i) = some i ∧ staSender f.bytes < 256) ∧
  (∃ (s : State) (f : StaFrame), s.inboxOf 5 = some f ∧ staSender f.bytes = s.get R.STA_CTRL_SENDER ∧ leAt (staBody f.bytes) 0 8 ≠ Config.serial.toNat) :=
  ⟨⟨W.inbox (W.w [(R.RXPOS_CTRL_EN 7, 1), (R.RXPOS_CTRL_SENDER 7, 7), (R.RXPOS_CTRL_STREAM 7, 1)]) (W.sta 1 4 (1 :: 1 :: List.replicate 22 0)), W.sta 1 4 (1 :: 1 :: List.replicate 22 0), 7,
    by decide +kernel⟩,
  ⟨W.inbox (W.w [(R.TIME_STATUS_STATE, 4), (R.RXPOS_CTRL_EN 7, 1), (R.RXPOS_CTRL_SENDER 7, 7), (R.RXPOS_CTRL_STREAM 7, 1)]) (W.sta 1 4 (1 :: 1 :: List.replicate 22 0)), W.sta 1 4 (1 :: 1 :: List.replicate 22 0), 7,
    by decide +kernel⟩,
  ⟨W.inbox (W.w [(R.RXEVT_SRC_EN 31, 1), (R.RXEVT_SRC_SENDER 31, 7), (R.RXEVT_SRC_CHANNEL 31, 5), (R.RXEVT_DELAY_NS 31, 1000)]) (W.sta 2 4 (5 :: List.replicate 31 0)), W.sta 2 4 (5 :: List.replicate 31 0), 31,
    by decide +kernel⟩,
  ⟨W.run (W.inbox (W.w []) (W.sta 3 0 [0, 0, 0, 0])), W.sta 3 0 [0, 0, 0, 0],
    by decide +kernel⟩,
  ⟨W.run (W.inbox (W.w [(R.ALLOW_EN 15, 1), (R.ALLOW_SENDER 15, 7)]) (W.sta 3 0 [0, 0, 0, 0, 0x61, 0, 0, 0, 1, 0, 0, 0])), W.sta 3 0 [0, 0, 0, 0, 0x61, 0, 0, 0, 1, 0, 0, 0], 15,
    by decide +kernel⟩,
  ⟨{ W.w [(R.PEER_INFO_PRESENT 31, 1), (R.PEER_INFO_SENDER 31, 7)] with net := { peers := [(31, true)], inbox := [W.sta 5 4 (List.replicate 20 1)] } }, W.sta 5 4 (List.replicate 20 1), 31,
    by decide +kernel⟩,
  ⟨W.inbox (W.w []) (W.sta 5 4 (List.replicate 20 1)), W.sta 5 4 (List.replicate 20 1), 0,
    by decide +kernel⟩,
  by
    let f := fun b : Byte => W.sta 5 4 (b :: List.replicate 19 0)
    by_cases h : Config.serial.toNat = 1
    · exact ⟨W.inbox (W.w [(R.STA_CTRL_SENDER, 7)]) (f 2), f 2, by decide +kernel, by decide +kernel, by
        have e : leAt (staBody (f 2).bytes) 0 8 = 2 := by decide +kernel
        omega⟩
    · exact ⟨W.inbox (W.w [(R.STA_CTRL_SENDER, 7)]) (f 1), f 1, by decide +kernel, by decide +kernel, by
        have e : leAt (staBody (f 1).bytes) 0 8 = 1 := by decide +kernel
        omega⟩⟩

theorem witness_PtpCommands :
  (∃ (s : State) (p : Fin 4) (a : Announce), s.ptpMode = true ∧ s.skepRuns = true ∧ s.ptpPort? = some p.val ∧ a.domain = s.get R.TIME_CTRL_DOMAIN ∧ announceUsable a = true ∧ s.net.master = none) ∧
  (∃ (s : State) (p : Fin 4) (parent : Nat) (t1 : Int) (t2 : Int) (t3 : Int) (t4 : Int) (x : Int) (mean : Int) (m : Master), s.ptpMode = true ∧ s.skepRuns = true ∧ s.ptpPort? = some p.val ∧ s.net.master = some m ∧ m.parent = parent ∧ s.net.delayMeas = some (t3, t4) ∧ s.net.syncsSince < 16 ∧ s.net.delays = [] ∧ x = t2 / 250 * 250 - s.get (R.RX_LAT_PS p) ∧ mean = (x - t1 + (t4 - t3)) / 2) ∧
  (∃ (s : State) (p : Fin 4) (m : Master), s.ptpMode = true ∧ s.skepRuns = true ∧ s.ptpPort? = some p.val ∧ s.net.master = some m ∧ s.portUp p = true ∧ s.ethOutward p = true ∧ s.ethLooped p = false ∧ (s.ethTx p).busyTo ≤ s.clk ∧ (s.ethTx p).queue = []) ∧
  (∃ (s : State) (p : Fin 4) (m : Master), s.ptpMode = true ∧ s.skepRuns = true ∧ s.ptpPort? = some p.val ∧ s.net.master = some m ∧ s.portUp p = true ∧ s.clk < (s.ethTx p).busyTo) ∧
  (∃ (s : State) (p : Fin 4) (parent : Nat) (t3 : Int) (m : Master), s.ptpMode = true ∧ s.skepRuns = true ∧ s.ptpPort? = some p.val ∧ s.net.master = some m ∧ m.parent = parent ∧ s.net.reqTx = some t3) ∧
  (∃ (s : State) (p : Fin 4), s.ptpMode = true ∧ s.skepRuns = true ∧ s.ptpPort? = some p.val ∧ s.timeState = 4 ∧ s.net.annAt < s.net.syncAt ∧ s.portUp p = true ∧ s.ethOutward p = true ∧ s.ethLooped p = false ∧ (s.ethTx p).busyTo ≤ s.clk ∧ (s.ethTx p).queue = []) ∧
  (∃ (s : State) (p : Fin 4), s.ptpMode = true ∧ s.skepRuns = true ∧ s.ptpPort? = some p.val ∧ s.timeState = 4 ∧ s.net.syncAt ≤ s.net.annAt ∧ s.portUp p = true ∧ s.ethOutward p = true ∧ s.ethLooped p = false ∧ (s.ethTx p).busyTo ≤ s.clk ∧ (s.ethTx p).queue = []) ∧
  (∃ (s : State), s.ptpMode = true ∧ s.skepRuns = true ∧ s.net.master.isSome = true ∧ s.on R.TIME_CTRL_SLAVE_ONLY = true ∧ s.timeState = 2) ∧
  (∃ (s : State) (p : Fin 4), s.ptpMode = true ∧ s.skepRuns = true ∧ s.ptpPort? = some p.val ∧ s.on R.TIME_CTRL_SLAVE_ONLY = false) :=
  ⟨⟨W.run (W.w [(R.TIME_CTRL_MODE, 1), (R.TIME_CTRL_PTP_MASK, 8), (R.ETH_CTRL_EN 3, 1), (R.ETH_STATUS_LINK 3, 1)]), 3, ⟨2, 1, 0, 1, 0, 0, 0, 0, 0, 0, 9, 0, 0, 0⟩,
    by decide +kernel⟩,
  ⟨{ W.run (W.w [(R.TIME_CTRL_MODE, 1), (R.TIME_CTRL_PTP_MASK, 8), (R.ETH_CTRL_EN 3, 1), (R.ETH_STATUS_LINK 3, 1)]) with net := { master := some W.master, delayMeas := some (500, 900) } }, 3, 9, 1000, 5000, 500, 900, 5000 - (State.reset.get (R.RX_LAT_PS 3) : Int), (5000 - (State.reset.get (R.RX_LAT_PS 3) : Int) - 1000 + 400) / 2, W.master,
    by decide +kernel⟩,
  ⟨{ W.run (W.w [(R.TIME_CTRL_MODE, 1), (R.TIME_CTRL_PTP_MASK, 8), (R.ETH_CTRL_EN 3, 1), (R.ETH_STATUS_LINK 3, 1)]) with net := { master := some W.master }, lanes := [(31, { sending := true })] }, 3, W.master,
    by decide +kernel⟩,
  ⟨{ W.run (W.w [(R.TIME_CTRL_MODE, 1), (R.TIME_CTRL_PTP_MASK, 8), (R.ETH_CTRL_EN 3, 1), (R.ETH_STATUS_LINK 3, 1)]) with net := { master := some W.master, tx := [(3, { busyTo := 5 })] } }, 3, W.master,
    by decide +kernel⟩,
  ⟨{ W.run (W.w [(R.TIME_CTRL_MODE, 1), (R.TIME_CTRL_PTP_MASK, 8), (R.ETH_CTRL_EN 3, 1), (R.ETH_STATUS_LINK 3, 1)]) with net := { master := some W.master, reqTx := some 5 } }, 3, 9, 5, W.master,
    by decide +kernel⟩,
  ⟨{ W.run (W.w [(R.TIME_CTRL_MODE, 1), (R.TIME_CTRL_PTP_MASK, 8), (R.ETH_CTRL_EN 3, 1), (R.ETH_STATUS_LINK 3, 1), (R.TIME_STATUS_STATE, 4)]) with net := { syncAt := 1 }, lanes := [(31, { sending := true })] }, 3,
    by decide +kernel⟩,
  ⟨{ W.run (W.w [(R.TIME_CTRL_MODE, 1), (R.TIME_CTRL_PTP_MASK, 8), (R.ETH_CTRL_EN 3, 1), (R.ETH_STATUS_LINK 3, 1), (R.TIME_STATUS_STATE, 4)]) with lanes := [(31, { sending := true })] }, 3,
    by decide +kernel⟩,
  ⟨{ W.run (W.w [(R.TIME_CTRL_MODE, 1), (R.TIME_CTRL_SLAVE_ONLY, 1), (R.TIME_STATUS_STATE, 2)]) with net := { master := some W.master } },
    by decide +kernel⟩,
  ⟨W.run (W.w [(R.TIME_CTRL_MODE, 1), (R.TIME_CTRL_SLAVE_ONLY, 0), (R.TIME_CTRL_PTP_MASK, 8), (R.ETH_CTRL_EN 3, 1), (R.ETH_STATUS_LINK 3, 1)]), 3,
    by decide +kernel⟩⟩

theorem witness_LaneDenied :
  (∃ (s : State) (l : Fin 32) (v : Word) (c : Instr), s.hears .fn0 = true ∧ s.ethLane l = true ∧ c ∈ [.restart .fn0 l v, .loopWrite .fn0 l v, .pwrStateWrite l (.write .fn0 v), .txCoefWrite .fn0 l v, .marginStart .fn0 l v, .inject .fn0 l v]) ∧
  (∃ (s : State) (l : Fin 32), s.ethLane l = true ∧ s.hears .fn0 = true) ∧
  (∃ (s : State) (l : Fin 32) (v : Word) (who : Who), s.hears who = true ∧ s.ethLane l = true ∧ who ≠ .fn0 ∧ coefValid v.toNat = true) :=
  ⟨⟨W.w [(R.ETH_CTRL_EN 3, 1)], 31, 0, .inject .fn0 31 0,
    by decide +kernel⟩,
  ⟨W.w [(R.ETH_CTRL_EN 3, 1)], 31,
    by decide +kernel⟩,
  ⟨W.w [(R.ETH_CTRL_EN 3, 1)], 31, 0x408000, .fn1,
    by decide +kernel⟩⟩

theorem witness_LanePowerCommands :
  (∃ (s : State) (who : Who) (l : Fin 32) (v : Word), s.hears who = true ∧ (¬ (who = .fn0 ∧ s.ethLane l = true)) ∧ bitAt v.toNat 1 = true ∧ s.laneRateOk l = true ∧ s.on (R.LANE_CTRL_EN l) = true) ∧
  (∃ (s : State) (who : Who) (l : Fin 32) (v : Word), s.hears who = true ∧ (¬ (who = .fn0 ∧ s.ethLane l = true)) ∧ bitAt v.toNat 1 = true ∧ s.laneRateOk l = false) ∧
  (∃ (s : State) (l : Fin 32), (s.laneOf l).idle = true) ∧
  (∃ (s : State) (who : Who) (l : Fin 32) (v : Word), s.hears who = true ∧ (¬ (who = .fn0 ∧ s.ethLane l = true)) ∧ bitAt v.toNat 1 = false ∧ bitsOf v.toNat 2 2 = 0 ∧ bitsOf v.toNat 4 2 = 0) ∧
  (∃ (s : State) (who : Who) (l : Fin 32) (v : Word), s.hears who = true ∧ (¬ (who = .fn0 ∧ s.ethLane l = true)) ∧ bitAt v.toNat 1 = false ∧ s.get (R.LANE_CTRL_LOOP l) = 0 ∧ bitsOf v.toNat 2 2 ≠ 0 ∧ bitsOf v.toNat 9 2 ≠ 0) ∧
  (∃ (s : State) (who : Who) (l : Fin 32) (v : Word), s.hears who = true ∧ (¬ (who = .fn0 ∧ s.ethLane l = true)) ∧ bitAt v.toNat 1 = false ∧ s.get (R.LANE_CTRL_LOOP l) = 0 ∧ bitsOf v.toNat 9 2 = 0) ∧
  (∃ (s : State) (l : Fin 32), s.on (R.LANE_CTRL_EN l) = true ∧ (s.laneOf l).tx.target ≠ none) ∧
  (∃ (s : State) (l : Fin 32) (tx : Bool) (dest : Nat), (s.side l tx).target = some dest ∧ (s.side l tx).held = none ∧ dest < 3) :=
  ⟨⟨W.w [(R.LANE_CTRL_EN 31, 1)], .fn1, 31, 2,
    by decide +kernel⟩,
  ⟨W.w [(R.LANE_CFG_RATE 31, 2)], .fn1, 31, 2,
    by decide +kernel⟩,
  ⟨{ W.w [(R.LANE_CTRL_EN 31, 1)] with lanes := [(31, { idle := true, precoder := 3 })] }, 31,
    by decide +kernel⟩,
  ⟨W.w [], .fn1, 31, 0x600,
    by decide +kernel⟩,
  ⟨W.w [], .fn1, 31, 0x604,
    by decide +kernel⟩,
  ⟨W.w [(R.LANE_CTRL_EN 31, 1)], .fn1, 31, 0x14,
    by decide +kernel⟩,
  ⟨{ W.w [(R.LANE_CTRL_EN 31, 1)] with lanes := [(31, { tx := { target := some 2 } })] }, 31,
    by decide +kernel⟩,
  ⟨{ W.w [] with lanes := [(31, { rx := { target := some 2 } })] }, 31, false, 2,
    by decide +kernel⟩⟩

theorem witness_LaneGroupCommands :
  (∃ (s : State) (who : Who) (g : Fin 7) (v : Word), s.hears who = true ∧ (∀ l ∈ groupLanes g, s.unitOff (laneUnit l) = true) ∧ bitsOf v.toNat 1 2 ≠ 2) ∧
  (∃ (s : State) (who : Who) (g : Fin 8) (l : Nat), s.hears who = true ∧ l ∈ groupLanes g ∧ s.unitOff (laneUnit l) = false) ∧
  (∃ (s : State) (g : Fin 8), s.on (R.GRP_STATUS_PLL_LOCK g) = true) ∧
  (∃ (s : State) (g : Fin 8), Tbl.get false s.pllLost g = true) ∧
  (∃ (s : State) (who : Who) (l : Fin 32) (v : Word), s.hears who = true ∧ (¬ (who = .fn0 ∧ s.ethLane l = true)) ∧ coefValid v.toNat = true) ∧
  (∃ (s : State) (who : Who) (l : Fin 32) (v : Word), s.hears who = true ∧ (¬ (who = .fn0 ∧ s.ethLane l = true)) ∧ coefValid v.toNat = false) :=
  ⟨⟨W.w [], .skep, 6, 3,
    by decide +kernel⟩,
  ⟨{ W.w [] with units := [(laneUnit 31, { state := .on })] }, .skep, 7, 31,
    by decide +kernel⟩,
  ⟨W.w [(R.GRP_STATUS_PLL_LOCK 7, 1)], 7,
    by decide +kernel⟩,
  ⟨{ W.w [] with pllLost := [(7, true)] }, 7,
    by decide +kernel⟩,
  ⟨W.w [], .fn1, 31, 0x408000,
    by decide +kernel⟩,
  ⟨W.w [], .fn1, 31, 0x1FFFFF,
    by decide +kernel⟩⟩

theorem witness_AcquisitionCommands :
  (∃ (s : State) (l : Fin 32), s.on (R.LANE_STATUS_SIG_DET l) = false ∧ s.get (R.LANE_STATUS_RX_PWR_ACT l) ≠ 0) ∧
  (∃ (s : State) (l : Fin 32), s.get (R.LANE_STATUS_RX_PWR_ACT l) = 0) ∧
  (∃ (s : State) (l : Fin 32), s.rxState l = 1 ∧ (if s.get (R.LANE_CTRL_LOOP l) = 1 then s.txRuns l else s.on (R.LANE_STATUS_SIG_DET l)) = true) ∧
  (∃ (s : State) (l : Fin 32), s.rxState l = 5 ∧ s.get (R.LANE_CTRL_LOOP l) = 0) ∧
  (∃ (s : State) (l : Fin 32), s.rxState l = 2) ∧
  (∃ (s : State) (l : Fin 32), s.rxState l = 3 ∧ s.on (R.LANE_CFG_ADAPT_FREEZE l) = false) ∧
  (∃ (s : State) (l : Fin 32) (h : BitVec 8), s.rxState l = 4 ∧ s.get (R.ACQ_CFG_LOCK_EYE l) ≤ h.toNat) ∧
  (∃ (s : State) (l : Fin 32) (h : BitVec 8), s.rxState l = 4 ∧ h.toNat < s.get (R.ACQ_CFG_LOCK_EYE l)) ∧
  (∃ (s : State) (l : Fin 32), s.rxState l = 5 ∧ s.get (R.LANE_CTRL_LOOP l) = 0) ∧
  (∃ (s : State) (l : Fin 32), 2 ≤ s.rxState l ∧ s.rxState l ≤ 4 ∧ s.get (R.LANE_CTRL_LOOP l) = 0) ∧
  (∃ (s : State) (l : Fin 32), (s.laneOf l).warm = true ∧ 1 ≤ s.rxState l ∧ s.rxState l ≤ 4) :=
  ⟨⟨W.w [(R.LANE_STATUS_RX_PWR_ACT 31, 1), (R.LANE_CTRL_RX_AUTOWAKE 31, 1)], 31,
    by decide +kernel⟩,
  ⟨W.w [(R.LANE_STATUS_RX_PWR_ACT 31, 0)], 31,
    by decide +kernel⟩,
  ⟨W.w [(R.LANE_STATUS_RX_STATE 31, 1), (R.LANE_STATUS_SIG_DET 31, 1)], 31,
    by decide +kernel⟩,
  ⟨W.w [(R.LANE_STATUS_RX_STATE 31, 5), (R.LANE_STATUS_SIG_DET 31, 1), (R.LANE_STATUS_READY 31, 1)], 31,
    by decide +kernel⟩,
  ⟨W.w [(R.LANE_STATUS_RX_STATE 31, 2)], 31,
    by decide +kernel⟩,
  ⟨W.w [(R.LANE_STATUS_RX_STATE 31, 3)], 31,
    by decide +kernel⟩,
  ⟨{ W.w [(R.LANE_STATUS_RX_STATE 31, 4)] with clk := 500 }, 31, 255,
    by decide +kernel⟩,
  ⟨W.w [(R.LANE_STATUS_RX_STATE 31, 4)], 31, 0,
    by decide +kernel⟩,
  ⟨W.w [(R.LANE_STATUS_RX_STATE 31, 5), (R.LANE_STATUS_READY 31, 1)], 31,
    by decide +kernel⟩,
  ⟨W.w [(R.LANE_STATUS_RX_STATE 31, 4)], 31,
    by decide +kernel⟩,
  ⟨{ W.w [(R.LANE_STATUS_RX_STATE 31, 4)] with lanes := [(31, { warm := true })] }, 31,
    by decide +kernel⟩⟩

theorem witness_LaneMeasureCommands :
  (∃ (s : State) (l : Fin 32), s.on (R.LANE_STATUS_CDR_LOCK l) = true) ∧
  (∃ (s : State) (l : Fin 32), s.laneReady l = true ∧ (s.laneOf l).margin = false ∧ (s.laneOf l).rate ≠ 2) ∧
  (∃ (s : State) (who : Who) (l : Fin 32) (v : Word), s.hears who = true ∧ (¬ (who = .fn0 ∧ s.ethLane l = true)) ∧ bitAt v.toNat 0 = true ∧ (s.laneOf l).margin = false) ∧
  (∃ (s : State) (l : Fin 32), (s.laneOf l).margin = true) ∧
  (∃ (s : State) (who : Who) (l : Fin 32), s.hears who = true ∧ (¬ (who = .fn0 ∧ s.ethLane l = true))) ∧
  (∃ (s : State) (l : Fin 32), s.boot.down = false ∧ s.risenOf (R.PRBS_ERR l) = 0) ∧
  (∃ (s : State) (l : Fin 32), s.on (R.PRBS_CTRL_RX_EN l) = true) ∧
  (∃ (s : State) (l : Fin 32), s.on (R.PRBS_STATUS_LOCK l) = true) :=
  ⟨⟨W.w [(R.LANE_STATUS_CDR_LOCK 31, 1)], 31,
    by decide +kernel⟩,
  ⟨W.w [(R.LANE_STATUS_READY 31, 1)], 31,
    by decide +kernel⟩,
  ⟨W.w [(R.LANE_STATUS_READY 31, 1)], .fn1, 31, 1,
    by decide +kernel⟩,
  ⟨{ W.w [] with lanes := [(31, { margin := true })] }, 31,
    by decide +kernel⟩,
  ⟨W.w [], .fn1, 31,
    by decide +kernel⟩,
  ⟨W.w [], 31,
    by decide +kernel⟩,
  ⟨W.w [(R.PRBS_CTRL_RX_EN 31, 1)], 31,
    by decide +kernel⟩,
  ⟨W.w [(R.PRBS_STATUS_LOCK 31, 1)], 31,
    by decide +kernel⟩⟩

theorem witness_MarkerAndCodeCommands :
  (∃ (s : State) (l : Fin 32) (sym : BitVec 130), s.laneReady l = true ∧ s.laneLooped l = false ∧ markerValid (s.markerBits l sym.toNat) = true ∧ (∀ f, s.linkAt l = some f → s.linkState f < 2)) ∧
  (∃ (s : State) (l : Fin 32) (sym : BitVec 130), markerValid (s.markerBits l sym.toNat) = false ∧ s.on (R.LL_STATUS_AM_LOCK l) = false) ∧
  (∃ (s : State) (l : Fin 32), (s.laneReady l = false ∨ s.laneLooped l = true)) ∧
  (∃ (s : State) (l : Fin 32) (sym : BitVec 130), s.laneReady l = true ∧ s.laneLooped l = false ∧ markerValid (s.markerBits l sym.toNat) = false ∧ s.on (R.LL_STATUS_AM_LOCK l) = true ∧ (s.laneOf l).amMiss < 2) ∧
  (∃ (s : State) (l : Fin 32) (f : Fin 32) (sym : BitVec 130), s.laneReady l = true ∧ s.laneLooped l = false ∧ markerValid (s.markerBits l sym.toNat) = true ∧ s.linkAt l = some f.val ∧ 2 ≤ s.linkState f ∧ (s.linkOf f).marks = [] ∧ s.linkWidth f ≠ 1) ∧
  (∃ (s : State) (l : Fin 32) (f : Fin 32) (sym : BitVec 130), s.laneReady l = true ∧ s.laneLooped l = false ∧ markerValid (s.markerBits l sym.toNat) = true ∧ s.linkAt l = some f.val ∧ s.linkState f = 2 ∧ (s.linkOf f).marks = [] ∧ s.linkWidth f = 1 ∧ bitsOf (markerByte (s.markerBits l sym.toNat) 4) 0 3 = 0 ∧ bitsOf (markerByte (s.markerBits l sym.toNat) 6) 0 2 = s.get (R.LINK_CTRL_WIDTH f)) ∧
  (∃ (s : State) (l : Fin 32), s.on (R.LL_STATUS_AM_LOCK l) = true ∧ (s.laneOf l).amMiss < 3 ∧ (∀ f, s.linkAt l = some f → s.linkState f ≠ 4)) ∧
  (∃ (s : State) (l : Fin 32) (f : Fin 32), s.on (R.LL_STATUS_AM_LOCK l) = true ∧ (s.laneOf l).amMiss < 3 ∧ s.linkAt l = some f.val ∧ 3 ≤ s.linkState f) ∧
  (∃ (s : State) (l : Fin 32), s.on (R.LL_STATUS_AM_LOCK l) = false) ∧
  (∃ (s : State) (f : Fin 32) (prev : BitVec 16) (rx : BitVec 5440), 3 ≤ s.linkState f ∧ ((s.linkOf f).uncorr < 63 ∨ s.linkState f ≠ 4) ∧ (s.linkLanes f).all s.laneLooped = false ∧ rsDecode (s.mergeLanes f (s.linkBits f (s.rxLanes f prev.toNat rx.toNat))) = none) ∧
  (∃ (s : State) (f : Fin 32) (prev : BitVec 16) (rx : BitVec 5440), 3 ≤ s.linkState f ∧ 63 ≤ (s.linkOf f).uncorr ∧ (s.linkLanes f).all s.laneLooped = false ∧ rsDecode (s.mergeLanes f (s.linkBits f (s.rxLanes f prev.toNat rx.toNat))) = none) ∧
  (∃ (s : State) (f : Fin 32) (prev : BitVec 16) (rx : BitVec 5440) (k : Nat) (cw : List Nat), 3 ≤ s.linkState f ∧ (s.linkLanes f).all s.laneLooped = false ∧ rsDecode (s.mergeLanes f (s.linkBits f (s.rxLanes f prev.toNat rx.toNat))) = some (k, cw)) ∧
  (∃ (s : State) (f : Fin 32) (prev : BitVec 16) (rx : BitVec 5440) (k : Nat) (cw : List Nat), s.linkState f = 2 ∧ (s.linkOf f).aligned = true ∧ (s.linkOf f).since = 7 ∧ k ≠ 0 ∧ (s.linkLanes f).all s.laneLooped = false ∧ rsDecode (s.mergeLanes f (s.linkBits f (s.rxLanes f prev.toNat rx.toNat))) = some (k, cw)) :=
  ⟨⟨{ W.w [(R.LANE_STATUS_READY 31, 1)] with lanes := [(31, { rate := 2 })] }, 31, W.marker,
    by decide +kernel, by decide +kernel, by decide +kernel, (fun f h => by
      have e : ({ W.w [(R.LANE_STATUS_READY 31, 1)] with lanes := [(31, { rate := 2 })] } : State).linkAt 31 = none := by decide +kernel
      exact absurd (e.symm.trans h) (by simp))⟩,
  ⟨W.w [], 31, 0,
    by decide +kernel⟩,
  ⟨W.w [], 31,
    by decide +kernel⟩,
  ⟨{ W.w [(R.LANE_STATUS_READY 31, 1), (R.LL_STATUS_AM_LOCK 31, 1)] with lanes := [(31, { amMiss := 1, rate := 2 })] }, 31, 0,
    by decide +kernel⟩,
  ⟨{ W.link (W.w [(R.LANE_STATUS_READY 24, 1), (R.LINK_STATUS_LINK_STATE 24, 3), (R.LINK_CTRL_WIDTH 24, 3)]) 24 {} with lanes := [(24, { rate := 2 })] }, 24, 24, W.marker,
    by decide +kernel⟩,
  ⟨{ W.link (W.w [(R.LANE_STATUS_READY 31, 1), (R.LINK_STATUS_LINK_STATE 31, 2)]) 31 {} with lanes := [(31, { rate := 2 })] }, 31, 31, W.marker,
    by decide +kernel⟩,
  ⟨{ W.w [(R.LL_STATUS_AM_LOCK 31, 1)] with lanes := [(31, { amMiss := 2 })] }, 31,
    by decide +kernel, by decide +kernel, (fun f h => by
      have e : ({ W.w [(R.LL_STATUS_AM_LOCK 31, 1)] with lanes := [(31, { amMiss := 2 })] } : State).linkAt 31 = none := by decide +kernel
      exact absurd (e.symm.trans h) (by simp))⟩,
  ⟨W.link (W.w [(R.LL_STATUS_AM_LOCK 31, 1), (R.LINK_STATUS_LINK_STATE 31, 4)]) 31 {}, 31, 31,
    by decide +kernel⟩,
  ⟨W.w [], 31,
    by decide +kernel⟩,
  ⟨W.link (W.w [(R.LINK_STATUS_LINK_STATE 24, 3), (R.LINK_CTRL_WIDTH 24, 3)]) 24 { aligned := true }, 24, 0, W.noise,
    by decide +kernel⟩,
  ⟨W.link (W.w [(R.LINK_STATUS_LINK_STATE 24, 4), (R.LINK_CTRL_WIDTH 24, 3)]) 24 { aligned := true, uncorr := 63 }, 24, 0, W.noise,
    by decide +kernel⟩,
  ⟨W.link (W.w [(R.LINK_STATUS_LINK_STATE 24, 3), (R.LINK_CTRL_WIDTH 24, 3)]) 24 { aligned := true }, 24, 0, 1, 1, List.replicate 544 0,
    by decide +kernel⟩,
  ⟨W.link (W.w [(R.LINK_STATUS_LINK_STATE 24, 2), (R.LINK_CTRL_WIDTH 24, 3)]) 24 { aligned := true, since := 7 }, 24, 0, 1, 1, List.replicate 544 0,
    by decide +kernel⟩⟩

theorem witness_CtrlCommands :
  (∃ (s : State) (f : Fin 32) (p : Packet) (e : Fin 2048) (q : Fin 16) (r : CtrlReq), (s.linkOf f).inbox.find? (isCtrl 2) = some p ∧ s.sourceEp f p = some e.val ∧ bitAt p.tspec 11 = (s.epOf e).epoch ∧ (s.epOf e).resetting = false ∧ (s.epOf e).out.find? (fun r => r.tag == p.tspec % 256) = some r ∧ r.purpose = .port q ∧ s.epPasses e = true) ∧
  (∃ (s : State) (f : Fin 32) (p : Packet) (e : Fin 2048) (q : Fin 16) (r : CtrlReq), (s.linkOf f).inbox.find? (isCtrl 3) = some p ∧ s.sourceEp f p = some e.val ∧ bitAt p.tspec 11 = (s.epOf e).epoch ∧ (s.epOf e).resetting = false ∧ (s.epOf e).out.find? (fun r => r.tag == p.tspec % 256) = some r ∧ r.purpose = .port q ∧ s.epPasses e = true) ∧
  (∃ (s : State) (f : Fin 32) (p : Packet) (e : Fin 2048), (s.linkOf f).inbox.find? (isCtrl 2) = some p ∧ s.sourceEp f p = some e.val ∧ bitAt p.tspec 11 ≠ (s.epOf e).epoch) ∧
  (∃ (s : State) (f : Fin 32) (p : Packet) (e : Fin 2048), (s.linkOf f).inbox.find? (isCtrl 4) = some p ∧ s.sourceEp f p = some e.val ∧ s.epPasses e = true ∧ (s.epOf e).cutting = false ∧ s.on (R.MF_CFG_EN e) = true ∧ s.mfLevel e + (2 + (wordsOf p.payload).length + 7) / 8 ≤ s.get (R.MF_CFG_DEPTH e)) ∧
  (∃ (s : State) (f : Fin 32) (p : Packet) (e : Fin 2048), (s.linkOf f).inbox.find? (·.ptype == 3) = some p ∧ s.sourceEp f p = some e.val ∧ s.epPasses e = true ∧ (s.epOf e).cutting = false ∧ s.on (R.MF_CFG_EN e) = true ∧ s.mfLevel e + (4 + (wordsOf p.payload).length + 7) / 8 ≤ s.get (R.MF_CFG_DEPTH e)) ∧
  (∃ (s : State) (f : Fin 32) (p : Packet) (e : Fin 2048), (s.linkOf f).inbox.find? (·.ptype == 5) = some p ∧ s.sourceEp f p = some e.val ∧ bitAt p.tspec 8 = (s.epOf e).epoch ∧ bitAt p.tspec 9 = false ∧ (s.epOf e).resetting = false ∧ (s.epOf e).wait = []) ∧
  (∃ (s : State) (e : Fin 2048) (tag : BitVec 8) (q : Fin 16) (r : CtrlReq), ((s.epOf e).out ++ (s.epOf e).wait).find? (fun r => r.tag == tag.toNat) = some r ∧ r.purpose = .port q) ∧
  (∃ (s : State) (who : Who) (v : Word), s.hears who = true ∧ bitAt v.toNat 4 = true) :=
  ⟨⟨W.ep (W.link (W.w W.live) 31 { partner := some 2047, inbox := [{ ptype := 2, tspec := 0x203, payload := [1, 2, 3, 4] }] }) 2047 { out := [W.creq] }, 31, { ptype := 2, tspec := 0x203, payload := [1, 2, 3, 4] }, 2047, 15, W.creq,
    by decide +kernel⟩,
  ⟨W.ep (W.link (W.w W.live) 31 { partner := some 2047, inbox := [{ ptype := 2, tspec := 0x303 }] }) 2047 { out := [{ W.creq with write := true }] }, 31, { ptype := 2, tspec := 0x303 }, 2047, 15, { W.creq with write := true },
    by decide +kernel⟩,
  ⟨W.ep (W.link (W.w W.live) 31 { partner := some 2047, inbox := [{ ptype := 2, tspec := 0xA03 }] }) 2047 { out := [W.creq] }, 31, { ptype := 2, tspec := 0xA03 }, 2047,
    by decide +kernel⟩,
  ⟨W.ep (W.link (W.w (W.live ++ [(R.MF_CFG_EN 2047, 1), (R.MF_CFG_DEPTH 2047, 1)])) 31 { partner := some 2047, inbox := [{ ptype := 2, tspec := 0x403, hdr := [7], payload := [1, 2, 3, 4] }] }) 2047 {}, 31, { ptype := 2, tspec := 0x403, hdr := [7], payload := [1, 2, 3, 4] }, 2047,
    by decide +kernel⟩,
  ⟨W.ep (W.link (W.w (W.live ++ [(R.MF_CFG_EN 2047, 1), (R.MF_CFG_DEPTH 2047, 1)])) 31 { partner := some 2047, inbox := [{ ptype := 3, tspec := 3, hdr := [7], payload := [1, 2, 3, 4] }] }) 2047 {}, 31, { ptype := 3, tspec := 3, hdr := [7], payload := [1, 2, 3, 4] }, 2047,
    by decide +kernel⟩,
  ⟨W.ep (W.link (W.w (W.live ++ [(R.EP_INFO_CREDITS 2047, 3)])) 31 { partner := some 2047, inbox := [{ ptype := 5, tspec := 2 }] }) 2047 { credits := 1 }, 31, { ptype := 5, tspec := 2 }, 2047,
    by decide +kernel⟩,
  ⟨W.ep (W.link (W.w W.live) 31 {}) 2047 { out := [W.creq] }, 2047, 3, 15, W.creq,
    by decide +kernel⟩,
  ⟨W.w [], .skep, 0x18,
    by decide +kernel⟩⟩

theorem witness_LinkTimingCommands :
  (∃ (s : State) (f : Fin 32) (p : Packet) (id : Nat) (t1 : Nat), (s.linkOf f).inbox.find? (fun p => p.ptype == 4 && bitsOf p.tspec 0 4 == 3) = some p ∧ (s.linkOf f).echoSent.find? (fun x => x.1 == bitsOf (p.hdr.headD 0) 0 16) = some (id, t1) ∧ (s.linkOf f).delays = []) ∧
  (∃ (s : State) (f : Fin 32), s.linkState f = 4 ∧ s.on (R.LINK_CTRL_ECHO_EN f) = true) ∧
  (∃ (s : State) (f : Fin 32), s.linkState f = 4 ∧ s.on (R.TIME_POS_CFG_PERIOD f) = true ∧ s.on (R.PARTNER_CAP_TIME_POS f) = true) ∧
  (∃ (s : State) (f : Fin 32) (p : Packet), (s.linkOf f).inbox.find? (·.ptype == 6) = some p ∧ s.linkState f = 3 ∧ bitAt (leAt p.payload 0 1) 1 = true ∧ bitAt p.tspec 0 = false ∧ (s.linkOf f).ackIn = false) ∧
  (∃ (s : State) (f : Fin 32) (p : Packet), (s.linkOf f).inbox.find? (·.ptype == 6) = some p ∧ s.linkState f = 3 ∧ leAt p.payload 0 1 % 4 = 0) ∧
  (∃ (s : State) (f : Fin 32) (p : Packet), (s.linkOf f).inbox.find? (·.ptype == 6) = some p ∧ s.linkState f = 3 ∧ leAt p.payload 0 1 % 4 ≠ 0 ∧ bitAt p.tspec 0 = true ∧ (s.linkOf f).ackOut = true) ∧
  (∃ (s : State) (f : Fin 32), s.linkState f = 3 ∧ (s.linkOf f).ackIn = true ∧ (s.linkOf f).ackOut = true) ∧
  (∃ (s : State) (f : Fin 32), s.linkState f = 3 ∧ ((s.linkOf f).ackIn && (s.linkOf f).ackOut) = false) ∧
  (∃ (s : State) (who : Who) (f : Fin 32) (v : Word), s.hears who = true ∧ bitAt v.toNat 2 = true ∧ s.linkState f = 4) ∧
  (∃ (s : State) (l : Fin 32) (sym : BitVec 130), s.laneReady l = true ∧ s.laneLooped l = false ∧ markerValid (s.markerBits l sym.toNat) = true ∧ s.linkAt l = none) ∧
  (∃ (s : State) (l : Fin 32), s.on (R.LL_STATUS_AM_LOCK l) = true ∧ (s.laneOf l).amMiss < 3 ∧ s.linkAt l = none) ∧
  (∃ (s : State) (f : Fin 32) (prev : BitVec 16) (rx : BitVec 5440) (cw : List Nat), s.linkState f = 2 ∧ (s.linkOf f).aligned = true ∧ (s.linkOf f).since ≠ 7 ∧ (s.linkLanes f).all s.laneLooped = false ∧ rsDecode (s.mergeLanes f (s.linkBits f (s.rxLanes f prev.toNat rx.toNat))) = some (0, cw)) :=
  ⟨⟨W.link (W.w [(R.LINK_STATUS_LINK_STATE 31, 4)]) 31 { inbox := [{ ptype := 4, tspec := 3, hdr := [5 + 100 * 2 ^ 16] }], echoSent := [(4, 900), (5, 1000)], echoes := 6 }, 31, { ptype := 4, tspec := 3, hdr := [5 + 100 * 2 ^ 16] }, 5, 1000,
    by decide +kernel⟩,
  ⟨W.link (W.w [(R.LINK_STATUS_LINK_STATE 31, 4), (R.LINK_CTRL_ECHO_EN 31, 1)]) 31 {}, 31,
    by decide +kernel⟩,
  ⟨W.link (W.w [(R.LINK_STATUS_LINK_STATE 31, 4), (R.TIME_POS_CFG_PERIOD 31, 5), (R.PARTNER_CAP_TIME_POS 31, 1)]) 31 {}, 31,
    by decide +kernel⟩,
  ⟨W.link (W.w [(R.LINK_STATUS_LINK_STATE 31, 3)]) 31 { inbox := [W.hello 2 0] }, 31, W.hello 2 0,
    by decide +kernel⟩,
  ⟨W.link (W.w [(R.LINK_STATUS_LINK_STATE 31, 3)]) 31 { inbox := [W.hello 4 0] }, 31, W.hello 4 0,
    by decide +kernel⟩,
  ⟨W.link (W.w [(R.LINK_STATUS_LINK_STATE 31, 3)]) 31 { inbox := [W.hello 2 1], ackOut := true, heard := true }, 31, W.hello 2 1,
    by decide +kernel⟩,
  ⟨W.link (W.w [(R.LINK_STATUS_LINK_STATE 31, 3)]) 31 { heard := true, ackIn := true, ackOut := true }, 31,
    by decide +kernel⟩,
  ⟨W.link (W.w [(R.LINK_STATUS_LINK_STATE 31, 3)]) 31 { heard := true, ackIn := true }, 31,
    by decide +kernel⟩,
  ⟨W.link (W.w [(R.LINK_STATUS_LINK_STATE 31, 4)]) 31 {}, .skep, 31, 7,
    by decide +kernel⟩,
  ⟨{ W.w [(R.LANE_STATUS_READY 31, 1)] with lanes := [(31, { rate := 2 })] }, 31, W.marker,
    by decide +kernel⟩,
  ⟨{ W.w [(R.LL_STATUS_AM_LOCK 31, 1)] with lanes := [(31, { amMiss := 2 })] }, 31,
    by decide +kernel⟩,
  ⟨W.link (W.w [(R.LINK_STATUS_LINK_STATE 24, 2), (R.LINK_CTRL_WIDTH 24, 3)]) 24 { aligned := true }, 24, 0, 0, List.replicate 544 0,
    by decide +kernel⟩⟩

theorem witness_TriggerAndStreamCommands :
  (∃ (s : State) (f : Fin 32) (p : Packet) (e : Fin 2048), (s.linkOf f).inbox.find? (fun p => p.ptype == 7 && p.tspec % 16 == 0) = some p ∧ bitsOf (p.hdr.headD 0) 0 6 ≠ 0 ∧ bitAt (p.hdr.headD 0) 6 = true ∧ (s.epsOn f).find? (fun e => s.get (R.EP_INFO_SLOT e) == bitsOf (p.hdr.headD 0) 0 6 && s.on (R.EP_INFO_BEHIND_HUB e) && s.epState e != 3) = some e.val) ∧
  (∃ (s : State) (f : Fin 32) (p : Packet), (s.linkOf f).inbox.find? (fun p => p.ptype == 7 && p.tspec % 16 == 0) = some p ∧ bitsOf (p.hdr.headD 0) 0 6 ≠ 0 ∧ bitAt (p.hdr.headD 0) 6 = false ∧ (s.epsOn f).find? (fun e => s.get (R.EP_INFO_SLOT e) == bitsOf (p.hdr.headD 0) 0 6 && s.on (R.EP_INFO_BEHIND_HUB e) && s.epState e != 3) = none) ∧
  (∃ (s : State) (f : Fin 32) (p : Packet) (d : Fin 4096), (s.linkOf f).inbox.find? (fun p => p.ptype == 7 && p.tspec % 16 == 3) = some p ∧ s.descs.find? (fun d => s.running d && s.get (R.SD_BIND_EP d) == bitsOf (p.hdr.getD 0 0) 0 11 && s.get (R.SD_BIND_STREAM d) == bitsOf (p.hdr.getD 0 0) 12 4) = some d.val ∧ (s.streamOf d).expect = some (bitsOf (p.hdr.getD 0 0) 16 32)) ∧
  (∃ (s : State) (f : Fin 32) (i : Fin 8) (tx : Nat) (q : TrigReq), (s.trigOf f i).wait = some q ∧ s.detTrig f = true ∧ s.trigBehind f i q = false ∧ (s.launchFloor f (s.get (R.TRIG_CTRL_GROUP f i)) : Int) ≤ 4 * s.get (R.TRIG_LAT_NS f i) - tx - s.get (R.LINK_DELAY_DELAY f)) ∧
  (∃ (s : State) (f : Fin 32) (i : Fin 8) (tx : Nat) (q : TrigReq), (s.trigOf f i).wait = some q ∧ ((s.detTrig f = false ∧ (tx : Int) < s.trigTarget f i) ∨ s.trigBehind f i q = true)) ∧
  (∃ (s : State) (f : Fin 32) (i : Fin 8) (tx : Nat) (bnd : Nat) (q : TrigReq), (s.trigOf f i).wait = some q ∧ s.detTrig f = false ∧ s.trigBehind f i q = false ∧ s.trigTarget f i + ((bnd : Int) - s.trigTarget f i) % s.blockTime f < tx) ∧
  (∃ (s : State) (who : Who) (f : Fin 32) (i : Fin 8) (v : Word), s.hears who = true ∧ s.on (R.TRIG_CTRL_EN f i) = false ∧ bitAt v.toNat 0 = true ∧ s.linkState f = 4 ∧ s.on (R.LINK_DELAY_VALID f) = true ∧ s.detTrig f = false ∧ s.minLat f i ≤ s.get (R.TRIG_LAT_NS f i)) ∧
  (∃ (s : State) (who : Who) (f : Fin 32) (i : Fin 8) (v : Word), s.hears who = true ∧ s.on (R.TRIG_CTRL_EN f i) = false ∧ bitAt v.toNat 0 = true ∧ s.linkState f ≠ 4) ∧
  (∃ (s : State) (f : Fin 32) (p : Packet), (s.linkOf f).inbox.find? (·.ptype == 1) = some p ∧ s.sourceEp f p = none) ∧
  (∃ (s : State) (f : Fin 32) (p : Packet) (e : Fin 2048) (d : Fin 4096), (s.linkOf f).inbox.find? (·.ptype == 1) = some p ∧ s.sourceEp f p = some e.val ∧ s.epState e = 2 ∧ s.epPasses e = true ∧ (s.descsOfEp e).find? (fun d => s.running d && s.get (R.SD_BIND_STREAM d) == p.tspec % 16) = some d.val ∧ s.on (R.SD_CTRL_TILE d) = false ∧ bitAt p.tspec 4 = false ∧ bitAt p.tspec 7 = false ∧ bitsOf (p.hdr.getD 2 0) 0 16 = 0 ∧ bitsOf (p.hdr.getD 2 0) 16 16 ≠ 0 ∧ bitsOf (p.hdr.getD 2 0) 16 16 ≤ 32768 ∧ bitsOf (p.hdr.getD 2 0) 16 16 ≤ s.get (R.SD_GEOM_WIDTH d) ∧ bitsOf (p.hdr.getD 2 0) 32 16 = 0 ∧ bitsOf (p.hdr.getD 2 0) 48 16 = 1 ∧ p.payload.length = s.rowBytes d (bitsOf (p.hdr.getD 2 0) 16 16) ∧ (s.linkOf f).asm.all (fun y => !(y.desc == d && y.line == bitsOf (p.hdr.getD 1 0) 0 32)) = true) :=
  ⟨⟨W.ep (W.link (W.w (W.live ++ [(R.EP_INFO_SLOT 2047, 3), (R.EP_INFO_BEHIND_HUB 2047, 1), (R.PARTNER_CAP_ROLE 31, 1)])) 31 { inbox := [{ ptype := 7, hdr := [3 + 64 + 400 * 2 ^ 16] }] }) 2047 {}, 31, { ptype := 7, hdr := [3 + 64 + 400 * 2 ^ 16] }, 2047,
    by decide +kernel⟩,
  ⟨W.link (W.w [(R.LINK_STATUS_LINK_STATE 31, 4), (R.PARTNER_CAP_ROLE 31, 1)]) 31 { inbox := [{ ptype := 7, hdr := [63] }] }, 31, { ptype := 7, hdr := [63] },
    by decide +kernel⟩,
  ⟨{ W.link (W.w [(R.SD_CTRL_EN 4095, 1), (R.SD_BIND_EP 4095, 2047), (R.SD_BIND_STREAM 4095, 1), (R.SD_STATUS_RUNNING 4095, 1)]) 31 { inbox := [{ ptype := 7, tspec := 3, hdr := [2047 + 2 ^ 12 * 1 + 9 * 2 ^ 16, 12] }] } with streams := [(4095, { expect := some 9 })] }, 31, { ptype := 7, tspec := 3, hdr := [2047 + 2 ^ 12 * 1 + 9 * 2 ^ 16, 12] }, 4095,
    by decide +kernel⟩,
  ⟨W.link (W.w [(R.PARTNER_CAP_DET_TRIG 31, 1), (R.LINK_STATUS_VER_MAJOR 31, 2), (R.TRIG_LAT_NS 31 7, 4000)]) 31 { trig := [(7, { wait := some ⟨1, 2, 3, 4, 4⟩ })] }, 31, 7, 10, ⟨1, 2, 3, 4, 4⟩,
    by decide +kernel⟩,
  ⟨W.link (W.w [(R.TRIG_LAT_NS 31 7, 4000)]) 31 { trig := [(7, { wait := some ⟨1, 2, 3, 4, 4⟩ })] }, 31, 7, 10, ⟨1, 2, 3, 4, 4⟩,
    by decide +kernel, Or.inl (by decide +kernel)⟩,
  ⟨W.link (W.w [(R.TRIG_LAT_NS 31 7, 4000)]) 31 { trig := [(7, { wait := some ⟨1, 2, 3, 4, 4⟩ })] }, 31, 7, 20000, 9, ⟨1, 2, 3, 4, 4⟩,
    by decide +kernel⟩,
  ⟨W.link (W.w [(R.LINK_STATUS_LINK_STATE 31, 4), (R.LINK_DELAY_VALID 31, 1), (R.TRIG_LAT_NS 31 7, 4000)]) 31 {}, .skep, 31, 7, 0x301,
    by decide +kernel⟩,
  ⟨W.w [], .skep, 31, 7, 1,
    by decide +kernel⟩,
  ⟨W.link (W.w []) 31 { inbox := [{ ptype := 1, hdr := [0, 0, 0] }] }, 31, { ptype := 1, hdr := [0, 0, 0] },
    by decide +kernel⟩,
  ⟨W.ep (W.link (W.w (W.live ++ [(R.SD_CTRL_EN 4095, 1), (R.SD_BIND_EP 4095, 2047), (R.SD_BIND_STREAM 4095, 1), (R.SD_STATUS_RUNNING 4095, 1), (R.SD_GEOM_WIDTH 4095, 4)])) 31 { partner := some 2047, inbox := [{ ptype := 1, tspec := 1, hdr := [0, 5, 4 * 2 ^ 16 + 2 ^ 48], payload := [1, 2, 3, 4] }] }) 2047 {}, 31, { ptype := 1, tspec := 1, hdr := [0, 5, 4 * 2 ^ 16 + 2 ^ 48], payload := [1, 2, 3, 4] }, 2047, 4095,
    by decide +kernel⟩⟩

theorem witness_EndpointCommands :
  (∃ (s : State) (who : Who) (e : Fin 2048) (v : Word), s.hears who = true ∧ bitAt v.toNat 1 = true ∧ s.epState e = 3) ∧
  (∃ (s : State), s.skepRuns = true ∧ s.on R.HEALTH_CFG_PERIOD = true) ∧
  (∃ (s : State) (who : Who) (e : Fin 2048), s.hears who = true ∧ (s.descsOfEp e).any s.running = false) ∧
  (∃ (s : State) (who : Who) (e : Fin 2048), s.hears who = true ∧ (s.descsOfEp e).any s.running = true) ∧
  (∃ (s : State) (who : Who) (p : Fin 16) (v : Word), s.hears who = true ∧ bitAt v.toNat 0 = true ∧ s.on (R.CP_RESULT_DONE p) = false) ∧
  (∃ (s : State) (who : Who) (p : Fin 16) (v : Word) (st : Nat), s.hears who = true ∧ bitAt v.toNat 0 = true ∧ s.on (R.CP_RESULT_DONE p) = true ∧ s.cpRefusal (s.get (R.CP_EP_EP p)) (s.get (R.CP_ADDR_ADDR p)) (s.get (R.CP_REQ_WORDS p)) = some st) ∧
  (∃ (s : State) (who : Who) (p : Fin 16) (v : Word), s.hears who = true ∧ bitAt v.toNat 0 = true ∧ s.on (R.CP_RESULT_DONE p) = true ∧ s.cpRefusal (s.get (R.CP_EP_EP p)) (s.get (R.CP_ADDR_ADDR p)) (s.get (R.CP_REQ_WORDS p)) = none) :=
  ⟨⟨W.ep (W.w [(R.EP_INFO_EP_STATE 2047, 3), (R.EPT_COUNT_LOST, 1)]) 2047 { lostClk := 3 }, .fn1, 2047, 2,
    by decide +kernel⟩,
  ⟨W.run (W.ep (W.w (W.live ++ [(R.HEALTH_CFG_PERIOD, 9)])) 2047 { credits := 1 }),
    by decide +kernel⟩,
  ⟨W.w [], .fn1, 2047,
    by decide +kernel⟩,
  ⟨W.w [(R.SD_CTRL_EN 4095, 1), (R.SD_BIND_EP 4095, 2047), (R.SD_STATUS_RUNNING 4095, 1)], .fn1, 2047,
    by decide +kernel⟩,
  ⟨W.w [(R.CP_RESULT_DONE 15, 0)], .fn1, 15, 1,
    by decide +kernel⟩,
  ⟨W.w [(R.CP_REQ_WORDS 15, 0)], .fn1, 15, 1, 14,
    by decide +kernel⟩,
  ⟨W.ep (W.link (W.w (W.live ++ [(R.CP_EP_EP 15, 2047), (R.CP_ADDR_ADDR 15, 0x300), (R.CP_REQ_WORDS 15, 64)])) 31 {}) 2047 { credits := 1 }, .fn1, 15, 1,
    by decide +kernel⟩⟩

theorem witness_DescriptorAndFifoCommands :
  (∃ (s : State) (who : Who) (d : Fin 4096), s.hears who = true ∧ s.on (R.SD_CTRL_EN d) = true) ∧
  (∃ (s : State) (who : Who) (d : Fin 4096), s.hears who = true ∧ s.on (R.SD_CTRL_EN d) = false ∧ s.epState (s.get (R.SD_BIND_EP d)) ≠ 2) ∧
  (∃ (s : State) (who : Who) (d : Fin 4096) (v : Word), s.hears who = true ∧ s.skepRuns = true ∧ s.on (R.SD_CTRL_EN d) = false ∧ bitAt v.toNat 0 = true ∧ ((s.writeReg (R.SD_CTRL d) v).clear (R.SD_CTRL_EN d)).admitErr d = 0) ∧
  (∃ (s : State) (who : Who) (d : Fin 4096), s.hears who = true ∧ s.on (R.SD_CTRL_EN d) = true) ∧
  (∃ (s : State) (who : Who) (d : Fin 4096), s.hears who = true ∧ s.on (R.SD_CTRL_EN d) = false) ∧
  (∃ (s : State) (who : Who) (e : Fin 2048) (v : Word), s.hears who = true ∧ s.on (R.MF_CFG_EN e) = false ∧ 9 ≤ bitsOf v.toNat 16 11 ∧ bitsOf v.toNat 16 11 ≤ 1024 ∧ bitsOf v.toNat 16 11 ≤ s.get R.MF_POOL_FREE_WORDS + s.get (R.MF_CFG_DEPTH e) ∧ bitsOf v.toNat 16 11 ≠ s.get (R.MF_CFG_DEPTH e)) ∧
  (∃ (s : State) (who : Who) (e : Fin 2048) (v : Word), s.hears who = true ∧ s.on (R.MF_CFG_EN e) = true ∧ bitsOf v.toNat 16 11 ≠ s.get (R.MF_CFG_DEPTH e)) ∧
  (∃ (s : State) (who : Who) (v : Word), s.hears who = true ∧ bitAt v.toNat 0 = true) ∧
  (∃ (s : State) (e : Fin 2048) (m : MsgItem) (rest : List MsgItem), (s.epOf e).items = m :: rest ∧ s.on (R.RING_CTRL_EN (s.get (R.MF_CFG_RING e))) = true ∧ s.queued < 65536 ∧ (s.ringQueue (s.get (R.MF_CFG_RING e))).length + 3 ≤ s.ringFree (s.get (R.MF_CFG_RING e))) :=
  ⟨⟨W.w [(R.SD_CTRL_EN 4095, 1)], .skep, 4095,
    by decide +kernel⟩,
  ⟨W.w [], .skep, 4095,
    by decide +kernel⟩,
  ⟨W.ep (W.link (W.w (W.live ++ [(R.SKEP_STATUS_STATE, 0), (R.SD_BIND_EP 4095, 2047), (R.SD_BIND_STREAM 4095, 1), (R.SD_BIND_HEAD 4095, 63), (R.SD_GEOM_WIDTH 4095, 4), (R.SD_TILE_TILE_ROWS 4095, 1), (R.SD_RATE_MAX_RATE 4095, 1), (⟨R.ID_WORD 2047 4, 0, 32⟩, 0x3F0777), (⟨R.ID_WORD 2047 5, 0, 32⟩, 1000)])) 31 {}) 2047 { credits := 1 }, .skep, 4095, 1,
    by decide +kernel⟩,
  ⟨W.w [(R.SD_CTRL_EN 4095, 1), (R.SD_STATUS_RUNNING 4095, 1)], .skep, 4095,
    by decide +kernel⟩,
  ⟨W.w [], .skep, 4095,
    by decide +kernel⟩,
  ⟨W.w [(R.MF_POOL_FREE_WORDS, 1024)], .skep, 2047, 0x04000A01,
    by decide +kernel⟩,
  ⟨W.w [(R.MF_CFG_EN 2047, 1), (R.MF_CFG_DEPTH 2047, 9)], .skep, 2047, 0x00100001,
    by decide +kernel⟩,
  ⟨W.w [], .skep, 1,
    by decide +kernel⟩,
  ⟨W.ep (W.w [(R.MF_CFG_EN 2047, 1), (R.MF_CFG_DEPTH 2047, 9), (R.MF_STATUS_LEVEL 2047, 4), (R.MF_CFG_RING 2047, 127), (R.RING_CTRL_EN 127, 1), (R.RING_CTRL_SIZE_LOG2 127, 6)]) 2047 { items := [⟨[1, 2, 3]⟩, ⟨[4]⟩] }, 2047, ⟨[1, 2, 3]⟩, [⟨[4]⟩],
    by decide +kernel⟩⟩

theorem witness_ChainFrameCommands :
  (∃ (s : State) (n : Fin 8) (rest : List LFrame), (s.chainOf n).queue = .nop :: rest ∧ (s.chainOf n).held = none ∧ (s.chainOf n).prev = none ∧ s.unitState (chainUnit n) ≠ .stopping) ∧
  (∃ (s : State) (n : Fin 8) (rest : List LFrame), (s.chainOf n).queue = .length :: rest ∧ (s.chainOf n).held = none ∧ s.unitState (chainUnit n) ≠ .stopping) ∧
  (∃ (s : State) (n : Fin 8) (rest : List LFrame) (m : LCommit), (s.chainOf n).queue = .commit :: rest ∧ (s.chainOf n).held = none ∧ (s.chainOf n).prev = none ∧ (s.chainOf n).commit = some m ∧ m.now = true ∧ m.steps ≤ m.step ∧ s.unitState (chainUnit n) ≠ .stopping) ∧
  (∃ (s : State) (n : Fin 8) (at' : Nat) (r : Nat) (w : Nat) (rest : List (Nat × LEdge)), (s.chainOf n).edges = (at', .rowUp r w) :: rest) ∧
  (∃ (s : State) (n : Fin 8) (at' : Nat) (rest : List (Nat × LEdge)), (s.chainOf n).edges = (at', .stepDown) :: rest ∧ (s.chainOf n).latchDue = false) :=
  ⟨⟨W.chain (W.w []) 7 { queue := [.nop, .commit] }, 7, [.commit],
    by decide +kernel⟩,
  ⟨W.chain (W.u (W.w []) (chainUnit 7) .starting) 7 { queue := [.length] }, 7, [],
    by decide +kernel⟩,
  ⟨W.chain (W.u (W.w [(R.LING_CH_STATE_COMMIT_PEND 7, 1)]) (chainUnit 7) .on) 7 { queue := [.commit], commit := some ⟨1, true, 0, 0, 0, 0, 0, 1⟩, shadow := [(8176, 5)] }, 7, [], ⟨1, true, 0, 0, 0, 0, 0, 1⟩,
    by decide +kernel⟩,
  ⟨W.chain (W.u (W.w []) (chainUnit 7) .on) 7 { edges := [(9, .rowUp 15 5)] }, 7, 9, 15, 5, [],
    by decide +kernel⟩,
  ⟨W.chain (W.u (W.w []) (chainUnit 7) .on) 7 { edges := [(9, .stepDown)], enable := true }, 7, 9, [],
    by decide +kernel⟩⟩

theorem witness_LightingCommands :
  (∃ (s : State) (who : Who) (n : Fin 8) (v : Word), s.hears who = true ∧ bitAt v.toNat 0 = true ∧ s.on (R.LING_CH_STATE_COMMIT_PEND n) = true) ∧
  (∃ (s : State) (who : Who) (n : Fin 8) (v : Word), s.hears who = true ∧ bitAt v.toNat 0 = true ∧ s.on (R.LING_CH_STATE_COMMIT_PEND n) = false ∧ s.unitOn (chainUnit n) = false) ∧
  (∃ (s : State) (who : Who) (n : Fin 8) (v : Word), s.hears who = true ∧ bitAt v.toNat 0 = true ∧ bitAt v.toNat 2 = true ∧ bitsOf v.toNat 8 8 = 0 ∧ s.on (R.LING_CH_STATE_COMMIT_PEND n) = false ∧ s.unitOn (chainUnit n) = true ∧ (s.place n (s.codeOf n (bitsOf v.toNat 1 1))).fits = true ∧ (s.place n (s.codeOf n (bitsOf v.toNat 1 1))).maxPulses = [] ∧ s.burstSpan n (if s.on (R.LING_CH_CTRL_BURST n) then (s.place n (s.codeOf n (bitsOf v.toNat 1 1))).rowsUsed else 1) (s.get (R.GEN_CTRL_WIDTH n)) ≤ s.get (R.CH_BURST_BURST_MAX n)) ∧
  (∃ (s : State) (n : Fin 8), s.on (R.GEN_CTRL_GEN_EN n) = true ∧ (s.chainOf n).genStall = true) ∧
  (∃ (s : State) (n : Fin 8), s.unitOn (chainUnit n) = true ∧ ((∀ f ∈ (s.chainOf n).queue, ∀ k, f ≠ .status k))) ∧
  (∃ (s : State) (n : Fin 8) (d : Fin 32) (c : Fin 16), s.carries n d c = true ∧ bitAt (s.get (R.UNVER_UNVERIFIED n d)) c = false) ∧
  (∃ (s : State) (who : Who) (v : Word), s.hears who = true ∧ who ≠ .fn0 ∧ bitAt v.toNat 0 = true) ∧
  (∃ (s : State), s.hears .fn0 = true) ∧
  (∃ (s : State) (n : Fin 8) (h : LHead), s.skepRuns = true ∧ s.on (R.LING_CH_STATE_LATCHED n) = false ∧ s.unitOn (chainUnit n) = true ∧ (s.chainOf n).heads = [h] ∧ h.mode = 0 ∧ s.doseInhibited n 0 h = false) ∧
  (∃ (s : State) (n : Fin 8) (h : LHead), s.skepRuns = true ∧ s.on (R.LING_CH_STATE_LATCHED n) = false ∧ s.unitOn (chainUnit n) = true ∧ (s.chainOf n).heads = [h] ∧ h.mode = 0 ∧ s.doseInhibited n 0 h = true) ∧
  (∃ (s : State) (n : Fin 8) (h : LHead), s.skepRuns = true ∧ s.on (R.LING_CH_STATE_LATCHED n) = false ∧ s.unitOn (chainUnit n) = true ∧ (s.chainOf n).heads = [h] ∧ h.mode = 0 ∧ h.deferred = true ∧ s.doseInhibited n 0 h = false) ∧
  (∃ (s : State) (n : Fin 8), s.skepRuns = true ∧ s.on (R.LING_CH_STATE_LATCHED n) = true) ∧
  (∃ (s : State) (n : Fin 8), s.skepRuns = true ∧ s.on (R.LING_CH_STATE_LATCHED n) = true) ∧
  (∃ (s : State) (n : Fin 8), s.skepRuns = false ∧ s.unitOn (chainUnit n) = true) ∧
  (∃ (s : State) (n : Fin 8), s.skepRuns = false ∧ s.unitOn (chainUnit n) = true) ∧
  (∃ (s : State) (who : Who) (n : Fin 8), s.hears who = true ∧ s.unitOff (chainUnit n) = true) ∧
  (∃ (s : State) (who : Who) (n : Fin 8), s.hears who = true ∧ s.unitOff (chainUnit n) = false) :=
  ⟨⟨W.w [(R.LING_CH_STATE_COMMIT_PEND 7, 1)], .skep, 7, 1,
    by decide +kernel⟩,
  ⟨W.w [], .skep, 7, 1,
    by decide +kernel⟩,
  ⟨W.chain (W.u (W.w [(R.LING_CH_STATE_DRIVERS 7, 32), (R.CH_BURST_BURST_MAX 7, 4095), (R.CH_BUDGET_BUDGET 7, 1000)]) (chainUnit 7) .on) 7 { heads := [W.head], codes := [(16383, 100)] }, .skep, 7, 7,
    by decide +kernel⟩,
  ⟨W.chain (W.w [(R.GEN_CTRL_GEN_EN 7, 1)]) 7 { genStall := true }, 7,
    by decide +kernel⟩,
  ⟨W.u (W.w []) (chainUnit 7) .on, 7,
    by decide +kernel, (fun f hf _ => absurd (show f ∈ ([] : List LFrame) from hf) (by simp))⟩,
  ⟨W.chain (W.w []) 7 { heads := [W.head], active := [(dKey 31 15 15, 9)] }, 7, 31, 15,
    by decide +kernel⟩,
  ⟨W.w [], .fn1, 1,
    by decide +kernel⟩,
  ⟨W.w [],
    by decide +kernel⟩,
  ⟨W.chain (W.u (W.run (W.w [(R.LING_CH_STATE_DRIVERS 7, 32), (R.HEAD_TEMP_TEMP 7 0, 70)])) (chainUnit 7) .on) 7 { heads := [W.head] }, 7, W.head,
    by decide +kernel⟩,
  ⟨W.chain (W.u (W.run (W.w [(R.LING_CH_STATE_DRIVERS 7, 32), (R.HEAD_TEMP_TEMP 7 0, 71)])) (chainUnit 7) .on) 7 { heads := [W.head] }, 7, W.head,
    by decide +kernel⟩,
  ⟨W.chain (W.u (W.run (W.w [(R.LING_CH_STATE_DRIVERS 7, 32)])) (chainUnit 7) .on) 7 { heads := [{ W.head with deferred := true }] }, 7, { W.head with deferred := true },
    by decide +kernel⟩,
  ⟨W.run (W.w [(R.LING_CH_STATE_LATCHED 7, 1)]), 7,
    by decide +kernel⟩,
  ⟨W.run (W.w [(R.LING_CH_STATE_LATCHED 7, 1)]), 7,
    by decide +kernel⟩,
  ⟨W.chain (W.u (W.w [(R.SKEP_STATUS_STATE, 1)]) (chainUnit 7) .on) 7 {}, 7,
    by decide +kernel⟩,
  ⟨W.u (W.w [(R.SKEP_STATUS_STATE, 1)]) (chainUnit 7) .on, 7,
    by decide +kernel⟩,
  ⟨W.w [], .skep, 7,
    by decide +kernel⟩,
  ⟨W.u (W.w []) (chainUnit 7) .fault, .skep, 7,
    by decide +kernel⟩⟩

theorem witness_CreelRingCommands :
  (∃ (s : State) (who : Who) (k : Fin 3) (v : Word), s.hears who = true ∧ s.allocated.isEmpty = true ∧ ((∀ i, i < 16 → s.on (R.ACT_WIN_CFG_EN i) = false)) ∧ ((k.val = 0 → bitsOf v.toNat 0 20 ≤ 262144)) ∧ 0 ≤ (s.set (layoutFld k) (bitsOf v.toNat 0 20)).histQuota) ∧
  (∃ (s : State) (who : Who), s.hears who = true ∧ s.allocated.isEmpty = false) ∧
  (∃ (s : State) (who : Who) (v : Word), s.hears who = true ∧ bitsOf v.toNat 0 20 ≤ 786431) ∧
  (∃ (s : State) (who : Who) (v : Word), s.hears who = true ∧ 786431 < bitsOf v.toNat 0 20) ∧
  (∃ (s : State) (who : Who) (w : Fin 8) (x : Word), s.hears who = true ∧ s.unitOff (viewUnit w) = true ∧ bitAt x.toNat 21 = false ∧ s.on (R.HIST_STATUS_HOLDING w) = false) ∧
  (∃ (s : State) (who : Who) (w : Fin 8), s.hears who = true ∧ s.unitOff (viewUnit w) = false) ∧
  (∃ (s : State) (who : Who) (w : Fin 8) (x : Word), s.hears who = true ∧ s.unitOff (viewUnit w) = true ∧ bitAt x.toNat 21 = true ∧ s.on (R.HIST_STATUS_HOLDING w) = false ∧ (s.histOf w).held = 0) ∧
  (∃ (s : State) (who : Who) (d : Fin 4096), s.hears who = true ∧ s.on (R.SD_CTRL_EN d) = false) ∧
  (∃ (s : State) (who : Who) (d : Fin 4096), s.hears who = true ∧ s.on (R.SD_CTRL_EN d) = true) :=
  ⟨⟨W.w [], .fn1, 2, 1000,
    by decide +kernel⟩,
  ⟨W.hist (W.w []) 7 { ring := [(5000, 1)] }, .fn1,
    by decide +kernel⟩,
  ⟨W.w [], .fn1, 786431,
    by decide +kernel⟩,
  ⟨W.w [], .fn1, 786432,
    by decide +kernel⟩,
  ⟨W.w [], .fn1, 7, 0x100005,
    by decide +kernel⟩,
  ⟨W.u (W.w []) (viewUnit 7) .fault, .fn1, 7,
    by decide +kernel⟩,
  ⟨W.hist (W.w [(R.HIST_STATUS_ALLOCATED 7, 1)]) 7 { ring := [(5000, 1)] }, .fn1, 7, 0x200005,
    by decide +kernel⟩,
  ⟨{ W.w [] with creel := { raw := [(4095, { segs := [(6000, 2)], size := 2 })] } }, .fn1, 4095,
    by decide +kernel⟩,
  ⟨W.w [(R.SD_CTRL_EN 4095, 1)], .fn1, 4095,
    by decide +kernel⟩⟩

theorem witness_MarkCommands :
  (∃ (s : State) (who : Who) (m : Fin 64), s.hears who = true ∧ s.get (R.MARK_STATUS_STATE m) ≠ 2) ∧
  (∃ (s : State) (who : Who) (m : Fin 64) (v : Word), s.hears who = true ∧ s.get (R.MARK_STATUS_STATE m) = 2 ∧ bitAt v.toNat 0 = true) ∧
  (∃ (s : State) (who : Who) (m : Fin 64) (v : Word), s.hears who = true ∧ s.get (R.MARK_STATUS_STATE m) = 2 ∧ bitAt v.toNat 0 = false) ∧
  (∃ (s : State) (who : Who) (m : Fin 64) (c : Instr), s.hears who = true ∧ s.on (R.MARK_STATUS_BUSY m) = true ∧ c ∈ [.markClear who m, .setAt who m, .setAhead who m]) ∧
  (∃ (s : State) (who : Who) (m : Fin 64), s.hears who = true ∧ s.on (R.MARK_STATUS_BUSY m) = false ∧ s.get (R.MARK_STATUS_STATE m) = 2) ∧
  (∃ (s : State) (who : Who) (m : Fin 64), s.hears who = true ∧ s.on (R.MARK_STATUS_BUSY m) = false ∧ s.get (R.MARK_STATUS_STATE m) ≠ 0) ∧
  (∃ (s : State) (m : Fin 64), (s.markOf m).setAt = true ∧ s.get (R.MARK_STATUS_STATE m) ≠ 0 ∧ s.retainedSeqs (s.get (R.MARK_CFG_VIEW m)) = []) ∧
  (∃ (s : State) (m : Fin 64) (q : Nat) (r : Nat) (qs : List Nat), (s.markOf m).setAt = true ∧ s.get (R.MARK_STATUS_STATE m) ≠ 0 ∧ s.retainedSeqs (s.get (R.MARK_CFG_VIEW m)) = q :: qs ∧ posAfter (s.rowPosAt (s.get (R.MARK_CFG_VIEW m)) false q) (s.get2 (R.MARK_POS_LO_POS m) (R.MARK_POS_HI_POS m)) = false ∧ (q :: qs).find? (fun r => !posBefore (s.rowPosAt (s.get (R.MARK_CFG_VIEW m)) false r) (s.get2 (R.MARK_POS_LO_POS m) (R.MARK_POS_HI_POS m))) = some r) ∧
  (∃ (s : State) (m : Fin 64) (q : Nat) (qs : List Nat), (s.markOf m).setAt = true ∧ s.get (R.MARK_STATUS_STATE m) ≠ 0 ∧ s.retainedSeqs (s.get (R.MARK_CFG_VIEW m)) = q :: qs ∧ posAfter (s.rowPosAt (s.get (R.MARK_CFG_VIEW m)) false q) (s.get2 (R.MARK_POS_LO_POS m) (R.MARK_POS_HI_POS m)) = true) ∧
  (∃ (s : State) (who : Who) (m : Fin 64) (c : Nat), s.hears who = true ∧ s.on (R.MARK_STATUS_BUSY m) = false ∧ s.get (R.MARK_STATUS_STATE m) = 1 ∧ s.selCh? R.MARK_SUB_A_SEL_0 = some c) :=
  ⟨⟨W.w [], .skep, 63,
    by decide +kernel⟩,
  ⟨W.w [(R.MARK_STATUS_STATE 63, 2)], .skep, 63, 0xFFFF000F,
    by decide +kernel⟩,
  ⟨W.w [(R.MARK_STATUS_STATE 63, 2), (R.MARK_CFG_EN 63, 1)], .skep, 63, 0xFFFF000E,
    by decide +kernel⟩,
  ⟨W.w [(R.MARK_STATUS_BUSY 63, 1)], .fn1, 63, .setAt .fn1 63,
    by decide +kernel⟩,
  ⟨W.w [(R.MARK_STATUS_STATE 63, 2), (R.MARK_STATUS_BLOCKING 63, 1)], .skep, 63,
    by decide +kernel⟩,
  ⟨W.w [(R.MARK_STATUS_STATE 63, 1)], .skep, 63,
    by decide +kernel⟩,
  ⟨W.mark (W.w [(R.MARK_STATUS_STATE 63, 1)]) 63 { setAt := true }, 63,
    by decide +kernel⟩,
  ⟨let s := W.rows [(R.MARK_STATUS_STATE 63, 1), (R.MARK_CFG_VIEW 63, 7), (R.MARK_POS_LO_POS 63, 15)] 7; { s with creel := { s.creel with marks := [(63, { setAt := true })] } }, 63, 0, 1, [1, 2],
    by decide +kernel⟩,
  ⟨let s := W.rows [(R.MARK_STATUS_STATE 63, 2), (R.MARK_CFG_VIEW 63, 7), (R.MARK_POS_LO_POS 63, 9)] 7; { s with creel := { s.creel with marks := [(63, { setAt := true })] } }, 63, 0, [1, 2],
    by decide +kernel⟩,
  ⟨W.w [(R.MARK_STATUS_STATE 63, 1), (R.MARK_SUB_A_SEL_0, 0x105), (R.MARK_POS_LO_POS 63, 9)], .skep, 63, 5,
    by decide +kernel⟩⟩

theorem witness_MemoryUnitCommands :
  (∃ (s : State), s.on R.SCRUB_CFG_EN = true ∧ s.on R.MEM_STATUS_MEM_READY = true ∧ s.creel.scrub + 1 < memUnits ∧ ((∀ e ∈ s.creel.flaws, e.unit ≠ s.creel.scrub))) ∧
  (∃ (s : State), s.on R.SCRUB_CFG_EN = true ∧ s.on R.MEM_STATUS_MEM_READY = true ∧ s.creel.scrub + 1 = memUnits) ∧
  (∃ (s : State) (who : Who), s.hears who = true ∧ s.on R.CTX_PEEK_STATUS_DONE = true) ∧
  (∃ (s : State) (who : Who) (v : Word), s.hears who = true ∧ s.on R.CTX_PEEK_STATUS_DONE = true ∧ (Tbl.get false s.creel.cached (bitsOf v.toNat 0 20) = true ∨ s.creel.flaws = [])) ∧
  (∃ (s : State), s.boot.training = true) ∧
  (∃ (s : State) (ok : BitVec 2), s.boot.training = true ∧ ok.toNat ≠ 3) ∧
  (∃ (s : State), s.creel.trained = true ∧ s.on R.MEM_STATUS_MEM_READY = false) :=
  ⟨⟨{ W.w [(R.SCRUB_CFG_EN, 1), (R.MEM_STATUS_MEM_READY, 1)] with creel := { scrub := 2047, flaws := [⟨2048, true⟩] } },
    by decide +kernel⟩,
  ⟨{ W.w [(R.SCRUB_CFG_EN, 1), (R.MEM_STATUS_MEM_READY, 1)] with creel := { scrub := memUnits - 1 } },
    by decide +kernel⟩,
  ⟨W.w [], .skep,
    by decide +kernel⟩,
  ⟨W.w [], .fn1, 0xFFFFF,
    by decide +kernel⟩,
  ⟨{ W.w [] with boot := { training := true } },
    by decide +kernel⟩,
  ⟨{ W.w [] with boot := { training := true } }, 1,
    by decide +kernel⟩,
  ⟨{ W.w [] with creel := { trained := true }, mem := [(5, 5)] },
    by decide +kernel⟩⟩

theorem witness_ConditioningCommands :
  (∃ (s : State) (f : Fin 32) (x : Line) (l : List Line), (s.linkOf f).lines = x :: l ∧ x.desc < 4096 ∧ s.on (R.SD_STATUS_RUNNING x.desc) = true) ∧
  (∃ (s : State) (who : Who) (d : Fin 4096), s.hears who = true ∧ s.on (R.SD_CTRL_EN d) = true) ∧
  (∃ (s : State) (who : Who) (d : Fin 4096), s.hears who = true ∧ s.on (R.SD_CTRL_EN d) = false) :=
  ⟨⟨W.link (W.w [(R.SD_STATUS_RUNNING 4095, 1), (R.SD_GEOM_WIDTH 4095, 4)]) 31 { lines := [⟨4095, 9, 1, 700, true, false, false, 0, 8, [5, 6, 7, 8], [[[5], [6], [7], [8]]]⟩] }, 31, ⟨4095, 9, 1, 700, true, false, false, 0, 8, [5, 6, 7, 8], [[[5], [6], [7], [8]]]⟩, [],
    by decide +kernel⟩,
  ⟨W.w [(R.SD_CTRL_EN 4095, 1)], .skep, 4095,
    by decide +kernel⟩,
  ⟨W.w [], .skep, 4095,
    by decide +kernel⟩⟩

theorem witness_CalibrationCommands :
  (∃ (s : State) (who : Who) (v : Word) (c : Instr), s.hears who = true ∧ s.on R.CAL_RESULT_DONE = false ∧ c ∈ [.load who v, .save who, .liveReset who, .lutLoad who, .lutSave who, .accum who]) ∧
  (∃ (s : State) (who : Who) (v : Word) (c : Instr) (op : Nat) (n : Nat), s.hears who = true ∧ s.on R.CAL_RESULT_DONE = true ∧ (c, op, n) ∈ [(.load who v, 1, 8), (.save who, 2, 8), (.liveReset who, 3, 0), (.lutLoad who, 4, 8192), (.lutSave who, 5, 8192)] ∧ s.get R.CAL_FIRST_FIRST + s.get R.CAL_COUNT_COUNT ≤ (if op < 4 then 2097152 else 512) ∧ s.inHostWin (s.get2 R.CAL_MEM_LO_D R.CAL_MEM_HI_D) (n * s.get R.CAL_COUNT_COUNT) = true) ∧
  (∃ (s : State) (who : Who) (v : Word) (c : Instr), s.hears who = true ∧ s.on R.CAL_RESULT_DONE = true ∧ c ∈ [.load who v, .save who, .liveReset who] ∧ 2097152 < s.get R.CAL_FIRST_FIRST + s.get R.CAL_COUNT_COUNT) ∧
  (∃ (s : State) (who : Who), s.hears who = true ∧ s.on R.CAL_RESULT_DONE = true ∧ s.get R.CAL_FIRST_FIRST < 4096 ∧ s.get R.CAL_COUNT_COUNT ≤ 16 ∧ s.inHostWin (s.get2 R.CAL_MEM_LO_D R.CAL_MEM_HI_D) (4 * s.get (R.SD_GEOM_WIDTH (s.get R.CAL_FIRST_FIRST)) * s.descComps (s.get R.CAL_FIRST_FIRST)) = true) ∧
  (∃ (s : State) (who : Who) (r : CalRun), s.hears who = true ∧ s.cond.run = some r) ∧
  (∃ (s : State) (r : CalRun), s.cond.run = some r ∧ (r.err = 1 ∨ r.err = 2)) ∧
  (∃ (s : State) (r : CalRun), s.cond.run = some r ∧ r.op = 3 ∧ r.err = 0) :=
  ⟨⟨W.w [(R.CAL_RESULT_DONE, 0)], .fn1, 0, .lutSave .fn1,
    by decide +kernel⟩,
  ⟨W.w [(R.HOSTWIN_SEGS_SEGS, 1000), (R.CAL_FIRST_FIRST, 511), (R.CAL_COUNT_COUNT, 1), (R.CAL_MEM_LO_D, 0xFFFF0000), (R.CAL_MEM_HI_D, 11)], .fn1, 0, .lutSave .fn1, 5, 8192,
    by decide +kernel⟩,
  ⟨W.w [(R.CAL_FIRST_FIRST, 2097151), (R.CAL_COUNT_COUNT, 2)], .fn1, 0, .load .fn1 0,
    by decide +kernel⟩,
  ⟨W.w [(R.HOSTWIN_SEGS_SEGS, 1000), (R.CAL_FIRST_FIRST, 4095), (R.CAL_COUNT_COUNT, 16), (R.SD_STATUS_RUNNING 4095, 1), (R.SD_GEOM_WIDTH 4095, 4), (R.CAL_MEM_LO_D, 0xFFFF0000), (R.CAL_MEM_HI_D, 11)], .skep,
    by decide +kernel⟩,
  ⟨W.cal (W.w [(R.CAL_RESULT_DONE, 0)]) { op := 1, mem := 0, first := 0, count := 3, fields := 1 }, .skep, { op := 1, mem := 0, first := 0, count := 3, fields := 1 },
    by decide +kernel⟩,
  ⟨W.cal (W.w [(R.CAL_RESULT_DONE, 0)]) { op := 1, mem := 0, first := 0, count := 3, fields := 1, err := 2 }, { op := 1, mem := 0, first := 0, count := 3, fields := 1, err := 2 },
    by decide +kernel⟩,
  ⟨{ W.w [(R.CAL_RESULT_DONE, 0)] with cond := { cal := [(6, 1)], run := some { op := 3, mem := 0, first := 5, count := 3, fields := 1 } } }, { op := 3, mem := 0, first := 5, count := 3, fields := 1 },
    by decide +kernel⟩⟩

theorem witness_LiveCalibrationCommands :
  (∃ (s : State) (v : Fin 8) (w : ZoneWin), s.zoneNext v = some w ∧ ((∀ h ∈ w.heads, h.desc < 4096))) ∧
  (∃ (s : State) (who : Who) (v : Fin 8) (x : Word), s.hears who = true ∧ s.on (R.LC_CFG_LC_EN v) = false ∧ bitAt x.toNat 0 = true) ∧
  (∃ (s : State) (who : Who) (x : Word), s.hears who = true ∧ bitAt x.toNat 0 = false) :=
  ⟨⟨{ W.w [] with cond := { wins := [{ k := 1, view := 6, start := 0, stop := 9 }, { k := 2, view := 7, start := 100, stop := 200 }] } }, 7, { k := 2, view := 7, start := 100, stop := 200 },
    by decide +kernel⟩,
  ⟨W.w [], .skep, 7, 3,
    by decide +kernel⟩,
  ⟨W.w [], .skep, 2,
    by decide +kernel⟩⟩

theorem witness_PlaitCommands :
  (∃ (s : State) (who : Who) (v : Fin 8), s.hears who = true ∧ s.unitOff (viewUnit v) = true) ∧
  (∃ (s : State) (who : Who) (v : Fin 8) (off : Fin 2048), s.hears who = true ∧ s.unitOff (viewUnit v) = false ∧ (off.val ∈ [1, 2, 3, 6, 7] ∨ (1024 ≤ off.val ∧ off.val % 4 < 2))) ∧
  (∃ (s : State) (who : Who) (v : Fin 8) (x : Word), s.hears who = true ∧ s.unitOff (viewUnit v) = false ∧ bitsOf x.toNat 0 2 ≠ 3 ∧ bitsOf x.toNat 2 2 ≠ 3) ∧
  (∃ (s : State) (who : Who) (x : Word), s.hears who = true ∧ (bitsOf x.toNat 0 2 = 3 ∨ bitsOf x.toNat 2 2 = 3)) ∧
  (∃ (s : State) (who : Who) (v : Fin 8) (x : Word), s.hears who = true ∧ s.unitOff (viewUnit v) = true ∧ ((∀ w : Fin 8, w ≠ v → s.get (R.VW_JOIN_JOIN_KIB w) = 0)) ∧ x.toNat % 2 ^ 16 ≤ 32768) ∧
  (∃ (s : State) (v : Fin 8) (perr : Nat) (r : PRow), (s.plaitRow v perr).2 = some r) ∧
  (∃ (s : State) (v : Fin 8) (h : Fin 256) (q : Nat) (y : PHead) (px : List MapPx) (c : Instr) (margin : Nat), (c, margin) ∈ [(.headTimeout v h, 0), (.lateMarginPass v h, subParts * s.get (R.VW_LATE_LATE_MARGIN v) + 1)] ∧ s.nextRow v (s.plaitOf v) (s.runHeads v (s.plaitOf v)) = some q ∧ (s.runHeads v (s.plaitOf v)).find? (fun y => y.1.head == h.val) = some (y, px) ∧ s.headStat v (s.plaitOf v) y px q = .pending ∧ (margin : Int) ≤ s.pastHead v h q) ∧
  (∃ (s : State) (v : Fin 8), s.on (R.VW_CTRL_TRK_EN v) = true ∧ max 1 (s.get (R.TRK_CFG_TRK_ROWS v)) ≤ (s.plaitOf v).win.length) :=
  ⟨⟨W.w [], .fn1, 7,
    by decide +kernel⟩,
  ⟨W.u (W.w []) (viewUnit 7) .on, .fn1, 7, 1025,
    by decide +kernel⟩,
  ⟨W.u (W.w []) (viewUnit 7) .on, .fn1, 7, 0x3A,
    by decide +kernel⟩,
  ⟨W.w [], .fn1, 0xC,
    by decide +kernel⟩,
  ⟨W.w [], .fn1, 7, 32768,
    by decide +kernel⟩,
  by
    let s := W.plait (W.w [(R.SD_STATUS_RUNNING 4095, 1), (R.SD_GEOM_WIDTH 4095, 4), (R.VW_WIDTH_WIDTH 7, 4), (R.VW_PITCH_PITCH 7, 100),
      (R.VW_GAP_GAP_MAX 7, 1000)]) 7 { heads := [W.phead], begun := true, dir := 1 }
    obtain ⟨r, h⟩ := Option.isSome_iff_exists.mp (show (s.plaitRow 7 0).2.isSome = true by decide +kernel)
    exact ⟨s, 7, 0, r, h⟩,
  ⟨{ W.plait (W.w [(R.SD_STATUS_RUNNING 4095, 1), (R.SD_GEOM_WIDTH 4095, 4), (R.VW_PITCH_PITCH 7, 100), (R.VW_LATE_LATE_MARGIN 7, 0)]) 7 { heads := [W.phead], begun := true, dir := 1, next := some 1300 } with pe := { view := [(7, { acc := 1301 * 2 ^ 24 })] } }, 7, 63, 1300, W.phead, [], .lateMarginPass 7 63, 1,
    by decide +kernel⟩,
  ⟨W.plait (W.w [(R.VW_CTRL_TRK_EN 7, 1), (R.TRK_CFG_TRK_ROWS 7, 2)]) 7 { win := [⟨true, []⟩, ⟨false, []⟩, ⟨false, []⟩] }, 7,
    by decide +kernel⟩⟩

theorem witness_GeometryCommands :
  (∃ (s : State) (who : Who) (c : Instr), s.hears who = true ∧ s.on R.GEOM_RESULT_DONE = false ∧ c ∈ [.loadMap who, .saveMap who, .saveGeom who, .loadGeom who, .trkReset who]) ∧
  (∃ (s : State) (who : Who) (c : Instr) (op : Nat), s.hears who = true ∧ s.on R.GEOM_RESULT_DONE = true ∧ (c, op) ∈ [(.loadMap who, 1), (.saveMap who, 2)] ∧ s.get R.GEOM_COUNT_COUNT ≠ 0 ∧ s.get R.GEOM_FIRST_FIRST + s.get R.GEOM_COUNT_COUNT ≤ 1048576 ∧ s.inHostWin (s.get2 R.GEOM_MEM_LO_D R.GEOM_MEM_HI_D) (8 * s.get R.GEOM_COUNT_COUNT) = true) ∧
  (∃ (s : State) (who : Who) (c : Instr) (op : Nat), s.hears who = true ∧ s.on R.GEOM_RESULT_DONE = true ∧ (c, op) ∈ [(.saveGeom who, 3), (.loadGeom who, 4)]) ∧
  (∃ (s : State) (who : Who), s.hears who = true ∧ s.on R.GEOM_RESULT_DONE = true ∧ 7 < s.get R.GEOM_FIRST_FIRST) ∧
  (∃ (s : State) (who : Who) (v : Fin 8), s.hears who = true ∧ s.on R.GEOM_RESULT_DONE = true ∧ s.get R.GEOM_FIRST_FIRST = v) ∧
  (∃ (s : State) (who : Who) (r : CalRun), s.hears who = true ∧ s.plait.run = some r) ∧
  (∃ (s : State) (r : CalRun), s.plait.run = some r ∧ r.err ≠ 0) ∧
  (∃ (s : State) (r : CalRun), s.plait.run = some r ∧ r.err = 0 ∧ r.op = 5 ∧ r.first < 8) ∧
  (∃ (s : State) (r : CalRun), s.plait.run = some r ∧ r.err = 0 ∧ r.op = 3 ∧ s.skepRuns = true ∧ s.nvm.writing = none ∧ s.calWriteBefore r.since = false ∧ s.writeWindow = false) :=
  ⟨⟨W.w [(R.GEOM_RESULT_DONE, 0)], .fn1, .saveMap .fn1,
    by decide +kernel⟩,
  ⟨W.w [(R.HOSTWIN_SEGS_SEGS, 1000), (R.GEOM_FIRST_FIRST, 1048575), (R.GEOM_COUNT_COUNT, 1), (R.GEOM_MEM_LO_D, 0xFFFF0000), (R.GEOM_MEM_HI_D, 11)], .fn1, .saveMap .fn1, 2,
    by decide +kernel⟩,
  ⟨W.w [(R.GEOM_FIRST_FIRST, 7)], .fn1, .loadGeom .fn1, 4,
    by decide +kernel⟩,
  ⟨W.w [(R.GEOM_FIRST_FIRST, 8)], .fn1,
    by decide +kernel⟩,
  ⟨W.w [(R.GEOM_FIRST_FIRST, 7), (R.TRK_EPS_EPS 7, 9)], .fn1, 7,
    by decide +kernel⟩,
  ⟨W.geo (W.w [(R.GEOM_RESULT_DONE, 0)]) { op := 1, mem := 0, first := 0, count := 3, fields := 1 }, .skep, { op := 1, mem := 0, first := 0, count := 3, fields := 1 },
    by decide +kernel⟩,
  ⟨W.geo (W.w [(R.GEOM_RESULT_DONE, 0)]) { op := 1, mem := 0, first := 0, count := 3, fields := 1, err := 1 }, { op := 1, mem := 0, first := 0, count := 3, fields := 1, err := 1 },
    by decide +kernel⟩,
  ⟨W.geo (W.w [(R.GEOM_RESULT_DONE, 0), (R.TRK_EPS_EPS 7, 9)]) { op := 5, mem := 0, first := 7, count := 0, fields := 0 }, { op := 5, mem := 0, first := 7, count := 0, fields := 0 },
    by decide +kernel⟩,
  ⟨W.run (W.geo (W.w [(R.GEOM_RESULT_DONE, 0), (R.TH_MAX_TEMP, 1101)]) { op := 3, mem := 0, first := 7, count := 0, fields := 0 }), { op := 3, mem := 0, first := 7, count := 0, fields := 0 },
    by decide +kernel⟩⟩

theorem witness_JobCommands :
  (∃ (s : State) (m : Fin 1024) (j : Nat) (addr : Nat) (len : Nat), s.CanRun m 0x0020 ∧ m.val < 16 ∧ leAt (s.params m) 0 1 = j ∧ leAt (s.params m) 8 8 = addr ∧ leAt (s.params m) 16 8 = len ∧ j < 64 ∧ s.slotSt j = 0 ∧ len ≠ 0 ∧ ((∀ e ∈ s.jobs.load, e.2 = none)) ∧ (len + 65535) / 65536 ≤ s.get R.FREE_REF_SEGS ∧ s.on R.MEM_STATUS_MEM_READY = true) ∧
  (∃ (s : State) (m : Fin 1024) (j : Nat), s.CanRun m 0x0020 ∧ m.val < 16 ∧ leAt (s.params m) 0 1 = j ∧ leAt (s.params m) 16 8 ≠ 0 ∧ j < 64 ∧ s.slotSt j = 0 ∧ ((∀ e ∈ s.jobs.load, e.2 = none)) ∧ s.on R.MEM_STATUS_MEM_READY = false) ∧
  (∃ (s : State) (m : Fin 1024) (j : Nat), s.CanRun m 0x0020 ∧ leAt (s.params m) 0 1 = j ∧ leAt (s.params m) 8 8 = 0 ∧ leAt (s.params m) 16 8 = 0 ∧ j < 64 ∧ (s.slotSt j = 0 ∨ s.slotSt j = 2)) ∧
  (∃ (s : State) (m : Fin 1024) (j : Nat), s.CanRun m 0x0020 ∧ leAt (s.params m) 0 1 = j ∧ ((leAt (s.params m) 8 8 = 0 ∧ leAt (s.params m) 16 8 = 0) ∨ (m.val < 16 ∧ leAt (s.params m) 16 8 ≠ 0)) ∧ j < 64 ∧ s.slotSt j ≠ 0 ∧ s.slotSt j ≠ 2) ∧
  (∃ (s : State) (j : Fin 64) (ld : JLoad), Tbl.get none s.jobs.load j = some ld ∧ ld.bad = false ∧ ld.got < ld.len) ∧
  (∃ (s : State) (j : Fin 64) (ld : JLoad), Tbl.get none s.jobs.load j = some ld ∧ ld.bad = true ∧ s.unitState (slotUnit j) ≠ .stopping) ∧
  (∃ (s : State) (j : Fin 64) (bs : List Byte) (ld : JLoad), Tbl.get none s.jobs.load j = some ld ∧ ld.bad = false ∧ ld.len ≤ ld.got ∧ bs = s.slotImg j 0 ld.len ∧ s.recipeBad j bs ld.len = none ∧ (s.gateChecks (listImg bs)).2 = true) ∧
  (∃ (s : State) (m : Fin 1024) (j : Nat) (c : Instr) (l : List (Nat × Nat)), (c, l) ∈ [(.jobArm m, (maskViews (leAt (s.params m) 1 1)).map fun v => (v, bitsOf (leAt (s.params m) (8 + 8 * v) 8) 0 56)), (.jobSwitch m, (maskViews (leAt (s.params m) 1 1)).map fun v => (v, posMod (s.viewPos v + s.get R.ARM_LEAD_LEAD)))] ∧ ((c = .jobArm m → s.CanRun m 0x0021 ∧ bitAt (leAt (s.params m) 2 1) 0 = false)) ∧ ((c = .jobSwitch m → s.CanRun m 0x0022)) ∧ leAt (s.params m) 0 1 = j ∧ s.armBad j (leAt (s.params m) 1 1) = none ∧ l ≠ []) ∧
  (∃ (s : State) (m : Fin 1024) (c : Instr) (st : Nat), c ∈ [.jobArm m, .jobSwitch m] ∧ ((c = .jobArm m → s.CanRun m 0x0021 ∧ bitAt (leAt (s.params m) 2 1) 0 = false)) ∧ ((c = .jobSwitch m → s.CanRun m 0x0022)) ∧ s.armBad (leAt (s.params m) 0 1) (leAt (s.params m) 1 1) = some st) ∧
  (∃ (s : State) (m : Fin 1024) (v : Nat) (j : Nat) (pos : Nat) (h : Nat), s.CanRun m 0x0021 ∧ bitAt (leAt (s.params m) 2 1) 0 = true ∧ maskViews (leAt (s.params m) 1 1) = [v] ∧ (s.jview v).pend = some (j, pos, h)) ∧
  (∃ (s : State) (who : Who) (v : Fin 8) (x : Word), s.hears who = true ∧ bitAt x.toNat 0 = true ∧ (s.jview v).roll = none) ∧
  (∃ (s : State) (who : Who) (v : Fin 8) (x : Word), s.hears who = true ∧ bitAt x.toNat 0 = true ∧ (s.jview v).roll ≠ none) :=
  ⟨⟨W.cmd (W.w [(R.FREE_REF_SEGS, 2), (R.REF_QUOTA_SEGS, 2), (R.MEM_STATUS_MEM_READY, 1)]) 15 0x20 ([63, 0, 0, 0, 0, 0, 0, 0] ++ leBytes 8 4096 ++ leBytes 8 65537), 15, 63, 4096, 65537,
    W.canRun (by decide +kernel), by decide +kernel⟩,
  ⟨W.cmd (W.w [(R.FREE_REF_SEGS, 2), (R.REF_QUOTA_SEGS, 2)]) 15 0x20 ([63, 0, 0, 0, 0, 0, 0, 0] ++ leBytes 8 4096 ++ leBytes 8 65537), 15, 63,
    W.canRun (by decide +kernel), by decide +kernel⟩,
  ⟨W.slot (W.cmd (W.w [(R.SLOT_STATE_STATE 63, 2), (R.SLOT_SEGS_SEGS 63, 1)]) 20 0x20 ([63, 0, 0, 0, 0, 0, 0, 0] ++ leBytes 16 0)) 63 [1], 20, 63,
    W.canRun (by decide +kernel), by decide +kernel⟩,
  ⟨W.cmd (W.w [(R.SLOT_STATE_STATE 63, 4)]) 15 0x20 ([63, 0, 0, 0, 0, 0, 0, 0] ++ leBytes 8 0 ++ leBytes 8 80), 15, 63,
    W.canRun (by decide +kernel), by decide +kernel⟩,
  ⟨W.loaded (W.w [(R.SLOT_STATE_STATE 63, 1)]) [] { who := 15, len := 80, addr := 4096, id := 9, got := 64 }, 63, { who := 15, len := 80, addr := 4096, id := 9, got := 64 },
    by decide +kernel⟩,
  ⟨W.loaded (W.w [(R.SLOT_STATE_STATE 63, 1)]) [] { who := 15, len := 80, addr := 4096, id := 9, bad := true }, 63, { who := 15, len := 80, addr := 4096, id := 9, bad := true },
    by decide +kernel⟩,
  ⟨W.loaded (W.w [(R.SLOT_STATE_STATE 63, 1)]) (W.image 0x8000 0 []) { who := 15, len := 80, addr := 4096, id := 9, got := 80 }, 63, W.image 0x8000 0 [], { who := 15, len := 80, addr := 4096, id := 9, got := 80 },
    by decide +kernel⟩,
  ⟨W.u (W.cmd (W.w [(R.SLOT_STATE_STATE 63, 2), (R.SLOT_STATE_VIEW_MASK 63, 128), (R.ARM_LEAD_LEAD, 500), (R.VW_PITCH_PITCH 7, 0)]) 20 0x22 [63, 128, 0, 0, 0, 0, 0, 0]) (viewUnit 7) .on, 20, 63, .jobSwitch 20, [(7, posMod ((W.w [(R.ARM_LEAD_LEAD, 500)]).viewPos 7 + 500))],
    by decide +kernel, (fun h => by cases h), (fun _ => W.canRun (by decide +kernel)), by decide +kernel⟩,
  ⟨W.cmd (W.w [(R.SLOT_STATE_STATE 63, 2)]) 20 0x21 ([63, 128, 0, 0, 0, 0, 0, 0] ++ List.replicate 64 0), 20, .jobArm 20, Isaow.badView,
    by decide +kernel, (fun _ => ⟨W.canRun (by decide +kernel), by decide +kernel⟩), (fun h => by cases h), by decide +kernel⟩,
  ⟨{ W.cmd (W.w []) 20 0x21 [63, 128, 1, 0, 0, 0, 0, 0] with jobs := { view := [(7, { pend := some (63, 900, 4) })] } }, 20, 7, 63, 900, 4,
    W.canRun (by decide +kernel), by decide +kernel⟩,
  ⟨W.w [(R.ROLL_DIST_DIST 7, 77)], .skep, 7, 1,
    by decide +kernel⟩,
  ⟨{ W.w [] with jobs := { view := [(7, { roll := some 5 })] } }, .skep, 7, 1,
    by decide +kernel⟩⟩

theorem witness_CompareCommands :
  (∃ (s : State) (i : Fin 8) (k : Nat), s.nextBand i = some k ∧ (s.repOf k).band ≠ 0 ∧ (s.repOf k).cfg ≠ none) ∧
  (∃ (s : State) (i : Fin 8) (k : Nat), s.nextBand i = some k ∧ (s.repOf k).band = 0) ∧
  (∃ (s : State) (k : Nat), k < 1048576 ∧ s.judgeable k = true) ∧
  (∃ (s : State) (k : Nat) (status : Nat) (handle : Nat) (off : Bool) (l : List GateAns), s.compare.answers = ⟨k, status, handle, false, off⟩ :: l) :=
  ⟨⟨W.repeat (W.w []) 1048575 { slice := 7, height := 128, band := 1, view := 7, cfg := some { bank := 1, gen := 2, markX := 3, markY := 4 } } { state := 1, view := 7 }, 7, 1048575,
    by decide +kernel⟩,
  ⟨W.repeat (W.w []) 1048575 { slice := 7, height := 128, view := 7 } { state := 1, view := 7 }, 7, 1048575,
    by decide +kernel⟩,
  ⟨W.repeat (W.w []) 1048575 { slice := 7, height := 128, view := 7 } { state := 1, view := 7, cflags := 8 }, 1048575,
    by decide +kernel⟩,
  ⟨let s := W.repeat (W.w []) 1048575 { slice := 7, height := 128, view := 7, gating := true } { state := 1, view := 7 }; { s with compare := { s.compare with answers := [⟨1048575, 4, 0, false, true⟩] } }, 1048575, 4, 0, true, [],
    by decide +kernel⟩⟩

theorem witness_LearningCommands :
  (∃ (s : State) (m : Fin 1024) (j : Nat) (i : Nat) (n : Nat) (v : Fin 8) (r : Sec), s.CanRun m 0x0023 ∧ bitAt (leAt (s.params m) 4 1) 0 = false ∧ leAt (s.params m) 0 1 = j ∧ leAt (s.params m) 1 1 = v.val ∧ leAt (s.params m) 2 1 = i ∧ leAt (s.params m) 3 1 = n ∧ j < 64 ∧ 2 ≤ s.slotSt j ∧ (s.slotImg j).sec 0x10 v i = some r ∧ (s.slotImg j).refLearn r = true ∧ 5 ≤ n ∧ n ≤ 63 ∧ s.on (R.VJ_ACTIVE_VALID v) = true ∧ s.get (R.VJ_ACTIVE_SLOT v) = j ∧ s.get (R.LEARN_STATE_STATE v) ≠ 1 ∧ s.get (R.LEARN_STATE_STATE v) ≠ 2 ∧ (n * (s.slotImg j).refSize r + 65535) / 65536 ≤ s.get R.FREE_WORK_SEGS) ∧
  (∃ (s : State) (m : Fin 1024) (j : Nat) (i : Nat) (n : Nat) (v : Fin 8) (r : Sec), s.CanRun m 0x0023 ∧ bitAt (leAt (s.params m) 4 1) 0 = false ∧ leAt (s.params m) 0 1 = j ∧ leAt (s.params m) 1 1 = v.val ∧ leAt (s.params m) 2 1 = i ∧ leAt (s.params m) 3 1 = n ∧ j < 64 ∧ 2 ≤ s.slotSt j ∧ (s.slotImg j).sec 0x10 v i = some r ∧ (s.slotImg j).refLearn r = true ∧ 5 ≤ n ∧ n ≤ 63 ∧ s.on (R.VJ_ACTIVE_VALID v) = true ∧ s.get (R.VJ_ACTIVE_SLOT v) = j ∧ (s.get (R.LEARN_STATE_STATE v) = 1 ∨ s.get (R.LEARN_STATE_STATE v) = 2)) ∧
  (∃ (s : State) (m : Fin 1024) (v : Fin 8), s.CanRun m 0x0023 ∧ bitAt (leAt (s.params m) 4 1) 0 = true ∧ leAt (s.params m) 1 1 = v.val ∧ (s.get (R.LEARN_STATE_STATE v) = 1 ∨ s.get (R.LEARN_STATE_STATE v) = 2)) ∧
  (∃ (s : State) (v : Fin 8), s.get (R.LEARN_STATE_STATE v) = 2 ∧ s.runPoison (Tbl.get [] s.creel.learn v) 0 ((s.learnOf v).n * (s.learnOf v).size) = true) ∧
  (∃ (s : State) (v : Fin 8) (r : Sec), s.get (R.LEARN_STATE_STATE v) = 2 ∧ s.runPoison (Tbl.get [] s.creel.learn v) 0 ((s.learnOf v).n * (s.learnOf v).size) = false ∧ (s.slotImg (s.learnOf v).slot).sec 0x10 v (s.learnOf v).index = some r ∧ (∀ e ∈ s.creel.flaws, e.ue = false)) :=
  ⟨⟨W.slot (W.cmd (W.w [(R.SLOT_STATE_STATE 63, 4), (R.VJ_ACTIVE_VALID 7, 1), (R.VJ_ACTIVE_SLOT 7, 63), (R.FREE_WORK_SEGS, 1)]) 20 0x23 [63, 7, 63, 5, 0, 0, 0, 0]) 63 (W.image 0x10 63 (leBytes 4 4 ++ leBytes 2 2 ++ [1, 1] ++ List.replicate 8 0 ++ [1])), 20, 63, 63, 5, 7, ⟨0x10, 7, 63, 17, 80⟩,
    W.canRun (by decide +kernel), by decide +kernel⟩,
  ⟨W.slot (W.cmd (W.w [(R.SLOT_STATE_STATE 63, 4), (R.VJ_ACTIVE_VALID 7, 1), (R.VJ_ACTIVE_SLOT 7, 63), (R.LEARN_STATE_STATE 7, 2)]) 20 0x23 [63, 7, 63, 5, 0, 0, 0, 0]) 63 (W.image 0x10 63 (leBytes 4 4 ++ leBytes 2 2 ++ [1, 1] ++ List.replicate 8 0 ++ [1])), 20, 63, 63, 5, 7, ⟨0x10, 7, 63, 17, 80⟩,
    W.canRun (by decide +kernel), by decide +kernel⟩,
  ⟨W.cmd (W.w [(R.LEARN_STATE_STATE 7, 1)]) 20 0x23 [63, 7, 63, 5, 1, 0, 0, 0], 20, 7,
    W.canRun (by decide +kernel), by decide +kernel⟩,
  ⟨{ W.w [(R.LEARN_STATE_STATE 7, 2)] with creel := { learn := [(7, [(6000, 1)])], poison := [(6000 * 2048, true)] }, compare := { learn := [(7, { slot := 63, index := 63, n := 5, size := 8 })] } }, 7,
    by decide +kernel⟩,
  ⟨{ W.slot (W.w [(R.LEARN_STATE_STATE 7, 2)]) 63 (W.image 0x10 63 (leBytes 4 4 ++ leBytes 2 2 ++ [1, 1] ++ List.replicate 8 0 ++ [1])) with compare := { learn := [(7, { slot := 63, index := 63, n := 5, size := 8 })] } }, 7, ⟨0x10, 7, 63, 17, 80⟩,
    by decide +kernel⟩⟩

theorem witness_RingCommands :
  (∃ (s : State) (who : Who) (r : Fin 256) (v : Word), s.hears who = true ∧ s.on (R.RING_CTRL_EN r) = false ∧ bitAt v.toNat 0 = true ∧ s.unitOff (ringUnit r) = true) ∧
  (∃ (s : State) (who : Who) (r : Fin 256) (v : Word), s.hears who = true ∧ s.on (R.RING_CTRL_EN r) = true ∧ bitAt v.toNat 0 = false) ∧
  (∃ (s : State) (who : Who) (r : Fin 256) (v : Word), s.hears who = true ∧ s.on (R.RING_CTRL_EN r) = false ∧ bitAt v.toNat 0 = false ∧ (s.unitState (ringUnit r) = .on ∨ s.unitState (ringUnit r) = .fault) ∧ (s.unitOf (ringUnit r)).deferred = false) ∧
  (∃ (s : State) (r : Fin 256) (x : WRec) (q : List WRec), s.on (R.RING_CTRL_EN r) = true ∧ s.on R.WITHY_STATUS_SUSPENDED = false ∧ (s.ringSt r).back = none ∧ (Tbl.get (0, 0) s.ringLost r).1 = 0 ∧ s.ringQueue r = x :: q ∧ 3 ≤ s.ringFree r ∧ x.body = .none ∧ x.fetch = none ∧ s.ringTurn r = true ∧ (∀ f : Fin 8, (s.fetchOf f).busy = false)) ∧
  (∃ (s : State) (r : Fin 256), s.ringTurn r = false ∧ (∀ x ∈ (s.ringQueue r).head?, x.body = .none) ∧ (∀ f : Fin 8, (s.fetchOf f).busy = false)) ∧
  (∃ (s : State) (who : Who) (r : Fin 256) (v : Word), s.hears who = true ∧ bitsOf v.toNat 0 16 < s.ringSize r ∧ (bitsOf v.toNat 0 16 + s.ringSize r - s.get (R.RING_HEAD_HEAD r)) % s.ringSize r ≤ s.ringUsed r ∧ Tbl.get (0, 0) s.ringLost r = (0, 0) ∧ s.on (R.RING_IRQ_IRQ_EN r) = false) ∧
  (∃ (s : State) (who : Who) (r : Fin 256) (v : Word), s.hears who = true ∧ s.ringSize r ≤ bitsOf v.toNat 0 16) ∧
  (∃ (s : State) (r : Fin 256), s.on (R.RING_CTRL_EN r) = true ∧ s.on (R.RING_IRQ_IRQ_EN r) = true ∧ s.on (R.RING_HEAD_ARMED r) = true ∧ s.on (R.RING_IRQ_TIME_US r) = true ∧ 0 < s.ringUsed r ∧ (s.ringSt r).armedAt ≠ none ∧ s.on (R.RING_CTRL_PEER r) = false ∧ s.on R.WITHY_STATUS_SUSPENDED = false ∧ s.on (Cfg.MSIX_EN 0) = false) ∧
  (∃ (s : State) (r : Fin 256) (b : WBack) (x : WRec) (q : List WRec), (s.ringSt r).back = some b ∧ b.arrived = true ∧ (s.ringSt r).irqBack = none ∧ s.ringHeld r = false ∧ s.ringQueue r = x :: q ∧ x.fetch = none ∧ ((∀ f : Fin 8, (s.fetchOf f).busy = false))) ∧
  (∃ (s : State) (r : Fin 256), (s.ringSt r).back = none ∧ (s.ringSt r).irqBack = some true ∧ s.on R.WITHY_STATUS_SUSPENDED = false ∧ s.on (Cfg.MSIX_EN 0) = false) ∧
  (∃ (s : State), s.on R.WITHY_STATUS_SUSPENDED = true) ∧
  (∃ (s : State) (who : Who) (f : Fin 8), s.hears who = true ∧ s.on (R.FB_RESULT_DONE f) = true ∧ s.get (R.FB_CTRL_MODE f) = 1 ∧ 1 ≤ s.get (R.FB_COUNT_TAGS f) ∧ s.get (R.FB_COUNT_TAGS f) ≤ 4096 ∧ s.on (R.RING_CTRL_EN (s.get (R.FB_CTRL_RING f))) = true ∧ s.port.wait = []) ∧
  (∃ (s : State) (who : Who) (f : Fin 8), s.hears who = true ∧ (s.fetchOf f).busy = true) :=
  ⟨⟨W.w [], .skep, 255, 0x21,
    by decide +kernel⟩,
  ⟨W.ring (W.u (W.w [(R.RING_CTRL_EN 255, 1)]) (ringUnit 255) .on) 255 [{ type := 1 }], .skep, 255, 0,
    by decide +kernel⟩,
  ⟨W.u (W.w []) (ringUnit 255) .fault, .fn1, 255, 0,
    by decide +kernel⟩,
  ⟨W.ring (W.u (W.w [(R.RING_CTRL_EN 255, 1), (R.RING_CTRL_SIZE_LOG2 255, 6), (R.WITHY_STATUS_SUSPENDED, 0), (R.RING_QLEVEL_RECORDS 255, 2)]) (ringUnit 255) .on) 255 [{ type := 1 }, { type := 7 }], 255, { type := 1 }, [{ type := 7 }],
    by decide +kernel⟩,
  ⟨W.w [], 255,
    by decide +kernel, (fun _ h => by cases h), by decide +kernel⟩,
  ⟨W.w [(R.RING_CTRL_EN 255, 1), (R.RING_CTRL_SIZE_LOG2 255, 6), (R.RING_PTR_TAIL 255, 9)], .skep, 255, 0x80000005,
    by decide +kernel⟩,
  ⟨W.w [(R.RING_CTRL_EN 255, 1), (R.RING_CTRL_SIZE_LOG2 255, 6)], .skep, 255, 64,
    by decide +kernel⟩,
  ⟨{ W.w [(R.RING_CTRL_EN 255, 1), (R.RING_CTRL_SIZE_LOG2 255, 6), (R.RING_PTR_TAIL 255, 9), (R.RING_IRQ_IRQ_EN 255, 1), (R.RING_HEAD_ARMED 255, 1), (R.RING_IRQ_TIME_US 255, 5), (R.WITHY_STATUS_SUSPENDED, 0)] with withy := { ring := [(255, { armedAt := some 3 })] } }, 255,
    by decide +kernel⟩,
  ⟨{ W.ring (W.w [(R.RING_CTRL_EN 255, 1), (R.RING_CTRL_SIZE_LOG2 255, 6), (R.WITHY_STATUS_SUSPENDED, 0), (R.RING_CTRL_PEER 255, 1), (R.RING_QLEVEL_RECORDS 255, 1)]) 255 [{ type := 6, body := .bytes [1] }] with withy := { ring := [(255, { back := some ⟨0, 8, 0, true⟩ })] } }, 255, ⟨0, 8, 0, true⟩, { type := 6, body := .bytes [1] }, [],
    by decide +kernel⟩,
  ⟨{ W.w [(R.WITHY_STATUS_SUSPENDED, 0)] with withy := { ring := [(255, { irqBack := some true })] } }, 255,
    by decide +kernel⟩,
  ⟨{ W.w [(R.WITHY_STATUS_SUSPENDED, 1)] with withy := { ring := [(255, { irqBack := some true })] } },
    by decide +kernel⟩,
  ⟨W.w [(R.FB_CTRL_MODE 7, 1), (R.FB_COUNT_TAGS 7, 4096), (R.FB_CTRL_RING 7, 255), (R.RING_CTRL_EN 255, 1), (R.PCIE_LINK_UP, 1), (Cfg.BME 0, 1)], .fn1, 7,
    by decide +kernel⟩,
  ⟨{ W.ring (W.w [(R.FB_RESULT_DONE 7, 0)]) 255 [{ type := 4, fetch := some 7 }] with withy := { fetch := [(7, { busy := true, ring := 255, out := true })] } }, .fn1, 7,
    by decide +kernel⟩⟩

theorem witness_PoolCommands :
  (∃ (s : State) (who : Who) (p : Fin 64) (v : Word), s.hears who = true ∧ s.poolSt p = 0 ∧ bitAt v.toNat 0 = true ∧ bitsOf v.toNat 1 2 ≠ 3 ∧ 1 ≤ s.get (R.POOL_PAGES_PAGES p) ∧ s.get (R.POOL_PAGES_PAGES p) ≤ 262144 ∧ s.get R.PAGES_TOTAL_PAGES + s.get (R.POOL_PAGES_PAGES p) ≤ 1048576) ∧
  (∃ (s : State) (who : Who) (p : Fin 64) (v : Word), s.hears who = true ∧ 2 ≤ s.poolSt p ∧ bitAt v.toNat 0 = true) ∧
  (∃ (s : State) (who : Who) (p : Fin 64) (v : Word), s.hears who = true ∧ s.poolSt p = 0 ∧ bitAt v.toNat 0 = true ∧ s.get (R.POOL_PAGES_PAGES p) = 0) ∧
  (∃ (s : State) (who : Who) (p : Fin 64) (v : Word), s.hears who = true ∧ s.poolSt p ≠ 0 ∧ bitsOf v.toNat 18 8 = 0 ∧ Tbl.get none (s.poolOf p).pages (bitsOf v.toNat 0 18) = some .posted) ∧
  (∃ (s : State) (who : Who) (p : Fin 64), s.hears who = true ∧ s.poolSt p = 0) ∧
  (∃ (s : State) (r : Fin 256) (x : WRec) (q : List WRec), s.ringQueue r = x :: q ∧ x.body ≠ .none ∧ x.type ≠ 3 ∧ (s.ringSt r).back = none ∧ s.poolSt (s.get (R.RING_CTRL_POOL r)) ≠ 4 ∧ s.get (R.POOL_FREE_PAGES (s.get (R.RING_CTRL_POOL r))) + (s.ringSt r).got.length + (s.ringSt r).walk.toList.length < s.pagesFor (s.get (R.RING_CTRL_POOL r)) (s.bodyLen x) ∧ ((∀ f : Fin 8, (s.fetchOf f).busy = false))) ∧
  (∃ (s : State) (who : Who) (p : Fin 64), s.hears who = true ∧ s.poolSt p = 3) ∧
  (∃ (s : State) (who : Who) (p : Fin 64), s.hears who = true ∧ (s.poolSt p = 1 ∨ s.poolSt p = 4)) ∧
  (∃ (s : State) (who : Who) (p : Fin 64) (r : Fin 256), s.hears who = true ∧ s.poolSt p = 1 ∧ s.on (R.RING_CTRL_EN r) = true ∧ 0 < s.ringUsed r) ∧
  (∃ (s : State) (who : Who) (p : Fin 64), s.hears who = true ∧ s.poolSt p = 1 ∧ (∀ r : Fin 256, s.on (R.RING_CTRL_EN r) = true → s.ringUsed r = 0)) ∧
  (∃ (s : State) (tag : Fin 1024) (p : Fin 64) (q : HostReq) (data : List Byte), Tbl.get none s.port.out tag = some q ∧ q.kind = .reclaim p (s.poolOf p).gen .header ∧ q.len = 64 ∧ s.poolSt p = 4 ∧ (s.poolOf p).await = 1 ∧ leAt (padTo 64 data) 3 1 = p.val ∧ leAt (padTo 64 data) 32 4 ≠ 0 ∧ bitAt (leAt (padTo 64 data) 1 1) 4 = false) :=
  ⟨⟨W.w [(R.POOL_PAGES_PAGES 63, 262144)], .skep, 63, 5,
    by decide +kernel⟩,
  ⟨W.w [(R.POOL_STATE_STATE 63, 2)], .skep, 63, 5,
    by decide +kernel⟩,
  ⟨W.w [], .skep, 63, 5,
    by decide +kernel⟩,
  ⟨W.pool (W.w [(R.POOL_STATE_STATE 63, 3), (R.POOL_PAGES_PAGES 63, 262144), (R.POOL_POSTED_PAGES 63, 1)]) 63 { pages := [(0x3FFFF, some .posted)], fresh := 262144 }, .skep, 63, 0x3FFFF,
    by decide +kernel⟩,
  ⟨W.w [], .skep, 63,
    by decide +kernel⟩,
  ⟨W.ring (W.pool (W.w [(R.POOL_STATE_STATE 63, 1), (R.RING_CTRL_EN 255, 1), (R.RING_CTRL_POOL 255, 63), (R.POOL_FREE_PAGES 63, 0), (R.RING_QLEVEL_RECORDS 255, 1)]) 63 {}) 255 [{ type := 6, body := .bytes [1] }], 255, { type := 6, body := .bytes [1] }, [],
    by decide +kernel⟩,
  ⟨W.pool (W.w [(R.POOL_STATE_STATE 63, 3), (R.POOL_PAGES_PAGES 63, 5), (R.PAGES_TOTAL_PAGES, 5), (R.POOL_FREE_PAGES 63, 4)]) 63 { pages := [(2, some .faulted)], fresh := 3 }, .skep, 63,
    by decide +kernel⟩,
  ⟨let s := W.pool (W.w [(R.POOL_STATE_STATE 63, 1), (R.POOL_PAGES_PAGES 63, 5), (R.PAGES_TOTAL_PAGES, 5), (R.POOL_FREE_PAGES 63, 4)]) 63 { pages := [(2, some .posted)], fresh := 3 }; { s with withy := { s.withy with tlb := [⟨63, 2, 4096, false⟩] } }, .skep, 63,
    by decide +kernel⟩,
  ⟨W.pool (W.w [(R.POOL_STATE_STATE 63, 1), (R.POOL_PAGES_PAGES 63, 5), (R.POOL_FREE_PAGES 63, 3), (R.POOL_POSTED_PAGES 63, 2),
    (R.RING_CTRL_EN 255, 1), (R.RING_CTRL_SIZE_LOG2 255, 6), (R.RING_CTRL_POOL 255, 63), (R.RING_PTR_TAIL 255, 1)]) 63 { pages := [(1, some .posted), (2, some .posted)], fresh := 3 }, .skep, 63, 255,
    by decide +kernel⟩,
  ⟨W.pool (W.w [(R.POOL_STATE_STATE 63, 1), (R.POOL_PAGES_PAGES 63, 5), (R.POOL_FREE_PAGES 63, 3), (R.POOL_POSTED_PAGES 63, 2)]) 63 { pages := [(1, some .posted), (2, some .posted)], fresh := 3 }, .skep, 63,
    by decide +kernel⟩,
  ⟨{ W.pool (W.w [(R.POOL_STATE_STATE 63, 4), (R.POOL_PAGES_PAGES 63, 5), (R.POOL_FREE_PAGES 63, 3), (R.POOL_POSTED_PAGES 63, 2)]) 63
      { pages := [(1, some .posted), (2, some .posted)], fresh := 3, await := 1, gen := 2 } with port := { out := [(1023, some ⟨0, .reclaim 63 2 .header, 4096, 64, 0⟩)] } },
    1023, 63, ⟨0, .reclaim 63 2 .header, 4096, 64, 0⟩, List.replicate 3 0 ++ [63] ++ List.replicate 28 0 ++ [1, 0, 0, 0, 2],
    by decide +kernel⟩⟩

theorem witness_FetchCommands :
  (∃ (s : State) (who : Who) (f : Fin 8), s.hears who = true ∧ s.on (R.FB_RESULT_DONE f) = false) ∧
  (∃ (s : State) (who : Who) (f : Fin 8), s.hears who = true ∧ s.on (R.FB_RESULT_DONE f) = true ∧ ((s.get (R.FB_CTRL_MODE f) ≠ 1 ∧ s.get (R.FB_CTRL_MODE f) ≠ 2) ∨ s.get (R.FB_COUNT_TAGS f) = 0 ∨ 4096 < s.get (R.FB_COUNT_TAGS f) ∨ s.on (R.RING_CTRL_EN (s.get (R.FB_CTRL_RING f))) = false)) ∧
  (∃ (s : State) (who : Who) (f : Fin 8), s.hears who = true ∧ s.on (R.FB_RESULT_DONE f) = true ∧ s.get (R.FB_CTRL_MODE f) = 1 ∧ 1 ≤ s.get (R.FB_COUNT_TAGS f) ∧ s.get (R.FB_COUNT_TAGS f) ≤ 4096 ∧ s.on (R.RING_CTRL_EN (s.get (R.FB_CTRL_RING f))) = true) ∧
  (∃ (s : State) (who : Who) (f : Fin 8), s.hears who = true ∧ (s.fetchOf f).busy = true) ∧
  (∃ (s : State) (who : Who) (f : Fin 8), s.hears who = true ∧ (s.fetchOf f).busy = false) :=
  ⟨⟨W.w [(R.FB_RESULT_DONE 7, 0)], .skep, 7,
    by decide +kernel⟩,
  ⟨W.w [(R.FB_CTRL_MODE 7, 3), (R.FB_COUNT_TAGS 7, 4096), (R.FB_CTRL_RING 7, 255), (R.RING_CTRL_EN 255, 1)], .fn1, 7,
    by decide +kernel⟩,
  ⟨W.w [(R.FB_CTRL_MODE 7, 1), (R.FB_COUNT_TAGS 7, 4096), (R.FB_CTRL_RING 7, 255), (R.RING_CTRL_EN 255, 1), (R.PCIE_LINK_UP, 1), (Cfg.BME 0, 1)], .skep, 7,
    by decide +kernel⟩,
  ⟨{ W.ring (W.w [(R.FB_RESULT_DONE 7, 0)]) 255 [{ type := 4, fetch := some 7 }] with withy := { fetch := [(7, { busy := true, ring := 255, out := true })] } }, .skep, 7,
    by decide +kernel⟩,
  ⟨W.w [], .fn1, 7,
    by decide +kernel⟩⟩

theorem witness_PeerWindowCommands :
  (∃ (s : State) (off : Nat) (d : Nat) (bs : List Byte), s.winReached off bs.length = true ∧ s.winCheck off bs.length true = .ok [(d, bs.length)] ∧ (∀ u, s.poisoned u = false) ∧ (∀ e ∈ s.creel.flaws, unitIn d bs.length e.unit = false) ∧ s.on R.PCIE_LINK_L1 = false) ∧
  (∃ (s : State) (off : Nat) (i : Nat) (cause : Nat) (bs : List Byte), s.winReached off bs.length = true ∧ s.winCheck off bs.length true = .error (i, cause)) ∧
  (∃ (s : State) (off : Nat) (len : Nat) (l : List (Nat × Nat)), s.winReached off len = true ∧ s.winCheck off len false = .ok l ∧ s.strict 0 = false ∧ s.port.wait = [] ∧ ((∀ e ∈ s.creel.flaws, ∀ x ∈ l, unitIn x.1 x.2 e.unit = false))) ∧
  (∃ (s : State) (off : Nat) (len : Nat) (i : Nat) (cause : Nat), s.winReached off len = true ∧ s.winCheck off len false = .error (i, cause) ∧ s.strict 0 = false ∧ s.port.wait = []) ∧
  (∃ (s : State) (off : Nat) (len : Nat), s.winReached off len = false ∧ s.strict 0 = false ∧ s.port.wait = []) ∧
  (∃ (s : State) (who : Who), s.hears who = true ∧ (∀ i : Fin 16, s.winBad i = false)) ∧
  (∃ (s : State) (who : Who) (i : Fin 16), s.hears who = true ∧ s.winBad i = true ∧ (∀ j : Fin 16, j < i → s.winBad j = false)) ∧
  (∃ (len : Nat), 64 < len) ∧
  (∃ (s : State) (f : Fin 2) (off : Nat) (len : Nat), s.memAccess f = true ∧ 1 ≤ len ∧ off % 64 + len ≤ 64) ∧
  (∃ (kind : BadTlp), kind ∈ [.vendor0, .message, .atomicOp, .io]) ∧
  (∃ (s : State), s.on R.PCIE_LINK_L1 = false) ∧
  (∃ (s : State) (f : Fin 2), s.skep.released = false ∧ s.strict f = false ∧ s.port.wait = []) ∧
  (∃ (s : State) (f : Fin 2), s.skep.released = true ∧ Tbl.get false s.port.flr f = false ∧ s.strict f = false ∧ s.port.wait = []) ∧
  (∃ (s : State) (f : Fin 2), s.skep.released = true ∧ Tbl.get false s.port.flr f = false ∧ s.strict f = false ∧ s.port.wait = []) :=
  ⟨⟨{ W.win (W.w []) 1 with port := { bar2 := 16 } }, 32767 * 0x200000 + 5, 786400 * 65536 + 5, [1, 0, 2],
    by decide +kernel, W.isOk (by decide +kernel), (fun _ => rfl), by decide +kernel, by decide +kernel⟩,
  ⟨{ W.win (W.w []) 0 with port := { bar2 := 16 } }, 32767 * 0x200000 + 5, 15, 2, [1, 0, 2],
    by decide +kernel, W.isError (by decide +kernel)⟩,
  ⟨{ W.win (W.w []) 0 with port := { bar2 := 16 } }, 32767 * 0x200000 + 5, 3, [(786400 * 65536 + 5, 3)],
    by decide +kernel, W.isOk (by decide +kernel), by decide +kernel, rfl, by decide +kernel⟩,
  ⟨{ W.win (W.w []) 0 with port := { bar2 := 16 } }, 5, 3, 0, 1,
    by decide +kernel, W.isError (by decide +kernel), by decide +kernel, rfl⟩,
  ⟨W.w [], 2 ^ 30 - 3, 4,
    by decide +kernel, by decide +kernel, rfl⟩,
  ⟨W.w [(R.WIN_CFG_EN 15, 1), (R.WIN_CFG_SIZE 15, 1), (R.WIN_BAR_BASE 15, 32767), (R.WIN_TGT_SEG 15, 786400)], .skep,
    by decide +kernel⟩,
  ⟨W.w [(R.WIN_CFG_EN 15, 1), (R.WIN_CFG_SIZE 15, 2), (R.WIN_BAR_BASE 15, 32767), (R.WIN_TGT_SEG 15, 0)], .skep, 15,
    by decide +kernel⟩,
  ⟨65,
    by decide +kernel⟩,
  ⟨W.w [], 1, 60, 4,
    by decide +kernel⟩,
  ⟨.io,
    by decide +kernel⟩,
  ⟨W.w [],
    by decide +kernel⟩,
  ⟨W.w [], 1,
    by decide +kernel, by decide +kernel, rfl⟩,
  ⟨{ W.w [] with skep := { released := true } }, 1,
    by decide +kernel, by decide +kernel, by decide +kernel, rfl⟩,
  ⟨{ W.w [] with skep := { released := true } }, 1,
    by decide +kernel, by decide +kernel, by decide +kernel, rfl⟩⟩

theorem witness_RequestCommands :
  (∃ (s : State) (tag : Fin 1024), Tbl.get none s.port.out tag = none) ∧
  (∃ (s : State) (tag : Fin 1024) (n : Fin 16) (q : HostReq) (gen : Nat) (again : Bool), Tbl.get none s.port.out tag = some q ∧ q.kind = .dmaDesc n gen again ∧ (s.dmaOf n).gen = gen ∧ (s.dmaSt n = 1 ∨ s.dmaSt n = 2) ∧ s.port.wait = []) :=
  ⟨⟨W.w [], 1023,
    by decide +kernel⟩,
  ⟨W.dma { W.w [(R.DMA_CH_STATE_STATE 15, 1)] with port := { out := [(1023, some ⟨0, .dmaDesc 15 2 false, 4096, 32, 0⟩)] } } { gen := 2 }, 1023, 15, ⟨0, .dmaDesc 15 2 false, 4096, 32, 0⟩, 2, false,
    by decide +kernel⟩⟩

theorem witness_PortResetCommands :
  (∃ (c : Instr) (x : Fld), (c, x) ∈ [(.perst, R.RESET_CAUSE_PERST), (.hotReset, R.RESET_CAUSE_HOT_RESET)]) ∧
  (∃ (s : State), s.port.perst = false ∧ s.boot.down = false) ∧
  (∃ (s : State), (s.port.perst = true ∨ s.boot.down = true)) ∧
  (∃ (s : State) (f : Fin 2), bitAt (s.reg (Cfg.base f + 0x118)).toNat 8 = false) ∧
  (∃ (s : State) (f : Fin 2), s.get (Cfg.PM_STATE f) = 3 ∧ s.on (Cfg.PME_STATUS f) = true ∧ s.strict f = false ∧ s.port.wait = []) ∧
  (∃ (s : State), s.on R.PCIE_LINK_UP = true ∧ bitAt (s.get (Cfg.ASPM 0)) 1 = true ∧ s.on R.PCIE_LINK_L1 = false ∧ s.port.out = [] ∧ s.port.wait = []) ∧
  (∃ (s : State) (k : Fin 8) (level : Bool), s.boot.down = true ∧ s.port.pmeArmed = true ∧ bitAt (s.get R.WAKE_CFG_MASK) k = true ∧ bitAt (s.get R.WAKE_CFG_POL) k = level ∧ s.port.wake = false) :=
  ⟨⟨.perst, R.RESET_CAUSE_PERST,
    by decide +kernel⟩,
  ⟨W.w [],
    by decide +kernel⟩,
  ⟨{ W.w [] with port := { perst := true } },
    by decide +kernel⟩,
  ⟨W.w [], 1,
    by decide +kernel⟩,
  ⟨W.w [(Cfg.PM_STATE 1, 3), (Cfg.PME_STATUS 1, 1)], 1,
    by decide +kernel, by decide +kernel, by decide +kernel, rfl⟩,
  ⟨W.w [(R.PCIE_LINK_UP, 1), (Cfg.ASPM 0, 2)],
    by decide +kernel⟩,
  ⟨{ W.w [(R.WAKE_CFG_MASK, 255), (R.WAKE_CFG_POL, 255)] with boot := { down := true }, port := { pmeArmed := true } }, 7, true,
    by decide +kernel⟩⟩

theorem witness_DmaCommands :
  (∃ (s : State) (who : Who) (n : Fin 16), s.hears who = true ∧ s.dmaSt n = 0 ∧ s.get2 (R.DESC_PTR_LO_ADDR n) (R.DESC_PTR_HI_ADDR n) % 32 = 0) ∧
  (∃ (s : State) (who : Who) (n : Fin 16), s.hears who = true ∧ (s.dmaSt n ≠ 0 ∨ s.get2 (R.DESC_PTR_LO_ADDR n) (R.DESC_PTR_HI_ADDR n) % 32 ≠ 0)) ∧
  (∃ (s : State) (who : Who) (n : Fin 16), s.hears who = true ∧ 1 ≤ s.dmaSt n ∧ s.dmaSt n ≤ 3) ∧
  (∃ (s : State) (who : Who) (n : Fin 16), s.hears who = true ∧ s.dmaSt n = 0) ∧
  (∃ (s : State) (n : Fin 16), s.dmaSt n = 4 ∧ ((∀ e ∈ s.port.out, ∀ q, e.2 = some q → q.kind.dma n = false))) ∧
  (∃ (s : State) (n : Fin 16) (bs : List Byte) (poison : Bool), (s.dmaOf n).raw = some (bs, poison) ∧ s.dmaMay = true ∧ s.dmaSt n = 1 ∧ (dmaParse bs).bad = true) ∧
  (∃ (s : State) (n : Fin 16) (bs : List Byte) (poison : Bool), (s.dmaOf n).raw = some (bs, poison) ∧ s.dmaMay = true ∧ s.dmaSt n = 1 ∧ (dmaParse bs).bad = false ∧ bitAt (dmaParse bs).flags 3 = false) ∧
  (∃ (s : State), s.dmaMay = false) ∧
  (∃ (s : State), s.dmaMay = false) ∧
  (∃ (s : State) (n : Fin 16) (bs : List Byte) (poison : Bool), (s.dmaOf n).raw = some (bs, poison) ∧ s.dmaMay = true ∧ s.dmaSt n = 2 ∧ (dmaParse bs).bad = false ∧ bitAt (dmaParse bs).flags 0 = false ∧ (s.dmaOf n).chain < max 1 (s.get (R.CHAIN_MAX_MAX n))) ∧
  (∃ (s : State) (n : Fin 16) (d : DmaDesc), (s.dmaOf n).desc = some d ∧ s.dmaMay = true ∧ s.port.wait = [] ∧ s.dmaSt n = 1 ∧ d.len ≤ (s.dmaOf n).written ∧ (bitAt d.flags 4 = true ∨ (s.dmaOf n).back = some true)) ∧
  (∃ (s : State) (who : Who) (n : Fin 16), s.hears who = true ∧ s.dmaSt n ≠ 2) ∧
  (∃ (s : State) (who : Who) (n : Fin 16), s.hears who = true ∧ s.dmaSt n = 2 ∧ s.get (R.APPEND_CNT_CNT n) = s.get (R.SEEN_CNT_CNT n) ∧ s.port.out = [] ∧ s.port.wait = [] ∧ (s.dmaOf n).raw = none ∧ s.portRun 0 = true ∧ s.strict 0 = false) :=
  ⟨⟨W.w [(R.DESC_PTR_LO_ADDR 15, 4096), (R.PCIE_LINK_UP, 1), (Cfg.BME 0, 1)], .skep, 15,
    by decide +kernel⟩,
  ⟨W.w [(R.DESC_PTR_LO_ADDR 15, 4112)], .skep, 15,
    by decide +kernel⟩,
  ⟨W.dma (W.w [(R.DMA_CH_STATE_STATE 15, 3), (R.DMA_CH_CTRL_EN 15, 1)]) { gen := 3 }, .skep, 15,
    by decide +kernel⟩,
  ⟨W.w [], .fn1, 15,
    by decide +kernel⟩,
  ⟨{ W.w [(R.DMA_CH_STATE_STATE 15, 4)] with port := { out := [(5, some ⟨0, .dmaDesc 14 2 false, 4096, 32, 0⟩)] } }, 15,
    by decide +kernel⟩,
  ⟨W.dma (W.w [(R.DMA_CH_STATE_STATE 15, 1), (R.CUR_DESC_LO_ADDR 15, 4096), (Cfg.BME 0, 1)]) { raw := some ([], false) }, 15, [], false,
    by decide +kernel⟩,
  ⟨W.dma (W.w [(R.DMA_CH_STATE_STATE 15, 1), (R.CUR_DESC_LO_ADDR 15, 4096), (Cfg.BME 0, 1)]) { raw := some (leBytes 8 0 ++ leBytes 8 8192 ++ leBytes 4 16 ++ leBytes 4 1 ++ leBytes 8 0, false) }, 15, leBytes 8 0 ++ leBytes 8 8192 ++ leBytes 4 16 ++ leBytes 4 1 ++ leBytes 8 0, false,
    by decide +kernel⟩,
  ⟨W.w [],
    by decide +kernel⟩,
  ⟨W.w [(Cfg.BME 0, 1), (Cfg.PM_STATE 0, 3)],
    by decide +kernel⟩,
  ⟨W.dma (W.w [(R.DMA_CH_STATE_STATE 15, 2), (R.CUR_DESC_LO_ADDR 15, 4096), (Cfg.BME 0, 1)]) { raw := some (leBytes 8 0 ++ leBytes 8 8192 ++ leBytes 4 16 ++ leBytes 4 0 ++ leBytes 8 8192, false) }, 15, leBytes 8 0 ++ leBytes 8 8192 ++ leBytes 4 16 ++ leBytes 4 0 ++ leBytes 8 8192, false,
    by decide +kernel⟩,
  ⟨W.dma (W.w [(R.DMA_CH_STATE_STATE 15, 1), (Cfg.BME 0, 1)]) { desc := some ⟨0, 8192, 16, 0x11, 0⟩, written := 16 }, 15, ⟨0, 8192, 16, 0x11, 0⟩,
    by decide +kernel⟩,
  ⟨W.w [], .skep, 15,
    by decide +kernel⟩,
  ⟨W.dma (W.w [(R.DMA_CH_STATE_STATE 15, 2), (R.PCIE_LINK_UP, 1), (Cfg.BME 0, 1), (R.CUR_DESC_LO_ADDR 15, 4096)]) {}, .skep, 15,
    by decide +kernel⟩⟩

theorem witness_IsaowRefusals :
  (∃ (s : State) (m : Fin 1024) (st : Nat) (a : Nat) (b : Nat) (c : Instr) (op : Nat), (c, op) ∈ [(.helloCmd m, 0x0001), (.summary m, 0x0002), (.unitGet m, 0x0010), (.jobSwitch m, 0x0022), (.calRead m, 0x0030), (.logRead m, 0x0032), (.headInfo m, 0x0040), (.lightInfo m, 0x0041), (.selfTest m a b, 0x0060), (.patchInfo m, 0x0061)] ∧ s.Waits m op ∧ (s.cmdOf m).refusal = some st) ∧
  (∃ (s : State) (m : Fin 1024) (st : Nat), s.nvm.writing = none ∧ (s.cmdOf m).fetch = none ∧ s.saveBefore (s.cmdOf m).rung.1 = false ∧ s.Waits m 0x0031 ∧ (s.cmdOf m).refusal = some st) ∧
  (∃ (s : State) (m : Fin 1024) (st : Nat), s.Waits m (reqOp (s.cmdOf m).req) ∧ (s.cmdOf m).refusal = some st ∧ m.val ≤ 20) ∧
  (∃ (c : SkCmd), isaowRow (reqOp c.req) (reqParams c.req) = none) ∧
  (∃ (c : SkCmd) (r : IsaowRow), isaowRow (reqOp c.req) (reqParams c.req) = some r ∧ (reqLen c.req < r.lo ∨ r.hi < reqLen c.req)) ∧
  (∃ (c : SkCmd) (r : IsaowRow), isaowRow (reqOp c.req) (reqParams c.req) = some r ∧ r.lo ≤ reqLen c.req ∧ reqLen c.req ≤ r.hi ∧ 8 + reqLen c.req ≤ c.req.length ∧ r.priv = true ∧ c.priv = false) :=
  ⟨⟨W.cmd (W.w []) 479 0x61 [1], 479, Isaow.badLength, 0, 0, .patchInfo 479, 0x61,
    by decide +kernel, W.waits (by decide +kernel), by decide +kernel⟩,
  ⟨W.cmd (W.w []) 479 0x31 [1], 479, Isaow.badLength,
    by decide +kernel, by decide +kernel, by decide +kernel, W.waits (by decide +kernel), by decide +kernel⟩,
  ⟨W.cmd (W.w [(R.MB_STATUS_BUSY 20, 1)]) 20 0xFFFF [], 20, Isaow.unsupported,
    W.waits (by decide +kernel), by decide +kernel⟩,
  ⟨{ req := [3, 0, 0, 0, 0, 0, 0, 0] },
    by decide +kernel⟩,
  ⟨{ req := [1, 0, 3, 0, 0, 0, 0, 0, 1, 1, 1] }, ⟨4, 8, false, true⟩,
    rfl, by decide +kernel⟩,
  ⟨{ req := [0x60, 0, 4, 0, 0, 0, 0, 0, 1, 0, 0, 0] }, ⟨4, 8, true, true⟩,
    rfl, by decide +kernel⟩⟩

theorem witness_UnitCommands :
  (∃ (s : State) (m : Fin 1024) (u : Nat), s.CanRun m 0x0010 ∧ leAt (s.params m) 0 4 = u ∧ unitExists u = true) ∧
  (∃ (s : State) (m : Fin 1024) (u : Nat), s.CanRun m 0x0010 ∧ leAt (s.params m) 0 4 = u ∧ unitExists u = false) ∧
  (∃ (s : State) (m : Fin 1024) (u : Nat), s.CanRun m 0x0011 ∧ leAt (s.params m) 0 4 = u ∧ leAt (s.params m) 4 1 = 1 ∧ s.unitSetBad u 1 (s.cmdOf m).priv = none ∧ bitAt (leAt (s.params m) 5 1) 2 = false ∧ s.onRefusal u = none ∧ (s.unitState u = .off ∨ s.unitState u = .fault) ∧ 21000 + s.schedCost (.unit u) ≤ s.get R.PWR_BUDGET_MW) ∧
  (∃ (s : State) (m : Fin 1024) (u : Nat), s.CanRun m 0x0011 ∧ leAt (s.params m) 0 4 = u ∧ leAt (s.params m) 4 1 = 1 ∧ s.unitSetBad u 1 (s.cmdOf m).priv = none ∧ bitAt (leAt (s.params m) 5 1) 2 = false ∧ s.onRefusal u = none ∧ (s.unitState u = .starting ∨ s.unitState u = .on)) ∧
  (∃ (s : State) (m : Fin 1024) (u : Nat) (op : Nat) (c : Instr), (c, op) ∈ [(.unitSetOff m, 0), (.unitSetOn m, 1), (.unitSetRestart m, 2)] ∧ s.CanRun m 0x0011 ∧ leAt (s.params m) 0 4 = u ∧ leAt (s.params m) 4 1 = op ∧ s.unitSetBad u op (s.cmdOf m).priv = none ∧ bitAt (leAt (s.params m) 5 1) 2 = true ∧ leAt (s.params m) 8 4 ≠ (s.unitOf u).gen) ∧
  (∃ (s : State) (m : Fin 1024) (u : Nat), s.CanRun m 0x0011 ∧ leAt (s.params m) 0 4 = u ∧ leAt (s.params m) 4 1 = 0 ∧ s.unitSetBad u 0 (s.cmdOf m).priv = none ∧ bitAt (leAt (s.params m) 5 1) 2 = false ∧ s.offDeps u = false ∧ bitAt (leAt (s.params m) 5 1) 1 = false ∧ s.unitState u = .off ∧ u / 2 ^ 24 ≠ 1 ∧ u / 2 ^ 24 ≠ 2) ∧
  (∃ (s : State) (m : Fin 1024) (u : Nat), s.CanRun m 0x0011 ∧ leAt (s.params m) 0 4 = u ∧ leAt (s.params m) 4 1 = 0 ∧ s.unitSetBad u 0 (s.cmdOf m).priv = none ∧ bitAt (leAt (s.params m) 5 1) 2 = false ∧ s.offDeps u = true ∧ bitAt (leAt (s.params m) 5 1) 1 = false) ∧
  (∃ (s : State) (m : Fin 1024) (n : Fin 8), s.CanRun m 0x0011 ∧ leAt (s.params m) 0 4 = encUnit n ∧ leAt (s.params m) 4 1 = 0 ∧ s.unitSetBad (encUnit n) 0 (s.cmdOf m).priv = none ∧ bitAt (leAt (s.params m) 5 1) 2 = false ∧ s.unitState (encUnit n) = .on ∧ (s.unitOf (encUnit n)).deferred = false) ∧
  (∃ (s : State) (m : Fin 1024) (l : Fin 32), s.CanRun m 0x0011 ∧ leAt (s.params m) 0 4 = laneUnit l ∧ leAt (s.params m) 4 1 = 2 ∧ s.unitSetBad (laneUnit l) 2 (s.cmdOf m).priv = none ∧ bitAt (leAt (s.params m) 5 1) 2 = false ∧ s.stopRefuses (laneUnit l) = false ∧ s.laneRateOk l = true ∧ s.on (R.LANE_CTRL_EN l) = true ∧ s.unitState (laneUnit l) = .on ∧ (s.unitOf (laneUnit l)).deferred = false ∧ s.laneReady l = false) ∧
  (∃ (s : State) (r : Fin 256) (e : UnitEntry), s.skepRuns = true ∧ s.units = [(ringUnit r, e)] ∧ e.state = .on ∧ e.deferred = false ∧ s.on (R.RING_CTRL_EN r) = false ∧ 10 ≤ e.downMs) ∧
  (∃ (s : State), s.skepRuns = false) :=
  ⟨⟨W.cmd (W.u (W.w []) (dmaUnit 15) .fault) 20 0x10 (leBytes 4 (dmaUnit 15)), 20, dmaUnit 15,
    W.canRun (by decide +kernel), by decide +kernel⟩,
  ⟨W.cmd (W.w []) 20 0x10 (leBytes 4 (dmaUnit 16)), 20, dmaUnit 16,
    W.canRun (by decide +kernel), by decide +kernel⟩,
  ⟨W.unitSet (W.u (W.w []) (chainUnit 7) .fault) (chainUnit 7) 1 1, 20, chainUnit 7,
    W.canRun (by decide +kernel), by decide +kernel⟩,
  ⟨W.unitSet (W.u (W.w []) (chainUnit 7) .on) (chainUnit 7) 1 1, 20, chainUnit 7,
    W.canRun (by decide +kernel), by decide +kernel⟩,
  ⟨W.unitSet { (W.w []) with units := [(laneUnit 31, { gen := 1 })] } (laneUnit 31) 2 4, 20, laneUnit 31, 2, .unitSetRestart 20,
    by decide +kernel, W.canRun (by decide +kernel), by decide +kernel⟩,
  ⟨W.unitSet (W.w []) (epUnit 2047) 0 0, 20, epUnit 2047,
    W.canRun (by decide +kernel), by decide +kernel⟩,
  ⟨W.unitSet (W.u (W.u (W.w [(R.LINK_CTRL_EN 31, 1)]) (laneUnit 31) .on) (linkUnit 31) .on) (laneUnit 31) 0 0, 20, laneUnit 31,
    W.canRun (by decide +kernel), by decide +kernel⟩,
  ⟨W.unitSet (W.u (W.w [(R.ENC_CTRL_EN 7, 1)]) (encUnit 7) .on) (encUnit 7) 0 0, 20, 7,
    W.canRun (by decide +kernel), by decide +kernel⟩,
  ⟨W.unitSet (W.u (W.w [(R.LANE_CTRL_EN 31, 1)]) (laneUnit 31) .on) (laneUnit 31) 2 0, 20, 31,
    W.canRun (by decide +kernel), by decide +kernel⟩,
  ⟨W.run { W.w [] with units := [(ringUnit 255, { state := .on, downMs := 10 })] }, 255, { state := .on, downMs := 10 },
    by decide +kernel⟩,
  ⟨W.w [(R.SKEP_STATUS_STATE, 2)],
    by decide +kernel⟩⟩

theorem witness_ReportCommands :
  (∃ (s : State) (m : Fin 1024), s.CanRun m 0x0001) ∧
  (∃ (s : State) (m : Fin 1024), s.CanRun m 0x0002 ∧ leAt (s.params m) 0 4 = 0 ∧ leAt (s.params m) 8 8 = 0) ∧
  (∃ (s : State) (m : Fin 1024), s.CanRun m 0x0002 ∧ leAt (s.params m) 0 4 ≠ 0 ∧ (Tbl.get (0, []) s.skep.snaps (reqKey m)).2 = []) ∧
  (∃ (s : State) (m : Fin 1024) (e : Nat), s.CanRun m 0x0040 ∧ leAt (s.params m) 0 2 = e ∧ e < 2048) ∧
  (∃ (s : State) (m : Fin 1024) (n : Nat) (h : Nat) (x : LHead), s.CanRun m 0x0041 ∧ leAt (s.params m) 0 1 = n ∧ leAt (s.params m) 1 1 = h ∧ n < 8 ∧ h < 32 ∧ (s.chainOf n).heads[h]? = some x) ∧
  (∃ (s : State) (m : Fin 1024), s.CanRun m 0x0061) ∧
  (∃ (s : State) (m : Fin 1024), s.CanRun m 0x0060 ∧ leAt (s.params m) 0 4 = 1 ∧ s.skep.cmds = [(m.val, s.cmdOf m)] ∧ (s.cmdOf m).test = none ∧ 31000 ≤ s.get R.PWR_BUDGET_MW) ∧
  (∃ (s : State) (m : Fin 1024) (k : Nat), s.CanRun m 0x0060 ∧ k ≠ m.val ∧ (s.cmdOf k).test ≠ none) ∧
  (∃ (s : State) (c : Nat), s.skepRuns = true ∧ s.skep.waiting = [(.hbm, c)] ∧ (∀ e ∈ s.skep.cmds, e.2.test = none) ∧ max s.forecast (s.get R.PWR_MEASURED_MW) + 25000 ≤ s.get R.PWR_BUDGET_MW) ∧
  (∃ (s : State) (c : Nat), s.skepRuns = true ∧ s.skep.waiting = [(.hbm, c)] ∧ (∀ e ∈ s.skep.cmds, e.2.test = none) ∧ s.get R.PWR_BUDGET_MW < max s.forecast (s.get R.PWR_MEASURED_MW) + 25000) ∧
  (∃ (s : State), s.skepRuns = true ∧ s.skep.waiting = []) :=
  ⟨⟨W.cmd (W.w []) 479 1 [2, 9, 0, 0], 479,
    W.canRun (by decide +kernel)⟩,
  ⟨W.cmd (W.w []) 479 2 (List.replicate 16 0), 479,
    W.canRun (by decide +kernel), by decide +kernel⟩,
  ⟨W.cmd (W.w []) 479 2 ([1] ++ List.replicate 15 0), 479,
    W.canRun (by decide +kernel), by decide +kernel⟩,
  ⟨W.cmd (W.w [(R.EP_INFO_EP_STATE 2047, 2)]) 479 0x40 [255, 7], 479, 2047,
    W.canRun (by decide +kernel), by decide +kernel⟩,
  ⟨W.cmd (W.chain (W.w [(⟨R.HEAD_INFO 7 31, 0, 32⟩, 5)]) 7 { heads := List.replicate 32 W.head }) 479 0x41 [7, 31], 479, 7, 31, W.head,
    W.canRun (by decide +kernel), by decide +kernel⟩,
  ⟨let s := W.cmd (W.w []) 479 0x61 []; { s with skep := { s.skep with patchStatus := 1, patchSeq := 3 } }, 479,
    W.canRun (by decide +kernel)⟩,
  ⟨W.cmd (W.w []) 20 0x60 [1, 0, 0, 0], 20,
    W.canRun (by decide +kernel), by decide +kernel⟩,
  ⟨let s := W.cmd (W.w []) 20 0x60 [1, 0, 0, 0]; { s with skep := { s.skep with cmds := [(16, { req := [1], test := some { want := 1 } }), (20, { req := leBytes 2 0x60 ++ leBytes 2 4 ++ leBytes 4 7 ++ [1, 0, 0, 0], priv := true })] } }, 20, 16,
    W.canRun (by decide +kernel), by decide +kernel⟩,
  ⟨let s := W.run (W.w []); { s with skep := { s.skep with waiting := [(.hbm, 3)] } }, 3,
    by decide +kernel⟩,
  ⟨let s := W.run (W.w [(R.PWR_BUDGET_MW, 45999)]); { s with skep := { s.skep with waiting := [(.hbm, 3)] } }, 3,
    by decide +kernel⟩,
  ⟨W.run (W.w []),
    by decide +kernel⟩⟩

theorem witness_StorageCommands :
  (∃ (s : State) (m : Fin 1024) (a : Nat) (n : Nat) (k : Nat), s.CanRun m 0x0030 ∧ leAt (s.params m) 0 4 = a ∧ leAt (s.params m) 4 4 = n ∧ leAt (s.params m) 8 8 = 0 ∧ calReadable a n = true ∧ k = min n (inlineMax m - 16) ∧ s.writeMeets a k = false) ∧
  (∃ (s : State) (m : Fin 1024) (a : Nat) (n : Nat) (k : Nat), s.CanRun m 0x0030 ∧ leAt (s.params m) 0 4 = a ∧ leAt (s.params m) 4 4 = n ∧ leAt (s.params m) 8 8 = 0 ∧ calReadable a n = true ∧ k = min n (inlineMax m - 16) ∧ s.writeMeets a k = true) ∧
  (∃ (s : State) (m : Fin 1024), s.CanRun m 0x0030 ∧ calReadable (leAt (s.params m) 0 4) (leAt (s.params m) 4 4) = false) ∧
  (∃ (s : State) (m : Fin 1024) (a : Nat) (n : Nat), s.CanRun m 0x0031 ∧ s.nvm.writing = none ∧ (s.cmdOf m).fetch = none ∧ s.saveBefore (s.cmdOf m).rung.1 = false ∧ leAt (s.params m) 0 4 = a ∧ leAt (s.params m) 4 4 = n ∧ leAt (s.params m) 8 8 = 0 ∧ 0x200000 ≤ a ∧ a + n ≤ 0x300000 ∧ a < 0x300000 ∧ 16 + n ≤ (s.params m).length ∧ s.writeWindow = true) ∧
  (∃ (s : State) (m : Fin 1024) (a : Nat) (n : Nat) (g : Nat) (at' : Nat) (size : Nat), s.CanRun m 0x0031 ∧ s.nvm.writing = none ∧ (s.cmdOf m).fetch = none ∧ s.saveBefore (s.cmdOf m).rung.1 = false ∧ leAt (s.params m) 0 4 = a ∧ leAt (s.params m) 4 4 = n ∧ leAt (s.params m) 8 8 = 0 ∧ calGroupAt a n = some (g, at', size) ∧ 16 + n ≤ (s.params m).length ∧ s.writeWindow = true) ∧
  (∃ (s : State) (m : Fin 1024) (w : GroupWrite), s.nvm.writing = some w ∧ w.who = m ∧ s.skepRuns = true ∧ (s.cmdOf m).req ≠ [] ∧ w.at_ + 16 ≤ w.off) ∧
  (∃ (s : State) (m : Fin 1024) (a : Nat) (n : Nat), s.CanRun m 0x0031 ∧ s.nvm.writing = none ∧ (s.cmdOf m).fetch = none ∧ s.saveBefore (s.cmdOf m).rung.1 = false ∧ leAt (s.params m) 0 4 = a ∧ leAt (s.params m) 4 4 = n ∧ leAt (s.params m) 8 8 = 0 ∧ ((0x200000 ≤ a ∧ a + n ≤ 0x300000 ∧ a < 0x300000) ∨ (calGroupAt a n).isSome = true) ∧ 16 + n ≤ (s.params m).length ∧ s.writeWindow = false) ∧
  (∃ (s : State) (m : Fin 1024), s.CanRun m 0x0032 ∧ leAt (s.params m) 4 4 = 0) ∧
  (∃ (s : State) (m : Fin 1024) (k : Nat), s.CanRun m 0x0032 ∧ leAt (s.params m) 4 4 = k ∧ 0 < k ∧ k ≤ 63 ∧ leAt (s.params m) 8 8 = 0 ∧ s.get R.LOG_OLDEST_SEQ ≤ leAt (s.params m) 0 4 ∧ leAt (s.params m) 0 4 + k ≤ s.get R.LOG_NEXT_SEQ) ∧
  (∃ (s : State) (r : LogRec) (q : List LogRec) (n : Nat), s.writeWindow = true ∧ s.skepRuns = true ∧ s.nvm.heldStop = none ∧ 0 < s.nvm.lost ∧ s.nvm.logQ = r :: q ∧ s.nvm.ctr = [] ∧ s.nvm.writing = none ∧ s.logRoom [r.cause] = true ∧ s.get R.LOG_NEXT_SEQ = n ∧ n + 2 < 2 ^ 32 ∧ (n + 1) % 64 ≠ 0 ∧ (n + 2) % 64 ≠ 0 ∧ r.cause < 65536) ∧
  (∃ (s : State) (r : LogRec) (q : List LogRec) (n : Nat), s.writeWindow = true ∧ s.skepRuns = true ∧ s.nvm.heldStop = none ∧ s.nvm.lost = 0 ∧ s.nvm.logQ = r :: q ∧ s.nvm.ctr = [] ∧ s.nvm.writing = none ∧ s.logRoom [r.cause] = true ∧ s.get R.LOG_NEXT_SEQ = n ∧ n + 1 < 2 ^ 32 ∧ (n + 1) % 64 ≠ 0 ∧ r.cause < 65536) ∧
  (∃ (s : State) (r : LogRec) (q : List LogRec), s.nvm.heldStop = none ∧ s.nvm.logQ = r :: q ∧ s.nvm.ctr = [] ∧ s.logRoom [r.cause] = false) ∧
  (∃ (s : State), (s.writeWindow = false ∨ s.nvm.writing ≠ none)) ∧
  (∃ (s : State), s.skepRuns = true ∧ s.writeWindow = true ∧ s.nvm.writing = none ∧ Tbl.get none s.nvm.ctr ctrOnHours = none ∧ s.ctrValue ctrOnHours + 1 < 2 ^ 32) ∧
  (∃ (s : State), s.skepRuns = false) :=
  ⟨⟨{ W.cmd (W.w []) 20 0x30 (leBytes 4 0x10FFF ++ leBytes 4 1 ++ leBytes 8 0) with mram := [(0x10FFF, 9)] }, 20, 0x10FFF, 1, 1,
    W.canRun (by decide +kernel), by decide +kernel, by decide +kernel, by decide +kernel, by decide +kernel, by decide +kernel, by decide +kernel⟩,
  ⟨{ W.cmd (W.w []) 20 0x30 (leBytes 4 0x7F ++ leBytes 4 1 ++ leBytes 8 0) with nvm := { writing := some ⟨16, 0, 0, 24, 6, true, 2⟩ } }, 20, 0x7F, 1, 1,
    W.canRun (by decide +kernel), by decide +kernel, by decide +kernel, by decide +kernel, by decide +kernel, by decide +kernel, by decide +kernel⟩,
  ⟨W.cmd (W.w []) 20 0x30 (leBytes 4 0x11000 ++ leBytes 4 1 ++ leBytes 8 0), 20,
    W.canRun (by decide +kernel), by decide +kernel⟩,
  ⟨W.cmd (W.w []) 20 0x31 (leBytes 4 0x2FFFFE ++ leBytes 4 2 ++ leBytes 8 0 ++ [5, 6]), 20, 0x2FFFFE, 2,
    W.canRun (by decide +kernel), by decide +kernel, by decide +kernel, by decide +kernel, by decide +kernel, by decide +kernel, by decide +kernel, by decide +kernel, by decide +kernel, by decide +kernel, by decide +kernel, by decide +kernel⟩,
  ⟨W.cmd (W.w []) 20 0x31 (leBytes 4 0x7FE ++ leBytes 4 2 ++ leBytes 8 0 ++ [5, 6]), 20, 0x7FE, 2, 2, 0x200, 0x800,
    W.canRun (by decide +kernel), by decide +kernel, by decide +kernel, by decide +kernel, by decide +kernel, by decide +kernel, by decide +kernel, by decide +kernel, by decide +kernel, by decide +kernel⟩,
  ⟨{ W.cmd (W.w []) 20 0x31 (leBytes 4 0x2FFFFE ++ leBytes 4 2 ++ leBytes 8 0 ++ [5, 6]) with nvm := { writing := some ⟨20, 0, 0, 40, 6, true, 2⟩ } }, 20, ⟨20, 0, 0, 40, 6, true, 2⟩,
    by decide +kernel⟩,
  ⟨W.cmd (W.w [(R.TH_MAX_TEMP, 1101)]) 20 0x31 (leBytes 4 0x2FFFFE ++ leBytes 4 2 ++ leBytes 8 0 ++ [5, 6]), 20, 0x2FFFFE, 2,
    W.canRun (by decide +kernel), by decide +kernel, by decide +kernel, by decide +kernel, by decide +kernel, by decide +kernel, by decide +kernel, by decide +kernel, by decide +kernel, by decide +kernel⟩,
  ⟨W.cmd (W.w []) 20 0x32 (List.replicate 16 0), 20,
    W.canRun (by decide +kernel), by decide +kernel⟩,
  ⟨W.cmd (W.w [(R.LOG_NEXT_SEQ, 63)]) 20 0x32 (leBytes 4 0 ++ leBytes 4 63 ++ leBytes 8 0), 20, 63,
    W.canRun (by decide +kernel), by decide +kernel, by decide +kernel, by decide +kernel, by decide +kernel, by decide +kernel, by decide +kernel⟩,
  ⟨let s := W.run (W.w [(R.LOG_NEXT_SEQ, 16384), (R.LOG_OLDEST_SEQ, 0)]); { s with nvm := { logQ := [⟨7, 0, 0, 5, [1]⟩], lost := 3 } }, ⟨7, 0, 0, 5, [1]⟩, [], 16384,
    by decide +kernel⟩,
  ⟨let s := W.run (W.w [(R.LOG_NEXT_SEQ, 16384), (R.LOG_OLDEST_SEQ, 0)]); { s with nvm := { logQ := [⟨7, 0, 0, 5, [1]⟩] } }, ⟨7, 0, 0, 5, [1]⟩, [], 16384,
    by decide +kernel⟩,
  ⟨let s := W.run (W.w [(R.LOG_NEXT_SEQ, 16384), (R.LOG_OLDEST_SEQ, 0)]); { s with nvm := { logQ := [⟨7, 0, 0, 5, [1]⟩], written := List.replicate 16 (7, 0) } }, ⟨7, 0, 0, 5, [1]⟩, [],
    by decide +kernel⟩,
  ⟨W.w [(R.TH_MAX_TEMP, 65335)],
    by decide +kernel⟩,
  ⟨W.run (W.w []),
    by decide +kernel⟩,
  ⟨W.w [(R.SKEP_STATUS_STATE, 1)],
    by decide +kernel⟩⟩

theorem witness_ThermalCommands :
  (∃ (s : State) (x : Int), -600 ≤ x ∧ x < s.getInt R.TH_LIMIT_A_WARN ∧ x < s.getInt R.TH_LIMIT_A_THROTTLE ∧ x < s.getInt R.TH_LIMIT_B_DATA_STOP ∧ x < s.getInt R.TH_LIMIT_B_LIGHT_LATCH ∧ x ≤ 1500 ∧ s.on R.TH_STATUS_WARN = false ∧ s.on R.TH_STATUS_THROTTLE = false) ∧
  (∃ (s : State) (a : Int) (b : Int), -128 ≤ a ∧ a ≤ 127 ∧ -128 ≤ b ∧ b ≤ 127 ∧ max a b < s.get R.STACK_TEMP_STACK_STOP) ∧
  (∃ (s : State) (a : Int) (b : Int), -128 ≤ a ∧ a ≤ 127 ∧ -128 ≤ b ∧ b ≤ 127 ∧ (s.get R.STACK_TEMP_STACK_STOP : Int) ≤ max a b ∧ s.stopLinks = [] ∧ s.stopLanes = []) ∧
  (∃ (s : State) (replies : List RailReply) (l : List Nat), s.skepRuns = true ∧ s.therm.avs = [] ∧ s.therm.rails.length = replies.length ∧ (∀ r ∈ s.therm.rails, r.code ≠ 0) ∧ (s.therm.rails.zip replies).map (fun x => x.1.power x.2) = l.map some ∧ l.sum < 2 ^ 18) ∧
  (∃ (s : State) (r : Rail) (x : RailReply) (mw : Nat) (mv : Nat), s.skepRuns = true ∧ s.therm.avs = [] ∧ s.therm.rails = [r] ∧ r.code = 0 ∧ r.power x = some mw ∧ mw < 2 ^ 18 ∧ r.volts x = some mv) ∧
  (∃ (s : State) (r : Rail) (x : RailReply), s.skepRuns = true ∧ s.therm.avs = [] ∧ s.therm.rails = [r] ∧ r.fails = 2 ∧ r.power x = none) ∧
  (∃ (s : State), s.get R.PWR_BUDGET_MW < s.get R.PWR_MEASURED_MW) ∧
  (∃ (s : State), s.get R.PWR_MEASURED_MW ≤ s.get R.PWR_BUDGET_MW) ∧
  (∃ (s : State) (m : Fin 1024), s.CanRun m 0x0050 ∧ leAt (s.params m) 0 1 = 0) ∧
  (∃ (s : State) (m : Fin 1024) (l : List Int), s.CanRun m 0x0050 ∧ leAt (s.params m) 0 1 = 1 ∧ thresholdsAt (s.params m) 2 = l ∧ thresholdsOk l = true) ∧
  (∃ (s : State) (m : Fin 1024), s.CanRun m 0x0050 ∧ leAt (s.params m) 0 1 = 1 ∧ thresholdsOk (thresholdsAt (s.params m) 2) = false) ∧
  (∃ (s : State) (m : Fin 1024) (i : Fin 16), s.CanRun m 0x0050 ∧ leAt (s.params m) 0 1 = 2 ∧ s.on (R.SENSOR_VALID i) = true ∧ 950 < s.getInt (R.SENSOR_TEMP i)) ∧
  (∃ (s : State) (m : Fin 1024), s.CanRun m 0x0050 ∧ leAt (s.params m) 0 1 = 2 ∧ (∀ i ∈ s.sensors, s.getInt (R.SENSOR_TEMP i) ≤ 950) ∧ s.therm.stackHot = false ∧ s.therm.held = false ∧ s.on R.TH_STATUS_DATA_STOP = true ∧ s.therm.stopped = []) ∧
  (∃ (s : State) (m : Fin 1024), s.CanRun m 0x0050 ∧ leAt (s.params m) 0 1 = 2 ∧ (s.therm.stackHot = true ∨ s.therm.held = true)) ∧
  (∃ (s : State) (m : Fin 1024), s.CanRun m 0x0051 ∧ leAt (s.params m) 0 1 = 0) ∧
  (∃ (s : State) (m : Fin 1024) (b : Nat), s.CanRun m 0x0051 ∧ leAt (s.params m) 0 1 = 1 ∧ leAt (s.params m) 4 4 = b ∧ 50000 ≤ b ∧ b ≤ 140000) ∧
  (∃ (s : State) (m : Fin 1024) (b : Nat), s.CanRun m 0x0051 ∧ leAt (s.params m) 0 1 = 1 ∧ leAt (s.params m) 4 4 = b ∧ (b < 50000 ∨ 140000 < b)) :=
  ⟨⟨W.w [], 250,
    by decide +kernel⟩,
  ⟨W.w [], 84, 86,
    by decide +kernel⟩,
  ⟨W.w [(R.STACK_TEMP_STACK_STOP, 105)], 127, 0,
    by decide +kernel⟩,
  ⟨let s := W.run (W.w []); { s with therm := { rails := [⟨1, 2, 3, 0, 0⟩, ⟨2, 2, 3, 0, 0⟩] } }, [{ pout := W.reply 2 0x96 [1, 0] }, { pout := W.reply 2 0x96 [2, 0] }], [1000, 2000],
    by decide +kernel⟩,
  ⟨let s := W.run (W.w []); { s with therm := { rails := [⟨0, 2, 3, 0, 0⟩] } }, ⟨0, 2, 3, 0, 0⟩, { pout := W.reply 2 0x96 [3, 0], mode := W.reply 2 0x20 [0x18], vout := W.reply 2 0x8B [0xBE, 0] }, 3000, 742,
    by decide +kernel⟩,
  ⟨let s := W.run (W.w []); { s with therm := { rails := [⟨1, 2, 3, 0, 2⟩] } }, ⟨1, 2, 3, 0, 2⟩, { pout := [1, 0, 0] },
    by decide +kernel⟩,
  ⟨W.w [(R.PWR_BUDGET_MW, 50000), (R.PWR_MEASURED_MW, 50001)],
    by decide +kernel⟩,
  ⟨W.w [(R.PWR_BUDGET_MW, 50000), (R.PWR_MEASURED_MW, 50000)],
    by decide +kernel⟩,
  ⟨W.cmd (W.w []) 479 0x50 [0], 479,
    W.canRun (by decide +kernel), by decide +kernel⟩,
  ⟨W.cmd (W.w []) 20 0x50 ([1, 0] ++ W.limits ++ [0, 0, 0, 0]), 20, [600, 700, 800, 850, 1000],
    W.canRun (by decide +kernel), by decide +kernel⟩,
  ⟨W.cmd (W.w []) 20 0x50 ([1, 0] ++ List.replicate 14 0), 20,
    W.canRun (by decide +kernel), by decide +kernel⟩,
  ⟨W.cmd (W.w [(R.SENSOR_VALID 15, 1), (R.SENSOR_TEMP 15, 951)]) 20 0x50 [2], 20, 15,
    W.canRun (by decide +kernel), by decide +kernel⟩,
  ⟨W.cmd (W.w [(R.SENSOR_VALID 15, 1), (R.SENSOR_TEMP 15, 950), (R.TH_STATUS_DATA_STOP, 1)]) 20 0x50 [2], 20,
    W.canRun (by decide +kernel), by decide +kernel, by decide +kernel, by decide +kernel, by decide +kernel, by decide +kernel, by decide +kernel⟩,
  ⟨{ W.cmd (W.w []) 20 0x50 [2] with therm := { held := true } }, 20,
    W.canRun (by decide +kernel), by decide +kernel, by decide +kernel⟩,
  ⟨W.cmd (W.w []) 479 0x51 [0], 479,
    W.canRun (by decide +kernel), by decide +kernel⟩,
  ⟨W.cmd (W.w []) 20 0x51 (leBytes 4 1 ++ leBytes 4 140000), 20, 140000,
    W.canRun (by decide +kernel), by decide +kernel⟩,
  ⟨W.cmd (W.w []) 20 0x51 (leBytes 4 1 ++ leBytes 4 49999), 20, 49999,
    W.canRun (by decide +kernel), by decide +kernel⟩⟩

theorem witness_MailboxCommands :
  (∃ (s : State) (m : Fin 21) (st : Nat) (p : List Byte), (s.cmdOf m).resp = some (st, p) ∧ 8 + p.length ≤ 4096) ∧
  (∃ (s : State) (m : Fin 1024), s.cmdAnswer (s.cmdOf m) = none) ∧
  (∃ (s : State), s.skepRuns = true) ∧
  (∃ (s : State), s.skepRuns = true ∧ s.skep.released = true ∧ s.on (R.MB_STATUS_BUSY 20) = false) ∧
  (∃ (s : State), s.skepRuns = true ∧ s.skep.released = true ∧ s.on (R.MB_STATUS_BUSY 20) = true) ∧
  (∃ (s : State) (bs : List Byte), s.skepRuns = true ∧ s.on (R.MB_STATUS_BUSY 20) = false ∧ bs ≠ [] ∧ bs.length ≤ 32 ∧ s.skep.smbOffset + bs.length ≤ 4096) ∧
  (∃ (s : State) (bs : List Byte), s.skepRuns = true ∧ s.on (R.MB_STATUS_BUSY 20) = true ∧ bs ≠ [] ∧ bs.length ≤ 32) ∧
  (∃ (s : State) (n : Fin 33), s.skepRuns = true ∧ n.val ≠ 0) ∧
  (∃ (s : State), s.skepRuns = true) ∧
  (∃ (s : State) (v : SmbCmd) (bs : List Byte) (c : Instr), s.skepRuns = true ∧ c ∈ [.smbSetOffset v false, .smbBlockWrite bs false]) ∧
  (∃ (s : State) (v : SmbCmd) (bs : List Byte) (ok : Bool) (n : Fin 33) (c : Instr), s.skepRuns = false ∧ c ∈ [.smbSetOffset v ok, .smbBlockWrite bs ok, .smbBlockRead n, .smbReadStatus]) :=
  ⟨⟨{ W.w [(R.MB_STATUS_BUSY 20, 1)] with skep := { cmds := [(20, { req := [1], started := true, resp := some (3, [1, 2]) })] } }, 20, 3, [1, 2],
    by decide +kernel⟩,
  ⟨W.w [], 479,
    by decide +kernel⟩,
  ⟨W.run (W.w []),
    by decide +kernel⟩,
  ⟨let s := W.run (W.w []); { s with skep := { s.skep with released := true } },
    by decide +kernel⟩,
  ⟨let s := W.run (W.w [(R.MB_STATUS_BUSY 20, 1)]); { s with skep := { s.skep with released := true } },
    by decide +kernel⟩,
  ⟨let s := W.run (W.w []); { s with skep := { s.skep with smbOffset := 4094 } }, [1, 0],
    by decide +kernel⟩,
  ⟨W.run (W.w [(R.MB_STATUS_BUSY 20, 1)]), [1, 0],
    by decide +kernel⟩,
  ⟨W.run (W.w []), 32,
    by decide +kernel⟩,
  ⟨W.run (W.w []),
    by decide +kernel⟩,
  ⟨W.run (W.w []), .offset 5, [1], .smbBlockWrite [1] false,
    by decide +kernel⟩,
  ⟨W.w [(R.SKEP_STATUS_STATE, 1)], .ring, [1], true, 32, .smbBlockRead 32,
    by decide +kernel⟩⟩

theorem witness_SkepResetCommands :
  (∃ (s : State), s.get R.SKEP_STATUS_STATE ≠ 2 ∧ s.boot.down = false ∧ (s.skep.resets.filter fun x => decide (s.clk < x + 2500000000)).length < 3) ∧
  (∃ (s : State), s.get R.SKEP_STATUS_STATE ≠ 2 ∧ s.boot.down = false ∧ 3 ≤ (s.skep.resets.filter fun x => decide (s.clk < x + 2500000000)).length) ∧
  (∃ (s : State), (s.get R.SKEP_STATUS_STATE = 2 ∨ s.boot.down = true)) ∧
  (∃ (s : State), s.hears .fn1 = true ∧ s.get R.SKEP_STATUS_STATE = 2) ∧
  (∃ (s : State) (who : Who), s.hears who = true ∧ (who ≠ .fn1 ∨ s.get R.SKEP_STATUS_STATE ≠ 2)) ∧
  (∃ (s : State), s.get R.SKEP_STATUS_STATE = 1 ∧ s.boot.down = false ∧ s.skep.todo = [] ∧ s.skep.moved = [] ∧ s.enrolQ = [] ∧ s.groups = [] ∧ (∀ u, s.unitState u ≠ .starting) ∧ s.skep.released = false) ∧
  (∃ (s : State), s.get R.SKEP_STATUS_STATE = 1 ∧ s.skep.released = true) ∧
  (∃ (s : State), s.get R.SKEP_STATUS_STATE = 1 ∧ s.boot.down = false ∧ s.skep.todo = [] ∧ s.skep.moved = [] ∧ s.enrolQ = [] ∧ s.groups = [] ∧ (∀ u, s.unitState u = .off)) ∧
  (∃ (s : State), s.get R.SKEP_STATUS_STATE ≠ 1) :=
  ⟨⟨let s := W.run (W.w []); { s with clk := 9000000000, skep := { s.skep with resets := [6500000000, 7000000000, 8000000000] } },
    by decide +kernel⟩,
  ⟨let s := W.run (W.w []); { s with clk := 9000000000, skep := { s.skep with resets := [6500000001, 7000000000, 8000000000] } },
    by decide +kernel⟩,
  ⟨W.w [(R.SKEP_STATUS_STATE, 2)],
    by decide +kernel⟩,
  ⟨W.w [(R.SKEP_STATUS_STATE, 2)],
    by decide +kernel⟩,
  ⟨W.w [], .fn1,
    by decide +kernel⟩,
  ⟨W.w [(R.SKEP_STATUS_STATE, 1)],
    by decide +kernel, by decide +kernel, by decide +kernel, by decide +kernel, by decide +kernel, by decide +kernel, (fun _ h => by cases h), by decide +kernel⟩,
  ⟨{ W.w [(R.SKEP_STATUS_STATE, 1)] with skep := { released := true } },
    by decide +kernel⟩,
  ⟨W.w [(R.SKEP_STATUS_STATE, 1)],
    by decide +kernel, by decide +kernel, by decide +kernel, by decide +kernel, by decide +kernel, by decide +kernel, (fun _ => rfl)⟩,
  ⟨W.w [(R.SKEP_STATUS_STATE, 2)],
    by decide +kernel⟩⟩

theorem witness_BootCommands :
  (∃ (s : State) (bad : Option Nat) (c : Instr), (c = .corePor bad ∨ (c = .sysReset bad ∧ s.boot.down = false))) ∧
  (∃ (s : State), s.boot.down = false) ∧
  (∃ (s : State), s.boot.down = true) ∧
  (∃ (s : State) (f : Flash), s.boot.patchDone = false ∧ s.skepRuns = true ∧ s.boot.identDone = true ∧ f.slow = false ∧ f.id = 0) ∧
  (∃ (s : State), s.boot.patchDone = true) ∧
  (∃ (s : State), s.skepRuns = true ∧ s.boot.identDone = true ∧ s.boot.patchDone = true ∧ s.skep.released = false ∧ 46000 ≤ s.get R.PWR_BUDGET_MW) ∧
  (∃ (s : State), (s.boot.identDone = false ∨ s.boot.patchDone = false ∨ s.skep.released = true)) ∧
  (∃ (s : State), s.get R.SKEP_STATUS_STATE ≠ 2 ∧ s.boot.down = false) ∧
  (∃ (s : State), s.get R.SKEP_STATUS_STATE = 1 ∧ s.skep.todo = [] ∧ s.skep.moved = [] ∧ s.enrolQ = [] ∧ s.groups = [] ∧ (∀ u, s.unitState u ≠ .starting)) ∧
  (∃ (s : State), s.hears .fn1 = true ∧ s.get R.SKEP_STATUS_STATE = 2) :=
  ⟨⟨W.w [], some 9, .sysReset (some 9),
    Or.inr ⟨rfl, by decide +kernel⟩⟩,
  ⟨W.w [],
    by decide +kernel⟩,
  ⟨{ W.w [] with boot := { down := true } },
    by decide +kernel⟩,
  ⟨let s := W.run (W.w []); { s with boot := { identDone := true } }, ⟨0, false, [], []⟩,
    by decide +kernel⟩,
  ⟨{ W.w [] with boot := { patchDone := true } },
    by decide +kernel⟩,
  ⟨let s := W.run (W.w []); { s with boot := { identDone := true, patchDone := true } },
    by decide +kernel⟩,
  ⟨W.w [],
    by decide +kernel⟩,
  ⟨W.w [(R.SKEP_STATUS_STATE, 1)],
    by decide +kernel⟩,
  ⟨W.w [(R.SKEP_STATUS_STATE, 1)],
    by decide +kernel, by decide +kernel, by decide +kernel, by decide +kernel, by decide +kernel, (fun _ h => by cases h)⟩,
  ⟨W.w [(R.SKEP_STATUS_STATE, 2)],
    by decide +kernel⟩⟩

end Sys2Proof.Machine
end

section
/-!
PROOF. The signed reading of a residue, and the order of position words (R9).
-/
namespace Sys2Proof.Machine

/-- The signed reading of `n + 1` bits lies in the range of two's complement. -/
theorem signed_succ_mem (n x : Nat) : -((2 ^ n : Nat) : Int) ≤ signed (n + 1) x ∧ signed (n + 1) x < (2 ^ n : Nat) := by
  have hlt : x % 2 ^ (n + 1) < 2 ^ (n + 1) := Nat.mod_lt _ (two_pow_pos _)
  unfold signed
  rw [Nat.pow_succ] at *
  split <;> omega

/-- A number and the signed reading of its low `w` bits differ by a multiple of 2ʷ. -/
theorem two_pow_dvd_sub_signed_unsigned (w : Nat) (x : Int) : ((2 ^ w : Nat) : Int) ∣ x - signed w (unsigned w x) := by
  have hpos : 0 < ((2 ^ w : Nat) : Int) := Int.natCast_pos.mpr (two_pow_pos w)
  have hnn : 0 ≤ x % ((2 ^ w : Nat) : Int) := Int.emod_nonneg x (Int.ne_of_gt hpos)
  have hlt : x % ((2 ^ w : Nat) : Int) < (2 ^ w : Nat) := Int.emod_lt_of_pos x hpos
  have hdiv : x % ((2 ^ w : Nat) : Int) + (2 ^ w : Nat) * (x / (2 ^ w : Nat)) = x := Int.emod_add_mul_ediv x _
  have hu : (unsigned w x : Int) = x % (2 ^ w : Nat) := Int.toNat_of_nonneg hnn
  have hmod : unsigned w x % 2 ^ w = unsigned w x := Nat.mod_eq_of_lt (by omega)
  unfold signed
  rw [hmod]
  split
  · exact ⟨x / (2 ^ w : Nat), by rw [hu]; omega⟩
  · exact ⟨x / (2 ^ w : Nat) + 1, by rw [hu, Int.mul_add, Int.mul_one]; omega⟩

theorem posDiff_mem (a b : Nat) : -2 ^ 55 ≤ posDiff a b ∧ posDiff a b < 2 ^ 55 := by
  obtain ⟨hlo, hhi⟩ : -((2 ^ 55 : Nat) : Int) ≤ posDiff a b ∧ posDiff a b < (2 ^ 55 : Nat) := signed_succ_mem 55 _
  omega

theorem two_pow_dvd_sub_posDiff (a b : Nat) : (2 : Int) ^ 56 ∣ (a : Int) - b - posDiff a b := two_pow_dvd_sub_signed_unsigned 56 _

/-- Position words are equal exactly when their difference is 0. -/
theorem eq_iff_posDiff_eq_zero {a b : Nat} (ha : a < 2 ^ 56) (hb : b < 2 ^ 56) : a = b ↔ posDiff a b = 0 := by
  obtain ⟨hlo, hhi⟩ := posDiff_mem a b
  obtain ⟨k, hk⟩ := two_pow_dvd_sub_posDiff a b
  omega

theorem posAfter_iff (a b : Nat) : posAfter a b = true ↔ 0 < posDiff a b := decide_eq_true_iff

theorem posBefore_iff (a b : Nat) : posBefore a b = true ↔ posDiff a b < 0 := decide_eq_true_iff

/-- Settles O6: the number `d` is `posDiff`, the signed reading of the difference modulo 2⁵⁶. -/
theorem positionOrder : Obligations.PositionOrder := by
  intro a b ha hb
  obtain ⟨hlo, hhi⟩ := posDiff_mem a b
  refine ⟨posDiff a b, hlo, hhi, two_pow_dvd_sub_posDiff a b, posAfter_iff a b, posBefore_iff a b, eq_iff_posDiff_eq_zero ha hb, ?_, ?_⟩
  · rw [← Bool.not_eq_true, ← Bool.not_eq_true, posAfter_iff, posBefore_iff]
    omega
  · intro h
    rw [posBefore_iff]
    omega

end Sys2Proof.Machine
end

section
/-!
PROOF. Accesses by address: what the way over a function's BAR does (R597, R621, R717), what each access of a register leaves (R5 to R7, R117,
R121, R143, R596), and the indirect port (R744).
-/
namespace Sys2Proof.Machine

/-! ## Registers -/

/-- A software write bit by bit: a flag that hardware has raised in the same event clock stays (R5 to R7). -/
theorem State.bitAt_reg_writeReg (s : State) {a i : Nat} {r : RegRow} (v : Word) (h : regRow? a = some r) (hi : i < 32) :
    bitAt ((s.writeReg a v).reg a).toNat i = if bitAt r.rw i then (bitAt v.toNat i && !(bitAt r.w1c i && bitAt (s.risenOf a) i))
      else (bitAt (s.reg a).toNat i && !(bitAt r.w1c i && bitAt v.toNat i && !bitAt (s.risenOf a) i)) := by
  have hw : (s.writable a v).toNat.testBit i = (v.toNat.testBit i && !((s.risenOf a).testBit i && r.w1c.testBit i)) := by
    unfold State.writable
    rw [h]
    simp only [BitVec.testBit_toNat, BitVec.getLsbD_and, BitVec.getLsbD_not, BitVec.getLsbD_ofNat, hi, decide_true, Bool.true_and]
  rw [State.reg_writeReg s v h, if_pos rfl]
  simp only [bitAt_eq_testBit, maskedWrite_bit _ _ _ _ _ hi, hw]
  cases r.w1c.testBit i <;> simp [Bool.and_comm]

theorem OnlyRegs.writeReg (s : State) (a : Nat) (v : Word) : OnlyRegs s (s.writeReg a v) [a] := by
  refine ⟨?_, fun b hb => State.reg_writeReg_of_ne s v (by simpa using hb)⟩
  unfold State.writeReg
  split <;> rfl

theorem OnlyRegs.raise (s : State) (f : Fld) : OnlyRegs s (s.raise f) [f.addr] :=
  ⟨rfl, fun b hb => by simpa using State.reg_set_of_ne s 1 (by simpa using hb)⟩

/-- A flag raised reads 1. -/
theorem State.on_raise_self (s : State) {f : Fld} (hf : f.lo + f.w ≤ 32) (hw : f.w ≠ 0) : (s.raise f).on f = true := by
  have h1 : 1 % 2 ^ f.w = 1 := Nat.mod_eq_of_lt (Nat.one_lt_two_pow hw)
  rw [State.raise_eq, State.note_on, State.on_eq, State.get_set_self s 1 hf, h1]
  rfl

/-- A field cleared reads 0. -/
theorem State.on_clear_self (s : State) {f : Fld} (hf : f.lo + f.w ≤ 32) : (s.clear f).on f = false := by
  rw [State.clear_eq, State.on_eq, State.get_set_self s 0 hf, Nat.zero_mod]
  rfl

/-! ## The way over a function's BAR -/

@[simp] theorem State.l1Exit_boot (s : State) : s.l1Exit.boot = s.boot := by
  unfold State.l1Exit
  split <;> rfl

@[simp] theorem State.l1Exit_memAccess (s : State) (f : Nat) : s.l1Exit.memAccess f = s.memAccess f := by
  have hne : (Cfg.PM_STATE f).addr ≠ R.PCIE_LINK_L1.addr := by show 0x5000000 + f * 0x1000 + 0x44 ≠ 0x8000; omega
  unfold State.l1Exit State.memAccess
  split
  · rw [State.clear_eq, State.get_set_of_ne s 0 hne]
  · rfl

theorem State.l1Exit_of_off {s : State} (h : s.on R.PCIE_LINK_L1 = false) : s.l1Exit = s := by
  unfold State.l1Exit
  rw [h]
  rfl

/-- A link that has left L1 is out of L1. -/
@[simp] theorem State.l1Exit_l1Exit (s : State) : s.l1Exit.l1Exit = s.l1Exit := by
  refine State.l1Exit_of_off ?_
  unfold State.l1Exit
  split
  · exact State.on_clear_self s (by decide)
  · next h => exact Bool.not_eq_true _ ▸ h

variable {s : State} {who : Who} {f : State → State} {write : Bool} {n : Nat}

theorem State.viaBus_of_down (h : s.boot.down = true) : s.viaBus who f write = s := if_pos h

theorem State.viaBus_of_fn (h : fnOf who = some n) (hd : s.boot.down = false) :
    s.viaBus who f write = if s.memAccess n then f s.l1Exit else s.l1Exit.unsupported n write := by
  unfold State.viaBus
  simp [hd, h]

/-- A request through a function finds the link out of L1 (R621). -/
theorem State.viaBus_l1Exit (h : fnOf who = some n) (hd : s.boot.down = false) : s.l1Exit.viaBus who f write = s.viaBus who f write := by
  rw [State.viaBus_of_fn h hd, State.viaBus_of_fn h (by rwa [State.l1Exit_boot]), State.l1Exit_memAccess, State.l1Exit_l1Exit]

theorem State.viaBus_of_hears (h : s.hears who = true) : s.viaBus who f write = f s := by
  unfold State.hears at h
  unfold State.viaBus
  cases hf : fnOf who with
  | none => simp_all
  | some n =>
    simp only [hf, Bool.and_eq_true, Bool.not_eq_true'] at h
    obtain ⟨hd, hm, hl⟩ := h
    simp [hd, hm, State.l1Exit_of_off hl]

theorem State.hears_skep (h : s.boot.down = false) : s.hears .skep = true := by
  unfold State.hears
  simp [h, fnOf]

/-- Every write of a register that has a command of its own goes over its sender's way to the registers. -/
theorem exec_eq_viaBus {c : Instr} (h : sender c = some who) : ∃ f, ∀ s, exec c s = .next (s.viaBus who f) := by
  cases c with
  | pwrStateWrite l a =>
    cases a with
    | write _ v =>
      cases h
      exact ⟨_, fun _ => rfl⟩
    | link _ _ => cases h
  | _ => cases h <;> exact ⟨_, fun _ => rfl⟩

/-! ## Where addresses lead -/

theorem blockAt_eq_none_of_le {n base stride a : Nat} (hs : 0 < stride) (h : base + n * stride ≤ a) : blockAt n base stride a = none :=
  dif_neg fun hb => by
    have := (Nat.le_div_iff_mul_le hs).mpr (show n * stride ≤ a - base by omega)
    omega

/-- An address in entry `k` of a table. -/
theorem blockAt_add {n base stride : Nat} (k : Fin n) {o : Nat} (ho : o < stride) : blockAt n base stride (base + k * stride + o) = some (k, o) := by
  have hs : base + k * stride + o - base = o + k * stride := by omega
  have hd : (o + k * stride) / stride = k := by
    rw [Nat.add_mul_div_right _ _ (by omega), Nat.div_eq_of_lt ho, Nat.zero_add]
  have hm : (o + k * stride) % stride = o := by rw [Nat.add_mul_mod_self_right, Nat.mod_eq_of_lt ho]
  unfold blockAt
  simp only [hs, hd, hm]
  rw [dif_pos ⟨by omega, k.isLt⟩]

theorem place0_of_window {a : Nat} (h : 0x100000 ≤ a) (h2 : a < 0x1600000) : place0 a = .reg a := by
  unfold place0
  rw [if_neg (by omega), if_neg (by omega), if_neg (by omega), if_neg (by omega), if_pos h2]

theorem placeOf_of_ne_fn1 (h : who ≠ .fn1) (a : Nat) : placeOf who a = place0 (a / 4 * 4) := by
  cases who with
  | fn1 => exact absurd rfl h
  | fn0 => rfl
  | skep => rfl

/-- The registers of the windows outside the lanes have one address. -/
theorem canon_of_le {a : Nat} (h : 0x200000 ≤ a) : canon who a = a := by
  unfold canon
  rw [if_neg (by omega), if_neg (by omega)]

theorem State.linkShadow_of_le {a : Nat} (h : 0x200000 ≤ a) : s.linkShadow a = false := by
  unfold State.linkShadow
  rw [blockAt_eq_none_of_le (by omega) (by omega)]

/-- The registers from the encoder inputs on are hidden from no requester. -/
theorem hidden_of_le {a : Nat} (h : 0x900000 ≤ a) : hidden who a = false := by
  have hskep : a ≠ R.SKEP_RESTART := by unfold R.SKEP_RESTART; omega
  have hport : ¬ (R.PORT_W_0 6 ≤ a ∧ a < R.PORT_W_0 8) := by unfold R.PORT_W_0; omega
  have hmb : ¬ (0xA100 ≤ a ∧ a < 0xA150) := by omega
  have hind : ¬ (0xC000 ≤ a ∧ a < 0xC100) := by omega
  unfold hidden
  simp [hskep, hport, hmb, hind]

/-- Function 0 is denied no register between the lanes and the station block. -/
theorem State.writeDenied_of_window {a : Nat} (h : 0x200000 ≤ a) (h2 : a < 0x1200000) : s.writeDenied who a = false := by
  have hsta : ¬ (0x1200000 ≤ a ∧ a < 0x1300000) := by omega
  unfold State.writeDenied
  rw [blockAt_eq_none_of_le (by omega) (by omega)]
  simp [hsta]

theorem boxReadOnly_of_ne_fn1 (h : who ≠ .fn1) (a : Nat) : boxReadOnly who a = false := by
  unfold boxReadOnly
  simp [h]

/-! ## Accesses of one register -/

section register

variable {a : Nat} {v : Word}

/-- A write of a register that has no effect of its own and holds no selector. -/
theorem State.regWrite_plain (hc : canon who a = a) (hh : hidden who a = false) (hb : boxReadOnly who a = false) (hl : s.linkShadow a = false)
    (hs : s.writeSpecial who a v = none) (hi : isSelector a = false) : s.regWrite who a v = s.writeReg a v := by
  unfold State.regWrite
  simp [hc, hh, hb, hl, hs, hi]

/-- A write of a register of selectors that has no other effect of its own (R117, R121). -/
theorem State.regWrite_selector (hc : canon who a = a) (hh : hidden who a = false) (hb : boxReadOnly who a = false)
    (hl : s.linkShadow a = false) (hd : s.writeDenied who a = false) (hi : isSelector a = true)
    (hs : (s.holdSelector a).writeSpecial who a v = none) :
    s.regWrite who a v = ((s.holdSelector a).writeReg a v).noteSelector who a := by
  unfold State.regWrite
  simp [hc, hh, hb, hl, hd, hi, hs]

/-- A read of a register without a part that a read clears. -/
theorem State.regRead_of_rcBits_eq_zero {c : Bool} (hc : canon who a = a) (hh : hidden who a = false) (hl : s.linkShadow a = false)
    (hr : rcBits a = 0) : s.regRead who a c = (s.regValue a, s.capture a) := by
  unfold State.regRead
  simp [hc, hh, hl, hr]

/-- A read of a counter that the read clears, outside the lanes (R7). -/
theorem State.regRead_of_rcBits_ne_zero {c : Bool} (hc : canon who a = a) (hh : hidden who a = false)
    (hb : blockAt 32 0x100000 0x8000 a = none) (hr : rcBits a ≠ 0) :
    s.regRead who a c = (if s.risenOf a = 0 then s.regValue a else BitVec.ofNat 32 (s.rcWas a).1,
      (s.setReg a (BitVec.ofNat 32 ((s.rcWas a).2 + c.toNat))).rcNote a 0 ((s.rcWas a).2 + c.toNat)) := by
  have hl : s.linkShadow a = false := by unfold State.linkShadow; rw [hb]
  have hcap : s.rcCapture a = s := by unfold State.rcCapture; rw [hb]
  unfold State.regRead
  simp [hc, hh, hl, hr, hcap]

end register

/-! ## The commands of accesses by address -/

theorem State.blockOnly_of_fits (h : s.hears who = true) {a : Nat} (hb : who = .skep ∨ inBlock a n = true) :
    s.blockOnly who a n write f = f s := by
  unfold State.blockOnly
  rw [State.viaBus_of_hears h]
  cases hf : fnOf who with
  | none => rfl
  | some k => exact if_pos (hb.resolve_left fun e => by simp [e, fnOf] at hf)

theorem State.blockOnly_of_crossing (h : s.hears who = true) {a k : Nat} (hf : fnOf who = some k) (hb : inBlock a n = false) :
    s.blockOnly who a n write f = s.unsupported k write := by
  unfold State.blockOnly
  rw [State.viaBus_of_hears h, hf]
  exact if_neg (Bool.eq_false_iff.mp hb)

theorem exec_registerWrite_one (h : s.hears who = true) (a : Nat) (v : Word) :
    exec (.registerWrite who a v []) s = .next (s.placeWrite who (placeOf who a) v) :=
  congrArg Host.Outcome.next (State.viaBus_of_hears h)

/-- A write by Skep of a register that has no effect of its own. -/
theorem exec_registerWrite_plain (h : s.boot.down = false) {a : Nat} {v : Word} (hp : placeOf .skep a = .reg a) (hc : canon .skep a = a)
    (hh : hidden .skep a = false) (hl : s.linkShadow a = false) (hs : s.writeSpecial .skep a v = none) (hi : isSelector a = false) :
    exec (.registerWrite .skep a v []) s = .next (s.writeReg a v) := by
  have hw : s.placeWrite .skep (.reg a) v = s.regWrite .skep a v := if_neg fun hx => nomatch hx.2
  rw [exec_registerWrite_one (State.hears_skep h), hp, hw, State.regWrite_plain hc hh rfl hl hs hi]

theorem exec_registerWrite_words (h : s.hears who = true) {a : Nat} (v : Word) {ws : List Word} (hne : ws ≠ [])
    (hb : who = .skep ∨ inBlock a (ws.length + 1) = true) :
    exec (.registerWrite who a v ws) s = .next (s.wordsWrite who a (v :: ws)) := by
  obtain ⟨w, ws, rfl⟩ := List.exists_cons_of_ne_nil hne
  exact congrArg Host.Outcome.next (State.blockOnly_of_fits h hb)

theorem exec_registerWrite_crossing (h : s.hears who = true) (hf : fnOf who = some n) {a : Nat} (v : Word) {ws : List Word} (hne : ws ≠ [])
    (hb : inBlock a (ws.length + 1) = false) : exec (.registerWrite who a v ws) s = .next (s.unsupported n true) := by
  obtain ⟨w, ws, rfl⟩ := List.exists_cons_of_ne_nil hne
  exact congrArg Host.Outcome.next (State.blockOnly_of_crossing h hf hb)

/-- A read of one register by Skep. -/
theorem State.busRead_skep (h : s.boot.down = false) {a : Nat} {c : Bool} :
    s.busRead .skep a c = (s.placeRead .skep (placeOf .skep a) c).2.emit (.readData .skep a (s.placeRead .skep (placeOf .skep a) c).1) :=
  State.viaBus_of_hears (State.hears_skep h)

theorem exec_loCaptureRead_words (h : s.boot.down = false) {a n : Nat} (hn : n ≠ 1)
    (he : ¬ (0xC00000 ≤ a ∧ a < 0x1000000 ∧ a % 16 = 0 ∧ n = 4)) :
    exec (.loCaptureRead .skep a n) s = .next ((s.wordsRead .skep n a).2.emit (.readWords .skep a (s.wordsRead .skep n a).1)) := by
  refine congrArg Host.Outcome.next ((if_neg hn).trans ((State.viaBus_of_hears (State.hears_skep h)).trans ?_))
  exact if_neg fun hc => he hc.2

theorem exec_loCaptureRead_entry (h : s.boot.down = false) {i : Nat} (hi : i < 262144) :
    exec (.loCaptureRead .skep (0xC00000 + 16 * i) 4) s = .next (s.emit (.readEntry .skep (0xC00000 + 16 * i) (s.slotOf i).entry)) := by
  have hs : (0xC00000 + 16 * i - 0xC00000) / 16 = i := by omega
  refine congrArg Host.Outcome.next ((if_neg (by decide)).trans ((State.viaBus_of_hears (State.hears_skep h)).trans ?_))
  refine (if_pos ⟨by decide, by omega, by omega, by omega, rfl⟩).trans ?_
  rw [hs]
  rfl

/-- A read of the time captures its higher parts (R143). -/
theorem exec_loCaptureRead_time (h : s.boot.down = false) :
    exec (.loCaptureRead .skep R.TIME_NS_LO 1) s = .next
      (((s.setReg R.TIME_NS_HI (BitVec.ofNat 32 (s.timeNs / 2 ^ 32))).setReg R.TIME_FRAC (BitVec.ofNat 32 (s.timeFrac / 2 ^ 16))).emit
        (.readData .skep R.TIME_NS_LO (BitVec.ofNat 32 s.timeNs))) := by
  have hp : placeOf .skep R.TIME_NS_LO = .reg R.TIME_NS_LO := by decide
  have hr : s.regRead .skep R.TIME_NS_LO false = (s.regValue R.TIME_NS_LO, s.capture R.TIME_NS_LO) :=
    State.regRead_of_rcBits_eq_zero (by decide) (by decide) (State.linkShadow_of_le (by decide)) (by decide)
  refine congrArg Host.Outcome.next ((if_pos rfl).trans ((State.busRead_skep h).trans ?_))
  rw [hp, show s.placeRead .skep (.reg R.TIME_NS_LO) false = _ from hr]
  rfl

theorem exec_rcCounterRead (h : s.boot.down = false) {a : Nat} {c : Bool} (hp : placeOf .skep a = .reg a) (hc : canon .skep a = a)
    (hh : hidden .skep a = false) (hb : blockAt 32 0x100000 0x8000 a = none) (hr : rcBits a ≠ 0) :
    exec (.rcCounterRead .skep a c) s = .next
      (((s.setReg a (BitVec.ofNat 32 ((s.rcWas a).2 + c.toNat))).rcNote a 0 ((s.rcWas a).2 + c.toNat)).emit
        (.readData .skep a (if s.risenOf a = 0 then s.regValue a else BitVec.ofNat 32 (s.rcWas a).1))) := by
  have hrd : s.placeRead .skep (.reg a) c = _ := State.regRead_of_rcBits_ne_zero hc hh hb hr
  refine congrArg Host.Outcome.next ((State.busRead_skep h).trans ?_)
  rw [hp, hrd]

/-! ## Selectors of an event output -/

section selector

variable (k : Fin 64)

theorem regRow_OUT_SUB_A : regRow? (R.OUT_SUB_A k) = some ⟨0xA04004, 64, 0x20, 1, 0, 0, 0x1FF01FF, 0, 0, 0⟩ := by
  revert k
  decide

theorem State.get_writeReg_OUT_SUB_A_SEL_0 (s : State) (v : Word) :
    (s.writeReg (R.OUT_SUB_A k) v).get (R.OUT_SUB_A_SEL_0 k) = bitsOf v.toNat (R.OUT_SUB_A_SEL_0 k).lo (R.OUT_SUB_A_SEL_0 k).w :=
  s.get_writeReg_rw (f := R.OUT_SUB_A_SEL_0 k) v (regRow_OUT_SUB_A k) (show 0 + 9 ≤ 32 by decide)
    (show bitsOf 0x1FF01FF 0 9 = 2 ^ 9 - 1 by decide) (show bitsOf 0 0 9 = 0 by decide)

theorem isSelector_OUT_SUB_A : isSelector (R.OUT_SUB_A k) = true := by
  refine List.any_eq_true.mpr ⟨(0xA04004, 64, 0x20, 1, 0), by decide, ?_⟩
  simp [RegRow.holds]

theorem State.writeSpecial_OUT_SUB_A (s : State) (who : Who) (v : Word) : s.writeSpecial who (R.OUT_SUB_A k) v = none := by
  have hk := k.isLt
  have ha : R.OUT_SUB_A k = 0xA04000 + k * 0x20 + 4 := by unfold R.OUT_SUB_A; omega
  have hlo : ¬ (R.OUT_SUB_A k < 0x20000 ∨ 0x4000000 ≤ R.OUT_SUB_A k) := by omega
  have hmib : R.OUT_SUB_A k / 0x100000 = 10 := by omega
  have hpub : R.OUT_SUB_A k ≠ R.SWD_PUB := by unfold R.SWD_PUB; omega
  have hgirq : blockAt 16 0xA00100 4 (R.OUT_SUB_A k) = none := blockAt_eq_none_of_le (by omega) (by omega)
  have hch : blockAt 256 0xA01000 0x20 (R.OUT_SUB_A k) = none := blockAt_eq_none_of_le (by omega) (by omega)
  have hout : blockAt 64 0xA04000 0x20 (R.OUT_SUB_A k) = some (k, 4) := by rw [ha, blockAt_add k (by omega)]
  unfold State.writeSpecial
  rw [if_neg hlo, hmib]
  show s.writeSward who (R.OUT_SUB_A k) v = none
  unfold State.writeSward
  rw [if_neg hpub, hgirq, hch, hout]
  rfl

theorem exec_selectorWrite_OUT_SUB_A (h : s.hears who = true) (hw : who ≠ .fn1) (v : Word) :
    exec (.selectorWrite who (R.OUT_SUB_A k) v) s =
      .next (((s.holdSelector (R.OUT_SUB_A k)).writeReg (R.OUT_SUB_A k) v).noteSelector who (R.OUT_SUB_A k)) := by
  have hk := k.isLt
  have ha : R.OUT_SUB_A k = 0xA04004 + k * 0x20 := rfl
  have hp : placeOf who (R.OUT_SUB_A k) = .reg (R.OUT_SUB_A k) := by
    rw [placeOf_of_ne_fn1 hw, show R.OUT_SUB_A k / 4 * 4 = R.OUT_SUB_A k by omega, place0_of_window (by omega) (by omega)]
  have hc : canon who (R.OUT_SUB_A k) = R.OUT_SUB_A k := canon_of_le (by omega)
  have hsel : (placeOf who (R.OUT_SUB_A k)).selector who = true := by
    rw [hp]
    show isSelector (canon who _) = true
    rw [hc, isSelector_OUT_SUB_A]
  have hwr : s.placeWrite who (.reg (R.OUT_SUB_A k)) v = s.regWrite who (R.OUT_SUB_A k) v := if_neg fun hx => hw hx.2
  refine congrArg Host.Outcome.next ((if_pos hsel).trans ((State.viaBus_of_hears h).trans ?_))
  rw [hp, hwr]
  exact State.regWrite_selector hc (hidden_of_le (by omega)) (boxReadOnly_of_ne_fn1 hw _) (State.linkShadow_of_le (by omega))
    (State.writeDenied_of_window (by omega) (by omega)) (isSelector_OUT_SUB_A k) (State.writeSpecial_OUT_SUB_A k _ who v)

end selector

@[simp] theorem State.reg_holdSelector (s : State) (a b : Nat) : (s.holdSelector a).reg b = s.reg b := by
  unfold State.holdSelector
  split <;> rfl

@[simp] theorem State.reg_noteSelector (s : State) (who : Who) (a b : Nat) : (s.noteSelector who a).reg b = s.reg b := rfl

@[simp] theorem State.noteSelector_selPrev (s : State) (who : Who) (a : Nat) : (s.noteSelector who a).swd.selPrev = s.swd.selPrev := rfl

@[simp] theorem State.get_noteSelector (s : State) (who : Who) (a : Nat) (x : Fld) : (s.noteSelector who a).get x = s.get x := rfl

@[simp] theorem State.writeReg_swd (s : State) (a : Nat) (v : Word) : (s.writeReg a v).swd = s.swd := by
  unfold State.writeReg
  split <;> rfl

/-- A selector held is in force whatever its register holds by then (R117). -/
theorem State.selGet_of_held {s t : State} {x : Sel} (h : t.swd.selPrev = (s.holdSelector x.addr).swd.selPrev) : t.selGet x = s.selGet x := by
  unfold State.selGet
  rw [h]
  unfold State.holdSelector
  cases hp : Tbl.get none s.swd.selPrev x.addr with
  | some e => simp [hp]
  | none => simp [State.get]

/-! ## The indirect port (R744) -/

theorem State.placeWrite_IND_CMD (s : State) (v : Word) :
    s.placeWrite .fn1 (.reg R.IND_CMD) v = if bitAt v.toNat 0 then s.indGo (bitAt v.toNat 1) else s := by
  unfold State.placeWrite
  exact if_pos ⟨rfl, rfl⟩

theorem State.busWrite_IND_CMD (h : s.hears .fn1 = true) (v : Word) (hg : bitAt v.toNat 0 = true) :
    s.busWrite .fn1 R.IND_CMD v = s.indGo (bitAt v.toNat 1) := by
  have hp : placeOf .fn1 R.IND_CMD = .reg R.IND_CMD := by decide
  unfold State.busWrite
  rw [State.viaBus_of_hears h, hp, State.placeWrite_IND_CMD, if_pos hg]

theorem exec_indRead (h : s.hears .fn1 = true) : exec .indRead s = .next (s.indGo false) :=
  congrArg Host.Outcome.next (State.busWrite_IND_CMD h 1 rfl)

theorem exec_indWrite (h : s.hears .fn1 = true) : exec .indWrite s = .next (s.indGo true) :=
  congrArg Host.Outcome.next (State.busWrite_IND_CMD h 3 rfl)

theorem State.indGo_of_busy {w : Bool} (h : s.on R.IND_STATUS_DONE = false) : s.indGo w = s.raise R.IND_STATUS_CMD_IGN := by
  unfold State.indGo
  rw [h]
  rfl

theorem State.indGo_of_idle {w : Bool} (h : s.on R.IND_STATUS_DONE = true) (hlo : 0x30000 ≤ s.get R.IND_OFFSET_OFFSET * 4)
    (hhi : s.get R.IND_OFFSET_OFFSET * 4 < 0x1600000) :
    s.indGo w = { (s.indAccess (s.get R.IND_OFFSET_OFFSET * 4) w).2.clear R.IND_STATUS_DONE with
      ind := some (s.indAccess (s.get R.IND_OFFSET_OFFSET * 4) w).1 } := by
  unfold State.indGo
  rw [h]
  exact (if_neg (by decide)).trans (if_neg (by omega))

/-- A command of an idle port: the access is made, and DONE falls. -/
theorem State.indGo_idle_spec {w : Bool} (h : s.on R.IND_STATUS_DONE = true) (hlo : 0x30000 ≤ s.get R.IND_OFFSET_OFFSET * 4)
    (hhi : s.get R.IND_OFFSET_OFFSET * 4 < 0x1600000) :
    (s.indGo w).ind = some (s.indAccess (s.get R.IND_OFFSET_OFFSET * 4) w).1 ∧ (s.indGo w).on R.IND_STATUS_DONE = false ∧
      ∀ b, b ≠ R.IND_STATUS → (s.indGo w).reg b = (s.indAccess (s.get R.IND_OFFSET_OFFSET * 4) w).2.reg b := by
  rw [State.indGo_of_idle h hlo hhi]
  generalize s.indAccess (s.get R.IND_OFFSET_OFFSET * 4) w = p
  refine ⟨rfl, ?_, fun b hb => ?_⟩
  · rw [State.mk_on]
    exact State.on_clear_self p.2 (by decide)
  · rw [State.mk_reg]
    exact State.reg_set_of_ne p.2 0 hb

/-- A write through the port answers no data. -/
theorem State.indAccess_write_fst (s : State) (a : Nat) : (s.indAccess a true).1 = none := by
  unfold State.indAccess
  cases place0 a <;> rfl

/-- A command of a busy port only sets CMD_IGN. -/
theorem State.indGo_busy_spec {w : Bool} (h : s.on R.IND_STATUS_DONE = false) :
    (s.indGo w).on R.IND_STATUS_CMD_IGN = true ∧ OnlyRegs s (s.indGo w) [R.IND_STATUS] := by
  rw [State.indGo_of_busy h]
  exact ⟨State.on_raise_self s (by decide) (by decide), OnlyRegs.raise s R.IND_STATUS_CMD_IGN⟩

/-- The end of an indirect access: IND_DATA takes what was read, and DONE rises. -/
theorem indAccessDone_spec {d : Option Word} (h : s.ind = some d) : Answers .indAccessDone s fun t => t.ind = none ∧
    t.on R.IND_STATUS_DONE = true ∧ t.reg R.IND_DATA = d.getD (s.reg R.IND_DATA) ∧ OnlyRegs { s with ind := none } t [R.IND_DATA, R.IND_STATUS] := by
  unfold Answers exec execIndAccessDone
  rw [h]
  cases d with
  | none =>
    obtain ⟨heq, hreg⟩ := OnlyRegs.raise { s with ind := none } R.IND_STATUS_DONE
    exact ⟨_, rfl, rfl, State.on_raise_self _ (by decide) (by decide), hreg _ (by decide), heq,
      fun a ha => hreg a fun hc => ha (List.mem_cons_of_mem _ hc)⟩
  | some v =>
    obtain ⟨-, hreg⟩ := OnlyRegs.raise (State.setReg { s with ind := none } R.IND_DATA v) R.IND_STATUS_DONE
    refine ⟨_, rfl, rfl, State.on_raise_self _ (by decide) (by decide), ?_, rfl, fun a ha => ?_⟩
    · exact (hreg _ (by decide)).trans (State.reg_setReg_self _ _ _)
    · obtain ⟨hd, hs⟩ : a ≠ R.IND_DATA ∧ a ≠ R.IND_STATUS := by simpa using ha
      exact (hreg a (by simpa using hs)).trans (State.reg_setReg_of_ne _ v hd)

/-! ## The statement -/

/-- Settles O16, clause by clause from the lemma that says which state each access leaves. -/
theorem accessCommands : Obligations.AccessCommands := by
  refine ⟨?_, ?_, ?_, ?_, ?_, ?_, ?_, ?_, ?_, ?_, ?_, ?_, ?_⟩
  · -- the way of a command that has a row of its own (R597, R621, R717)
    intro s c who hc
    obtain ⟨f, hf⟩ := exec_eq_viaBus hc
    refine ⟨fun hd => by rw [hf, State.viaBus_of_down hd], fun n hn hd => ⟨fun hm => ?_, fun _ => ?_⟩⟩
    · rw [hf, State.viaBus_of_fn hn hd, hm]
      rfl
    · rw [hf, hf, State.viaBus_l1Exit hn hd]
  · -- a write without an effect of its own (R5 to R7)
    intro s a v r hd hp hc hh hl hs hi hr
    exact ⟨_, exec_registerWrite_plain hd hp hc hh hl hs hi, OnlyRegs.writeReg s a v, fun i hi => s.bitAt_reg_writeReg v hr hi⟩
  · -- a write of several registers (R596)
    intro s who a v ws hh hne hb
    exact ⟨_, exec_registerWrite_one hh a v, exec_registerWrite_words hh v hne hb⟩
  · -- a write that crosses 64 bytes (R597)
    intro s who a n v ws hh hn hne hb
    exact ⟨_, exec_registerWrite_crossing hh hn v hne hb, rfl⟩
  · -- a read of a counter that the read clears (R7)
    intro s a c hd hp hc hh hb hr
    exact ⟨_, exec_rcCounterRead hd hp hc hh hb hr, State.reg_setReg_self _ _ _, rfl, fun b hb => State.reg_setReg_of_ne _ _ hb⟩
  · -- a read of the time (R143)
    intro s hd
    refine ⟨_, exec_loCaptureRead_time hd, ?_, State.reg_setReg_self _ _ _, rfl, fun b h1 h2 => ?_⟩
    · exact (State.reg_setReg_of_ne _ _ (by decide)).trans (State.reg_setReg_self _ _ _)
    · exact (State.reg_setReg_of_ne _ _ h2).trans (State.reg_setReg_of_ne _ _ h1)
  · -- a read of several registers (R596)
    intro s a n hd hn he
    exact ⟨_, exec_loCaptureRead_words hd hn he, fun _ => rfl, rfl⟩
  · -- a read of a whole entry of the position table (R102)
    intro s i hd hi
    exact ⟨_, exec_loCaptureRead_entry hd hi, rfl⟩
  · -- a write of a selector (R117, R121)
    intro s who k v hh hw
    refine ⟨_, exec_selectorWrite_OUT_SUB_A k hh hw v, Tbl.get_put_self _ _ _ _, State.selGet_of_held ?_, ?_, fun b hb => ?_⟩
    · rw [State.noteSelector_selPrev, State.writeReg_swd]
    · rw [State.get_noteSelector, State.get_writeReg_OUT_SUB_A_SEL_0]
    · rw [State.reg_noteSelector, State.reg_writeReg_of_ne _ v hb, State.reg_holdSelector]
  · -- commands of the indirect port while it is idle (R744)
    intro s hh hd hlo hhi
    obtain ⟨hind, hdone, hreg⟩ := State.indGo_idle_spec (w := true) hd hlo hhi
    exact ⟨⟨_, exec_indRead hh, State.indGo_idle_spec hd hlo hhi⟩,
      _, exec_indWrite hh, hind.trans (congrArg some (State.indAccess_write_fst _ _)), hdone, hreg⟩
  · -- commands of the indirect port while it is busy (R744)
    intro s hh hd
    exact ⟨⟨_, exec_indRead hh, State.indGo_busy_spec hd⟩, _, exec_indWrite hh, State.indGo_busy_spec hd⟩
  · -- the end of an indirect access (R744)
    intro s d hd
    exact indAccessDone_spec hd
  · -- no indirect access is under way
    intro s hd
    refine ⟨s, ?_, rfl⟩
    unfold exec execIndAccessDone
    rw [hd]

end Sys2Proof.Machine
end

section
/-!
PROOF. Every command answers a next state and keeps what every step keeps; so does the step.
-/
namespace Sys2Proof.Machine

/-- The mask of no part avoids every mask. -/
theorem Avoids.zero (k : Nat) : Avoids 0 k := Nat.zero_and k

theorem EKeeps.answers {m : Nat} {s : State} {o : Host.Outcome State Fault Refusal} (h : EKeeps m s o) : ∃ t, o = .next t ∧ Keeps s t :=
  h.imp fun _ ⟨e, w⟩ => ⟨e, w.keeps⟩

/-- The dispatch: each command by the lemma of its own meaning. -/
theorem exec_eKeeps (c : Instr) (s : State) : EKeeps 0 s (exec c s) := by
  cases c with
  | registerWrite => exact execRegisterWrite_keeps (Avoids.zero _)
  | rcCounterRead => exact execRcCounterRead_keeps (Avoids.zero _)
  | loCaptureRead => exact execLoCaptureRead_keeps (Avoids.zero _)
  | encCtrlWrite => exact execEncCtrlWrite_keeps (Avoids.zero _)
  | indexArm => exact execIndexArm_keeps (Avoids.zero _)
  | speedWindowWrite => exact execSpeedWindowWrite_keeps (Avoids.zero _)
  | encInputChange => exact execEncInputChange_keeps (Avoids.zero _)
  | filterAccept => exact execFilterAccept_keeps (Avoids.zero _)
  | speedWindowEnd => exact execSpeedWindowEnd_keeps (Avoids.zero _)
  | lastIntervalSaturate => exact execLastIntervalSaturate_keeps (Avoids.zero _)
  | ssiCtrlWrite => exact execSsiCtrlWrite_keeps (Avoids.zero _)
  | ssiReadDue => exact execSsiReadDue_keeps (Avoids.zero _)
  | ssiReadStart => exact execSsiReadStart_keeps (Avoids.zero _)
  | ssiReadDone => exact execSsiReadDone_keeps (Avoids.zero _)
  | swInputChange => exact execSwInputChange_keeps (Avoids.zero _)
  | debounceExpire => exact execDebounceExpire_keeps (Avoids.zero _)
  | swCtrlWrite => exact execSwCtrlWrite_keeps (Avoids.zero _)
  | srcCtrlWrite => exact execSrcCtrlWrite_keeps (Avoids.zero _)
  | sourceEnable => exact execSourceEnable_keeps (Avoids.zero _)
  | sourceStale => exact execSourceStale_keeps (Avoids.zero _)
  | viewCfgWrite => exact execViewCfgWrite_keeps (Avoids.zero _)
  | portInsert => exact execPortInsert_keeps (Avoids.zero _)
  | portRemove => exact execPortRemove_keeps (Avoids.zero _)
  | entryInsertActive => exact execEntryInsertActive_keeps (Avoids.zero _)
  | entryRemoveActive => exact execEntryRemoveActive_keeps (Avoids.zero _)
  | entryCrossed => exact execEntryCrossed_keeps (Avoids.zero _)
  | entryDeferredFire => exact execEntryDeferredFire_keeps (Avoids.zero _)
  | eventGrant => exact execEventGrant_keeps (Avoids.zero _)
  | guardWindowEnd => exact execGuardWindowEnd_keeps (Avoids.zero _)
  | chCfgWrite => exact execChCfgWrite_keeps (Avoids.zero _)
  | swdPub => exact execSwdPub_keeps (Avoids.zero _)
  | selectorWrite => exact execSelectorWrite_keeps (Avoids.zero _)
  | outPulseEnd => exact execOutPulseEnd_keeps (Avoids.zero _)
  | outCtrlWrite => exact execOutCtrlWrite_keeps (Avoids.zero _)
  | ethCtrlWrite => exact execEthCtrlWrite_keeps (Avoids.zero _)
  | ethLinkChange => exact execEthLinkChange_keeps (Avoids.zero _)
  | ethFrameRx => exact execEthFrameRx_keeps (Avoids.zero _)
  | rateAdjWrite => exact execRateAdjWrite_keeps (Avoids.zero _)
  | timeStepWrite => exact execTimeStepWrite_keeps (Avoids.zero _)
  | restep => exact execRestep_keeps (Avoids.zero _)
  | timeModeWrite => exact execTimeModeWrite_keeps (Avoids.zero _)
  | ptpAnnounceRx => exact execPtpAnnounceRx_keeps (Avoids.zero _)
  | ptpSyncRx => exact execPtpSyncRx_keeps (Avoids.zero _)
  | ptpDelayRespRx => exact execPtpDelayRespRx_keeps (Avoids.zero _)
  | ptpDelayReqTx => exact execPtpDelayReqTx_keeps (Avoids.zero _)
  | ptpSyncTx => exact execPtpSyncTx_keeps (Avoids.zero _)
  | masterLost => exact execMasterLost_keeps (Avoids.zero _)
  | txposSample => exact execTxposSample_keeps (Avoids.zero _)
  | staPosRx => exact execStaPosRx_keeps (Avoids.zero _)
  | rxStreamPeriod => exact execRxStreamPeriod_keeps (Avoids.zero _)
  | staEventFrameSend => exact execStaEventFrameSend_keeps (Avoids.zero _)
  | staEventRx => exact execStaEventRx_keeps (Avoids.zero _)
  | deferredEventDue => exact execDeferredEventDue_keeps (Avoids.zero _)
  | staCmdRx => exact execStaCmdRx_keeps (Avoids.zero _)
  | beaconSend => exact execBeaconSend_keeps (Avoids.zero _)
  | staBeaconRx => exact execStaBeaconRx_keeps (Avoids.zero _)
  | peerTimeout => exact execPeerTimeout_keeps (Avoids.zero _)
  | grpCfgWrite => exact execGrpCfgWrite_keeps (Avoids.zero _)
  | refMeasure => exact execRefMeasure_keeps (Avoids.zero _)
  | pllUnlock => exact execPllUnlock_keeps (Avoids.zero _)
  | pllRelock => exact execPllRelock_keeps (Avoids.zero _)
  | restart => exact execRestart_keeps (Avoids.zero _)
  | restartIdleEnd => exact execRestartIdleEnd_keeps (Avoids.zero _)
  | loopWrite => exact execLoopWrite_keeps (Avoids.zero _)
  | pwrStateWrite => exact execPwrStateWrite_keeps (Avoids.zero _)
  | pwrTransitionDone => exact execPwrTransitionDone_keeps (Avoids.zero _)
  | txCoefWrite => exact execTxCoefWrite_keeps (Avoids.zero _)
  | sigDetRise => exact execSigDetRise_keeps (Avoids.zero _)
  | sigDetHold => exact execSigDetHold_keeps (Avoids.zero _)
  | sigDetFall => exact execSigDetFall_keeps (Avoids.zero _)
  | cdrLock => exact execCdrLock_keeps (Avoids.zero _)
  | adaptSettled => exact execAdaptSettled_keeps (Avoids.zero _)
  | eyeCheckDone => exact execEyeCheckDone_keeps (Avoids.zero _)
  | cdrLockLost => exact execCdrLockLost_keeps (Avoids.zero _)
  | acqTimeout => exact execAcqTimeout_keeps (Avoids.zero _)
  | warmAcqTimeout => exact execWarmAcqTimeout_keeps (Avoids.zero _)
  | freqOffsetUpdate => exact execFreqOffsetUpdate_keeps (Avoids.zero _)
  | eyeSummaryRefresh => exact execEyeSummaryRefresh_keeps (Avoids.zero _)
  | marginStart => exact execMarginStart_keeps (Avoids.zero _)
  | marginDone => exact execMarginDone_keeps (Avoids.zero _)
  | inject => exact execInject_keeps (Avoids.zero _)
  | prbsErrRead => exact execPrbsErrRead_keeps (Avoids.zero _)
  | prbsLock => exact execPrbsLock_keeps (Avoids.zero _)
  | prbsLockLost => exact execPrbsLockLost_keeps (Avoids.zero _)
  | amReceived => exact execAmReceived_keeps (Avoids.zero _)
  | amLost => exact execAmLost_keeps (Avoids.zero _)
  | codewordDecode => exact execCodewordDecode_keeps (Avoids.zero _)
  | streamRx => exact execStreamRx_keeps (Avoids.zero _)
  | rdata => exact execRdata_keeps (Avoids.zero _)
  | wack => exact execWack_keeps (Avoids.zero _)
  | msg => exact execMsg_keeps (Avoids.zero _)
  | headEvent => exact execHeadEvent_keeps (Avoids.zero _)
  | credit => exact execCredit_keeps (Avoids.zero _)
  | ctrlTimeout => exact execCtrlTimeout_keeps (Avoids.zero _)
  | creditReset => exact execCreditReset_keeps (Avoids.zero _)
  | echoRsp => exact execEchoRsp_keeps (Avoids.zero _)
  | echoReqTimer => exact execEchoReqTimer_keeps (Avoids.zero _)
  | timePosTimer => exact execTimePosTimer_keeps (Avoids.zero _)
  | hello => exact execHello_keeps (Avoids.zero _)
  | helloTimer => exact execHelloTimer_keeps (Avoids.zero _)
  | propose => exact execPropose_keeps (Avoids.zero _)
  | portStatus => exact execPortStatus_keeps (Avoids.zero _)
  | drop => exact execDrop_keeps (Avoids.zero _)
  | trigCtrlWrite => exact execTrigCtrlWrite_keeps (Avoids.zero _)
  | trigLaunch => exact execTrigLaunch_keeps (Avoids.zero _)
  | forget => exact execForget_keeps (Avoids.zero _)
  | healthPoll => exact execHealthPoll_keeps (Avoids.zero _)
  | psetWrite => exact execPsetWrite_keeps (Avoids.zero _)
  | cpGo => exact execCpGo_keeps (Avoids.zero _)
  | descEnable => exact execDescEnable_keeps (Avoids.zero _)
  | descDisable => exact execDescDisable_keeps (Avoids.zero _)
  | mfCfgWrite => exact execMfCfgWrite_keeps (Avoids.zero _)
  | flush => exact execFlush_keeps (Avoids.zero _)
  | msgRecordTake => exact execMsgRecordTake_keeps (Avoids.zero _)
  | chainFrameDone => exact execChainFrameDone_keeps (Avoids.zero _)
  | commitCtrlGo => exact execCommitCtrlGo_keeps (Avoids.zero _)
  | burstRowEdge => exact execBurstRowEdge_keeps (Avoids.zero _)
  | genRetry => exact execGenRetry_keeps (Avoids.zero _)
  | dutyWindowEnd => exact execDutyWindowEnd_keeps (Avoids.zero _)
  | diagStatusPoll => exact execDiagStatusPoll_keeps (Avoids.zero _)
  | unverified => exact execUnverified_keeps (Avoids.zero _)
  | cutClr => exact execCutClr_keeps (Avoids.zero _)
  | doseWriteback => exact execDoseWriteback_keeps (Avoids.zero _)
  | doseRetry => exact execDoseRetry_keeps (Avoids.zero _)
  | chainCfgWrite => exact execChainCfgWrite_keeps (Avoids.zero _)
  | layoutWrite => exact execLayoutWrite_keeps (Avoids.zero _)
  | segQuery => exact execSegQuery_keeps (Avoids.zero _)
  | histCfgWrite => exact execHistCfgWrite_keeps (Avoids.zero _)
  | release => exact execRelease_keeps (Avoids.zero _)
  | rawSegsWrite => exact execRawSegsWrite_keeps (Avoids.zero _)
  | markCfgWrite => exact execMarkCfgWrite_keeps (Avoids.zero _)
  | markClear => exact execMarkClear_keeps (Avoids.zero _)
  | setAt => exact execSetAt_keeps (Avoids.zero _)
  | setAtDone => exact execSetAtDone_keeps (Avoids.zero _)
  | setAhead => exact execSetAhead_keeps (Avoids.zero _)
  | scrubStep => exact execScrubStep_keeps (Avoids.zero _)
  | ctxPeek => exact execCtxPeek_keeps (Avoids.zero _)
  | hbmTrainDone => exact execHbmTrainDone_keeps (Avoids.zero _)
  | memReady => exact execMemReady_keeps (Avoids.zero _)
  | lineCondition => exact execLineCondition_keeps (Avoids.zero _)
  | condCfgWrite => exact execCondCfgWrite_keeps (Avoids.zero _)
  | load => exact execLoad_keeps (Avoids.zero _)
  | save => exact execSave_keeps (Avoids.zero _)
  | liveReset => exact execLiveReset_keeps (Avoids.zero _)
  | lutLoad => exact execLutLoad_keeps (Avoids.zero _)
  | lutSave => exact execLutSave_keeps (Avoids.zero _)
  | accum => exact execAccum_keeps (Avoids.zero _)
  | calAbort => exact execCalAbort_keeps (Avoids.zero _)
  | calCmdDone => exact execCalCmdDone_keeps (Avoids.zero _)
  | zoneClose => exact execZoneClose_keeps (Avoids.zero _)
  | lcCfgWrite => exact execLcCfgWrite_keeps (Avoids.zero _)
  | vwCtrlWrite => exact execVwCtrlWrite_keeps (Avoids.zero _)
  | plaitRowEmit => exact execPlaitRowEmit_keeps (Avoids.zero _)
  | headTimeout => exact execHeadTimeout_keeps (Avoids.zero _)
  | lateMarginPass => exact execLateMarginPass_keeps (Avoids.zero _)
  | trkWindowEnd => exact execTrkWindowEnd_keeps (Avoids.zero _)
  | loadMap => exact execLoadMap_keeps (Avoids.zero _)
  | saveMap => exact execSaveMap_keeps (Avoids.zero _)
  | saveGeom => exact execSaveGeom_keeps (Avoids.zero _)
  | loadGeom => exact execLoadGeom_keeps (Avoids.zero _)
  | trkReset => exact execTrkReset_keeps (Avoids.zero _)
  | geomAbort => exact execGeomAbort_keeps (Avoids.zero _)
  | geomCmdDone => exact execGeomCmdDone_keeps (Avoids.zero _)
  | jobLoad => exact execJobLoad_keeps (Avoids.zero _)
  | jobLoadDone => exact execJobLoadDone_keeps (Avoids.zero _)
  | jobArm => exact execJobArm_keeps (Avoids.zero _)
  | jobArmCancel => exact execJobArmCancel_keeps (Avoids.zero _)
  | jobSwitch => exact execJobSwitch_keeps (Avoids.zero _)
  | rollCmd => exact execRollCmd_keeps (Avoids.zero _)
  | bandCompare => exact execBandCompare_keeps (Avoids.zero _)
  | verdictReady => exact execVerdictReady_keeps (Avoids.zero _)
  | gateInsertResult => exact execGateInsertResult_keeps (Avoids.zero _)
  | refLearn => exact execRefLearn_keeps (Avoids.zero _)
  | refLearnAbort => exact execRefLearnAbort_keeps (Avoids.zero _)
  | learnComputeDone => exact execLearnComputeDone_keeps (Avoids.zero _)
  | ringEnable => exact execRingEnable_keeps (Avoids.zero _)
  | recordIssue => exact execRecordIssue_keeps (Avoids.zero _)
  | ringHeadDb => exact execRingHeadDb_keeps (Avoids.zero _)
  | ringIrqTimer => exact execRingIrqTimer_keeps (Avoids.zero _)
  | poolEnable => exact execPoolEnable_keeps (Avoids.zero _)
  | poolFreeDb => exact execPoolFreeDb_keeps (Avoids.zero _)
  | poolWaitExpire => exact execPoolWaitExpire_keeps (Avoids.zero _)
  | disable => exact execDisable_keeps (Avoids.zero _)
  | reclaim _ _ named => exact execReclaim_keeps (_named := named) (Avoids.zero _)
  | fbGo => exact execFbGo_keeps (Avoids.zero _)
  | fbAbort => exact execFbAbort_keeps (Avoids.zero _)
  | peerReadBack => exact execPeerReadBack_keeps (Avoids.zero _)
  | peerWindowWrite => exact execPeerWindowWrite_keeps (Avoids.zero _)
  | peerWindowRead => exact execPeerWindowRead_keeps (Avoids.zero _)
  | windowCommit => exact execWindowCommit_keeps (Avoids.zero _)
  | bar0BadRequest => exact execBar0BadRequest_keeps (Avoids.zero _)
  | configRequest => exact execConfigRequest_keeps (Avoids.zero _)
  | completionRx => exact execCompletionRx_keeps (Avoids.zero _)
  | completionTimeout => exact execCompletionTimeout_keeps (Avoids.zero _)
  | tagQuarantineEnd => exact execTagQuarantineEnd_keeps (Avoids.zero _)
  | perst => exact execPerst_keeps (Avoids.zero _)
  | hotReset => exact execHotReset_keeps (Avoids.zero _)
  | functionLevelReset => exact execFunctionLevelReset_keeps (Avoids.zero _)
  | pcieLinkChange => exact execPcieLinkChange_keeps (Avoids.zero _)
  | pmStateChange => exact execPmStateChange_keeps (Avoids.zero _)
  | l1Entry => exact execL1Entry_keeps (Avoids.zero _)
  | wakePin => exact execWakePin_keeps (Avoids.zero _)
  | dmaStart => exact execDmaStart_keeps (Avoids.zero _)
  | dmaDisable => exact execDmaDisable_keeps (Avoids.zero _)
  | dmaDrainDone => exact execDmaDrainDone_keeps (Avoids.zero _)
  | dmaDescFetched => exact execDmaDescFetched_keeps (Avoids.zero _)
  | dmaDescComplete => exact execDmaDescComplete_keeps (Avoids.zero _)
  | appendDb => exact execAppendDb_keeps (Avoids.zero _)
  | helloCmd => exact execHelloCmd_keeps (Avoids.zero _)
  | summary => exact execSummary_keeps (Avoids.zero _)
  | unitGet => exact execUnitGet_keeps (Avoids.zero _)
  | unitSetOn => exact execUnitSetOn_keeps (Avoids.zero _)
  | unitSetOff => exact execUnitSetOff_keeps (Avoids.zero _)
  | unitSetRestart => exact execUnitSetRestart_keeps (Avoids.zero _)
  | calRead => exact execCalRead_keeps (Avoids.zero _)
  | calWrite => exact execCalWrite_keeps (Avoids.zero _)
  | logRead => exact execLogRead_keeps (Avoids.zero _)
  | headInfo => exact execHeadInfo_keeps (Avoids.zero _)
  | lightInfo => exact execLightInfo_keeps (Avoids.zero _)
  | thermalRead => exact execThermalRead_keeps (Avoids.zero _)
  | thermalSet => exact execThermalSet_keeps (Avoids.zero _)
  | thermalRestart => exact execThermalRestart_keeps (Avoids.zero _)
  | powerBudgetRead => exact execPowerBudgetRead_keeps (Avoids.zero _)
  | powerBudgetSet => exact execPowerBudgetSet_keeps (Avoids.zero _)
  | selfTest => exact execSelfTest_keeps (Avoids.zero _)
  | patchInfo => exact execPatchInfo_keeps (Avoids.zero _)
  | mbCommandDone => exact execMbCommandDone_keeps (Avoids.zero _)
  | smbSetOffset => exact execSmbSetOffset_keeps (Avoids.zero _)
  | smbBlockWrite => exact execSmbBlockWrite_keeps (Avoids.zero _)
  | smbBlockRead => exact execSmbBlockRead_keeps (Avoids.zero _)
  | smbReadStatus => exact execSmbReadStatus_keeps (Avoids.zero _)
  | unitPathCheck => exact execUnitPathCheck_keeps (Avoids.zero _)
  | schedulerTick => exact execSchedulerTick_keeps (Avoids.zero _)
  | skepWatchdog => exact execSkepWatchdog_keeps (Avoids.zero _)
  | skepRestartDone => exact execSkepRestartDone_keeps (Avoids.zero _)
  | skepRestart => exact execSkepRestart_keeps (Avoids.zero _)
  | sensorSample => exact execSensorSample_keeps (Avoids.zero _)
  | stackTempRead => exact execStackTempRead_keeps (Avoids.zero _)
  | thermTrip => exact execThermTrip_keeps (Avoids.zero _)
  | pmbusPoll => exact execPmbusPoll_keeps (Avoids.zero _)
  | overBudget => exact execOverBudget_keeps (Avoids.zero _)
  | logRecordWrite => exact execLogRecordWrite_keeps (Avoids.zero _)
  | onHoursTick => exact execOnHoursTick_keeps (Avoids.zero _)
  | aonReset => exact execAonReset_keeps (Avoids.zero _)
  | corePor => exact execCorePor_keeps (Avoids.zero _)
  | supplyDrop => exact execSupplyDrop_keeps (Avoids.zero _)
  | sysReset => exact execSysReset_keeps (Avoids.zero _)
  | patchStageEnd => exact execPatchStageEnd_keeps (Avoids.zero _)
  | configRelease => exact execConfigRelease_keeps (Avoids.zero _)
  | girqStatusWrite => exact execGirqStatusWrite_keeps (Avoids.zero _)
  | girqSoft => exact execGirqSoft_keeps (Avoids.zero _)
  | indRead => exact execIndRead_keeps (Avoids.zero _)
  | indWrite => exact execIndWrite_keeps (Avoids.zero _)
  | indAccessDone => exact execIndAccessDone_keeps (Avoids.zero _)
  | perstDeassert => exact execPerstDeassert_keeps (Avoids.zero _)
  | pmeResend => exact execPmeResend_keeps (Avoids.zero _)
  | vddioGpioChange => exact execVddioGpioChange_keeps (Avoids.zero _)

/-- An event clock that passes keeps what every command keeps. -/
theorem State.keeps_tick (s : State) : Keeps s s.tick := (State.tick_keeps (.refl s) (Avoids.zero _)).keeps

/-- The queue of waiting commands has no part in the invariant. -/
theorem State.Canon.withPending {s : State} (h : s.Canon) (l : List Instr) : State.Canon { s with pending := l } :=
  ⟨h.regs, h.mem, h.mram, h.logQ, h.fifo⟩

/-- Settles O2: the dispatch gives every command a meaning, and each meaning answers a next state that keeps the invariant. -/
theorem everyCommandAnswers : Obligations.EveryCommandAnswers := fun c s => (exec_eKeeps c s).answers

/-- Settles O4, by the two cases of the step: an empty queue, and a command at its front. -/
theorem stepKeepsInvariant : Obligations.StepKeepsInvariant := by
  intro s t h
  unfold step at h
  cases hp : s.pending with
  | nil =>
    rw [hp] at h
    obtain rfl : s.tick = t := by injection h
    have hk := s.keeps_tick
    exact ⟨hk.canon, hk.pending.trans hp⟩
  | cons c cs =>
    rw [hp] at h
    obtain ⟨u, hu, hk⟩ := everyCommandAnswers c { s with pending := cs }
    obtain rfl : u = t := by injection hu.symm.trans h
    exact ⟨fun hc => hk.canon (hc.withPending cs), hk.pending⟩

end Sys2Proof.Machine
end

section
/-!
PROOF. The state that reset leaves.
-/
namespace Sys2Proof.Machine

/-- Reset lists no register, so that each reads its reset value. -/
@[simp] theorem State.reset_reg (a : Nat) : State.reset.reg a = regReset a := rfl

@[simp] theorem State.reset_fifoOf (c : Nat) : State.reset.fifoOf c = [] := rfl

/-- The MRAM as it leaves the factory stands in its canonical form. -/
theorem mramFactory_wf : Memory.wf mramFactory = true := by decide

/-- Reset meets the invariant: it lists no register and no byte of device memory, and its queues are empty. -/
theorem State.reset_canon : State.reset.Canon :=
  ⟨rfl, rfl, mramFactory_wf, Nat.zero_le _, fun c => by rw [State.reset_fifoOf]; exact Nat.zero_le _⟩

/-- CH_CFG of a channel after reset, by the owner and attribute that R107 gives it. -/
theorem regReset_SWD_CH_CFG (c : Fin 256) :
    regReset (R.SWD_CH_CFG c) = if 32 ≤ c.val ∧ c.val < 48 then 0xB else if 48 ≤ c.val ∧ c.val < 56 then 0xD else 0x1 := by
  have hc := c.isLt
  have ha : 0xA01000 ≤ R.SWD_CH_CFG c ∧ R.SWD_CH_CFG c < 0xA03000 ∧ R.SWD_CH_CFG c % 0x20 = 0 := by
    unfold R.SWD_CH_CFG
    omega
  have hn : (R.SWD_CH_CFG c - 0xA01000) / 0x20 = c := by
    unfold R.SWD_CH_CFG
    omega
  unfold regReset
  rw [if_pos ha, hn]

/-- Every channel is enabled after reset (R107). -/
theorem State.reset_on_SWD_CH_CFG_EN (c : Fin 256) : State.reset.on (R.SWD_CH_CFG_EN c) = true := by
  unfold State.on State.get
  rw [State.reset_reg, regReset_SWD_CH_CFG]
  show (bitsOf (BitVec.toNat _) 0 1 != 0) = true
  split
  · decide
  · split <;> decide

/-- Settles O5: reset lists no register, so that each field is read off its reset value. -/
theorem resetState : Obligations.ResetState :=
  ⟨State.reset_canon, rfl, rfl, rfl, fun _ => rfl, fun c => ⟨State.reset_on_SWD_CH_CFG_EN c, State.reset_fifoOf c⟩,
    by decide, by decide, by decide, by decide⟩

end Sys2Proof.Machine
end

section
/-!
PROOF. The Sward event fabric: what its operations leave in registers and FIFOs, and what its commands do (R111, R112, R120 to R125).
-/
namespace Sys2Proof.Machine

/-! ## Registers and fields -/

/-- A field of one bit is the bit. -/
theorem bitsOf_one_ne_zero (x i : Nat) : (bitsOf x i 1 != 0) = bitAt x i := by
  unfold bitsOf bitAt
  rw [Nat.pow_one]
  rcases Nat.mod_two_eq_zero_or_one (x / 2 ^ i) with h | h <;> simp [h]

/-- A flag of another register reads as before. -/
theorem State.on_set_of_ne (s : State) {f g : Fld} (v : Nat) (h : g.addr ≠ f.addr) : (s.set f v).on g = s.on g := by
  rw [State.on_eq, State.on_eq, State.get_set_of_ne s v h]

/-- A free value of one bit is 0 or 1. -/
theorem State.freeVal_one_le (s : State) : s.freeVal 1 ≤ 1 :=
  Nat.le_of_lt_succ (Config.freeBits 1 s.free).isLt

/-! ## Guards -/

@[simp] theorem State.guardViol_swd (s : State) (c who : Nat) : (s.guardViol c who).swd = s.swd := by
  unfold State.guardViol
  rw [State.log_swd, State.raise_eq, State.note_swd, State.set_swd, State.set_swd, State.set_swd]

@[simp] theorem State.guardViol_fifoOf (s : State) (c who d : Nat) : (s.guardViol c who).fifoOf d = s.fifoOf d := by
  unfold State.fifoOf
  rw [State.guardViol_swd]

/-- A guard violation touches no register but those of its flag, its record and the log. -/
theorem State.guardViol_reg (s : State) {c who a : Nat} (hs : a ≠ R.SWD_STATUS) (hv : a ≠ R.SWD_VIOL_INFO) (hp : a ≠ R.LOG_PENDING_CNT)
    (hl : a ≠ R.LOG_LOST_CNT) : (s.guardViol c who).reg a = s.reg a := by
  unfold State.guardViol
  rw [State.log_reg _ hp hl, State.raise_eq, State.note_reg, State.reg_set_of_ne _ _ hs, State.reg_set_of_ne _ _ hv,
    State.reg_set_of_ne _ _ hv]

theorem State.guardViol_on_GUARD_VIOL (s : State) (c who : Nat) : (s.guardViol c who).on R.SWD_STATUS_GUARD_VIOL = true := by
  unfold State.guardViol
  rw [State.on_eq, State.log_get _ (by decide) (by decide)]
  exact State.on_raise_self _ (by decide) (by decide)

/-- A field of the record of a guard violation, before the flag is raised and the record logged. -/
theorem State.guardViol_get_VIOL_INFO (s : State) (c who : Nat) {f : Fld} (hf : f.addr = R.SWD_VIOL_INFO) :
    (s.guardViol c who).get f = ((s.set R.SWD_VIOL_INFO_CH c).set R.SWD_VIOL_INFO_WHO who).get f := by
  unfold State.guardViol
  rw [State.log_get _ (by rw [hf]; decide) (by rw [hf]; decide), State.raise_eq, State.note_get,
    State.get_set_of_ne _ _ (by rw [hf]; decide)]

theorem State.guardViol_get_CH (s : State) (c who : Nat) : (s.guardViol c who).get R.SWD_VIOL_INFO_CH = c % 2 ^ 8 := by
  rw [s.guardViol_get_VIOL_INFO c who rfl, State.get_set_of_apart _ _ (by decide) (by decide), State.get_set_self _ _ (by decide)]

theorem State.guardViol_get_WHO (s : State) (c who : Nat) : (s.guardViol c who).get R.SWD_VIOL_INFO_WHO = who % 2 ^ 2 := by
  rw [s.guardViol_get_VIOL_INFO c who rfl, State.get_set_self _ _ (by decide)]

theorem whoCode_lt (who : Who) : whoCode who < 2 ^ 2 := by cases who <;> decide

/-- The software publishers are asynchronous producers (R111). -/
theorem not_whoProducer_lt (who : Who) : ¬ whoProducer who < 0x40 := by cases who <;> decide

/-! ## Guard windows -/

@[simp] theorem State.newWindow_reg (s : State) (c a : Nat) : (s.newWindow c).reg a = s.reg a := rfl

@[simp] theorem State.newWindow_fifoOf (s : State) (c d : Nat) : (s.newWindow c).fifoOf d = s.fifoOf d := rfl

theorem State.newWindow_window_self (s : State) (c : Nat) : Tbl.get 0 (s.newWindow c).swd.window c = 0 :=
  Tbl.get_put_self 0 s.swd.window c 0

theorem State.newWindow_window_of_ne (s : State) {c d : Nat} (h : d ≠ c) :
    Tbl.get 0 (s.newWindow c).swd.window d = Tbl.get 0 s.swd.window d :=
  Tbl.get_put_of_ne 0 0 s.swd.window 0 h

@[simp] theorem State.dropWindow_reg (s : State) (c a : Nat) : (s.dropWindow c).reg a = s.reg a := rfl

@[simp] theorem State.dropWindow_get (s : State) (c : Nat) (f : Fld) : (s.dropWindow c).get f = s.get f := rfl

theorem State.dropWindow_window_self (s : State) (c : Nat) : Tbl.get 0 (s.dropWindow c).swd.window c = 0 := s.newWindow_window_self c

/-! ## Commands -/

variable {s : State} {who : Who}

theorem exec_chCfgWrite_guard (h : s.hears who = true) (c : Fin 256) (v : Word) :
    exec (.chCfgWrite who c .guard v) s = .next
      (if s.mayConfig who c then (s.set (R.CH_GUARD_MAX c) (max 1 (bitsOf v.toNat 0 16))).dropWindow c
        else s.guardViol c (whoCode who)) :=
  congrArg Host.Outcome.next (State.viaBus_of_hears h)

theorem exec_swdPub (h : s.hears who = true) (v : Word) :
    exec (.swdPub who v) s = .next
      (if s.mayPublish who (v.toNat % 256) then s.requestPlain (v.toNat % 256) (whoProducer who) (bitsOf v.toNat 8 24)
        else s.guardViol (v.toNat % 256) (whoCode who)) := by
  have hc : bitsOf v.toNat 0 8 = v.toNat % 256 := by simp [bitsOf]
  rw [← hc]
  exact congrArg Host.Outcome.next (State.viaBus_of_hears h)

/-- The request of an asynchronous producer is on its way for one or two clocks (R111). -/
theorem State.requestPlain_async (s : State) {c p param : Nat} (hp : ¬ p < 0x40) :
    (∃ r : Req, r.channel = c ∧ r.producer = p ∧ r.param = param ∧ s.clk < r.clk ∧ r.clk ≤ s.clk + 2 ∧
      (s.requestPlain c p param).swd.inFlight = s.swd.inFlight ++ [r]) ∧
    (∀ d, (s.requestPlain c p param).fifoOf d = s.fifoOf d) ∧ (s.requestPlain c p param).regs = s.regs := by
  have hf := s.freeVal_one_le
  unfold State.requestPlain
  rw [if_neg hp]
  exact ⟨⟨_, rfl, rfl, rfl, by dsimp only; omega, by dsimp only; omega, rfl⟩, fun _ => rfl, rfl⟩

/-- Settles O8, clause by clause from what a new window, a guard violation and an asynchronous request leave. -/
theorem fabricCommands : Obligations.FabricCommands := by
  refine ⟨?_, ?_, ?_, ?_, ?_⟩
  · -- GUARD_WINDOW_END (R125)
    intro s c
    exact ⟨_, rfl, s.newWindow_window_self c, fun d hd => s.newWindow_window_of_ne hd, s.newWindow_fifoOf c, s.newWindow_reg c⟩
  · -- CH_CFG_WRITE of CH_GUARD by a requester that may configure the channel (R120, R125)
    intro s who c v hh hm
    have hmax : max 1 (bitsOf v.toNat 0 16) % 2 ^ 16 = max 1 (v.toNat % 2 ^ 16) := by
      have he : bitsOf v.toNat 0 16 = v.toNat % 2 ^ 16 := by simp [bitsOf]
      omega
    refine ⟨_, exec_chCfgWrite_guard hh c v, ?_⟩
    rw [if_pos hm]
    refine ⟨?_, State.dropWindow_window_self _ c, fun a ha => ?_⟩
    · rw [State.dropWindow_get, State.get_set_self _ _ (show 0 + 16 ≤ 32 by decide)]
      exact hmax
    · rw [State.dropWindow_reg, State.reg_set_of_ne s _ ha]
  · -- CH_CFG_WRITE of CH_GUARD by any other requester (R120, R122)
    intro s who c v hh hm
    have hc := c.isLt
    refine ⟨_, exec_chCfgWrite_guard hh c v, ?_⟩
    rw [hm, if_neg Bool.false_ne_true]
    refine ⟨s.guardViol_on_GUARD_VIOL _ _, ?_, ?_, ?_⟩
    · exact (s.guardViol_get_CH _ _).trans (Nat.mod_eq_of_lt hc)
    · exact (s.guardViol_get_WHO _ _).trans (Nat.mod_eq_of_lt (whoCode_lt who))
    · unfold State.get
      rw [s.guardViol_reg] <;> simp only [R.CH_GUARD, R.SWD_STATUS, R.SWD_VIOL_INFO, R.LOG_PENDING_CNT, R.LOG_LOST_CNT] <;> omega
  · -- SWD_PUB by a requester that may publish on the channel (R111, R123)
    intro s who v hh hm
    have hparam : bitsOf v.toNat 8 24 = v.toNat / 256 := by
      have := v.isLt
      unfold bitsOf
      omega
    refine ⟨_, exec_swdPub hh v, ?_⟩
    rw [if_pos hm, hparam]
    exact s.requestPlain_async (not_whoProducer_lt who)
  · -- SWD_PUB by any other requester (R123)
    intro s who v hh hm
    refine ⟨_, exec_swdPub hh v, ?_⟩
    rw [hm, if_neg Bool.false_ne_true]
    exact ⟨s.guardViol_on_GUARD_VIOL _ _, s.guardViol_fifoOf _ _⟩

end Sys2Proof.Machine
end

section
/-!
PROOF. Event outputs and the supplies of the GPIO pins: what drives a pin and when (R127 to R129, R753).
-/
namespace Sys2Proof.Machine

/-! ## Pins -/

/-- What reaches a pin: a pin of a bank without supply is high-impedance whatever drives it (R753). -/
theorem State.drive_eq (s : State) (p : Nat) (level : Option Bool) :
    s.drive p level = s.emit (.pin p (if Tbl.get false s.swd.bankDown (p / 16) then none else level)) := by
  unfold State.drive
  split <;> rfl

theorem State.drive_none (s : State) (p : Nat) : s.drive p none = s.emit (.pin p none) := by
  rw [State.drive_eq, ite_self]

theorem State.driveOut_eq (s : State) (k : Nat) (active : Bool) :
    s.driveOut k active = s.emit (.pin (s.get (R.OUT_CTRL_GPIO k)) (if Tbl.get false s.swd.bankDown (s.get (R.OUT_CTRL_GPIO k) / 16) then none
      else some (active != s.on (R.OUT_CTRL_POL k)))) := s.drive_eq _ _

/-- Whether a switch input watches a pin is read off the SW_CTRL registers (R129). -/
theorem State.pinWatched_congr {s t : State} (h : ∀ n, n < 32 → t.reg (R.SW_CTRL n) = s.reg (R.SW_CTRL n)) (p : Nat) :
    t.pinWatched p = s.pinWatched p := by
  unfold State.pinWatched
  rw [Bool.eq_iff_iff, List.any_eq_true, List.any_eq_true]
  refine exists_congr fun n => and_congr_right fun hn => ?_
  unfold State.on State.get
  rw [h n (List.mem_range.mp hn)]

/-! ## A write of OUT_CTRL -/

section register

variable (s : State) (k : Fin 64) (v : Word)

theorem State.get_writeReg_OUT_CTRL {lo w : Nat} (hw : lo + w ≤ 32) (h : bitsOf 0x3FF lo w = 2 ^ w - 1) :
    (s.writeReg (R.OUT_CTRL k) v).get ⟨R.OUT_CTRL k, lo, w⟩ = bitsOf v.toNat lo w :=
  s.get_writeReg_rw (f := ⟨R.OUT_CTRL k, lo, w⟩) v (regRow_OUT_CTRL k) hw h (by simp [bitsOf])

theorem State.on_writeReg_OUT_CTRL {i : Nat} (hi : i + 1 ≤ 32) (h : bitsOf 0x3FF i 1 = 2 ^ 1 - 1) :
    (s.writeReg (R.OUT_CTRL k) v).on ⟨R.OUT_CTRL k, i, 1⟩ = bitAt v.toNat i := by
  rw [State.on_eq, s.get_writeReg_OUT_CTRL k v hi h, bitsOf_one_ne_zero]

theorem State.on_OUT_CTRL_EN_writeReg : (s.writeReg (R.OUT_CTRL k) v).on (R.OUT_CTRL_EN k) = bitAt v.toNat 0 :=
  s.on_writeReg_OUT_CTRL k v (by decide) (by decide)

theorem State.get_OUT_CTRL_GPIO_writeReg : (s.writeReg (R.OUT_CTRL k) v).get (R.OUT_CTRL_GPIO k) = bitsOf v.toNat 1 6 :=
  s.get_writeReg_OUT_CTRL k v (by decide) (by decide)

theorem State.on_OUT_CTRL_POL_writeReg : (s.writeReg (R.OUT_CTRL k) v).on (R.OUT_CTRL_POL k) = bitAt v.toNat 7 :=
  s.on_writeReg_OUT_CTRL k v (by decide) (by decide)

theorem OUT_STATUS_ne_OUT_CTRL (i j : Nat) : R.OUT_STATUS i ≠ R.OUT_CTRL j := by
  unfold R.OUT_STATUS R.OUT_CTRL
  omega

theorem State.on_OUT_STATUS_LEVEL_writeReg : (s.writeReg (R.OUT_CTRL k) v).on (R.OUT_STATUS_LEVEL k) = s.on (R.OUT_STATUS_LEVEL k) := by
  rw [State.on_eq, State.on_eq, s.get_writeReg_of_ne v (OUT_STATUS_ne_OUT_CTRL k k)]

theorem State.pinWatched_writeReg_OUT_CTRL (p : Nat) : (s.writeReg (R.OUT_CTRL k) v).pinWatched p = s.pinWatched p :=
  State.pinWatched_congr (fun n _ => s.reg_writeReg_of_ne v (by unfold R.SW_CTRL R.OUT_CTRL; omega)) p

end register

/-! ## Changes of registers alone -/

theorem OnlyRegs.of_set (s : State) (f : Fld) (v : Nat) : OnlyRegs s (s.set f v) [f.addr] :=
  ⟨rfl, fun _ ha => State.reg_set_of_ne s v (List.ne_of_not_mem_cons ha)⟩

theorem OnlyRegs.andThen {s t u : State} {l : List Nat} (h : OnlyRegs s t l) (k : OnlyRegs t u l) : OnlyRegs s u l := by
  obtain ⟨ht, hr⟩ := h
  obtain ⟨hu, hq⟩ := k
  exact ⟨by rw [hu, ht], fun a ha => (hq a ha).trans (hr a ha)⟩

theorem OnlyRegs.widen {s t : State} {l m : List Nat} (h : OnlyRegs s t l) (hs : l ⊆ m) : OnlyRegs s t m :=
  ⟨h.1, fun a ha => h.2 a fun hl => ha (hs hl)⟩

/-- A change of registers alone drives nothing outward. -/
theorem OnlyRegs.outs {s t : State} {l : List Nat} (h : OnlyRegs s t l) : t.outs = s.outs := by rw [h.1]

/-! ## The command OUT_CTRL_WRITE -/

/-- Output `k` is not enabled: its pin is one that a switch input watches (R129). -/
def State.outRefuse (s : State) (k : Nat) : State :=
  ((s.clear (R.OUT_CTRL_EN k)).clear (R.OUT_STATUS_LEVEL k)).raise (R.OUT_STATUS_PIN_CONFLICT k)

theorem State.outRefuse_on_EN (s : State) (k : Nat) : (s.outRefuse k).on (R.OUT_CTRL_EN k) = false := by
  have hne := (OUT_STATUS_ne_OUT_CTRL k k).symm
  unfold State.outRefuse
  rw [State.raise_eq, State.note_on, State.on_set_of_ne _ _ hne, State.clear_eq _ (R.OUT_STATUS_LEVEL k), State.on_set_of_ne _ _ hne]
  exact s.on_clear_self (show 0 + 1 ≤ 32 by decide)

theorem State.outRefuse_on_PIN_CONFLICT (s : State) (k : Nat) : (s.outRefuse k).on (R.OUT_STATUS_PIN_CONFLICT k) = true :=
  State.on_raise_self _ (show 2 + 1 ≤ 32 by decide) Nat.one_ne_zero

theorem State.outRefuse_on_LEVEL (s : State) (k : Nat) : (s.outRefuse k).on (R.OUT_STATUS_LEVEL k) = false := by
  unfold State.outRefuse
  rw [State.raise_eq, State.note_on, State.on_eq,
    State.get_set_of_apart _ _ (show 2 + 1 ≤ 32 by decide) (.inr (.inr (show 0 + 1 ≤ 2 by decide)))]
  exact State.on_clear_self _ (show 0 + 1 ≤ 32 by decide)

theorem OnlyRegs.outRefuse (s : State) (k : Nat) : OnlyRegs s (s.outRefuse k) [R.OUT_CTRL k, R.OUT_STATUS k] := by
  have hc : OnlyRegs s (s.clear (R.OUT_CTRL_EN k)) [R.OUT_CTRL k, R.OUT_STATUS k] := (OnlyRegs.of_set s _ 0).widen (by simp)
  have hl : OnlyRegs _ ((s.clear (R.OUT_CTRL_EN k)).clear (R.OUT_STATUS_LEVEL k)) [R.OUT_CTRL k, R.OUT_STATUS k] :=
    (OnlyRegs.of_set _ _ 0).widen (by simp)
  exact (hc.andThen hl).andThen ((OnlyRegs.raise _ _).widen (by simp))

section commands

variable {s : State} {who : Who} {k : Fin 64} {v : Word}

/-- A write that enables an output: its pin is driven, unless a switch input watches the pin (R127, R129). -/
theorem exec_outCtrlWrite_enable (hh : s.hears who = true) (h0 : s.on (R.OUT_CTRL_EN k) = false) (h1 : bitAt v.toNat 0 = true) :
    exec (.outCtrlWrite who k v) s = .next
      (if s.pinWatched (bitsOf v.toNat 1 6) then (s.writeReg (R.OUT_CTRL k) v).outRefuse k
      else (s.writeReg (R.OUT_CTRL k) v).driveOut k (s.on (R.OUT_STATUS_LEVEL k))) := by
  refine congrArg Host.Outcome.next ((State.viaBus_of_hears hh).trans ?_)
  dsimp only
  rw [h0, Bool.false_and, if_neg Bool.false_ne_true, State.on_OUT_CTRL_EN_writeReg, if_pos h1, State.get_OUT_CTRL_GPIO_writeReg,
    State.pinWatched_writeReg_OUT_CTRL, State.on_OUT_STATUS_LEVEL_writeReg]
  rfl

/-- A write that disables an output: LEVEL falls and the pin is released (R127; assumption 103). -/
theorem exec_outCtrlWrite_disable (hh : s.hears who = true) (h0 : s.on (R.OUT_CTRL_EN k) = true) (h1 : bitAt v.toNat 0 = false) :
    exec (.outCtrlWrite who k v) s = .next
      (((s.writeReg (R.OUT_CTRL k) v).clear (R.OUT_STATUS_LEVEL k)).emit (.pin (s.get (R.OUT_CTRL_GPIO k)) none)) := by
  have hen : (s.writeReg (R.OUT_CTRL k) v).on (R.OUT_CTRL_EN k) = false := (s.on_OUT_CTRL_EN_writeReg k v).trans h1
  refine congrArg Host.Outcome.next ((State.viaBus_of_hears hh).trans ?_)
  dsimp only
  rw [h0, hen, Bool.not_false, Bool.true_or, Bool.and_self, if_pos rfl, State.drive_none, State.emit_on, State.clear_eq,
    State.on_set_of_ne _ _ (OUT_STATUS_ne_OUT_CTRL k k).symm, hen, if_neg Bool.false_ne_true]

end commands

/-! ## The supplies of the banks -/

theorem Avoids.of_land {m k : Nat} (h : m &&& k = 0) : Avoids m k := h

@[simp] theorem State.swd_dropReqs (s : State) (c n : Nat) : (s.dropReqs c n).swd = s.swd :=
  (State.dropReqs_keeps (parts := 2 ^ 7) (.refl s) (.of_land (by decide))).same .fabric rfl

theorem State.request_bankDown (s : State) (r : Req) : (s.request r).swd.bankDown = s.swd.bankDown := by
  unfold State.request
  dsimp only
  split
  · rw [State.swd_dropReqs]
    rfl
  · rw [State.swd_dropReqs]

theorem State.requestPlain_bankDown (s : State) (c p x : Nat) : (s.requestPlain c p x).swd.bankDown = s.swd.bankDown := by
  unfold State.requestPlain
  split
  · exact s.request_bankDown _
  · rfl

/-- No publication changes the supply of a bank. -/
theorem State.publish_bankDown (s : State) (f : Sel) (p x : Nat) : (s.publish f p x).swd.bankDown = s.swd.bankDown := by
  unfold State.publish State.publishOn
  split
  · rfl
  · split
    · rw [State.guardViol_swd]
    · exact s.requestPlain_bankDown _ _ _

theorem State.swAccept_bankDown (s : State) (k : Nat) (level : Bool) : (s.swAccept k level).swd.bankDown = s.swd.bankDown := by
  unfold State.swAccept
  dsimp only
  rw [apply_ite State.swd, apply_ite Sward.bankDown, State.publish_bankDown, ite_self]
  rfl

theorem State.swChange_bankDown (s : State) (k : Nat) (level : Bool) : (s.swChange k level).swd.bankDown = s.swd.bankDown := by
  unfold State.swChange
  dsimp only
  split
  · split
    · split
      · exact State.swAccept_bankDown _ _ _
      · rfl
    · rfl
  · rfl

theorem State.swChange_outs (s : State) (k : Nat) (level : Bool) : (s.swChange k level).outs = s.outs :=
  (State.swChange_keeps (parts := 2 ^ 30) (.refl s) (.of_land (by decide))).same .outs rfl

theorem State.encBank_within (s : State) : Within (2 ^ 3 + 2 ^ 7) s s.encBank :=
  State.encBank_keeps (.refl s) (.of_land (by decide))

/-! ### The steps of VDDIO_GPIO_CHANGE -/

/-- The supply of a bank is noted. -/
def State.noteBank (s : State) (b : Nat) (up : Bool) : State :=
  { s with swd := { s.swd with bankDown := Tbl.put false s.swd.bankDown b (!up) } }

/-- The encoder inputs, on bank 0, follow its supply. -/
def State.bankInputs (s : State) (b : Nat) : State := if b = 0 then s.encBank else s

/-- Output `k` drives its pin anew if the pin is of bank `b` (R753). -/
def State.bankDrive (s : State) (b k : Nat) : State :=
  if s.on (R.OUT_CTRL_EN k) && s.get (R.OUT_CTRL_GPIO k) / 16 == b then s.driveOut k (s.on (R.OUT_STATUS_LEVEL k)) else s

/-- Switch input `k` sees the level at its pin anew if the pin is of bank `b` (R753). -/
def State.bankSwitch (s : State) (b k : Nat) : State :=
  if s.get (R.SW_CTRL_GPIO k) / 16 = b then s.swChange k (s.swLevel k (Tbl.get false s.swd.pinIn (s.get (R.SW_CTRL_GPIO k)))) else s

/-- VDDIO_GPIO_CHANGE by its steps; a bank whose supply does not change is left as it is. -/
theorem exec_vddioGpioChange (s : State) (b : Fin 4) (up : Bool) :
    exec (.vddioGpioChange b up) s = .next
      (if Tbl.get false s.swd.bankDown b = !up then s
      else (((s.noteBank b up).bankInputs b).forEach 64 fun k s => s.bankDrive b k).forEach 32 fun k s => s.bankSwitch b k) := rfl

/-- While bank `b` loses its supply or has it again, up to the switch inputs: no register has changed, and what has been driven outward
stays. -/
structure BankChange (b : Nat) (up : Bool) (s t : State) : Prop where
  regs : t.regs = s.regs
  down : Tbl.get false t.swd.bankDown b = !up
  outs : s.outs <+: t.outs

section bank

variable {b k : Nat} {up : Bool} {s t : State}

theorem State.noteBank_change (s : State) (b : Nat) (up : Bool) : BankChange b up s (s.noteBank b up) :=
  ⟨rfl, Tbl.get_put_self false s.swd.bankDown b (!up), List.prefix_rfl⟩

theorem BankChange.bankInputs (h : BankChange b up s t) : BankChange b up s (t.bankInputs b) := by
  unfold State.bankInputs
  split
  · have hw := t.encBank_within
    have hregs : t.encBank.regs = t.regs := (hw.same .regs rfl).1
    have hswd : t.encBank.swd = t.swd := hw.same .fabric rfl
    exact ⟨hregs.trans h.regs, by rw [hswd, h.down], h.outs.trans hw.keeps.outs⟩
  · exact h

theorem BankChange.get (h : BankChange b up s t) (f : Fld) : t.get f = s.get f := by
  unfold State.get State.reg
  rw [h.regs]

theorem BankChange.on (h : BankChange b up s t) (f : Fld) : t.on f = s.on f := by
  rw [State.on_eq, State.on_eq, h.get]

theorem State.bankDrive_outs (s : State) (b k : Nat) : s.outs <+: (s.bankDrive b k).outs := by
  unfold State.bankDrive
  split
  · rw [State.driveOut_eq]
    exact List.prefix_append _ _
  · exact List.prefix_rfl

theorem BankChange.bankDrive (h : BankChange b up s t) (k : Nat) : BankChange b up s (t.bankDrive b k) := by
  unfold State.bankDrive
  split
  · rw [State.driveOut_eq]
    exact ⟨h.regs, h.down, h.outs.trans (List.prefix_append _ _)⟩
  · exact h

/-- An enabled output on a pin of a bank without supply releases it (R753). -/
theorem BankChange.bankDrive_releases (h : BankChange b false s t) (he : s.on (R.OUT_CTRL_EN k) = true)
    (hg : s.get (R.OUT_CTRL_GPIO k) / 16 = b) :
    (t.bankDrive b k).outs = t.outs ++ [.pin (s.get (R.OUT_CTRL_GPIO k)) none] := by
  unfold State.bankDrive
  rw [h.on, h.get, he, hg, beq_self_eq_true, Bool.and_self, if_pos rfl, State.driveOut_eq, h.get, hg, h.down]
  rfl

theorem State.bankSwitch_same (s : State) (b k : Nat) : (s.bankSwitch b k).swd.bankDown = s.swd.bankDown ∧ (s.bankSwitch b k).outs = s.outs := by
  unfold State.bankSwitch
  split
  · exact ⟨State.swChange_bankDown _ _ _, State.swChange_outs _ _ _⟩
  · exact ⟨rfl, rfl⟩

/-- The switch inputs drive nothing and change no supply. -/
theorem State.bankSwitches_same (s : State) (b n : Nat) :
    (s.forEach n fun k s => s.bankSwitch b k).swd.bankDown = s.swd.bankDown ∧ (s.forEach n fun k s => s.bankSwitch b k).outs = s.outs :=
  State.forEach_inv (P := fun t => t.swd.bankDown = s.swd.bankDown ∧ t.outs = s.outs) ⟨rfl, rfl⟩ fun k _ t ⟨hd, ho⟩ =>
    ⟨(t.bankSwitch_same b k).1.trans hd, (t.bankSwitch_same b k).2.trans ho⟩

/-- What is driven after a state stays so as more is driven. -/
theorem mem_drop_of_isPrefix {o : Out} {l m : List Out} {n : Nat} (h : o ∈ l.drop n) (hp : l <+: m) : o ∈ m.drop n := by
  obtain ⟨r, rfl⟩ := hp
  rw [List.drop_append]
  exact List.mem_append_left _ h

/-- Of the outputs that drive a bank's pins anew, each enabled one releases its pin. -/
theorem BankChange.bankDrives_release (h : BankChange b false s t) (hk : k < 64) (he : s.on (R.OUT_CTRL_EN k) = true)
    (hg : s.get (R.OUT_CTRL_GPIO k) / 16 = b) :
    Out.pin (s.get (R.OUT_CTRL_GPIO k)) none ∈ (t.forEach 64 fun k s => s.bankDrive b k).outs.drop s.outs.length := by
  refine State.forEach_at (P := BankChange b false s) (Q := fun u => Out.pin (s.get (R.OUT_CTRL_GPIO k)) none ∈ u.outs.drop s.outs.length)
    hk h (fun i _ u hu => hu.bankDrive i) (fun u hu => ?_) (fun i _ _ u hu => mem_drop_of_isPrefix hu (u.bankDrive_outs b i))
  rw [hu.bankDrive_releases he hg, List.drop_append_of_le_length hu.outs.length_le]
  exact List.mem_append_right _ (List.mem_singleton_self _)

end bank

/-! ## The statement -/

/-- Settles O14, clause by clause from the lemma that says which state each command leaves. -/
theorem outputCommands : Obligations.OutputCommands := by
  refine ⟨?_, ?_, ?_, ?_, ?_, ?_, ?_⟩
  · -- OUT_PULSE_END of a pulse that runs (R128)
    intro s k hl
    have hne := OUT_STATUS_ne_OUT_CTRL k k
    refine ⟨_, congrArg Host.Outcome.next ((if_pos hl).trans (State.driveOut_eq _ _ _)), ?_, fun a ha => ?_, ?_⟩
    · rw [State.emit_on, State.on_clear_self s (show 0 + 1 ≤ 32 by decide)]
    · rw [State.emit_reg, State.clear_eq, State.reg_set_of_ne s _ ha]
    · rw [State.clear_eq, State.get_set_of_ne s _ hne.symm, State.on_set_of_ne s _ hne.symm, Bool.false_bne]
      rfl
  · -- OUT_PULSE_END without a pulse
    intro s k hl
    exact ⟨s, congrArg Host.Outcome.next (if_neg (by rw [hl]; decide)), rfl⟩
  · -- OUT_CTRL_WRITE that enables an output (R127)
    intro s who k v hh h0 h1 hw
    refine ⟨_, exec_outCtrlWrite_enable hh h0 h1, ?_⟩
    rw [hw, if_neg Bool.false_ne_true, State.driveOut_eq, State.get_OUT_CTRL_GPIO_writeReg, State.on_OUT_CTRL_POL_writeReg,
      State.writeReg_swd]
    refine ⟨(s.on_OUT_CTRL_EN_writeReg k v).trans h1, s.get_OUT_CTRL_GPIO_writeReg k v, s.on_OUT_CTRL_POL_writeReg k v,
      s.on_writeReg_OUT_CTRL k v (by decide) (by decide), s.on_writeReg_OUT_CTRL k v (by decide) (by decide),
      fun a ha => s.reg_writeReg_of_ne v ha, ?_⟩
    exact congrArg (· ++ _) (OnlyRegs.writeReg s _ v).outs
  · -- OUT_CTRL_WRITE that would enable an output on a pin that a switch input watches (R129)
    intro s who k v hh h0 h1 hw
    refine ⟨_, exec_outCtrlWrite_enable hh h0 h1, ?_⟩
    rw [if_pos hw]
    have hregs := ((OnlyRegs.writeReg s (R.OUT_CTRL k) v).widen (by simp)).andThen (OnlyRegs.outRefuse _ k)
    exact ⟨State.outRefuse_on_EN _ k, State.outRefuse_on_PIN_CONFLICT _ k, State.outRefuse_on_LEVEL _ k, hregs.outs, hregs⟩
  · -- OUT_CTRL_WRITE that disables an output (R127; assumption 103)
    intro s who k v hh h0 h1
    have hne := OUT_STATUS_ne_OUT_CTRL k k
    refine ⟨_, exec_outCtrlWrite_disable hh h0 h1, ?_, ?_, congrArg (· ++ _) (OnlyRegs.writeReg s _ v).outs, fun a hc hs => ?_⟩
    · rw [State.emit_on, State.clear_eq, State.on_set_of_ne _ _ hne.symm, State.on_OUT_CTRL_EN_writeReg, h1]
    · rw [State.emit_on, State.on_clear_self _ (show 0 + 1 ≤ 32 by decide)]
    · rw [State.emit_reg, State.clear_eq, State.reg_set_of_ne _ _ hs, s.reg_writeReg_of_ne v hc]
  · -- VDDIO_GPIO_CHANGE: the supply of the bank (R753)
    intro s b up
    refine ⟨_, exec_vddioGpioChange s b up, ?_⟩
    split
    · assumption
    · have h := State.forEach_inv (n := 64) (s.noteBank_change b up).bankInputs fun k _ t ht => ht.bankDrive k
      rw [(State.bankSwitches_same _ _ _).1]
      exact h.down
  · -- VDDIO_GPIO_CHANGE: the pins of a bank that loses its supply (R753)
    intro s b hb
    refine ⟨_, exec_vddioGpioChange s b false, fun k he hg => ?_⟩
    rw [if_neg (by rw [hb]; decide), (State.bankSwitches_same _ _ _).2]
    exact (s.noteBank_change b false).bankInputs.bankDrives_release k.isLt he hg

end Sys2Proof.Machine
end
